-- ==== Sys2Proof/Word.lean ====
section
/-!
DEFINITION. Sys2Proof/Word.lean: the word types of the model.  All multi-byte values of the module are
little-endian (R10); the byte order itself is decided in `Machine/Ops.lean`.
-/
namespace Sys2Proof

/-- One byte. -/
abbrev Byte := BitVec 8
/-- A 16-bit value. -/
abbrev Half := BitVec 16
/-- A 32-bit value: one vector lane, one AB word, one 32-bit register. -/
abbrev W32 := BitVec 32
/-- A 64-bit value: one S or P register, one 64-bit register. -/
abbrev W64 := BitVec 64

end Sys2Proof
end

