-- ==== Sys2Proof/Syntax.lean ====
section
/-!
DEFINITION. Sys2Proof/Syntax.lean: the commands of the block, one constructor of `Instr` per row of the table of
operations and events, with the operands each row carries.
-/
namespace Sys2Proof

/-- The six engines of a core in the order of their queues and priorities (R34, R47). -/
inductive Engine where
  | su | me | ve | sf | ce | cp
  deriving DecidableEq, Repr

/-- The element types of R63. -/
inductive ETy where
  | fp32 | bf16 | fp16 | e4m3 | e5m2 | int8 | int4 | int32
  deriving DecidableEq, Repr

/-- Format S operands, bits [69:0] of the word (R61). -/
structure OpS where
  rd : BitVec 5 := 0
  ra : BitVec 5 := 0
  rb : BitVec 5 := 0
  pa : Bool := false
  pb : Bool := false
  cond : BitVec 3 := 0
  sz : BitVec 2 := 0
  imm : BitVec 48 := 0
  deriving DecidableEq, Repr

/-- Format V operands (R61). -/
structure OpV where
  vd : BitVec 5 := 0
  va : BitVec 5 := 0
  vb : BitVec 5 := 0
  vc : BitVec 5 := 0
  mskEn : Bool := false
  msk : BitVec 3 := 0
  mz : Bool := false
  type : BitVec 4 := 0
  rnd : BitVec 3 := 0
  sat : Bool := false
  bs : Bool := false
  type2 : BitVec 4 := 0
  vl : BitVec 10 := 0
  fx : BitVec 22 := 0
  deriving DecidableEq, Repr

/-- Format M operands (R61); `rsv` holds the reserved bits [25] and [21:0]. -/
structure OpM where
  sa : BitVec 5 := 0
  sn : BitVec 5 := 0
  sz : BitVec 5 := 0
  abr : BitVec 12 := 0
  afmt : BitVec 4 := 0
  wfmt : BitVec 4 := 0
  acc : Bool := false
  seg : Bool := false
  sp24 : Bool := false
  zskip : Bool := false
  chain : BitVec 5 := 0
  psel : BitVec 3 := 0
  rsv : BitVec 23 := 0
  deriving DecidableEq, Repr

/-- Format D operands (R61). -/
structure OpD where
  sd : BitVec 5 := 0
  ss : BitVec 5 := 0
  so : BitVec 5 := 0
  sx : BitVec 5 := 0
  mode : BitVec 4 := 0
  psel : BitVec 4 := 0
  fx : BitVec 42 := 0
  deriving DecidableEq, Repr

/-- The operands of an instruction in the format of its group (R57). -/
inductive Args where
  | none
  | s (o : OpS)
  | v (o : OpV)
  | m (o : OpM)
  | d (o : OpD)
  deriving DecidableEq, Repr

/-- Which core and stream issues the instruction, and its sync word, bits [127:80] (R31). Native mode uses stream 0. -/
structure Ctl where
  core : Fin 72
  stream : Fin 6 := 0
  sync : BitVec 48 := 0
  deriving DecidableEq, Repr

/-- The operations of the core's instruction word: GROUP and FUNC (R56, R57). -/
inductive CoreOp where
  | nop
  | b
  | bcc
  | call
  | ret
  | loop
  | loopi
  | halt
  | engineNop (group : BitVec 4)
  | sadd
  | ssub
  | smul
  | sand
  | sor
  | sxor
  | sshl
  | sshr
  | ssra
  | smin
  | smax
  | scmp
  | smovi
  | smovhi
  | saddi
  | sfadd
  | sfmul
  | sffma
  | sfmin
  | sfmax
  | sfcvt
  | sld
  | sst
  | sflag
  | skadd
  | skrd
  | sid
  | sstat
  | svget
  | mloads
  | mswap
  | mprod
  | msegt
  | mcsum
  | mabclr
  | vadd
  | vsub
  | vmul
  | vfma
  | vfms
  | vmin
  | vmax
  | vabs
  | vneg
  | vcmp
  | vsel
  | vand
  | vor
  | vxor
  | vshl
  | vshr
  | vmov
  | vcvt
  | vrng
  | sparsify
  | vld
  | vst
  | vldw
  | vldab
  | vstab
  | vperm
  | vslide
  | vbcast
  | vred
  | vscan
  | vseq
  | vlut
  | twr
  | tswap
  | vchld
  | vzmap
  | vcsr
  | vmset
  | ffun
  | fstat
  | fstrd
  | fstclr
  | ccopy
  | ctrans
  | cfill
  | cabout
  | cpbkt
  | cpsig
  | cpput
  | cpacc
  | cpgath
  deriving DecidableEq, Repr

/-- The 10-bit opcode [79:70]: GROUP and FUNC (R59). -/
def CoreOp.code : CoreOp → BitVec 10
  | .nop => 0x000
  | .b => 0x001
  | .bcc => 0x002
  | .call => 0x003
  | .ret => 0x004
  | .loop => 0x005
  | .loopi => 0x006
  | .halt => 0x007
  | .engineNop g => g ++ (0x3F : BitVec 6)
  | .sadd => 0x040
  | .ssub => 0x041
  | .smul => 0x042
  | .sand => 0x043
  | .sor => 0x044
  | .sxor => 0x045
  | .sshl => 0x046
  | .sshr => 0x047
  | .ssra => 0x048
  | .smin => 0x049
  | .smax => 0x04A
  | .scmp => 0x04B
  | .smovi => 0x04C
  | .smovhi => 0x04D
  | .saddi => 0x04E
  | .sfadd => 0x050
  | .sfmul => 0x051
  | .sffma => 0x052
  | .sfmin => 0x053
  | .sfmax => 0x054
  | .sfcvt => 0x055
  | .sld => 0x080
  | .sst => 0x081
  | .sflag => 0x082
  | .skadd => 0x083
  | .skrd => 0x084
  | .sid => 0x085
  | .sstat => 0x086
  | .svget => 0x087
  | .mloads => 0x100
  | .mswap => 0x101
  | .mprod => 0x102
  | .msegt => 0x103
  | .mcsum => 0x104
  | .mabclr => 0x105
  | .vadd => 0x140
  | .vsub => 0x141
  | .vmul => 0x142
  | .vfma => 0x143
  | .vfms => 0x144
  | .vmin => 0x145
  | .vmax => 0x146
  | .vabs => 0x147
  | .vneg => 0x148
  | .vcmp => 0x149
  | .vsel => 0x14A
  | .vand => 0x14B
  | .vor => 0x14C
  | .vxor => 0x14D
  | .vshl => 0x14E
  | .vshr => 0x14F
  | .vmov => 0x150
  | .vcvt => 0x151
  | .vrng => 0x152
  | .sparsify => 0x153
  | .vld => 0x180
  | .vst => 0x181
  | .vldw => 0x182
  | .vldab => 0x183
  | .vstab => 0x184
  | .vperm => 0x185
  | .vslide => 0x186
  | .vbcast => 0x187
  | .vred => 0x188
  | .vscan => 0x189
  | .vseq => 0x18A
  | .vlut => 0x18B
  | .twr => 0x18C
  | .tswap => 0x18D
  | .vchld => 0x18E
  | .vzmap => 0x18F
  | .vcsr => 0x190
  | .vmset => 0x191
  | .ffun => 0x1C0
  | .fstat => 0x1C1
  | .fstrd => 0x1C2
  | .fstclr => 0x1C3
  | .ccopy => 0x200
  | .ctrans => 0x201
  | .cfill => 0x202
  | .cabout => 0x203
  | .cpbkt => 0x240
  | .cpsig => 0x241
  | .cpput => 0x242
  | .cpacc => 0x243
  | .cpgath => 0x244

/-! ## Operands of the other rows -/

/-- A fabric transaction (R331): header fields, byte enables of a WRITE, and data. -/
structure Txn where
  ttype : BitVec 4
  vc : BitVec 2 := 0
  be : Bool := false
  dst : BitVec 16 := 0
  src : BitVec 16 := 0
  tag : BitVec 14 := 0
  tepoch : BitVec 2 := 0
  len : BitVec 7 := 1
  addr : BitVec 48 := 0
  hops : BitVec 7 := 0
  enables : BitVec 128 := 0
  data : List Byte := []
  deriving DecidableEq, Repr

/-- A flit (R321): the header and the 31 slots. -/
structure Flit where
  ftype : BitVec 4 := 0
  seq : BitVec 12 := 0
  ack : BitVec 12 := 0
  ackv : Bool := false
  nak : Bool := false
  cret : Vector (BitVec 12) 4 := Vector.replicate 4 0
  slots : List (BitVec 128) := []
  deriving DecidableEq, Repr

/-- What comes with a flit as the FEC decoder gives it: how many symbols arrived wrong on each lane of the codeword that begins within
the flit, where one does (R319), and the CRC that came with it. -/
structure FlitRx where
  wrong : Vector Nat 4 := Vector.replicate 4 0
  crc : W32 := 0
  deriving DecidableEq, Repr

/-- A cell of the boundary register (R458): the transmitter or receiver of a lane of PCIe, of lane 4n + l of the fabric ports and of
Ethernet, the reference clock, and the low-speed signals and straps of R463. -/
inductive BoundaryCell where
  | pet (lane : Nat)
  | per (lane : Nat)
  | zTx (lane : Nat)
  | zRx (lane : Nat)
  | ethTx
  | ethRx
  | refclk
  | perstN
  | i3cScl
  | i3cSda
  | pwrEn
  | faultN
  | obsD (i : Nat)
  | obsClk
  | oscDly (i : Nat)
  | i3cSa (i : Nat)
  deriving DecidableEq, Repr

/-- The cells in the order of a scan, lowest first (DESIGN CHOICE, log 147: R458 gives no order). -/
def boundaryCells : List BoundaryCell :=
  (List.range 16).map .pet ++ (List.range 16).map .per ++ (List.range 64).map .zTx ++ (List.range 64).map .zRx ++
  [.ethTx, .ethRx, .refclk, .perstN, .i3cScl, .i3cSda, .pwrEn, .faultN] ++ (List.range 16).map .obsD ++ [.obsClk] ++
  (List.range 3).map .oscDly ++ (List.range 3).map .i3cSa

def boundaryLen : Nat := boundaryCells.length

/-- Whether a cell drives its pin: those of inputs, of the reference clock and of the straps only observe (R458). -/
def BoundaryCell.drives : BoundaryCell → Bool
  | .pet _ | .zTx _ | .ethTx | .i3cSda | .faultN | .obsD _ | .obsClk => true
  | _ => false

/-- What a CTRL flit carries (R329): the sender's identifier, port number and role, and the free units of each virtual channel of its
receive buffer. -/
structure FarEnd where
  id : BitVec 16 := 0
  port : BitVec 4 := 0
  role : BitVec 4 := 0
  units : Vector (BitVec 12) 4 := Vector.replicate 4 0
  deriving DecidableEq, Repr

/-- Who makes a configuration write (R436): the host through BAR0, the management ports, and the Curator and the
Conservator on their own. -/
inductive Writer where
  | bar0
  | i3c
  | eth
  | curator
  | conservator
  deriving DecidableEq, Repr

/-- How the host completes a read of its memory (R300): data, or Unsupported Request, Completer Abort or poison. -/
inductive HostData where
  | ok (data : List Byte)
  | unsupported
  | abort
  | poison
  deriving DecidableEq, Repr

/-- The commands. The rows of the core's instruction set stand for an instruction that the front end has fetched and
now reaches issue with (log 2); every other row is an access from outside or an event. -/
inductive Instr where
  | nop (c : Ctl) (o : OpS)
  | b (c : Ctl) (o : OpS)
  | bcc (c : Ctl) (o : OpS)
  | call (c : Ctl) (o : OpS)
  | ret (c : Ctl) (o : OpS)
  | loop (c : Ctl) (o : OpS)
  | loopi (c : Ctl) (o : OpS)
  | halt (c : Ctl) (o : OpS)
  | engineNop (c : Ctl) (group : BitVec 4)
  | sadd (c : Ctl) (o : OpS)
  | ssub (c : Ctl) (o : OpS)
  | smul (c : Ctl) (o : OpS)
  | sand (c : Ctl) (o : OpS)
  | sor (c : Ctl) (o : OpS)
  | sxor (c : Ctl) (o : OpS)
  | sshl (c : Ctl) (o : OpS)
  | sshr (c : Ctl) (o : OpS)
  | ssra (c : Ctl) (o : OpS)
  | smin (c : Ctl) (o : OpS)
  | smax (c : Ctl) (o : OpS)
  | scmp (c : Ctl) (o : OpS)
  | smovi (c : Ctl) (o : OpS)
  | smovhi (c : Ctl) (o : OpS)
  | saddi (c : Ctl) (o : OpS)
  | sfadd (c : Ctl) (o : OpS)
  | sfmul (c : Ctl) (o : OpS)
  | sffma (c : Ctl) (o : OpS)
  | sfmin (c : Ctl) (o : OpS)
  | sfmax (c : Ctl) (o : OpS)
  | sfcvt (c : Ctl) (o : OpS)
  | sld (c : Ctl) (o : OpS)
  | sst (c : Ctl) (o : OpS)
  | sflag (c : Ctl) (o : OpS)
  | skadd (c : Ctl) (o : OpS)
  | skrd (c : Ctl) (o : OpS)
  | sid (c : Ctl) (o : OpS)
  | sstat (c : Ctl) (o : OpS)
  | svget (c : Ctl) (o : OpS)
  | mloads (c : Ctl) (o : OpM)
  | mswap (c : Ctl) (o : OpM)
  | mprod (c : Ctl) (o : OpM)
  | msegt (c : Ctl) (o : OpM)
  | mcsum (c : Ctl) (o : OpM)
  | mabclr (c : Ctl) (o : OpM)
  | vadd (c : Ctl) (o : OpV)
  | vsub (c : Ctl) (o : OpV)
  | vmul (c : Ctl) (o : OpV)
  | vfma (c : Ctl) (o : OpV)
  | vfms (c : Ctl) (o : OpV)
  | vmin (c : Ctl) (o : OpV)
  | vmax (c : Ctl) (o : OpV)
  | vabs (c : Ctl) (o : OpV)
  | vneg (c : Ctl) (o : OpV)
  | vcmp (c : Ctl) (o : OpV)
  | vsel (c : Ctl) (o : OpV)
  | vand (c : Ctl) (o : OpV)
  | vor (c : Ctl) (o : OpV)
  | vxor (c : Ctl) (o : OpV)
  | vshl (c : Ctl) (o : OpV)
  | vshr (c : Ctl) (o : OpV)
  | vmov (c : Ctl) (o : OpV)
  | vcvt (c : Ctl) (o : OpV)
  | vrng (c : Ctl) (o : OpV)
  | sparsify (c : Ctl) (o : OpV)
  | vld (c : Ctl) (o : OpV)
  | vst (c : Ctl) (o : OpV)
  | vldw (c : Ctl) (o : OpV)
  | vldab (c : Ctl) (o : OpV)
  | vstab (c : Ctl) (o : OpV)
  | vperm (c : Ctl) (o : OpV)
  | vslide (c : Ctl) (o : OpV)
  | vbcast (c : Ctl) (o : OpV)
  | vred (c : Ctl) (o : OpV)
  | vscan (c : Ctl) (o : OpV)
  | vseq (c : Ctl) (o : OpV)
  | vlut (c : Ctl) (o : OpV)
  | twr (c : Ctl) (o : OpV)
  | tswap (c : Ctl) (o : OpV)
  | vchld (c : Ctl) (o : OpV)
  | vzmap (c : Ctl) (o : OpV)
  | vcsr (c : Ctl) (o : OpD)
  | vmset (c : Ctl) (o : OpV)
  | ffun (c : Ctl) (o : OpV)
  | fstat (c : Ctl) (o : OpV)
  | fstrd (c : Ctl) (o : OpV)
  | fstclr (c : Ctl) (o : OpV)
  | ccopy (c : Ctl) (o : OpD)
  | ctrans (c : Ctl) (o : OpD)
  | cfill (c : Ctl) (o : OpD)
  | cabout (c : Ctl) (o : OpD)
  | cpbkt (c : Ctl) (o : OpD)
  | cpsig (c : Ctl) (o : OpD)
  | cpput (c : Ctl) (o : OpD)
  | cpacc (c : Ctl) (o : OpD)
  | cpgath (c : Ctl) (o : OpD)
  /-- CHAIN_GROUP (R180) -/
  | chainGroup (p : Fin 72)
  /-- PRONK_RAMP_DOWN (R105) -/
  | pronkRampDown (p : Fin 72)
  /-- PRONK_GATE (R105) -/
  | pronkGate (p : Fin 72)
  /-- WAIT_SATISFIED (R32) -/
  | waitSatisfied (p : Fin 72) (g : Engine)
  /-- INSTRUCTION_RELEASE (R35) -/
  | instructionRelease (p : Fin 72) (g : Engine)
  /-- INSTRUCTION_COMPLETE (R35) -/
  | instructionComplete (p : Fin 72) (g : Engine)
  /-- E_CORE_WAIT_TIMEOUT (R38) -/
  | waitTimeout (p : Fin 72) (g : Engine)
  /-- CORE_FINISHED (R30) -/
  | coreFinished (p : Fin 72)
  /-- DISPATCH_STOP (R50) -/
  | dispatchStop (tag : W32)
  /-- COR_RETIRE (R52) -/
  | corRetire (w : Writer) (v : W32)
  /-- RETIREMENT_TAKES_EFFECT (R53) -/
  | retirementTakesEffect
  /-- RESEED (R147) -/
  | reseed (w : Writer) (p : Fin 72) (v : W32)
  /-- RESEED_AT_IDLE (R147) -/
  | reseedAtIdle (p : Fin 72)
  /-- FREE_RUNNING_STEP (R146) -/
  | freeRunningStep
  /-- HANDOVER (R225) -/
  | handover (w : Writer) (n : Fin 64) (v : W64)
  /-- HANDOVER_WIPE_DONE (R227) -/
  | handoverWipeDone (n : Fin 64)
  /-- SWIZZLE_WRITE (R219) -/
  | swizzleWrite (w : Writer) (n : Fin 64) (v : W32)
  /-- PATROL_SCRUB (R224) -/
  | patrolScrub
  /-- LAY_DTAB_WRITE (R247) -/
  | layDtabWrite (w : Writer) (v : W64)
  /-- REGISTER (R242) -/
  | ringRegister (ring : Nat) (index : W32)
  /-- FREE (R243) -/
  | ringFree (ring : Nat) (index : W32)
  /-- FREE_COMPLETE (R243) -/
  | freeComplete (entry : Nat)
  /-- DESC_CREATE (R252) -/
  | descCreate (ring : Nat) (index : W32)
  /-- DESC_DESTROY (R248) -/
  | descDestroy (ring : Nat) (index : W32)
  /-- UPLOAD_IMAGE (R304) -/
  | uploadImage (ring : Nat) (index : W32)
  /-- RUN_PROGRAM (R42) -/
  | runProgram (ring : Nat) (index : W32)
  /-- COPY (R306) -/
  | ringCopy (ring : Nat) (index : W32)
  /-- COPY_IN (R306) -/
  | copyIn (ring : Nat) (index : W32)
  /-- COPY_OUT (R306) -/
  | copyOut (ring : Nat) (index : W32)
  /-- ABORT (R312) -/
  | ringAbort (ring : Nat) (index : W32)
  /-- RING_NOP (R303) -/
  | ringNop (ring : Nat) (index : W32)
  /-- COMMAND_DONE (R308) -/
  | commandDone (ring : Nat) (index : W32)
  /-- ITR_EXPIRE (R311) -/
  | itrExpire (vector : Nat)
  /-- DOORBELL (R287, R288, R296): an access of BAR2, a read where there is no value; `poison` marks a poisoned TLP -/
  | doorbell (off size : Nat) (value : Option W64) (poison : Bool)
  /-- ENTRY_FETCH (R297) -/
  | entryFetch (ring : Nat)
  /-- HOST_COMPLETION (R300) -/
  | hostCompletion (id : Nat) (d : HostData)
  /-- E_HOST_CPL_TIMEOUT (R292) -/
  | hostTimeout (id : Nat)
  /-- ENABLE (R295) -/
  | ringEnable (w : Writer) (v : W32)
  /-- DISABLE (R295) -/
  | ringDisable (w : Writer) (v : W32)
  /-- RING_DISABLED (R295) -/
  | ringDisabled (ring : Nat)
  /-- BAR0_READ (R14) -/
  | bar0Read (off size : Nat)
  /-- CONFIG_WRITE (R16, R287): `poison` marks a poisoned TLP of the host -/
  | configWrite (w : Writer) (off size : Nat) (v : W64) (poison : Bool)
  /-- BAR4_READ (R290) -/
  | bar4Read (x len : Nat)
  /-- BAR4_WRITE (R290) -/
  | bar4Write (x : Nat) (bytes : List (Option Byte)) (poison : Bool)
  /-- COMPLETION_TIMEOUT_VALUE_WRITE (R292) -/
  | completionTimeoutValueWrite (field : BitVec 4)
  /-- FLR (R293) -/
  | flr
  /-- TAG_WAIT_EXPIRE (R293) -/
  | tagWaitExpire
  /-- PERST_N_ASSERT (R417) -/
  | perstAssert
  /-- D3HOT (R407) -/
  | d3hot
  /-- D0_RETURN (R410) -/
  | d0Return
  /-- L1_EXIT (R410) -/
  | l1Exit
  /-- DOE_DISCOVERY (R430) -/
  | doeDiscovery (index : Byte)
  /-- REFRESH_RATE_UPDATE (R275) -/
  | refreshRateUpdate (k : Fin 48) (code : Byte) (limit : Bool)
  /-- MEM_CLOCK_LOST (R278) -/
  | memClockLost
  /-- MEM_CLOCK_RETURN (R278) -/
  | memClockReturn (long : Bool)
  /-- REINIT (R278) -/
  | reinit (w : Writer) (k : Fin 48) (v : W32)
  /-- REINIT_DONE (R278) -/
  | reinitDone (k : Fin 48)
  /-- MEM_RETIRE (R279) -/
  | memRetire (w : Writer) (v : W32)
  /-- ACCUMULATOR_OP (R283) -/
  | accumulatorOp
  /-- DATA_FLIT (R325) -/
  | dataFlit (i : Fin 16) (f : Flit) (rx : FlitRx)
  /-- NULL_FLIT (R323) -/
  | nullFlit (i : Fin 16) (f : Flit) (rx : FlitRx)
  /-- CTRL_FLIT (R329) -/
  | ctrlFlit (i : Fin 16) (hdr : Flit) (rx : FlitRx) (far : FarEnd)
  /-- NAK_RESEND (R325) -/
  | nakResend (i : Fin 16)
  /-- ACK_STALL (R326) -/
  | ackStall (i : Fin 16)
  /-- CODEWORD_LOCK_LOST (R326) -/
  | codewordLockLost (i : Fin 16)
  /-- LANE_FAIL (R339) -/
  | laneFail (i : Fin 16) (lane : Fin 4)
  /-- TRAINING_ATTEMPT (R320) -/
  | trainingAttempt (i : Fin 16) (done : Bool) (good : BitVec 4)
  /-- RETRAIN_TIMEOUT (R320) -/
  | retrainTimeout (i : Fin 16)
  /-- DOWN_RETRY (R320) -/
  | downRetry (i : Fin 16)
  /-- PORT_RESET (R320) -/
  | portReset (w : Writer) (i : Fin 16) (v : W32)
  /-- ROLE_WRITE (R340) -/
  | roleWrite (w : Writer) (i : Fin 16) (v : W32)
  /-- FILL (R335) -/
  | fill (w : Writer) (v : W32)
  /-- ROUTE (R336) -/
  | route (i : Fin 16)
  /-- WRITE (R333) -/
  | write (t : Txn)
  /-- READ (R333) -/
  | read (t : Txn)
  /-- ACC (R354) -/
  | acc (t : Txn)
  /-- SIGNAL (R37) -/
  | signal (t : Txn)
  /-- STEP_TRAILER (R361) -/
  | stepTrailer (t : Txn)
  /-- GATHER_DONE (R365) -/
  | gatherDone (t : Txn)
  /-- LOAN_COMMIT (R383) -/
  | loanCommit (t : Txn)
  /-- ACK (R353) -/
  | ack (t : Txn)
  /-- READ_DATA (R332) -/
  | readData (t : Txn)
  /-- ERROR (R353) -/
  | errorResponse (t : Txn)
  /-- E_ZMZ_RESP_TIMEOUT (R333) -/
  | respTimeout (tag : BitVec 14)
  /-- RETRY_RESEND (R353) -/
  | retryResend
  /-- E_COL_TIMEOUT (R373) -/
  | colTimeout
  /-- PLAN_LOAD (R349) -/
  | planLoad (w : Writer) (v : W32)
  /-- PLAN_UNLOAD (R349) -/
  | planUnload (w : Writer) (v : W32)
  /-- SYNT_LOCK (R341) -/
  | syntLock (offset : BitVec 16)
  /-- E_ZMZ_SYNT_LOST (R342) -/
  | syntLost (offset : BitVec 16)
  /-- SYNT_HOLDOVER_EXPIRE (R342) -/
  | syntHoldoverExpire
  /-- D06_SOURCE_LOST (R343) -/
  | d06SourceLost
  /-- TIME_EXCHANGE_START (R344) -/
  | timeExchangeStart
  /-- TIME_REQ (R344) -/
  | timeReq (i : Fin 16) (hdr : Flit) (rx : FlitRx) (num : BitVec 16)
  /-- TIME_RESP (R344) -/
  | timeResp (i : Fin 16) (hdr : Flit) (rx : FlitRx) (num : BitVec 16) (t2 t3 : BitVec 96)
  /-- RISK_UPDATE (R378) -/
  | riskUpdate
  /-- SNAPSHOT_COMPLETE (R384) -/
  | snapshotComplete (media : Bool)
  /-- RESTORE (R386) -/
  | annexRestore (w : Writer) (v : W64)
  /-- ERASE (R386) -/
  | annexErase (w : Writer) (v : W64)
  /-- ANNEX_COMMAND_DONE (R386) -/
  | annexCommandDone (bad : Option Nat)
  /-- POWER_ON (R418) -/
  | powerOn (oscDly i3cSa : BitVec 3)
  /-- OSC_DELAY_EXPIRE (R402) -/
  | oscDelayExpire (localOk refclk : Bool)
  /-- COMPUTE_READY (R418) -/
  | computeReady
  /-- PWR_EN_FALL (R469) -/
  | pwrEnFall
  /-- REQ_RUN (R410) -/
  | reqRun (w : Writer)
  /-- REQ_SLEEP (R407) -/
  | reqSleep (w : Writer)
  /-- REQ_DEEP (R407) -/
  | reqDeep (w : Writer)
  /-- REQ_OFF (R469) -/
  | reqOff (w : Writer)
  /-- POWER_STATE_ENTERED (R408) -/
  | powerStateEntered
  /-- WAKE_COMPLETE (R409) -/
  | wakeComplete
  /-- E_PWR_UV_WARN (R412) -/
  | uvWarn (mV : Nat)
  /-- E_PWR_UNDERVOLT (R413) -/
  | undervolt (mV : Nat)
  /-- INPUT_OVERVOLTAGE (R412) -/
  | inputOvervoltage
  /-- INPUT_OVERCURRENT (R412) -/
  | inputOvercurrent
  /-- E_PWR_RAIL (R413) -/
  | railFault (rail kind : Nat)
  /-- JUNCTION_SAMPLE (R416) -/
  | junctionSample (t : Vector Byte 16)
  /-- CAP_CHECK (R414) -/
  | capCheck (peakW sustW : Nat)
  /-- DUTY_RAISE (R414) -/
  | dutyRaise (peakW sustW : Nat)
  /-- E_PWR_DROOP (R415) -/
  | droop (region : Fin 16)
  /-- E_CLK_SRC_LOST (R405) -/
  | clkSrcLost (source : Fin 10)
  /-- CLOCK_SOURCE_RETURN (R405) -/
  | clockSourceReturn
  /-- ALWAYS_ON_LOSS (R470) -/
  | alwaysOnLoss
  /-- WARM (R417) -/
  | warm (w : Writer)
  /-- QUEUE (R419) -/
  | queueReset (w : Writer) (core : BitVec 7)
  /-- RECOVER (R428) -/
  | fwRecover (w : Writer) (len4k : BitVec 12)
  /-- UPDATE (R428) -/
  | fwUpdate (w : Writer) (len4k : BitVec 12)
  /-- LIFECYCLE_TRANSITION (R433) -/
  | lifecycle (w : Writer) (target : BitVec 3)
  /-- UNRETIRE_CORE (R435) -/
  | unretireCore (w : Writer) (index : BitVec 7)
  /-- UNRETIRE_CTRL (R435) -/
  | unretireCtrl (w : Writer) (index : BitVec 7)
  /-- E_CUR_TAMPER (R434) -/
  | tamper (sensor : Fin 4)
  /-- WIPE_DONE (R238) -/
  | wipeDone
  /-- GET_VERSION (R430) -/
  | getVersion (ok : Bool)
  /-- GET_CAPABILITIES (R430) -/
  | getCapabilities (ok : Bool)
  /-- NEGOTIATE_ALGORITHMS (R430) -/
  | negotiateAlgorithms (ok : Bool)
  /-- GET_DIGESTS (R430) -/
  | getDigests (ok : Bool)
  /-- GET_CERTIFICATE (R430) -/
  | getCertificate (ok : Bool) (slot : Nat)
  /-- CHALLENGE (R430) -/
  | challenge (ok : Bool) (slot : Nat)
  /-- GET_MEASUREMENTS (R431) -/
  | getMeasurements (ok : Bool) (indices : List Nat) (signed : Bool)
  /-- READ_4 (R441) -/
  | read4 (eth : Bool) (num off : W32)
  /-- READ_8 (R441) -/
  | read8 (eth : Bool) (num off : W32)
  /-- WRITE_4 (R441, R442): `src` is the source address of an Ethernet frame -/
  | write4 (eth : Bool) (num off : W32) (v : W32) (src : BitVec 48)
  /-- WRITE_8 (R441, R442): `src` is the source address of an Ethernet frame -/
  | write8 (eth : Bool) (num off : W32) (v : W64) (src : BitVec 48)
  /-- READ_CHANGE_LOG_RECORD (R441) -/
  | readChangeLogRecord (eth : Bool) (num seq : W32)
  /-- MGMT_HOLD_TIMEOUT (R441) -/
  | mgmtHoldTimeout (eth : Bool)
  /-- ENEC (R439) -/
  | enec
  /-- DISEC (R439) -/
  | disec
  /-- RSTDAA (R439) -/
  | rstdaa
  /-- ENTDAA (R439) -/
  | entdaa (addr : BitVec 7)
  /-- SETDASA (R439) -/
  | setdasa (static addr : BitVec 7)
  /-- GETPID (R439) -/
  | getpid
  /-- GETBCR (R439) -/
  | getbcr
  /-- GETDCR (R439) -/
  | getdcr
  /-- GETSTATUS (R439) -/
  | getstatus
  /-- GETMXDS (R439) -/
  | getmxds
  /-- RSTACT (R439) -/
  | rstact (action : Byte)
  /-- SYNC (R445) -/
  | ptpSync (domain : Byte) (source : W64) (rx : BitVec 96) (t1 : Option (BitVec 96))
  /-- FOLLOW_UP (R445) -/
  | ptpFollowUp (domain : Byte) (source : W64) (t1 : BitVec 96)
  /-- DELAY_RESP (R445) -/
  | ptpDelayResp (domain : Byte) (source : W64) (t3 t4 : BitVec 96)
  /-- ANNOUNCE (R445) -/
  | ptpAnnounce (domain : Byte) (source : W64) (better : Bool)
  /-- TIME_HOLDOVER (R446) -/
  | timeHoldover
  /-- TIME_VALID_EXPIRE (R446) -/
  | timeValidExpire
  /-- TELEMETRY_SNAPSHOT (R447) -/
  | telemetrySnapshot
  /-- ERR_MSG_INTERVAL_EXPIRE (R398) -/
  | errMsgIntervalExpire (path : Fin 3)
  /-- SNAP (R454) -/
  | pmcSnap (w : Writer) (v : W32)
  /-- CLEAR (R454) -/
  | pmcClear (w : Writer) (v : W32)
  /-- PMC_INSTANT (R454) -/
  | pmcInstant
  /-- OBS_SELECT (R456) -/
  | obsSelect (w : Writer) (v : W32)
  /-- TAP_RESET (R458) -/
  | tapReset
  /-- IDCODE (R458) -/
  | jtagIdcode
  /-- SAMPLE_PRELOAD (R458) -/
  | jtagSample (cells : List Bool)
  /-- EXTEST (R459): the bits shifted into the boundary register -/
  | jtagExtest (cells : List Bool)
  /-- CLAMP (R459) -/
  | jtagClamp
  /-- HIGHZ (R459) -/
  | jtagHighz
  /-- EXTEST_PULSE (R459): the bits shifted into the boundary register -/
  | jtagExtestPulse (cells : List Bool)
  /-- EXTEST_TRAIN (R459): the bits shifted into the boundary register -/
  | jtagExtestTrain (cells : List Bool)
  /-- DBG_ACCESS (R458) -/
  | jtagDbgAccess (off : BitVec 26)
  /-- BYPASS (R458) -/
  | jtagBypass (opcode : Byte)
  /-- PERST_N_DEASSERT (R418) -/
  | perstDeassert (width rate : Nat) (flit : Bool)
  /-- RESIZABLE_BAR_CONTROL_WRITE (R289) -/
  | resizableBarControlWrite (sizeLog2 : Nat)
  /-- FLR_COMPLETE (R293) -/
  | flrComplete
  /-- D06_SLEW_COMPLETE (R342) -/
  | d06SlewComplete
  /-- DROOP_RECOVERY (R415) -/
  | droopRecovery (region : Fin 16)
  /-- TILWEN_TEST_ACCESS (R432) -/
  | tilwenTestAccess
  /-- BOOT_FLASH_WRITE_DONE (R428) -/
  | bootFlashWriteDone (readBackOk : Bool)
  deriving DecidableEq, Repr

end Sys2Proof
end

