-- ==== Sys2Proof/Decode.lean ====
section
/-!
DEFINITION. Sys2Proof/Decode.lean: commands from the bits of the table.  The table of this block gives its rows no bits, so no word
spells a command.
-/
namespace Sys2Proof

/-- The command that a word of `nbits` bits spells by the table: none, since no row has bits. -/
def decodeTableWord (_nbits _w : Nat) : Option Instr := none

end Sys2Proof
end

