-- ==== Sys2Proof/Config.lean ====
section
/-!
DEFINITION. Sys2Proof/Config.lean: what the spec leaves open, as constants without a body.
A statement about one of them holds whatever it is.
-/
namespace Sys2Proof.Config

/-- The free values (UNVERIFIED, log 5): draw number `n` of everything that the spec leaves open and that the
machine goes on from. `State.free` counts the draws. -/
opaque freeValue : Nat → BitVec 64

/-- What the polynomial of a segment gives, by function code and FP32 input (R152, R158, R479): the manual does not tabulate the
polynomials.  The model takes it where R153 to R156 allow it (log 5). -/
opaque ffunInternal : Nat → BitVec 32 → BitVec 32

/-- Structure and entry of E_CORE_STATE_ECC as DETAIL shows them, by structure (0 S, 1 P, 2 V, 3 M, 4 a queue, 5 the instruction
buffer) and entry: the manual does not number them (R47, log 41). -/
opaque stateEccDetail : Nat → Nat → BitVec 32

/-- Which of two values a place holds where the spec says it holds one of them and not which. -/
opaque freeChoice : Nat → Bool

/-- The slot area of a CTRL flit, from the identifier, port number, role and free units that it carries: R329 names them and gives no
places (UNVERIFIED, log 32). -/
opaque ctrlSlots : BitVec 16 → BitVec 4 → BitVec 4 → List (BitVec 12) → List (BitVec 128)

/-- Whether a signature over a byte string verifies under a public key: the spec names the algorithm only. -/
opaque verifies : List Byte → List Byte → List Byte → Bool

/-- Whether a token's signature verifies under the production key (R432). -/
opaque tokenVerifies : List Byte → List Byte → Bool

/-- The signature bytes that the ML-DSA-87 key of a seed gives over a byte string (R429, R430). -/
opaque signature : List Byte → List Byte → List Byte

/-- The firmware image that the boot flash holds when the model starts (R4, R425): the spec gives its form, not its
bytes. -/
opaque bootImage : List Byte

/-- Key digests of the one-time record, by KEY_KIND (R425, R426). -/
opaque keyDigest : Nat → BitVec 512

/-- The boot ROM's bytes (R429, R431). -/
opaque bootRom : List Byte

/-- The registrar firmware within a firmware body (R426, R431): the spec does not give its place. -/
opaque registrarFirmware : List Byte → List Byte

/-- The unique device secret that the one-time record holds from MANUFACTURE on: 64 bytes (R429). -/
opaque uds : List Byte

/-- The public key of an ML-DSA-87 seed (R429). -/
opaque publicKey : List Byte → List Byte

/-- Tilwen's root, the Perilath CA's certificate and that of the DeviceID, as the non-volatile record holds them (R429, R430). -/
opaque certificates : List Byte

/-- The certificate of a public key that the key of a seed signs (R429). -/
opaque certificate : List Byte → List Byte → List Byte

/-- Whether a development key passes check 2 in BLANK: R426 says that it does not, the table of R432 that it does (log 46). -/
opaque blankDevKey : Bool

/-- What an I3C common command reads that the spec names and does not give: 0 GETPID's manufacturer part, 1 GETBCR,
2 GETDCR, 3 GETSTATUS, 4 GETMXDS (R439). -/
opaque i3cBytes : Nat → List Byte

/-- The Ethernet port's MAC address (R450, 'Per record'). -/
opaque ethMac : BitVec 48

/-- The levels of the pins that a boundary scan captures, by draw (R458): they come from outside the model. -/
opaque pinLevels : Nat → List Bool

end Sys2Proof.Config
end

