-- ==== Sys2Proof/Machine/State.lean ====
section
/-!
DEFINITION. Sys2Proof/Machine/State.lean: everything the spec gives the module, as plain data, and the state after
power-on reset.  Sparse fields are lists of (key, value) pairs in one canonical form: keys strictly rising, no entry
equal to what an unlisted key reads as.
-/
namespace Sys2Proof.Machine

/-- No command of this block ends in a fault of the MODEL: every error of the spec is an effect on State (a fault
record, a status bit, a completion record).  The one constructor names what a meaning would raise on a state the
spec does not allow; no meaning raises it.  Safe: the machine stops where the hardware might go on. -/
inductive Fault where
  | outsideSpec
  deriving DecidableEq, Repr

/-- Why a step has no meaning: `notModelled` is raised by an arm of `exec` that has none yet (none is left).
Safe: the machine stops. -/
inductive Refusal where
  | notModelled (mnemonic : String)
  deriving DecidableEq, Repr

/-! ## One core (R22) -/

/-- An active hardware loop: body from `start` to `last` inclusive, and how many passes are left (R67). -/
structure LoopFrame where
  start : W64
  last : W64
  count : W64
  deriving DecidableEq, Repr

/-- The sequencer of one stream: native mode has stream 0 only, PL12 up to six (R45). -/
structure Stream where
  active : Bool := false
  halted : Bool := false
  pc : W32 := 0
  rets : List W32 := []
  loops : List LoopFrame := []
  deriving DecidableEq, Repr

/-- An instruction in an engine queue, with every operand that is read at issue (R25, R32).
`a b c d` are the register operands of its format in field order. -/
structure Entry where
  op : CoreOp
  args : Args
  sync : BitVec 48
  a : W64 := 0
  b : W64 := 0
  c : W64 := 0
  d : W64 := 0
  thr : BitVec 16 := 0
  pc : W32 := 0
  stream : Fin 6 := 0
  destS : Option (BitVec 5) := none
  /-- Folio copies that were active at its issue (R82), its place in issue order, and whether its waits are satisfied. -/
  sel : BitVec 2 := 0
  seq : Nat := 0
  armed : Bool := false
  /-- It met a handover bank whose wipe runs, and waits for the wipe's end (R227). -/
  held : Bool := false
  deriving DecidableEq, Repr

/-- A started instruction that has not completed: whether its release has happened (R35), the sticky bits that its
completion sets (R134, R263), the inventory entries it uses (R244) and what its completion records (R214). -/
structure Inflight where
  e : Entry
  released : Bool := false
  /-- Its signals have been delivered, or it has none (R28). -/
  signalled : Bool := false
  /-- It completed as it started, and waits for the instructions before it (R28, R58, R91). -/
  done : Bool := false
  sticky : BitVec 16 := 0
  uses : List Nat := []
  /-- COR_VE_CSR_LAST of a VCSR. -/
  csrLast : Option W64 := none
  /-- What it has written: lanes of V registers with the bits that it writes and their values, AB words, bytes of the address space (R49,
  R130). -/
  outV : List (Nat × W32 × W32) := []
  outAb : List Nat := []
  outMem : List Nat := []
  deriving DecidableEq, Repr

/-- The fault record COR_FREC_0 to COR_FREC_3 (R48). -/
structure FaultRec where
  valid : Bool := false
  engine : BitVec 3 := 0
  replaced : Bool := false
  code : BitVec 16 := 0
  stream : BitVec 8 := 0
  detail : W32 := 0
  pc : W64 := 0
  timeNs : W64 := 0
  tag : W32 := 0
  more : W32 := 0
  deriving DecidableEq, Repr

/-- A stationary or shadow set: its columns of weights in logical-row order, a dropped 2:4 position holding zero and
INT4 widened to INT8 (R92, R199, R477), and its column sums (R95). -/
structure MatSet where
  valid : Bool := false
  sp24 : Bool := false
  wfmt : BitVec 4 := 0
  preload : Bool := false
  entry : BitVec 8 := 0
  src : BitVec 48 := 0
  cols : List (List W32) := []
  sums : List W32 := []
  deriving DecidableEq, Repr

/-- A row-statistics entry (R160), with the PMAX that R178 gives it. KIND: 0 empty, 1 moments, 2 log-sum-exp. -/
structure RowStat where
  max : W32 := 0xFF800000
  sum : W32 := 0
  mean : W32 := 0
  m2 : W32 := 0
  count : W32 := 0
  kind : BitVec 2 := 0
  pmax : W32 := 0xFF800000
  deriving DecidableEq, Repr

/-- A validated chain program in a slot (R171 to R174) and its band: EI, the rows of the band's first product
(R182 subcode 4) and the partial zero marks that are already non-zero (R184). -/
structure ChainProg where
  pro : Nat
  epi : Nat
  eTiles : Nat
  statBase : Nat
  pstatBase : Nat
  holdRows : Nat
  holdLen : Nat
  holdBase : Nat
  pinFmt : BitVec 4
  einFmt : BitVec 4
  opnds : List (W64 × W64)
  stages : List (W64 × W64)
  ei : Nat := 0
  bandRows : Nat := 0
  zbad : List (Nat × Bool) := []
  deriving DecidableEq, Repr

/-- One output row on its way to an epilogue: its words, its segment's TAG and its set's column sums (R101). -/
structure ChainRow where
  data : List W32
  tag : BitVec 16
  csum : List W32
  deriving DecidableEq, Repr

/-- A running product's epilogue: the rows that no group has taken yet, from row `next` on (R180). -/
structure ChainRun where
  slot : Nat
  ei : Nat
  n : Nat
  abr : Nat
  next : Nat
  rows : List ChainRow
  pc : W32
  stream : Fin 6
  sel : BitVec 2
  /-- The product's place in issue order. -/
  seq : Nat
  deriving DecidableEq, Repr

/-- The matrix engine of a core: the two sets and the segment table (R96 to R100). -/
structure MatState where
  stat : MatSet := {}
  shad : MatSet := {}
  segt : List (W64 × W64) := []
  cursor : Nat := 0
  /-- The present gap of R105: 0 not past PRONK_MAX, 1 ramp-down, 2 gated. -/
  pronk : BitVec 2 := 0
  /-- COR_ME_PRONK as it stood when the present gap began (R106). -/
  gapCtl : W64 := 0x80000100
  deriving DecidableEq, Repr

/-- A place of a core that a code protects (R6, R47, R108, R109, R149, R160): an S, private S, P or M register, a lane of a V register,
a queue entry by its place in issue order, a line of the instruction buffer, a set and its column sums (of the shadow where true), a
segment-table entry, a 64-bit pair of AB words, an entry of a folio table by table and physical copy, a lane generator, a
row-statistics entry. -/
inductive Place where
  | s (r : Nat)
  | ps (i : Nat)
  | p (r : Nat)
  | v (i : Nat)
  | m (r : Nat)
  | queue (seq : Nat)
  | ibuf (line : Nat)
  | set (shadow : Bool)
  | sums (shadow : Bool)
  | segt (i : Nat)
  | ab (pair : Nat)
  | tbl (i : Nat)
  | gen (g : Nat)
  | rstat (i : Nat)
  deriving DecidableEq, Repr

/-- One physical core (R22). Sparse fields: `v` by register × 512 + lane, `ab` by row × 64 + column, `tbl` by
table × 512 + copy × 256 + entry, `gen` by generator (an unlisted generator g holds free value `seedBase` + g, R147),
`rstat` and `slots` by index, `l1` most recently used first.
`copySel` has the active physical copy of each folio table, `issueSel` the same for the next instruction to issue. `ecc` lists the places that hold an
uncorrectable error and `ecc1` those that hold a correctable one; `l1Err` has the lines of the L1 that hold an error, true for one that its code corrects (R235). `loading` is LOADING of
RUNSTATE as far as the model tells it from RUNNING (R43, log 109). `outV`, `outAb` and `outMem` have what the instruction that starts
has written so far. -/
structure Core where
  s : Vector W64 32
  ps : Vector W64 96
  p : Vector W64 16
  v : List (Nat × W32)
  m : Vector (BitVec 512) 8
  f : W32
  k : Vector (BitVec 16) 16
  ab : List (Nat × W32)
  sticky : Vector (BitVec 16) 6
  runstate : BitVec 3
  pl12 : Bool
  tag : W32
  ncores : BitVec 16
  dindex : BitVec 16
  extent : W32
  streams : Vector Stream 6
  queues : Vector (List Entry) 6
  inflight : Vector (List Inflight) 6
  extSig : Bool
  frec : FaultRec
  mat : MatState
  tbl : List (Nat × W32)
  copySel : BitVec 2
  issueSel : BitVec 2
  seq : Nat
  gen : List (Nat × W64)
  seedBase : Nat
  reseedPending : Bool
  /-- MODE of COR_VE_GEN_CTL as the last dispatch took it: free-running (R146, R148). -/
  freeRun : Bool
  rstat : List (Nat × RowStat)
  slots : List (Nat × ChainProg)
  runs : List ChainRun
  l1 : List (Nat × BitVec 512)
  l1Err : List (Nat × Bool)
  /-- The lines of the code region that the instruction buffer holds, by offset / 128, with their bytes: at most 128 (R28). -/
  ibuf : List (Nat × List Byte)
  ecc : List Place
  ecc1 : List Place
  loading : Bool
  /-- The stream that the front end of a PL12 program takes next (R46). -/
  rr : Nat
  outV : List (Nat × W32 × W32)
  outAb : List Nat
  outMem : List Nat
  deriving DecidableEq, Repr

/-- Role of a physical core (COR_PMAP): 0 enabled, 1 spare, 2 retired in service, 3 failed at test; its logical index
when enabled. -/
structure CoreMapEntry where
  role : BitVec 2
  logical : BitVec 6
  deriving DecidableEq, Repr

/-! ## Inventory and descriptors (R241 to R249) -/

/-- An inventory entry. KIND as R241. -/
structure InvEntry where
  base : W64 := 0
  size : W64 := 0
  gen : BitVec 16 := 1
  kind : BitVec 3 := 0
  wr : Bool := false
  users : W32 := 0
  freeing : Bool := false
  deriving DecidableEq, Repr

/-- A descriptor slot: SGEN, whether a descriptor exists, and the record that creation validated. -/
structure DescSlot where
  sgen : BitVec 12 := 1
  live : Bool := false
  record : List Byte := []
  deriving DecidableEq, Repr

/-- The layout service. `dtab` is the Table entry's handle, 0 for none. -/
structure LayState where
  inv : List (Nat × InvEntry)
  dtab : W32 := 0
  slots : Nat := 0
  dtabRefused : Bool := false
  descs : List (Nat × DescSlot) := []
  deriving DecidableEq, Repr

/-! ## Host interface (R287 to R313) -/

/-- How the answer of a bus access ends. -/
inductive BusStatus where
  | success
  | unsupported
  | abort
  deriving DecidableEq, Repr

/-- What the module sends out, newest last in `State.out` (the model's own record of it, log 7). -/
inductive Msg where
  /-- An MSI-X message to a vector (R311). -/
  | msix (vector : Nat)
  /-- A posted write to host memory. -/
  | hostWrite (addr : W64) (data : List Byte) (relaxed : Bool)
  /-- A read request for host memory, by the number that its completion names. -/
  | hostRead (id : Nat) (addr : W64) (len : Nat)
  /-- The answer of a BAR read. -/
  | reply (status : BusStatus) (data : List Byte)
  /-- The answer to a request of a management port, by request number (R441); an I3C one waits in `I3c.response`. -/
  | ethReply (num : W32) (data : List Byte)
  /-- What an I3C common command reads (R439). -/
  | i3cData (data : List Byte)
  /-- An SPDM or DOE answer (R430): the request's kind and what the answer carries; an ERROR response. -/
  | spdm (kind : Nat) (data : List Byte)
  | spdmError (kind : Nat)
  | doe (index : Byte) (data : List Byte)
  /-- A PTP Delay_Req (R445). -/
  | delayReq
  /-- The bits that a JTAG scan reads (R458). -/
  | jtag (ir : Byte) (data : List Bool)
  /-- The levels to which the boundary cells that drive a pin drive it, in their order; none where every driver is off (R458, R459). -/
  | pins (levels : List Bool)
  /-- An I3C in-band interrupt (R442). -/
  | ibi (payload : BitVec 16)
  /-- A flit of a port; its CRC is that of R322. -/
  | flit (port : Fin 16) (f : Flit)
  /-- A management frame with OP 0x20 (R442). -/
  | ethAlert (dest : BitVec 48) (summary : W32) (timeNs : W64)
  deriving DecidableEq, Repr

/-- A ring's context and indices (R294, R296). STATE: 0 DISABLED, 1 ENABLED, 2 ERROR, 3 DRAINING. -/
structure Ring where
  state : BitVec 3 := 0
  cached : Bool := false
  pi : W32 := 0
  fi : W32 := 0
  cpi : W32 := 0
  cci : W32 := 0
  ringBase : W64 := 0
  cqBase : W64 := 0
  ciWb : W64 := 0
  log2 : BitVec 8 := 0
  irqEn : Bool := false
  vector : BitVec 16 := 0
  itr : BitVec 16 := 0
  deriving DecidableEq, Repr

/-- The state word of a fetched command (R308, R312). `finished` is DONE with the record not yet written. -/
inductive CmdState where
  | fetched
  | running
  | stopping
  | aborting
  | finished
  deriving DecidableEq, Repr

/-- A fetched command and what its completion record will hold (R301, R307). -/
structure Cmd where
  ring : Nat
  index : W32
  entry : List Byte
  state : CmdState := .fetched
  status : BitVec 8 := 0
  nonfinite : Bool := false
  more : Bool := false
  code : BitVec 16 := 0
  detail : W32 := 0
  result : W32 := 0
  progress : W64 := 0
  /-- An ABORT whose record follows its target's. -/
  after : Option (Nat × W32) := none
  /-- CRC of an upload's first pass (R304). -/
  crc : W64 := 0
  /-- The view of a copy that waits for host data: its record and handle (R257); the inventory entries in use (R244). -/
  record : List Byte := []
  uses : List Nat := []
  deriving DecidableEq, Repr

/-- The user of a host read that is outstanding (R292, R300). -/
inductive HostUse where
  | context (ring : Nat)
  /-- The context of an uncached ring, with the doorbells that wait for it in order (R296). -/
  | miss (ring : Nat) (doorbells : List (W64 × Bool × Bool))
  | entries (ring : Nat) (first : W32) (n : Nat)
  | command (ring : Nat) (index : W32) (pass : Nat)
  | firmware
  | token
  deriving DecidableEq, Repr

/-- A read of host memory for one use: how many of its bytes have been asked for, and what has arrived, by offset. -/
structure HostRead where
  id : Nat
  use : HostUse
  addr : W64
  len : Nat
  asked : Nat := 0
  got : List (Nat × List Byte) := []
  deriving DecidableEq, Repr

/-- An outstanding non-posted request (R287, R292): the number that its completion names, and the part of the read that it asks for. -/
structure HostReq where
  id : Nat
  read : Nat
  addr : W64
  off : Nat
  len : Nat
  deriving DecidableEq, Repr

/-- An unfinished dispatch (R42, R50): its physical cores by dispatch index, and how it is ending. -/
structure Dispatch where
  tag : W32
  ring : Nat
  index : W32
  image : Nat
  cores : List (Fin 72)
  finished : List (Fin 72) := []
  stopping : Bool := false
  aborted : Bool := false
  /-- It has finished or stopped on every core; its completion record is not yet written (R52). -/
  done : Bool := false
  nonfinite : Bool := false
  deriving DecidableEq, Repr

/-- The upload that an Image entry holds (R41): the generation at upload and the image's header. -/
structure Image where
  gen : BitVec 16
  header : List Byte
  deriving DecidableEq, Repr

/-- The message interval of a path of R398 and R442: running, and a request merged into its end. -/
structure MsgPath where
  running : Bool := false
  merged : Bool := false
  deriving DecidableEq, Repr

structure HostState where
  rings : List (Nat × Ring) := []
  ctxOp : Option (Bool × Nat) := none
  cmds : List Cmd := []
  marks : List (Nat × W32) := []
  reads : List HostRead := []
  reqs : List HostReq := []
  nextId : Nat := 0
  /-- Configuration space: the codes of Max Payload Size and Max Read Request Size in Device Control, the Completion Timeout Value field of
  Device Control 2 (R287, R292), and the uncorrectable error status of AER (log 117). -/
  mps : BitVec 3 := 0
  mrrs : BitVec 3 := 2
  cplField : BitVec 4 := 0
  aer : W32 := 0
  dispatches : List Dispatch := []
  images : List (Nat × Image) := []
  /-- A retirement that is PENDING (R52). -/
  retire : Option (Fin 72) := none
  /-- The MSI-X table by dword (R311) and the pending bits that are set. -/
  msix : List (Nat × W32) := []
  pba : List Nat := []
  /-- Vectors whose ITR interval runs, with a request merged or not. -/
  itr : List (Nat × Bool) := []
  /-- Paths of R398: 0 the MSI-X message, 1 the I3C interrupt, 2 the Ethernet frame. -/
  paths : Vector MsgPath 3 := Vector.replicate 3 {}
  deriving DecidableEq, Repr

/-! ## The fabric (R317 to R344) -/

/-- A TIME message that waits for the next flit boundary (R327, R344): REQ or RESP, its exchange number and t2. -/
structure TimeMsg where
  resp : Bool
  num : BitVec 16
  t2 : BitVec 96
  deriving DecidableEq, Repr

/-- A port. STATE as R320. `lanes` are the lanes it may use, `good` those that have not failed since it last trained on every lane (R339),
and `serr` the corrected symbols of each lane in the second that began at `serrFrom`; `avail` and `seen` are the transmitter's credits and the
last CRET of each VC; `freed` is this receiver's CRET; `expect` is the sequence number it accepts next, and `nak` says
that it discards until that one comes. `part` holds the slots of a transaction that is not yet whole. `txq` has the transactions that wait
for the port with the input that each came from, 16 for the module itself; `txPart` the slots of one that has started and that no flit has
taken yet; `resend` the flits of the replay buffer that are to go again. -/
structure Port where
  state : BitVec 3 := 0
  lanes : BitVec 4 := 0
  good : BitVec 4 := 0xF
  serr : Vector Nat 4 := Vector.replicate 4 0
  serrFrom : W64 := 0
  farId : BitVec 16 := 0
  farPort : BitVec 4 := 0
  retrains : Byte := 0
  avail : Vector (BitVec 12) 4 := Vector.replicate 4 0
  seen : Vector (BitVec 12) 4 := Vector.replicate 4 0
  freed : Vector (BitVec 12) 4 := Vector.replicate 4 0
  txSeq : BitVec 12 := 0
  expect : BitVec 12 := 0
  gotAny : Bool := false
  nak : Bool := false
  nakSeq : BitVec 12 := 0
  nakCount : Nat := 0
  replay : List Flit := []
  txq : List (Nat × Txn) := []
  txPart : List (BitVec 128) := []
  resend : List Flit := []
  timeq : List TimeMsg := []
  /-- The input that the switch served last, by virtual channel (R327). -/
  served : Vector Nat 4 := Vector.replicate 4 16
  /-- The next flit to start carries NAK (R325); flits sent since a NULL flit (R323). -/
  nakDue : Bool := false
  sinceNull : Nat := 0
  /-- It has been ACTIVE since it last trained afresh; since it last obtained lock, it has sent a CTRL flit and it has heard one (R326,
  R329). -/
  ready : Bool := false
  told : Bool := false
  heard : Bool := false
  /-- The receive stream's place in its FEC codeword, in bits, and whether that codeword cannot be corrected (R319). -/
  fecPos : Nat := 0
  fecBad : Bool := false
  part : List (BitVec 128) := []
  rx : List Txn := []
  deriving DecidableEq, Repr

/-- The fabric. `inbox` holds what the switch has delivered to this module; `exch` is the open time exchange: its number
and t1 (R344). -/
structure Fabric where
  ports : Vector Port 16
  inbox : List Txn := []
  exch : Option (BitVec 16 × BitVec 96) := none
  exchNum : BitVec 16 := 0
  /-- D06 has no source (R343). -/
  d06Dead : Bool := false
  /-- Where a slew of D06 goes: to the locked port or to the local reference (R342), and the OFFSET it ends with. -/
  slewLocked : Bool := false
  slewOff : BitVec 16 := 0
  deriving DecidableEq, Repr

/-! ## The collective engine (R347 to R373) -/

/-- A loaded plan (R347), the module's rank, and the inventory entries it uses (R349). -/
structure Plan where
  planId : W32
  members : List (BitVec 16)
  bucketMib : Nat
  topk : Nat
  kBucket : Nat
  fVerdict : Nat
  fSkip : Nat
  fGather : Nat
  total : Nat
  redBase : Nat
  paramBase : Nat
  resBase : Nat
  winBase : Nat
  winSlots : Nat
  trlBase : Nat
  loanBase : Nat
  loanHalf : Nat
  loanPartner : BitVec 16
  rank : Nat
  uses : List Nat
  deriving DecidableEq, Repr

/-- A trailer (R358). -/
structure Trailer where
  nonfinite : W64 := 0
  applied : W64 := 0
  step : W32 := 0
  bucket : BitVec 16 := 0xFFFF
  maxExp : Byte := 0
  flags : Byte := 0
  shards : W32 := 0
  planId : W32 := 0
  deriving DecidableEq, Repr

/-- A parked contribution (R356): its rank, its window slot, and whether it was thinned. `bad` marks a malformed one,
which holds no slot and consumes its turn with an error when that turn comes (R354). -/
structure Parked where
  rank : Nat
  slot : Nat := 0
  sparse : Bool := false
  bad : Bool := false
  deriving DecidableEq, Repr

/-- A chunk of an open shard: its next rank, what is parked for it, and whether a contribution has been applied. -/
structure ChunkState where
  chunk : Nat
  next : Nat := 0
  started : Bool := false
  parked : List Parked := []
  deriving DecidableEq, Repr

/-- The module's own shard of a step's bucket: the slot of R350.  `reports` has, by chunk × 64 + line, the non-finite
count and largest exponent of the last operation on a line (R283). `failed` marks a slot of a step that ended FAILED. -/
structure Shard where
  step : W32
  bucket : Nat
  failed : Bool := false
  chunks : List ChunkState := []
  applied : Nat := 0
  thinned : Bool := false
  error : Bool := false
  reports : List (Nat × Nat × Nat) := []
  complete : Bool := false
  deriving DecidableEq, Repr

/-- What a request of the collective engine is for. -/
inductive ReqUse where
  /-- A bucket contribution of the CPBKT that core and issue place name. -/
  | contrib (core : Fin 72) (seq : Nat) (step : W32)
  /-- CPPUT, CPACC or CPSIG: its core, issue place, dispatch, and the counter that its end increments. -/
  | remote (core : Fin 72) (seq : Nat) (tag : W32) (counter : Option Nat)
  | gather (step : W32) (member : BitVec 16)
  | loan (step : W32)
  | seal (step : W32)
  | commit (step : W32)
  | msg (step : W32)
  deriving DecidableEq, Repr

/-- An outstanding request: it holds a tag until its response (R280). -/
structure Req where
  txn : Txn
  use : ReqUse
  deriving DecidableEq, Repr

/-- Who waits for the end of an accumulator operation. -/
inductive AccReply where
  | nobody
  | remote (t : Txn)
  | own (t : Txn) (use : ReqUse)
  deriving DecidableEq, Repr

/-- One line operation on its way to its home slice (R283, R355), in issue order. `shard` names step and bucket; none for
a CPACC. `last` marks the last line of a contribution. -/
structure AccOp where
  shard : Option (W32 × Nat)
  chunk : Nat := 0
  line : Nat := 0
  addr : Nat
  vals : List (BitVec 16)
  last : Bool
  reply : AccReply
  /-- The inventory entry that an ACC uses from its check to its response (R333). -/
  use : Option Nat := none
  /-- The window slot that its contribution occupies until it is applied (R356). -/
  slot : Option Nat := none
  deriving DecidableEq, Repr

/-- The registered all-gather source: the core and issue place of its CPGATH, and the view. -/
structure GatherSrc where
  core : Fin 72
  seq : Nat
  handle : W32
  record : List Byte
  base : Nat
  entry : Nat
  deriving DecidableEq, Repr

/-- A step that the engine holds (R367). `cls`: 0 CLEAN, 1 SKIP, 2 FAILED; `code`: the STATE of COL_STEP. -/
structure StepState where
  n : W32
  /-- The step's dispatch: none until its first bucket is handed over. -/
  tag : Option W32 := none
  handed : List Nat := []
  bitmap : List Nat := []
  trailers : List (Nat × Trailer) := []
  verdict : Trailer := {}
  cls : Option Nat := none
  code : Nat := 1
  source : Option GatherSrc := none
  gathering : Bool := false
  told : List (BitVec 16) := []
  heard : List (BitVec 16) := []
  /-- Members with a gather WRITE that will not be acknowledged. -/
  lost : List (BitVec 16) := []
  gathered : Bool := false
  /-- The loan of this step: half and depth. -/
  loan : Option (Nat × Nat) := none
  sealed : Bool := false
  loanLost : Bool := false
  loanDone : Bool := false
  closed : Bool := false
  deriving DecidableEq, Repr

structure CollState where
  plan : Option Plan := none
  cur : Option StepState := none
  nxt : Option StepState := none
  /-- Steps that have closed SKIPPED. -/
  skips : List W32 := []
  shards : List Shard := []
  resSel : Bool := false
  /-- Window slots in use. -/
  win : List Nat := []
  accq : List AccOp := []
  sendq : List Req := []
  reqs : List Req := []
  retries : List Req := []
  /-- Epochs of tags, 0 where unlisted (R333). -/
  epochs : List (Nat × BitVec 2) := []
  /-- Steps that have committed a loan out: none before the first. -/
  loanOut : Option Nat := none
  deriving DecidableEq, Repr

/-! ## Conservator and annex (R377 to R389) -/

/-- An annex slot: STATE 0 EMPTY, 1 WRITING, 2 VALID, 3 INVALID; its bytes as a sparse list, with their number. -/
structure AnnexSlot where
  state : BitVec 2 := 0
  step : W32 := 0
  sender : BitVec 16 := 0
  depth : BitVec 3 := 0
  order : Nat := 0
  len : Nat := 0
  bytes : List (Nat × Byte) := []
  deriving DecidableEq, Repr

/-- A running snapshot (R384): slot, where the half lies, how many bytes precede the seal, and where the seal is. -/
structure Snapshot where
  slot : Fin 4
  base : Nat
  len : Nat
  sealAt : Nat
  half : Nat
  deriving DecidableEq, Repr

/-- A RESTORE or ERASE that runs (R386). -/
structure AnnexCmd where
  restore : Bool
  slot : Fin 4
  addr : Nat
  entry : Nat
  deriving DecidableEq, Repr

/-- An event that R389 looks back on: 0 main-memory line not corrected, 1 LOST, 2 core, 3 port degradation, 4 a corrected error of a core,
5 one of a controller; 6 is a package above its thermal limit (R275). -/
structure RasEvent where
  kind : Nat
  unit : Nat
  key : Nat
  time : W64
  deriving DecidableEq, Repr

structure RasState where
  annex : Vector AnnexSlot 4 := Vector.replicate 4 {}
  snap : Option Snapshot := none
  cmd : Option AnnexCmd := none
  written : Nat := 0
  shots : Nat := 0
  /-- TIME_NS of the last decision of depth 3 or more. -/
  lastDeep : Option W64 := none
  events : List RasEvent := []
  /-- Highest junction temperature since the last update (R377, input 9). -/
  tjPeak : Byte := 0
  deriving DecidableEq, Repr
/-! ## Register interfaces (R14, R15, R436, R438) -/

/-- The latches of one register interface: the upper half that a read of a lower half loaded, and the lower half that a
write holds, each with the offset of its register. -/
structure Latches where
  rd : Option (Nat × W32) := none
  wr : Option (Nat × W32) := none
  /-- MGT_TIME_FRAC as the last read of the lower half of MGT_TIME_NS latched it (R450). -/
  frac : Option W32 := none
  deriving DecidableEq, Repr

/-- An access from the host that waits for a wake (R411), for the end of a handover wipe or for the memory clock (R227, R278), in order of
arrival. -/
inductive HeldAccess where
  | doorbell (ring : Nat) (value : W64) (lo hi : Bool)
  | read0 (off size : Nat)
  | write0 (off size : Nat) (v : W64)
  | read4 (x len : Nat)
  | write4 (x : Nat) (bytes : List (Option Byte))
  | completion (id : Nat) (d : HostData)
  deriving DecidableEq, Repr

/-- A configuration write that waits for the end of a wipe (R438); `num` is the request number of an Ethernet frame. -/
structure HeldWrite where
  w : Writer
  off : Nat
  size : Nat
  v : W64
  num : W32 := 0
  /-- A request of a management port, which is answered when it is served or after 10 ms (R441). -/
  port : Bool := false
  /-- It is a command that the wipe refuses: recorded, then refused, once the new chain has begun (R16, R428, R435, R448). -/
  refused : Bool := false
  /-- It is a change that the Conservator makes on its own, to the bits of this mask (R436). -/
  own : Option W64 := none
  deriving DecidableEq, Repr

/-! ## Power, clocks, straps and pins (R400 to R419, R463 to R470) -/

/-- An element of the service floors that a self-test or a monitor can find failed (R418 step 6, R420). -/
inductive FloorPart where
  | intake
  | reference
  | alwaysOn
  | curator
  | i3c
  | pcie
  | registrar (k : Fin 4)
  | network
  | gallery (p : Fin 72)
  deriving DecidableEq, Repr

/-- `off` is OFF of R406. `phase` is how far R418 has come: 1 the OSC_DLY wait, 2 recovery wait, 3 memory initialisation,
4 done, 5 halted by the ROM (R432). `target` is the state being entered; `wake` the LAST_WAKE code of an exit under way. -/
structure PowerState where
  off : Bool := false
  offReq : Bool := false
  phase : Nat := 1
  target : Option (BitVec 3) := none
  wake : Option (BitVec 4) := none
  warmAfter : Bool := false
  /-- A source was lost in SLEEP or DEEP: the exit waits for it and ends in a warm reset in place of step 4 of R409 (R422). -/
  lossAfter : Bool := false
  /-- Elements that have failed (DESIGN CHOICE, log 148: no command reports one), and whether the management floor has not held (R421). -/
  failed : List FloorPart := []
  dead : Bool := false
  /-- Lost sources, by the detail codes of E_CLK_SRC_LOST; D02 or D03 lost and the outage of it (R278). -/
  lost : List Nat := []
  memClk : Bool := true
  /-- Outputs forced to their safe states (R405, R413). -/
  safe : Bool := false
  refclk : Bool := false
  localOk : Bool := false
  /-- Sensors whose last reading was at or above 110 °C (R416), and regions of the core rail that droop (R415). -/
  hot : List Nat := []
  droop : List Nat := []
  oscDly : BitVec 3 := 7
  i3cSa : BitVec 3 := 7
  /-- Pins: PERST_N asserted; the function in D3hot (R407). -/
  perst : Bool := true
  d3hot : Bool := false
  /-- What the PCIe link trained to: width, rate code, Flit Mode. -/
  link : Option (Nat × Nat × Bool) := none
  /-- An FLR in progress, between its step 1 and its end (R293). -/
  flr : Bool := false
  held : List HeldAccess := []
  deriving DecidableEq, Repr

/-! ## Curator (R425 to R438) -/

/-- A firmware operation whose image is being read, or written to the boot flash (R428). -/
structure FwOp where
  update : Bool
  len : Nat
  image : List Byte := []
  writing : Bool := false
  deriving DecidableEq, Repr

/-- A life-cycle transition: its target, and whether its wipe runs (R433). -/
structure LcOp where
  target : BitVec 3
  wiping : Bool := false
  deriving DecidableEq, Repr

/-- An SPDM request (R430), by kind, with what GET_MEASUREMENTS asks for. -/
structure SpdmReq where
  kind : Nat
  ok : Bool
  indices : List Nat := []
  signed : Bool := false
  deriving DecidableEq, Repr

/-- The Curator: the one-time and non-volatile records, the boot flash, the running image, operations in progress and the
change log, newest record last (R436). `wipe` is the reason of a running wipe: 1 tamper, 2 life-cycle transition. -/
structure CurState where
  lc : BitVec 3
  tampered : Option Nat := none
  svnMin : BitVec 16
  bootCount : W32
  nonce : W64
  udsErased : Bool := false
  /-- The secure vitrine (R238) as far as an image lies in it, from byte 0 on (R426, R428; DESIGN CHOICE, log 149). -/
  secure : List Host.Cell := []
  /-- The seeds of the DeviceID and Alias keys, which the secure vitrine holds too (R429). -/
  devSeed : Option (List Byte) := none
  aliasSeed : Option (List Byte) := none
  /-- The life-cycle state at the last boot: it governs which images are accepted (R433). -/
  bootLc : BitVec 3
  /-- The change log cannot be written (R438), and the records that hold an uncorrectable error, 0 one-time and 1 non-volatile (R449): inputs
  of the model, which no command sets (DESIGN CHOICE, log 107). -/
  logBad : Bool := false
  recBad : List Nat := []
  /-- The boot flash; `[]` is an image that fails R426. -/
  flash : List Byte
  image : Option (List Byte) := none
  fw : Option FwOp := none
  lcOp : Option LcOp := none
  scrap : Option W64 := none
  wipe : Option Nat := none
  /-- Cores and controllers returned to service from the next power-on reset (R435). -/
  backCores : List Nat := []
  backCtrls : List Nat := []
  seq : W64 := 0
  log : List (List Byte) := []
  heldWrites : List HeldWrite := []
  heldSpdm : List SpdmReq := []
  deriving DecidableEq, Repr

/-! ## Management ports and time (R439 to R447) -/

/-- The I3C target. `events` is set by ENEC; `response` waits for the next private read (R441). -/
structure I3c where
  dynAddr : Option (BitVec 7) := none
  events : Bool := false
  resetAction : Byte := 0
  response : List Byte := []
  deriving DecidableEq, Repr

/-- The management block. The time servo: frequency term `f` and phase term in units of one part, the counter's fraction
(TIME_FRAC), the last measurement's time, consecutive measurements below 100 ns, whether VALID has been 1 since power-on
reset; a two-step Sync and a Delay_Req that wait, and the mean path delay (R443 to R446). -/
structure Mgmt where
  i3c : I3c := {}
  alertMac : BitVec 48 := 0
  /-- Source address of the last frame that the Ethernet port has taken (R442). -/
  frameSrc : BitVec 48 := 0
  frac : W32 := 0
  f : Rat := 0
  phaseTerm : Rat := 0
  /-- The draw that decides how CORR rounds their sum (log 44). -/
  corrDraw : Nat := 0
  good : Nat := 0
  locked : Bool := false
  lastMeas : Option (BitVec 96) := none
  master : Option W64 := none
  /-- Receive time, and t1 once it is known. -/
  sync : Option (BitVec 96 × Option (BitVec 96)) := none
  deriving DecidableEq, Repr

/-! ## Debug (R454 to R460) -/

/-- A snapshot or clear that awaits its instant T, and the domains that have acted since (R454); the DBG_ACCESS register. -/
structure DebugState where
  snap : Bool := false
  clear : Bool := false
  at_ : W64 := 0
  acted : List Nat := []
  access : BitVec 96 := 0
  boundary : Bool := false
  /-- The boundary register, by `boundaryCells`: what its cells drive (R458). -/
  cells : List Bool := List.replicate boundaryLen false
  /-- D00 clocks since the last CLEAR in which the VTR_CONF counters can have counted, and up to which of them each counter's register
  holds its count (R221, R453, log 50). -/
  confClk : Nat := 0
  conf : List (Nat × Nat) := []
  /-- Lines that accesses have read in a controller, by controller, since its DBG_MEM counter of lines read was last brought up (R455,
  log 50). -/
  memLag : List (Nat × Nat) := []
  /-- OBS_D[15:0]: the last sample of the selected group (R456). -/
  obs : BitVec 16 := 0
  deriving DecidableEq, Repr

/-! ## The module -/

/-- A line of an L2 slice, by line number (address / 64): its not-recently-used bit, and the error that it holds, true for one that
its code corrects (R232, R235).  Its bytes are those of `State.mem`: the L2 is coherent and write-through (R233). -/
structure L2Line where
  line : Nat
  used : Bool := true
  err : Option Bool := none
  deriving DecidableEq, Repr

/-- The L2 slices, and the handover banks that were met while their wipe ran (R227). -/
structure VitState where
  l2 : List L2Line := []
  met : List Nat := []
  deriving DecidableEq, Repr

structure State where
  /-- The commands that wait, first in first out. -/
  pending : List Instr := []
  /-- How many free values have been drawn (DESIGN CHOICE, log 5): the model's own field. -/
  free : Nat
  cores : Vector Core 72
  map : Vector CoreMapEntry 72
  /-- Main memory by device address and galleries by `galKey` (R218), in canonical form. -/
  mem : List Host.Cell
  /-- Errors of main memory: stored bytes of the channels, by `rawByte`, that differ from the codeword that was written, with the
  difference (R270, R271); `mem` has the data of the codeword. -/
  memErr : List (Nat × Byte)
  /-- Errors of the galleries: 8-byte words, by `galKey` / 8, with the difference of word and check bits (R223). -/
  galErr : List (Nat × BitVec 72)
  vit : VitState
  /-- Registers with no home elsewhere, by BAR0 offset; an unlisted one holds its reset value. -/
  regs : List (Nat × W64)
  lay : LayState
  timeNs : W64
  /-- Controllers in the interleave (R279), and those whose retirement awaits reset. -/
  memMap : BitVec 48
  memPend : BitVec 48
  /-- Events of each Conservator input since the last update (R377). -/
  consv : List (Nat × W32)
  host : HostState
  fab : Fabric
  col : CollState
  ras : RasState
  latches : Vector Latches 3
  power : PowerState
  cur : CurState
  mgmt : Mgmt
  dbg : DebugState
  /-- What the module has sent, newest last. -/
  out : List Msg
  deriving DecidableEq, Repr

/-! ## After power-on reset (R11, R418) -/

/-- A core as power-on reset leaves it: every register, buffer and table zero, the masks all ones, the statistics and
slots empty, the generators loaded from the noise source (R22, R108, R144, R147, R160, R171). -/
def Core.reset (seedBase : Nat) (runstate : BitVec 3) : Core :=
  { s := Vector.replicate 32 0, ps := Vector.replicate 96 0, p := Vector.replicate 16 0, v := [],
    m := Vector.replicate 8 (BitVec.allOnes 512), f := 0, k := Vector.replicate 16 0, ab := [],
    sticky := Vector.replicate 6 0, runstate := runstate, pl12 := false, tag := 0, ncores := 0, dindex := 0, extent := 0,
    streams := Vector.replicate 6 {}, queues := Vector.replicate 6 [], inflight := Vector.replicate 6 [],
    extSig := false, frec := {}, mat := {}, tbl := [], copySel := 0, issueSel := 0, seq := 0, gen := [],
    seedBase := seedBase, reseedPending := false, freeRun := false, rstat := [], slots := [], runs := [], l1 := [],
    l1Err := [], ibuf := [], ecc := [], ecc1 := [], loading := false, rr := 0, outV := [], outAb := [], outMem := [] }

/-- The core map of a module as shipped (R51): 0 to 63 enabled, 64 to 71 spare (DESIGN CHOICE, log 4). -/
def mapReset : Vector CoreMapEntry 72 :=
  Vector.ofFn fun p => if p.val < 64 then ⟨0, BitVec.ofNat 6 p.val⟩ else ⟨1, 0⟩

/-- The permanent entries 0 to 63 of a cleared inventory, with n cores enabled: a window without a gallery has size zero (R215, R245,
R246). -/
def galleryEntries (n : Nat) : List (Nat × InvEntry) :=
  (List.range 64).map fun i =>
    (i, { base := BitVec.ofNat 64 (0x800000000000 + i * 2 ^ 24), size := if i < n then 0x1000000 else 0, gen := 1, kind := 4,
          wr := true })

/-- The first record of a chain (R437): SOURCE 5, OLD the boot count, NEW the reason. -/
def chainStart (timeNs : W64) (bootCount : W32) (reason : Nat) : List Byte :=
  let b (n k : Nat) : List Byte := (List.range n).map fun i => BitVec.ofNat 8 (k / 256 ^ i)
  b 8 0 ++ b 8 timeNs.toNat ++ b 16 5 ++ b 8 bootCount.toNat ++ b 8 reason ++ b 80 0

/-- The module right after power-on reset: the straps are sampled and the OSC_DLY wait runs (R402, R418 step 2). -/
def State.reset : State :=
  { free := 72 * 1024 + 1
    cores := Vector.ofFn fun p => Core.reset (p.val * 1024) (if p.val < 64 then 0 else 7)
    map := mapReset
    mem := []
    memErr := []
    galErr := []
    vit := {}
    regs := []
    lay := { inv := galleryEntries 64 }
    timeNs := 0
    memMap := BitVec.allOnes 48
    memPend := 0
    consv := []
    host := {}
    fab := { ports := Vector.replicate 16 {} }
    col := {}
    ras := {}
    latches := Vector.replicate 3 {}
    power := {}
    cur := { lc := 3, bootLc := 3, svnMin := 0, bootCount := 1, nonce := Config.freeValue (72 * 1024), flash := Config.bootImage,
             seq := 1, log := [chainStart 0 1 0] }
    mgmt := {}
    dbg := {}
    out := [] }

end Sys2Proof.Machine
end

