-- ==== Sys2Proof/Machine/RegTable.lean ====
section
/-!
DEFINITION. Sys2Proof/Machine/RegTable.lean: the BAR0 registers (R11 to R13, R55, R110, R151, R170, R194, R214, R240,
R266, R267, R286, R316, R346, R375, R376, R391, R399, R424, R450, R460): place, width, the bits of each access type
and the reset value, taken from the spec's offset and field tables.
-/
namespace Sys2Proof.Machine

/-- A register, without its instance (core, controller, port) and index. -/
inductive RegName where
  | corId | corState | corPc | corFlags | corKval | corQocc | corWaitLimit | corFrec0 | corFrec1 | corFrec2
  | corFrec3 | corSreg | corPreg | corPsreg | corEnabled | corRetire | corRetireStatus | corPmap | corFsum0
  | corFsum1 | corMeStatus | corMePronk | corMeSet0 | corMeSet1 | corMeSegt | corMePronkClk | corMeSegtW0
  | corMeSegtW1 | corVeStatus | corVeGenCtl | corVeSprune | corVeTblCtl | corVeTbl | corVeGenState
  | corSfStatus | corSfClamp | corSfRsIdx | corSfRsData0 | corSfRsData1 | corSfRsData2 | corChSlot
  | corMeZskipRows | corVeCsrLast | vtrStatus | vtrScrubCtl | vtrEccCount | vtrUeLog0 | vtrUeLog1 | vtrOwn
  | vtrSwz | vtrL2Info | vtrL1Stat | vtrConf | layStatus | layDtab | layInvCount | layDescCount
  | layDcacheStat | layInvSel | layInvData0 | layInvData1 | layInvData2 | corCeStatus | corCeBytes
  | memStatus | memCtl | memEccCount | memUeLog0 | memUeLog1 | memCap | memRetire | memRetireStatus
  | memTagPool | memTagHeld | glbId | glbStatus | glbScratch | hstStatus | hstLink | hstCplTimeout
  | hstWinBase | hstWinCtl | hstErrCount | acnCatBase | acnCatCtl | acnCtxOp | acnCtxOpStatus | acnRingSel
  | acnRingState0 | acnRingState1 | acnRingState2 | acnErrLog0 | acnErrLog1 | acnCacheStat | acnDispatchTag
  | acnErrVec | acnDbDrop | zmzStatus | zmzCtl | zmzRole | zmzCredit | zmzFec | zmzReplay | zmzTimeAsym
  | zmzCoord | zmzTopo | zmzRespTimeout | zmzSyntCtl | zmzSyntStatus | zmzTimeCtl | zmzDropCount | zmzErrLog0
  | zmzErrLog1 | zmzRt | colStatus | colPlanAddr | colPlanCtl | colStep | colTimeout | colLoanCtl
  | colLoanStatus | colWinStat | colCount | colErrLog0 | colErrLog1 | colBitmap | colVerdict | rasStatus
  | rasCtl | rasRisk | rasPrior | rasBaseFit | rasDepth | rasAnnexCtl | rasAnnexCmd | rasAdvice0 | rasAdvice1
  | rasAdvice2 | rasErrLog0 | rasErrLog1 | rasThresh | rasWeight | rasStateBase | rasStateSize | rasAnnexSlot
  | rasInCtl | rasInBase | rasInHalf | glbErrSummary | glbErrMsg | clkSrc | clkRunning | clkDom | pwrState
  | pwrCtl | pwrWake | pwrInput | pwrCap | pwrCapStatus | pwrTherm | pwrReset | pwrFloor | pwrEventCount
  | pwrLog0 | pwrLog1 | curStatus | curFwInfo | curFwAddr | curFwCmd | curLcCmd | curLcNonce | curBootCount
  | curLogSeq | curLogSel | curSvcCmd | curLogData | curLogHead | curErrLog0 | curErrLog1 | mgtTimeNs
  | mgtTimeFrac | mgtTimeCtl | mgtTimeStatus | mgtTimeOffset | mgtPtpCtl | mgtEthCtl | mgtEthMac
  | mgtAlertCtl | mgtTelemSeq | mgtTelem | corStall | corStallSnap | dbgPmcCtl | dbgSnapTime | dbgOvf0
  | dbgOvf1 | dbgObsSel | dbgJtagStatus | dbgMem | dbgZmz | dbgCol | dbgMemSnap | dbgZmzSnap | dbgColSnap
  | corCpStatus
  deriving DecidableEq, Repr

/-- Where a register lies: instance i and index n are at `addr` + i × `iStride` + n × `nStride`; `width` in bits;
the masks of the RW and RWS, W1C and WO bits, and of the RWS bits alone; the reset value. -/
structure RegInfo where
  addr : Nat
  iStride : Nat
  iCount : Nat
  nStride : Nat
  nCount : Nat
  width : Nat
  rw : Nat
  w1c : Nat
  wo : Nat
  rws : Nat
  rst : Nat
  deriving DecidableEq, Repr

def RegName.info : RegName → RegInfo
  | .corId => ⟨0x1000000, 0x10000, 72, 0, 1, 32, 0, 0, 0, 0, 0⟩
  | .corState => ⟨0x1000008, 0x10000, 72, 0, 1, 64, 0, 0, 0, 0, 0⟩
  | .corPc => ⟨0x1000010, 0x10000, 72, 8, 6, 64, 0, 0, 0, 0, 0⟩
  | .corFlags => ⟨0x1000040, 0x10000, 72, 0, 1, 32, 0, 0, 0, 0, 0⟩
  | .corKval => ⟨0x1000048, 0x10000, 72, 8, 4, 64, 0, 0, 0, 0, 0⟩
  | .corQocc => ⟨0x1000068, 0x10000, 72, 0, 1, 64, 0, 0, 0, 0, 0⟩
  | .corWaitLimit => ⟨0x1000070, 0x10000, 72, 0, 1, 32, 0xfffff, 0, 0, 0, 0x6b4a⟩
  | .corFrec0 => ⟨0x1000080, 0x10000, 72, 0, 1, 64, 0, 0x8000000000000000, 0, 0, 0⟩
  | .corFrec1 => ⟨0x1000088, 0x10000, 72, 0, 1, 64, 0, 0, 0, 0, 0⟩
  | .corFrec2 => ⟨0x1000090, 0x10000, 72, 0, 1, 64, 0, 0, 0, 0, 0⟩
  | .corFrec3 => ⟨0x1000098, 0x10000, 72, 0, 1, 64, 0, 0, 0, 0, 0⟩
  | .corSreg => ⟨0x1000100, 0x10000, 72, 8, 32, 64, 0, 0, 0, 0, 0⟩
  | .corPreg => ⟨0x1000200, 0x10000, 72, 8, 16, 64, 0, 0, 0, 0, 0⟩
  | .corPsreg => ⟨0x1000300, 0x10000, 72, 8, 96, 64, 0, 0, 0, 0, 0⟩
  | .corEnabled => ⟨0x1800000, 0, 1, 0, 1, 32, 0, 0, 0, 0, 0⟩
  | .corRetire => ⟨0x1800008, 0, 1, 0, 1, 32, 0, 0, 0x8000017f, 0, 0⟩
  | .corRetireStatus => ⟨0x1800010, 0, 1, 0, 1, 32, 0, 0x10000, 0, 0, 0⟩
  | .corPmap => ⟨0x1800040, 0, 1, 8, 72, 32, 0, 0, 0, 0, 0⟩
  | .corFsum0 => ⟨0x1800300, 0, 1, 0, 1, 64, 0, 0, 0, 0, 0⟩
  | .corFsum1 => ⟨0x1800308, 0, 1, 0, 1, 64, 0, 0, 0, 0, 0⟩
  | .corMeStatus => ⟨0x1001000, 0x10000, 72, 0, 1, 32, 0, 3, 0, 0, 0⟩
  | .corMePronk => ⟨0x1001008, 0x10000, 72, 0, 1, 32, 0x80070fff, 0, 0, 0, 0x80000100⟩
  | .corMeSet0 => ⟨0x1001010, 0x10000, 72, 0, 1, 64, 0, 0, 0, 0, 0⟩
  | .corMeSet1 => ⟨0x1001018, 0x10000, 72, 0, 1, 64, 0, 0, 0, 0, 0⟩
  | .corMeSegt => ⟨0x1001020, 0x10000, 72, 0, 1, 64, 0, 0, 0, 0, 0⟩
  | .corMePronkClk => ⟨0x1001030, 0x10000, 72, 0, 1, 64, 0, 0, 0, 0, 0⟩
  | .corMeSegtW0 => ⟨0x1002000, 0x10000, 72, 16, 256, 64, 0, 0, 0, 0, 0⟩
  | .corMeSegtW1 => ⟨0x1002008, 0x10000, 72, 16, 256, 64, 0, 0, 0, 0, 0⟩
  | .corVeStatus => ⟨0x1004000, 0x10000, 72, 0, 1, 32, 0, 0x1fd, 0, 0, 0⟩
  | .corVeGenCtl => ⟨0x1004008, 0x10000, 72, 0, 1, 32, 0x800f0003, 0, 0x100, 0, 0x40000⟩
  | .corVeSprune => ⟨0x1004010, 0x10000, 72, 0, 1, 64, 0xffffffffffffffff, 0, 0, 0, 0⟩
  | .corVeTblCtl => ⟨0x1004018, 0x10000, 72, 0, 1, 32, 0, 0, 0, 0, 0⟩
  | .corVeTbl => ⟨0x1004800, 0x10000, 72, 4, 512, 32, 0, 0, 0, 0, 0⟩
  | .corVeGenState => ⟨0x1005000, 0x10000, 72, 8, 1024, 64, 0, 0, 0, 0, 0⟩
  | .corSfStatus => ⟨0x1007000, 0x10000, 72, 0, 1, 32, 0, 0x3f, 0, 0, 0⟩
  | .corSfClamp => ⟨0x1007008, 0x10000, 72, 0, 1, 64, 0, 0, 0, 0, 0⟩
  | .corSfRsIdx => ⟨0x1007010, 0x10000, 72, 0, 1, 32, 0xfff, 0, 0, 0, 0⟩
  | .corSfRsData0 => ⟨0x1007018, 0x10000, 72, 0, 1, 64, 0, 0, 0, 0, 0xff800000⟩
  | .corSfRsData1 => ⟨0x1007020, 0x10000, 72, 0, 1, 64, 0, 0, 0, 0, 0⟩
  | .corSfRsData2 => ⟨0x1007028, 0x10000, 72, 0, 1, 64, 0, 0, 0, 0, 0⟩
  | .corChSlot => ⟨0x1004108, 0x10000, 72, 8, 31, 64, 0, 0, 0, 0, 0⟩
  | .corMeZskipRows => ⟨0x1001038, 0x10000, 72, 0, 1, 64, 0, 0, 0, 0, 0⟩
  | .corVeCsrLast => ⟨0x1004020, 0x10000, 72, 0, 1, 64, 0, 0, 0, 0, 0⟩
  | .vtrStatus => ⟨0x2000000, 0, 1, 0, 1, 32, 0, 4, 0, 0, 0⟩
  | .vtrScrubCtl => ⟨0x2000008, 0, 1, 0, 1, 32, 0x800000ff, 0, 0, 0, 0x80000004⟩
  | .vtrEccCount => ⟨0x2000010, 0, 1, 0, 1, 64, 0, 0, 0, 0, 0⟩
  | .vtrUeLog0 => ⟨0x2000018, 0, 1, 0, 1, 64, 0, 0x8000000000000000, 0, 0, 0⟩
  | .vtrUeLog1 => ⟨0x2000020, 0, 1, 0, 1, 64, 0, 0, 0, 0, 0⟩
  | .vtrOwn => ⟨0x2000100, 0, 1, 8, 64, 64, 0xff, 0, 0x10000, 0, 0x80000000⟩
  | .vtrSwz => ⟨0x2000400, 0, 1, 8, 64, 32, 3, 0, 0, 0, 3⟩
  | .vtrL2Info => ⟨0x2000800, 0, 1, 8, 48, 64, 0, 0, 0, 0, 0⟩
  | .vtrL1Stat => ⟨0x2000c00, 0, 1, 8, 72, 64, 0, 0, 0, 0, 0⟩
  | .vtrConf => ⟨0x2010000, 0, 1, 4, 9216, 32, 0, 0, 0, 0, 0⟩
  | .layStatus => ⟨0x3400000, 0, 1, 0, 1, 32, 0, 0, 0, 0, 0⟩
  | .layDtab => ⟨0x3400008, 0, 1, 0, 1, 64, 0xffffffff, 0, 0, 0, 0⟩
  | .layInvCount => ⟨0x3400010, 0, 1, 0, 1, 32, 0, 0, 0, 0, 0⟩
  | .layDescCount => ⟨0x3400018, 0, 1, 0, 1, 32, 0, 0, 0, 0, 0⟩
  | .layDcacheStat => ⟨0x3400020, 0, 1, 0, 1, 64, 0, 0, 0, 0, 0⟩
  | .layInvSel => ⟨0x3400040, 0, 1, 0, 1, 32, 0xffff, 0, 0, 0, 0⟩
  | .layInvData0 => ⟨0x3400048, 0, 1, 0, 1, 64, 0, 0, 0, 0, 0⟩
  | .layInvData1 => ⟨0x3400050, 0, 1, 0, 1, 64, 0, 0, 0, 0, 0⟩
  | .layInvData2 => ⟨0x3400058, 0, 1, 0, 1, 64, 0, 0, 0, 0, 0x10000⟩
  | .corCeStatus => ⟨0x1008000, 0x10000, 72, 0, 1, 32, 0, 3, 0, 0, 0⟩
  | .corCeBytes => ⟨0x1008008, 0x10000, 72, 0, 1, 64, 0, 0, 0, 0, 0⟩
  | .memStatus => ⟨0x2400000, 0x4000, 48, 0, 1, 32, 0, 0, 0, 0, 0⟩
  | .memCtl => ⟨0x2400008, 0x4000, 48, 0, 1, 32, 0, 0, 1, 0, 0⟩
  | .memEccCount => ⟨0x2400010, 0x4000, 48, 0, 1, 64, 0, 0, 0, 0, 0⟩
  | .memUeLog0 => ⟨0x2400018, 0x4000, 48, 0, 1, 64, 0, 0x8000000000000000, 0, 0, 0⟩
  | .memUeLog1 => ⟨0x2400020, 0x4000, 48, 0, 1, 64, 0, 0, 0, 0, 0⟩
  | .memCap => ⟨0x2500000, 0, 1, 0, 1, 64, 0, 0, 0, 0, 0⟩
  | .memRetire => ⟨0x2500008, 0, 1, 0, 1, 32, 0, 0, 0x8000003f, 0, 0⟩
  | .memRetireStatus => ⟨0x2500010, 0, 1, 0, 1, 64, 0, 0, 0, 0, 0⟩
  | .memTagPool => ⟨0x2500018, 0, 1, 0, 1, 32, 0, 0, 0, 0, 0⟩
  | .memTagHeld => ⟨0x2500100, 0, 1, 8, 80, 32, 0, 0, 0, 0, 0⟩
  | .glbId => ⟨0, 0, 1, 0, 1, 32, 0, 0, 0, 0, 0x96400a00⟩
  | .glbStatus => ⟨8, 0, 1, 0, 1, 32, 0, 0, 0, 0, 0⟩
  | .glbScratch => ⟨0x10, 0, 1, 0, 1, 32, 0xffffffff, 0, 0, 0xffffffff, 0⟩
  | .hstStatus => ⟨0x400000, 0, 1, 0, 1, 32, 0, 0x1e, 0, 0, 0⟩
  | .hstLink => ⟨0x400008, 0, 1, 0, 1, 32, 0, 0, 0, 0, 0⟩
  | .hstCplTimeout => ⟨0x400010, 0, 1, 0, 1, 32, 0xffff, 0, 0, 0, 0x2710⟩
  | .hstWinBase => ⟨0x400018, 0, 1, 0, 1, 64, 0xffffc0000000, 0, 0, 0, 0⟩
  | .hstWinCtl => ⟨0x400020, 0, 1, 0, 1, 32, 1, 0, 0, 0, 0x2401⟩
  | .hstErrCount => ⟨0x400028, 0, 1, 0, 1, 64, 0, 0, 0, 0, 0⟩
  | .acnCatBase => ⟨0x800000, 0, 1, 0, 1, 64, 0xfffffffffffff000, 0, 0, 0, 0⟩
  | .acnCatCtl => ⟨0x800008, 0, 1, 0, 1, 32, 1, 0, 0, 0, 0⟩
  | .acnCtxOp => ⟨0x800010, 0, 1, 0, 1, 32, 0, 0, 0xf00fffff, 0, 0⟩
  | .acnCtxOpStatus => ⟨0x800018, 0, 1, 0, 1, 32, 0, 0, 0, 0, 0⟩
  | .acnRingSel => ⟨0x800020, 0, 1, 0, 1, 32, 0xfffff, 0, 0, 0, 0⟩
  | .acnRingState0 => ⟨0x800028, 0, 1, 0, 1, 64, 0, 0, 0, 0, 0⟩
  | .acnRingState1 => ⟨0x800030, 0, 1, 0, 1, 64, 0, 0, 0, 0, 0⟩
  | .acnRingState2 => ⟨0x800038, 0, 1, 0, 1, 32, 0, 0, 0, 0, 0⟩
  | .acnErrLog0 => ⟨0x800040, 0, 1, 0, 1, 64, 0, 0x8000000000000000, 0, 0, 0⟩
  | .acnErrLog1 => ⟨0x800048, 0, 1, 0, 1, 64, 0, 0, 0, 0, 0⟩
  | .acnCacheStat => ⟨0x800050, 0, 1, 0, 1, 64, 0, 0, 0, 0, 0⟩
  | .acnDispatchTag => ⟨0x800058, 0, 1, 0, 1, 32, 0, 0, 0, 0, 0⟩
  | .acnErrVec => ⟨0x800060, 0, 1, 0, 1, 32, 0x800007ff, 0, 0, 0, 0⟩
  | .acnDbDrop => ⟨0x800068, 0, 1, 0, 1, 32, 0, 0, 0, 0, 0⟩
  | .zmzStatus => ⟨0x2800000, 0x8000, 16, 0, 1, 64, 0, 0, 0, 0, 0⟩
  | .zmzCtl => ⟨0x2800008, 0x8000, 16, 0, 1, 32, 0xa0ffffff, 0, 0x40000000, 0, 0xa0100000⟩
  | .zmzRole => ⟨0x2800010, 0x8000, 16, 0, 1, 32, 0xff, 0, 0, 0, 0⟩
  | .zmzCredit => ⟨0x2800018, 0x8000, 16, 0, 1, 64, 0, 0, 0, 0, 0⟩
  | .zmzFec => ⟨0x2800020, 0x8000, 16, 0, 1, 64, 0, 0, 0, 0, 0⟩
  | .zmzReplay => ⟨0x2800028, 0x8000, 16, 0, 1, 64, 0, 0, 0, 0, 0⟩
  | .zmzTimeAsym => ⟨0x2800030, 0x8000, 16, 0, 1, 32, 0xffffffff, 0, 0, 0, 0⟩
  | .zmzCoord => ⟨0x2c00000, 0, 1, 0, 1, 32, 0x3f1f1f, 0, 0, 0, 0⟩
  | .zmzTopo => ⟨0x2c00008, 0, 1, 0, 1, 32, 0xa07f3f3f, 0, 0x40000000, 0, 0x20000000⟩
  | .zmzRespTimeout => ⟨0x2c00010, 0, 1, 0, 1, 32, 0xffffffff, 0, 0, 0, 0x4e20⟩
  | .zmzSyntCtl => ⟨0x2c00018, 0, 1, 0, 1, 32, 0x800fffff, 0, 0, 0, 0xa⟩
  | .zmzSyntStatus => ⟨0x2c00020, 0, 1, 0, 1, 32, 0, 8, 0, 0, 0⟩
  | .zmzTimeCtl => ⟨0x2c00028, 0, 1, 0, 1, 32, 0x800fffff, 0, 0, 0, 0x3e8⟩
  | .zmzDropCount => ⟨0x2c00030, 0, 1, 0, 1, 64, 0, 0, 0, 0, 0⟩
  | .zmzErrLog0 => ⟨0x2c00040, 0, 1, 0, 1, 64, 0, 0x8000000000000000, 0, 0, 0⟩
  | .zmzErrLog1 => ⟨0x2c00048, 0, 1, 0, 1, 64, 0, 0, 0, 0, 0⟩
  | .zmzRt => ⟨0x2c00100, 0, 1, 4, 192, 32, 3, 0, 0, 0, 0⟩
  | .colStatus => ⟨0x3000000, 0, 1, 0, 1, 32, 0, 0, 0, 0, 0⟩
  | .colPlanAddr => ⟨0x3000008, 0, 1, 0, 1, 64, 0xffffffffffc0, 0, 0, 0, 0⟩
  | .colPlanCtl => ⟨0x3000010, 0, 1, 0, 1, 32, 0, 0, 0xc0000000, 0, 0⟩
  | .colStep => ⟨0x3000018, 0, 1, 0, 1, 64, 0, 0, 0, 0, 0⟩
  | .colTimeout => ⟨0x3000020, 0, 1, 0, 1, 32, 0xffffffff, 0, 0, 0, 0x22710⟩
  | .colLoanCtl => ⟨0x3000028, 0, 1, 0, 1, 32, 0x80000000, 0, 0, 0, 0⟩
  | .colLoanStatus => ⟨0x3000030, 0, 1, 0, 1, 64, 0, 0, 0, 0, 0xffffffff3fffffff⟩
  | .colWinStat => ⟨0x3000038, 0, 1, 0, 1, 64, 0, 0, 0, 0, 0⟩
  | .colCount => ⟨0x3000040, 0, 1, 0, 1, 64, 0, 0, 0, 0, 0⟩
  | .colErrLog0 => ⟨0x3000048, 0, 1, 0, 1, 64, 0, 0x8000000000000000, 0, 0, 0⟩
  | .colErrLog1 => ⟨0x3000050, 0, 1, 0, 1, 64, 0, 0, 0, 0, 0⟩
  | .colBitmap => ⟨0x3000100, 0, 1, 8, 64, 64, 0, 0, 0, 0, 0⟩
  | .colVerdict => ⟨0x3000300, 0, 1, 8, 4, 64, 0, 0, 0, 0, 0⟩
  | .rasStatus => ⟨0x3800000, 0, 1, 0, 1, 32, 0, 0xc, 0, 0, 0⟩
  | .rasCtl => ⟨0x3800008, 0, 1, 0, 1, 32, 0xc0f77fff, 0, 0, 0, 0x80940000⟩
  | .rasRisk => ⟨0x3800010, 0, 1, 0, 1, 64, 0, 0, 0, 0, 0x4e20⟩
  | .rasPrior => ⟨0x3800018, 0, 1, 0, 1, 32, 0xffffffff, 0, 0, 0, 0x4e20⟩
  | .rasBaseFit => ⟨0x3800020, 0, 1, 0, 1, 32, 0xffffffff, 0, 0, 0, 0x2534⟩
  | .rasDepth => ⟨0x3800028, 0, 1, 0, 1, 64, 0, 0, 0, 0, 0⟩
  | .rasAnnexCtl => ⟨0x3800030, 0, 1, 0, 1, 32, 0xffff0001, 0, 0, 0, 0x2580001⟩
  | .rasAnnexCmd => ⟨0x3800038, 0, 1, 0, 1, 64, 0, 0, 0xfc00fffffffff000, 0, 0⟩
  | .rasAdvice0 => ⟨0x3800040, 0, 1, 0, 1, 64, 0, 0xffffffffffffffff, 0, 0, 0⟩
  | .rasAdvice1 => ⟨0x3800048, 0, 1, 0, 1, 64, 0, 0x80000000ffff00ff, 0, 0, 0⟩
  | .rasAdvice2 => ⟨0x3800050, 0, 1, 0, 1, 64, 0, 0xffffffffffff, 0, 0, 0⟩
  | .rasErrLog0 => ⟨0x3800058, 0, 1, 0, 1, 64, 0, 0x8000000000000000, 0, 0, 0⟩
  | .rasErrLog1 => ⟨0x3800060, 0, 1, 0, 1, 64, 0, 0, 0, 0, 0⟩
  | .rasThresh => ⟨0x3800100, 0, 1, 8, 4, 32, 0xffffffff, 0, 0, 0, 0⟩
  | .rasWeight => ⟨0x3800200, 0, 1, 8, 10, 32, 0xffffffff, 0, 0, 0, 0⟩
  | .rasStateBase => ⟨0x3800300, 0, 1, 16, 8, 64, 0xfffffffff000, 0, 0, 0, 0⟩
  | .rasStateSize => ⟨0x3800308, 0, 1, 16, 8, 64, 0xfffffffff000, 0, 0, 0, 0⟩
  | .rasAnnexSlot => ⟨0x3800400, 0, 1, 8, 4, 64, 0, 0, 0, 0, 0⟩
  | .rasInCtl => ⟨0x3800500, 0, 1, 24, 2, 32, 0x8000ffff, 0, 0, 0, 0⟩
  | .rasInBase => ⟨0x3800508, 0, 1, 24, 2, 64, 0xfffffffff000, 0, 0, 0, 0⟩
  | .rasInHalf => ⟨0x3800510, 0, 1, 24, 2, 64, 0xfffffffff000, 0, 0, 0, 0⟩
  | .glbErrSummary => ⟨0x40, 0, 1, 0, 1, 32, 0, 0, 0, 0, 0⟩
  | .glbErrMsg => ⟨0x48, 0, 1, 0, 1, 32, 0x800007ff, 0, 0, 0, 0⟩
  | .clkSrc => ⟨0x200000, 0, 1, 0, 1, 32, 0, 0, 0, 0, 0⟩
  | .clkRunning => ⟨0x200008, 0, 1, 0, 1, 32, 0, 0, 0, 0, 0⟩
  | .clkDom => ⟨0x200100, 0, 1, 8, 27, 32, 3, 0, 0, 0, 0⟩
  | .pwrState => ⟨0x300000, 0, 1, 0, 1, 32, 0, 0, 0, 0, 1⟩
  | .pwrCtl => ⟨0x300008, 0, 1, 0, 1, 32, 0, 0, 0xf0000000, 0, 0⟩
  | .pwrWake => ⟨0x300010, 0, 1, 0, 1, 32, 3, 0, 0, 0, 3⟩
  | .pwrInput => ⟨0x300018, 0, 1, 0, 1, 64, 0, 0, 0, 0, 0⟩
  | .pwrCap => ⟨0x300020, 0, 1, 0, 1, 32, 0xffffffff, 0, 0, 0, 0x76c0640⟩
  | .pwrCapStatus => ⟨0x300028, 0, 1, 0, 1, 32, 0, 0, 0, 0, 0x20⟩
  | .pwrTherm => ⟨0x300030, 0, 1, 0, 1, 32, 0xff00, 0, 0, 0, 0x6e6400⟩
  | .pwrReset => ⟨0x300038, 0, 1, 0, 1, 32, 0, 0, 0xf000007f, 0, 0⟩
  | .pwrFloor => ⟨0x300040, 0, 1, 0, 1, 32, 0, 0, 0, 0, 0⟩
  | .pwrEventCount => ⟨0x300048, 0, 1, 0, 1, 64, 0, 0, 0, 0, 0⟩
  | .pwrLog0 => ⟨0x300050, 0, 1, 0, 1, 64, 0, 0x8000000000000000, 0, 0, 0⟩
  | .pwrLog1 => ⟨0x300058, 0, 1, 0, 1, 64, 0, 0, 0, 0, 0⟩
  | .curStatus => ⟨0x100000, 0, 1, 0, 1, 32, 0, 0, 0, 0, 0⟩
  | .curFwInfo => ⟨0x100008, 0, 1, 0, 1, 64, 0, 0, 0, 0, 0⟩
  | .curFwAddr => ⟨0x100010, 0, 1, 0, 1, 64, 0xfffffffffffff000, 0, 0, 0, 0⟩
  | .curFwCmd => ⟨0x100018, 0, 1, 0, 1, 32, 0, 0, 0xf0000fff, 0, 0⟩
  | .curLcCmd => ⟨0x100020, 0, 1, 0, 1, 32, 0, 0, 0xf0000000, 0, 0⟩
  | .curLcNonce => ⟨0x100028, 0, 1, 0, 1, 64, 0, 0, 0, 0, 0⟩
  | .curBootCount => ⟨0x100030, 0, 1, 0, 1, 32, 0, 0, 0, 0, 0⟩
  | .curLogSeq => ⟨0x100040, 0, 1, 0, 1, 64, 0, 0, 0, 0, 0⟩
  | .curLogSel => ⟨0x100048, 0, 1, 0, 1, 64, 0xffffffffffffffff, 0, 0, 0, 0⟩
  | .curSvcCmd => ⟨0x100050, 0, 1, 0, 1, 32, 0, 0, 0xf000007f, 0, 0⟩
  | .curLogData => ⟨0x100080, 0, 1, 8, 16, 64, 0, 0, 0, 0, 0⟩
  | .curLogHead => ⟨0x100100, 0, 1, 8, 8, 64, 0, 0, 0, 0, 0⟩
  | .curErrLog0 => ⟨0x100140, 0, 1, 0, 1, 64, 0, 0x8000000000000000, 0, 0, 0⟩
  | .curErrLog1 => ⟨0x100148, 0, 1, 0, 1, 64, 0, 0, 0, 0, 0⟩
  | .mgtTimeNs => ⟨0x3c00000, 0, 1, 0, 1, 64, 0, 0, 0, 0, 0⟩
  | .mgtTimeFrac => ⟨0x3c00008, 0, 1, 0, 1, 32, 0, 0, 0, 0, 0⟩
  | .mgtTimeCtl => ⟨0x3c00010, 0, 1, 0, 1, 32, 0xc000ffff, 0, 0, 0, 0xa⟩
  | .mgtTimeStatus => ⟨0x3c00018, 0, 1, 0, 1, 32, 0, 0, 0, 0, 0⟩
  | .mgtTimeOffset => ⟨0x3c00020, 0, 1, 0, 1, 64, 0, 0, 0, 0, 0⟩
  | .mgtPtpCtl => ⟨0x3c00028, 0, 1, 0, 1, 32, 0x800000ff, 0, 0, 0, 0⟩
  | .mgtEthCtl => ⟨0x3c00030, 0, 1, 0, 1, 32, 0xc0000000, 0, 0, 0, 0x80000000⟩
  | .mgtEthMac => ⟨0x3c00038, 0, 1, 0, 1, 64, 0, 0, 0, 0, 0⟩
  | .mgtAlertCtl => ⟨0x3c00040, 0, 1, 0, 1, 32, 0xc0000000, 0, 0, 0, 0⟩
  | .mgtTelemSeq => ⟨0x3c00048, 0, 1, 0, 1, 32, 0, 0, 0, 0, 0⟩
  | .mgtTelem => ⟨0x3c00100, 0, 1, 8, 12, 64, 0, 0, 0, 0, 0⟩
  | .corStall => ⟨0x100c000, 0x10000, 72, 8, 56, 64, 0, 0, 0, 0, 0⟩
  | .corStallSnap => ⟨0x100c200, 0x10000, 72, 8, 56, 64, 0, 0, 0, 0, 0⟩
  | .dbgPmcCtl => ⟨0x3e00000, 0, 1, 0, 1, 32, 0x80000000, 0, 0x60000000, 0, 0x80000000⟩
  | .dbgSnapTime => ⟨0x3e00008, 0, 1, 0, 1, 64, 0, 0, 0, 0, 0⟩
  | .dbgOvf0 => ⟨0x3e00010, 0, 1, 0, 1, 64, 0, 0xffffffffffffffff, 0, 0, 0⟩
  | .dbgOvf1 => ⟨0x3e00018, 0, 1, 0, 1, 64, 0, 0xffffffffffffffff, 0, 0, 0⟩
  | .dbgObsSel => ⟨0x3e00100, 0, 1, 0, 1, 32, 0x7ffff, 0, 0, 0, 0⟩
  | .dbgJtagStatus => ⟨0x3e00200, 0, 1, 0, 1, 32, 0, 0, 0, 0, 1⟩
  | .dbgMem => ⟨0x3e01000, 0, 1, 8, 192, 64, 0, 0, 0, 0, 0⟩
  | .dbgZmz => ⟨0x3e02000, 0, 1, 8, 128, 64, 0, 0, 0, 0, 0⟩
  | .dbgCol => ⟨0x3e03000, 0, 1, 8, 8, 64, 0, 0, 0, 0, 0⟩
  | .dbgMemSnap => ⟨0x3e05000, 0, 1, 8, 192, 64, 0, 0, 0, 0, 0⟩
  | .dbgZmzSnap => ⟨0x3e06000, 0, 1, 8, 128, 64, 0, 0, 0, 0, 0⟩
  | .dbgColSnap => ⟨0x3e07000, 0, 1, 8, 8, 64, 0, 0, 0, 0, 0⟩
  | .corCpStatus => ⟨0x1008010, 0x10000, 72, 0, 1, 32, 0, 3, 0, 0, 0⟩

def allRegs0 : List RegName :=
  [.corId, .corState, .corPc, .corFlags, .corKval, .corQocc,
   .corWaitLimit, .corFrec0, .corFrec1, .corFrec2, .corFrec3, .corSreg,
   .corPreg, .corPsreg, .corEnabled, .corRetire, .corRetireStatus, .corPmap,
   .corFsum0, .corFsum1, .corMeStatus, .corMePronk, .corMeSet0, .corMeSet1,
   .corMeSegt, .corMePronkClk, .corMeSegtW0, .corMeSegtW1, .corVeStatus, .corVeGenCtl,
   .corVeSprune, .corVeTblCtl, .corVeTbl, .corVeGenState, .corSfStatus, .corSfClamp,
   .corSfRsIdx, .corSfRsData0, .corSfRsData1, .corSfRsData2]
def allRegs1 : List RegName :=
  [.corChSlot, .corMeZskipRows, .corVeCsrLast, .vtrStatus, .vtrScrubCtl, .vtrEccCount,
   .vtrUeLog0, .vtrUeLog1, .vtrOwn, .vtrSwz, .vtrL2Info, .vtrL1Stat,
   .vtrConf, .layStatus, .layDtab, .layInvCount, .layDescCount, .layDcacheStat,
   .layInvSel, .layInvData0, .layInvData1, .layInvData2, .corCeStatus, .corCeBytes,
   .memStatus, .memCtl, .memEccCount, .memUeLog0, .memUeLog1, .memCap,
   .memRetire, .memRetireStatus, .memTagPool, .memTagHeld, .glbId, .glbStatus,
   .glbScratch, .hstStatus, .hstLink, .hstCplTimeout]
def allRegs2 : List RegName :=
  [.hstWinBase, .hstWinCtl, .hstErrCount, .acnCatBase, .acnCatCtl, .acnCtxOp,
   .acnCtxOpStatus, .acnRingSel, .acnRingState0, .acnRingState1, .acnRingState2, .acnErrLog0,
   .acnErrLog1, .acnCacheStat, .acnDispatchTag, .acnErrVec, .acnDbDrop, .zmzStatus,
   .zmzCtl, .zmzRole, .zmzCredit, .zmzFec, .zmzReplay, .zmzTimeAsym,
   .zmzCoord, .zmzTopo, .zmzRespTimeout, .zmzSyntCtl, .zmzSyntStatus, .zmzTimeCtl,
   .zmzDropCount, .zmzErrLog0, .zmzErrLog1, .zmzRt, .colStatus, .colPlanAddr,
   .colPlanCtl, .colStep, .colTimeout, .colLoanCtl]
def allRegs3 : List RegName :=
  [.colLoanStatus, .colWinStat, .colCount, .colErrLog0, .colErrLog1, .colBitmap,
   .colVerdict, .rasStatus, .rasCtl, .rasRisk, .rasPrior, .rasBaseFit,
   .rasDepth, .rasAnnexCtl, .rasAnnexCmd, .rasAdvice0, .rasAdvice1, .rasAdvice2,
   .rasErrLog0, .rasErrLog1, .rasThresh, .rasWeight, .rasStateBase, .rasStateSize,
   .rasAnnexSlot, .rasInCtl, .rasInBase, .rasInHalf, .glbErrSummary, .glbErrMsg,
   .clkSrc, .clkRunning, .clkDom, .pwrState, .pwrCtl, .pwrWake,
   .pwrInput, .pwrCap, .pwrCapStatus, .pwrTherm]
def allRegs4 : List RegName :=
  [.pwrReset, .pwrFloor, .pwrEventCount, .pwrLog0, .pwrLog1, .curStatus,
   .curFwInfo, .curFwAddr, .curFwCmd, .curLcCmd, .curLcNonce, .curBootCount,
   .curLogSeq, .curLogSel, .curSvcCmd, .curLogData, .curLogHead, .curErrLog0,
   .curErrLog1, .mgtTimeNs, .mgtTimeFrac, .mgtTimeCtl, .mgtTimeStatus, .mgtTimeOffset,
   .mgtPtpCtl, .mgtEthCtl, .mgtEthMac, .mgtAlertCtl, .mgtTelemSeq, .mgtTelem,
   .corStall, .corStallSnap, .dbgPmcCtl, .dbgSnapTime, .dbgOvf0, .dbgOvf1,
   .dbgObsSel, .dbgJtagStatus, .dbgMem, .dbgZmz]
def allRegs5 : List RegName :=
  [.dbgCol, .dbgMemSnap, .dbgZmzSnap, .dbgColSnap, .corCpStatus]
def allRegs : List RegName := allRegs0 ++ allRegs1 ++ allRegs2 ++ allRegs3 ++ allRegs4 ++ allRegs5

/-- Byte offset of a register in BAR0. -/
def RegName.at (r : RegName) (i n : Nat) : Nat :=
  r.info.addr + i * r.info.iStride + n * r.info.nStride

/-- Reset of CLK_DOM_n (R401): FREQ_MHZ and the enables of run, sleep and deep-sleep.  D05's frequency depends on
the link rate and D06's is 1,562.5 MHz: DESIGN CHOICE, log 4. -/
def clkDomReset (n : Nat) : Nat :=
  match n with
  | 0 => 1800 * 65536 + 1
  | 1 => 1600 * 65536 + 1
  | 2 => 1333 * 65536 + 1
  | 3 => 5333 * 65536 + 1
  | 4 => 1000 * 65536 + 3
  | 5 => 3
  | 6 => 1562 * 65536 + 3
  | 23 => 200 * 65536 + 7
  | 24 => 1000 * 65536 + 7
  | 25 => 900 * 65536 + 1
  | 26 => 0
  | _ => 3

/-- Reset of ZMZ_ROLE_n (R317): ROLE 3 TORUS, 2 PARTNER, 1 BYPASS_IDLE, with DIR and INDEX. -/
def zmzRoleReset (i : Nat) : Nat :=
  if i < 12 then i % 2 * 128 + i / 2 * 16 + 3
  else if i < 14 then i % 2 * 128 + 2
  else i % 2 * 128 + 1

/-- Default weights of R377. -/
def rasWeightReset (n : Nat) : Nat :=
  match n with
  | 0 => 2 | 1 => 50000 | 2 => 5 | 3 => 50000 | 4 => 1 | 5 => 5000 | 6 => 20000 | 7 => 500 | 8 => 1000 | _ => 2000

def rasThreshReset (n : Nat) : Nat :=
  match n with
  | 0 => 0x2328 | 1 => 0x7530 | 2 => 0x186A0 | _ => 0x493E0

/-- Slices of controllers 0–3, 20–23, 24–27 and 44–47 have 24 ways, the others 20 (R232). -/
def l2Ways (n : Nat) : Nat :=
  if n % 24 < 4 ∨ 20 ≤ n % 24 then 24 else 20

/-- The value after power-on reset (R11). -/
def RegName.reset (r : RegName) (i n : Nat) : W64 :=
  BitVec.ofNat 64 (match r with
    | .clkDom => clkDomReset n
    | .zmzRole => zmzRoleReset i
    | .rasWeight => rasWeightReset n
    | .rasThresh => rasThreshReset n
    | .vtrOwn => 0x80000000 + n
    | .vtrL2Info => n * 256 + l2Ways n
    | _ => r.info.rst)

/-- The bits that a plain write sets (RW and RWS); CLK_DOM_n differs by domain. -/
def RegName.rwMask (r : RegName) (n : Nat) : W64 :=
  match r with
  | .clkDom =>
    (if 4 ≤ n ∧ n ≤ 22 then 2 else 0) ||| (if (7 ≤ n ∧ n ≤ 22) ∨ n = 25 then 1 else 0)
  | _ => BitVec.ofNat 64 r.info.rw

/-- A register found at an offset: the register, its instance and index, and whether the offset is its upper half. -/
structure RegHit where
  reg : RegName
  i : Nat
  n : Nat
  upper : Bool
  deriving DecidableEq, Repr

/-- Whether a register holds offset `off` (its own offset, or the upper half of a 64-bit register). -/
def RegName.hit (r : RegName) (off : Nat) : Option RegHit :=
  let f := r.info
  if off < f.addr then none
  else
    let d := off - f.addr
    let i := if f.iCount = 1 then 0 else d / f.iStride
    let e := if f.iCount = 1 then d else d % f.iStride
    let n := if f.nCount = 1 then 0 else e / f.nStride
    let b := if f.nCount = 1 then e else e % f.nStride
    if i < f.iCount ∧ n < f.nCount then
      if b = 0 then some ⟨r, i, n, false⟩
      else if b = 4 ∧ f.width = 64 then some ⟨r, i, n, true⟩
      else none
    else none

def findReg (off : Nat) : Option RegHit := allRegs.findSome? fun r => r.hit off

end Sys2Proof.Machine
end

