-- ==== Sys2Proof/Machine/Ops.lean ====
section
/-!
DEFINITION. Sys2Proof/Machine/Ops.lean: the named operations over registers, the address space and memory that every
family of commands shares.
-/
namespace Sys2Proof.Machine

abbrev Result := Host.Outcome State Fault Refusal

/-! ## Sparse maps in canonical form -/

/-- What a sparse map holds at a key; `d` is what an unlisted key reads as. -/
def smapGet {β : Type} (d : Nat → β) : List (Nat × β) → Nat → β
  | [], k => d k
  | (k', v) :: t, k => if k < k' then d k else if k = k' then v else smapGet d t k

/-- Write one key, keeping the canonical form: writing what an unlisted key reads as removes the entry. -/
def smapPut {β : Type} [DecidableEq β] (d : Nat → β) : List (Nat × β) → Nat → β → List (Nat × β)
  | [], k, v => if v = d k then [] else [(k, v)]
  | (k', v') :: t, k, v =>
    if k < k' then if v = d k then (k', v') :: t else (k, v) :: (k', v') :: t
    else if k = k' then if v = d k then t else (k, v) :: t
    else (k', v') :: smapPut d t k v

/-- Keys strictly rising from `lo` on, and no entry equal to what an unlisted key reads as. -/
def smapWfFrom {β : Type} [DecidableEq β] (d : Nat → β) : Nat → List (Nat × β) → Bool
  | _, [] => true
  | lo, (k, v) :: t => decide (lo ≤ k) && decide (v ≠ d k) && smapWfFrom d (k + 1) t

def smapWf {β : Type} [DecidableEq β] (d : Nat → β) (m : List (Nat × β)) : Bool := smapWfFrom d 0 m

/-- Sets of numbers as rising lists. -/
def nsetAdd : List Nat → Nat → List Nat
  | [], k => [k]
  | x :: t, k => if k < x then k :: x :: t else if k = x then x :: t else x :: nsetAdd t k

/-! ## Bits and bytes -/

/-- Bits [lo + len − 1 : lo] of a word, as a number. -/
def bitsN {w : Nat} (x : BitVec w) (lo len : Nat) : Nat := x.toNat / 2 ^ lo % 2 ^ len

def bitB {w : Nat} (x : BitVec w) (i : Nat) : Bool := x.getLsbD i

/-- A word with bits [lo + len − 1 : lo] replaced. -/
def setBits {w : Nat} (x : BitVec w) (lo len v : Nat) : BitVec w :=
  let m : BitVec w := BitVec.ofNat w ((2 ^ len - 1) * 2 ^ lo)
  (x &&& ~~~m) ||| BitVec.ofNat w (v % 2 ^ len * 2 ^ lo)

def setBit {w : Nat} (x : BitVec w) (i : Nat) (b : Bool) : BitVec w := setBits x i 1 (if b then 1 else 0)

/-- The little-endian number of a byte list (R10). -/
def leNat : List Byte → Nat
  | [] => 0
  | b :: t => b.toNat + 256 * leNat t

/-- The `len` little-endian bytes of a number (R10). -/
def leBytes : Nat → Nat → List Byte
  | 0, _ => []
  | len + 1, n => BitVec.ofNat 8 n :: leBytes len (n / 256)

/-- `len` items from place `lo` on. -/
def slice {α : Type} (l : List α) (lo len : Nat) : List α := (l.drop lo).take len

/-- The unsigned little-endian field of `len` bytes at `off` of a record. -/
def fieldAt (rec : List Byte) (off len : Nat) : Nat := leNat (slice rec off len)

/-- Add, holding at the largest value of the width. -/
def satAdd {w : Nat} (x : BitVec w) (n : Nat) : BitVec w := BitVec.ofNat w (min (x.toNat + n) (2 ^ w - 1))

/-! ## Cores, registers, free values -/

def State.core (s : State) (p : Fin 72) : Core := s.cores[p.val]

def State.setCore (s : State) (p : Fin 72) (c : Core) : State := { s with cores := s.cores.set p.val c }

def State.modCore (s : State) (p : Fin 72) (f : Core → Core) : State := s.setCore p (f (s.core p))

/-- What an unlisted BAR0 offset of `State.regs` holds: the reset value of the register there. -/
def regDefault (off : Nat) : W64 :=
  match findReg off with
  | some h => if h.upper then 0 else h.reg.reset h.i h.n
  | none => 0

/-- The stored value of a register that has its home in `State.regs`. -/
def State.rget (s : State) (r : RegName) (i n : Nat) : W64 := smapGet regDefault s.regs (r.at i n)

def State.rset (s : State) (r : RegName) (i n : Nat) (v : W64) : State :=
  { s with regs := smapPut regDefault s.regs (r.at i n) v }

def State.rmod (s : State) (r : RegName) (i n : Nat) (f : W64 → W64) : State := s.rset r i n (f (s.rget r i n))

/-- Add to a field of a stored register, saturating at the field's width. -/
def State.rcountSat (s : State) (r : RegName) (i n lo len k : Nat) : State :=
  s.rmod r i n fun v => setBits v lo len (min (bitsN v lo len + k) (2 ^ len - 1))

/-- Add to a field of a stored register, wrapping. -/
def State.rcountWrap (s : State) (r : RegName) (i n lo len k : Nat) : State :=
  s.rmod r i n fun v => setBits v lo len (bitsN v lo len + k)

/-- A free value and the state that has drawn it. -/
def State.draw (s : State) : W64 × State := (Config.freeValue s.free, { s with free := s.free + 1 })

/-- Count events of Conservator input `i` (R377). -/
def State.report (s : State) (i k : Nat) : State :=
  { s with consv := smapPut (fun _ => (0 : W32)) s.consv i (satAdd (smapGet (fun _ => 0) s.consv i) k) }

/-- An event that R389 looks back on. -/
def rasNote (s : State) (kind unit key : Nat) : State :=
  { s with ras := { s.ras with events := s.ras.events ++ [⟨kind, unit, key, s.timeNs⟩] } }

/-! ## Performance counters (R453, R455) -/

/-- Count `k` events in a counter of chapter 20 while DBG_PMC_CTL.EN = 1. -/
def perfCount (s : State) (r : RegName) (n k : Nat) : State :=
  if bitB (s.rget .dbgPmcCtl 0 0) 31 && decide (0 < k) then s.rmod r 0 n fun v => v + BitVec.ofNat 64 k else s

/-! ## Power states and running domains (R401, R406, R421, R427) -/

/-- STATE of PWR_STATE: 1 BOOT, 2 RUN, 3 SLEEP, 4 DEEP, 5 FAULT, 6 MGMT_ONLY, 7 waiting for a source. -/
def pwrState (s : State) : Nat := bitsN (s.rget .pwrState 0 0) 0 3

def setPwrState (s : State) (k : Nat) : State := s.rmod .pwrState 0 0 fun v => setBits v 0 3 k

/-- Enable `b` of CLK_DOM_n: 0 run, 1 sleep, 2 deep-sleep. -/
def domEn (s : State) (n b : Nat) : Bool := bitB (s.rget .clkDom 0 n) b

/-- What stops a domain in every power state: OFF, a module below its management floor (R421), and the loss of a source, which stops all but
D23 and D24, and D24 with the local reference (R405); D04 and D05 have no clock before PCIE_REFCLK is present (R401, R418). -/
def domDead (s : State) (n : Nat) : Bool :=
  s.power.off || s.power.dead || (decide (n = 24) && s.power.lost.contains 0) ||
    (!s.power.lost.isEmpty && !([23, 24].contains n)) || ([4, 5].contains n && !s.power.refclk)

/-- Whether domain Dn is clocked; D26 is the external TCK (R401, R405, R406, R418, R421, R427). While the source of D02 or
D03 has failed every domain but D23 and D24 stands still (R278, R405). -/
def domOn (s : State) (n : Nat) : Bool :=
  if domDead s n then false
  else match pwrState s with
    | 1 =>
      match s.power.phase with
      | 2 => [4, 5, 23, 24].contains n
      | 3 => domEn s n 0 && !(decide (n = 6) && s.fab.d06Dead)
      | 5 => [23, 24].contains n
      | _ => false
    | 2 => domEn s n 0 && (s.power.memClk || [23, 24].contains n) && !(decide (n = 6) && s.fab.d06Dead)
    | 3 => domEn s n 1 && !(decide (n = 6) && s.fab.d06Dead)
    | 4 => domEn s n 2 && !(decide (n = 6) && s.fab.d06Dead)
    | 5 => [23, 24].contains n
    | 6 => [4, 5, 23, 24].contains n
    | 7 => [23, 24].contains n
    | _ => false

/-- A wake source in SLEEP or DEEP, or during an entry, starts the exit; the first one is recorded (R410, R422). -/
def startWake (s : State) (code : BitVec 4) : State :=
  if (decide (pwrState s = 3 ∨ pwrState s = 4) || s.power.target.isSome) && s.power.wake.isNone then
    { s with power := { s.power with wake := some code } }
  else s

/-! ## The core map (R51, R53) -/

def enabledCount (s : State) : Nat := s.map.toList.countP fun e => e.role = 0

/-- The physical core of a logical index. -/
def physOf (s : State) (n : Nat) : Option (Fin 72) :=
  (List.finRange 72).find? fun p => decide (s.map[p.val].role = 0 ∧ s.map[p.val].logical.toNat = n)

def logicalOf (s : State) (p : Fin 72) : Option Nat :=
  if s.map[p.val].role = 0 then some s.map[p.val].logical.toNat else none

/-! ## The address space (R215, R218, R268, R269) -/

/-- Controllers in service, in ascending physical order. -/
def ctrlsInService (s : State) : List Nat := (List.range 48).filter fun k => s.memMap.getLsbD k

/-- U of R268. -/
def memTop (s : State) : Nat := 30 * 2 ^ 30 * (ctrlsInService s).length

/-- Physical controller of an address, the half of its two channels, and the data line within the channel (R269). -/
def homeOf (s : State) (a : Nat) : Nat × Nat × Nat :=
  let cs := ctrlsInService s
  let n := cs.length
  let g := a / 256
  let q := g / n
  let r := g % n
  (cs.getD ((r + q) % n) 0, q % 2, q / 2 * 4 + a / 64 % 4)

/-- Physical controller and channel half of an address. -/
def ctrlOf (s : State) (a : Nat) : Nat × Nat := ((homeOf s a).1, (homeOf s a).2.1)

/-- Physical line of a data line: fifteen data lines to a block of sixteen (R270). -/
def physLine (d : Nat) : Nat := 16 * (d / 15) + d % 15

/-- The check line of a data line's block (R270). -/
def checkLine (d : Nat) : Nat := 16 * (d / 15) + 15

/-- A stored byte of main memory: channel 2k + h, physical line, byte of the line. A channel has 2 to the power 28 lines. -/
def rawByte (ch line byte : Nat) : Nat := (ch * 2 ^ 28 + line) * 64 + byte

/-- Where the 68 symbols of a line's codeword are stored: its 64 bytes, and its check word in the check line (R270, R271). -/
def symbolsOf (s : State) (a : Nat) : List Nat :=
  let h := homeOf s a
  let ch := 2 * h.1 + h.2.1
  let d := h.2.2
  (List.range 64).map (rawByte ch (physLine d)) ++ (List.range 4).map fun i => rawByte ch (checkLine d) (4 * (d % 15) + i)

def vtrBase : Nat := 0x800000000000

/-- A device address in the vitrine window: gallery and offset (R215). -/
def galOf (a : Nat) : Option (Nat × Nat) :=
  if vtrBase ≤ a ∧ a < vtrBase + 0x40000000 then some ((a - vtrBase) / 2 ^ 24, (a - vtrBase) % 2 ^ 24) else none

/-- The bank of a gallery offset under E1 and E2 (R218). -/
def galBank (swz : W64) (o : Nat) : Nat :=
  let x := (o / 64 % 16) ^^^ (o / 2 ^ 20 % 16)
  let x := if bitB swz 0 then x ^^^ (o / 2 ^ 10 % 16) else x
  if bitB swz 1 then x ^^^ (o / 2 ^ 14 % 16) else x

/-- The place of a byte of a physical gallery: bank, row o[19:6] and byte (R218), above every main-memory address. -/
def galKey (phys bank o : Nat) : Nat := 2 ^ 47 + phys * 2 ^ 24 + bank * 2 ^ 20 + o % 2 ^ 20

/-- Where the byte of a device address lies in `State.mem`; none where the address belongs to nothing. -/
def byteKey (s : State) (a : Nat) : Option Nat :=
  if a < memTop s then some a
  else match galOf a with
    | some (n, o) =>
      match physOf s n with
      | some p => some (galKey p.val (galBank (s.rget .vtrSwz 0 n) o) o)
      | none => none
    | none => none

/-- What unlisted memory reads as (R277, R237: hardware zeroes main memory and galleries before first use). -/
def memDefault (_ : Nat) : Byte := 0

/-- The byte at a device address, whoever reads it. -/
def byteAt (s : State) (a : Nat) : Byte :=
  match byteKey s a with
  | some k => smapGet memDefault s.mem k
  | none => 0

def readBytes (s : State) (a len : Nat) : List Byte := (List.range len).map fun i => byteAt s (a + i)

def putByte (s : State) (a : Nat) (b : Byte) : State :=
  match byteKey s a with
  | some k => { s with mem := smapPut memDefault s.mem k b }
  | none => s

/-- Write cells to device addresses, in order. -/
def putCells (s : State) (cells : List (Nat × Byte)) : State := cells.foldl (fun s c => putByte s c.1 c.2) s

/-- The cells of a run of bytes. -/
def cellsAt (a : Nat) (bs : List Byte) : List (Nat × Byte) := bs.mapIdx fun i b => (a + i, b)

def memWf (m : List Host.Cell) : Bool := smapWf memDefault m

/-! ## Who reaches what (R217, R226) -/

/-- A requester of the address space. -/
inductive Master where
  | core (p : Fin 72)
  | ring
  | coll
  | host
  | registrar
  | curator
  deriving DecidableEq, Repr

/-- Requester index of MEM_TAG_HELD_n (R286). -/
def Master.index : Master → Nat
  | .core p => p.val
  | .coll => 72
  | .ring => 73
  | .host => 74
  | .registrar => 75
  | .curator => 75

/-- Owner code of R225; the registrar reaches a bank as the ring copy engine does (log 11). -/
def Master.owner (s : State) : Master → Nat
  | .core p => (logicalOf s p).getD 0xFF
  | .ring => 0x40
  | .coll => 0x41
  | .host => 0x43
  | .registrar => 0x40
  | .curator => 0x42

/-- A fault code with its detail. -/
structure Flt where
  code : BitVec 16
  detail : W32
  deriving DecidableEq, Repr

/-- Why a place may not be reached. -/
inductive PlaceErr where
  | outside
  | notOwner (bank owner : Nat)
  deriving DecidableEq, Repr

/-- The owner code of handover bank n. -/
def bankOwner (s : State) (n : Nat) : Nat := bitsN (s.rget .vtrOwn 0 n) 0 8

/-- Whether a master may reach the 64-byte line of an address (R216, R217, R226).  Block 15 of a gallery is its
handover bank; the Curator has no way to the others. -/
def placeErr (m : Master) (s : State) (a : Nat) : Option PlaceErr :=
  if a < memTop s then none
  else match galOf a with
    | none => some .outside
    | some (n, o) =>
      if (physOf s n).isNone then some .outside
      else if o / 2 ^ 20 = 15 ∧ bankOwner s n ≠ m.owner s then some (.notOwner n (bankOwner s n))
      else if m = .curator ∧ o / 2 ^ 20 ≠ 15 then some .outside
      else none

/-- The line addresses that a span of `len` bytes touches. -/
def spanLines (a len : Nat) : List Nat :=
  if len = 0 then [] else (List.range ((a + len - 1) / 64 - a / 64 + 1)).map fun i => (a / 64 + i) * 64

/-- One address of each 1 MiB block that a span touches: who reaches a place depends on the block alone. -/
def spanBlocks (a len : Nat) : List Nat :=
  if len = 0 then []
  else (List.range ((a + len - 1) / 2 ^ 20 - a / 2 ^ 20 + 1)).map fun i => (a / 2 ^ 20 + i) * 2 ^ 20

def placeErrSpan (m : Master) (s : State) (a len : Nat) : Option PlaceErr :=
  (spanBlocks a len).findSome? (placeErr m s)

def notOwnerFlt (bank owner : Nat) : Flt := ⟨0x0682, BitVec.ofNat 32 (bank + owner * 256)⟩

/-- The fault of an engine for a place it may not reach; `out` is its fault for an address that belongs to nothing. -/
def PlaceErr.flt (out : Flt) : PlaceErr → Flt
  | .outside => out
  | .notOwner b o => notOwnerFlt b o

/-- Own gallery in the sense of R103, R140 and R179: blocks 0 to 14 of the core's own gallery, or a handover bank
that the core owns. -/
def ownPlace (s : State) (p : Fin 72) (a : Nat) : Bool :=
  match galOf a with
  | none => false
  | some (n, o) =>
    if o / 2 ^ 20 = 15 then (physOf s n).isSome && decide (bankOwner s n = (Master.core p).owner s)
    else decide (logicalOf s p = some n)

def ownSpan (s : State) (p : Fin 72) (a len : Nat) : Bool := (spanBlocks a len).all (ownPlace s p)

/-! ## Errors in storage (R223, R273, R278) -/

def nowNs (s : State) : W64 := s.timeNs

/-- State code of the controller of an address: 3 LOST and 4 REINIT end every access with E_MEM_LOST (R278). -/
def ctrlLost (s : State) (a : Nat) : Bool :=
  let st := bitsN (s.rget .memStatus (ctrlOf s a).1 0) 0 3
  decide (st = 3 ∨ st = 4)

/-- Log an uncorrectable main-memory error in the controller of the line (R273), SOURCE 0 read, 1 merge read,
2 accumulator. -/
def logMemUe (s : State) (m : Master) (a src : Nat) : State :=
  let (k, h) := ctrlOf s a
  let s := rasNote ((s.rcountSat .memEccCount k 0 32 32 1).report 1 1) 0 k (a / 64)
  if bitB (s.rget .memUeLog0 k 0) 63 then s
  else
    let w := 2 ^ 63 + src * 2 ^ 60 + m.index * 2 ^ 53 + h * 2 ^ 52 + a / 64 * 64
    (s.rset .memUeLog0 k 0 (BitVec.ofNat 64 w)).rset .memUeLog1 k 0 (nowNs s)

/-- Log an uncorrectable gallery word (R223): `src` 0 an access, 1 the scrubber. -/
def logVtrUe (s : State) (owner src n o : Nat) : State :=
  let phys := match physOf s n with
    | some p => p.val
    | none => 0
  let s := rasNote ((s.rcountSat .vtrEccCount 0 0 32 32 1).report 3 1) 2 phys 0
  if bitB (s.rget .vtrUeLog0 0 0) 63 then s
  else
    let w := 2 ^ 63 + src * 2 ^ 62 + owner * 2 ^ 54 + phys * 2 ^ 47 + galBank (s.rget .vtrSwz 0 n) o * 2 ^ 43
      + o / 64 % 2 ^ 14 * 2 ^ 29 + o / 8 * 8
    (s.rset .vtrUeLog0 0 0 (BitVec.ofNat 64 w)).rset .vtrUeLog1 0 0 (nowNs s)

def memUeFlt (a : Nat) : Flt := ⟨0x0601, BitVec.ofNat 32 a⟩
def memLostFlt (k : Nat) : Flt := ⟨0x0602, BitVec.ofNat 32 k⟩
def vtrEccFlt (n o : Nat) : Flt := ⟨0x0681, BitVec.ofNat 32 (n * 2 ^ 24 + o / 8 * 8)⟩

/-! ### Main memory: Reed-Solomon codewords (R271, R273, R274) -/

def symbolDefault (_ : Nat) : Byte := 0

/-- How many symbols of a line's codeword are in error. -/
def symbolErrs (s : State) (a : Nat) : Nat :=
  if s.memErr.isEmpty then 0 else (symbolsOf s a).countP fun k => decide (smapGet symbolDefault s.memErr k ≠ 0)

/-- A line is stored with its check word: its codeword holds no error. -/
def cleanLine (s : State) (a : Nat) : State :=
  if s.memErr.isEmpty then s else { s with memErr := s.memErr.filter fun e => !(symbolsOf s a).contains e.1 }

/-- An error of one symbol: corrected in the data returned, written back, counted and reported (R274). -/
def correctLine (s : State) (a : Nat) : State :=
  let k := (ctrlOf s a).1
  rasNote ((cleanLine s a).rcountSat .memEccCount k 0 0 32 1 |>.report 0 1) 5 k (a / 64)

/-- Free bytes at an address. -/
def freeBytes (s : State) (a n : Nat) : State :=
  (List.range n).foldl (fun s i => putByte { s with free := s.free + 1 } (a + i) ((Config.freeValue s.free).extractLsb' 0 8)) s

/-- A read of a line from the packages: `src` as SOURCE of MEM_UE_LOG_0. One symbol in error is corrected, two or three are
detected. With more the code promises nothing: the controller takes the word for uncorrectable, or corrects it to data that the
spec does not state (free values, log 82). -/
def memRead (m : Master) (src : Nat) (s : State) (a : Nat) : State × Option Flt :=
  match symbolErrs s a with
  | 0 => (s, none)
  | 1 => (correctLine s a, none)
  | n =>
    if n < 4 ∨ Config.freeChoice s.free then
      (logMemUe { s with free := s.free + 1 } m a src, some (memUeFlt (a / 64 * 64)))
    else (freeBytes (correctLine { s with free := s.free + 1 } a) (a / 64 * 64) 64, none)

/-! ### The L2 (R232, R233, R235) -/

def l2Find (s : State) (a : Nat) : Option L2Line := s.vit.l2.find? fun x => x.line = a / 64

def l2Put (s : State) (l : List L2Line) : State := { s with vit := { s.vit with l2 := l } }

/-- The set of a slice that a line goes to (DEDUCED, log 12): its data line and channel half modulo 1,024. -/
def l2Set (s : State) (a : Nat) : Nat × Nat :=
  let h := homeOf s a
  (h.1, (2 * h.2.2 + h.2.1) % 1024)

/-- Use a present line; where every line of its full set is then marked used, the marks of the others are cleared. -/
def l2Touch (s : State) (a : Nat) : State :=
  let l := s.vit.l2.map fun x => if x.line = a / 64 then { x with used := true } else x
  let mates := l.filter fun x => decide (l2Set s (64 * x.line) = l2Set s a)
  if mates.all (·.used) && decide (l2Ways (l2Set s a).1 ≤ mates.length) then
    l2Put s (l.map fun x => if decide (l2Set s (64 * x.line) = l2Set s a) && decide (x.line ≠ a / 64) then
      { x with used := false } else x)
  else l2Put s l

/-- Allocate a line. Which of the lines that were not recently used leaves a full set is a free value. -/
def l2Fill (s : State) (a : Nat) : State :=
  if (l2Find s a).isSome then l2Touch s a
  else
    let mates := s.vit.l2.filter fun x => decide (l2Set s (64 * x.line) = l2Set s a)
    if mates.length < l2Ways (l2Set s a).1 then l2Touch (l2Put s ({ line := a / 64 } :: s.vit.l2)) a
    else
      let idle := mates.filter fun x => !x.used
      let pool := if idle.isEmpty then mates else idle
      let out := (pool[(Config.freeValue s.free).toNat % pool.length]?).map (·.line)
      l2Touch (l2Put { s with free := s.free + 1 } ({ line := a / 64 } :: s.vit.l2.filter fun x => some x.line ≠ out)) a

/-- A write of a whole line gives the words of its L2 copy new check bits. -/
def l2Rewrite (s : State) (a : Nat) : State :=
  if s.vit.l2.any fun x => decide (x.line = a / 64) && x.err.isSome then
    l2Put s (s.vit.l2.map fun x => if x.line = a / 64 then { x with err := none } else x)
  else s

/-- Count an error of an L2 line that was corrected, or repaired by a refetch (R235, R377). -/
def l2Repair (s : State) (a : Nat) : State := (s.rcountSat .vtrL2Info 0 (ctrlOf s a).1 32 32 1).report 2 1

/-- One more line that an access can have read in the controller of its address, while DBG_MEM counts (R453, R455). -/
def noteLine (s : State) (a : Nat) : State :=
  let k := (ctrlOf s a).1
  if bitB (s.rget .dbgPmcCtl 0 0) 31 then
    { s with dbg := { s.dbg with memLag := smapPut (fun _ => 0) s.dbg.memLag k (smapGet (fun _ => 0) s.dbg.memLag k + 1) } }
  else s

/-- A read of a line at its home slice: a present line serves it, but for one with an error that its code does not correct or a bad
tag, which is invalidated and fetched again (R233, R235). -/
def sliceRead (m : Master) (src : Nat) (s0 : State) (a : Nat) : State × Option Flt :=
  let s := noteLine s0 a
  match l2Find s a with
  | none => memRead m src s a
  | some x =>
    match x.err with
    | none => (l2Touch s a, none)
    | some true =>
      (l2Touch (l2Put (l2Repair s a) (s.vit.l2.map fun y => if y.line = x.line then { y with err := none } else y)) a, none)
    | some false =>
      let r := memRead m src (l2Put (l2Repair s a) (s.vit.l2.filter fun y => decide (y.line ≠ x.line))) a
      match r.2 with
      | some f => (r.1, some f)
      | none => (l2Fill r.1 a, none)

/-! ### Galleries: SECDED words (R223) -/

/-- Bits of a 72-bit word of a bank that are in error, by the key of the word. -/
def wordErrs (s : State) (k : Nat) : Nat :=
  let e : BitVec 72 := smapGet (fun _ => (0 : BitVec 72)) s.galErr k
  (List.range 72).countP fun i => e.getLsbD i

def cleanWord (s : State) (k : Nat) : State := { s with galErr := s.galErr.filter fun e => decide (e.1 ≠ k) }

/-- A correctable word: corrected in the data returned and in the bank, counted and reported (R223). -/
def correctWord (s : State) (n k : Nat) : State :=
  let phys := match physOf s n with
    | some p => p.val
    | none => 0
  rasNote (((cleanWord s k).rcountSat .vtrEccCount 0 0 0 32 1).report 2 1) 4 phys 0

/-- A read of the word at a gallery address: a single error is corrected, a double error detected; more are as `memRead` says. -/
def wordRead (owner src : Nat) (s : State) (w : Nat) : State × Option Flt :=
  match byteKey s w, galOf w with
  | some k, some (n, o) =>
    match wordErrs s (k / 8) with
    | 0 => (s, none)
    | 1 => (correctWord s n (k / 8), none)
    | e =>
      if e = 2 ∨ Config.freeChoice s.free then
        (logVtrUe { s with free := s.free + 1 } owner src n o, some (vtrEccFlt n o))
      else (freeBytes (correctWord { s with free := s.free + 1 } n (k / 8)) (w / 8 * 8) 8, none)
  | _, _ => (s, none)

/-! ### Reads -/

/-- The 8-byte words of a line. -/
def wordsOf (line : Nat) : List Nat := (List.range 8).map fun i => line + 8 * i

/-- Read the words of a gallery line that lie in a span: every bad one is counted, the first gives the error. -/
def wordsRead (owner src lo hi : Nat) (s : State) (line : Nat) : State × Option Flt :=
  if s.galErr.isEmpty then (s, none)
  else ((wordsOf line).filter fun w => decide (w < hi ∧ lo < w + 8)).foldl (fun r w =>
    let q := wordRead owner src r.1 w
    (q.1, r.2.or q.2)) (s, none)

/-- The error that a read of the line meets, with its log (R223, R273, R278). `lo` and `hi` bound the bytes read. -/
def readErrLine (m : Master) (lo hi : Nat) (s : State) (line : Nat) : State × Option Flt :=
  if line < memTop s then
    if ctrlLost s line then (s, some (memLostFlt (ctrlOf s line).1))
    else sliceRead m 0 s line
  else match galOf line with
    | none => (s, none)
    | some _ => wordsRead (m.owner s) 0 lo hi s line

/-- The first error that a read of a span meets. -/
def readErr (m : Master) (s : State) (a len : Nat) : State × Option Flt :=
  (spanLines a len).foldl (fun r line =>
    match r.2 with
    | some _ => r
    | none => readErrLine m a (a + len) r.1 line) (s, none)

/-- Handover banks whose wipe runs that a span of their owner touches: the access waits for the end of the wipe (R227). -/
def wipeBanks (m : Master) (s : State) (a len : Nat) : List Nat :=
  (spanBlocks a len).filterMap fun b =>
    match galOf b with
    | some (n, o) =>
      if o / 2 ^ 20 = 15 ∧ bitB (s.rget .vtrOwn 0 n) 30 ∧ bankOwner s n = m.owner s then some n else none
    | none => none

/-- Controllers without a memory clock that a span needs: they admit a request once the clock has returned and the catch-up refresh is
done (R278). Controller k counts as 64 + k among what an access waits for. -/
def clockWaits (s : State) (a len : Nat) : List Nat :=
  if s.power.memClk then []
  else (spanLines a len).filterMap fun l => if l < memTop s ∧ !ctrlLost s l then some (64 + (ctrlOf s l).1) else none

/-- Note the banks that an access meets while they are wiped, and the controllers without a clock. -/
def noteWipe (m : Master) (s : State) (a len : Nat) : State :=
  let banks := wipeBanks m s a len ++ clockWaits s a len
  if banks.isEmpty then s else { s with vit := { s.vit with met := s.vit.met ++ banks } }

/-- Read a span: the state with any error logged, the bytes, and the error if one was met. -/
def devRead (m : Master) (s : State) (a len : Nat) : State × List Byte × Option Flt :=
  let (s', e) := readErr m (noteWipe m s a len) a len
  (s', readBytes s' a len, e)

/-- A read of a span that the requester may have no way to reach (R216, R217, R226); `out` is its address fault. -/
def reachRead (m : Master) (out : Flt) (s : State) (a len : Nat) : State × List Byte × Option Flt :=
  match placeErrSpan m s a len with
  | some e => (s, [], some (e.flt out))
  | none => devRead m s a len

/-! ### Writes -/

/-- The unit of check bits of a byte: a 64-byte line of main memory, an 8-byte word of a gallery. -/
def eccUnit (s : State) (a : Nat) : Nat := if a < memTop s then 64 else 8

/-- Whether the cells name every byte of the unit that holds address `a`. -/
def unitCovered (s : State) (cells : List (Nat × Byte)) (a : Nat) : Bool :=
  let u := eccUnit s a
  (List.range u).all fun i => cells.any fun c => c.1 = a / u * u + i

/-- What becomes of one unit of a write: a unit of a lost controller takes nothing; one that is covered takes new check bits; a merge
reads it first and takes nothing where that read meets an uncorrectable error (R223, R272, R273). -/
def mergeUnit (m : Master) (cells : List (Nat × Byte)) (s : State) (u : Nat) : State × Option Flt :=
  if u < memTop s then
    if ctrlLost s u then (s, some (memLostFlt (ctrlOf s u).1))
    else if unitCovered s cells u then (cleanLine (l2Rewrite s u) u, none)
    else
      let r := sliceRead m 1 s u
      (if r.2.isSome then r.1 else cleanLine r.1 u, r.2)
  else match byteKey s u with
    | none => (s, none)
    | some k => if unitCovered s cells u then (cleanWord s (k / 8), none) else wordRead (m.owner s) 0 s u

/-- Full-line writes and partial-line merges of a write to main memory (R455); a lost controller makes none (R278). -/
def countLines (s : State) (cells : List (Nat × Byte)) : State :=
  let lines := cells.foldl (fun l c => if c.1 < memTop s ∧ !ctrlLost s c.1 then nsetAdd l (c.1 / 64) else l) []
  lines.foldl (fun s l =>
    perfCount s .dbgMem (4 * (ctrlOf s (64 * l)).1 + if unitCovered s cells (64 * l) then 1 else 2) 1) s

/-- The units that a write touches, lowest address first. -/
def unitsOf (s : State) (cells : List (Nat × Byte)) : List Nat :=
  cells.foldl (fun l c => nsetAdd l (c.1 / eccUnit s c.1 * eccUnit s c.1)) []

/-- What a core's instruction has written so far (R49). -/
def noteOut (m : Master) (s : State) (cells : List (Nat × Byte)) : State :=
  match m with
  | .core p => s.modCore p fun c => { c with outMem := cells.foldl (fun l x => x.1 :: l) c.outMem }
  | _ => s

def putNoted (m : Master) (s : State) (cells : List (Nat × Byte)) : State := putCells (noteOut m s cells) cells

/-- One write request: units that a merge read finds bad, and those of lost controllers, take nothing; every other byte is written
(R272, R273). With it the bytes that were written and the first error. -/
def devWriteN (m : Master) (s0 : State) (cells : List (Nat × Byte)) : State × Option Flt × Nat :=
  let s := countLines (cells.foldl (fun s c => noteWipe m s c.1 1) s0) cells
  if s.memErr.isEmpty && s.galErr.isEmpty && s.vit.l2.all (fun x => x.err.isNone) && cells.all (fun c => !(decide (c.1 < memTop s) && ctrlLost s c.1)) then
    (putNoted m s cells, none, cells.length)
  else
    let r := (unitsOf s cells).foldl (fun (r : State × List Nat × Option Flt) u =>
      let q := mergeUnit m cells r.1 u
      (q.1, if q.2.isSome then u :: r.2.1 else r.2.1, r.2.2.or q.2)) (s, [], none)
    let ok := cells.filter fun c => !r.2.1.contains (c.1 / eccUnit s c.1 * eccUnit s c.1)
    (putNoted m r.1 ok, r.2.2, ok.length)

/-- One write request, with the first error. -/
def devWrite (m : Master) (s : State) (cells : List (Nat × Byte)) : State × Option Flt :=
  let r := devWriteN m s cells
  (r.1, r.2.1)

/-! ## The L1 (R232 to R235) -/

/-- Line of bytes as one word, little-endian. -/
def lineBytes (x : BitVec 512) : List Byte := (List.range 64).map fun i => x.extractLsb' (8 * i) 8

def packLine (bs : List Byte) : BitVec 512 := BitVec.ofNat 512 (leNat bs)

/-- Put a line at the front of the L1 and keep the eight most recently used of its set. -/
def l1Insert (l1 : List (Nat × BitVec 512)) (line : Nat) (x : BitVec 512) : List (Nat × BitVec 512) :=
  let rest := l1.filter fun e => e.1 ≠ line
  let sameSet := rest.filter fun e => e.1 / 64 % 256 = line / 64 % 256
  if sameSet.length < 8 then (line, x) :: rest
  else match sameSet.getLast? with
    | some v => (line, x) :: rest.filter fun e => e.1 ≠ v.1
    | none => (line, x) :: rest

/-- Count an error of an L1 line that was corrected, or repaired by a refetch (R235, R377). -/
def l1Repair (p : Fin 72) (s : State) (line : Nat) : State :=
  ((s.modCore p fun c => { c with l1Err := c.l1Err.filter fun e => decide (e.1 ≠ line) }).rcountSat .vtrL1Stat 0 p.val 0 32 1).report 2 1

/-- A miss of the L1: the line is filled from its slice, where it is allocated (R232). -/
def l1Miss (p : Fin 72) (s : State) (line : Nat) : State × BitVec 512 × Option Flt :=
  let (s1, bs, e) := devRead (.core p) s line 64
  match e with
  | some f => (s1, 0, some f)
  | none =>
    ((l2Fill s1 line).modCore p fun c =>
      { c with l1 := l1Insert c.l1 line (packLine bs), l1Err := c.l1Err.filter fun e => decide (e.1 ≠ line) },
     packLine bs, none)

/-- One line of main memory as the SU or VE of core p sees it: a present line serves the read, a miss fills it. A present line whose
error its code does not correct, or whose tag is bad, is invalidated and filled again (R235). -/
def l1Line (p : Fin 72) (s : State) (line : Nat) : State × BitVec 512 × Option Flt :=
  match (s.core p).l1.find? fun e => e.1 = line with
  | none => l1Miss p s line
  | some e =>
    match (s.core p).l1Err.find? fun x => x.1 = line with
    | some (_, false) => l1Miss p (l1Repair p s line) line
    | some (_, true) => ((l1Repair p s line).modCore p fun c => { c with l1 := l1Insert c.l1 line e.2 }, e.2, none)
    | none => (s.modCore p fun c => { c with l1 := l1Insert c.l1 line e.2 }, e.2, none)

/-- A load by the SU or VE: main memory through the L1, galleries directly. -/
def loadBytes (p : Fin 72) (s : State) (a len : Nat) : State × List Byte × Option Flt :=
  if a < memTop s then
    let (s1, bs, e) := (spanLines a len).foldl (fun r line =>
      match r.2.2 with
      | some _ => r
      | none =>
        let (s2, x, e) := l1Line p r.1 line
        (s2, r.2.1 ++ lineBytes x, e)) (s, [], none)
    (s1, slice bs (a % 64) len, e)
  else devRead (.core p) s a len

/-- A read of core p that allocates in no cache: bytes of a present L1 line come from it (R233). -/
def readThrough (p : Fin 72) (s : State) (a len : Nat) : State × List Byte × Option Flt :=
  (spanLines a len).foldl (fun r line =>
    match r.2.2 with
    | some _ => r
    | none =>
      let lo := max a line
      let hi := min (a + len) (line + 64)
      if (r.1.core p).l1.any fun e => e.1 = line then
        let q := l1Line p r.1 line
        (q.1, r.2.1 ++ slice (lineBytes q.2.1) (lo - line) (hi - lo), q.2.2)
      else
        let q := devRead (.core p) r.1 lo (hi - lo)
        (q.1, r.2.1 ++ q.2.1, q.2.2)) (s, [], none)

/-- Update one byte of a present line (R232). -/
def l1Poke (l1 : List (Nat × BitVec 512)) (a : Nat) (b : Byte) : List (Nat × BitVec 512) :=
  l1.map fun e => if e.1 = a / 64 * 64 then (e.1, setBits e.2 (8 * (a % 64)) 8 b.toNat) else e

/-- Write-through of the SU and VE: a present L1 line is updated, none is allocated (R232). -/
def l1Update (p : Fin 72) (s : State) (cells : List (Nat × Byte)) : State :=
  s.modCore p fun k => { k with l1 := cells.foldl (fun l c => l1Poke l c.1 c.2) k.l1 }

/-- A write of core p that allocates in no cache, and updates a present line (R233). -/
def writeThrough (p : Fin 72) (s : State) (cells : List (Nat × Byte)) : State × Option Flt × Nat :=
  let r := devWriteN (.core p) s cells
  (l1Update p r.1 (cells.filter fun c => decide (c.1 < memTop s)), r.2)

/-- A store by the SU or VE: its lines are allocated in their slices (R232). -/
def storeCells (p : Fin 72) (s : State) (cells : List (Nat × Byte)) : State × Option Flt :=
  let r := writeThrough p s cells
  let lines := cells.foldl (fun l c => if c.1 < memTop s ∧ !ctrlLost s c.1 then nsetAdd l (c.1 / 64) else l) []
  (lines.foldl (fun s l => l2Fill s (64 * l)) r.1, r.2.1)

/-- A read of a copy or a chain (R233). -/
def copyRead (m : Master) (s : State) (a len : Nat) : State × List Byte × Option Flt :=
  match m with
  | .core p => readThrough p s a len
  | _ => devRead m s a len

/-- A write of a copy or a chain, with the first error and the bytes that were written (R233). -/
def copyWrite (m : Master) (s : State) (cells : List (Nat × Byte)) : State × Option Flt × Nat :=
  match m with
  | .core p => writeThrough p s cells
  | _ => devWriteN m s cells

/-- A barrier: every L1 line of the core is invalidated and counted (R234). -/
def l1Barrier (p : Fin 72) (s : State) : State :=
  ((s.modCore p fun c => { c with l1 := [], l1Err := [], extSig := false }).rcountWrap .vtrL1Stat 0 p.val 32 32 1)

/-! ## The inventory (R241 to R246) -/

def invDefault (_ : Nat) : InvEntry := {}

def invGet (s : State) (i : Nat) : InvEntry := smapGet invDefault s.lay.inv i

def invPut (s : State) (i : Nat) (e : InvEntry) : State :=
  { s with lay := { s.lay with inv := smapPut invDefault s.lay.inv i e } }

/-- An entry is live when it has a kind, is not being freed and has a size (R243, R245). -/
def InvEntry.live (e : InvEntry) : Bool := e.kind ≠ 0 && !e.freeing && decide (0 < e.size.toNat)

/-- Whether a span lies wholly inside one live inventory allocation (R47, R149, R216). -/
def liveSpan (s : State) (a len : Nat) : Bool :=
  s.lay.inv.any fun ie => ie.2.live && decide (ie.2.base.toNat ≤ a ∧ a + len ≤ ie.2.base.toNat + ie.2.size.toNat)

/-- Whether engines may write an entry's range (R241). -/
def InvEntry.writable (e : InvEntry) : Bool := decide (e.kind = 4) || (decide (e.kind = 1) && e.wr)

/-- Whether a span lies wholly inside one live allocation that engines may write (R241, R247, log 110). -/
def writableSpan (s : State) (a len : Nat) : Bool :=
  s.lay.inv.any fun ie => ie.2.live && ie.2.writable &&
    decide (ie.2.base.toNat ≤ a ∧ a + len ≤ ie.2.base.toNat + ie.2.size.toNat)

/-- The entry of a handle: index [15:0], generation [31:16] (R241). -/
def handleEntry (s : State) (h : W32) : Option (Nat × InvEntry) :=
  let i := bitsN h 0 16
  let e := invGet s i
  if e.live && decide (e.gen.toNat = bitsN h 16 16) && decide (bitsN h 16 16 ≠ 0) then some (i, e) else none

/-- The next generation: 65,535 wraps to 1 (R241). -/
def nextGen (g : BitVec 16) : BitVec 16 := if g = 0xFFFF then 1 else g + 1

/-- Begin a use of an entry (R244). -/
def useBegin (s : State) (i : Nat) : State :=
  let e := invGet s i
  invPut s i { e with users := e.users + 1 }

/-- End a use. An entry being freed becomes Free by its own event (R243). -/
def useEnd (s : State) (i : Nat) : State :=
  let e := invGet s i
  invPut s i { e with users := if e.users = 0 then 0 else e.users - 1 }

def usesEnd (s : State) (l : List Nat) : State := l.foldl useEnd s

end Sys2Proof.Machine
end

