-- ==== Sys2Proof/Machine/Hash.lean ====
section
/-!
DEFINITION. Sys2Proof/Machine/Hash.lean: the two checks that the spec names by their standards: SHA3-512 (FIPS 202), of the
Curator's digests and change log (R425, R431, R436), and CRC-64 (ECMA-182), of image uploads (R304). Their definitions are
those standards' (PRESUMED, log 61).
-/
namespace Sys2Proof.Machine

/-! ## SHA3-512

The 1,600-bit state is a list of 25 words; word x + 5y is lane (x, y). -/

abbrev Sponge := List (BitVec 64)

def wordOf (a : Sponge) (i : Nat) : BitVec 64 := a.getD i 0

/-- Parity of the five words of column x, for x modulo 5. -/
def columnParity (a : Sponge) (x : Nat) : BitVec 64 :=
  a.zipIdx.foldl (fun acc w => if w.2 % 5 = x % 5 then acc ^^^ w.1 else acc) 0

/-- θ: each word takes the parities of the column before and, turned by one, of the column after. -/
def mixColumns (a : Sponge) : Sponge :=
  a.mapIdx fun i w => w ^^^ columnParity a (i + 4) ^^^ (columnParity a (i + 1)).rotateLeft 1

/-- ρ and π in one walk over the words but word 0: from place (x, y) the word `cur` goes on to place (y, 2x + 3y), turned by the t-th
triangular number, and what stood there is carried on. -/
def turnAndMove : Nat → Nat → Nat × Nat → BitVec 64 → Sponge → Sponge
  | 0, _, _, _, a => a
  | n + 1, t, (x, y), cur, a =>
    let z := (2 * x + 3 * y) % 5
    let i := y + 5 * z
    turnAndMove n (t + 1) (y, z) (wordOf a i) (a.set i (cur.rotateLeft (t * (t + 1) / 2 % 64)))

/-- χ: within its row a word takes the two that follow it. -/
def mixRows (a : Sponge) : Sponge :=
  a.mapIdx fun i w =>
    let at_ (d : Nat) := wordOf a (i / 5 * 5 + (i % 5 + d) % 5)
    w ^^^ (~~~at_ 1 &&& at_ 2)

/-- The shift register of x⁸ + x⁶ + x⁵ + x⁴ + 1 that ι draws its bits from. -/
def roundLfsr (r : Nat) : Nat := if 128 ≤ r then (2 * r) ^^^ 0x171 else 2 * r

/-- ι: seven bits of the register go to bits 2^j − 1 of word 0. -/
def roundBits : Nat → Nat → Nat → BitVec 64 → BitVec 64 × Nat
  | 0, _, r, w => (w, r)
  | n + 1, j, r, w => roundBits n (j + 1) (roundLfsr r) (if r % 2 = 1 then w ^^^ BitVec.ofNat 64 (2 ^ (2 ^ j - 1)) else w)

/-- One round, with the register as the round before has left it. -/
def spongeRound (x : Sponge × Nat) : Sponge × Nat :=
  let m := mixColumns x.1
  let b := mixRows (turnAndMove 24 1 (1, 0) (wordOf m 1) m)
  let k := roundBits 7 0 x.2 (wordOf b 0)
  (b.set 0 k.1, k.2)

/-- The permutation: 24 rounds. -/
def permute (a : Sponge) : Sponge := ((List.range 24).foldl (fun x _ => spongeRound x) (a, 1)).1

/-- Bytes of a block at the rate of SHA3-512. -/
def sha3Rate : Nat := 72

/-- The message with the domain bits 01 and the padding 1 0… 1. -/
def sha3Padded (m : List Byte) : List Byte :=
  let fill := sha3Rate - (m.length + 1) % sha3Rate
  let l := m ++ 0x06 :: List.replicate (fill % sha3Rate) 0
  l.dropLast ++ [l.getLastD 0 ||| 0x80]

/-- One block goes into the state. -/
def absorbBlock (a : Sponge) (block : List Byte) : Sponge :=
  permute (a.mapIdx fun i w => w ^^^ BitVec.ofNat 64 (leNat (slice block (8 * i) 8)))

def absorbAll : Nat → Sponge → List Byte → Sponge
  | 0, a, _ => a
  | n + 1, a, m => absorbAll n (absorbBlock a (m.take sha3Rate)) (m.drop sha3Rate)

/-- SHA3-512; byte i of the digest is bits 8i + 7 to 8i. -/
def sha3_512 (m : List Byte) : BitVec 512 :=
  let p := sha3Padded m
  let a := absorbAll (p.length / sha3Rate) (List.replicate 25 0) p
  BitVec.ofNat 512 (((a.take 8).zipIdx).foldl (fun d w => d + w.1.toNat * 2 ^ (64 * w.2)) 0)

/-! ## CRC-64 -/

/-- Eight shifts of the CRC register by the polynomial of ECMA-182. -/
def crc64Byte (v : BitVec 64) (b : Byte) : BitVec 64 :=
  (List.range 8).foldl (fun v _ => if v.msb then v <<< 1 ^^^ 0x42F0E1EBA9EA3693 else v <<< 1)
    (v ^^^ b.zeroExtend 64 <<< 56)

def crc64 (m : List Byte) : BitVec 64 := m.foldl crc64Byte 0

end Sys2Proof.Machine
end

