-- ==== Sys2Proof/Machine/Fp.lean ====
section
/-!
DEFINITION. Sys2Proof/Machine/Fp.lean: the number formats, rounding and conversions of "Number formats, rounding and
quantisation" (R111 to R123), on exact dyadic numbers.  A value of any type travels as its bits in a `W32`.
Sticky bits have one layout for every engine (R151, R170, SLD and SST of group 0x2): INV 0, DZ 1, OFL 2, UFL 3,
INX 4, SAT_HIT 5.
-/
namespace Sys2Proof

/-! ## Element types (R63, R111, R112) -/

def ETy.ofCode (c : BitVec 4) : Option ETy :=
  match c.toNat with
  | 0 => some .fp32 | 1 => some .bf16 | 2 => some .fp16 | 3 => some .e4m3
  | 4 => some .e5m2 | 5 => some .int8 | 6 => some .int4 | 7 => some .int32
  | _ => none

def ETy.width : ETy → Nat
  | .fp32 | .int32 => 32
  | .bf16 | .fp16 => 16
  | .e4m3 | .e5m2 | .int8 => 8
  | .int4 => 4

/-- Elements per 32-bit lane (R63). -/
def ETy.perLane (t : ETy) : Nat := 32 / t.width

/-- Element size in bytes, for types of at least a byte. -/
def ETy.bytes (t : ETy) : Nat := t.width / 8

def ETy.isFloat : ETy → Bool
  | .fp32 | .bf16 | .fp16 | .e4m3 | .e5m2 => true
  | _ => false

/-- A floating-point layout: exponent bits, mantissa bits, bias (R111). -/
structure FFmt where
  eb : Nat
  mb : Nat
  bias : Nat
  deriving DecidableEq, Repr

def ETy.ffmt : ETy → FFmt
  | .bf16 => ⟨8, 7, 127⟩
  | .fp16 => ⟨5, 10, 15⟩
  | .e4m3 => ⟨4, 3, 7⟩
  | .e5m2 => ⟨5, 2, 15⟩
  | _ => ⟨8, 23, 127⟩

/-- The canonical NaN of a type (R113, R115). -/
def ETy.nan : ETy → W32
  | .bf16 => 0x7FC0 | .fp16 => 0x7E00 | .e4m3 => 0x7F | .e5m2 => 0x7E | _ => 0x7FC00000

/-- The largest finite magnitude of a type. -/
def ETy.maxFinite : ETy → W32
  | .bf16 => 0x7F7F | .fp16 => 0x7BFF | .e4m3 => 0x7E | .e5m2 => 0x7B | _ => 0x7F7FFFFF

/-- +∞ of a type; E4M3 has none and delivers its NaN instead (R121). -/
def ETy.inf : ETy → W32
  | .bf16 => 0x7F80 | .fp16 => 0x7C00 | .e4m3 => 0x7F | .e5m2 => 0x7C | _ => 0x7F800000

/-- The sign bit of a floating-point type. -/
def ETy.signBit (t : ETy) : W32 := BitVec.ofNat 32 (2 ^ (t.width - 1))

end Sys2Proof

namespace Sys2Proof.Machine

abbrev Flags := BitVec 16
def fINV : Flags := 0x1
def fDZ : Flags := 0x2
def fOFL : Flags := 0x4
def fUFL : Flags := 0x8
def fINX : Flags := 0x10
def fSAT : Flags := 0x20

/-! ## Values -/

/-- A floating-point value: a NaN, an infinity, or ±m × 2^e. -/
inductive Fp where
  | nan
  | inf (neg : Bool)
  | fin (neg : Bool) (m : Nat) (e : Int)
  deriving DecidableEq, Repr

/-- The value of the bits of a floating-point type (R111). -/
def Fp.decode (t : ETy) (x : W32) : Fp :=
  let f := t.ffmt
  let n := x.toNat % 2 ^ t.width
  let neg := decide (n / 2 ^ (t.width - 1) = 1)
  let ex := n / 2 ^ f.mb % 2 ^ f.eb
  let ma := n % 2 ^ f.mb
  if ex = 0 then .fin neg ma (1 - (f.bias : Int) - f.mb)
  else if ex = 2 ^ f.eb - 1 then
    match t with
    | .e4m3 => if ma = 7 then .nan else .fin neg (ma + 2 ^ f.mb) ((ex : Int) - f.bias - f.mb)
    | _ => if ma = 0 then .inf neg else .nan
  else .fin neg (ma + 2 ^ f.mb) ((ex : Int) - f.bias - f.mb)

def Fp.isNan : Fp → Bool
  | .nan => true
  | _ => false

def Fp.isZero : Fp → Bool
  | .fin _ m _ => decide (m = 0)
  | _ => false

def Fp.isFinite : Fp → Bool
  | .fin .. => true
  | _ => false

/-- The signed numerator over 2^e0, for e0 not above the exponent. -/
def Fp.scaled (neg : Bool) (m : Nat) (e e0 : Int) : Int :=
  let v : Int := (m * 2 ^ (e - e0).toNat : Nat)
  if neg then -v else v

/-- IEEE 754 comparison of two values that are not NaN: negative, zero or positive for below, equal, above. -/
def Fp.cmp (a b : Fp) : Int :=
  match a, b with
  | .inf na, .inf nb => (if na then (-1) else 1) - (if nb then (-1) else 1)
  | .inf na, _ => if na then -1 else 1
  | _, .inf nb => if nb then 1 else -1
  | .fin na ma ea, .fin nb mb eb =>
    let e0 := min ea eb
    Fp.scaled na ma ea e0 - Fp.scaled nb mb eb e0
  | _, _ => 0

/-! ## Rounding (R117, R118) -/

/-- Whether to step away from zero: `lsb` is the kept number's lowest bit, `rem` of 2^sh was discarded, and `st`
says that more was discarded below.  Mode 4 draws (R118). -/
def roundStep (mode : Nat) (draw : W32) (neg lsb : Bool) (rem sh : Nat) (st : Bool) : Bool :=
  let inexact := decide (rem ≠ 0) || st
  match mode with
  | 0 => decide (2 * rem > 2 ^ sh) || (decide (2 * rem = 2 ^ sh) && (st || lsb))
  | 1 => false
  | 2 => inexact && !neg
  | 3 => inexact && neg
  | _ => inexact && decide (rem * 2 ^ 24 / 2 ^ sh + draw.toNat / 256 ≥ 2 ^ 24)

/-- The magnitude m × 2^e (plus less than one unit of it when `st`) on the grid 2^q: the multiple, and whether it is
inexact. -/
def roundGrid (mode : Nat) (draw : W32) (neg : Bool) (m : Nat) (e q : Int) (st : Bool) : Nat × Bool :=
  if q ≤ e then (m * 2 ^ (e - q).toNat, st)
  else
    let sh := (q - e).toNat
    let k := m / 2 ^ sh
    let rem := m % 2 ^ sh
    let up := roundStep mode draw neg (decide (k % 2 = 1)) rem sh st
    (if up then k + 1 else k, decide (rem ≠ 0) || st)

/-- The bits of a finite rounded magnitude `k × 2^q` that fits the format. -/
def encodeFin (t : ETy) (neg : Bool) (k : Nat) (q : Int) : W32 :=
  let f := t.ffmt
  let s := if neg then t.signBit else 0
  if k < 2 ^ f.mb then s ||| BitVec.ofNat 32 k
  else s ||| BitVec.ofNat 32 ((q + f.mb + f.bias).toNat * 2 ^ f.mb + (k - 2 ^ f.mb))

/-- The IEEE 754 overflow result for the rounding mode (R121). A stochastic rounding whose lower neighbour is beyond the largest finite
value already gives the infinity too (DEDUCED, log 131). -/
def overflowBits (t : ETy) (mode : Nat) (neg sat : Bool) : W32 :=
  let toInf := match mode with
    | 1 => false
    | 2 => !neg
    | 3 => neg
    | _ => true
  if sat || !toInf then (if neg then t.signBit else 0) ||| t.maxFinite
  else match t with
    | .e4m3 => t.nan
    | _ => (if neg then t.signBit else 0) ||| t.inf

/-- Round the magnitude m × 2^e, with `st` for a discarded tail, once to a type (R114, R117, R118, R121). -/
def roundFin (t : ETy) (mode : Nat) (draw : W32) (sat neg : Bool) (m : Nat) (e : Int) (st : Bool) : W32 × Flags :=
  let f := t.ffmt
  if m = 0 && !st then (if neg then t.signBit else 0, 0)
  else
    let top : Int := (Nat.log2 m : Int) + e
    let emin : Int := 1 - (f.bias : Int)
    let q := max (top - f.mb) (emin - f.mb)
    let (k0, inx) := roundGrid mode draw neg m e q st
    let (k, q) := if k0 = 2 ^ (f.mb + 1) then (2 ^ f.mb, q + 1) else (k0, q)
    let emax : Int := match t with
      | .e4m3 => 8
      | _ => f.bias
    let kmax : Nat := match t with
      | .e4m3 => 14
      | _ => 2 ^ (f.mb + 1) - 1
    let ex := q + f.mb
    if decide (2 ^ f.mb ≤ k) && (decide (emax < ex) || (decide (ex = emax) && decide (kmax < k))) then
      (overflowBits t mode neg sat, fOFL ||| fINX ||| (if sat then fSAT else 0))
    else
      let tiny := decide (k < 2 ^ f.mb)
      (encodeFin t neg k q, if inx then fINX ||| (if tiny then fUFL else 0) else 0)

/-- Round a value to a type: NaN is the canonical NaN (R115), an infinity stays or saturates (R121). -/
def roundTo (t : ETy) (mode : Nat) (draw : W32) (sat : Bool) (x : Fp) : W32 × Flags :=
  match x with
  | .nan => (t.nan, 0)
  | .inf neg =>
    let s := if neg then t.signBit else 0
    if sat then (s ||| t.maxFinite, fSAT)
    else match t with
      | .e4m3 => (t.nan, fINV)
      | _ => (s ||| t.inf, 0)
  | .fin neg m e => roundFin t mode draw sat neg m e false

/-! ## Arithmetic: the exact result (R131, IEEE 754) -/

/-- The exact sum; an exact zero from operands of unlike sign is +0, or −0 toward −∞. The flags are INV or none. -/
def Fp.addX (mode : Nat) (a b : Fp) : Fp × Flags :=
  match a, b with
  | .nan, _ => (.nan, 0)
  | _, .nan => (.nan, 0)
  | .inf na, .inf nb => if na = nb then (.inf na, 0) else (.nan, fINV)
  | .inf na, _ => (.inf na, 0)
  | _, .inf nb => (.inf nb, 0)
  | .fin na ma ea, .fin nb mb eb =>
    let e0 := min ea eb
    let s := Fp.scaled na ma ea e0 + Fp.scaled nb mb eb e0
    if s = 0 then
      let neg := if ma = 0 && mb = 0 && (na == nb) then na else decide (mode = 3)
      (.fin neg 0 e0, 0)
    else (.fin (decide (s < 0)) s.natAbs e0, 0)

/-- The exact product. -/
def Fp.mulX (a b : Fp) : Fp × Flags :=
  match a, b with
  | .nan, _ => (.nan, 0)
  | _, .nan => (.nan, 0)
  | .inf na, .inf nb => (.inf (na != nb), 0)
  | .inf na, .fin nb m _ => if m = 0 then (.nan, fINV) else (.inf (na != nb), 0)
  | .fin na m _, .inf nb => if m = 0 then (.nan, fINV) else (.inf (na != nb), 0)
  | .fin na ma ea, .fin nb mb eb => (.fin (na != nb) (ma * mb) (ea + eb), 0)

/-- The exact a × b + c; 0 × ∞ sets INV even when c is a NaN (R131). -/
def Fp.fmaX (mode : Nat) (a b c : Fp) : Fp × Flags :=
  let (p, f1) := Fp.mulX a b
  let (r, f2) := Fp.addX mode p c
  (r, f1 ||| f2)

def Fp.negate : Fp → Fp
  | .nan => .nan
  | .inf n => .inf (!n)
  | .fin n m e => .fin (!n) m e

/-- The correctly rounded FP32 quotient of two FP32 values, to nearest even (R162, R163: mean and weight). -/
def fp32Div (a b : W32) : W32 × Flags :=
  match Fp.decode .fp32 a, Fp.decode .fp32 b with
  | .nan, _ => ((ETy.nan .fp32), 0)
  | _, .nan => ((ETy.nan .fp32), 0)
  | .inf na, .inf _ => if na then ((ETy.nan .fp32), fINV) else ((ETy.nan .fp32), fINV)
  | .inf na, .fin nb _ _ => ((if na != nb then (ETy.signBit .fp32) else 0) ||| (ETy.inf .fp32), 0)
  | .fin na _ _, .inf nb => (if na != nb then (ETy.signBit .fp32) else 0, 0)
  | .fin na ma ea, .fin nb mb eb =>
    if mb = 0 then
      if ma = 0 then ((ETy.nan .fp32), fINV)
      else ((if na != nb then (ETy.signBit .fp32) else 0) ||| (ETy.inf .fp32), fDZ)
    else
      let n := ma * 2 ^ 64
      roundFin .fp32 0 0 false (na != nb) (n / mb) (ea - eb - 64) (decide (n % mb ≠ 0))

/-! ## Integers -/

def signExt32 (w : Nat) (x : W32) : Int :=
  let n : Nat := x.toNat % 2 ^ w
  if n < 2 ^ (w - 1) then (n : Int) else (n : Int) - (2 ^ w : Nat)

/-- Two's complement of an integer in w bits. -/
def intBits (w : Nat) (i : Int) : W32 := BitVec.ofNat 32 (i.emod (2 ^ w : Nat)).toNat

def intMin (w : Nat) : Int := -((2 ^ (w - 1) : Nat) : Int)
def intMax (w : Nat) : Int := ((2 ^ (w - 1) : Nat) : Int) - 1

/-- A floating-point value rounded to an integer, with whether that was inexact (R117, R118). -/
def Fp.toInt (mode : Nat) (draw : W32) (neg : Bool) (m : Nat) (e : Int) : Int × Bool :=
  let (k, inx) := roundGrid mode draw neg m e 0 false
  (if neg then -(k : Int) else k, inx)

/-- Conversion to an integer of w bits from floating point (R122). -/
def convToInt (w mode : Nat) (draw : W32) (sat : Bool) (x : Fp) : Int × Flags :=
  let lim := if sat then fSAT else fINV
  match x with
  | .nan => (0, fINV)
  | .inf neg => (if neg then intMin w else intMax w, lim)
  | .fin neg m e =>
    let (i, inx) := Fp.toInt mode draw neg m e
    if i < intMin w then (intMin w, lim)
    else if intMax w < i then (intMax w, lim)
    else (i, if inx then fINX else 0)

/-- The table of R120: conversions that are exact for every source value, infinities among them. -/
def convTable (dst src : ETy) : Bool :=
  match src, dst with
  | .bf16, .fp32 | .fp16, .fp32 => true
  | .e4m3, .fp32 | .e4m3, .bf16 | .e4m3, .fp16 => true
  | .e5m2, .fp32 | .e5m2, .bf16 | .e5m2, .fp16 => true
  | .int8, .int32 | .int8, .fp32 | .int8, .bf16 | .int8, .fp16 => true
  | .int4, .int4 => false
  | .int4, _ => true
  | _, _ => false

/-- Conversions that are no rounding step of a chain: identical formats copy bits, the others are in the table (R177, R189; DEDUCED,
log 111). -/
def convExact (dst src : ETy) : Bool := decide (dst = src) || convTable dst src

/-- Conversion of one element from type `src` to type `dst` (R77, R115, R120 to R122).  Equal types copy bits; an exact conversion
keeps an infinity whatever SAT says (R120). -/
def convert (dst src : ETy) (mode : Nat) (draw : W32) (sat : Bool) (x : W32) : W32 × Flags :=
  if dst = src then (x, 0)
  else if src.isFloat then
    let v := Fp.decode src x
    if dst.isFloat then roundTo dst mode draw (sat && !convTable dst src) v
    else
      let (i, f) := convToInt dst.width mode draw sat v
      (intBits dst.width i, f)
  else
    let i := signExt32 src.width x
    if dst.isFloat then roundFin dst mode draw sat (decide (i < 0)) i.natAbs 0 false
    else if sat then
      if i < intMin dst.width then (intBits dst.width (intMin dst.width), fSAT)
      else if intMax dst.width < i then (intBits dst.width (intMax dst.width), fSAT)
      else (intBits dst.width i, 0)
    else (intBits dst.width i, 0)

/-! ## Element operations on the bits of a type (R128 to R131) -/

def eAdd (t : ETy) (mode : Nat) (draw a b : W32) : W32 × Flags :=
  match t with
  | .int32 => (a + b, 0)
  | _ =>
    let (r, f) := Fp.addX mode (Fp.decode t a) (Fp.decode t b)
    let (x, g) := roundTo t mode draw false r
    (x, f ||| g)

def eNegBits (t : ETy) (x : W32) : W32 := x ^^^ t.signBit
def eAbsBits (t : ETy) (x : W32) : W32 := x &&& ~~~t.signBit

def eSub (t : ETy) (mode : Nat) (draw a b : W32) : W32 × Flags :=
  match t with
  | .int32 => (a - b, 0)
  | _ =>
    let (r, f) := Fp.addX mode (Fp.decode t a) (Fp.decode t b).negate
    let (x, g) := roundTo t mode draw false r
    (x, f ||| g)

def eMul (t : ETy) (mode : Nat) (draw a b : W32) : W32 × Flags :=
  match t with
  | .int32 => (a * b, 0)
  | _ =>
    let (r, f) := Fp.mulX (Fp.decode t a) (Fp.decode t b)
    let (x, g) := roundTo t mode draw false r
    (x, f ||| g)

/-- a × b + c, or a × b − c when `sub`, rounded once. -/
def eFma (t : ETy) (mode : Nat) (draw : W32) (sub : Bool) (a b c : W32) : W32 × Flags :=
  let vc := Fp.decode t c
  let (r, f) := Fp.fmaX mode (Fp.decode t a) (Fp.decode t b) (if sub then vc.negate else vc)
  let (x, g) := roundTo t mode draw false r
  (x, f ||| g)

/-- Whether a orders below b, with −0 below +0 (R131). -/
def fpBelow (a b : Fp) : Bool :=
  let c := Fp.cmp a b
  decide (c < 0) ||
  (decide (c = 0) && match a, b with
    | .fin na ma _, .fin nb mb _ => ma = 0 && mb = 0 && na && !nb
    | _, _ => false)

/-- Maximum (`mx`) or minimum; `num` selects the Number form (R131). -/
def eMinMax (t : ETy) (mx num : Bool) (a b : W32) : W32 :=
  match t with
  | .int32 =>
    let lt := decide (a.toInt < b.toInt)
    if lt == mx then b else a
  | _ =>
    let va := Fp.decode t a
    let vb := Fp.decode t b
    if va.isNan && vb.isNan then t.nan
    else if va.isNan then (if num then b else t.nan)
    else if vb.isNan then (if num then a else t.nan)
    else if mx then (if fpBelow va vb then b else a) else (if fpBelow vb va then b else a)

/-- The VCMP predicates: 0 EQ, 1 NE, 2 LT, 3 LE, 4 GT, 5 GE, 6 UNORD, 7 ORD (R131). -/
def eCmp (t : ETy) (pred : Nat) (a b : W32) : Bool :=
  let onCmp (c : Int) : Bool := match pred with
    | 0 => decide (c = 0)
    | 1 => decide (c ≠ 0)
    | 2 => decide (c < 0)
    | 3 => decide (c ≤ 0)
    | 4 => decide (0 < c)
    | 5 => decide (0 ≤ c)
    | 6 => false
    | _ => true
  match t with
  | .int32 => onCmp (a.toInt - b.toInt)
  | _ =>
    let va := Fp.decode t a
    let vb := Fp.decode t b
    if va.isNan || vb.isNan then decide (pred = 1) || decide (pred = 6) else onCmp (Fp.cmp va vb)

/-- Whether an element is zero in its type (R195). -/
def eIsZero (t : ETy) (x : W32) : Bool :=
  if t.isFloat then (Fp.decode t x).isZero else decide (x.toNat % 2 ^ t.width = 0)

end Sys2Proof.Machine
end

