-- ==== Sys2Proof/Machine/Operands.lean ====
section
/-!
DEFINITION. Sys2Proof/Machine/Operands.lean: the fields of an instruction: the sync word (R31), which operand fields an
instruction uses (R61), which S and P registers it reads at issue (R25, R62), and the checks of the operand ranges
(R59, R60, R64 and each instruction's own entry).
-/
namespace Sys2Proof.Machine

/-! ## The sync word, bits [127:80] (R31) -/

def syWfEn (y : BitVec 48) : Bool := bitB y 47
def syWfState (y : BitVec 48) : Bool := bitB y 46
def syWfClr (y : BitVec 48) : Bool := bitB y 45
def syWfIdx (y : BitVec 48) : Nat := bitsN y 40 5
def syWkEn (y : BitVec 48) : Bool := bitB y 39
def syWkSrel (y : BitVec 48) : Bool := bitB y 38
def syWkIdx (y : BitVec 48) : Nat := bitsN y 34 4
def syWkTh (y : BitVec 48) : BitVec 16 := y.extractLsb' 18 16
def syWkSreg (y : BitVec 48) : BitVec 5 := y.extractLsb' 13 5
def sySfEn (y : BitVec 48) : Bool := bitB y 12
def sySfOp (y : BitVec 48) : Bool := bitB y 11
def sySfIdx (y : BitVec 48) : Nat := bitsN y 6 5
def sySkEn (y : BitVec 48) : Bool := bitB y 5
def sySkIdx (y : BitVec 48) : Nat := bitsN y 1 4
def sySigAt (y : BitVec 48) : Bool := bitB y 0

/-- No field whose governing bit is 0 is set (R31). -/
def syncReservedOk (y : BitVec 48) : Bool :=
  (syWfEn y || decide (bitsN y 40 7 = 0)) &&
  (syWkEn y || decide (bitsN y 13 26 = 0)) &&
  (syWkSrel y || decide (bitsN y 13 5 = 0)) &&
  (sySfEn y || decide (bitsN y 6 6 = 0)) &&
  (sySkEn y || decide (bitsN y 1 4 = 0)) &&
  (sySfEn y || sySkEn y || !sySigAt y)

/-- WF_CLR = 1 needs WF_STATE = 1 (R31). -/
def syncClrOk (y : BitVec 48) : Bool := !syWfClr y || syWfState y

def syncOk (y : BitVec 48) : Bool := syncReservedOk y && syncClrOk y

/-- Whether an instruction waits at the head of its queue. -/
def syWaits (y : BitVec 48) : Bool := syWfEn y || syWkEn y

/-! ## Register operands (R25, R62) -/

/-- A register operand read at issue. -/
inductive Src where
  | none
  | s (r : BitVec 5)
  | p (r : BitVec 5)
  deriving DecidableEq, Repr

def srcOf (isP : Bool) (r : BitVec 5) : Src := if isP then .p r else .s r

/-- The register operands in field order: RA RB RD of format S, VA VB VC of format V where they name S registers,
SA SN SZ of format M, SD SS SO SX of format D. -/
structure Srcs where
  a : Src := .none
  b : Src := .none
  c : Src := .none
  d : Src := .none
  deriving DecidableEq, Repr

def srcsS (op : CoreOp) (o : OpS) : Srcs :=
  let a := srcOf o.pa o.ra
  let b := srcOf o.pb o.rb
  match op with
  | .bcc | .sadd | .ssub | .smul | .sand | .sor | .sxor | .sshl | .sshr | .ssra | .smin | .smax | .scmp
  | .sfadd | .sfmul | .sfmin | .sfmax | .sst => { a, b }
  | .sffma => { a, b, c := .s o.rd }
  | .smovhi => { c := .s o.rd }
  | .loop | .saddi | .sfcvt | .sld => { a }
  | _ => {}

def srcsV (op : CoreOp) (o : OpV) : Srcs :=
  match op with
  | .vld | .vst | .vldab | .vstab | .vchld | .fstclr => { b := .s o.vb }
  | .vldw | .vzmap => { b := .s o.vb, c := .s o.vc }
  | .vseq => { a := .s o.va, b := .s o.vb, c := if bitB o.fx 17 then .none else .s o.vc }
  | .vmset => if bitsN o.fx 0 3 = 4 then { b := .s o.vb } else {}
  | _ => if o.bs then { b := .s o.vb } else {}

def srcsM (op : CoreOp) (o : OpM) : Srcs :=
  let a := srcOf (bitB o.psel 0) o.sa
  let b := srcOf (bitB o.psel 1) o.sn
  let c := srcOf (bitB o.psel 2) o.sz
  match op with
  | .mloads => { a, c }
  | .mprod => { a, b, c }
  | .msegt => { a, b }
  | .mabclr => { b }
  | _ => {}

def srcsD (op : CoreOp) (o : OpD) : Srcs :=
  let a := srcOf (bitB o.psel 0) o.sd
  let b := srcOf (bitB o.psel 1) o.ss
  let c := srcOf (bitB o.psel 2) o.so
  let d := srcOf (bitB o.psel 3) o.sx
  match op with
  | .ccopy | .ctrans | .cpput | .cpacc => { a, b }
  | .cfill => { a, c }
  | .cabout => { a, c, d }
  | .vcsr => { a, b, c }
  | .cpbkt => { b, c, d }
  | .cpsig => { a }
  | .cpgath => { b, d }
  | _ => {}

def srcsOf (op : CoreOp) : Args → Srcs
  | .none => {}
  | .s o => srcsS op o
  | .v o => srcsV op o
  | .m o => srcsM op o
  | .d o => srcsD op o

/-- A field that names a P register has bit 4 zero (R62). -/
def Src.ok : Src → Bool
  | .p r => !bitB r 4
  | _ => true

def Srcs.ok (x : Srcs) : Bool := x.a.ok && x.b.ok && x.c.ok && x.d.ok

/-- The S register that an instruction writes (the SU is the only unit that writes S registers). -/
def destOf (op : CoreOp) : Args → Option (BitVec 5)
  | .s o =>
    match op with
    | .sadd | .ssub | .smul | .sand | .sor | .sxor | .sshl | .sshr | .ssra | .smin | .smax | .scmp | .smovi | .smovhi
    | .saddi | .sfadd | .sfmul | .sffma | .sfmin | .sfmax | .sfcvt | .sld | .skrd | .sid | .sstat | .svget => some o.rd
    | .sflag => if bitsN o.imm 8 2 = 2 then some o.rd else none
    | _ => none
  | _ => none

/-! ## Operand forms: fields that an instruction does not use are zero, and ranges (R59, R61) -/

/-- Format S. Bits of IMM that an instruction does not name are no field: they are ignored in SFLAG, SKADD, SKRD, SID, SSTAT, SVGET and SMOVHI,
while SFCVT bounds the whole of IMM (DESIGN CHOICE, log 125: R61 speaks of whole fields). -/
def formOkS (op : CoreOp) (o : OpS) : Bool :=
  let rd0 := decide (o.rd = 0)
  let a0 := decide (o.ra = 0) && !o.pa
  let b0 := decide (o.rb = 0) && !o.pb
  let c0 := decide (o.cond = 0)
  let s0 := decide (o.sz = 0)
  let i0 := decide (o.imm = 0)
  match op with
  | .nop | .ret | .halt => rd0 && a0 && b0 && c0 && s0 && i0
  | .b | .call | .loopi => rd0 && a0 && b0 && c0 && s0
  | .bcc => rd0 && s0 && decide (o.cond.toNat < 6)
  | .loop => rd0 && b0 && c0 && s0
  | .sadd | .ssub | .smul | .sand | .sor | .sxor | .sshl | .sshr | .ssra | .smin | .smax => c0 && s0 && i0
  | .scmp => s0 && i0 && decide (o.cond.toNat < 6)
  | .smovi | .smovhi => a0 && b0 && c0 && s0
  | .saddi => b0 && c0 && s0
  | .sfadd | .sfmul | .sffma | .sfmin | .sfmax => s0 && i0 && decide (o.cond.toNat < 4)
  | .sfcvt => b0 && s0 && decide (o.cond.toNat < 4) && decide (o.imm.toNat < 4)
  | .sld => b0 && decide (o.cond.toNat < 2)
  | .sst => rd0 && c0
  | .sflag => a0 && b0 && c0 && s0 && decide (bitsN o.imm 8 2 < 3) && (decide (bitsN o.imm 8 2 = 2) || rd0)
  | .skadd => rd0 && a0 && b0 && c0 && s0
  | .skrd => a0 && b0 && c0 && s0
  | .sid => a0 && b0 && c0 && s0 && decide (bitsN o.imm 0 4 < 7)
  | .sstat => a0 && b0 && c0 && s0 && decide (1 ≤ bitsN o.imm 0 3 ∧ bitsN o.imm 0 3 ≤ 6)
  | .svget => !o.pa && b0 && c0 && s0
  | _ => true

/-- Vector arithmetic accepts FP32, BF16, FP16 and INT32 (R63). -/
def tyArith : ETy → Bool
  | .fp32 | .bf16 | .fp16 | .int32 => true
  | _ => false

def tyFp : ETy → Bool
  | .fp32 | .bf16 | .fp16 => true
  | _ => false

def ty32 : ETy → Bool
  | .fp32 | .int32 => true
  | _ => false

def tyIs (f : ETy → Bool) (c : BitVec 4) : Bool :=
  match ETy.ofCode c with
  | some t => f t
  | none => false

/-- The element type of a code that the form check has admitted. -/
def tyOf (code : BitVec 4) : ETy := (ETy.ofCode code).getD .fp32

/-- VL in lanes; 0 means 512 (R61). -/
def vlOf (o : OpV) : Nat := if o.vl = 0 then 512 else o.vl.toNat

/-- k of R77: the number of elements per lane of the wider type. Between 32-bit and 16-bit types this is 1 with two groups, where the table
of R77 has 2 and one (DEDUCED, log 132). -/
def cvtK (dst src : ETy) : Nat := min dst.perLane src.perLane

/-- The choices of g: elements per lane of the narrower type over k (R77). -/
def cvtGroups (dst src : ETy) : Nat := max dst.perLane src.perLane / cvtK dst src

/-- Format V. A field that only one mode of an instruction uses counts as used: MK and MZ with MK_EN = 0 take any value (DESIGN CHOICE, log
125; so do SZ of MLOADS with SP24 = 0 and of MPROD with ZSKIP = 0). -/
def formOkV (op : CoreOp) (o : OpV) : Bool :=
  let vd0 := decide (o.vd = 0)
  let a0 := decide (o.va = 0)
  let b0 := decide (o.vb = 0) && !o.bs
  let c0 := decide (o.vc = 0)
  let r0 := decide (o.rnd = 0)
  let rr := decide (o.rnd.toNat ≤ 4)
  let ri := r0 || !tyIs (fun t => decide (t = .int32)) o.type
  let s0 := !o.sat
  let t0 := decide (o.type2 = 0)
  let x0 := decide (o.fx = 0)
  let m0 := !o.mskEn && decide (o.msk = 0) && !o.mz
  let l0 := decide (o.vl = 0)
  let ty0 := decide (o.type = 0)
  let x := o.fx.toNat
  let i32 := tyIs (fun t => decide (t = .int32)) o.type
  match op with
  | .vadd | .vsub | .vmul => tyIs tyArith o.type && rr && ri && c0 && s0 && t0 && x0
  | .vfma | .vfms => tyIs tyFp o.type && rr && s0 && t0 && x0
  | .vmin | .vmax => tyIs tyArith o.type && r0 && c0 && s0 && t0 && decide (x ≤ 1)
  | .vabs | .vneg | .vmov => tyIs tyArith o.type && r0 && b0 && c0 && s0 && t0 && x0
  | .vcmp => tyIs tyArith o.type && r0 && c0 && s0 && t0 && decide (x < 8) && decide (o.vd.toNat < 8)
  | .vsel => tyIs tyArith o.type && r0 && c0 && s0 && t0 && x0 && o.mskEn && !o.mz
  | .vand | .vor | .vxor | .vshl => i32 && r0 && c0 && s0 && t0 && x0
  | .vshr => i32 && r0 && c0 && s0 && t0 && decide (x ≤ 1)
  | .vcvt => -- an INT32 form is one whose TYPE is INT32 (DEDUCED, log 126)
    b0 && c0 &&
    match ETy.ofCode o.type, ETy.ofCode o.type2 with
    | some d, some s => rr && decide (x < 8) && decide (x < cvtGroups d s) && (r0 || s.isFloat || decide (d ≠ .int32))
    | _, _ => false
  | .vrng =>
    a0 && b0 && c0 && r0 && s0 && t0 &&
    ((ty0 && decide (x = 1)) || (i32 && x0))
  | .sparsify => tyIs tyFp o.type && r0 && b0 && s0 && t0 && decide (x ≤ 1)
  | .vld => tyIs tyArith o.type && r0 && a0 && !o.bs && c0 && s0 && t0
  | .vst => tyIs tyArith o.type && r0 && vd0 && !o.bs && c0 && s0 && t0 && !o.mz
  | .vldw => tyIs tyArith o.type && r0 && a0 && !o.bs && s0 && t0 && x0
  | .vldab => tyIs ty32 o.type && r0 && a0 && !o.bs && c0 && s0 && t0 && x0
  | .vstab => tyIs ty32 o.type && r0 && vd0 && !o.bs && c0 && s0 && t0 && x0 && !o.mz
  | .vperm => tyIs ty32 o.type && r0 && c0 && s0 && t0 && x0
  | .vslide => tyIs ty32 o.type && r0 && b0 && c0 && s0 && t0 && decide (x < 1024)
  | .vbcast => tyIs ty32 o.type && r0 && b0 && c0 && s0 && t0 && decide (x < 512)
  | .vred => tyIs tyArith o.type && decide (o.rnd.toNat ≤ 3) && ri && b0 && c0 && s0 && t0 && decide (x < 8) &&
      decide (x % 4 < 3)
  | .vscan => tyIs ty32 o.type && r0 && b0 && c0 && s0 && t0 && decide (x < 16) && decide (x % 4 < 3) &&
      (decide (x < 8) || (ty0 && decide (x % 4 ≠ 0)))
  | .vseq => tyIs tyFp o.type && rr && !o.bs && s0 && t0 && decide (x < 2 ^ 18) && decide (x % 2 ^ 16 ≠ 0)
  | .vlut => i32 && r0 && b0 && c0 && s0 && x0 && decide (o.type2.toNat < 2)
  | .twr => ty0 && r0 && vd0 && b0 && c0 && s0 && decide (o.type2.toNat < 2) && !o.mz &&
      decide (x < 256) && decide (x + vlOf o ≤ 256)
  | .tswap => ty0 && r0 && vd0 && a0 && b0 && c0 && s0 && x0 && m0 && l0 && decide (o.type2.toNat < 2)
  | .vchld => ty0 && r0 && vd0 && a0 && !o.bs && c0 && s0 && t0 && m0 && l0 && decide (1 ≤ x ∧ x ≤ 31)
  | .vzmap => tyIs tyArith o.type && r0 && vd0 && !o.bs && s0 && t0 && !o.mz && decide (x ≤ 9) &&
      decide (vlOf o % 2 ^ (x % 16) = 0)
  | .vmset => ty0 && r0 && !o.bs && c0 && s0 && t0 && decide (x < 7) && decide (o.vd.toNat < 8) &&
      decide (o.va.toNat < 8) && (decide (x = 4) || decide (o.vb.toNat < 8)) && (decide (x ≤ 3) || a0) &&
      (decide (x ≤ 2 ∨ x = 4) || b0)
  | .ffun => tyIs tyFp o.type && r0 && b0 && c0 && s0 && t0 && decide (x < 16)
  | .fstat => tyIs tyFp o.type && r0 && vd0 && b0 && c0 && s0 && t0 && !o.mz && decide (x < 2 ^ 16) &&
      decide (bitsN o.fx 12 3 < 7) && decide (bitsN o.fx 0 12 + 2 ^ bitsN o.fx 12 3 ≤ 4096)
  | .fstrd => ty0 && r0 && a0 && b0 && c0 && s0 && t0 && decide (x < 4096)
  | .fstclr => ty0 && r0 && vd0 && a0 && !o.bs && c0 && s0 && t0 && m0 && l0 && decide (x < 4096)
  | .engineNop _ => false
  | _ => true

/-- The operand class of a stationary type and a streamed type (R71, R87): 0 the 16-bit class, 1 the 8-bit float
class, 2 INT8 × INT8, 3 INT8 × INT4. -/
def matClass (a w : ETy) : Option Nat :=
  match a, w with
  | .bf16, .bf16 | .bf16, .fp16 | .fp16, .bf16 | .fp16, .fp16 => some 0
  | .e4m3, .e4m3 | .e4m3, .e5m2 | .e5m2, .e4m3 | .e5m2, .e5m2 => some 1
  | .int8, .int8 => some 2
  | .int8, .int4 => some 3
  | _, _ => none

def matTypeOk : ETy → Bool
  | .fp32 | .int32 => false
  | _ => true

def formOkM (op : CoreOp) (o : OpM) : Bool :=
  let sa0 := decide (o.sa = 0) && !bitB o.psel 0
  let sn0 := decide (o.sn = 0) && !bitB o.psel 1
  let sz0 := decide (o.sz = 0) && !bitB o.psel 2
  let ab0 := decide (o.abr = 0)
  let f0 := decide (o.afmt = 0) && !o.acc && !o.seg && !o.zskip && decide (o.chain = 0)
  let w0 := decide (o.wfmt = 0) && !o.sp24
  let r0 := decide (o.rsv = 0)
  let i4 := tyIs (fun t => decide (t = .int4)) o.wfmt
  match op with
  | .mloads => sn0 && ab0 && f0 && r0 && tyIs matTypeOk o.wfmt && !(o.sp24 && i4)
  | .mswap => sa0 && sn0 && sz0 && ab0 && f0 && w0 && r0
  | .mprod =>
    r0 && !(o.sp24 && i4) &&
    match ETy.ofCode o.afmt, ETy.ofCode o.wfmt with
    | some a, some w => (matClass a w).isSome
    | _, _ => false
  | .msegt => sz0 && ab0 && f0 && w0 && r0
  | .mcsum => sa0 && sn0 && sz0 && f0 && w0 && r0
  | .mabclr => sa0 && sz0 && f0 && w0 && r0
  | _ => true

def formOkD (op : CoreOp) (o : OpD) : Bool :=
  let sd0 := decide (o.sd = 0) && !bitB o.psel 0
  let ss0 := decide (o.ss = 0) && !bitB o.psel 1
  let so0 := decide (o.so = 0) && !bitB o.psel 2
  let sx0 := decide (o.sx = 0) && !bitB o.psel 3
  let m0 := decide (o.mode = 0)
  let m1 := decide (o.mode.toNat < 2)
  let x0 := decide (o.fx = 0)
  match op with
  | .ccopy | .ctrans => so0 && sx0 && m0 && x0
  | .cpput | .cpacc => so0 && sx0
  | .cfill => ss0 && sx0 && m0 && x0
  | .cabout => ss0 && m0 && x0
  | .vcsr => sx0 && m1 && x0
  | .cpbkt => sd0 && x0
  | .cpsig => ss0 && so0 && sx0
  | .cpgath => sd0 && so0 && m0 && x0
  | _ => true

/-- Whether the operand fields are as the instruction's entry allows. -/
def formOk (op : CoreOp) (args : Args) : Bool :=
  (srcsOf op args).ok &&
  match args with
  | .none => true
  | .s o => formOkS op o
  | .v o => formOkV op o
  | .m o => formOkM op o
  | .d o => formOkD op o

/-- Whether the operand values read at issue are in the ranges of the instruction's entry (R59). -/
def valuesOk (e : Entry) : Bool :=
  match e.op, e.args with
  | .vldab, .v o | .vstab, .v o => decide (e.b.toNat + (vlOf o + 63) / 64 ≤ 4096)
  | .fstclr, .v o => decide (bitsN o.fx 0 12 + e.b.toNat ≤ 4096)
  | .mprod, .m o => decide (e.b.toNat ≠ 0 ∧ o.abr.toNat + e.b.toNat ≤ 4096)
  | .msegt, .m _ => decide (1 ≤ e.b.toNat ∧ e.b.toNat ≤ 256)
  | .mabclr, .m o => decide (o.abr.toNat + e.b.toNat ≤ 4096)
  | .cabout, .d _ => decide (e.d.toNat ≠ 0 ∧ e.c.toNat + e.d.toNat ≤ 4096)
  | _, _ => true

/-- The engine whose queue an opcode group uses; none for the front end and the reserved groups (R57). -/
def groupEngine (g : Nat) : Option Engine :=
  match g with
  | 1 | 2 => some .su
  | 4 => some .me
  | 5 | 6 => some .ve
  | 7 => some .sf
  | 8 => some .ce
  | 9 => some .cp
  | _ => none

def opGroup (op : CoreOp) : Nat := bitsN op.code 6 4

def opEngine (op : CoreOp) : Option Engine := groupEngine (opGroup op)

def engIdx : Engine → Fin 6
  | .su => 0 | .me => 1 | .ve => 2 | .sf => 3 | .ce => 4 | .cp => 5

/-- ENGINE code of COR_FREC_0. -/
def engCode (e : Engine) : BitVec 3 := BitVec.ofNat 3 ((engIdx e).val + 1)

/-! ## Vector operands (R65, R127 to R129) -/

def vGet (c : Core) (r : BitVec 5) (lane : Nat) : W32 := smapGet (fun _ => 0) c.v (r.toNat * 512 + lane)

/-- A write of places gives them new check bits: what errors they held are gone. -/
def Core.clean (c : Core) (f : Place → Bool) : Core :=
  { c with ecc := c.ecc.filter fun k => !f k, ecc1 := c.ecc1.filter fun k => !f k }

/-- Give a lane a value, and note the bits of it that the instruction writes (R130). -/
def vPutBits (c : Core) (r : BitVec 5) (lane : Nat) (bits x : W32) : Core :=
  let i := r.toNat * 512 + lane
  Core.clean { c with v := smapPut (fun _ => (0 : W32)) c.v i x, outV := (i, bits, x) :: c.outV } fun k => decide (k = .v i)

/-- Write a whole lane. -/
def vPut (c : Core) (r : BitVec 5) (lane : Nat) (x : W32) : Core := vPutBits c r lane (BitVec.allOnes 32) x

def maskBit (c : Core) (m : BitVec 3) (lane : Nat) : Bool := (c.m[m.toNat]'m.isLt).getLsbD lane

/-- Whether an element of a lane is predicated on: low halves and 32-bit elements by MK, high halves by M(MK XOR 1)
(R65). -/
def activeAt (c : Core) (o : OpV) (lane : Nat) (hi : Bool) : Bool :=
  !o.mskEn || maskBit c (if hi then o.msk ^^^ 1 else o.msk) lane

/-- Operand B: the broadcast low half of S[VB], or V[VB] (R129). -/
def opB (c : Core) (e : Entry) (o : OpV) (lane : Nat) : W32 :=
  if o.bs then e.b.extractLsb' 0 32 else vGet c o.vb lane

/-- Element `k` of width w in a lane (R63, R113). -/
def elemOf (w k : Nat) (x : W32) : W32 := BitVec.ofNat 32 (bitsN x (k * w) w)

def elemPut (w k : Nat) (x v : W32) : W32 := setBits x (k * w) w v.toNat

/-! ## Draws (R145) -/

def genDefault (c : Core) (g : Nat) : W64 := Config.freeValue (c.seedBase + g)

/-- A generator's state; an unlisted one holds the free value that its seeding drew from the noise source (R147). -/
def genGet (c : Core) (g : Nat) : W64 :=
  match c.gen.find? fun e => e.1 = g with
  | some e => e.2
  | none => genDefault c g

/-- Insert or replace, keys rising; entries are kept whatever they hold. -/
def kvInsert {β : Type} : List (Nat × β) → Nat → β → List (Nat × β)
  | [], k, v => [(k, v)]
  | (k', v') :: t, k, v =>
    if k < k' then (k, v) :: (k', v') :: t
    else if k = k' then (k, v) :: t
    else (k', v') :: kvInsert t k v

def genOut (s : W64) : W32 :=
  let x := s ^^^ (s >>> 29)
  let x := x * 0xBF58476D1CE4E5B9
  let x := x ^^^ (x >>> 32)
  x.extractLsb' 0 32

def genStep (g : Nat) (s : W64) : W64 := s * 0x5851F42D4C957F2D + BitVec.ofNat 64 (2 * g + 1)

/-- One draw of generator g (R145). -/
def drawGen (c : Core) (g : Nat) : W32 × Core :=
  let s := genGet c g
  (genOut s, { c with gen := kvInsert c.gen g (genStep g s) })

end Sys2Proof.Machine
end

