-- ==== Sys2Proof/Machine/Flags.lean ====
section
/-!
DEFINITION. Sys2Proof/Machine/Flags.lean: the flags and counters of a core (R31 to R37), the sticky status bits (R134),
the error logs and their summary (R394, R398, R442), and how a core faults and stops (R48 to R50).
-/
namespace Sys2Proof.Machine

/-- Item `i` of a vector, `d` beyond its end. -/
def vAt {α : Type} {n : Nat} (v : Vector α n) (d : α) (i : Nat) : α := v[i]?.getD d

/-! ## Flags and counters -/

def flagOf (c : Core) (i : Nat) : Bool := bitB c.f i

def setFlag (c : Core) (i : Nat) (b : Bool) : Core := { c with f := setBit c.f i b }

def counterOf (c : Core) (i : Nat) : BitVec 16 := vAt c.k 0 i

def setCounter (c : Core) (i : Nat) (x : BitVec 16) : Core := { c with k := c.k.setIfInBounds i x }

/-- Counters wrap modulo 65,536 (R33). -/
def incCounter (c : Core) (i : Nat) : Core := setCounter c i (counterOf c i + 1)

/-- The signal fields of a sync word: the clear or set of a flag, then the increment (R31, R36). -/
def applySignals (y : BitVec 48) (c : Core) : Core :=
  let c := if sySfEn y then setFlag c (sySfIdx y) (sySfOp y) else c
  if sySkEn y then incCounter c (sySkIdx y) else c

/-- A flag wait is satisfied when the flag equals WF_STATE (R32). -/
def flagWaitOk (c : Core) (y : BitVec 48) : Bool := !syWfEn y || (flagOf c (syWfIdx y) == syWfState y)

/-- A counter wait with threshold T is satisfied when (K − T) mod 65,536 is below 32,768 (R32). -/
def counterWaitOk (c : Core) (y : BitVec 48) (t : BitVec 16) : Bool :=
  !syWkEn y || decide ((counterOf c (syWkIdx y) - t).toNat < 32768)

def waitsOk (c : Core) (y : BitVec 48) (t : BitVec 16) : Bool := flagWaitOk c y && counterWaitOk c y t

/-- The clear by a satisfied wait (R34). -/
def waitClear (y : BitVec 48) (c : Core) : Core :=
  if syWfEn y && syWfClr y then setFlag c (syWfIdx y) false else c

/-- A signal from outside the core: the set of a flag or the increment of a counter (R37); the next satisfied wait is
then a barrier (R234). -/
def outsideSignal (inc : Bool) (i : Nat) (c : Core) : Core :=
  let c := if inc then incCounter c i else setFlag c i true
  { c with extSig := true }

/-! ## Sticky status bits -/

def orSticky (c : Core) (e : Engine) (x : BitVec 16) : Core :=
  { c with sticky := c.sticky.setIfInBounds (engIdx e).val (vAt c.sticky 0 (engIdx e).val ||| x) }

def clearSticky (c : Core) (e : Engine) (x : BitVec 16) : Core :=
  { c with sticky := c.sticky.setIfInBounds (engIdx e).val (vAt c.sticky 0 (engIdx e).val &&& ~~~x) }

/-! ## Messages, logs and the summary -/

def emit (s : State) (m : Msg) : State := { s with out := s.out ++ [m] }

/-- An uncorrectable error in the status register of AER (R287, log 117): bit 12 a poisoned TLP received, 14 a completion timeout, 15 a
Completer Abort and 20 an Unsupported Request of this function. -/
def aerNote (s : State) (bit : Nat) : State := { s with host := { s.host with aer := setBit s.host.aer bit true } }

/-- The answer of a host request that is not served. -/
def replyUr (s : State) : State := emit (aerNote s 20) (.reply .unsupported [])

/-- Dword `k` of the MSI-X table; the mask bit of every vector is 1 until written. -/
def msixDefault (k : Nat) : W32 := if k % 4 = 3 then 1 else 0

def msixMasked (s : State) (v : Nat) : Bool := bitB (smapGet msixDefault s.host.msix (4 * v + 3)) 0

/-- The PCIe transmitters work: the link is up and its controller is clocked (R405, R413, R417). -/
def pcieUp (s : State) : Bool := s.power.link.isSome && !s.power.perst && domOn s 4

/-- Send to an MSI-X vector; a masked vector sets its PBA bit (R311). While the transmitters are idle nothing goes out (R405, R413; that the
message is not sent later is DEDUCED, log 143). -/
def sendMsix (s : State) (v : Nat) : State :=
  if msixMasked s v then { s with host := { s.host with pba := nsetAdd s.host.pba v } }
  else if pcieUp s then emit s (.msix v)
  else s

/-- Write a two-word error log unless it already holds a record (R394). -/
def logWrite (s : State) (r0 r1 : RegName) (w : W64) : State :=
  if bitB (s.rget r0 0 0) 63 then s
  else (s.rset r0 0 0 (setBit w 63 true)).rset r1 0 0 (nowNs s)

/-- The layout that most logs share: CODE [55:40] and DETAIL [31:0]. -/
def logWord (code : BitVec 16) (detail : W32) : W64 := BitVec.ofNat 64 (code.toNat * 2 ^ 40 + detail.toNat)

def logAcn (s : State) (code : BitVec 16) (ring : Nat) : State :=
  let s := logWrite s .acnErrLog0 .acnErrLog1 (BitVec.ofNat 64 (code.toNat * 2 ^ 40 + ring))
  let v := s.rget .acnErrVec 0 0
  if bitB v 31 then sendMsix s (bitsN v 0 11) else s

def logZmz (s : State) (code : BitVec 16) (port : Nat) (detail : W32) : State :=
  logWrite s .zmzErrLog0 .zmzErrLog1 (BitVec.ofNat 64 (code.toNat * 2 ^ 40 + port % 16 * 2 ^ 36 + detail.toNat))

def logCol (s : State) (code : BitVec 16) (detail : W32) : State :=
  logWrite s .colErrLog0 .colErrLog1 (logWord code detail)

def logRas (s : State) (code : BitVec 16) (detail : W32) : State :=
  logWrite s .rasErrLog0 .rasErrLog1 (logWord code detail)

def logCur (s : State) (code : BitVec 16) (detail : W32) : State :=
  logWrite s .curErrLog0 .curErrLog1 (logWord code detail)

def logPwr (s : State) (code : BitVec 16) (detail : W32) : State :=
  logWrite s .pwrLog0 .pwrLog1 (logWord code detail)

/-- VALID of the fault record of each physical core (COR_FSUM). -/
def fsum (s : State) : BitVec 72 :=
  BitVec.ofNat 72 ((List.finRange 72).foldl (fun a p => a + (if (s.core p).frec.valid then 2 ^ p.val else 0)) 0)

def b2n (b : Bool) : Nat := if b then 1 else 0

/-- GLB_ERR_SUMMARY (R398, R399). -/
def errSummary (s : State) : W32 :=
  let v (r : RegName) : Nat := b2n (bitB (s.rget r 0 0) 63)
  let mem := (List.range 48).any fun k => bitB (s.rget .memUeLog0 k 0) 63
  BitVec.ofNat 32 (b2n (fsum s ≠ 0) + 2 * v .acnErrLog0 + 4 * v .vtrUeLog0 + 8 * b2n mem + 16 * v .zmzErrLog0
    + 32 * v .colErrLog0 + 64 * v .rasErrLog0 + 128 * v .curErrLog0 + 256 * v .pwrLog0)

/-- Whether a path of R398 and R442 is enabled: 0 GLB_ERR_MSG, 1 the I3C interrupt, 2 the Ethernet frame. -/
def pathEnabled (s : State) (i : Nat) : Bool :=
  match i with
  | 0 => bitB (s.rget .glbErrMsg 0 0) 31
  | 1 => bitB (s.rget .mgtAlertCtl 0 0) 31 && s.mgmt.i3c.events && s.mgmt.i3c.dynAddr.isSome
  | _ => bitB (s.rget .mgtAlertCtl 0 0) 30 && bitB (s.rget .mgtEthCtl 0 0) 31

/-- Send the message of a path. -/
def pathSend (s : State) (i : Nat) : State :=
  match i with
  | 0 => sendMsix s (bitsN (s.rget .glbErrMsg 0 0) 0 11)
  | 1 => emit s (.ibi ((errSummary s).extractLsb' 0 16))
  | _ => emit s (.ethAlert s.mgmt.alertMac (errSummary s) (nowNs s))

def pathPut (s : State) (i : Nat) (p : MsgPath) : State :=
  { s with host := { s.host with paths := s.host.paths.setIfInBounds i p } }

/-- One request on a path: at once, or merged into the end of the running interval (R398). -/
def pathRequest (s : State) (i : Nat) : State :=
  if pathEnabled s i then
    if (vAt s.host.paths {} i).running then pathPut s i { running := true, merged := true }
    else pathPut (pathSend s i) i { running := true, merged := false }
  else s

/-- SUMMARY_RISE (R398, R442): a request on every path for each summary bit that rose (DEDUCED, log 62). -/
def summaryRise (before : State) (s : State) : State :=
  let r := errSummary s &&& ~~~(errSummary before)
  if r = 0 then s
  else (List.range 9).foldl (fun s i => if bitB r i then pathRequest (pathRequest (pathRequest s 0) 1) 2 else s) s

/-- Whether an effect met nothing that makes its accesses wait: no bank in a wipe, no controller without a clock (R227, R278). -/
def metNothing (before after : State) : Bool := decide (after.vit.met = before.vit.met)

/-- The outcome of every meaning: the next state, with the requests of a summary rise. One whose accesses must wait does not happen yet
(log 63). -/
def answer (before after : State) : Result := .next (if metNothing before after then summaryRise before after else before)

/-! ## The change log (R436 to R438) -/

/-- SOURCE of a change-log record. -/
def writerCode : Writer → Nat
  | .bar0 => 0
  | .i3c => 1
  | .eth => 2
  | .curator => 3
  | .conservator => 4

/-- The head: SHA3-512 of the newest record (R437). -/
def logHead (s : State) : BitVec 512 :=
  match s.cur.log.getLast? with
  | some r => sha3_512 r
  | none => 0

/-- Append a record; the newest 32,768 are kept. -/
def logPush (s : State) (r : List Byte) : State :=
  let l := s.cur.log ++ [r]
  { s with cur := { s.cur with log := l.drop (l.length - 32768), seq := s.cur.seq + 1 } }

/-- CHANGE_LOG_APPEND: the record of one configuration write, before it takes effect (R436). -/
def logChange (s : State) (w : Writer) (size off : Nat) (old new : W64) : State :=
  logPush s (leBytes 8 s.cur.seq.toNat ++ leBytes 8 s.timeNs.toNat ++ leBytes 1 (writerCode w) ++ leBytes 1 size
    ++ leBytes 6 0 ++ leBytes 4 off ++ leBytes 4 0 ++ leBytes 8 old.toNat ++ leBytes 8 new.toNat
    ++ leBytes 64 (logHead s).toNat ++ leBytes 16 0)

/-- A change that is recorded before it takes effect; where the record cannot be written, it is logged and has no effect (R16, R438). -/
def withRecord (s : State) (w : Writer) (size off : Nat) (old new : W64) (f : State → State) : State :=
  if s.cur.logBad then logCur s 0x0A05 (BitVec.ofNat 32 off) else f (logChange s w size off old new)

def holdWrite (s : State) (h : HeldWrite) : State := { s with cur := { s.cur with heldWrites := s.cur.heldWrites ++ [h] } }

/-- A word with the bits of a mask replaced. -/
def putMasked (old v m : W64) : W64 := (old &&& ~~~m) ||| (v &&& m)

/-- A register change that the Conservator makes on its own, to the bits of a mask: recorded first, where it changes the register; during a
wipe it waits (R436, R438). -/
def ownChange (s : State) (r : RegName) (i n : Nat) (v m : W64) : State :=
  let old := s.rget r i n
  let new := putMasked old v m
  let size := r.info.width / 8
  if s.cur.wipe.isSome then holdWrite s { w := .conservator, off := r.at i n, size := size, v := v, own := some m }
  else if new = old then s
  else withRecord s .conservator size (r.at i n) old new fun s => s.rset r i n new

/-! ## Faults of a core (R48, R49) -/

/-- Write a fault record (R48): the first fault of the dispatch, or one that replaces a record of an earlier
dispatch; a later fault of the same dispatch only counts. -/
def recordFault (r : FaultRec) (engine : BitVec 3) (f : Flt) (stream : BitVec 8) (pc : W64) (now : W64) (tag : W32) :
    FaultRec :=
  let fresh : FaultRec :=
    { valid := true, engine := engine, code := f.code, stream := stream, detail := f.detail, pc := pc, timeNs := now,
      tag := tag }
  if r.valid then if r.tag = tag then { r with more := satAdd r.more 1 } else { fresh with replaced := true }
  else fresh

/-- Inventory uses of the started instructions of a core. -/
def coreUses (c : Core) : List Nat := c.inflight.toList.flatMap fun l => l.flatMap fun x => x.uses

/-! ### Errors in core state (R6, R47, R108, R109, R149, R160, R169) -/

/-- Whether core p holds any error. -/
def eccFree (c : Core) : Bool := c.ecc.isEmpty && c.ecc1.isEmpty

/-- The fault of a place with an uncorrectable error: code, structure and entry. The manual does not number the structures of
E_CORE_STATE_ECC (log 41). A folio table's structure is 0 for its active copy and 1 for its shadow. -/
def placeFlt (c : Core) : Place → Flt
  | .s r => ⟨0x0108, Config.stateEccDetail 0 r⟩
  | .ps i => ⟨0x0108, Config.stateEccDetail 0 (32 + i)⟩
  | .p r => ⟨0x0108, Config.stateEccDetail 1 r⟩
  | .v i => ⟨0x0108, Config.stateEccDetail 2 i⟩
  | .m r => ⟨0x0108, Config.stateEccDetail 3 r⟩
  | .queue n => ⟨0x0108, Config.stateEccDetail 4 n⟩
  | .ibuf n => ⟨0x0108, Config.stateEccDetail 5 n⟩
  | .set b => ⟨0x0204, if b then 1 else 0⟩
  | .sums _ => ⟨0x0204, 2⟩
  | .segt i => ⟨0x0204, BitVec.ofNat 32 (3 + i * 65536)⟩
  | .ab q => ⟨0x0204, BitVec.ofNat 32 (4 + q / 32 * 65536)⟩
  | .tbl i =>
    let t := i / 512
    let live := decide (i / 256 % 2 = (if bitB c.copySel t then 1 else 0))
    ⟨0x0303, BitVec.ofNat 32 ((if live then 0 else 1) + t * 16 + i % 256 * 65536)⟩
  | .gen g => ⟨0x0303, BitVec.ofNat 32 (2 + g * 65536)⟩
  | .rstat i => ⟨0x0305, BitVec.ofNat 32 i⟩

/-- Read places in order, up to the first that holds an uncorrectable error: the correctable ones before it are corrected in place,
counted and reported (R47, R377); it gives its fault and a report. -/
def eccRead (s : State) (p : Fin 72) (l : List Place) : State × Option Flt :=
  let c := s.core p
  if eccFree c then (s, none)
  else
    let ok := l.takeWhile fun k => !c.ecc.contains k
    let fixed := c.ecc1.filter fun k => ok.contains k
    let s1 := fixed.foldl (fun s _ => rasNote (s.report 2 1) 4 p.val 0) (s.modCore p fun c =>
      { c with ecc1 := c.ecc1.filter fun k => !ok.contains k })
    match l.find? fun k => c.ecc.contains k with
    | none => (s1, none)
    | some k => (rasNote (s1.report 3 1) 2 p.val 0, some (placeFlt c k))

/-! ### Chain programs that a stop cuts short (R173, R174, R186, R192) -/

abbrev Words := W64 × W64

def stOp (w : Words) : Nat := bitsN w.1 0 6
def stFmt (w : Words) : ETy := tyOf (w.1.extractLsb' 6 4)

def progStages (g : ChainProg) (epi : Bool) : List Words := if epi then g.stages.drop g.pro else g.stages.take g.pro

/-- Place of the HOLD stage in the epilogue. -/
def holdAt (g : ChainProg) : Option Nat := (progStages g true).findIdx? fun w => stOp w = 11

/-- The type of HOLD's stage. -/
def holdFmt (g : ChainProg) : ETy :=
  match (progStages g true).find? fun w => stOp w = 11 with
  | some w => stFmt w
  | none => .fp32

def slotGet (c : Core) (n : Nat) : Option ChainProg := (c.slots.find? fun e => e.1 = n).map (·.2)

def slotPut (c : Core) (n : Nat) (g : ChainProg) : Core := { c with slots := kvInsert c.slots n g }

/-- Whether the epilogue merges into row statistics. -/
def epiStatStage (g : ChainProg) : Bool := (progStages g true).any fun w => stOp w = 10

/-- Programs whose band is under way, with its rows: after the stop their window and their entries are undefined (R192). -/
def openBands (c : Core) : List (ChainProg × Nat) :=
  c.slots.filterMap fun x => if decide (x.2.ei ≠ 0) || c.runs.any (fun r => decide (r.slot = x.1)) then some (x.2, x.2.bandRows) else none

/-- Entries of row statistics into which a band merges. -/
def bandStats (x : ChainProg × Nat) : List Nat := if epiStatStage x.1 then (List.range x.2).map (x.1.statBase + ·) else []

/-- Bytes of the window that a band holds. -/
def bandBytes (x : ChainProg × Nat) : List Nat :=
  if (holdAt x.1).isSome then
    let n := (holdFmt x.1).bytes
    (List.range x.2).flatMap fun r => (List.range (64 * x.1.eTiles * n)).map fun i => x.1.holdBase + r * x.1.holdLen * n + i
  else []

/-! ### Abandoned instructions (R49, R50)

How far an instruction that is abandoned has come is timing, and after the stop its destinations hold undefined data: every place that it
writes takes a free value (log 14). -/

/-- Free values at keys of a sparse map; `n` is the next draw. -/
def freeFill {β : Type} [DecidableEq β] (d : Nat → β) (f : W64 → β) (n : Nat) (m : List (Nat × β)) (keys : List Nat) :
    List (Nat × β) :=
  (keys.zipIdx n).foldl (fun m x => smapPut d m x.1 (f (Config.freeValue x.2))) m

/-- A free mask. -/
def freeMask (n : Nat) : BitVec 512 :=
  BitVec.ofNat 512 ((List.range 8).foldl (fun a i => a * 2 ^ 64 + (Config.freeValue (n + i)).toNat) 0)

/-- A free row-statistics entry. -/
def freeStat (x : W64) : RowStat :=
  { max := (Config.freeValue x.toNat).extractLsb' 0 32, sum := (Config.freeValue (x.toNat + 1)).extractLsb' 0 32,
    mean := (Config.freeValue (x.toNat + 2)).extractLsb' 0 32, m2 := (Config.freeValue (x.toNat + 3)).extractLsb' 0 32,
    count := x.extractLsb' 0 32, kind := BitVec.ofNat 2 (x.toNat / 2 ^ 32 % 3),
    pmax := (Config.freeValue (x.toNat + 4)).extractLsb' 0 32 }

/-- Mask registers, folio entries and row statistics that an instruction writes, and its S register. -/
structure Dests where
  s : Option Nat := none
  ps : Option Nat := none
  m : List Nat := []
  tbl : List Nat := []
  stats : List Nat := []
  deriving DecidableEq, Repr

/-- Mask registers that an instruction writes: a VCMP of a packed type two (R132). -/
def maskWrites (e : Entry) : List Nat :=
  match e.op, e.args with
  | .vcmp, .v o => (o.vd.toNat % 8) :: if (tyOf o.type).perLane = 2 then [o.vd.toNat % 8 ^^^ 1] else []
  | .vmset, .v o => [o.vd.toNat % 8]
  | _, _ => []

def entryDests (c : Core) (e : Entry) : Dests :=
  let d : Dests := match e.destS with
    | some r =>
      if c.pl12 then { m := maskWrites e, ps := some (16 * e.stream.val + r.toNat % 16) } else { m := maskWrites e, s := some r.toNat }
    | none => { m := maskWrites e }
  match e.op, e.args with
  | .twr, .v o =>
    let t := bitsN o.type2 0 1
    let y := if bitB c.copySel t then 0 else 1
    { d with tbl := (List.range (vlOf o)).map fun i => t * 512 + y * 256 + bitsN o.fx 0 8 + i }
  | .fstat, .v o => { d with stats := (List.range (2 ^ bitsN o.fx 12 3)).map fun i => bitsN o.fx 0 12 + i }
  | .fstclr, .v o => { d with stats := (List.range e.b.toNat).map fun i => bitsN o.fx 0 12 + i }
  | _, _ => d

/-- A set with free contents: an abandoned load may have made it valid or not. -/
def freeSet (n : Nat) (m : MatSet) : MatSet :=
  { m with
    valid := Config.freeChoice n
    cols := m.cols.zipIdx.map fun c => c.1.zipIdx.map fun w => (Config.freeValue (n + 1 + 256 * c.2 + w.2)).extractLsb' 0 32
    sums := m.sums.zipIdx.map fun w => (Config.freeValue (n + 32768 + w.2)).extractLsb' 0 32 }

/-- The matrix engine after an abandoned instruction: the table that an MSEGT was loading, the shadow set that an MLOADS was loading, which
an MSWAP behind it may have made the stationary one, and both sets and the cursor of a product that takes its sets from the table. -/
def abandonMat (n : Nat) (swapped : Bool) (e : Entry) (m : MatState) : MatState :=
  match e.op, e.args with
  | .msegt, _ =>
    { m with segt := (List.range ((Config.freeValue n).toNat % 257)).map fun i =>
        (Config.freeValue (n + 1 + 2 * i), Config.freeValue (n + 2 + 2 * i)) }
  | .mloads, _ => { m with shad := freeSet n m.shad, stat := if swapped then freeSet (n + 65536) m.stat else m.stat }
  | .mprod, .m o =>
    if o.seg then
      { m with stat := freeSet n m.stat, shad := freeSet (n + 65536) m.shad
               cursor := (Config.freeValue (n + 131072)).toNat % (m.segt.length + 1) }
    else m
  | _, _ => m

/-- A slot that an abandoned VCHLD was loading: empty, or with a program of free words. -/
def abandonSlot (n : Nat) (e : Entry) (l : List (Nat × ChainProg)) : List (Nat × ChainProg) :=
  match e.op, e.args with
  | .vchld, .v o =>
    l.filterMap fun x =>
      if x.1 ≠ o.fx.toNat then some x
      else if Config.freeChoice n then none
      else
        let free (k : Nat) (ws : List Words) : List Words :=
          ws.zipIdx.map fun w => (Config.freeValue (k + 2 * w.2), Config.freeValue (k + 2 * w.2 + 1))
        some (x.1, { x.2 with opnds := free (n + 1) x.2.opnds, stages := free (n + 32) x.2.stages })
  | _, _ => l

/-- The destinations of one abandoned instruction but its V lanes, AB words and bytes. -/
def abandonEntry (n : Nat) (swapped : Bool) (e : Entry) (c : Core) : Core :=
  let d := entryDests c e
  { c with
    mat := abandonMat n swapped e c.mat
    slots := abandonSlot n e c.slots
    s := match d.s with
      | some r => c.s.setIfInBounds r (Config.freeValue n)
      | none => c.s
    ps := match d.ps with
      | some r => c.ps.setIfInBounds r (Config.freeValue n)
      | none => c.ps
    m := (d.m.zipIdx).foldl (fun m x => m.setIfInBounds x.1 (freeMask (n + 8 * x.2))) c.m
    tbl := freeFill (fun _ => (0 : W32)) (fun x => x.extractLsb' 0 32) n c.tbl d.tbl
    rstat := freeFill (fun _ => ({} : RowStat)) freeStat n c.rstat d.stats }

/-- Started instructions of a core, oldest first in each engine. -/
def coreFlights (c : Core) : List Inflight := c.inflight.toList.flatten

/-- What a core's abandoned instructions and its open bands would have written holds free values. -/
def abandonOutputs (s : State) (p : Fin 72) : State :=
  let c := s.core p
  let xs := coreFlights c
  let lanes := (xs.flatMap fun x => x.outV.map (·.1)) ++ c.outV.map (·.1)
  let words := (xs.flatMap fun x => x.outAb) ++ c.outAb
  let bands := openBands c
  let bytes := (xs.flatMap fun x => x.outMem) ++ c.outMem ++ bands.flatMap bandBytes
  let swapped := xs.any fun x => decide (x.e.op = .mswap)
  let n := s.free
  let k := n + lanes.length + words.length
  let s1 := s.modCore p fun c =>
    let c := xs.zipIdx.foldl (fun c x => abandonEntry (k + 262144 * (x.2 + 1)) swapped x.1.e c) c
    { c with
      rstat := freeFill (fun _ => ({} : RowStat)) freeStat k c.rstat (bands.flatMap bandStats)
      v := freeFill (fun _ => (0 : W32)) (fun x => x.extractLsb' 0 32) n c.v lanes
      ab := freeFill (fun _ => (0 : W32)) (fun x => x.extractLsb' 0 32) (n + lanes.length) c.ab words
      outV := [], outAb := [], outMem := [] }
  let s2 := { s1 with free := k + 262144 * (xs.length + 1) }
  bytes.foldl (fun s a => putByte { s with free := s.free + 1 } a ((Config.freeValue s.free).extractLsb' 0 8)) s2

/-- Tags that the collective engine can hold: its reservation and the shared pool (R280). -/
def collTags : Nat := 7040

/-- Tags that it holds: of its requests on the fabric, and of its line operations to the home slices, which are issued as long as tags are
left (R280). -/
def collHeld (s : State) : Nat := min collTags (s.col.reqs.length + s.col.accq.length)

/-- A write of a core to the fabric that is sent and not answered. -/
def reqOfCore (p : Fin 72) : ReqUse → Bool
  | .remote c _ _ _ => decide (c = p)
  | .contrib c _ _ => decide (c = p)
  | _ => false

def coreReqOpen (s : State) (p : Fin 72) : Bool := s.col.reqs.any fun q => reqOfCore p q.use

/-- Reclaim the tags of requests: a late response of one meets another epoch and is discarded (R293, R333, R419). -/
def reclaimTags (f : Req → Bool) (s : State) : State :=
  let e := (s.col.reqs.filter f).foldl (fun e q =>
    smapPut (fun _ => (0 : BitVec 2)) e q.txn.tag.toNat (smapGet (fun _ => 0) e q.txn.tag.toNat + 1)) s.col.epochs
  { s with col := { s.col with reqs := s.col.reqs.filter fun q => !f q, epochs := e } }

/-- What a core's instructions have not sent yet is not sent (R49). -/
def dropUnsent (s : State) (p : Fin 72) : State :=
  let keep (l : List Req) : List Req := l.filter fun q => !reqOfCore p q.use
  { s with col := { s.col with sendq := keep s.col.sendq, retries := keep s.col.retries } }

/-- Steps 2 to 6 of R49: nothing further issues, starts, is sent or completes, no signal is delivered, executing instructions are abandoned,
and the core is STOPPED once what it has sent is answered. -/
def stopCore (s : State) (p : Fin 72) : State :=
  let s1 := dropUnsent (abandonOutputs (usesEnd s (coreUses (s.core p))) p) p
  s1.modCore p fun c =>
    Core.clean { c with runstate := if coreReqOpen s p then 4 else 5, loading := false, queues := Vector.replicate 6 [],
                        inflight := Vector.replicate 6 [], runs := [] } fun k => match k with
      | .queue _ => true
      | _ => false

/-- A stopping core whose last answer has come is STOPPED. -/
def settleStop (s : State) (p : Fin 72) : State :=
  if decide ((s.core p).runstate = 4) && !coreReqOpen s p then s.modCore p fun c => { c with runstate := 5 } else s

/-- Mark the dispatch of a core as stopping (R50). -/
def markStopping (s : State) (tag : W32) : State :=
  { s with host := { s.host with
      dispatches := s.host.dispatches.map fun d => if d.tag = tag then { d with stopping := true } else d } }

/-- A fault of core p (R48, R49): the record, the stop of the core, and the stop of its dispatch to come (R50). -/
def coreFault (s : State) (p : Fin 72) (engine : BitVec 3) (f : Flt) (stream : Fin 6) (pc : W64) : State :=
  let s1 := s.modCore p fun c =>
    { c with frec := recordFault c.frec engine f (BitVec.ofNat 8 stream.val) pc (nowNs s) c.tag }
  markStopping (stopCore s1 p) (s.core p).tag

end Sys2Proof.Machine
end

