-- ==== Sys2Proof/Machine/Fabric.lean ====
section
/-!
DEFINITION. Sys2Proof/Machine/Fabric.lean: the fabric: routes (R335 to R338), flits and their CRC (R321, R322), the link
transmitter with replay and credits (R324 to R328), the receiver (R325, R331, R332), and the states of a port (R320,
R326, R329, R339, R340).
-/
namespace Sys2Proof.Machine

/-! ## Identity and routes -/

/-- Identifier of a coordinate (R335). -/
def moduleId (x y z : Nat) : BitVec 16 := BitVec.ofNat 16 (x + 32 * y + 1024 * z)

/-- Own coordinate in dimension 0 X, 1 Y, 2 Z. -/
def ownCoord (s : State) (dim : Nat) : Nat :=
  let v := s.rget .zmzCoord 0 0
  match dim with
  | 0 => bitsN v 0 5
  | 1 => bitsN v 8 5
  | _ => bitsN v 16 6

def ownId (s : State) : BitVec 16 := moduleId (ownCoord s 0) (ownCoord s 1) (ownCoord s 2)

/-- Ring size of a dimension. -/
def ringSize (s : State) (dim : Nat) : Nat :=
  let v := s.rget .zmzTopo 0 0
  match dim with
  | 0 => bitsN v 0 6
  | 1 => bitsN v 8 6
  | _ => bitsN v 16 7

/-- Coordinate of an identifier in a dimension. -/
def coordOf (id : BitVec 16) (dim : Nat) : Nat :=
  match dim with
  | 0 => id.toNat % 32
  | 1 => id.toNat / 32 % 32
  | _ => id.toNat / 1024

/-- A route table entry; those of X and Y from 32 on read 3 (ZMZ_RT_n). -/
def routeEntry (s : State) (dim c : Nat) : Nat :=
  if dim < 2 ∧ 32 ≤ c then 3 else bitsN (s.rget .zmzRt 0 (64 * dim + c)) 0 2

/-- The entry that FILL computes (R335). -/
def fillEntry (m n c : Nat) : Nat :=
  if n ≤ c then 3
  else
    let d := (c + n - m % n) % n
    if d = 0 then 0 else if 2 * d ≤ n then 1 else 2

/-- Fill the route table (R335). -/
def fillRoutes (s : State) : State :=
  (List.range 192).foldl (fun s i =>
    let dim := i / 64
    let c := i % 64
    if dim < 2 ∧ 32 ≤ c then s
    else s.rset .zmzRt 0 i (BitVec.ofNat 64 (fillEntry (ownCoord s dim) (ringSize s dim) c))) s

def portOf (s : State) (i : Fin 16) : Port := s.fab.ports[i.val]

def setPort (s : State) (i : Fin 16) (x : Port) : State :=
  { s with fab := { s.fab with ports := s.fab.ports.set i.val x } }

def modPort (s : State) (i : Fin 16) (f : Port → Port) : State := setPort s i (f (portOf s i))

def portRole (s : State) (i : Fin 16) : Nat := bitsN (s.rget .zmzRole i.val 0) 0 4
def portDir (s : State) (i : Fin 16) : Nat := bitsN (s.rget .zmzRole i.val 0) 4 3
def portIndex (s : State) (i : Fin 16) : Nat := bitsN (s.rget .zmzRole i.val 0) 7 1
/-- EN of a port; one whose receive domain is gated in RUN is DISABLED (CLK_DOM_n). -/
def portEn (s : State) (i : Fin 16) : Bool := bitB (s.rget .zmzCtl i.val 0) 31 && domEn s (7 + i.val) 0

def portActive (s : State) (i : Fin 16) : Bool := decide ((portOf s i).state = 4)

/-- The ACTIVE torus port of a direction and link index. -/
def torusPort (s : State) (dir ix : Nat) : Option (Fin 16) :=
  (List.finRange 16).find? fun i =>
    decide (portRole s i = 3 ∧ portDir s i = dir ∧ portIndex s i = ix) && portActive s i

/-- Parity of SRC ⊕ DST: the index of the link that a transaction takes when both are ACTIVE (R336). -/
def linkParity (a b : BitVec 16) : Nat := ((List.range 16).countP fun i => bitB (a ^^^ b) i) % 2

/-- The ACTIVE partner port that reaches a destination, the lower-numbered first (R336). A partner port carries no
transit traffic, so only what this module originates takes it (DEDUCED, log 36). -/
def partnerPort (s : State) (src dst : BitVec 16) : Option (Fin 16) :=
  if bitB (s.rget .zmzTopo 0 0) 29 && decide (src = ownId s) then
    (List.finRange 16).find? fun i =>
      decide (portRole s i = 2 ∧ (portOf s i).farId = dst) && portActive s i
  else none

/-- The direction that the route table gives for a destination: the first dimension that is not done (R336). -/
def routeDir (s : State) (dst : BitVec 16) : Option Nat :=
  match [0, 1, 2].find? fun dim => decide (routeEntry s dim (coordOf dst dim) ≠ 0) with
  | none => none
  | some dim =>
    match routeEntry s dim (coordOf dst dim) with
    | 1 => some (2 * dim)
    | 2 => some (2 * dim + 1)
    | _ => none

/-- The port that a transaction leaves on; none where it is unreachable (R336, R338). -/
def routeOut (s : State) (t : Txn) : Option (Fin 16) :=
  match partnerPort s t.src t.dst with
  | some i => some i
  | none =>
    match routeDir s t.dst with
    | none => none
    | some d =>
      let ix := linkParity t.src t.dst
      match torusPort s d ix with
      | some i => some i
      | none => torusPort s d (1 - ix)

/-- Whether the link of a torus port is the wrap link of its ring (R337). -/
def isWrap (s : State) (i : Fin 16) : Bool :=
  let dim := portDir s i / 2
  decide (portRole s i = 3) &&
    (if portDir s i % 2 = 0 then decide (ownCoord s dim + 1 = ringSize s dim) else decide (ownCoord s dim = 0))

/-! ## Transactions -/

/-- Whether a type is of the response class (R332). -/
def isResponse (ty : BitVec 4) : Bool := decide (8 ≤ ty.toNat)

/-- Data slots of a transaction, its byte-enable slot among them (R332). -/
def dataSlots (ty : BitVec 4) (be : Bool) (len : Nat) : Nat :=
  match ty.toNat with
  | 1 => 4 * len + (if be then 1 else 0)
  | 3 => 2 * len
  | 5 => 4
  | 9 => 4 * len
  | _ => 0

def txnSlots (t : Txn) : Nat := 1 + dataSlots t.ttype t.be t.len.toNat

/-- Credit units of a transaction (R328). -/
def txnUnits (t : Txn) : Nat := (txnSlots t + 3) / 4

/-- The header slot (R331). -/
def headerSlot (t : Txn) : BitVec 128 :=
  BitVec.ofNat 128 (t.ttype.toNat + t.vc.toNat * 2 ^ 4 + (if t.be then 2 ^ 6 else 0) + t.dst.toNat * 2 ^ 8
    + t.src.toNat * 2 ^ 24 + t.tag.toNat * 2 ^ 40 + t.tepoch.toNat * 2 ^ 54 + t.len.toNat * 2 ^ 56
    + t.addr.toNat * 2 ^ 64 + t.hops.toNat * 2 ^ 112)

/-- Group bytes into slots of 16, the last filled with zeros. -/
def packSlots : Nat → List Byte → List (BitVec 128)
  | 0, _ => []
  | n + 1, bs => BitVec.ofNat 128 (leNat (bs.take 16)) :: packSlots n (bs.drop 16)

def slotBytes (l : List (BitVec 128)) : List Byte := l.flatMap fun x => leBytes 16 x.toNat

/-- The slots of a transaction (R331). -/
def txnToSlots (t : Txn) : List (BitVec 128) :=
  let be := if t.be && decide (t.ttype = 1) then [t.enables] else []
  headerSlot t :: be ++ packSlots (dataSlots t.ttype false t.len.toNat) t.data

/-- The header of a transaction; none where it cannot be parsed further (R332). LEN above 64 is outside the field's
range and is taken as LEN = 0 is (DEDUCED, log 30), and so are other bits of a SIGNAL's ADDR. -/
def parseHeader (x : BitVec 128) : Option Txn :=
  let ty : BitVec 4 := x.extractLsb' 0 4
  let len : BitVec 7 := x.extractLsb' 56 7
  if decide (ty.toNat ∈ [1, 2, 3, 4, 5, 8, 9, 10]) && !bitB x 7 && !bitB x 63 && decide (bitsN x 119 9 = 0) &&
      (decide (ty ≠ 4) || decide (bitsN x 76 36 = 0)) && decide (1 ≤ len.toNat ∧ len.toNat ≤ 64) then
    some { ttype := ty, vc := x.extractLsb' 4 2, be := bitB x 6, dst := x.extractLsb' 8 16, src := x.extractLsb' 24 16,
           tag := x.extractLsb' 40 14, tepoch := x.extractLsb' 54 2, len := len, addr := x.extractLsb' 64 48,
           hops := x.extractLsb' 112 7 }
  else none

/-- Take the data of a parsed header from the slots that follow it. -/
def withData (t : Txn) (l : List (BitVec 128)) : Txn :=
  if t.be && decide (t.ttype = 1) then { t with enables := l.headD 0, data := slotBytes l.tail }
  else { t with data := slotBytes l }

/-- A response: SRC, TAG and TEPOCH come from the request (R332). -/
def respond (s : State) (t : Txn) (ty : BitVec 4) : Txn :=
  { ttype := ty, dst := t.src, src := ownId s, tag := t.tag, tepoch := t.tepoch }

def errorTxn (s : State) (t : Txn) (f : Flt) : Txn :=
  { respond s t 10 with addr := BitVec.ofNat 48 (f.code.toNat + f.detail.toNat * 2 ^ 16) }

/-! ## Flits -/

def flitHeader (f : Flit) : Nat :=
  f.ftype.toNat + f.seq.toNat * 2 ^ 4 + f.ack.toNat * 2 ^ 16 + (if f.ackv then 2 ^ 28 else 0)
    + (if f.nak then 2 ^ 29 else 0) + (vAt f.cret 0 0).toNat * 2 ^ 32 + (vAt f.cret 0 1).toNat * 2 ^ 44
    + (vAt f.cret 0 2).toNat * 2 ^ 56 + (vAt f.cret 0 3).toNat * 2 ^ 68

/-- Bytes 0 to 507 of a flit (R321). -/
def flitBytes (f : Flit) : List Byte :=
  leBytes 12 (flitHeader f) ++ slotBytes ((f.slots ++ List.replicate 31 0).take 31)

/-- One bit of the reflected CRC-32 (R322). -/
def crcBit (c : W32) : W32 := if bitB c 0 then (c >>> 1) ^^^ 0xEDB88320 else c >>> 1

def crcByte (c : W32) (b : Byte) : W32 :=
  (List.range 8).foldl (fun c _ => crcBit c) (c ^^^ b.zeroExtend 32)

/-- CRC-32, polynomial 0x04C11DB7 reflected, all ones in and out (R322). -/
def crc32 (bs : List Byte) : W32 := ~~~(bs.foldl crcByte 0xFFFFFFFF)

def flitCrc (f : Flit) : W32 := crc32 (flitBytes f)

/-- The counter: TIME_NS and TIME_FRAC. -/
def now96 (s : State) : BitVec 96 := s.timeNs ++ s.mgmt.frac

/-! ### FEC (R319) -/

/-- Message bits of a codeword, and bits of a flit. -/
def codewordBits : Nat := 5140
def flitBits : Nat := 4096

/-- Symbols of a codeword's 544 that a lane carries: they go round-robin over the lanes in use. -/
def laneSymbols (lanes : BitVec 4) (l : Nat) : Nat :=
  let used := (List.range 4).filter fun k => bitB lanes k
  (List.range 544).countP fun k => used.getD (k % used.length) 4 == l

/-- Symbols of a codeword that a lane brought wrong. -/
def laneWrong (lanes : BitVec 4) (rx : FlitRx) (l : Nat) : Nat := min (vAt rx.wrong 0 l) (laneSymbols lanes l)

/-- Symbols of a codeword that arrived wrong. -/
def wrongSymbols (lanes : BitVec 4) (rx : FlitRx) : Nat := (List.range 4).foldl (fun a l => a + laneWrong lanes rx l) 0

/-- Whether a codeword begins within the flit that begins at a place of the stream. -/
def fecBegins (pos : Nat) : Bool := decide (pos = 0) || decide (codewordBits < pos + flitBits)

/-- One flit of the receive stream: the codeword that begins in it is decoded and counted (ZMZ_FEC_n), and whether a codeword over the
flit cannot be corrected. -/
def fecStep (s : State) (i : Fin 16) (rx : FlitRx) : State × Bool :=
  let x := portOf s i
  let n := wrongSymbols x.lanes rx
  let starts := fecBegins x.fecPos
  let bad := starts && decide (15 < n)
  let miss := bad || (decide (x.fecPos ≠ 0) && x.fecBad)
  let s1 := setPort s i { x with fecPos := (x.fecPos + flitBits) % codewordBits, fecBad := if starts then bad else x.fecBad }
  (if !starts then s1
   else if bad then s1.rcountSat .zmzFec i.val 0 0 32 1 else s1.rcountSat .zmzFec i.val 0 32 32 n, miss)

/-- The content of a CTRL flit in the slot area (R329; UNVERIFIED, log 32: the manual does not give its places). -/
def ctrlSlots (e : FarEnd) : List (BitVec 128) := Config.ctrlSlots e.id e.port e.role (e.units.toList)

/-- The slot area of a TIME flit (R344): MSGTYPE, exchange number, t2 and t3. -/
def timeSlots (kind : Nat) (num : BitVec 16) (t2 t3 : BitVec 96) : List (BitVec 128) :=
  let stampBytes (t : BitVec 96) : List Byte := leBytes 8 (t.toNat / 2 ^ 32) ++ leBytes 4 (t.toNat % 2 ^ 32)
  packSlots 31 (leBytes 2 kind ++ leBytes 2 num.toNat ++ stampBytes t2 ++ stampBytes t3)

/-! ## The transmitter

A port starts one flit at each flit boundary, which falls in the idle clock (R319, log 2). -/

/-- The receiver's part of every outgoing flit: ACK, NAK and CRET (R324, R325, R328). -/
def stamp (x : Port) (f : Flit) : Flit :=
  { f with ack := x.expect - 1, ackv := x.gotAny, nak := x.nakDue, cret := x.freed }

/-- A flit leaves; a NULL flit is counted (R323, R455). -/
def sendFlit (s : State) (i : Fin 16) (f : Flit) : State :=
  let x := portOf s i
  let null := decide (f.ftype = 0)
  let s1 := emit (setPort s i { x with nakDue := false, sinceNull := if null then 0 else x.sinceNull + 1 }) (.flit i (stamp x f))
  if null then perfCount s1 .dbgZmz (8 * i.val + 2) 1 else s1

/-- Send every flit again that no ACK covers, in order (R325, R326). -/
def resendAll (s : State) (i : Fin 16) : State := modPort s i fun x => { x with resend := x.replay }

/-- How far an input stands behind the one that was served last: those are served round-robin (R327). -/
def turn (last input : Nat) : Nat := (input + 16 - last) % 17

/-- The next transaction of a VC: the oldest of the input whose turn is first. -/
def firstOfVc (x : Port) (v : Nat) : Option (Nat × Txn) :=
  (x.txq.filter fun t => decide (t.2.vc.toNat = v)).foldl (fun best t => match best with
    | none => some t
    | some b => if turn (vAt x.served 16 v) t.1 < turn (vAt x.served 16 v) b.1 then some t else some b) none

/-- A transaction of VC v waits for credit. -/
def creditWait (x : Port) (v : Nat) : Bool :=
  match firstOfVc x v with
  | some t => decide ((vAt x.avail 0 v).toNat < txnUnits t.2)
  | none => false

/-- The transaction that the transmitter starts next: VC3 first, with credits (R327, R328). -/
def nextTx (x : Port) : Option (Nat × Txn) :=
  [3, 2, 1, 0].findSome? fun v => if creditWait x v then none else firstOfVc x v

/-- The transmitter places a transaction's first slot: its credits are deducted (R328). -/
def startTx (x : Port) (t : Nat × Txn) : Port :=
  let v := t.2.vc.toNat
  { x with
    avail := x.avail.setIfInBounds v (vAt x.avail 0 v - BitVec.ofNat 12 (txnUnits t.2))
    served := x.served.setIfInBounds v t.1
    txq := x.txq.erase t
    txPart := x.txPart ++ txnToSlots t.2 }

/-- Transactions fill the 31 slots of a flit one after another (R321). -/
def fillFlit : Nat → Port → Port
  | 0, x => x
  | n + 1, x =>
    if 31 ≤ x.txPart.length then x
    else match nextTx x with
      | none => x
      | some t => fillFlit n (startTx x t)

/-- A DATA flit of what has started and what can start: its number is the next, and the replay buffer keeps it (R324). -/
def sendData (s : State) (i : Fin 16) (x : Port) : State :=
  let f : Flit := { ftype := 1, seq := x.txSeq, slots := (x.txPart ++ List.replicate 31 0).take 31 }
  perfCount (sendFlit (setPort s i { x with txPart := x.txPart.drop 31, txSeq := x.txSeq + 1, replay := x.replay ++ [f] }) i f)
    .dbgZmz (8 * i.val) 1

/-- A TIME flit: t1 and t3 are the time at which it is sent (R344). -/
def sendTime (s : State) (i : Fin 16) (m : TimeMsg) : State :=
  let s1 := modPort s i fun x => { x with timeq := x.timeq.tail }
  let s2 := if m.resp then s1 else { s1 with fab := { s1.fab with exch := s1.fab.exch.map fun e => (e.1, now96 s) } }
  sendFlit s2 i { ftype := 3, slots := timeSlots (if m.resp then 2 else 1) m.num m.t2 (if m.resp then now96 s else 0) }

/-- The flit of an ACTIVE port: a NULL flit at least once in 2,048, TIME ahead of every transaction, what is sent again ahead of what
is new, and NULL where there is nothing else (R323 to R325, R327). A BYPASS_IDLE port carries no transaction (R340). -/
def activeFlit (s : State) (i : Fin 16) : State :=
  let x := portOf s i
  if 2047 ≤ x.sinceNull then sendFlit s i {}
  else match x.timeq with
    | m :: _ => sendTime s i m
    | [] =>
      match x.resend with
      | f :: rest => sendFlit (setPort s i { x with resend := rest }) i f
      | [] =>
        let y := fillFlit 31 x
        if y.txPart.isEmpty || decide (256 ≤ x.replay.length) then sendFlit s i {} else sendData s i y

/-- The VC on which a transmitter sends (R337): 1 or 3 over a wrap link and on from it in the same dimension. `from` is the
port it came in on. -/
def sendVc (s : State) (src : Option (Fin 16)) (i : Fin 16) (t : Txn) : BitVec 2 :=
  let c : BitVec 2 := if isResponse t.ttype then 2 else 0
  let keep := match src with
    | some j => bitB t.vc 0 && decide (portRole s j = 3 ∧ portRole s i = 3 ∧ portDir s j / 2 = portDir s i / 2)
    | none => false
  if isWrap s i || keep then c + 1 else c

def countStray (s : State) : State := s.rcountSat .zmzDropCount 0 0 0 32 1

/-- Deliver to the target interface or the requester. -/
def deliver (s : State) (t : Txn) : State := { s with fab := { s.fab with inbox := s.fab.inbox ++ [t] } }

/-- Queue a transaction on a port, with its input. -/
def queueTx (s : State) (src : Option (Fin 16)) (i : Fin 16) (t : Txn) : State :=
  let t1 := { t with vc := sendVc s src i t, hops := t.hops + 1 }
  modPort s i fun x => { x with txq := x.txq ++ [((src.map (·.val)).getD 16, t1)] }

/-- Where the switch sends a transaction; none where it is unreachable (R336). -/
def switchOut (s : State) (src : Option (Fin 16)) (t : Txn) : Option State :=
  if t.dst = ownId s then some (deliver s t)
  else match routeOut s t with
    | none => none
    | some i => if 96 ≤ t.hops.toNat then none else some (queueTx s src i t)

/-- The switch: a request that is unreachable is answered, a response that is unreachable is discarded and counted
(R336, R338). -/
def switchTxn (s : State) (src : Option (Fin 16)) (t : Txn) : State :=
  match switchOut s src t with
  | some s1 => s1
  | none =>
    if isResponse t.ttype then countStray s
    else
      match switchOut s none (errorTxn s t ⟨0x0802, t.dst.zeroExtend 32⟩) with
      | some s1 => s1
      | none => countStray s

/-- Send a transaction of this module. -/
def sendTxn (s : State) (t : Txn) : State := switchTxn s none t

/-- Transactions that waited for a port that no longer carries traffic go to the other link or are answered (R340). -/
def reroute (s : State) (l : List (Nat × Txn)) : State :=
  l.foldl (fun s t => switchTxn s ((List.finRange 16).find? fun i => i.val = t.1) { t.2 with hops := t.2.hops - 1 }) s

/-! ## States of a port -/

/-- Units of the receive buffer of a VC (R328). -/
def bufferUnits (v : Nat) : Nat := if v % 2 = 0 then 2048 else 1024

/-- Units of a VC that received transactions still occupy. -/
def usedUnits (x : Port) (v : Nat) : Nat :=
  x.rx.foldl (fun a t => if t.vc.toNat = v then a + txnUnits t else a) 0

/-- What a CTRL flit advertises: the units that were free when the port entered INIT. What drains afterwards is reported through CRET, so
that every CTRL flit of one INIT says the same (R329, R330). -/
def freeUnits (x : Port) : Vector (BitVec 12) 4 :=
  Vector.ofFn fun v => BitVec.ofNat 12 (bufferUnits v.val - usedUnits x v.val) - vAt x.freed 0 v.val

def linkDownLog (s : State) (i : Fin 16) : State := logZmz s 0x0804 i.val (BitVec.ofNat 32 i.val)

/-- Lanes that a retrain leaves in use (R339). -/
def pickLanes (good : BitVec 4) : BitVec 4 :=
  if good = 0xF then 0xF
  else if bitsN good 0 2 = 3 then 3
  else if bitsN good 2 2 = 3 then 0xC
  else match [0, 1, 2, 3].find? fun k => bitB good k with
    | some k => BitVec.ofNat 4 (2 ^ k)
    | none => 0

def degraded (s : State) (i : Fin 16) (lanes : BitVec 4) : State :=
  rasNote ((logZmz s 0x0805 i.val (BitVec.ofNat 32 (i.val + lanes.toNat * 16))).report 6 1) 3 i.val 0

/-- Lanes on which a port trains: those that are good (R339); where none is, all of them (DESIGN CHOICE, log 121). -/
def trainLanes (x : Port) : BitVec 4 := if pickLanes x.good = 0 then 0xF else pickLanes x.good

/-- Start training afresh: the replay buffer, sequence numbers and credits are gone (R320, R329). While a boundary test
drives the pins there is no signal, and the port stays DOWN (R459). -/
def startTraining (s : State) (i : Fin 16) (lanes : BitVec 4) : State :=
  let x := portOf s i
  let st : BitVec 3 := if portEn s i && decide (portRole s i ≠ 0) then (if s.dbg.boundary then 6 else 1) else 0
  reroute (setPort s i { x with
    state := st, lanes := lanes, good := if x.good = 0 then 0xF else x.good, avail := Vector.replicate 4 0, seen := Vector.replicate 4 0, txSeq := 0, expect := 0, gotAny := false,
    nak := false, nakDue := false, nakCount := 0, replay := [], resend := [], part := [], txPart := [], txq := [], timeq := [],
    ready := false }) x.txq

/-- A port reset (R320): training on every lane, with the replay buffer discarded. -/
def portReset (s : State) (i : Fin 16) : State := startTraining (modPort s i fun x => { x with good := 0xF }) i 0xF

/-- Enter RETRAIN, with sequence numbers, replay buffer and credits kept (R320, R326). -/
def enterRetrain (s : State) (i : Fin 16) : State :=
  (modPort s i fun x => { x with state := 5, retrains := x.retrains + 1, nakCount := 0 }).report 5 1

/-- Enter DOWN (R320). -/
def enterDown (s : State) (i : Fin 16) : State :=
  let x := portOf s i
  let s1 := setPort s i { x with
    state := 6, replay := [], resend := [], part := [], txPart := [], txq := [], timeq := [], nak := false, nakDue := false, nakCount := 0,
    ready := false }
  reroute ((linkDownLog s1 i).report 5 1) x.txq

/-- A CTRL flit of a port in INIT: its identity as ZMZ_COORD now has it, and its free units (R329). -/
def sendCtrl (s : State) (i : Fin 16) : State :=
  let e : FarEnd := { id := ownId s, port := BitVec.ofNat 4 i.val, role := BitVec.ofNat 4 (portRole s i), units := freeUnits (portOf s i) }
  sendFlit (modPort s i fun x => { x with told := true }) i { ftype := 2, slots := ctrlSlots e }

/-- A port that loses codeword lock retrains (R320, R326); one in TRAINING or RETRAIN has none to lose. -/
def loseLock (s : State) (i : Fin 16) : State :=
  if (portOf s i).state.toNat ∈ [2, 3, 4, 7] then enterRetrain s i else s

/-- The neighbour that a torus port should reach (R329). -/
def expectedFar (s : State) (i : Fin 16) : BitVec 16 :=
  let d := portDir s i
  let step (dim : Nat) : Nat :=
    let n := ringSize s dim
    let m := ownCoord s dim
    if dim = d / 2 then if d % 2 = 0 then (m + 1) % n else (m + n - 1) % n else m
  moduleId (step 0) (step 1) (step 2)

/-! ## The receiver -/

/-- Parse the slots that have arrived (R321, R331, R332): padding is dropped, whole transactions go to the receive buffer
and an incomplete one waits. `none` with the type where a header cannot be parsed. -/
def parseSlots : Nat → List (BitVec 128) → List Txn → Except (BitVec 4) (List Txn × List (BitVec 128))
  | 0, l, acc => .ok (acc, l)
  | _ + 1, [], acc => .ok (acc, [])
  | n + 1, x :: l, acc =>
    if x = 0 then parseSlots n l acc
    else match parseHeader x with
      | none => .error (x.extractLsb' 0 4)
      | some t =>
        let k := dataSlots t.ttype t.be t.len.toNat
        if l.length < k then .ok (acc, x :: l)
        else parseSlots n (l.drop k) (acc ++ [withData t (l.take k)])

/-- Take the slots of an accepted flit. -/
def takeSlots (s : State) (i : Fin 16) (l : List (BitVec 128)) : State :=
  let all := (portOf s i).part ++ l
  match parseSlots all.length all [] with
  | .ok (ts, rest) => modPort s i fun x => { x with rx := x.rx ++ ts, part := rest }
  | .error ty => portReset (logZmz s 0x0806 i.val (BitVec.ofNat 32 (i.val + ty.toNat * 16))) i

/-- Flits of the replay buffer that an ACK covers. -/
def ackedCount (x : Port) (ack : BitVec 12) : Nat :=
  match x.replay with
  | [] => 0
  | f :: _ =>
    let n := (ack - f.seq + 1).toNat
    if n ≤ x.replay.length then n else 0

/-- Apply the cumulative fields of a good flit: ACK and CRET (R322, R324, R328). -/
def applyAck (x : Port) (f : Flit) : Port :=
  let n := if f.ackv then ackedCount x f.ack else 0
  let upd (v : Nat) : BitVec 12 := vAt x.avail 0 v + (vAt f.cret 0 v - vAt x.seen 0 v)
  { x with
    replay := x.replay.drop n
    resend := x.resend.filter fun f => (x.replay.drop n).contains f
    nakCount := if n = 0 then x.nakCount else 0
    avail := #v[upd 0, upd 1, upd 2, upd 3]
    seen := f.cret }

/-- Act on a NAK: resend from ACK + 1, or retrain when the same number has been NAKed 8 times (R325, R326). -/
def actNak (s : State) (i : Fin 16) (f : Flit) : State :=
  let x := portOf s i
  let q := f.ack + 1
  let n := if 0 < x.nakCount ∧ x.nakSeq = q then x.nakCount + 1 else 1
  let s1 := (setPort s i { x with nakSeq := q, nakCount := n }).rcountSat .zmzReplay i.val 0 0 32 1
  if 8 ≤ n then enterRetrain s1 i else resendAll s1 i

/-- The header of a good flit. -/
def applyHeader (s : State) (i : Fin 16) (f : Flit) : State :=
  let s1 := modPort s i fun x => applyAck x f
  if f.nak && portActive s1 i then actNak s1 i f else s1

/-- A port takes flits from codeword lock on. -/
def portHears (x : Port) : Bool := decide (x.state.toNat ∈ [2, 3, 4, 7])

/-- Narrow a port to the lanes that are good (R339). -/
def narrow (s : State) (i : Fin 16) (good : BitVec 4) : State :=
  let w := pickLanes good
  let s1 := modPort s i fun x => { x with good := good, lanes := w }
  if w = 0 then enterDown s1 i else if w = (portOf s i).lanes then s1 else degraded s1 i w

/-- Lanes fail: a port that uses one of them retrains narrower, or goes DOWN (R339). -/
def failLanes (s : State) (i : Fin 16) (bad : BitVec 4) : State :=
  let x := portOf s i
  let good := x.good &&& ~~~bad
  if x.lanes &&& bad = 0 then modPort s i fun x => { x with good := good }
  else
    let s1 := narrow s i good
    if (portOf s1 i).state = 6 then s1 else loseLock s1 i

/-- The corrected symbols of the codeword that begins in a flit count against their lanes; a lane beyond LANE_SER_MAX in one second fails
(R339). `x` is the port as the flit found it. That the seconds follow one another is a DESIGN CHOICE (log 121). -/
def countLanes (x : Port) (rx : FlitRx) (s : State) (i : Fin 16) : State :=
  if fecBegins x.fecPos && decide (wrongSymbols x.lanes rx ≤ 15) then
    let anew := decide (1000000000 ≤ (s.timeNs - x.serrFrom).toNat)
    let n := Vector.ofFn (n := 4) fun l => (if anew then 0 else vAt x.serr 0 l.val) + laneWrong x.lanes rx l.val
    let most := bitsN (s.rget .zmzCtl i.val 0) 0 24
    let bad := (List.range 4).foldl (fun b l => if bitB x.lanes l && decide (most < vAt n 0 l) then setBit b l true else b) (0 : BitVec 4)
    let s1 := modPort s i fun y => { y with serr := n, serrFrom := if anew then s.timeNs else x.serrFrom }
    if bad = 0 then s1 else failLanes s1 i bad
  else s

/-- A flit arrives: the FEC decodes it, and the header of one with a good CRC and no uncorrectable codeword is applied, whatever it
carries (R319, R322). It also gives whether the flit was good. -/
def receive (s : State) (i : Fin 16) (f : Flit) (rx : FlitRx) : State × Bool :=
  if portHears (portOf s i) then
    let r := fecStep s i rx
    let s1 := countLanes (portOf s i) rx r.1 i
    if !r.2 && decide (rx.crc = flitCrc f) then (applyHeader s1 i f, true) else (s1, false)
  else (s, false)

/-- A DATA flit that is not accepted: discarded, and NAKed in the next flit to start unless an earlier one has been (R325). -/
def refuseFlit (s : State) (i : Fin 16) : State :=
  modPort s i fun x => if x.nak then x else { x with nak := true, nakDue := true }

/-- Accept or discard a good DATA flit by its sequence number (R325). -/
def takeData (s : State) (i : Fin 16) (f : Flit) : State :=
  if f.seq = (portOf s i).expect then
    takeSlots (perfCount (modPort s i fun x => { x with expect := x.expect + 1, gotAny := true, nak := false })
      .dbgZmz (8 * i.val + 1) 1) i f.slots
  else refuseFlit s i

/-- A DATA flit (R322, R325). A BYPASS_IDLE port carries no transaction: only the header counts there (R340). -/
def recvData (s : State) (i : Fin 16) (f : Flit) (rx : FlitRx) : State :=
  let r := receive s i { f with ftype := 1 } rx
  if !portActive s i || decide (portRole s i = 1) then r.1
  else if r.2 then if portActive r.1 i then takeData r.1 i f else r.1
  else refuseFlit ((r.1.rcountSat .zmzReplay i.val 0 32 32 1).report 4 1) i

/-- DATA_FLIT. -/
def execDataFlit (i : Fin 16) (f : Flit) (rx : FlitRx) (s : State) : Result := answer s (recvData s i f rx)

/-- NULL_FLIT: the header of a good flit is applied; the flit is dropped (R322, R323). -/
def execNullFlit (i : Fin 16) (f : Flit) (rx : FlitRx) (s : State) : Result :=
  answer s (receive s i { f with ftype := 0, slots := [] } rx).1

/-- The checks of identity in INIT, once both ends have told who they are (R329): MISWIRED, ACTIVE, or INIT while ZMZ_TOPO.VALID is 0
(R320). -/
def settleInit (s : State) (i : Fin 16) : State :=
  let x := portOf s i
  if x.state ≠ 3 ∨ !x.told ∨ !x.heard ∨ !bitB (s.rget .zmzTopo 0 0) 31 then s
  else if portRole s i = 3 ∧ x.farId ≠ expectedFar s i then
    logZmz (modPort s i fun x => { x with state := 7 }) 0x0807 i.val (BitVec.ofNat 32 (i.val + x.farId.toNat * 2 ^ 16))
  else modPort s i fun x => { x with state := 4, ready := true }

/-- A TIME message waits for the next flit boundary (R327). -/
def queueTime (s : State) (i : Fin 16) (m : TimeMsg) : State := modPort s i fun x => { x with timeq := x.timeq ++ [m] }

/-- What the far end has told: its identity and free units; the CRET baselines are zeroed (R329). -/
def hearFar (e : FarEnd) (x : Port) : Port :=
  { x with farId := e.id, farPort := e.port, avail := e.units, seen := Vector.replicate 4 0, heard := true }

/-- CTRL_FLIT: its header, and in ALIGN and INIT the far end's identity and free units (R320, R322, R329). -/
def execCtrlFlit (i : Fin 16) (hdr : Flit) (rx : FlitRx) (far : FarEnd) (s : State) : Result :=
  let r := receive s i { hdr with ftype := 2, slots := ctrlSlots far } rx
  answer s (if r.2 && decide ((portOf r.1 i).state = 2 ∨ (portOf r.1 i).state = 3) then settleInit (modPort r.1 i (hearFar far)) i else r.1)

/-- NAK_RESEND: no correct flit has come 1 µs after the NAK (R325). -/
def execNakResend (i : Fin 16) (s : State) : Result :=
  answer s (if portActive s i && (portOf s i).nak then modPort s i fun x => { x with nakDue := true } else s)

/-- ACK_STALL: flits outstanding for 20 µs with no advance of ACK (R326). -/
def execAckStall (i : Fin 16) (s : State) : Result :=
  answer s (if portActive s i && !(portOf s i).replay.isEmpty then enterRetrain s i else s)

/-- CODEWORD_LOCK_LOST (R326). -/
def execCodewordLockLost (i : Fin 16) (s : State) : Result := answer s (loseLock s i)

/-- LANE_FAIL: the lane loses signal (R339); in training an attempt tells which lanes are good. -/
def execLaneFail (i : Fin 16) (lane : Fin 4) (s : State) : Result :=
  answer s (if portHears (portOf s i) then failLanes s i (BitVec.ofNat 4 (2 ^ lane.val)) else s)

/-- Codeword lock is obtained: the receive stream begins with a codeword (DESIGN CHOICE, log 121). A port that was ACTIVE before it
retrained is ACTIVE again and resends what no ACK covers; any other one aligns, and both ends' credits begin anew (R320, R326, R330). -/
def obtainLock (s : State) (i : Fin 16) : State :=
  if (portOf s i).ready then resendAll (modPort s i fun x => { x with state := 4, fecPos := 0, fecBad := false }) i
  else
    modPort s i fun x =>
      { x with state := 2, fecPos := 0, fecBad := false, freed := Vector.replicate 4 0, told := false, heard := false }

/-- TRAINING_ATTEMPT: lanes in use that did not train fail, and the attempt completes where those of the narrower width have all trained;
one that fails is followed at once by another (R320, R326, R339). -/
def execTrainingAttempt (i : Fin 16) (done : Bool) (good : BitVec 4) (s : State) : Result :=
  let x := portOf s i
  answer s (
    if done && !s.fab.d06Dead && domOn s 6 && domOn s (7 + i.val) && decide (x.state = 1 ∨ x.state = 5) then
      let s1 := narrow s i (x.good &&& ~~~(x.lanes &&& ~~~good))
      if (portOf s1 i).state ≠ 6 ∧ (portOf s1 i).lanes &&& ~~~(x.lanes &&& good) = 0 then obtainLock s1 i else s1
    else s)

/-- What a port in ALIGN or INIT sends: a NULL flit at least once in 2,048, TIME flits, and CTRL flits (R320, R323, R329). -/
def linkFlit (s : State) (i : Fin 16) : State :=
  let x := portOf s i
  if 2047 ≤ x.sinceNull then sendFlit s i {}
  else match x.timeq with
    | m :: _ => sendTime s i m
    | [] => sendCtrl s i

/-- A flit boundary of a port: a MISWIRED one has only NULL flits to send (R320, R323). How long a port stays in ALIGN is a free choice
(log 121). -/
def flitBoundary (s : State) (i : Fin 16) : State :=
  match (portOf s i).state.toNat with
  | 2 => if Config.freeChoice (s.free + 16 + i.val) then linkFlit s i else modPort s i fun x => { x with state := 3 }
  | 3 => settleInit (linkFlit s i) i
  | 4 => activeFlit s i
  | 7 => sendFlit s i {}
  | _ => s

/-- One clock of the ports: a flit of a port starts in it or not, a free choice, since a flit takes longer than a clock (R319). -/
def fabricClock (s : State) : State :=
  if domOn s 6 then
    { (List.finRange 16).foldl (fun t i => if Config.freeChoice (s.free + i.val) then flitBoundary t i else t) s
      with free := s.free + 32 }
  else s

/-- RETRAIN_TIMEOUT: a retrain not completed within 100 ms (R320). -/
def execRetrainTimeout (i : Fin 16) (s : State) : Result :=
  answer s (if (portOf s i).state = 5 then enterDown s i else s)

/-- DOWN_RETRY: with AUTO a DOWN port starts TRAINING once per second (R320). -/
def execDownRetry (i : Fin 16) (s : State) : Result :=
  let x := portOf s i
  answer s (
    if domOn s 6 && decide (x.state = 6) && bitB (s.rget .zmzCtl i.val 0) 29 then
      startTraining s i (trainLanes x)
    else s)

/-- Whether a role would give a second port the same torus direction and link index (R340). -/
def roleClash (s : State) (i : Fin 16) (v : W32) : Bool :=
  decide (bitsN v 0 4 = 3) &&
  (List.finRange 16).any fun j =>
    decide (j ≠ i ∧ portRole s j = 3 ∧ portDir s j = bitsN v 4 3 ∧ portIndex s j = bitsN v 7 1)

/-- A write of ZMZ_ROLE_n (R340). -/
def writeRole (s : State) (i : Fin 16) (v : W32) : State :=
  if roleClash s i v then s.rmod .zmzRole i.val 0 fun w => setBit w 8 true
  else portReset (s.rset .zmzRole i.val 0 (BitVec.ofNat 64 (bitsN v 0 8))) i

/-- Take one transaction out of a receive buffer: its units are freed (R328). -/
def takeRx (s : State) (i : Fin 16) (t : Txn) : State :=
  modPort s i fun x =>
    { x with rx := x.rx.erase t,
             freed := x.freed.setIfInBounds t.vc.toNat (vAt x.freed 0 t.vc.toNat + BitVec.ofNat 12 (txnUnits t)) }

/-- The transaction that the switch takes next from an input: VC3 first, the oldest of its VC (R327). -/
def nextRx (x : Port) : Option Txn :=
  [3, 2, 1, 0].findSome? fun v => x.rx.find? fun t => decide (t.vc.toNat = v)

/-- ROUTE: the switch delivers or forwards the next transaction of a port, or answers it as unreachable (R336, R338). -/
def execRoute (i : Fin 16) (s : State) : Result :=
  answer s (
    match nextRx (portOf s i) with
    | none => s
    | some t =>
      let s1 := takeRx s i t
      let s2 := switchTxn s1 (some i) t
      if t.dst = ownId s ∨ (switchOut s1 (some i) t).isNone then s2 else perfCount s2 .dbgZmz (8 * i.val + 3) 1)

end Sys2Proof.Machine
end

