-- ==== Sys2Proof/Machine/Resilience.lean ====
section
/-!
DEFINITION. Sys2Proof/Machine/Resilience.lean: the Conservator's depth decision (R379, R380), the layout of a loan half
(R382), annex snapshots and commands (R384 to R386), and the RAS events (R390).
-/
namespace Sys2Proof.Machine

/-- Log a resilience code and send the RAS event message (R390). -/
def rasEvent (s : State) (code : BitVec 16) (detail : W32) : State :=
  let s1 := logRas s code detail
  let v := s.rget .rasCtl 0 0
  if bitB v 11 then sendMsix s1 (bitsN v 0 11) else s1

/-! ## Loan halves (R382) -/

def Plan.stateOff (p : Plan) : Nat := (2 * p.total + 4095) / 4096 * 4096

/-- STATE_BYTES: the sum of RAS_STATE_SIZE_n. -/
def stateBytes (s : State) : Nat := (List.range 8).foldl (fun a n => a + (s.rget .rasStateSize 0 n).toNat) 0

/-- The largest depth for which the loan half fits. -/
def halfDepth (s : State) (p : Plan) : Nat :=
  if p.stateOff + stateBytes s + 64 ≤ p.loanHalf then 4 else if p.stateOff + 64 ≤ p.loanHalf then 1 else 0

/-! ## The depth decision (R379, R380) -/

def riskOf (s : State) : Nat := bitsN (s.rget .rasRisk 0 0) 0 32

/-- Number of thresholds that RISK reaches. -/
def rawDepth (s : State) : Nat := (List.range 4).countP fun n => decide ((s.rget .rasThresh 0 n).toNat ≤ riskOf s)

/-- A clamp field: values 5 to 7 act as 4. -/
def clampField (v : W64) (lo : Nat) : Nat := min (bitsN v lo 3) 4

/-- Depth and the CAPPED bits (R379). -/
def depthOf (s : State) : Nat × Nat :=
  let ctl := s.rget .rasCtl 0 0
  let mx := clampField ctl 16
  let d0 := max (rawDepth s) (clampField ctl 12)
  let d1 := min d0 mx
  let c1 := if d1 < d0 then 8 else 0
  let fit : Option Nat := match s.col.plan with
    | some p => if p.loanBase = 0 then none else some (halfDepth s p)
    | none => none
  match fit with
  | none => (0, c1 + if 0 < d1 then 1 else 0)
  | some h =>
    let d2 := min d1 h
    let c2 := if d2 < d1 then 2 else 0
    let soon := match s.ras.lastDeep with
      | some t => decide ((s.timeNs - t).toNat < bitsN (s.rget .rasAnnexCtl 0 0) 16 16 * 1000000000)
      | none => false
    if decide (3 ≤ d2) && soon then (2, c1 + c2 + 4) else (d2, c1 + c2)

/-- DEPTH_DECISION at a plan load or at the close of a step (R380): the Conservator's own writes of RAS_DEPTH and COL_LOAN_CTL.EN (R436,
log 145). -/
def decideDepth (s : State) (step : W32) : State :=
  let (d, cap) := depthOf s
  let s1 := ownChange s .rasDepth 0 0 (BitVec.ofNat 64 (step.toNat * 2 ^ 32 + cap * 16 + d)) (BitVec.allOnes 64)
  let s2 := if 3 ≤ d then { s1 with ras := { s1.ras with lastDeep := some s1.timeNs } } else s1
  if bitB (s.rget .rasCtl 0 0) 31 then ownChange s2 .colLoanCtl 0 0 (if 1 ≤ d then 0x80000000 else 0) 0x80000000
  else s2

/-! ## The annex (R384 to R386) -/

def annexOf (s : State) (k : Fin 4) : AnnexSlot := s.ras.annex[k.val]

def setAnnex (s : State) (k : Fin 4) (x : AnnexSlot) : State :=
  { s with ras := { s.ras with annex := s.ras.annex.set k.val x } }

def annexDefault (_ : Nat) : Byte := 0

/-- The bytes of a slot. -/
def annexBytes (x : AnnexSlot) : List Byte := (List.range x.len).map fun i => smapGet annexDefault x.bytes i

def annexPack (bs : List Byte) : List (Nat × Byte) :=
  (bs.mapIdx fun i b => (i, b)).filter fun e => e.2 ≠ 0

/-- Rated bytes written, and the 95 % at which the annex counts as worn (R385). -/
def annexWornAt : Nat := 20 * 10 ^ 15 * 95 / 100

def annexWorn (s : State) : Bool := decide (annexWornAt ≤ s.ras.written)

/-- The slot of a sender's pair that does not hold its newest VALID snapshot (R384). -/
def pickSlot (s : State) (n : Fin 2) : Fin 4 :=
  let a : Fin 4 := if n = 0 then 0 else 2
  let b : Fin 4 := if n = 0 then 1 else 3
  let key (k : Fin 4) : Nat := if (annexOf s k).state = 2 then (annexOf s k).order + 1 else 0
  if key a ≤ key b then a else b

/-- Whether the annex accepts snapshots. -/
def annexEn (s : State) : Bool := bitB (s.rget .rasAnnexCtl 0 0) 0

/-- Start a snapshot of a half for sender n (R384). -/
def startSnapshot (s : State) (n : Fin 2) (base len sealAt half : Nat) (source : BitVec 16) : State :=
  if !annexEn s then s
  else if annexWorn s then rasEvent s 0x0C05 (source.zeroExtend 32)
  else match s.ras.snap with
    | some _ => rasEvent s 0x0C02 (source.zeroExtend 32)
    | none =>
      let k := pickSlot s n
      let s1 := setAnnex s k { annexOf s k with state := 1, sender := source }
      { s1 with ras := { s1.ras with snap := some ⟨k, base, len, sealAt, half⟩ } }

/-- The running snapshot is broken: its slot becomes INVALID. -/
def breakSnapshot (s : State) : State :=
  match s.ras.snap with
  | none => s
  | some x =>
    let s1 := setAnnex s x.slot { annexOf s x.slot with state := 3 }
    { s1 with ras := { s1.ras with snap := none } }

/-- A fabric WRITE that reaches the half of a running snapshot (R384). -/
def snapshotHit (s : State) (a len : Nat) : State :=
  match s.ras.snap with
  | none => s
  | some x =>
    if a < x.base + x.half ∧ x.base < a + len then
      rasEvent (breakSnapshot s) 0x0C03 (BitVec.ofNat 32 x.slot.val)
    else s

/-- SNAPSHOT_COMPLETE: the last page has been programmed (R384). `media` is a program failure with no spare block
(R390). -/
def execSnapshotComplete (media : Bool) (s : State) : Result :=
  answer s (
    match (if domOn s 25 then s.ras.snap else none) with
    | none => s
    | some x =>
      if media then rasEvent (breakSnapshot s) 0x0C04 (BitVec.ofNat 32 x.slot.val)
      else
        let r1 := devRead .registrar s x.base x.len
        let r2 := devRead .registrar r1.1 x.sealAt 64
        let bs := r1.2.1 ++ r2.2.1
        let depth := fieldAt r2.2.1 0x0C 1
        match (match r1.2.2 with
          | some f => some f
          | none => r2.2.2) with
        | some _ => breakSnapshot r2.1
        | none =>
          let s1 := setAnnex r2.1 x.slot
            { state := 2, step := BitVec.ofNat 32 (fieldAt r2.2.1 8 4), sender := BitVec.ofNat 16 (fieldAt r2.2.1 0x0E 2),
              depth := BitVec.ofNat 3 depth, order := s.ras.shots + 1, len := bs.length, bytes := annexPack bs }
          let s2 := { s1 with ras := { s1.ras with snap := none, shots := s.ras.shots + 1,
                                                    written := s.ras.written + bs.length } }
          let s3 := if annexWorn s2 then s2.rmod .rasStatus 0 0 fun v => setBit v 1 true else s2
          if depth = 4 then
            let s4 := s3.rmod .rasStatus 0 0 fun v => setBit v 3 true
            let v := s.rget .rasCtl 0 0
            if bitB v 11 then sendMsix s4 (bitsN v 0 11) else s4
          else s3)

/-- Live Data entry with WR = 1 that holds a whole span. -/
def dataSpan (s : State) (a len : Nat) : Option Nat :=
  (s.lay.inv.find? fun ie => ie.2.live && decide (ie.2.kind = 1) && ie.2.wr &&
    decide (ie.2.base.toNat ≤ a ∧ a + len ≤ ie.2.base.toNat + ie.2.size.toNat)).map (·.1)

/-- STATE of RAS_ANNEX_CMD. -/
def annexState (s : State) (k : Nat) : State := s.rmod .rasAnnexCmd 0 0 fun v => setBits v 48 2 k

/-- A RESTORE or ERASE written to RAS_ANNEX_CMD (R386): refused, which changes nothing else, or started. -/
def annexStart (s : State) (restore : Bool) (k : Fin 4) (addr : Nat) : State :=
  let x := annexOf s k
  let entry := if restore then (if x.state = 2 then dataSpan s addr x.len else none) else some 0
  if s.ras.snap.isSome || s.ras.cmd.isSome then annexState s 3
  else match entry with
    | none => annexState s 3
    | some e =>
      let s1 := if restore then useBegin s e else s
      annexState { s1 with ras := { s1.ras with cmd := some ⟨restore, k, addr, e⟩ } } 1

/-- ANNEX_COMMAND_DONE (R386): the slot is copied or returns to EMPTY; `bad` is an uncorrectable flash read at byte `at`,
which leaves the rest of the destination undefined: free values. -/
def execAnnexCommandDone (bad : Option Nat) (s : State) : Result :=
  answer s (
    match (if domOn s 25 then s.ras.cmd else none) with
    | none => s
    | some c =>
      let s0 := { s with ras := { s.ras with cmd := none } }
      let x := annexOf s c.slot
      if c.restore then
        match bad with
        | none =>
          let w := devWrite .registrar s0 (cellsAt c.addr (annexBytes x))
          annexState (useEnd w.1 c.entry) (if w.2.isSome then 3 else 2)
        | some k =>
          let bs := (annexBytes x).mapIdx fun i b =>
            if i < k then b else (Config.freeValue (s.free + i)).extractLsb' 0 8
          let w := devWrite .registrar { s0 with free := s.free + bs.length } (cellsAt c.addr bs)
          rasEvent (annexState (useEnd w.1 c.entry) 3) 0x0C04 (BitVec.ofNat 32 c.slot.val)
      else annexState (setAnnex s0 c.slot {}) 2)

/-- A seal (R382). -/
def sealBytes (s : State) (p : Plan) (n : W32) (depth half : Nat) : List Byte :=
  leBytes 4 0x4E414F4C ++ leBytes 4 p.planId.toNat ++ leBytes 4 n.toNat ++ leBytes 1 depth ++ leBytes 1 half
    ++ leBytes 2 (ownId s).toNat ++ leBytes 8 p.stateOff ++ leBytes 8 (if 2 ≤ depth then stateBytes s else 0)
    ++ leBytes 8 s.timeNs.toNat ++ leBytes 24 0

/-- The collective engine's fault for an address that belongs to nothing: it has the code of its target check (DEDUCED, log 112). -/
def engineAddrFlt (a : Nat) : Flt := ⟨0x0803, BitVec.ofNat 32 a⟩

/-- A LOAN_COMMIT that this module has accepted: the seal of a sender named in a valid RAS_IN_CTL_n is checked, and a
depth of 3 or more starts a snapshot (R383). -/
def acceptLoan (s : State) (src : BitVec 16) (step : W32) (half : Nat) : State :=
  let s := s.rmod .colLoanStatus 0 0 fun v => setBit (setBits v 32 32 step.toNat) 31 (decide (half % 2 = 1))
  match [(0 : Fin 2), 1].find? fun n =>
      bitB (s.rget .rasInCtl 0 n.val) 31 && decide (bitsN (s.rget .rasInCtl 0 n.val) 0 16 = src.toNat) with
  | none => s
  | some n =>
    let hs := (s.rget .rasInHalf 0 n.val).toNat
    let base := (s.rget .rasInBase 0 n.val).toNat + half * hs
    let r := reachRead .coll (engineAddrFlt base) s (base + hs - 64) 64
    let f := fun (off len : Nat) => fieldAt r.2.1 off len
    if r.2.2.isSome || decide (f 0 4 ≠ 0x4E414F4C ∨ f 8 4 ≠ step.toNat ∨ f 0x0D 1 ≠ half ∨ f 0x0E 2 ≠ src.toNat) then
      rasEvent r.1 0x0C01 (src.zeroExtend 32)
    else if 3 ≤ f 0x0C 1 then
      startSnapshot r.1 n base (f 0x10 8 + f 0x18 8) (base + hs - 64) hs src
    else r.1

end Sys2Proof.Machine
end

