-- ==== Sys2Proof/Machine/Control.lean ====
section
/-!
DEFINITION. Sys2Proof/Machine/Control.lean: the front end: operand reads, the scoreboard, the advance of the program
counter with loops, and the control-flow instructions of group 0x0 (R25 to R30, R60, R66 to R68).
-/
namespace Sys2Proof.Machine

def streamOf (c : Core) (k : Fin 6) : Stream := c.streams[k.val]

def setStream (c : Core) (k : Fin 6) (x : Stream) : Core := { c with streams := c.streams.set k.val x }

/-- Whether the front end can issue from a stream: the core runs and the stream is present and has not halted. -/
def canIssue (c : Core) (k : Fin 6) : Bool :=
  decide (c.runstate = 2) && (streamOf c k).active && !(streamOf c k).halted

/-! ## Operand reads at issue (R25, R45, R62) -/

/-- An S register as a stream names it: in PL12 mode its private bank of 16. -/
def readS (c : Core) (k : Fin 6) (r : BitVec 5) : W64 :=
  if c.pl12 then vAt c.ps 0 (16 * k.val + r.toNat % 16) else vAt c.s 0 r.toNat

def readSrc (c : Core) (k : Fin 6) : Src → W64
  | .none => 0
  | .s r => readS c k r
  | .p r => vAt c.p 0 (r.toNat % 16)

/-- The S registers an instruction reads, the wait field's among them. -/
def Src.sreg : Src → List (BitVec 5)
  | .s r => [r]
  | _ => []

/-- The places of a stream's register operands (R45, R47). -/
def sregPlace (c : Core) (k : Fin 6) (r : BitVec 5) : Place :=
  if c.pl12 then .ps (16 * k.val + r.toNat % 16) else .s r.toNat

def Src.place (c : Core) (k : Fin 6) : Src → List Place
  | .none => []
  | .s r => [sregPlace c k r]
  | .p r => [.p (r.toNat % 16)]

def waitReg (y : BitVec 48) : List (BitVec 5) := if syWkEn y && syWkSrel y then [syWkSreg y] else []

def sourcesS (x : Srcs) (y : BitVec 48) : List (BitVec 5) := x.a.sreg ++ x.b.sreg ++ x.c.sreg ++ x.d.sreg ++ waitReg y

/-- The places that an instruction reads at issue, the register of its counter wait among them. -/
def sourcePlaces (c : Core) (k : Fin 6) (x : Srcs) (y : BitVec 48) : List Place :=
  x.a.place c k ++ x.b.place c k ++ x.c.place c k ++ x.d.place c k ++ (waitReg y).map (sregPlace c k)

/-- Registers with a write pending by an SU instruction of the stream that is queued or executing (R25). -/
def pendingS (c : Core) (k : Fin 6) : List (BitVec 5) :=
  let of (e : Entry) : List (BitVec 5) :=
    match e.destS with
    | some r => if !c.pl12 || e.stream = k then [r] else []
    | none => []
  (vAt c.queues [] 0).flatMap of ++ (vAt c.inflight [] 0).flatMap fun x => of x.e

/-- The scoreboard holds issue (R25). -/
def scoreboardHolds (c : Core) (k : Fin 6) (x : Srcs) (y : BitVec 48) : Bool :=
  (sourcesS x y).any fun r => (pendingS c k).contains r

/-- In a PL12 stream an instruction names only S0 to S15 (R45). -/
def pl12RegsOk (c : Core) (x : Srcs) (y : BitVec 48) (dest : Option (BitVec 5)) : Bool :=
  !c.pl12 || ((sourcesS x y).all (fun r => !bitB r 4) && match dest with
    | some r => !bitB r 4
    | none => true)

/-! ## Faults of the front end and the advance of the program counter -/

def opcodeFlt (op : CoreOp) : Flt := ⟨0x0101, op.code.zeroExtend 32⟩

/-- A fault raised by the front end: ENGINE 0. -/
def frontFault (s : State) (p : Fin 72) (k : Fin 6) (f : Flt) : State :=
  coreFault s p 0 f k ((streamOf (s.core p) k).pc.zeroExtend 64)

/-- An error in what the front end reads: ENGINE 7, core state (DEDUCED, log 129). -/
def stateFault (s : State) (p : Fin 72) (k : Fin 6) (f : Flt) : State :=
  coreFault s p 7 f k ((streamOf (s.core p) k).pc.zeroExtend 64)

/-- Go on where the places of operands are good. -/
def withPlaces (p : Fin 72) (k : Fin 6) (l : List Place) (s : State) (f : State → State) : State :=
  let r := eccRead s p l
  match r.2 with
  | some flt => stateFault r.1 p k flt
  | none => f r.1

/-- Whether fetch may continue at an offset (R29). -/
def targetOk (c : Core) (t : Int) : Bool := decide (0 ≤ t ∧ t < c.extent.toNat ∧ t % 16 = 0)

/-- E_CORE_PC_EXTENT for a target: its low 32 bits. -/
def extentFlt (t : Int) : Flt := ⟨0x0102, BitVec.ofInt 32 t⟩

/-- Loop-end processing at offset p, innermost loop first: the loops left and where fetch continues (R67). -/
def loopEnd (p : Nat) : List LoopFrame → List LoopFrame × Nat
  | [] => ([], p + 16)
  | f :: t =>
    if f.last.toNat = p then
      let n := f.count - 1
      if n ≠ 0 then ({ f with count := n } :: t, f.start.toNat) else loopEnd p t
    else (f :: t, p + 16)

/-- The loops that a taken branch to t leaves active (R68). -/
def loopsAfterBranch (t : Nat) (l : List LoopFrame) : List LoopFrame :=
  l.dropWhile fun f => decide (t < f.start.toNat ∨ f.last.toNat < t)

/-- Continue a stream at an offset, or fault where no fetch may happen. COR_FREC_1.PC is then the offset that fetch would have taken, not that
of the instruction that issued, which is no faulting instruction (DESIGN CHOICE, log 124). -/
def gotoPc (s : State) (p : Fin 72) (k : Fin 6) (loops : List LoopFrame) (t : Nat) : State :=
  if targetOk (s.core p) t then
    s.modCore p fun c => setStream c k { streamOf c k with pc := BitVec.ofNat 32 t, loops := loops }
  else coreFault s p 0 (extentFlt t) k (BitVec.ofNat 64 t)

/-- The event of R67 at offset q. -/
def afterOffset (s : State) (p : Fin 72) (k : Fin 6) (q : Nat) : State :=
  let r := loopEnd q (streamOf (s.core p) k).loops
  gotoPc s p k r.1 r.2

/-- The instruction at the program counter has issued: loop-end processing and the next sequential instruction. -/
def advance (s : State) (p : Fin 72) (k : Fin 6) : State := afterOffset s p k (streamOf (s.core p) k).pc.toNat

/-! ## Instruction fill (R28, R273) -/

/-- Address of the code region that a core runs: byte 0x100 of the allocation of its dispatch's image (R39). -/
def codeBase (s : State) (p : Fin 72) : Option Nat :=
  (s.host.dispatches.find? fun d => decide (d.tag = (s.core p).tag) && !d.done).map fun d =>
    (invGet s d.image).base.toNat + 0x100

/-- The lines that the buffer keeps when it takes another: which of 128 leaves, and whether one leaves before the buffer is full, is a
free value (log 70). -/
def ibufRoom (n : Nat) (l : List (Nat × List Byte)) : List (Nat × List Byte) :=
  l.eraseIdx ((Config.freeValue n).toNat % (if l.length < 128 then l.length + 1 else l.length))

/-- Fill a line from L2, clipped at the end of the region (R28, R29). -/
def fillLine (s : State) (p : Fin 72) (base line : Nat) : State × Option Flt :=
  let a := base + 128 * line
  let len := min 128 ((s.core p).extent.toNat - 128 * line)
  let r := devRead (.core p) s a len
  match r.2.2 with
  | some f => (r.1, some f)
  | none =>
    let s1 := (spanLines a len).foldl (fun s l => if l < memTop s then l2Fill s l else s) r.1
    ({ s1.modCore p fun c => Core.clean { c with ibuf := (line, r.2.1) :: ibufRoom s1.free c.ibuf } fun k => decide (k = .ibuf line)
       with free := s1.free + 1 }, none)

/-- The buffer holds the line of a stream's program counter. -/
def hasLine (c : Core) (k : Fin 6) : Bool := c.ibuf.any fun e => e.1 = (streamOf c k).pc.toNat / 128

/-- The instruction at the program counter is needed: its 128-byte line is filled where the buffer does not hold it. A fill that meets
an error is a fault of the front end, an error in the buffer one of the core's state. -/
def withLine (p : Fin 72) (k : Fin 6) (s : State) (f : State → State) : State :=
  let line := (streamOf (s.core p) k).pc.toNat / 128
  if hasLine (s.core p) k then withPlaces p k [.ibuf line] s f
  else match codeBase s p with
    | none => f s
    | some b =>
      let r := fillLine s p b line
      match r.2 with
      | some flt => frontFault r.1 p k flt
      | none => f r.1

/-- The instruction word at the program counter, out of the buffer. -/
def bufferedWord (c : Core) (k : Fin 6) : BitVec 128 :=
  let pc := (streamOf c k).pc.toNat
  let bs := ((c.ibuf.find? fun e => e.1 = pc / 128).map (·.2)).getD []
  BitVec.ofNat 128 (leNat (slice bs (pc % 128) 16))

/-- The next clock of a core that has been dispatched: it no longer reads LOADING. -/
def Core.loaded (c : Core) : Core := { c with loading := false }

/-! ## Control-flow instructions -/

/-- Signed immediate. -/
def immI (o : OpS) : Int := o.imm.toInt

/-- Compare of BCC and SCMP: 0 EQ, 1 NE, 2 LT, 3 GE, 4 LTU, 5 GEU. -/
def scalarCmp (cond : Nat) (a b : W64) : Bool :=
  match cond with
  | 0 => a = b
  | 1 => a ≠ b
  | 2 => a.toInt < b.toInt
  | 3 => b.toInt ≤ a.toInt
  | 4 => a.toNat < b.toNat
  | _ => b.toNat ≤ a.toNat

/-- What every control-flow instruction does first: nothing where the stream cannot issue, E_CORE_OPCODE where a
field is outside its range or the sync word is not zero (R59, R60), a stall on the scoreboard (R27), and an error in the registers it
reads. The fill of its line comes before these. -/
def control (op : CoreOp) (k : Ctl) (o : OpS) (s : State) (f : State → State) : Result :=
  let c := s.core k.core
  let x := srcsOf op (.s o)
  if !domOn s 0 || !canIssue c k.stream then .next s
  else
    answer s (withLine k.core k.stream (s.modCore k.core Core.loaded) fun s1 =>
      if decide (k.sync ≠ 0) || !formOk op (.s o) || !pl12RegsOk c x 0 none then frontFault s1 k.core k.stream (opcodeFlt op)
      else if scoreboardHolds c k.stream x 0 then s1
      else withPlaces k.core k.stream (sourcePlaces c k.stream x 0) s1 f)

/-- NOP: none. -/
def execNop (k : Ctl) (o : OpS) (s : State) : Result :=
  control .nop k o s fun s => advance s k.core k.stream

/-- A taken branch: the target must satisfy R29, and loops whose body it leaves end (R68). -/
def takeBranch (s : State) (p : Fin 72) (k : Fin 6) (o : OpS) : State :=
  let t : Int := (streamOf (s.core p) k).pc.toNat + immI o
  if targetOk (s.core p) t then gotoPc s p k (loopsAfterBranch t.toNat (streamOf (s.core p) k).loops) t.toNat
  else frontFault s p k (extentFlt t)

/-- B: PC := PC + IMM. -/
def execB (k : Ctl) (o : OpS) (s : State) : Result :=
  control .b k o s fun s => takeBranch s k.core k.stream o

/-- BCC: if compare(COND, A, B), PC := PC + IMM. -/
def execBcc (k : Ctl) (o : OpS) (s : State) : Result :=
  control .bcc k o s fun s =>
    let c := s.core k.core
    let x := srcsOf .bcc (.s o)
    if scalarCmp o.cond.toNat (readSrc c k.stream x.a) (readSrc c k.stream x.b) then takeBranch s k.core k.stream o
    else advance s k.core k.stream

def depthFlt (n : Nat) : Flt := ⟨0x0107, BitVec.ofNat 32 n⟩

/-- CALL: push PC + 16, then PC := PC + IMM.  The return stack holds 16 offsets, 4 in a PL12 stream (R28, R45). -/
def execCall (k : Ctl) (o : OpS) (s : State) : Result :=
  control .call k o s fun s =>
    let c := s.core k.core
    let st := streamOf c k.stream
    let t : Int := st.pc.toNat + immI o
    if (if c.pl12 then 4 else 16) ≤ st.rets.length then
      frontFault s k.core k.stream (depthFlt (st.rets.length + 1))
    else if !targetOk c t then frontFault s k.core k.stream (extentFlt t)
    else s.modCore k.core fun c =>
      setStream c k.stream { st with pc := BitVec.ofInt 32 t, rets := (st.pc + 16) :: st.rets }

/-- RET: PC := pop, with the loop-end processing of the CALL's offset (R67). -/
def execRet (k : Ctl) (o : OpS) (s : State) : Result :=
  control .ret k o s fun s =>
    let st := streamOf (s.core k.core) k.stream
    match st.rets with
    | [] => frontFault s k.core k.stream (depthFlt 0)
    | r :: t =>
      if targetOk (s.core k.core) r.toNat then
        afterOffset (s.modCore k.core fun c => setStream c k.stream { st with rets := t }) k.core k.stream
          (r.toNat - 16)
      else frontFault s k.core k.stream (extentFlt r.toNat)

/-- A LOOP with count n and end offset e: a zero count skips the body, otherwise the loop becomes the innermost; at
most 4 nest, 2 in a PL12 stream (R67, R68). -/
def startLoop (s : State) (k : Ctl) (n : W64) (e : Nat) : State :=
  let c := s.core k.core
  let st := streamOf c k.stream
  let pc := st.pc.toNat
  if n = 0 then afterOffset s k.core k.stream (pc + e)
  else if (if c.pl12 then 2 else 4) ≤ st.loops.length then
    frontFault s k.core k.stream (depthFlt (st.loops.length + 1))
  else gotoPc s k.core k.stream (⟨BitVec.ofNat 64 (pc + 16), BitVec.ofNat 64 (pc + e), n⟩ :: st.loops) (pc + 16)

/-- LOOP: repeat the body A times; the end offset must be positive. -/
def execLoop (k : Ctl) (o : OpS) (s : State) : Result :=
  control .loop k o s fun s =>
    if immI o ≤ 0 then frontFault s k.core k.stream (opcodeFlt .loop)
    else startLoop s k (readSrc (s.core k.core) k.stream (srcsOf .loop (.s o)).a) (immI o).toNat

/-- LOOPI: repeat the body IMM[47:32] times; the body ends at PC + IMM[31:0], taken unsigned, so that only 0 is not positive (DESIGN CHOICE,
log 124: R67 does not say whether it is signed). -/
def execLoopi (k : Ctl) (o : OpS) (s : State) : Result :=
  control .loopi k o s fun s =>
    if bitsN o.imm 0 32 = 0 then frontFault s k.core k.stream (opcodeFlt .loopi)
    else startLoop s k (BitVec.ofNat 64 (bitsN o.imm 32 16)) (bitsN o.imm 0 32)

/-- Whether every present stream has issued its HALT (R30, R46). -/
def allHalted (c : Core) : Bool := c.streams.toList.all fun st => !st.active || st.halted

/-- HALT: the end of the stream; the core drains when every present stream has issued it (R30, R46). -/
def execHalt (k : Ctl) (o : OpS) (s : State) : Result :=
  control .halt k o s fun s =>
    s.modCore k.core fun c =>
      let c := setStream c k.stream { streamOf c k.stream with halted := true }
      if allHalted c then { c with runstate := 3 } else c

end Sys2Proof.Machine
end

