-- ==== Sys2Proof/Machine/Scalar.lean ====
section
/-!
DEFINITION. Sys2Proof/Machine/Scalar.lean: what the instructions of the scalar unit do when they start (groups 0x1 and
0x2: R36, R47, R57, R69, R70).
-/
namespace Sys2Proof.Machine

/-- What starting an engine instruction gives: the state with its writes, a fault if it stopped, the sticky bits that
its completion sets, the inventory entries it uses from its start to its completion (R244), and the COR_VE_CSR_LAST
that its completion writes (R214). -/
structure RunOut where
  st : State
  fault : Option Flt := none
  sticky : BitVec 16 := 0
  uses : List Nat := []
  csrLast : Option W64 := none
  deriving DecidableEq, Repr

def ranOk (s : State) : RunOut := { st := s }
def ranFault (s : State) (f : Flt) : RunOut := { st := s, fault := some f }

/-- Write an S register as a stream names it (R45). -/
def writeS (c : Core) (k : Fin 6) (r : BitVec 5) (x : W64) : Core :=
  Core.clean (if c.pl12 then { c with ps := c.ps.setIfInBounds (16 * k.val + r.toNat % 16) x }
    else { c with s := c.s.setIfInBounds r.toNat x }) fun q => decide (q = sregPlace c k r)

/-- An SU instruction that writes RD, with sticky bits. -/
def suWrite (p : Fin 72) (e : Entry) (s : State) (r : BitVec 5) (x : W64) (fl : Flags) : RunOut :=
  ranOk (s.modCore p fun c => orSticky (writeS c e.stream r x) .su (fl &&& 0x1D))

/-- 64-bit integer results of group 0x1; `c` is the old RD. -/
def suInt (op : CoreOp) (o : OpS) (a b c : W64) : W64 :=
  match op with
  | .sadd => a + b
  | .ssub => a - b
  | .smul => a * b
  | .sand => a &&& b
  | .sor => a ||| b
  | .sxor => a ^^^ b
  | .sshl => a <<< (bitsN b 0 6)
  | .sshr => a >>> (bitsN b 0 6)
  | .ssra => a.sshiftRight (bitsN b 0 6)
  | .smin => if a.toInt ≤ b.toInt then a else b
  | .smax => if b.toInt ≤ a.toInt then a else b
  | .scmp => if scalarCmp o.cond.toNat a b then 1 else 0
  | .smovi => o.imm.signExtend 64
  | .smovhi => setBits c 48 16 (bitsN o.imm 0 16)
  | .saddi => a + o.imm.signExtend 64
  | _ => 0

/-- A rounded integer against the INT64 range: the nearer limit and INV (SFCVT). -/
def toInt64 (i : Int) (inx : Bool) : W64 × Flags :=
  if i < -(2 ^ 63 : Int) then (BitVec.ofInt 64 (-(2 ^ 63 : Int)), fINV)
  else if (2 ^ 63 : Int) - 1 < i then (BitVec.ofInt 64 ((2 ^ 63 : Int) - 1), fINV)
  else (BitVec.ofInt 64 i, if inx then fINX else 0)

/-- SFCVT: 0 INT64 to FP32, 1 FP32 to INT64, 2 FP32 to BF16 bits, 3 BF16 bits to FP32. -/
def sfcvt (kind mode : Nat) (a : W64) : W64 × Flags :=
  let lo := a.extractLsb' 0 32
  match kind with
  | 0 =>
    let (x, f) := roundFin .fp32 mode 0 false (decide (a.toInt < 0)) a.toInt.natAbs 0 false
    (x.zeroExtend 64, f)
  | 1 =>
    match Fp.decode .fp32 lo with
    | .nan => (0, fINV)
    | .inf neg => (BitVec.ofInt 64 (if neg then -(2 ^ 63 : Int) else (2 ^ 63 : Int) - 1), fINV)
    | .fin neg m ex =>
      let r := Fp.toInt mode 0 neg m ex
      toInt64 r.1 r.2
  | 2 =>
    let (x, f) := convert .bf16 .fp32 mode 0 false lo
    (x.zeroExtend 64, f)
  | _ =>
    let (x, f) := convert .fp32 .bf16 mode 0 false (lo &&& 0xFFFF)
    (x.zeroExtend 64, f)

/-- FP32 results of group 0x1: bits [31:0], with [63:32] zero. -/
def suFp (op : CoreOp) (o : OpS) (a b c : W64) : W64 × Flags :=
  let lo (x : W64) : W32 := x.extractLsb' 0 32
  let mode := o.cond.toNat
  let w (r : W32 × Flags) : W64 × Flags := (r.1.zeroExtend 64, r.2)
  match op with
  | .sfadd => w (eAdd .fp32 mode 0 (lo a) (lo b))
  | .sfmul => w (eMul .fp32 mode 0 (lo a) (lo b))
  | .sffma => w (eFma .fp32 mode 0 false (lo a) (lo b) (lo c))
  | .sfmin => w (eMinMax .fp32 false true (lo a) (lo b), 0)
  | .sfmax => w (eMinMax .fp32 true true (lo a) (lo b), 0)
  | .sfcvt => sfcvt o.imm.toNat mode a
  | _ => (0, 0)

def scalarAlignFlt (a : Nat) : Flt := ⟨0x0104, BitVec.ofNat 32 a⟩
def scalarAddrFlt (a : Nat) : Flt := ⟨0x0105, BitVec.ofNat 32 a⟩

/-- The fault of a scalar access: alignment, then a live inventory allocation, then the place (R47, R226). -/
def scalarFlt (p : Fin 72) (s : State) (a len : Nat) : Option Flt :=
  if a % len ≠ 0 then some (scalarAlignFlt a)
  else if !liveSpan s a len then some (scalarAddrFlt a)
  else (placeErrSpan (.core p) s a len).map fun x => x.flt (scalarAddrFlt a)

/-- Address of SLD and SST: A + IMM. -/
def scalarAddr (e : Entry) (o : OpS) : Nat := (e.a + o.imm.signExtend 64).toNat

/-- SLD: RD := zero-extended load of SZ bytes; COND[0] = 1 sign-extends. -/
def runSld (p : Fin 72) (e : Entry) (o : OpS) (s : State) : RunOut :=
  let len := 2 ^ o.sz.toNat
  let a := scalarAddr e o
  match scalarFlt p s a len with
  | some f => ranFault s f
  | none =>
    let (s1, bs, err) := loadBytes p s a len
    match err with
    | some f => ranFault s1 f
    | none =>
      let n := leNat bs
      let x : W64 := BitVec.ofNat 64 n
      let v := if bitB o.cond 0 && bitB x (8 * len - 1) then x - BitVec.ofNat 64 (2 ^ (8 * len)) else x
      suWrite p e s1 o.rd v 0

/-- SST: store the low SZ bytes of B. -/
def runSst (p : Fin 72) (e : Entry) (o : OpS) (s : State) : RunOut :=
  let len := 2 ^ o.sz.toNat
  let a := scalarAddr e o
  match (scalarFlt p s a len).or (if writableSpan s a len then none else some (scalarAddrFlt a)) with
  | some f => ranFault s f
  | none =>
    let (s1, err) := storeCells p s (cellsAt a (leBytes len e.b.toNat))
    { st := s1, fault := err }

/-- SFLAG: 0 clear, 1 set, 2 RD := flag. -/
def runSflag (p : Fin 72) (e : Entry) (o : OpS) (s : State) : RunOut :=
  let i := bitsN o.imm 0 5
  match bitsN o.imm 8 2 with
  | 0 => ranOk (s.modCore p fun c => setFlag c i false)
  | 1 => ranOk (s.modCore p fun c => setFlag c i true)
  | _ => suWrite p e s o.rd (if flagOf (s.core p) i then 1 else 0) 0

/-- SKADD: counter IMM[3:0] := (K + IMM[31:16]) mod 65,536. -/
def runSkadd (p : Fin 72) (o : OpS) (s : State) : RunOut :=
  let i := bitsN o.imm 0 4
  ranOk (s.modCore p fun c => setCounter c i (counterOf c i + BitVec.ofNat 16 (bitsN o.imm 16 16)))

/-- The identity sources of R69. -/
def identity (s : State) (p : Fin 72) (k : Fin 6) (i : Nat) : W64 :=
  let c := s.core p
  match i with
  | 0 => c.dindex.zeroExtend 64
  | 1 => c.ncores.zeroExtend 64
  | 2 => BitVec.ofNat 64 ((logicalOf s p).getD 0)
  | 3 => BitVec.ofNat 64 p.val
  | 4 => c.tag.zeroExtend 64
  | 5 => nowNs s
  | _ => BitVec.ofNat 64 k.val

/-- SSTAT: RD := sticky status of engine IMM[2:0]; IMM[8] = 1 clears the bits returned (R70). -/
def runSstat (p : Fin 72) (e : Entry) (o : OpS) (s : State) : RunOut :=
  let i := bitsN o.imm 0 3 - 1
  let x := vAt (s.core p).sticky 0 i
  let s1 := if bitB o.imm 8 then s.modCore p fun c => { c with sticky := c.sticky.setIfInBounds i 0 } else s
  suWrite p e s1 o.rd (x.zeroExtend 64) 0

/-- The instructions of groups 0x1 and 0x2. -/
def runScalar (p : Fin 72) (e : Entry) (o : OpS) (s : State) : RunOut :=
  match e.op with
  | .sfadd | .sfmul | .sffma | .sfmin | .sfmax | .sfcvt =>
    let r := suFp e.op o e.a e.b e.c
    suWrite p e s o.rd r.1 r.2
  | .sld => runSld p e o s
  | .sst => runSst p e o s
  | .sflag => runSflag p e o s
  | .skadd => runSkadd p o s
  | .skrd => suWrite p e s o.rd ((counterOf (s.core p) (bitsN o.imm 0 4)).zeroExtend 64) 0
  | .sid => suWrite p e s o.rd (identity s p e.stream (bitsN o.imm 0 4)) 0
  | .sstat => runSstat p e o s
  | .svget => suWrite p e s o.rd ((vGet (s.core p) o.ra (bitsN o.imm 0 9)).zeroExtend 64) 0
  | _ => suWrite p e s o.rd (suInt e.op o e.a e.b e.c) 0

end Sys2Proof.Machine
end

