-- ==== Sys2Proof/Machine/View.lean ====
section
/-!
DEFINITION. Sys2Proof/Machine/View.lean: layout descriptors: the record (R249), addresses through a view (R250, R251,
R253, R254), the checks of a use (R256, R257), and the copies that the CE and the ring copy engine share (R258 to R263).
-/
namespace Sys2Proof.Machine

/-! ## The record (R249) -/

structure Desc where
  inv : W32
  typeCode : Nat
  ndim : Nat
  swz : Nat
  oob : Nat
  offset : Nat
  fill : W32
  padval : W32
  padlo : List Nat
  padhi : List Nat
  size : List Nat
  stride : List Int
  deriving DecidableEq, Repr

/-- A signed 64-bit field. -/
def sfield (rec : List Byte) (off : Nat) : Int := (BitVec.ofNat 64 (fieldAt rec off 8)).toInt

def decodeDesc (rec : List Byte) : Desc :=
  { inv := BitVec.ofNat 32 (fieldAt rec 0 4)
    typeCode := fieldAt rec 4 1
    ndim := fieldAt rec 5 1
    swz := fieldAt rec 6 1
    oob := fieldAt rec 7 1
    offset := fieldAt rec 8 8
    fill := BitVec.ofNat 32 (fieldAt rec 0x10 4)
    padval := BitVec.ofNat 32 (fieldAt rec 0x14 4)
    padlo := [fieldAt rec 0x18 2, fieldAt rec 0x1C 2]
    padhi := [fieldAt rec 0x1A 2, fieldAt rec 0x1E 2]
    size := (List.range 8).map fun d => fieldAt rec (0x20 + 4 * d) 4
    stride := (List.range 8).map fun d => sfield rec (0x40 + 8 * d) }

def Desc.ty (d : Desc) : ETy := (ETy.ofCode (BitVec.ofNat 4 d.typeCode)).getD .fp32

/-- Element size in bytes. -/
def Desc.esize (d : Desc) : Nat := d.ty.bytes

def Desc.padLo (d : Desc) (k : Nat) : Nat := d.padlo.getD k 0
def Desc.padHi (d : Desc) (k : Nat) : Nat := d.padhi.getD k 0

/-- SIZE of dimension k; a missing dimension has size 1. -/
def Desc.dim (d : Desc) (k : Nat) : Nat := if k < d.ndim then d.size.getD k 0 else 1

/-- Logical extent of dimension k. -/
def Desc.ext (d : Desc) (k : Nat) : Nat := d.padLo k + d.dim k + d.padHi k

/-- Data size of the view in bytes. -/
def Desc.dataBytes (d : Desc) : Nat := (List.range d.ndim).foldl (fun a k => a * d.dim k) d.esize

/-! ## Addresses (R250, R251) -/

/-- o of R250 for data coordinates. -/
def Desc.linear (d : Desc) (x : List Int) : Int :=
  (d.offset : Int) + (d.esize : Int) * ((List.range 8).foldl (fun a k =>
    a + if k < d.ndim then x.getD k 0 * d.stride.getD k 0 else 0) 0)

/-- Bytes of the swizzle block. -/
def swzBlock (swz : Nat) : Nat :=
  match swz with
  | 1 => 2 ^ 14
  | 2 => 2 ^ 22
  | _ => 1

/-- The stored offset (R251). -/
def swzOffset (swz o : Nat) : Nat :=
  let put (line : Nat) : Nat := o / 1024 * 1024 + line % 16 * 64 + o % 64
  match swz with
  | 1 => put ((o / 64 % 16) ^^^ (o / 1024 % 16))
  | 2 => put ((o / 64 % 16) ^^^ (o / 2 ^ 18 % 16))
  | _ => o

/-- Device address of a data element; the base is that of the viewed entry. -/
def Desc.addr (d : Desc) (base : Nat) (x : List Int) : Nat := base + swzOffset d.swz (d.linear x).toNat

/-! ## Resolution of reads and writes (R253, R254) -/

/-- What a logical coordinate names. `oob` says that step 1 of R253 resolved it. -/
inductive Spot where
  | fill
  | pad (oob : Bool)
  | data (x : List Int) (oob : Bool)
  | dropped
  deriving DecidableEq, Repr

def Desc.outOf (d : Desc) (x : List Int) : Bool :=
  (List.range 8).any fun k => decide (x.getD k 0 < 0) || decide ((d.ext k : Int) ≤ x.getD k 0)

def Desc.clamp (d : Desc) (x : List Int) : List Int :=
  (List.range 8).map fun k => max 0 (min (x.getD k 0) ((d.ext k : Int) - 1))

def Desc.inPad (d : Desc) (x : List Int) : Bool :=
  [0, 1].any fun k => decide (x.getD k 0 < d.padLo k) || decide ((d.padLo k + d.dim k : Int) ≤ x.getD k 0)

def Desc.dataCoord (d : Desc) (x : List Int) : List Int :=
  (List.range 8).map fun k => x.getD k 0 - d.padLo k

def Desc.readPlace (d : Desc) (x : List Int) : Spot :=
  let out := d.outOf x
  if out && decide (d.oob = 0) then .fill
  else
    let y := if out then d.clamp x else x
    if d.inPad y then .pad out else .data (d.dataCoord y) out

def Desc.writePlace (d : Desc) (x : List Int) : Spot :=
  if d.outOf x then .dropped
  else if d.inPad x then .pad false
  else .data (d.dataCoord x) false

/-- Coordinates over the given extents, the first varying fastest. -/
def coords : List Nat → List (List Int)
  | [] => [[]]
  | n :: t => (coords t).flatMap fun y => (List.range n).map fun (i : Nat) => Int.ofNat i :: y

def Desc.logical (d : Desc) : List (List Int) := coords ((List.range 8).map d.ext)

/-- Data positions in dense order, dimension 0 fastest (R306). -/
def Desc.positions (d : Desc) : List (List Int) := coords ((List.range 8).map d.dim)

/-! ## Checks of a use (R256, R257) -/

def layHandleFlt (h : W32) : Flt := ⟨0x0501, h⟩
def layStaleFlt (h : W32) : Flt := ⟨0x0502, h⟩
def layTypeFlt (dst src : Nat) : Flt := ⟨0x0503, BitVec.ofNat 32 (dst + 256 * src)⟩
def layShapeFlt (h : W32) : Flt := ⟨0x0504, h⟩
def layDestFlt (h : W32) : Flt := ⟨0x0505, h⟩

def descDefault (_ : Nat) : DescSlot := {}

def descGet (s : State) (i : Nat) : DescSlot := smapGet descDefault s.lay.descs i

def descPut (s : State) (i : Nat) (x : DescSlot) : State :=
  { s with lay := { s.lay with descs := smapPut descDefault s.lay.descs i x } }

/-- The slot of a live descriptor handle. -/
def descLive (s : State) (h : W32) : Option Nat :=
  let i := bitsN h 0 20
  let x := descGet s i
  if decide (i < s.lay.slots) && x.live && decide (x.sgen.toNat = bitsN h 20 12) then some i else none

/-- A view being used: its handle, its record, the entry it views and that entry's index. -/
structure View where
  handle : W32
  desc : Desc
  base : Nat
  entry : Nat
  kind : BitVec 3
  wr : Bool
  deriving DecidableEq, Repr

/-- Base of the descriptor table. -/
def tableBase (s : State) : Nat := (invGet s (bitsN s.lay.dtab 0 16)).base.toNat

/-- The record of a use: from the cache, or from its slot on a miss.  Which of the two is a free choice, and the hit
and miss counters follow it (R248, R257). -/
def readRecord (m : Master) (s : State) (slot : Nat) : State × List Byte × Option Flt :=
  let hit := Config.freeChoice s.free
  let s1 := { s with free := s.free + 1 }
  if hit then (s1.rcountSat .layDcacheStat 0 0 0 32 1, (descGet s slot).record, none)
  else devRead m (s1.rcountSat .layDcacheStat 0 0 32 32 1) (tableBase s + 128 * slot) 128

/-- Checks 1 and 2 of R257 for the handle in a register: its slot, and the entry it views with its index. -/
def viewCheck (s : State) (h : W64) : Except Flt (Nat × Nat × InvEntry) :=
  let w := h.extractLsb' 0 32
  match (if h.toNat / 2 ^ 32 = 0 then descLive s w else none) with
  | none => .error (layHandleFlt w)
  | some slot =>
    match handleEntry s (decodeDesc (descGet s slot).record).inv with
    | none => .error (layStaleFlt w)
    | some ie => .ok (slot, ie)

/-- The read of the record of a descriptor that has passed checks 1 and 2. -/
def viewRead (m : Master) (s : State) (h : W64) (x : Nat × Nat × InvEntry) : State × Except Flt View :=
  let r := readRecord m s x.1
  match r.2.2 with
  | some f => (r.1, .error f)
  | none => (r.1, .ok ⟨h.extractLsb' 0 32, decodeDesc r.2.1, x.2.2.base.toNat, x.2.1, x.2.2.kind, x.2.2.wr⟩)

/-- A use of one descriptor. -/
def openView (m : Master) (s : State) (h : W64) : State × Except Flt View :=
  match viewCheck s h with
  | .error f => (s, .error f)
  | .ok x => viewRead m s h x

/-- A use of two descriptors: checks 1 and 2 for the first and then for the second, before either record is read. -/
def openTwo (m : Master) (s : State) (h1 h2 : W64) : State × Except Flt (View × View) :=
  match viewCheck s h1 with
  | .error f => (s, .error f)
  | .ok x1 =>
    match viewCheck s h2 with
    | .error f => (s, .error f)
    | .ok x2 =>
      let r1 := viewRead m s h1 x1
      match r1.2 with
      | .error f => (r1.1, .error f)
      | .ok v1 =>
        let r2 := viewRead m r1.1 h2 x2
        match r2.2 with
        | .error f => (r2.1, .error f)
        | .ok v2 => (r2.1, .ok (v1, v2))

/-- The conditions on a destination (R256). -/
def View.destOk (v : View) : Bool :=
  (decide (v.kind = 4) || (decide (v.kind = 1) && v.wr)) && decide (v.desc.oob = 0) &&
  (List.range v.desc.ndim).all fun k => decide (v.desc.dim k ≤ 1) || decide (v.desc.stride.getD k 0 ≠ 0)

def View.addr (v : View) (x : List Int) : Nat := v.desc.addr v.base x

/-! ## Copies -/

/-- The running state of a copy: the module, the cells to write with the address that each byte was read from, the source elements
read, the sticky bits (OOB 1, PAD 2) and the first error. -/
structure Moving where
  st : State
  cells : List (Nat × Byte) := []
  origin : List (Option Nat) := []
  read : List Nat := []
  sticky : BitVec 16 := 0
  err : Option Flt := none
  deriving DecidableEq, Repr

/-- The fault of a place of a view that its engine may not reach. -/
def viewFlt (v : View) (p : PlaceErr) : Flt := p.flt (layHandleFlt v.handle)

/-- Read one element of a view at a place (R253), with the address it was read from. -/
def readElem (m : Master) (v : View) (mv : Moving) (pl : Spot) : Moving × List Byte × Option Nat :=
  let n := v.desc.esize
  match pl with
  | .fill => ({ mv with sticky := mv.sticky ||| 1 }, leBytes n v.desc.fill.toNat, none)
  | .pad o => ({ mv with sticky := mv.sticky ||| (if o then 3 else 2) }, leBytes n v.desc.padval.toNat, none)
  | .dropped => (mv, leBytes n 0, none)
  | .data x o =>
    let a := v.addr x
    let mv := { mv with sticky := mv.sticky ||| (if o then 1 else 0), read := mv.read ++ [a] }
    match placeErrSpan m mv.st a n with
    | some e => ({ mv with err := some (viewFlt v e) }, [], none)
    | none =>
      let r := copyRead m mv.st a n
      ({ mv with st := r.1, err := r.2.2 }, r.2.1, some a)

/-- Note the write of one element's bytes, read from address `from_` on. -/
def writeElem (m : Master) (v : View) (mv : Moving) (x : List Int) (bs : List Byte) (from_ : Option Nat) : Moving :=
  let a := v.addr x
  match placeErrSpan m mv.st a v.desc.esize with
  | some e => { mv with err := some (viewFlt v e) }
  | none =>
    { mv with cells := mv.cells ++ cellsAt a bs, origin := mv.origin ++ bs.mapIdx fun i _ => from_.map (· + i) }

/-- One position of a copy: `sx` is the source coordinate and `dx` the destination coordinate. A position whose write
is dropped or falls in destination padding does not read the source (R258). -/
def copyStep (m : Master) (src dst : View) (sx dx : List Int) (mv : Moving) : Moving :=
  match mv.err with
  | some _ => mv
  | none =>
    match dst.desc.writePlace dx with
    | .data y _ =>
      let r := readElem m src mv (src.desc.readPlace sx)
      match r.1.err with
      | some _ => r.1
      | none => writeElem m dst r.1 y r.2.1 r.2.2
    | .dropped => { mv with sticky := mv.sticky ||| 1 }
    | _ => mv

/-! ### Bytes that a copy writes twice, or reads and writes (R256, R262) -/

/-- Whether a source read of `n` bytes covers a byte address. -/
def readsByte (read : List Nat) (n a : Nat) : Bool := read.any fun b => decide (b ≤ a ∧ a < b + n)

/-- The values that a written byte may end with, by address. -/
abbrev Cands := List (Nat × List Byte)

def candsAt (l : Cands) (a : Nat) : List Byte := ((l.find? fun e => e.1 = a).map (·.2)).getD []

/-- Values join those of an address, each once. -/
def candsAdd (l : Cands) (a : Nat) (vs : List Byte) : Cands :=
  let new := vs.foldl (fun o v => if o.contains v then o else o ++ [v]) (candsAt l a)
  if (l.find? fun e => e.1 = a).isSome then l.map fun e => if e.1 = a then (a, new) else e else l ++ [(a, new)]

/-- What one cell may leave: the byte that it read, or what the copy may by then have written where it read; where the copy reads the
written byte as well, also its old value. -/
def cellVals (s : State) (shared : Nat → Bool) (l : Cands) (c : (Nat × Byte) × Option Nat) : List Byte :=
  let via := match c.2 with
    | some a => candsAt l a
    | none => []
  c.1.2 :: via ++ if shared c.1.1 then [byteAt s c.1.1] else []

/-- One round over the cells. -/
def candsStep (s : State) (shared : Nat → Bool) (cells : List ((Nat × Byte) × Option Nat)) (l : Cands) : Cands :=
  cells.foldl (fun l c => candsAdd l c.1.1 (cellVals s shared l c)) l

/-- Rounds until nothing joins. -/
def candsAll (s : State) (shared : Nat → Bool) (cells : List ((Nat × Byte) × Option Nat)) : Nat → Cands → Cands
  | 0, l => l
  | n + 1, l =>
    let k := candsStep s shared cells l
    if k = l then l else candsAll s shared cells n k

/-- The cell that an address keeps: of the element of highest rank among those that name it, the later one where two rank alike. Ranks
belong to whole elements, so that elements which name the same bytes leave the value of one of them there (R256). -/
def winner (rank : Nat → Nat) (cells : List (Nat × Byte)) (a : Nat) : Nat :=
  ((cells.zipIdx).foldl (fun (b : Option Nat) c =>
    if c.1.1 = a ∧ b.all (fun k => decide (rank k ≤ rank c.2)) then some c.2 else b) none).getD 0

/-- Bytes that two elements of n bytes name hold the value of one of them, and a byte that the copy also reads its old value or a value
that the copy wrote; which, is a free value (R256, R262). Every other byte holds the element's. -/
def settleCells (s : State) (mv : Moving) (n : Nat) : State × List (Nat × Byte) :=
  let shared := readsByte mv.read n
  if mv.cells.all fun c => !shared c.1 && decide (mv.cells.countP (fun d => d.1 = c.1) ≤ 1) then (s, mv.cells)
  else
    let all := mv.cells.zip mv.origin
    let k := mv.cells.length
    let l := candsAll s shared all k []
    ({ s with free := s.free + 2 * k }, mv.cells.map fun c =>
      let i := winner (fun i => (Config.freeValue (s.free + i / n)).toNat) mv.cells c.1
      let vs := cellVals s shared l (all.getD i (c, none))
      (c.1, vs.getD ((Config.freeValue (s.free + k + i)).toNat % vs.length) c.2))

/-- What a finished copy gives: its bytes are those that it has written to memory (R263). -/
structure CopyOut where
  st : State
  err : Option Flt := none
  sticky : BitVec 16 := 0
  bytes : Nat := 0
  deriving DecidableEq, Repr

/-- Make a copy's writes. Where an error met while reading has stopped it, how many of the writes before are made is a free value
(R49). -/
def finishCopy (m : Master) (mv : Moving) (n : Nat) : CopyOut :=
  let c := settleCells mv.st mv n
  match mv.err with
  | some f =>
    let d := c.1.draw
    let w := copyWrite m d.2 (c.2.take (d.1.toNat % (c.2.length + 1)))
    { st := w.1, err := some f, bytes := w.2.2 }
  | none =>
    let w := copyWrite m c.1 c.2
    { st := w.1, err := w.2.1, sticky := mv.sticky, bytes := w.2.2 }

/-- CCOPY: iterate over every logical coordinate of the destination (R258). -/
def copyViews (m : Master) (src dst : View) (swap : Bool) (s : State) : CopyOut :=
  let sx (x : List Int) : List Int := if swap then (x.getD 1 0) :: (x.getD 0 0) :: x.drop 2 else x
  finishCopy m (dst.desc.logical.foldl (fun mv x => copyStep m src dst (sx x) x mv) { st := s }) src.desc.esize

/-- CFILL: a value to every data position (R260). -/
def fillView (m : Master) (dst : View) (val : W64) (s : State) : CopyOut :=
  finishCopy m (dst.desc.positions.foldl (fun mv x =>
    match mv.err with
    | some _ => mv
    | none => writeElem m dst mv x (leBytes dst.desc.esize val.toNat) none) { st := s }) dst.desc.esize

/-- Write a value per position of a list of (data or padding place, bytes) to a view. -/
def writeAll (m : Master) (dst : View) (items : List (List Int × List Byte)) (s : State) : CopyOut :=
  finishCopy m (items.foldl (fun mv it =>
    match mv.err with
    | some _ => mv
    | none =>
      match dst.desc.writePlace it.1 with
      | .data y _ => writeElem m dst mv y it.2 none
      | .dropped => { mv with sticky := mv.sticky ||| 1 }
      | _ => mv) { st := s }) dst.desc.esize

end Sys2Proof.Machine
end

