-- ==== Sys2Proof/Machine/Collective.lean ====
section
/-!
DEFINITION. Sys2Proof/Machine/Collective.lean: the collective plan (R347 to R349), requests and their tags (R280, R333),
the owner's side of a reduction (R354 to R359), the verdict (R360 to R362), the gather and the loan (R364 to R367,
R382) and the end of a step.
-/
namespace Sys2Proof.Machine

/-! ## Arithmetic of the plan (R348) -/

def ceilDiv (a b : Nat) : Nat := (a + b - 1) / b

def Plan.r (p : Plan) : Nat := p.members.length
def Plan.vbkt (p : Plan) : Nat := p.bucketMib * 524288
def Plan.nb (p : Plan) : Nat := ceilDiv p.total p.vbkt
def Plan.v (p : Plan) (b : Nat) : Nat := min p.vbkt (p.total - b * p.vbkt)
def Plan.c (p : Plan) (b : Nat) : Nat := p.v b / 1024
def Plan.q (p : Plan) (b : Nat) : Nat := ceilDiv (p.c b) p.r
def Plan.first (p : Plan) (b i : Nat) : Nat := min (i * p.q b) (p.c b)
def Plan.last (p : Plan) (b i : Nat) : Nat := min ((i + 1) * p.q b) (p.c b)
def Plan.own (p : Plan) (b i : Nat) : Nat := 1024 * (p.last b i - p.first b i)
def Plan.ownBefore (p : Plan) (b i : Nat) : Nat := (List.range b).foldl (fun a b' => a + p.own b' i) 0
def Plan.red (p : Plan) (b i j : Nat) : Nat := p.redBase + 4 * p.ownBefore b i + 4096 * (j - p.first b i)

/-- Rank that owns chunk j of bucket b. -/
def Plan.owner (p : Plan) (b j : Nat) : Nat := j / p.q b

/-- Address of the parameter of value x of bucket b. -/
def Plan.param (p : Plan) (b x : Nat) : Nat := p.paramBase + 2 * (b * p.vbkt + x)

/-! ## Loading a plan (R347, R349) -/

/-- The record's fields; the rank is set by the load. -/
def planOf (rec : List Byte) : Plan :=
  let f := fieldAt rec
  let sig := f 0x0C 4
  { planId := BitVec.ofNat 32 (f 4 4)
    members := (List.range (f 8 2)).map fun i => BitVec.ofNat 16 (f (0x80 + 2 * i) 2)
    bucketMib := f 0x0A 1, topk := f 0x0B 1
    kBucket := sig % 16, fVerdict := sig / 16 % 32, fSkip := sig / 512 % 32, fGather := sig / 16384 % 32
    total := f 0x10 8, redBase := f 0x18 8, paramBase := f 0x20 8, resBase := f 0x28 8, winBase := f 0x30 8
    winSlots := f 0x38 4, trlBase := f 0x40 8, loanBase := f 0x48 8, loanHalf := f 0x50 8
    loanPartner := BitVec.ofNat 16 (f 0x58 2), rank := 0, uses := [] }

/-- Whether an identifier lies in the torus of ZMZ_TOPO. -/
def inTorus (s : State) (id : BitVec 16) : Bool :=
  [0, 1, 2].all fun d => decide (coordOf id d < ringSize s d)

/-- The spans that must lie in live Data entries with WR = 1 (R349, reason 4). -/
def planSpans (p : Plan) (addr : Nat) : List (Nat × Nat) :=
  [(addr, 0x80 + 2 * p.r), (p.redBase, 4 * p.ownBefore p.nb p.rank), (p.paramBase, 2 * p.total)]
    ++ (if p.resBase = 0 then [] else [(p.resBase, 8 * p.total)])
    ++ [(p.winBase, 2048 * p.winSlots), (p.trlBase, 32 * (p.nb + 1))]

/-- Whether a step is open. -/
def stepOpen (s : State) : Bool :=
  (match s.col.cur with
    | some c => !c.closed
    | none => false) || s.col.nxt.isSome

/-- Whether a CP operation is in progress on a core or in the engine. -/
def cpBusy (s : State) : Bool :=
  s.cores.toList.any (fun c => !(vAt c.inflight [] 5).isEmpty) || !s.col.reqs.isEmpty || !s.col.sendq.isEmpty
    || !s.col.retries.isEmpty || !s.col.accq.isEmpty

/-- The reason for which a readable record is refused (R349): 1, 2 or 3, in that order (DEDUCED, log 33). -/
def planReason (s : State) (rec : List Byte) (p : Plan) : Option Nat :=
  let f := fieldAt rec
  if f 0 4 ≠ 0x504C4F43 ∨ p.r = 0 ∨ 1024 < p.r ∨ p.bucketMib < 4 ∨ 64 < p.bucketMib ∨ 64 < p.topk ∨ p.total = 0 ∨
      p.total % 1024 ≠ 0 ∨ 4096 < p.nb then some 1
  else if f 0x0C 4 / 2 ^ 19 ≠ 0 ∨ f 0x3C 4 ≠ 0 ∨ f 0x5A 38 ≠ 0 ∨
      p.redBase % 64 ≠ 0 ∨ p.paramBase % 64 ≠ 0 ∨ p.resBase % 64 ≠ 0 ∨ p.winBase % 2048 ≠ 0 ∨ p.trlBase % 64 ≠ 0 ∨
      p.loanBase % 64 ≠ 0 then some 2
  else if !p.members.all (inTorus s) || !decide p.members.Nodup || !p.members.contains (ownId s) then some 3
  else none

/-- The index of the module's own identifier. -/
def ownRank (s : State) (l : List (BitVec 16)) : Nat := l.findIdx fun m => m = ownId s

def planCtl (s : State) (st reason : Nat) : State :=
  s.rset .colPlanCtl 0 0 (BitVec.ofNat 64 (reason * 256 + st))

/-- A refusal leaves the loaded plan, if any, as it is. -/
def planRefuse (s : State) (reason : Nat) : State := planCtl s 3 reason

/-- Any live entry that holds an address. -/
def entryAt (s : State) (a : Nat) : Bool := liveSpan s a 1

def clearColl (s : State) : State :=
  { s with col := { s.col with cur := none, nxt := none, skips := [], shards := [], win := [] } }

/-- End the uses of the loaded plan. -/
def endPlanUses (s : State) : State :=
  match s.col.plan with
  | some p => usesEnd s p.uses
  | none => s

/-- LOAD = 1 (R349): refused for a reason, or the five effects in their order; then RISK (R378) and the depth (R380). -/
def planLoad (s : State) : State :=
  let addr := (s.rget .colPlanAddr 0 0).toNat
  if stepOpen s || cpBusy s || !entryAt s addr then planRefuse s 5
  else
    let n := fieldAt (readBytes s addr 0x80) 8 2
    match dataSpan s addr (0x80 + 2 * n) with
    | none => planRefuse s 4
    | some _ =>
      let r := devRead .coll s addr (0x80 + 2 * n)
      match r.2.2 with
      | some _ => planRefuse (r.1.draw).2 (r.1.draw.1.toNat % 256)
      | none =>
        let p0 := planOf r.2.1
        match planReason s r.2.1 p0 with
        | some k => planRefuse s k
        | none =>
          let p1 := { p0 with rank := ownRank s p0.members }
          let spans := (planSpans p1 addr).filter fun x => x.2 ≠ 0
          let ents := spans.map fun x => dataSpan s x.1 x.2
          if ents.any Option.isNone then planRefuse s 4
          else
            let uses := (ents.filterMap id).eraseDups
            let s1 := uses.foldl useBegin (endPlanUses s)
            let s2 :=
              if p1.resBase = 0 then s1
              else
                let s3 := (devWrite .coll s1 (cellsAt p1.resBase (List.replicate (4 * p1.total) 0))).1
                { s3 with col := { s3.col with resSel := false } }
            let s4 := clearColl s2
            let s5 := { s4 with col := { s4.col with plan := some { p1 with uses := uses } } }
            let s6 := (s5.rmod .colWinStat 0 0 fun v => setBits v 47 17 0).rset .colCount 0 0 0
            let s7 := planCtl s6 2 (bitsN (s.rget .colPlanCtl 0 0) 8 8)
            let s8 := ownChange s7 .rasRisk 0 0 (s7.rget .rasPrior 0 0) 0xFFFFFFFF
            decideDepth s8 0

/-- Unload without a check: reset, wake from off and FLR (R349). -/
def planDrop (s : State) : State :=
  let s1 := clearColl (endPlanUses s)
  planCtl { s1 with col := { s1.col with plan := none } } 0 (bitsN (s.rget .colPlanCtl 0 0) 8 8)

/-- UNLOAD = 1, refused for the same causes as reason 5 of a load (R349). -/
def planUnload (s : State) : State :=
  if stepOpen s || cpBusy s || !entryAt s (s.rget .colPlanAddr 0 0).toNat then planRefuse s 5 else planDrop s

/-! ## Steps of the engine -/

def stepOf (s : State) (n : W32) : Option StepState :=
  match s.col.cur with
  | some c => if c.n = n then some c else s.col.nxt.filter fun x => x.n = n
  | none => s.col.nxt.filter fun x => x.n = n

def modStep (s : State) (n : W32) (f : StepState → StepState) : State :=
  let g (x : StepState) : StepState := if x.n = n then f x else x
  { s with col := { s.col with cur := s.col.cur.map g, nxt := s.col.nxt.map g } }

/-- The unfinished dispatch of a tag. -/
def dispatchOf (s : State) (tag : W32) : Option Dispatch := s.host.dispatches.find? fun d => decide (d.tag = tag) && !d.done

/-- Cores of a step's dispatch while it is unfinished (R362). -/
def stepCores (s : State) (x : StepState) : List (Fin 72) :=
  match x.tag with
  | some t => (dispatchOf s t).elim [] Dispatch.cores
  | none => []

/-- A signal of the engine to every core of a step's dispatch (R37, R362). -/
def signalCores (s : State) (l : List (Fin 72)) (inc : Bool) (i : Nat) : State :=
  l.foldl (fun s p => s.modCore p (outsideSignal inc i)) s

/-! ## Requests and tags (R280, R282, R333) -/

def tagFree (s : State) (t : Nat) : Bool := !s.col.reqs.any fun r => r.txn.tag.toNat = t

/-- A tag for the next request, where its line operations leave one: they take theirs first (DESIGN CHOICE, log 141). -/
def nextTag (s : State) : Option Nat :=
  if s.col.reqs.length + s.col.accq.length < collTags then (List.range (collTags + 1)).find? (tagFree s) else none

def epochOf (s : State) (t : Nat) : BitVec 2 := smapGet (fun _ => 0) s.col.epochs t

/-- Send one request with a tag of its own. -/
def sendReq (s : State) (q : Req) (t : Nat) : State :=
  let x := { q.txn with tag := BitVec.ofNat 14 t, tepoch := epochOf s t, src := ownId s }
  sendTxn { s with col := { s.col with reqs := s.col.reqs ++ [{ q with txn := x }] } } x

/-- Send waiting requests for as long as tags are free. -/
def pumpReqs : Nat → State → State
  | 0, s => s
  | n + 1, s =>
    match s.col.sendq, nextTag s with
    | q :: rest, some t => pumpReqs n (sendReq { s with col := { s.col with sendq := rest } } q t)
    | _, _ => s

/-- Requests that wait are sent where tags have become free. -/
def repump (s : State) : State := pumpReqs s.col.sendq.length s

/-- Queue requests in the order of acceptance (R371). -/
def request (s : State) (l : List Req) : State :=
  repump { s with col := { s.col with sendq := s.col.sendq ++ l } }

/-- The request of a response with the current epoch of its tag. -/
def reqOf (s : State) (t : Txn) : Option Req :=
  if t.tepoch = epochOf s t.tag.toNat then s.col.reqs.find? fun q => q.txn.tag = t.tag else none

/-- The core that a request was sent for. -/
def Req.core (q : Req) : Option (Fin 72) :=
  match q.use with
  | .remote p _ _ _ => some p
  | .contrib p _ _ => some p
  | _ => none

/-- Free the tag of a request; a core that stops and waited for it may be STOPPED now (R49). -/
def dropReq (s : State) (q : Req) : State :=
  let s1 := { s with col := { s.col with reqs := s.col.reqs.erase q } }
  repump (q.core.elim s1 (settleStop s1))

/-- Requests of a use that are unanswered, waiting ones and those to resend among them. -/
def useOpen (s : State) (f : ReqUse → Bool) : Bool :=
  s.col.reqs.any (fun q => f q.use) || s.col.sendq.any (fun q => f q.use) || s.col.retries.any (fun q => f q.use)
    || s.col.accq.any fun a => match a.reply with
        | .own _ u => f u
        | _ => false

/-! ## Failed steps (R362, R373) -/

/-- Window slots of a shard. -/
def shardSlots (x : Shard) : List Nat :=
  x.chunks.flatMap fun c => (c.parked.filter fun k => !k.bad).map fun k => k.slot

/-- Close the slots of a step: its parked contributions are discarded. -/
def dropShards (s : State) (n : W32) (keepFailed : Bool) : State :=
  let mine := s.col.shards.filter fun x => x.step = n
  let gone := mine.flatMap shardSlots
  let left := s.col.shards.filter fun x => x.step ≠ n
  let kept := if keepFailed then mine.map fun x => { x with failed := true, chunks := [] } else []
  { s with col := { s.col with shards := left ++ kept, win := s.col.win.filter fun w => !gone.contains w } }

/-- The lowest physical core of a list. -/
def lowestCore (l : List (Fin 72)) : Option (Fin 72) := (List.finRange 72).find? fun p => l.contains p

/-- Whether a core stops or has stopped without a fault of its own: it makes no record (R50). -/
def stoppedClean (s : State) (p : Fin 72) : Bool :=
  decide ((s.core p).runstate = 4 ∨ (s.core p).runstate = 5) && !((s.core p).frec.valid && decide ((s.core p).frec.tag = (s.core p).tag))

/-- A code that the registrar delivers to the record of the dispatch's lowest physical core with ENGINE = CP, and the
stop of the dispatch (R50, R362). No instruction is at fault, so PC holds a free value (log 34). -/
def collFault (s : State) (l : List (Fin 72)) (f : Flt) : State :=
  match lowestCore l with
  | none => s
  | some p => if stoppedClean s p then s else coreFault (s.draw).2 p 6 f 0 (s.draw).1

/-- The current step has closed: the next becomes current, and the depth is decided (R367, R380). -/
def afterClose (s : State) (n : W32) : State :=
  let s1 :=
    match s.col.cur, s.col.nxt with
    | some c, some x => if c.n = n then { s with col := { s.col with cur := some x, nxt := none } } else s
    | _, _ => s
  decideDepth s1 n

/-- Close a step with the STATE code of COL_STEP: 4 committed, 5 skipped, 6 failed. -/
def closeStep (s : State) (n : W32) (code : Nat) : State :=
  let s1 := modStep s n fun x => { x with closed := true, code := code }
  let s2 := perfCount (dropShards s1 n (decide (code = 6))) .dbgCol 7 (if code = 4 then 1 else 0)
  let isCur := match s.col.cur with
    | some c => decide (c.n = n)
    | none => false
  if isCur then afterClose s2 n
  else { s2 with col := { s2.col with nxt := s2.col.nxt.filter fun x => x.n ≠ n } }

/-- A step ends FAILED: its code is logged, and recorded in the lowest core of its dispatch (R362, R373, R395). -/
def failStep (s : State) (n : W32) (f : Flt) : State :=
  match stepOf s n with
  | none => s
  | some x =>
    if x.closed then s
    else closeStep (collFault (logCol (modStep s n fun x => { x with cls := some 2 }) f.code f.detail) (stepCores s x) f) n 6

/-! ## Closing a gather (R365 to R367) -/

/-- Whether every gather WRITE to a member has been acknowledged. -/
def gatherAcked (s : State) (x : StepState) (m : BitVec 16) : Bool :=
  !x.lost.contains m && !useOpen s fun u => decide (u = .gather x.n m)

def msgBytes (kind : Nat) (planId n : W32) (half : Nat) (tr : List Byte) : List Byte :=
  leBytes 4 kind ++ leBytes 4 planId.toNat ++ leBytes 4 n.toNat ++ leBytes 4 half
    ++ (if tr.isEmpty then leBytes 32 0 else tr) ++ leBytes 16 0

def msgReq (dst : BitVec 16) (bs : List Byte) (u : ReqUse) : Req := ⟨{ ttype := 5, dst := dst, data := bs }, u⟩

def others (s : State) (p : Plan) : List (BitVec 16) := p.members.filter fun m => m ≠ ownId s

/-- A step closes COMMITTED when F_GATHER has been set and the LOAN_COMMIT of its loan, if it sent one, is acknowledged (R367). With R = 1
that is at its verdict, unless a CPGATH has registered by then and sends a loan (DEDUCED, log 35). -/
def tryCommit (s : State) (n : W32) : State :=
  match stepOf s n with
  | none => s
  | some x =>
    if x.gathered && !x.closed && (x.loan.isNone || x.loanDone) && decide (s.col.cur.map (·.n) = some n) then
      closeStep s n 4
    else s

/-- Send GATHER_DONE to each member whose WRITEs are all acknowledged (R365). -/
def tellMembers (s : State) (p : Plan) (x : StepState) : State :=
  let ready := (others s p).filter fun m => !x.told.contains m && gatherAcked s x m
  request (modStep s x.n fun y => { y with told := y.told ++ ready })
    (ready.map fun m => msgReq m (msgBytes 2 p.planId x.n 0 []) (.msg x.n))

/-- F_GATHER (R365). -/
def tryGathered (s : State) (p : Plan) (n : W32) : State :=
  match stepOf s n with
  | none => s
  | some x =>
    if decide (x.cls = some 0) && !x.gathered && !x.closed &&
        (decide (p.r = 1) || (x.gathering && (others s p).all fun m => x.heard.contains m && gatherAcked s x m)) then
      tryCommit (signalCores (modStep s n fun y => { y with gathered := true }) (stepCores s x) false p.fGather) n
    else tryCommit s n

/-- The loan's seal, then its LOAN_COMMIT (R366, R382). -/
def loanNext (s : State) (p : Plan) (n : W32) : State :=
  match stepOf s n with
  | none => s
  | some x =>
    match x.loan with
    | none => s
    | some (h, depth) =>
      let pend := useOpen s fun u => decide (u = .loan n ∨ u = .seal n)
      if x.loanLost || pend || x.closed || useOpen s (fun u => decide (u = .commit n)) || x.loanDone then s
      else if x.sealed then
        let s1 := s.rmod .colLoanStatus 0 0 fun v => setBit (setBits v 0 30 n.toNat) 30 (decide (h = 1))
        let s2 := { s1 with col := { s1.col with loanOut := some h } }
        request s2 [msgReq p.loanPartner (msgBytes 3 p.planId n h []) (.commit n)]
      else
        let a := p.loanBase + h * p.loanHalf + p.loanHalf - 64
        request (modStep s n fun y => { y with sealed := true })
          [⟨{ ttype := 1, dst := p.loanPartner, addr := BitVec.ofNat 48 a, data := sealBytes s p n depth h }, .seal n⟩]

/-- What follows the end of any request of a gather. -/
def gatherNext (s : State) (n : W32) : State :=
  match s.col.plan, stepOf s n with
  | some p, some x =>
    if x.gathering && !x.closed then
      let s1 := loanNext (tellMembers s p x) p n
      tryGathered s1 p n
    else s
  | _, _ => s

/-! ## The gather (R364 to R366) -/

/-- WRITE requests of up to 64 whole lines over bytes that start at an address. -/
def lineWrites (dst : BitVec 16) (a : Nat) (bs : List Byte) (u : ReqUse) : List Req :=
  (List.range (ceilDiv bs.length 4096)).map fun i =>
    let d := slice bs (4096 * i) 4096
    ⟨{ ttype := 1, dst := dst, addr := BitVec.ofNat 48 (a + 4096 * i), len := BitVec.ofNat 7 (ceilDiv d.length 64),
       data := d }, u⟩

/-- The data element of dense index v (dimension 0 fastest). -/
def Desc.denseCoord (d : Desc) (v : Nat) : List Int :=
  ((List.range 8).foldl (fun (r : List Int × Nat) k => (r.1 ++ [Int.ofNat (r.2 % d.dim k)], r.2 / d.dim k)) ([], v)).1

/-- Read data elements v0 to v0 + n − 1 of a view as the collective engine. -/
def readDense (s : State) (v : View) (v0 n : Nat) : State × List Byte × Option Flt :=
  let r := (List.range n).foldl (fun (m : Moving × List Byte) i =>
    match m.1.err with
    | some _ => m
    | none =>
      let x := readElem .coll v m.1 (.data (v.desc.denseCoord (v0 + i)) false)
      (x.1, m.2 ++ x.2.1)) ({ st := s }, [])
  (r.1.st, r.2, r.1.err)

def gatherView (g : GatherSrc) : View := ⟨g.handle, decodeDesc g.record, g.base, g.entry, 0, false⟩

/-- Read every own shard in bucket order: parameter address and bytes. -/
def readShards (s : State) (p : Plan) (v : View) : State × List (Nat × List Byte) × Option Flt :=
  (List.range p.nb).foldl (fun r b =>
    match r.2.2 with
    | some _ => r
    | none =>
      let x0 := 1024 * p.first b p.rank
      let d := readDense r.1 v (b * p.vbkt + x0) (p.own b p.rank)
      (d.1, r.2.1 ++ [(p.param b x0, d.2.1)], d.2.2)) (s, [], none)

/-- Read the state regions in ascending n: offset in the state section and bytes (R382). -/
def readRegions (s : State) : State × List (Nat × List Byte) × Option Flt :=
  ((List.range 8).foldl (fun (r : (State × List (Nat × List Byte) × Option Flt) × Nat) k =>
    match r.1.2.2 with
    | some _ => r
    | none =>
      let n := (r.1.1.rget .rasStateSize 0 k).toNat
      let a := (r.1.1.rget .rasStateBase 0 k).toNat
      let d := reachRead .coll (engineAddrFlt a) r.1.1 a n
      ((d.1, r.1.2.1 ++ [(r.2, d.2.1)], d.2.2), r.2 + n)) ((s, [], none), 0)).1

/-- The half of the next loan (R366). -/
def loanHalfOf (s : State) : Nat :=
  match s.col.loanOut with
  | some h => 1 - h
  | none => 0

/-- The requests of a gather and, where a loan is due, of its loan. -/
def gatherReqs (s : State) (p : Plan) (n : W32) (parts : List (Nat × List Byte)) : List Req :=
  parts.flatMap fun x => (others s p).flatMap fun m => lineWrites m x.1 x.2 (.gather n m)

def loanReqs (p : Plan) (n : W32) (h : Nat) (parts regs : List (Nat × List Byte)) : List Req :=
  let base := p.loanBase + h * p.loanHalf
  (parts.flatMap fun x => lineWrites p.loanPartner (base + (x.1 - p.paramBase)) x.2 (.loan n))
    ++ regs.flatMap fun x => lineWrites p.loanPartner (base + p.stateOff + x.1) x.2 (.loan n)

/-- Send the gather of the shards that were read, and the loan with the regions that were. -/
def gatherSend (s : State) (p : Plan) (n : W32) (g : GatherSrc) (loan : Bool) (depth : Nat) (parts : List (Nat × List Byte))
    (rr : State × List (Nat × List Byte) × Option Flt) : State :=
  match rr.2.2 with
  | some f => collFault rr.1 [g.core] f
  | none =>
    let h := loanHalfOf s
    let s1 := modStep rr.1 n fun x =>
      { x with gathering := true, loan := if loan then some (h, depth) else none }
    let g1 := gatherReqs s1 p n parts
    let l1 := if loan then loanReqs p n h parts rr.2.1 else []
    gatherNext (request (perfCount (perfCount s1 .dbgCol 4 g1.length) .dbgCol 5 l1.length) (g1 ++ l1)) n

/-- The gather once its shards have been read. COL_LOAN_CTL.EN set by software while RAS_DEPTH.DEPTH is 0: the loan is sent and sealed as
one of depth 1 (DESIGN CHOICE, log 113: the manual gives it no depth). -/
def gatherFrom (s : State) (p : Plan) (n : W32) (g : GatherSrc) (r : State × List (Nat × List Byte) × Option Flt) : State :=
  match r.2.2 with
  | some f => collFault r.1 [g.core] f
  | none =>
    let loan := bitB (s.rget .colLoanCtl 0 0) 31 && decide (p.loanBase ≠ 0)
    let depth := max 1 (bitsN (s.rget .rasDepth 0 0) 0 3)
    gatherSend s p n g loan depth r.2.1 (if loan && decide (2 ≤ depth) then readRegions r.1 else (r.1, [], none))

/-- Start the gather of a CLEAN step from its registered source. A read error stops the issuing core. -/
def startGather (s : State) (p : Plan) (n : W32) (g : GatherSrc) : State :=
  gatherFrom s p n g (readShards s p (gatherView g))

/-! ## Trailers and the verdict (R358 to R362) -/

def trailerBytes (t : Trailer) : List Byte :=
  leBytes 8 t.nonfinite.toNat ++ leBytes 8 t.applied.toNat ++ leBytes 4 t.step.toNat ++ leBytes 2 t.bucket.toNat
    ++ leBytes 1 t.maxExp.toNat ++ leBytes 1 t.flags.toNat ++ leBytes 4 t.shards.toNat ++ leBytes 4 t.planId.toNat

def trailerOf (bs : List Byte) : Trailer :=
  let f := fieldAt bs
  { nonfinite := BitVec.ofNat 64 (f 0 8), applied := BitVec.ofNat 64 (f 8 8), step := BitVec.ofNat 32 (f 0x10 4),
    bucket := BitVec.ofNat 16 (f 0x14 2), maxExp := BitVec.ofNat 8 (f 0x16 1), flags := BitVec.ofNat 8 (f 0x17 1),
    shards := BitVec.ofNat 32 (f 0x18 4), planId := BitVec.ofNat 32 (f 0x1C 4) }

/-- Combine field by field (R358). -/
def Trailer.add (a b : Trailer) : Trailer :=
  { a with
    nonfinite := satAdd a.nonfinite b.nonfinite.toNat
    applied := satAdd a.applied b.applied.toNat
    maxExp := if a.maxExp.toNat ≤ b.maxExp.toNat then b.maxExp else a.maxExp
    flags := a.flags ||| b.flags
    shards := satAdd a.shards b.shards.toNat }

def combine (p : Plan) (n : W32) (l : List Trailer) : Trailer :=
  l.foldl Trailer.add { step := n, planId := p.planId }

/-- Write a trailer to the trailer area. A failed write is logged. -/
def writeTrailer (s : State) (p : Plan) (i : Nat) (t : Trailer) : State :=
  let w := devWrite .coll s (cellsAt (p.trlBase + 32 * i) (trailerBytes t))
  match w.2 with
  | some f => logCol w.1 f.code f.detail
  | none => w.1

/-- The class of a verdict trailer (R361). -/
def classify (p : Plan) (t : Trailer) : Nat :=
  if bitB t.flags 1 ∨ t.applied.toNat ≠ p.r * p.total / 1024 ∨ t.shards.toNat ≠ p.r * p.nb then 2
  else if t.nonfinite ≠ 0 then 1
  else 0

/-- Mark the dispatch of a step as having skipped: its record carries NONFINITE (R307, R362). -/
def markNonfinite (s : State) (x : StepState) : State :=
  let ds := s.host.dispatches.map fun d => if x.tag = some d.tag then { d with nonfinite := true } else d
  { s with host := { s.host with dispatches := ds } }

/-- A SKIP verdict (R362). -/
def verdictSkip (s : State) (p : Plan) (x : StepState) : State :=
  let l := stepCores s x
  let s1 := l.foldl (fun s c => s.modCore c fun k =>
    orSticky (outsideSignal false p.fGather (outsideSignal false p.fVerdict (outsideSignal false p.fSkip k))) .cp 1) s
  let s2 := markNonfinite s1 x
  let s3 := { s2 with col := { s2.col with skips := x.n :: s2.col.skips.erase x.n } }
  closeStep s3 x.n 5

/-- A CLEAN verdict (R362): the residual buffers toggle, F_VERDICT is set and a registered gather starts. -/
def verdictClean (s : State) (p : Plan) (x : StepState) : State :=
  let s1 := modStep { s with col := { s.col with resSel := !s.col.resSel } } x.n fun y => { y with code := 3 }
  let s2 := signalCores s1 (stepCores s x) false p.fVerdict
  match x.source with
  | some g => startGather s2 p x.n g
  | none => tryGathered s2 p x.n

/-- VERDICT: reached when the module holds R step trailers (R361, R362). -/
def tryVerdict (s : State) (n : W32) : State :=
  match s.col.plan, stepOf s n with
  | some p, some x =>
    if x.closed || x.cls.isSome || decide (x.trailers.length ≠ p.r) then s
    else
      let t := combine p n (x.trailers.map (·.2))
      let k := classify p t
      let s1 := modStep (writeTrailer s p p.nb t) n fun y => { y with verdict := t, cls := some k }
      match k with
      | 0 => verdictClean s1 p x
      | 1 => verdictSkip s1 p x
      | _ => closeStep (collFault (logCol s1 0x0908 n) (stepCores s x) ⟨0x0908, n⟩) n 6
  | _, _ => s

/-- The shard trailer (R358). -/
def shardTrailer (p : Plan) (x : Shard) : Trailer :=
  let nf := x.reports.foldl (fun a r => a + r.2.1) 0
  let me := x.reports.foldl (fun a r => max a r.2.2) 0
  { nonfinite := BitVec.ofNat 64 nf, applied := BitVec.ofNat 64 x.applied, step := x.step,
    bucket := BitVec.ofNat 16 x.bucket, maxExp := BitVec.ofNat 8 me,
    flags := BitVec.ofNat 8 (b2n (decide (nf ≠ 0)) + 2 * b2n x.error + 4 * b2n x.thinned), shards := 1,
    planId := p.planId }

/-- STEP_TRAILER_SEND: a full bitmap combines the shard trailers and sends the step trailer (R360). -/
def trySend (s : State) (p : Plan) (n : W32) : State :=
  match stepOf s n with
  | none => s
  | some x =>
    if x.bitmap.length = p.nb && !x.closed && !(x.trailers.any fun t => t.1 = p.rank) then
      let t := combine p n ((s.col.shards.filter fun y => decide (y.step = n) && !y.failed).map (shardTrailer p))
      let s1 := modStep s n fun y => { y with trailers := y.trailers ++ [(p.rank, t)], code := 2 }
      let s2 := request s1 ((others s p).map fun m => msgReq m (msgBytes 1 p.planId n 0 (trailerBytes t)) (.msg n))
      tryVerdict s2 n
    else s

/-! ## Shards (R354 to R359) -/

def modShard (s : State) (n : W32) (b : Nat) (f : Shard → Shard) : State :=
  let l := s.col.shards.map fun x => if x.step = n ∧ x.bucket = b ∧ !x.failed then f x else x
  { s with col := { s.col with shards := l } }

def shardOf (s : State) (n : W32) (b : Nat) : Option Shard :=
  s.col.shards.find? fun x => decide (x.step = n ∧ x.bucket = b) && !x.failed

def modChunk (x : Shard) (j : Nat) (f : ChunkState → ChunkState) : Shard :=
  { x with chunks := x.chunks.map fun c => if c.chunk = j then f c else c }

/-- SHARD_COMPLETE (R359). -/
def tryShard (s : State) (n : W32) (b : Nat) : State :=
  match s.col.plan, shardOf s n b, stepOf s n with
  | some p, some x, some st =>
    if !x.complete && x.chunks.all (fun c => decide (c.next = p.r)) &&
        !s.col.accq.any (fun a => decide (a.shard = some (n, b))) then
      let s1 := writeTrailer (modShard s n b fun y => { y with complete := true }) p b (shardTrailer p x)
      let s2 := modStep s1 n fun y => { y with bitmap := nsetAdd y.bitmap b }
      trySend (signalCores s2 (stepCores s st) true p.kBucket) p n
    else s
  | _, _, _ => s

/-- Send or hand over the answer of an ACC. An own contribution has no tag (R352). -/
inductive AccAnswer where
  | ack
  | retry
  | err (f : Flt)
  deriving DecidableEq, Repr

/-- The end of a contribution at its contributor (R353): a RETRY is sent again later, an ERROR is logged. -/
def ownAnswer (s : State) (t : Txn) (u : ReqUse) : AccAnswer → State
  | .ack => s
  | .retry => { s with col := { s.col with retries := s.col.retries ++ [⟨t, u⟩] } }
  | .err f => logCol s f.code f.detail

def countRetry (s : State) : State := s.rcountSat .colWinStat 0 0 0 30 1

def accReply (s : State) (r : AccReply) (a : AccAnswer) : State :=
  let s := if a = .retry then countRetry s else s
  match r with
  | .nobody => s
  | .own t u => ownAnswer s t u a
  | .remote t =>
    match a with
    | .ack => sendTxn s (respond s t 8)
    | .retry => sendTxn s { respond s t 8 with addr := 1 }
    | .err f => sendTxn s (errorTxn s t f)

/-- The 16-bit values of a payload. -/
def halves (bs : List Byte) : List (BitVec 16) :=
  (List.range (bs.length / 2)).map fun i => BitVec.ofNat 16 (fieldAt bs (2 * i) 2)

/-- The words of a thinned payload. -/
def words (bs : List Byte) : List W32 := (List.range (bs.length / 4)).map fun i => BitVec.ofNat 32 (fieldAt bs (4 * i) 4)

/-- The format of the words of a thinned contribution (R352): valid words first, indices rising; the rest zero. -/
def wordsOk : Option Nat → List W32 → Bool
  | _, [] => true
  | lo, w :: t =>
    if bitB w 15 then
      let i := bitsN w 0 10
      decide (bitsN w 10 5 = 0) && (match lo with
        | some k => decide (k < i)
        | none => true) && wordsOk (some i) t
    else decide (w = 0) && t.all fun x => x = 0

/-- Expand a thinned contribution: −0 where nothing is listed (R355). -/
def expand (l : List W32) : List (BitVec 16) :=
  (List.range 1024).map fun x =>
    match l.find? fun w => bitB w 15 && decide (bitsN w 0 10 = x) with
    | some w => w.extractLsb' 16 16
    | none => 0x8000

def payload (sparse : Bool) (bs : List Byte) : List (BitVec 16) := if sparse then expand (words bs) else halves bs

/-- The entry that an ACC which is still to be answered uses (R333); a parked contribution has been answered. -/
def accUse (s : State) (a n : Nat) (r : AccReply) : Option Nat := if r = .nobody then none else dataSpan s a (64 * n)

def useBeginOpt (s : State) (u : Option Nat) : State := u.elim s (useBegin s)
def useEndOpt (s : State) (u : Option Nat) : State := u.elim s (useEnd s)

/-- Enqueue the line operations of one contribution (R355). -/
def enqueueOps (s : State) (sh : Option (W32 × Nat)) (j a n : Nat) (vals : List (BitVec 16)) (r : AccReply)
    (slot : Option Nat := none) : State :=
  let u := accUse s a n r
  let ops : List AccOp := (List.range n).map fun i =>
    { shard := sh, chunk := j, line := i, addr := a + 64 * i, vals := slice vals (16 * i) 16, last := decide (i + 1 = n),
      reply := r, use := u, slot := slot }
  useBeginOpt { s with col := { s.col with accq := s.col.accq ++ ops } } u

/-- E_ZMZ_REMOTE_ADDR: the low 32 bits of ADDR (R345). -/
def remoteAddrFlt (t : Txn) : Flt := ⟨0x0803, t.addr.extractLsb' 0 32⟩

/-- The ADDR fields of an ACC (R352). -/
def accAddr (t : Txn) : Nat := t.addr.toNat / 64 * 64
def accBkt (t : Txn) : Bool := bitB t.addr 0
def accSparse (t : Txn) : Bool := bitB t.addr 1
def accStep (t : Txn) : Nat := bitsN t.addr 2 2

/-- Consume one turn with an error (R354). -/
def badTurn (s : State) (n : W32) (b j : Nat) : State :=
  modShard s n b fun x => { modChunk x j (fun c => { c with next := c.next + 1 }) with error := true }

/-- A window slot that a contribution no longer occupies. -/
def freeWin (s : State) (w : Option Nat) : State :=
  w.elim s fun k => { s with col := { s.col with win := s.col.win.filter fun x => x ≠ k } }

/-- Take the next parked contribution of a chunk, if it is the next rank's; its slot stays occupied until it has been applied
(R354, R356). -/
def takeParked (p : Plan) (n : W32) (b j : Nat) : Nat → State → State
  | 0, s => s
  | fuel + 1, s =>
    match (shardOf s n b).bind fun x => x.chunks.find? fun c => c.chunk = j with
    | none => s
    | some c =>
      match c.parked.find? fun k => k.rank = c.next with
      | none => s
      | some k =>
        let s1 := modShard s n b fun x => modChunk x j fun c => { c with parked := c.parked.erase k }
        if k.bad then takeParked p n b j fuel (badTurn s1 n b j)
        else
          let len := if k.sparse then 32 * p.topk else 2048
          let r := devRead .coll s1 (p.winBase + 2048 * k.slot) len
          match r.2.2 with
          | some _ => takeParked p n b j fuel (badTurn (freeWin r.1 (some k.slot)) n b j)
          | none =>
            let s3 := modShard r.1 n b fun x =>
              { modChunk x j (fun c => { c with next := c.next + 1 }) with thinned := x.thinned || k.sparse }
            takeParked p n b j fuel
              (enqueueOps s3 (some (n, b)) j (p.red b p.rank j) 64 (payload k.sparse r.2.1) .nobody (some k.slot))

/-- The lowest free window slot. -/
def freeSlot (s : State) (p : Plan) : Option Nat :=
  if s.col.win.length < p.winSlots then
    (List.range (s.col.win.length + 1)).find? fun w => !s.col.win.contains w
  else none

/-- Park a contribution (R356). -/
def park (s : State) (p : Plan) (n : W32) (b j rank : Nat) (t : Txn) (rep : AccReply) : State :=
  match freeSlot s p with
  | none => accReply s rep .retry
  | some w =>
    let len := if accSparse t then 32 * p.topk else 2048
    let s1 := (devWrite .coll s (cellsAt (p.winBase + 2048 * w) (t.data.take len))).1
    let s2 := { s1 with col := { s1.col with win := nsetAdd s1.col.win w } }
    let s3 := modShard s2 n b fun x =>
      modChunk x j fun c => { c with parked := c.parked ++ [{ rank := rank, slot := w, sparse := accSparse t }] }
    let s4 := s3.rmod .colWinStat 0 0 fun v => setBits v 47 17 (max (bitsN v 47 17) s3.col.win.length)
    accReply (perfCount s4 .dbgCol 2 1) rep .ack

/-- The slot of the module's shards that a contribution addresses: an open one, and else one of a failed step. -/
def slotFor (s : State) (p : Plan) (t : Txn) (failed : Bool) : Option (Shard × Nat) :=
  (s.col.shards.filter fun x => decide (x.failed = failed ∧ x.step.toNat % 4 = accStep t)).findSome? fun x =>
    let f := p.first x.bucket p.rank
    let n := p.last x.bucket p.rank - f
    let base := p.red x.bucket p.rank f
    if failed then if base ≤ accAddr t ∧ accAddr t < base + 4096 * n then some (x, 0) else none
    else if base ≤ accAddr t ∧ accAddr t < base + 4096 * n ∧ (accAddr t - base) % 4096 = 0 then
      some (x, f + (accAddr t - base) / 4096)
    else none

def contribOk (p : Plan) (t : Txn) : Bool :=
  decide (bitsN t.addr 4 2 = 0) &&
  (if accSparse t then decide (p.topk ≠ 0 ∧ t.len.toNat = p.topk) && wordsOk none (words (t.data.take (32 * p.topk)))
   else decide (t.len = 64))

/-- A malformed contribution of a rank that is parked consumes its turn with an error: what was parked is discarded (R354, step 3). -/
def spoilParked (s : State) (n : W32) (b j rank : Nat) : State :=
  let slots := ((shardOf s n b).elim [] fun x => x.chunks.filter fun c => c.chunk = j).flatMap fun c =>
    (c.parked.filter fun k => decide (k.rank = rank) && !k.bad).map fun k => k.slot
  let s1 := modShard s n b fun x => modChunk x j fun c =>
    { c with parked := c.parked.map fun k => if k.rank = rank then { rank := rank, bad := true } else k }
  slots.foldl (fun s w => freeWin s (some w)) s1

/-- Steps 3 to 6 of R354 for a contribution of rank `rank` to chunk j. -/
def takeContrib (s : State) (p : Plan) (x : Shard) (j rank : Nat) (t : Txn) (rep : AccReply) : State :=
  let src : W32 := t.src.zeroExtend 32
  let n := x.step
  let b := x.bucket
  match x.chunks.find? fun c => c.chunk = j with
  | none => accReply s rep .retry
  | some c =>
    let used := decide (rank < c.next) || c.parked.any fun k => k.rank = rank
    if !contribOk p t then
      let s1 := if rank < c.next then s
        else if used then spoilParked s n b j rank
        else if rank = c.next then takeParked p n b j (c.parked.length + 1) (badTurn s n b j)
        else modShard s n b fun y => modChunk y j fun c => { c with parked := c.parked ++ [{ rank := rank, bad := true }] }
      tryShard (accReply s1 rep (.err ⟨0x0905, src⟩)) n b
    else if used then accReply s rep (.err ⟨0x0906, src⟩)
    else if rank = c.next then
      let s1 := modShard s n b fun y =>
        { modChunk y j (fun c => { c with next := c.next + 1 }) with thinned := y.thinned || accSparse t }
      takeParked p n b j (c.parked.length + 1)
        (enqueueOps s1 (some (n, b)) j (accAddr t) 64 (payload (accSparse t) t.data) rep)
    else park s p n b j rank t rep

/-- A bucket contribution at its owner: R333's target check, then R354. -/
def arriveContrib (s : State) (t : Txn) (rep : AccReply) : State :=
  let src : W32 := t.src.zeroExtend 32
  if (dataSpan s (accAddr t) 4096).isNone then accReply s rep (.err (remoteAddrFlt t))
  else match s.col.plan with
    | none => accReply s rep (.err ⟨0x0904, src⟩)
    | some p =>
      if !p.members.contains t.src then accReply s rep (.err ⟨0x0904, src⟩)
      else match slotFor s p t false with
        | some (x, j) => takeContrib s p x j (p.members.findIdx fun m => m = t.src) t rep
        | none =>
          if (slotFor s p t true).isSome then accReply s rep (.err ⟨0x0907, src⟩)
          else accReply s rep .retry

/-- An ACC with BKT = 0 (R370): one ADD for each line, in the order received. -/
def arriveAcc (s : State) (t : Txn) : State :=
  let n := t.len.toNat
  if (dataSpan s (accAddr t) (64 * n)).isNone then sendTxn s (errorTxn s t (remoteAddrFlt t))
  else enqueueOps s none 0 (accAddr t) n (halves t.data) (.remote t)

/-! ## The accumulator (R283, R284) -/

/-- One line: the 16 new words from the old ones and 16 BF16 values. -/
def accLine (init : Bool) (old : List W32) (vals : List (BitVec 16)) : List W32 :=
  vals.mapIdx fun i c =>
    let w := (convert .fp32 .bf16 0 0 false (c.zeroExtend 32)).1
    if init then w else (eAdd .fp32 0 0 (old.getD i 0) w).1

def expField (x : W32) : Nat := bitsN x 23 8

/-- Non-finite elements and the largest biased exponent of a result. -/
def accReport (l : List W32) : Nat × Nat :=
  (l.countP fun x => decide (expField x = 0xFF), l.foldl (fun a x => max a (expField x)) 0)

/-- One indivisible read-modify-write at the home slice. -/
def accApply (s : State) (a : Nat) (init : Bool) (vals : List (BitVec 16)) : State × Except Flt (List W32) :=
  if ctrlLost s a then (s, .error (memLostFlt (ctrlOf s a).1))
  else
    let r := if init then (l2Rewrite s a, none) else sliceRead .coll 2 s a
    match r.2 with
    | some f => (r.1, .error f)
    | none =>
      let old := (List.range 16).map fun i => BitVec.ofNat 32 (leNat (readBytes r.1 (a + 4 * i) 4))
      let new := accLine init old vals
      (putCells (cleanLine r.1 a) (cellsAt a (new.flatMap fun x => leBytes 4 x.toNat)), .ok new)

/-- Whether a contribution has been applied to the chunk of an operation: the first one uses INIT (R355). -/
def opInit (s : State) (o : AccOp) : Bool :=
  match o.shard with
  | none => false
  | some (n, b) =>
    match (shardOf s n b).bind fun x => x.chunks.find? fun c => c.chunk = o.chunk with
    | some c => !c.started
    | none => false

/-- The last line of a contribution has been applied. -/
def contribDone (s0 : State) (o : AccOp) : State :=
  let s := freeWin (useEndOpt s0 o.use) o.slot
  match o.shard with
  | none => accReply s o.reply .ack
  | some (n, b) =>
    let s1 := modShard s n b fun x =>
      { modChunk x o.chunk (fun c => { c with started := true }) with applied := x.applied + 1 }
    let s2 := s1.rmod .colCount 0 0 fun v => v + 1
    tryShard (accReply s2 o.reply .ack) n b

/-- An operation has returned an error: nothing further of its contribution is applied (R354). -/
def contribFailed (s : State) (o : AccOp) (f : Flt) : State :=
  let rest := if o.last then s.col.accq else (s.col.accq.dropWhile fun a => !a.last).drop 1
  let s1 := freeWin (useEndOpt { s with col := { s.col with accq := rest } } o.use) o.slot
  match o.shard with
  | none => accReply s1 o.reply (.err f)
  | some (n, b) => tryShard (accReply (modShard s1 n b fun x => { x with error := true }) o.reply (.err f)) n b

/-- Whether the controller of an address answers now: it is ACTIVE with the memory clock, or answers E_MEM_LOST (R276, R278). One that
sleeps, or waits for its clock, holds its requests. -/
def ctrlAnswers (s : State) (a : Nat) : Bool :=
  ctrlLost s a || (s.power.memClk && decide (bitsN (s.rget .memStatus (ctrlOf s a).1 0) 0 3 = 1))

/-- ACCUMULATOR_OP: the next line operation, once it holds a tag, is applied at its home slice (R280, R283, R355). What it frees goes to the
requests that wait. -/
def execAccumulatorOp (s : State) : Result :=
  answer s (
    match s.col.accq.filter (fun _ => decide (s.col.reqs.length < collTags) && s.col.accq.head?.any fun o => ctrlAnswers s o.addr) with
    | [] => s
    | o :: rest =>
      let s0 := repump { s with col := { s.col with accq := rest } }
      let r := accApply (perfCount s0 .dbgMem (4 * (ctrlOf s o.addr).1 + 3) 1) o.addr (opInit s o) o.vals
      match r.2 with
      | .error f => contribFailed r.1 o f
      | .ok new =>
        let s1 := match o.shard with
          | none => r.1
          | some (n, b) => modShard r.1 n b fun x =>
              { x with reports := kvInsert x.reports (o.chunk * 64 + o.line) (accReport new) }
        if o.last then contribDone s1 o else s1)

end Sys2Proof.Machine
end

