-- ==== Sys2Proof/Machine/Target.lean ====
section
/-!
DEFINITION. Sys2Proof/Machine/Target.lean: the transactions that reach this module: the target interface (R333, R334), the
messages of the collective engine (R360), and the responses to its own requests (R333, R353, R365, R366, R372).
-/
namespace Sys2Proof.Machine

/-- Take a transaction that the fabric has delivered. Transactions of one class from one source start in the order in
which they arrived (R334), so it waits while an earlier one of that class is ahead of it; it waits too where it is not
for this module or not of type `ty`. -/
def takeInbox (s : State) (t : Txn) (ty : Nat) : Option State :=
  let ahead := s.fab.inbox.takeWhile fun x => decide (x ≠ t)
  if t.dst ≠ ownId s ∨ t.ttype.toNat ≠ ty then none
  else if ahead.any fun x => decide (x.src = t.src ∧ isResponse x.ttype = isResponse t.ttype) then none
  else some { s with fab := { s.fab with inbox := s.fab.inbox.erase t } }

/-- In SLEEP the interface holds a transaction in the inbox, where its row finds it after the wake; a request starts that wake (R410,
R411). -/
def holdTxn (s : State) (t : Txn) : State :=
  let s1 := if s.fab.inbox.contains t then s else deliver s t
  if isResponse t.ttype then s1 else startWake s1 3

/-- Start a delivered transaction. While D01 is stopped in SLEEP it waits. -/
def onTxn (s : State) (t : Txn) (ty : Nat) (f : State → State) : Result :=
  answer s (match takeInbox s t ty with
    | none => s
    | some s1 => if domOn s 1 then f s1 else if pwrState s = 3 then holdTxn s t else s)

/-! ## The target interface (R333) -/

/-- The live entry of one of the kinds that holds a whole span: Data needs WR = 1 for a write. -/
def targetEntry (s : State) (kinds : List (BitVec 3)) (write : Bool) (a len : Nat) : Bool :=
  s.lay.inv.any fun ie => ie.2.live && kinds.contains ie.2.kind && (!write || decide (ie.2.kind ≠ 1) || ie.2.wr) &&
    decide (ie.2.base.toNat ≤ a ∧ a + len ≤ ie.2.base.toNat + ie.2.size.toNat)

/-- The target's check of a request: its span, then the owner of a handover bank (R226). -/
def targetFlt (s : State) (kinds : List (BitVec 3)) (write : Bool) (t : Txn) : Option Flt :=
  let a := t.addr.toNat
  let len := 64 * t.len.toNat
  if !targetEntry s kinds write a len then some (remoteAddrFlt t)
  else (placeErrSpan .coll s a len).map fun e => e.flt (remoteAddrFlt t)

/-- Whether byte i of a WRITE is enabled (R331). With LEN = 1 the first line's enables hold (DEDUCED, log 37). -/
def byteOn (t : Txn) (i : Nat) : Bool :=
  if !t.be then true
  else if i < 64 then bitB t.enables i
  else if 64 * (t.len.toNat - 1) ≤ i then bitB t.enables (64 + i % 64)
  else true

/-- The cells that a WRITE stores. -/
def writeCells (t : Txn) : List (Nat × Byte) :=
  ((List.range (64 * t.len.toNat)).filter (byteOn t)).map fun i => (t.addr.toNat + i, t.data.getD i 0)

/-- WRITE: checked, applied and answered (R333). -/
def execWrite (t : Txn) (s : State) : Result :=
  onTxn s t 1 fun s =>
    match targetFlt s [1, 4] true t with
    | some f => sendTxn s (errorTxn s t f)
    | none =>
      let w := devWrite .coll s (writeCells t)
      let s1 := snapshotHit w.1 t.addr.toNat (64 * t.len.toNat)
      match w.2 with
      | some f => sendTxn s1 (errorTxn s1 t f)
      | none => sendTxn s1 (respond s1 t 8)

/-- READ: checked and answered with its data; a memory error answers with its code and no data (R333). -/
def execRead (t : Txn) (s : State) : Result :=
  onTxn s t 2 fun s =>
    match targetFlt s [1, 2, 4] false t with
    | some f => sendTxn s (errorTxn s t f)
    | none =>
      let r := devRead .coll s t.addr.toNat (64 * t.len.toNat)
      match r.2.2 with
      | some f => sendTxn r.1 (errorTxn r.1 t f)
      | none => sendTxn r.1 { respond r.1 t 9 with len := t.len, data := r.2.1 }

/-- ACC: a bucket contribution (R354) or a CPACC (R370). -/
def execAcc (t : Txn) (s : State) : Result :=
  onTxn s t 3 fun s => if accBkt t then arriveContrib s t (.remote t) else arriveAcc s t

/-- SIGNAL: a flag set or a counter increment on a logical core (R37, R332). A core that is not there, or a counter above
15, is a failed check (DEDUCED, log 38). -/
def execSignal (t : Txn) (s : State) : Result :=
  onTxn s t 4 fun s =>
    let i := bitsN t.addr 7 5
    let inc := bitB t.addr 6
    match physOf s (bitsN t.addr 0 6) with
    | none => sendTxn s (errorTxn s t (remoteAddrFlt t))
    | some p =>
      if inc && decide (16 ≤ i) then sendTxn s (errorTxn s t (remoteAddrFlt t))
      else
        let s1 := s.modCore p (outsideSignal inc i)
        sendTxn s1 (respond s1 t 8)

/-! ## Messages of the collective engine (R360) -/

def msgKind (t : Txn) : Nat := fieldAt t.data 0 1
def msgPlan (t : Txn) : W32 := BitVec.ofNat 32 (fieldAt t.data 4 4)
def msgStep (t : Txn) : W32 := BitVec.ofNat 32 (fieldAt t.data 8 4)
def msgHalf (t : Txn) : Nat := fieldAt t.data 0x0C 4

/-- Reserved fields are zero. -/
def msgReservedOk (t : Txn) : Bool :=
  decide (fieldAt t.data 1 3 = 0 ∧ fieldAt t.data 0x30 16 = 0) &&
  (if msgKind t = 3 then decide (msgHalf t < 2) else decide (msgHalf t = 0)) &&
  (decide (msgKind t = 1) || decide (fieldAt t.data 0x10 32 = 0))

/-- STEP is the current step or the next. -/
def msgStepOk (s : State) (n : W32) : Bool :=
  match s.col.cur with
  | some c => decide (n = c.n ∨ n = c.n + 1)
  | none => false

/-- The next step is opened by what first names it. -/
def openNext (s : State) (n : W32) : State :=
  match s.col.cur, stepOf s n with
  | some c, none =>
    if c.closed then { s with col := { s.col with cur := some { n := n } } }
    else { s with col := { s.col with nxt := some { n := n } } }
  | _, _ => s

/-- A repeated KIND 1 or 2 of one member. -/
def msgRepeated (s : State) (p : Plan) (t : Txn) : Bool :=
  match stepOf s (msgStep t) with
  | none => false
  | some x =>
    if msgKind t = 1 then x.trailers.any fun y => y.1 = p.members.findIdx fun m => m = t.src else x.heard.contains t.src

/-- KIND 1 and 2 in the order of R360's table; `f` is what an accepted one does, before its ACK. -/
def stepMsg (s : State) (t : Txn) (f : State → Plan → State) : State :=
  let src : W32 := t.src.zeroExtend 32
  let n := msgStep t
  match s.col.plan with
  | none => sendTxn s (errorTxn s t ⟨0x0904, src⟩)
  | some p =>
    if !p.members.contains t.src then sendTxn s (errorTxn s t ⟨0x0904, src⟩)
    else if !msgReservedOk t || !msgStepOk s n then sendTxn s (errorTxn s t ⟨0x0905, src⟩)
    else if msgPlan t ≠ p.planId then
      let s1 := failStep (openNext s n) n ⟨0x0903, src⟩
      sendTxn s1 (errorTxn s1 t ⟨0x0903, src⟩)
    else if msgRepeated s p t then sendTxn s (errorTxn s t ⟨0x0906, src⟩)
    else f (sendTxn (openNext s n) (respond s t 8)) p

/-- A MSG of a reserved KIND reaches the row of KIND 1 or of KIND 3 and is answered there as malformed (R360). -/
def execStepTrailer (t : Txn) (s : State) : Result :=
  if msgKind t = 2 ∨ msgKind t = 3 then answer s s
  else onTxn s t 5 fun s =>
    if msgKind t ≠ 1 then sendTxn s (errorTxn s t ⟨0x0905, t.src.zeroExtend 32⟩)
    else stepMsg s t fun s p =>
      let r := p.members.findIdx fun m => m = t.src
      let s1 := modStep s (msgStep t) fun x =>
        if x.closed then x else { x with trailers := x.trailers ++ [(r, trailerOf (slice t.data 0x10 32))] }
      tryVerdict s1 (msgStep t)

/-- GATHER_DONE: a member's gather is complete (R365). -/
def execGatherDone (t : Txn) (s : State) : Result :=
  if msgKind t ≠ 2 then answer s s
  else onTxn s t 5 fun s => stepMsg s t fun s p =>
    let s1 := modStep s (msgStep t) fun x => { x with heard := x.heard ++ [t.src] }
    tryGathered s1 p (msgStep t)

/-- LOAN_COMMIT: accepted from any module, recorded, and its seal checked (R360, R366, R383). It names its sender's step
and plan, so those two checks are not made (DEDUCED, log 39). -/
def execLoanCommit (t : Txn) (s : State) : Result :=
  if msgKind t ≠ 3 then answer s s
  else onTxn s t 5 fun s =>
    if !msgReservedOk t then sendTxn s (errorTxn s t ⟨0x0905, t.src.zeroExtend 32⟩)
    else acceptLoan (sendTxn s (respond s t 8)) t.src (msgStep t) (msgHalf t)

/-! ## Responses (R333, R353) -/

/-- Whether the dispatch of a tag still runs on a core: one that stops has no further part in it (R50). -/
def dispatchRuns (s : State) (tag : W32) (p : Fin 72) : Bool :=
  (dispatchOf s tag).isSome && decide ((s.core p).tag = tag ∧ (s.core p).runstate ≠ 4 ∧ (s.core p).runstate ≠ 5)

/-- The end of a transaction of CPPUT, CPACC or CPSIG (R368, R372). -/
def remoteEnd (s : State) (q : Req) (core : Fin 72) (tag : W32) (counter : Option Nat) (f : Option Flt) : State :=
  match f with
  | some f =>
    let s1 := logCol s f.code f.detail
    if dispatchRuns s tag core then collFault s1 [core] ⟨f.code, q.txn.dst.zeroExtend 32⟩ else s1
  | none =>
    match counter with
    | some i =>
      if dispatchRuns s tag core && !useOpen s fun u => decide (u = q.use) then s.modCore core (outsideSignal true i) else s
    | none => s

/-- What the end of a request does, with the code that it met, if any. -/
def reqEnd (s : State) (q : Req) (f : Option Flt) : State :=
  let logged := match f with
    | some f => logCol s f.code f.detail
    | none => s
  match q.use with
  | .contrib _ _ _ => logged
  | .remote core _ tag counter => remoteEnd s q core tag counter f
  | .gather n m => if f.isNone then gatherNext s n else modStep logged n fun x => { x with lost := x.lost ++ [m] }
  | .loan n | .seal n => if f.isNone then gatherNext s n else modStep logged n fun x => { x with loanLost := true }
  | .commit n =>
    if f.isNone then tryCommit (modStep s n fun x => { x with loanDone := true }) n
    else modStep logged n fun x => { x with loanLost := true }
  | .msg _ => logged

/-- A response with the current epoch of an outstanding tag; others are discarded and counted (R333). -/
def onResponse (s : State) (t : Txn) (f : State → Req → State) : State :=
  match reqOf s t with
  | none => countStray s
  | some q => f (dropReq s q) q

def isContrib : ReqUse → Bool
  | .contrib _ _ _ => true
  | _ => false

/-- ACK: the end of a request, or the RETRY of a contribution (R353). -/
def execAck (t : Txn) (s : State) : Result :=
  onTxn s t 8 fun s => onResponse s t fun s q =>
    if bitB t.addr 0 && isContrib q.use then { s with col := { s.col with retries := s.col.retries ++ [q] } }
    else reqEnd s q none

/-- READ_DATA: no request of this module is a READ, so it answers none and is discarded (R317, R333). -/
def execReadData (t : Txn) (s : State) : Result := onTxn s t 9 countStray

/-- ERROR: logged, with what its request's use makes of it (R353, R372). -/
def execErrorResponse (t : Txn) (s : State) : Result :=
  onTxn s t 10 fun s => onResponse s t fun s q =>
    reqEnd s q (some ⟨BitVec.ofNat 16 (bitsN t.addr 0 16), BitVec.ofNat 32 (bitsN t.addr 16 32)⟩)

/-- E_ZMZ_RESP_TIMEOUT: the tag is freed, its epoch advances, and the timeout is reported (R333, R345). -/
def execRespTimeout (tag : BitVec 14) (s : State) : Result :=
  answer s (
    match s.col.reqs.find? fun q => q.txn.tag = tag with
    | none => s
    | some q =>
      let e := smapPut (fun _ => (0 : BitVec 2)) s.col.epochs tag.toNat (epochOf s tag.toNat + 1)
      let s1 := dropReq { s with col := { s.col with epochs := e } } q
      reqEnd s1 q (some ⟨0x0801, BitVec.ofNat 32 (q.txn.dst.toNat + tag.toNat * 2 ^ 16)⟩))

/-- RETRY_RESEND: RETRY_US after a RETRY the identical ACC is sent again, with a new tag (R353). -/
def execRetryResend (s : State) : Result :=
  answer s (
    match s.col.retries with
    | [] => s
    | q :: rest =>
      let s1 := { s with col := { s.col with retries := rest } }
      let s2 := match q.use with
        | .contrib core _ _ => s1.modCore core fun c => orSticky c .cp 2
        | _ => s1
      if q.txn.dst = ownId s then arriveContrib s2 q.txn (.own q.txn q.use) else request s2 [q])

/-- E_COL_TIMEOUT: the current step has not closed within STEP_MS (R373). -/
def execColTimeout (s : State) : Result :=
  answer s (
    match s.col.cur with
    | none => s
    | some c =>
      if c.closed || decide (bitsN (s.rget .colTimeout 0 0) 0 16 = 0) then s else failStep s c.n ⟨0x0909, c.n⟩)

end Sys2Proof.Machine
end

