-- ==== Sys2Proof/Machine/CollPort.lean ====
section
/-!
DEFINITION. Sys2Proof/Machine/CollPort.lean: what the instructions of the collective port do when they start (group 0x9:
R350 to R352, R364, R368 to R371).
-/
namespace Sys2Proof.Machine

/-- E_COL_OPERAND (R374). -/
def colFlt (detail : Nat) : Flt := ⟨0x0901, BitVec.ofNat 32 detail⟩

/-- Number of data elements of a view. -/
def Desc.count (d : Desc) : Nat := (List.range d.ndim).foldl (fun a k => a * d.dim k) 1

/-! ## Contributions (R351, R352) -/

/-- Magnitude rank: every NaN above infinity (R351). -/
def magRank (x : W32) : Nat :=
  let m := bitsN x 0 31
  if 0x7F800000 < m then 0x7F800001 else m

/-- Whether value x of a chunk is kept: among the k highest ranks of the values that are not zero, equal ranks going to
the lower index (R351). -/
def kept (k : Nat) (a : List W32) (x : Nat) : Bool :=
  let key := magRank (a.getD x 0)
  decide (key ≠ 0) &&
  decide ((List.range a.length).countP (fun y =>
    let ky := magRank (a.getD y 0)
    decide (ky ≠ 0 ∧ (key < ky ∨ (ky = key ∧ y < x)))) < k)

def bf16Of (x : W32) : BitVec 16 := (convert .bf16 .fp32 0 0 false x).1.extractLsb' 0 16
def fp32Of (x : BitVec 16) : W32 := (convert .fp32 .bf16 0 0 false (x.zeroExtend 32)).1

/-- A chunk's contribution: the values sent where they are kept, and the residuals. -/
structure ChunkOut where
  keep : List Bool
  sent : List (BitVec 16)
  res : List W32
  deriving DecidableEq, Repr

/-- R351 for one chunk: source values, residuals where there is an area, and k where it is thinned. -/
def formChunk (src : List (BitVec 16)) (res : Option (List W32)) (k : Option Nat) : ChunkOut :=
  let a := src.mapIdx fun i x => match res with
    | some r => (eAdd .fp32 0 0 (fp32Of x) (r.getD i 0)).1
    | none => fp32Of x
  let keep := (List.range src.length).map fun i => match k with
    | some k => kept k a i
    | none => true
  let sent := src.mapIdx fun i x => if res.isSome then bf16Of (a.getD i 0) else x
  { keep := keep
    sent := sent
    res := a.mapIdx fun i x =>
      if keep.getD i false then (eAdd .fp32 0 0 x (fp32Of (sent.getD i 0) ^^^ 0x80000000)).1 else x }

/-- Payload of a contribution (R352). -/
def chunkData (c : ChunkOut) (k : Option Nat) : List Byte :=
  match k with
  | none => c.sent.flatMap fun x => leBytes 2 x.toNat
  | some k =>
    let l := (List.range c.sent.length).filter fun i => c.keep.getD i false
    let w := l.map fun i => (c.sent.getD i 0).toNat * 2 ^ 16 + 2 ^ 15 + i
    (w ++ List.replicate (k - w.length) 0).flatMap fun x => leBytes 4 x

/-- The ACC of a contribution (R352). -/
def chunkTxn (s : State) (p : Plan) (n : W32) (b j : Nat) (thin : Bool) (c : ChunkOut) : Txn :=
  let i := p.owner b j
  { ttype := 3, dst := p.members.getD i 0, src := ownId s, len := BitVec.ofNat 7 (if thin then p.topk else 64),
    addr := BitVec.ofNat 48 (p.red b i j / 64 * 64 + n.toNat % 4 * 4 + (if thin then 2 else 0) + 1),
    data := chunkData c (if thin then some (8 * p.topk) else none) }

/-- Address of value x of bucket b in residual buffer 0 or 1 (R347). -/
def resAddr (p : Plan) (buf : Bool) (b x : Nat) : Nat :=
  p.resBase + (if buf then 4 * p.total else 0) + 4 * (b * p.vbkt + x)

/-- What a residual write leaves of a chunk. -/
def chunkOut (p : Plan) (n : W32) (b j : Nat) (thin : Bool) (s : State) (c : ChunkOut) (w : State × Option Flt) :
    State × Except Flt Txn :=
  match w.2 with
  | some f => (w.1, .error f)
  | none => (w.1, .ok (chunkTxn s p n b j thin c))

/-- A chunk from the residuals that were read: those of the other buffer are written. -/
def chunkFrom (s : State) (p : Plan) (n : W32) (b j : Nat) (thin : Bool) (src : List (BitVec 16))
    (r : State × List Byte × Option Flt) : State × Except Flt Txn :=
  match r.2.2 with
  | some f => (r.1, .error f)
  | none =>
    let c := formChunk src (some (words r.2.1)) (if thin then some (8 * p.topk) else none)
    chunkOut p n b j thin s c
      (devWrite .coll r.1 (cellsAt (resAddr p (!s.col.resSel) b (1024 * j)) (c.res.flatMap fun x => leBytes 4 x.toNat)))

/-- Form one chunk: read its residuals, write the other buffer's. -/
def doChunk (s : State) (p : Plan) (n : W32) (b j : Nat) (thin : Bool) (src : List (BitVec 16)) :
    State × Except Flt Txn :=
  if p.resBase = 0 then
    (s, .ok (chunkTxn s p n b j thin (formChunk src none (if thin then some (8 * p.topk) else none))))
  else chunkFrom s p n b j thin src (devRead .coll s (resAddr p s.col.resSel b (1024 * j)) 4096)

/-- Form every chunk of a bucket. -/
def doChunks (s : State) (p : Plan) (n : W32) (b : Nat) (thin : Bool) (src : List (BitVec 16)) :
    State × List Txn × Option Flt :=
  (List.range (p.c b)).foldl (fun r j =>
    match r.2.2 with
    | some _ => r
    | none =>
      let x := doChunk r.1 p n b j thin (slice src (1024 * j) 1024)
      match x.2 with
      | .error f => (x.1, r.2.1, some f)
      | .ok t => (x.1, r.2.1 ++ [t], none)) (s, [], none)

/-! ## CPBKT (R350) -/

/-- The step of a CPBKT: whether its number is acceptable, and the engine's record of it, a fresh one where it opens. -/
def acceptStep (s : State) (n : W32) : Option StepState :=
  match s.col.cur with
  | none => some { n := n }
  | some c =>
    if c.closed then some { n := n }
    else if n = c.n then some c
    else if n = c.n + 1 ∧ c.cls = some 0 then some ((s.col.nxt.filter fun x => x.n = n).getD { n := n })
    else none

/-- Keep a step: as the current one, or as the next. A number that closed SKIPPED and is handed over again is a step like any other. -/
def putStep (s0 : State) (x : StepState) : State :=
  let s := { s0 with col := { s0.col with skips := s0.col.skips.erase x.n } }
  match s.col.cur with
  | some c =>
    if !c.closed && decide (c.n ≠ x.n) then { s with col := { s.col with nxt := some x } }
    else { s with col := { s.col with cur := some x } }
  | none => { s with col := { s.col with cur := some x } }

/-- The checks of R350, in the order of R374's details (DEDUCED, log 150), with the plan and the step. -/
def bucketCheck (s : State) (p : Fin 72) (o : OpD) (v : View) (b : Nat) (n : W32) : Except Flt (Plan × StepState) :=
  match s.col.plan with
  | none => .error (colFlt 1)
  | some pl =>
    if pl.nb ≤ b then .error (colFlt 2)
    else if v.desc.ty ≠ .bf16 ∨ v.desc.count ≠ pl.v b then .error (colFlt 3)
    else match acceptStep s n with
      | none => .error (colFlt 4)
      | some x =>
        if x.handed.contains b then .error (colFlt 5)
        else if 2 ≤ o.mode.toNat ∨ (bitB o.mode 0 ∧ (pl.topk = 0 ∨ pl.resBase = 0)) then .error (colFlt 6)
        else if x.tag ≠ none ∧ x.tag ≠ some (s.core p).tag then .error (colFlt 9)
        else .ok (pl, x)

/-- A new slot for the module's own shard (R350). -/
def newShard (pl : Plan) (n : W32) (b : Nat) : Shard :=
  let f := pl.first b pl.rank
  { step := n, bucket := b, chunks := (List.range (pl.last b pl.rank - f)).map fun i => { chunk := f + i } }

/-- Send a contribution: over the fabric, or inside the engine for the module's own shard (R352). -/
def sendContrib (u : ReqUse) (s : State) (t : Txn) : State :=
  let s := perfCount (perfCount s .dbgCol 1 1) .dbgCol 3 (b2n (accSparse t))
  if t.dst = ownId s then arriveContrib s t (.own t u) else request s [⟨t, u⟩]

/-- The acceptance of a bucket: its step is current or next from here on, and the slot of the module's own shard opens (R350), a shard
without a chunk being complete at once. -/
def cpbktOpen (p : Fin 72) (e : Entry) (s : State) (pl : Plan) (x : StepState) : State :=
  let b := e.c.toNat
  let n : W32 := e.d.extractLsb' 0 32
  let s1 := putStep (perfCount s .dbgCol 0 1) { x with tag := some (s.core p).tag, handed := nsetAdd x.handed b }
  tryShard { s1 with col := { s1.col with shards := s1.col.shards ++ [newShard pl n b] } } n b

/-- The contributions of the chunks that were formed are sent. -/
def cpbktHand (p : Fin 72) (e : Entry) (v : View) (k : State × List Txn × Option Flt) : RunOut :=
  match k.2.2 with
  | some f => ranFault k.1 f
  | none =>
    { st := useBegin (k.2.1.foldl (sendContrib (.contrib p e.seq (e.d.extractLsb' 0 32))) k.1) v.entry, uses := [v.entry] }

/-- The chunks of the values that were read. -/
def cpbktChunks (p : Fin 72) (e : Entry) (o : OpD) (v : View) (pl : Plan) (d : State × List Byte × Option Flt) : RunOut :=
  match d.2.2 with
  | some f => ranFault d.1 f
  | none => cpbktHand p e v (doChunks d.1 pl (e.d.extractLsb' 0 32) e.c.toNat (bitB o.mode 0) (halves d.2.1))

/-- CPBKT on the view that was opened. -/
def cpbktFrom (p : Fin 72) (e : Entry) (o : OpD) (r : State × Except Flt View) : RunOut :=
  match r.2 with
  | .error f => ranFault r.1 f
  | .ok v =>
    match bucketCheck r.1 p o v e.c.toNat (e.d.extractLsb' 0 32) with
    | .error f => ranFault r.1 f
    | .ok (pl, x) => cpbktChunks p e o v pl (readDense (cpbktOpen p e r.1 pl x) v 0 (pl.v e.c.toNat))

/-- CPBKT: hand bucket S[SO] of step S[SX] to the engine. -/
def runCpbkt (p : Fin 72) (e : Entry) (o : OpD) (s : State) : RunOut := cpbktFrom p e o (openView .coll s e.b)

/-! ## CPGATH (R364) -/

/-- The checks of R364 in the order of R374's details (DEDUCED, log 150); `none` is a step that has closed SKIPPED. -/
def gatherCheck (s : State) (v : View) (n : W32) : Except Flt (Option (Plan × StepState)) :=
  match s.col.plan with
  | none => .error (colFlt 1)
  | some pl =>
    if v.desc.ty ≠ .bf16 ∨ v.desc.count ≠ pl.total then .error (colFlt 3)
    else if s.col.skips.contains n then .ok none
    else match s.col.cur with
      | none => .error (colFlt 4)
      | some c =>
        if c.n ≠ n ∨ c.closed then .error (colFlt 4)
        else if c.source.isSome then .error (colFlt 5)
        else .ok (some (pl, c))

/-- CPGATH: register the all-gather source; the gather starts at once where the verdict is already CLEAN. -/
def runCpgath (p : Fin 72) (e : Entry) (s : State) : RunOut :=
  match viewCheck s e.b with
  | .error f => ranFault s f
  | .ok x =>
    let r := readRecord .coll s x.1
    match r.2.2 with
    | some f => ranFault r.1 f
    | none =>
      let n : W32 := e.d.extractLsb' 0 32
      let g : GatherSrc := ⟨p, e.seq, e.b.extractLsb' 0 32, r.2.1, x.2.2.base.toNat, x.2.1⟩
      match gatherCheck r.1 (gatherView g) n with
      | .error f => ranFault r.1 f
      | .ok none => ranOk r.1
      | .ok (some (pl, c)) =>
        let s1 := useBegin (modStep r.1 n fun y => { y with source := some g }) g.entry
        { st := if c.cls = some 0 then startGather s1 pl n g else s1, uses := [g.entry] }

/-! ## Remote operations (R368 to R371) -/

/-- Target of CPPUT and CPACC (R368). -/
def cpTarget (s : State) (fx : BitVec 42) : Except Flt (BitVec 16) :=
  let i := bitsN fx 0 16
  match bitsN fx 16 2, s.col.plan with
  | 0, _ => .ok (BitVec.ofNat 16 i)
  | _, none => .error (colFlt 1)
  | 1, some p => if i < p.r then .ok (p.members.getD i 0) else .error (colFlt 7)
  | 2, some p => .ok (p.members.getD ((p.rank + i) % p.r) 0)
  | _, some p => .ok p.loanPartner

/-- The bits of MODE and FX that CPPUT and CPACC do not use are zero; the counter that MODE[1] names. -/
def cpBitsOk (o : OpD) : Bool := decide (bitsN o.fx 22 20 = 0) && decide (o.mode.toNat ∈ [0, 2])
def cpCounter (o : OpD) : Option Nat := if bitB o.mode 1 then some (bitsN o.fx 18 4) else none

/-- The checks of CPPUT and CPACC after those of their views: the lowest detail of R374 whose cause holds (DEDUCED, log 150), or the target. -/
def cpCheck (s : State) (o : OpD) (badType : Bool) : Except Flt (BitVec 16) :=
  if bitsN o.fx 16 2 ≠ 0 ∧ s.col.plan = none then .error (colFlt 1)
  else if badType then .error (colFlt 3)
  else if !cpBitsOk o then .error (colFlt 6)
  else cpTarget s o.fx

def remoteUse (s : State) (p : Fin 72) (e : Entry) (counter : Option Nat) : ReqUse := .remote p e.seq (s.core p).tag counter

/-- Queue the transactions of a remote operation; one with none at once counts as acknowledged. -/
def sendRemote (s : State) (p : Fin 72) (counter : Option Nat) (l : List Req) : State :=
  match l, counter with
  | [], some i => s.modCore p (outsideSignal true i)
  | _, _ => request s l

/-- One position of a CPPUT: as a copy's, but what it yields is an address at the target. -/
def putPos (src dst : View) (x : List Int) (mv : Moving) : Moving :=
  match mv.err with
  | some _ => mv
  | none =>
    match dst.desc.writePlace x with
    | .data y _ =>
      let r := readElem .coll src mv (src.desc.readPlace x)
      match r.1.err with
      | some _ => r.1
      | none => { r.1 with cells := r.1.cells ++ cellsAt (dst.addr y) r.2.1, origin := r.1.origin ++ r.2.1.map fun _ => none }
    | _ => mv

/-- One line of a CPPUT: its number, and its bytes where they are written. -/
def putLine (cells : List (Nat × Byte)) (l : Nat) : List (Option Byte) :=
  (List.range 64).map fun i => (cells.find? fun c => c.1 = 64 * l + i).map (·.2)

/-- The WRITEs of a CPPUT: runs of whole lines up to 64, and lines written in part alone with byte enables (DESIGN
CHOICE, log 40). -/
def putTxns (dst : BitVec 16) (cells : List (Nat × Byte)) : List Txn :=
  let lines := cells.foldl (fun l c => nsetAdd l (c.1 / 64)) []
  lines.foldl (fun ts l =>
    let bs := putLine cells l
    let d := bs.map fun b => b.getD 0
    let en := BitVec.ofNat 128 (leNat ((List.range 16).map fun k =>
      BitVec.ofNat 8 ((List.range 8).foldl (fun a i => a + b2n (bs.getD (8 * (k % 8) + i) none).isSome * 2 ^ i) 0)))
    if bs.all Option.isSome then
      match ts.getLast? with
      | some t =>
        if !t.be && decide (t.len.toNat < 64 ∧ t.addr.toNat + 64 * t.len.toNat = 64 * l) then
          ts.dropLast ++ [{ t with len := t.len + 1, data := t.data ++ d }]
        else ts ++ [{ ttype := 1, dst := dst, addr := BitVec.ofNat 48 (64 * l), data := d }]
      | none => ts ++ [{ ttype := 1, dst := dst, addr := BitVec.ofNat 48 (64 * l), data := d }]
    else ts ++ [{ ttype := 1, be := true, dst := dst, addr := BitVec.ofNat 48 (64 * l), enables := en, data := d }]) []

/-- CPPUT: read the local view SS and write the view SD at the target (R369). -/
def runCpput (p : Fin 72) (e : Entry) (o : OpD) (s : State) : RunOut :=
  let r := openTwo .coll s e.b e.a
  match r.2 with
  | .error f => ranFault r.1 f
  | .ok (src, dst) =>
    if !dst.destOk then ranFault r.1 (layDestFlt dst.handle)
    else if src.desc.typeCode ≠ dst.desc.typeCode then ranFault r.1 (layTypeFlt dst.desc.typeCode src.desc.typeCode)
    else match cpCheck s o false with
      | .error f => ranFault r.1 f
      | .ok m =>
        let mv := dst.desc.logical.foldl (fun mv x => putPos src dst x mv) { st := r.1 }
        match mv.err with
        | some f => ranFault mv.st f
        | none =>
          let c := settleCells mv.st { mv with read := [] } dst.desc.esize
          let u := remoteUse s p e (cpCounter o)
          let s1 := sendRemote c.1 p (cpCounter o) ((putTxns m c.2).map fun t => ⟨t, u⟩)
          { st := [src.entry, dst.entry].foldl useBegin s1, uses := [src.entry, dst.entry] }

/-- The start of SD's words where they are E consecutive FP32 words from a 64-byte boundary on (R370). -/
def accBase (dst : View) (n : Nat) : Option Nat :=
  let l := dst.desc.positions.map dst.addr
  let a := l.headD 0
  if dst.desc.ty = .fp32 ∧ l.length = n ∧ a % 64 = 0 ∧ (l.mapIdx fun i x => decide (x = a + 4 * i)).all id then some a
  else none

/-- The ACCs of a CPACC: 64 lines of 16 values each, the last one fewer. -/
def accTxns (dst : BitVec 16) (a : Nat) (bs : List Byte) : List Txn :=
  (List.range (ceilDiv bs.length 2048)).map fun i =>
    let d := slice bs (2048 * i) 2048
    { ttype := 3, dst := dst, len := BitVec.ofNat 7 (d.length / 32), addr := BitVec.ofNat 48 (a + 4096 * i), data := d }

/-- CPACC: add the local BF16 view SS into the FP32 view SD at the target (R370). -/
def runCpacc (p : Fin 72) (e : Entry) (o : OpD) (s : State) : RunOut :=
  let r := openTwo .coll s e.b e.a
  match r.2 with
  | .error f => ranFault r.1 f
  | .ok (src, dst) =>
    let n := src.desc.count
    if !dst.destOk then ranFault r.1 (layDestFlt dst.handle)
    else match cpCheck s o (decide (src.desc.ty ≠ .bf16)) with
      | .error f => ranFault r.1 f
      | .ok m =>
        match (if n % 16 = 0 then accBase dst n else none) with
        | none => ranFault r.1 (colFlt 8)
        | some a =>
          let d := readDense r.1 src 0 n
          match d.2.2 with
          | some f => ranFault d.1 f
          | none =>
            let u := remoteUse s p e (cpCounter o)
            let s1 := sendRemote d.1 p (cpCounter o) ((accTxns m a d.2.1).map fun t => ⟨t, u⟩)
            { st := [src.entry, dst.entry].foldl useBegin s1, uses := [src.entry, dst.entry] }

/-- CPSIG: set a flag, or with MODE[0] = 1 increment a counter, on a logical core of the module S[SD] names (R368). -/
def runCpsig (p : Fin 72) (e : Entry) (o : OpD) (s : State) : RunOut :=
  let i := bitsN e.a 38 5
  if 2 ≤ o.mode.toNat ∨ o.fx ≠ 0 then ranFault s (colFlt 6)
  else if bitsN e.a 16 16 ≠ 0 ∨ bitsN e.a 43 21 ≠ 0 ∨ (bitB o.mode 0 ∧ 16 ≤ i) then ranFault s (colFlt 7)
  else
    let t : Txn := { ttype := 4, dst := BitVec.ofNat 16 (bitsN e.a 0 16),
                     addr := BitVec.ofNat 48 (bitsN e.a 32 6 + b2n (bitB o.mode 0) * 64 + i * 128) }
    ranOk (request s [⟨t, remoteUse s p e none⟩])

/-- The instructions of group 0x9. -/
def runCollPort (p : Fin 72) (e : Entry) (o : OpD) (s : State) : RunOut :=
  match e.op with
  | .cpbkt => runCpbkt p e o s
  | .cpgath => runCpgath p e s
  | .cpput => runCpput p e o s
  | .cpacc => runCpacc p e o s
  | _ => runCpsig p e o s

/-- Whether a CPGATH of core p is still waiting for its gather (R364). -/
def gatherWaits (s : State) (p : Fin 72) (e : Entry) : Bool :=
  match stepOf s (e.d.extractLsb' 0 32) with
  | none => false
  | some x => !x.gathering && !x.closed && (match x.source with
      | some g => decide (g.core = p ∧ g.seq = e.seq)
      | none => false)

/-- Whether an instruction of the collective port may release: a CPGATH when its gather has read its source. -/
def cpMayRelease (s : State) (p : Fin 72) (e : Entry) : Bool := decide (e.op ≠ .cpgath) || !gatherWaits s p e

/-- Whether it may complete: a CPBKT when every contribution has been answered (R350). -/
def cpMayComplete (s : State) (p : Fin 72) (e : Entry) : Bool :=
  cpMayRelease s p e && (decide (e.op ≠ .cpbkt) || !useOpen s fun u => match u with
    | .contrib c q _ => decide (c = p ∧ q = e.seq)
    | _ => false)

end Sys2Proof.Machine
end

