-- ==== Sys2Proof/Machine/Lanes.lean ====
section
/-!
DEFINITION. Sys2Proof/Machine/Lanes.lean: what every vector and special-function instruction is built from: the
element-wise walk with predication (R65, R127, R128), the fixed-order reduction tree (R80, R137) and the folio tables
(R143, R144).
-/
namespace Sys2Proof.Machine

/-! ## Element-wise walk -/

/-- The places (lane, element of the lane) of the elements below VL, in element order. -/
def elemPlaces (vl perLane : Nat) : List (Nat × Nat) :=
  (List.range vl).flatMap fun lane => (List.range perLane).map fun k => (lane, k)

/-- The element of a register at a place. -/
def elemAt (c : Core) (t : ETy) (r : BitVec 5) (lane k : Nat) : W32 := elemOf t.width k (vGet c r lane)

/-- Operand B's element: of the broadcast value with BS = 1 (R129). -/
def elemB (c : Core) (e : Entry) (o : OpV) (t : ETy) (lane k : Nat) : W32 := elemOf t.width k (opB c e o lane)

def putElem (c : Core) (t : ETy) (r : BitVec 5) (lane k : Nat) (x : W32) : Core :=
  vPutBits c r lane (elemPut t.width k 0 (BitVec.allOnes 32)) (elemPut t.width k (vGet c r lane) x)

/-- Whether any element of a lane is predicated on. -/
def laneActive (c : Core) (o : OpV) (t : ETy) (lane : Nat) : Bool :=
  activeAt c o lane false || (decide (t.perLane = 2) && activeAt c o lane true)

def activeLanes (c : Core) (o : OpV) (t : ETy) : List Nat := (List.range (vlOf o)).filter (laneActive c o t)

/-- What one element gives: its bits, its flags and the core with any draws taken. -/
structure ElemOut where
  bits : W32
  flags : Flags := 0
  core : Core

/-- One element of an element-wise instruction: active, it is computed; predicated off, it is written zero when
MZ = 1 and left unchanged when MZ = 0 (R128). -/
def elemStep (o : OpV) (t : ETy) (f : Nat → Nat → Core → ElemOut) (acc : Core × Flags) (pl : Nat × Nat) : Core × Flags :=
  if activeAt acc.1 o pl.1 (decide (pl.2 = 1)) then
    let r := f pl.1 pl.2 acc.1
    (putElem r.core t o.vd pl.1 pl.2 r.bits, acc.2 ||| r.flags)
  else if o.mz then (putElem acc.1 t o.vd pl.1 pl.2 0, acc.2)
  else acc

/-- An element-wise instruction over the lanes below VL. -/
def elemWise (o : OpV) (t : ETy) (f : Nat → Nat → Core → ElemOut) (c : Core) : Core × Flags :=
  (elemPlaces (vlOf o) t.perLane).foldl (elemStep o t f) (c, 0)

/-- A pure element function: no draw. -/
def pureElem (f : Nat → Nat → W32 × Flags) : Nat → Nat → Core → ElemOut :=
  fun lane k c => { bits := (f lane k).1, flags := (f lane k).2, core := c }

/-- A function that takes one draw of the lane's generator when it rounds stochastically (R64, R119). -/
def drawElem (rnd : BitVec 3) (f : Nat → Nat → W32 → W32 × Flags) : Nat → Nat → Core → ElemOut :=
  fun lane k c =>
    if rnd = 4 then
      let d := drawGen c lane
      { bits := (f lane k d.1).1, flags := (f lane k d.1).2, core := d.2 }
    else { bits := (f lane k 0).1, flags := (f lane k 0).2, core := c }

/-- Set lane 0 on and write every other lane of a register zero. -/
def setWholeReg (c : Core) (r : BitVec 5) (xs : List W32) : Core :=
  (List.range 512).foldl (fun c lane => vPut c r lane (xs.getD lane 0)) c

/-! ## Reductions (R80, R137) -/

inductive RedOp where
  | sum | max | min
  deriving DecidableEq, Repr

/-- FX[1:0] of VRED and VSCAN. -/
def RedOp.ofCode (n : Nat) : RedOp :=
  match n % 4 with
  | 0 => .sum
  | 1 => .max
  | _ => .min

/-- One combination, in FP32 or INT32. -/
def redStep (t : ETy) (op : RedOp) (num : Bool) (a b : W32) : W32 × Flags :=
  match op with
  | .sum => eAdd t 0 0 a b
  | .max => (eMinMax t true num a b, 0)
  | .min => (eMinMax t false num a b, 0)

/-- What inactive elements contribute: −0, −∞ or +∞; for INT32 the neutral values 0, −2³¹ and 2³¹ − 1. -/
def redIdent (t : ETy) (op : RedOp) : W32 :=
  match t, op with
  | .int32, .sum => 0
  | .int32, .max => 0x80000000
  | .int32, .min => 0x7FFFFFFF
  | _, .sum => 0x80000000
  | _, .max => 0xFF800000
  | _, .min => 0x7F800000

/-- One level of the pairwise tree. -/
def pairLevel (f : W32 → W32 → W32 × Flags) : List W32 → List W32 × Flags
  | a :: b :: t =>
    let r := f a b
    let q := pairLevel f t
    (r.1 :: q.1, r.2 ||| q.2)
  | l => (l, 0)

/-- The pairwise tree of `n` levels. -/
def pairTree (f : W32 → W32 → W32 × Flags) : Nat → List W32 × Flags → List W32 × Flags
  | 0, x => x
  | n + 1, x =>
    let y := pairLevel f x.1
    pairTree f n (y.1, x.2 ||| y.2)

/-- The type in which a reduction of elements of type t runs. -/
def redType (t : ETy) : ETy :=
  match t with
  | .int32 => .int32
  | _ => .fp32

/-- An element widened exactly to FP32; INT32 as it is. -/
def widen (t : ETy) (x : W32) : W32 := (convert (redType t) t 0 0 false x).1

/-- An element of VA as a reduction sees it. -/
def redElem (c : Core) (o : OpV) (t : ETy) (op : RedOp) (lane k : Nat) (f : W32 → W32) : W32 :=
  if decide (lane < vlOf o) && activeAt c o lane (decide (k = 1)) then f (widen t (elemAt c t o.va lane k))
  else redIdent (redType t) op

/-- A lane's value: packed halves are combined first. -/
def redLane (c : Core) (o : OpV) (t : ETy) (op : RedOp) (num : Bool) (f : W32 → W32) (lane : Nat) : W32 × Flags :=
  if t.perLane = 2 then redStep (redType t) op num (redElem c o t op lane 0 f) (redElem c o t op lane 1 f)
  else (redElem c o t op lane 0 f, 0)

/-- The reduction of f over the active elements of VA in 2^lv lanes from `lane0` on. -/
def reduceLanes (c : Core) (o : OpV) (t : ETy) (op : RedOp) (num : Bool) (f : W32 → W32) (lane0 lv : Nat) : W32 × Flags :=
  let ls := (List.range (2 ^ lv)).map fun i => redLane c o t op num f (lane0 + i)
  let r := pairTree (redStep (redType t) op num) lv (ls.map (·.1), ls.foldl (fun a x => a ||| x.2) 0)
  (r.1.headD 0, r.2)

/-! ## Folio tables (R82, R143, R144): table t, physical copy y, entry i -/

def tblGet (c : Core) (t y i : Nat) : W32 := smapGet (fun _ => 0) c.tbl (t * 512 + y * 256 + i)

def tblPut (c : Core) (t y i : Nat) (x : W32) : Core :=
  Core.clean { c with tbl := smapPut (fun _ => (0 : W32)) c.tbl (t * 512 + y * 256 + i) x } fun q =>
    decide (q = .tbl (t * 512 + y * 256 + i))

/-- Physical copy of table t that the selection bits make active. -/
def activeCopy (sel : BitVec 2) (t : Nat) : Nat := if bitB sel t then 1 else 0

/-- LUT_OOR, bit 7 of COR_VE_STATUS. -/
def fLutOor : Flags := 0x80
/-- PERM_OOR, bit 6. -/
def fPermOor : Flags := 0x40
/-- SP_DROP, bit 8. -/
def fSpDrop : Flags := 0x100

/-- A lookup: an index at or above 256 gives zero and sets LUT_OOR (R82). -/
def lookup (c : Core) (sel : BitVec 2) (t : Nat) (x : W32) : W32 × Flags :=
  if x.toNat < 256 then (tblGet c t (activeCopy sel t) x.toNat, 0) else (0, fLutOor)

end Sys2Proof.Machine
end

