-- ==== Sys2Proof/Machine/Vector.lean ====
section
/-!
DEFINITION. Sys2Proof/Machine/Vector.lean: what the instructions of group 0x5 do when they start: vector arithmetic,
comparison, conversion, draws and sparsification (R65, R76 to R79, R128 to R132, R145, R195, R200).
-/
namespace Sys2Proof.Machine

/-- Finish a VE instruction: the core with its writes, and the sticky bits of its completion (R134). -/
def veDone (s : State) (p : Fin 72) (r : Core × Flags) (mask : Flags) : RunOut :=
  { st := s.setCore p r.1, sticky := r.2 &&& mask }

/-- INV, OFL, UFL, INX and SAT_HIT. -/
def fArith : Flags := 0x3D

/-- Element-wise functions of a, b and c by opcode; `d` is the draw. -/
def veElem (op : CoreOp) (t : ETy) (o : OpV) (d a b c : W32) : W32 × Flags :=
  let mode := o.rnd.toNat
  match op with
  | .vadd => eAdd t mode d a b
  | .vsub => eSub t mode d a b
  | .vmul => eMul t mode d a b
  | .vfma => eFma t mode d false a b c
  | .vfms => eFma t mode d true a b c
  | .vmin => (eMinMax t false (bitB o.fx 0) a b, 0)
  | .vmax => (eMinMax t true (bitB o.fx 0) a b, 0)
  | .vabs => (match t with
    | .int32 => if bitB a 31 then 0 - a else a
    | _ => eAbsBits t a, 0)
  | .vneg => (match t with
    | .int32 => 0 - a
    | _ => eNegBits t a, 0)
  | .vand => (a &&& b, 0)
  | .vor => (a ||| b, 0)
  | .vxor => (a ^^^ b, 0)
  | .vshl => (a <<< (bitsN b 0 5), 0)
  | .vshr => (if bitB o.fx 0 then a.sshiftRight (bitsN b 0 5) else a >>> (bitsN b 0 5), 0)
  | _ => (a, 0)

/-- An element-wise instruction of group 0x5. -/
def runElem (p : Fin 72) (e : Entry) (o : OpV) (s : State) : RunOut :=
  let c := s.core p
  let t := tyOf o.type
  let r := elemWise o t (drawElem o.rnd fun lane k d =>
    veElem e.op t o d (elemAt c t o.va lane k) (elemB c e o t lane k) (elemAt c t o.vc lane k)) c
  veDone s p r fArith

/-- Set one bit of a mask register. -/
def putMask (c : Core) (m : Nat) (lane : Nat) (b : Bool) : Core :=
  { c with m := c.m.setIfInBounds (m % 8) (setBit (vAt c.m 0 (m % 8)) lane b) }

/-- VCMP (R132): one mask bit per element below VL; the high halves of packed types go to M(VD XOR 1). A mask that is written whole takes new
check bits. -/
def runVcmp (p : Fin 72) (e : Entry) (o : OpV) (s : State) : RunOut :=
  let c := s.core p
  let t := tyOf o.type
  let whole := decide (vlOf o = 512) && (!o.mskEn || o.mz)
  let c1 := Core.clean c fun q => whole && decide (q = .m (o.vd.toNat % 8) ∨ (t.perLane = 2 ∧ q = .m (o.vd.toNat % 8 ^^^ 1)))
  ranOk (s.setCore p ((elemPlaces (vlOf o) t.perLane).foldl (fun acc pl =>
    let hi := decide (pl.2 = 1)
    let m := if hi then o.vd.toNat ^^^ 1 else o.vd.toNat
    if activeAt c o pl.1 hi then
      putMask acc m pl.1 (eCmp t (bitsN o.fx 0 3) (elemAt c t o.va pl.1 pl.2) (elemB c e o t pl.1 pl.2))
    else if o.mz then putMask acc m pl.1 false else acc) c1))

/-- VSEL: d := a where MK is set, else b, in every lane below VL. -/
def runVsel (p : Fin 72) (e : Entry) (o : OpV) (s : State) : RunOut :=
  let c := s.core p
  let t := tyOf o.type
  let r := elemWise { o with mskEn := false } t (pureElem fun lane k =>
    (if activeAt c o lane (decide (k = 1)) then elemAt c t o.va lane k else elemB c e o t lane k, 0)) c
  veDone s p r fArith

/-- VRNG: the draw, or (draw >> 8) × 2⁻²⁴ as FP32 with FX[0] = 1. -/
def runVrng (p : Fin 72) (o : OpV) (s : State) : RunOut :=
  let r := elemWise o .fp32 (fun lane _ c =>
    let d := drawGen c lane
    { bits := if bitB o.fx 0 then (roundFin .fp32 0 0 false false (d.1.toNat / 256) (-24) false).1 else d.1
      core := d.2 }) (s.core p)
  veDone s p r 0

/-! ## VCVT (R77, R119, R120) -/

/-- One converted element: source and destination element numbers in the lane, and whether it goes by the high mask.  It takes a draw
with RND = 4 but for the conversions of the table of R120 (R119). -/
def cvtStep (c0 : Core) (o : OpV) (dst src : ETy) (k g lane j : Nat) (acc : Core × Flags) : Core × Flags :=
  let hi := decide (k = 2 ∧ j = 1)
  let dj := if src.perLane < dst.perLane then g * k + j else j
  let sj := if dst.perLane < src.perLane then g * k + j else j
  if activeAt c0 o lane hi then
    let x := elemAt c0 src o.va lane sj
    let drawn := decide (o.rnd = 4) && !convTable dst src
    let dr := drawGen acc.1 lane
    let r := convert dst src o.rnd.toNat (if drawn then dr.1 else 0) o.sat x
    (putElem (if drawn then dr.2 else acc.1) dst o.vd lane dj r.1, acc.2 ||| r.2)
  else if o.mz then (putElem acc.1 dst o.vd lane dj 0, acc.2)
  else acc

def runVcvt (p : Fin 72) (o : OpV) (s : State) : RunOut :=
  let c := s.core p
  let dst := tyOf o.type
  let src := tyOf o.type2
  let k := cvtK dst src
  let r := (elemPlaces (vlOf o) k).foldl (fun acc pl => cvtStep c o dst src k o.fx.toNat pl.1 pl.2 acc) (c, 0)
  veDone s p r fArith

/-! ## SPARSIFY (R79, R195, R200) -/

/-- Magnitude order of an element: its bits without the sign; every NaN ranks alike, above infinity. -/
def sparseRank (t : ETy) (x : W32) : Nat :=
  if (Fp.decode t x).isNan then 2 ^ 32 else (x.toNat % 2 ^ (t.width - 1))

/-- The index of highest rank among non-zero elements of a group, ties to the lower index. -/
def topIndex (t : ETy) (q : List W32) (skip : Option Nat) : Option Nat :=
  (List.range 4).foldl (fun best i =>
    if eIsZero t (q.getD i 0) || skip == some i then best
    else match best with
      | none => some i
      | some b => if sparseRank t (q.getD b 0) < sparseRank t (q.getD i 0) then some i else some b) none

/-- The lowest index that is not kept. -/
def lowestOther (k : Option Nat) : Nat := if k = some 0 then 1 else 0

/-- The lowest-indexed zero elements fill the pair. -/
def lowestZero (t : ETy) (q : List W32) (skip : Option Nat) : Nat :=
  ((List.range 4).find? fun i => eIsZero t (q.getD i 0) && !(skip == some i)).getD (lowestOther skip)

/-- The two kept positions of a group, ascending. -/
def keepPair (t : ETy) (q : List W32) : Nat × Nat :=
  let a := topIndex t q none
  let b := match a with
    | none => none
    | some i => topIndex t q (some i)
  let x := a.getD (lowestZero t q none)
  let y := b.getD (lowestZero t q (some x))
  (min x y, max x y)

def nonZeros (t : ETy) (q : List W32) : Nat := q.countP fun x => !eIsZero t x

/-- Groups of four. -/
def fours : List W32 → List (List W32)
  | a :: b :: c :: d :: t => [a, b, c, d] :: fours t
  | _ => []

/-- The metadata words: 4-bit codes packed from bit 0 of lane 0. -/
def metaWord (codes : List Nat) (lane : Nat) : W32 :=
  BitVec.ofNat 32 ((slice codes (8 * lane) 8).foldr (fun x a => x + 16 * a) 0)

def overfullFlt (g : Nat) : Flt := ⟨0x0402, BitVec.ofNat 32 g⟩

def runSparsify (p : Fin 72) (o : OpV) (s : State) : RunOut :=
  let c := s.core p
  let t := tyOf o.type
  let act := (elemPlaces (vlOf o) t.perLane).filter fun pl => activeAt c o pl.1 (decide (pl.2 = 1))
  let xs := act.map fun pl => elemAt c t o.va pl.1 pl.2
  if xs.length % 4 ≠ 0 then ranFault s ⟨0x0101, (CoreOp.code .sparsify).zeroExtend 32⟩
  else
    let gs := fours xs
    let full := (List.range gs.length).find? fun g => decide (2 < nonZeros t (gs.getD g []))
    match (if bitB o.fx 0 then full else none) with
    | some g => ranFault s (overfullFlt g)
    | none =>
      let kept := gs.flatMap fun q =>
        let k := keepPair t q
        [q.getD k.1 0, q.getD k.2 0]
      let codes := gs.map fun q =>
        let k := keepPair t q
        k.1 + 4 * k.2
      let dropped := gs.foldl (fun a q => a + (nonZeros t q - min 2 (nonZeros t q))) 0
      let places := elemPlaces (vlOf o) t.perLane
      let c1 := (places.zip (List.range places.length)).foldl (fun acc x =>
        if x.2 < kept.length then putElem acc t o.vd x.1.1 x.1.2 (kept.getD x.2 0)
        else if activeAt c o x.1.1 (decide (x.1.2 = 1)) || o.mz then putElem acc t o.vd x.1.1 x.1.2 0
        else acc) c
      let lanes := (xs.length + 31) / 32
      let c2 := (List.range lanes).foldl (fun c l => vPut c o.vc l (metaWord codes l)) c1
      let s1 := s.setCore p c2
      let s2 := if dropped = 0 then s1 else s1.rmod .corVeSprune p.val 0 fun v => satAdd v dropped
      { st := s2, sticky := if dropped = 0 then 0 else fSpDrop }

/-- The instructions of group 0x5. -/
def runVector (p : Fin 72) (e : Entry) (o : OpV) (s : State) : RunOut :=
  match e.op with
  | .vcmp => runVcmp p e o s
  | .vsel => runVsel p e o s
  | .vcvt => runVcvt p o s
  | .vrng => runVrng p o s
  | .sparsify => runSparsify p o s
  | _ => runElem p e o s

end Sys2Proof.Machine
end

