-- ==== Sys2Proof/Machine/VecMem.lean ====
section
/-!
DEFINITION. Sys2Proof/Machine/VecMem.lean: what the instructions of group 0x6 do when they start, but for VCHLD and
VCSR: memory forms, cross-lane moves, reductions, scans, folio tables, bitmaps and mask operations (R78, R80 to R82,
R133, R137 to R144, R149, R150, R209, R210, R478).
-/
namespace Sys2Proof.Machine

def vecAddrFlt (a : Nat) : Flt := ⟨0x0301, BitVec.ofNat 32 a⟩

/-! ## VLD and VST -/

/-- Address of VLD and VST: S[VB] + FX × 4, FX signed. -/
def vecAddr (e : Entry) (o : OpV) : Nat := (e.b + (o.fx.signExtend 64) * 4).toNat

/-- The checks of R149 over the whole span of a lane access, active lanes or not. -/
def vecSpanFlt (s : State) (a len : Nat) : Option Flt :=
  if a % 4 ≠ 0 || !liveSpan s a len then some (vecAddrFlt a) else none

/-- The same checks of a store, on an allocation that engines may write (R241, log 110). -/
def vecStoreFlt (s : State) (a len : Nat) : Option Flt :=
  (vecSpanFlt s a len).or (if writableSpan s a len then none else some (vecAddrFlt a))

/-- The active lanes of an access that the core may not reach. -/
def lanesPlaceFlt (p : Fin 72) (s : State) (a : Nat) (lanes : List Nat) : Option Flt :=
  lanes.findSome? fun l => (placeErr (.core p) s (a + 4 * l)).map fun x => x.flt (vecAddrFlt a)

/-- Read 32-bit words of lanes, in lane order, until an error. -/
def loadLanes (p : Fin 72) (s : State) (a : Nat) (lanes : List Nat) : State × List (Nat × W32) × Option Flt :=
  lanes.foldl (fun r l =>
    match r.2.2 with
    | some _ => r
    | none =>
      let q := loadBytes p r.1 (a + 4 * l) 4
      (q.1, r.2.1 ++ [(l, BitVec.ofNat 32 (leNat q.2.1))], q.2.2)) (s, [], none)

/-- The loaded word of a lane. -/
def laneWord (ws : List (Nat × W32)) (l : Nat) : W32 := ((ws.find? fun x => x.1 = l).map (·.2)).getD 0

/-- VLD: VD := VL lanes from the address. -/
def runVld (p : Fin 72) (e : Entry) (o : OpV) (s : State) : RunOut :=
  let c := s.core p
  let t := tyOf o.type
  let a := vecAddr e o
  let lanes := activeLanes c o t
  match (vecSpanFlt s a (4 * vlOf o)).or (lanesPlaceFlt p s a lanes) with
  | some f => ranFault s f
  | none =>
    let r := loadLanes p s a lanes
    match r.2.2 with
    | some f => ranFault r.1 f
    | none =>
      ranOk (r.1.modCore p fun c =>
        (elemWise o t (pureElem fun lane k => (elemOf t.width k (laneWord r.2.1 lane), 0)) c).1)

/-- The bytes that a lane store writes: active elements only (R150). -/
def laneCells (c : Core) (o : OpV) (t : ETy) (a : Nat) : List (Nat × Byte) :=
  ((elemPlaces (vlOf o) t.perLane).filter fun pl => activeAt c o pl.1 (decide (pl.2 = 1))).flatMap fun pl =>
    cellsAt (a + 4 * pl.1 + t.bytes * pl.2) (leBytes t.bytes (elemAt c t o.va pl.1 pl.2).toNat)

/-- VST: store VL lanes of VA. -/
def runVst (p : Fin 72) (e : Entry) (o : OpV) (s : State) : RunOut :=
  let c := s.core p
  let t := tyOf o.type
  let a := vecAddr e o
  match (vecStoreFlt s a (4 * vlOf o)).or (lanesPlaceFlt p s a (activeLanes c o t)) with
  | some f => ranFault s f
  | none =>
    let r := storeCells p s (laneCells c o t a)
    { st := r.1, fault := r.2 }

/-! ## VLDW (R142) -/

/-- How many rows a view has: the product of its logical extents from dimension 1 on. -/
def rowCount (d : Desc) : Nat := (List.range 7).foldl (fun a i => a * d.ext (i + 1)) 1

/-- Coordinates of dimensions 1 on from a row index; the last one takes what is left. Clamp-to-edge moves the row index itself to the
nearest valid row (R142). -/
def rowCoords (d : Desc) (row : Nat) : List Int :=
  let r := if d.oob = 0 then row else min row (rowCount d - 1)
  let last := max 1 (d.ndim - 1)
  ((List.range 7).foldl (fun (a : Nat × List Int) i =>
    let k := i + 1
    if k < last then (a.1 / max 1 (d.ext k), a.2 ++ [(a.1 % max 1 (d.ext k) : Int)])
    else if k = last then (0, a.2 ++ [(a.1 : Int)])
    else (0, a.2 ++ [0])) (r, [])).2

/-- Read one element of a view for the VE: through the L1 where it lies in main memory. -/
def viewElem (p : Fin 72) (v : View) (s : State) (x : List Int) : State × W32 × Option Flt :=
  match v.desc.readPlace x with
  | .fill => (s, v.desc.fill, none)
  | .pad _ => (s, v.desc.padval, none)
  | .dropped => (s, 0, none)
  | .data y _ =>
    let a := v.addr y
    match placeErrSpan (.core p) s a v.desc.esize with
    | some e => (s, 0, some (viewFlt v e))
    | none =>
      let r := loadBytes p s a v.desc.esize
      (r.1, BitVec.ofNat 32 (leNat r.2.1), r.2.2)

def descTypeFlt (h : W32) : Flt := ⟨0x0302, h⟩

/-- VLDW: windowed read through a descriptor. -/
def runVldw (p : Fin 72) (e : Entry) (o : OpV) (s : State) : RunOut :=
  let t := tyOf o.type
  let r0 := openView (.core p) s e.b
  match r0.2 with
  | .error f => ranFault r0.1 f
  | .ok v =>
    if v.desc.typeCode ≠ o.type.toNat then ranFault r0.1 (descTypeFlt v.handle)
    else
      let c := r0.1.core p
      let x0 : Int := (e.c.extractLsb' 0 32).toInt
      let row := rowCoords v.desc (bitsN e.c 32 32)
      let places := (elemPlaces (vlOf o) t.perLane).filter fun pl => activeAt c o pl.1 (decide (pl.2 = 1))
      let r := places.foldl (fun (a : State × List (Nat × W32) × Option Flt) pl =>
        match a.2.2 with
        | some _ => a
        | none =>
          let i := pl.1 * t.perLane + pl.2
          let q := viewElem p v a.1 ((x0 + i) :: row)
          (q.1, a.2.1 ++ [(i, q.2.1)], q.2.2)) (r0.1, [], none)
      match r.2.2 with
      | some f => ranFault r.1 f
      | none =>
        let s1 := r.1.modCore p fun c =>
          (elemWise o t (pureElem fun lane k => (laneWord r.2.1 (lane * t.perLane + k), 0)) c).1
        { st := useBegin s1 v.entry, uses := [v.entry] }

/-! ## Accumulator-buffer moves (R478) -/

def abGet (c : Core) (row col : Nat) : W32 := smapGet (fun _ => 0) c.ab (row * 64 + col)

def abPut (c : Core) (row col : Nat) (x : W32) : Core :=
  { c with ab := smapPut (fun _ => (0 : W32)) c.ab (row * 64 + col) x, outAb := (row * 64 + col) :: c.outAb }

/-- Words of a row that are written: pairs of which both words are written take new check bits (R108). -/
def abClean (c : Core) (row : Nat) (cols : List Nat) : Core :=
  if eccFree c then c
  else Core.clean c fun q => match q with
    | .ab k => decide (k / 32 = row) && cols.contains (2 * (k % 32)) && cols.contains (2 * (k % 32) + 1)
    | _ => false

/-- The places of an AB row. -/
def abPlaces (row : Nat) : List Place := (List.range 32).map fun i => .ab (row * 32 + i)

/-- VLDAB: VD lane 64j + c := AB[S[VB] + j][c]. -/
def runVldab (p : Fin 72) (e : Entry) (o : OpV) (s : State) : RunOut :=
  let c := s.core p
  ranOk (s.setCore p (elemWise o .fp32 (pureElem fun lane _ => (abGet c (e.b.toNat + lane / 64) (lane % 64), 0)) c).1)

/-- VSTAB: AB[S[VB] + j][c] := VA lane 64j + c. -/
def runVstab (p : Fin 72) (e : Entry) (o : OpV) (s : State) : RunOut :=
  let c := s.core p
  let lanes := (List.range (vlOf o)).filter fun lane => activeAt c o lane false
  let c1 := lanes.foldl (fun a lane => abPut a (e.b.toNat + lane / 64) (lane % 64) (vGet c o.va lane)) c
  ranOk (s.setCore p ((List.range 8).foldl (fun a j =>
    abClean a (e.b.toNat + j) ((lanes.filter fun lane => lane / 64 = j).map (· % 64))) c1))

/-! ## Cross-lane moves (R78, R139) -/

/-- VPERM: d[i] := a[b[i]]. -/
def runVperm (p : Fin 72) (e : Entry) (o : OpV) (s : State) : RunOut :=
  let c := s.core p
  let r := elemWise o .fp32 (pureElem fun lane _ =>
    let i := (opB c e o lane).toNat
    if i < vlOf o then (vGet c o.va i, 0) else (0, fPermOor)) c
  veDone s p r fPermOor

/-- VSLIDE: d[i] := a[i − k]. -/
def runVslide (p : Fin 72) (o : OpV) (s : State) : RunOut :=
  let c := s.core p
  let k : Int := (o.fx.extractLsb' 0 10).toInt
  let r := elemWise o .fp32 (pureElem fun lane _ =>
    let i : Int := (lane : Int) - k
    (if 0 ≤ i ∧ i < vlOf o then vGet c o.va i.toNat else 0, 0)) c
  veDone s p r 0

/-- VBCAST: d[i] := a[FX[8:0]]. PERM_OOR comes with an active lane that takes the missing element (R128, R139; DEDUCED, log 136). -/
def runVbcast (p : Fin 72) (o : OpV) (s : State) : RunOut :=
  let c := s.core p
  let i := bitsN o.fx 0 9
  let r := elemWise o .fp32 (pureElem fun _ _ =>
    if i < vlOf o then (vGet c o.va i, 0) else (0, fPermOor)) c
  veDone s p r fPermOor

/-! ## Reductions and scans (R80, R137, R138) -/

/-- VRED: lane 0 := the reduction over the active elements; lanes 1 to 511 := zero. -/
def runVred (p : Fin 72) (o : OpV) (s : State) : RunOut :=
  let c := s.core p
  let t := tyOf o.type
  let r := reduceLanes c o t (RedOp.ofCode (bitsN o.fx 0 2)) (bitB o.fx 2) id 0 9
  let q := convert t (redType t) o.rnd.toNat 0 false r.1
  veDone s p (setWholeReg c o.vd [q.1], r.2 ||| q.2) fArith

/-- One level of the prefix: lane i takes x[i − d] ⊕ x[i]. -/
def scanLevel (f : W32 → W32 → W32 × Flags) (d : Nat) (x : List W32) : List W32 × Flags :=
  let ys := (x.drop d).zip x |>.map fun p => f p.2 p.1
  (x.take d ++ ys.map (·.1), ys.foldl (fun a y => a ||| y.2) 0)

/-- The inclusive prefix in nine levels. -/
def scanAll (f : W32 → W32 → W32 × Flags) (x : List W32) : List W32 × Flags :=
  (List.range 9).foldl (fun a l =>
    let y := scanLevel f (2 ^ l) a.1
    (y.1, a.2 ||| y.2)) (x, 0)

/-- VSCAN: prefix across lanes. The sticky bits are those of every addition of the network, over all 512 lanes (DEDUCED, log 135). -/
def runVscan (p : Fin 72) (o : OpV) (s : State) : RunOut :=
  let c := s.core p
  let t := tyOf o.type
  let op := RedOp.ofCode (bitsN o.fx 0 2)
  let x := (List.range 512).map fun lane =>
    if decide (lane < vlOf o) && activeAt c o lane false then vGet c o.va lane else redIdent t op
  let r := scanAll (redStep t op (bitB o.fx 3)) x
  let out := if bitB o.fx 2 then redIdent t op :: r.1 else r.1
  let w := elemWise o .fp32 (pureElem fun lane _ => (out.getD lane 0, 0)) c
  veDone s p (w.1, r.2) fArith

/-! ## VSEQ (R81, R140, R141) -/

/-- R of R140. -/
def seqRow (vl : Nat) : Nat := (4 * vl + 63) / 64 * 64

/-- The base addresses that VSEQ names: a_t, b_t, and h_t unless NOSTORE. -/
def seqBases (e : Entry) (o : OpV) : List Nat :=
  [e.a.toNat, e.b.toNat] ++ if bitB o.fx 17 then [] else [e.c.toNat]

/-- The span of each base is T whole rows, the last one's padding with it (DEDUCED, log 137). -/
def seqFlt (p : Fin 72) (s : State) (o : OpV) (bases : List Nat) : Option Flt :=
  let len := bitsN o.fx 0 16 * seqRow (vlOf o)
  bases.findSome? fun a =>
    if a % 64 ≠ 0 || !liveSpan s a len || !ownSpan s p a len then some (vecAddrFlt a) else none

/-- One step of the recurrence: h := a_t × h + b_t in every active lane, then h_t is written. -/
def seqStep (p : Fin 72) (e : Entry) (o : OpV) (t : ETy) (acc : State × Flags × Option Flt) (k : Nat) :
    State × Flags × Option Flt :=
  match acc.2.2 with
  | some _ => acc
  | none =>
    let s := acc.1
    let lanes := activeLanes (s.core p) o t
    let off := k * seqRow (vlOf o)
    let ra := loadLanes p s (e.a.toNat + off) lanes
    let rb := loadLanes p ra.1 (e.b.toNat + off) lanes
    match ra.2.2.or rb.2.2 with
    | some f => (rb.1, acc.2.1, some f)
    | none =>
      let r := elemWise { o with mz := false } t (drawElem o.rnd fun lane j d =>
        eFma t o.rnd.toNat d false (elemOf t.width j (laneWord ra.2.1 lane)) (elemAt (rb.1.core p) t o.vd lane j)
          (elemOf t.width j (laneWord rb.2.1 lane))) (rb.1.core p)
      (rb.1.setCore p r.1, acc.2.1 ||| r.2, none)

/-- The write of h_t after a step. -/
def seqStore (p : Fin 72) (e : Entry) (o : OpV) (t : ETy) (acc : State × Flags × Option Flt) (k : Nat) :
    State × Flags × Option Flt :=
  let r := seqStep p e o t acc k
  match r.2.2 with
  | some _ => r
  | none =>
    if bitB o.fx 17 then r
    else
      let cells := laneCells (r.1.core p) { o with va := o.vd } t (e.c.toNat + k * seqRow (vlOf o))
      let w := storeCells p r.1 cells
      (w.1, r.2.1, w.2)

/-- VSEQ: the sequence scan along time. Predicated-off elements of VD follow R128. -/
def runVseq (p : Fin 72) (e : Entry) (o : OpV) (s : State) : RunOut :=
  let t := tyOf o.type
  match seqFlt p s o (seqBases e o) with
  | some f => ranFault s f
  | none =>
    let n := bitsN o.fx 0 16
    let steps := if bitB o.fx 16 then (List.range n).reverse else List.range n
    let r := steps.foldl (seqStore p e o t) (s, 0, none)
    match r.2.2 with
    | some f => ranFault (r.1.modCore p fun c => { c with v := (s.core p).v }) f
    | none =>
      let s1 := r.1.modCore p fun c =>
        (elemWise o t (pureElem fun lane k => (elemAt c t o.vd lane k, 0)) c).1
      { st := s1, sticky := r.2.1 &&& fArith }

/-! ## Folio tables (R82, R143, R144) -/

/-- VLUT: d[i] := the entry that a[i] names, in the copy that was active at issue. -/
def runVlut (p : Fin 72) (e : Entry) (o : OpV) (s : State) : RunOut :=
  let c := s.core p
  let r := elemWise o .fp32 (pureElem fun lane _ => lookup c e.sel o.type2.toNat (vGet c o.va lane)) c
  veDone s p r fLutOor

/-- TWR: the shadow copy's entries FX[7:0] on := VA lanes 0 to VL − 1. -/
def runTwr (p : Fin 72) (o : OpV) (s : State) : RunOut :=
  let c := s.core p
  let t := o.type2.toNat
  let y := 1 - activeCopy c.copySel t
  ranOk (s.setCore p ((List.range (vlOf o)).foldl (fun a lane =>
    if activeAt c o lane false then tblPut a t y (bitsN o.fx 0 8 + lane) (vGet c o.va lane) else a) c))

/-- TSWAP: exchange the active and shadow copies. -/
def runTswap (p : Fin 72) (o : OpV) (s : State) : RunOut :=
  ranOk (s.modCore p fun c => { c with copySel := c.copySel ^^^ BitVec.ofNat 2 (2 ^ o.type2.toNat) })

/-! ## VZMAP (R209, R210) and VMSET (R133) -/

/-- Whether every examined element of lanes lo to lo + w − 1 is zero. -/
def lanesZero (c : Core) (o : OpV) (t : ETy) (lo w : Nat) : Bool :=
  (List.range w).all fun i => (List.range t.perLane).all fun k =>
    !activeAt c o (lo + i) (decide (k = 1)) || eIsZero t (elemAt c t o.va (lo + i) k)

/-- Write bits of a bitmap, bit i at bit position `bit0` + i of the byte at `a`, changing only those bits. -/
def writeBits (rd : State → Nat → State × Byte × Option Flt) (wr : State → List (Nat × Byte) → State × Option Flt)
    (s : State) (a bit0 : Nat) (bs : List Bool) : State × Option Flt :=
  (bs.mapIdx fun i b => (bit0 + i, b)).foldl (fun (r : State × Option Flt) x =>
    match r.2 with
    | some _ => r
    | none =>
      let q := rd r.1 (a + x.1 / 8)
      match q.2.2 with
      | some f => (q.1, some f)
      | none => wr q.1 [(a + x.1 / 8, setBit q.2.1 (x.1 % 8) x.2)]) (s, none)

/-- A byte as an engine of core p reads it directly. -/
def readByteD (p : Fin 72) (s : State) (a : Nat) : State × Byte × Option Flt :=
  let r := devRead (.core p) s a 1
  (r.1, r.2.1.headD 0, r.2.2)

/-- VZMAP: the observed-zero bitmap of VA. -/
def runVzmap (p : Fin 72) (e : Entry) (o : OpV) (s : State) : RunOut :=
  let c := s.core p
  let t := tyOf o.type
  let w := 2 ^ bitsN o.fx 0 4
  let n := vlOf o / w
  let a := e.b.toNat
  let first := a + e.c.toNat / 8
  let last := a + (e.c.toNat + n - 1) / 8
  let place := (placeErrSpan (.core p) s first (last - first + 1)).map fun x => x.flt (vecAddrFlt a)
  let bad := decide (a % 4 ≠ 0) || !liveSpan s first (last - first + 1) || !writableSpan s first (last - first + 1)
  match (if bad then some (vecAddrFlt a) else place) with
  | some f => ranFault s f
  | none =>
    let bits := (List.range n).map fun i => lanesZero c o t (i * w) w
    let r := writeBits (readByteD p) (storeCells p) s a e.c.toNat bits
    { st := r.1, fault := r.2 }

/-- VMSET on all 512 bits. -/
def vmset (fn : Nat) (a b : BitVec 512) (n : Nat) : BitVec 512 :=
  match fn with
  | 0 => a &&& b
  | 1 => a ||| b
  | 2 => a ^^^ b
  | 3 => ~~~a
  | 4 => BitVec.ofNat 512 (2 ^ min n 512 - 1)
  | 5 => BitVec.allOnes 512
  | _ => 0

def runVmset (p : Fin 72) (e : Entry) (o : OpV) (s : State) : RunOut :=
  let c := s.core p
  let x := vmset (bitsN o.fx 0 3) (vAt c.m 0 (o.va.toNat % 8)) (vAt c.m 0 (o.vb.toNat % 8)) e.b.toNat
  ranOk (s.setCore p (Core.clean { c with m := c.m.setIfInBounds (o.vd.toNat % 8) x } fun q => decide (q = .m (o.vd.toNat % 8))))

end Sys2Proof.Machine
end

