-- ==== Sys2Proof/Machine/Copy.lean ====
section
/-!
DEFINITION. Sys2Proof/Machine/Copy.lean: what the instructions of the copy engine do when they start (group 0x8: R85,
R256 to R263).  CE sticky bits: OOB 0, PAD 1.
-/
namespace Sys2Proof.Machine

/-- What a finished copy of core p gives its instruction: sticky bits, bytes counted, and the uses it holds. -/
def ceDone (p : Fin 72) (r : CopyOut) (uses : List Nat) : RunOut :=
  let s := r.st.rmod .corCeBytes p.val 0 fun v => v + BitVec.ofNat 64 r.bytes
  match r.err with
  | some f => ranFault s f
  | none => { st := uses.foldl useBegin s, sticky := r.sticky, uses := uses }

/-- The checks of a pair of views (R256, R258, R259): the destination's own first, then shape and type. -/
def pairFlt (src dst : View) (trans : Bool) : Option Flt :=
  if !dst.destOk then some (layDestFlt dst.handle)
  else if trans && (decide (src.desc.ndim < 2) || decide (dst.desc.ndim < 2)) then some (layShapeFlt dst.handle)
  else if decide (src.desc.typeCode ≠ dst.desc.typeCode) || (trans && decide (dst.desc.esize < 2)) then
    some (layTypeFlt dst.desc.typeCode src.desc.typeCode)
  else none

/-- CCOPY and CTRANS: checks for the source descriptor first, then the copy. -/
def runPair (p : Fin 72) (trans : Bool) (e : Entry) (s : State) : RunOut :=
  let v := openTwo (.core p) s e.b e.a
  match v.2 with
  | .error f => ranFault v.1 f
  | .ok (src, dst) =>
    match pairFlt src dst trans with
    | some f => ranFault v.1 f
    | none => ceDone p (copyViews (.core p) src dst trans v.1) [src.entry, dst.entry]

/-- CFILL: the value S[SO] to every data position of the destination. -/
def runCfill (p : Fin 72) (e : Entry) (s : State) : RunOut :=
  let v := openView (.core p) s e.a
  match v.2 with
  | .error f => ranFault v.1 f
  | .ok dst =>
    if !dst.destOk then ranFault v.1 (layDestFlt dst.handle)
    else ceDone p (fillView (.core p) dst e.c v.1) [dst.entry]

/-- Row index over dimensions 1 and up, dimension 1 fastest. -/
def rowIndex (d : Desc) (x : List Int) : Nat :=
  ((List.range 7).foldl (fun (a : Nat × Nat) i => (a.1 + (x.getD (i + 1) 0).toNat * a.2, a.2 * d.ext (i + 1))) (0, 1)).1

/-- CABOUT: AB rows S[SO] to S[SO] + S[SX] − 1 into the destination view (R261). -/
def runCabout (p : Fin 72) (e : Entry) (s : State) : RunOut :=
  let v := openView (.core p) s e.a
  match v.2 with
  | .error f => ranFault v.1 f
  | .ok dst =>
    if !dst.destOk then ranFault v.1 (layDestFlt dst.handle)
    else if !ty32 dst.desc.ty || decide (dst.desc.ext 0 ≠ 64) || decide (rowCount dst.desc ≠ e.d.toNat) then
      ranFault v.1 (layShapeFlt dst.handle)
    else
      let c := v.1.core p
      let items := dst.desc.logical.map fun x =>
        (x, leBytes 4 (abGet c (e.c.toNat + rowIndex dst.desc x) (x.getD 0 0).toNat).toNat)
      ceDone p (writeAll (.core p) dst items v.1) [dst.entry]

/-- The instructions of group 0x8. -/
def runCopy (p : Fin 72) (e : Entry) (s : State) : RunOut :=
  match e.op with
  | .ccopy => runPair p false e s
  | .ctrans => runPair p true e s
  | .cfill => runCfill p e s
  | _ => runCabout p e s

end Sys2Proof.Machine
end

