-- ==== Sys2Proof/Machine/Funs.lean ====
section
/-!
DEFINITION. Sys2Proof/Machine/Funs.lean: the functions of FFUN (R84): their values, the bounds that a result keeps (R153), the exact
and special results (R154 to R156), and the segments, seams and seam clamp of the internal result (R157, R158).  The polynomials are
not tabulated (R479): a segment's result is a free value inside what the rules allow (log 5).
-/
namespace Sys2Proof.Machine

/-! ## The values of the functions, computed far more finely than the distance of any FP32 number
from a bound (log 5) -/

def powTwo (n : Int) : Rat := if 0 ≤ n then 2 ^ n.toNat else 1 / 2 ^ (-n).toNat

/-- The multiple of 2⁻²²⁰ below a number. -/
def cut (q : Rat) : Rat := ((q * 2 ^ 220).floor : Rat) / 2 ^ 220

/-- ln 2 and π to 160 and 420 binary places. -/
def ln2R : Rat := 1013035739299659071135698605846798551586536899366 / 2 ^ 160
def piR : Rat :=
  8506444083868174897761245044461686771323923700309573190120836733458428361833437461212585903707197869053776263619362240579410812
    / 2 ^ 420

/-- e^r for 0 ≤ r < 1. -/
def expUnit (r : Rat) : Rat := (List.range 50).reverse.foldl (fun a (k : Nat) => cut (1 + r * a / ((k : Rat) + 1))) 1

/-- An argument beyond which an exponential lies far outside FP32. -/
def bounded (x : Rat) : Rat := max (-400) (min 400 x)

def exp2R (x : Rat) : Rat :=
  let y := bounded x
  powTwo y.floor * expUnit ((y - (y.floor : Rat)) * ln2R)

def expR (x : Rat) : Rat :=
  let y := bounded x
  let n := (y / ln2R).floor
  powTwo n * expUnit (y - (n : Rat) * ln2R)

/-- The exponent of a positive number: 2^e ≤ q < 2^(e + 1). -/
def ratExp (q : Rat) : Int :=
  let e : Int := (Nat.log2 q.num.natAbs : Int) - (Nat.log2 q.den : Int)
  if powTwo e ≤ q then e else e - 1

/-- ln x: with m = x / 2^e and t = (m − 1)/(m + 1), e ln 2 + 2 (t + t³/3 + t⁵/5 + …). -/
def lnR (x : Rat) : Rat :=
  let e := ratExp x
  let m := x / powTwo e
  let t := (m - 1) / (m + 1)
  let z := cut (t * t)
  (e : Rat) * ln2R + 2 * t * (List.range 80).reverse.foldl (fun a (k : Nat) => cut (1 / (2 * (k : Rat) + 1) + z * a)) 0

/-- The integer square root, bit by bit. -/
def isqrt (n : Nat) : Nat :=
  (List.range (Nat.log2 n / 2 + 1)).reverse.foldl (fun r i => if (r + 2 ^ i) * (r + 2 ^ i) ≤ n then r + 2 ^ i else r) 0

def sqrtR (x : Rat) : Rat := (isqrt (x.num.natAbs * x.den * 4 ^ 100) : Rat) / ((x.den : Rat) * 2 ^ 100)

/-- 1 − z/3 + z²/(2!·5) − z³/(3!·7) + …: erf x = 2/√π · x · erfSum(x²). -/
def erfSum (z : Rat) : Rat :=
  ((List.range 1000).foldl (fun (a : Rat × Rat) (k : Nat) =>
    (cut (-(a.1 * z) / ((k : Rat) + 1)), a.2 + a.1 / (2 * (k : Rat) + 1))) (1, 0)).2

def erfR (x : Rat) : Rat := if 20 < x then 1 - 1 / 2 ^ 500 else 2 / sqrtR piR * x * erfSum (cut (x * x))

/-- erf(x/√2), for |x| ≤ 20. -/
def erfRoot (x : Rat) : Rat := sqrtR (2 / piR) * x * erfSum (cut (x * x / 2))

def sigmoidR (x : Rat) : Rat := if 0 ≤ x then 1 / (1 + expR (-x)) else expR x / (1 + expR x)

def tanhR (x : Rat) : Rat :=
  if x < 1 / 2 ^ 20 then x - x * x * x / 3 else (expR (2 * x) - 1) / (expR (2 * x) + 1)

def geluR (x : Rat) : Rat := if x < -20 then -(1 / 2 ^ 280) else if 20 < x then x - 1 / 2 ^ 280 else x * (1 + erfRoot x) / 2

/-- 0.5 x (1 + tanh u) = x · sigmoid(2u), u = √(2/π)(x + 0.044715 x³). -/
def geluTanhR (x : Rat) : Rat :=
  let y := bounded x
  x * sigmoidR (2 * sqrtR (2 / piR) * (y + 44715 / 1000000 * y * y * y))

def softplusR (x : Rat) : Rat := if 400 < x then x + 1 / 2 ^ 500 else lnR (1 + expR x)

/-- sin of r + q·π/2, for 0 ≤ r < π/2. -/
def sinQuarter (q : Nat) (r : Rat) : Rat :=
  let z := cut (r * r)
  let sum (o : Nat) : Rat := (List.range 30).reverse.foldl (fun a (k : Nat) =>
    cut (1 - z * a / ((2 * (k : Rat) + 1 + o) * (2 * (k : Rat) + 2 + o)))) 1
  let v := if q % 2 = 0 then r * sum 1 else sum 0
  if q % 4 < 2 then v else -v

/-- sin x, or cos x as sin(x + π/2), for x ≥ 0. -/
def sinR (cos : Bool) (x : Rat) : Rat :=
  let k := (x / (piR / 2)).floor
  sinQuarter (k.toNat + if cos then 1 else 0) (x - (k : Rat) * (piR / 2))

/-- The function of a code (R84) at an input where it is defined and finite. -/
def funValue (fn : Nat) (x : Rat) : Rat :=
  match fn with
  | 0 => exp2R x
  | 1 => expR x
  | 2 => lnR x / ln2R
  | 3 => lnR x
  | 4 => 1 / x
  | 5 => 1 / sqrtR x
  | 6 => sqrtR x
  | 7 => tanhR x
  | 8 => sigmoidR x
  | 9 => x * sigmoidR x
  | 10 => geluR x
  | 11 => geluTanhR x
  | 12 => erfR x
  | 13 => softplusR x
  | 14 => sinR false x
  | _ => sinR true x

/-! ## Exact and special results (R154, R156) -/

def signBits (neg : Bool) : W32 := if neg then 0x80000000 else 0

/-- The results of R156 that need no evaluation: FP32 bits and sticky bits. -/
def ffunSpecial (fn : Nat) (x : Fp) : Option (W32 × Flags) :=
  let nan : W32 := 0x7FC00000
  let pinf : W32 := 0x7F800000
  let one : W32 := 0x3F800000
  match x with
  | .nan => some (nan, 0)
  | .inf neg =>
    match fn with
    | 0 | 1 => some (if neg then 0 else pinf, 0)
    | 2 | 3 | 6 => some (if neg then (nan, fINV) else (pinf, 0))
    | 4 => some (signBits neg, 0)
    | 5 => some (if neg then (nan, fINV) else (0, 0))
    | 7 | 12 => some (signBits neg ||| one, 0)
    | 8 => some (if neg then 0 else one, 0)
    | 9 | 10 | 11 => some (if neg then 0x80000000 else pinf, 0)
    | 13 => some (if neg then 0 else pinf, 0)
    | _ => some (nan, fINV)
  | .fin neg m _ =>
    if m = 0 then
      match fn with
      | 0 | 1 => some (one, 0)
      | 2 | 3 => some (0xFF800000, fDZ)
      | 4 | 5 => some (signBits neg ||| pinf, fDZ)
      | 8 => some (0x3F000000, 0)
      | 13 => some (0x3F317218, fINX)
      | 15 => some (one, 0)
      | _ => some (signBits neg, 0)
    else if neg then
      match fn with
      | 2 | 3 | 5 | 6 => some (nan, fINV)
      | _ => none
    else none

/-- The exponent of a power of two. -/
def pow2Exp (m : Nat) (e : Int) : Option Int := if m = 2 ^ Nat.log2 m then some ((Nat.log2 m : Nat) + e) else none

/-- The value 2^n. -/
def pow2 (neg : Bool) (n : Int) : Fp := .fin neg 1 n

/-- The integer that a finite value of small magnitude is. -/
def smallInt (neg : Bool) (m : Nat) (e : Int) : Option Int :=
  let v : Option Nat :=
    if 0 ≤ e then (if e ≤ 8 then some (m * 2 ^ e.toNat) else none)
    else if m % 2 ^ (-e).toNat = 0 then some (m / 2 ^ (-e).toNat) else none
  v.bind fun k => if k ≤ 1024 then some (if neg then -(k : Int) else k) else none

/-- The exact results of R154 for arguments that are neither zero nor special. -/
def ffunExact (fn : Nat) (x : Fp) : Option Fp :=
  match x with
  | .fin neg m e =>
    match fn with
    | 0 => (smallInt neg m e).bind fun n => if -149 ≤ n ∧ n ≤ 127 then some (pow2 false n) else none
    | 2 => (pow2Exp m e).map fun n => .fin (decide (n < 0)) n.natAbs 0
    | 3 => (pow2Exp m e).bind fun n => if n = 0 then some (.fin false 0 0) else none
    | 4 => (pow2Exp m e).bind fun n => if n < -127 then none else some (pow2 neg (-n))
    | 5 => (pow2Exp m e).bind fun n => if n % 2 = 0 then some (pow2 false (-(n / 2))) else none
    | 6 => (pow2Exp m e).bind fun n => if n % 2 = 0 then some (pow2 false (n / 2)) else none
    | _ => none
  | _ => none

/-! ## Numbers in order -/

/-- The place of an FP32 number that is not NaN in the order of the numbers; both zeros have place 0. -/
def fpKey (x : W32) : Int := if x.getLsbD 31 then -((x.toNat % 2 ^ 31 : Nat) : Int) else (x.toNat : Int)

def keyBits (k : Int) : W32 := if k < 0 then 0x80000000 ||| BitVec.ofNat 32 k.natAbs else BitVec.ofNat 32 k.toNat

/-! ## What the rules allow at one input (R153 to R156) -/

/-- An ulp of FP32 at an exact result. -/
def ulpOf (v : Rat) : Rat :=
  let a := if v < 0 then -v else v
  if a = 0 then powTwo (-149) else powTwo (max (ratExp a) (-126) - 23)

/-- The bound of R153 on the FP32 internal result. A final rounding to BF16 or FP16 follows (R152; DEDUCED, log 5). -/
def funTol (fn : Nat) (x v : Rat) : Rat :=
  match fn with
  | 0 | 4 | 6 => ulpOf v
  | 2 | 3 => if 1 / 2 ≤ x ∧ x ≤ 2 then 1 / 2 ^ 24 else 2 * ulpOf v
  | 9 => 3 * ulpOf v
  | 10 | 11 => if x < -4 then 1 / 2 ^ 30 else 3 * ulpOf v
  | 14 | 15 => if x ≤ 2 ^ 16 then 1 / 2 ^ 22 else 1 / 2 ^ 8
  | _ => 2 * ulpOf v

/-- The mathematical range of a function (R155). -/
def funClip (fn : Nat) (q : Rat) : Rat :=
  match fn with
  | 8 => max 0 (min 1 q)
  | 7 | 12 | 14 | 15 => max (-1) (min 1 q)
  | _ => q

def Fp.ratOf (neg : Bool) (m : Nat) (e : Int) : Rat := (if neg then -1 else 1) * (m : Rat) * powTwo e

/-- The place of infinity in the order of the FP32 numbers. -/
def infKey : Int := 0x7F800000

/-- The magnitude from which rounding to FP32 overflows. -/
def overflowAt : Rat := 2 ^ 128 - 2 ^ 103

/-- The greatest FP32 number at or below a number (mode 3), or the least at or above it (mode 2), by its place. -/
def gridKey (mode : Nat) (q : Rat) : Int :=
  if overflowAt ≤ q then infKey
  else if q ≤ -overflowAt then -infKey
  else
    let a := (if q < 0 then -q else q) * 2 ^ 300
    let n : Int := a.floor
    fpKey (roundFin .fp32 mode 0 false (decide (q < 0)) n.toNat (-300) (decide ((n : Rat) ≠ a))).1

/-- The lowest and highest place of the internal result that R153 to R156 allow at an input: an exact or special result alone, an
infinity where the exact result is beyond every FP32 number, else what lies within the bound and the range. -/
def funWindow (fn : Nat) (x : W32) : Int × Int :=
  let v := Fp.decode .fp32 x
  match ffunSpecial fn v, ffunExact fn v, v with
  | some r, _, _ => (fpKey r.1, fpKey r.1)
  | none, some r, _ => let k := fpKey (roundTo .fp32 0 0 false r).1; (k, k)
  | none, none, .fin neg m e =>
    let q := Fp.ratOf neg m e
    let y := funValue fn q
    let tol := funTol fn q y
    if 2 ^ 128 ≤ y then (infKey, infKey)
    else if y ≤ -(2 ^ 128) then (-infKey, -infKey)
    else (gridKey 2 (funClip fn (y - tol)), gridKey 3 (funClip fn (y + tol)))
  | none, none, _ => (0, 0)

/-! ## Inputs in order, segments and seams (R157) -/

/-- The lowest finite input. -/
def lowKey : Int := -0x7F7FFFFF

/-- The turning-point seams: the FP32 values nearest the minima of x · sigmoid(x) and the two GELU forms. -/
def turnKey (fn : Nat) : Option Int :=
  match fn with
  | 9 => some (-0x3FA3A4BA)
  | 10 => some (-0x3F407569)
  | 11 => some (-0x3F40A150)
  | _ => none

/-- The distance of the seams in the binade of a magnitude: 1.5 × 2^k for the logarithms, quarter points for k = 0 to 3. -/
def seamStep (fn n : Nat) : Nat :=
  match fn with
  | 2 | 3 => 2 ^ 22
  | 7 | 8 | 9 | 10 | 11 | 12 | 13 => if 127 ≤ n / 2 ^ 23 ∧ n / 2 ^ 23 ≤ 130 then 2 ^ 21 else 2 ^ 23
  | _ => 2 ^ 23

/-- The seam at or below a positive place; the subnormal numbers form one segment. -/
def seamBelow (fn n : Nat) : Nat := if n < 2 ^ 23 then 0 else n / seamStep fn n * seamStep fn n

/-- The seam at or above a magnitude. -/
def seamAbove (fn n : Nat) : Nat :=
  if n ≤ 2 ^ 23 then 2 ^ 23 else ((n - 1) / seamStep fn (n - 1) + 1) * seamStep fn (n - 1)

/-- The place where the segment of a place begins: its left seam, or the lowest input. -/
def segStart (fn : Nat) (k : Int) : Int :=
  if 0 ≤ k then (seamBelow fn k.toNat : Int)
  else
    let p : Int := max lowKey (-(seamAbove fn k.natAbs : Int))
    match turnKey fn with
    | some t => if t ≤ k then max p t else p
    | none => p

/-! ## Order, clamp and internal result (R158)

Results are taken by their place, turned round where a function falls, so that the order to keep is always upward. -/

/-- Whether a function falls at a place: 1/x and 1/√x, and the gate functions below their turning point. -/
def falls (fn : Nat) (k : Int) : Bool :=
  match turnKey fn with
  | some t => decide (k < t)
  | none => decide (fn = 4 ∨ fn = 5)

/-- The last place of the monotone run of a place, an infinite input included (DEDUCED, log 5: R158 has the domains, and R156 gives the
special inputs their results). -/
def runEnd (fn : Nat) (k : Int) : Int :=
  match turnKey fn with
  | some t => if k < t then t - 1 else infKey
  | none => if fn = 4 ∧ k < 0 then -1 else infKey

/-- The first place of the monotone run: the lowest input of the domain, an infinite or zero one included. -/
def runStart (fn : Nat) (k : Int) : Int :=
  match turnKey fn with
  | some t => if k < t then -infKey else t
  | none =>
    match fn with
    | 4 => if k < 0 then -infKey else 1
    | 2 | 3 | 5 | 6 | 7 | 12 => 0
    | _ => -infKey

/-- The window of a place in the direction of the order. -/
def upWindow (fn : Nat) (k : Int) : Int × Int :=
  let w := funWindow fn (keyBits k)
  if falls fn k then (-w.2, -w.1) else w

/-- The highest result at a place that leaves every later input of the run one that its window holds (R153, R158). -/
def roof (fn : Nat) (k : Int) : Int :=
  (List.range (runEnd fn k - k).toNat).foldl (fun a i => min a (upWindow fn (k + 1 + i)).2) (upWindow fn k).2

/-- What is due at a place from the inputs before it: no result of the run lies below the least of any earlier window. -/
def floorAt (fn : Nat) (k : Int) : Int :=
  (List.range (k - runStart fn k).toNat).foldl (fun a i => max a (upWindow fn (k - 1 - i)).1) (upWindow fn k).1

/-- The free value of a place, brought between the two. -/
def funPick (fn : Nat) (k : Int) : Int :=
  let r := fpKey (Config.ffunInternal fn (keyBits k))
  max (floorAt fn k) (min (roof fn k) (if falls fn k then -r else r))

/-- The polynomial's result R at a place: inside a segment it keeps the order for every input (R158). -/
def polyResult (fn : Nat) (k : Int) : Int :=
  let p := segStart fn k
  (List.range (k - p).toNat).foldl (fun a i => max a (funPick fn (p + 1 + i))) (funPick fn p)

/-- The largest input below a segment, where the seam between them has a clamp: there is none at a turning point, at zero for 1/x,
or where the domain begins. -/
def leftInput (fn : Nat) (k : Int) : Option Int :=
  let p := segStart fn k
  let starts := decide (p = 0) && [2, 3, 4, 5, 6, 7, 12].contains fn
  if decide (p ≤ lowKey) || turnKey fn == some p || starts then none else some (p - 1)

/-- The internal result after the seam clamp, and whether the clamp replaced it (R158): the held value is the internal result of the
left segment at its last input.  `n` bounds the segments to the left. -/
def ffunClamped : Nat → Nat → Int → Int × Bool
  | 0, fn, k => (polyResult fn k, false)
  | n + 1, fn, k =>
    let r := polyResult fn k
    match leftInput fn k with
    | none => (r, false)
    | some q =>
      let a := (ffunClamped n fn q).1
      (max r a, decide (r < a))

/-- sin and cos keep no order: a free value inside the window. -/
def waveResult (fn : Nat) (k : Int) : Int :=
  let w := funWindow fn (keyBits k)
  max w.1 (min w.2 (fpKey (Config.ffunInternal fn (keyBits k))))

/-- The bits of a result by its place. A zero is negative where the exact result is: the gate functions and 1/x below zero. -/
def resultBits (fn : Nat) (k r : Int) : W32 :=
  if r = 0 ∧ k < 0 ∧ [4, 9, 10, 11].contains fn then 0x80000000 else keyBits r

/-- The FP32 internal result at the place of an input that is neither special nor zero. -/
def internalResult (fn : Nat) (k : Int) : W32 × Bool :=
  if fn = 14 ∨ fn = 15 then (resultBits fn k (waveResult fn k), false)
  else
    let r := ffunClamped 1200 fn k
    (resultBits fn k (if falls fn k then -r.1 else r.1), r.2)

/-- tanh, erf and sin are odd and cos is even: they are evaluated on |x| and the sign is applied after (R155). -/
def oddFn (fn : Nat) : Bool := decide (fn = 7 ∨ fn = 12 ∨ fn = 14)
def absFn (fn : Nat) : Bool := oddFn fn || decide (fn = 15)

/-- The FP32 internal result at an FP32 input that is neither special nor zero, with the clamp's replacement. -/
def ffunEval (fn : Nat) (x : W32) : W32 × Bool :=
  let r := internalResult fn (fpKey (if absFn fn then x &&& 0x7FFFFFFF else x))
  (if oddFn fn && x.getLsbD 31 then r.1 ^^^ 0x80000000 else r.1, r.2)

end Sys2Proof.Machine
end

