-- ==== Sys2Proof/Machine/Sf.lean ====
section
/-!
DEFINITION. Sys2Proof/Machine/Sf.lean: the special-function unit: FFUN (R84, R152 to R158, R479) and the row-statistics
buffer with FSTAT, FSTRD and FSTCLR (R160 to R169).  SF sticky bits: INV 0, DZ 1, OFL 2, UFL 3, INX 4, STAT_SAT 5.
-/
namespace Sys2Proof.Machine

/-! ## FFUN -/

/-- A function's result: the bits in TYPE, the sticky bits, and whether the seam clamp replaced it. -/
structure FunOut where
  bits : W32
  flags : Flags := 0
  clamp : Bool := false
  deriving DecidableEq, Repr

/-- FFUN of one element of TYPE t (R152, R154, R156): rounded once, to nearest even. -/
def ffun (fn : Nat) (t : ETy) (x : W32) : FunOut :=
  let wide := widen t x
  let v := Fp.decode .fp32 wide
  match ffunSpecial fn v with
  | some (r, f) =>
    let q := roundTo t 0 0 false (Fp.decode .fp32 r)
    { bits := q.1, flags := f }
  | none =>
    match (ffunExact fn v).map (roundTo t 0 0 false) with
    | some (b, 0) => { bits := b }
    | _ =>
      let e := ffunEval fn wide
      let q := roundTo t 0 0 false (Fp.decode .fp32 e.1)
      let huge := match Fp.decode .fp32 e.1 with
        | .inf _ => true
        | _ => false
      let tiny := match Fp.decode t q.1 with
        | .fin _ m _ => decide (m < 2 ^ t.ffmt.mb)
        | _ => false
      { bits := q.1
        flags := fINX ||| (q.2 &&& fOFL) ||| (if huge then fOFL else 0) ||| (if tiny then fUFL else 0)
        clamp := e.2 }

/-- Count seam-clamp replacements in COR_SF_CLAMP, which wraps. -/
def countClamps (s : State) (p : Fin 72) (n : Nat) : State :=
  if n = 0 then s else s.rmod .corSfClamp p.val 0 fun v => v + BitVec.ofNat 64 n

/-- FFUN: d := f(a) for every active element. -/
def runFfun (p : Fin 72) (o : OpV) (s : State) : RunOut :=
  let c := s.core p
  let t := tyOf o.type
  let fn := o.fx.toNat
  let r := elemWise o t (pureElem fun lane k =>
    ((ffun fn t (elemAt c t o.va lane k)).bits, (ffun fn t (elemAt c t o.va lane k)).flags)) c
  let clamps := (elemPlaces (vlOf o) t.perLane).countP fun pl =>
    activeAt c o pl.1 (decide (pl.2 = 1)) && (ffun fn t (elemAt c t o.va pl.1 pl.2)).clamp
  { st := countClamps (s.setCore p r.1) p clamps, sticky := r.2 }

/-! ## Row statistics -/

def statDefault (_ : Nat) : RowStat := {}

def statGet (c : Core) (i : Nat) : RowStat := smapGet statDefault c.rstat i

def statPut (c : Core) (i : Nat) (x : RowStat) : Core :=
  Core.clean { c with rstat := smapPut statDefault c.rstat i x } fun q => decide (q = .rstat i)

def fSTATSAT : Flags := 0x20

/-- FP32 of an unsigned integer, to nearest even. -/
def fp32OfNat (n : Nat) : W32 × Flags := roundFin .fp32 0 0 false false n 0 false

/-- A block of R162. -/
structure Block where
  max : W32
  sum : W32
  mean : W32 := 0
  m2 : W32 := 0
  n : Nat
  flags : Flags := 0
  clamps : Nat := 0
  deriving DecidableEq, Repr

def fsub (a b : W32) : W32 × Flags := eSub .fp32 0 0 a b
def fmul (a b : W32) : W32 × Flags := eMul .fp32 0 0 a b
def fadd (a b : W32) : W32 × Flags := eAdd .fp32 0 0 a b
def ffma (a b c : W32) : W32 × Flags := eFma .fp32 0 0 false a b c

/-- e^(x − m) of log-sum-exp. -/
def expDiff (x m : W32) : FunOut :=
  let d := fsub x m
  let r := ffun 1 .fp32 d.1
  { r with flags := r.flags ||| d.2 }

/-- The flags and clamps of a function over the active elements of a group. -/
def groupFlags (xs : List W32) (f : W32 → Flags) : Flags := xs.foldl (fun a x => a ||| f x) 0

/-- A block from the reduction `red` of the active elements `xs` (R162). -/
def blockOf (lse : Bool) (xs : List W32) (red : RedOp → (W32 → W32) → W32 × Flags) : Block :=
  let mx := (red .max id).1
  if lse then
    if mx = 0xFF800000 then { max := mx, sum := 0, n := xs.length }
    else
      let sm := red .sum fun x => (expDiff x mx).bits
      { max := mx, sum := sm.1, n := xs.length, flags := sm.2 ||| groupFlags xs fun x => (expDiff x mx).flags,
        clamps := xs.countP fun x => (expDiff x mx).clamp }
  else
    let sm := red .sum id
    let nb := fp32OfNat xs.length
    let mean := fp32Div sm.1 nb.1
    let dev (x : W32) : W32 × Flags :=
      let d := fsub x mean.1
      let q := fmul d.1 d.1
      (q.1, d.2 ||| q.2)
    let m2 := red .sum fun x => (dev x).1
    { max := mx, sum := sm.1, mean := mean.1, m2 := m2.1, n := xs.length,
      flags := sm.2 ||| nb.2 ||| mean.2 ||| m2.2 ||| groupFlags xs fun x => (dev x).2 }

def maxNan (a b : W32) : W32 := eMinMax .fp32 true false a b

/-- The moments of R163. -/
def mergeMoments (e : RowStat) (b : Block) (n : Nat) : RowStat × Flags :=
  let nb := fp32OfNat b.n
  let nn := fp32OfNat n
  let ec := fp32OfNat e.count.toNat
  let w := fp32Div nb.1 nn.1
  let delta := fsub b.mean e.mean
  let d2 := fmul delta.1 delta.1
  let u := fmul d2.1 ec.1
  let mean := ffma delta.1 w.1 e.mean
  let m2s := fadd e.m2 b.m2
  let m2 := ffma u.1 w.1 m2s.1
  let sm := fadd e.sum b.sum
  ({ e with max := maxNan e.max b.max, sum := sm.1, mean := mean.1, m2 := m2.1, count := BitVec.ofNat 32 n, pmax := e.max },
   nb.2 ||| nn.2 ||| ec.2 ||| w.2 ||| delta.2 ||| d2.2 ||| u.2 ||| mean.2 ||| m2s.2 ||| m2.2 ||| sm.2)

/-- Log-sum-exp of R163, with the seam clamps of its exponential; −0 orders below +0 (R131). -/
def mergeLse (e : RowStat) (b : Block) (n : Nat) : RowStat × Flags × Nat :=
  let em := Fp.decode .fp32 e.max
  let bm := Fp.decode .fp32 b.max
  let cnt := BitVec.ofNat 32 n
  if em.isNan || bm.isNan then
    ({ e with max := 0x7FC00000, sum := 0x7FC00000, count := cnt, pmax := e.max }, 0, 0)
  else
    let blockHi := fpBelow em bm
    let hi : W32 × W32 := if blockHi then (b.max, b.sum) else (e.max, e.sum)
    let lo : W32 × W32 := if blockHi then (e.max, e.sum) else (b.max, b.sum)
    let f : FunOut :=
      if lo.1 = 0xFF800000 then { bits := 0 }
      else if Fp.cmp em bm = 0 then { bits := 0x3F800000 }
      else expDiff lo.1 hi.1
    let sm := ffma lo.2 f.bits hi.2
    ({ e with max := hi.1, sum := sm.1, count := cnt, pmax := e.max }, f.flags ||| sm.2, if f.clamp then 1 else 0)

/-- What a merge gives. -/
structure MergeOut where
  entry : RowStat
  flags : Flags
  clamps : Nat
  deriving DecidableEq, Repr

/-- Merge a block into an entry (R163); every merge records PMAX (R178). KIND 1 moments, 2 log-sum-exp. -/
def mergeBlock (e : RowStat) (lse : Bool) (b : Block) : MergeOut :=
  let kind : BitVec 2 := if lse then 2 else 1
  if e.kind = 0 then
    ⟨{ max := b.max, sum := b.sum, mean := b.mean, m2 := b.m2, count := BitVec.ofNat 32 b.n, kind := kind, pmax := e.max },
     b.flags, b.clamps⟩
  else
    let total := e.count.toNat + b.n
    let n := min total (2 ^ 32 - 1)
    let sat : Flags := if n < total then fSTATSAT else 0
    if lse then
      let r := mergeLse e b n
      ⟨r.1, b.flags ||| r.2.1 ||| sat, b.clamps + r.2.2⟩
    else
      let r := mergeMoments e b n
      ⟨r.1, b.flags ||| r.2 ||| sat, b.clamps⟩

def statKindFlt (i : Nat) : Flt := ⟨0x0304, BitVec.ofNat 32 i⟩

/-- Whether an entry refuses a merge of a kind. -/
def kindClash (e : RowStat) (lse : Bool) : Bool := decide (e.kind ≠ 0) && decide (e.kind ≠ (if lse then 2 else 1))

/-- The active elements of group g, widened to FP32, in element order. -/
def groupElems (c : Core) (o : OpV) (t : ETy) (gsh g : Nat) : List W32 :=
  let w := 512 / 2 ^ gsh
  (elemPlaces (vlOf o) t.perLane).filterMap fun pl =>
    if g * w ≤ pl.1 ∧ pl.1 < (g + 1) * w ∧ activeAt c o pl.1 (decide (pl.2 = 1)) = true then
      some (widen t (elemAt c t o.va pl.1 pl.2))
    else none

def groupBlock (c : Core) (o : OpV) (t : ETy) (lse : Bool) (gsh g : Nat) : Block :=
  blockOf lse (groupElems c o t gsh g) fun op f => reduceLanes c o t op false f (g * (512 / 2 ^ gsh)) (9 - gsh)

/-- FSTAT (R161 to R163): the blocks merge in ascending group order; a clash of kinds changes no entry. -/
def runFstat (p : Fin 72) (o : OpV) (s : State) : RunOut :=
  let c := s.core p
  let t := tyOf o.type
  let first := bitsN o.fx 0 12
  let gsh := bitsN o.fx 12 3
  let lse := bitB o.fx 15
  let groups := (List.range (2 ^ gsh)).filter fun g => !(groupElems c o t gsh g).isEmpty
  match groups.find? fun g => kindClash (statGet c (first + g)) lse with
  | some g => ranFault s (statKindFlt (first + g))
  | none =>
    let r := groups.foldl (fun (a : Core × Flags × Nat) g =>
      let m := mergeBlock (statGet a.1 (first + g)) lse (groupBlock c o t lse gsh g)
      (statPut a.1 (first + g) m.entry, a.2.1 ||| m.flags, a.2.2 + m.clamps)) (c, 0, 0)
    { st := countClamps (s.setCore p r.1) p r.2.2, sticky := r.2.1 &&& 0x3F }

/-- FSTRD (R165): lanes 0 to 4 := maximum, sum, mean, M2 and count; lanes 5 to 511 := zero. -/
def runFstrd (p : Fin 72) (o : OpV) (s : State) : RunOut :=
  let e := statGet (s.core p) (bitsN o.fx 0 12)
  ranOk (s.modCore p fun c => setWholeReg c o.vd [e.max, e.sum, e.mean, e.m2, (fp32OfNat e.count.toNat).1])

/-- Set a run of entries empty, with PMAX = −∞. -/
def clearStats (c : Core) (first n : Nat) : Core :=
  Core.clean { c with rstat := c.rstat.filter fun e => !decide (first ≤ e.1 ∧ e.1 < first + n) } fun q => match q with
    | .rstat i => decide (first ≤ i ∧ i < first + n)
    | _ => false

/-- FSTCLR (R166). -/
def runFstclr (p : Fin 72) (e : Entry) (o : OpV) (s : State) : RunOut :=
  ranOk (s.modCore p fun c => clearStats c (bitsN o.fx 0 12) e.b.toNat)

/-- The instructions of group 0x7. -/
def runSf (p : Fin 72) (e : Entry) (o : OpV) (s : State) : RunOut :=
  match e.op with
  | .ffun => runFfun p o s
  | .fstat => runFstat p o s
  | .fstrd => runFstrd p o s
  | _ => runFstclr p e o s

end Sys2Proof.Machine
end

