-- ==== Sys2Proof/Machine/Chain.lean ====
section
/-!
DEFINITION. Sys2Proof/Machine/Chain.lean: chain programs: the image and its validation by VCHLD (R171 to R179), the
stages (R176 to R178, R188, R189), the epilogue of a group (R180, R184, R186) and the prologue (R185).
-/
namespace Sys2Proof.Machine

/-! ## Operand entries and stages (R173, R174) -/

def opAddr (w : Words) : Nat := bitsN w.1 0 48
def opFmt (w : Words) : ETy := tyOf (w.1.extractLsb' 48 4)
def opPercol (w : Words) : Bool := bitB w.1 52
def opWr (w : Words) : Bool := bitB w.1 53
def opBitmap (w : Words) : Bool := bitB w.1 54
def opRs (w : Words) : Nat := bitsN w.2 0 20
def opTs (w : Words) : Nat := bitsN w.2 20 20
def opGs (w : Words) : Nat := bitsN w.2 40 20

/-- Element address of R173. -/
def opElem (w : Words) (r t g c : Nat) : Nat :=
  opAddr w + r * opRs w + t * opTs w + g * opGs w + if opPercol w then c * (opFmt w).bytes else 0

def stRnd (w : Words) : Nat := bitsN w.1 10 3
def stSat (w : Words) : Bool := bitB w.1 13
def stSA (w : Words) : Nat := bitsN w.1 14 4
def stSB (w : Words) : Nat := bitsN w.1 18 4
def stSC (w : Words) : Nat := bitsN w.1 22 4
def stDst (w : Words) : Bool := bitB w.1 26
def stLast (w : Words) : Bool := bitB w.1 27
def stFn (w : Words) : Nat := bitsN w.1 28 8
def stImm (w : Words) : W32 := w.2.extractLsb' 0 32

/-- How many sources an operation uses. -/
def stArity (op : Nat) : Nat :=
  match op with
  | 1 | 2 | 3 | 5 | 6 => 2
  | 4 => 3
  | 11 => 0
  | _ => 1

/-- The source codes of a stage. -/
def stSources (w : Words) : List Nat := [stSA w, stSB w, stSC w].take (stArity (stOp w))

/-- Whether a stage writes W or Y. -/
def stWrites (op : Nat) : Bool := decide (op ≤ 9)

/-- The type of the prologue's output: that of the last stage that writes W. -/
def proOut (g : ChainProg) : ETy :=
  (progStages g false).foldl (fun f w => if stWrites (stOp w) && !stDst w then stFmt w else f) (tyOf g.pinFmt)

/-! ## Validation (R179) -/

def ty8 : ETy → Bool
  | .e4m3 | .e5m2 | .int8 => true
  | _ => false

/-- FMT allowed for an operation, where the operation alone decides it (R176). -/
def opFmtOk (op : Nat) (f : ETy) : Bool :=
  match op with
  | 1 | 2 | 3 | 5 | 6 => tyArith f
  | 4 | 8 | 10 | 11 => tyFp f
  | 7 => decide (f ≠ .int4)
  | 9 => decide (f = .int32)
  | _ => true

/-- Static format of a source: W, Y and what the section gives. -/
def srcFmt (g : ChainProg) (wf yf : ETy) (code : Nat) : ETy :=
  match code with
  | 0 => wf
  | 1 => yf
  | 2 | 5 => .fp32
  | 3 | 4 => tyOf g.einFmt
  | n => opFmt (g.opnds.getD (n - 8) (0, 0))

def srcCodeOk (epi : Bool) (code fn : Nat) : Bool :=
  match code with
  | 0 | 1 | 2 => true
  | 3 | 4 => epi
  | 5 => decide (fn / 16 < 11) && (epi || decide (fn / 16 ≠ 10))
  | n => decide (8 ≤ n ∧ n ≤ 13)

/-- The operand entries that a stage uses. -/
def stEntries (w : Words) : List Nat :=
  ((stSources w).filter fun c => 8 ≤ c).map (· - 8) ++ if stOp w = 12 ∨ stOp w = 14 then [stFn w % 8] else []

/-- The reason that a stage fails for, in ascending reason order; `seen` has the stages before it. A reserved RND counts as a reserved
field (DEDUCED, log 138). -/
def stageBad (g : ChainProg) (epi : Bool) (seen : List Words) (wf yf : ETy) (w : Words) : Option Nat :=
  let op := stOp w
  let fmtCode := bitsN w.1 6 4
  let fs := (stSources w).map (srcFmt g wf yf)
  let unused := [stSA w, stSB w, stSC w].drop (stArity op)
  let entry := g.opnds.getD (stFn w % 8) (0, 0)
  let after := seen.any fun x => stOp x = 11
  if decide (bitsN w.1 36 28 ≠ 0) || decide (bitsN w.2 32 32 ≠ 0) || unused.any (· ≠ 0) || decide (4 < stRnd w) then some 2
  else if decide (op = 0) || decide (14 < op) || decide (7 < fmtCode) || !opFmtOk op (stFmt w) ||
      (decide (op = 12) && decide (stFmt w ≠ opFmt entry)) || (decide (op = 13) && decide (fmtCode ≠ g.einFmt.toNat)) ||
      (decide (op = 14) && fs.any (· ≠ stFmt w)) ||
      (!(decide (op = 7) || decide (op = 12) || decide (op = 14)) && fs.any ty8) ||
      (decide (op = 11) && ty8 wf) then some 3
  else if !(stSources w).all (fun c => srcCodeOk epi c (stFn w)) ||
      ((decide (op = 8) || decide (op = 9)) && decide (1 < stSA w)) then some 4
  else if (stEntries w).any (fun i => decide (5 < i) || decide (opAddr (g.opnds.getD i (0, 0)) = 0)) ||
      (decide (op = 12) && !opWr entry) || (decide (op = 14) && !opBitmap entry) ||
      ((decide (op = 12) || decide (op = 13)) && fs.any (· ≠ stFmt w)) then some 5
  else if (decide (op = 11) && after) || (!epi && (decide (op = 10) || decide (op = 11) || decide (op = 13) ||
      decide (op = 14) || stLast w)) || (decide (op = 10) && after) then some 6
  else if decide (op = 10) && seen.any (fun x => decide (stOp x = 10) && decide (stFn x % 2 ≠ stFn w % 2)) then some 7
  else none

/-- Walk the stages of a section with the formats of W and Y; `lastRun` says whether LAST stages and the stages after
HOLD run. -/
def sectionBad (g : ChainProg) (epi lastRun : Bool) : Nat → List Words → List Words → ETy → ETy → Option (Nat × Nat)
  | _, _, [], _, _ => none
  | i, seen, w :: t, wf, yf =>
    let after := seen.any fun x => stOp x = 11
    if (stLast w && epi || after) && !lastRun then sectionBad g epi lastRun (i + 1) (seen ++ [w]) t wf yf
    else match stageBad g epi seen wf yf w with
      | some r => some (i, r)
      | none =>
        let writes := stWrites (stOp w)
        let wf' := if stOp w = 11 then stFmt w else if writes && !stDst w then stFmt w else wf
        let yf' := if stOp w = 11 then .fp32 else if writes && stDst w then stFmt w else yf
        sectionBad g epi lastRun (i + 1) (seen ++ [w]) t wf' yf'

/-- The earlier of two failures. -/
def firstBad (a b : Option (Nat × Nat)) : Option (Nat × Nat) :=
  match a, b with
  | none, y => y
  | x, none => x
  | some x, some y => some (if y.1 < x.1 then y else x)

/-- Stage failures: prologue, then epilogue with and without its LAST stages. -/
def stagesBad (g : ChainProg) : Option (Nat × Nat) :=
  let pro := sectionBad g false true 0 [] (progStages g false) (tyOf g.pinFmt) .fp32
  let proEnd := if g.pro = 0 then none
    else match proOut g with
      | .bf16 | .fp16 | .e4m3 | .e5m2 | .int8 => none
      | _ => some (g.pro - 1, 3)
  let epi (l : Bool) := sectionBad g true l g.pro [] (progStages g true) (tyOf g.einFmt) .fp32
  (pro.or proEnd).or (firstBad (epi true) (if 1 < g.eTiles then epi false else none))

/-- Highest column that an entry is used with: 63 in the epilogue, the streamed row's in the prologue. -/
def opCols (g : ChainProg) (i : Nat) : Nat :=
  if (progStages g false).any (fun w => (stEntries w).contains i) then (if ty8 (proOut g) then 256 else 128) else 64

/-- Planes of a bitmap entry (R208). -/
def opPlanes (g : ChainProg) (i : Nat) : Nat :=
  (progStages g true).foldl (fun n w =>
    if stOp w = 14 ∧ stFn w % 8 = i then
      let tiles := 2 ^ (stFn w / 16 % 4)
      max n ((g.eTiles + tiles - 1) / tiles)
    else n) 1

/-- Bytes of an entry's span (R179 reason 5). -/
def opSpan (g : ChainProg) (i : Nat) (w : Words) : Nat :=
  if opBitmap w then 512 * opPlanes g i
  else 4095 * opRs w + (g.eTiles - 1) * opTs w + 255 * opGs w +
    (if opPercol w then (opCols g i - 1) * (opFmt w).bytes else 0) + (opFmt w).bytes

/-- The alignment of an entry. -/
def opAlign (w : Words) : Nat := if opBitmap w then 64 else max 1 (opFmt w).bytes

/-- A field of an operand entry that must be zero. -/
def opReserved (w : Words) : Bool :=
  decide (bitsN w.1 55 9 ≠ 0) || decide (bitsN w.2 60 4 ≠ 0) ||
  (opBitmap w && (decide (bitsN w.1 48 4 ≠ 0) || decide (w.2 ≠ 0)))

/-- The FMT code of an entry. -/
def opFmtBad (w : Words) : Bool := decide (6 = bitsN w.1 48 4) || decide (7 < bitsN w.1 48 4)

def chainMagic : Nat := 0x43484149

/-- The program of an image, unchecked. -/
def chainParse (bs : List Byte) : ChainProg :=
  let w (o : Nat) : W64 := BitVec.ofNat 64 (fieldAt bs o 8)
  let pro := fieldAt bs 4 1
  let epi := fieldAt bs 5 1
  { pro, epi, eTiles := fieldAt bs 6 2, statBase := fieldAt bs 8 2, pstatBase := fieldAt bs 0xA 2,
    holdRows := fieldAt bs 0xC 2, holdLen := fieldAt bs 0xE 2, holdBase := fieldAt bs 0x10 8,
    pinFmt := BitVec.ofNat 4 (fieldAt bs 0x18 1), einFmt := BitVec.ofNat 4 (fieldAt bs 0x19 1),
    opnds := (List.range 6).map fun i => (w (0x20 + 16 * i), w (0x28 + 16 * i)),
    stages := (List.range (pro + epi)).map fun i => (w (0x80 + 16 * i), w (0x88 + 16 * i)) }

/-- Reason 1: MAGIC, counts, tiles and base entries, and the header's other ranges, which R179 gives no reason of their own (DEDUCED, log
138). -/
def headerBad1 (bs : List Byte) (g : ChainProg) : Bool :=
  let pin := fieldAt bs 0x18 1
  let ein := fieldAt bs 0x19 1
  decide (fieldAt bs 0 4 ≠ chainMagic) || decide (32 < g.pro) || decide (32 < g.epi) || decide (g.pro + g.epi = 0) ||
  decide (32 < g.pro + g.epi) || decide (g.eTiles = 0) || decide (4096 < g.eTiles) || decide (4095 < g.statBase) ||
  decide (4095 < g.pstatBase) || decide (4096 < g.holdRows) || decide (g.holdLen % 64 ≠ 0) ||
  (decide (0 < g.pro) && decide (5 < pin)) || (decide (0 < g.epi) && decide (ein ≠ 0) && decide (ein ≠ 7)) ||
  g.opnds.any fun w => decide (opAddr w ≠ 0) && opFmtBad w

/-- Reason 2: fields that must be zero. -/
def headerBad2 (bs : List Byte) (g : ChainProg) : Bool :=
  decide (fieldAt bs 0x1A 6 ≠ 0) || (decide (g.pro = 0) && decide (fieldAt bs 0x18 1 ≠ 0)) ||
  (decide (g.epi = 0) && decide (fieldAt bs 0x19 1 ≠ 0)) || g.opnds.any opReserved

/-- Reason 5 for the entries and the window. -/
def headerBad5 (p : Fin 72) (s : State) (g : ChainProg) : Bool :=
  (List.range 6).any (fun i =>
    let w := g.opnds.getD i (0, 0)
    decide (opAddr w ≠ 0) && (decide (opAddr w % opAlign w ≠ 0) || !ownSpan s p (opAddr w) (opSpan g i w))) ||
  ((holdAt g).isSome && (decide (g.holdBase % 256 ≠ 0) ||
    !ownSpan s p g.holdBase (g.holdRows * g.holdLen * (holdFmt g).bytes)))

/-- Reason 6 for the HOLD fields. -/
def headerBad6 (g : ChainProg) : Bool :=
  let any0 := decide (g.holdRows ≠ 0) || decide (g.holdLen ≠ 0) || decide (g.holdBase ≠ 0)
  let all := decide (g.holdRows ≠ 0) && decide (g.holdLen ≠ 0) && decide (g.holdBase ≠ 0)
  decide (32768 < g.holdLen) || (if (holdAt g).isSome then !all else any0)

def chainFormatFlt (slot reason stage : Nat) : Flt := ⟨0x0306, BitVec.ofNat 32 (stage + reason * 256 + slot * 65536)⟩
def chainHoldFlt (slot tiles : Nat) : Flt := ⟨0x0307, BitVec.ofNat 32 (tiles % 8192 + slot * 65536)⟩
def chainUseFlt (slot sub : Nat) : Flt := ⟨0x0308, BitVec.ofNat 32 (sub + slot * 65536)⟩
def chainAddrFlt (a : Nat) : Flt := ⟨0x0309, BitVec.ofNat 32 a⟩

/-- The first failure of a whole program. -/
def chainBad (p : Fin 72) (s : State) (slot : Nat) (bs : List Byte) (g : ChainProg) : Option Flt :=
  if headerBad1 bs g then some (chainFormatFlt slot 1 0xFF)
  else if headerBad2 bs g then some (chainFormatFlt slot 2 0xFF)
  else if headerBad5 p s g then some (chainFormatFlt slot 5 0xFF)
  else if headerBad6 g then some (chainFormatFlt slot 6 0xFF)
  else match stagesBad g with
    | some (i, r) => some (chainFormatFlt slot r i)
    | none =>
      if (holdAt g).isSome ∧ g.holdLen < g.eTiles * 64 then some (chainHoldFlt slot g.eTiles) else none

def slotClear (c : Core) (n : Nat) : Core := { c with slots := c.slots.filter fun e => e.1 ≠ n }

/-- Whether a span lies in the core's own gallery, in parts that the core may reach (R172, R217). -/
def ownGallery (s : State) (p : Fin 72) (a len : Nat) : Bool :=
  ownSpan s p a len && (spanBlocks a len).all fun b => decide ((galOf b).map (·.1) = logicalOf s p)

/-- VCHLD: load and validate a program. A refusal leaves the slot empty (R83). -/
def runVchld (p : Fin 72) (e : Entry) (o : OpV) (s : State) : RunOut :=
  let slot := o.fx.toNat
  let a := e.b.toNat
  let refuse (s : State) (f : Flt) : RunOut := ranFault (s.modCore p fun c => slotClear c slot) f
  if decide (a % 64 ≠ 0) || !ownGallery s p a 128 then refuse s (chainFormatFlt slot 5 0xFF)
  else
    let r := devRead (.core p) s a 128
    let g0 := chainParse r.2.1
    match r.2.2 with
    | some f => refuse r.1 f
    | none =>
      if headerBad1 r.2.1 g0 then refuse r.1 (chainFormatFlt slot 1 0xFF)
      else
        let len := 128 + 16 * (g0.pro + g0.epi)
        if !ownGallery s p a len then refuse r.1 (chainFormatFlt slot 5 0xFF)
        else
          let q := devRead (.core p) r.1 a len
          let g := chainParse q.2.1
          match q.2.2.or (chainBad p q.1 slot q.2.1 g) with
          | some f => refuse q.1 f
          | none => ranOk (q.1.modCore p fun c => slotPut c slot g)

/-! ## Running stages (R177, R178, R188, R189) -/

/-- One row, or one held tile of a row, in a group: its row index, band index, position in the group, TAG, sums, AB row, and W and Y. -/
structure WRow where
  r : Nat
  t : Nat
  pos : Nat
  tag : Nat
  csum : List W32
  ab : List W32
  w : List W32
  wf : ETy
  y : List W32
  yf : ETy
  deriving DecidableEq, Repr

/-- The module while a group runs: sticky bits of the VE and the SF, seam-clamp count, and the first fault. -/
structure Work where
  st : State
  ve : Flags := 0
  sf : Flags := 0
  clamps : Nat := 0
  err : Option Flt := none
  deriving DecidableEq, Repr

/-- Read places for a chain. -/
def Work.reads (wk : Work) (p : Fin 72) (l : List Place) : Work :=
  match wk.err with
  | some _ => wk
  | none =>
    if eccFree (wk.st.core p) then wk
    else
      let r := eccRead wk.st p l
      { wk with st := r.1, err := r.2 }

/-- What a section needs to know: the core, the slot's program, the section, elements per row, folio copies, ABR, and whether held
tiles run through the stages after HOLD. -/
structure ChainCtx where
  p : Fin 72
  slot : Nat
  g : ChainProg
  epi : Bool
  n : Nat
  sel : BitVec 2
  abr : Nat
  held : Bool := false
  deriving DecidableEq, Repr

def statBaseOf (x : ChainCtx) : Nat := if x.epi then x.g.statBase else x.g.pstatBase

/-- A derived field's value, the VE and SF sticky bits of its sequence, and its clamps. -/
structure StatVal where
  v : W32
  ve : Flags := 0
  sf : Flags := 0
  clamps : Nat := 0
  deriving DecidableEq, Repr

def cl (f : FunOut) : Nat := if f.clamp then 1 else 0

/-- VAR: M2 × 1/COUNT. -/
def statVar (e : RowStat) : StatVal :=
  let cnt := fp32OfNat e.count.toNat
  let f := ffun 4 .fp32 cnt.1
  let m := fmul e.m2 f.bits
  { v := m.1, ve := cnt.2 ||| m.2, sf := f.flags, clamps := cl f }

/-- 1/√(x + IMM) after a value's own sequence. -/
def statRsqrt (x : StatVal) (imm : W32) : StatVal :=
  let a := fadd x.v imm
  let f := ffun 5 .fp32 a.1
  { v := f.bits, ve := x.ve ||| a.2, sf := x.sf ||| f.flags, clamps := x.clamps + cl f }

/-- The fields of R178. -/
def statField (e : RowStat) (field : Nat) (imm : W32) : StatVal :=
  match field with
  | 0 => { v := e.max }
  | 1 => { v := e.sum }
  | 2 => { v := e.mean }
  | 3 => { v := e.m2 }
  | 4 =>
    let c := fp32OfNat e.count.toNat
    { v := c.1, ve := c.2 }
  | 5 => statVar e
  | 6 => statRsqrt (statVar e) imm
  | 7 =>
    let x := statVar e
    let m := ffma e.mean e.mean x.v
    statRsqrt { x with v := m.1, ve := x.ve ||| m.2 } imm
  | 8 =>
    let f := ffun 4 .fp32 e.sum
    { v := f.bits, sf := f.flags, clamps := cl f }
  | 9 =>
    let f := ffun 3 .fp32 e.sum
    let a := fadd e.max f.bits
    { v := a.1, ve := a.2, sf := f.flags, clamps := cl f }
  | _ =>
    if eCmp .fp32 0 e.pmax e.max then { v := 0x3F800000 }
    else
      let d := fsub e.pmax e.max
      let f := ffun 1 .fp32 d.1
      { v := f.bits, ve := d.2, sf := f.flags, clamps := cl f }

/-- The permitted places of R179 reason 5, checked again at every access (R193). -/
def chainAccess (x : ChainCtx) (wk : Work) (a len align : Nat) : Option Flt :=
  if decide (a % align ≠ 0) || !ownSpan wk.st x.p a len then some (chainAddrFlt a) else none

/-- Read one element for a chain. -/
def chainReadElem (x : ChainCtx) (f : ETy) (acc : Work × List W32) (a : Nat) : Work × List W32 :=
  match acc.1.err with
  | some _ => acc
  | none =>
    match chainAccess x acc.1 a f.bytes f.bytes with
    | some flt => ({ acc.1 with err := some flt }, acc.2)
    | none =>
      let r := devRead (.core x.p) acc.1.st a f.bytes
      ({ acc.1 with st := r.1, err := r.2.2 }, acc.2 ++ [BitVec.ofNat 32 (leNat r.2.1)])

/-- The STAT value of a stage, computed once per row per stage: its sources share it, and so do the held tiles of a row, of which the
first counts its seam clamps (R178). -/
def stageStatVal (x : ChainCtx) (w : Words) (row : WRow) (wk : Work) : Work × W32 :=
  if (stSources w).contains 5 && decide (stOp w ≠ 11) then
    let i := statBaseOf x + row.r
    let wk1 := wk.reads x.p [.rstat i]
    match wk1.err with
    | some _ => (wk1, 0)
    | none =>
      let v := statField (statGet (wk1.st.core x.p) i) (stFn w / 16) (stImm w)
      let n := if x.held && decide (row.t ≠ 0) then 0 else v.clamps
      ({ wk1 with ve := wk1.ve ||| v.ve, sf := wk1.sf ||| v.sf, clamps := wk1.clamps + n }, v.v)
  else (wk, 0)

/-- A source's elements with their format; `sv` is the stage's STAT value. -/
def stageSource (x : ChainCtx) (w : Words) (row : WRow) (sv : W32) (wk : Work) (code : Nat) : Work × List W32 × ETy :=
  match code with
  | 0 => (wk, row.w, row.wf)
  | 1 => (wk, row.y, row.yf)
  | 2 => (wk, List.replicate x.n (stImm w), .fp32)
  | 3 => (wk, row.csum, tyOf x.g.einFmt)
  | 4 => (wk.reads x.p (abPlaces (x.abr + row.r)), row.ab, tyOf x.g.einFmt)
  | 5 => (wk, List.replicate x.n sv, .fp32)
  | k =>
    let o := x.g.opnds.getD (k - 8) (0, 0)
    if opPercol o then
      let r := (List.range x.n).foldl (fun acc c => chainReadElem x (opFmt o) acc (opElem o row.r row.t row.tag c)) (wk, [])
      (r.1, r.2, opFmt o)
    else
      let r := chainReadElem x (opFmt o) (wk, []) (opElem o row.r row.t row.tag 0)
      (r.1, List.replicate x.n (r.2.headD 0), opFmt o)

/-- A draw of a chain position where a rounding step needs one (R189). -/
def chainDraw (rnd : Nat) (need : Bool) (g : Nat) (c : Core) : W32 × Core :=
  if rnd = 4 && need then drawGen c g else (0, c)

/-- Convert one source to FMT as VCVT would. -/
def chainConv (fmt : ETy) (w : Words) (g : Nat) (acc : Core × Flags × List W32) (x : W32 × ETy) :
    Core × Flags × List W32 :=
  let d := chainDraw (stRnd w) (!convExact fmt x.2) g acc.1
  let r := convert fmt x.2 (stRnd w) d.1 (stSat w) x.1
  (d.2, acc.2.1 ||| r.2, acc.2.2 ++ [r.1])

/-- The result of an operation's element on converted sources (R176), with its sticky bits, clamps, and the core after
its draw. -/
def chainElem (x : ChainCtx) (w : Words) (g : Nat) (c : Core) (v : List W32) : W32 × Flags × Nat × Core :=
  let f := stFmt w
  let a := v.getD 0 0
  let b := v.getD 1 0
  let rounds (k : W32 → W32 × Flags) : W32 × Flags × Nat × Core :=
    let d := chainDraw (stRnd w) (decide (f ≠ .int32)) g c
    ((k d.1).1, (k d.1).2, 0, d.2)
  match stOp w with
  | 1 => rounds fun d => eAdd f (stRnd w) d a b
  | 2 => rounds fun d => eSub f (stRnd w) d a b
  | 3 => rounds fun d => eMul f (stRnd w) d a b
  | 4 => rounds fun d => eFma f (stRnd w) d false a b (v.getD 2 0)
  | 5 => (eMinMax f true (decide (stFn w % 2 = 1)) a b, 0, 0, c)
  | 6 => (eMinMax f false (decide (stFn w % 2 = 1)) a b, 0, 0, c)
  | 8 =>
    let r := ffun (stFn w % 16) f a
    (r.bits, r.flags, cl r, c)
  | 9 =>
    let r := lookup c x.sel (stFn w % 2) a
    (r.1, r.2, 0, c)
  | _ => (a, 0, 0, c)

/-- Flags that a stage's unit keeps: the SF has no SAT_HIT. -/
def sfKeep : Flags := 0x1F

/-- The stages FUN and STAT run in the SF. -/
def stageSf (w : Words) : Bool := decide (stOp w = 8) || decide (stOp w = 10)

/-- A stage of the SF keeps the sticky bits of its source conversions in its own status, which has no SAT_HIT (R123, R177; DEDUCED, log
134). -/
def addFlags (sf : Bool) (f : Flags) (wk : Work) : Work :=
  if sf then { wk with sf := wk.sf ||| (f &&& sfKeep) } else { wk with ve := wk.ve ||| f }

/-- Whether an element of a stage takes a draw: at a source conversion or at the rounding of its result (R189). -/
def stageDraws (w : Words) (conv : Bool) (fs : List ETy) : Bool :=
  decide (stRnd w = 4) && ((conv && fs.any fun f => !convExact (stFmt w) f) ||
    (decide (1 ≤ stOp w ∧ stOp w ≤ 4) && decide (stFmt w ≠ .int32)))

/-- The folio entry that an element of a LUT stage looks up. -/
def lutPlaces (sel : BitVec 2) (t : Nat) (v : W32) : List Place :=
  if v.toNat < 256 then [.tbl (t * 512 + activeCopy sel t * 256 + v.toNat)] else []

/-- An operation's elements: the sources of element e converted and then the operation, element by element. -/
def stageElems (x : ChainCtx) (w : Words) (pos : Nat) (conv : Bool) (srcs : List (List W32 × ETy)) (wk : Work) :
    Work × List W32 :=
  (List.range x.n).foldl (fun acc e =>
    let g := 512 + pos * x.n + e
    let wk0 := acc.1.reads x.p (if stageDraws w conv (srcs.map (·.2)) then [.gen g] else [])
    let src := srcs.map fun q => (q.1.getD e 0, q.2)
    let c0 := wk0.st.core x.p
    let v := if conv then src.foldl (chainConv (stFmt w) w g) (c0, 0, []) else (c0, 0, src.map (·.1))
    let wk1 := if stOp w = 9 then
        ({ wk0 with st := wk0.st.setCore x.p v.1 }).reads x.p (lutPlaces x.sel (stFn w % 2) (v.2.2.headD 0))
      else wk0
    match wk1.err with
    | some _ => (wk1, acc.2)
    | none =>
      let r := chainElem x w g (if stOp w = 9 then wk1.st.core x.p else v.1) v.2.2
      (addFlags (stageSf w) (v.2.1 ||| r.2.1) { wk1 with st := wk1.st.setCore x.p r.2.2.2, clamps := wk1.clamps + r.2.2.1 },
        acc.2 ++ [r.1])) (wk, [])

/-- The merge of a STAT stage: FSTAT with one group of the row's elements (R188). -/
def stageStat (x : ChainCtx) (w : Words) (row : WRow) (xs : List W32) (wk : Work) : Work :=
  let lse := decide (stFn w % 2 = 1)
  let i := statBaseOf x + row.r
  let wk := wk.reads x.p [.rstat i]
  let e := statGet (wk.st.core x.p) i
  if wk.err.isSome then wk
  else if kindClash e lse then { wk with err := some (statKindFlt i) }
  else
    let wide := xs.map (widen (stFmt w))
    let red (op : RedOp) (f : W32 → W32) : W32 × Flags :=
      let r := pairTree (redStep .fp32 op false) 6 (wide.map f, 0)
      (r.1.headD 0, r.2)
    let m := mergeBlock e lse (blockOf lse wide red)
    { wk with st := wk.st.modCore x.p fun c => statPut c i m.entry, sf := wk.sf ||| (m.flags &&& 0x3F),
              clamps := wk.clamps + m.clamps }

/-- Write one element for a chain. -/
def chainWrite (x : ChainCtx) (f : ETy) (wk : Work) (a : Nat) (v : W32) : Work :=
  match wk.err with
  | some _ => wk
  | none =>
    match chainAccess x wk a f.bytes f.bytes with
    | some flt => { wk with err := some flt }
    | none =>
      let r := devWrite (.core x.p) wk.st (cellsAt a (leBytes f.bytes v.toNat))
      { wk with st := r.1, err := r.2 }

/-- STORE: each element to its address; with PERCOL = 0 every element names one address, which then holds one of
them (a free choice). -/
def stageStore (x : ChainCtx) (w : Words) (row : WRow) (xs : List W32) (wk : Work) : Work :=
  let o := x.g.opnds.getD (stFn w % 8) (0, 0)
  let f := opFmt o
  if opPercol o then
    (xs.zip (List.range x.n)).foldl (fun wk v => chainWrite x f wk (opElem o row.r row.t row.tag v.2) v.1) wk
  else
    let pick := (xs.zip (List.range x.n)).foldl (fun a v =>
      if Config.freeChoice (wk.st.free + v.2) then v.1 else a) (xs.headD 0)
    chainWrite x f { wk with st := { wk.st with free := wk.st.free + x.n } } (opElem o row.r row.t row.tag 0) pick

/-- STAB: A to AB row ABR + r. -/
def stageStab (x : ChainCtx) (row : WRow) (xs : List W32) (wk : Work) : Work :=
  { wk with st := wk.st.modCore x.p fun c =>
      abClean ((xs.zip (List.range x.n)).foldl (fun c v => abPut c (x.abr + row.r) v.2 v.1) c) (x.abr + row.r) (List.range 64) }

/-- HOLD: W into the window (R186). -/
def stageHold (x : ChainCtx) (w : Words) (row : WRow) (xs : List W32) (wk : Work) : Work :=
  let n := (stFmt w).bytes
  (xs.zip (List.range x.n)).foldl (fun wk v =>
    chainWrite x (stFmt w) wk (x.g.holdBase + (row.r * x.g.holdLen + row.t * 64 + v.2) * n) v.1) wk

/-- Whether the partial mark of a stage's row has met a non-zero element in this slice. -/
def zbadGet (g : ChainProg) (k : Nat) : Bool := ((g.zbad.find? fun e => e.1 = k).map (·.2)).getD false

/-- ZMAP: the row's partial bit, and the write of the slice's bit when its last tile passes (R184, R208). -/
def stageZmap (x : ChainCtx) (w : Words) (i : Nat) (row : WRow) (xs : List W32) (f : ETy) (wk : Work) : Work :=
  let tiles := 2 ^ (stFn w / 16 % 4)
  let key := i * 4096 + row.r
  let g := (slotGet (wk.st.core x.p) x.slot).getD x.g
  let old := decide (row.t % tiles ≠ 0) && zbadGet g key
  let bad := old || !xs.all (eIsZero f)
  let wk := { wk with st := wk.st.modCore x.p fun c => slotPut c x.slot { g with zbad := kvInsert g.zbad key bad } }
  if (row.t + 1) % tiles = 0 ∨ row.t + 1 = x.g.eTiles then
    let a := opAddr (x.g.opnds.getD (stFn w % 8) (0, 0)) + 512 * (row.t / tiles)
    match chainAccess x wk (a + row.r / 8) 1 1 with
    | some flt => { wk with err := some flt }
    | none =>
      let r := writeBits (readByteD x.p) (devWrite (.core x.p)) wk.st a row.r [!bad]
      { wk with st := r.1, err := r.2 }
  else wk

/-- One stage on one row of a group. `i` is the stage's place in the section. -/
def stageRow (x : ChainCtx) (i : Nat) (w : Words) (row : WRow) (wk : Work) : Work × WRow :=
  match wk.err with
  | some _ => (wk, row)
  | none =>
    let op := stOp w
    let codes := if op = 11 then [0] else stSources w
    let sv := stageStatVal x w row wk
    let rs := codes.foldl (fun (acc : Work × List (List W32 × ETy)) code =>
      let r := stageSource x w row sv.2 acc.1 code
      (r.1, acc.2 ++ [r.2])) (sv.1, [])
    match rs.1.err with
    | some _ => (rs.1, row)
    | none =>
      let conv := decide (op < 12)
      let r := stageElems x w row.pos conv rs.2 rs.1
      if r.1.err.isSome then (r.1, row)
      else match op with
      | 10 => (stageStat x w row r.2 r.1, row)
      | 11 => (stageHold x w row r.2 r.1, row)
      | 12 => (stageStore x w row r.2 r.1, row)
      | 13 => (stageStab x row r.2 r.1, row)
      | 14 => (stageZmap x w i row r.2 ((rs.2.headD ([], .fp32)).2) r.1, row)
      | _ => (r.1, if stDst w then { row with y := r.2, yf := stFmt w } else { row with w := r.2, wf := stFmt w })

/-- One stage on every row of a group; a LAST stage runs only in the band's last product (R181). -/
def stageGroup (x : ChainCtx) (i : Nat) (w : Words) (last : Bool) (acc : Work × List WRow) : Work × List WRow :=
  if stLast w && !last then acc
  else
    acc.2.foldl (fun (a : Work × List WRow) row =>
      let r := stageRow x i w row a.1
      (r.1, a.2 ++ [r.2])) (acc.1, [])

/-- Stages lo to hi − 1 of a section on a group. -/
def runStages (x : ChainCtx) (lo hi : Nat) (last : Bool) (acc : Work × List WRow) : Work × List WRow :=
  let ws := progStages x.g x.epi
  ((List.range hi).filter (lo ≤ ·)).foldl (fun a i => stageGroup x i (ws.getD i (0, 0)) last a) acc

/-! ## The epilogue (R180, R186) -/

/-- The AB row of a product as it stands. -/
def abRow (c : Core) (row : Nat) : List W32 := (List.range 64).map fun col => abGet c row col

/-- A held tile, read back from the window. CSUM and TAG are those of the row that the last product brought (DEDUCED, log 139). -/
def heldTile (x : ChainCtx) (row : WRow) (acc : Work × List WRow) (t : Nat) : Work × List WRow :=
  let f := holdFmt x.g
  let r := (List.range 64).foldl (fun a c =>
    chainReadElem x f a (x.g.holdBase + (row.r * x.g.holdLen + t * 64 + c) * f.bytes)) (acc.1, [])
  (r.1, acc.2 ++ [{ row with t := t, pos := t % 8, w := r.2, wf := f, y := List.replicate 64 0, yf := .fp32 }])

/-- The stages after HOLD over a row's tiles, in groups of eight. -/
def finishRow (x : ChainCtx) (h : Nat) (wk : Work) (row : WRow) : Work :=
  (List.range ((x.g.eTiles + 7) / 8)).foldl (fun wk k =>
    match wk.err with
    | some _ => wk
    | none =>
      let ts := (List.range 8).map (· + 8 * k) |>.filter (· < x.g.eTiles)
      let tiles := ts.foldl (heldTile x row) (wk, [])
      match tiles.1.err with
      | some _ => tiles.1
      | none => (runStages { x with held := true } (h + 1) x.g.epi true tiles).1) wk

/-- One group of output rows through the epilogue. -/
def epilogueGroup (x : ChainCtx) (rows : List WRow) (s : State) : Work :=
  let last := decide (((rows.head?.map (·.t)).getD 0) + 1 = x.g.eTiles)
  match holdAt x.g with
  | none => (runStages x 0 x.g.epi last ({ st := s }, rows)).1
  | some h =>
    let r := runStages x 0 (h + 1) last ({ st := s }, rows)
    if last then
      rows.foldl (fun wk row =>
        match wk.err with
        | some _ => wk
        | none => finishRow x h wk row) r.1
    else r.1

/-- Sticky bits and clamps of a finished group, and its fault. -/
def chainDone (p : Fin 72) (wk : Work) : State × Option Flt :=
  let s1 := wk.st.modCore p fun c => orSticky (orSticky c .ve (wk.ve &&& 0x1FD)) .sf (wk.sf &&& 0x3F)
  (countClamps s1 p wk.clamps, wk.err)

/-- The rows of a running product that form its next group. -/
def runGroup (c : Core) (run : ChainRun) (einFmt : ETy) : List WRow :=
  ((run.rows.take 8).zip (List.range 8)).map fun q =>
    let r := run.next + q.2
    { r := r, t := run.ei, pos := q.2, tag := q.1.tag.toNat, csum := q.1.csum, ab := abRow c (run.abr + r), w := q.1.data,
      wf := einFmt, y := List.replicate 64 0, yf := .fp32 }

/-! ## The prologue (R185) -/

/-- A group of streamed rows through the prologue: what enters the array for each. -/
def prologueGroup (x : ChainCtx) (rows : List WRow) (wk : Work) : Work × List (List W32) :=
  let r := runStages x 0 x.g.pro false (wk, rows)
  (r.1, r.2.map (·.w))

/-- The band after a product: EI advances, back to 0 after E_TILES − 1 (R181). -/
def advanceBand (c : Core) (slot n : Nat) : Core :=
  match slotGet c slot with
  | none => c
  | some g =>
    let ei := if g.ei + 1 = g.eTiles then 0 else g.ei + 1
    slotPut c slot { g with ei := ei, bandRows := n }

end Sys2Proof.Machine
end

