-- ==== Sys2Proof/Machine/Matrix.lean ====
section
/-!
DEFINITION. Sys2Proof/Machine/Matrix.lean: what the instructions of the matrix engine do when they start (group 0x4:
R71 to R75, R87 to R103, R180 to R185, R197 to R199, R477) and the pronk events (R105, R106).
ME sticky bits: ACC_SAT 0, INF_OUT 1.
-/
namespace Sys2Proof.Machine

def segEntryFlt (i : Nat) : Flt := ⟨0x0201, BitVec.ofNat 32 i⟩
def segBoundaryFlt (cursor : Nat) : Flt := ⟨0x0202, BitVec.ofNat 32 cursor⟩
def operandAddrFlt (a : Nat) : Flt := ⟨0x0203, BitVec.ofNat 32 a⟩
def noSetFlt : Flt := ⟨0x0205, 0⟩
def sparseMetaFlt (g : Nat) : Flt := ⟨0x0401, BitVec.ofNat 32 g⟩

/-! ## Stationary sets (R92 to R96, R102, R197, R477) -/

/-- The 16-bit class (R71). -/
def is16 (t : ETy) : Bool := decide (t = .bf16) || decide (t = .fp16)

/-- Bytes of a set and of its metadata (R87). -/
def setBytes (w : ETy) : Nat := if w = .int4 then 8192 else 16384
def metaBytes (w : ETy) : Nat := if is16 w then 2048 else 4096

/-- The elements of a byte run in order (R113). -/
def elemsOf (t : ETy) : List Byte → List W32
  | [] => []
  | b :: tl =>
    match t with
    | .int4 => BitVec.ofNat 32 (b.toNat % 16) :: BitVec.ofNat 32 (b.toNat / 16) :: elemsOf t tl
    | .bf16 | .fp16 =>
      match tl with
      | c :: tl' => BitVec.ofNat 32 (b.toNat + 256 * c.toNat) :: elemsOf t tl'
      | [] => []
    | .fp32 | .int32 =>
      match tl with
      | c :: d :: e :: tl' => BitVec.ofNat 32 (leNat [b, c, d, e]) :: elemsOf t tl'
      | _ => []
    | _ => BitVec.ofNat 32 b.toNat :: elemsOf t tl

/-- INT4 is widened to INT8 as it enters the cell. -/
def widenW (w : ETy) (x : W32) : W32 := if w = .int4 then intBits 8 (signExt32 4 x) else x

/-- The type of a set's cells. -/
def cellTy (w : ETy) : ETy := if w = .int4 then .int8 else w

/-- The 4-bit codes of a run of metadata, group 0 first (R197). -/
def codesOf : List Byte → List Nat
  | [] => []
  | b :: t => b.toNat % 16 :: b.toNat / 16 :: codesOf t

/-- A consistent code has lo < hi (R196). -/
def codeOk (x : Nat) : Bool := decide (x % 4 < x / 4)

/-- A column with every dropped position holding zero. -/
def expandCol : List W32 → List Nat → List W32
  | a :: b :: t, x :: xs =>
    ((List.range 4).map fun i => if i = x % 4 then a else if i = x / 4 then b else 0) ++ expandCol t xs
  | _, _ => []

/-- Cut a list into runs of n items. -/
def chunks {α : Type} (n : Nat) : Nat → List α → List (List α)
  | 0, _ => []
  | k + 1, l => l.take n :: chunks n k (l.drop n)

/-- Column sum (R95). -/
def colSum (w : ETy) (ws : List W32) : W32 :=
  if (cellTy w).isFloat then ws.foldl (fun a x => (fadd a (widen w x)).1) 0
  else intBits 32 (ws.foldl (fun a x => a + signExt32 8 x) 0)

/-- Check an address of the ME's reads (R103). -/
def meAddrOk (s : State) (p : Fin 72) (a len align : Nat) : Bool := decide (a % align = 0) && ownSpan s p a len

/-- Load a set: the state with any error logged, and the set or the fault. -/
def loadSet (p : Fin 72) (w : ETy) (wfmt : BitVec 4) (sp24 : Bool) (a md entry : Nat) (s : State) :
    State × Except Flt MatSet :=
  let colLen := setBytes w / 64
  if !meAddrOk s p a (setBytes w) 256 then (s, .error (operandAddrFlt a))
  else
    let r := devRead (.core p) s a (setBytes w)
    match r.2.2 with
    | some f => (r.1, .error f)
    | none =>
      let raw := (chunks colLen 64 r.2.1).map fun c => (elemsOf w c).map (widenW w)
      let mk (cols : List (List W32)) : MatSet :=
        { valid := true, sp24 := sp24, wfmt := wfmt, entry := BitVec.ofNat 8 entry, src := BitVec.ofNat 48 a,
          cols := cols, sums := cols.map (colSum w) }
      if !sp24 then (r.1, .ok (mk raw))
      else if !meAddrOk r.1 p md (metaBytes w) 64 then (r.1, .error (operandAddrFlt md))
      else
        let q := devRead (.core p) r.1 md (metaBytes w)
        match q.2.2 with
        | some f => (q.1, .error f)
        | none =>
          let codes := codesOf q.2.1
          match codes.findIdx? fun x => !codeOk x with
          | some g => (q.1, .error (sparseMetaFlt g))
          | none =>
            let cs := chunks (metaBytes w * 2 / 64) 64 codes
            (q.1, .ok (mk ((raw.zip cs).map fun x => expandCol x.1 x.2)))

def setMat (s : State) (p : Fin 72) (m : MatState) : State := s.modCore p fun c => { c with mat := m }

/-- A set that has been loaded into the shadow registers has new check bits (R109). -/
def putShadow (s : State) (p : Fin 72) (x : MatSet) : State :=
  s.modCore p fun c =>
    Core.clean { c with mat := { c.mat with shad := x } } fun q => decide (q = .set true) || decide (q = .sums true)

/-- The shadow set after a load that faults: invalid, with no preload (R96, R110). -/
def spoilShadow (s : State) (p : Fin 72) : State :=
  s.modCore p fun c => { c with mat := { c.mat with shad := { c.mat.shad with valid := false, preload := false } } }

def clearPreload (m : MatState) : MatState :=
  { m with stat := { m.stat with preload := false }, shad := { m.shad with preload := false } }

/-- MLOADS: load the shadow set; a load that faults leaves it invalid (R96). -/
def runMloads (p : Fin 72) (e : Entry) (o : OpM) (s : State) : RunOut :=
  let r := loadSet p (tyOf o.wfmt) o.wfmt o.sp24 e.a.toNat e.c.toNat 0 s
  match r.2 with
  | .error f => ranFault (spoilShadow r.1 p) f
  | .ok x => ranOk (putShadow r.1 p x)

/-- The exchange of the two sets with their validity and sums. -/
def swapSets (m : MatState) : MatState := { m with stat := m.shad, shad := m.stat }

/-- A place after the exchange of the two sets. -/
def swapPlace : Place → Place
  | .set b => .set !b
  | .sums b => .sums !b
  | q => q

/-- A swap: the sets are exchanged, what errors they hold with them, and a preload is discarded (R74, R100). -/
def swapCore (c : Core) : Core :=
  { c with mat := clearPreload (swapSets c.mat), ecc := c.ecc.map swapPlace, ecc1 := c.ecc1.map swapPlace }

/-- MSWAP. -/
def runMswap (p : Fin 72) (s : State) : RunOut := ranOk (s.modCore p swapCore)

/-- MCSUM: the column sums of the stationary set into AB row ABR (R95, R96). -/
def runMcsum (p : Fin 72) (o : OpM) (s : State) : RunOut :=
  let m := (s.core p).mat
  if m.stat.valid then
    ranOk (s.modCore p fun c =>
      abClean ((List.range 64).foldl (fun c col => abPut c o.abr.toNat col (m.stat.sums.getD col 0)) c) o.abr.toNat (List.range 64))
  else ranFault s noSetFlt

/-- MABCLR: zero AB rows ABR to ABR + S[SN] − 1. -/
def runMabclr (p : Fin 72) (e : Entry) (o : OpM) (s : State) : RunOut :=
  let lo := o.abr.toNat * 64
  let hi := (o.abr.toNat + e.b.toNat) * 64
  ranOk (s.modCore p fun c =>
    Core.clean { c with ab := c.ab.filter (fun x => !decide (lo ≤ x.1 ∧ x.1 < hi))
                        outAb := (List.range (hi - lo)).map (lo + ·) ++ c.outAb } fun q => match q with
      | .ab k => decide (lo ≤ 2 * k ∧ 2 * k < hi)
      | _ => false)

/-! ## The segment table (R97, R98) -/

def sgRows (w : Words) : Nat := bitsN w.1 0 13
def sgMode (w : Words) : Nat := bitsN w.1 13 2
def sgWaddr (w : Words) : Nat := bitsN w.1 16 48
def sgTag (w : Words) : Nat := bitsN w.2 0 16
def sgMaddr (w : Words) : Nat := bitsN w.2 16 48

/-- The checks of R98 on one entry. A set takes 8,192 bytes at least and its metadata 2,048 (R87): an address from which fewer lie in the
places of R103 would be refused in every class. -/
def segBad (p : Fin 72) (s : State) (w : Words) : Bool :=
  let m0 := decide (sgMode w = 0)
  decide (sgRows w = 0) || decide (4096 < sgRows w) || decide (sgMode w = 3) || bitB w.1 15 ||
  (!m0 && (decide (sgWaddr w ≠ 0) || decide (sgMaddr w ≠ 0))) ||
  (m0 && (decide (sgWaddr w % 256 ≠ 0) || !ownSpan s p (sgWaddr w) 8192)) ||
  (m0 && decide (sgMaddr w ≠ 0) && (decide (sgMaddr w % 64 ≠ 0) || !ownSpan s p (sgMaddr w) 2048))

/-- MSEGT: load and check the segment table. -/
def runMsegt (p : Fin 72) (e : Entry) (s : State) : RunOut :=
  let a := e.a.toNat
  let n := e.b.toNat
  if !meAddrOk s p a (16 * n) 16 then ranFault s (operandAddrFlt a)
  else
    let r := devRead (.core p) s a (16 * n)
    match r.2.2 with
    | some f => ranFault r.1 f
    | none =>
      let ws : List Words := (chunks 16 n r.2.1).map fun b =>
        (BitVec.ofNat 64 (fieldAt b 0 8), BitVec.ofNat 64 (fieldAt b 8 8))
      let m := clearPreload (r.1.core p).mat
      match ws.findIdx? (segBad p r.1) with
      | some i => ranFault (setMat r.1 p { m with segt := [], cursor := 0 }) (segEntryFlt i)
      | none => ranOk ((setMat r.1 p { m with segt := ws, cursor := 0 }).modCore p fun c => Core.clean c fun q => match q with
        | .segt _ => true
        | _ => false)

/-! ## Products (R88, R96, R99 to R103) -/

/-- One term of a column sum: a product with a zero operand contributes +0 (R88 rule 2). -/
def macTerm (ta tw : ETy) (x w : W32) : Fp :=
  let vx := Fp.decode ta x
  let vw := Fp.decode tw w
  if vx.isZero || vw.isZero then .fin false 0 0 else (Fp.mulX vx vw).1

/-- A float-class column sum, rounded to nearest even at each addition. -/
def macCol (ta tw : ETy) (xs ws : List W32) : W32 :=
  (xs.zip ws).foldl (fun a q => (roundTo .fp32 0 0 false (Fp.addX 0 (Fp.decode .fp32 a) (macTerm ta tw q.1 q.2)).1).1) 0

/-- An INT8-class column sum. -/
def macInt (xs ws : List W32) : Int := (xs.zip ws).foldl (fun a q => a + signExt32 8 q.1 * signExt32 8 q.2) 0

/-- Saturate to INT32. -/
def satInt32 (i : Int) : W32 × Bool :=
  if i < intMin 32 then (intBits 32 (intMin 32), true)
  else if intMax 32 < i then (intBits 32 (intMax 32), true)
  else (intBits 32 i, false)

/-- Add a row's sum to the AB word (R88 rule 7): the value and ACC_SAT. -/
def accAdd (fl : Bool) (ab y : W32) : W32 × Bool :=
  if fl then ((fadd ab y).1, false) else satInt32 (ab.toInt + y.toInt)

def notFinite (t : ETy) (x : W32) : Bool := t.isFloat && !(Fp.decode t x).isFinite

/-- One output element: bits and ME sticky bits. `real` says that the row was read. -/
def outElem (fl acc real : Bool) (ta tw : ETy) (xs ws : List W32) (ab : W32) : W32 × Flags :=
  let y : W32 × Bool :=
    if !real then (0, false) else if fl then (macCol ta tw xs ws, false) else satInt32 (macInt xs ws)
  let z : W32 × Bool := if acc then accAdd fl ab y.1 else (y.1, false)
  let bad := fl && real && notFinite .fp32 z.1 && !xs.any (notFinite ta) && !ws.any (notFinite tw) &&
    !(acc && notFinite .fp32 ab)
  (z.1, (if y.2 || z.2 then 1 else 0) ||| (if bad then 2 else 0))

/-- An output row. -/
def outRow (fl acc real : Bool) (ta tw : ETy) (xs : List W32) (cols : List (List W32)) (ab : List W32) :
    List W32 × Flags :=
  let r := (List.range 64).map fun c => outElem fl acc real ta tw xs (cols.getD c []) (ab.getD c 0)
  (r.map (·.1), r.foldl (fun a x => a ||| x.2) 0)

/-- A product's fixed parts. -/
structure ProdCtx where
  p : Fin 72
  o : OpM
  sa : Nat
  n : Nat
  sz : Nat
  ta : ETy
  tw : ETy
  fl : Bool
  chain : Option ChainProg
  sel : BitVec 2
  deriving DecidableEq, Repr

/-- One row of a product: the segment-table entry whose first row it is, its TAG, and whether it streams (MODE 0 and 1). -/
structure RowPlan where
  entry : Option Nat := none
  tag : Nat := 0
  streams : Bool := true
  deriving DecidableEq, Repr

/-- A product on its way: the module, its output rows newest last, ME sticky bits, whether a row that needs multiplication has entered,
the zero marks that have been read, from their byte's number in the bitmap on, and the rows that the prologue has ready. -/
structure Prod where
  wk : Work
  rows : List ChainRow := []
  sticky : Flags := 0
  real : Bool := false
  marks : Nat × List Byte := (0, [])
  ready : List (Nat × List W32) := []
  deriving DecidableEq, Repr

def Prod.fail (x : Prod) (f : Flt) : Prod := { x with wk := { x.wk with err := some f } }

def Prod.reads (x : Prod) (p : Fin 72) (l : List Place) : Prod := { x with wk := x.wk.reads p l }

/-- Elements of a streamed row (R71). -/
def rowElems (x : ProdCtx) : Nat := (if is16 x.ta then 128 else 256) * (if x.o.sp24 then 2 else 1)

/-- Whether the product has a prologue. -/
def hasPro (x : ProdCtx) : Bool :=
  match x.chain with
  | some g => decide (0 < g.pro)
  | none => false

/-- The type of the rows in the gallery. -/
def rowTy (x : ProdCtx) : ETy :=
  match x.chain with
  | some g => if 0 < g.pro then tyOf g.pinFmt else x.ta
  | none => x.ta

def rowBytes (x : ProdCtx) : Nat := rowElems x * (rowTy x).bytes

/-- The zero marks of the group of 256 rows that row r opens, read before its first row (R103). -/
def readMarks (x : ProdCtx) (r : Nat) (pr : Prod) : Prod :=
  let lo := r / 256 * 256
  let len := (min (lo + 256) x.n + 7) / 8 - lo / 8
  let a := x.sz + lo / 8
  if decide (x.sz % 64 ≠ 0) || !ownSpan pr.wk.st x.p a len then pr.fail (operandAddrFlt a)
  else
    let q := devRead (.core x.p) pr.wk.st a len
    { pr with wk := { pr.wk with st := q.1, err := q.2.2 }, marks := (lo / 8, q.2.1) }

/-- Whether the marks of row r are wanted and not read yet: it opens its group, and a row of the group streams. -/
def wantMarks (x : ProdCtx) (plan : List RowPlan) (r : Nat) : Bool :=
  x.o.zskip && decide (x.sz ≠ 0) && decide (r % 256 = 0) && (slice plan r 256).any (·.streams)

/-- The zero mark of row r. -/
def zeroMark (x : ProdCtx) (r : Nat) (pr : Prod) : Bool :=
  x.o.zskip && decide (x.sz ≠ 0) && bitB (pr.marks.2.getD (r / 8 - pr.marks.1) 0) (r % 8)

/-- Fetch streamed row r. Every row must be 256-byte aligned (R103). -/
def fetchRow (x : ProdCtx) (r : Nat) (pr : Prod) : Prod × List W32 :=
  let a := x.sa + r * rowBytes x
  if decide (a % 256 ≠ 0) || !ownSpan pr.wk.st x.p a (rowBytes x) then (pr.fail (operandAddrFlt a), [])
  else
    let q := devRead (.core x.p) pr.wk.st a (rowBytes x)
    ({ pr with wk := { pr.wk with st := q.1, err := q.2.2 } }, elemsOf (rowTy x) q.2.1)

/-- One output row out of the array: with the set that is stationary now. A row of MODE 2, which no set made, carries that set's column
sums too (DEDUCED, log 133). -/
def emitRow (x : ProdCtx) (tag : Nat) (real : Bool) (xs : List W32) (pr : Prod) : Prod :=
  let r := pr.rows.length
  let pr := if x.o.acc then pr.reads x.p (abPlaces (x.o.abr.toNat + r)) else pr
  match pr.wk.err with
  | some _ => pr
  | none =>
    let c := pr.wk.st.core x.p
    let ab := if x.o.acc then abRow c (x.o.abr.toNat + r) else []
    let y := outRow x.fl x.o.acc real x.ta (cellTy x.tw) xs c.mat.stat.cols ab
    { pr with rows := pr.rows ++ [{ data := y.1, tag := BitVec.ofNat 16 tag, csum := c.mat.stat.sums }],
              sticky := pr.sticky ||| y.2, real := pr.real || real }

/-- A plain streamed row, skipped where its mark says so. -/
def plainRow (x : ProdCtx) (tag r : Nat) (pr : Prod) : Prod :=
  if zeroMark x r pr then
    emitRow x tag false [] { pr with wk := { pr.wk with
      st := pr.wk.st.rmod .corMeZskipRows x.p.val 0 fun v => v + 1 } }
  else
    let f := fetchRow x r pr
    match f.1.wk.err with
    | some _ => f.1
    | none => emitRow x tag true f.2 f.1

/-- Rows of a prologue group (R185). -/
def proRows (x : ProdCtx) : Nat := max 1 (512 / rowElems x)

/-- The streaming rows of the prologue group of row r: fetched, and passed through the stages. Groups are formed from row 0 of the
product, whatever segments they span; rows of MODE = 2 segments have no part in them. -/
def proGroup (x : ProdCtx) (g : ChainProg) (plan : List RowPlan) (r : Nat) (pr : Prod) : Prod :=
  let lo := r / proRows x * proRows x
  let e := rowElems x
  let mine := ((slice plan lo (proRows x)).zipIdx lo).filter (·.1.streams)
  let fetched := mine.foldl (fun (a : Prod × List WRow) q =>
    match a.1.wk.err with
    | some _ => a
    | none =>
      let f := fetchRow x q.2 a.1
      (f.1, a.2 ++ [{ r := q.2, t := 0, pos := q.2 - lo, tag := q.1.tag, csum := [], ab := [], w := f.2, wf := tyOf g.pinFmt,
                      y := List.replicate e 0, yf := .fp32 }])) (pr, [])
  match fetched.1.wk.err with
  | some _ => fetched.1
  | none =>
    let cx : ChainCtx := { p := x.p, slot := x.o.chain.toNat, g := g, epi := false, n := e, sel := x.sel, abr := 0 }
    let out := prologueGroup cx fetched.2 fetched.1.wk
    { fetched.1 with wk := out.1, ready := (fetched.2.map (·.r)).zip out.2 }

/-- A streamed row of a product with a prologue enters as its group delivers it. -/
def proRow (x : ProdCtx) (g : ChainProg) (plan : List RowPlan) (tag r : Nat) (pr : Prod) : Prod :=
  let pr := if pr.ready.any fun q => q.1 = r then pr else proGroup x g plan r pr
  match pr.wk.err with
  | some _ => pr
  | none => emitRow x tag true (((pr.ready.find? fun q => q.1 = r).map (·.2)).getD []) pr

/-- The check of R96 on rows that use a set that the product did not load. -/
def setUseFlt (x : ProdCtx) (m : MatSet) : Option Flt :=
  if !m.valid then some noSetFlt
  else if decide (m.wfmt ≠ x.o.wfmt) || (m.sp24 != x.o.sp24) then some (opcodeFlt .mprod)
  else none

/-- Whether the epilogue reads column sums (R175). -/
def usesSums (x : ProdCtx) : Bool :=
  match x.chain with
  | some g => (progStages g true).any fun w => (stSources w).contains 3
  | none => false

/-- The places of a set that rows are about to use. -/
def setPlaces (x : ProdCtx) (shadow : Bool) : List Place := .set shadow :: if usesSums x then [.sums shadow] else []

/-- Load entry i of the segment table into the shadow set. -/
def loadEntry (x : ProdCtx) (i : Nat) (preload : Bool) (pr : Prod) : Prod :=
  let w := (pr.wk.st.core x.p).mat.segt.getD i (0, 0)
  let r := loadSet x.p x.tw x.o.wfmt x.o.sp24 (sgWaddr w) (sgMaddr w) i pr.wk.st
  match r.2 with
  | .error f => Prod.fail { pr with wk := { pr.wk with st := spoilShadow r.1 x.p } } f
  | .ok t => { pr with wk := { pr.wk with st := putShadow r.1 x.p { t with preload := preload } } }

/-- Whether the shadow holds the preload of entry i for this product (R100). -/
def preloadHit (x : ProdCtx) (m : MatState) (i : Nat) : Bool :=
  m.shad.valid && m.shad.preload && decide (m.shad.entry.toNat = i) && decide (m.shad.wfmt = x.o.wfmt) &&
  (m.shad.sp24 == x.o.sp24)

/-- What precedes the first row of an entry (R99). -/
def entryStart (x : ProdCtx) (i : Nat) (pr : Prod) : Prod :=
  let m := (pr.wk.st.core x.p).mat
  match sgMode (m.segt.getD i (0, 0)) with
  | 0 =>
    let pr1 := (if preloadHit x m i then pr else loadEntry x i false pr).reads x.p (setPlaces x true)
    match pr1.wk.err with
    | some _ => pr1
    | none => { pr1 with wk := { pr1.wk with st := pr1.wk.st.modCore x.p swapCore } }
  | 1 =>
    match setUseFlt x m.stat with
    | some f => pr.fail f
    | none => pr.reads x.p (setPlaces x false)
  | _ => if usesSums x then pr.reads x.p [.sums false] else pr

/-- One row of a product. -/
def rowStep (x : ProdCtx) (plan : List RowPlan) (pr : Prod) (q : RowPlan × Nat) : Prod :=
  let pr0 := if wantMarks x plan q.2 && pr.wk.err.isNone then readMarks x q.2 pr else pr
  match pr0.wk.err with
  | some _ => pr0
  | none =>
    let pr1 := match q.1.entry with
      | some i => entryStart x i pr0
      | none => pr0
    match pr1.wk.err with
    | some _ => pr1
    | none =>
      if !q.1.streams then emitRow x q.1.tag false [] pr1
      else match x.chain with
        | some g => if 0 < g.pro then proRow x g plan q.1.tag q.2 pr1 else plainRow x q.1.tag q.2 pr1
        | none => plainRow x q.1.tag q.2 pr1

/-- The rows of a product in order. -/
def streamRows (x : ProdCtx) (plan : List RowPlan) (pr : Prod) : Prod := (plan.zipIdx).foldl (rowStep x plan) pr

/-- The entries from the cursor on whose rows add up to n exactly; none where no such run exists. -/
def segSpan : List Words → Nat → Nat → Option Nat
  | _, 0, k => some k
  | [], _ + 1, _ => none
  | w :: t, n + 1, k => if sgRows w ≤ n + 1 then segSpan t (n + 1 - sgRows w) (k + 1) else none

/-- The rows of entry i. -/
def entryRows (segt : List Words) (i : Nat) : List RowPlan :=
  let w := segt.getD i (0, 0)
  let q : RowPlan := { tag := sgTag w, streams := decide (sgMode w ≤ 1) }
  { q with entry := some i } :: List.replicate (sgRows w - 1) q

/-- The preload at the end of a product with SEG = 1 (R100). -/
def preloadNext (x : ProdCtx) (pr : Prod) : Prod :=
  let m := (pr.wk.st.core x.p).mat
  let rest := (List.range m.segt.length).filter (m.cursor ≤ ·)
  let k := rest.findIdx? fun i => sgMode (m.segt.getD i (0, 0)) = 0
  let pr1 := pr.reads x.p ((rest.take ((k.map (· + 1)).getD rest.length)).map Place.segt)
  match pr1.wk.err, k.bind (rest[·]?) with
  | none, some i => if preloadHit x m i then pr1 else loadEntry x i true pr1
  | _, _ => pr1

/-- A product with SEG = 1. -/
def segProduct (x : ProdCtx) (pr : Prod) : Prod :=
  let m := (pr.wk.st.core x.p).mat
  let span := segSpan (m.segt.drop m.cursor) x.n 0
  let pr0 := pr.reads x.p ((List.range (span.getD (m.segt.length - m.cursor))).map fun i => .segt (m.cursor + i))
  match pr0.wk.err, span with
  | some _, _ => pr0
  | none, none => pr0.fail (segBoundaryFlt m.cursor)
  | none, some k =>
    let pr1 := streamRows x ((List.range k).flatMap fun i => entryRows m.segt (m.cursor + i)) pr0
    match pr1.wk.err with
    | some _ => pr1
    | none =>
      let m1 := (pr1.wk.st.core x.p).mat
      preloadNext x { pr1 with wk := { pr1.wk with st := setMat pr1.wk.st x.p { m1 with cursor := m.cursor + k } } }

/-- A product with SEG = 0. -/
def plainProduct (x : ProdCtx) (pr : Prod) : Prod :=
  match setUseFlt x (pr.wk.st.core x.p).mat.stat with
  | some f => pr.fail f
  | none =>
    let pr1 := pr.reads x.p (setPlaces x false)
    match pr1.wk.err with
    | some _ => pr1
    | none => streamRows x (List.replicate x.n {}) pr1

/-- Whether a section reads row statistics. -/
def statSource (g : ChainProg) (epi : Bool) : Bool := (progStages g epi).any fun w => (stSources w).contains 5

/-- The checks of R182, in order. -/
def chainUseBad (x : ProdCtx) (g : ChainProg) : Option Nat :=
  let accTy : BitVec 4 := if x.fl then 0 else 7
  if 0 < g.epi ∧ g.einFmt ≠ accTy then some 1
  else if 0 < g.pro ∧ proOut g ≠ x.ta then some 2
  else if decide (0 < g.pro) && x.o.zskip then some 3
  else if 0 < g.ei ∧ x.n ≠ g.bandRows then some 4
  else if (decide ((holdAt g).isSome) && decide (g.holdRows < x.n)) ||
      ((epiStatStage g || statSource g true) && decide (4096 < g.statBase + x.n)) ||
      (statSource g false && decide (4096 < g.pstatBase + x.n)) then some 5
  else none

/-- The start of a band (R183): entries cleared, partial marks forgotten, and the band's row count noted. -/
def startBand (x : ProdCtx) (g : ChainProg) (s : State) : State :=
  s.modCore x.p fun c =>
    if g.ei = 0 then
      let c := if epiStatStage g then clearStats c g.statBase x.n else c
      slotPut c x.o.chain.toNat { g with bandRows := x.n, zbad := [] }
    else c

/-- The AB writes of a product without an epilogue. -/
def writeAb (c : Core) (abr : Nat) (rows : List ChainRow) : Core :=
  (rows.zip (List.range rows.length)).foldl (fun c q =>
    abClean ((q.1.data.zip (List.range 64)).foldl (fun c d => abPut c (abr + q.2) d.2 d.1) c) (abr + q.2) (List.range 64)) c

/-- Whether dummy rows run in the present gap: COR_ME_PRONK as it stood when the gap began (R105, R106). -/
def gapPronk (c : Core) : Bool := bitB c.mat.gapCtl 31

/-- The most dummy clocks that the present gap can hold and COR_ME_PRONK_CLK has not counted: up to PRONK_MAX before the ramp-down,
up to 3,600 in it, none once the array is gated (R105). -/
def gapPart (c : Core) : Nat :=
  if gapPronk c then
    match c.mat.pronk.toNat with
    | 0 => bitsN c.mat.gapCtl 0 12
    | 1 => 3600
    | _ => 0
  else 0

/-- Dummy clocks of the present gap that are not counted yet: timing, a free number (log 13). -/
def gapClocks (draw : Nat) (c : Core) : W64 := BitVec.ofNat 64 ((Config.freeValue draw).toNat % (gapPart c + 1))

/-- Dummy clocks of the gaps inside a product, which its bubbles, its stalls and its skipped and zero rows make, with COR_ME_PRONK at `ctl`:
timing, a free number of any size (R105, log 13). -/
def innerClocks (draw : Nat) (ctl : W64) : W64 := if bitB ctl 31 then Config.freeValue draw else 0

/-- A product with a row that needs multiplication ends the gap before that row, whose clocks are counted with those of the gaps between
its rows; the next gap begins after its last such row, with COR_ME_PRONK as it stands (R105, R106). -/
def endGap (p : Fin 72) (s : State) : State :=
  let s1 := { s with free := s.free + 2 }.rmod .corMePronkClk p.val 0 fun v =>
    v + gapClocks s.free (s.core p) + innerClocks (s.free + 1) (s.rget .corMePronk p.val 0)
  s1.modCore p fun c => { c with mat := { c.mat with pronk := 0, gapCtl := s1.rget .corMePronk p.val 0 } }

/-- What a product that faults has written of the rows that had come out: how far its writes had come is timing, so all of them hold free
values, those that its epilogue would have made of them among them (R49, R192, log 14). -/
def spillRows (x : ProdCtx) (pr : Prod) (s : State) : State :=
  let words := (List.range (64 * pr.rows.length)).map (64 * x.o.abr.toNat + ·)
  match x.chain with
  | some g =>
    if 0 < g.epi then
      let cx : ChainCtx := { p := x.p, slot := x.o.chain.toNat, g := g, epi := true, n := 64, sel := x.sel, abr := x.o.abr.toNat }
      let run : ChainRun := { slot := cx.slot, ei := g.ei, n := x.n, abr := cx.abr, next := 0, rows := [], pc := 0, stream := 0,
                              sel := x.sel, seq := 0 }
      let wk := (List.range ((pr.rows.length + 7) / 8)).foldl (fun wk k =>
        match wk.err with
        | some _ => wk
        | none => epilogueGroup cx (runGroup (wk.st.core x.p) { run with next := 8 * k, rows := pr.rows.drop (8 * k) }
            (tyOf g.einFmt)) wk.st) ({ st := s } : Work)
      let stats := if epiStatStage g then (List.range x.n).map (g.statBase + ·) else []
      { wk.st.modCore x.p fun c => { c with rstat := freeFill statDefault freeStat wk.st.free c.rstat stats }
        with free := wk.st.free + 4096 }
    else s.modCore x.p fun c => { c with outAb := words ++ c.outAb }
  | none => s.modCore x.p fun c => { c with outAb := words ++ c.outAb }

/-- What a finished product leaves: its rows in the AB, or handed to the epilogue. -/
def finishProduct (x : ProdCtx) (e : Entry) (pr : Prod) : RunOut :=
  let d := chainDone x.p pr.wk
  let s := if pr.real then endGap x.p d.1 else d.1
  let slot := x.o.chain.toNat
  match d.2 with
  | some f => ranFault (if pr.rows.isEmpty then s else spillRows x pr s) f
  | none =>
    match x.chain with
    | none => { st := s.modCore x.p fun c => writeAb c x.o.abr.toNat pr.rows, sticky := pr.sticky }
    | some g =>
      if 0 < g.epi then
        { st := s.modCore x.p fun c => { c with runs := c.runs ++
            [{ slot := slot, ei := g.ei, n := x.n, abr := x.o.abr.toNat, next := 0, rows := pr.rows, pc := e.pc,
               stream := e.stream, sel := x.sel, seq := e.seq }] }
          sticky := pr.sticky }
      else
        { st := s.modCore x.p fun c => advanceBand (writeAb c x.o.abr.toNat pr.rows) slot x.n, sticky := pr.sticky }

/-- MPROD: stream S[SN] rows through the array. -/
def runMprod (p : Fin 72) (e : Entry) (o : OpM) (s : State) : RunOut :=
  let ta := tyOf o.afmt
  let tw := tyOf o.wfmt
  let slot := o.chain.toNat
  let g? := if slot = 0 then none else slotGet (s.core p) slot
  let x : ProdCtx :=
    { p := p, o := o, sa := e.a.toNat, n := e.b.toNat, sz := e.c.toNat, ta := ta, tw := tw, fl := ta.isFloat,
      chain := g?, sel := e.sel }
  if slot ≠ 0 ∧ g? = none then ranFault s (opcodeFlt .mprod)
  else match g?.bind (chainUseBad x) with
    | some k => ranFault s (chainUseFlt slot k)
    | none =>
      let s1 := match g? with
        | some g => startBand x g s
        | none => s
      let pr : Prod := { wk := { st := s1 } }
      finishProduct x e (if o.seg then segProduct x pr else plainProduct x pr)

/-- The instructions of group 0x4. -/
def runMatrix (p : Fin 72) (e : Entry) (o : OpM) (s : State) : RunOut :=
  match e.op with
  | .mloads => runMloads p e o s
  | .mswap => runMswap p s
  | .mprod => runMprod p e o s
  | .msegt => runMsegt p e s
  | .mcsum => runMcsum p o s
  | _ => runMabclr p e o s

/-! ## Pronk events (R105) -/

/-- After PRONK_MAX gap clocks the dummy activity starts to fall; those clocks are counted. -/
def execPronkRampDown (p : Fin 72) (s : State) : Result :=
  let c := s.core p
  let r := c.mat.gapCtl
  if domOn s 0 && gapPronk c && decide (c.mat.pronk = 0) && decide ((s.map[p.val]).role = 0) then
    .next ((s.rmod .corMePronkClk p.val 0 fun v => v + BitVec.ofNat 64 (bitsN r 0 12)).modCore p fun c =>
      { c with mat := { c.mat with pronk := 1 } })
  else .next s

/-- At the end of the ramp-down of 3,600 clocks the array is clock-gated for the rest of the gap. -/
def execPronkGate (p : Fin 72) (s : State) : Result :=
  if domOn s 0 && decide ((s.core p).mat.pronk = 1) then
    .next ((s.rmod .corMePronkClk p.val 0 fun v => v + 3600).modCore p fun c =>
      { c with mat := { c.mat with pronk := 2 } })
  else .next s

end Sys2Proof.Machine
end

