-- ==== Sys2Proof/Machine/Sparse.lean ====
section
/-!
DEFINITION. Sys2Proof/Machine/Sparse.lean: VCSR, the product of a row-sparse matrix with a dense one (R201 to R206,
R213).
-/
namespace Sys2Proof.Machine

/-- The sparse header (R201). -/
structure CsrHdr where
  rowptr : Nat
  colidx : Nat
  values : Nat
  rows : Nat
  cols : Nat
  nnz : Nat
  vfmt : Nat
  deriving DecidableEq, Repr

def csrHdr (r : List Byte) : CsrHdr :=
  { rowptr := fieldAt r 0 8, colidx := fieldAt r 8 8, values := fieldAt r 0x10 8, rows := fieldAt r 0x18 4,
    cols := fieldAt r 0x1C 4, nnz := fieldAt r 0x20 4, vfmt := fieldAt r 0x24 1 }

def CsrHdr.vty (h : CsrHdr) : ETy := (ETy.ofCode (BitVec.ofNat 4 h.vfmt)).getD .fp32

def csrHdrFlt (off : Nat) : Flt := ⟨0x0405, BitVec.ofNat 32 off⟩
def csrPtrFlt (j : Nat) : Flt := ⟨0x0403, BitVec.ofNat 32 j⟩
def csrColFlt (k : Nat) : Flt := ⟨0x0404, BitVec.ofNat 32 k⟩

/-- Check 1 of R202: the offset of the first bad field. -/
def csrHdrBad (r : List Byte) (h : CsrHdr) : Option Nat :=
  if h.rowptr % 4 ≠ 0 then some 0
  else if h.colidx % 4 ≠ 0 then some 8
  else if decide (h.vfmt < 3) && decide (h.values % h.vty.bytes ≠ 0) then some 0x10
  else if h.rows = 0 ∨ 1048576 < h.rows then some 0x18
  else if h.cols = 0 ∨ 2 ^ 31 ≤ h.cols then some 0x1C
  else if 2 ^ 31 ≤ h.nnz then some 0x20
  else if 3 ≤ h.vfmt then some 0x24
  else ((List.range 27).map (· + 0x25)).find? fun i => fieldAt r i 1 ≠ 0

/-- Check 2 of R202 on the shapes and types of B and Y. -/
def csrShapeOk (h : CsrHdr) (b y : Desc) : Bool :=
  tyFp b.ty && tyFp y.ty && decide (b.dim 0 = y.dim 0) && decide (b.dim 0 = 2 ^ Nat.log2 (b.dim 0)) &&
  decide (b.dim 0 ≤ 512) && decide (y.dim 1 = h.rows) && decide (h.cols ≤ b.dim 1)

/-- Whether every data element of a view lies in the core's own places. -/
def viewOwn (p : Fin 72) (s : State) (v : View) : Bool :=
  v.desc.positions.all fun x => ownSpan s p (v.addr x) v.desc.esize

/-- Check 3 of R202. -/
def csrPlaceFlt (p : Fin 72) (s : State) (h : CsrHdr) (b y : View) : Option Flt :=
  let arr (a len : Nat) : Option Flt := if ownSpan s p a len then none else some (vecAddrFlt a)
  (arr h.rowptr (4 * (h.rows + 1))).or <| (arr h.colidx (4 * h.nnz)).or <|
    (arr h.values (h.vty.bytes * h.nnz)).or <|
    if !viewOwn p s b then some (vecAddrFlt (b.addr [])) else
    if !viewOwn p s y then some (vecAddrFlt (y.addr [])) else none

def wordsAt : List Byte → List Nat
  | a :: b :: c :: d :: t => leNat [a, b, c, d] :: wordsAt t
  | _ => []

/-- A row pointer as the INT32 that it is (R201). -/
def csrPtr (ptr : List Nat) (j : Nat) : Int := (BitVec.ofNat 32 (ptr.getD j 0)).toInt

/-- Check 4 of R202: the lowest bad row pointer. -/
def csrPtrBad (h : CsrHdr) (ptr : List Nat) : Option Nat :=
  (List.range (h.rows + 1)).find? fun j =>
    (decide (j = 0) && decide (csrPtr ptr 0 ≠ 0)) ||
    (decide (1 ≤ j) && decide (csrPtr ptr j < csrPtr ptr (j - 1))) ||
    (decide (j = h.rows) && decide (csrPtr ptr j ≠ h.nnz))

/-- bound(p) of R203. -/
def csrBound (nnz pc q : Nat) : Nat := q * nnz / pc

/-- The partition that holds stored element k, and the step at which it is taken. -/
def csrStepOf (nnz pc k : Nat) : Nat :=
  ((List.range pc).findSome? fun q =>
    if csrBound nnz pc q ≤ k ∧ k < csrBound nnz pc (q + 1) then some (k - csrBound nnz pc q) else none).getD 0

/-- The stored elements of one step, in partition order (R203). -/
def csrStepElems (nnz pc n : Nat) : List Nat :=
  (List.range pc).filterMap fun q =>
    let k := csrBound nnz pc q + n
    if k < csrBound nnz pc (q + 1) then some k else none

/-- What the walk over the rows needs. -/
structure CsrIn where
  h : CsrHdr
  n : Nat
  pc : Nat
  ptr : List Nat
  cols : List Nat
  vals : List W32
  acc : Bool
  bGet : Nat → Nat → W32
  yGet : Nat → Nat → W32

/-- The partial sum of one partition's share of a row, in column c. -/
def csrPart (x : CsrIn) (c lo hi : Nat) : W32 × Flags :=
  (List.range (hi - lo)).foldl (fun a i =>
    let k := lo + i
    let r := ffma (x.vals.getD k 0) (x.bGet (x.cols.getD k 0) c) a.1
    (r.1, a.2 ||| r.2)) (0, 0)

/-- Row i, column c of the product (R203), before its conversion. -/
def csrElem (x : CsrIn) (i c : Nat) : W32 × Flags :=
  let r := (List.range x.pc).foldl (fun (t : Option W32 × Flags) q =>
    let lo := max (x.ptr.getD i 0) (csrBound x.h.nnz x.pc q)
    let hi := min (x.ptr.getD (i + 1) 0) (csrBound x.h.nnz x.pc (q + 1))
    if lo < hi then
      let part := csrPart x c lo hi
      match t.1 with
      | none => (some part.1, t.2 ||| part.2)
      | some y =>
        let w := fadd y part.1
        (some w.1, t.2 ||| part.2 ||| w.2)
    else t) (none, 0)
  let t := r.1.getD 0
  if x.acc then
    let w := fadd (x.yGet i c) t
    (w.1, r.2 ||| w.2)
  else (t, r.2)

/-- The cells of one element of Y at logical column c and row i: none where the write falls in padding (R254). -/
def csrPut (y : View) (i c : Nat) (x : Nat) : List (Nat × Byte) :=
  match y.desc.writePlace [(c : Int), (i : Int)] with
  | .data q _ => cellsAt (y.addr q) (leBytes y.desc.esize x)
  | _ => []

/-- The cells and flags of row i of Y. -/
def csrRow (x : CsrIn) (y : View) (i : Nat) : List (Nat × Byte) × Flags :=
  (List.range x.n).foldl (fun a c =>
    let e := csrElem x i c
    let q := convert y.desc.ty .fp32 0 0 false e.1
    (a.1 ++ csrPut y i c q.1.toNat, a.2 ||| e.2 ||| q.2)) ([], 0)

/-- Whether stored element k has been taken before step n. -/
def csrTaken (x : CsrIn) (n k : Nat) : Bool := decide (csrStepOf x.h.nnz x.pc k < n)

/-- Whether the walk has passed row i, which has no stored element, before step n: the elements around it have been taken. -/
def csrPassed (x : CsrIn) (n i : Nat) : Bool :=
  let k := x.ptr.getD i 0
  (decide (k = 0) || csrTaken x n (k - 1)) && (decide (k = x.h.nnz) || csrTaken x n k)

/-- A row is certainly written before step n when all of its elements are taken at earlier steps, and an empty one when the walk has
passed it and every empty row before it, since those are written in ascending order (R205). -/
def csrRowDone (x : CsrIn) (n i : Nat) : Bool :=
  let lo := x.ptr.getD i 0
  let hi := x.ptr.getD (i + 1) 0
  if lo < hi then (List.range (hi - lo)).all fun j => csrTaken x n (lo + j)
  else (List.range (i + 1)).all fun j => decide (x.ptr.getD j 0 < x.ptr.getD (j + 1) 0) || csrPassed x n j

/-- The cells of a row whose contents are undefined: free values. -/
def csrUndef (s : State) (x : CsrIn) (y : View) (i : Nat) : List (Nat × Byte) :=
  (List.range x.n).flatMap fun (c : Nat) => csrPut y i c (Config.freeValue (s.free + i * x.n + c)).toNat

/-- Read the element of a view at logical column c and row `row` (R253). -/
def viewWord (s : State) (v : View) (row c : Nat) : W32 :=
  widen v.desc.ty (match v.desc.readPlace [(c : Int), (row : Int)] with
    | .data q _ => BitVec.ofNat 32 (leNat (readBytes s (v.addr q) v.desc.esize))
    | .pad _ => v.desc.padval
    | .fill => v.desc.fill
    | .dropped => 0)

/-- Read an array that VCSR has checked. -/
def csrArray (p : Fin 72) (r : State × Option Flt) (a len : Nat) : (State × Option Flt) × List Byte :=
  match r.2 with
  | some _ => (r, [])
  | none =>
    let q := devRead (.core p) r.1 a len
    ((q.1, q.2.2), q.2.1)

/-- The errors that reading rows of a view meets. -/
def viewErr (p : Fin 72) (n : Nat) (v : View) (r : State × Option Flt) (rows : List Nat) : State × Option Flt :=
  rows.foldl (fun r (row : Nat) => (List.range n).foldl (fun r (c : Nat) =>
    match v.desc.readPlace [(c : Int), (row : Int)] with
    | .data q _ => (csrArray p r (v.addr q) v.desc.esize).1
    | _ => r) r) r

/-- COR_VE_CSR_LAST: STEPS, P, and CLOCKS_EXTRA, which is timing: a free value. -/
def csrLastWord (s : State) (nnz pc : Nat) : W64 :=
  BitVec.ofNat 64 ((nnz + pc - 1) / pc * 2 ^ 32 + pc * 2 ^ 12 + (Config.freeValue s.free).toNat % 2 ^ 12)

/-- The walk as far as it has come: the module, and the step and the fault at which it stopped. -/
abbrev CsrRun := State × Option (Nat × Flt)

/-- Take stored element k at step n: its column index is read and checked before its value and the row of B that it selects (check 5 of
R202). -/
def csrTake (p : Fin 72) (x : CsrIn) (b : View) (n : Nat) (r : CsrRun) (k : Nat) : CsrRun :=
  match r.2 with
  | some _ => r
  | none =>
    let c := csrArray p (r.1, none) (x.h.colidx + 4 * k) 4
    let col := leNat c.2
    if c.1.2.isNone && decide (x.h.cols ≤ col) then (c.1.1, some (n, csrColFlt k))
    else
      let v := csrArray p c.1 (x.h.values + x.h.vty.bytes * k) x.h.vty.bytes
      let w := viewErr p x.n b v.1 [col]
      (w.1, w.2.map (n, ·))

/-- Rows of Y that are written between two steps, read first where MODE accumulates. -/
def csrAccRead (p : Fin 72) (x : CsrIn) (y : View) (n : Nat) (rows : List Nat) (r : CsrRun) : CsrRun :=
  match r.2, x.acc with
  | none, true =>
    let w := viewErr p x.n y (r.1, none) rows
    (w.1, w.2.map (n, ·))
  | _, _ => r

/-- Step n of the walk: its elements, then the rows that it completes. -/
def csrStep (p : Fin 72) (x : CsrIn) (b y : View) (r : CsrRun) (n : Nat) : CsrRun :=
  csrAccRead p x y n ((List.range x.h.rows).filter fun i => csrRowDone x (n + 1) i && !csrRowDone x n i)
    ((csrStepElems x.h.nnz x.pc n).foldl (csrTake p x b n) r)

/-- Everything that the walk reads, up to its first failure, step by step and by partition in a step (DEDUCED, log 140). -/
def csrReads (p : Fin 72) (x : CsrIn) (b y : View) (s : State) : CsrRun :=
  (List.range ((x.h.nnz + x.pc - 1) / x.pc)).foldl (csrStep p x b y)
    (csrAccRead p x y 0 ((List.range x.h.rows).filter (csrRowDone x 0)) (s, none))

/-- What the walk works on, with the row pointers that have been read. -/
def csrInput (s : State) (acc : Bool) (h : CsrHdr) (b y : View) (ptr : List Nat) : CsrIn :=
  let n := b.desc.dim 0
  { h, n, pc := 512 / n, ptr, acc
    cols := wordsAt (readBytes s h.colidx (4 * h.nnz))
    vals := (List.range h.nnz).map fun k =>
      widen h.vty (BitVec.ofNat 32 (leNat (readBytes s (h.values + k * h.vty.bytes) h.vty.bytes)))
    bGet := viewWord s b
    yGet := viewWord s y }

/-- What Y holds where the walk stopped at step n: the rows certainly written before it hold their values, every other row is undefined
(R202, R205). -/
def csrStopped (s : State) (x : CsrIn) (y : View) (n : Nat) : List (Nat × Byte) :=
  (List.range x.h.rows).flatMap fun i => if csrRowDone x n i then (csrRow x y i).1 else csrUndef s x y i

/-- A finished walk. -/
def csrFinish (p : Fin 72) (x : CsrIn) (b y : View) (s : State) : RunOut :=
  let rows := (List.range x.h.rows).map (csrRow x y)
  let w := storeCells p { s with free := s.free + 1 } (rows.flatMap (·.1))
  match w.2 with
  | some f => ranFault w.1 f
  | none =>
    { st := useBegin (useBegin w.1 b.entry) y.entry
      sticky := (rows.foldl (fun a r => a ||| r.2) 0) &&& 0x1D
      uses := [b.entry, y.entry]
      csrLast := some (csrLastWord s x.h.nnz x.pc) }

/-- Check 4, then the walk with check 5. -/
def csrWalk (p : Fin 72) (acc : Bool) (h : CsrHdr) (b y : View) (s : State) : RunOut :=
  let r := csrArray p (s, none) h.rowptr (4 * (h.rows + 1))
  let ptr := wordsAt r.2
  match r.1.2, csrPtrBad h ptr with
  | some f, _ => ranFault r.1.1 f
  | none, some j => ranFault r.1.1 (csrPtrFlt j)
  | none, none =>
    let x := csrInput r.1.1 acc h b y ptr
    let w := csrReads p x b y r.1.1
    match w.2 with
    | some (n, f) =>
      ranFault (storeCells p { w.1 with free := w.1.free + h.rows * x.n } (csrStopped w.1 x y n)).1 f
    | none => csrFinish p x b y w.1

/-- VCSR: checks 1 to 3 of R202 in order, then the walk. -/
def runVcsr (p : Fin 72) (e : Entry) (o : OpD) (s : State) : RunOut :=
  let a := e.b.toNat
  if a % 64 ≠ 0 then ranFault s (csrHdrFlt 0)
  else if !ownSpan s p a 64 then ranFault s (vecAddrFlt a)
  else
    let r := devRead (.core p) s a 64
    let h := csrHdr r.2.1
    match r.2.2.or ((csrHdrBad r.2.1 h).map csrHdrFlt) with
    | some f => ranFault r.1 f
    | none =>
      let v := openTwo (.core p) r.1 e.c e.a
      match v.2 with
      | .error f => ranFault v.1 f
      | .ok (b, y) =>
        if !y.destOk then ranFault v.1 (layDestFlt y.handle)
        else if !csrShapeOk h b.desc y.desc then ranFault v.1 (csrHdrFlt 0x40)
        else match csrPlaceFlt p v.1 h b y with
          | some f => ranFault v.1 f
          | none => csrWalk p (bitB o.mode 0) h b y v.1

end Sys2Proof.Machine
end

