-- ==== Sys2Proof/Machine/Engine.lean ====
section
/-!
DEFINITION. Sys2Proof/Machine/Engine.lean: issue to the engine queues (R25, R27, R32, R44, R59), the start of queue heads
(R28, R32, R34), release and completion with their signals (R28, R35, R36), and what the core's queues give in a fault
(R49).
-/
namespace Sys2Proof.Machine

/-! ## Places that a started instruction reads (R47, R108, R109, R149, R169)

The sets and the segment table that a product streams through are read as it needs them (Matrix.lean), a chain's places in its stages
(Chain.lean), registers S and P at issue. -/

def lanePlaces (r : BitVec 5) (lanes : List Nat) : List Place := lanes.map fun l => .v (r.toNat * 512 + l)

/-- The element type by which predication of an instruction goes. -/
def laneTy (op : CoreOp) (o : OpV) : ETy :=
  match op with
  | .vperm | .vslide | .vbcast | .vscan | .vlut | .twr | .vldab | .vstab | .vrng => .fp32
  | _ => tyOf o.type

/-- Lanes with an element that the instruction acts on: a VCVT has one or two in a lane by R77's k, not by its types alone. -/
def lanesOn (c : Core) (e : Entry) (o : OpV) : List Nat :=
  match e.op with
  | .vcvt =>
    let k := cvtK (tyOf o.type) (tyOf o.type2)
    (List.range (vlOf o)).filter fun l => activeAt c o l false || (decide (k = 2) && activeAt c o l true)
  | op => activeLanes c o (laneTy op o)

/-- Lanes of VA that a cross-lane move takes: `f` of each active lane, where it lies below VL. -/
def movedLanes (o : OpV) (on : List Nat) (f : Nat → Int) : List Place :=
  lanePlaces o.va ((on.filter fun (l : Nat) => decide (0 ≤ f l ∧ f l < vlOf o)).map fun l => (f l).toNat)

/-- Lanes of V registers that an instruction reads. -/
def vecPlaces (c : Core) (e : Entry) (o : OpV) : List Place :=
  let t := laneTy e.op o
  let on := lanesOn c e o
  let b := if o.bs then [] else lanePlaces o.vb on
  match e.op with
  | .vfma | .vfms => lanePlaces o.va on ++ b ++ lanePlaces o.vc on
  | .vadd | .vsub | .vmul | .vmin | .vmax | .vcmp | .vand | .vor | .vxor | .vshl | .vshr => lanePlaces o.va on ++ b
  | .vabs | .vneg | .vmov | .vcvt | .sparsify | .vst | .vstab | .vred | .vscan | .vlut | .twr | .vzmap | .ffun | .fstat =>
    lanePlaces o.va on
  | .vsel =>
    let off := (elemPlaces (vlOf o) t.perLane).filter fun x => !activeAt c o x.1 (decide (x.2 = 1))
    lanePlaces o.va on ++ if o.bs then [] else lanePlaces o.vb (off.map (·.1))
  | .vperm => b ++ movedLanes o on fun l => (opB c e o l).toNat
  | .vslide => movedLanes o on fun l => (l : Int) - (o.fx.extractLsb' 0 10).toInt
  | .vbcast => movedLanes o on fun _ => bitsN o.fx 0 9
  | .vseq => lanePlaces o.vd on
  | _ => []

/-- The masks that an instruction reads: MK and, for high halves, M(MK XOR 1); those that VMSET combines (R65, R77, R133). -/
def maskPlaces (e : Entry) (o : OpV) : List Place :=
  match e.op with
  | .vmset =>
    match bitsN o.fx 0 3 with
    | 3 => [.m (o.va.toNat % 8)]
    | 0 | 1 | 2 => [.m (o.va.toNat % 8), .m (o.vb.toNat % 8)]
    | _ => []
  | op =>
    let two := if op = .vcvt then decide (cvtK (tyOf o.type) (tyOf o.type2) = 2) else decide ((laneTy op o).perLane = 2)
    if o.mskEn then .m o.msk.toNat :: if two then [.m (o.msk.toNat ^^^ 1)] else [] else []

/-- The generators that an instruction draws from: those of its active lanes (R64, R119, R145). -/
def genPlaces (c : Core) (e : Entry) (o : OpV) : List Place :=
  if decide (e.op = .vrng) || (decide (o.rnd = 4) && !(decide (e.op = .vcvt) && convTable (tyOf o.type) (tyOf o.type2))) then
    (lanesOn c e o).map Place.gen
  else []

/-- Places in the engines' own storage. -/
def storePlaces (c : Core) (e : Entry) : List Place :=
  match e.op, e.args with
  | .vldab, .v o => (activeLanes c o .fp32).map fun l => .ab ((e.b.toNat + l / 64) * 32 + l % 64 / 2)
  | .cabout, _ => (List.range e.d.toNat).flatMap fun i => abPlaces (e.c.toNat + i)
  | .mcsum, _ => [.sums false]
  | .mswap, _ => [.set true]
  | .vlut, .v o =>
    let t := o.type2.toNat
    (((activeLanes c o .fp32).map fun l => (vGet c o.va l).toNat).filter (· < 256)).map fun i =>
      .tbl (t * 512 + activeCopy e.sel t * 256 + i)
  | .tswap, .v o =>
    let t := o.type2.toNat
    (List.range 256).map fun i => .tbl (t * 512 + (1 - activeCopy c.copySel t) * 256 + i)
  | .fstat, .v o => (List.range (2 ^ bitsN o.fx 12 3)).map fun i => .rstat (bitsN o.fx 0 12 + i)
  | .fstrd, .v o => [.rstat (bitsN o.fx 0 12)]
  | _, _ => []

/-- What a started instruction reads, its queue entry first. -/
def startReads (c : Core) (e : Entry) : List Place :=
  let v := match e.args with
    | .v o => maskPlaces e o ++ vecPlaces c e o ++ genPlaces c e o
    | .s o => if e.op = .svget then lanePlaces o.ra [bitsN o.imm 0 9] else []
    | _ => []
  .queue e.seq :: v ++ storePlaces c e

/-! ## Starting -/

/-- The effect of an engine instruction when it starts. -/
def runEntry (p : Fin 72) (e : Entry) (s : State) : RunOut :=
  match e.op, e.args with
  | .vcsr, .d o => runVcsr p e o s
  | .vchld, .v o => runVchld p e o s
  | .vld, .v o => runVld p e o s
  | .vst, .v o => runVst p e o s
  | .vldw, .v o => runVldw p e o s
  | .vldab, .v o => runVldab p e o s
  | .vstab, .v o => runVstab p e o s
  | .vperm, .v o => runVperm p e o s
  | .vslide, .v o => runVslide p o s
  | .vbcast, .v o => runVbcast p o s
  | .vred, .v o => runVred p o s
  | .vscan, .v o => runVscan p o s
  | .vseq, .v o => runVseq p e o s
  | .vlut, .v o => runVlut p e o s
  | .twr, .v o => runTwr p o s
  | .tswap, .v o => runTswap p o s
  | .vzmap, .v o => runVzmap p e o s
  | .vmset, .v o => runVmset p e o s
  | _, .s o => runScalar p e o s
  | _, .m o => runMatrix p e o s
  | op, .v o => if opGroup op = 7 then runSf p e o s else runVector p e o s
  | op, .d o => if opGroup op = 9 then runCollPort p e o s else runCopy p e s
  | _, .none => ranOk s

def queueOf (c : Core) (g : Engine) : List Entry := vAt c.queues [] (engIdx g).val
def flightOf (c : Core) (g : Engine) : List Inflight := vAt c.inflight [] (engIdx g).val
def setQueue (c : Core) (g : Engine) (l : List Entry) : Core := { c with queues := c.queues.setIfInBounds (engIdx g).val l }
def setFlight (c : Core) (g : Engine) (l : List Inflight) : Core :=
  { c with inflight := c.inflight.setIfInBounds (engIdx g).val l }

/-- The chain slot that a product names; 0 where there is none. -/
def prodSlot (e : Entry) : Nat :=
  match e.op, e.args with
  | .mprod, .m o => o.chain.toNat
  | _, _ => 0

/-- Products of the ME that have started and are not complete. -/
def meRunning (c : Core) : List Entry := (flightOf c .me).map (·.e)

/-- Products of the ME that are queued before a place in issue order, or not complete. -/
def meEarlier (c : Core) (seq : Nat) : List Entry := (queueOf c .me).filter (fun m => decide (m.seq < seq)) ++ meRunning c

/-- Whether a slot's program looks up table t. -/
def slotUsesTable (c : Core) (slot t : Nat) : Bool :=
  match slotGet c slot with
  | none => false
  | some g => g.stages.any fun w => decide (stOp w = 9 ∧ stFn w % 2 = t)

/-- Whether an instruction of the VE looks up table t. -/
def looksUp (t : Nat) (e : Entry) : Bool :=
  match e.op, e.args with
  | .vlut, .v o => decide (bitsN o.type2 0 1 = t)
  | _, _ => false

/-- The row-statistics entries of an instruction of the SF: the first and how many; and whether it writes them. -/
def sfEntries (e : Entry) : Nat × Nat × Bool :=
  match e.op, e.args with
  | .fstat, .v o => (bitsN o.fx 0 12, 2 ^ bitsN o.fx 12 3, true)
  | .fstclr, .v o => (bitsN o.fx 0 12, e.b.toNat, true)
  | .fstrd, .v o => (bitsN o.fx 0 12, 1, false)
  | _, _ => (0, 0, false)

/-- Whether an earlier SF instruction in progress writes an entry that this one touches (R167). -/
def sfBusy (c : Core) (e : Entry) : Bool :=
  let x := sfEntries e
  (flightOf c .sf).any fun y =>
    let z := sfEntries y.e
    z.2.2 && decide (x.1 < z.1 + z.2.1 ∧ z.1 < x.1 + x.2.1)

/-- V registers that an instruction of the VE or the SF reads. -/
def vReads (e : Entry) : List Nat :=
  match e.op, e.args with
  | .vfma, .v o | .vfms, .v o => o.va.toNat :: o.vc.toNat :: if o.bs then [] else [o.vb.toNat]
  | .vadd, .v o | .vsub, .v o | .vmul, .v o | .vmin, .v o | .vmax, .v o | .vcmp, .v o | .vsel, .v o | .vand, .v o | .vor, .v o
  | .vxor, .v o | .vshl, .v o | .vshr, .v o | .vperm, .v o => o.va.toNat :: if o.bs then [] else [o.vb.toNat]
  | .vseq, .v o => [o.vd.toNat]
  | .vrng, _ | .vld, _ | .vldw, _ | .vldab, _ | .tswap, _ | .vchld, _ | .vmset, _ | .fstrd, _ | .fstclr, _ | .engineNop _, _ => []
  | _, .v o => [o.va.toNat]
  | _, _ => []

/-- V registers that an instruction of the VE or the SF writes. -/
def vWrites (e : Entry) : List Nat :=
  match e.op, e.args with
  | .sparsify, .v o => [o.vd.toNat, o.vc.toNat]
  | .vst, _ | .vstab, _ | .vcmp, _ | .vmset, _ | .twr, _ | .tswap, _ | .vchld, _ | .vzmap, _ | .fstat, _ | .fstclr, _
  | .engineNop _, _ => []
  | _, .v o => [o.vd.toNat]
  | _, _ => []

/-- Whether an instruction in progress on the same engine writes a V register or a mask that this one reads (R130, R168). -/
def writerAhead (l : List Inflight) (e : Entry) : Bool :=
  let masks := match e.args with
    | .v o => maskPlaces e o
    | _ => []
  l.any fun x => (vWrites x.e).any (fun r => (vReads e).contains r) ||
    (maskWrites x.e).any fun m => masks.contains (.m m)

/-- Heads that their engine does not yet start: one that waits for a wipe to end or for a memory clock (R227, R278); a product, MCSUM or
MABCLR while the ME has an epilogue (log 15); one of the CP until the instruction before has released (R350); one of the SF until
earlier writes of its entries have completed (R167); one of the VE or the SF that reads what an instruction before it is still writing
(R130, R168); a TWR whose copy a lookup or an earlier product still needs, a VCHLD into the slot of an unfinished one (R82, R83, R179). -/
def startHeld (c : Core) (g : Engine) (e : Entry) : Bool :=
  e.held || ((decide (g = .ve) || decide (g = .sf)) && writerAhead (flightOf c g) e) ||
  match g, e.op, e.args with
  | .me, .mprod, _ => !c.runs.isEmpty
  | .me, .mcsum, _ => !c.runs.isEmpty
  | .me, .mabclr, _ => !c.runs.isEmpty
  | .cp, _, _ => (flightOf c .cp).any fun x => !x.released
  | .sf, _, _ => sfBusy c e
  | _, .twr, .v o =>
    let t := bitsN o.type2 0 1
    let retired (m : Entry) : Bool := decide (bitB m.sel t ≠ bitB c.copySel t)
    ((meEarlier c e.seq).any fun m => decide (m.seq < e.seq) && decide (0 < prodSlot m) && retired m && slotUsesTable c (prodSlot m) t) ||
      (flightOf c .ve).any fun x => looksUp t x.e && retired x.e
  | _, .vchld, .v o => (meEarlier c e.seq).any fun m => decide (prodSlot m = o.fx.toNat)
  | _, _, _ => false

/-- Whether a queue's head may start: its waits are satisfied or it has none, and its engine allows it. -/
def mayStart (c : Core) (g : Engine) : Bool :=
  match queueOf c g with
  | [] => false
  | e :: _ => (!syWaits e.sync || e.armed) && !startHeld c g e

/-- Signal fields (R31). -/
def syNoSignal (y : BitVec 48) : Bool := !sySfEn y && !sySkEn y

/-- Deliver signals in instruction order (R28): those of a released instruction with SIG_AT = 1, and none where there are
none, up to the first that must wait. -/
def deliverSignals : List Inflight → Core → List Inflight × Core
  | [], c => ([], c)
  | x :: t, c =>
    if x.signalled then
      let r := deliverSignals t c
      (x :: r.1, r.2)
    else if syNoSignal x.e.sync || (sySigAt x.e.sync && x.released) then
      let r := deliverSignals t (applySignals x.e.sync c)
      ({ x with signalled := true } :: r.1, r.2)
    else (x :: t, c)

def deliverCore (c : Core) (g : Engine) : Core :=
  let r := deliverSignals (flightOf c g) c
  setFlight r.2 g r.1

/-- The bits of a lane that younger instructions of the engine have written. -/
def youngerBits (younger : List Inflight) (i : Nat) : W32 :=
  younger.foldl (fun m y => y.outV.foldl (fun m k => if k.1 = i then m ||| k.2.1 else m) m) 0

/-- Land the bits of one written lane that `keep` does not hold. -/
def landLane (keep : W32) (l : Nat × W32 × W32) (v : List (Nat × W32)) : List (Nat × W32) :=
  let m := l.2.1 &&& ~~~keep
  smapPut (fun _ => (0 : W32)) v l.1 (smapGet (fun _ => (0 : W32)) v l.1 &&& ~~~m ||| l.2.2 &&& m)

/-- The writes of an instruction that completes land: what it writes of a lane of V holds the value of the write that completes later, where
its own engine has not started a younger write of it (R130, R168). -/
def landLanes (younger : List Inflight) (x : Inflight) (c : Core) : Core :=
  { c with v := x.outV.foldr (fun l v => landLane (youngerBits younger l.1) l v) c.v }

/-- An instruction completes: its writes land, its sticky bits are set (R134) and its signals delivered (R28, R35). -/
def completeCore (g : Engine) (younger : List Inflight) (x : Inflight) (c : Core) : Core :=
  let c := orSticky (landLanes younger x c) g x.sticky
  if x.signalled then c else applySignals x.e.sync c

/-- Instructions that completed as they started, which write no lane and set no sticky bit, leave once those before them have (R28, R58,
R91). -/
def drainDone : List Inflight → Core → List Inflight × Core
  | [], c => ([], c)
  | x :: t, c => if x.done then drainDone t (if x.signalled then c else applySignals x.e.sync c) else (x :: t, c)

/-- What follows a start, a release or a completion on an engine. -/
def settleFlight (c : Core) (g : Engine) : Core :=
  let r := drainDone (flightOf c g) c
  deliverCore (setFlight r.2 g r.1) g

/-- An instruction whose encoding names no source operand releases as it starts (R35, R58, R91; DEDUCED, log 114). -/
def noSource (e : Entry) : Bool :=
  match e.op, e.args with
  | .engineNop _, _ | .mswap, _ | .mabclr, _ | .tswap, _ => true
  | .vmset, .v o => decide (5 ≤ bitsN o.fx 0 3)
  | .vrng, .v o => !o.mskEn
  | .svget, _ => false
  | op, .s o => decide (srcsOf op (.s o) = {})
  | _, _ => false

/-- An engine no-op and an MSWAP complete in the clock in which they start (R58, R91). -/
def doneAtStart (e : Entry) : Bool :=
  match e.op with
  | .engineNop _ | .mswap => true
  | _ => false

/-- The instruction has started: it is in progress with what it wrote. -/
def inProgress (g : Engine) (e : Entry) (r : RunOut) (c : Core) : Core :=
  let x : Inflight := { e := e, released := noSource e, done := doneAtStart e, sticky := r.sticky, uses := r.uses, csrLast := r.csrLast,
                        outV := c.outV, outAb := c.outAb, outMem := c.outMem }
  settleFlight (setFlight { c with outV := [], outAb := [], outMem := [] } g (flightOf c g ++ [x])) g

/-- The head leaves its queue with no write made yet. -/
def takeHead (g : Engine) (rest : List Entry) (c : Core) : Core := { setQueue c g rest with outV := [], outAb := [], outMem := [] }

/-- The effect of a head on the state in which it has left its queue, unless it meets a bank that is wiped or a controller without a
clock, and waits. -/
def startEntry (p : Fin 72) (g : Engine) (e : Entry) (rest : List Entry) (s : State) (s1 : State) : State :=
  let r := runEntry p e s1
  if r.st.vit.met ≠ s.vit.met then s.modCore p fun c => setQueue c g ({ e with held := true } :: rest)
  else match r.fault with
    | some f => coreFault r.st p (engCode g) f e.stream (e.pc.zeroExtend 64)
    | none => r.st.modCore p (inProgress g e r)

/-- Start the head of a queue. An error in what it reads is a fault with the engine's own number (DEDUCED, log 129). -/
def startHead (p : Fin 72) (g : Engine) (s : State) : State :=
  match queueOf (s.core p) g with
  | [] => s
  | e :: rest =>
    let k := eccRead (s.modCore p (takeHead g rest)) p (startReads (s.core p) e)
    match k.2 with
    | some f => coreFault k.1 p (engCode g) f e.stream (e.pc.zeroExtend 64)
    | none => startEntry p g e rest s k.1

def engines : List Engine := [.su, .me, .ve, .sf, .ce, .cp]

/-- Start every head that may start, in the order of R34. -/
def pumpCore (p : Fin 72) : Nat → State → State
  | 0, s => s
  | n + 1, s =>
    match engines.find? (mayStart (s.core p)) with
    | none => s
    | some g => pumpCore p n (startHead p g s)

def pumpQueues (p : Fin 72) (s : State) : State :=
  pumpCore p ((s.core p).queues.toList.foldl (fun a l => a + l.length) 0) s

/-! ## Issue -/

/-- The threshold of a counter wait, computed at issue (R32). -/
def threshold (c : Core) (k : Ctl) : BitVec 16 :=
  if syWkSrel k.sync then syWkTh k.sync + (readS c k.stream (syWkSreg k.sync)).extractLsb' 0 16 else syWkTh k.sync

/-- The queue entry of an instruction with the operands it reads at issue. -/
def entryOf (c : Core) (op : CoreOp) (args : Args) (k : Ctl) : Entry :=
  let x := srcsOf op args
  { op := op, args := args, sync := k.sync, a := readSrc c k.stream x.a, b := readSrc c k.stream x.b,
    c := readSrc c k.stream x.c, d := readSrc c k.stream x.d, thr := threshold c k, pc := (streamOf c k.stream).pc,
    stream := k.stream, destS := destOf op args, sel := c.issueSel, seq := c.seq }

/-- Queue an entry; a TSWAP exchanges the copies that later instructions name (R82). -/
def enqueue (c : Core) (g : Engine) (e : Entry) : Core :=
  let sel := match e.op, e.args with
    | .tswap, .v o => c.issueSel ^^^ (if bitB o.type2 0 then 2 else 1)
    | _, _ => c.issueSel
  { setQueue c g (queueOf c g ++ [e]) with seq := c.seq + 1, issueSel := sel }

/-- What an instruction that reaches issue gives: a fault of the front end, a stall, or its queue. -/
inductive Issue where
  | fault (f : Flt)
  | stall
  | entry (g : Engine)
  deriving DecidableEq, Repr

/-- The checks at issue: the opcode and its queue (R57, R58), the stream (R44), fields (R31, R45, R59, R61), then the stalls of R27. -/
def issueCheck (c : Core) (op : CoreOp) (args : Args) (k : Ctl) : Issue :=
  let x := srcsOf op args
  match opEngine op with
  | none => .fault (opcodeFlt op)
  | some g =>
    if c.pl12 && decide (k.stream ≠ engIdx g) then .fault ⟨0x0106, op.code.zeroExtend 32⟩
    else if !syncOk k.sync || !formOk op args || !pl12RegsOk c x k.sync (destOf op args) then .fault (opcodeFlt op)
    else if decide (32 ≤ (queueOf c g).length) || scoreboardHolds c k.stream x k.sync then .stall
    else .entry g

/-- An instruction whose operands have been read: their values are checked (R59), and it enters its queue. -/
def issueEntry (op : CoreOp) (args : Args) (k : Ctl) (g : Engine) (s : State) : State :=
  let e := entryOf (s.core k.core) op args k
  if valuesOk e then pumpQueues k.core (advance (s.modCore k.core fun c => enqueue c g e) k.core k.stream)
  else frontFault s k.core k.stream (opcodeFlt op)

/-- The instruction at the program counter reaches issue. -/
def issueNow (op : CoreOp) (args : Args) (k : Ctl) (s : State) : State :=
  match issueCheck (s.core k.core) op args k with
  | .stall => s
  | .fault f => frontFault s k.core k.stream f
  | .entry g =>
    withPlaces k.core k.stream (sourcePlaces (s.core k.core) k.stream (srcsOf op args) k.sync) s (issueEntry op args k g)

/-- An instruction of an engine reaches issue: it enters its queue and starts as soon as its waits and its engine allow. -/
def issue (op : CoreOp) (args : Args) (k : Ctl) (s : State) : Result :=
  if !domOn s 0 || !canIssue (s.core k.core) k.stream then .next s
  else answer s (withLine k.core k.stream (s.modCore k.core Core.loaded) (issueNow op args k))

/-! ## Events of the queues -/

/-- Whether a core's engines work: D00 runs, and the core runs or drains. -/
def coreWorks (s : State) (p : Fin 72) : Bool := domOn s 0 && decide ((s.core p).runstate = 2 ∨ (s.core p).runstate = 3)

/-- Whether a head waits and its waits are satisfied now. -/
def headReady (c : Core) (g : Engine) : Bool :=
  match queueOf c g with
  | [] => false
  | e :: _ => syWaits e.sync && !e.armed && waitsOk c e.sync e.thr

/-- Whether a head of higher priority could consume the flag that this head clears (R34). -/
def outranked (c : Core) (g : Engine) (y : BitVec 48) : Bool :=
  syWfEn y && syWfClr y &&
  engines.any fun h => decide ((engIdx h).val < (engIdx g).val) && headReady c h &&
    match queueOf c h with
    | [] => false
    | e :: _ => syWfEn e.sync && syWfClr e.sync && decide (syWfIdx e.sync = syWfIdx y)

/-- WAIT_SATISFIED: the head of a queue has its waits satisfied: it clears a flag if WF_CLR is set, is a barrier for the L1
after an outside signal (R234), and starts (R32, R34). -/
def execWaitSatisfied (p : Fin 72) (g : Engine) (s : State) : Result :=
  let c := s.core p
  answer s (
    match queueOf c g with
    | [] => s
    | e :: rest =>
      if coreWorks s p && headReady c g && !outranked c g e.sync then
        let s1 := if c.extSig then l1Barrier p s else s
        pumpQueues p (s1.modCore p fun c => setQueue (waitClear e.sync c) g ({ e with armed := true } :: rest))
      else s)

/-- Mark the first that has not released. -/
def releaseFirst : List Inflight → List Inflight
  | [] => []
  | x :: t => if x.released then x :: releaseFirst t else { x with released := true } :: t

/-- INSTRUCTION_RELEASE: the oldest started instruction that has not released has read its sources (R35). -/
def execInstructionRelease (p : Fin 72) (g : Engine) (s : State) : Result :=
  answer s (
    match (flightOf (s.core p) g).find? fun x => !x.released with
    | none => s
    | some x =>
      if coreWorks s p && cpMayRelease s p x.e then
        pumpQueues p (s.modCore p fun c => settleFlight (setFlight c g (releaseFirst (flightOf c g))) g)
      else s)

/-- Whether an instruction may complete: a product when its epilogue has ended, a CP instruction as R350 and R364 say. -/
def mayComplete (s : State) (p : Fin 72) (x : Inflight) : Bool :=
  (decide (x.e.op ≠ .mprod) || !(s.core p).runs.any fun r => r.seq = x.e.seq) && cpMayComplete s p x.e

/-- INSTRUCTION_COMPLETE: the writes of the oldest started instruction are visible, and its uses end (R244). -/
def execInstructionComplete (p : Fin 72) (g : Engine) (s : State) : Result :=
  answer s (
    match flightOf (s.core p) g with
    | [] => s
    | x :: rest =>
      if coreWorks s p && mayComplete s p x then
        let s1 := usesEnd s x.uses
        let s2 := match x.csrLast with
          | some v => s1.rset .corVeCsrLast p.val 0 v
          | none => s1
        pumpQueues p (s2.modCore p fun c => settleFlight (completeCore g rest x (setFlight c g rest)) g)
      else s)

/-- Detail of E_CORE_WAIT_TIMEOUT (R47). -/
def waitFlt (g : Engine) (y : BitVec 48) : Flt :=
  ⟨0x0103, BitVec.ofNat 32 ((engIdx g).val + 1 + (if syWfEn y then syWfIdx y * 256 else 0)
    + (if syWkEn y then syWkIdx y * 65536 else 0))⟩

/-- E_CORE_WAIT_TIMEOUT: a head has waited longer than COR_WAIT_LIMIT (R38). -/
def execWaitTimeout (p : Fin 72) (g : Engine) (s : State) : Result :=
  let c := s.core p
  answer s (
    match queueOf c g with
    | [] => s
    | e :: _ =>
      if coreWorks s p && syWaits e.sync && !e.armed && !waitsOk c e.sync e.thr &&
          decide (s.rget .corWaitLimit p.val 0 ≠ 0) then
        coreFault s p (engCode g) (waitFlt g e.sync) e.stream (e.pc.zeroExtend 64)
      else s)

/-- What a group has written belongs to the product that it finishes. -/
def noteGroup (seq : Nat) (c : Core) : Core :=
  let l := (flightOf c .me).map fun x =>
    if x.e.seq = seq then { x with outAb := c.outAb ++ x.outAb, outMem := c.outMem ++ x.outMem } else x
  { setFlight c .me l with outV := [], outAb := [], outMem := [] }

/-- The band and the run after a group of n rows. -/
def groupTaken (run : ChainRun) (rest : List ChainRun) (n : Nat) (c : Core) : Core :=
  let left := run.rows.drop 8
  if left.isEmpty then advanceBand { c with runs := rest } run.slot run.n
  else { c with runs := { run with rows := left, next := run.next + n } :: rest }

/-- CHAIN_GROUP: the epilogue takes the next group of up to eight rows of the running product; after its last group the
band advances (R180, R181). -/
def execChainGroup (p : Fin 72) (s : State) : Result :=
  let c := s.core p
  answer s (
    match (if domOn s 0 then c.runs else []) with
    | [] => s
    | run :: rest =>
      match slotGet c run.slot with
      | none => s
      | some g =>
        let rows := runGroup c run (tyOf g.einFmt)
        let x : ChainCtx := { p := p, slot := run.slot, g := g, epi := true, n := 64, sel := run.sel, abr := run.abr }
        let d := chainDone p (epilogueGroup x rows s)
        match d.2 with
        | some f => coreFault d.1 p 2 f run.stream (run.pc.zeroExtend 64)
        | none => pumpQueues p (d.1.modCore p fun c => groupTaken run rest rows.length (noteGroup run.seq c)))

end Sys2Proof.Machine
end

