-- ==== Sys2Proof/Machine/Vitrine.lean ====
section
/-!
DEFINITION. Sys2Proof/Machine/Vitrine.lean: handover banks (R225 to R229), the swizzle (R219) and the patrol scrubber
(R224).
-/
namespace Sys2Proof.Machine

/-! ## Places of `State.mem` by gallery -/

/-- Physical gallery of a key, none below the galleries. -/
def keyGallery (k : Nat) : Option Nat := if 2 ^ 47 ≤ k then some ((k - 2 ^ 47) / 2 ^ 24) else none

/-- Gallery offset of a key under a swizzle: the inverse of R218. -/
def keyOffset (swz : W64) (k : Nat) : Nat :=
  let low := k % 2 ^ 20
  (galBank swz low ^^^ (k / 2 ^ 20 % 16)) * 2 ^ 20 + low

/-- Zero every byte whose key satisfies a test, with valid check bits. -/
def zeroKeys (s : State) (f : Nat → Bool) : State :=
  { s with mem := s.mem.filter fun c => !f c.1, galErr := s.galErr.filter fun e => !f (8 * e.1) }

/-- Zero a physical gallery. -/
def zeroGallery (s : State) (phys : Nat) : State := zeroKeys s fun k => decide (keyGallery k = some phys)

/-- Zero handover bank n: block 15 of the gallery that serves window n (R217, R227). -/
def zeroBank (s : State) (n : Nat) : State :=
  match physOf s n with
  | none => s
  | some p =>
    let swz := s.rget .vtrSwz 0 n
    zeroKeys s fun k => decide (keyGallery k = some p.val) && decide (keyOffset swz k / 2 ^ 20 = 15)

/-! ## Handover (R225 to R227) -/

/-- Whether an owner code may be named. -/
def ownerOk (s : State) (o : Nat) : Bool :=
  if o < 0x40 then decide (o < enabledCount s) else decide (o ≤ 0x43)

/-- Whether a write of VTR_OWN_n is refused (R225). -/
def handoverRefused (s : State) (w : Writer) (n o : Nat) : Bool :=
  let v := s.rget .vtrOwn 0 n
  !ownerOk s o || bitB v 30 || !bitB v 31 || (decide (bitsN v 0 8 = 0x42) && decide (w ≠ .curator))

/-- A write of VTR_OWN_n: the owner changes, and with WIPE the bank is zeroed and PENDING set (R225 to R227). The model
zeroes at once; until PENDING clears, what meets the bank waits (log 63). -/
def handoverWrite (s : State) (w : Writer) (n : Nat) (v : W64) : State :=
  if handoverRefused s w n (bitsN v 0 8) then s.rmod .vtrOwn 0 n fun x => setBit x 29 true
  else
    let s1 := s.rmod .vtrOwn 0 n fun x =>
      setBit (setBits (setBits (setBit x 29 false) 0 8 (bitsN v 0 8)) 32 16 (bitsN x 32 16 + 1)) 30 (bitB v 16)
    if bitB v 16 then zeroBank s1 n else s1

/-! ## Swizzle (R219) -/

/-- Whether core n is IDLE and handover bank n has no handover pending. -/
def swizzleOk (s : State) (n : Nat) : Bool :=
  match physOf s n with
  | none => false
  | some p => decide ((s.core p).runstate = 0) && !bitB (s.rget .vtrOwn 0 n) 30

/-- A write of VTR_SWZ_n. -/
def swizzleSet (s : State) (n : Nat) (v : W64) : State :=
  if swizzleOk s n then s.rset .vtrSwz 0 n (BitVec.ofNat 64 (bitsN v 0 2))
  else s.rmod .vtrSwz 0 n fun x => setBit x 8 true

/-! ## Patrol scrub (R224) -/

/-- One word with an error that the scrubber meets: corrected in the bank, or counted, logged and reported. -/
def scrubWord (s : State) (w : Nat) : State :=
  let at_ (n : Nat) : Nat := vtrBase + n * 2 ^ 24 + keyOffset (s.rget .vtrSwz 0 n) (8 * w)
  (keyGallery (8 * w)).elim s fun g =>
    if h : g < 72 then (logicalOf s ⟨g, h⟩).elim s fun n => (wordRead 0xFF 1 s (at_ n)).1 else s

/-- PATROL_SCRUB: one pass over every line of every enabled gallery. -/
def execPatrolScrub (s : State) : Result :=
  answer s (if bitB (s.rget .vtrScrubCtl 0 0) 31 && decide (pwrState s = 2) then (s.galErr.map (·.1)).foldl scrubWord s else s)

/-! ## Retirement (R53, R229, R245) -/

/-- When no spare remains: every VTR_OWN_n goes back to owner n with its bank zeroed; those without a gallery read
PRESENT = 0. A wipe that runs goes on to its end, and what waits for it waits till then (R227). -/
def resetOwners (s : State) : State :=
  (List.range 64).foldl (fun s n =>
    zeroBank (s.rmod .vtrOwn 0 n fun x => setBit (setBits x 0 8 n) 31 (decide (n < enabledCount s))) n) s

end Sys2Proof.Machine
end

