-- ==== Sys2Proof/Machine/Power.lean ====
section
/-!
DEFINITION. Sys2Proof/Machine/Power.lean: safe states and FAULT (R405, R413), the service floors (R420, R421), and the
resets (R417, R418).
-/
namespace Sys2Proof.Machine

/-! ## Ports in electrical idle, safe states -/

/-- A port that has lost its clock or its signal from this side: what it held is lost, and it trains again when it may. -/
def idlePort (s : State) (i : Fin 16) : State :=
  let x := portOf s i
  setPort s i { state := if portEn s i && decide (portRole s i ≠ 0) then (if s.dbg.boundary then 6 else 1) else 0, lanes := trainLanes x
                good := if x.good = 0 then 0xF else x.good, retrains := x.retrains }

def idlePorts (s : State) : State := (List.finRange 16).foldl idlePort s

/-- Step 1 of R405: every output is forced to its safe state; a snapshot in progress leaves its slot INVALID (R385). -/
def forceSafe (s : State) : State :=
  let s1 := breakSnapshot (idlePorts s)
  { s1 with power := { s1.power with safe := true } }

/-! ## Operations of the Curator that end without their bytes (R428, R433) -/

def fwState (s : State) (k : Nat) : State := s.rmod .curFwCmd 0 0 fun v => setBits v 16 2 k

/-- A read of an image that failed. -/
def firmwareFailed (s : State) (f : Flt) : State :=
  fwState (logCur { s with cur := { s.cur with fw := none } } f.code f.detail) 3

def lcState (s : State) (k : Nat) : State := s.rmod .curLcCmd 0 0 fun v => setBits v 0 2 k

/-- A new CUR_LC_NONCE. -/
def newNonce (s : State) : State := { s with free := s.free + 1, cur := { s.cur with nonce := Config.freeValue s.free } }

/-- A refused transition: nothing but the nonce changes. -/
def lcRefuse (s : State) (target : BitVec 3) : State :=
  let s1 := { s with cur := { s.cur with lcOp := none, scrap := none } }
  lcState (newNonce (logCur s1 0x0A04 (target.zeroExtend 32))) 3

/-- A read of a token that failed counts as a failed check (DEDUCED, log 47). -/
def tokenFailed (s : State) : State :=
  match s.cur.lcOp with
  | none => s
  | some op => lcRefuse s op.target

/-- The Curator's reads of host memory whose completions can no longer come: they end as reads that timed out (DEDUCED, log 144). -/
def cutReads (s : State) : State :=
  s.host.reads.foldl (fun s rd => match rd.use with
    | .firmware => firmwareFailed s ⟨0x0704, rd.addr.extractLsb' 0 32⟩
    | .token => tokenFailed s
    | _ => s) s

/-! ## FAULT and OFF -/

/-- What lies on rails 2 to 8 is lost as they fall: commands, reads, dispatches and rings, steps and operations, what the fabric delivered,
accesses that wait (R413, R469). The message intervals of the management paths stay. -/
def railsDown (s : State) : State :=
  { s with
    host := { paths := s.host.paths }, col := {}, fab := { s.fab with inbox := [], exch := none }, latches := s.latches.set 0 {}
    power := { s.power with target := none, wake := none, warmAfter := false, lossAfter := false, phase := 0, d3hot := false, flr := false
                            held := [] } }

/-- The FAULT state (R406): safe outputs, the rails down, any transition abandoned (R422). -/
def faultState (s : State) : State := setPwrState (railsDown (cutReads (forceSafe s))) 5

/-- A fault of the power intake or a thermal trip (R413, R416): the code is logged. -/
def enterFault (s : State) (code : BitVec 16) (detail : Nat) : State :=
  faultState (logPwr s code (BitVec.ofNat 32 detail))

/-- OFF (R406, R469): nothing waits and nothing runs; the link is down. PWR_STATE, which cannot be read, is at its reset value. -/
def enterOff (s : State) : State :=
  let s1 := setPwrState (railsDown (forceSafe s)) 1
  { s1 with
    host := {}, cur := { s1.cur with heldWrites := [], heldSpdm := [] }
    power := { s1.power with off := true, lost := [], link := none } }

/-- FAULT_N is driven low in FAULT, MGMT_ONLY and while the module waits for a source (R465). -/
def faultN (s : State) : Bool := s.power.off || !decide (pwrState s = 5 ∨ pwrState s = 6 ∨ pwrState s = 7)

/-! ## Floors (R420, R421) -/

/-- Whether some package has both of its controllers in service. -/
def memoryPair (s : State) : Bool := (List.range 24).any fun j => bitB s.memMap (2 * j) && bitB s.memMap (2 * j + 1)

/-- MISSING of PWR_FLOOR: cores, galleries that pass test and belong to an enabled or spare core, memory pair, registrar, network. -/
def floorMissing (s : State) : Nat :=
  let gal := (List.finRange 72).countP fun p =>
    decide (s.map[p.val].role = 0 ∨ s.map[p.val].role = 1) && !s.power.failed.contains (.gallery p)
  let reg := (List.finRange 4).any fun k => s.power.failed.contains (.registrar k)
  b2n (decide (enabledCount s < 8)) + 2 * b2n (decide (gal < 32)) + 4 * b2n (!memoryPair s) + 8 * b2n reg
    + 16 * b2n (s.power.failed.contains .network)

/-- The management floor holds (R420). -/
def mgmtFloor (s : State) : Bool :=
  [FloorPart.intake, .reference, .alwaysOn, .curator, .i3c, .pcie].all fun e => !s.power.failed.contains e

def ringGet (s : State) (r : Nat) : Ring := smapGet (fun _ => ({} : Ring)) s.host.rings r

def ringPut (s : State) (r : Nat) (x : Ring) : State :=
  { s with host := { s.host with rings := smapPut (fun _ => ({} : Ring)) s.host.rings r x } }

/-- Rings that are not DISABLED. -/
def liveRings (s : State) : List Nat := (s.host.rings.filter fun e => e.2.state ≠ 0).map (·.1)

/-- Drop reads of host memory: the requests that they have sent stay outstanding, and what answers them is discarded. -/
def dropReads (s : State) (f : HostUse → Bool) : State :=
  { s with host := { s.host with reads := s.host.reads.filter fun r => !f r.use } }

/-- DISABLE of a ring: unfetched entries are discarded, those of a read under way among them, and it drains (R295, R313). -/
def drainRing (s0 : State) (r : Nat) : State :=
  let s := dropReads s0 fun u => match u with
    | .entries k _ _ => decide (k = r)
    | .miss k _ => decide (k = r)
    | _ => false
  let x := ringGet s r
  let s1 := ringPut s r { x with state := 3, pi := x.fi }
  { s1 with host := { s1.host with marks := s1.host.marks.filter fun m => m.1 ≠ r } }

/-- Steps 2 and 3 of R421. -/
def enterMgmtOnly (s : State) : State :=
  let s1 := setPwrState (idlePorts s) 6
  s1.rmod .glbStatus 0 0 fun v => setBits v 0 2 2

/-- FLOOR_CHECK: below the management floor every output is in its safe state and nothing answers; below the compute floor the module is
management-only; in service every ring is disabled first and fetched commands run to their end (R421). -/
def floorCheck (s : State) : State :=
  let k := floorMissing s
  if !mgmtFloor s then
    let s1 := forceSafe s
    { s1 with power := { s1.power with dead := true } }
  else if k = 0 then s
  else
    let s1 := (logPwr s 0x0B08 (BitVec.ofNat 32 k)).rset .pwrFloor 0 0 (BitVec.ofNat 64 k)
    if pwrState s = 2 then
      let s2 := s1.rmod .glbStatus 0 0 fun v => setBit v 1 true
      let s3 := (liveRings s2).foldl drainRing s2
      if (liveRings s3).isEmpty then enterMgmtOnly s3 else s3
    else enterMgmtOnly s1

/-- The last ring of a module below its floor has been disabled. -/
def floorSettle (s : State) : State :=
  if bitB (s.rget .glbStatus 0 0) 1 && decide (pwrState s = 2) && (liveRings s).isEmpty then enterMgmtOnly s else s

/-! ## Clearing that several resets and wakes share -/

/-- The generators of a core. -/
def isGen : Place → Bool
  | .gen _ => true
  | _ => false

/-- Load the generators of a core from the noise source (R147). -/
def reseedCore (s : State) (p : Fin 72) : State :=
  { s.modCore p (fun c => Core.clean { c with gen := [], seedBase := s.free, reseedPending := false } isGen) with free := s.free + 1024 }

/-- Storage that a wake clears. -/
def wakeClears : Place → Bool
  | .ab _ | .tbl _ | .rstat _ => true
  | _ => false

/-- Step 4 of R409 for one core: the AB, folio tables, statistics, chain slots, caches, generators. -/
def clearCore (s : State) (p : Fin 72) : State :=
  reseedCore (s.modCore p fun c => Core.clean { c with ab := [], tbl := [], rstat := [], slots := [], l1 := [], l1Err := [] } wakeClears) p

def clearCores (s : State) : State := (List.finRange 72).foldl clearCore s

/-- The caches are empty (R237). -/
def dropCaches (s : State) : State :=
  { s with cores := s.cores.map fun c => { c with l1 := [], l1Err := [] }, vit := { s.vit with l2 := [] } }

/-- State of a core that the map gives: IDLE, SPARE or RETIRED. -/
def roleState (r : BitVec 2) : BitVec 3 := if r = 0 then 0 else if r = 1 then 7 else 6

/-- Every core at its reset state, with generators of its own; a fault record stays until software or power-on reset clears it (R394,
log 146). -/
def resetCores (s : State) : State :=
  { s with cores := Vector.ofFn fun p =>
             { Core.reset (s.free + p.val * 1024) (roleState s.map[p.val].role) with frec := s.cores[p.val].frec }
           free := s.free + 72 * 1024 }

/-- The inventory set from the enabled galleries, with every generation 1 (R246). -/
def clearInventory (s : State) : State := { s with lay := { inv := galleryEntries (enabledCount s) } }

/-- Pending controller retirements take effect (R279). -/
def applyMemRetire (s : State) : State := { s with memMap := s.memMap &&& ~~~s.memPend, memPend := 0 }

/-- VTR_OWN_n at owner n; those beyond the enabled count read PRESENT = 0 (R225, R229). -/
def ownersReset (s : State) : State :=
  (List.range 64).foldl (fun s n =>
    s.rset .vtrOwn 0 n (BitVec.ofNat 64 ((if n < enabledCount s then 2 ^ 31 else 0) + n))) s

/-- Controllers out of the interleave read RETIRED, the others the given state (R279, R286). -/
def setMemStates (s : State) (k : Nat) : State :=
  (List.range 48).foldl (fun s i =>
    s.rmod .memStatus i 0 fun v => setBits v 0 3 (if s.memMap.getLsbD i then k else 5)) s

/-! ## Warm reset (R417, R418 from step 5) -/

/-- The stall counters of a core and their snapshots (R453, R460). -/
def stallOffset (off : Nat) : Bool :=
  decide (0x1000000 ≤ off ∧ off < 0x1480000) && decide (0xC000 ≤ off % 0x10000)

/-- The counters of a core that run since power-on reset: COR_ME_PRONK_CLK, COR_ME_ZSKIP_ROWS, COR_SF_CLAMP and COR_CE_BYTES (R110, R170,
R214, R267, R453). -/
def coreCountOffset (off : Nat) : Bool :=
  decide (0x1000000 ≤ off ∧ off < 0x1480000) && [0x1030, 0x1038, 0x7008, 0x8008].contains (off % 0x10000)

/-- VTR_CONF_n, which R453 keeps. -/
def confOffset (off : Nat) : Bool := decide (0x2010000 ≤ off ∧ off < 0x2019000)

/-- The error logs that do not lie on D23: a record stays until software or power-on reset clears it (R394, log 146). -/
def logOffset (off : Nat) : Bool :=
  ([RegName.acnErrLog0, .acnErrLog1, .vtrUeLog0, .vtrUeLog1, .zmzErrLog0, .zmzErrLog1, .colErrLog0, .colErrLog1].any fun r =>
    decide (r.at 0 0 = off)) ||
  (List.range 48).any fun k => decide (RegName.memUeLog0.at k 0 = off ∨ RegName.memUeLog1.at k 0 = off)

/-- Register blocks on D23, which a warm reset keeps, the error logs, the counters of chapter 20, those since power-on and the RWS field
(R11, R394, R417, R453). -/
def keptByWarm (off : Nat) : Bool :=
  logOffset off || stallOffset off || coreCountOffset off || confOffset off ||
  decide (off = 0x10) || [0x1, 0x2, 0x3].contains (off / 0x100000) && decide (off < 0x400000)
    || decide (0x3800000 ≤ off ∧ off < 0x3C00000) || decide (0x3C00000 ≤ off)

/-- Steps 5 to 8 of R418: rails and PLLs, the core map, the floor, the cleared vitrine, the inventory, and memory in
initialisation. Ports start training (R320). -/
def bootRest (s : State) : State :=
  let s1 := resetCores s
  let s2 := clearInventory (ownersReset { s1 with mem := [], memErr := [], galErr := [], vit := { met := s1.vit.met } })
  let s3 := (setMemStates s2 0).rmod .vtrStatus 0 0 fun v => setBit v 0 true
  let s4 := { s3 with power := { s3.power with phase := 3, safe := false, memClk := true, lost := [] } }
  floorCheck (idlePorts (setPwrState s4 1))

/-- Drop what a warm reset clears. Registers of D23, the error logs, the RWS field, the Curator, management, time, the annex slots and the
power and clock log stay. The PCIe link trains again, and to the same width, rate and mode (DEDUCED, log 144). -/
def warmReset (s : State) : State :=
  let s0 := breakSnapshot (cutReads (applyMemRetire s))
  bootRest { s0 with
    regs := s0.regs.filter fun e => keptByWarm e.1
    lay := { inv := [] }
    host := { paths := s0.host.paths }
    fab := { ports := s0.fab.ports.map fun x => { retrains := x.retrains } }
    col := {}
    ras := { s0.ras with cmd := none }
    latches := s0.latches.set 0 {}
    power := { s0.power with target := none, wake := none, warmAfter := false, lossAfter := false, d3hot := false, flr := false
                             held := [] } }

/-- Ports that go to electrical idle in SLEEP or DEEP: all in DEEP or with D06 gated, one with its receive domain gated (R408). -/
def sleepPorts (s : State) (deep : Bool) : State :=
  (List.finRange 16).foldl (fun s i =>
    if deep || !domEn s 6 1 || !domEn s (7 + i.val) 1 then idlePort s i else s) s

/-! ## Power-on reset (R417, R418) -/

/-- The core map at power-on: cores returned to service are spares; where fewer than 64 are enabled, spares are enabled in
ascending physical order and logical indices are dense (R435). -/
def mapAtPowerOn (s : State) : Vector CoreMapEntry 72 :=
  let m1 : Vector CoreMapEntry 72 := s.cur.backCores.foldl (fun m p => m.setIfInBounds p ⟨1, 0⟩) s.map
  let have_ := m1.toList.countP fun e => e.role = 0
  let spares := (List.range 72).filter fun p => decide ((vAt m1 ⟨3, 0⟩ p).role = 1)
  if have_ < 64 ∧ !spares.isEmpty then
    let up := spares.take (64 - have_)
    let on (p : Nat) : Bool := decide ((vAt m1 ⟨3, 0⟩ p).role = 0) || up.contains p
    Vector.ofFn fun p =>
      if on p.val then ⟨0, BitVec.ofNat 6 ((List.range p.val).countP on)⟩ else vAt m1 ⟨3, 0⟩ p.val
  else m1

/-- A record that starts a chain (R437). -/
def newChain (s : State) (reason : Nat) : State :=
  { s with cur := { s.cur with seq := 1, log := [chainStart s.timeNs s.cur.bootCount reason] } }

/-- Everything at its reset value but what survives power cycles: the one-time and non-volatile records, the boot flash,
the annex slots. A flash write that the reset cuts leaves a broken image, `[]` (R428). The model's queue, its counter of free values and its record of messages go on. -/
def powerOnReset (s : State) (oscDly i3cSa : BitVec 3) : State :=
  let ctrls := s.cur.backCtrls.foldl (fun m k => setBit m k true) (s.memMap &&& ~~~s.memPend)
  let s1 : State := { State.reset with
    pending := s.pending
    out := s.out
    free := s.free + 1
    vit := { met := s.vit.met }
    map := mapAtPowerOn s
    memMap := ctrls
    ras := { annex := s.ras.annex, written := s.ras.written, shots := s.ras.shots }
    power := { oscDly := oscDly, i3cSa := i3cSa, perst := s.power.perst, refclk := s.power.refclk, link := s.power.link
               failed := s.power.failed }
    cur := { lc := s.cur.lc, bootLc := s.cur.lc, logBad := s.cur.logBad, recBad := s.cur.recBad, tampered := s.cur.tampered, svnMin := s.cur.svnMin, udsErased := s.cur.udsErased,
             flash := if (s.cur.fw.map (·.writing)).getD false then [] else s.cur.flash, bootCount := if s.cur.lc = 0 then s.cur.bootCount else s.cur.bootCount + 1,
             nonce := Config.freeValue s.free } }
  let s2 := clearInventory (resetCores s1)
  let s3 := if annexWorn s2 then s2.rmod .rasStatus 0 0 fun v => setBit v 1 true else s2
  newChain (ownersReset s3) 0

end Sys2Proof.Machine
end

