-- ==== Sys2Proof/Machine/CoreEvents.lean ====
section
/-!
DEFINITION. Sys2Proof/Machine/CoreEvents.lean: the end and the stop of a dispatch (R30, R46, R50), retirement (R52, R53,
R229, R245), and the lane generators' own events (R146, R147).
-/
namespace Sys2Proof.Machine

/-! ## Commands and dispatches -/

def cmdAt (s : State) (ring : Nat) (index : W32) : Option Cmd :=
  s.host.cmds.find? fun c => decide (c.ring = ring ∧ c.index = index)

def modCmd (s : State) (ring : Nat) (index : W32) (f : Cmd → Cmd) : State :=
  { s with host := { s.host with
      cmds := s.host.cmds.map fun c => if c.ring = ring ∧ c.index = index then f c else c } }

def modDispatch (s : State) (tag : W32) (f : Dispatch → Dispatch) : State :=
  { s with host := { s.host with dispatches := s.host.dispatches.map fun d => if d.tag = tag then f d else d } }

/-- The dispatch that a core belongs to until its record is written and its cores are back in IDLE (R52). -/
def dispatchOfCore (s : State) (p : Fin 72) : Option Dispatch := s.host.dispatches.find? fun d => d.cores.contains p

/-- Whether a remote operation of a core in a dispatch is unanswered (R30, R368). -/
def remoteOpen (s : State) (p : Fin 72) (tag : W32) : Bool :=
  useOpen s fun u => match u with
    | .remote c _ t _ => decide (c = p ∧ t = tag)
    | .contrib c _ _ => decide (c = p)
    | _ => false

/-! ## CORE_FINISHED (R30, R46) -/

/-- HALT has issued in every present stream, every queue is empty, every instruction and epilogue has completed, and
every write is acknowledged. -/
def coreDone (s : State) (p : Fin 72) : Bool :=
  let c := s.core p
  decide (c.runstate = 3) && c.queues.toList.all List.isEmpty && c.inflight.toList.all List.isEmpty && c.runs.isEmpty
    && !remoteOpen s p c.tag

/-- The last core of a dispatch has reported: the command is DONE (R312). -/
def finishDispatch (s : State) (d : Dispatch) : State :=
  let s1 := modDispatch s d.tag fun d => { d with done := true }
  modCmd s1 d.ring d.index fun c =>
    { c with state := .finished, status := 0, progress := BitVec.ofNat 64 d.cores.length }

/-- CORE_FINISHED: a core that has finished its program reports and is IDLE. -/
def execCoreFinished (p : Fin 72) (s : State) : Result :=
  answer s (
    if domOn s 0 && coreDone s p then
      let s1 := modDispatch (s.modCore p fun c => { c with runstate := 0 }) (s.core p).tag fun d =>
        { d with finished := d.finished ++ [p] }
      match dispatchOf s1 (s.core p).tag with
      | none => s1
      | some d =>
        if d.cores.all (fun q => d.finished.contains q) && !d.stopping && !d.aborted then finishDispatch s1 d else s1
    else s)

/-! ## DISPATCH_STOP (R50) -/

/-- The records of a dispatch's cores that name it. -/
def faultsOf (s : State) (d : Dispatch) : List (Fin 72) :=
  d.cores.filter fun p => (s.core p).frec.valid && decide ((s.core p).frec.tag = d.tag)

/-- The earlier of two faults: by time, equal times by lower physical index. -/
def earlier (s : State) (a b : Fin 72) : Bool :=
  let ta := (s.core a).frec.timeNs.toNat
  let tb := (s.core b).frec.timeNs.toNat
  decide (ta < tb ∨ (ta = tb ∧ a.val ≤ b.val))

def firstFault (s : State) (d : Dispatch) : Option (Fin 72) :=
  (faultsOf s d).foldl (fun r p => match r with
    | none => some p
    | some q => if earlier s q p then some q else some p) none

/-- What the record of a stopped dispatch will hold (R307, R309, R310). -/
def stopRecord (s : State) (d : Dispatch) (c : Cmd) : Cmd :=
  let n := d.finished.length
  if d.aborted then { c with state := .finished, status := 3, progress := BitVec.ofNat 64 n }
  else match firstFault s d with
    | none => { c with state := .finished, status := 1, progress := BitVec.ofNat 64 n }
    | some p =>
      let r := (s.core p).frec
      { c with state := .finished, status := 1, code := r.code, detail := r.detail
               more := (faultsOf s d).any fun q => decide ((s.core q).frec.more ≠ 0)
               progress := BitVec.ofNat 64 (n + p.val * 256 + 2 ^ 15) }

/-- Stop every core of a dispatch that has not finished, stopped or begun to stop. -/
def stopOthers (s : State) (d : Dispatch) : State :=
  d.cores.foldl (fun s p =>
    if d.finished.contains p ∨ (s.core p).runstate = 5 ∨ (s.core p).runstate = 4 ∨ (s.core p).runstate = 0 then s
    else stopCore s p) s

/-- Whether every core of a dispatch is STOPPED, with its writes answered, or has finished. -/
def allStopped (s : State) (d : Dispatch) : Bool :=
  d.cores.all fun p => d.finished.contains p || decide ((s.core p).runstate = 5 ∨ (s.core p).runstate = 0)

/-- DISPATCH_STOP: the registrar stops every other core of a dispatch that has a fault or is being aborted; the record follows once all
are STOPPED. -/
def execDispatchStop (tag : W32) (s : State) : Result :=
  answer s (
    match dispatchOf s tag with
    | none => s
    | some d =>
      if d.stopping || d.aborted then
        let s1 := stopOthers s d
        if !allStopped s1 d then s1
        else modCmd (modDispatch s1 tag fun d => { d with done := true }) d.ring d.index (stopRecord s1 d)
      else s)

/-! ## Retirement (R52, R53, R229, R245) -/

def retireStatus (s : State) (st reason : Nat) : State :=
  s.rmod .corRetireStatus 0 0 fun v => setBits (setBits v 0 2 st) 8 8 reason

/-- The lowest spare. -/
def lowestSpare (s : State) : Option (Fin 72) := (List.finRange 72).find? fun q => decide (s.map[q.val].role = 1)

/-- Logical indices reassigned densely in ascending physical order. -/
def denseMap (m : Vector CoreMapEntry 72) : Vector CoreMapEntry 72 :=
  Vector.ofFn fun p =>
    let e := m[p.val]
    if e.role = 0 then ⟨0, BitVec.ofNat 6 ((List.range p.val).countP fun q => (vAt m ⟨3, 0⟩ q).role = 0)⟩ else e

/-- The gallery entries after a dense reassignment (R245). -/
def galleriesMoved (old : State) (s : State) : State :=
  (List.range 64).foldl (fun s n =>
    let e := invGet s n
    match physOf old n, physOf s n with
    | some a, some b => if a = b then s else invPut s n { e with gen := nextGen e.gen }
    | some _, none => invPut s n { e with gen := nextGen e.gen, size := 0 }
    | none, some _ => invPut s n { e with gen := nextGen e.gen, size := 0x1000000 }
    | none, none => s) s

def setRunstate (s : State) (p : Fin 72) (r : BitVec 3) : State := s.modCore p fun c => { c with runstate := r }

/-- DONE_EVENT is signalled to management: by the alerts of R442, where they are enabled (DEDUCED, log 115). -/
def alertManagement (s : State) : State := pathRequest (pathRequest s 1) 2

/-- A retirement takes effect: a spare takes the logical index with its gallery zeroed, or the indices become dense; the
floor is checked (R420). -/
def takeRetirement (s : State) (p : Fin 72) : State :=
  let e := s.map[p.val]
  let s0 := setRunstate { s with map := s.map.set p.val ⟨2, 0⟩ } p 6
  let s1 := match lowestSpare s with
    | some q => zeroGallery (setRunstate { s0 with map := s0.map.set q.val ⟨0, e.logical⟩ } q 0) q.val
    | none =>
      let m := { s0 with map := denseMap s0.map }
      resetOwners (galleriesMoved s m)
  let s2 := (retireStatus s1 2 0).rmod .corRetireStatus 0 0 fun v => setBit v 16 true
  floorCheck { alertManagement s2 with host := { s2.host with retire := none } }

/-- A write of COR_RETIRE (R52). The reasons are tested in the order 2, 1, 3. The record of E_CORE_RETIRED_IN_USE has ENGINE 7, STREAM 0 and
the PC of stream 0, in a PL12 image too (DESIGN CHOICE, log 116). -/
def retireWrite (s : State) (v : W64) : State :=
  let i := bitsN v 0 7
  if !bitB v 31 then s
  else match (List.finRange 72).find? fun p => decide (p.val = i) with
    | none => retireStatus s 3 2
    | some p =>
      if s.map[p.val].role ≠ 0 then retireStatus s 3 1
      else if s.host.retire.isSome then retireStatus s 3 3
      else match dispatchOfCore s p with
        | none => takeRetirement s p
        | some d =>
          let s1 := retireStatus { s with host := { s.host with retire := some p } } 1 0
          if bitB v 8 && !d.done && !d.stopping && !d.aborted then
            coreFault s1 p 7 ⟨0x010C, BitVec.ofNat 32 p.val⟩ 0 ((streamOf (s.core p) 0).pc.zeroExtend 64)
          else s1

/-- RETIREMENT_TAKES_EFFECT: the dispatch of the pending core has completed. -/
def execRetirementTakesEffect (s : State) : Result :=
  answer s (
    match s.host.retire with
    | none => s
    | some p => if (dispatchOfCore s p).isNone then takeRetirement s p else s)

/-! ## Lane generators (R146, R147) -/

/-- A write of COR_VE_GEN_CTL: RESEED acts at once on an IDLE core and otherwise when it next becomes IDLE. -/
def genCtlEffect (s : State) (p : Fin 72) (v : W64) : State :=
  if bitB v 8 then
    if (s.core p).runstate = 0 then reseedCore s p else s.modCore p fun c => { c with reseedPending := true }
  else s

/-- A RESEED that waits, on a core that is IDLE. -/
def reseedIfDue (s : State) (p : Fin 72) : State :=
  if (s.core p).reseedPending && decide ((s.core p).runstate = 0) then reseedCore s p else s

/-- RESEED_AT_IDLE. -/
def execReseedAtIdle (p : Fin 72) (s : State) : Result := answer s (reseedIfDue s p)

/-- Every generator of a core steps once. -/
def stepGens (c : Core) : Core := { c with gen := (List.range 1024).map fun g => (g, genStep g (genGet c g)) }

/-- FREE_RUNNING_STEP: the end of a D00 clock in the RUN power state (R146). -/
def execFreeRunningStep (s : State) : Result :=
  answer s (
    if pwrState s = 2 ∧ domOn s 0 then
      (List.finRange 72).foldl (fun s p =>
        if s.map[p.val].role = 0 ∧ (s.core p).freeRun then s.modCore p stepGens else s) s
    else s)

end Sys2Proof.Machine
end

