-- ==== Sys2Proof/Machine/Image.lean ====
section
/-!
DEFINITION. Sys2Proof/Machine/Image.lean: program images (R39), the layout of an instruction word (R56, R61), and the
check of an image at upload (R24, R40, R44, R45, R60).
-/
namespace Sys2Proof.Machine

/-! ## The header (R39) -/

structure ImageHdr where
  magic : Nat
  format : Nat
  mode : Nat
  streams : Nat
  extent : Nat
  entries : List Nat
  coresMin : Nat
  coresMax : Nat
  reserved : List Byte
  params : List W64
  deriving DecidableEq, Repr

def parseHdr (h : List Byte) : ImageHdr :=
  { magic := fieldAt h 0 4
    format := fieldAt h 4 2
    mode := fieldAt h 6 1
    streams := fieldAt h 7 1
    extent := fieldAt h 8 8
    entries := (List.range 6).map fun k => fieldAt h (0x10 + 4 * k) 4
    coresMin := fieldAt h 0x28 2
    coresMax := fieldAt h 0x2A 2
    reserved := slice h 0x2C 84
    params := (List.range 16).map fun k => BitVec.ofNat 64 (fieldAt h (0x80 + 8 * k) 8) }

/-- An absent stream. -/
def noEntry : Nat := 0xFFFFFFFF

def ImageHdr.present (h : ImageHdr) : List Nat := h.entries.filter fun e => e ≠ noEntry

/-- The conditions of R39 and of R40 on the header. -/
def hdrOk (h : ImageHdr) (alloc : Nat) : Bool :=
  decide (h.magic = 0x49424558 ∧ h.format = 3 ∧ h.mode ≤ 1 ∧ h.extent % 16 = 0 ∧ 16 ≤ h.extent ∧ h.extent ≤ 2 ^ 26) &&
  decide (1 ≤ h.coresMin ∧ h.coresMin ≤ 64 ∧ h.coresMin ≤ h.coresMax ∧ h.coresMax ≤ 64) &&
  h.reserved.all (fun b => b = 0) && decide (0x100 + h.extent ≤ alloc) &&
  (if h.mode = 0 then decide (h.streams = 1 ∧ h.entries.headD 0 ≠ noEntry) && h.entries.tail.all (fun e => e = noEntry)
   else decide (1 ≤ h.streams ∧ h.streams ≤ 6 ∧ h.present.length = h.streams)) &&
  h.present.all fun e => decide (e % 16 = 0 ∧ e < h.extent)

/-! ## Instruction words (R56, R57, R61) -/

def wordS (w : BitVec 128) : OpS :=
  { rd := w.extractLsb' 65 5, ra := w.extractLsb' 60 5, rb := w.extractLsb' 55 5, pa := bitB w 54, pb := bitB w 53,
    cond := w.extractLsb' 50 3, sz := w.extractLsb' 48 2, imm := w.extractLsb' 0 48 }

def wordV (w : BitVec 128) : OpV :=
  { vd := w.extractLsb' 65 5, va := w.extractLsb' 60 5, vb := w.extractLsb' 55 5, vc := w.extractLsb' 50 5,
    mskEn := bitB w 49, msk := w.extractLsb' 46 3, mz := bitB w 45, type := w.extractLsb' 41 4,
    rnd := w.extractLsb' 38 3, sat := bitB w 37, bs := bitB w 36, type2 := w.extractLsb' 32 4,
    vl := w.extractLsb' 22 10, fx := w.extractLsb' 0 22 }

def wordM (w : BitVec 128) : OpM :=
  { sa := w.extractLsb' 65 5, sn := w.extractLsb' 60 5, sz := w.extractLsb' 55 5, abr := w.extractLsb' 43 12,
    afmt := w.extractLsb' 39 4, wfmt := w.extractLsb' 35 4, acc := bitB w 34, seg := bitB w 33, sp24 := bitB w 32,
    zskip := bitB w 31, chain := w.extractLsb' 26 5, psel := w.extractLsb' 22 3,
    rsv := w.extractLsb' 25 1 ++ w.extractLsb' 0 22 }

def wordD (w : BitVec 128) : OpD :=
  { sd := w.extractLsb' 65 5, ss := w.extractLsb' 60 5, so := w.extractLsb' 55 5, sx := w.extractLsb' 50 5,
    mode := w.extractLsb' 46 4, psel := w.extractLsb' 42 4, fx := w.extractLsb' 0 42 }

def wordOps : List CoreOp :=
  [.nop, .b, .bcc, .call, .ret, .loop, .loopi, .halt, .engineNop 1, .engineNop 2, .engineNop 4, .engineNop 5,
   .engineNop 6, .engineNop 7, .engineNop 8, .engineNop 9] ++
  [.sadd, .ssub, .smul, .sand, .sor, .sxor, .sshl, .sshr, .ssra, .smin, .smax, .scmp, .smovi, .smovhi, .saddi, .sfadd,
   .sfmul, .sffma, .sfmin, .sfmax, .sfcvt, .sld, .sst, .sflag, .skadd, .skrd, .sid, .sstat, .svget] ++
  [.mloads, .mswap, .mprod, .msegt, .mcsum, .mabclr, .vadd, .vsub, .vmul, .vfma, .vfms, .vmin, .vmax, .vabs, .vneg,
   .vcmp, .vsel, .vand, .vor, .vxor, .vshl, .vshr, .vmov, .vcvt, .vrng, .sparsify] ++
  [.vld, .vst, .vldw, .vldab, .vstab, .vperm, .vslide, .vbcast, .vred, .vscan, .vseq, .vlut, .twr, .tswap, .vchld,
   .vzmap, .vcsr, .vmset, .ffun, .fstat, .fstrd, .fstclr, .ccopy, .ctrans, .cfill, .cabout, .cpbkt, .cpsig, .cpput,
   .cpacc, .cpgath]

/-- The operation of a word; none where GROUP is reserved or FUNC is not defined (R59). -/
def wordOp (w : BitVec 128) : Option CoreOp := wordOps.find? fun op => op.code = w.extractLsb' 70 10

/-- The operands in the format of the group (R57); VCSR has format D. An engine no-op has none: with bits [69:0] that are not zero its word
has operands that no entry allows (R58, R61). -/
def wordArgs (w : BitVec 128) (op : CoreOp) : Args :=
  match op, opGroup op with
  | .engineNop _, _ => if w.extractLsb' 0 70 = 0 then .none else .v (wordV w)
  | .vcsr, _ => .d (wordD w)
  | _, 4 => .m (wordM w)
  | _, 5 => .v (wordV w)
  | _, 6 => .v (wordV w)
  | _, 7 => .v (wordV w)
  | _, 8 => .d (wordD w)
  | _, 9 => .d (wordD w)
  | _, _ => .s (wordS w)

/-- GROUP 0: control flow. -/
def isControl (w : BitVec 128) : Bool := decide (bitsN w 76 4 = 0)

/-- The instruction word at an offset of the code region. -/
def wordAt (img : List Byte) (off : Nat) : BitVec 128 := BitVec.ofNat 128 (leNat (slice img (0x100 + off) 16))

/-! ## Streams of a PL12 image (R44) -/

/-- Offsets to which static control flow continues from one (R60, R66 to R68). -/
def successors (w : BitVec 128) (off : Nat) : List Int :=
  let here : Int := off
  let next : Int := here + 16
  let imm : Int := (w.extractLsb' 0 48).toInt
  match (if isControl w then wordOp w else none) with
  | some .b => [here + imm]
  | some .bcc => [next, here + imm]
  | some .call => [next, here + imm]
  | some .ret => []
  | some .halt => []
  | some .loop => [next, here + imm + 16]
  | some .loopi => [next, here + (bitsN w 0 32 : Nat) + 16]
  | _ => [next]

/-- The offsets that a stream reaches from its entry: `fuel` bounds the number of offsets visited. -/
def reach (img : List Byte) (extent : Nat) : Nat → List Nat → List Nat → List Nat
  | 0, _, seen => seen
  | _, [], seen => seen
  | n + 1, o :: work, seen =>
    if seen.contains o then reach img extent n work seen
    else
      let more := (successors (wordAt img o) o).filterMap fun (t : Int) =>
        if 0 ≤ t ∧ t < extent ∧ t % 16 = 0 then some t.toNat else none
      reach img extent n (more ++ work) (nsetAdd seen o)

/-- Whether an instruction may lie in the stream of engine k: control flow, or an instruction of that engine. -/
def ofEngine (k : Nat) (w : BitVec 128) : Bool :=
  isControl w || match wordOp w with
    | some op => decide ((opEngine op).map (fun g => (engIdx g).val) = some k)
    | none => true

/-- Every instruction that each present stream reaches is of its own engine. -/
def streamsOk (img : List Byte) (h : ImageHdr) : Bool :=
  (List.range 6).all fun k =>
    let e := h.entries.getD k noEntry
    decide (e = noEntry) || (reach img h.extent (h.extent / 4 + 4) [e] []).all fun o => ofEngine k (wordAt img o)

/-! ## The check (R40) -/

/-- One word: the sync word of R31, zero for control flow (R60); in a PL12 image no S register above S15 (R45). -/
def wordOk (pl12 : Bool) (w : BitVec 128) : Bool :=
  let y : BitVec 48 := w.extractLsb' 80 48
  (if isControl w then decide (y = 0) else syncOk y) &&
  (!pl12 || match wordOp w with
    | none => true
    | some op =>
      let x := srcsOf op (wordArgs w op)
      (sourcesS x y).all (fun r => !bitB r 4) && match destOf op (wordArgs w op) with
        | some r => !bitB r 4
        | none => true)

/-- Whether an image of `img.length` bytes may be uploaded into an allocation. No instruction form names a parameter
register as its destination (R24). -/
def imageOk (img : List Byte) (alloc : Nat) : Bool :=
  let h := parseHdr img
  hdrOk h alloc && decide (0x100 + h.extent ≤ img.length) &&
  ((List.range (h.extent / 16)).all fun i => wordOk (decide (h.mode = 1)) (wordAt img (16 * i))) &&
  (decide (h.mode = 0) || streamsOk img h)

end Sys2Proof.Machine
end

