-- ==== Sys2Proof/Machine/Time.lean ====
section
/-!
DEFINITION. Sys2Proof/Machine/Time.lean: the source of the fabric clock (R341 to R343), the time counter and its servo
(R443, R444, R446), fabric exchanges (R344) and PTP (R445).
-/
namespace Sys2Proof.Machine

/-! ## D06 (R341 to R343) -/

/-- SOURCE of ZMZ_SYNT_STATUS: 0 local, 1 locked, 2 holdover, 3 slewing. -/
def syntSource (s : State) : Nat := bitsN (s.rget .zmzSyntStatus 0 0) 0 3

def syntOffset (s : State) : Nat := bitsN (s.rget .zmzSyntStatus 0 0) 16 16

def setSynt (s : State) (src off : Nat) : State :=
  s.rmod .zmzSyntStatus 0 0 fun v => setBits (setBits v 0 3 src) 16 16 off

def syntPort (s : State) : Fin 16 := Fin.ofNat 16 (bitsN (s.rget .zmzSyntCtl 0 0) 16 4)

/-- Slew toward an offset, or arrive at once where D06 has it already. -/
def slewTo (s : State) (locked : Bool) (off : BitVec 16) : State :=
  if syntOffset s = off.toNat then setSynt s (if locked then 1 else 0) off.toNat
  else
    let s1 := setSynt s 3 (syntOffset s)
    { s1 with fab := { s1.fab with slewLocked := locked, slewOff := off } }

/-- Whether an offset, in units of 2⁻⁸ ppm, is within 100 ppm (R341). -/
def lockRange (offset : BitVec 16) : Bool := decide (-25600 ≤ offset.toInt ∧ offset.toInt ≤ 25600)

/-- SYNT_LOCK: the designated port's clock is within 100 ppm for 1 ms, at the given offset from the local reference. -/
def execSyntLock (offset : BitVec 16) (s : State) : Result :=
  let st := (portOf s (syntPort s)).state.toNat
  answer s (
    if domOn s 6 && bitB (s.rget .zmzSyntCtl 0 0) 31 && decide (2 ≤ st ∧ st ≤ 5) && decide (syntSource s ≠ 1) && lockRange offset then
      slewTo s true offset
    else s)

/-- E_ZMZ_SYNT_LOST: holdover at the last frequency. -/
def execSyntLost (offset : BitVec 16) (s : State) : Result :=
  let i := syntPort s
  answer s (
    if domOn s 6 && decide (syntSource s = 1 ∨ (syntSource s = 3 ∧ s.fab.slewLocked)) then
      logZmz ((setSynt s 2 offset.toNat).rmod .zmzSyntStatus 0 0 fun v => setBit v 3 true) 0x0808 i.val
        (BitVec.ofNat 32 i.val)
    else s)

/-- SYNT_HOLDOVER_EXPIRE: HOLD_MS have passed without a lock. -/
def execSyntHoldoverExpire (s : State) : Result :=
  answer s (if domOn s 6 && decide (syntSource s = 2) then slewTo s false 0 else s)

/-- D06_SLEW_COMPLETE. -/
def execD06SlewComplete (s : State) : Result :=
  answer s (
    if domOn s 6 && decide (syntSource s = 3) then setSynt s (if s.fab.slewLocked then 1 else 0) s.fab.slewOff.toNat else s)

/-- D06_SOURCE_LOST: no port is locked and the local reference has failed: every transmitter is in electrical idle, and the ports retrain;
only one that goes DOWN before the source returns loses what is not acknowledged (R343). -/
def execD06SourceLost (s : State) : Result :=
  answer s (
    if domOn s 6 && decide (syntSource s ≠ 1) then
      let s1 := (List.finRange 16).foldl loseLock s
      { s1 with fab := { s1.fab with d06Dead := true } }
    else s)

/-- D06 has a source again: a port that went DOWN trains afresh, and a retrain goes on (R343). -/
def retrainPorts (s : State) : State :=
  (List.finRange 16).foldl (fun s i => if (portOf s i).state = 6 then startTraining s i (trainLanes (portOf s i)) else s) s

/-! ## The time counter (R443) -/

def set96 (s : State) (x : BitVec 96) : State :=
  { s with timeNs := x.extractLsb' 32 64, mgmt := { s.mgmt with frac := x.extractLsb' 0 32 } }

/-- Largest magnitude of CORR: 500 ppm. -/
def corrMax : Int := 2147484

/-- CORR: the sum of the two terms in units of 2⁻³² ns per clock, clamped. The rounding of the sum is a free choice
(log 44). -/
def corrOf (s : State) : Int :=
  let x : Rat := (s.mgmt.f + s.mgmt.phaseTerm) * 4294967296
  let r : Int := if Config.freeChoice s.mgmt.corrDraw then x.floor else x.ceil
  max (-corrMax) (min corrMax r)

/-- One D24 clock. -/
def tick (s : State) : State := if domOn s 24 then set96 s (now96 s + BitVec.ofInt 96 (4294967296 + corrOf s)) else s

/-! ## The servo (R444) -/

/-- SOURCE of MGT_TIME_CTL; 3 acts as 0. -/
def timeSource (s : State) : Nat := let x := bitsN (s.rget .mgtTimeCtl 0 0) 30 2; if x = 3 then 0 else x

def timeValid (s : State) : Bool := bitB (s.rget .mgtTimeStatus 0 0) 0

def setTimeBit (s : State) (i : Nat) (b : Bool) : State := s.rmod .mgtTimeStatus 0 0 fun v => setBit v i b

/-- A difference of two time stamps in ns. -/
def stampDiff (a b : BitVec 96) : Rat := ((a - b).toInt : Rat) / 4294967296

/-- A number of ns in units of 2⁻³² ns, rounded down. -/
def toStamp (x : Rat) : Int := (x * 4294967296).floor

/-- VALID = 0 and |θ| > 1 µs: a step, forward only once the counter has been locked. -/
def stepCounter (s : State) (θ : Rat) : State :=
  if !s.mgmt.locked || decide (0 < θ) then set96 s (now96 s + BitVec.ofInt 96 (toStamp θ)) else s

/-- The two terms after a measurement over T ns; the first measurement has no interval and changes neither. -/
def steer (m : Mgmt) (now : BitVec 96) (θ : Rat) (draw : Nat) : Mgmt :=
  match m.lastMeas with
  | none => m
  | some t =>
    let T := stampDiff now t
    if T ≤ 0 then m else { m with f := m.f + θ / (8 * T), phaseTerm := θ / T, corrDraw := draw }

/-- A completed measurement of offset θ (R444, R446). -/
def measure (s : State) (θ : Rat) : State :=
  let s0 := (setTimeBit s 1 false).rset .mgtTimeOffset 0 0 (BitVec.ofInt 64 (θ * 65536).floor)
  let big := decide (1000 < θ ∨ θ < -1000)
  let s1 := if !timeValid s && big then stepCounter s0 θ
    else { s0 with free := s0.free + 1, mgmt := steer s0.mgmt (now96 s) θ s0.free }
  let n := if θ < 100 ∧ -100 < θ then min 8 (s.mgmt.good + 1) else 0
  let s2 := { s1 with mgmt := { s1.mgmt with good := n, lastMeas := some (now96 s1) } }
  if n = 8 then
    let s3 := setTimeBit s2 0 true
    { s3 with mgmt := { s3.mgmt with locked := true } }
  else s2

/-- TIME_HOLDOVER: no measurement for four intervals: the phase term is zero and f is kept. -/
def execTimeHoldover (s : State) : Result :=
  answer s (
    if domOn s 24 && decide (timeSource s ≠ 0) then
      let s1 := setTimeBit s 1 true
      { s1 with free := s1.free + 1, mgmt := { s1.mgmt with phaseTerm := 0, corrDraw := s1.free } }
    else s)

/-- TIME_VALID_EXPIRE: HOLDOVER_S seconds of holdover have passed. -/
def execTimeValidExpire (s : State) : Result :=
  answer s (
    if domOn s 24 && bitB (s.rget .mgtTimeStatus 0 0) 1 then
      let s1 := setTimeBit s 0 false
      { s1 with mgmt := { s1.mgmt with good := 0 } }
    else s)

/-! ## Fabric exchanges (R344) -/

def timePort (s : State) : Fin 16 := Fin.ofNat 16 (bitsN (s.rget .zmzTimeCtl 0 0) 16 4)

/-- An open exchange is abandoned and counted. -/
def abandonExchange (s : State) : State :=
  if s.fab.exch.isSome then
    let s1 := s.rcountSat .zmzDropCount 0 0 32 32 1
    { s1 with fab := { s1.fab with exch := none } }
  else s

/-- A port carries TIME flits from ALIGN on (R320). -/
def portTimes (s : State) (i : Fin 16) : Bool := decide ((portOf s i).state.toNat ∈ [2, 3, 4])

/-- TIME_EXCHANGE_START: REQ goes out and t1 is recorded; an exchange that is still open is abandoned. -/
def execTimeExchangeStart (s : State) : Result :=
  let i := timePort s
  answer s (
    if domOn s 6 && domOn s 24 && bitB (s.rget .zmzTimeCtl 0 0) 31 && portTimes s i then
      let s1 := abandonExchange s
      let n := s1.fab.exchNum + 1
      queueTime { s1 with fab := { s1.fab with exch := some (n, now96 s), exchNum := n } } i ⟨false, n, 0⟩
    else s)

/-- TIME_REQ: its header is applied (R322), and it is answered while the module's own VALID is 1 (R444); t2 is the counter as the step
finds it. -/
def execTimeReq (i : Fin 16) (hdr : Flit) (rx : FlitRx) (num : BitVec 16) (s : State) : Result :=
  let r := receive s i { hdr with ftype := 3, slots := timeSlots 1 num 0 0 } rx
  answer s (
    if r.2 && domOn s 6 && portTimes r.1 i && timeValid s then queueTime r.1 i ⟨true, num, now96 s⟩ else r.1)

/-- Signed path asymmetry of a port in ns. -/
def asymOf (s : State) (i : Fin 16) : Rat :=
  (((s.rget .zmzTimeAsym i.val 0).extractLsb' 0 32).toInt : Rat) / 65536

/-- Delay and offset of an exchange. -/
def exchangeDelay (t1 t2 t3 t4 : BitVec 96) (asym : Rat) : Rat := (stampDiff t4 t1 - stampDiff t3 t2) / 2 - asym

def exchangeOffset (t1 t2 t3 t4 : BitVec 96) (asym : Rat) : Rat := stampDiff t2 t1 - exchangeDelay t1 t2 t3 t4 asym

/-- A RESP with a good CRC: t4 is recorded, and the servo takes the exchange when the fabric is its source. -/
def takeResp (s : State) (i : Fin 16) (num : BitVec 16) (t2 t3 : BitVec 96) : State :=
  match s.fab.exch with
  | none => s
  | some (n, t1) =>
    if n ≠ num then s
    else
      let s1 := { s with fab := { s.fab with exch := none } }
      if timeSource s = 2 ∧ domOn s 24 then measure s1 (exchangeOffset t1 t2 t3 (now96 s) (asymOf s i)) else s1

/-- TIME_RESP: its header is applied (R322); one of the upstream port completes the exchange, or with a CRC miss abandons it. -/
def execTimeResp (i : Fin 16) (hdr : Flit) (rx : FlitRx) (num : BitVec 16) (t2 t3 : BitVec 96) (s : State) : Result :=
  let r := receive s i { hdr with ftype := 3, slots := timeSlots 2 num t2 t3 } rx
  answer s (
    if !domOn s 6 || !portTimes s i || decide (i ≠ timePort s) then r.1
    else if r.2 then takeResp r.1 i num t2 t3 else abandonExchange r.1)

/-! ## PTP (R445) -/

def ptpHears (s : State) (domain : Byte) : Bool :=
  let v := s.rget .mgtPtpCtl 0 0
  bitB v 31 && decide (bitsN v 0 8 = domain.toNat) && domOn s 23 && bitB (s.rget .mgtEthCtl 0 0) 31

def fromMaster (s : State) (source : W64) : Bool := decide (s.mgmt.master = some source)

/-- ANNOUNCE: the best timekeeper algorithm's comparison comes with the message. -/
def execPtpAnnounce (domain : Byte) (source : W64) (better : Bool) (s : State) : Result :=
  answer s (
    if ptpHears s domain && (s.mgmt.master.isNone || better) && !fromMaster s source then
      { s with mgmt := { s.mgmt with master := some source, sync := none } }
    else s)

/-- The send time of a Sync is known: a Delay_Req goes out. -/
def syncKnown (s : State) (rx t1 : BitVec 96) : State :=
  emit { s with mgmt := { s.mgmt with sync := some (rx, some t1) } } .delayReq

/-- SYNC: one-step carries t1; two-step waits for FOLLOW_UP. -/
def execPtpSync (domain : Byte) (source : W64) (rx : BitVec 96) (t1 : Option (BitVec 96)) (s : State) : Result :=
  answer s (
    if ptpHears s domain && fromMaster s source then
      match t1 with
      | some t => syncKnown s rx t
      | none => { s with mgmt := { s.mgmt with sync := some (rx, none) } }
    else s)

def execPtpFollowUp (domain : Byte) (source : W64) (t1 : BitVec 96) (s : State) : Result :=
  answer s (
    match s.mgmt.sync with
    | some (rx, none) => if ptpHears s domain && fromMaster s source then syncKnown s rx t1 else s
    | _ => s)

/-- DELAY_RESP: the exchange is whole; the offset is the master's time minus the counter's. -/
def execPtpDelayResp (domain : Byte) (source : W64) (t3 t4 : BitVec 96) (s : State) : Result :=
  answer s (
    match s.mgmt.sync with
    | some (t2, some t1) =>
      if ptpHears s domain && fromMaster s source then
        let s1 := { s with mgmt := { s.mgmt with sync := none } }
        if timeSource s = 1 ∧ domOn s 24 then measure s1 ((stampDiff t1 t2 + stampDiff t4 t3) / 2) else s1
      else s
    | _ => s)

end Sys2Proof.Machine
end

