-- ==== Sys2Proof/Machine/Counters.lean ====
section
/-!
DEFINITION. Sys2Proof/Machine/Counters.lean: stall attribution (R451, R452), snapshots and clears (R453, R454), the
observation multiplexer (R456, R457) and the clock tick.
-/
namespace Sys2Proof.Machine

/-! ## Stall attribution (R451, R452) -/

/-- DUTY of PWR_CAP_STATUS, in 1/32 (R414). -/
def duty (s : State) : Nat := bitsN (s.rget .pwrCapStatus 0 0) 0 6

/-- The causes that can apply to a unit of core p with work and no unsatisfied wait: unit 1 SU, 2 ME, 3 VE, 4 SF, 5 CE, 6 CP. DUTY withholds
clocks below 32/32 only, and the CP waits for a RETRY only while one is due. -/
def busyCauses (s : State) (p : Fin 72) (unit : Nat) : List Nat :=
  let held : List Nat := if duty s < 32 then [7] else []
  match unit with
  | 1 => [0, 5]
  | 2 => [0, 4, 6, 7]
  | 3 | 4 => [0, 4, 5, 6] ++ held
  | 5 => [0, 4, 5, 7]
  | _ => [0, 5] ++ if s.col.retries.any fun q => reqOfCore p q.use then [7] else []

/-- The cause of an unsatisfied wait at the head of a queue. -/
def headWait (c : Core) (g : Engine) : Option Nat :=
  match queueOf c g with
  | [] => none
  | e :: _ =>
    if e.armed then none
    else if !flagWaitOk c e.sync then some 2
    else if !counterWaitOk c e.sync e.thr then some 3
    else none

/-- The causes one of which a unit charges in a clock: those that can be the lowest that applies. An empty queue applies to every unit, and
the ME's array may be draining; which of several is timing, a free value. -/
def unitCauses (s : State) (p : Fin 72) (g : Engine) : List Nat :=
  let c := s.core p
  let unit := (engIdx g).val + 1
  let active : List Nat := if (flightOf c g).isEmpty then [] else [0]
  let drain : List Nat := if unit = 2 && !(flightOf c g).isEmpty then [1] else []
  if (queueOf c g).isEmpty then active ++ [1]
  else match headWait c g with
    | some w => active ++ drain ++ [w]
    | none => drain ++ busyCauses s p unit

/-- The target queue of the word that a stream would issue is full (R27). -/
def targetFull (c : Core) (k : Fin 6) : Bool :=
  hasLine c k && !isControl (bufferedWord c k) &&
    match (wordOp (bufferedWord c k)).bind opEngine with
    | some g => decide (32 ≤ (queueOf c g).length)
    | none => false

/-- The cause of a front end that issues nothing in a clock: HALT issued in every stream, a full target queue, or a hold or fill; while the
core is stopping the table names none, and it is a free choice (log 50). -/
def frontRest (c : Core) : List Nat :=
  let l := (List.finRange 6).filter (canIssue c)
  if c.runstate = 4 then [1, 7] else if l.isEmpty then [1] else if l.any (targetFull c) then [4] else [7]

/-- A stream stands at a control word that leaves it where it is. -/
def standsStill (c : Core) : Bool := (List.finRange 6).any fun k => canIssue c k && hasLine c k && isControl (bufferedWord c k)

/-- The causes of the front end in the first clock of a tick, from the core before and after it: an instruction has issued, or not; one that
branches to itself leaves no trace, and is a free choice. -/
def frontCauses (b c : Core) : List Nat :=
  if b.streams ≠ c.streams then [0] else if standsStill b then 0 :: frontRest c else frontRest c

def pickCause (draw : Nat) (l : List Nat) : Nat := l.getD ((Config.freeValue draw).toNat % l.length) 0

/-- One D00 clock of a core: each of the seven units charges one cause; `front` has those of the front end. -/
def stallClock (s : State) (p : Fin 72) (front : List Nat) : State :=
  let causes := front :: engines.map (unitCauses s p)
  let s1 := causes.zipIdx.foldl (fun s x =>
    s.rmod .corStall p.val (8 * x.2 + pickCause (s.free + x.2) x.1) fun v => v + 1) s
  { s1 with free := s1.free + 7 }

/-- Whether the counters of a domain count (R453). -/
def pmcOn (s : State) (d : Nat) : Bool := bitB (s.rget .dbgPmcCtl 0 0) 31 && domOn s d

/-- The D00 clocks of one D24 clock, one or two at 1.8 GHz. `b` is the state before the front ends issued. -/
def countStalls (b s : State) : State :=
  if pmcOn s 0 then
    (List.finRange 72).foldl (fun s p =>
      let r := (s.core p).runstate
      if r = 2 ∨ r = 3 ∨ r = 4 then
        let two := Config.freeChoice s.free
        let s1 := stallClock { s with free := s.free + 1 } p (frontCauses (b.core p) (s.core p))
        if two then stallClock s1 p (frontRest (s1.core p)) else s1
      else s) s
  else s

/-! ## Counters of clocks (R221, R453, R455)

How many of the clocks that pass are counted is timing: a free number, at most two clocks of a domain in one of D24. -/

/-- Up to two clocks for a counter. -/
def addClocks (s : State) (r : RegName) (n : Nat) : State :=
  { s.rmod r 0 n fun v => v + BitVec.ofNat 64 ((Config.freeValue s.free).toNat % 3) with free := s.free + 1 }

/-- A contribution of the collective engine, or a line operation of one, waits for a tag. -/
def tagWait (s : State) : Bool :=
  decide (collTags < s.col.reqs.length + s.col.accq.length) || s.col.sendq.any fun q => match q.use with
    | .contrib .. => true
    | _ => false

/-- DBG_ZMZ counters 4 to 7, by port and virtual channel, and DBG_COL 6. -/
def countWaits (s : State) : State :=
  if pmcOn s 6 then
    let s1 := (List.finRange 16).foldl (fun s i =>
      (List.range 4).foldl (fun s v => if creditWait (portOf s i) v then addClocks s .dbgZmz (8 * i.val + 4 + v) else s) s) s
    if tagWait s1 then addClocks s1 .dbgCol 6 else s1
  else s

/-- The clocks in which a gallery's conflicts can be counted. -/
def countConf (s : State) : State :=
  if pmcOn s 0 then { s with dbg := { s.dbg with confClk := s.dbg.confClk + 2 } } else s

/-- The clocks of VTR_CONF_n that its register does not hold yet. -/
def confLag (s : State) (n : Nat) : Nat := s.dbg.confClk - smapGet (fun _ => 0) s.dbg.conf n

/-- Bit of a gallery in DBG_OVF_0 and DBG_OVF_1. -/
def ovfSet (s : State) (g : Nat) : State :=
  s.rmod (if g < 64 then .dbgOvf0 else .dbgOvf1) 0 0 fun v => setBit v (g % 64) true

/-- Bring VTR_CONF_n up to the present clock: it has counted a free number of the clocks since, and a wrap sets its gallery's bit. -/
def confSync1 (s : State) (n : Nat) : State :=
  if confLag s n = 0 then s
  else
    let x := (s.rget .vtrConf 0 n).toNat + (Config.freeValue s.free).toNat % (confLag s n + 1)
    let s1 := s.rset .vtrConf 0 n (BitVec.ofNat 64 (x % 2 ^ 32))
    let s2 := { s1 with free := s1.free + 1, dbg := { s1.dbg with conf := smapPut (fun _ => 0) s1.dbg.conf n s1.dbg.confClk } }
    if 2 ^ 32 ≤ x then ovfSet s2 (n / 128) else s2

def confSync (s : State) (l : List Nat) : State := l.foldl confSync1 s

/-- Counters that can have wrapped since their register was brought up. -/
def confWraps (s : State) : List Nat :=
  if s.dbg.confClk = 0 then []
  else (List.range 9216).filter fun n => decide (n % 8 < 5 ∧ 2 ^ 32 ≤ (s.rget .vtrConf 0 n).toNat + confLag s n)

/-- The VTR_CONF counters whose clocks a register shows. -/
def confShown (s : State) (r : RegName) (n : Nat) : List Nat :=
  match r with
  | .vtrConf => if n % 8 < 5 then [n] else []
  | .dbgOvf0 | .dbgOvf1 => confWraps s
  | _ => []

/-- Bring a controller's DBG_MEM counter of lines read up to the present: of the lines that accesses have asked for since, it has counted a
free number, as many as the caches did not serve (log 50). -/
def memSync1 (s : State) (k : Nat) : State :=
  let lag := smapGet (fun _ => 0) s.dbg.memLag k
  if lag = 0 then s
  else
    let s1 := s.rset .dbgMem 0 (4 * k) (s.rget .dbgMem 0 (4 * k) + BitVec.ofNat 64 ((Config.freeValue s.free).toNat % (lag + 1)))
    { s1 with free := s1.free + 1, dbg := { s1.dbg with memLag := smapPut (fun _ => 0) s1.dbg.memLag k 0 } }

def memSync (s : State) (l : List Nat) : State := l.foldl memSync1 s

/-- The controllers whose counter of lines read a register shows. -/
def memShown (r : RegName) (n : Nat) : List Nat := if r = .dbgMem ∧ n % 4 = 0 then [n / 4] else []

/-- The counters of clocks; `b` is the state before the front ends issued. -/
def countClocks (b s : State) : State := countConf (countWaits (countStalls b s))

/-! ## Snapshots and clears (R454) -/

/-- A write of DBG_PMC_CTL: with SNAP or CLEAR it is accepted in RUN while none awaits its instant; otherwise it has no
effect but REFUSED. -/
def pmcWrite (s : State) (v : W64) : State :=
  let snap := bitB v 29
  let clear := bitB v 30
  let en (s : State) : State := s.rmod .dbgPmcCtl 0 0 fun x => setBit x 31 (bitB v 31)
  if !snap && !clear then en s
  else if pwrState s ≠ 2 ∨ s.dbg.snap ∨ s.dbg.clear then s.rmod .dbgPmcCtl 0 0 fun x => setBit x 27 true
  else
    let s1 := (en s).rmod .dbgPmcCtl 0 0 fun x => setBit x 27 false
    { s1 with dbg := { s1.dbg with snap := snap, clear := clear, at_ := s1.timeNs + 1000 } }

/-- Copy counters into their snapshot registers. -/
def snapTo (s : State) (a b : RegName) (cores n : Nat) : State :=
  (List.range cores).foldl (fun s i => (List.range n).foldl (fun s k => s.rset b i k (s.rget a i k)) s) s

/-- The domains of the counters: D00 those of the cores and galleries, D02 of the controllers, D06 of the ports and the collective engine. -/
def pmcDomains : List Nat := [0, 2, 6]

/-- SNAP in one domain. -/
def snapCounters (s : State) (d : Nat) : State :=
  match d with
  | 0 => snapTo s .corStall .corStallSnap 72 56
  | 2 => snapTo (memSync s (List.range 48)) .dbgMem .dbgMemSnap 1 192
  | _ => snapTo (snapTo s .dbgZmz .dbgZmzSnap 1 128) .dbgCol .dbgColSnap 1 8

/-- The registers of `State.regs` that CLEAR zeroes in a domain. -/
def clearedOffset (d off : Nat) : Bool :=
  match d with
  | 0 => (stallOffset off && decide (off % 0x10000 < 0xC200)) || confOffset off
  | 2 => decide (0x3E01000 ≤ off ∧ off < 0x3E02000)
  | _ => decide (0x3E02000 ≤ off ∧ off < 0x3E04000)

/-- CLEAR in one domain: the counters become zero; what has wrapped stays marked. -/
def clearCounters (s : State) (d : Nat) : State :=
  let s1 := if d = 0 then confSync s (confWraps s) else s
  let x := s1.dbg
  { s1 with
    regs := s1.regs.filter fun e => !clearedOffset d e.1
    dbg := if d = 0 then { x with confClk := 0, conf := [] } else if d = 2 then { x with memLag := [] } else x }

/-- A snapshot or clear is due. -/
def pmcDue (s : State) : Bool := (s.dbg.snap || s.dbg.clear) && decide (s.dbg.at_.toNat ≤ s.timeNs.toNat)

/-- A domain acts in its first clock at or after T. -/
def pmcAct (s : State) (d : Nat) : State :=
  if domOn s d && !s.dbg.acted.contains d then
    let s1 := if s.dbg.snap then snapCounters s d else s
    let s2 := if s.dbg.clear then clearCounters s1 d else s1
    { s2 with dbg := { s2.dbg with acted := d :: s2.dbg.acted } }
  else s

/-- PENDING clears and DBG_SNAP_TIME takes T once every domain has acted. -/
def pmcEnd (s : State) : State :=
  if pmcDomains.all fun d => s.dbg.acted.contains d then
    let s1 := s.rset .dbgSnapTime 0 0 s.dbg.at_
    { s1 with dbg := { s1.dbg with snap := false, clear := false, acted := [] } }
  else s

/-- The domains that are clocked act once a snapshot or clear is due. -/
def pmcStep (s : State) : State := if pmcDue s then pmcEnd (pmcDomains.foldl pmcAct s) else s

/-- PMC_INSTANT: T has come; a domain that is stopped acts in its first clock (R454). -/
def execPmcInstant (s : State) : Result := answer s (pmcStep s)

/-! ## The observation multiplexer (R456, R457) -/

/-- Debug access is open in BLANK, MANUFACTURE and DEVELOPMENT. -/
def debugOpen (s : State) : Bool := decide (s.cur.lc.toNat ≤ 2)

def publicGroup (g : Nat) : Bool := [0, 1, 2, 7].contains g

/-- Whether a selection may be shown. -/
def obsOk (s : State) (group index : Nat) : Bool :=
  decide (group ≤ 7) && (publicGroup group || debugOpen s) &&
    (match group with
      | 1 => decide (index ≤ 1)
      | 3 | 4 => decide (index ≤ 71)
      | 5 => decide (index ≤ 15)
      | _ => true)

/-- A write of DBG_OBS_SEL. -/
def obsWrite (s : State) (v : W64) : State :=
  let ok := obsOk s (bitsN v 0 8) (bitsN v 8 8)
  s.rset .dbgObsSel 0 0 (setBit (BitVec.ofNat 64 (bitsN v 0 19)) 31 (!ok))

end Sys2Proof.Machine
end

