-- ==== Sys2Proof/Machine/Layout.lean ====
section
/-!
DEFINITION. Sys2Proof/Machine/Layout.lean: the layout service: registration and free (R242, R243), the descriptor table
(R247), creation and destruction of descriptors (R248, R252).
-/
namespace Sys2Proof.Machine

/-! ## Inventory (R242, R243) -/

/-- The lowest free index from 64 upward. -/
def freeIndexFrom (s : State) : Nat → Nat → Option Nat
  | 0, _ => none
  | n + 1, i =>
    let e := invGet s i
    if e.kind = 0 ∧ !e.freeing then some i else freeIndexFrom s n (i + 1)

def freeIndex (s : State) : Option Nat := freeIndexFrom s (65536 - 64) 64

/-- Whether a range meets an entry of kind Data, Image or Table, or one that is being freed. -/
def overlaps (s : State) (base size : Nat) : Bool :=
  s.lay.inv.any fun ie => (decide (1 ≤ ie.2.kind.toNat ∧ ie.2.kind.toNat ≤ 3) || ie.2.freeing) &&
    decide (base < ie.2.base.toNat + ie.2.size.toNat ∧ ie.2.base.toNat < base + size)

/-- The lowest reason for which a registration is refused; 0 for none. -/
def registerReason (s : State) (base size kind : Nat) : Nat :=
  if (freeIndex s).isNone then 1
  else if base % 4096 ≠ 0 ∨ size % 4096 ≠ 0 ∨ size = 0 then 2
  else if memTop s < base + size then 3
  else if overlaps s base size then 4
  else if kind = 0 ∨ 3 < kind then 5
  else 0

/-- REGISTER: the entry and its handle, or the reason of a refusal. -/
def layRegister (s : State) (base size kind : Nat) (wr : Bool) : State × Except Nat W32 :=
  match registerReason s base size kind, freeIndex s with
  | 0, some i =>
    let g := (invGet s i).gen
    let e : InvEntry := { base := BitVec.ofNat 64 base, size := BitVec.ofNat 64 size, gen := g, kind := BitVec.ofNat 3 kind,
                          wr := wr }
    (invPut s i e, .ok (BitVec.ofNat 32 (g.toNat * 65536 + i)))
  | k, _ => (s, .error k)

/-- Whether any descriptor exists. -/
def anyDesc (s : State) : Bool := s.lay.descs.any fun e => e.2.live

/-- A locked image: one with an unfinished dispatch (R41). -/
def imageLocked (s : State) (i : Nat) : Bool := s.host.dispatches.any fun d => d.image = i

/-- The reason for which a free is refused; 0 for none. -/
def freeReason (s : State) (h : W32) : Nat :=
  match handleEntry s h with
  | none => 6
  | some (i, e) =>
    if e.kind = 4 ∨ (e.kind = 2 ∧ imageLocked s i) ∨ (e.kind = 3 ∧ bitsN s.lay.dtab 0 16 = i ∧ anyDesc s) then 7 else 0

/-- An accepted free: the generation advances and the entry is being freed. -/
def layFree (s : State) (i : Nat) : State :=
  let e := invGet s i
  invPut s i { e with gen := nextGen e.gen, freeing := true }

/-- The free completes: the index is free, and an image loses its upload. -/
def freeEntry (s : State) (i : Nat) : State :=
  let s1 := invPut s i { gen := (invGet s i).gen }
  { s1 with host := { s1.host with images := s1.host.images.filter fun x => x.1 ≠ i } }

/-! ## The descriptor table (R247) -/

/-- Whether a table is set: its handle names a live entry of kind Table. -/
def tableSet (s : State) : Bool :=
  match handleEntry s s.lay.dtab with
  | some (_, e) => e.kind = 3
  | none => false

/-- A write of LAY_DTAB. -/
def dtabWrite (s : State) (v : W64) : State :=
  let h : W32 := v.extractLsb' 0 32
  let size : Option Nat := match handleEntry s h with
    | some (_, e) => if e.kind = 3 then some e.size.toNat else none
    | none => none
  if anyDesc s || (decide (h ≠ 0) && size.isNone) then { s with lay := { s.lay with dtabRefused := true } }
  else
    let n := min (size.getD 0 / 128) 1048576
    { s with lay := { s.lay with dtabRefused := false, dtab := h, slots := n } }

/-! ## Descriptors (R248, R252) -/

/-- The lowest slot without a descriptor. -/
def freeDescFrom (s : State) : Nat → Nat → Option Nat
  | 0, _ => none
  | n + 1, i => if (descGet s i).live then freeDescFrom s n (i + 1) else some i

def freeDesc (s : State) : Option Nat := freeDescFrom s s.lay.slots 0

/-- Lowest and highest of one dimension's term: x × STRIDE over 0 ≤ x < SIZE. -/
def dimSpan (d : Desc) (k : Nat) : Int × Int :=
  let t : Int := ((d.dim k : Int) - 1) * (if k < d.ndim then d.stride.getD k 0 else 0)
  (min 0 t, max 0 t)

/-- Lowest and highest offset of R250 over all data elements. -/
def Desc.bounds (d : Desc) : Int × Int :=
  let lo := (List.range 8).foldl (fun a k => a + (dimSpan d k).1) (0 : Int)
  let hi := (List.range 8).foldl (fun a k => a + (dimSpan d k).2) (0 : Int)
  ((d.offset : Int) + d.esize * lo, (d.offset : Int) + d.esize * hi)

/-- The bounds lie inside an entry of `size` bytes after rounding to the swizzle block. -/
def Desc.inside (d : Desc) (size : Nat) : Bool :=
  let b := swzBlock d.swz
  let lo := d.bounds.1
  let hi := d.bounds.2 + d.esize
  decide (0 ≤ lo ∧ (hi + b - 1) / b * b ≤ size)

/-- Some field at or beyond NDIM, or NDIM itself, is out of range (reason 4). -/
def Desc.dimsBad (d : Desc) : Bool :=
  decide (d.ndim = 0 ∨ 8 < d.ndim) || (List.range 8).any fun k =>
    if k < d.ndim then decide (d.size.getD k 0 = 0) else decide (d.size.getD k 0 ≠ 0 ∨ d.stride.getD k 0 ≠ 0)

/-- Reasons 1 to 9 of R252 in ascending order; 0 for none.  The record of R249 has no reserved byte. -/
def createReason (s : State) (d : Desc) : Nat :=
  match handleEntry s d.inv with
  | none => 1
  | some (_, e) =>
    let big (x : W32) : Bool := decide (2 ^ (8 * d.esize) ≤ x.toNat)
    if e.kind = 3 then 2
    else if (ETy.ofCode (BitVec.ofNat 4 d.typeCode)).isNone ∨ 16 ≤ d.typeCode ∨ d.ty = .int4 then 3
    else if d.dimsBad then 4
    else if 2 < d.swz ∨ 1 < d.oob then 5
    else if d.offset % d.esize ≠ 0 then 6
    else if big d.fill || big d.padval || (decide (d.ndim = 1) && decide (d.padLo 1 ≠ 0 ∨ d.padHi 1 ≠ 0)) then 7
    else if !d.inside e.size.toNat then 8
    else 0

/-- DESC_CREATE on a record: the handle, the reason of a refusal, or the error of the write to the table. -/
def descCreate (s : State) (rec : List Byte) : State × Except (Nat ⊕ Flt) W32 :=
  if !tableSet s then (s, .error (.inl 10))
  else match createReason s (decodeDesc rec) with
    | 0 =>
      match freeDesc s with
      | none => (s, .error (.inl 10))
      | some i =>
        let w := devWrite .registrar s (cellsAt (tableBase s + 128 * i) rec)
        match w.2 with
        | some f => (w.1, .error (.inr f))
        | none =>
          let x := descGet s i
          (descPut w.1 i { x with live := true, record := rec }, .ok (BitVec.ofNat 32 (x.sgen.toNat * 2 ^ 20 + i)))
    | k => (s, .error (.inl k))

/-- SGEN advances, skipping 0. -/
def nextSgen (g : BitVec 12) : BitVec 12 := if g = 0xFFF then 1 else g + 1

/-- DESC_DESTROY: whether the handle was live. -/
def descDestroy (s : State) (h : W32) : State × Bool :=
  match (if tableSet s then descLive s h else none) with
  | none => (s, false)
  | some i => (descPut s i { sgen := nextSgen (descGet s i).sgen }, true)

end Sys2Proof.Machine
end

