-- ==== Sys2Proof/Machine/MemCtl.lean ====
section
/-!
DEFINITION. Sys2Proof/Machine/MemCtl.lean: the memory controllers' own events: refresh rate (R275), loss and return of the
memory clock (R278), REINIT, and controller retirement (R279).
-/
namespace Sys2Proof.Machine

def memState (s : State) (k : Nat) : Nat := bitsN (s.rget .memStatus k 0) 0 3

def setMemState (s : State) (k st : Nat) : State := s.rmod .memStatus k 0 fun v => setBits v 0 3 st

/-- REFRESH_RATE_UPDATE: the code that the controller reads; a package above its operating limit is a thermal event for the
Conservator, kind 6 of its events (R275; log 75). -/
def execRefreshRateUpdate (k : Fin 48) (code : Byte) (limit : Bool) (s : State) : Result :=
  answer s (
    if domOn s 2 && s.memMap.getLsbD k.val then
      let s1 := s.rmod .memStatus k.val 0 fun v => setBits v 8 8 code.toNat
      if limit then rasNote s1 6 k.val 0 else s1
    else s)

/-- MEM_CLOCK_LOST: the source of D02 or D03 fails; the interface goes to self-refresh-safe levels (R278). -/
def execMemClockLost (s : State) : Result :=
  answer s (if domOn s 2 then { s with power := { s.power with memClk := false } } else s)

/-- A controller enters LOST: logged once, reported once (R278, R389). -/
def loseController (s : State) (k : Nat) : State :=
  if !s.memMap.getLsbD k || decide (memState s k = 3) then s
  else
    let s1 := rasNote ((setMemState s k 3).report 1 1) 1 k 0
    if bitB (s1.rget .memUeLog0 k 0) 63 then s1
    else (s1.rset .memUeLog0 k 0 (BitVec.ofNat 64 (2 ^ 63 + 3 * 2 ^ 60))).rset .memUeLog1 k 0 (nowNs s1)

/-- A write of MEM_CTL: REINIT acts in LOST only. -/
def reinitWrite (s : State) (k : Nat) (v : W64) : State :=
  if bitB v 0 && decide (memState s k = 3) then setMemState s k 4 else s

/-- Every line of a controller is zero with valid check words, and no cached copy of one stays (DESIGN CHOICE, log 122). -/
def zeroController (s : State) (k : Nat) : State :=
  { s with mem := s.mem.filter fun c => !(decide (c.1 < memTop s) && decide ((ctrlOf s c.1).1 = k))
           memErr := s.memErr.filter fun e => decide (e.1 / 64 / 2 ^ 29 ≠ k)
           vit := { s.vit with l2 := s.vit.l2.filter fun x => decide ((ctrlOf s (64 * x.line)).1 ≠ k) } }

/-- REINIT_DONE: the zeroing has ended and the controller is ACTIVE. -/
def execReinitDone (k : Fin 48) (s : State) : Result :=
  answer s (if domOn s 2 && decide (memState s k.val = 4) then setMemState (zeroController s k.val) k.val 1 else s)

/-- A write of MEM_RETIRE: refused, with nothing changed, for a controller that is retired or the last in service. -/
def memRetireWrite (s : State) (v : W64) : State :=
  let k := bitsN v 0 6
  let left := (s.memMap &&& ~~~s.memPend) &&& ~~~(BitVec.ofNat 48 (2 ^ k))
  if bitB v 31 && decide (k < 48) && s.memMap.getLsbD k && decide (left ≠ 0) then
    { s with memPend := setBit s.memPend k true }
  else s

end Sys2Proof.Machine
end

