-- ==== Sys2Proof/Machine/Registrar.lean ====
section
/-!
DEFINITION. Sys2Proof/Machine/Registrar.lean: the registrar: contexts and rings (R294, R295), doorbells (R296, R299), the
fetch of entries (R297, R302), the commands of R303 to R306, aborts (R312, R313) and completion records (R307 to R311).
-/
namespace Sys2Proof.Machine

/-- The registrar works: D01 runs and no function-level reset is in progress (R293). -/
def registrarOn (s : State) : Bool := domOn s 1 && !s.power.flr

def Ring.size (x : Ring) : Nat := 2 ^ x.log2.toNat

def ringCmds (s : State) (r : Nat) : List Cmd := s.host.cmds.filter fun c => c.ring = r

/-! ## Host reads (R292, R297, R300) -/

/-- Max Read Request Size and Max Payload Size in bytes (R287). -/
def maxReadRequest (s : State) : Nat := 128 * 2 ^ min s.host.mrrs.toNat 5
def maxPayload (s : State) : Nat := 128 * 2 ^ min s.host.mps.toNat 2

/-- At most 1,024 non-posted requests are outstanding (R287). -/
def readRoom (s : State) : Bool := decide (s.host.reqs.length < 1024)

/-- The length of the next request of a read: none crosses a multiple of Max Read Request Size (DESIGN CHOICE, log 117). -/
def requestLen (s : State) (r : HostRead) : Nat :=
  min (r.len - r.asked) (maxReadRequest s - (r.addr.toNat + r.asked) % maxReadRequest s)

/-- Send the next request of the first read that has more to ask for, if there is room. -/
def askNext (s : State) : Option State :=
  if !readRoom s then none
  else (s.host.reads.find? fun r => decide (r.asked < r.len)).map fun r =>
    let n := requestLen s r
    let id := s.host.nextId
    let a := r.addr + BitVec.ofNat 64 r.asked
    let more := s.host.reads.map fun x => if x.id = r.id then { x with asked := x.asked + n } else x
    emit { s with host := { s.host with reads := more, reqs := s.host.reqs ++ [⟨id, r.id, a, r.asked, n⟩], nextId := id + 1 } }
      (.hostRead id a n)

/-- Send requests for as long as there are any and there is room. -/
def askReads : Nat → State → State
  | 0, s => s
  | n + 1, s =>
    match askNext s with
    | none => s
    | some t => askReads n t

/-- Read host memory for a use: in requests, which go out as there is room for them (R287). -/
def hostRead (s : State) (use : HostUse) (addr len : Nat) : State :=
  let r : HostRead := ⟨s.host.nextId, use, BitVec.ofNat 64 addr, len, 0, []⟩
  askReads 1024 { s with host := { s.host with reads := s.host.reads ++ [r], nextId := s.host.nextId + 1 } }

def hasRead (s : State) (f : HostUse → Bool) : Bool := s.host.reads.any fun r => f r.use

/-- A read that ended in error, or timed out: counted and flagged (R292, R300). -/
def countReadErr (s : State) (timeout : Bool) : State :=
  (s.rcountSat .hstErrCount 0 0 (if timeout then 32 else 0) 32 1).rmod .hstStatus 0 0 fun v => setBit v 4 true

/-- The code and detail of such a read. -/
def readErrFlt (r : HostRead) (timeout : Bool) : Flt :=
  ⟨if timeout then 0x0704 else 0x0703, r.addr.extractLsb' 0 32⟩

/-! ## The context cache (R294) -/

def contextAddr (s : State) (r : Nat) : Nat := (s.rget .acnCatBase 0 0).toNat + 64 * r

/-- STATE of a context: PI, FI, CPI, CCI and the ring's state (DESIGN CHOICE, log 42). -/
def stateBytesOf (x : Ring) : List Byte :=
  leBytes 4 x.pi.toNat ++ leBytes 4 x.fi.toNat ++ leBytes 4 x.cpi.toNat ++ leBytes 4 x.cci.toNat ++ leBytes 1 x.state.toNat
    ++ leBytes 15 0

def writeBack (s : State) (r : Nat) : State :=
  emit s (.hostWrite (BitVec.ofNat 64 (contextAddr s r + 0x20)) (stateBytesOf (ringGet s r)) false)

/-- Cached rings with no entry waiting for fetch and no command in flight. -/
def evictable (s : State) : List Nat :=
  (s.host.rings.filter fun e => e.2.cached && decide (e.2.pi = e.2.fi) && (ringCmds s e.1).isEmpty &&
    !hasRead s fun u => match u with
      | .entries r _ _ => decide (r = e.1)
      | _ => false).map (·.1)

def cachedCount (s : State) : Nat := s.host.rings.countP fun e => e.2.cached

/-- Whether a context can be cached now. -/
def cacheRoom (s : State) : Bool := decide (cachedCount s < 4096) || !(evictable s).isEmpty

/-- Make room for one context: which one leaves is a free value. -/
def makeRoom (s : State) : State :=
  if cachedCount s < 4096 then s
  else
    let l := evictable s
    match l[(Config.freeValue s.free).toNat % l.length]? with
    | none => s
    | some r =>
      let s1 := { s with free := s.free + 1 }
      ringPut (writeBack s1 r) r { ringGet s1 r with cached := false }

/-- The context fields of bytes 0x00 to 0x1F, for a ring. -/
def loadContext (x : Ring) (d : List Byte) : Ring :=
  { x with
    ringBase := BitVec.ofNat 64 (fieldAt d 0 8)
    cqBase := BitVec.ofNat 64 (fieldAt d 8 8)
    ciWb := BitVec.ofNat 64 (fieldAt d 0x10 8)
    log2 := BitVec.ofNat 8 (fieldAt d 0x18 1)
    irqEn := decide (fieldAt d 0x19 1 % 2 = 1)
    vector := BitVec.ofNat 16 (fieldAt d 0x1A 2)
    itr := BitVec.ofNat 16 (fieldAt d 0x1C 2) }

/-- Whether the fields of a context are in range (R294, R295). -/
def contextOk (d : List Byte) : Bool :=
  decide (fieldAt d 0 8 % 4096 = 0 ∧ fieldAt d 8 8 % 4096 = 0 ∧ fieldAt d 0x10 8 % 8 = 0) &&
  decide (6 ≤ fieldAt d 0x18 1 ∧ fieldAt d 0x18 1 ≤ 16 ∧ fieldAt d 0x19 1 < 2) &&
  decide (fieldAt d 0x1A 2 ≤ 2047 ∧ fieldAt d 0x1C 2 ≤ 1023 ∧ fieldAt d 0x1E 2 = 0)

/-! ## ENABLE and DISABLE (R295) -/

def ctxStatus (s : State) (st reason : Nat) : State :=
  s.rmod .acnCtxOpStatus 0 0 fun v => setBits (setBits v 0 2 st) 8 8 reason

/-- Below the compute floor no ring is enabled: ACN_CAT_CTL.EN counts as clear (R421; DEDUCED, log 53). -/
def belowFloor (s : State) : Bool := bitB (s.rget .glbStatus 0 0) 1

/-- A write of ACN_CTX_OP. -/
def ctxOpWrite (s : State) (v : W64) : State :=
  let op := bitsN v 28 4
  let r := bitsN v 0 20
  if s.host.ctxOp.isSome then ctxStatus s 3 1
  else if !bitB (s.rget .acnCatCtl 0 0) 0 || (decide (op = 1) && belowFloor s) then ctxStatus s 3 2
  else if op = 1 then
    if (ringGet s r).state ≠ 0 then ctxStatus s 3 3
    else
      let s1 := { s with host := { s.host with ctxOp := some (true, r) } }
      ctxStatus (hostRead s1 (.context r) (contextAddr s r) 32) 1 0
  else if op = 2 then
    let s1 := ctxStatus s 2 0
    if (ringGet s r).state = 0 ∨ (ringGet s r).state = 3 then s1 else drainRing s1 r
  else ctxStatus s 3 6

/-- The context of an ENABLE has arrived. -/
def contextArrived (s : State) (r : Nat) (d : List Byte) : State :=
  let s0 := { s with host := { s.host with ctxOp := none } }
  if (ringGet s r).state ≠ 0 then ctxStatus s0 3 3
  else if belowFloor s then ctxStatus s0 3 2
  else if !contextOk d then ctxStatus s0 3 4
  else
    let fit := cacheRoom s0
    let s1 := makeRoom s0
    let s2 := ringPut s1 r { loadContext {} d with state := 1, cached := fit }
    ctxStatus (if fit then s2 else writeBack s2 r) 2 0

/-- RING_DISABLED: every fetched command of a draining ring has its record: STATE is written back and the ring is
DISABLED. -/
def execRingDisabled (ring : Nat) (s : State) : Result :=
  answer s (
    if decide ((ringGet s ring).state = 3) && (ringCmds s ring).isEmpty && registrarOn s then
      let s1 := ringPut s ring { ringGet s ring with state := 0 }
      floorSettle (writeBack s1 ring)
    else s)

/-! ## Doorbells (R296, R299) -/

def dropDoorbell (s : State) : State :=
  (s.rcountSat .acnDbDrop 0 0 0 32 1).rmod .hstStatus 0 0 fun v => setBit v 3 true

/-- a below b in the order of indices that R299 uses. -/
def idxBelow (a b : W32) : Bool := let d := (b - a).toNat; decide (1 ≤ d ∧ d ≤ 2 ^ 31)

/-- A doorbell on an ENABLED ring whose context is cached. -/
def ringDoorbell (s : State) (r : Nat) (value : W64) (lo hi : Bool) : State :=
  let x := ringGet s r
  let pi := if lo then value.extractLsb' 0 32 else x.pi
  let cci := if hi then value.extractLsb' 32 32 else x.cci
  if decide (x.size < (pi - cci).toNat) || idxBelow pi x.fi || idxBelow x.cpi cci then
    logAcn (ringPut s r { x with state := 2 }) 0x0702 r
  else ringPut s r { x with pi := pi, cci := cci }

/-- Whether the context of a ring is being read for doorbells that missed. -/
def missRead (s : State) (r : Nat) : Bool :=
  hasRead s fun u => match u with
    | .miss k _ => decide (k = r)
    | _ => false

/-- One more doorbell waits for the context of its ring, behind those that wait already (R296). -/
def joinMiss (s : State) (r : Nat) (b : W64 × Bool × Bool) : State :=
  { s with host := { s.host with reads := s.host.reads.map fun h => match h.use with
      | .miss k l => if k = r then { h with use := .miss r (l ++ [b]) } else h
      | _ => h } }

/-- A doorbell that takes effect: dropped where the ring is not ENABLED, applied on a hit, and on a miss applied when the
context has been read. -/
def applyDoorbell (s : State) (r : Nat) (value : W64) (lo hi : Bool) : State :=
  let x := ringGet s r
  if x.state ≠ 1 then dropDoorbell s
  else if x.cached then ringDoorbell (s.rcountSat .acnCacheStat 0 0 0 32 1) r value lo hi
  else
    let s1 := s.rcountSat .acnCacheStat 0 0 32 32 1
    if missRead s r then joinMiss s1 r (value, lo, hi) else hostRead s1 (.miss r [(value, lo, hi)]) (contextAddr s r) 64

/-- The answer of a read of a doorbell register, or of one half of it (R296). -/
def doorbellRead (s : State) (r : Nat) (lo hi : Bool) : State :=
  let x := ringGet s r
  emit s (.reply .success ((if lo then leBytes 4 x.pi.toNat else []) ++ if hi then leBytes 4 x.cci.toNat else []))

/-- In SLEEP or DEEP, or while the module enters one of them or leaves it (R408, R411). -/
def sleeping (s : State) : Bool := decide (pwrState s = 3 ∨ pwrState s = 4) || s.power.target.isSome

def holdAccess (s : State) (a : HeldAccess) : State :=
  { s with power := { s.power with held := s.power.held ++ [a] } }

def heldDoorbells (s : State) : Nat := s.power.held.countP fun a => match a with
  | .doorbell _ _ _ _ => true
  | _ => false

/-- The host's requests arrive: the link is up with its controller clocked, or leaving L1 in DEEP (R410, R413). -/
def hostLink (s : State) : Bool :=
  s.power.link.isSome && !s.power.perst && (domOn s 4 || (decide (pwrState s = 4) && s.power.wake.isSome))

/-- They are served: the function is in D0 and no function-level reset runs (R293). -/
def hostReaches (s : State) : Bool := hostLink s && !s.power.d3hot && !s.power.flr

/-- A naturally aligned 4-byte or 8-byte access of BAR2: its ring, and whether it covers the low and the high half (R288, R296). -/
def doorbellAt (off size : Nat) : Option (Nat × Bool × Bool) :=
  if (size = 4 ∨ size = 8) ∧ off % size = 0 then
    some (off / 8, decide (off % 8 = 0), decide (size = 8 ∨ off % 8 = 4))
  else none

/-- The doorbells that waited for a context, in order; one that puts the ring in ERROR drops those after it. -/
def missDoorbells (s : State) (r : Nat) (l : List (W64 × Bool × Bool)) : State :=
  l.foldl (fun s b => if (ringGet s r).state = 1 then ringDoorbell s r b.1 b.2.1 b.2.2 else dropDoorbell s) s

/-- The context of missed doorbells has arrived. -/
def missArrived (s : State) (r : Nat) (l : List (W64 × Bool × Bool)) (d : List Byte) : State :=
  let x := ringGet s r
  if x.state ≠ 1 || x.cached then missDoorbells s r l
  else if !cacheRoom s then hostRead s (.miss r l) (contextAddr s r) 64
  else
    let s1 := makeRoom s
    let f (o : Nat) : W32 := BitVec.ofNat 32 (fieldAt d o 4)
    let y := loadContext { ringGet s1 r with cached := true, pi := f 0x20, fi := f 0x24, cpi := f 0x28, cci := f 0x2C } d
    missDoorbells (ringPut s1 r y) r l

/-! ## The fetch of entries (R297, R302) -/

/-- How many entries the next read of a ring takes: up to 8, below PI, with a record slot reserved and room in the command
table; a read does not go past the end of the ring. -/
def fetchCount (s : State) (r : Nat) : Nat :=
  let x := ringGet s r
  let pendingReads := s.host.reads.foldl (fun a h => match h.use with
    | .entries _ _ n => a + n
    | _ => a) 0
  min (min 8 (x.pi - x.fi).toNat)
    (min (min (x.size - (x.fi - x.cci).toNat) (x.size - x.fi.toNat % x.size)) (8192 - (s.host.cmds.length + pendingReads)))

/-- ENTRY_FETCH: one read of a ring's entries is sent. -/
def execEntryFetch (ring : Nat) (s : State) : Result :=
  let x := ringGet s ring
  answer s (
    if registrarOn s && !sleeping s && readRoom s && decide (x.state = 1) && x.cached && decide (0 < fetchCount s ring) &&
        !(hasRead s fun u => match u with
          | .entries r _ _ => decide (r = ring)
          | _ => false) then
      hostRead s (.entries ring x.fi (fetchCount s ring)) (x.ringBase.toNat + 64 * (x.fi.toNat % x.size))
        (64 * fetchCount s ring)
    else s)

/-- Operand bytes of each OPCODE: offset and length (R303). -/
def usedBytes (op : Nat) : Option (List (Nat × Nat)) :=
  match op with
  | 0 => some []
  | 1 => some [(8, 18)]
  | 2 => some [(8, 4)]
  | 3 => some [(8, 8)]
  | 4 => some [(8, 4)]
  | 5 => some [(8, 4), (0x10, 16)]
  | 6 => some [(8, 6), (0x10, 40)]
  | 7 => some [(8, 8), (0x10, 16)]
  | 8 => some [(8, 4), (0x10, 16)]
  | 9 => some [(8, 4), (0x10, 16)]
  | 10 => some [(8, 8)]
  | _ => none

/-- The first byte of the field that holds byte i: byte 2 of the header, a PVAL of four bytes, and of operand bytes that are not used the
first after an operand (DEDUCED, log 119); every other field that can be bad has one byte. -/
def fieldStart (op : Nat) (used : List (Nat × Nat)) (i : Nat) : Nat :=
  if i < 8 then (if i = 3 then 2 else i)
  else if used.any (fun u => decide (u.1 ≤ i ∧ i < u.1 + u.2)) then (if op = 6 ∧ 0x18 ≤ i then i / 4 * 4 else i)
  else used.foldl (fun a u => if u.1 + u.2 ≤ i then max a (u.1 + u.2) else a) 8

/-- Whether a byte of an entry is bad: a reserved byte that is not zero, a reserved bit of FLAGS, PSEL or WR, or operand
bytes of a patch that is not valid. -/
def byteBad (e : List Byte) (used : List (Nat × Nat)) (i : Nat) : Bool :=
  let b : Byte := e.getD i 0
  if i = 1 then decide (4 ≤ b.toNat)
  else if i = 2 ∨ i = 3 then decide (b ≠ 0)
  else if i < 8 then false
  else if !used.any (fun u => decide (u.1 ≤ i ∧ i < u.1 + u.2)) then decide (b ≠ 0)
  else if e.headD 0 = 1 ∧ i = 0x19 then decide (2 ≤ b.toNat)
  else if e.headD 0 = 6 ∧ 0x10 ≤ i ∧ i < 0x18 then decide (b &&& 0x60 ≠ 0) || (decide (b ≠ 0) && !bitB b 7)
  else if e.headD 0 = 6 ∧ 0x18 ≤ i then decide (b ≠ 0) && !bitB (e.getD (0x10 + (i - 0x18) / 4) 0) 7
  else false

/-- Byte offset of the first bad field of an entry (R301, R302). -/
def entryBad (e : List Byte) : Option Nat :=
  match usedBytes (fieldAt e 0 1) with
  | none => some 0
  | some used => ((List.range 64).find? (byteBad e used)).map (fieldStart (fieldAt e 0 1) used)

def endCmd (c : Cmd) (status : BitVec 8) (code : BitVec 16) (detail : W32) : Cmd :=
  { c with state := .finished, status := status, code := code, detail := detail }

/-- A fetched command: cancelled where a mark names it, refused where a field is bad. -/
def newCmd (marked : Bool) (r : Nat) (i : W32) (e : List Byte) : Cmd :=
  let c : Cmd := { ring := r, index := i, entry := e }
  if marked then endCmd c 3 0 0
  else match entryBad e with
    | some off => endCmd c 2 0x0701 (BitVec.ofNat 32 off)
    | none => c

/-- The entries of a read have arrived: copied, FI advanced and written to CI_WB. -/
def entriesArrived (s : State) (r : Nat) (first : W32) (n : Nat) (d : List Byte) : State :=
  let x := ringGet s r
  if x.state ≠ 1 ∨ x.fi ≠ first ∨ (x.pi - x.fi).toNat < n then s
  else
    let cs := (List.range n).map fun k =>
      let i := first + BitVec.ofNat 32 k
      newCmd (s.host.marks.contains (r, i)) r i (slice d (64 * k) 64)
    let keep := s.host.marks.filter fun m => !(decide (m.1 = r) && decide ((m.2 - first).toNat < n))
    let fi := first + BitVec.ofNat 32 n
    let s1 := ringPut s r { x with fi := fi }
    let s2 := { s1 with host := { s1.host with cmds := s1.host.cmds ++ cs, marks := keep } }
    if x.ciWb = 0 then s2 else emit s2 (.hostWrite x.ciWb (leBytes 8 fi.toNat) false)

/-! ## The start of a command (R302) -/

/-- Commands of the same ring before one in index order. -/
def earlierCmds (s : State) (c : Cmd) : List Cmd := (ringCmds s c.ring).takeWhile fun d => decide (d.index ≠ c.index)

/-- The command that may start now with an OPCODE. -/
def startable (s : State) (ring : Nat) (index : W32) (op : Nat) : Option Cmd :=
  match cmdAt s ring index with
  | none => none
  | some c =>
    if registrarOn s && decide (c.state = .fetched ∧ fieldAt c.entry 0 1 = op) &&
        (earlierCmds s c).all (fun d => decide (d.state ≠ .fetched)) &&
        (!bitB (c.entry.getD 1 0) 0 || (earlierCmds s c).isEmpty) then some c
    else none

/-- The common form of the rows of R303. -/
def runCmd (ring : Nat) (index : W32) (op : Nat) (s : State) (f : State → Cmd → State) : Result :=
  answer s (match startable s ring index op with
    | none => s
    | some c => f s c)

def finishCmd (s : State) (c : Cmd) (f : Cmd → Cmd) : State := modCmd s c.ring c.index fun c => f { c with state := .finished }

def refuseCmd (s : State) (c : Cmd) (code : BitVec 16) (detail : Nat) : State :=
  modCmd s c.ring c.index fun c => endCmd c 2 code (BitVec.ofNat 32 detail)

def failCmd (s : State) (c : Cmd) (f : Flt) : State := modCmd s c.ring c.index fun c => endCmd c 1 f.code f.detail

/-- A copy or upload that fails after it has written bytes (R310). -/
def failAfter (s : State) (c : Cmd) (f : Flt) (bytes : Nat) : State :=
  modCmd s c.ring c.index fun c => { endCmd c 1 f.code f.detail with progress := BitVec.ofNat 64 bytes }

def runningCmd (s : State) (c : Cmd) (f : Cmd → Cmd) : State := modCmd s c.ring c.index fun c => f { c with state := .running }

def opField (c : Cmd) (off len : Nat) : Nat := fieldAt c.entry off len
def opHandle (c : Cmd) (off : Nat) : W32 := BitVec.ofNat 32 (fieldAt c.entry off 4)

/-- NOP. -/
def execRingNop (ring : Nat) (index : W32) (s : State) : Result := runCmd ring index 0 s fun s c => finishCmd s c id

/-- REGISTER (R242). -/
def execRingRegister (ring : Nat) (index : W32) (s : State) : Result :=
  runCmd ring index 1 s fun s c =>
    let r := layRegister s (opField c 8 8) (opField c 0x10 8) (opField c 0x18 1) (decide (opField c 0x19 1 = 1))
    match r.2 with
    | .ok h => finishCmd r.1 c fun c => { c with result := h }
    | .error k => refuseCmd r.1 c 0x0507 k

/-- FREE (R243): the record waits for the index to become free. -/
def execRingFree (ring : Nat) (index : W32) (s : State) : Result :=
  runCmd ring index 2 s fun s c =>
    let h := opHandle c 8
    match freeReason s h with
    | 0 => runningCmd (layFree s (bitsN h 0 16)) c id
    | k => refuseCmd s c 0x0507 k

/-- The FREE that waits for an entry. -/
def freeCmd (s : State) (i : Nat) : Option Cmd :=
  s.host.cmds.find? fun c => decide (c.state = .running ∧ opField c 0 1 = 2 ∧ opField c 8 2 = i)

/-- FREE_COMPLETE: the user count of a freeing entry is zero and the index becomes free. -/
def execFreeComplete (entry : Nat) (s : State) : Result :=
  answer s (
    if (invGet s entry).freeing && decide ((invGet s entry).users = 0) && domOn s 1 then
      let s1 := freeEntry s entry
      match freeCmd s entry with
      | none => s1
      | some c => finishCmd s1 c id
    else s)

/-- DESC_CREATE (R252): the record is read from host memory. -/
def execDescCreate (ring : Nat) (index : W32) (s : State) : Result :=
  runCmd ring index 3 s fun s c =>
    let a := opField c 8 8
    if a % 128 ≠ 0 then refuseCmd s c 0x070B 8
    else runningCmd (hostRead s (.command ring index 1) a 128) c id

/-- The descriptor record of a DESC_CREATE has arrived. -/
def createArrived (s : State) (c : Cmd) (d : List Byte) : State :=
  let r := descCreate s d
  match r.2 with
  | .ok h => finishCmd r.1 c fun c => { c with result := h }
  | .error (.inl k) => refuseCmd r.1 c 0x0506 k
  | .error (.inr f) => failCmd r.1 c f

/-- DESC_DESTROY (R248). -/
def execDescDestroy (ring : Nat) (index : W32) (s : State) : Result :=
  runCmd ring index 4 s fun s c =>
    let r := descDestroy s (opHandle c 8)
    if r.2 then finishCmd r.1 c id else refuseCmd r.1 c 0x0506 11

/-! ## UPLOAD_IMAGE (R40, R41, R304) -/

def dropImage (s : State) (i : Nat) : State :=
  { s with host := { s.host with images := s.host.images.filter fun x => x.1 ≠ i } }

def imageOf (s : State) (i : Nat) : Option Image := (s.host.images.find? fun x => x.1 = i).map (·.2)

def execUploadImage (ring : Nat) (index : W32) (s : State) : Result :=
  runCmd ring index 5 s fun s c =>
    let h := opHandle c 8
    match handleEntry s h with
    | none => refuseCmd s c 0x070B 8
    | some (i, e) =>
      let n := opField c 0x18 8
      if e.kind ≠ 2 then refuseCmd s c 0x070B 8
      else if opField c 0x10 8 % 64 ≠ 0 then refuseCmd s c 0x070B 0x10
      else if n < 0x110 ∨ e.size.toNat < n then refuseCmd s c 0x070B 0x18
      else if imageLocked s i then refuseCmd s c 0x070A h.toNat
      else
        let s1 := hostRead (useBegin s i) (.command ring index 1) (opField c 0x10 8) n
        runningCmd s1 c fun c => { c with uses := [i] }

/-- A pass of an upload has arrived; a dispatch from the earlier upload may have locked the allocation by then (R41). -/
def uploadArrived (s : State) (c : Cmd) (pass : Nat) (d : List Byte) : State :=
  let i := bitsN (opHandle c 8) 0 16
  let e := invGet s i
  let stop := usesEnd s c.uses
  if imageLocked s i then refuseCmd stop c 0x070A (opHandle c 8).toNat
  else if pass = 1 then
    if !imageOk d e.size.toNat then refuseCmd stop c 0x0109 0
    else
      let s1 := hostRead (dropImage s i) (.command c.ring c.index 2) (opField c 0x10 8) d.length
      runningCmd s1 c fun c => { c with crc := crc64 d }
  else
    let same := decide (crc64 d = c.crc)
    let bs := if same then d else (List.range d.length).map fun k => (Config.freeValue (stop.free + k)).extractLsb' 0 8
    let s1 := if same then stop else { stop with free := stop.free + d.length }
    let w := devWriteN .registrar s1 (cellsAt e.base.toNat bs)
    match w.2.1 with
    | some f => failAfter w.1 c f w.2.2
    | none =>
      if same then
        let s2 := { w.1 with host := { w.1.host with images := w.1.host.images ++ [(i, ⟨e.gen, d.take 256⟩)] } }
        finishCmd s2 c fun c => { c with progress := BitVec.ofNat 64 d.length }
      else modCmd w.1 c.ring c.index fun c => { endCmd c 1 0x0708 0 with progress := BitVec.ofNat 64 d.length }

/-! ## RUN_PROGRAM (R42, R43, R148, R305) -/

/-- The valid patches of an entry: register and value. -/
def patchesOf (c : Cmd) : List (Nat × Nat × W64) :=
  (List.range 8).filterMap fun i =>
    let b := opField c (0x10 + i) 1
    let v := opField c (0x18 + 4 * i) 4
    if 128 ≤ b then
      some (i, b % 16, if b / 16 % 2 = 1 then (BitVec.ofNat 32 v).signExtend 64 else BitVec.ofNat 64 v)
    else none

/-- The first patch that names a register again. -/
def patchDup : List Nat → List (Nat × Nat × W64) → Option Nat
  | _, [] => none
  | seen, (i, r, _) :: t => if seen.contains r then some i else patchDup (r :: seen) t

/-- Idle enabled cores that no dispatch holds and no retirement waits for, in ascending logical index. -/
def idleCores (s : State) : List (Fin 72) :=
  (List.range 64).filterMap fun n =>
    match physOf s n with
    | none => none
    | some p =>
      if decide ((s.core p).runstate = 0) && (dispatchOfCore s p).isNone && decide (s.host.retire ≠ some p) &&
          !s.dbg.boundary then some p
      else none

/-- Seed word of generator g (R148). -/
def dispatchSeed (v : W64) (i g : Nat) : W64 :=
  let z := (v ^^^ BitVec.ofNat 64 (i * 2 ^ 32) ^^^ BitVec.ofNat 64 g) + 0x9E3779B97F4A7C15
  let z := (z ^^^ (z >>> 30)) * 0xBF58476D1CE4E5B9
  let z := (z ^^^ (z >>> 27)) * 0x94D049BB133111EB
  z ^^^ (z >>> 31)

def seedGens (v : W64) (i : Nat) : List (Nat × W64) := (List.range 1024).map fun g => (g, dispatchSeed v i g)

/-- The streams of a dispatched core: native mode has stream 0. -/
def startStreams (h : ImageHdr) : Vector Stream 6 :=
  Vector.ofFn fun k =>
    let e := h.entries.getD k.val noEntry
    if e = noEntry then {} else { active := true, pc := BitVec.ofNat 32 e }

/-- Storage that dispatch does not write (R23). -/
def keptAtDispatch : Place → Bool
  | .ab _ | .tbl _ | .gen _ | .segt _ => true
  | _ => false

/-- Both matrix sets are invalid (R96). -/
def noSets (m : MatState) : MatState :=
  { m with stat := { m.stat with valid := false }, shad := { m.shad with valid := false, preload := false } }

/-- The state of R22 in a core, released at its entries; R23 keeps the rest. -/
def loadCore (h : ImageHdr) (params : List W64) (tag : W32) (n i : Nat) (c : Core) : Core :=
  Core.clean { c with
    s := Vector.replicate 32 0, ps := Vector.replicate 96 0, p := Vector.ofFn fun k => params.getD k.val 0, v := [],
    m := Vector.replicate 8 (BitVec.allOnes 512), f := 0, k := Vector.replicate 16 0, sticky := Vector.replicate 6 0,
    runstate := 2, loading := true, rr := 0, pl12 := decide (h.mode = 1), tag := tag, ncores := BitVec.ofNat 16 n, dindex := BitVec.ofNat 16 i,
    extent := BitVec.ofNat 32 h.extent, streams := startStreams h, queues := Vector.replicate 6 [],
    inflight := Vector.replicate 6 [], extSig := false,
    mat := noSets c.mat, issueSel := c.copySel, seq := 0, rstat := [], slots := [], runs := [], ibuf := [] }
    fun k => !keptAtDispatch k

/-- Dispatch on one core, with the seeding of R147 and R148 and the L1 barrier of R234. -/
def dispatchCore (h : ImageHdr) (params : List W64) (tag : W32) (n : Nat) (s : State) (x : Nat × Fin 72) : State :=
  let p := x.2
  let ctl := s.rget .corVeGenCtl p.val 0
  let s1 := l1Barrier p (reseedIfDue s p)
  s1.modCore p fun c =>
    let c := { loadCore h params tag n x.1 c with freeRun := decide (bitsN ctl 0 2 = 1) }
    if bitB ctl 31 then Core.clean { c with gen := seedGens (params.getD (bitsN ctl 16 4) 0) x.1 } isGen else c

/-- The next DISPATCH_TAG, skipping 0. -/
def nextDispatchTag (s : State) : W32 :=
  let t : W32 := (s.rget .acnDispatchTag 0 0).extractLsb' 0 32 + 1
  if t = 0 then 1 else t

/-- Whether the upload of an Image entry is current (R41). -/
def uploadOf (s : State) (h : W32) : Option Image :=
  let i := bitsN h 0 16
  match handleEntry s h, imageOf s i with
  | some _, some m => if m.gen.toNat = bitsN h 16 16 then some m else none
  | _, _ => none

/-- RUN_PROGRAM. A patch that names a register again and a wrong operand are refused before the generation is checked (DESIGN CHOICE, log
120: R42 and R303 give no order); a handle of an earlier generation is not live, so that R303 refuses it with E_HOST_OPERAND, and
E_CORE_IMAGE_STALE is for a live entry without a current upload. -/
def execRunProgram (ring : Nat) (index : W32) (s : State) : Result :=
  runCmd ring index 6 s fun s c =>
    let h := opHandle c 8
    let i := bitsN h 0 16
    let n := opField c 0x0C 2
    match patchDup [] (patchesOf c) with
    | some k => refuseCmd s c 0x0707 k
    | none =>
      if (handleEntry s h).isNone ∨ (invGet s i).kind ≠ 2 then refuseCmd s c 0x070B 8
      else match uploadOf s h with
        | none => refuseCmd s c 0x010A 0
        | some m =>
          let hd := parseHdr m.header
          let idle := idleCores s
          if n < hd.coresMin ∨ hd.coresMax < n ∨ idle.length < n then refuseCmd s c 0x010B 0
          else
            let tag := nextDispatchTag s
            let cores := idle.take n
            let params := (patchesOf c).foldl (fun l x => l.set x.2.1 x.2.2) hd.params
            let s1 := (cores.mapIdx fun k p => (k, p)).foldl (dispatchCore hd params tag n) s
            let s2 := s1.rset .acnDispatchTag 0 0 (tag.zeroExtend 64)
            let d : Dispatch := { tag := tag, ring := ring, index := index, image := i, cores := cores }
            let s3 := { s2 with host := { s2.host with dispatches := s2.host.dispatches ++ [d] } }
            runningCmd s3 c fun c => { c with result := tag }

/-! ## Ring copies (R306) -/

/-- One position of a ring copy: SRC at x, DST at x + origin. -/
def ringStep (src dst : View) (org : List Int) (x : List Int) (mv : Moving) : Moving :=
  copyStep .ring src dst x ((List.range 8).map fun k => x.getD k 0 + org.getD k 0) mv

/-- The end of a copy that runs whole in its start step. -/
def copyEnd (s : State) (c : Cmd) (err : Option Flt) (bytes : Nat) : State :=
  match err with
  | some f => failAfter s c f bytes
  | none => finishCmd s c fun c => { c with progress := BitVec.ofNat 64 bytes }

/-- COPY. -/
def execRingCopy (ring : Nat) (index : W32) (s : State) : Result :=
  runCmd ring index 7 s fun s c =>
    let v := openTwo .ring s ((opHandle c 0x0C).zeroExtend 64) ((opHandle c 8).zeroExtend 64)
    match v.2 with
    | .error f => failCmd v.1 c f
    | .ok (src, dst) =>
      match pairFlt src dst false with
      | some f => failCmd v.1 c f
      | none =>
        let org := (List.range 4).map fun k => (BitVec.ofNat 32 (opField c (0x10 + 4 * k) 4)).toInt
        let r := finishCopy .ring (src.desc.logical.foldl (fun mv x => ringStep src dst org x mv) { st := v.1 }) src.desc.esize
        copyEnd r.st c r.err r.bytes

/-- The checks that COPY_IN and COPY_OUT share after those of the view. -/
def hostCopyReason (c : Cmd) (v : View) : Option (BitVec 16 × Nat) :=
  if opField c 0x10 8 % 64 ≠ 0 then some (0x070B, 0x10)
  else if opField c 0x18 8 ≠ v.desc.dataBytes then some (0x0709, 0)
  else none

/-- COPY_IN: LENGTH bytes of host memory are read. -/
def execCopyIn (ring : Nat) (index : W32) (s : State) : Result :=
  runCmd ring index 8 s fun s c =>
    let v := openView .ring s ((opHandle c 8).zeroExtend 64)
    match v.2 with
    | .error f => failCmd v.1 c f
    | .ok dst =>
      if !dst.destOk then failCmd v.1 c (layDestFlt dst.handle)
      else match hostCopyReason c dst with
        | some (code, d) => refuseCmd v.1 c code d
        | none =>
          let slot := bitsN (opHandle c 8) 0 20
          let s1 := hostRead (useBegin v.1 dst.entry) (.command ring index 1) (opField c 0x10 8) (opField c 0x18 8)
          runningCmd s1 c fun c => { c with record := (descGet v.1 slot).record, uses := [dst.entry] }

/-- The data of a COPY_IN has arrived: the data positions of DST, dimension 0 fastest. -/
def copyInArrived (s : State) (c : Cmd) (d : List Byte) : State :=
  let i := c.uses.headD 0
  let e := invGet s i
  let desc := decodeDesc c.record
  let v : View := ⟨opHandle c 8, desc, e.base.toNat, i, e.kind, e.wr⟩
  let items := desc.positions.mapIdx fun k x => (x, slice d (desc.esize * k) desc.esize)
  let r := finishCopy .ring (items.foldl (fun mv it => match mv.err with
    | some _ => mv
    | none => writeElem .ring v mv it.1 it.2 none) { st := s }) desc.esize
  copyEnd (usesEnd r.st c.uses) c r.err r.bytes

/-- Posted writes of at most Max Payload Size, none across a multiple of it, with Relaxed Ordering (R287, R306, log 117). -/
def hostWrites (s : State) (addr : Nat) (bs : List Byte) : Nat → State
  | 0 => s
  | n + 1 =>
    if bs.isEmpty then s
    else
      let k := maxPayload s - addr % maxPayload s
      hostWrites (emit s (.hostWrite (BitVec.ofNat 64 addr) (bs.take k) true)) (addr + k) (bs.drop k) n

/-- COPY_OUT: the data elements of SRC in dense order into host memory, with Relaxed Ordering. -/
def execCopyOut (ring : Nat) (index : W32) (s : State) : Result :=
  runCmd ring index 9 s fun s c =>
    let v := openView .ring s ((opHandle c 8).zeroExtend 64)
    match v.2 with
    | .error f => failCmd v.1 c f
    | .ok src =>
      match hostCopyReason c src with
      | some (code, d) => refuseCmd v.1 c code d
      | none =>
        let r := src.desc.positions.foldl (fun (a : Moving × List Byte) x =>
          match a.1.err with
          | some _ => a
          | none =>
            let y := readElem .ring src a.1 (.data x false)
            (y.1, a.2 ++ y.2.1)) ({ st := v.1 }, [])
        match r.1.err with
        | some f => failCmd r.1.st c f
        | none => copyEnd (hostWrites r.1.st (opField c 0x10 8) r.2 r.2.length) c none r.2.length

/-! ## The end of a read (R300) -/

/-- The data of a command's read. -/
def commandArrived (s : State) (ring : Nat) (index : W32) (pass : Nat) (d : List Byte) : State :=
  match cmdAt s ring index with
  | none => s
  | some c =>
    if c.state ≠ .running then s
    else match opField c 0 1 with
      | 3 => createArrived s c d
      | 5 => uploadArrived s c pass d
      | 8 => copyInArrived s c d
      | _ => s

/-- The data of a read of the registrar. -/
def registrarArrived (s : State) (use : HostUse) (d : List Byte) : State :=
  match use with
  | .context r => contextArrived s r d
  | .miss r l => missArrived s r l d
  | .entries r first n => entriesArrived s r first n d
  | .command r i pass => commandArrived s r i pass d
  | _ => s

/-- A read of the registrar has failed. -/
def registrarFailed (s : State) (rd : HostRead) (timeout : Bool) : State :=
  let f := readErrFlt rd timeout
  match rd.use with
  | .context r => logAcn (ctxStatus { s with host := { s.host with ctxOp := none } } 3 5) f.code r
  | .miss r _ | .entries r _ _ =>
    let s1 := if (ringGet s r).state = 1 then ringPut s r { ringGet s r with state := 2 } else s
    logAcn s1 f.code r
  | .command r i _ =>
    match cmdAt s r i with
    | none => logAcn s f.code r
    | some c => logAcn (if c.state = .running then failCmd (usesEnd s c.uses) c f else s) f.code r
  | _ => s

/-! ## ABORT (R312, R313) -/

/-- Cancel a running copy or upload: an upload leaves the image with none. -/
def cancelCmd (s : State) (c : Cmd) : State :=
  let s1 := usesEnd (dropReads s fun u => match u with
    | .command r i _ => decide (r = c.ring ∧ i = c.index)
    | _ => false) c.uses
  let s2 := if opField c 0 1 = 5 then dropImage s1 (bitsN (opHandle c 8) 0 16) else s1
  modCmd s2 c.ring c.index fun c => endCmd c 3 0 0

/-- The dispatch of a command. -/
def dispatchAt (s : State) (ring : Nat) (index : W32) : Option Dispatch :=
  s.host.dispatches.find? fun d => decide (d.ring = ring ∧ d.index = index)

/-- The decision on a target in the command table. -/
def abortTarget (s : State) (c : Cmd) (t : Cmd) : State :=
  let done (s : State) : State := finishCmd s c fun c => { c with status := 4 }
  let after (s : State) : State := finishCmd s c fun c => { c with after := some (t.ring, t.index) }
  if opField t 0 1 = 10 ∨ t.status = 3 ∨ t.state = .aborting then refuseCmd s c 0x0705 (opField c 0x0C 4)
  else match t.state with
    | .fetched => finishCmd (modCmd s t.ring t.index fun t => endCmd t 3 0 0) c id
    | .running =>
      if opField t 0 1 = 6 then
        match dispatchAt s t.ring t.index with
        | none => done s
        | some d =>
          if d.stopping ∨ d.done then done s
          else
            let s1 := modDispatch s d.tag fun d => { d with aborted := true }
            after (modCmd s1 t.ring t.index fun t => { t with state := .aborting })
      else if opField t 0 1 = 5 ∨ opField t 0 1 = 8 then after (cancelCmd s t)
      else done s
    | _ => done s

def execRingAbort (ring : Nat) (index : W32) (s : State) : Result :=
  runCmd ring index 10 s fun s c =>
    let r := opField c 8 4
    let i : W32 := opHandle c 0x0C
    let x := ringGet s r
    if 2 ^ 20 ≤ r ∨ x.state ≠ 1 then refuseCmd s c 0x0705 i.toNat
    else if (i - x.fi).toNat < (x.pi - x.fi).toNat then
      if s.host.marks.contains (r, i) then refuseCmd s c 0x0705 i.toNat
      else if 64 ≤ s.host.marks.length then refuseCmd s c 0x0706 i.toNat
      else finishCmd { s with host := { s.host with marks := s.host.marks ++ [(r, i)] } } c id
    else match cmdAt s r i with
      | some t => abortTarget s c t
      | none =>
        if idxBelow i x.fi then finishCmd s c fun c => { c with status := 4 }
        else refuseCmd s c 0x0705 i.toNat

/-! ## Completion records (R307, R308, R311) -/

/-- The 32 bytes of a record. -/
def recordBytes (x : Ring) (c : Cmd) : List Byte :=
  let phase := 1 - x.cpi.toNat / x.size % 2
  leBytes 4 (opField c 4 4) ++ leBytes 4 c.index.toNat ++ leBytes 1 c.status.toNat
    ++ leBytes 1 (128 * phase + 2 * b2n c.nonfinite + b2n c.more) ++ leBytes 2 c.code.toNat ++ leBytes 4 c.detail.toNat
    ++ leBytes 4 c.result.toNat ++ leBytes 4 0 ++ leBytes 8 c.progress.toNat

/-- A message to a ring's vector: at most one in an interval, requests within it merged (R311). -/
def vectorRequest (s : State) (v itr : Nat) : State :=
  if s.host.itr.any fun e => e.1 = v then
    { s with host := { s.host with itr := s.host.itr.map fun e => if e.1 = v then (v, true) else e } }
  else
    let s1 := sendMsix s v
    if itr = 0 then s1 else { s1 with host := { s1.host with itr := s1.host.itr ++ [(v, false)] } }

/-- Whether every effect of a command is visible: its dispatch's writes are acknowledged, and the target of an ABORT has its
record. -/
def recordReady (s : State) (c : Cmd) : Bool :=
  decide (c.state = .finished) &&
  (match dispatchAt s c.ring c.index with
    | some d => d.cores.all fun p => !remoteOpen s p d.tag
    | none => true) &&
  match c.after with
  | some (r, i) => (cmdAt s r i).isNone
  | none => true

/-- The end of a command's dispatch: its cores return to IDLE (R50). -/
def closeDispatch (s : State) (d : Dispatch) : State :=
  let s1 := d.cores.foldl (fun s p => if (s.core p).runstate = 5 then setRunstate s p 0 else s) s
  { s1 with host := { s1.host with dispatches := s1.host.dispatches.filter fun e => decide (e.tag ≠ d.tag) } }

/-- COMMAND_DONE: the record of a command is written, once. -/
def execCommandDone (ring : Nat) (index : W32) (s : State) : Result :=
  answer s (
    match cmdAt s ring index with
    | none => s
    | some c =>
      if registrarOn s && recordReady s c then
        let x := ringGet s ring
        let d := dispatchAt s ring index
        let c := { c with nonfinite := d.elim false (·.nonfinite), result := if c.status = 2 then 0 else c.result }
        let s1 := emit s (.hostWrite (BitVec.ofNat 64 (x.cqBase.toNat + 32 * (x.cpi.toNat % x.size))) (recordBytes x c) false)
        let s2 := ringPut s1 ring { x with cpi := x.cpi + 1 }
        let left := s2.host.cmds.filter fun e => !(decide (e.ring = ring) && decide (e.index = index))
        let s3 := { s2 with host := { s2.host with cmds := left } }
        let s4 := match d with
          | some d => closeDispatch s3 d
          | none => s3
        if x.irqEn && bitB (c.entry.getD 1 0) 1 then vectorRequest s4 x.vector.toNat x.itr.toNat else s4
      else s)

/-- ITR_EXPIRE: the interval of a vector ends; a merged request sends its message and starts the next one. -/
def execItrExpire (vector : Nat) (s : State) : Result :=
  answer s (
    match s.host.itr.find? fun e => e.1 = vector with
    | none => s
    | some (_, merged) =>
      let rest := s.host.itr.filter fun e => decide (e.1 ≠ vector)
      if merged then sendMsix { s with host := { s.host with itr := rest ++ [(vector, false)] } } vector
      else { s with host := { s.host with itr := rest } })

end Sys2Proof.Machine
end

