-- ==== Sys2Proof/Machine/PowerReq.lean ====
section
/-!
DEFINITION. Sys2Proof/Machine/PowerReq.lean: what a write of PWR_CTL and PWR_RESET asks for (R407, R410, R417, R419, R469).
-/
namespace Sys2Proof.Machine

/-! ## Requests of a power state (R407, R410, R422) -/

/-- A refused request sets REFUSED and REASON of PWR_STATE. -/
def reqRefuse (s : State) (reason : Nat) : State := s.rmod .pwrState 0 0 fun v => setBits (setBit v 3 true) 8 8 reason

def reqAccept (s : State) : State := s.rmod .pwrState 0 0 fun v => setBit v 3 false

def computeReady (s : State) : Bool := bitB (s.rget .glbStatus 0 0) 0

/-- An entry or an exit is under way. -/
def inTransition (s : State) : Bool := s.power.target.isSome || s.power.wake.isSome

/-- Why a request of SLEEP or DEEP is refused, in ascending order of REASON (DEDUCED, log 45). -/
def sleepReason (s : State) : Option Nat :=
  if inTransition s then some 1
  else if s.cores.toList.any (fun c => decide (c.runstate ≠ 0 ∧ c.runstate ≠ 6 ∧ c.runstate ≠ 7)) then some 2
  else if !s.host.cmds.isEmpty then some 3
  else if stepOpen s then some 4
  else if !computeReady s then some 5
  else none

/-- REQ = SLEEP or DEEP: the entry starts, or the request is refused. SLEEP and DEEP are left by a wake only (R406): a
request of the other one there is refused as invalid, and of the one in force changes nothing (DESIGN CHOICE, log 45). -/
def requestSleep (s : State) (st : BitVec 3) : State :=
  match sleepReason s with
  | some k => reqRefuse s k
  | none =>
    if pwrState s = st.toNat then reqAccept s
    else if pwrState s = 2 then
      let s1 := reqAccept s
      { s1 with power := { s1.power with target := some st } }
    else reqRefuse s 6

/-- REQ = RUN: a wake source (R410), during an entry too (R422); from a management port it leaves FAULT by a power-on
reset, which samples the straps: free values (R402, R406, R417, R467; log 88). -/
def requestRun (s : State) (w : Writer) : State :=
  if s.power.wake.isSome then reqRefuse s 1
  else if s.power.target.isSome || decide (pwrState s = 3 ∨ pwrState s = 4) then startWake (reqAccept s) 1
  else match pwrState s with
    | 2 => reqAccept s
    | 5 =>
      let straps := Config.freeValue s.free
      if w = .i3c ∨ w = .eth then powerOnReset { s with free := s.free + 1 } (straps.extractLsb' 0 3) (straps.extractLsb' 3 3)
      else reqRefuse s 5
    | _ => reqRefuse s 5

/-- REQ = OFF (R469): PWR_EN must fall and rise again to leave OFF. -/
def requestOff (s : State) : State :=
  let s1 := enterOff s
  { s1 with power := { s1.power with offReq := true } }

/-- A write of PWR_CTL. -/
def pwrCtlWrite (s : State) (w : Writer) (v : W64) : State :=
  match bitsN v 28 4 with
  | 1 => requestRun s w
  | 2 => requestSleep s 3
  | 3 => requestSleep s 4
  | 4 => if inTransition s then reqRefuse s 1 else requestOff s
  | _ => reqRefuse s (if inTransition s then 1 else 6)

/-! ## Resets by PWR_RESET (R417, R419, R422) -/

/-- TYPE = WARM: in SLEEP or DEEP the exit runs first (R422). Before step 5 of R418 there is nothing to reset: recovery wait and a halted ROM
stay (R427, R432). -/
def requestWarm (s : State) : State :=
  if sleeping s then
    let s1 := startWake s 1
    { s1 with power := { s1.power with warmAfter := true } }
  else if pwrState s = 2 ∨ (pwrState s = 1 ∧ s.power.phase = 3) then warmReset s
  else s

/-- The state of R22 for a core that no program runs on; AB, tables, generators and caches stay, and so does the record.
Every reset marks both matrix sets invalid (R96). -/
def coreAtR22 (c : Core) : Core :=
  Core.clean { c with
    s := Vector.replicate 32 0, ps := Vector.replicate 96 0, p := Vector.replicate 16 0, v := []
    m := Vector.replicate 8 (BitVec.allOnes 512), f := 0, k := Vector.replicate 16 0, sticky := Vector.replicate 6 0
    mat := noSets c.mat
    streams := Vector.replicate 6 {}, extSig := false, runstate := 0 } fun k => match k with
      | .rstat _ => false
      | k => !keptAtDispatch k

/-- TYPE = QUEUE (R419): ignored for a core that is RETIRED or SPARE. How long the reset waits for the core's tags, at most 50 ms, is timing:
those that are held are reclaimed (log 142). -/
def queueResetCore (s : State) (p : Fin 72) : State :=
  if s.map[p.val].role ≠ 0 || !domOn s 0 then s
  else
    let tag := (s.core p).tag
    let mine := (dispatchOf s tag).elim false fun d => d.cores.contains p && !d.finished.contains p
    let s1 := (reclaimTags (fun q => reqOfCore p q.use) (stopCore s p)).modCore p coreAtR22
    let s2 := if (s.core p).reseedPending then reseedCore s1 p else s1
    if mine then markStopping s2 tag else s2

/-- A write of PWR_RESET. -/
def pwrResetWrite (s : State) (v : W64) : State :=
  match bitsN v 28 4 with
  | 1 => requestWarm s
  | 2 =>
    match (List.finRange 72).find? fun p => decide (p.val = bitsN v 0 7) with
    | some p => queueResetCore s p
    | none => s
  | _ => s

end Sys2Proof.Machine
end

