-- ==== Sys2Proof/Machine/Curator.lean ====
section
/-!
DEFINITION. Sys2Proof/Machine/Curator.lean: the firmware image and its checks (R425 to R428), attestation (R429 to R431), the
life cycle, tamper and wipe (R432 to R434), and service operations (R435).
-/
namespace Sys2Proof.Machine

/-! ## The firmware image (R425, R426) -/

def imageLen (img : List Byte) : Nat := fieldAt img 0x10 8

/-- Header and body. -/
def wholeImage (img : List Byte) : List Byte := img.take (0x2000 + imageLen img)

def imageBody (img : List Byte) : List Byte := slice img 0x2000 (imageLen img)

def imageSvn (img : List Byte) : Nat := fieldAt img 0xC 2

/-- Check 1: MAGIC, FORMAT, the reserved fields, LENGTH, and that the whole image was read. -/
def imageForm (img : List Byte) : Bool :=
  decide (fieldAt img 0 4 = 0x55524346 ∧ fieldAt img 4 2 = 1 ∧ fieldAt img 7 1 = 0 ∧ fieldAt img 0xE 2 = 0) &&
  decide (fieldAt img 0x18 40 = 0 ∧ fieldAt img 0x1CB3 845 = 0 ∧ 1 ≤ imageLen img) &&
  decide (imageLen img ≤ 6 * 2 ^ 20 - 8192 ∧ 0x2000 + imageLen img ≤ img.length)

/-- Whether the life-cycle state of this boot accepts a development key (R432, R433): in BLANK, where R426 and R432 differ, it is left
open (log 46). -/
def devKeyTaken (s : State) : Bool :=
  decide (s.cur.bootLc = 1 ∨ s.cur.bootLc = 2) || (decide (s.cur.bootLc = 0) && Config.blankDevKey)

/-- Check 2: the key digest; a development key only where it is accepted. -/
def imageKey (s : State) (img : List Byte) : Bool :=
  let kind := fieldAt img 6 1
  decide (sha3_512 (slice img 0x80 2592) = Config.keyDigest kind) && (decide (kind = 0) || (decide (kind = 1) && devKeyTaken s))

/-- The number of the first failing check of R426. -/
def imageCheck (s : State) (img : List Byte) : Option Nat :=
  if !imageForm img then some 1
  else if !imageKey s img then some 2
  else if !Config.verifies (slice img 0x80 2592) (img.take 0xAA0) (slice img 0xAA0 4627) then some 3
  else if imageSvn img < s.cur.svnMin.toNat then some 4
  else if leBytes 64 (sha3_512 (imageBody img)).toNat ≠ slice img 0x40 64 then some 5
  else none

/-- The firmware starts: it is the running image, and SVN_MIN rises to its SVN. -/
def runImage (s : State) (img : List Byte) : State :=
  { s with cur := { s.cur with image := some (wholeImage img),
                               svnMin := BitVec.ofNat 16 (max s.cur.svnMin.toNat (imageSvn img)) } }

/-! ### The secure vitrine and the keys (R238, R426, R428, R429) -/

/-- Bytes of the secure vitrine that are not zero, from an address on. -/
def vitrineCells (a : Nat) (bs : List Byte) : List Host.Cell := (cellsAt a bs).filter fun c => c.2 ≠ 0

/-- Bytes are read into the secure vitrine (R426, R428); where they lie is a DESIGN CHOICE (log 149). -/
def intoVitrine (s : State) (a : Nat) (bs : List Byte) : State := { s with cur := { s.cur with secure := vitrineCells a bs } }

def digestBytes (l : List Byte) : List Byte := leBytes 64 (sha3_512 l).toNat

/-- The DeviceID seed (R429). -/
def deviceSeed : List Byte := (digestBytes (Config.uds ++ digestBytes Config.bootRom)).take 32

/-- SHA3-512 of the DeviceID public key (R432, R439). -/
def deviceIdDigest : BitVec 512 := sha3_512 (Config.publicKey deviceSeed)

/-- What block 2 of R431 measures: header and body as booted; 64 zero bytes in recovery wait. -/
def bootedImage (s : State) : List Byte := s.cur.image.getD (List.replicate 64 0)

/-- The Alias seed of this boot (R429); SVN in two bytes (DESIGN CHOICE, log 48). -/
def aliasSeedOf (s : State) : List Byte :=
  (digestBytes (deviceSeed ++ digestBytes (bootedImage s) ++ leBytes 2 ((s.cur.image.map imageSvn).getD 0))).take 32

/-- The two key pairs are derived at each boot, where the life-cycle state has an identity (R429, R432). -/
def deriveKeys (s : State) : State :=
  if s.cur.lc ≠ 0 ∧ s.cur.lc ≠ 5 then { s with cur := { s.cur with devSeed := some deviceSeed, aliasSeed := some (aliasSeedOf s) } } else s

/-- Step 4 of R418: the image in the boot flash is checked; recovery wait where a check fails; in SCRAPPED the ROM halts
(R432), and so it does where a record holds an uncorrectable error, which is logged (R396, R449; log 107). Which check a broken image fails
is a free value. -/
def curatorBoot (s : State) : State :=
  if s.cur.lc = 5 then { s with power := { s.power with phase := 5 } }
  else match s.cur.recBad with
  | k :: _ =>
    let s1 := logCur s 0x0A06 (BitVec.ofNat 32 k)
    { s1 with power := { s1.power with phase := 5, safe := true } }
  | [] =>
    let bad := if s.cur.flash.isEmpty then some (1 + (Config.freeValue s.free).toNat % 5) else imageCheck s s.cur.flash
    match bad with
    | some k =>
      let s1 := deriveKeys (logCur s 0x0A01 (BitVec.ofNat 32 k))
      { s1 with free := s1.free + 1, power := { s1.power with phase := 2 } }
    | none =>
      let s1 := deriveKeys (runImage (intoVitrine s 0x2000 (imageBody s.cur.flash)) s.cur.flash)
      bootRest (s1.rmod .curStatus 0 0 fun v => setBit v 0 true)

def recoveryWait (s : State) : Bool := decide (pwrState s = 1 ∧ s.power.phase = 2)

/-! ## RECOVER and UPDATE (R428) -/

/-- A firmware operation, a life-cycle transition or a wipe is in progress. -/
def curatorBusy (s : State) : Bool := s.cur.fw.isSome || s.cur.lcOp.isSome || s.cur.wipe.isSome

/-- Firmware from the boot flash, or a recovery image, runs. -/
def firmwareRuns (s : State) : Bool := bitB (s.rget .curStatus 0 0) 0 || bitB (s.rget .curStatus 0 0) 2

/-- A write of CUR_FW_CMD: refused, or the image is read from host memory. -/
def fwCmdWrite (s : State) (v : W64) : State :=
  let op := bitsN v 28 3
  let n := bitsN v 0 12
  if !bitB v 31 then s
  else if curatorBusy s || decide (n = 0 ∨ 1536 < n) || !((decide (op = 1) && recoveryWait s) ||
      (decide (op = 2) && firmwareRuns s)) then fwState s 3
  else
    let s1 := { s with cur := { s.cur with fw := some { update := decide (op = 2), len := 4096 * n } } }
    fwState (hostRead s1 .firmware (s.rget .curFwAddr 0 0).toNat (4096 * n)) 1

/-- The image has been read into the secure vitrine: a failed check changes nothing else; RECOVER runs it, with the Alias key that it
gives, and R418 goes on at step 6; UPDATE writes it to the boot flash. -/
def firmwareArrived (s : State) (img : List Byte) : State :=
  match s.cur.fw with
  | none => s
  | some op =>
    let s := intoVitrine s 0 img
    let s0 := { s with cur := { s.cur with fw := none } }
    match imageCheck s img with
    | some k => fwState (logCur s0 0x0A02 (BitVec.ofNat 32 k)) 3
    | none =>
      if op.update then { s with cur := { s.cur with fw := some { op with image := wholeImage img, writing := true } } }
      else bootRest (fwState ((deriveKeys (runImage s0 img)).rmod .curStatus 0 0 fun v => setBit v 2 true) 2)

/-- BOOT_FLASH_WRITE_DONE: written and read back; an image that does not read back is broken (DESIGN CHOICE, log 47). -/
def execBootFlashWriteDone (readBackOk : Bool) (s : State) : Result :=
  answer s (
    match s.cur.fw with
    | none => s
    | some op =>
      if op.writing && domOn s 23 then
        let img := if readBackOk then op.image else []
        fwState { s with cur := { s.cur with fw := none, flash := img } } (if readBackOk then 2 else 3)
      else s)

/-! ## Life cycle (R432, R433) -/

/-- The transitions that a token authorises. -/
def tokenTransition (a b : BitVec 3) : Bool :=
  [((1 : BitVec 3), (2 : BitVec 3)), (1, 3), (2, 3), (3, 4), (4, 3), (4, 1)].contains (a, b)

/-- Start a wipe of the secure vitrine, change log and seeds included (R238, R429): reason 1 tamper, 2 life-cycle transition. -/
def startWipe (s : State) (reason : Nat) : State :=
  { s with cur := { s.cur with wipe := some reason, secure := [], devSeed := none, aliasSeed := none, log := [] } }

/-- Steps 1 and 2 of R433 are reached. -/
def lcBegin (s : State) (target : BitVec 3) : State :=
  startWipe (lcState { s with cur := { s.cur with lcOp := some ⟨target, true⟩, scrap := none } } 1) 2

def tokenBytes : Nat := 0x1263

/-- A write of CUR_LC_CMD. -/
def lcCmdWrite (s : State) (v : W64) : State :=
  let t : BitVec 3 := BitVec.ofNat 3 (bitsN v 28 3)
  if !bitB v 31 then s
  else if curatorBusy s then lcState (newNonce (logCur s 0x0A04 (t.zeroExtend 32))) 3
  else if t = 5 then
    if s.cur.lc = 5 then lcRefuse s t
    else match s.cur.scrap with
      | some t0 => if (s.timeNs - t0).toNat ≤ 10 ^ 9 then lcBegin s t
                   else { s with cur := { s.cur with scrap := some s.timeNs } }
      | none => { s with cur := { s.cur with scrap := some s.timeNs } }
  else if !tokenTransition s.cur.lc t then lcRefuse s t
  else
    let s1 := { s with cur := { s.cur with lcOp := some ⟨t, false⟩, scrap := none } }
    lcState (hostRead s1 .token (s.rget .curFwAddr 0 0).toNat tokenBytes) 1

/-- Whether a token authorises the requested transition. -/
def tokenOk (s : State) (t : BitVec 3) (d : List Byte) : Bool :=
  decide (fieldAt d 0 4 = 0x4E4B4F54 ∧ fieldAt d 4 1 = s.cur.lc.toNat ∧ fieldAt d 5 1 = t.toNat ∧ fieldAt d 6 2 = 0) &&
  decide (fieldAt d 8 8 = s.cur.nonce.toNat ∧ slice d 0x10 64 = leBytes 64 deviceIdDigest.toNat) &&
  Config.tokenVerifies (d.take 0x50) (slice d 0x50 (tokenBytes - 0x50))

/-- The token has been read. -/
def tokenArrived (s : State) (d : List Byte) : State :=
  match s.cur.lcOp with
  | none => s
  | some op => if tokenOk s op.target d then lcBegin s op.target else lcRefuse s op.target

/-- Steps 3 to 5 of R433, when the wipe has ended. -/
def lcFinish (s : State) (target : BitVec 3) : State :=
  let back := decide (s.cur.lc = 4 ∧ target = 1)
  let s1 := { s with cur := { s.cur with
    lc := target
    udsErased := s.cur.udsErased || decide (target = 5)
    tampered := if back then none else s.cur.tampered
    lcOp := none } }
  newChain (lcState (newNonce s1) 2) 2

/-- The TILWEN_TEST_ACCESS transition through JTAG: BLANK to MANUFACTURE, by the steps of R433 (R432). -/
def execTilwenTestAccess (s : State) : Result :=
  answer s (if decide (s.cur.lc = 0) && domOn s 23 && !curatorBusy s then lcBegin s 1 else s)

/-! ## Tamper (R434, R448) -/

/-- A broken or old image: which one the flash holds is a free choice (R428, R448). -/
def breakFlash (s : State) : State :=
  match s.cur.fw with
  | some op =>
    if op.writing && Config.freeChoice s.free then { s with free := s.free + 1, cur := { s.cur with flash := [] } }
    else { s with free := s.free + 1 }
  | none => s

/-- Operations of the Curator that a tamper event ends: a firmware operation stops, a transition is abandoned. -/
def abandonOps (s : State) : State :=
  let s1 := dropReads (breakFlash s) fun u => match u with
    | .firmware | .token => true
    | _ => false
  let s2 := if s.cur.fw.isSome then fwState s1 3 else s1
  let s3 := if s.cur.lcOp.isSome then lcState (newNonce s2) 3 else s2
  { s3 with cur := { s3.cur with fw := none, lcOp := none, scrap := none } }

/-- E_CUR_TAMPER: safe outputs, the latch, the wipe, the log, FAULT. -/
def execTamper (sensor : Fin 4) (s : State) : Result :=
  answer s (
    if domOn s 23 then
      let s1 := abandonOps (forceSafe s)
      let s2 := { s1 with cur := { s1.cur with tampered := some (s1.cur.tampered.getD sensor.val) } }
      faultState (logCur (startWipe s2 1) 0x0A03 (BitVec.ofNat 32 sensor.val))
    else s)

/-! ## Service operations (R435) -/

def svcState (s : State) (st reason : Nat) : State :=
  s.rmod .curSvcCmd 0 0 fun v => setBits (setBits v 16 2 st) 8 8 reason

/-- The reason of a refusal, in ascending order. -/
def svcReason (s : State) (op i : Nat) : Option Nat :=
  if s.cur.lc ≠ 1 ∧ s.cur.lc ≠ 4 then some 1
  else if (op ≠ 1 ∧ op ≠ 2) ∨ (op = 1 ∧ 71 < i) ∨ (op = 2 ∧ 47 < i) then some 2
  else if (op = 1 ∧ (vAt s.map ⟨3, 0⟩ i).role ≠ 2) ∨ (op = 2 ∧ s.memMap.getLsbD i) then some 3
  else if curatorBusy s then some 4
  else none

/-- A write of CUR_SVC_CMD. An accepted request is recorded, appends a record of SOURCE 3 and is done. -/
def svcCmdWrite (s : State) (v : W64) : State :=
  let op := bitsN v 28 3
  let i := bitsN v 0 7
  if !bitB v 31 then s
  else match svcReason s op i with
    | some k => svcState (logCur s 0x0A08 (BitVec.ofNat 32 k)) 3 k
    | none =>
      let old := s.rget .curSvcCmd 0 0
      withRecord s .curator 4 (RegName.curSvcCmd.at 0 0) old (setBits old 16 2 2) fun s =>
        let s1 := { s with cur := { s.cur with
          backCores := if op = 1 then nsetAdd s.cur.backCores i else s.cur.backCores
          backCtrls := if op = 2 then nsetAdd s.cur.backCtrls i else s.cur.backCtrls } }
        svcState s1 2 (bitsN old 8 8)

/-! ## Attestation (R429 to R431) -/

/-- What block 5 measures of the records: the core map and the retirements. A core or controller that a service operation returns shows
from the next boot on (R435). -/
def recordsOf (s : State) : List Byte :=
  (s.map.toList.flatMap fun e => leBytes 1 e.role.toNat ++ leBytes 1 e.logical.toNat) ++ leBytes 6 s.memMap.toNat
    ++ leBytes 6 s.memPend.toNat

/-- What block i of R431 is the digest of; the encoding of blocks 3 to 5 is the model's (DESIGN CHOICE, log 48). -/
def measured (s : State) (i : Nat) : List Byte :=
  match i with
  | 1 => Config.bootRom
  | 2 => bootedImage s
  | 3 => leBytes 2 ((s.cur.image.map imageSvn).getD 0) ++ leBytes 2 s.cur.svnMin.toNat
  | 4 => leBytes 1 s.cur.lc.toNat ++ leBytes 1 (b2n s.cur.tampered.isSome) ++ leBytes 4 s.cur.bootCount.toNat
  | 5 => recordsOf s
  | 6 => leBytes 64 (logHead s).toNat
  | _ => Config.registrarFirmware ((s.cur.image.map imageBody).getD [])

/-- DeviceID and Alias exist in every state but BLANK and SCRAPPED (R432), from the boot that derives them until a wipe (R429). -/
def hasIdentity (s : State) : Bool := decide (s.cur.lc ≠ 0 ∧ s.cur.lc ≠ 5) && s.cur.devSeed.isSome && s.cur.aliasSeed.isSome

/-- The chain of slot 0: Tilwen's root, the Perilath CA, DeviceID, and Alias, which the DeviceID key signs (R429, R430). -/
def certChain (s : State) : List Byte :=
  Config.certificates ++ Config.certificate (s.cur.devSeed.getD []) (Config.publicKey (s.cur.aliasSeed.getD []))

/-- A signature of the Alias key (R430). -/
def aliasSign (s : State) (d : List Byte) : List Byte := Config.signature (s.cur.aliasSeed.getD []) d

/-- The mailbox answers: the link is up, and the firmware or the ROM in recovery wait runs (R427, R430). -/
def doeUp (s : State) : Bool :=
  s.power.link.isSome && !s.power.perst && domOn s 4 && domOn s 23 && (s.cur.image.isSome || recoveryWait s)

/-- What an accepted request returns. -/
def spdmData (s : State) (q : SpdmReq) : List Byte :=
  match q.kind with
  | 0x84 => [0x13]
  | 0xE3 => leBytes 2 1
  | 0x81 => digestBytes (certChain s)
  | 0x82 => certChain s
  | 0x83 => aliasSign s ([1, 2, 3, 4, 5, 6, 7].flatMap fun i => digestBytes (measured s i))
  | 0xE0 =>
    let d := q.indices.flatMap fun i => digestBytes (measured s i)
    if q.signed then d ++ aliasSign s d else d
  | _ => []

/-- Whether a request is supported: well-formed, its slot 0, its blocks those of R431, and an identity where it needs one. -/
def spdmOk (s : State) (q : SpdmReq) : Bool :=
  q.ok && (!([0x81, 0x82, 0x83].contains q.kind || q.signed) || hasIdentity s) &&
    q.indices.all fun i => decide (1 ≤ i ∧ i ≤ 7)

/-- Answer a request, or an ERROR response with E_CUR_SPDM. -/
def spdmServe (s : State) (q : SpdmReq) : State :=
  if spdmOk s q then emit s (.spdm q.kind (spdmData s q))
  else emit (logCur s 0x0A07 (BitVec.ofNat 32 q.kind)) (.spdmError q.kind)

/-- An SPDM request; during a wipe it is held (R448). -/
def spdmRequest (s : State) (q : SpdmReq) : State :=
  if !doeUp s then s
  else if s.cur.wipe.isSome then { s with cur := { s.cur with heldSpdm := s.cur.heldSpdm ++ [q] } }
  else spdmServe s q

def execGetVersion (ok : Bool) (s : State) : Result := answer s (spdmRequest s { kind := 0x84, ok := ok })
def execGetCapabilities (ok : Bool) (s : State) : Result := answer s (spdmRequest s { kind := 0xE1, ok := ok })
def execNegotiateAlgorithms (ok : Bool) (s : State) : Result := answer s (spdmRequest s { kind := 0xE3, ok := ok })
def execGetDigests (ok : Bool) (s : State) : Result := answer s (spdmRequest s { kind := 0x81, ok := ok })

def execGetCertificate (ok : Bool) (slot : Nat) (s : State) : Result :=
  answer s (spdmRequest s { kind := 0x82, ok := ok && decide (slot = 0) })

def execChallenge (ok : Bool) (slot : Nat) (s : State) : Result :=
  answer s (spdmRequest s { kind := 0x83, ok := ok && decide (slot = 0) })

def execGetMeasurements (ok : Bool) (indices : List Nat) (signed : Bool) (s : State) : Result :=
  answer s (spdmRequest s { kind := 0xE0, ok := ok, indices := indices, signed := signed })

/-- DOE_DISCOVERY: the data object types of R430 by index: vendor, type and the next index, 0 after the last (PRESUMED,
log 49). -/
def execDoeDiscovery (index : Byte) (s : State) : Result :=
  answer s (
    if doeUp s then
      emit s (.doe index (match index.toNat with
        | 0 => [1, 0, 0, 1]
        | 1 => [1, 0, 1, 0]
        | _ => [0xFF, 0xFF, 0, 0]))
    else s)

end Sys2Proof.Machine
end

