-- ==== Sys2Proof/Machine/RegRead.lean ====
section
/-!
DEFINITION. Sys2Proof/Machine/RegRead.lean: what a register of BAR0 reads as (R11, R55, R110, R151, R170, R194, R214, R240,
R266, R267, R286, R316, R346, R375, R376, R391, R399, R424, R450, R460), and the reads of a register interface (R12 to
R14).
-/
namespace Sys2Proof.Machine

/-- A word of fields: value and lowest bit. -/
def packN (l : List (Nat × Nat)) : W64 := BitVec.ofNat 64 (l.foldl (fun a e => a + e.1 * 2 ^ e.2) 0)

/-- A physical core by number. -/
def coreNo (i : Nat) : Fin 72 := Fin.ofNat 72 i

/-! ## Reads that time decides -/

/-- Registers, or fields of them, whose value timing or what lies outside the module decides: each read draws a free value (UNVERIFIED,
log 5, log 50): what the intake measures, the scrubber, TCK, the Ethernet link, DEGRADED where only the far end can set it (log 127), the
verdict before its last trailer. The mask has the bits that are free. -/
def openBits (s : State) (r : RegName) : W64 :=
  match r with
  | .pwrInput => if domOn s 23 then 0xFFFFFFFF0000FFFF else 0
  | .mgtTimeStatus => if timeSource s = 2 ∧ syntSource s = 1 then 4 else 0
  | .vtrStatus => if bitB (s.rget .vtrScrubCtl 0 0) 31 && decide (pwrState s = 2) then 2 else 0
  | .clkRunning => 0x4000000
  | .mgtEthCtl => if bitB (s.rget .mgtEthCtl 0 0) 31 then 1 else 0
  | .colVerdict => match s.col.cur with
    | some x => if x.cls.isNone then BitVec.allOnes 64 else 0
    | none => 0
  | _ => 0

/-- Registers whose readers below draw a free value within bounds: clocks of the present gap, LOADING, tags (R105, R43, R280). -/
def timed (r : RegName) : Bool := [RegName.corMePronkClk, .corState, .memTagPool, .memTagHeld].contains r

/-! ## Core registers (R55, R110, R151, R170, R194, R214) -/

def coreIdWord (s : State) (p : Fin 72) : W64 :=
  let e := s.map[p.val]
  packN [(p.val, 0), (if e.role = 0 then e.logical.toNat else 0, 8), (b2n (decide (e.role = 0)), 15)]

/-- COR_STATE: from its dispatch until its first instruction has issued, a core reads LOADING or RUNNING: how long the dispatch takes is
timing (R43, log 109). -/
def coreStateWord (c : Core) (draw : Nat) : W64 :=
  let halted := (List.finRange 6).map fun k => (b2n (streamOf c k).halted, 4 + k.val)
  packN ([(if c.loading && Config.freeChoice draw then 1 else c.runstate.toNat, 0), (b2n c.pl12, 3), (c.ncores.toNat, 16), (c.tag.toNat, 32)] ++ halted)

def frecWord (r : FaultRec) (n : Nat) : W64 :=
  match n with
  | 0 => packN [(r.detail.toNat, 0), (r.stream.toNat, 32), (r.code.toNat, 40), (b2n r.replaced, 59), (r.engine.toNat, 60),
      (b2n r.valid, 63)]
  | 1 => r.pc
  | 2 => r.timeNs
  | _ => packN [(r.more.toNat, 0), (r.tag.toNat, 32)]

def setWord (x : MatSet) (shadow : Bool) : W64 :=
  packN [(x.src.toNat, 0), (x.entry.toNat, 48), (b2n (shadow && x.preload), 57), (x.wfmt.toNat, 58), (b2n x.sp24, 62),
    (b2n x.valid, 63)]

/-- A TWR of table t at the head of its queue waits for users of the retired copy (R82). -/
def twrHeld (c : Core) (t : Nat) : Bool :=
  match queueOf c .ve with
  | [] => false
  | e :: _ =>
    (match e.op, e.args with
      | .twr, .v o => decide (bitsN o.type2 0 1 = t)
      | _, _ => false) && (e.armed || !syWaits e.sync) && startHeld c .ve e

/-- An MPROD naming a slot is unfinished. -/
def slotBusy (c : Core) (n : Nat) : Bool :=
  (queueOf c .me ++ meRunning c).any (fun e => decide (prodSlot e = n)) || c.runs.any fun r => decide (r.slot = n)

def slotWord (c : Core) (n : Nat) : W64 :=
  match slotGet c n with
  | none => 0
  | some g => packN [(g.pro, 0), (g.epi, 8), (g.eTiles, 32), (g.ei, 45), (b2n (slotBusy c n), 61),
      (b2n (holdAt g).isSome, 62), (1, 63)]

def shownStat (s : State) (p : Fin 72) : RowStat := statGet (s.core p) (bitsN (s.rget .corSfRsIdx p.val 0) 0 12)

def stickyWord (c : Core) (e : Engine) : W64 := (vAt c.sticky 0 (engIdx e).val).zeroExtend 64

def readCore (s : State) (r : RegName) (p : Fin 72) (n : Nat) : W64 :=
  let c := s.core p
  match r with
  | .corId => coreIdWord s p
  | .corState => coreStateWord c s.free
  | .corPc => let x := vAt c.streams {} n
              packN [(x.pc.toNat, 0), (b2n x.active, 32)]
  | .corFlags => c.f.zeroExtend 64
  | .corKval => packN ((List.range 4).map fun j => ((counterOf c (4 * n + j)).toNat, 16 * j))
  | .corQocc => packN ((List.range 6).map fun e => ((vAt c.queues [] e).length, 8 * e))
  | .corFrec0 => frecWord c.frec 0
  | .corFrec1 => frecWord c.frec 1
  | .corFrec2 => frecWord c.frec 2
  | .corFrec3 => frecWord c.frec 3
  | .corSreg => vAt c.s 0 n
  | .corPreg => vAt c.p 0 n
  | .corPsreg => vAt c.ps 0 n
  | .corMeStatus => stickyWord c .me
  | .corVeStatus => stickyWord c .ve
  | .corSfStatus => stickyWord c .sf
  | .corCeStatus => stickyWord c .ce
  | .corCpStatus => stickyWord c .cp
  | .corMeSet0 => setWord c.mat.stat false
  | .corMeSet1 => setWord c.mat.shad true
  | .corMePronkClk => s.rget r p.val 0 + if decide (pwrState s ≠ 1) && decide (s.map[p.val].role = 0) then gapClocks s.free c else 0
  | .corMeSegt => packN [(c.mat.segt.length, 0), (c.mat.cursor, 16)]
  | .corMeSegtW0 => (c.mat.segt.getD n (0, 0)).1 &&& 0xFFFFFFFFFFFF7FFF
  | .corMeSegtW1 => (c.mat.segt.getD n (0, 0)).2
  | .corVeTblCtl => packN [(c.copySel.toNat, 0), (b2n (twrHeld c 0), 16), (b2n (twrHeld c 1), 17)]
  | .corVeTbl => (tblGet c (n / 256) (activeCopy c.copySel (n / 256)) (n % 256)).zeroExtend 64
  | .corVeGenState => genGet c n
  | .corSfRsData0 => packN [((shownStat s p).max.toNat, 0), ((shownStat s p).sum.toNat, 32)]
  | .corSfRsData1 => packN [((shownStat s p).mean.toNat, 0), ((shownStat s p).m2.toNat, 32)]
  | .corSfRsData2 => packN [((shownStat s p).count.toNat, 0), ((shownStat s p).kind.toNat, 32)]
  | .corChSlot => slotWord c (n + 1)
  | _ => s.rget r p.val n

/-! ## The other blocks -/

def countRole (s : State) (r : BitVec 2) : Nat := s.map.toList.countP fun e => e.role = r

/-- Registers of the cores' common block and of the layout service. -/
def readShared (s : State) (r : RegName) (n : Nat) : W64 :=
  let sel := bitsN (s.rget .layInvSel 0 0) 0 16
  let e := invGet s sel
  match r with
  | .corEnabled => packN [(countRole s 0, 0), (countRole s 1, 8), (countRole s 2, 16), (countRole s 3, 24)]
  | .corPmap => let m := vAt s.map ⟨3, 0⟩ n
                packN [(m.role.toNat, 0), (if m.role = 0 then m.logical.toNat else 0, 8)]
  | .corFsum0 => (fsum s).extractLsb' 0 64
  | .corFsum1 => (fsum s).extractLsb' 64 8 |>.zeroExtend 64
  | .layStatus => packN [(b2n (tableSet s), 0), (b2n s.lay.dtabRefused, 1)]
  | .layDtab => packN [(s.lay.dtab.toNat, 0), (s.lay.slots, 32)]
  | .layInvCount => packN [(s.lay.inv.countP fun x => x.2.kind ≠ 0 && !(x.2.kind = 4 && x.2.size = 0), 0)]
  | .layDescCount => packN [(s.lay.descs.countP fun x => x.2.live, 0)]
  | .layInvData0 => if e.kind = 0 then 0 else e.base
  | .layInvData1 => if e.kind = 0 then 0 else e.size
  | .layInvData2 => packN [(e.kind.toNat, 0), (b2n e.freeing, 3), (b2n e.wr, 6), (b2n (imageLocked s sel), 7),
      (e.gen.toNat, 16), (e.users.toNat, 32)]
  | _ => s.rget r 0 n

/-- Tags that a requester has of its own: a core, the collective engine, the ring copy engine, the host, the registrar and layout service
(R280). -/
def ownTags (n : Nat) : Nat := if n < 72 ∨ n = 75 then 128 else if n = 72 then 4096 else 512

/-- Whether a requester has accesses under way: a core whose engines work, started instructions included; a ring copy; an access through
BAR4 that waits; a command or a context of the registrar. -/
def tagBusy (s : State) (n : Nat) : Bool :=
  match n with
  | 73 => s.host.cmds.any fun c => decide (c.state = .running ∧ fieldAt c.entry 0 1 ∈ [7, 8, 9])
  | 74 => s.power.held.any fun a => match a with
    | .read4 _ _ | .write4 _ _ => true
    | _ => false
  | 75 => !s.host.cmds.isEmpty || !s.host.reads.isEmpty
  | n => (List.finRange 72).any fun p => decide (p.val = n) && decide ((s.core p).runstate.toNat ∈ [2, 3, 4])

/-- Tags of the pool that the collective engine has left. -/
def poolLeft (s : State) : Nat := 2944 - (collHeld s - 4096)

/-- Tags that a requester holds. Those of the collective engine are the requests and line operations that await their responses; how many another one holds at
an instant is timing: a free number, from its own first and then from the pool (log 50). -/
def heldTags (s : State) (n : Nat) : Nat :=
  if n = 72 then collHeld s
  else if n < 76 && tagBusy s n then (Config.freeValue s.free).toNat % (ownTags n + poolLeft s + 1) else 0

/-- The most tags that the other requesters can hold now: those of their own of every one that has accesses under way, and where there is
one the rest of the pool. -/
def othersMost (s : State) : Nat :=
  let busy := (List.range 76).filter fun n => n ≠ 72 && tagBusy s n
  if busy.isEmpty then 0 else busy.foldl (fun a n => a + ownTags n) (poolLeft s)

/-- All tags that are held: those of the collective engine, and a free number of those that the others can hold. -/
def poolHeld (s : State) : Nat := collHeld s + (Config.freeValue s.free).toNat % (othersMost s + 1)

def readMem (s : State) (r : RegName) (i n : Nat) : W64 :=
  match r with
  | .memCap => packN [(s.memMap.toNat, 0), (30 * (ctrlsInService s).length, 48)]
  | .memRetireStatus => s.memPend.zeroExtend 64
  | .memTagPool => packN [(poolHeld s, 0)]
  | .memTagHeld => packN [(min (heldTags s n) (ownTags n), 0), (heldTags s n - ownTags n, 16)]
  | _ => s.rget r i n

def shownRing (s : State) : Ring := ringGet s (bitsN (s.rget .acnRingSel 0 0) 0 20)

/-- GLB, HST and ACN. -/
def readHost (s : State) (r : RegName) (n : Nat) : W64 :=
  let x := shownRing s
  match r with
  | .glbStatus => setBit (s.rget .glbStatus 0 0) 2 s.power.flr
  | .glbErrSummary => (errSummary s).zeroExtend 64
  | .hstStatus => setBit (s.rget .hstStatus 0 0) 0 (s.power.link.isSome && !s.power.perst)
  | .hstLink => match s.power.link with
    | some (w, rate, flit) => if s.power.perst then 0 else packN [(w % 32, 0), (rate % 16, 8), (b2n flit, 12)]
    | none => 0
  | .acnRingState0 => packN [(x.pi.toNat, 0), (x.fi.toNat, 32)]
  | .acnRingState1 => packN [(x.cpi.toNat, 0), (x.cci.toNat, 32)]
  | .acnRingState2 => packN [(x.state.toNat, 0), (b2n x.cached, 3), ((x.fi - x.cpi).toNat % 65536, 16)]
  | _ => s.rget r 0 n

/-- Lanes in use: those of a port that has trained. -/
def lanesUsed (x : Port) : BitVec 4 := if 2 ≤ x.state.toNat ∧ x.state.toNat ≤ 4 ∨ x.state = 7 then x.lanes else 0

def widthCode (l : BitVec 4) : Nat :=
  match (List.range 4).countP fun i => bitB l i with
  | 0 => 0
  | 1 => 1
  | 2 => 2
  | _ => 3

def portWord (x : Port) : W64 :=
  packN [(x.state.toNat, 0), (widthCode (lanesUsed x), 6), ((lanesUsed x).toNat, 8), (x.retrains.toNat, 32),
    (x.farPort.toNat, 44), (x.farId.toNat, 48)]

def readFabric (s : State) (r : RegName) (i n : Nat) : W64 :=
  let x := portOf s (Fin.ofNat 16 i)
  match r with
  | .zmzStatus => portWord x
  | .zmzCredit => packN ((List.range 4).map fun v => ((vAt x.avail 0 v).toNat, 12 * v))
  | .zmzRt => packN [(routeEntry s (n / 64) (n % 64), 0)]
  | _ => s.rget r i n

/-- COL and RAS. -/
def readColl (s : State) (r : RegName) (n : Nat) : W64 :=
  match r with
  | .colStatus => packN [(b2n s.col.plan.isSome, 0), ((s.col.plan.map (·.rank)).getD 0, 16)]
  | .colStep => match s.col.cur with
    | none => packN [(b2n s.col.resSel, 27)]
    | some x => packN [(x.heard.length, 0), (x.trailers.length, 16), (b2n s.col.resSel, 27), (x.code, 28), (x.n.toNat, 32)]
  | .colWinStat => setBits (s.rget .colWinStat 0 0) 30 17 s.col.win.length
  | .colBitmap => match s.col.cur with
    | none => 0
    | some x => packN (((List.range 64).filter fun i => x.bitmap.contains (64 * n + i)).map fun i => (1, i))
  | .colVerdict => match s.col.cur with
    | none => 0
    | some x => BitVec.ofNat 64 (fieldAt (trailerBytes x.verdict) (8 * n) 8)
  | .rasAnnexSlot =>
    let x := annexOf s (Fin.ofNat 4 n)
    packN [(x.state.toNat, 0), (x.depth.toNat, 5), (x.sender.toNat, 16), (x.step.toNat, 32)]
  | .rasAnnexCmd => packN [(bitsN (s.rget .rasAnnexCmd 0 0) 48 2, 48)]
  | _ => s.rget r 0 n

/-- Whether the PLL of a domain is locked (CLK_DOM_n, R401, R408, R413, R418, R427; DEDUCED, log 51). -/
def pllLocked (s : State) (n : Nat) : Bool :=
  let code : Option Nat := match n with
    | 0 => some 2 | 1 => some 3 | 2 => some 4 | 3 => some 4 | 4 => some 5 | 5 => some 5 | 6 => some 6
    | 23 => some 7 | 24 => some 8 | 25 => some 9 | _ => none
  match code with
  | none => false
  | some k =>
    let always := decide (k = 7 ∨ k = 8)
    let source := !s.power.lost.contains k && !s.power.lost.contains (if k = 5 then 1 else 0) &&
      (s.power.memClk || decide (k ≠ 4)) && (s.power.refclk || decide (k ≠ 5)) && !(decide (k = 6) && s.fab.d06Dead)
    source && !s.power.off && match pwrState s with
      | 1 => match s.power.phase with
        | 2 => always || decide (k = 5)
        | 3 => true
        | 5 => always
        | _ => false
      | 4 | 5 => always
      | _ => true

/-- A record of the change log by its SEQ; one that is not kept reads as zero. -/
def logRecord (s : State) (seq : Nat) : List Byte :=
  let first := s.cur.seq.toNat - s.cur.log.length
  if first ≤ seq ∧ seq < s.cur.seq.toNat then s.cur.log.getD (seq - first) [] else []

/-- CLK, CUR, MGT and DBG. -/
def readMgmt (s : State) (r : RegName) (n : Nat) : W64 :=
  let img := s.cur.image
  match r with
  | .clkSrc => packN [(b2n (s.power.localOk && !s.power.lost.contains 0), 0),
      (b2n (s.power.refclk && !s.power.lost.contains 1), 1), (b2n (s.power.lost.contains 0), 2), (s.power.oscDly.toNat, 8)]
  | .clkRunning => packN (((List.range 26).filter (domOn s)).map fun k => (1, k))
  | .clkDom => setBit (s.rget .clkDom 0 n) 3 (pllLocked s n)
  | .curStatus => packN [(b2n (bitB (s.rget .curStatus 0 0) 0), 0), (b2n (recoveryWait s), 1),
      (b2n (bitB (s.rget .curStatus 0 0) 2), 2), (b2n s.cur.wipe.isSome, 3), (b2n s.cur.tampered.isSome, 4), (s.cur.lc.toNat, 5)]
  | .curFwInfo => packN [(s.cur.svnMin.toNat, 0), ((img.map imageSvn).getD 0, 16),
      ((img.map fun x => fieldAt x 8 4).getD 0, 32)]
  | .curLcNonce => s.cur.nonce
  | .curBootCount => s.cur.bootCount.zeroExtend 64
  | .curLogSeq => s.cur.seq
  | .curLogData => BitVec.ofNat 64 (fieldAt (logRecord s (s.rget .curLogSel 0 0).toNat) (8 * n) 8)
  | .curLogHead => (logHead s).extractLsb' (64 * n) 64
  | .mgtTimeNs => s.timeNs
  | .mgtTimeFrac => s.mgmt.frac.zeroExtend 64
  | .mgtTimeStatus =>
    let corr : BitVec 24 := BitVec.ofInt 24 (corrOf s)
    packN [(bitsN (s.rget .mgtTimeStatus 0 0) 0 2, 0), (b2n (decide (timeSource s = 2 ∧ syntSource s ≠ 1)), 2),
      (corr.toNat, 8)]
  | .mgtEthMac => Config.ethMac.zeroExtend 64
  | .dbgPmcCtl => setBit (s.rget .dbgPmcCtl 0 0) 28 (s.dbg.snap || s.dbg.clear)
  | .dbgJtagStatus => setBit (s.rget .dbgJtagStatus 0 0) 9 (debugOpen s)
  | _ => s.rget r 0 n

/-- Which of the readers above serves an offset. -/
def blockRead (s : State) (r : RegName) (i n : Nat) : W64 :=
  let a := r.info.addr
  if a < 0x100000 then readHost s r n
  else if a < 0x400000 then readMgmt s r n
  else if a < 0x1000000 then readHost s r n
  else if a < 0x1800000 then readCore s r (coreNo i) n
  else if a < 0x2000000 then readShared s r n
  else if a < 0x2400000 then s.rget r i n
  else if a < 0x2800000 then readMem s r i n
  else if a < 0x3000000 then readFabric s r i n
  else if a < 0x3400000 then readColl s r n
  else if a < 0x3800000 then readShared s r n
  else if a < 0x3C00000 then readColl s r n
  else readMgmt s r n

/-- The bits that a register's width holds. -/
def widthMask (r : RegName) : W64 := if r.info.width = 64 then BitVec.allOnes 64 else 0xFFFFFFFF

/-- A word with the open bits of a register taken from a draw. -/
def openMerge (s : State) (r : RegName) (draw : Nat) (v : W64) : W64 :=
  let m := openBits s r &&& widthMask r
  if m = 0 then v else (v &&& ~~~m) ||| (Config.freeValue draw &&& m)

/-- The value of a register at a read, and the state that has drawn its free bits. -/
def regRead (s : State) (r : RegName) (i n : Nat) : W64 × State :=
  let s := memSync (confSync s (confShown s r n)) (memShown r n)
  let m := openBits s r &&& widthMask r
  (openMerge s r s.free (blockRead s r i n &&& widthMask r), if timed r || decide (m ≠ 0) then { s with free := s.free + 1 } else s)

/-! ## The MSI-X table and the PBA (R311) -/

def msixTable : Nat := 0x410000
def msixPba : Nat := 0x418000

/-- The dword of the table or the PBA at an offset that no register covers. -/
def msixRead (s : State) (off : Nat) : W32 :=
  if msixTable ≤ off ∧ off < msixPba then smapGet msixDefault s.host.msix ((off - msixTable) / 4)
  else if msixPba ≤ off ∧ off < msixPba + 0x100 then
    BitVec.ofNat 32 (((List.range 32).filter fun i => s.host.pba.contains (8 * (off - msixPba) + i)).foldl
      (fun a i => a + 2 ^ i) 0)
  else 0

/-! ## Reads through an interface (R12 to R14) -/

/-- The interfaces of R14: 0 the host, 1 I3C, 2 Ethernet. -/
def latchOf (s : State) (i : Fin 3) : Latches := s.latches[i.val]

def setLatch (s : State) (i : Fin 3) (f : Latches → Latches) : State :=
  { s with latches := s.latches.set i.val (f (latchOf s i)) }

def lower (v : W64) : W32 := v.extractLsb' 0 32
def upper (v : W64) : W32 := v.extractLsb' 32 32

/-- A 4-byte read that loads and uses no latch. -/
def plainRead4 (s : State) (off : Nat) : W32 × State :=
  match findReg off with
  | none => (msixRead s off, s)
  | some h =>
    let r := regRead s h.reg h.i h.n
    (if h.upper then upper r.1 else lower r.1, r.2)

/-- A 4-byte read (R14); MGT_TIME_FRAC is latched with the upper half of MGT_TIME_NS (R450). -/
def latchRead4 (s : State) (i : Fin 3) (off : Nat) : W32 × State :=
  match findReg off with
  | none => (msixRead s off, s)
  | some h =>
    if h.reg = .mgtTimeFrac then
      match (latchOf s i).frac with
      | some x => (x, setLatch s i fun l => { l with frac := none })
      | none => plainRead4 s off
    else if h.reg.info.width ≠ 64 then plainRead4 s off
    else if h.upper then
      match (latchOf s i).rd with
      | some (o, x) => if o + 4 = off then (x, setLatch s i fun l => { l with rd := none }) else plainRead4 s off
      | none => plainRead4 s off
    else
      let r := regRead s h.reg h.i h.n
      (lower r.1, setLatch r.2 i fun l =>
        { l with rd := some (off, upper r.1), frac := if h.reg = .mgtTimeNs then some r.2.mgmt.frac else none })

/-- An 8-byte read: one register at one instant, or two 4-byte reads that use no latch (R13, R14). -/
def read8 (s : State) (off : Nat) : W64 × State :=
  match (findReg off).filter fun h => decide (h.reg.info.width = 64) && !h.upper with
  | some h => regRead s h.reg h.i h.n
  | none =>
    let a := plainRead4 s off
    let b := plainRead4 a.2 (off + 4)
    (b.1 ++ a.1, b.2)

/-- Naturally aligned accesses of 4 and 8 bytes (R13). -/
def alignedAccess (off size : Nat) : Bool := decide ((size = 4 ∨ size = 8) ∧ off % size = 0 ∧ off + size ≤ 0x4000000)

/-- A read through an interface. -/
def ifaceRead (s : State) (i : Fin 3) (off size : Nat) : List Byte × State :=
  if size = 8 then
    let r := read8 s off
    (leBytes 8 r.1.toNat, r.2)
  else
    let r := latchRead4 s i off
    (leBytes 4 r.1.toNat, r.2)

/-! ## Blocks and their domains (R424, R450, R391, R346; DEDUCED, log 52) -/

/-- The domain of the block that holds an offset. -/
def blockDomain (off : Nat) : Nat :=
  if off < 0x400000 then 23
  else if off < 0x800000 then 4
  else if off < 0x1000000 then 1
  else if off < 0x2000000 then 0
  else if off < 0x2400000 then 1
  else if off < 0x2800000 then 2
  else if off < 0x3400000 then 6
  else if off < 0x3800000 then 1
  else 23

end Sys2Proof.Machine
end

