-- ==== Sys2Proof/Machine/Regs.lean ====
section
/-!
DEFINITION. Sys2Proof/Machine/Regs.lean: configuration writes: the write latch (R15), the change log (R16, R436, R438), what
each register's write does, and the commands that are such a write.
-/
namespace Sys2Proof.Machine

/-! ## What a write of each register does -/

/-- The RW, RWS and W1C bits of a plain register, of those that the write covers. -/
def plainWrite (s : State) (r : RegName) (i n : Nat) (v m : W64) : State :=
  s.rmod r i n fun old =>
    let rw := r.rwMask n &&& m
    ((old &&& ~~~rw) ||| (v &&& rw)) &&& ~~~(v &&& m &&& BitVec.ofNat 64 r.info.w1c)

/-- Writing 1 to VALID clears both words of an error log. -/
def clearLog (s : State) (r0 r1 : RegName) (i : Nat) (v m : W64) : State :=
  if bitB (v &&& m) 63 then (s.rset r0 i 0 0).rset r1 i 0 0 else s

/-- A log of two words: the second register of the pair. -/
def logPair (r : RegName) : Option RegName :=
  match r with
  | .vtrUeLog0 => some .vtrUeLog1 | .memUeLog0 => some .memUeLog1 | .acnErrLog0 => some .acnErrLog1
  | .zmzErrLog0 => some .zmzErrLog1 | .colErrLog0 => some .colErrLog1 | .rasErrLog0 => some .rasErrLog1
  | .curErrLog0 => some .curErrLog1 | .pwrLog0 => some .pwrLog1
  | _ => none

/-- Some ring is not DISABLED. -/
def ringsLive (s : State) : Bool := s.host.rings.any fun e => e.2.state ≠ 0

def catRefused (s : State) (b : Bool) : State := s.rmod .acnCatCtl 0 0 fun x => setBit x 1 b

/-- ACN_CAT_BASE (R316): refused while a ring is not DISABLED. -/
def catBaseWrite (s : State) (v m : W64) : State :=
  if ringsLive s then catRefused s true else catRefused (plainWrite s .acnCatBase 0 0 v m) false

/-- ACN_CAT_CTL.EN: a change is refused while a ring is not DISABLED, and EN below the compute floor (R316, R421; DEDUCED,
log 53). -/
def catCtlWrite (s : State) (v : W64) : State :=
  let en := bitB v 0
  let change := en != bitB (s.rget .acnCatCtl 0 0) 0
  if (change && ringsLive s) || (en && bitB (s.rget .glbStatus 0 0) 1) then catRefused s true
  else catRefused (s.rmod .acnCatCtl 0 0 fun x => setBit x 0 en) false

/-- ZMZ_CTL_n: a port reset, or a change of EN (R320). -/
def portCtlWrite (s : State) (i : Nat) (v m : W64) : State :=
  let p : Fin 16 := Fin.ofNat 16 i
  let s1 := plainWrite s .zmzCtl i 0 v m
  if bitB v 30 || (portEn s p != portEn s1 p) then portReset s1 p else s1

/-- A port whose INIT has told both ends who they are leaves it once ZMZ_TOPO.VALID is set (R320, R329). -/
def leaveInit (s : State) (p : Fin 16) : State :=
  settleInit s p

/-- ZMZ_TOPO: FILL fills the route table (R335). -/
def topoWrite (s : State) (v m : W64) : State :=
  let s1 := plainWrite s .zmzTopo 0 0 v m
  let s2 := if bitB v 30 then fillRoutes s1 else s1
  (List.finRange 16).foldl leaveInit s2

/-- ZMZ_SYNT_CTL: with EN cleared D06 goes to the local reference as R342 slews it (DEDUCED, log 54). -/
def syntCtlWrite (s : State) (v m : W64) : State :=
  let s1 := plainWrite s .zmzSyntCtl 0 0 v m
  if !bitB v 31 && decide (syntSource s1 ≠ 0) then slewTo s1 false 0 else s1

/-- COL_PLAN_CTL: LOAD before UNLOAD (R349). -/
def planCtlWrite (s : State) (v : W64) : State :=
  if bitB v 31 then planLoad s else if bitB v 30 then planUnload s else s

/-- RAS_ANNEX_CMD (R386): ADDR and the other write-only fields of a half that is not written stay as they were. -/
def annexCmdWrite (s : State) (v m : W64) : State :=
  let wo : W64 := 0x0C00FFFFFFFFF000
  let s1 := s.rmod .rasAnnexCmd 0 0 fun old => (old &&& ~~~(wo &&& m)) ||| (v &&& wo &&& m)
  if bitB (v &&& m) 63 then
    let x := s1.rget .rasAnnexCmd 0 0
    let op := bitsN (v &&& m) 60 3
    if op = 1 ∨ op = 2 then annexStart s1 (decide (op = 1)) (Fin.ofNat 4 (bitsN x 58 2)) (bitsN x 12 36 * 4096)
    else annexState s1 3
  else s1

/-- CLK_DOM_n: a port whose receive domain is gated is DISABLED, and trains when it is clocked again; in SLEEP a domain whose sleep enable is
cleared takes its ports down. -/
def clkDomWrite (s : State) (n : Nat) (v m : W64) : State :=
  let s0 := plainWrite s .clkDom 0 n v m
  let s1 := if pwrState s = 3 ∧ domEn s n 1 ∧ ¬ domEn s0 n 1 then sleepPorts s0 false else s0
  if 7 ≤ n ∧ n ≤ 22 then
    let p : Fin 16 := Fin.ofNat 16 (n - 7)
    if portEn s p != portEn s1 p then portReset s1 p else s1
  else s1

/-- MGT_TIME_CTL: with SOURCE FREE, or 3, VALID stays 0 (R444). -/
def timeCtlWrite (s : State) (v m : W64) : State :=
  let s1 := plainWrite s .mgtTimeCtl 0 0 v m
  if timeSource s1 = 0 then
    let s2 := setTimeBit s1 0 false
    { s2 with mgmt := { s2.mgmt with good := 0 } }
  else s1

/-- MGT_PTP_CTL: a change of domain, or EN cleared, ends the choice of a time transmitter (R445). -/
def ptpCtlWrite (s : State) (v m : W64) : State :=
  let s1 := plainWrite s .mgtPtpCtl 0 0 v m
  if s1.rget .mgtPtpCtl 0 0 = s.rget .mgtPtpCtl 0 0 then s1
  else { s1 with mgmt := { s1.mgmt with master := none, sync := none } }

/-- MGT_ALERT_CTL: ETH_EN set by a frame takes that frame's source address (R442). -/
def alertCtlWrite (s : State) (w : Writer) (v m : W64) : State :=
  let s1 := plainWrite s .mgtAlertCtl 0 0 v m
  if w = .eth ∧ bitB v 30 then { s1 with mgmt := { s1.mgmt with alertMac := s1.mgmt.frameSrc } } else s1

/-- What the write of a register does, to the bits of mask `m`. -/
def regEffect (s : State) (w : Writer) (r : RegName) (i n : Nat) (v m : W64) : State :=
  let sticky (e : Engine) : State :=
    s.modCore (coreNo i) fun c => clearSticky c e ((v &&& BitVec.ofNat 64 r.info.w1c).extractLsb' 0 16)
  match r with
  | .corFrec0 => if bitB (v &&& m) 63 then s.modCore (coreNo i) fun c => { c with frec := {} } else s
  | .corMeStatus => sticky .me
  | .corVeStatus => sticky .ve
  | .corSfStatus => sticky .sf
  | .corCeStatus => sticky .ce
  | .corCpStatus => sticky .cp
  | .corVeGenCtl => genCtlEffect (plainWrite s r i n v m) (coreNo i) v
  | .corRetire => retireWrite s v
  | .vtrOwn => if bitB m 0 then handoverWrite s w n v else s
  | .vtrSwz => swizzleSet s n v
  | .layDtab => dtabWrite s (if bitB m 0 then v else s.lay.dtab.zeroExtend 64)
  | .memCtl => reinitWrite s i v
  | .memRetire => memRetireWrite s v
  | .acnCatBase => catBaseWrite s v m
  | .acnCatCtl => catCtlWrite s v
  | .acnCtxOp => ctxOpWrite s v
  | .zmzCtl => portCtlWrite s i v m
  | .zmzRole => writeRole s (Fin.ofNat 16 i) (lower v)
  | .zmzTopo => topoWrite s v m
  | .zmzSyntCtl => syntCtlWrite s v m
  | .zmzRt => if n < 128 ∧ 32 ≤ n % 64 then s else plainWrite s r i n v m
  | .colPlanCtl => planCtlWrite s v
  | .rasAnnexCmd => annexCmdWrite s v m
  | .clkDom => clkDomWrite s n v m
  | .pwrCtl => pwrCtlWrite s w v
  | .pwrReset => pwrResetWrite s v
  | .curFwCmd => fwCmdWrite s v
  | .curLcCmd => lcCmdWrite s v
  | .curSvcCmd => svcCmdWrite s v
  | .mgtTimeCtl => timeCtlWrite s v m
  | .mgtPtpCtl => ptpCtlWrite s v m
  | .mgtAlertCtl => alertCtlWrite s w v m
  | .dbgPmcCtl => pmcWrite s v
  | .dbgObsSel => obsWrite s v
  | r => match logPair r with
    | some r1 => clearLog s r r1 i v m
    | none => plainWrite s r i n v m

/-! ## Configuration writes (R15, R16, R436) -/

/-- Registers whose writes are not configuration writes: their names end in _SEL or _IDX. -/
def selectorReg (r : RegName) : Bool :=
  [RegName.curLogSel, .layInvSel, .acnRingSel, .dbgObsSel, .corSfRsIdx].contains r

/-- A write that takes effect: recorded first, then done (R16). `size` and `off` are those of the record. -/
def takeEffect (s : State) (w : Writer) (h : RegHit) (size off : Nat) (v m : W64) : State :=
  let r := regRead s h.reg h.i h.n
  let old := if size = 8 then r.1 else if h.upper then (upper r.1).zeroExtend 64 else (lower r.1).zeroExtend 64
  let new := if size = 8 then v else if h.upper then (upper v).zeroExtend 64 else (lower v).zeroExtend 64
  if selectorReg h.reg then regEffect s w h.reg h.i h.n v m
  else withRecord r.2 w size off old new fun s1 => regEffect s1 w h.reg h.i h.n v m

/-- A dword of the MSI-X table takes a value (R311): unmasking a vector whose PBA bit is set sends its message. -/
def msixPut (s : State) (k : Nat) (v : W32) : State :=
  let x : W32 := if k % 4 = 3 then v &&& 1 else v
  let s1 := { s with host := { s.host with msix := smapPut msixDefault s.host.msix k x } }
  if k % 4 = 3 ∧ ¬ bitB v 0 ∧ s.host.pba.contains (k / 4) then
    sendMsix { s1 with host := { s1.host with pba := s1.host.pba.filter (· ≠ k / 4) } } (k / 4)
  else s1

/-- A write of a dword of the MSI-X table. -/
def msixWrite (s : State) (w : Writer) (off : Nat) (v : W32) : State :=
  if msixTable ≤ off ∧ off < msixPba then
    withRecord s w 4 off ((msixRead s off).zeroExtend 64) (v.zeroExtend 64) fun s => msixPut s ((off - msixTable) / 4) v
  else s

/-- The interface of a writer. -/
def ifaceOf : Writer → Option (Fin 3)
  | .bar0 => some 0
  | .i3c => some 1
  | .eth => some 2
  | _ => none

def dropWr (s : State) (w : Writer) : State :=
  match ifaceOf w with
  | some i => setLatch s i fun l => { l with wr := none }
  | none => s

/-- A write that has no effect still is the next write through its interface: one to another offset discards a lower half that is latched
(R15). -/
def dropOther (s : State) (w : Writer) (off : Nat) : State :=
  match (ifaceOf w).bind fun i => (latchOf s i).wr with
  | some (o, _) => if o + 4 = off ∨ o = off then s else dropWr s w
  | none => s

/-- One half that uses no latch: a 32-bit register or an unassigned offset. -/
def plainWrite4 (s : State) (w : Writer) (off : Nat) (v : W32) : State :=
  match findReg off with
  | none => msixWrite s w off v
  | some h =>
    if h.upper then takeEffect s w h 4 off (v ++ (0 : W32)) 0xFFFFFFFF00000000
    else takeEffect s w h 4 off (v.zeroExtend 64) 0xFFFFFFFF

/-- A write that its interface passes on: offset, size and value. -/
structure PassedWrite where
  off : Nat
  size : Nat
  v : W64
  deriving DecidableEq, Repr

/-- What the write latch makes of a write (R15): a lower half of a 64-bit register is latched; an upper half passes on with the lower half
that is latched, or alone; any other write passes on and discards the latch. -/
def latchStep (s : State) (w : Writer) (off size : Nat) (v : W64) : State × Option PassedWrite :=
  match (if size = 4 then findReg off else none), ifaceOf w with
  | some h, some i =>
    if h.reg.info.width = 64 ∧ !h.upper then (setLatch s i fun l => { l with wr := some (off, lower v) }, none)
    else match (if h.upper then (latchOf s i).wr else none) with
      | some (o, x) => (dropWr s w, some (if o + 4 = off then ⟨o, 8, lower v ++ x⟩ else ⟨off, 4, v⟩))
      | none => (dropWr s w, some ⟨off, 4, v⟩)
  | _, _ => (dropWr s w, some ⟨off, size, v⟩)

/-- An 8-byte write: a whole register, or two 4-byte writes that use no latch (R13). -/
def write8 (s : State) (w : Writer) (off : Nat) (v : W64) : State :=
  match (findReg off).filter fun h => decide (h.reg.info.width = 64) && !h.upper with
  | some h => takeEffect s w h 8 off v (BitVec.allOnes 64)
  | none => plainWrite4 (plainWrite4 s w off (lower v)) w (off + 4) (upper v)

/-- A write that has been passed on takes effect. -/
def applyWrite (s : State) (w : Writer) (x : PassedWrite) : State :=
  if x.size = 8 then write8 s w x.off x.v else plainWrite4 s w x.off (lower x.v)

/-- Command registers of the Curator, whose GO a wipe refuses: as every write it waits for its record, in the new chain, and is refused then
(R16, R428, R435, R438, R448; DEDUCED, log 56). -/
def refusedInWipe (x : PassedWrite) : Bool :=
  [RegName.curFwCmd.at 0 0, RegName.curLcCmd.at 0 0, RegName.curSvcCmd.at 0 0].contains x.off && bitB x.v 31

/-- Whether a write must wait for the end of a wipe (R438). -/
def heldByWipe (s : State) (x : PassedWrite) : Bool :=
  s.cur.wipe.isSome && !(match findReg x.off with
    | some h => selectorReg h.reg
    | none => false)

/-- The refusal of a command of the Curator that came during a wipe, by the offset of its register (R428, R435, R448). -/
def refuseGo (s : State) (off : Nat) (v : W64) : State :=
  if off = RegName.curFwCmd.at 0 0 then fwState s 3
  else if off = RegName.curLcCmd.at 0 0 then lcState (newNonce (logCur s 0x0A04 (BitVec.ofNat 32 (bitsN v 28 3)))) 3
  else
    let k := (svcReason s (bitsN v 28 3) (bitsN v 0 7)).getD 4
    svcState (logCur s 0x0A08 (BitVec.ofNat 32 k)) 3 k

/-- Its record is made, and then it is refused. -/
def recordRefusal (s : State) (h : HeldWrite) : State :=
  match findReg h.off with
  | some x =>
    let r := regRead s x.reg x.i x.n
    withRecord r.2 h.w 4 h.off ((lower r.1).zeroExtend 64) ((lower h.v).zeroExtend 64) fun s => refuseGo s h.off h.v
  | none => s

/-- A write that its interface has passed on: held during a wipe, or while its effect meets what makes it wait (R227, R278); otherwise it
takes effect. -/
def passWrite (s : State) (w : Writer) (x : PassedWrite) (num : W32) (port : Bool) : State :=
  let held : HeldWrite := { w := w, off := x.off, size := x.size, v := x.v, num := num, port := port }
  if heldByWipe s x then holdWrite s { held with refused := refusedInWipe x }
  else
    let t := applyWrite s w x
    if metNothing s t then t else holdWrite s held

/-- A register write that reaches a running block. -/
def acceptWrite (s : State) (w : Writer) (off size : Nat) (v : W64) (num : W32 := 0) (port : Bool := false) : State :=
  let r := latchStep s w off size v
  match r.2 with
  | none => r.1
  | some x => passWrite r.1 w x num port

/-! ## The host's accesses to BAR0 (R13, R293, R411, R418, R427) -/

/-- BAR0 requests are served: configuration is complete in RUN, SLEEP, DEEP and MGMT_ONLY, and in recovery wait (R418,
R427; earlier ones complete with Unsupported Request: DEDUCED, log 53). -/
def barServed (s : State) : Bool :=
  (computeReady s && decide (pwrState s ≠ 1)) || decide (pwrState s = 6) || recoveryWait s

/-- In recovery wait BAR0 serves GLB, CUR, CLK, PWR and MGT only. -/
def recoveryServes (off : Nat) : Bool := decide (off < 0x400000) || decide (0x3C00000 ≤ off ∧ off < 0x3E00000)

/-- The domain of an offset is stopped. -/
def blockStopped (s : State) (off : Nat) : Bool := !domOn s (blockDomain off)

/-- A host access to a stopped domain in SLEEP or DEEP: held until the wake, or, with PWR_WAKE.BAR = 0, completed with
Unsupported Request status (R411). -/
def holdOrRefuse (s : State) (a : HeldAccess) (refuse : State) : State :=
  if bitB (s.rget .pwrWake 0 0) 1 then startWake (holdAccess s a) 4 else refuse

/-- A write to a stopped block in SLEEP or DEEP: the write latch takes it as it arrives, and what that passes on waits for the wake (R15,
R411). -/
def holdWrite0 (s : State) (off size : Nat) (v : W64) : State :=
  let r := latchStep s .bar0 off size v
  startWake (match r.2 with
    | some x => holdAccess r.1 (.write0 x.off x.size x.v)
    | none => r.1) 4

/-- A write through BAR0. -/
def hostWrite0 (s : State) (off size : Nat) (v : W64) : State :=
  if !hostReaches s || !barServed s then s
  else if !alignedAccess off size || (recoveryWait s && !recoveryServes off) then dropOther s .bar0 off
  else if blockStopped s off then
    if sleeping s && bitB (s.rget .pwrWake 0 0) 1 then holdWrite0 s off size v else dropOther s .bar0 off
  else acceptWrite s .bar0 off size v

/-- A configuration write by its writer: the host's as above; a management port's where its block runs; the Curator's and
the Conservator's own at once. -/
def regWrite (w : Writer) (off size : Nat) (v : W64) (s : State) : State :=
  match w with
  | .bar0 => hostWrite0 s off size v
  | .i3c | .eth =>
    if alignedAccess off size && domOn s 23 && !blockStopped s off then acceptWrite s w off size v else dropOther s w off
  | _ => if alignedAccess off size && !blockStopped s off then acceptWrite s w off size v else s

/-! ## The commands that are a write of one register -/

/-- The source address of a frame that a row does not carry: a free value (log 55). -/
def unknownFrame (s : State) (w : Writer) : State :=
  if w = .eth then { s with free := s.free + 1, mgmt := { s.mgmt with frameSrc := (Config.freeValue s.free).extractLsb' 0 48 } } else s

/-- CONFIG_WRITE; a poisoned TLP of the host is an uncorrectable error and writes nothing (R287, log 117). -/
def execConfigWrite (w : Writer) (off size : Nat) (v : W64) (poison : Bool) (s : State) : Result :=
  answer s (
    if poison then (if hostReaches s && barServed s then aerNote s 12 else s) else regWrite w off size v (unknownFrame s w))

/-- A 4-byte write of a register. -/
def write32 (w : Writer) (r : RegName) (i n : Nat) (v : W32) (s : State) : Result :=
  answer s (regWrite w (r.at i n) 4 (v.zeroExtend 64) s)

/-- An 8-byte write of a register. -/
def write64 (w : Writer) (r : RegName) (i n : Nat) (v : W64) (s : State) : Result := answer s (regWrite w (r.at i n) 8 v s)

/-- COR_RETIRE, HANDOVER, SWIZZLE_WRITE, LAY_DTAB_WRITE, MEM_RETIRE, ROLE_WRITE and OBS_SELECT write the whole value;
RESEED, REINIT, PORT_RESET, FILL, SNAP and CLEAR set the bit that they are named for. -/
def execCorRetire (w : Writer) (v : W32) (s : State) : Result := write32 w .corRetire 0 0 v s
def execReseed (w : Writer) (p : Fin 72) (v : W32) (s : State) : Result := write32 w .corVeGenCtl p.val 0 (setBit v 8 true) s
def execHandover (w : Writer) (n : Fin 64) (v : W64) (s : State) : Result := write64 w .vtrOwn 0 n.val v s
def execSwizzleWrite (w : Writer) (n : Fin 64) (v : W32) (s : State) : Result := write32 w .vtrSwz 0 n.val v s
def execLayDtabWrite (w : Writer) (v : W64) (s : State) : Result := write64 w .layDtab 0 0 v s
def execReinit (w : Writer) (k : Fin 48) (v : W32) (s : State) : Result := write32 w .memCtl k.val 0 (setBit v 0 true) s
def execMemRetire (w : Writer) (v : W32) (s : State) : Result := write32 w .memRetire 0 0 v s
def execPortReset (w : Writer) (i : Fin 16) (v : W32) (s : State) : Result := write32 w .zmzCtl i.val 0 (setBit v 30 true) s
def execRoleWrite (w : Writer) (i : Fin 16) (v : W32) (s : State) : Result := write32 w .zmzRole i.val 0 v s
def execFill (w : Writer) (v : W32) (s : State) : Result := write32 w .zmzTopo 0 0 (setBit v 30 true) s
def execPmcSnap (w : Writer) (v : W32) (s : State) : Result := write32 w .dbgPmcCtl 0 0 (setBit v 29 true) s
def execPmcClear (w : Writer) (v : W32) (s : State) : Result := write32 w .dbgPmcCtl 0 0 (setBit v 30 true) s
def execObsSelect (w : Writer) (v : W32) (s : State) : Result := write32 w .dbgObsSel 0 0 v s

/-- The value with an operation code in bits [31:28]. -/
def opWord (op : Nat) (rest : Nat) : W32 := BitVec.ofNat 32 (op * 2 ^ 28 + rest)

/-- ENABLE: ACN_CTX_OP with OP 1; its other fields are those of `v`. -/
def execRingEnable (w : Writer) (v : W32) (s : State) : Result := write32 w .acnCtxOp 0 0 (opWord 1 (bitsN v 0 28)) s
/-- DISABLE: ACN_CTX_OP with OP 2. -/
def execRingDisable (w : Writer) (v : W32) (s : State) : Result := write32 w .acnCtxOp 0 0 (opWord 2 (bitsN v 0 28)) s
/-- PLAN_LOAD: COL_PLAN_CTL with LOAD = 1. -/
def execPlanLoad (w : Writer) (v : W32) (s : State) : Result := write32 w .colPlanCtl 0 0 (setBit v 31 true) s
/-- PLAN_UNLOAD: COL_PLAN_CTL with UNLOAD = 1 and LOAD = 0. -/
def execPlanUnload (w : Writer) (v : W32) (s : State) : Result :=
  write32 w .colPlanCtl 0 0 (setBit (setBit v 31 false) 30 true) s
/-- RESTORE: RAS_ANNEX_CMD with GO = 1 and OP 1. -/
def execAnnexRestore (w : Writer) (v : W64) (s : State) : Result :=
  write64 w .rasAnnexCmd 0 0 (setBit (setBits v 60 3 1) 63 true) s
/-- ERASE: RAS_ANNEX_CMD with GO = 1 and OP 2. -/
def execAnnexErase (w : Writer) (v : W64) (s : State) : Result :=
  write64 w .rasAnnexCmd 0 0 (setBit (setBits v 60 3 2) 63 true) s

def execReqRun (w : Writer) (s : State) : Result := write32 w .pwrCtl 0 0 (opWord 1 0) s
def execReqSleep (w : Writer) (s : State) : Result := write32 w .pwrCtl 0 0 (opWord 2 0) s
def execReqDeep (w : Writer) (s : State) : Result := write32 w .pwrCtl 0 0 (opWord 3 0) s
def execReqOff (w : Writer) (s : State) : Result := write32 w .pwrCtl 0 0 (opWord 4 0) s
def execWarm (w : Writer) (s : State) : Result := write32 w .pwrReset 0 0 (opWord 1 0) s
def execQueueReset (w : Writer) (core : BitVec 7) (s : State) : Result := write32 w .pwrReset 0 0 (opWord 2 core.toNat) s
def execFwRecover (w : Writer) (len4k : BitVec 12) (s : State) : Result := write32 w .curFwCmd 0 0 (opWord 9 len4k.toNat) s
def execFwUpdate (w : Writer) (len4k : BitVec 12) (s : State) : Result := write32 w .curFwCmd 0 0 (opWord 10 len4k.toNat) s
def execLifecycle (w : Writer) (target : BitVec 3) (s : State) : Result :=
  write32 w .curLcCmd 0 0 (opWord (8 + target.toNat) 0) s
def execUnretireCore (w : Writer) (index : BitVec 7) (s : State) : Result := write32 w .curSvcCmd 0 0 (opWord 9 index.toNat) s
def execUnretireCtrl (w : Writer) (index : BitVec 7) (s : State) : Result := write32 w .curSvcCmd 0 0 (opWord 10 index.toNat) s

/-! ## BAR0_READ -/

/-- A read through BAR0 of a running block. -/
def hostRead0 (s : State) (off size : Nat) : State :=
  let r := ifaceRead s 0 off size
  emit r.2 (.reply .success r.1)

/-- BAR0_READ. -/
def execBar0Read (off size : Nat) (s : State) : Result :=
  answer s (
    if !hostReaches s then (if hostLink s then replyUr s else s)
    else if !barServed s || !alignedAccess off size then replyUr s
    else if recoveryWait s && !recoveryServes off then emit s (.reply .success (leBytes size 0))
    else if blockStopped s off then
      if sleeping s then holdOrRefuse s (.read0 off size) (replyUr s) else replyUr s
    else hostRead0 s off size)

end Sys2Proof.Machine
end

