-- ==== Sys2Proof/Machine/Bar4.lean ====
section
/-!
DEFINITION. Sys2Proof/Machine/Bar4.lean: the window onto device memory (R287 to R290), host accesses that waited for a wake
(R411), and the ends of host reads (R292, R300).
-/
namespace Sys2Proof.Machine

/-! ## BAR4 (R289, R290) -/

def gib : Nat := 2 ^ 30

/-- Size of BAR4. -/
def winSize (s : State) : Nat := 2 ^ bitsN (s.rget .hstWinCtl 0 0) 8 6

/-- The device address of an offset; an access is mapped by its first byte (DEDUCED, log 57). -/
def winAddr (s : State) (x : Nat) : Nat :=
  if bitB (s.rget .hstWinCtl 0 0) 0 ∧ winSize s - gib ≤ x then vtrBase + (x - (winSize s - gib))
  else (s.rget .hstWinBase 0 0).toNat + x

def hstFlag (s : State) (bit : Nat) : State := s.rmod .hstStatus 0 0 fun v => setBit v bit true

/-- A refused access to a handover bank (R226). -/
def hostDenied (s : State) : State := s.rmod .vtrStatus 0 0 fun v => setBit v 2 true

/-- A read that completes with Completer Abort status. -/
def replyCa (s : State) : State := emit (aerNote (hstFlag s 2) 15) (.reply .abort [])

/-- A read of the window. -/
def bar4Read (s : State) (x len : Nat) : State :=
  let a := winAddr s x
  if len = 0 ∨ maxPayload s < len ∨ winSize s < x + len then replyUr s
  else match placeErrSpan .host s a len with
    | some .outside => replyUr (hstFlag s 1)
    | some (.notOwner _ _) => replyCa (hostDenied s)
    | none =>
      let r := devRead .host s a len
      match r.2.2 with
      | some _ => replyCa r.1
      | none => emit r.1 (.reply .success r.2.1)

/-- The cells of a write with byte enables. -/
def enabledCells (a : Nat) (bytes : List (Option Byte)) : List (Nat × Byte) :=
  (bytes.mapIdx fun i b => (a + i, b)).filterMap fun e => e.2.map fun b => (e.1, b)

/-- A write of the window; what it may not reach is dropped. -/
def bar4Write (s : State) (x : Nat) (bytes : List (Option Byte)) : State :=
  let a := winAddr s x
  if maxPayload s < bytes.length ∨ winSize s < x + bytes.length then s
  else match placeErrSpan .host s a bytes.length with
    | some .outside => hstFlag s 1
    | some (.notOwner _ _) => hostDenied s
    | none => (devWrite .host s (enabledCells a bytes)).1

/-- The window lies behind the on-die network. -/
def windowStopped (s : State) : Bool := !domOn s 1 || !domOn s 2

/-- A host access whose effect meets a bank that is wiped, or memory without a clock, waits (R227, R278). -/
def orHold (s : State) (a : HeldAccess) (t : State) : State := if metNothing s t then t else holdAccess s a

/-- BAR4_READ. -/
def execBar4Read (x len : Nat) (s : State) : Result :=
  answer s (
    if !hostReaches s then (if hostLink s then replyUr s else s)
    else if !barServed s || recoveryWait s then replyUr s
    else if windowStopped s then
      if sleeping s then holdOrRefuse s (.read4 x len) (replyUr s) else replyUr s
    else orHold s (.read4 x len) (bar4Read s x len))

/-- BAR4_WRITE: `none` is a byte whose enable is 0; a poisoned TLP is an uncorrectable error and writes nothing (R287, log 117). -/
def execBar4Write (x : Nat) (bytes : List (Option Byte)) (poison : Bool) (s : State) : Result :=
  answer s (
    if !hostReaches s || !barServed s || recoveryWait s then s
    else if poison then aerNote s 12
    else if windowStopped s then
      if sleeping s then holdOrRefuse s (.write4 x bytes) s else s
    else orHold s (.write4 x bytes) (bar4Write s x bytes))

/-! ## BAR2 (R288, R291, R296) -/

/-- A BAR4 write that has arrived and is not yet acknowledged. -/
def writeHeld (s : State) : Bool := s.power.held.any fun a => match a with
  | .write4 _ _ => true
  | _ => false

/-- A doorbell write that has been accepted: in SLEEP and DEEP it is held (R408), and behind a BAR4 write that is not acknowledged it waits
for that (R291). -/
def doorbellWrite (s : State) (ring : Nat) (value : W64) (lo hi : Bool) : State :=
  if sleeping s then
    let s1 := if heldDoorbells s < 256 then holdAccess s (.doorbell ring value lo hi) else s
    if bitB (s.rget .pwrWake 0 0) 0 then startWake s1 2 else s1
  else if writeHeld s then holdAccess s (.doorbell ring value lo hi)
  else applyDoorbell s ring value lo hi

/-- BAR2 is served: as BAR4, by a registrar that runs or sleeps. -/
def bar2Served (s : State) : Bool := hostReaches s && barServed s && !recoveryWait s && (domOn s 1 || sleeping s)

/-- DOORBELL: an access of BAR2; with no value a read (log 43: the table has no row for a BAR2 read). A posted write that is not served
has no effect, and a poisoned one is an uncorrectable error (log 117). It leaves the write latch of BAR0 as it is (DESIGN CHOICE, log 118:
R15 does not say whether BAR2 and BAR4 count as the interface of BAR0). -/
def execDoorbell (off size : Nat) (value : Option W64) (poison : Bool) (s : State) : Result :=
  answer s (
    if 2 ^ 23 ≤ off ∨ !hostLink s then s
    else match (if bar2Served s then doorbellAt off size else none), value with
      | none, none => replyUr s
      | none, some _ => s
      | some (r, lo, hi), none => doorbellRead s r lo hi
      | some (r, lo, hi), some v => if poison then aerNote s 12 else doorbellWrite s r (if lo then v else v <<< 32) lo hi)

/-! ## Configuration space (R287, R292) -/

/-- Configuration requests complete successfully (R418, R427). -/
def configServed (s : State) : Bool := hostLink s && !s.power.perst && barServed s

/-- Lower end, in µs, of the sub-range that a code of the Completion Timeout Value field selects: the default range, and ranges A and B
(PRESUMED, log 117: the codes are those of PCI Express). -/
def subRangeLow (field : BitVec 4) : Option Nat :=
  match field.toNat with
  | 0 | 1 => some 50
  | 2 => some 1000
  | 5 => some 16000
  | 6 => some 65000
  | _ => none

/-- COMPLETION_TIMEOUT_VALUE_WRITE: the field of Device Control 2 is written, and VALUE takes the lower end of the sub-range, at most 50,000
µs; a code of a range that is not advertised leaves VALUE (R292). -/
def execCompletionTimeoutValueWrite (field : BitVec 4) (s : State) : Result :=
  answer s (
    if configServed s && domOn s 4 then
      let s1 := { s with host := { s.host with cplField := field } }
      match subRangeLow field with
      | some us => s1.rset .hstCplTimeout 0 0 (BitVec.ofNat 64 (min us 50000))
      | none => s1
    else s)

/-- RESIZABLE_BAR_CONTROL_WRITE: 1 GiB to 2 TiB (R287, R288). -/
def execResizableBarControlWrite (sizeLog2 : Nat) (s : State) : Result :=
  answer s (
    if configServed s && domOn s 4 && decide (30 ≤ sizeLog2 ∧ sizeLog2 ≤ 41) then
      s.rmod .hstWinCtl 0 0 fun v => setBits v 8 6 sizeLog2
    else s)

/-! ## The ends of host reads (R292, R300) -/

/-- Take an outstanding request. -/
def takeReq (s : State) (id : Nat) : Option (HostReq × State) :=
  (s.host.reqs.find? fun r => r.id = id).map fun r =>
    (r, { s with host := { s.host with reqs := s.host.reqs.filter fun x => x.id ≠ id } })

/-- The read of a request, unless it has been dropped. -/
def readOf (s : State) (q : HostReq) : Option HostRead := s.host.reads.find? fun r => r.id = q.read

def dropRead (s : State) (rd : HostRead) : State :=
  { s with host := { s.host with reads := s.host.reads.filter fun x => x.id ≠ rd.id } }

/-- A read has failed: it is counted, and its user fails. -/
def readFailed (s : State) (rd : HostRead) (timeout : Bool) : State :=
  let s1 := countReadErr s timeout
  match rd.use with
  | .firmware => firmwareFailed s1 (readErrFlt rd timeout)
  | .token => tokenFailed s1
  | _ => registrarFailed s1 rd timeout

/-- A read has all its bytes. -/
def readArrived (s : State) (rd : HostRead) (bs : List Byte) : State :=
  match rd.use with
  | .firmware => firmwareArrived s bs
  | .token => tokenArrived s bs
  | u => registrarArrived s u bs

/-- The data of a request: the read waits for the rest, or has arrived. -/
def partArrived (s : State) (rd : HostRead) (q : HostReq) (bs : List Byte) : State :=
  let rd1 := { rd with got := kvInsert rd.got q.off bs }
  let all := rd1.got.flatMap (·.2)
  if all.length = rd.len then readArrived (askReads 1024 (dropRead s rd)) rd all
  else askReads 1024 { s with host := { s.host with reads := s.host.reads.map fun x => if x.id = rd.id then rd1 else x } }

/-- The detail of a failed request is its own address. -/
def failedAt (rd : HostRead) (q : HostReq) : HostRead := { rd with addr := q.addr }

/-- A completion of an outstanding request; what answers a read that has been dropped is discarded, and an error of it counted. -/
def completeHost (s : State) (id : Nat) (d : HostData) : State :=
  match takeReq s id with
  | none => s
  | some (q, s1) =>
    match readOf s1 q, d with
    | none, .ok _ => askReads 1024 s1
    | none, d => askReads 1024 (countReadErr (if d = .poison then aerNote s1 12 else s1) false)
    | some rd, .ok bs => if bs.length ≠ q.len then s else partArrived s1 rd q bs
    | some rd, d => readFailed (askReads 1024 (dropRead (if d = .poison then aerNote s1 12 else s1) rd)) (failedAt rd q) false

/-- HOST_COMPLETION: data of the length that was asked for, or Unsupported Request, Completer Abort or poison. A late
completion of a request that is no longer outstanding is discarded. -/
def execHostCompletion (id : Nat) (d : HostData) (s : State) : Result :=
  answer s (if pcieUp s then orHold s (.completion id d) (completeHost s id d) else s)

/-- E_HOST_CPL_TIMEOUT: a request has timed out; one whose read has been dropped is counted. -/
def execHostTimeout (id : Nat) (s : State) : Result :=
  answer s (match takeReq s id with
    | none => s
    | some (q, s1) =>
      match readOf s1 q with
      | none => askReads 1024 (countReadErr (aerNote s1 14) true)
      | some rd => readFailed (askReads 1024 (dropRead (aerNote s1 14) rd)) (failedAt rd q) true)

/-! ## Held accesses (R227, R278, R411) -/

/-- What a held access does. -/
def heldEffect (s : State) (a : HeldAccess) : State :=
  match a with
  | .doorbell r v lo hi => applyDoorbell s r v lo hi
  | .read0 off size => hostRead0 s off size
  | .write0 off size v => passWrite s .bar0 ⟨off, size, v⟩ 0 false
  | .read4 x len => bar4Read s x len
  | .write4 x bytes => bar4Write s x bytes
  | .completion id d => completeHost s id d

/-- A held access takes effect, or goes on waiting; where a function-level reset runs by then, it is refused as R293 states. A doorbell waits
for the BAR4 writes before it (R291). -/
def applyHeld (s : State) (a : HeldAccess) : State :=
  match s.power.flr, a with
  | true, .read0 _ _ | true, .read4 _ _ => replyUr s
  | true, .doorbell _ _ _ _ | true, .write0 _ _ _ | true, .write4 _ _ => s
  | false, .doorbell _ _ _ _ => if writeHeld s then holdAccess s a else orHold s a (heldEffect s a)
  | _, _ => orHold s a (heldEffect s a)

def applyAllHeld (s : State) : State :=
  s.power.held.foldl applyHeld { s with power := { s.power with held := [] } }

end Sys2Proof.Machine
end

