-- ==== Sys2Proof/Machine/Conservator.lean ====
section
/-!
DEFINITION. Sys2Proof/Machine/Conservator.lean: the failure estimate (R377, R378) and the advice of retirement (R389).
-/
namespace Sys2Proof.Machine

/-! ## RISK (R377, R378) -/

/-- c_i of input i; input 9 is the highest junction temperature since the last update above 95 °C. -/
def inputCount (s : State) (i : Nat) : Nat :=
  if i = 9 then s.ras.tjPeak.toNat - 95 else (smapGet (fun _ => (0 : W32)) s.consv i).toNat

/-- RAS_BASE_FIT + Σ W_i × c_i, saturating. -/
def riskTarget (s : State) : Nat :=
  min (2 ^ 32 - 1) ((List.range 10).foldl (fun a i => a + (s.rget .rasWeight 0 i).toNat * inputCount s i)
    (s.rget .rasBaseFit 0 0).toNat)

/-- RISK rises at once and falls by a shift of the difference. -/
def nextRisk (risk target shift : Nat) : Nat := if risk ≤ target then target else risk - (risk - target) / 2 ^ shift

/-- The update of R378: the Conservator's own write of RAS_RISK (R436, log 145). -/
def riskStep (s : State) : State :=
  let t := riskTarget s
  let r := nextRisk (riskOf s) t (bitsN (s.rget .rasCtl 0 0) 20 4)
  let s1 := ownChange s .rasRisk 0 0 (BitVec.ofNat 64 (t * 2 ^ 32 + r)) (BitVec.allOnes 64)
  { s1 with consv := [], ras := { s1.ras with tjPeak := 0 } }

/-! ## Advice (R389) -/

def dayNs : Nat := 86400 * 10 ^ 9

def recent (s : State) (e : RasEvent) : Bool := decide ((s.timeNs - e.time).toNat < dayNs)

/-- Set an advice bit and ADVICE_EVENT: the Conservator's own writes (R436, log 145). -/
def advise (s : State) (r : RegName) (bit : Nat) : State :=
  let m : W64 := BitVec.ofNat 64 (2 ^ bit)
  ownChange (ownChange s r 0 0 m m) .rasStatus 0 0 4 4

def adviseCore (s : State) (p : Nat) : State := if p < 64 then advise s .rasAdvice0 p else advise s .rasAdvice1 (p - 64)

/-- Whether two distinct lines of a controller had uncorrectable errors within 24 h. -/
def twoLines (l : List RasEvent) (k : Nat) : Bool :=
  match (l.filter fun e => decide (e.kind = 0 ∧ e.unit = k)) with
  | [] => false
  | e :: t => t.any fun x => decide (x.key ≠ e.key)

/-- Events of a kind of one unit. -/
def countOf (l : List RasEvent) (kind unit : Nat) : Nat := l.countP fun e => decide (e.kind = kind ∧ e.unit = unit)

/-- No spare core left, fewer than 44 controllers, or below the compute floor. -/
def replaceDue (s : State) : Bool :=
  (lowestSpare s).isNone || decide ((ctrlsInService s).length < 44) || decide (floorMissing s ≠ 0)

/-- ADVICE: the conditions as they stand at an update. Errors of a core and LOST events advise once. -/
def adviceStep (s : State) : State :=
  let l := s.ras.events.filter (recent s)
  let s1 := s.ras.events.foldl (fun s e => if e.kind = 2 then adviseCore s e.unit
    else if e.kind = 1 then advise s .rasAdvice2 e.unit else s) s
  let sc := (List.range 72).foldl (fun s p => if 1000 < countOf l 4 p then adviseCore s p else s) s1
  let s2 := (List.range 48).foldl (fun s k => if twoLines l k || decide (10000 < countOf l 5 k) then advise s .rasAdvice2 k else s) sc
  let s3 := (List.range 16).foldl (fun s i => if 3 ≤ countOf l 3 i then advise s .rasAdvice1 (16 + i) else s) s2
  let s4 := if replaceDue s then advise s3 .rasAdvice1 63 else s3
  { s4 with ras := { s4.ras with events := l.filter fun e => e.kind ∈ [0, 3, 4, 5] } }

/-- Whether a core is advised. -/
def coreAdvised (s : State) (p : Fin 72) : Bool :=
  if p.val < 64 then bitB (s.rget .rasAdvice0 0 0) p.val else bitB (s.rget .rasAdvice1 0 0) (p.val - 64)

/-- The Conservator's own write of COR_RETIRE with FORCE = 0: logged as its change, or held while a wipe runs. -/
def conservatorRetire (s : State) (p : Fin 72) : State :=
  let v := BitVec.ofNat 64 (2 ^ 31 + p.val)
  let off := RegName.corRetire.at 0 0
  let w : HeldWrite := { w := .conservator, off := off, size := 4, v := v }
  if s.cur.wipe.isSome then (if s.cur.heldWrites.contains w then s else holdWrite s w)
  else withRecord s .conservator 4 off (s.rget .corRetire 0 0) v fun s => retireWrite s v

/-- With AUTO_RETIRE the advised cores that are still enabled are retired, one retirement at a time. -/
def autoRetire (s : State) : State :=
  if bitB (s.rget .rasCtl 0 0) 30 && decide (pwrState s = 2) then
    (List.finRange 72).foldl (fun s p =>
      if coreAdvised s p && decide (s.map[p.val].role = 0) && s.host.retire.isNone then conservatorRetire s p else s) s
  else s

/-- RISK_UPDATE: once per second. -/
def execRiskUpdate (s : State) : Result :=
  answer s (if domOn s 23 then autoRetire (adviceStep (riskStep s)) else s)

end Sys2Proof.Machine
end

