-- ==== Sys2Proof/Machine/CoreRows.lean ====
section
/-!
DEFINITION. Sys2Proof/Machine/CoreRows.lean: the rows of the core's instruction set: each enters the queue of its engine at issue, and
starts there (R24 to R35).  What the started instruction does stands in the file of its engine.
-/
namespace Sys2Proof.Machine

/-- ENGINE_NOP: FUNC 63 of an engine group (R58). -/
def execEngineNop (k : Ctl) (g : BitVec 4) (s : State) : Result := issue (.engineNop g) .none k s

/-! ## Scalar unit: arithmetic and logic (R68 to R71) -/

def execSadd (k : Ctl) (o : OpS) (s : State) : Result := issue .sadd (.s o) k s
def execSsub (k : Ctl) (o : OpS) (s : State) : Result := issue .ssub (.s o) k s
def execSmul (k : Ctl) (o : OpS) (s : State) : Result := issue .smul (.s o) k s
def execSand (k : Ctl) (o : OpS) (s : State) : Result := issue .sand (.s o) k s
def execSor (k : Ctl) (o : OpS) (s : State) : Result := issue .sor (.s o) k s
def execSxor (k : Ctl) (o : OpS) (s : State) : Result := issue .sxor (.s o) k s
def execSshl (k : Ctl) (o : OpS) (s : State) : Result := issue .sshl (.s o) k s
def execSshr (k : Ctl) (o : OpS) (s : State) : Result := issue .sshr (.s o) k s
def execSsra (k : Ctl) (o : OpS) (s : State) : Result := issue .ssra (.s o) k s
def execSmin (k : Ctl) (o : OpS) (s : State) : Result := issue .smin (.s o) k s
def execSmax (k : Ctl) (o : OpS) (s : State) : Result := issue .smax (.s o) k s
def execScmp (k : Ctl) (o : OpS) (s : State) : Result := issue .scmp (.s o) k s
def execSmovi (k : Ctl) (o : OpS) (s : State) : Result := issue .smovi (.s o) k s
def execSmovhi (k : Ctl) (o : OpS) (s : State) : Result := issue .smovhi (.s o) k s
def execSaddi (k : Ctl) (o : OpS) (s : State) : Result := issue .saddi (.s o) k s
def execSfadd (k : Ctl) (o : OpS) (s : State) : Result := issue .sfadd (.s o) k s
def execSfmul (k : Ctl) (o : OpS) (s : State) : Result := issue .sfmul (.s o) k s
def execSffma (k : Ctl) (o : OpS) (s : State) : Result := issue .sffma (.s o) k s
def execSfmin (k : Ctl) (o : OpS) (s : State) : Result := issue .sfmin (.s o) k s
def execSfmax (k : Ctl) (o : OpS) (s : State) : Result := issue .sfmax (.s o) k s
def execSfcvt (k : Ctl) (o : OpS) (s : State) : Result := issue .sfcvt (.s o) k s

/-! ## Scalar unit: memory, flags and the rest (R74 to R77) -/

def execSld (k : Ctl) (o : OpS) (s : State) : Result := issue .sld (.s o) k s
def execSst (k : Ctl) (o : OpS) (s : State) : Result := issue .sst (.s o) k s
def execSflag (k : Ctl) (o : OpS) (s : State) : Result := issue .sflag (.s o) k s
def execSkadd (k : Ctl) (o : OpS) (s : State) : Result := issue .skadd (.s o) k s
def execSkrd (k : Ctl) (o : OpS) (s : State) : Result := issue .skrd (.s o) k s
def execSid (k : Ctl) (o : OpS) (s : State) : Result := issue .sid (.s o) k s
def execSstat (k : Ctl) (o : OpS) (s : State) : Result := issue .sstat (.s o) k s
def execSvget (k : Ctl) (o : OpS) (s : State) : Result := issue .svget (.s o) k s

/-! ## Matrix engine (R94 to R103) -/

def execMloads (k : Ctl) (o : OpM) (s : State) : Result := issue .mloads (.m o) k s
def execMswap (k : Ctl) (o : OpM) (s : State) : Result := issue .mswap (.m o) k s
def execMprod (k : Ctl) (o : OpM) (s : State) : Result := issue .mprod (.m o) k s
def execMsegt (k : Ctl) (o : OpM) (s : State) : Result := issue .msegt (.m o) k s
def execMcsum (k : Ctl) (o : OpM) (s : State) : Result := issue .mcsum (.m o) k s
def execMabclr (k : Ctl) (o : OpM) (s : State) : Result := issue .mabclr (.m o) k s

/-! ## Vector engine: arithmetic (R107 to R139) -/

def execVadd (k : Ctl) (o : OpV) (s : State) : Result := issue .vadd (.v o) k s
def execVsub (k : Ctl) (o : OpV) (s : State) : Result := issue .vsub (.v o) k s
def execVmul (k : Ctl) (o : OpV) (s : State) : Result := issue .vmul (.v o) k s
def execVfma (k : Ctl) (o : OpV) (s : State) : Result := issue .vfma (.v o) k s
def execVfms (k : Ctl) (o : OpV) (s : State) : Result := issue .vfms (.v o) k s
def execVmin (k : Ctl) (o : OpV) (s : State) : Result := issue .vmin (.v o) k s
def execVmax (k : Ctl) (o : OpV) (s : State) : Result := issue .vmax (.v o) k s
def execVabs (k : Ctl) (o : OpV) (s : State) : Result := issue .vabs (.v o) k s
def execVneg (k : Ctl) (o : OpV) (s : State) : Result := issue .vneg (.v o) k s
def execVcmp (k : Ctl) (o : OpV) (s : State) : Result := issue .vcmp (.v o) k s
def execVsel (k : Ctl) (o : OpV) (s : State) : Result := issue .vsel (.v o) k s
def execVand (k : Ctl) (o : OpV) (s : State) : Result := issue .vand (.v o) k s
def execVor (k : Ctl) (o : OpV) (s : State) : Result := issue .vor (.v o) k s
def execVxor (k : Ctl) (o : OpV) (s : State) : Result := issue .vxor (.v o) k s
def execVshl (k : Ctl) (o : OpV) (s : State) : Result := issue .vshl (.v o) k s
def execVshr (k : Ctl) (o : OpV) (s : State) : Result := issue .vshr (.v o) k s
def execVmov (k : Ctl) (o : OpV) (s : State) : Result := issue .vmov (.v o) k s
def execVcvt (k : Ctl) (o : OpV) (s : State) : Result := issue .vcvt (.v o) k s
def execVrng (k : Ctl) (o : OpV) (s : State) : Result := issue .vrng (.v o) k s
def execSparsify (k : Ctl) (o : OpV) (s : State) : Result := issue .sparsify (.v o) k s

/-! ## Vector engine: memory, cross-lane and tables (R140 to R146) -/

def execVld (k : Ctl) (o : OpV) (s : State) : Result := issue .vld (.v o) k s
def execVst (k : Ctl) (o : OpV) (s : State) : Result := issue .vst (.v o) k s
def execVldw (k : Ctl) (o : OpV) (s : State) : Result := issue .vldw (.v o) k s
def execVldab (k : Ctl) (o : OpV) (s : State) : Result := issue .vldab (.v o) k s
def execVstab (k : Ctl) (o : OpV) (s : State) : Result := issue .vstab (.v o) k s
def execVperm (k : Ctl) (o : OpV) (s : State) : Result := issue .vperm (.v o) k s
def execVslide (k : Ctl) (o : OpV) (s : State) : Result := issue .vslide (.v o) k s
def execVbcast (k : Ctl) (o : OpV) (s : State) : Result := issue .vbcast (.v o) k s
def execVred (k : Ctl) (o : OpV) (s : State) : Result := issue .vred (.v o) k s
def execVscan (k : Ctl) (o : OpV) (s : State) : Result := issue .vscan (.v o) k s
def execVseq (k : Ctl) (o : OpV) (s : State) : Result := issue .vseq (.v o) k s
def execVlut (k : Ctl) (o : OpV) (s : State) : Result := issue .vlut (.v o) k s
def execTwr (k : Ctl) (o : OpV) (s : State) : Result := issue .twr (.v o) k s
def execTswap (k : Ctl) (o : OpV) (s : State) : Result := issue .tswap (.v o) k s
def execVchld (k : Ctl) (o : OpV) (s : State) : Result := issue .vchld (.v o) k s
def execVzmap (k : Ctl) (o : OpV) (s : State) : Result := issue .vzmap (.v o) k s
def execVcsr (k : Ctl) (o : OpD) (s : State) : Result := issue .vcsr (.d o) k s
def execVmset (k : Ctl) (o : OpV) (s : State) : Result := issue .vmset (.v o) k s

/-! ## Special functions (R152 to R167) -/

def execFfun (k : Ctl) (o : OpV) (s : State) : Result := issue .ffun (.v o) k s
def execFstat (k : Ctl) (o : OpV) (s : State) : Result := issue .fstat (.v o) k s
def execFstrd (k : Ctl) (o : OpV) (s : State) : Result := issue .fstrd (.v o) k s
def execFstclr (k : Ctl) (o : OpV) (s : State) : Result := issue .fstclr (.v o) k s

/-! ## Copy engine (R259 to R266) -/

def execCcopy (k : Ctl) (o : OpD) (s : State) : Result := issue .ccopy (.d o) k s
def execCtrans (k : Ctl) (o : OpD) (s : State) : Result := issue .ctrans (.d o) k s
def execCfill (k : Ctl) (o : OpD) (s : State) : Result := issue .cfill (.d o) k s
def execCabout (k : Ctl) (o : OpD) (s : State) : Result := issue .cabout (.d o) k s

/-! ## Collective port (R350 to R371) -/

def execCpbkt (k : Ctl) (o : OpD) (s : State) : Result := issue .cpbkt (.d o) k s
def execCpsig (k : Ctl) (o : OpD) (s : State) : Result := issue .cpsig (.d o) k s
def execCpput (k : Ctl) (o : OpD) (s : State) : Result := issue .cpput (.d o) k s
def execCpacc (k : Ctl) (o : OpD) (s : State) : Result := issue .cpacc (.d o) k s
def execCpgath (k : Ctl) (o : OpD) (s : State) : Result := issue .cpgath (.d o) k s

end Sys2Proof.Machine
end

