-- ==== Sys2Proof/Machine/HostEvents.lean ====
section
/-!
DEFINITION. Sys2Proof/Machine/HostEvents.lean: the function-level reset (R293), PERST_N (R417), and the events of the link
and of the function's power state (R407, R410).
-/
namespace Sys2Proof.Machine

/-! ## Main memory when the interleave changes (R269, R279, R293) -/

/-- Where the cell of an address lies once the controllers in service are `cs`; none where its controller has left. -/
def movedAddr (s : State) (cs : List Nat) (a : Nat) : Option Nat :=
  let n := (ctrlsInService s).length
  let q := a / 256 / n
  let m := cs.length
  match cs.findIdx? fun k => k = (ctrlOf s a).1 with
  | none => none
  | some j => some ((q * m + (j + m - q % m) % m) * 256 + a % 256)

/-- Pending controller retirements take effect and main memory keeps its bits, each at its place in its controller. -/
def retireControllers (s : State) : State :=
  if s.memPend = 0 then s
  else
    let s1 := applyMemRetire s
    let cs := ctrlsInService s1
    let mem := s.mem.foldl (fun m c =>
      if c.1 < memTop s then
        match movedAddr s cs c.1 with
        | some a => smapPut memDefault m a c.2
        | none => m
      else smapPut memDefault m c.1 c.2) []
    let s2 := dropCaches { s1 with mem := mem }
    (List.range 48).foldl (fun s k => if s2.memMap.getLsbD k then s else setMemState s k 5) s2

/-! ## Function-level reset (R293) -/

/-- Steps 1 and 2: requests are refused from here on; dispatches and ring commands stop. Reads of the Curator are not
the registrar's and stay. -/
def flrBegin (s : State) : State :=
  let s1 := s.host.dispatches.foldl (fun s d => d.cores.foldl (fun s p =>
    if d.finished.contains p ∨ (s.core p).runstate = 5 ∨ (s.core p).runstate = 4 ∨ (s.core p).runstate = 0 then s
    else stopCore s p) s) s
  let s2 := usesEnd s1 (s1.host.cmds.flatMap fun c => c.uses)
  let s3 := dropReads s2 fun u => match u with
    | .firmware | .token => false
    | _ => true
  { s3 with host := { s3.host with cmds := [], ctxOp := none }, power := { s3.power with flr := true } }

/-- FLR: a configuration write that the function takes while configuration requests are served; in SLEEP or DEEP it starts
a wake first (R410). -/
def execFlr (s : State) : Result :=
  answer s (
    if configServed s && !s.power.flr then
      if sleeping s then startWake (flrBegin s) 6 else flrBegin s
    else s)

/-- Nothing that waits for a tag or holds one is left in the collective engine: line operations not yet answered end with their uses. -/
def dropHeld (s : State) : State :=
  let s1 := reclaimTags (fun _ => true) s
  let s2 := (s1.col.accq.filter (·.last)).foldl (fun s o => freeWin (useEndOpt s o.use) o.slot) s1
  { s2 with col := { s2.col with sendq := [], retries := [], accq := [] } }

/-- TAG_WAIT_EXPIRE: every tag still held is reclaimed; its late response meets another epoch and is discarded. -/
def execTagWaitExpire (s : State) : Result := answer s (if s.power.flr then dropHeld s else s)

/-- Whether the collective engine holds no tag and waits for none (R282). -/
def noTagHeld (s : State) : Bool :=
  s.col.reqs.isEmpty && s.col.sendq.isEmpty && s.col.retries.isEmpty && s.col.accq.isEmpty

/-- Register offsets of GLB, HST, ACN, LAY and COR whose non-RWS fields step 6 resets. GLB_STATUS tells of the power state,
which stays (DEDUCED, log 58); the counters of chapter 20 and those since power-on reset are kept (R453), and so is the record of
ACN_ERR_LOG (R394, log 146). -/
def flrClears (off : Nat) : Bool :=
  !logOffset off && ((decide (off < 0x100000) && decide (off ≠ 0x10 ∧ off ≠ 8)) || decide (0x400000 ≤ off ∧ off < 0x1000000) ||
    (decide (0x1000000 ≤ off ∧ off < 0x2000000) && !stallOffset off && !coreCountOffset off) || decide (0x3400000 ≤ off ∧ off < 0x3800000))

/-- A core as step 6 leaves it: its AB rows and L1 keep their bits, with the errors in them (DEDUCED, log 58), and its fault record stays
(R394, log 146). -/
def flrCore (s : State) (p : Fin 72) : Core :=
  let c := s.core p
  let isAb : Place → Bool := fun k => match k with
    | .ab _ => true
    | _ => false
  { Core.reset (s.free + p.val * 1024) (roleState s.map[p.val].role) with
    frec := c.frec, ab := c.ab, l1 := c.l1, l1Err := c.l1Err, ecc := c.ecc.filter isAb, ecc1 := c.ecc1.filter isAb }

/-- Steps 4 to 7; where controllers leave the interleave the floors are assessed (R420). Requests whose completions have not come stay outstanding, and what configuration space holds stays (log 117). A
retirement that is PENDING stays (DESIGN CHOICE, log 123). -/
def flrEnd (s : State) : State :=
  let s1 := clearInventory (retireControllers (planDrop s))
  let s2 := { s1 with
    cores := Vector.ofFn (flrCore s1)
    free := s1.free + 72 * 1024
    regs := s1.regs.filter fun e => !flrClears e.1
    latches := s1.latches.set 0 {}
    host := { nextId := s1.host.nextId, reads := s1.host.reads, reqs := s1.host.reqs, retire := s1.host.retire, paths := s1.host.paths,
              mps := s1.host.mps, mrrs := s1.host.mrrs, cplField := s1.host.cplField, aer := s1.host.aer }
    power := { s1.power with flr := false } }
  (if s.memPend = 0 then floorSettle else floorCheck) ((List.range 64).foldl (fun s n => s.rmod .vtrOwn 0 n fun v => setBits v 0 8 n) s2)

/-- FLR_COMPLETE: no tag is held any more. One that waits for a wake is completed after it. -/
def execFlrComplete (s : State) : Result :=
  answer s (
    if s.power.flr && noTagHeld s && !inTransition s then flrEnd s
    else s)

/-! ## PERST_N (R15, R417, R422) -/

/-- PERST_N_ASSERT: the PCIe controller with the accesses that it holds, the link and configuration space are reset, with every effect of a
function-level reset; SLEEP stays. -/
def execPerstAssert (s : State) : Result :=
  answer s (
    if s.power.perst then s
    else
      let s1 := if s.power.flr then s else flrBegin s
      { s1 with latches := s1.latches.set 0 {},
                host := { s1.host with mps := 0, mrrs := 2, cplField := 0, aer := 0 },
                power := { s1.power with perst := true, link := none, d3hot := false, held := [] } })

/-- PERST_N_DEASSERT: PCIE_REFCLK is present by then (R468); the link trains to the widest width and highest rate of both ends (R287). -/
def execPerstDeassert (width rate : Nat) (flit : Bool) (s : State) : Result :=
  answer s (
    if s.power.perst then
      let ok := decide (width ∈ [1, 2, 4, 8, 16]) && decide (1 ≤ rate ∧ rate ≤ 7) && (flit || decide (rate ≤ 5))
      { s with power := { s.power with perst := false, refclk := true, link := if ok then some (width, rate, flit) else none } }
    else s)

/-! ## The function's power state and the link (R407, R410) -/

/-- D3HOT: also a request for SLEEP. -/
def execD3hot (s : State) : Result :=
  answer s (
    if configServed s && !s.power.d3hot then
      requestSleep { s with power := { s.power with d3hot := true } } 3
    else s)

/-- D0_RETURN: a wake source. -/
def execD0Return (s : State) : Result :=
  answer s (
    if hostLink s && s.power.d3hot then startWake { s with power := { s.power with d3hot := false } } 5 else s)

/-- L1_EXIT: a wake source, in DEEP the only one of the host. -/
def execL1Exit (s : State) : Result :=
  answer s (if s.power.link.isSome && !s.power.perst then startWake s 5 else s)

end Sys2Proof.Machine
end

