-- ==== Sys2Proof/Machine/MgmtPorts.lean ====
section
/-!
DEFINITION. Sys2Proof/Machine/MgmtPorts.lean: the I3C commands (R439), register access through the management ports (R441), the
end of a wipe (R433, R434, R438, R448), the telemetry snapshot (R447) and the end of a message interval (R398).
-/
namespace Sys2Proof.Machine

/-! ## I3C common commands (R439) -/

/-- The management floor is up: the I3C port runs. -/
def i3cUp (s : State) : Bool := domOn s 23

def modI3c (s : State) (f : I3c → I3c) : State := { s with mgmt := { s.mgmt with i3c := f s.mgmt.i3c } }

/-- The provisional ID: the manufacturer's part and the low 32 bits of the DeviceID digest. -/
def provisionalId : List Byte := Config.i3cBytes 0 ++ leBytes 4 deviceIdDigest.toNat

/-- The answer of a command that reads: what the master reads on the bus. -/
def i3cRead (s : State) (bs : List Byte) : Result := answer s (if i3cUp s then emit s (.i3cData bs) else s)

/-- ENEC: in-band interrupts are enabled. -/
def execEnec (s : State) : Result := answer s (if i3cUp s then modI3c s fun x => { x with events := true } else s)
/-- DISEC: in-band interrupts are disabled. -/
def execDisec (s : State) : Result := answer s (if i3cUp s then modI3c s fun x => { x with events := false } else s)
/-- RSTDAA: the dynamic address is gone. -/
def execRstdaa (s : State) : Result := answer s (if i3cUp s then modI3c s fun x => { x with dynAddr := none } else s)

/-- ENTDAA: a target without a dynamic address sends its provisional ID, BCR and DCR and takes the address. -/
def execEntdaa (addr : BitVec 7) (s : State) : Result :=
  answer s (
    if i3cUp s && s.mgmt.i3c.dynAddr.isNone then
      emit (modI3c s fun x => { x with dynAddr := some addr })
        (.i3cData (provisionalId ++ Config.i3cBytes 1 ++ Config.i3cBytes 2))
    else s)

/-- The static address of the straps: 0x60 + I3C_SA (R467). -/
def staticAddr (s : State) : BitVec 7 := 0x60 + s.power.i3cSa.zeroExtend 7

/-- SETDASA: the target with this static address and no dynamic one takes the address. -/
def execSetdasa (static addr : BitVec 7) (s : State) : Result :=
  answer s (
    if i3cUp s && s.mgmt.i3c.dynAddr.isNone && decide (static = staticAddr s) then
      modI3c s fun x => { x with dynAddr := some addr }
    else s)

def execGetpid (s : State) : Result := i3cRead s provisionalId
def execGetbcr (s : State) : Result := i3cRead s (Config.i3cBytes 1)
def execGetdcr (s : State) : Result := i3cRead s (Config.i3cBytes 2)
def execGetstatus (s : State) : Result := i3cRead s (Config.i3cBytes 3)
def execGetmxds (s : State) : Result := i3cRead s (Config.i3cBytes 4)

/-- RSTACT: the action for the next target reset pattern. -/
def execRstact (action : Byte) (s : State) : Result :=
  answer s (if i3cUp s then modI3c s fun x => { x with resetAction := action } else s)

/-! ## Register access (R441) -/

/-- The port takes frames: D23 runs, and the Ethernet port is enabled. -/
def portUp (s : State) (eth : Bool) : Bool := domOn s 23 && (!eth || bitB (s.rget .mgtEthCtl 0 0) 31)

def portWriter (eth : Bool) : Writer := if eth then .eth else .i3c

/-- A port serves one request at a time: it is busy while it holds a write. -/
def portBusy (s : State) (eth : Bool) : Bool :=
  s.cur.heldWrites.any fun h => h.port && decide (h.w = portWriter eth)

/-- The response: STATUS and what was read. On I3C it waits for the next private read. -/
def portReply (s : State) (eth : Bool) (num : W32) (status : Byte) (data : List Byte) : State :=
  if eth then emit s (.ethReply num (status :: data)) else modI3c s fun x => { x with response := status :: data }

/-- An offset that a register or the MSI-X table or the PBA covers. -/
def assignedAt (off : Nat) : Bool :=
  (findReg off).isSome || decide (msixTable ≤ off ∧ off < msixTable + 0x8000) || decide (msixPba ≤ off ∧ off < msixPba + 0x100)

def assigned (off size : Nat) : Bool := assignedAt off || (decide (size = 8) && assignedAt (off + 4))

/-- The STATUS of a request that has no effect: an offset that is unaligned or unassigned, or a stopped block. -/
def portRefusal (s : State) (off size : Nat) : Option Byte :=
  if !alignedAccess off size || !assigned off size then some 2 else if blockStopped s off then some 1 else none

/-- A request reaches the port; while one is held no other is served. -/
def onPort (s : State) (eth : Bool) (f : State) : Result := answer s (if portUp s eth && !portBusy s eth then f else s)

/-- A read of a register. -/
def portRead (s : State) (eth : Bool) (num : W32) (off size : Nat) : State :=
  match portRefusal s off size with
  | some k => portReply s eth num k []
  | none =>
    let r := ifaceRead s (if eth then 2 else 1) off size
    portReply r.2 eth num 0 r.1

/-- A write of a register: answered once it has been served, and not while it is held. One that has no effect still is the next write of its
port (R15). -/
def portWrite (s : State) (eth : Bool) (num : W32) (off size : Nat) (v : W64) : State :=
  match portRefusal s off size with
  | some k => portReply (dropOther s (portWriter eth) off) eth num k []
  | none =>
    let s1 := acceptWrite s (portWriter eth) off size v num true
    if portBusy s1 eth then s1 else portReply s1 eth num 0 []

def execRead4 (eth : Bool) (num off : W32) (s : State) : Result := onPort s eth (portRead s eth num off.toNat 4)
def execRead8 (eth : Bool) (num off : W32) (s : State) : Result := onPort s eth (portRead s eth num off.toNat 8)

/-- The source address of a frame that the Ethernet port takes (R442). -/
def fromFrame (s : State) (eth : Bool) (src : BitVec 48) : State := if eth then { s with mgmt := { s.mgmt with frameSrc := src } } else s

def execWrite4 (eth : Bool) (num off : W32) (v : W32) (src : BitVec 48) (s : State) : Result :=
  onPort s eth (portWrite (fromFrame s eth src) eth num off.toNat 4 (v.zeroExtend 64))

def execWrite8 (eth : Bool) (num off : W32) (v : W64) (src : BitVec 48) (s : State) : Result :=
  onPort s eth (portWrite (fromFrame s eth src) eth num off.toNat 8 v)

/-- The newest SEQ of the chain with these low 32 bits. -/
def fullSeq (s : State) (seq : W32) : Nat :=
  let n := s.cur.seq.toNat
  if n = 0 then seq.toNat else n - 1 - (n - 1 + 2 ^ 32 - seq.toNat) % 2 ^ 32

/-- READ_CHANGE_LOG_RECORD: 128 bytes; a record that is not kept reads as zero (R437). -/
def execReadChangeLogRecord (eth : Bool) (num seq : W32) (s : State) : Result :=
  let r := if seq.toNat ≤ fullSeq s seq then logRecord s (fullSeq s seq) else []
  onPort s eth (portReply s eth num 0 (r ++ List.replicate (128 - r.length) 0))

/-- MGMT_HOLD_TIMEOUT: a request held longer than 10 ms is answered with STATUS 3 and has no effect. -/
def execMgmtHoldTimeout (eth : Bool) (s : State) : Result :=
  answer s (
    match s.cur.heldWrites.find? fun h => h.port && decide (h.w = portWriter eth) with
    | none => s
    | some h => portReply { s with cur := { s.cur with heldWrites := s.cur.heldWrites.erase h } } eth h.num 3 [])

/-! ## The end of a wipe (R433, R434, R438, R448) -/

/-- The answer to a held write of a management port. -/
def heldReply (s : State) (h : HeldWrite) (status : Byte) : State :=
  if h.port then portReply s (decide (h.w = .eth)) h.num status [] else s

/-- A held write takes effect, finds its block stopped by then, or goes on waiting (R227, R438); one that the wipe refuses is recorded and
refused, and a change of the Conservator's own replaces the bits of its mask. -/
def releaseWrite (s : State) (h : HeldWrite) : State :=
  match h.own with
  | some m => (match findReg h.off with
    | some x => ownChange s x.reg x.i x.n h.v m
    | none => s)
  | none =>
    if h.refused then heldReply (recordRefusal s h) h 0
    else if blockStopped s h.off then heldReply s h 1
    else
      let t := applyWrite s h.w ⟨h.off, h.size, h.v⟩
      if metNothing s t then heldReply t h 0 else holdWrite s h

/-- Every held write, in its order. -/
def releaseWrites (s : State) : State :=
  s.cur.heldWrites.foldl releaseWrite { s with cur := { s.cur with heldWrites := [] } }

/-- The new chain begins; a life-cycle transition goes on at step 3 of R433. -/
def endWipe (s : State) (reason : Nat) : State :=
  let s1 := { s with cur := { s.cur with wipe := none } }
  match s.cur.lcOp with
  | some op => if reason = 2 then lcFinish s1 op.target else newChain s1 reason
  | none => newChain s1 reason

/-- WIPE_DONE: the secure vitrine is zero; what was held during the wipe is served. -/
def execWipeDone (s : State) : Result :=
  answer s (
    match s.cur.wipe with
    | none => s
    | some r =>
      if domOn s 23 then
        let s1 := releaseWrites (endWipe s r)
        s.cur.heldSpdm.foldl spdmServe { s1 with cur := { s1.cur with heldSpdm := [] } }
      else s)

/-! ## Telemetry (R447) -/

/-- The highest TEMP_CODE of the controllers. -/
def highestTemp (s : State) : Nat := (List.range 48).foldl (fun a k => max a (bitsN (s.rget .memStatus k 0) 8 8)) 0

/-- STATE of ports 0 to 15 in 3-bit fields. -/
def portStates (s : State) : W64 := packN ((List.finRange 16).map fun i => ((portOf s i).state.toNat, 3 * i.val))

/-- The domain of item n: that of the block that its register lies in. -/
def telemDomain (n : Nat) : Nat :=
  match n with
  | 6 => 2
  | 7 | 8 => 6
  | 9 => 0
  | _ => 23

/-- Item n, and the state that has drawn its free bits. -/
def telemItem (s : State) (n : Nat) : W64 × State :=
  match n with
  | 0 => regRead s .pwrInput 0 0
  | 1 => regRead s .pwrTherm 0 0
  | 2 => regRead s .pwrCapStatus 0 0
  | 3 => regRead s .pwrState 0 0
  | 4 => regRead s .rasRisk 0 0
  | 5 => regRead s .rasDepth 0 0
  | 6 => (BitVec.ofNat 64 (highestTemp s), s)
  | 7 => regRead s .colStep 0 0
  | 8 => (portStates s, s)
  | 9 => regRead s .corEnabled 0 0
  | 10 => regRead s .mgtTimeStatus 0 0
  | _ => regRead s .glbErrSummary 0 0

/-- Copy one item; one whose domain is stopped keeps its last value. -/
def telemCopy (s : State) (n : Nat) : State :=
  if domOn s (telemDomain n) then
    let r := telemItem s n
    r.2.rset .mgtTelem 0 n r.1
  else s

/-- TELEMETRY_SNAPSHOT: the items are copied, then MGT_TELEM_SEQ is incremented. -/
def execTelemetrySnapshot (s : State) : Result :=
  answer s (
    if domOn s 23 then ((List.range 12).foldl telemCopy s).rcountWrap .mgtTelemSeq 0 0 0 32 1
    else s)

/-! ## Message intervals (R398, R442) -/

/-- Whether the message of a path can still be sent: an I3C interrupt needs its bus. -/
def pathOpen (s : State) (i : Nat) : Bool := decide (i ≠ 1) || (s.mgmt.i3c.events && s.mgmt.i3c.dynAddr.isSome)

/-- ERR_MSG_INTERVAL_EXPIRE: requests of the interval become one message at its end, which starts another interval. -/
def execErrMsgIntervalExpire (path : Fin 3) (s : State) : Result :=
  let x := vAt s.host.paths {} path.val
  answer s (
    if !x.running then s
    else if x.merged && pathOpen s path.val then pathPut (pathSend s path.val) path.val { running := true, merged := false }
    else pathPut s path.val {})

end Sys2Proof.Machine
end

