-- ==== Sys2Proof/Machine/Debug.lean ====
section
/-!
DEFINITION. Sys2Proof/Machine/Debug.lean: the TAP (R458) and the boundary tests (R459).
-/
namespace Sys2Proof.Machine

/-! ## The instruction register -/

/-- The TAP answers while the module has power and its management floor (R421). -/
def tapUp (s : State) : Bool := !s.power.off && !s.power.dead

/-- Loss of signal on a port, while the boundary cells drive the pins. -/
def portDark (s : State) (i : Fin 16) : State :=
  if (portOf s i).state = 0 ∨ (portOf s i).state = 6 then s else enterDown s i

/-- A port that was dark trains again. -/
def portLit (s : State) (i : Fin 16) : State := if (portOf s i).state = 6 then startTraining s i (trainLanes (portOf s i)) else s

/-- Enter or leave a boundary test. -/
def setBoundary (s : State) (b : Bool) : State :=
  if s.dbg.boundary = b then s
  else
    let s1 := { s with dbg := { s.dbg with boundary := b } }
    (List.finRange 16).foldl (fun s i => if b then portDark s i else portLit s i) s1

/-- Make an instruction current. -/
def setIr (s : State) (ir : Byte) (boundary : Bool) : State :=
  setBoundary (s.rmod .dbgJtagStatus 0 0 fun v => setBits v 0 8 ir.toNat) boundary

/-- The bits of a scan, lowest first. -/
def bitList {w : Nat} (x : BitVec w) : List Bool := (List.range w).map fun i => x.getLsbD i

/-! ## Instructions that are always served -/

/-- IDCODE: stepping, 0x9640, 0x2B5 and 1. -/
def idcode (s : State) : W32 :=
  BitVec.ofNat 32 (bitsN (s.rget .glbId 0 0) 0 4 * 2 ^ 28 + 0x9640 * 2 ^ 12 + 0x2B5 * 2 + 1)

/-- TAP_RESET: Test-Logic-Reset selects IDCODE. -/
def execTapReset (s : State) : Result := answer s (if tapUp s then setIr s 0x01 false else s)

/-- IDCODE. -/
def execJtagIdcode (s : State) : Result :=
  answer s (if tapUp s then emit (setIr s 0x01 false) (.jtag 0x01 (bitList (idcode s))) else s)

/-! ## The boundary register -/

/-- What Capture-DR reads of the pins: levels from outside the model, one for each cell. -/
def captured (draw : Nat) : List Bool := (List.range boundaryLen).map fun i => (Config.pinLevels draw).getD i false

/-- The levels of the cells that drive a pin. -/
def drivenLevels (cells : List Bool) : List Bool :=
  (boundaryCells.zip cells).filterMap fun x => if x.1.drives then some x.2 else none

/-- A scan of the boundary register: the captured levels go out, and Update-DR loads what has come in. -/
def scanBoundary (s : State) (ir : Byte) (cells : List Bool) : State :=
  emit { s with free := s.free + 1, dbg := { s.dbg with cells := cells } } (.jtag ir (captured s.free))

/-- SAMPLE/PRELOAD: the pins are read and the boundary register is loaded; it drives nothing. -/
def execJtagSample (cells : List Bool) (s : State) : Result :=
  answer s (if tapUp s then scanBoundary (setIr s 0x02 false) 0x02 cells else s)

/-- BYPASS, and the opcodes that act as it: one bit, 0. -/
def execJtagBypass (opcode : Byte) (s : State) : Result :=
  answer s (if tapUp s then emit (setIr s opcode false) (.jtag opcode [false]) else s)

/-! ## Boundary tests -/

/-- The conditions of R459: PERST_N is asserted and no core is RUNNING, DRAINING or STOPPING. -/
def boundaryOk (s : State) : Bool :=
  s.power.perst && s.cores.toList.all fun c => decide (c.runstate ∉ ([2, 3, 4] : List (BitVec 3)))

/-- BYPASS in place of a boundary test. -/
def boundaryRefuse (s : State) : State := setIr (s.rmod .dbgJtagStatus 0 0 fun v => setBit v 8 true) 0xFF false

/-- A boundary test that may begin: the instruction is current, and the pins are driven to the given levels. -/
def boundaryTest (ir : Byte) (levels : List Bool) (next : State → State) (s : State) : Result :=
  answer s (
    if !tapUp s then s
    else if boundaryOk s then next (emit (setIr s ir true) (.pins levels))
    else boundaryRefuse s)

/-- EXTEST and its AC forms: the cells drive the pins, a scan reads them and brings in new levels, and those drive the pins from Update-DR
on. -/
def externTest (ir : Byte) (cells : List Bool) (s : State) : Result :=
  boundaryTest ir (drivenLevels s.dbg.cells) (fun s => emit (scanBoundary s ir cells) (.pins (drivenLevels cells))) s

/-- CLAMP and HIGHZ select the bypass register. -/
def bypassTest (ir : Byte) (levels : List Bool) (s : State) : Result :=
  boundaryTest ir levels (fun s => emit s (.jtag ir [false])) s

def execJtagExtest (cells : List Bool) (s : State) : Result := externTest 0x03 cells s
def execJtagClamp (s : State) : Result := bypassTest 0x04 (drivenLevels s.dbg.cells) s
def execJtagHighz (s : State) : Result := bypassTest 0x05 [] s
def execJtagExtestPulse (cells : List Bool) (s : State) : Result := externTest 0x06 cells s
def execJtagExtestTrain (cells : List Bool) (s : State) : Result := externTest 0x07 cells s

/-! ## DBG_ACCESS -/

/-- Whether a read of BAR0 through the TAP fails: an offset that is unaligned or unassigned, or a stopped block. -/
def dbgError (s : State) (off : Nat) : Bool := (portRefusal s off 8).isSome

/-- The DBG_ACCESS register after a read: VALUE, DONE, ERROR and the offset. -/
def dbgWord (v : W64) (error : Bool) (off : BitVec 26) : BitVec 96 :=
  v ++ (1 : BitVec 1) ++ (BitVec.ofBool error) ++ (0 : BitVec 4) ++ off

/-- DBG_ACCESS: an 8-byte read of BAR0 that changes nothing; where debug access is closed or D23 stands still, BYPASS. -/
def execJtagDbgAccess (off : BitVec 26) (s : State) : Result :=
  answer s (
    if !tapUp s then s
    else if !debugOpen s || !domOn s 23 then emit (setIr s 0xFF false) (.jtag 0xFF [false])
    else
      let err := dbgError s off.toNat
      let r := if err then (0, s) else read8 s off.toNat
      let w := dbgWord r.1 err off
      let s1 := setIr r.2 0x40 false
      emit { s1 with dbg := { s1.dbg with access := w } } (.jtag 0x40 (bitList w)))

end Sys2Proof.Machine
end

