-- ==== Sys2Proof/Machine/Pins.lean ====
section
/-!
DEFINITION. Sys2Proof/Machine/Pins.lean: the group that the observation pins show (R456), and the pins themselves, which no command
reads.
-/
namespace Sys2Proof.Machine

/-- The engines whose cause group 4 shows, with the places of their fields. -/
def causeFields : List (Engine × Nat) := [(.me, 0), (.ve, 3), (.ce, 6), (.cp, 9), (.sf, 12)]

/-- Group 3. -/
def obsCore (s : State) (p : Fin 72) (draw : Nat) : W64 :=
  let c := s.core p
  packN ((c.runstate.toNat, 0) :: (b2n (Config.freeChoice draw), 9) ::
    (List.range 6).map fun e => (b2n (!(vAt c.queues [] e).isEmpty), 3 + e))

/-- Group 4. -/
def obsCauses (s : State) (p : Fin 72) (draw : Nat) : W64 :=
  packN ((b2n (Config.freeChoice draw), 15) ::
    causeFields.map fun e => (pickCause draw (unitCauses s p e.1), e.2))

/-- Group 5. -/
def obsPort (s : State) (i : Fin 16) (draw : Nat) : W64 :=
  let x := portOf s i
  packN ([(x.state.toNat, 0), (widthCode (lanesUsed x), 3), (b2n x.nak, 5), (b2n (!x.resend.isEmpty), 6),
    (b2n (Config.freeChoice (draw + 1)), 11)] ++ (List.range 4).map fun v => (b2n (creditWait x v), 7 + v))

/-- Group 6. -/
def obsColl (s : State) (draw : Nat) : W64 :=
  let full := match s.col.plan, s.col.cur with
    | some p, some x => decide (x.bitmap.length = p.nb)
    | _, _ => false
  let parked := s.col.shards.any fun x => x.chunks.any fun c => !c.parked.isEmpty
  packN [(((s.col.cur.map (·.code)).getD 0) % 16, 0), (b2n parked, 4), (b2n (Config.freeChoice draw), 5), (b2n full, 6)]

/-- The group that the pins show: a refused selection shows group 0. -/
def obsGroup (s : State) : Nat :=
  let sel := s.rget .dbgObsSel 0 0
  if bitB sel 31 || !obsOk s (bitsN sel 0 8) (bitsN sel 8 8) then 0 else bitsN sel 0 8

/-- That group as a sample of the present clock; what only a clock's timing decides, bit 26 of CLK_RUNNING and DEGRADED where the far end
decides it are free values (log 50, log 127). -/
def obsPins (s : State) (draw : Nat) : BitVec 16 :=
  let i := bitsN (s.rget .dbgObsSel 0 0) 8 8
  let shown (r : RegName) : W64 := openMerge s r draw (readMgmt s r 0)
  let cap := s.rget .pwrCapStatus 0 0
  let v : W64 := match obsGroup s with
    | 1 => BitVec.ofNat 64 (bitsN (shown .clkRunning) (16 * i) 16)
    | 2 => packN [(pwrState s, 0), (bitsN cap 0 6, 3), (bitsN cap 8 3, 9), (b2n (!s.power.droop.isEmpty), 12)]
    | 3 => obsCore s (Fin.ofNat 72 i) draw
    | 4 => obsCauses s (Fin.ofNat 72 i) draw
    | 5 => obsPort s (Fin.ofNat 16 i) draw
    | 6 => obsColl s draw
    | 7 => packN [(bitsN (shown .mgtTimeStatus) 0 3, 0), (b2n (bitB s.timeNs 10), 3)]
    | _ => 0
  v.extractLsb' 0 16

/-- The pins in a clock: OBS_D takes a sample where one falls in it, a free choice, and keeps its value where D23 is stopped. What a stopped
domain shows is its state as it last was, which stands still (R456). -/
def obsClock (s : State) : State :=
  let take := Config.freeChoice s.free && domOn s 23
  { s with free := s.free + 3, dbg := { s.dbg with obs := if take then obsPins s (s.free + 1) else s.dbg.obs } }

end Sys2Proof.Machine
end

