-- ==== Sys2Proof/Machine/FrontEnd.lean ====
section
/-!
DEFINITION. Sys2Proof/Machine/FrontEnd.lean: the front ends of the cores in the idle clock: the word at the program counter is fetched,
decoded and issued (R27 to R29, R46, R56, R57, R59), and the clock itself.

An instruction that a program has stored reaches issue here; the rows of the instruction set are the same meanings for a sender that names
the instruction itself (log 2).
-/
namespace Sys2Proof.Machine

/-- The state that a meaning answers. -/
def nextOf (r : Result) (s : State) : State :=
  match r with
  | .next t => t
  | _ => s

/-- The instruction of a decoded word reaches issue: control flow in the front end, everything else at its queue. -/
def issueRow (op : CoreOp) (args : Args) (k : Ctl) (s : State) : Result :=
  match op, args with
  | .nop, .s o => execNop k o s
  | .b, .s o => execB k o s
  | .bcc, .s o => execBcc k o s
  | .call, .s o => execCall k o s
  | .ret, .s o => execRet k o s
  | .loop, .s o => execLoop k o s
  | .loopi, .s o => execLoopi k o s
  | .halt, .s o => execHalt k o s
  | op, args => issue op args k s

/-- E_CORE_OPCODE for a word whose GROUP is reserved or whose FUNC is not defined: bits [79:70] (R59). -/
def wordFlt (w : BitVec 128) : Flt := ⟨0x0101, (w.extractLsb' 70 10).zeroExtend 32⟩

/-- A word reaches issue. -/
def issueWord (p : Fin 72) (k : Fin 6) (w : BitVec 128) (s : State) : Result :=
  match wordOp w with
  | none => answer s (withLine p k (s.modCore p Core.loaded) fun s1 => frontFault s1 p k (wordFlt w))
  | some op => issueRow op (wordArgs w op) { core := p, stream := k, sync := w.extractLsb' 80 48 } s

/-- One stream in one clock: its line is filled, or its instruction issues. -/
def frontStream (p : Fin 72) (s : State) (k : Fin 6) : State :=
  let c := s.core p
  if !canIssue c k then s
  else if hasLine c k then nextOf (issueWord p k (bufferedWord c k) s) s
  else if (codeBase s p).isSome then nextOf (answer s (withLine p k s id)) s
  else s

/-- The streams that a front end takes in a clock: stream 0 of a native program; at most two of a PL12 program, round-robin from those whose
target queue has space (R27, R46). Control flow has no target queue. -/
def streamsTaken (c : Core) : List (Fin 6) :=
  if c.pl12 then
    (((List.range 6).map fun i => Fin.ofNat 6 (c.rr + i)).filter fun k =>
      canIssue c k && (decide ((vAt c.queues [] k.val).length < 32) || isControl (bufferedWord c k))).take 2
  else [0]

/-- A front end in one clock. Whether it has an issue clock in this one is timing, a free choice (log 2, log 13). -/
def frontEnd (s : State) (p : Fin 72) : State :=
  if (s.core p).runstate = 2 then
    let l := streamsTaken (s.core p)
    let s1 := { s with free := s.free + 1 }
    if Config.freeChoice s.free then
      (l.foldl (frontStream p) s1).modCore p fun c => { c with rr := (l.getLast?.elim c.rr fun k => (k.val + 1) % 6) }
    else s1
  else s

def frontEnds (s : State) : State := if domOn s 0 then (List.finRange 72).foldl frontEnd s else s

/-- What time alone does in a clock: counters whose instant has come are captured and cleared, the front ends issue, the counters of clocks
count, the ports send, the observation pins take a sample, the time counter advances. A summary bit that rises requests its messages (R398);
a meaning that issues has requested its own. -/
def clockTick (s : State) : State :=
  let s1 := pmcStep s
  let s2 := frontEnds s1
  summaryRise s2 (tick (obsClock (fabricClock (countClocks s1 s2))))

end Sys2Proof.Machine
end

