-- ==== Sys2Proof/Machine/PowerEvents.lean ====
section
/-!
DEFINITION. Sys2Proof/Machine/PowerEvents.lean: the power-on sequence (R402, R418, R468 to R470), entry to and exit from
SLEEP and DEEP (R408, R409), the power intake and the junction (R412 to R416), and the loss and return of clock sources
(R405, R422).
-/
namespace Sys2Proof.Machine

/-! ## OFF, power-on and the sequence of R418 -/

/-- POWER_ON: the input has reached 46.5 V with PWR_EN high; the straps are sampled (R402, R468). -/
def execPowerOn (oscDly i3cSa : BitVec 3) (s : State) : Result :=
  answer s (if s.power.off && !s.power.offReq then powerOnReset s oscDly i3cSa else s)

/-- The state while a source is lost (R405 steps 1 to 4). -/
def waitForSource (s : State) (code : Nat) : State :=
  let s1 := logPwr (forceSafe s) 0x0B04 (BitVec.ofNat 32 code)
  let s2 := { s1 with power := { s1.power with lost := nsetAdd s1.power.lost code } }
  if code = 0 then
    let s3 := setTimeBit s2 0 false
    { s3 with mgmt := { s3.mgmt with good := 0 } }
  else s2

/-- OSC_DELAY_EXPIRE: step 3 of R418: the local reference is checked; where it is not stable the module waits for it (R402,
R405). Then the Curator boots. -/
def execOscDelayExpire (localOk refclk : Bool) (s : State) : Result :=
  answer s (
    if !s.power.off && decide (pwrState s = 1 ∧ s.power.phase = 1) then
      let s1 := { s with power := { s.power with localOk := localOk, refclk := refclk } }
      if localOk then curatorBoot s1 else setPwrState (waitForSource s1 0) 7
    else s)

/-- COMPUTE_READY: the memory is initialised and zeroed; rings may be enabled, and the annex is ready (DEDUCED, log 59). -/
def execComputeReady (s : State) : Result :=
  answer s (
    if !s.power.off && decide (pwrState s = 1 ∧ s.power.phase = 3) then
      let s1 := setMemStates (setPwrState s 2) 1
      let s2 := (s1.rmod .glbStatus 0 0 fun v => setBit v 0 true).rmod .rasStatus 0 0 fun v => setBit v 0 true
      { s2 with power := { s2.power with phase := 4 } }
    else s)

/-- PWR_EN_FALL (R469): OFF; in OFF after a request of OFF it allows the next power-on. -/
def execPwrEnFall (s : State) : Result :=
  answer s (
    let s1 := if s.power.off then s else enterOff s
    { s1 with power := { s1.power with offReq := false } })

/-- ALWAYS_ON_LOSS (R470): the input is below 36 V. -/
def execAlwaysOnLoss (s : State) : Result := answer s (if s.power.off then s else enterOff s)

/-! ## SLEEP and DEEP (R408, R409) -/

/-- Controllers that leave one state for another. -/
def moveMemStates (s : State) (a b : Nat) : State :=
  (List.range 48).foldl (fun s k => if memState s k = a then setMemState s k b else s) s

/-- The controllers hold no request and no requester a tag (R276, R282). -/
def drained (s : State) : Bool :=
  s.col.reqs.isEmpty && s.col.accq.isEmpty && s.host.reqs.isEmpty

/-- POWER_STATE_ENTERED: the steps of R408 are done, once every request is complete and every tag returned (R276, R282). -/
def execPowerStateEntered (s : State) : Result :=
  answer s (
    match s.power.target with
    | none => s
    | some t =>
      if !drained s then s
      else
      let s1 := breakSnapshot (dropCaches s)
      let s2 := sleepPorts (moveMemStates s1 1 2) (decide (t = 4))
      let s3 := setPwrState s2 t.toNat
      { s3 with power := { s3.power with target := none } })

/-- The exit is over: memory leaves self-refresh, what step 4 names is cleared, the state reads RUN, and held accesses are
applied in their order. -/
def finishWake (s : State) (code : BitVec 4) : State :=
  let s1 := clearCores (moveMemStates s 2 1)
  let s2 := (setPwrState s1 2).rmod .pwrState 0 0 fun v => setBits v 4 4 code.toNat
  applyAllHeld { s2 with power := { s2.power with wake := none } }

/-- WAKE_COMPLETE: while a source is lost the exit waits; after a loss a warm reset takes the place of step 4; one that was asked for in
SLEEP or DEEP follows the exit (R422). -/
def execWakeComplete (s : State) : Result :=
  answer s (
    match s.power.wake with
    | none => s
    | some code =>
      if s.power.target.isSome || !decide (pwrState s = 3 ∨ pwrState s = 4) || !s.power.lost.isEmpty then s
      else if s.power.lossAfter then warmReset (s.rmod .pwrState 0 0 fun v => setBits v 4 4 code.toNat)
      else if s.power.warmAfter then warmReset (finishWake s code)
      else finishWake s code)

/-! ## The power intake (R412, R413, R415) -/

/-- The intake is watched while the hot-swap output is on. -/
def intakeOn (s : State) : Bool := !s.power.off

/-- E_PWR_UV_WARN. -/
def execUvWarn (mV : Nat) (s : State) : Result :=
  answer s (
    if intakeOn s && decide (mV < 48000) then
      logPwr ((s.rcountSat .pwrEventCount 0 0 16 16 1).report 8 1) 0x0B05 (BitVec.ofNat 32 mV)
    else s)

def execUndervolt (mV : Nat) (s : State) : Result :=
  answer s (if intakeOn s && decide (mV < 44000) then enterFault s 0x0B01 mV else s)

/-- The detail of E_PWR_RAIL: rail, and 0 under, 1 over, 2 current. -/
def railDetail (rail kind : Nat) : Nat := rail % 16 + kind % 4 * 16

def execInputOvervoltage (s : State) : Result := answer s (if intakeOn s then enterFault s 0x0B02 (railDetail 0 1) else s)
def execInputOvercurrent (s : State) : Result := answer s (if intakeOn s then enterFault s 0x0B02 (railDetail 0 2) else s)

/-- E_PWR_RAIL of rails 1 to 8. -/
def execRailFault (rail kind : Nat) (s : State) : Result :=
  answer s (
    if intakeOn s && decide (1 ≤ rail ∧ rail ≤ 8 ∧ kind ≤ 2) then enterFault s 0x0B02 (railDetail rail kind) else s)

/-- The core rail is up. -/
def coreRailOn (s : State) : Bool := decide (pwrState s = 2) || decide (pwrState s = 1 ∧ s.power.phase = 3)

/-- E_PWR_DROOP: an episode of a region begins. -/
def execDroop (region : Fin 16) (s : State) : Result :=
  answer s (
    if intakeOn s && coreRailOn s && !s.power.droop.contains region.val then
      let s1 := logPwr ((s.rcountSat .pwrEventCount 0 0 0 16 1).report 7 1) 0x0B06 (BitVec.ofNat 32 region.val)
      { s1 with power := { s1.power with droop := nsetAdd s1.power.droop region.val } }
    else s)

/-- DROOP_RECOVERY. -/
def execDroopRecovery (region : Fin 16) (s : State) : Result :=
  answer s { s with power := { s.power with droop := s.power.droop.filter (· ≠ region.val) } }

/-! ## The junction (R416) -/

/-- JUNCTION_SAMPLE: TJ_MAX is the highest reading; a second consecutive one at or above 110 °C from one sensor trips. -/
def execJunctionSample (t : Vector Byte 16) (s : State) : Result :=
  answer s (
    if domOn s 23 then
      let top := t.toList.foldl (fun a x => if a.toNat < x.toNat then x else a) (0 : Byte)
      let hot := (List.range 16).filter fun i => decide (110 ≤ (vAt t 0 i).toNat)
      let s1 := s.rmod .pwrTherm 0 0 fun v => setBits v 0 8 top.toNat
      let peak := if s.ras.tjPeak.toNat < top.toNat then top else s.ras.tjPeak
      let s2 := { s1 with power := { s1.power with hot := hot }, ras := { s1.ras with tjPeak := peak } }
      match hot.find? fun i => s.power.hot.contains i with
      | some i => enterFault s2 0x0B03 (i + (vAt t 0 i).toNat * 256)
      | none => s2
    else s)

/-! ## The cap controller (R414) -/

def clampTo (lo hi x : Nat) : Nat := max lo (min hi x)

def peakLimit (s : State) : Nat := clampTo 400 1900 (bitsN (s.rget .pwrCap 0 0) 16 16)
def sustLimit (s : State) : Nat := clampTo 400 1600 (bitsN (s.rget .pwrCap 0 0) 0 16)
def throttleAt (s : State) : Nat := clampTo 85 105 (bitsN (s.rget .pwrTherm 0 0) 8 8)
def tooHot (s : State) : Bool := decide (throttleAt s ≤ bitsN (s.rget .pwrTherm 0 0) 0 8)

/-- CAP_CHECK: the 10 ms and 1 s averages and the junction against their limits. -/
def execCapCheck (peakW sustW : Nat) (s : State) : Result :=
  answer s (
    if domOn s 23 then
      let pk := decide (peakLimit s < peakW)
      let su := decide (sustLimit s < sustW)
      let th := tooHot s
      let why := b2n su + 2 * b2n pk + 4 * b2n th
      if why = 0 then s.rmod .pwrCapStatus 0 0 fun v => setBits v 8 3 0
      else
        let d := max 4 (duty s - 1)
        let s1 := s.rmod .pwrCapStatus 0 0 fun v => setBits (setBits v 0 6 d) 8 3 why
        let s2 := if th && !bitB (s.rget .pwrCapStatus 0 0) 10 then s1.rcountSat .pwrEventCount 0 0 48 16 1 else s1
        if duty s = 32 then
          logPwr ((s2.rcountSat .pwrEventCount 0 0 32 16 1).report 8 1) 0x0B07 (BitVec.ofNat 32 why)
        else s2
    else s)

/-- DUTY_RAISE: both averages below 97 % of their limits and the junction cooler than the throttle temperature. -/
def execDutyRaise (peakW sustW : Nat) (s : State) : Result :=
  answer s (
    if domOn s 23 && decide (100 * peakW < 97 * peakLimit s ∧ 100 * sustW < 97 * sustLimit s) && !tooHot s then
      s.rmod .pwrCapStatus 0 0 fun v => setBits (setBits v 0 6 (min 32 (duty s + 1))) 8 3 0
    else s)

/-! ## Loss and return of a clock source (R405, R422) -/

/-- Whether the monitor watches a source: 0 local reference, 1 PCIE_REFCLK, 2 to 9 PA, PB, PC, PP, PF, PM, PT, PN. -/
def watched (s : State) (k : Nat) : Bool :=
  let up : List Nat := match pwrState s with
    | 1 => match s.power.phase with
      | 2 => [0, 1, 5, 7, 8]
      | 3 => [0, 1, 2, 3, 4, 5, 6, 7, 8, 9]
      | 5 => [0, 7, 8]
      | _ => []
    | 2 | 3 | 7 => [0, 1, 2, 3, 4, 5, 6, 7, 8, 9]
    | 4 | 5 => [0, 7, 8]
    | 6 => [0, 1, 5, 7, 8]
    | _ => []
  up.contains k && (decide (k ≠ 1) || (!s.power.perst && !s.power.d3hot)) &&
    (decide (k ≠ 6) || decide (syntSource s ≤ 1))

/-- E_CLK_SRC_LOST: safe outputs, the clocks stop, the code is logged and the module waits; in SLEEP and DEEP the state stays and the exit
will wait (R422), and FAULT, which REQ = RUN leaves, stays too (DEDUCED, log 60). -/
def execClkSrcLost (source : Fin 10) (s : State) : Result :=
  answer s (
    if !s.power.off && watched s source.val && !s.power.lost.contains source.val then
      let s1 := waitForSource s source.val
      if pwrState s = 5 then s1
      else if pwrState s = 3 ∨ pwrState s = 4 then { s1 with power := { s1.power with lossAfter := true } }
      else
        let s2 := setPwrState s1 7
        { s2 with power := { s2.power with target := none, wake := none } }
    else s)

/-- The wait of R405 is over: a warm reset; a cold start goes on where it waited (DEDUCED, log 60). -/
def sourcesBack (s : State) : State :=
  let s0 := { s with power := { s.power with lost := [], localOk := true, refclk := s.power.refclk || s.power.lost.contains 1 } }
  match s.power.phase with
  | 1 => curatorBoot (setPwrState s0 1)
  | 2 | 5 =>
    let s1 := setPwrState s0 1
    { s1 with power := { s1.power with safe := false } }
  | _ => warmReset s0

/-- CLOCK_SOURCE_RETURN: every lost source has been present for 1 ms and every PLL has relocked; or D06 has a source again and
the ports train (R343). -/
def execClockSourceReturn (s : State) : Result :=
  answer s (
    if !s.power.lost.isEmpty then
      if pwrState s = 7 then sourcesBack s
      else { s with power := { s.power with lost := [], refclk := s.power.refclk || s.power.lost.contains 1 } }
    else if s.fab.d06Dead then
      retrainPorts { s with fab := { s.fab with d06Dead := false } }
    else s)

end Sys2Proof.Machine
end

