-- ==== Sys2Proof/Machine/Release.lean ====
section
/-!
DEFINITION. Sys2Proof/Machine/Release.lean: what ends a wait of accesses: the end of a handover's wipe (R227) and the return of the memory
clock (R278).  What met the bank or the controller is served then.
-/
namespace Sys2Proof.Machine

/-- No head of a core waits for an access any more. -/
def Core.unheld (c : Core) : Core := { c with queues := c.queues.map fun l => l.map fun e => { e with held := false } }

/-- Everything that waited is tried again: heads of queues, host accesses, register writes. What meets another wait goes on waiting. -/
def releaseHolds (s : State) : State :=
  let s1 := { s with cores := s.cores.map Core.unheld }
  let s2 := (List.finRange 72).foldl (fun s p => if coreWorks s p then pumpQueues p s else s) s1
  let s3 := if sleeping s2 then s2 else applyAllHeld s2
  if s3.cur.wipe.isSome then s3 else releaseWrites s3

/-- HANDOVER_WIPE_DONE: PENDING clears (R227). -/
def execHandoverWipeDone (n : Fin 64) (s : State) : Result :=
  answer s (
    if bitB (s.rget .vtrOwn 0 n.val) 30 then releaseHolds (s.rmod .vtrOwn 0 n.val fun v => setBit v 30 false)
    else s)

/-- MEM_CLOCK_RETURN: catch-up refresh, and LOST after an outage of more than 4 ms (R278). -/
def execMemClockReturn (long : Bool) (s : State) : Result :=
  answer s (
    if s.power.memClk then s
    else
      let s1 := { s with power := { s.power with memClk := true } }
      releaseHolds (if long then (List.range 48).foldl loseController s1 else s1))

end Sys2Proof.Machine
end

