-- ==== Sys2Proof/Machine/Dispatch.lean ====
section
/-!
DEFINITION. Sys2Proof/Machine/Dispatch.lean: one arm per command, each one direct call of its meaning.
-/
namespace Sys2Proof.Machine

def exec (i : Instr) (s : State) : Host.Outcome State Fault Refusal :=
  match i with
  | .nop k o => Sys2Proof.Machine.execNop k o s
  | .b k o => Sys2Proof.Machine.execB k o s
  | .bcc k o => Sys2Proof.Machine.execBcc k o s
  | .call k o => Sys2Proof.Machine.execCall k o s
  | .ret k o => Sys2Proof.Machine.execRet k o s
  | .loop k o => Sys2Proof.Machine.execLoop k o s
  | .loopi k o => Sys2Proof.Machine.execLoopi k o s
  | .halt k o => Sys2Proof.Machine.execHalt k o s
  | .engineNop k g => Sys2Proof.Machine.execEngineNop k g s
  | .sadd k o => Sys2Proof.Machine.execSadd k o s
  | .ssub k o => Sys2Proof.Machine.execSsub k o s
  | .smul k o => Sys2Proof.Machine.execSmul k o s
  | .sand k o => Sys2Proof.Machine.execSand k o s
  | .sor k o => Sys2Proof.Machine.execSor k o s
  | .sxor k o => Sys2Proof.Machine.execSxor k o s
  | .sshl k o => Sys2Proof.Machine.execSshl k o s
  | .sshr k o => Sys2Proof.Machine.execSshr k o s
  | .ssra k o => Sys2Proof.Machine.execSsra k o s
  | .smin k o => Sys2Proof.Machine.execSmin k o s
  | .smax k o => Sys2Proof.Machine.execSmax k o s
  | .scmp k o => Sys2Proof.Machine.execScmp k o s
  | .smovi k o => Sys2Proof.Machine.execSmovi k o s
  | .smovhi k o => Sys2Proof.Machine.execSmovhi k o s
  | .saddi k o => Sys2Proof.Machine.execSaddi k o s
  | .sfadd k o => Sys2Proof.Machine.execSfadd k o s
  | .sfmul k o => Sys2Proof.Machine.execSfmul k o s
  | .sffma k o => Sys2Proof.Machine.execSffma k o s
  | .sfmin k o => Sys2Proof.Machine.execSfmin k o s
  | .sfmax k o => Sys2Proof.Machine.execSfmax k o s
  | .sfcvt k o => Sys2Proof.Machine.execSfcvt k o s
  | .sld k o => Sys2Proof.Machine.execSld k o s
  | .sst k o => Sys2Proof.Machine.execSst k o s
  | .sflag k o => Sys2Proof.Machine.execSflag k o s
  | .skadd k o => Sys2Proof.Machine.execSkadd k o s
  | .skrd k o => Sys2Proof.Machine.execSkrd k o s
  | .sid k o => Sys2Proof.Machine.execSid k o s
  | .sstat k o => Sys2Proof.Machine.execSstat k o s
  | .svget k o => Sys2Proof.Machine.execSvget k o s
  | .mloads k o => Sys2Proof.Machine.execMloads k o s
  | .mswap k o => Sys2Proof.Machine.execMswap k o s
  | .mprod k o => Sys2Proof.Machine.execMprod k o s
  | .msegt k o => Sys2Proof.Machine.execMsegt k o s
  | .mcsum k o => Sys2Proof.Machine.execMcsum k o s
  | .mabclr k o => Sys2Proof.Machine.execMabclr k o s
  | .vadd k o => Sys2Proof.Machine.execVadd k o s
  | .vsub k o => Sys2Proof.Machine.execVsub k o s
  | .vmul k o => Sys2Proof.Machine.execVmul k o s
  | .vfma k o => Sys2Proof.Machine.execVfma k o s
  | .vfms k o => Sys2Proof.Machine.execVfms k o s
  | .vmin k o => Sys2Proof.Machine.execVmin k o s
  | .vmax k o => Sys2Proof.Machine.execVmax k o s
  | .vabs k o => Sys2Proof.Machine.execVabs k o s
  | .vneg k o => Sys2Proof.Machine.execVneg k o s
  | .vcmp k o => Sys2Proof.Machine.execVcmp k o s
  | .vsel k o => Sys2Proof.Machine.execVsel k o s
  | .vand k o => Sys2Proof.Machine.execVand k o s
  | .vor k o => Sys2Proof.Machine.execVor k o s
  | .vxor k o => Sys2Proof.Machine.execVxor k o s
  | .vshl k o => Sys2Proof.Machine.execVshl k o s
  | .vshr k o => Sys2Proof.Machine.execVshr k o s
  | .vmov k o => Sys2Proof.Machine.execVmov k o s
  | .vcvt k o => Sys2Proof.Machine.execVcvt k o s
  | .vrng k o => Sys2Proof.Machine.execVrng k o s
  | .sparsify k o => Sys2Proof.Machine.execSparsify k o s
  | .vld k o => Sys2Proof.Machine.execVld k o s
  | .vst k o => Sys2Proof.Machine.execVst k o s
  | .vldw k o => Sys2Proof.Machine.execVldw k o s
  | .vldab k o => Sys2Proof.Machine.execVldab k o s
  | .vstab k o => Sys2Proof.Machine.execVstab k o s
  | .vperm k o => Sys2Proof.Machine.execVperm k o s
  | .vslide k o => Sys2Proof.Machine.execVslide k o s
  | .vbcast k o => Sys2Proof.Machine.execVbcast k o s
  | .vred k o => Sys2Proof.Machine.execVred k o s
  | .vscan k o => Sys2Proof.Machine.execVscan k o s
  | .vseq k o => Sys2Proof.Machine.execVseq k o s
  | .vlut k o => Sys2Proof.Machine.execVlut k o s
  | .twr k o => Sys2Proof.Machine.execTwr k o s
  | .tswap k o => Sys2Proof.Machine.execTswap k o s
  | .vchld k o => Sys2Proof.Machine.execVchld k o s
  | .vzmap k o => Sys2Proof.Machine.execVzmap k o s
  | .vcsr k o => Sys2Proof.Machine.execVcsr k o s
  | .vmset k o => Sys2Proof.Machine.execVmset k o s
  | .ffun k o => Sys2Proof.Machine.execFfun k o s
  | .fstat k o => Sys2Proof.Machine.execFstat k o s
  | .fstrd k o => Sys2Proof.Machine.execFstrd k o s
  | .fstclr k o => Sys2Proof.Machine.execFstclr k o s
  | .ccopy k o => Sys2Proof.Machine.execCcopy k o s
  | .ctrans k o => Sys2Proof.Machine.execCtrans k o s
  | .cfill k o => Sys2Proof.Machine.execCfill k o s
  | .cabout k o => Sys2Proof.Machine.execCabout k o s
  | .cpbkt k o => Sys2Proof.Machine.execCpbkt k o s
  | .cpsig k o => Sys2Proof.Machine.execCpsig k o s
  | .cpput k o => Sys2Proof.Machine.execCpput k o s
  | .cpacc k o => Sys2Proof.Machine.execCpacc k o s
  | .cpgath k o => Sys2Proof.Machine.execCpgath k o s
  | .chainGroup p => Sys2Proof.Machine.execChainGroup p s
  | .pronkRampDown p => Sys2Proof.Machine.execPronkRampDown p s
  | .pronkGate p => Sys2Proof.Machine.execPronkGate p s
  | .waitSatisfied p g => Sys2Proof.Machine.execWaitSatisfied p g s
  | .instructionRelease p g => Sys2Proof.Machine.execInstructionRelease p g s
  | .instructionComplete p g => Sys2Proof.Machine.execInstructionComplete p g s
  | .waitTimeout p g => Sys2Proof.Machine.execWaitTimeout p g s
  | .coreFinished p => Sys2Proof.Machine.execCoreFinished p s
  | .dispatchStop tag => Sys2Proof.Machine.execDispatchStop tag s
  | .corRetire w v => Sys2Proof.Machine.execCorRetire w v s
  | .retirementTakesEffect => Sys2Proof.Machine.execRetirementTakesEffect s
  | .reseed w p v => Sys2Proof.Machine.execReseed w p v s
  | .reseedAtIdle p => Sys2Proof.Machine.execReseedAtIdle p s
  | .freeRunningStep => Sys2Proof.Machine.execFreeRunningStep s
  | .handover w n v => Sys2Proof.Machine.execHandover w n v s
  | .handoverWipeDone n => Sys2Proof.Machine.execHandoverWipeDone n s
  | .swizzleWrite w n v => Sys2Proof.Machine.execSwizzleWrite w n v s
  | .patrolScrub => Sys2Proof.Machine.execPatrolScrub s
  | .layDtabWrite w v => Sys2Proof.Machine.execLayDtabWrite w v s
  | .ringRegister ring index => Sys2Proof.Machine.execRingRegister ring index s
  | .ringFree ring index => Sys2Proof.Machine.execRingFree ring index s
  | .freeComplete entry => Sys2Proof.Machine.execFreeComplete entry s
  | .descCreate ring index => Sys2Proof.Machine.execDescCreate ring index s
  | .descDestroy ring index => Sys2Proof.Machine.execDescDestroy ring index s
  | .uploadImage ring index => Sys2Proof.Machine.execUploadImage ring index s
  | .runProgram ring index => Sys2Proof.Machine.execRunProgram ring index s
  | .ringCopy ring index => Sys2Proof.Machine.execRingCopy ring index s
  | .copyIn ring index => Sys2Proof.Machine.execCopyIn ring index s
  | .copyOut ring index => Sys2Proof.Machine.execCopyOut ring index s
  | .ringAbort ring index => Sys2Proof.Machine.execRingAbort ring index s
  | .ringNop ring index => Sys2Proof.Machine.execRingNop ring index s
  | .commandDone ring index => Sys2Proof.Machine.execCommandDone ring index s
  | .itrExpire vector => Sys2Proof.Machine.execItrExpire vector s
  | .doorbell off size value poison => Sys2Proof.Machine.execDoorbell off size value poison s
  | .entryFetch ring => Sys2Proof.Machine.execEntryFetch ring s
  | .hostCompletion id d => Sys2Proof.Machine.execHostCompletion id d s
  | .hostTimeout id => Sys2Proof.Machine.execHostTimeout id s
  | .ringEnable w v => Sys2Proof.Machine.execRingEnable w v s
  | .ringDisable w v => Sys2Proof.Machine.execRingDisable w v s
  | .ringDisabled ring => Sys2Proof.Machine.execRingDisabled ring s
  | .bar0Read off size => Sys2Proof.Machine.execBar0Read off size s
  | .configWrite w off size v poison => Sys2Proof.Machine.execConfigWrite w off size v poison s
  | .bar4Read x len => Sys2Proof.Machine.execBar4Read x len s
  | .bar4Write x bytes poison => Sys2Proof.Machine.execBar4Write x bytes poison s
  | .completionTimeoutValueWrite field => Sys2Proof.Machine.execCompletionTimeoutValueWrite field s
  | .flr => Sys2Proof.Machine.execFlr s
  | .tagWaitExpire => Sys2Proof.Machine.execTagWaitExpire s
  | .perstAssert => Sys2Proof.Machine.execPerstAssert s
  | .d3hot => Sys2Proof.Machine.execD3hot s
  | .d0Return => Sys2Proof.Machine.execD0Return s
  | .l1Exit => Sys2Proof.Machine.execL1Exit s
  | .doeDiscovery index => Sys2Proof.Machine.execDoeDiscovery index s
  | .refreshRateUpdate k code limit => Sys2Proof.Machine.execRefreshRateUpdate k code limit s
  | .memClockLost => Sys2Proof.Machine.execMemClockLost s
  | .memClockReturn long => Sys2Proof.Machine.execMemClockReturn long s
  | .reinit w k v => Sys2Proof.Machine.execReinit w k v s
  | .reinitDone k => Sys2Proof.Machine.execReinitDone k s
  | .memRetire w v => Sys2Proof.Machine.execMemRetire w v s
  | .accumulatorOp => Sys2Proof.Machine.execAccumulatorOp s
  | .dataFlit j f rx => Sys2Proof.Machine.execDataFlit j f rx s
  | .nullFlit j f rx => Sys2Proof.Machine.execNullFlit j f rx s
  | .ctrlFlit x hdr rx far => Sys2Proof.Machine.execCtrlFlit x hdr rx far s
  | .nakResend j => Sys2Proof.Machine.execNakResend j s
  | .ackStall j => Sys2Proof.Machine.execAckStall j s
  | .codewordLockLost j => Sys2Proof.Machine.execCodewordLockLost j s
  | .laneFail j lane => Sys2Proof.Machine.execLaneFail j lane s
  | .trainingAttempt j done good => Sys2Proof.Machine.execTrainingAttempt j done good s
  | .retrainTimeout j => Sys2Proof.Machine.execRetrainTimeout j s
  | .downRetry j => Sys2Proof.Machine.execDownRetry j s
  | .portReset w j v => Sys2Proof.Machine.execPortReset w j v s
  | .roleWrite w j v => Sys2Proof.Machine.execRoleWrite w j v s
  | .fill w v => Sys2Proof.Machine.execFill w v s
  | .route j => Sys2Proof.Machine.execRoute j s
  | .write t => Sys2Proof.Machine.execWrite t s
  | .read t => Sys2Proof.Machine.execRead t s
  | .acc t => Sys2Proof.Machine.execAcc t s
  | .signal t => Sys2Proof.Machine.execSignal t s
  | .stepTrailer t => Sys2Proof.Machine.execStepTrailer t s
  | .gatherDone t => Sys2Proof.Machine.execGatherDone t s
  | .loanCommit t => Sys2Proof.Machine.execLoanCommit t s
  | .ack t => Sys2Proof.Machine.execAck t s
  | .readData t => Sys2Proof.Machine.execReadData t s
  | .errorResponse t => Sys2Proof.Machine.execErrorResponse t s
  | .respTimeout tag => Sys2Proof.Machine.execRespTimeout tag s
  | .retryResend => Sys2Proof.Machine.execRetryResend s
  | .colTimeout => Sys2Proof.Machine.execColTimeout s
  | .planLoad w v => Sys2Proof.Machine.execPlanLoad w v s
  | .planUnload w v => Sys2Proof.Machine.execPlanUnload w v s
  | .syntLock offset => Sys2Proof.Machine.execSyntLock offset s
  | .syntLost offset => Sys2Proof.Machine.execSyntLost offset s
  | .syntHoldoverExpire => Sys2Proof.Machine.execSyntHoldoverExpire s
  | .d06SourceLost => Sys2Proof.Machine.execD06SourceLost s
  | .timeExchangeStart => Sys2Proof.Machine.execTimeExchangeStart s
  | .timeReq x hdr rx num => Sys2Proof.Machine.execTimeReq x hdr rx num s
  | .timeResp x hdr rx num t2 t3 => Sys2Proof.Machine.execTimeResp x hdr rx num t2 t3 s
  | .riskUpdate => Sys2Proof.Machine.execRiskUpdate s
  | .snapshotComplete media => Sys2Proof.Machine.execSnapshotComplete media s
  | .annexRestore w v => Sys2Proof.Machine.execAnnexRestore w v s
  | .annexErase w v => Sys2Proof.Machine.execAnnexErase w v s
  | .annexCommandDone bad => Sys2Proof.Machine.execAnnexCommandDone bad s
  | .powerOn oscDly i3cSa => Sys2Proof.Machine.execPowerOn oscDly i3cSa s
  | .oscDelayExpire localOk refclk => Sys2Proof.Machine.execOscDelayExpire localOk refclk s
  | .computeReady => Sys2Proof.Machine.execComputeReady s
  | .pwrEnFall => Sys2Proof.Machine.execPwrEnFall s
  | .reqRun w => Sys2Proof.Machine.execReqRun w s
  | .reqSleep w => Sys2Proof.Machine.execReqSleep w s
  | .reqDeep w => Sys2Proof.Machine.execReqDeep w s
  | .reqOff w => Sys2Proof.Machine.execReqOff w s
  | .powerStateEntered => Sys2Proof.Machine.execPowerStateEntered s
  | .wakeComplete => Sys2Proof.Machine.execWakeComplete s
  | .uvWarn mV => Sys2Proof.Machine.execUvWarn mV s
  | .undervolt mV => Sys2Proof.Machine.execUndervolt mV s
  | .inputOvervoltage => Sys2Proof.Machine.execInputOvervoltage s
  | .inputOvercurrent => Sys2Proof.Machine.execInputOvercurrent s
  | .railFault rail kind => Sys2Proof.Machine.execRailFault rail kind s
  | .junctionSample t => Sys2Proof.Machine.execJunctionSample t s
  | .capCheck peakW sustW => Sys2Proof.Machine.execCapCheck peakW sustW s
  | .dutyRaise peakW sustW => Sys2Proof.Machine.execDutyRaise peakW sustW s
  | .droop region => Sys2Proof.Machine.execDroop region s
  | .clkSrcLost source => Sys2Proof.Machine.execClkSrcLost source s
  | .clockSourceReturn => Sys2Proof.Machine.execClockSourceReturn s
  | .alwaysOnLoss => Sys2Proof.Machine.execAlwaysOnLoss s
  | .warm w => Sys2Proof.Machine.execWarm w s
  | .queueReset w core => Sys2Proof.Machine.execQueueReset w core s
  | .fwRecover w len4k => Sys2Proof.Machine.execFwRecover w len4k s
  | .fwUpdate w len4k => Sys2Proof.Machine.execFwUpdate w len4k s
  | .lifecycle w target => Sys2Proof.Machine.execLifecycle w target s
  | .unretireCore w index => Sys2Proof.Machine.execUnretireCore w index s
  | .unretireCtrl w index => Sys2Proof.Machine.execUnretireCtrl w index s
  | .tamper sensor => Sys2Proof.Machine.execTamper sensor s
  | .wipeDone => Sys2Proof.Machine.execWipeDone s
  | .getVersion ok => Sys2Proof.Machine.execGetVersion ok s
  | .getCapabilities ok => Sys2Proof.Machine.execGetCapabilities ok s
  | .negotiateAlgorithms ok => Sys2Proof.Machine.execNegotiateAlgorithms ok s
  | .getDigests ok => Sys2Proof.Machine.execGetDigests ok s
  | .getCertificate ok slot => Sys2Proof.Machine.execGetCertificate ok slot s
  | .challenge ok slot => Sys2Proof.Machine.execChallenge ok slot s
  | .getMeasurements ok indices signed => Sys2Proof.Machine.execGetMeasurements ok indices signed s
  | .read4 eth num off => Sys2Proof.Machine.execRead4 eth num off s
  | .read8 eth num off => Sys2Proof.Machine.execRead8 eth num off s
  | .write4 eth num off v src => Sys2Proof.Machine.execWrite4 eth num off v src s
  | .write8 eth num off v src => Sys2Proof.Machine.execWrite8 eth num off v src s
  | .readChangeLogRecord eth num seq => Sys2Proof.Machine.execReadChangeLogRecord eth num seq s
  | .mgmtHoldTimeout eth => Sys2Proof.Machine.execMgmtHoldTimeout eth s
  | .enec => Sys2Proof.Machine.execEnec s
  | .disec => Sys2Proof.Machine.execDisec s
  | .rstdaa => Sys2Proof.Machine.execRstdaa s
  | .entdaa addr => Sys2Proof.Machine.execEntdaa addr s
  | .setdasa static addr => Sys2Proof.Machine.execSetdasa static addr s
  | .getpid => Sys2Proof.Machine.execGetpid s
  | .getbcr => Sys2Proof.Machine.execGetbcr s
  | .getdcr => Sys2Proof.Machine.execGetdcr s
  | .getstatus => Sys2Proof.Machine.execGetstatus s
  | .getmxds => Sys2Proof.Machine.execGetmxds s
  | .rstact action => Sys2Proof.Machine.execRstact action s
  | .ptpSync domain source rx t1 => Sys2Proof.Machine.execPtpSync domain source rx t1 s
  | .ptpFollowUp domain source t1 => Sys2Proof.Machine.execPtpFollowUp domain source t1 s
  | .ptpDelayResp domain source t3 t4 => Sys2Proof.Machine.execPtpDelayResp domain source t3 t4 s
  | .ptpAnnounce domain source better => Sys2Proof.Machine.execPtpAnnounce domain source better s
  | .timeHoldover => Sys2Proof.Machine.execTimeHoldover s
  | .timeValidExpire => Sys2Proof.Machine.execTimeValidExpire s
  | .telemetrySnapshot => Sys2Proof.Machine.execTelemetrySnapshot s
  | .errMsgIntervalExpire path => Sys2Proof.Machine.execErrMsgIntervalExpire path s
  | .pmcSnap w v => Sys2Proof.Machine.execPmcSnap w v s
  | .pmcClear w v => Sys2Proof.Machine.execPmcClear w v s
  | .pmcInstant => Sys2Proof.Machine.execPmcInstant s
  | .obsSelect w v => Sys2Proof.Machine.execObsSelect w v s
  | .tapReset => Sys2Proof.Machine.execTapReset s
  | .jtagIdcode => Sys2Proof.Machine.execJtagIdcode s
  | .jtagSample cells => Sys2Proof.Machine.execJtagSample cells s
  | .jtagExtest cells => Sys2Proof.Machine.execJtagExtest cells s
  | .jtagClamp => Sys2Proof.Machine.execJtagClamp s
  | .jtagHighz => Sys2Proof.Machine.execJtagHighz s
  | .jtagExtestPulse cells => Sys2Proof.Machine.execJtagExtestPulse cells s
  | .jtagExtestTrain cells => Sys2Proof.Machine.execJtagExtestTrain cells s
  | .jtagDbgAccess off => Sys2Proof.Machine.execJtagDbgAccess off s
  | .jtagBypass opcode => Sys2Proof.Machine.execJtagBypass opcode s
  | .perstDeassert width rate flit => Sys2Proof.Machine.execPerstDeassert width rate flit s
  | .resizableBarControlWrite sizeLog2 => Sys2Proof.Machine.execResizableBarControlWrite sizeLog2 s
  | .flrComplete => Sys2Proof.Machine.execFlrComplete s
  | .d06SlewComplete => Sys2Proof.Machine.execD06SlewComplete s
  | .droopRecovery region => Sys2Proof.Machine.execDroopRecovery region s
  | .tilwenTestAccess => Sys2Proof.Machine.execTilwenTestAccess s
  | .bootFlashWriteDone readBackOk => Sys2Proof.Machine.execBootFlashWriteDone readBackOk s

end Sys2Proof.Machine
end

