-- ==== Sys2Proof/Safety.lean ====
section
/-!
DEFINITION. Sys2Proof/Safety.lean: what counts as a safe state: the invariants that every command keeps, in the terms that the
statements use.
-/
namespace Sys2Proof.Machine

/-- Main memory and the galleries are in canonical form. -/
def MemCanonical (s : State) : Prop := memWf s.mem = true

/-- The stored registers are in canonical form: no entry equals its register's reset value. -/
def RegsCanonical (s : State) : Prop := smapWf regDefault s.regs = true

/-- Both canonical forms. -/
def Canonical (s : State) : Prop := MemCanonical s ∧ RegsCanonical s

/-- The transitions of the life cycle (R432): 0 BLANK, 1 MANUFACTURE, 2 DEVELOPMENT, 3 PRODUCTION, 4 RETURN, 5 SCRAPPED.
SCRAPPED is reached from every other state. -/
def lcLegal (a b : BitVec 3) : Bool :=
  [((0 : BitVec 3), (1 : BitVec 3)), (1, 2), (1, 3), (2, 3), (3, 4), (4, 3), (4, 1)].contains (a, b) ||
    (decide (a ≠ 5) && decide (b = 5))

/-- A transition that is under way is one of R432. -/
def OpLegal (c : CurState) : Prop := ∀ o, c.lcOp = some o → lcLegal c.lc o.target = true

/-! ## Instructions that issue and start at once -/

/-- The core of a state whose queues are all empty. -/
def QueuesEmpty (c : Core) : Prop := c.queues = Vector.replicate 6 []

/-- Where the front end continues after the instruction at the program counter (R67). -/
def nextOffset (c : Core) (k : Fin 6) : List LoopFrame × Nat := loopEnd (streamOf c k).pc.toNat (streamOf c k).loops

/-- The front end issues from the stream: the instruction buffer holds its line, and no place of the core's state is in error. -/
structure FrontEndReady (k : Ctl) (s : State) : Prop where
  dom : domOn s 0 = true
  can : canIssue (s.core k.core) k.stream = true
  line : hasLine (s.core k.core) k.stream = true
  good : eccFree (s.core k.core) = true
  next : targetOk (s.core k.core) (nextOffset (s.core k.core) k.stream).2 = true

/-- The instruction of an engine issues and its engine starts it at once: its opcode is the engine's, its fields and values
are in range, the scoreboard is clear, the queues are empty, it waits for nothing and its engine holds nothing back
(R25, R27, R31, R44, R59, R61). -/
structure StartsNow (op : CoreOp) (args : Args) (k : Ctl) (g : Engine) (s : State) : Prop extends FrontEndReady k s where
  eng : opEngine op = some g
  stream : (s.core k.core).pl12 = true → k.stream = engIdx g
  sync : syncOk k.sync = true
  form : formOk op args = true
  regs : pl12RegsOk (s.core k.core) (srcsOf op args) k.sync (destOf op args) = true
  vals : valuesOk (entryOf (s.core k.core) op args k) = true
  board : scoreboardHolds (s.core k.core) k.stream (srcsOf op args) k.sync = false
  empty : QueuesEmpty (s.core k.core)
  waits : syWaits k.sync = false
  held : startHeld (s.core k.core) g (entryOf (s.core k.core) op args k) = false

/-- What the entry of an instruction holds at issue (R25, R62). -/
def issuedEntry (op : CoreOp) (args : Args) (k : Ctl) (s : State) : Entry := entryOf (s.core k.core) op args k

/-- The state in which an instruction that issued starts: the core has left LOADING, the program counter is past the instruction, its
sequence number is taken, a TSWAP has exchanged the copies that later instructions name, and its queue is empty again. -/
def atStart (op : CoreOp) (args : Args) (k : Ctl) (g : Engine) (s : State) : State :=
  let c := s.core k.core
  s.modCore k.core fun d => takeHead g [] (setStream (enqueue (Core.loaded d) g (entryOf c op args k)) k.stream
    { streamOf d k.stream with pc := BitVec.ofNat 32 (nextOffset c k.stream).2, loops := (nextOffset c k.stream).1 })

/-- The way from state s to state x met no bank that is being wiped and no controller without a clock (R227, R278). -/
def Unheld (s x : State) : Prop := x.vit.met = s.vit.met

/-- What starting an entry leaves: its effect and the started instruction, or the stop of the core at its fault. -/
def afterStart (p : Fin 72) (g : Engine) (e : Entry) (r : RunOut) : State :=
  match r.fault with
  | some f => coreFault r.st p (engCode g) f e.stream (e.pc.zeroExtend 64)
  | none => r.st.modCore p (inProgress g e r)

/-- Nothing outside core p differs, but the count of the free values that were drawn. -/
def CoreOnly (p : Fin 72) (s t : State) : Prop :=
  t = { s with cores := t.cores, free := t.free } ∧ ∀ q, q ≠ p → t.core q = s.core q

/-- Two cores that differ only in what the issue and the start of an instruction record: the program counters and loops, the end of
LOADING, the sequence number, the copies that later instructions name, the started instructions with what they wrote, and the flags and
counters of the signals that are delivered as it starts. -/
def SameButFront (c d : Core) : Prop :=
  d = { c with streams := d.streams, loading := d.loading, seq := d.seq, issueSel := d.issueSel, inflight := d.inflight,
               outV := d.outV, outAb := d.outAb, outMem := d.outMem, f := d.f, k := d.k }

/-- What an instruction leaves whose engine leaves the module in state x: the instruction is among those started, with the sticky
bits, the inventory uses and the VCSR record that its completion settles, and the requests of a summary rise are out. -/
def RanTo (op : CoreOp) (args : Args) (k : Ctl) (g : Engine) (s x : State) (sticky : Flags) (uses : List Nat)
    (last : Option W64) (t : State) : Prop :=
  t = summaryRise s (x.modCore k.core
    (inProgress g (issuedEntry op args k s) { st := x, sticky := sticky, uses := uses, csrLast := last }))

/-- An instruction of engine g with an effect on its own core alone: what it does to the core at its start, and the sticky bits that
its completion sets. -/
def InCore (i : Instr) (op : CoreOp) (args : Args) (k : Ctl) (g : Engine) (s : State) (f : Core → Core × Flags) : Prop :=
  ∃ t, exec i s = .next t ∧
    RanTo op args k g s ((atStart op args k g s).modCore k.core fun c => (f c).1) (f ((atStart op args k g s).core k.core)).2 [] none t ∧
    CoreOnly k.core s t ∧ SameButFront (f ((atStart op args k g s).core k.core)).1 (t.core k.core)

/-- A control-flow instruction takes its effect: its stream can issue, the buffer holds its line, no place of the core's state is in
error, its sync word is zero, its fields are in range and no register that it reads awaits a write (R25, R27, R59, R60). -/
structure ControlReady (op : CoreOp) (k : Ctl) (o : OpS) (s : State) : Prop where
  dom : domOn s 0 = true
  can : canIssue (s.core k.core) k.stream = true
  line : hasLine (s.core k.core) k.stream = true
  good : eccFree (s.core k.core) = true
  sync : k.sync = 0
  form : formOk op (.s o) = true
  regs : pl12RegsOk (s.core k.core) (srcsOf op (.s o)) 0 none = true
  board : scoreboardHolds (s.core k.core) k.stream (srcsOf op (.s o)) 0 = false

/-- Nothing differs but the stream of the instruction, and that its core no longer reads LOADING. -/
def Moved (k : Ctl) (s : State) (x : Stream) (t : State) : Prop :=
  t = s.modCore k.core fun c => setStream (Core.loaded c) k.stream x

/-- A byte that a core's abandoned instructions or its open bands were writing, so that it is undefined once the core has stopped (R49,
R192). -/
def Abandoned (c : Core) (a : Nat) : Prop :=
  a ∈ c.outMem ∨ (∃ x ∈ coreFlights c, a ∈ x.outMem) ∨ a ∈ (openBands c).flatMap bandBytes

/-- What an instruction leaves whose engine stops on a fault in state x: the core stops with the fault's record (R49). -/
def RanToFault (op : CoreOp) (args : Args) (k : Ctl) (g : Engine) (s x : State) (f : Flt) (t : State) : Prop :=
  t = summaryRise s (coreFault x k.core (engCode g) f k.stream ((issuedEntry op args k s).pc.zeroExtend 64))

/-- Nothing that an access can meet stands in its way: no codeword of memory or of a gallery and no cached line holds an error, no
controller is lost or without a clock, and no bank is being wiped. -/
structure StorageGood (s : State) : Prop where
  mem : s.memErr = []
  gal : s.galErr = []
  lines : ∀ x ∈ s.vit.l2, x.err = none
  l1 : ∀ p, (s.core p).l1Err = []
  ctrl : ∀ a, ctrlLost s a = false
  clock : s.power.memClk = true
  wipe : ∀ n, n < 64 → bitB (s.rget .vtrOwn 0 n) 30 = false

/-- Every line that a core's L1 holds is as main memory has it. -/
def L1Coherent (p : Fin 72) (s : State) : Prop :=
  ∀ e ∈ (s.core p).l1, e.1 % 64 = 0 ∧ e.2 = packLine (readBytes s e.1 64)

/-- The instruction is the youngest that its engine has started, with no sticky bit to set. -/
def Youngest (op : CoreOp) (args : Args) (k : Ctl) (s t : State) : Prop :=
  ∃ x : Inflight, x.e = issuedEntry op args k s ∧ x.sticky = 0 ∧
    ((opEngine op).map (flightOf (t.core k.core))).bind List.getLast? = some x

/-- What a scalar or vector load leaves: its own core with the effect f and another L1, the lines that the L2 holds, the
lines read that DBG_MEM has still to count (R455), and nothing else but the front end's own record. -/
def Loaded (op : CoreOp) (args : Args) (k : Ctl) (s : State) (f : Core → Core) (t : State) : Prop :=
  t = { s with cores := t.cores, free := t.free, vit := { s.vit with l2 := t.vit.l2 }, dbg := { s.dbg with memLag := t.dbg.memLag } } ∧ (∀ q, q ≠ k.core → t.core q = s.core q) ∧
  (∃ l1, SameButFront { f (s.core k.core) with l1 := l1 } (t.core k.core)) ∧
  (∀ a, byteAt t a = byteAt s a) ∧ Youngest op args k s t

/-- What a scalar or vector store of a list of bytes leaves: those bytes at their addresses, its own core with another L1, the lines that
the L2 holds, and nothing else but the front end's own record and the counters of chapter 20. -/
def Stored (op : CoreOp) (args : Args) (k : Ctl) (s : State) (cells : List (Nat × Byte)) (t : State) : Prop :=
  t = { s with cores := t.cores, free := t.free, mem := t.mem, regs := t.regs, vit := { s.vit with l2 := t.vit.l2 } } ∧
  (∀ q, q ≠ k.core → t.core q = s.core q) ∧
  (∃ l1, SameButFront { s.core k.core with l1 := l1 } (t.core k.core)) ∧
  (∀ a, byteAt t a = ((cells.find? fun c => c.1 = a).map (·.2)).getD (byteAt s a)) ∧ Youngest op args k s t

/-! ## Events and configuration writes -/

/-- A command leaves the state x, with the requests of a summary rise out (R398, R442). -/
def Leaves (i : Instr) (s x : State) : Prop := exec i s = .next (summaryRise s x)

/-- A configuration write at an offset is served at once: its block runs, no wipe holds it, its record can be written, and its writer
reaches the block (R13, R293, R411, R418, R427, R438). -/
structure Writable (w : Writer) (off : Nat) (s : State) : Prop where
  runs : blockStopped s off = false
  wipe : s.cur.wipe = none
  log : s.cur.logBad = false
  host : w = .bar0 → hostReaches s = true ∧ barServed s = true ∧ (recoveryWait s = true → recoveryServes off = true)
  port : w = .i3c ∨ w = .eth → domOn s 23 = true

/-- Power-on reset: memory, the caches, the host, the collective engine and debug are at their reset states, every core is at its own and
in the state that the map gives it, and every register but the bank owners and RAS_STATUS reads as after reset; the straps are as sampled;
the one-time and non-volatile records and the annex slots are kept (R11, R22, R402, R417, R418). -/
structure PowerOnFresh (oscDly i3cSa : BitVec 3) (s x : State) : Prop where
  storage : x.mem = [] ∧ x.memErr = [] ∧ x.galErr = [] ∧ x.vit.l2 = []
  blocks : x.host = {} ∧ x.col = {} ∧ x.dbg = {} ∧ x.mgmt = {} ∧ x.fab = State.reset.fab ∧ x.lay.inv = galleryEntries (enabledCount x)
  cores : ∀ p, ∃ n, x.core p = Core.reset n (roleState x.map[p.val].role)
  regs : ∀ a, (∀ n, n < 64 → a ≠ RegName.vtrOwn.at 0 n) → a ≠ RegName.rasStatus.at 0 0 → smapGet regDefault x.regs a = regDefault a
  straps : x.power.oscDly = oscDly ∧ x.power.i3cSa = i3cSa ∧ x.power.off = false ∧ x.power.held = [] ∧ x.timeNs = 0
  kept : x.cur.lc = s.cur.lc ∧ x.cur.svnMin = s.cur.svnMin ∧ x.cur.tampered = s.cur.tampered ∧ x.cur.udsErased = s.cur.udsErased ∧
    x.ras.annex = s.ras.annex

/-- Warm reset: as `PowerOnFresh` for what the compute domains hold; the retirements, the life cycle, the lowest security version, the
time and the fault records are kept, and the annex slots where no snapshot runs (R394, R417, R418). -/
structure WarmFresh (s x : State) : Prop where
  storage : x.mem = [] ∧ x.memErr = [] ∧ x.galErr = [] ∧ x.vit.l2 = []
  blocks : x.host = { paths := x.host.paths } ∧ x.col = {} ∧ x.lay.inv = galleryEntries (enabledCount s)
  cores : ∀ p, ∃ n, x.core p = { Core.reset n (roleState s.map[p.val].role) with frec := (s.core p).frec }
  coreRegs : ∀ a, 0x1000000 ≤ a → a < 0x1480000 → keptByWarm a = false → smapGet regDefault x.regs a = regDefault a
  power : x.power.held = [] ∧ x.power.target = none ∧ x.power.wake = none ∧ x.power.phase = 3 ∧ x.power.off = s.power.off
  kept : x.map = s.map ∧ x.memMap = s.memMap &&& ~~~s.memPend ∧ x.timeNs = s.timeNs ∧ x.cur.lc = s.cur.lc ∧
    x.cur.svnMin = s.cur.svnMin ∧ (s.ras.snap = none → x.ras.annex = s.ras.annex)

/-- The state in which a configuration write takes effect: a held lower half is dropped, and the write is the newest record of
the change log, unless its register is a selector (R15, R16, R436). -/
def recorded (s : State) (w : Writer) (r : RegName) (k n size : Nat) (v : W64) : State :=
  let d := dropWr s w
  let x := regRead d r k n
  if selectorReg r then d
  else logChange x.2 w size (r.at k n) (if size = 8 then x.1 else (lower x.1).zeroExtend 64)
    (if size = 8 then v else (lower v).zeroExtend 64)

end Sys2Proof.Machine
end

