-- ==== Sys2Proof/Certificates/Slice0/Obligations.lean ====
section
/-!
DEFINITION. Sys2Proof/Certificates/Slice0/Obligations.lean: the statements about the machine, with the tables of rows that
they speak about.  A statement whose docstring names a log entry rests there on the model's own choice.
-/
open Sys2Proof Sys2Proof.Machine

/-! ## The machine as a whole -/

/-- A step runs the command at the front of the queue, on the state with the rest of the queue. -/
def Obligations.StepRunsFront : Prop :=
  ∀ (s : State) (c : Instr) (rest : List Instr), s.pending = c :: rest → step s = exec c { s with pending := rest }

/-- On an empty queue a step is one clock (DESIGN CHOICE, log 1): a snapshot or clear whose instant has come acts, the front ends issue,
the counters of clocks count, the ports send, the observation pins take a sample, the time counter advances, and a summary bit that rises
requests its messages (R398). With no core in RUN, no port that sends, no snapshot or clear outstanding and the counters off, nothing moves
but the observation pins and the time counter, by one nanosecond and its correction where its clock domain runs (R443). -/
def Obligations.IdleStepIsClock : Prop :=
  ∀ s : State, s.pending = [] →
    step s = .next (
      let s1 := pmcStep s
      let s2 := frontEnds s1
      summaryRise s2 (tick (obsClock (fabricClock (countClocks s1 s2))))) ∧
    (bitB (s.rget .dbgPmcCtl 0 0) 31 = false → s.dbg.snap = false → s.dbg.clear = false →
      (domOn s 0 = true → ∀ p, (s.core p).runstate ≠ 2) → (domOn s 6 = true → ∀ i, (portOf s i).state ∉ [2, 3, 4, 7]) →
      ∃ t, step s = .next t ∧
        (∃ x f n o, t = { s with timeNs := x, mgmt := { s.mgmt with frac := f }, free := n, dbg := { s.dbg with obs := o } }) ∧
        now96 t = if domOn s 24 then now96 s + BitVec.ofInt 96 (4294967296 + corrOf s) else now96 s)

/-- Power-on reset leaves an empty queue, canonical memory and registers, no life-cycle request under way, the logical cores
idle and the spare ones as spares, and every ring disabled (R11, R22, R51, R418). The core map and the values that the spec
does not state are the model's choices (log 3, log 4). -/
def Obligations.ResetState : Prop :=
  State.reset.pending = [] ∧ Canonical State.reset ∧ OpLegal State.reset.cur ∧
  (∀ p : Fin 72, (State.reset.core p).runstate = if p.val < 64 then 0 else 7) ∧
  (∀ p : Fin 72, (State.reset.core p).frec.valid = false ∧ QueuesEmpty (State.reset.core p)) ∧
  (∀ r, (ringGet State.reset r).state = 0) ∧ State.reset.cur.lcOp = none ∧
  (∀ a, byteAt State.reset a = 0)

/-- Main memory, the galleries and the stored registers keep their canonical form through every step, so that equal contents
are equal data. -/
def Obligations.CanonicalKept : Prop :=
  ∀ s t : State, Canonical s → step s = .next t → Canonical t

/-- A life-cycle state is left only by a transition of R432, in whatever command it ends, and what is under way stays one. -/
def Obligations.LifeCycleKept : Prop :=
  ∀ s t : State, OpLegal s.cur → step s = .next t →
    OpLegal t.cur ∧ (t.cur.lc = s.cur.lc ∨ lcLegal s.cur.lc t.cur.lc = true)

/-- No command lowers the minimum security version or restores the unique device secret, and a tamper is forgotten only when
a RETURN part becomes a MANUFACTURE part. -/
def Obligations.SecurityMonotone : Prop :=
  ∀ s t : State, step s = .next t →
    s.cur.svnMin.toNat ≤ t.cur.svnMin.toNat ∧ (s.cur.udsErased = true → t.cur.udsErased = true) ∧
    (s.cur.tampered.isSome = true → t.cur.tampered.isSome = true ∨ (s.cur.lc = 4 ∧ t.cur.lc = 1))

/-- The queue is first in, first out, and no command stops the machine: a step takes exactly the front command off. That a command whose
condition does not hold leaves the state, in place of a stop, is the model's choice (log 106). -/
def Obligations.EveryCommandCompletes : Prop :=
  ∀ (s : State) (c : Instr) (rest : List Instr), s.pending = c :: rest → ∃ t, step s = .next t ∧ t.pending = rest

/-! ## The core's instructions -/

/-- The rows that an engine executes, with the operation and the operands that reach issue. -/
def engineRow : Instr → Option (CoreOp × Args × Ctl)
  | .engineNop k g => some (.engineNop g, .none, k)
  | .sadd k o => some (.sadd, .s o, k)
  | .ssub k o => some (.ssub, .s o, k)
  | .smul k o => some (.smul, .s o, k)
  | .sand k o => some (.sand, .s o, k)
  | .sor k o => some (.sor, .s o, k)
  | .sxor k o => some (.sxor, .s o, k)
  | .sshl k o => some (.sshl, .s o, k)
  | .sshr k o => some (.sshr, .s o, k)
  | .ssra k o => some (.ssra, .s o, k)
  | .smin k o => some (.smin, .s o, k)
  | .smax k o => some (.smax, .s o, k)
  | .scmp k o => some (.scmp, .s o, k)
  | .smovi k o => some (.smovi, .s o, k)
  | .smovhi k o => some (.smovhi, .s o, k)
  | .saddi k o => some (.saddi, .s o, k)
  | .sfadd k o => some (.sfadd, .s o, k)
  | .sfmul k o => some (.sfmul, .s o, k)
  | .sffma k o => some (.sffma, .s o, k)
  | .sfmin k o => some (.sfmin, .s o, k)
  | .sfmax k o => some (.sfmax, .s o, k)
  | .sfcvt k o => some (.sfcvt, .s o, k)
  | .sld k o => some (.sld, .s o, k)
  | .sst k o => some (.sst, .s o, k)
  | .sflag k o => some (.sflag, .s o, k)
  | .skadd k o => some (.skadd, .s o, k)
  | .skrd k o => some (.skrd, .s o, k)
  | .sid k o => some (.sid, .s o, k)
  | .sstat k o => some (.sstat, .s o, k)
  | .svget k o => some (.svget, .s o, k)
  | .mloads k o => some (.mloads, .m o, k)
  | .mswap k o => some (.mswap, .m o, k)
  | .mprod k o => some (.mprod, .m o, k)
  | .msegt k o => some (.msegt, .m o, k)
  | .mcsum k o => some (.mcsum, .m o, k)
  | .mabclr k o => some (.mabclr, .m o, k)
  | .vadd k o => some (.vadd, .v o, k)
  | .vsub k o => some (.vsub, .v o, k)
  | .vmul k o => some (.vmul, .v o, k)
  | .vfma k o => some (.vfma, .v o, k)
  | .vfms k o => some (.vfms, .v o, k)
  | .vmin k o => some (.vmin, .v o, k)
  | .vmax k o => some (.vmax, .v o, k)
  | .vabs k o => some (.vabs, .v o, k)
  | .vneg k o => some (.vneg, .v o, k)
  | .vcmp k o => some (.vcmp, .v o, k)
  | .vsel k o => some (.vsel, .v o, k)
  | .vand k o => some (.vand, .v o, k)
  | .vor k o => some (.vor, .v o, k)
  | .vxor k o => some (.vxor, .v o, k)
  | .vshl k o => some (.vshl, .v o, k)
  | .vshr k o => some (.vshr, .v o, k)
  | .vmov k o => some (.vmov, .v o, k)
  | .vcvt k o => some (.vcvt, .v o, k)
  | .vrng k o => some (.vrng, .v o, k)
  | .sparsify k o => some (.sparsify, .v o, k)
  | .vld k o => some (.vld, .v o, k)
  | .vst k o => some (.vst, .v o, k)
  | .vldw k o => some (.vldw, .v o, k)
  | .vldab k o => some (.vldab, .v o, k)
  | .vstab k o => some (.vstab, .v o, k)
  | .vperm k o => some (.vperm, .v o, k)
  | .vslide k o => some (.vslide, .v o, k)
  | .vbcast k o => some (.vbcast, .v o, k)
  | .vred k o => some (.vred, .v o, k)
  | .vscan k o => some (.vscan, .v o, k)
  | .vseq k o => some (.vseq, .v o, k)
  | .vlut k o => some (.vlut, .v o, k)
  | .twr k o => some (.twr, .v o, k)
  | .tswap k o => some (.tswap, .v o, k)
  | .vchld k o => some (.vchld, .v o, k)
  | .vzmap k o => some (.vzmap, .v o, k)
  | .vcsr k o => some (.vcsr, .d o, k)
  | .vmset k o => some (.vmset, .v o, k)
  | .ffun k o => some (.ffun, .v o, k)
  | .fstat k o => some (.fstat, .v o, k)
  | .fstrd k o => some (.fstrd, .v o, k)
  | .fstclr k o => some (.fstclr, .v o, k)
  | .ccopy k o => some (.ccopy, .d o, k)
  | .ctrans k o => some (.ctrans, .d o, k)
  | .cfill k o => some (.cfill, .d o, k)
  | .cabout k o => some (.cabout, .d o, k)
  | .cpbkt k o => some (.cpbkt, .d o, k)
  | .cpsig k o => some (.cpsig, .d o, k)
  | .cpput k o => some (.cpput, .d o, k)
  | .cpacc k o => some (.cpacc, .d o, k)
  | .cpgath k o => some (.cpgath, .d o, k)
  | _ => none

/-- The rows of the front end itself. -/
def frontRow : Instr → Option (CoreOp × Args × Ctl)
  | .nop k o => some (.nop, .s o, k)
  | .b k o => some (.b, .s o, k)
  | .bcc k o => some (.bcc, .s o, k)
  | .call k o => some (.call, .s o, k)
  | .ret k o => some (.ret, .s o, k)
  | .loop k o => some (.loop, .s o, k)
  | .loopi k o => some (.loopi, .s o, k)
  | .halt k o => some (.halt, .s o, k)
  | i => engineRow i

/-- The 87 rows that an engine executes all start at issue where `StartsNow` holds: the state is that of the engine's effect (R25, R27, R28,
R32), and the core stops instead where the effect raises a fault (R49). Where the effect meets a bank that is being wiped or a controller
without a clock, the instruction stays at the head of its queue (R227, R278). What the issue and the start of an instruction change
besides its effect: the record of the front end, the started instruction, and the flags and counters of signals that are delivered. No
other register changes. -/
def Obligations.EngineRowsStart : Prop :=
  (∀ (i : Instr) (op : CoreOp) (args : Args) (k : Ctl) (g : Engine) (s : State),
     engineRow i = some (op, args, k) → StartsNow op args k g s →
     let e := issuedEntry op args k s
     let x := atStart op args k g s
     let r := runEntry k.core e x
     (Unheld s r.st → exec i s = .next (summaryRise s (afterStart k.core g e r))) ∧
     (¬ Unheld s r.st → ∃ t, exec i s = .next t ∧ t = { s with cores := t.cores } ∧
       (∀ q, q ≠ k.core → t.core q = s.core q) ∧ queueOf (t.core k.core) g = [{ e with held := true }] ∧
       SameButFront (s.core k.core) { t.core k.core with queues := (s.core k.core).queues })) ∧
  ((∀ (op : CoreOp) (args : Args) (k : Ctl) (g : Engine) (s : State), StartsNow op args k g s →
     let t := atStart op args k g s
     t = { s with cores := t.cores } ∧ (∀ q, q ≠ k.core → t.core q = s.core q) ∧ SameButFront (s.core k.core) (t.core k.core) ∧
     (t.core k.core).inflight = (s.core k.core).inflight ∧ (t.core k.core).f = (s.core k.core).f ∧ (t.core k.core).k = (s.core k.core).k ∧
     (streamOf (t.core k.core) k.stream).pc = BitVec.ofNat 32 (nextOffset (s.core k.core) k.stream).2 ∧
     ∀ j, j ≠ k.stream → streamOf (t.core k.core) j = streamOf (s.core k.core) j) ∧
   (∀ (g : Engine) (e : Entry) (r : RunOut) (c : Core),
     let d := inProgress g e r c
     SameButFront c d ∧ d.streams = c.streams ∧ (∀ h, h ≠ g → flightOf d h = flightOf c h) ∧
     (doneAtStart e = false → ∃ x, (flightOf d g).getLast? = some x ∧ x.e = e ∧ x.sticky = r.sticky ∧ x.uses = r.uses ∧ x.done = false)))

/-- A word of a program that a core's instruction buffer holds issues as the row that its GROUP and FUNC name; a word whose GROUP is reserved
or whose FUNC is not defined stops the core with E_CORE_OPCODE and its bits [79:70]; and where the buffer does not hold the line, it is
filled with the bytes of the image's code region (R27 to R29, R56, R57, R59). The opcode table: the GROUP and FUNC of every operation name
it, and no word names two (R57, R58). -/
def Obligations.StoredWordIssues : Prop :=
  ((∀ (p : Fin 72) (k : Fin 6) (s t : State) (op : CoreOp) (i : Instr), canIssue (s.core p) k = true → hasLine (s.core p) k = true →
     let w := bufferedWord (s.core p) k
     wordOp w = some op → frontRow i = some (op, wordArgs w op, { core := p, stream := k, sync := w.extractLsb' 80 48 }) →
     exec i s = .next t → frontStream p s k = t) ∧
   (∀ (p : Fin 72) (k : Fin 6) (s : State), canIssue (s.core p) k = true → hasLine (s.core p) k = true →
     eccFree (s.core p) = true → (s.core p).frec.valid = false → wordOp (bufferedWord (s.core p) k) = none →
     let c := (frontStream p s k).core p
     c.runstate = (if coreReqOpen s p then 4 else 5) ∧ c.frec.code = 0x0101 ∧ c.frec.detail = ((bufferedWord (s.core p) k).extractLsb' 70 10).zeroExtend 32) ∧
   (∀ (p : Fin 72) (k : Fin 6) (s : State) (b : Nat), canIssue (s.core p) k = true → hasLine (s.core p) k = false →
     codeBase s p = some b → StorageGood s →
     let pc := (streamOf (s.core p) k).pc.toNat
     pc % 16 = 0 → pc + 16 ≤ (s.core p).extent.toNat →
     let t := frontStream p s k
     hasLine (t.core p) k = true ∧ bufferedWord (t.core p) k = BitVec.ofNat 128 (leNat (readBytes s (b + pc) 16)) ∧
     (t.core p).streams = (s.core p).streams ∧ t.mem = s.mem)) ∧
  ((∀ (op : CoreOp) (w : BitVec 128), (∀ g, op = .engineNop g → (opEngine op).isSome = true) → w.extractLsb' 70 10 = op.code →
     wordOp w = some op) ∧
   ∀ (op : CoreOp) (w : BitVec 128), wordOp w = some op → op.code = w.extractLsb' 70 10)

/-- The integer instructions of the SU, with their results from A, B and the old RD (R57, R68). -/
def suIntRows : List ((Ctl → OpS → Instr) × CoreOp × (OpS → W64 → W64 → W64 → W64)) :=
  [(.sadd, .sadd, fun _ a b _ => a + b), (.ssub, .ssub, fun _ a b _ => a - b), (.smul, .smul, fun _ a b _ => a * b),
   (.sand, .sand, fun _ a b _ => a &&& b), (.sor, .sor, fun _ a b _ => a ||| b), (.sxor, .sxor, fun _ a b _ => a ^^^ b),
   (.sshl, .sshl, fun _ a b _ => a <<< (b.toNat % 64)), (.sshr, .sshr, fun _ a b _ => a >>> (b.toNat % 64)),
   (.ssra, .ssra, fun _ a b _ => a.sshiftRight (b.toNat % 64)),
   (.smin, .smin, fun _ a b _ => if a.toInt ≤ b.toInt then a else b),
   (.smax, .smax, fun _ a b _ => if b.toInt ≤ a.toInt then a else b),
   (.scmp, .scmp, fun o a b _ => if scalarCmp o.cond.toNat a b then 1 else 0),
   (.smovi, .smovi, fun o _ _ _ => o.imm.signExtend 64),
   (.smovhi, .smovhi, fun o _ _ d => o.imm.extractLsb' 0 16 ++ d.extractLsb' 0 48),
   (.saddi, .saddi, fun o a _ _ => a + o.imm.signExtend 64)]

/-- The 15 integer instructions of the SU write RD and nothing else of the core. -/
def Obligations.ScalarIntRows : Prop :=
  ∀ r ∈ suIntRows, ∀ (k : Ctl) (o : OpS) (s : State), StartsNow r.2.1 (.s o) k .su s →
    InCore (r.1 k o) r.2.1 (.s o) k .su s fun c =>
      (writeS c k.stream o.rd (r.2.2 o (issuedEntry r.2.1 (.s o) k s).a (issuedEntry r.2.1 (.s o) k s).b (issuedEntry r.2.1 (.s o) k s).c), 0)

/-- The FP32 instructions of the SU: result and flags from the low halves of A, B and the old RD, rounded as COND says. -/
def suFpRows : List ((Ctl → OpS → Instr) × CoreOp × (OpS → W64 → W64 → W64 → W64 × Flags)) :=
  let lo (x : W64) : W32 := x.extractLsb' 0 32
  let up (r : W32 × Flags) : W64 × Flags := (r.1.zeroExtend 64, r.2)
  [(.sfadd, .sfadd, fun o a b _ => up (eAdd .fp32 o.cond.toNat 0 (lo a) (lo b))),
   (.sfmul, .sfmul, fun o a b _ => up (eMul .fp32 o.cond.toNat 0 (lo a) (lo b))),
   (.sffma, .sffma, fun o a b d => up (eFma .fp32 o.cond.toNat 0 false (lo a) (lo b) (lo d))),
   (.sfmin, .sfmin, fun _ a b _ => up (eMinMax .fp32 false true (lo a) (lo b), 0)),
   (.sfmax, .sfmax, fun _ a b _ => up (eMinMax .fp32 true true (lo a) (lo b), 0)),
   (.sfcvt, .sfcvt, fun o a _ _ => sfcvt o.imm.toNat o.cond.toNat a)]

/-- The six FP32 instructions of the SU write RD, with bits [63:32] zero but for SFCVT to INT64, and set INV, OFL, UFL and
INX among the SU's sticky bits. -/
def Obligations.ScalarFpRows : Prop :=
  ∀ r ∈ suFpRows, ∀ (k : Ctl) (o : OpS) (s : State), StartsNow r.2.1 (.s o) k .su s →
    InCore (r.1 k o) r.2.1 (.s o) k .su s fun c =>
      let x := r.2.2 o (issuedEntry r.2.1 (.s o) k s).a (issuedEntry r.2.1 (.s o) k s).b (issuedEntry r.2.1 (.s o) k s).c
      (orSticky (writeS c k.stream o.rd x.1) .su (x.2 &&& 0x1D), 0)

/-- The other instructions of the SU that reach no memory (R33, R62, R69, R70): flags, counters, identity, status and a
lane of a vector register. -/
def suOtherRows : List ((Ctl → OpS → Instr) × CoreOp × (State → Ctl → OpS → Core → Core)) :=
  [(.sflag, .sflag, fun _ k o c =>
      let i := o.imm.toNat % 32
      match o.imm.toNat / 256 % 4 with
      | 0 => { c with f := c.f &&& ~~~((1 : W32) <<< i) }
      | 1 => { c with f := c.f ||| ((1 : W32) <<< i) }
      | _ => writeS c k.stream o.rd (if c.f.getLsbD i then 1 else 0)),
   (.skadd, .skadd, fun _ _ o c =>
      let i := o.imm.toNat % 16
      { c with k := c.k.setIfInBounds i (vAt c.k 0 i + o.imm.extractLsb' 16 16) }),
   (.skrd, .skrd, fun _ k o c => writeS c k.stream o.rd ((vAt c.k 0 (o.imm.toNat % 16)).zeroExtend 64)),
   (.sid, .sid, fun s k o c => writeS c k.stream o.rd (match o.imm.toNat % 16 with
      | 0 => c.dindex.zeroExtend 64
      | 1 => c.ncores.zeroExtend 64
      | 2 => BitVec.ofNat 64 ((logicalOf s k.core).getD 0)
      | 3 => BitVec.ofNat 64 k.core.val
      | 4 => c.tag.zeroExtend 64
      | 5 => s.timeNs
      | _ => BitVec.ofNat 64 k.stream.val)),
   (.sstat, .sstat, fun _ k o c =>
      let i := o.imm.toNat % 8 - 1
      let d := if o.imm.getLsbD 8 then { c with sticky := c.sticky.setIfInBounds i 0 } else c
      writeS d k.stream o.rd ((vAt c.sticky 0 i).zeroExtend 64)),
   (.svget, .svget, fun _ k o c => writeS c k.stream o.rd ((vGet c o.ra (o.imm.toNat % 512)).zeroExtend 64))]

/-- The rows of `suOtherRows` start and change their core as the table says: the flags and counters, the identity and the status
registers, and one lane of a vector register (R33, R62, R69, R70).
FUNC 63 of an engine's group does nothing but take its place in the queue (R58). -/
def Obligations.ScalarOtherRows : Prop :=
  (∀ r ∈ suOtherRows, ∀ (k : Ctl) (o : OpS) (s : State), StartsNow r.2.1 (.s o) k .su s →
    InCore (r.1 k o) r.2.1 (.s o) k .su s fun c => (r.2.2 s k o c, 0)) ∧
  (∀ (k : Ctl) (grp : BitVec 4) (g : Engine) (s : State), StartsNow (.engineNop grp) .none k g s →
    InCore (.engineNop k grp) (.engineNop grp) .none k g s fun c => (c, 0))

/-! ## Control flow -/

/-- Where a stream that may go on is after an instruction at offset q: the next one, or the start of a loop (R67). -/
def pastOffset (c : Core) (x : Stream) (q : Nat) : Option Stream :=
  let r := loopEnd q x.loops
  if targetOk c r.2 then some { x with pc := BitVec.ofNat 32 r.2, loops := r.1 } else none

/-- Where a taken branch leads; loops whose body it leaves end (R29, R68). -/
def branched (c : Core) (x : Stream) (o : OpS) : Option Stream :=
  let t : Int := x.pc.toNat + o.imm.toInt
  if targetOk c t then some { x with pc := BitVec.ofNat 32 t.toNat, loops := loopsAfterBranch t.toNat x.loops } else none

/-- A loop of n passes whose body ends e bytes after the instruction (R67). -/
def looped (c : Core) (x : Stream) (n : W64) (e : Nat) : Option Stream :=
  let pc := x.pc.toNat
  if n = 0 then pastOffset c x (pc + e)
  else if (if c.pl12 then 2 else 4) ≤ x.loops.length ∨ targetOk c (pc + 16 : Nat) = false then none
  else some { x with pc := BitVec.ofNat 32 (pc + 16), loops := ⟨BitVec.ofNat 64 (pc + 16), BitVec.ofNat 64 (pc + e), n⟩ :: x.loops }

/-- The control-flow instructions, with the stream that each leaves; none where it faults instead. -/
def controlRows : List ((Ctl → OpS → Instr) × CoreOp × (Core → Ctl → OpS → Option Stream)) :=
  [(.nop, .nop, fun c k _ => pastOffset c (streamOf c k.stream) (streamOf c k.stream).pc.toNat),
   (.b, .b, fun c k o => branched c (streamOf c k.stream) o),
   (.bcc, .bcc, fun c k o =>
      let x := streamOf c k.stream
      let a := readSrc c k.stream (srcOf o.pa o.ra)
      let b := readSrc c k.stream (srcOf o.pb o.rb)
      let taken := match o.cond.toNat with
        | 0 => decide (a = b)
        | 1 => decide (a ≠ b)
        | 2 => decide (a.toInt < b.toInt)
        | 3 => decide (b.toInt ≤ a.toInt)
        | 4 => decide (a.toNat < b.toNat)
        | _ => decide (b.toNat ≤ a.toNat)
      if taken then branched c x o else pastOffset c x x.pc.toNat),
   (.call, .call, fun c k o =>
      let x := streamOf c k.stream
      let t : Int := x.pc.toNat + o.imm.toInt
      if x.rets.length < (if c.pl12 then 4 else 16) ∧ targetOk c t = true then
        some { x with pc := BitVec.ofInt 32 t, rets := (x.pc + 16) :: x.rets }
      else none),
   (.ret, .ret, fun c k _ =>
      let x := streamOf c k.stream
      match x.rets with
      | [] => none
      | r :: l => if targetOk c r.toNat then pastOffset c { x with rets := l } (r.toNat - 16) else none),
   (.loop, .loop, fun c k o =>
      if o.imm.toInt ≤ 0 then none
      else looped c (streamOf c k.stream) (readSrc c k.stream (srcOf o.pa o.ra)) o.imm.toInt.toNat),
   (.loopi, .loopi, fun c k o =>
      if bitsN o.imm 0 32 = 0 then none
      else looped c (streamOf c k.stream) (BitVec.ofNat 64 (bitsN o.imm 32 16)) (bitsN o.imm 0 32))]

/-- The control-flow instructions but HALT change their own stream alone.
HALT ends its stream, and its core drains once every present stream has issued it (R30, R46). That LOOPI takes IMM[31:0] as an unsigned
count, of which only 0 is not positive, is the model's choice (log 124). -/
def Obligations.ControlRows : Prop :=
  (∀ r ∈ controlRows, ∀ (k : Ctl) (o : OpS) (s : State) (x : Stream), ControlReady r.2.1 k o s →
    r.2.2 (s.core k.core) k o = some x → ∃ t, exec (r.1 k o) s = .next t ∧ Moved k s x t) ∧
  (∀ (k : Ctl) (o : OpS) (s : State), ControlReady .halt k o s →
    ∃ t, exec (.halt k o) s = .next t ∧ t = s.modCore k.core fun d =>
      let c := setStream (Core.loaded d) k.stream { streamOf d k.stream with halted := true }
      { c with runstate := if ∀ x ∈ c.streams.toList, x.active = true → x.halted = true then 3 else c.runstate })

/-- Where a control-flow instruction has no stream to leave, its core stops with a fault of the front end (R29, R48, R49, R67). What the
abandoned instructions and the open bands of the core were writing is undefined, and no other byte changes (R49, R192). -/
def Obligations.ControlFaults : Prop :=
  ∀ r ∈ controlRows, ∀ (k : Ctl) (o : OpS) (s : State), ControlReady r.2.1 k o s → (s.core k.core).frec.valid = false →
    r.2.2 (s.core k.core) k o = none →
    ∃ t, exec (r.1 k o) s = .next t ∧ (t.core k.core).runstate = (if coreReqOpen s k.core then 4 else 5) ∧
      QueuesEmpty (t.core k.core) ∧
      (t.core k.core).frec.valid = true ∧ (t.core k.core).frec.engine = 0 ∧
      (t.core k.core).frec.tag = (s.core k.core).tag ∧ (t.core k.core).frec.timeNs = s.timeNs ∧
      (t.core k.core).frec.code ∈ [(0x0101 : BitVec 16), 0x0102, 0x0107] ∧ (∀ q, q ≠ k.core → t.core q = s.core q) ∧
      (Canonical s → ∀ a, ¬ Abandoned (s.core k.core) a → byteAt t a = byteAt s a)

/-! ## Vector and special-function instructions -/

/-- The element-wise walk on one function of a, b, c and the draw, with the sticky bits INV, OFL, UFL, INX and SAT_HIT. -/
def lanewise (f : ETy → W32 → W32 → W32 → W32 → W32 × Flags) (e : Entry) (o : OpV) (c : Core) : Core × Flags :=
  let t := tyOf o.type
  let r := elemWise o t (drawElem o.rnd fun lane j d =>
    f t d (elemAt c t o.va lane j) (elemB c e o t lane j) (elemAt c t o.vc lane j)) c
  (r.1, r.2 &&& 0x3D)

/-- The walk on one word for each lane. -/
def wordwise (o : OpV) (f : Nat → W32 × Flags) (mask : Flags) (c : Core) : Core × Flags :=
  let r := elemWise o .fp32 (pureElem fun lane _ => f lane) c
  (r.1, r.2 &&& mask)

/-- The element-wise instructions of the VE (R57, R131). -/
def vecElemRows : List ((Ctl → OpV → Instr) × CoreOp × (Entry → OpV → Core → Core × Flags)) :=
  [(.vadd, .vadd, fun e o => lanewise (fun t d a b _ => eAdd t o.rnd.toNat d a b) e o),
   (.vsub, .vsub, fun e o => lanewise (fun t d a b _ => eSub t o.rnd.toNat d a b) e o),
   (.vmul, .vmul, fun e o => lanewise (fun t d a b _ => eMul t o.rnd.toNat d a b) e o),
   (.vfma, .vfma, fun e o => lanewise (fun t d a b c => eFma t o.rnd.toNat d false a b c) e o),
   (.vfms, .vfms, fun e o => lanewise (fun t d a b c => eFma t o.rnd.toNat d true a b c) e o),
   (.vmin, .vmin, fun e o => lanewise (fun t _ a b _ => (eMinMax t false (o.fx.getLsbD 0) a b, 0)) e o),
   (.vmax, .vmax, fun e o => lanewise (fun t _ a b _ => (eMinMax t true (o.fx.getLsbD 0) a b, 0)) e o),
   (.vabs, .vabs, fun e o => lanewise (fun t _ a _ _ =>
      (if t = .int32 then (if a.getLsbD 31 then 0 - a else a) else eAbsBits t a, 0)) e o),
   (.vneg, .vneg, fun e o => lanewise (fun t _ a _ _ => (if t = .int32 then 0 - a else eNegBits t a, 0)) e o),
   (.vand, .vand, fun e o => lanewise (fun _ _ a b _ => (a &&& b, 0)) e o),
   (.vor, .vor, fun e o => lanewise (fun _ _ a b _ => (a ||| b, 0)) e o),
   (.vxor, .vxor, fun e o => lanewise (fun _ _ a b _ => (a ^^^ b, 0)) e o),
   (.vshl, .vshl, fun e o => lanewise (fun _ _ a b _ => (a <<< (b.toNat % 32), 0)) e o),
   (.vshr, .vshr, fun e o => lanewise (fun _ _ a b _ =>
      (if o.fx.getLsbD 0 then a.sshiftRight (b.toNat % 32) else a >>> (b.toNat % 32), 0)) e o),
   (.vmov, .vmov, fun e o => lanewise (fun _ _ a _ _ => (a, 0)) e o)]

/-- The rows of `vecElemRows` start and change only the elements of VD, each by its function (R114, R115, R128, R129, R131). -/
def Obligations.VectorElemRows : Prop :=
  ∀ r ∈ vecElemRows, ∀ (k : Ctl) (o : OpV) (s : State), StartsNow r.2.1 (.v o) k .ve s →
    InCore (r.1 k o) r.2.1 (.v o) k .ve s (r.2.2 (issuedEntry r.2.1 (.v o) k s) o)

/-- The walk writes exactly the elements of lanes below VL: an active one takes its function's value, one that its mask
predicates off becomes zero with MZ = 1 and keeps its value with MZ = 0; nothing else of the core changes, and the flags are
those of the active elements (R65, R127, R128). -/
def Obligations.ElementWalk : Prop :=
  ∀ (o : OpV) (t : ETy) (f : Nat → Nat → W32 × Flags) (c : Core), t ∈ [ETy.fp32, .bf16, .fp16, .int32] →
    smapWf (fun _ => (0 : W32)) c.v = true →
    (∀ lane j, lane < 512 → j < t.perLane → elemAt (elemWise o t (pureElem f) c).1 t o.vd lane j =
      if lane < vlOf o then
        if activeAt c o lane (decide (j = 1)) then BitVec.ofNat 32 ((f lane j).1.toNat % 2 ^ t.width)
        else if o.mz then 0 else elemAt c t o.vd lane j
      else elemAt c t o.vd lane j) ∧
    (∀ r lane, lane < 512 → r ≠ o.vd → vGet (elemWise o t (pureElem f) c).1 r lane = vGet c r lane) ∧
    (∃ w, (elemWise o t (pureElem f) c).1 =
      { c with v := (elemWise o t (pureElem f) c).1.v, outV := w ++ c.outV, ecc := (elemWise o t (pureElem f) c).1.ecc,
               ecc1 := (elemWise o t (pureElem f) c).1.ecc1 }) ∧
    (∀ i : Nat, (elemWise o t (pureElem f) c).2.getLsbD i =
      (elemPlaces (vlOf o) t.perLane).any fun pl => activeAt c o pl.1 (decide (pl.2 = 1)) && (f pl.1 pl.2).2.getLsbD i)

/-- Selection, draws and cross-lane moves of the VE, moves with the accumulator buffer, the folio tables and the masks
(R78, R82, R129, R132, R133, R137 to R139, R143 to R145, R478). -/
def vecCoreRows : List ((Ctl → OpV → Instr) × CoreOp × (Entry → OpV → Core → Core × Flags)) :=
  [(.vsel, .vsel, fun e o c =>
      let t := tyOf o.type
      (elemWise { o with mskEn := false } t (pureElem fun lane j =>
        (if activeAt c o lane (decide (j = 1)) then elemAt c t o.va lane j else elemB c e o t lane j, 0)) c).map id fun x => x &&& 0x3D),
   (.vrng, .vrng, fun _ o c =>
      ((elemWise o .fp32 (fun lane _ d =>
        let x := drawGen d lane
        { bits := if o.fx.getLsbD 0 then (roundFin .fp32 0 0 false false (x.1.toNat / 256) (-24) false).1 else x.1
          core := x.2 }) c).1, 0)),
   (.vperm, .vperm, fun e o c => wordwise o (fun lane =>
      let i := (opB c e o lane).toNat
      if i < vlOf o then (vGet c o.va i, 0) else (0, 0x40)) 0x40 c),
   (.vslide, .vslide, fun _ o c => wordwise o (fun lane =>
      let i : Int := lane - (o.fx.extractLsb' 0 10).toInt
      (if 0 ≤ i ∧ i < vlOf o then vGet c o.va i.toNat else 0, 0)) 0 c),
   (.vbcast, .vbcast, fun _ o c => wordwise o (fun _ =>
      let i := o.fx.toNat % 512
      if i < vlOf o then (vGet c o.va i, 0) else (0, 0x40)) 0x40 c),
   (.vldab, .vldab, fun e o c => wordwise o (fun lane => (abGet c (e.b.toNat + lane / 64) (lane % 64), 0)) 0 c),
   (.vlut, .vlut, fun e o c => wordwise o (fun lane =>
      let x := (vGet c o.va lane).toNat
      if x < 256 then (tblGet c o.type2.toNat (activeCopy e.sel o.type2.toNat) x, 0) else (0, 0x80)) 0x80 c),
   (.vstab, .vstab, fun e o c =>
      ((List.range (vlOf o)).foldl (fun d lane =>
        if activeAt c o lane false then abPut d (e.b.toNat + lane / 64) (lane % 64) (vGet c o.va lane) else d) c, 0)),
   (.twr, .twr, fun _ o c =>
      let t := o.type2.toNat
      ((List.range (vlOf o)).foldl (fun d lane =>
        if activeAt c o lane false then tblPut d t (1 - activeCopy c.copySel t) (o.fx.toNat % 256 + lane) (vGet c o.va lane)
        else d) c, 0)),
   (.tswap, .tswap, fun _ o c => ({ c with copySel := c.copySel ^^^ BitVec.ofNat 2 (2 ^ o.type2.toNat) }, 0)),
   (.vmset, .vmset, fun e o c =>
      let a := vAt c.m 0 (o.va.toNat % 8)
      let b := vAt c.m 0 (o.vb.toNat % 8)
      let x := match o.fx.toNat % 8 with
        | 0 => a &&& b
        | 1 => a ||| b
        | 2 => a ^^^ b
        | 3 => ~~~a
        | 4 => BitVec.ofNat 512 (2 ^ min e.b.toNat 512 - 1)
        | 5 => BitVec.allOnes 512
        | _ => 0
      ({ c with m := c.m.setIfInBounds (o.vd.toNat % 8) x }, 0))]

/-- The rows of `vecCoreRows` start and change their core as the table says: the moves between lanes, the AB, the folio tables and
the masks (R78, R82, R103, R133, R139, R143, R144). -/
def Obligations.VectorCoreRows : Prop :=
  ∀ r ∈ vecCoreRows, ∀ (k : Ctl) (o : OpV) (s : State), StartsNow r.2.1 (.v o) k .ve s →
    InCore (r.1 k o) r.2.1 (.v o) k .ve s (r.2.2 (issuedEntry r.2.1 (.v o) k s) o)

/-- VPERM reads each index as an unsigned 32-bit value: an active lane below VL receives A[b[i]] where b[i] < VL, and otherwise zero
with PERM_OOR set; no fault is raised; a type that is not of 32 bits is not accepted (R78). -/
def Obligations.VpermMoves : Prop :=
  (∀ o : OpV, tyIs ty32 o.type = false → formOk .vperm (.v o) = false) ∧
  ∀ (k : Ctl) (o : OpV) (s : State), StartsNow .vperm (.v o) k .ve s → smapWf (fun _ => (0 : W32)) (s.core k.core).v = true →
    let c := s.core k.core
    let e := issuedEntry .vperm (.v o) k s
    let b (lane : Nat) : Nat := (opB c e o lane).toNat
    ∃ t, exec (.vperm k o) s = .next t ∧ (t.core k.core).runstate = c.runstate ∧ (t.core k.core).frec = c.frec ∧
      (∀ i, i < vlOf o → activeAt c o i false = true →
        vGet (t.core k.core) o.vd i = if b i < vlOf o then vGet c o.va (b i) else 0) ∧
      (∃ x, (flightOf (t.core k.core) .ve).getLast? = some x ∧ x.e = e ∧
        (x.sticky.getLsbD 6 = true ↔ ∃ i, i < vlOf o ∧ activeAt c o i false = true ∧ vlOf o ≤ b i)) ∧
      ∀ r i, i < 512 → r ≠ o.vd → vGet (t.core k.core) r i = vGet c r i

/-- VMSET acts on all 512 bits of its masks, whatever VL, MK_EN and MZ say, and changes no other mask and no V register; function 4
sets bits 0 to min(S[VB], 512) − 1 and clears the rest (R133). -/
def Obligations.VmsetMasks : Prop :=
  ∀ (k : Ctl) (o : OpV) (s : State), StartsNow .vmset (.v o) k .ve s →
    let c := s.core k.core
    let n := (issuedEntry .vmset (.v o) k s).b.toNat
    let bit (r : BitVec 5) (i : Nat) : Bool := (vAt c.m 0 (r.toNat % 8)).getLsbD i
    ∃ t, exec (.vmset k o) s = .next t ∧ (t.core k.core).v = c.v ∧
      (∀ i, i < 512 → (vAt (t.core k.core).m 0 (o.vd.toNat % 8)).getLsbD i = match o.fx.toNat % 8 with
        | 0 => bit o.va i && bit o.vb i
        | 1 => bit o.va i || bit o.vb i
        | 2 => bit o.va i ^^ bit o.vb i
        | 3 => !bit o.va i
        | 4 => decide (i < min n 512)
        | 5 => true
        | _ => false) ∧
      ∀ j, j < 8 → j ≠ o.vd.toNat % 8 → vAt (t.core k.core).m 0 j = vAt c.m 0 j

/-- VCVT converts element by element, with a draw of the lane's generator where RND = 4 and the types lose precision; VRED and
VSCAN combine the active lanes in the fixed order of R137 and R138 (R77, R80, R119, R120). -/
def vecFoldRows : List ((Ctl → OpV → Instr) × CoreOp × (Entry → OpV → Core → Core × Flags)) :=
  [(.vcvt, .vcvt, fun _ o c =>
      let dst := tyOf o.type
      let src := tyOf o.type2
      let n := min dst.perLane src.perLane
      let r := (elemPlaces (vlOf o) n).foldl (fun acc pl => cvtStep c o dst src n o.fx.toNat pl.1 pl.2 acc) (c, 0)
      (r.1, r.2 &&& 0x3D)),
   (.vred, .vred, fun _ o c =>
      let t := tyOf o.type
      let r := reduceLanes c o t (RedOp.ofCode (o.fx.toNat % 4)) (o.fx.getLsbD 2) id 0 9
      let q := convert t (redType t) o.rnd.toNat 0 false r.1
      (setWholeReg c o.vd [q.1], (r.2 ||| q.2) &&& 0x3D)),
   (.vscan, .vscan, fun _ o c =>
      let t := tyOf o.type
      let op := RedOp.ofCode (o.fx.toNat % 4)
      let x := (List.range 512).map fun lane =>
        if decide (lane < vlOf o) && activeAt c o lane false then vGet c o.va lane else redIdent t op
      let r := scanAll (redStep t op (o.fx.getLsbD 3)) x
      let out := if o.fx.getLsbD 2 then redIdent t op :: r.1 else r.1
      ((wordwise o (fun lane => (out.getD lane 0, 0)) 0 c).1, r.2 &&& 0x3D))]

/-- The rows of `vecFoldRows`, a conversion, a reduction and a scan, start and change VD as the table says, with the sticky bits of
their elements (R80, R120 to R123, R134, R137, R138).
VCMP writes one mask bit for each element below VL: those of low halves and of 32-bit elements to M[VD], those of high halves
to M[VD XOR 1]; a predicated-off one is cleared with MZ = 1 and kept with MZ = 0 (R65, R132). -/
def Obligations.VectorFoldRows : Prop :=
  (∀ r ∈ vecFoldRows, ∀ (k : Ctl) (o : OpV) (s : State), StartsNow r.2.1 (.v o) k .ve s →
    InCore (r.1 k o) r.2.1 (.v o) k .ve s (r.2.2 (issuedEntry r.2.1 (.v o) k s) o)) ∧
  (∀ (k : Ctl) (o : OpV) (s : State), StartsNow .vcmp (.v o) k .ve s →
    let e := issuedEntry .vcmp (.v o) k s
    let c := s.core k.core
    let t := tyOf o.type
    ∃ t', exec (.vcmp k o) s = .next t' ∧ CoreOnly k.core s t' ∧ Youngest .vcmp (.v o) k s t' ∧
      SameButFront { c with m := (t'.core k.core).m } (t'.core k.core) ∧
      ∀ m lane, m < 8 → lane < 512 → (vAt (t'.core k.core).m 0 m).getLsbD lane =
        let old := (vAt c.m 0 m).getLsbD lane
        let put (j : Nat) : Bool :=
          if activeAt c o lane (decide (j = 1)) then
            eCmp t (o.fx.toNat % 8) (elemAt c t o.va lane j) (elemB c e o t lane j)
          else if o.mz then false else old
        if lane < vlOf o ∧ m = o.vd.toNat then put 0
        else if lane < vlOf o ∧ t.perLane = 2 ∧ m = (o.vd ^^^ 1).toNat then put 1
        else old)

/-! ## Scalar and vector access to memory -/

/-- SLD loads 1, 2, 4 or 8 bytes of an aligned address inside a live allocation into RD, zero-extended, or with COND[0] = 1
sign-extended, and changes no memory (R47, R57).
SST stores the low 1, 2, 4 or 8 bytes of B, the lowest first, at an aligned address inside a live allocation that engines may write, and
changes no other byte (R10, R47, R57, R241).
A scalar access that is not aligned, or is not inside one live allocation, stops its core with the low 32 bits of its address
(R47), and so does a store into an allocation that engines may not write (log 110). -/
def Obligations.ScalarAccessRows : Prop :=
  (∀ (k : Ctl) (o : OpS) (s : State), StartsNow .sld (.s o) k .su s → StorageGood s → L1Coherent k.core s →
    let a := ((issuedEntry .sld (.s o) k s).a + o.imm.signExtend 64).toNat
    let len := 2 ^ o.sz.toNat
    a % len = 0 → liveSpan s a len = true → placeErrSpan (.core k.core) s a len = none →
    ∃ t, exec (.sld k o) s = .next t ∧ Loaded .sld (.s o) k s (fun c => writeS c k.stream o.rd
      (if o.cond.getLsbD 0 then (BitVec.ofNat (8 * len) (leNat (readBytes s a len))).signExtend 64
        else BitVec.ofNat 64 (leNat (readBytes s a len)))) t) ∧
  (∀ (k : Ctl) (o : OpS) (s : State), StartsNow .sst (.s o) k .su s → StorageGood s → Canonical s →
    let e := issuedEntry .sst (.s o) k s
    let a := (e.a + o.imm.signExtend 64).toNat
    let len := 2 ^ o.sz.toNat
    a % len = 0 → liveSpan s a len = true → writableSpan s a len = true → placeErrSpan (.core k.core) s a len = none →
    ∃ t, exec (.sst k o) s = .next t ∧
      Stored .sst (.s o) k s ((List.range len).map fun i => (a + i, e.b.extractLsb' (8 * i) 8)) t) ∧
  (∀ r ∈ [((.sld, .sld) : (Ctl → OpS → Instr) × CoreOp), (.sst, .sst)],
    ∀ (k : Ctl) (o : OpS) (s : State), StartsNow r.2 (.s o) k .su s →
    let a := ((issuedEntry r.2 (.s o) k s).a + o.imm.signExtend 64).toNat
    let len := 2 ^ o.sz.toNat
    (a % len ≠ 0 ∨ liveSpan s a len = false) →
    ∃ t, exec (r.1 k o) s = .next t ∧ RanToFault r.2 (.s o) k .su s (atStart r.2 (.s o) k .su s)
      ⟨if a % len ≠ 0 then 0x0104 else 0x0105, BitVec.ofNat 32 a⟩ t) ∧
  (∀ (k : Ctl) (o : OpS) (s : State), StartsNow .sst (.s o) k .su s →
    let a := ((issuedEntry .sst (.s o) k s).a + o.imm.signExtend 64).toNat
    let len := 2 ^ o.sz.toNat
    a % len = 0 → liveSpan s a len = true → placeErrSpan (.core k.core) s a len = none → writableSpan s a len = false →
    ∃ t, exec (.sst k o) s = .next t ∧ RanToFault .sst (.s o) k .su s (atStart .sst (.s o) k .su s) ⟨0x0105, BitVec.ofNat 32 a⟩ t)

/-- VLD writes the active elements of lanes below VL from consecutive words of memory from S[VB] + 4 × FX on (R149, R150).
VST stores the active elements of lanes below VL to consecutive words from S[VB] + 4 × FX on, and no other byte, in an allocation that
engines may write (R149, R150, R241). -/
def Obligations.VectorAccessRows : Prop :=
  (∀ (k : Ctl) (o : OpV) (s : State), StartsNow .vld (.v o) k .ve s → StorageGood s → L1Coherent k.core s →
    let a := ((issuedEntry .vld (.v o) k s).b + o.fx.signExtend 64 * 4).toNat
    let t := tyOf o.type
    a % 4 = 0 → liveSpan s a (4 * vlOf o) = true → placeErrSpan (.core k.core) s a (4 * vlOf o) = none →
    ∃ t', exec (.vld k o) s = .next t' ∧ Loaded .vld (.v o) k s (fun c =>
      (elemWise o t (pureElem fun lane j => (elemOf t.width j (BitVec.ofNat 32 (leNat (readBytes s (a + 4 * lane) 4))), 0)) c).1) t') ∧
  (∀ (k : Ctl) (o : OpV) (s : State), StartsNow .vst (.v o) k .ve s → StorageGood s → Canonical s →
    let a := ((issuedEntry .vst (.v o) k s).b + o.fx.signExtend 64 * 4).toNat
    let t := tyOf o.type
    let c := s.core k.core
    a % 4 = 0 → liveSpan s a (4 * vlOf o) = true → writableSpan s a (4 * vlOf o) = true →
    placeErrSpan (.core k.core) s a (4 * vlOf o) = none →
    ∃ t', exec (.vst k o) s = .next t' ∧ Stored .vst (.v o) k s
      ((elemPlaces (vlOf o) t.perLane).flatMap fun pl =>
        if activeAt c o pl.1 (decide (pl.2 = 1)) then
          (List.range t.bytes).map fun i => (a + 4 * pl.1 + t.bytes * pl.2 + i, (elemAt c t o.va pl.1 pl.2).extractLsb' (8 * i) 8)
        else []) t')

/-! ## The other instructions of the vector engine and of the special-function unit -/

/-- VLDW reads the active elements through the descriptor of S[VB] from the coordinates of S[VC] on, and uses the viewed entry
until it completes (R142, R244). -/
def Obligations.VldwRow : Prop :=
  ∀ (k : Ctl) (o : OpV) (s : State) (v : View), StartsNow .vldw (.v o) k .ve s →
    let e := issuedEntry .vldw (.v o) k s
    let t := tyOf o.type
    let r0 := openView (.core k.core) (atStart .vldw (.v o) k .ve s) e.b
    let x0 : Int := (e.c.extractLsb' 0 32).toInt
    let row := rowCoords v.desc (e.c.extractLsb' 32 32).toNat
    let place (pl : Nat × Nat) : List Int := (x0 + (pl.1 * t.perLane + pl.2 : Nat)) :: row
    let word (pl : Nat × Nat) : W32 := match v.desc.readPlace (place pl) with
      | .fill => v.desc.fill
      | .pad _ => v.desc.padval
      | .dropped => 0
      | .data y _ => BitVec.ofNat 32 (leNat (readBytes s (v.addr y) v.desc.esize))
    StorageGood s → L1Coherent k.core s → Canonical s → r0.2 = .ok v → v.desc.typeCode = o.type.toNat →
    (∀ pl ∈ elemPlaces (vlOf o) t.perLane, activeAt (s.core k.core) o pl.1 (decide (pl.2 = 1)) = true → match v.desc.readPlace (place pl) with
      | .data y _ => placeErrSpan (.core k.core) s (v.addr y) v.desc.esize = none
      | _ => True) →
    ∃ t' l1 l2 n d, exec (.vldw k o) s = .next t' ∧
      (let y := r0.1.modCore k.core fun c => { (elemWise o t (pureElem fun lane j => (word (lane, j), 0)) c).1 with l1 := l1 }
       RanTo .vldw (.v o) k .ve s
         (useBegin { y with vit := { y.vit with l2 := l2 }, free := n, dbg := { y.dbg with memLag := d } } v.entry) 0 [v.entry] none t') ∧
      ∀ a, byteAt t' a = byteAt s a

/-- VSEQ runs its recurrence over the steps of T in order, or in reverse with FX[16] = 1, over rows of R bytes in the core's own places
(R81, R140, R141; that the last row's padding belongs to the span is the model's reading, log 137).
A step takes h to a × h + b in every active element of VD, rounded once, with the words of its rows at S[VA] and S[VB], and stores each h
in its row at S[VC] unless FX[17] = 1; no other byte changes. -/
def Obligations.VseqRow : Prop :=
  ∀ (k : Ctl) (o : OpV) (s : State), StartsNow .vseq (.v o) k .ve s → StorageGood s → Canonical s →
    let e := issuedEntry .vseq (.v o) k s
    let t := tyOf o.type
    let x := atStart .vseq (.v o) k .ve s
    let n := o.fx.toNat % 2 ^ 16
    let row := (4 * vlOf o + 63) / 64 * 64
    let own (y : State) (a : Nat) : Prop := a % 64 = 0 ∧ liveSpan y a (n * row) = true ∧ ownSpan y k.core a (n * row) = true
    let bases (y : State) : Prop := own y e.a.toNat ∧ own y e.b.toNat ∧ (o.fx.getLsbD 17 = false → own y e.c.toNat)
    let r := (if o.fx.getLsbD 16 then (List.range n).reverse else List.range n).foldl (seqStore k.core e o t) (x, 0, none)
    (bases s →
      ∃ t', exec (.vseq k o) s = .next t' ∧
        RanTo .vseq (.v o) k .ve s (r.1.modCore k.core fun c =>
          (elemWise o t (pureElem fun lane j => (elemAt c t o.vd lane j, 0)) c).1) (r.2.1 &&& 0x3D) [] none t') ∧
    ∀ (y : State) (i : Nat) (fl : Flags), StorageGood y → Canonical y → bases y → i < n →
      let q := seqStore k.core e o t (y, fl, none) i
      let c := y.core k.core
      let place (b : W64) (lane : Nat) : Nat := b.toNat + i * row + 4 * lane
      let word (b : W64) (lane : Nat) : W32 := BitVec.ofNat 32 (leNat (readBytes y (place b lane) 4))
      let h := elemWise { o with mz := false } t (drawElem o.rnd fun lane j d =>
        eFma t o.rnd.toNat d false (elemOf t.width j (word e.a lane)) (elemAt c t o.vd lane j) (elemOf t.width j (word e.b lane))) c
      let stores (lane j : Nat) : Prop :=
        o.fx.getLsbD 17 = false ∧ lane < vlOf o ∧ j < t.perLane ∧ activeAt c o lane (decide (j = 1)) = true
      q.2.2 = none ∧ q.2.1 = fl ||| h.2 ∧ q.1 = { y with cores := q.1.cores, mem := q.1.mem } ∧
      (∀ p, p ≠ k.core → q.1.core p = y.core p) ∧ q.1.core k.core = { h.1 with outMem := (q.1.core k.core).outMem } ∧
      (∀ lane j b, stores lane j → b < t.bytes →
        byteAt q.1 (place e.c lane + t.bytes * j + b) = (elemAt h.1 t o.vd lane j).extractLsb' (8 * b) 8) ∧
      ∀ a, (∀ lane j b, stores lane j → b < t.bytes → a ≠ place e.c lane + t.bytes * j + b) → byteAt q.1 a = byteAt y a

/-- VZMAP writes one bit for each group of 2^FX lanes, 1 where every active element of the group is zero, from bit S[VC] of the
bitmap at S[VB] on, and no other bit (R209, R210). -/
def Obligations.VzmapRow : Prop :=
  ∀ (k : Ctl) (o : OpV) (s : State), StartsNow .vzmap (.v o) k .ve s →
    let e := issuedEntry .vzmap (.v o) k s
    let t := tyOf o.type
    let c := s.core k.core
    let w := 2 ^ (o.fx.toNat % 16)
    let n := vlOf o / w
    let a := e.b.toNat
    let first := a + e.c.toNat / 8
    let len := (e.c.toNat + n - 1) / 8 - e.c.toNat / 8 + 1
    let zero (i : Nat) : Bool := (List.range w).all fun l => (List.range t.perLane).all fun j =>
      !activeAt c o (i * w + l) (decide (j = 1)) || eIsZero t (elemAt c t o.va (i * w + l) j)
    StorageGood s → Canonical s → a % 4 = 0 → liveSpan s first len = true → writableSpan s first len = true →
    placeErrSpan (.core k.core) s first len = none →
    ∃ t', exec (.vzmap k o) s = .next t' ∧
      (∀ i, i < n → (byteAt t' (a + (e.c.toNat + i) / 8)).getLsbD ((e.c.toNat + i) % 8) = zero i) ∧
      (∀ b j, j < 8 → (8 * b + j < 8 * a + e.c.toNat ∨ 8 * a + e.c.toNat + n ≤ 8 * b + j) →
        (byteAt t' b).getLsbD j = (byteAt s b).getLsbD j) ∧
      t' = { s with cores := t'.cores, free := t'.free, mem := t'.mem, regs := t'.regs, vit := { s.vit with l2 := t'.vit.l2 },
                    dbg := { s.dbg with memLag := t'.dbg.memLag } } ∧
      (∀ q, q ≠ k.core → t'.core q = s.core q) ∧ ∃ l1, SameButFront { c with l1 := l1 } (t'.core k.core)

/-- VCHLD puts the program at S[VB] in the core's own gallery into its slot once every check of R83 and R171 to R174 passes; where one
fails the slot is empty and the core stops: the program is not aligned or leaves the gallery, its header is bad, or a check of its
groups fails (R179). Which reason an address or a header field has is in part the model's reading (log 23, log 24). -/
def Obligations.VchldRow : Prop :=
  ∀ (k : Ctl) (o : OpV) (s : State), StartsNow .vchld (.v o) k .ve s → StorageGood s →
    let x := atStart .vchld (.v o) k .ve s
    let slot := o.fx.toNat
    let a := (issuedEntry .vchld (.v o) k s).b.toNat
    let g0 := chainParse (readBytes s a 128)
    let len := 128 + 16 * (g0.pro + g0.epi)
    let g := chainParse (readBytes s a len)
    let refused (f : Flt) : Prop := ∃ t, exec (.vchld k o) s = .next t ∧
      RanToFault .vchld (.v o) k .ve s (x.modCore k.core fun c => slotClear c slot) f t
    let reads := a % 64 = 0 ∧ ownGallery x k.core a 128 = true
    (¬ reads → refused (chainFormatFlt slot 5 0xFF)) ∧
    (reads → headerBad1 (readBytes s a 128) g0 = true → refused (chainFormatFlt slot 1 0xFF)) ∧
    (reads → headerBad1 (readBytes s a 128) g0 = false → ownGallery x k.core a len = false → refused (chainFormatFlt slot 5 0xFF)) ∧
    (reads → headerBad1 (readBytes s a 128) g0 = false → ownGallery x k.core a len = true →
      (∀ f, chainBad k.core x slot (readBytes s a len) g = some f → refused f) ∧
      (chainBad k.core x slot (readBytes s a len) g = none →
        ∃ t, exec (.vchld k o) s = .next t ∧
          RanTo .vchld (.v o) k .ve s (x.modCore k.core fun c => slotPut c slot g) 0 [] none t)) ∧
    (slotGet (slotClear (s.core k.core) slot) slot = none ∧ slotGet (slotPut (s.core k.core) slot g) slot = some g)

/-- The partial sum that partition q leaves of row i and column c; none where it holds no element of the row (R203). -/
def csrTerm (x : CsrIn) (i c q : Nat) : Option W32 :=
  let lo := max (x.ptr.getD i 0) (q * x.h.nnz / x.pc)
  let hi := min (x.ptr.getD (i + 1) 0) ((q + 1) * x.h.nnz / x.pc)
  if lo < hi then
    some ((List.range (hi - lo)).foldl (fun a j => (ffma (x.vals.getD (lo + j) 0) (x.bGet (x.cols.getD (lo + j) 0) c) a).1) 0)
  else none

/-- Row i, column c of the product before its conversion: the partial sums from left to right, and the old value before them with ACC
(R203). -/
def csrValue (x : CsrIn) (i c : Nat) : W32 :=
  let t := match (List.range x.pc).filterMap (csrTerm x i c) with
    | [] => 0
    | p :: l => l.foldl (fun a b => (fadd a b).1) p
  if x.acc then (fadd (x.yGet i c) t).1 else t

/-- VCSR refuses its operands at the first check of R202 that fails, in their order, with that check's fault; otherwise it writes every row
of Y, element by element the value of R203, uses both entries until it completes and sets the sticky bits. At a bad column index the rows
that the walk has finished by then hold their values and every other row free values (R205). In what order the walk meets its elements is
the model's reading (log 26, log 140). -/
def Obligations.VcsrRow : Prop :=
  ∀ (k : Ctl) (o : OpD) (s : State), StartsNow .vcsr (.d o) k .ve s → StorageGood s → Canonical s →
    let e := issuedEntry .vcsr (.d o) k s
    let x := atStart .vcsr (.d o) k .ve s
    let a := e.b.toNat
    let hdr := readBytes s a 64
    let h := csrHdr hdr
    let v := openTwo (.core k.core) x e.c e.a
    let ptr := wordsAt (readBytes s h.rowptr (4 * (h.rows + 1)))
    let stops (y : State) (f : Flt) : Prop := ∃ t, exec (.vcsr k o) s = .next t ∧ RanToFault .vcsr (.d o) k .ve s y f t
    let begun := a % 64 = 0 ∧ ownSpan x k.core a 64 = true
    (a % 64 ≠ 0 → stops x ⟨0x0405, 0⟩) ∧
    (a % 64 = 0 → ownSpan x k.core a 64 = false → stops x ⟨0x0301, BitVec.ofNat 32 a⟩) ∧
    (begun → ∀ j, csrHdrBad hdr h = some j → stops x ⟨0x0405, BitVec.ofNat 32 j⟩) ∧
    (begun → csrHdrBad hdr h = none →
      (∀ f, v.2 = .error f → stops v.1 f) ∧
      ∀ b y, v.2 = .ok (b, y) →
        (y.destOk = false → stops v.1 ⟨0x0505, y.handle⟩) ∧
        (y.destOk = true → csrShapeOk h b.desc y.desc = false → stops v.1 ⟨0x0405, 0x40⟩) ∧
        (y.destOk = true → csrShapeOk h b.desc y.desc = true →
          (∀ f, csrPlaceFlt k.core v.1 h b y = some f → stops v.1 f) ∧
          (csrPlaceFlt k.core v.1 h b y = none →
            let i := csrInput v.1 (o.mode.getLsbD 0) h b y ptr
            let order := (List.range ((h.nnz + i.pc - 1) / i.pc)).flatMap (csrStepElems h.nnz i.pc)
            let bad := order.find? fun j => decide (h.cols ≤ i.cols.getD j 0)
            let cells := ((List.range h.rows).map (csrRow i y)).flatMap (·.1)
            let flags : Flags := ((List.range h.rows).map (csrRow i y)).foldl (fun a r => a ||| r.2) 0
            let seen (l2 : List L2Line) (d : List (Nat × Nat)) : State :=
              { v.1 with vit := { v.1.vit with l2 := l2 }, dbg := { v.1.dbg with memLag := d } }
            (∀ j, csrPtrBad h ptr = some j → stops v.1 ⟨0x0403, BitVec.ofNat 32 j⟩) ∧
            (csrPtrBad h ptr = none → ∀ j, bad = some j →
              ∃ l2 d, stops (storeCells k.core { seen l2 d with free := v.1.free + h.rows * i.n }
                (csrStopped v.1 i y (csrStepOf h.nnz i.pc j))).1 ⟨0x0404, BitVec.ofNat 32 j⟩) ∧
            (csrPtrBad h ptr = none → bad = none →
              ∃ l2 d t, exec (.vcsr k o) s = .next t ∧
                RanTo .vcsr (.d o) k .ve s
                  (useBegin (useBegin (storeCells k.core { seen l2 d with free := v.1.free + 1 } cells).1 b.entry) y.entry)
                  (flags &&& 0x1D) [b.entry, y.entry] (some (csrLastWord v.1 h.nnz i.pc)) t ∧
                ((cells.map (·.1)).Nodup → ∀ r c p u, r < h.rows → c < i.n → y.desc.writePlace [(c : Int), (r : Int)] = .data p u →
                  ∀ n, n < y.desc.esize → byteAt t (y.addr p + n) =
                    ((convert y.desc.ty .fp32 0 0 false (csrValue i r c)).1).extractLsb' (8 * n) 8) ∧
                ∀ m, (∀ c ∈ cells, m ≠ c.1) → byteAt t m = byteAt s m))))

/-- SPARSIFY packs the kept elements of the active lanes into VD and their codes into VC, counts what it drops in
COR_VE_SPRUNE and sets SP_DROP where it drops any (R79, R195, R200).
What SPARSIFY keeps of a group of four: the two of highest magnitude among those that are not zero, in ascending
place (R79, R195). -/
def Obligations.SparsifyRow : Prop :=
  (∀ (k : Ctl) (o : OpV) (s : State), StartsNow .sparsify (.v o) k .ve s →
    let x := atStart .sparsify (.v o) k .ve s
    let c := s.core k.core
    let t := tyOf o.type
    let places := elemPlaces (vlOf o) t.perLane
    let xs := (places.filter fun pl => activeAt c o pl.1 (decide (pl.2 = 1))).map fun pl => elemAt c t o.va pl.1 pl.2
    let gs := fours xs
    let kept := gs.flatMap fun q => [q.getD (keepPair t q).1 0, q.getD (keepPair t q).2 0]
    let codes := gs.map fun q => (keepPair t q).1 + 4 * (keepPair t q).2
    let dropped := gs.foldl (fun a q => a + (nonZeros t q - min 2 (nonZeros t q))) 0
    let put (d : Core) : Core := (places.zip (List.range places.length)).foldl (fun acc p =>
      if p.2 < kept.length then putElem acc t o.vd p.1.1 p.1.2 (kept.getD p.2 0)
      else if activeAt c o p.1.1 (decide (p.1.2 = 1)) || o.mz then putElem acc t o.vd p.1.1 p.1.2 0 else acc) d
    let words (d : Core) : Core := (List.range ((xs.length + 31) / 32)).foldl (fun c l => vPut c o.vc l (metaWord codes l)) d
    xs.length % 4 = 0 → (o.fx.getLsbD 0 = true → ∀ q ∈ gs, nonZeros t q ≤ 2) →
    ∃ t', exec (.sparsify k o) s = .next t' ∧
      RanTo .sparsify (.v o) k .ve s
        (let y := x.modCore k.core fun d => words (put d)
         if dropped = 0 then y else y.rmod .corVeSprune k.core.val 0 fun v => satAdd v dropped)
        (if dropped = 0 then 0 else 0x100) [] none t') ∧
  (∀ (t : ETy) (q : List W32), t ∈ [ETy.fp32, .bf16, .fp16] → q.length = 4 →
    let k := keepPair t q
    k.1 < k.2 ∧ k.2 < 4 ∧
    ∀ i, i < 4 → i ≠ k.1 → i ≠ k.2 → eIsZero t (q.getD i 0) = false →
      ∀ j, j = k.1 ∨ j = k.2 → eIsZero t (q.getD j 0) = false ∧ sparseRank t (q.getD i 0) ≤ sparseRank t (q.getD j 0))

/-- FFUN writes what its function gives of every active element, with the flags that come with it, and counts seam-clamp replacements in
COR_SF_CLAMP (R152, R158). The polynomials are free values inside what R153 to R158 allow (log 5). -/
def Obligations.FfunRow : Prop :=
  ∀ (k : Ctl) (o : OpV) (s : State), StartsNow .ffun (.v o) k .sf s →
    let c := s.core k.core
    let t := tyOf o.type
    let y (lane j : Nat) : FunOut := ffun o.fx.toNat t (elemAt c t o.va lane j)
    let n := (elemPlaces (vlOf o) t.perLane).countP fun pl => activeAt c o pl.1 (decide (pl.2 = 1)) && (y pl.1 pl.2).clamp
    let r (d : Core) := elemWise o t (pureElem fun lane j => ((y lane j).bits, (y lane j).flags)) d
    ∃ t', exec (.ffun k o) s = .next t' ∧
      RanTo .ffun (.v o) k .sf s
        (let z := (atStart .ffun (.v o) k .sf s).modCore k.core fun d => (r d).1
         if n = 0 then z else z.rmod .corSfClamp k.core.val 0 fun v => v + BitVec.ofNat 64 n) (r c).2 [] none t'

/-- FSTAT merges the block of each non-empty group into its entry in ascending group order, and changes no entry where one of
them holds the other kind (R161 to R163).
FSTRD reads an entry into lanes 0 to 4 of VD and zeroes the rest; FSTCLR empties a run of entries (R165, R166). -/
def Obligations.StatisticRows : Prop :=
  (∀ (k : Ctl) (o : OpV) (s : State), StartsNow .fstat (.v o) k .sf s →
    let x := atStart .fstat (.v o) k .sf s
    let c := x.core k.core
    let t := tyOf o.type
    let first := o.fx.toNat % 4096
    let sh := o.fx.toNat / 4096 % 8
    let lse := o.fx.getLsbD 15
    let groups := (List.range (2 ^ sh)).filter fun g => !(groupElems c o t sh g).isEmpty
    let r := groups.foldl (fun (a : Core × Flags × Nat) g =>
      let m := mergeBlock (statGet a.1 (first + g)) lse (groupBlock c o t lse sh g)
      (statPut a.1 (first + g) m.entry, a.2.1 ||| m.flags, a.2.2 + m.clamps)) (c, 0, 0)
    ((∀ g ∈ groups, kindClash (statGet c (first + g)) lse = false) →
      ∃ t', exec (.fstat k o) s = .next t' ∧
        RanTo .fstat (.v o) k .sf s (countClamps (x.modCore k.core fun _ => r.1) k.core r.2.2) (r.2.1 &&& 0x3F) [] none t') ∧
    ∀ g, groups.find? (fun g => kindClash (statGet c (first + g)) lse) = some g →
      ∃ t', exec (.fstat k o) s = .next t' ∧
        RanToFault .fstat (.v o) k .sf s x ⟨0x0304, BitVec.ofNat 32 (first + g)⟩ t') ∧
  ((∀ (k : Ctl) (o : OpV) (s : State), StartsNow .fstrd (.v o) k .sf s →
    InCore (.fstrd k o) .fstrd (.v o) k .sf s fun c =>
      let e := statGet c (o.fx.toNat % 4096)
      (setWholeReg c o.vd [e.max, e.sum, e.mean, e.m2, (fp32OfNat e.count.toNat).1], 0)) ∧
  (∀ (k : Ctl) (o : OpV) (s : State), StartsNow .fstclr (.v o) k .sf s →
    InCore (.fstclr k o) .fstclr (.v o) k .sf s fun c =>
      let first := o.fx.toNat % 4096
      ({ c with rstat := c.rstat.filter fun e =>
          !decide (first ≤ e.1 ∧ e.1 < first + (issuedEntry .fstclr (.v o) k s).b.toNat) }, 0)))

/-! ## The matrix engine, chain groups and the pronk -/

/-- The instructions of the ME with an effect on their core alone: MSWAP, MABCLR, and MCSUM where the stationary set is valid
(R74, R95, R96, R100). -/
def Obligations.MatrixCoreRows : Prop :=
  (∀ (k : Ctl) (o : OpM) (s : State), StartsNow .mswap (.m o) k .me s →
    InCore (.mswap k o) .mswap (.m o) k .me s fun c =>
      ({ c with mat := { c.mat with stat := { c.mat.shad with preload := false }, shad := { c.mat.stat with preload := false } } }, 0)) ∧
  (∀ (k : Ctl) (o : OpM) (s : State), StartsNow .mabclr (.m o) k .me s →
    InCore (.mabclr k o) .mabclr (.m o) k .me s fun c =>
      let n := (issuedEntry .mabclr (.m o) k s).b.toNat
      ({ c with ab := c.ab.filter fun x => !decide (o.abr.toNat * 64 ≤ x.1 ∧ x.1 < (o.abr.toNat + n) * 64)
                outAb := (List.range (n * 64)).map (o.abr.toNat * 64 + ·) ++ c.outAb }, 0)) ∧
  (∀ (k : Ctl) (o : OpM) (s : State), StartsNow .mcsum (.m o) k .me s → (s.core k.core).mat.stat.valid = true →
    InCore (.mcsum k o) .mcsum (.m o) k .me s fun c =>
      ((List.range 64).foldl (fun d col => abPut d o.abr.toNat col (c.mat.stat.sums.getD col 0)) c, 0))

/-- MLOADS fills the shadow set from the core's own places: 64 columns with their sums, expanded by the 2:4 metadata with
SP24 = 1; a load of an address that is not the core's own leaves it invalid (R87, R92 to R96, R103, R196, R197, R477). -/
def Obligations.MloadsRow : Prop :=
  ∀ (k : Ctl) (o : OpM) (s : State), StartsNow .mloads (.m o) k .me s → StorageGood s →
    let e := issuedEntry .mloads (.m o) k s
    let x := atStart .mloads (.m o) k .me s
    let p := k.core
    let m := (s.core p).mat
    let w := tyOf o.wfmt
    let a := e.a.toNat
    let md := e.c.toNat
    let dense := (chunks (setBytes w / 64) 64 (readBytes s a (setBytes w))).map fun c => (elemsOf w c).map (widenW w)
    let codes := codesOf (readBytes s md (metaBytes w))
    let cols := if o.sp24 then (dense.zip (chunks (metaBytes w * 2 / 64) 64 codes)).map fun c => expandCol c.1 c.2 else dense
    let own := a % 256 = 0 ∧ ownSpan s p a (setBytes w) = true
    (own → (o.sp24 = true → md % 64 = 0 ∧ ownSpan s p md (metaBytes w) = true ∧ ∀ q ∈ codes, q % 4 < q / 4) →
      ∃ t, exec (.mloads k o) s = .next t ∧
        RanTo .mloads (.m o) k .me s (x.modCore p fun c => { c with mat := { m with shad :=
          { valid := true, sp24 := o.sp24, wfmt := o.wfmt, entry := 0, src := BitVec.ofNat 48 a, cols := cols,
            sums := cols.map (colSum w) } } }) 0 [] none t) ∧
    (¬ own → ∃ t, exec (.mloads k o) s = .next t ∧
      RanToFault .mloads (.m o) k .me s (x.modCore p fun c => { c with mat := { m with shad :=
        { m.shad with valid := false, preload := false } } }) ⟨0x0203, BitVec.ofNat 32 a⟩ t)

/-- MSEGT loads the segment table from the core's own places and clears the cursor and any preload; an entry that R98 refuses
empties the table and stops the core with its index. The order of the checks of an entry is the model's reading (log 64). -/
def Obligations.MsegtRow : Prop :=
  ∀ (k : Ctl) (o : OpM) (s : State), StartsNow .msegt (.m o) k .me s → StorageGood s →
    let e := issuedEntry .msegt (.m o) k s
    let x := atStart .msegt (.m o) k .me s
    let p := k.core
    let m := clearPreload (s.core p).mat
    let a := e.a.toNat
    let n := e.b.toNat
    let ws : List (W64 × W64) := (List.range n).map fun i =>
      (BitVec.ofNat 64 (leNat (readBytes s (a + 16 * i) 8)), BitVec.ofNat 64 (leNat (readBytes s (a + 16 * i + 8) 8)))
    a % 16 = 0 → ownSpan s p a (16 * n) = true →
    (ws.findIdx? (segBad p s) = none → ∃ t, exec (.msegt k o) s = .next t ∧
      RanTo .msegt (.m o) k .me s (x.modCore p fun c => { c with mat := { m with segt := ws, cursor := 0 } }) 0 [] none t) ∧
    (∀ i, ws.findIdx? (segBad p s) = some i → ∃ t, exec (.msegt k o) s = .next t ∧
      RanToFault .msegt (.m o) k .me s (x.modCore p fun c => { c with mat := { m with segt := [], cursor := 0 } })
        ⟨0x0201, BitVec.ofNat 32 i⟩ t)

/-- MPROD without a chain, a segment table or zero marks streams S[SN] rows of the core's own places through the stationary set:
word c of AB row ABR + r becomes the sum of row r with column c, added to what stood there with ACC = 1, and the gap before it ends (R88,
R96, R103, R105, R106).
A product starts whatever its form, once its rows, its sets and its chain meet no fault (R99, R100, R180, R182, R185). -/
def Obligations.MprodRow : Prop :=
  (∀ (k : Ctl) (o : OpM) (s : State), StartsNow .mprod (.m o) k .me s → StorageGood s →
    let e := issuedEntry .mprod (.m o) k s
    let p := k.core
    let c := s.core p
    let ta := tyOf o.afmt
    let tw := tyOf o.wfmt
    let len := (if is16 ta then 128 else 256) * (if o.sp24 then 2 else 1)
    let row (r : Nat) : List W32 := elemsOf ta (readBytes s (e.a.toNat + r * (len * ta.bytes)) (len * ta.bytes))
    let out (r col : Nat) : W32 × Flags :=
      outElem ta.isFloat o.acc true ta (cellTy tw) (row r) (c.mat.stat.cols.getD col [])
        (if o.acc then abGet c (o.abr.toNat + r) col else 0)
    o.chain = 0 → o.seg = false → o.zskip = false → smapWf (fun _ => (0 : W32)) c.ab = true → Canonical s →
    c.mat.stat.valid = true → c.mat.stat.wfmt = o.wfmt → c.mat.stat.sp24 = o.sp24 →
    e.a.toNat % 256 = 0 → (∀ r, r < e.b.toNat → ownSpan s p (e.a.toNat + r * (len * ta.bytes)) (len * ta.bytes) = true) →
    ∃ t, exec (.mprod k o) s = .next t ∧
      (∀ r col, r < e.b.toNat → col < 64 → abGet (t.core p) (o.abr.toNat + r) col = (out r col).1) ∧
      (∀ r col, col < 64 → (r < o.abr.toNat ∨ o.abr.toNat + e.b.toNat ≤ r) → abGet (t.core p) r col = abGet c r col) ∧
      (∃ x : Inflight, (flightOf (t.core p) .me).getLast? = some x ∧ x.e = e ∧ ∀ i : Nat, x.sticky.getLsbD i =
        (List.range e.b.toNat).any fun r => (List.range 64).any fun col => (out r col).2.getLsbD i) ∧
      SameButFront { c with ab := (t.core p).ab, mat := { c.mat with pronk := 0, gapCtl := s.rget .corMePronk p.val 0 } } (t.core p) ∧
      (∀ q, q ≠ p → t.core q = s.core q) ∧ t = { s with cores := t.cores, free := t.free, regs := t.regs } ∧
      (∀ r i n, r.at i n ≠ RegName.corMePronkClk.at p.val 0 → t.rget r i n = s.rget r i n)) ∧
  (∀ (k : Ctl) (o : OpM) (s : State), StartsNow .mprod (.m o) k .me s →
    let r := runMprod k.core (issuedEntry .mprod (.m o) k s) o (atStart .mprod (.m o) k .me s)
    r.fault = none → Unheld s r.st → ∃ t, exec (.mprod k o) s = .next t ∧ RanTo .mprod (.m o) k .me s r.st r.sticky r.uses r.csrLast t)

/-- CHAIN_GROUP takes up to eight rows of the oldest running product through its epilogue, on the 64 elements of each; the last group ends the
run and advances the band, and what the run held back starts (R180, R181). The pronk of a gap: dummy activity for PRONK_MAX clocks, as
COR_ME_PRONK stood when the gap began, then a ramp-down of 3,600 clocks, then the gate; the clocks are counted in COR_ME_PRONK_CLK (R105,
R106). The clocks of a gap are free (log 27). -/
def Obligations.MatrixEventRows : Prop :=
  (∀ (p : Fin 72) (s : State) (run : ChainRun) (rest : List ChainRun) (g : ChainProg), domOn s 0 = true →
     (s.core p).runs = run :: rest → slotGet (s.core p) run.slot = some g →
     let rows := runGroup (s.core p) run (tyOf g.einFmt)
     let d := chainDone p (epilogueGroup
       { p := p, slot := run.slot, g := g, epi := true, n := 64, sel := run.sel, abr := run.abr } rows s)
     let x := pumpQueues p (d.1.modCore p fun c =>
       let b := noteGroup run.seq c
       if run.rows.length ≤ 8 then advanceBand { b with runs := rest } run.slot run.n
       else { b with runs := { run with rows := run.rows.drop 8, next := run.next + 8 } :: rest })
     d.2 = none → Unheld s x → Leaves (.chainGroup p) s x) ∧
  ((∀ (p : Fin 72) (s : State), Canonical s → (s.core p).mat.gapCtl.getLsbD 31 = true → (s.core p).mat.pronk = 0 →
     (s.map[p.val]).role = 0 → ∃ t, exec (.pronkRampDown p) s = .next t ∧ (t.core p).mat = { (s.core p).mat with pronk := 1 } ∧
       t.rget .corMePronkClk p.val 0 = s.rget .corMePronkClk p.val 0 + ((s.core p).mat.gapCtl &&& 0xFFF) ∧
       t = { s with regs := t.regs, cores := t.cores } ∧ ∀ q, q ≠ p → t.core q = s.core q) ∧
   (∀ (p : Fin 72) (s : State), Canonical s → (s.core p).mat.pronk = 1 →
     ∃ t, exec (.pronkGate p) s = .next t ∧ (t.core p).mat = { (s.core p).mat with pronk := 2 } ∧
       t.rget .corMePronkClk p.val 0 = s.rget .corMePronkClk p.val 0 + 3600 ∧
       t = { s with regs := t.regs, cores := t.cores } ∧ ∀ q, q ≠ p → t.core q = s.core q))

/-! ## The copy engine and the collective port -/

/-- The bytes of a source element that a copy reads at a place: its data, the fill value or the padding value (R253). -/
def sourceBytes (s : State) (v : View) : Spot → List Byte
  | .fill => leBytes v.desc.esize v.desc.fill.toNat
  | .pad _ => leBytes v.desc.esize v.desc.padval.toNat
  | .dropped => leBytes v.desc.esize 0
  | .data x _ => readBytes s (v.addr x) v.desc.esize

/-- The elements that a copy writes, by address, in the order of the destination's logical coordinates: those that fall in its data
(R254, R258). -/
def movedElems (s : State) (src dst : View) (place : List Int → List Int) : List (Nat × List Byte) :=
  dst.desc.logical.filterMap fun x => match dst.desc.writePlace x with
    | .data y _ => some (dst.addr y, sourceBytes s src (src.desc.readPlace (place x)))
    | _ => none

/-- Every byte of the elements of a list holds what one of the elements that name it has there (R256), and no other byte changes. -/
def HoldsElems (s t : State) (l : List (Nat × List Byte)) : Prop :=
  (∀ e ∈ l, ∀ i, i < e.2.length → ∃ f ∈ l, ∃ j, j < f.2.length ∧ f.1 + j = e.1 + i ∧ byteAt t (e.1 + i) = f.2.getD j 0) ∧
  ∀ a, (∀ e ∈ l, a < e.1 ∨ e.1 + e.2.length ≤ a) → byteAt t a = byteAt s a

/-- A master reaches the data element of a view at a place, where it names one. -/
def Reaches (m : Master) (s : State) (v : View) : Spot → Prop
  | .data x _ => placeErrSpan m s (v.addr x) v.desc.esize = none
  | _ => True

/-- A master reaches every element that a copy writes and the source element of each. -/
def CopyReaches (m : Master) (s : State) (src dst : View) (place : List Int → List Int) : Prop :=
  ∀ x ∈ dst.desc.logical, ∀ y q, dst.desc.writePlace x = .data y q →
    Reaches m s dst (.data y q) ∧ Reaches m s src (src.desc.readPlace (place x))

/-- CCOPY, and CTRANS with dimensions 0 and 1 exchanged, move every element of the source that the destination takes, count
their bytes and use both entries; the checks of the two views come first (R256 to R259).
Each byte of the destination's data elements ends as the byte of a source element that is written there, where the copy writes no byte
that it reads (R258, R262). -/
def Obligations.CopyRows : Prop :=
  ∀ r ∈ [((.ccopy, .ccopy, false) : (Ctl → OpD → Instr) × CoreOp × Bool), (.ctrans, .ctrans, true)],
    ∀ (k : Ctl) (o : OpD) (s : State), StartsNow r.2.1 (.d o) k .ce s → StorageGood s → Canonical s →
    let e := issuedEntry r.2.1 (.d o) k s
    let v := openTwo (.core k.core) (atStart r.2.1 (.d o) k .ce s) e.b e.a
    let place (x : List Int) : List Int := if r.2.2 then x.getD 1 0 :: x.getD 0 0 :: x.drop 2 else x
    (∀ f, v.2 = .error f → ∃ t, exec (r.1 k o) s = .next t ∧ RanToFault r.2.1 (.d o) k .ce s v.1 f t) ∧
    ∀ src dst, v.2 = .ok (src, dst) →
      (∀ f, pairFlt src dst r.2.2 = some f → ∃ t, exec (r.1 k o) s = .next t ∧ RanToFault r.2.1 (.d o) k .ce s v.1 f t) ∧
      (pairFlt src dst r.2.2 = none → CopyReaches (.core k.core) s src dst place →
        let out := copyViews (.core k.core) src dst r.2.2 v.1
        let l := movedElems s src dst place
        (∃ t, exec (r.1 k o) s = .next t ∧
          RanTo r.2.1 (.d o) k .ce s (useBegin (useBegin
            (out.st.rmod .corCeBytes k.core.val 0 fun n => n + BitVec.ofNat 64 (src.desc.esize * l.length)) src.entry) dst.entry)
            out.sticky [src.entry, dst.entry] none t) ∧
        (L1Coherent k.core s →
          (∀ x ∈ dst.desc.logical, ∀ y q z u, dst.desc.writePlace x = .data y q → src.desc.readPlace (place x) = .data z u →
            ∀ e ∈ l, src.addr z + src.desc.esize ≤ e.1 ∨ e.1 + dst.desc.esize ≤ src.addr z) →
          HoldsElems s out.st l))

/-- A copy writes no byte outside the destination's data elements, where the storage holds no error (R256, R258). -/
def Obligations.CopyFrame : Prop :=
  ∀ (m : Master) (src dst : View) (swap : Bool) (s : State) (a : Nat), Canonical s → byteKey s a ≠ none → s.memErr = [] → s.galErr = [] →
    (∀ x ∈ dst.desc.logical, ∀ y o, dst.desc.writePlace x = .data y o → a < dst.addr y ∨ dst.addr y + dst.desc.esize ≤ a) →
    byteAt (copyViews m src dst swap s).st a = byteAt s a

/-- CFILL writes the low bytes of S[SO] to every data position of its destination, and CABOUT writes AB rows into a view of 64 columns;
both count their bytes, use their entry, and refuse a view that fails its checks (R256, R257, R260, R261). -/
def Obligations.FillRows : Prop :=
  (∀ (k : Ctl) (o : OpD) (s : State), StartsNow .cfill (.d o) k .ce s → StorageGood s → Canonical s →
    let e := issuedEntry .cfill (.d o) k s
    let v := openView (.core k.core) (atStart .cfill (.d o) k .ce s) e.a
    (∀ f, v.2 = .error f → ∃ t, exec (.cfill k o) s = .next t ∧ RanToFault .cfill (.d o) k .ce s v.1 f t) ∧
    ∀ dst, v.2 = .ok dst →
      (dst.destOk = false →
        ∃ t, exec (.cfill k o) s = .next t ∧ RanToFault .cfill (.d o) k .ce s v.1 ⟨0x0505, dst.handle⟩ t) ∧
      (dst.destOk = true → (∀ x ∈ dst.desc.positions, placeErrSpan (.core k.core) s (dst.addr x) dst.desc.esize = none) →
        let out := fillView (.core k.core) dst e.c v.1
        let l := dst.desc.positions.map fun x => (dst.addr x, leBytes dst.desc.esize e.c.toNat)
        HoldsElems s out.st l ∧
        ∃ t, exec (.cfill k o) s = .next t ∧
          RanTo .cfill (.d o) k .ce s
            (useBegin (out.st.rmod .corCeBytes k.core.val 0 fun n => n + BitVec.ofNat 64 (dst.desc.esize * l.length)) dst.entry)
            0 [dst.entry] none t)) ∧
  (∀ (k : Ctl) (o : OpD) (s : State), StartsNow .cabout (.d o) k .ce s → StorageGood s → Canonical s →
    let e := issuedEntry .cabout (.d o) k s
    let v := openView (.core k.core) (atStart .cabout (.d o) k .ce s) e.a
    (∀ f, v.2 = .error f → ∃ t, exec (.cabout k o) s = .next t ∧ RanToFault .cabout (.d o) k .ce s v.1 f t) ∧
    ∀ dst, v.2 = .ok dst →
      let shape := (dst.desc.ty = .fp32 ∨ dst.desc.ty = .int32) ∧ dst.desc.ext 0 = 64 ∧ rowCount dst.desc = e.d.toNat
      (dst.destOk = false →
        ∃ t, exec (.cabout k o) s = .next t ∧ RanToFault .cabout (.d o) k .ce s v.1 ⟨0x0505, dst.handle⟩ t) ∧
      (dst.destOk = true → ¬ shape →
        ∃ t, exec (.cabout k o) s = .next t ∧ RanToFault .cabout (.d o) k .ce s v.1 ⟨0x0504, dst.handle⟩ t) ∧
      (dst.destOk = true → shape → (∀ x ∈ dst.desc.logical, Reaches (.core k.core) s dst (dst.desc.writePlace x)) →
        let word (x : List Int) : List Byte :=
          leBytes 4 (abGet (s.core k.core) (e.c.toNat + rowIndex dst.desc x) (x.getD 0 0).toNat).toNat
        let out := writeAll (.core k.core) dst (dst.desc.logical.map fun x => (x, word x)) v.1
        let l := dst.desc.logical.filterMap fun x => match dst.desc.writePlace x with
          | .data y _ => some (dst.addr y, word x)
          | _ => none
        HoldsElems s out.st l ∧
        ∃ t, exec (.cabout k o) s = .next t ∧
          RanTo .cabout (.d o) k .ce s
            (useBegin (out.st.rmod .corCeBytes k.core.val 0 fun n => n + BitVec.ofNat 64 (4 * l.length)) dst.entry)
            out.sticky [dst.entry] none t))

/-- CPSIG queues one SIGNAL to the module and core that S[SD] names, and refuses reserved bits (R368, R374). -/
def Obligations.CpsigRow : Prop :=
  ∀ (k : Ctl) (o : OpD) (s : State), StartsNow .cpsig (.d o) k .cp s →
    let e := issuedEntry .cpsig (.d o) k s
    let x := atStart .cpsig (.d o) k .cp s
    let bad6 := 2 ≤ o.mode.toNat ∨ o.fx ≠ 0
    let bad7 := e.a.toNat / 2 ^ 16 % 2 ^ 16 ≠ 0 ∨ e.a.toNat / 2 ^ 43 ≠ 0 ∨ (o.mode.getLsbD 0 = true ∧ 16 ≤ e.a.toNat / 2 ^ 38 % 32)
    let offset := e.a.toNat / 2 ^ 32 % 64 + (if o.mode.getLsbD 0 then 64 else 0) + e.a.toNat / 2 ^ 38 % 32 * 128
    let sig : Txn := { ttype := 4, dst := e.a.extractLsb' 0 16, addr := BitVec.ofNat 48 offset }
    (bad6 → ∃ t, exec (.cpsig k o) s = .next t ∧ RanToFault .cpsig (.d o) k .cp s x ⟨0x0901, 6⟩ t) ∧
    (¬ bad6 → bad7 → ∃ t, exec (.cpsig k o) s = .next t ∧ RanToFault .cpsig (.d o) k .cp s x ⟨0x0901, 7⟩ t) ∧
    (¬ bad6 → ¬ bad7 → ∃ t, exec (.cpsig k o) s = .next t ∧ RanTo .cpsig (.d o) k .cp s
      (request x [⟨sig, .remote k.core e.seq (s.core k.core).tag none⟩]) 0 [] none t)

/-- The target of a CPPUT or CPACC (R368); none where it is invalid. -/
def portTarget (s : State) (o : OpD) : Option (BitVec 16) :=
  let i := o.fx.toNat % 2 ^ 16
  match o.fx.toNat / 2 ^ 16 % 4, s.col.plan with
  | 0, _ => some (BitVec.ofNat 16 i)
  | 1, some p => if i < p.r then some (p.members.getD i 0) else none
  | 2, some p => some (p.members.getD ((p.rank + i) % p.r) 0)
  | 3, some p => some p.loanPartner
  | _, _ => none

/-- The lowest detail of R374 for which a CPPUT or CPACC is refused once its views have passed. -/
def portDetail (s : State) (o : OpD) (badType : Prop) [Decidable badType] : Option Nat :=
  if o.fx.toNat / 2 ^ 16 % 4 ≠ 0 ∧ s.col.plan = none then some 1
  else if badType then some 3
  else if o.fx.toNat / 2 ^ 22 ≠ 0 ∨ (o.mode.toNat ≠ 0 ∧ o.mode.toNat ≠ 2) then some 6
  else if portTarget s o = none then some 7
  else none

/-- The other instructions of the collective port: they refuse with the first failure of their views, and then with the lowest detail of
R374 whose cause holds (the order is the model's reading, log 150), and otherwise start. CPBKT accepts its bucket, then reads its values,
forms its chunks and sends them; a thinned bucket may park in a window that is being wiped, so that its last clause is of an unthinned one.
CPGATH registers its source, and after a CLEAN verdict the gather of the own shards is sent to every other member. CPPUT sends the elements
of its view as WRITEs and CPACC as ACCs (R350 to R352, R364, R365, R368 to R370). -/
def Obligations.CollectivePortRows : Prop :=
  (∀ (k : Ctl) (o : OpD) (s : State), StartsNow .cpbkt (.d o) k .cp s → StorageGood s → Canonical s →
    let e := issuedEntry .cpbkt (.d o) k s
    let r := openView .coll (atStart .cpbkt (.d o) k .cp s) e.b
    let n : W32 := e.d.extractLsb' 0 32
    let b := e.c.toNat
    (∀ f, r.2 = .error f → ∃ t, exec (.cpbkt k o) s = .next t ∧ RanToFault .cpbkt (.d o) k .cp s r.1 f t) ∧
    ∀ v, r.2 = .ok v →
      (∀ f, bucketCheck r.1 k.core o v b n = .error f →
        ∃ t, exec (.cpbkt k o) s = .next t ∧ RanToFault .cpbkt (.d o) k .cp s r.1 f t) ∧
      ∀ pl x, bucketCheck r.1 k.core o v b n = .ok (pl, x) →
        let y := putStep (perfCount r.1 .dbgCol 0 1) { x with tag := some (s.core k.core).tag, handed := nsetAdd x.handed b }
        let z := tryShard { y with col := { y.col with shards := y.col.shards ++ [newShard pl n b] } } n b
        let d := readDense z v 0 (pl.v b)
        let c := doChunks d.1 pl n b (o.mode.getLsbD 0) (halves d.2.1)
        let q := useBegin (c.2.1.foldl (sendContrib (.contrib k.core e.seq n)) c.1) v.entry
        let starts := ∃ t, exec (.cpbkt k o) s = .next t ∧ RanTo .cpbkt (.d o) k .cp s q 0 [v.entry] none t
        (d.2.2 = none → c.2.2 = none → Unheld s q → starts) ∧
        (o.mode = 0 → 0 < pl.r → pl.first b pl.rank < pl.last b pl.rank → shardOf s n b = none →
          (∀ i, i < pl.v b → placeErrSpan .coll s (v.addr (v.desc.denseCoord i)) 2 = none) →
          starts ∧ d.2.1 = (List.range (pl.v b)).flatMap fun i => readBytes s (v.addr (v.desc.denseCoord i)) 2)) ∧
  (∀ (k : Ctl) (o : OpD) (s : State), StartsNow .cpgath (.d o) k .cp s → StorageGood s →
    let e := issuedEntry .cpgath (.d o) k s
    let x := atStart .cpgath (.d o) k .cp s
    let n : W32 := e.d.extractLsb' 0 32
    (∀ f, viewCheck x e.b = .error f → ∃ t, exec (.cpgath k o) s = .next t ∧ RanToFault .cpgath (.d o) k .cp s x f t) ∧
    ∀ y, viewCheck x e.b = .ok y →
      let r := readRecord .coll x y.1
      let g : GatherSrc := ⟨k.core, e.seq, e.b.extractLsb' 0 32, r.2.1, y.2.2.base.toNat, y.2.1⟩
      let v := gatherView g
      (∀ f, gatherCheck r.1 v n = .error f →
        ∃ t, exec (.cpgath k o) s = .next t ∧ RanToFault .cpgath (.d o) k .cp s r.1 f t) ∧
      (gatherCheck r.1 v n = .ok none → ∃ t, exec (.cpgath k o) s = .next t ∧ RanTo .cpgath (.d o) k .cp s r.1 0 [] none t) ∧
      ∀ pl c, gatherCheck r.1 v n = .ok (some (pl, c)) →
        let w := useBegin (modStep r.1 n fun y => { y with source := some g }) y.2.1
        (c.cls ≠ some 0 → ∃ t, exec (.cpgath k o) s = .next t ∧ RanTo .cpgath (.d o) k .cp s w 0 [y.2.1] none t) ∧
        (c.cls = some 0 → bitB (s.rget .colLoanCtl 0 0) 31 = false → c.gathered = false → pl.r ≠ 1 →
          (∃ m ∈ others s pl, m ∉ c.heard) →
          (∀ b, b < pl.nb → ∀ i, i < pl.own b pl.rank →
            placeErrSpan .coll s (v.addr (v.desc.denseCoord (b * pl.vbkt + 1024 * pl.first b pl.rank + i))) 2 = none) →
          let parts := (List.range pl.nb).map fun b => (pl.param b (1024 * pl.first b pl.rank),
            (List.range (pl.own b pl.rank)).flatMap fun i =>
              readBytes s (v.addr (v.desc.denseCoord (b * pl.vbkt + 1024 * pl.first b pl.rank + i))) 2)
          let l := parts.flatMap fun p => (others s pl).flatMap fun m => lineWrites m p.1 p.2 (.gather n m)
          ∃ t l2 d, exec (.cpgath k o) s = .next t ∧
            (let w := modStep { w with vit := { w.vit with l2 := l2 }, dbg := { w.dbg with memLag := d } } n
               fun y => { y with gathering := true, loan := none }
             RanTo .cpgath (.d o) k .cp s
               (gatherNext (request (perfCount (perfCount w .dbgCol 4 l.length) .dbgCol 5 0) l) n) 0 [y.2.1] none t))) ∧
  (∀ (k : Ctl) (o : OpD) (s : State), StartsNow .cpput (.d o) k .cp s → StorageGood s →
    let e := issuedEntry .cpput (.d o) k s
    let v := openTwo .coll (atStart .cpput (.d o) k .cp s) e.b e.a
    let stops (f : Flt) : Prop := ∃ t, exec (.cpput k o) s = .next t ∧ RanToFault .cpput (.d o) k .cp s v.1 f t
    (∀ f, v.2 = .error f → stops f) ∧
    ∀ src dst, v.2 = .ok (src, dst) →
      (dst.destOk = false → stops ⟨0x0505, dst.handle⟩) ∧
      (dst.destOk = true → src.desc.typeCode ≠ dst.desc.typeCode →
        stops ⟨0x0503, BitVec.ofNat 32 (dst.desc.typeCode + 256 * src.desc.typeCode)⟩) ∧
      (dst.destOk = true → src.desc.typeCode = dst.desc.typeCode →
        (∀ i, portDetail s o False = some i → stops ⟨0x0901, BitVec.ofNat 32 i⟩) ∧
        ∀ m, portDetail s o False = none → portTarget s o = some m →
          (∀ x ∈ dst.desc.logical, ∀ y q, dst.desc.writePlace x = .data y q → Reaches .coll s src (src.desc.readPlace x)) →
          let mv := dst.desc.logical.foldl (fun mv y => putPos src dst y mv) { st := v.1 }
          let c := settleCells mv.st { mv with read := [] } dst.desc.esize
          let use : ReqUse := .remote k.core e.seq (s.core k.core).tag (if o.mode.getLsbD 1 then some (o.fx.toNat / 2 ^ 18 % 16) else none)
          mv.cells = (movedElems s src dst id).flatMap (fun e => cellsAt e.1 e.2) ∧
          ((mv.cells.map (·.1)).Nodup → c = (mv.st, mv.cells)) ∧
          ∃ t, exec (.cpput k o) s = .next t ∧
            RanTo .cpput (.d o) k .cp s (useBegin (useBegin
              (sendRemote c.1 k.core (cpCounter o) ((putTxns m c.2).map fun y => ⟨y, use⟩)) src.entry) dst.entry)
              0 [src.entry, dst.entry] none t)) ∧
  (∀ (k : Ctl) (o : OpD) (s : State), StartsNow .cpacc (.d o) k .cp s → StorageGood s →
    let e := issuedEntry .cpacc (.d o) k s
    let v := openTwo .coll (atStart .cpacc (.d o) k .cp s) e.b e.a
    let stops (f : Flt) : Prop := ∃ t, exec (.cpacc k o) s = .next t ∧ RanToFault .cpacc (.d o) k .cp s v.1 f t
    (∀ f, v.2 = .error f → stops f) ∧
    ∀ src dst, v.2 = .ok (src, dst) →
      let n := src.desc.count
      let line (a : Nat) : Prop := dst.desc.ty = .fp32 ∧ n % 16 = 0 ∧ a % 64 = 0 ∧
        dst.desc.positions.map dst.addr = (List.range n).map fun i => a + 4 * i
      (dst.destOk = false → stops ⟨0x0505, dst.handle⟩) ∧
      (dst.destOk = true →
        (∀ i, portDetail s o (src.desc.ty ≠ .bf16) = some i → stops ⟨0x0901, BitVec.ofNat 32 i⟩) ∧
        (portDetail s o (src.desc.ty ≠ .bf16) = none → (∀ a, ¬ line a) → stops ⟨0x0901, 8⟩) ∧
        ∀ m a, portDetail s o (src.desc.ty ≠ .bf16) = none → portTarget s o = some m → 0 < n → line a →
          (∀ i, i < n → placeErrSpan .coll s (src.addr (src.desc.denseCoord i)) 2 = none) →
          let d := readDense v.1 src 0 n
          let use : ReqUse := .remote k.core e.seq (s.core k.core).tag (if o.mode.getLsbD 1 then some (o.fx.toNat / 2 ^ 18 % 16) else none)
          d.2.1 = ((List.range n).flatMap fun i => readBytes s (src.addr (src.desc.denseCoord i)) 2) ∧
          ∃ t, exec (.cpacc k o) s = .next t ∧
            RanTo .cpacc (.d o) k .cp s (useBegin (useBegin
              (sendRemote d.1 k.core (cpCounter o) ((accTxns m a d.2.1).map fun y => ⟨y, use⟩)) src.entry) dst.entry)
              0 [src.entry, dst.entry] none t))

/-! ## Queues, dispatches and cores: their own events -/

/-- The events of a queue on a core that works: a satisfied wait clears its flag, is a barrier for the L1 after an outside signal
and arms its instruction; the oldest unreleased instruction releases; the oldest started one completes, sets its sticky bits and
delivers its signals; a wait beyond its limit stops the core with E_CORE_WAIT_TIMEOUT (R28, R32, R34, R35, R38, R134, R234). -/
def Obligations.QueueEventRows : Prop :=
  ∀ (p : Fin 72) (g : Engine) (s : State), coreWorks s p = true →
    (∀ e rest, queueOf (s.core p) g = e :: rest → syWaits e.sync = true → e.armed = false → waitsOk (s.core p) e.sync e.thr = true →
      outranked (s.core p) g e.sync = false →
      Leaves (.waitSatisfied p g) s (pumpQueues p ((if (s.core p).extSig then l1Barrier p s else s).modCore p fun c =>
        setQueue (waitClear e.sync c) g ({ e with armed := true } :: rest)))) ∧
    (∀ pre x post, flightOf (s.core p) g = pre ++ x :: post → (∀ y ∈ pre, y.released = true) → x.released = false →
      cpMayRelease s p x.e = true →
      Leaves (.instructionRelease p g) s (pumpQueues p (s.modCore p fun c =>
        settleFlight (setFlight c g (pre ++ { x with released := true } :: post)) g))) ∧
    (∀ x rest, flightOf (s.core p) g = x :: rest → mayComplete s p x = true →
      Leaves (.instructionComplete p g) s (pumpQueues p
        ((match x.csrLast with
          | some v => (usesEnd s x.uses).rset .corVeCsrLast p.val 0 v
          | none => usesEnd s x.uses).modCore p fun c =>
            let d := orSticky (landLanes rest x (setFlight c g rest)) g x.sticky
            settleFlight (if x.signalled then d else applySignals x.e.sync d) g))) ∧
    (∀ e rest, queueOf (s.core p) g = e :: rest → syWaits e.sync = true → e.armed = false →
      waitsOk (s.core p) e.sync e.thr = false → s.rget .corWaitLimit p.val 0 ≠ 0 →
      Leaves (.waitTimeout p g) s (coreFault s p (engCode g) (waitFlt g e.sync) e.stream (e.pc.zeroExtend 64)))

/-- A core that is done reports and is IDLE, and the last one ends its command (R30, R46, R312). A stopped or aborted dispatch
is stopped on every core that has not finished, other cores keep their state, and no byte changes but what abandoned instructions
and open bands were writing; once every core is STOPPED, its command ends with the first fault's code, or cancelled where it was aborted (R49,
R50, R307, R309). A stopped dispatch also waits for its unanswered contributions (log 94). -/
def Obligations.DispatchEnds : Prop :=
  (∀ (p : Fin 72) (s : State), domOn s 0 = true → coreDone s p = true →
    let s1 := modDispatch (s.modCore p fun c => { c with runstate := 0 }) (s.core p).tag fun d =>
      { d with finished := d.finished ++ [p] }
    (dispatchOf s1 (s.core p).tag = none → Leaves (.coreFinished p) s s1) ∧
    (∀ d, dispatchOf s1 (s.core p).tag = some d →
      ((∀ q ∈ d.cores, q ∈ d.finished) ∧ d.stopping = false ∧ d.aborted = false →
        Leaves (.coreFinished p) s (finishDispatch s1 d)) ∧
      (¬ ((∀ q ∈ d.cores, q ∈ d.finished) ∧ d.stopping = false ∧ d.aborted = false) → Leaves (.coreFinished p) s s1))) ∧
  (∀ (tag : W32) (s : State) (d : Dispatch), dispatchOf s tag = some d → d.stopping = true ∨ d.aborted = true →
    ∃ t, exec (.dispatchStop tag) s = .next t ∧
      (Canonical s → ∀ a, (∀ p ∈ d.cores, p ∉ d.finished → ¬ Abandoned (s.core p) a) → byteAt t a = byteAt s a) ∧
      (∀ p ∈ d.cores, p ∉ d.finished → (t.core p).runstate = 5 ∨ (t.core p).runstate = 4 ∨ (t.core p).runstate = 0) ∧
      (∀ p, p ∉ d.cores ∨ p ∈ d.finished → t.core p = s.core p) ∧
      ((∃ p ∈ d.cores, p ∉ d.finished ∧ (t.core p).runstate = 4) → t.host = s.host) ∧
      ((∀ p ∈ d.cores, p ∉ d.finished → (t.core p).runstate ≠ 4) →
        (∀ e ∈ t.host.dispatches, e.tag = tag → e.done = true) ∧
        (∀ c, cmdAt s d.ring d.index = some c → ∃ c', cmdAt t d.ring d.index = some c' ∧ c'.entry = c.entry ∧
          c'.state = .finished ∧ c'.status = (if d.aborted then 3 else 1) ∧
          ∀ q, d.aborted = false → firstFault s d = some q →
            c'.code = (s.core q).frec.code ∧ c'.detail = (s.core q).frec.detail)))

/-- The configuration writes and events of the cores' management and the vitrine, on the state that holds the write's record.
A retirement takes effect at once on a core that no dispatch holds, and otherwise when its dispatch has ended, which FORCE stops with
E_CORE_RETIRED_IN_USE; a reseed acts
at once on an IDLE core, and otherwise waits; a free-running generator steps at every clock in RUN; a handover names the owner
and counts it, and zeroes the bank with WIPE; the swizzle of an IDLE core's gallery changes (R52, R53, R146, R147, R219, R224,
R225, R227). That the whole bank is zeroed at once, that a reseed draws free values, that a wipe's end on a bank with no wipe pending
leaves the state, and what the record of a forced retirement holds of the stream, are the model's (log 63, log 5, log 106, log 116). -/
def Obligations.CoreAndVitrineWrites : Prop :=
  (∀ (w : Writer) (v : W32) (s : State) (p : Fin 72), Writable w (RegName.corRetire.at 0 0) s → bitB v 31 = true →
    bitsN v 0 7 = p.val → s.map[p.val].role = 0 → s.host.retire = none →
    let y := recorded s w .corRetire 0 0 4 (v.zeroExtend 64)
    (dispatchOfCore s p = none → Leaves (.corRetire w v) s (takeRetirement y p)) ∧
    (∀ d, dispatchOfCore s p = some d →
      let x := retireStatus { y with host := { y.host with retire := some p } } 1 0
      (bitB v 8 = false ∨ d.done = true ∨ d.stopping = true ∨ d.aborted = true → Leaves (.corRetire w v) s x) ∧
      (bitB v 8 = true → d.done = false → d.stopping = false → d.aborted = false →
        Leaves (.corRetire w v) s
          (coreFault x p 7 ⟨0x010C, BitVec.ofNat 32 p.val⟩ 0 ((streamOf (s.core p) 0).pc.zeroExtend 64))))) ∧
  (∀ (s : State) (p : Fin 72), s.host.retire = some p → dispatchOfCore s p = none →
    Leaves .retirementTakesEffect s (takeRetirement s p)) ∧
  (∀ (s : State) (p q : Fin 72), s.map[p.val].role = 0 → lowestSpare s = some q →
    (takeRetirement s p).map = (s.map.set p.val ⟨2, 0⟩).set q.val ⟨0, s.map[p.val].logical⟩) ∧
  (∀ (w : Writer) (p : Fin 72) (v : W32) (s : State), Writable w (RegName.corVeGenCtl.at p.val 0) s →
    let v' : W64 := (setBit v 8 true).zeroExtend 64
    let y := plainWrite (recorded s w .corVeGenCtl p.val 0 4 v') .corVeGenCtl p.val 0 v' 0xFFFFFFFF
    ((s.core p).runstate = 0 → Leaves (.reseed w p v) s (reseedCore y p)) ∧
    ((s.core p).runstate ≠ 0 → Leaves (.reseed w p v) s (y.modCore p fun c => { c with reseedPending := true }))) ∧
  (∀ (p : Fin 72) (s : State), (s.core p).reseedPending = true → (s.core p).runstate = 0 →
    Leaves (.reseedAtIdle p) s (reseedCore s p)) ∧
  (∀ s : State, pwrState s = 2 → domOn s 0 = true →
    ∃ x, Leaves .freeRunningStep s x ∧ x = { s with cores := x.cores } ∧
      ∀ p, x.core p = if s.map[p.val].role = 0 ∧ (s.core p).freeRun = true then stepGens (s.core p) else s.core p) ∧
  (∀ (w : Writer) (n : Fin 64) (v : W64) (s : State), Writable w (RegName.vtrOwn.at 0 n.val) s →
    ownerOk s (bitsN v 0 8) = true → bitB (s.rget .vtrOwn 0 n.val) 30 = false → bitB (s.rget .vtrOwn 0 n.val) 31 = true →
    (bitsN (s.rget .vtrOwn 0 n.val) 0 8 ≠ 0x42 ∨ w = .curator) →
    let y := (recorded s w .vtrOwn 0 n.val 8 v).rmod .vtrOwn 0 n.val fun x =>
      setBit (setBits (setBits (setBit x 29 false) 0 8 (bitsN v 0 8)) 32 16 (bitsN x 32 16 + 1)) 30 (bitB v 16)
    Leaves (.handover w n v) s (if bitB v 16 then zeroBank y n.val else y)) ∧
  (∀ (n : Fin 64) (s : State), bitB (s.rget .vtrOwn 0 n.val) 30 = true →
    Leaves (.handoverWipeDone n) s (releaseHolds (s.rmod .vtrOwn 0 n.val fun x => setBit x 30 false))) ∧
  (∀ (n : Fin 64) (s : State), bitB (s.rget .vtrOwn 0 n.val) 30 = false → Leaves (.handoverWipeDone n) s s) ∧
  (∀ (w : Writer) (n : Fin 64) (v : W32) (s : State) (p : Fin 72), Writable w (RegName.vtrSwz.at 0 n.val) s →
    physOf s n.val = some p → (s.core p).runstate = 0 → bitB (s.rget .vtrOwn 0 n.val) 30 = false →
    Leaves (.swizzleWrite w n v) s
      ((recorded s w .vtrSwz 0 n.val 4 (v.zeroExtend 64)).rset .vtrSwz 0 n.val (BitVec.ofNat 64 (bitsN v 0 2)))) ∧
  (∀ s : State, bitB (s.rget .vtrScrubCtl 0 0) 31 = true → pwrState s = 2 →
    Leaves .patrolScrub s ((s.galErr.map (·.1)).foldl scrubWord s))

/-- A wiped handover bank reads zero in every byte, and no byte outside it changes (R217, R227). -/
def Obligations.WipedBankIsZero : Prop :=
  ∀ (n : Fin 64) (p : Fin 72) (s : State), Canonical s → physOf s n.val = some p →
    (∀ o, 15 * 2 ^ 20 ≤ o → o < 2 ^ 24 → byteAt (zeroBank s n.val) (vtrBase + n.val * 2 ^ 24 + o) = 0) ∧
    ∀ a, ¬ (vtrBase + n.val * 2 ^ 24 + 15 * 2 ^ 20 ≤ a ∧ a < vtrBase + (n.val + 1) * 2 ^ 24) →
      byteAt (zeroBank s n.val) a = byteAt s a

/-! ## The registrar -/

/-- A command of a ring that may start has the effect of its row: NOP is done; REGISTER takes the lowest free index with the
inventory's generation; FREE advances the generation and waits for the users; the descriptor's record, the image and the data of
COPY_IN are read from host memory; DESC_DESTROY advances the slot's generation; RUN_PROGRAM takes the lowest idle cores; COPY and
COPY_OUT run whole; ABORT marks an entry that is not fetched. What REGISTER, FREE, DESC_CREATE, DESC_DESTROY and ABORT refuse ends
with its code (R242, R243, R248, R252, R301 to R306, R312, R313). -/
def Obligations.RingCommandRows : Prop :=
  ∀ (ring : Nat) (index : W32) (s : State) (c : Cmd),
    (startable s ring index 0 = some c → Leaves (.ringNop ring index) s (finishCmd s c id)) ∧
    (startable s ring index 1 = some c →
      let base := opField c 8 8
      let size := opField c 0x10 8
      let kind := opField c 0x18 1
      (∀ i, registerReason s base size kind = 0 → freeIndex s = some i →
        let gen := (invGet s i).gen
        Leaves (.ringRegister ring index) s (finishCmd
          (invPut s i { base := BitVec.ofNat 64 base, size := BitVec.ofNat 64 size, gen := gen, kind := BitVec.ofNat 3 kind,
                        wr := decide (opField c 0x19 1 = 1) })
          c fun c => { c with result := BitVec.ofNat 32 (gen.toNat * 65536 + i) })) ∧
      (registerReason s base size kind ≠ 0 →
        Leaves (.ringRegister ring index) s (refuseCmd s c 0x0507 (registerReason s base size kind)))) ∧
    (startable s ring index 2 = some c →
      let h := opHandle c 8
      (freeReason s h = 0 → Leaves (.ringFree ring index) s (runningCmd (layFree s (bitsN h 0 16)) c id)) ∧
      (freeReason s h ≠ 0 → Leaves (.ringFree ring index) s (refuseCmd s c 0x0507 (freeReason s h)))) ∧
    (startable s ring index 3 = some c →
      (opField c 8 8 % 128 = 0 → Leaves (.descCreate ring index) s
        (runningCmd (hostRead s (.command ring index 1) (opField c 8 8) 128) c id)) ∧
      (opField c 8 8 % 128 ≠ 0 → Leaves (.descCreate ring index) s (refuseCmd s c 0x070B 8))) ∧
    (startable s ring index 4 = some c →
      (∀ i, tableSet s = true → descLive s (opHandle c 8) = some i → Leaves (.descDestroy ring index) s
        (finishCmd (descPut s i { sgen := nextSgen (descGet s i).sgen }) c id)) ∧
      (tableSet s = false ∨ descLive s (opHandle c 8) = none →
        Leaves (.descDestroy ring index) s (refuseCmd s c 0x0506 11))) ∧
    (∀ i e, startable s ring index 5 = some c → handleEntry s (opHandle c 8) = some (i, e) → e.kind = 2 →
      opField c 0x10 8 % 64 = 0 → 0x110 ≤ opField c 0x18 8 → opField c 0x18 8 ≤ e.size.toNat → imageLocked s i = false →
      Leaves (.uploadImage ring index) s (runningCmd
        (hostRead (useBegin s i) (.command ring index 1) (opField c 0x10 8) (opField c 0x18 8)) c
        fun c => { c with uses := [i] })) ∧
    (∀ m, startable s ring index 6 = some c → patchDup [] (patchesOf c) = none →
      (invGet s (bitsN (opHandle c 8) 0 16)).kind = 2 → uploadOf s (opHandle c 8) = some m →
      let hd := parseHdr m.header
      let n := opField c 0x0C 2
      let tag := nextDispatchTag s
      let cores := (idleCores s).take n
      hd.coresMin ≤ n → n ≤ hd.coresMax → n ≤ (idleCores s).length →
      ∃ t, exec (.runProgram ring index) s = .next t ∧ t.mem = s.mem ∧ t.lay = s.lay ∧
        t.host.dispatches = s.host.dispatches ++
          [{ tag := tag, ring := ring, index := index, image := bitsN (opHandle c 8) 0 16, cores := cores }] ∧
        (∀ p, p ∉ cores → t.core p = s.core p) ∧
        ∀ k (hk : k < cores.length),
          let d := t.core cores[k]
          d.runstate = 2 ∧ d.loading = true ∧ d.tag = tag ∧ d.dindex = BitVec.ofNat 16 k ∧ d.ncores = BitVec.ofNat 16 n ∧
          d.pl12 = decide (hd.mode = 1) ∧ d.streams = startStreams hd ∧ QueuesEmpty d ∧
          d.p = Vector.ofFn fun j => ((patchesOf c).foldl (fun l x => l.set x.2.1 x.2.2) hd.params).getD j.val 0) ∧
    (∀ src dst x, startable s ring index 7 = some c →
      openTwo .ring s ((opHandle c 0x0C).zeroExtend 64) ((opHandle c 8).zeroExtend 64) = (x, .ok (src, dst)) →
      pairFlt src dst false = none →
      let org := (List.range 4).map fun k => (BitVec.ofNat 32 (opField c (0x10 + 4 * k) 4)).toInt
      let r := finishCopy .ring (src.desc.logical.foldl (fun mv x => ringStep src dst org x mv) { st := x }) src.desc.esize
      r.err = none → Unheld s r.st →
      Leaves (.ringCopy ring index) s (finishCmd r.st c fun c => { c with progress := BitVec.ofNat 64 r.bytes })) ∧
    (∀ dst x, startable s ring index 8 = some c → openView .ring s ((opHandle c 8).zeroExtend 64) = (x, .ok dst) →
      Unheld s x → dst.destOk = true → opField c 0x10 8 % 64 = 0 → opField c 0x18 8 = dst.desc.dataBytes →
      Leaves (.copyIn ring index) s (runningCmd
        (hostRead (useBegin x dst.entry) (.command ring index 1) (opField c 0x10 8) (opField c 0x18 8)) c fun c =>
          { c with record := (descGet x (bitsN (opHandle c 8) 0 20)).record, uses := [dst.entry] })) ∧
    (∀ src x, startable s ring index 9 = some c → openView .ring s ((opHandle c 8).zeroExtend 64) = (x, .ok src) →
      opField c 0x10 8 % 64 = 0 → opField c 0x18 8 = src.desc.dataBytes →
      let r := src.desc.positions.foldl (fun (a : Moving × List Byte) y =>
        match a.1.err with
        | some _ => a
        | none => ((readElem .ring src a.1 (.data y false)).1, a.2 ++ (readElem .ring src a.1 (.data y false)).2.1)) ({ st := x }, [])
      r.1.err = none → Unheld s r.1.st →
      Leaves (.copyOut ring index) s (finishCmd (hostWrites r.1.st (opField c 0x10 8) r.2 r.2.length) c
        fun c => { c with progress := BitVec.ofNat 64 r.2.length })) ∧
    (startable s ring index 10 = some c →
      let r := opField c 8 4
      let i : W32 := opHandle c 0x0C
      let x := ringGet s r
      r < 2 ^ 20 → x.state = 1 → (i - x.fi).toNat < (x.pi - x.fi).toNat →
      (s.host.marks.contains (r, i) = false → s.host.marks.length < 64 → Leaves (.ringAbort ring index) s
        (finishCmd { s with host := { s.host with marks := s.host.marks ++ [(r, i)] } } c id)) ∧
      (s.host.marks.contains (r, i) = true → Leaves (.ringAbort ring index) s (refuseCmd s c 0x0705 i.toNat)))

/-- The flow of a ring: a doorbell moves the indices that it carries on an ENABLED ring with a cached context, waits for a context that is
read, and waits for an earlier BAR4 write (R291); up to eight entries are read; a read that ends serves its user, or fails it; ENABLE reads
the context and DISABLE drains the ring; a freed index is free; a record is written once to the completion slot of its ring and the command
leaves the table; the interval of a vector ends (R243, R287, R291, R295 to R300, R307, R308, R311). The STATE of a context, the place of a
BAR2 read and what a poisoned payload does are the model's choices (log 42, log 43, log 117). -/
def Obligations.RingFlowRows : Prop :=
  (∀ (ring : Fin (2 ^ 20)) (half : Fin 3) (value : W64) (s : State), bar2Served s = true →
    let x := ringGet s ring.val
    let off := 8 * ring.val + if half = 2 then 4 else 0
    let size := if half = 0 then 8 else 4
    let v := if half = 2 then value <<< 32 else value
    let lo := decide (half ≠ 2)
    let hi := decide (half ≠ 1)
    let pi := if half ≠ 2 then value.extractLsb' 0 32 else x.pi
    let cci := if half = 0 then value.extractLsb' 32 32 else if half = 2 then value.extractLsb' 0 32 else x.cci
    let s1 := s.rcountSat .acnCacheStat 0 0 0 32 1
    let bad := x.size < (pi - cci).toNat ∨ idxBelow pi x.fi = true ∨ idxBelow x.cpi cci = true
    let miss := s.rcountSat .acnCacheStat 0 0 32 32 1
    (sleeping s = false → writeHeld s = false → x.state = 1 →
      (x.cached = true → ¬ bad →
        Leaves (.doorbell off size (some value) false) s (ringPut s1 ring.val { x with pi := pi, cci := cci })) ∧
      (x.cached = true → bad →
        Leaves (.doorbell off size (some value) false) s (logAcn (ringPut s1 ring.val { x with state := 2 }) 0x0702 ring.val)) ∧
      (x.cached = false → missRead s ring.val = false →
        Leaves (.doorbell off size (some value) false) s
          (hostRead miss (.miss ring.val [(v, lo, hi)]) (contextAddr s ring.val) 64)) ∧
      (x.cached = false → missRead s ring.val = true →
        Leaves (.doorbell off size (some value) false) s (joinMiss miss ring.val (v, lo, hi)))) ∧
    (sleeping s = false → writeHeld s = true →
      Leaves (.doorbell off size (some value) false) s (holdAccess s (.doorbell ring.val v lo hi))) ∧
    Leaves (.doorbell off size (some value) true) s (aerNote s 12)) ∧
  (∀ (ring : Fin (2 ^ 20)) (s : State), bar2Served s = true →
    let x := ringGet s ring.val
    let reply (off size : Nat) (l : List Byte) := Leaves (.doorbell off size none false) s (emit s (.reply .success l))
    reply (8 * ring.val) 8 (leBytes 4 x.pi.toNat ++ leBytes 4 x.cci.toNat) ∧ reply (8 * ring.val) 4 (leBytes 4 x.pi.toNat) ∧
    reply (8 * ring.val + 4) 4 (leBytes 4 x.cci.toNat)) ∧
  (∀ (off size : Nat) (s : State), off < 2 ^ 23 → hostLink s = true →
    bar2Served s = false ∨ ¬ ((size = 4 ∨ size = 8) ∧ off % size = 0) →
    Leaves (.doorbell off size none false) s (replyUr s) ∧
    ∀ value poison, Leaves (.doorbell off size (some value) poison) s s) ∧
  (∀ (ring : Nat) (s : State), registrarOn s = true → sleeping s = false → readRoom s = true →
    (ringGet s ring).state = 1 → (ringGet s ring).cached = true → 0 < fetchCount s ring →
    (∀ r ∈ s.host.reads, ∀ i n, r.use ≠ .entries ring i n) →
    let x := ringGet s ring
    Leaves (.entryFetch ring) s (hostRead s (.entries ring x.fi (fetchCount s ring))
      (x.ringBase.toNat + 64 * (x.fi.toNat % x.size)) (64 * fetchCount s ring)) ∧ fetchCount s ring ≤ 8) ∧
  (∀ (id : Nat) (bs : List Byte) (q : HostReq) (rd : HostRead) (s s1 : State), pcieUp s = true →
    takeReq s id = some (q, s1) → readOf s1 q = some rd → bs.length = q.len →
    let all := (kvInsert rd.got q.off bs).flatMap (·.2)
    let x := askReads 1024 (dropRead s1 rd)
    (all.length ≠ rd.len → Leaves (.hostCompletion id (.ok bs)) s (askReads 1024 { s1 with host := { s1.host with
      reads := s1.host.reads.map fun y => if y.id = rd.id then { rd with got := kvInsert rd.got q.off bs } else y } })) ∧
    (all.length = rd.len →
      let y := match rd.use with
        | .firmware => firmwareArrived x all
        | .token => tokenArrived x all
        | u => registrarArrived x u all
      Unheld s y → Leaves (.hostCompletion id (.ok bs)) s y)) ∧
  (∀ (id : Nat) (q : HostReq) (s s1 : State), pcieUp s = true → takeReq s id = some (q, s1) → readOf s1 q = none →
    (∀ bs, Leaves (.hostCompletion id (.ok bs)) s (askReads 1024 s1)) ∧
    ∀ d, d = .unsupported ∨ d = .abort ∨ d = .poison →
      Leaves (.hostCompletion id d) s (askReads 1024 (countReadErr (if d = .poison then aerNote s1 12 else s1) false))) ∧
  (∀ (id : Nat) (q : HostReq) (d : HostData) (rd : HostRead) (s s1 : State), pcieUp s = true →
    takeReq s id = some (q, s1) → readOf s1 q = some rd → d = .unsupported ∨ d = .abort ∨ d = .poison →
    Leaves (.hostCompletion id d) s
      (readFailed (askReads 1024 (dropRead (if d = .poison then aerNote s1 12 else s1) rd)) { rd with addr := q.addr } false)) ∧
  (∀ (id : Nat) (q : HostReq) (rd : HostRead) (s s1 : State), takeReq s id = some (q, s1) → readOf s1 q = some rd →
    Leaves (.hostTimeout id) s (readFailed (askReads 1024 (dropRead (aerNote s1 14) rd)) { rd with addr := q.addr } true)) ∧
  (∀ (w : Writer) (v : W32) (s : State), Writable w (RegName.acnCtxOp.at 0 0) s → s.host.ctxOp = none →
    bitB (s.rget .acnCatCtl 0 0) 0 = true →
    let r := bitsN v 0 20
    let y (op : Nat) := recorded s w .acnCtxOp 0 0 4 ((opWord op (bitsN v 0 28)).zeroExtend 64)
    ((ringGet s r).state = 0 → belowFloor s = false → Leaves (.ringEnable w v) s
      (ctxStatus (hostRead { y 1 with host := { (y 1).host with ctxOp := some (true, r) } } (.context r) (contextAddr s r) 32)
        1 0)) ∧
    ((ringGet s r).state = 1 ∨ (ringGet s r).state = 2 →
      Leaves (.ringDisable w v) s (drainRing (ctxStatus (y 2) 2 0) r))) ∧
  (∀ (ring : Nat) (s : State), (ringGet s ring).state = 3 → ringCmds s ring = [] → registrarOn s = true →
    Leaves (.ringDisabled ring) s
      (floorSettle (writeBack (ringPut s ring { ringGet s ring with state := 0 }) ring))) ∧
  (∀ (entry : Nat) (s : State), (invGet s entry).freeing = true → (invGet s entry).users = 0 → domOn s 1 = true →
    (freeCmd s entry = none → Leaves (.freeComplete entry) s (freeEntry s entry)) ∧
    ∀ c, freeCmd s entry = some c → Leaves (.freeComplete entry) s (finishCmd (freeEntry s entry) c id)) ∧
  (∀ (ring : Nat) (index : W32) (s : State) (c : Cmd), cmdAt s ring index = some c → registrarOn s = true →
    recordReady s c = true →
    let x := ringGet s ring
    let c' := { c with nonfinite := (dispatchAt s ring index).elim false (·.nonfinite),
                       result := if c.status = 2 then 0 else c.result }
    ∃ t, exec (.commandDone ring index) s = .next t ∧ t.mem = s.mem ∧ t.lay = s.lay ∧
      (∃ l, t.out = s.out ++
        .hostWrite (BitVec.ofNat 64 (x.cqBase.toNat + 32 * (x.cpi.toNat % x.size))) (recordBytes x c') false :: l) ∧
      t.host.rings = (ringPut s ring { x with cpi := x.cpi + 1 }).host.rings ∧
      t.host.cmds = s.host.cmds.filter (fun e => !(decide (e.ring = ring) && decide (e.index = index))) ∧
      ∀ p, t.core p = (match dispatchAt s ring index with
        | some d => if p ∈ d.cores ∧ (s.core p).runstate = 5 then { s.core p with runstate := 0 } else s.core p
        | none => s.core p)) ∧
  (∀ (v : Nat) (s : State) (merged : Bool), s.host.itr.find? (fun e => e.1 = v) = some (v, merged) →
    let rest := s.host.itr.filter fun e => decide (e.1 ≠ v)
    Leaves (.itrExpire v) s (if merged then sendMsix { s with host := { s.host with itr := rest ++ [(v, false)] } } v
      else { s with host := { s.host with itr := rest } }))

/-! ## The host's accesses, the function and the link -/

/-- Accesses of the host that are served: a read of BAR0 replies with what the register interface reads; a configuration write
takes effect, but that a lower half of a 64-bit register waits in its interface's latch for the upper half (R15); a read of the window
replies with the bytes at its device address, and a write of the window stores exactly its enabled bytes (R12 to R15, R288 to R290).
An access of the window is mapped by its first byte (log 57); the source address of a frame that a configuration write does not carry is a
free value (log 55).
An access of the host outside the window's places changes no memory and sets the flag of HST_STATUS; one to a handover bank
that the host does not own sets DENIED (R226, R290); one longer than Max Payload Size, or with a poisoned payload, moves no byte
(R287, R288; log 117). -/
def Obligations.HostAccessRows : Prop :=
  ((∀ (off size : Nat) (s : State), hostReaches s = true → barServed s = true → recoveryWait s = false →
    alignedAccess off size = true → blockStopped s off = false →
    Leaves (.bar0Read off size) s (emit (ifaceRead s 0 off size).2 (.reply .success (ifaceRead s 0 off size).1))) ∧
  (∀ (w : Writer) (off size : Nat) (v : W64) (s : State), Writable w off s → alignedAccess off size = true →
    let u := unknownFrame s w
    let takes (x : PassedWrite) := Unheld s (applyWrite (dropWr u w) w x) →
      Leaves (.configWrite w off size v false) s (applyWrite (dropWr u w) w x)
    (∀ i h, ifaceOf w = some i → size = 4 → findReg off = some h →
      (h.reg.info.width = 64 → h.upper = false →
        Leaves (.configWrite w off size v false) s (setLatch u i fun l => { l with wr := some (off, v.extractLsb' 0 32) })) ∧
      (∀ o x, h.upper = true → (latchOf s i).wr = some (o, x) → o + 4 = off → takes ⟨o, 8, v.extractLsb' 0 32 ++ x⟩) ∧
      (∀ o x, h.upper = true → (latchOf s i).wr = some (o, x) → o + 4 ≠ off → takes ⟨off, size, v⟩) ∧
      (h.upper = true → (latchOf s i).wr = none → takes ⟨off, size, v⟩) ∧
      (h.reg.info.width ≠ 64 → h.upper = false → takes ⟨off, size, v⟩)) ∧
    (size = 8 ∨ findReg off = none ∨ ifaceOf w = none → takes ⟨off, size, v⟩)) ∧
  (∀ (x len : Nat) (s : State), hostReaches s = true → barServed s = true → recoveryWait s = false → windowStopped s = false →
    StorageGood s → 0 < len → len ≤ maxPayload s → x + len ≤ winSize s → placeErrSpan .host s (winAddr s x) len = none →
    ∃ l d, Leaves (.bar4Read x len) s
      (emit { s with vit := { s.vit with l2 := l }, dbg := { s.dbg with memLag := d } }
        (.reply .success (readBytes s (winAddr s x) len)))) ∧
  (∀ (x : Nat) (bytes : List (Option Byte)) (s : State), Canonical s → hostReaches s = true → barServed s = true →
    recoveryWait s = false → windowStopped s = false → StorageGood s → bytes.length ≤ maxPayload s → x + bytes.length ≤ winSize s →
    placeErrSpan .host s (winAddr s x) bytes.length = none →
    ∃ t, exec (.bar4Write x bytes false) s = .next t ∧ t.cores = s.cores ∧
      ∀ a, byteAt t a = ((enabledCells (winAddr s x) bytes).find? fun c => c.1 = a).elim (byteAt s a) (·.2))) ∧
  (∀ (x len : Nat) (bytes : List (Option Byte)) (s : State), hostReaches s = true → barServed s = true →
    recoveryWait s = false → windowStopped s = false →
    let a := winAddr s x
    let fits (n : Nat) := n ≤ maxPayload s ∧ x + n ≤ winSize s
    (0 < len → fits len → placeErrSpan .host s a len = some .outside → Leaves (.bar4Read x len) s (replyUr (hstFlag s 1))) ∧
    (∀ b o, 0 < len → fits len → placeErrSpan .host s a len = some (.notOwner b o) →
      Leaves (.bar4Read x len) s (replyCa (s.rmod .vtrStatus 0 0 fun v => setBit v 2 true))) ∧
    (¬ fits len → Leaves (.bar4Read x len) s (replyUr s)) ∧
    (fits bytes.length → placeErrSpan .host s a bytes.length = some .outside →
      Leaves (.bar4Write x bytes false) s (hstFlag s 1)) ∧
    (∀ b o, fits bytes.length → placeErrSpan .host s a bytes.length = some (.notOwner b o) →
      Leaves (.bar4Write x bytes false) s (s.rmod .vtrStatus 0 0 fun v => setBit v 2 true)) ∧
    (¬ fits bytes.length → Leaves (.bar4Write x bytes false) s s) ∧
    Leaves (.bar4Write x bytes true) s (aerNote s 12) ∧
    ∀ off size v, Leaves (.configWrite .bar0 off size v true) s (aerNote s 12))

/-- The function and its link: the controls of the timeout and of the window's size, the function-level reset and its end,
PERST_N, the power state of the function and the exit from L1, and the discovery of data objects (R287, R288, R292, R293,
R407, R410, R417, R430). The data objects, the codes of the timeout's field and what an FLR leaves are the model's reading (log 49, log
117, log 58). -/
def Obligations.FunctionRows : Prop :=
  (∀ (field : BitVec 4) (s : State), configServed s = true → domOn s 4 = true →
    let x := { s with host := { s.host with cplField := field } }
    (∀ us, subRangeLow field = some us →
      Leaves (.completionTimeoutValueWrite field) s (x.rset .hstCplTimeout 0 0 (BitVec.ofNat 64 (min us 50000)))) ∧
    (subRangeLow field = none → Leaves (.completionTimeoutValueWrite field) s x)) ∧
  (∀ (k : Nat) (s : State), configServed s = true → domOn s 4 = true → 30 ≤ k → k ≤ 41 →
    Leaves (.resizableBarControlWrite k) s (s.rmod .hstWinCtl 0 0 fun v => setBits v 8 6 k)) ∧
  (∀ s : State, configServed s = true → s.power.flr = false → sleeping s = false →
    ∃ t, exec .flr s = .next t ∧ t.power.flr = true ∧ t.host.cmds = [] ∧ t.host.ctxOp = none ∧
      (Canonical s → ∀ a, (∀ p, ¬ Abandoned (s.core p) a) → byteAt t a = byteAt s a) ∧
      (∀ d ∈ s.host.dispatches, ∀ p ∈ d.cores, p ∉ d.finished →
        (t.core p).runstate = 5 ∨ (t.core p).runstate = 4 ∨ (t.core p).runstate = 0) ∧
      ∀ p, (∀ d ∈ s.host.dispatches, p ∉ d.cores) → t.core p = s.core p) ∧
  (∀ s : State, s.power.flr = true →
    ∃ x, Leaves .tagWaitExpire s x ∧ x = { s with col := x.col, lay := x.lay } ∧ x.col.reqs = [] ∧ x.col.sendq = [] ∧
      x.col.retries = [] ∧ x.col.accq = []) ∧
  (∀ s : State, s.power.flr = true → inTransition s = false →
    (s.col.reqs = [] ∧ s.col.sendq = [] ∧ s.col.retries = [] ∧ s.col.accq = [] → Leaves .flrComplete s (flrEnd s)) ∧
    (s.col.reqs ≠ [] ∨ s.col.sendq ≠ [] ∨ s.col.retries ≠ [] ∨ s.col.accq ≠ [] → Leaves .flrComplete s s)) ∧
  (∀ s : State, s.power.perst = false →
    ∃ t, exec .perstAssert s = .next t ∧ t.power.perst = true ∧ t.power.link = none ∧ t.power.d3hot = false ∧
      t.power.flr = true ∧ t.power.held = [] ∧ t.host.mps = 0 ∧ t.host.mrrs = 2 ∧ t.host.cplField = 0 ∧ t.host.aer = 0 ∧
      (Canonical s → ∀ a, (∀ p, ¬ Abandoned (s.core p) a) → byteAt t a = byteAt s a)) ∧
  (∀ (width rate : Nat) (flit : Bool) (s : State), s.power.perst = true → width ∈ [1, 2, 4, 8, 16] → 1 ≤ rate →
    rate ≤ (if flit then 7 else 5) →
    Leaves (.perstDeassert width rate flit) s
      { s with power := { s.power with perst := false, refclk := true, link := some (width, rate, flit) } }) ∧
  (∀ s : State, configServed s = true → s.power.d3hot = false →
    Leaves .d3hot s (requestSleep { s with power := { s.power with d3hot := true } } 3)) ∧
  (∀ s : State, hostLink s = true → s.power.d3hot = true →
    Leaves .d0Return s (startWake { s with power := { s.power with d3hot := false } } 5)) ∧
  (∀ s : State, s.power.link.isSome = true → s.power.perst = false → Leaves .l1Exit s (startWake s 5)) ∧
  (∀ (index : Byte) (s : State), doeUp s = true →
    ∃ d, Leaves (.doeDiscovery index) s (emit s (.doe index d)) ∧ d.length = 4)

/-! ## Main memory's controllers, and the layout's registers -/

/-- The controllers: the refresh rate that a controller reads; the memory clock's loss, and its return, after which a controller
is LOST where the outage was long, and what waited for the clock is tried again; REINIT of a LOST controller, which reads zero with no
error in it and is ACTIVE at its end; a retirement that is accepted waits; a Table becomes the descriptor table; and one line of an accumulation
that a tag is free for at its home slice (R247, R275, R278 to R280, R283). -/
def Obligations.MemoryRows : Prop :=
  (∀ (k : Fin 48) (code : Byte) (hot : Bool) (s : State), domOn s 2 = true → s.memMap.getLsbD k.val = true →
    let x := s.rmod .memStatus k.val 0 fun v => setBits v 8 8 code.toNat
    Leaves (.refreshRateUpdate k code hot) s (if hot then { x with ras := { x.ras with
      events := x.ras.events ++ [⟨6, k.val, 0, s.timeNs⟩] } } else x)) ∧
  (∀ s : State, domOn s 2 = true → Leaves .memClockLost s { s with power := { s.power with memClk := false } }) ∧
  (∀ s : State, s.power.memClk = false →
    let x := { s with power := { s.power with memClk := true } }
    Leaves (.memClockReturn false) s (releaseHolds x) ∧
    Leaves (.memClockReturn true) s (releaseHolds ((List.range 48).foldl loseController x))) ∧
  (∀ (w : Writer) (k : Fin 48) (v : W32) (s : State), Writable w (RegName.memCtl.at k.val 0) s → memState s k.val = 3 →
    Leaves (.reinit w k v) s (setMemState (recorded s w .memCtl k.val 0 4 ((setBit v 0 true).zeroExtend 64)) k.val 4)) ∧
  (∀ (k : Fin 48) (s : State), Canonical s → domOn s 2 = true → memState s k.val = 4 →
    ∃ t, exec (.reinitDone k) s = .next t ∧ memState t k.val = 1 ∧ (∀ a, a < memTop s → (ctrlOf s a).1 = k.val → symbolErrs t a = 0) ∧
      ∀ a, byteAt t a = if a < memTop s ∧ (ctrlOf s a).1 = k.val then 0 else byteAt s a) ∧
  (∀ (w : Writer) (v : W32) (s : State), Writable w (RegName.memRetire.at 0 0) s → bitB v 31 = true → bitsN v 0 6 < 48 →
    s.memMap.getLsbD (bitsN v 0 6) = true →
    (s.memMap &&& ~~~s.memPend) &&& ~~~(BitVec.ofNat 48 (2 ^ bitsN v 0 6)) ≠ 0 →
    Leaves (.memRetire w v) s { recorded s w .memRetire 0 0 4 (v.zeroExtend 64) with memPend := setBit s.memPend (bitsN v 0 6) true }) ∧
  (∀ (w : Writer) (v : W64) (s : State) (i : Nat) (e : InvEntry), Writable w (RegName.layDtab.at 0 0) s →
    anyDesc s = false → handleEntry s (v.extractLsb' 0 32) = some (i, e) → e.kind = 3 → v.extractLsb' 0 32 ≠ 0 →
    let y := recorded s w .layDtab 0 0 8 v
    Leaves (.layDtabWrite w v) s { y with lay := { y.lay with
      dtabRefused := false, dtab := v.extractLsb' 0 32, slots := min (e.size.toNat / 128) 1048576 } }) ∧
  (∀ (s : State) (o : AccOp) (rest : List AccOp), s.col.accq = o :: rest → o.last = false → Canonical s → StorageGood s →
    s.col.reqs.length < collTags → o.addr + 64 ≤ memTop s → memState s (ctrlOf s o.addr).1 = 1 → o.vals.length = 16 →
    let old := (List.range 16).map fun i => BitVec.ofNat 32 (leNat (readBytes s (o.addr + 4 * i) 4))
    let new := accLine (opInit s o) old o.vals
    ∃ t, exec .accumulatorOp s = .next t ∧ t.col.accq = rest ∧ t.cores = s.cores ∧
      ∀ a, byteAt t a = if o.addr ≤ a ∧ a < o.addr + 64 then
        BitVec.ofNat 8 ((new.getD ((a - o.addr) / 4) 0).toNat / 256 ^ ((a - o.addr) % 4)) else byteAt s a)

/-! ## The fabric -/

/-- The events of a port: a flit whose codewords can all be corrected and whose CRC-32 matches has its header applied, and the slots of a DATA
flit are taken in sequence; any other DATA flit is refused; the far end's identity makes a port ACTIVE or MISWIRED; NAKs are repeated; a
stall or a lost lock retrains; a failed lane narrows the port or takes it DOWN, where the port uses it; a training attempt ends; a DOWN
port tries again; a port reset, a new role and FILL (R319, R320, R322, R325, R326, R329, R335, R338 to R340). A CTRL flit's places are
UNVERIFIED (log 32); where the receive stream's codewords begin, the seconds in which a lane's corrections count, and the lanes of a new
training are the model's choice (log 121). A filled route table takes every destination coordinate the
shorter way round its ring, the positive way where both are equal, and gives no way where the ring has no such coordinate (R335). -/
def Obligations.LinkRows : Prop :=
  (∀ (i : Fin 16) (s : State),
     (∀ rx : FlitRx, fecBegins (portOf s i).fecPos = true →
       ((fecStep s i rx).2 = true ↔ 15 < wrongSymbols (portOf s i).lanes rx ∨ ((portOf s i).fecPos ≠ 0 ∧ (portOf s i).fecBad = true)) ∧
       (fecStep s i rx).1.rget .zmzFec i.val 0 = (if 15 < wrongSymbols (portOf s i).lanes rx
         then s.rcountSat .zmzFec i.val 0 0 32 1 else s.rcountSat .zmzFec i.val 0 32 32 (wrongSymbols (portOf s i).lanes rx)).rget .zmzFec i.val 0) ∧
     (∀ rx : FlitRx, fecBegins (portOf s i).fecPos = false → (fecStep s i rx).2 = (portOf s i).fecBad ∧
       (fecStep s i rx).1.regs = s.regs) ∧
     (∀ (f : Flit) (rx : FlitRx), (portOf s i).state.toNat ∈ [2, 3, 4, 7] →
       let z := countLanes (portOf s i) rx (fecStep s i rx).1 i
       let good (g : Flit) := (fecStep s i rx).2 = false ∧ rx.crc = crc32 (flitBytes g)
       let n : Flit := { f with ftype := 0, slots := [] }
       let d : Flit := { f with ftype := 1 }
       (good n → Leaves (.nullFlit i f rx) s (applyHeader z i n)) ∧
       (¬ good n → Leaves (.nullFlit i f rx) s z) ∧
       let takes := portActive s i = true ∧ portRole s i ≠ 1
       (good d → ¬ takes → Leaves (.dataFlit i f rx) s (applyHeader z i d)) ∧
       (¬ good d → ¬ takes → Leaves (.dataFlit i f rx) s z) ∧
       (¬ good d → takes →
         Leaves (.dataFlit i f rx) s (refuseFlit ((z.rcountSat .zmzReplay i.val 0 32 32 1).report 4 1) i)) ∧
       (good d → takes →
         let y := applyHeader z i d
         (portActive y i = false → Leaves (.dataFlit i f rx) s y) ∧
         (portActive y i = true → f.seq = (portOf y i).expect → Leaves (.dataFlit i f rx) s (takeSlots
           (perfCount (modPort y i fun x => { x with expect := x.expect + 1, gotAny := true, nak := false })
             .dbgZmz (8 * i.val + 1) 1) i f.slots)) ∧
         (portActive y i = true → f.seq ≠ (portOf y i).expect → Leaves (.dataFlit i f rx) s (modPort y i fun x =>
           if x.nak then x else { x with nak := true, nakDue := true })))) ∧
     (∀ (hdr : Flit) (rx : FlitRx) (far : FarEnd), (portOf s i).state.toNat ∈ [2, 3, 4, 7] →
       let r := receive s i { hdr with ftype := 2, slots := ctrlSlots far } rx
       let st := (portOf r.1 i).state
       (r.2 = false ∨ (st ≠ 2 ∧ st ≠ 3) → Leaves (.ctrlFlit i hdr rx far) s r.1) ∧
       (r.2 = true → st = 2 ∨ st = 3 →
         let y := modPort r.1 i fun x =>
           { x with farId := far.id, farPort := far.port, avail := far.units, seen := Vector.replicate 4 0, heard := true }
         (st = 2 ∨ bitB (s.rget .zmzTopo 0 0) 31 = false ∨ (portOf r.1 i).told = false → Leaves (.ctrlFlit i hdr rx far) s y) ∧
         (st = 3 → bitB (s.rget .zmzTopo 0 0) 31 = true → (portOf r.1 i).told = true →
           (portRole s i ≠ 3 ∨ far.id = expectedFar s i →
             Leaves (.ctrlFlit i hdr rx far) s (modPort y i fun x => { x with state := 4, ready := true })) ∧
           (portRole s i = 3 → far.id ≠ expectedFar s i →
             Leaves (.ctrlFlit i hdr rx far) s (logZmz (modPort y i fun x => { x with state := 7 }) 0x0807 i.val
               (BitVec.ofNat 32 (i.val + far.id.toNat * 2 ^ 16))))))) ∧
     (portActive s i = true → (portOf s i).nak = true →
       Leaves (.nakResend i) s (modPort s i fun x => { x with nakDue := true })) ∧
     (portActive s i = true → (portOf s i).replay ≠ [] → Leaves (.ackStall i) s (enterRetrain s i)) ∧
     ((portOf s i).state.toNat ∈ [2, 3, 4, 7] → Leaves (.codewordLockLost i) s (enterRetrain s i)) ∧
     (∀ lane : Fin 4, (portOf s i).state.toNat ∈ [2, 3, 4, 7] →
       let good := setBit (portOf s i).good lane.val false
       let y := narrow s i good
       (bitB (portOf s i).lanes lane.val = false → Leaves (.laneFail i lane) s (modPort s i fun x => { x with good := good })) ∧
       (bitB (portOf s i).lanes lane.val = true → (portOf y i).state = 6 → Leaves (.laneFail i lane) s y) ∧
       (bitB (portOf s i).lanes lane.val = true → (portOf y i).state ≠ 6 → Leaves (.laneFail i lane) s (enterRetrain y i))) ∧
     (∀ trained : BitVec 4, s.fab.d06Dead = false → domOn s 6 = true → domOn s (7 + i.val) = true →
       (portOf s i).state = 1 ∨ (portOf s i).state = 5 →
       let x := portOf s i
       let y := narrow s i (x.good &&& ~~~(x.lanes &&& ~~~trained))
       let locked := (portOf y i).state ≠ 6 ∧ (portOf y i).lanes &&& ~~~(x.lanes &&& trained) = 0
       (¬ locked → Leaves (.trainingAttempt i true trained) s y) ∧
       (locked → Leaves (.trainingAttempt i true trained) s (modPort y i fun x =>
         if x.ready then { x with state := 4, fecPos := 0, fecBad := false, resend := x.replay }
         else { x with state := 2, fecPos := 0, fecBad := false, freed := Vector.replicate 4 0, told := false, heard := false }))) ∧
     (∀ (good : BitVec 4), let y := portOf (narrow s i good) i
       y.good = good ∧ (good = 0 → y.state = 6) ∧ (good = 0xF → y.lanes = 0xF) ∧
       (good ≠ 0xF → good.extractLsb' 0 2 = 3 → y.lanes = 3) ∧
       (good ≠ 0xF → good.extractLsb' 0 2 ≠ 3 → good.extractLsb' 2 2 = 3 → y.lanes = 0xC) ∧
       (good.extractLsb' 0 2 ≠ 3 → good.extractLsb' 2 2 ≠ 3 → ∀ l, l < 4 → good.getLsbD l = true →
         (∀ m, m < l → good.getLsbD m = false) → y.lanes = BitVec.ofNat 4 (2 ^ l))) ∧
     ((portOf s i).state = 5 → Leaves (.retrainTimeout i) s (enterDown s i)) ∧
     (domOn s 6 = true → (portOf s i).state = 6 → bitB (s.rget .zmzCtl i.val 0) 29 = true →
       Leaves (.downRetry i) s (startTraining s i (trainLanes (portOf s i)))) ∧
     (∀ (w : Writer) (v : W32), Writable w (RegName.zmzCtl.at i.val 0) s →
       let v' : W64 := (setBit v 30 true).zeroExtend 64
       Leaves (.portReset w i v) s
         (portReset (plainWrite (recorded s w .zmzCtl i.val 0 4 v') .zmzCtl i.val 0 v' 0xFFFFFFFF) i)) ∧
     (∀ (w : Writer) (v : W32), Writable w (RegName.zmzRole.at i.val 0) s →
       let y := recorded s w .zmzRole i.val 0 4 (v.zeroExtend 64)
       (roleClash s i v = false →
         Leaves (.roleWrite w i v) s (portReset (y.rset .zmzRole i.val 0 (BitVec.ofNat 64 (bitsN v 0 8))) i)) ∧
       (roleClash s i v = true → Leaves (.roleWrite w i v) s (y.rmod .zmzRole i.val 0 fun x => setBit x 8 true))) ∧
     (∀ (w : Writer) (v : W32), Writable w (RegName.zmzTopo.at 0 0) s →
       let v' : W64 := (setBit v 30 true).zeroExtend 64
       Leaves (.fill w v) s ((List.finRange 16).foldl leaveInit
         (fillRoutes (plainWrite (recorded s w .zmzTopo 0 0 4 v') .zmzTopo 0 0 v' 0xFFFFFFFF)))) ∧
     (∀ t, nextRx (portOf s i) = some t →
       (t.dst = ownId s → Leaves (.route i) s (deliver (takeRx s i t) t)) ∧
       (t.dst ≠ ownId s →
         (switchOut (takeRx s i t) (some i) t = none → Leaves (.route i) s (switchTxn (takeRx s i t) (some i) t)) ∧
         ∀ x, switchOut (takeRx s i t) (some i) t = some x →
           Leaves (.route i) s (perfCount x .dbgZmz (8 * i.val + 3) 1)))) ∧
  (∀ m n c : Nat, 0 < n → n ≤ 64 → m < n →
     (n ≤ c → fillEntry m n c = 3) ∧
     (c < n → (fillEntry m n c = 0 ↔ c = m) ∧
       (fillEntry m n c = 1 → ∃ d, 0 < d ∧ 2 * d ≤ n ∧ (m + d) % n = c) ∧
       (fillEntry m n c = 2 → ∃ d, 0 < d ∧ 2 * d < n ∧ (c + d) % n = m) ∧ fillEntry m n c ≠ 3))

/-- A transaction as this module and its neighbours send it: a type of R332 with its length, data and address, and no enables where the
header does not announce them. -/
def txnSent (t : Txn) : Bool :=
  decide (t.ttype.toNat ∈ [1, 2, 3, 4, 5, 8, 9, 10] ∧ 1 ≤ t.len.toNat ∧ t.len.toNat ≤ 64) &&
  decide (t.ttype = 4 → t.addr.toNat < 2 ^ 12) && decide (t.data.length = 16 * dataSlots t.ttype false t.len.toNat) &&
  ((t.be && decide (t.ttype = 1)) || decide (t.enables = 0))

/-- What a port sends at a flit boundary: a NULL flit where none has gone for 2,047; else a TIME flit; in ALIGN and INIT else a CTRL flit with
the module's identity and free units; in ACTIVE else the next flit to send again, else a DATA flit of what has started and what can start,
with the next number and kept in the replay buffer, else NULL; and NULL flits alone where it is MISWIRED. Every one carries ACK, a NAK that
is due, and CRET (R320, R321, R323 to R325, R327 to R329). How long a port stays in ALIGN, the slots of a CTRL flit and the zero slots that
fill a DATA flit are the model's choices (log 121, log 32, log 31).
Transactions fill a flit whole and in turn: what the transmitter starts is queued there, has credit for all its units, and no queued
transaction of a higher VC had credit; a stream of transactions that its slots hold parses back to them (R321, R327, R328, R331). -/
def Obligations.FlitRows : Prop :=
  (∀ (i : Fin 16) (s : State),
     let x := portOf s i
     let sent (f : Flit) := (flitBoundary s i).out = s.out ++ [.flit i f] ∧ f.ack = x.expect - 1 ∧ f.ackv = x.gotAny ∧
       f.nak = x.nakDue ∧ f.cret = x.freed ∧ (portOf (flitBoundary s i) i).nakDue = false
     let link := ∃ f, sent f ∧
       (2047 ≤ x.sinceNull → f.ftype = 0) ∧
       (x.sinceNull < 2047 →
         (∀ m rest, x.timeq = m :: rest → f.ftype = 3 ∧ f.slots =
           timeSlots (if m.resp then 2 else 1) m.num m.t2 (if m.resp then now96 s else 0) ∧ (portOf (flitBoundary s i) i).timeq = rest) ∧
         (x.timeq = [] → f.ftype = 2 ∧ (portOf (flitBoundary s i) i).told = true ∧
           f.slots = ctrlSlots { id := ownId s, port := BitVec.ofNat 4 i.val, role := BitVec.ofNat 4 (portRole s i), units := freeUnits x }))
     (x.state.toNat ∉ [2, 3, 4, 7] → flitBoundary s i = s) ∧
     (x.state = 2 → link ∨ flitBoundary s i = modPort s i fun x => { x with state := 3 }) ∧
     (x.state = 3 → link) ∧
     (x.state = 7 → ∃ f, sent f ∧ f.ftype = 0) ∧
     (x.state = 4 → ∃ f, sent f ∧
       (2047 ≤ x.sinceNull → f.ftype = 0) ∧
       (x.sinceNull < 2047 →
         (∀ m rest, x.timeq = m :: rest → f.ftype = 3 ∧ f.slots =
           timeSlots (if m.resp then 2 else 1) m.num m.t2 (if m.resp then now96 s else 0) ∧ (portOf (flitBoundary s i) i).timeq = rest) ∧
         (x.timeq = [] →
           (∀ g rest, x.resend = g :: rest → f.ftype = g.ftype ∧ f.seq = g.seq ∧ f.slots = g.slots ∧
             (portOf (flitBoundary s i) i).resend = rest) ∧
           (x.resend = [] →
             let y := fillFlit 31 x
             (y.txPart = [] ∨ 256 ≤ x.replay.length → f.ftype = 0) ∧
             (y.txPart ≠ [] → x.replay.length < 256 → f.ftype = 1 ∧ f.seq = x.txSeq ∧
               f.slots = (y.txPart ++ List.replicate 31 0).take 31 ∧ (portOf (flitBoundary s i) i).txPart = y.txPart.drop 31 ∧
               (portOf (flitBoundary s i) i).txSeq = x.txSeq + 1 ∧
               ∃ g, (portOf (flitBoundary s i) i).replay = x.replay ++ [g] ∧ g.seq = x.txSeq ∧ g.slots = f.slots)))))) ∧
  ((∀ (x : Port) (t : Nat × Txn), nextTx x = some t → t ∈ x.txq ∧ txnUnits t.2 ≤ (vAt x.avail 0 t.2.vc.toNat).toNat ∧
     ∀ u ∈ x.txq, t.2.vc.toNat < u.2.vc.toNat → ∃ w, firstOfVc x u.2.vc.toNat = some w ∧ (vAt x.avail 0 u.2.vc.toNat).toNat < txnUnits w.2) ∧
   ∀ (ts : List Txn) (n : Nat), (∀ t ∈ ts, txnSent t = true) → ∃ k, ∀ m, k ≤ m →
     parseSlots m (ts.flatMap txnToSlots ++ List.replicate n 0) [] = .ok (ts, []))

/-- A transaction that this module takes: a WRITE whose checks hold stores exactly its enabled bytes and is acknowledged; a
READ answers with the bytes at its address; an ACC is a contribution or an addition; a SIGNAL sets a flag or steps a counter
of a present core; the messages of the collective engine that pass their checks count for their step (R331 to R333, R352,
R354, R360, R365, R366, R370, R383). Which enables hold for one line, an absent core of a SIGNAL, and that a LOAN_COMMIT names its sender's
step and plan, are the model's reading (log 37, log 38, log 39). -/
def Obligations.RequestRows : Prop :=
  ∀ (t : Txn) (s s1 : State), domOn s 1 = true →
    (takeInbox s t 1 = some s1 → targetFlt s1 [1, 4] true t = none → Canonical s → StorageGood s →
      let w := (devWrite .coll s1 (writeCells t)).1
      let y := snapshotHit w t.addr.toNat (64 * t.len.toNat)
      Leaves (.write t) s (sendTxn y (respond y t 8)) ∧
      ∃ t', exec (.write t) s = .next t' ∧
        ∀ a, byteAt t' a = ((writeCells t).find? fun c => c.1 = a).elim (byteAt s a) (·.2)) ∧
    (takeInbox s t 2 = some s1 → targetFlt s1 [1, 2, 4] false t = none → StorageGood s →
      ∃ l d, Leaves (.read t) s (sendTxn { s1 with vit := { s1.vit with l2 := l }, dbg := { s1.dbg with memLag := d } }
        { respond s1 t 9 with len := t.len, data := readBytes s t.addr.toNat (64 * t.len.toNat) })) ∧
    (∀ f, takeInbox s t 2 = some s1 → targetFlt s1 [1, 2, 4] false t = some f →
      Leaves (.read t) s (sendTxn s1 (errorTxn s1 t f))) ∧
    (∀ f, takeInbox s t 1 = some s1 → targetFlt s1 [1, 4] true t = some f →
      Leaves (.write t) s (sendTxn s1 (errorTxn s1 t f))) ∧
    (takeInbox s t 3 = some s1 →
      (accBkt t = true → Unheld s (arriveContrib s1 t (.remote t)) → Leaves (.acc t) s (arriveContrib s1 t (.remote t))) ∧
      (accBkt t = false → ∀ e, dataSpan s (accAddr t) (64 * t.len.toNat) = some e →
        Leaves (.acc t) s (useBegin { s1 with col := { s1.col with accq := s1.col.accq ++ (List.range t.len.toNat).map fun k =>
          { shard := none, chunk := 0, line := k, addr := accAddr t + 64 * k, vals := slice (halves t.data) (16 * k) 16,
            last := decide (k + 1 = t.len.toNat), reply := .remote t, use := some e } } } e)) ∧
      (accBkt t = false → dataSpan s (accAddr t) (64 * t.len.toNat) = none →
        Leaves (.acc t) s (sendTxn s1 (errorTxn s1 t ⟨0x0803, t.addr.extractLsb' 0 32⟩)))) ∧
    (∀ p, takeInbox s t 4 = some s1 → physOf s (bitsN t.addr 0 6) = some p →
      (bitB t.addr 6 = true → bitsN t.addr 7 5 < 16) →
      Leaves (.signal t) s (sendTxn (s1.modCore p (outsideSignal (bitB t.addr 6) (bitsN t.addr 7 5))) (respond s1 t 8))) ∧
    (∀ p, takeInbox s t 5 = some s1 → s.col.plan = some p → t.src ∈ p.members → msgReservedOk t = true →
      msgStepOk s (msgStep t) = true → msgPlan t = p.planId → msgRepeated s1 p t = false →
      let y := sendTxn (openNext s1 (msgStep t)) (respond s1 t 8)
      (let z := tryVerdict (modStep y (msgStep t) fun x =>
        if x.closed then x else { x with trailers := x.trailers ++
          [(p.members.findIdx fun m => m = t.src, trailerOf (slice t.data 0x10 32))] }) (msgStep t)
       msgKind t = 1 → Unheld s z → Leaves (.stepTrailer t) s z) ∧
      (msgKind t = 2 → Leaves (.gatherDone t) s
        (tryGathered (modStep y (msgStep t) fun x => { x with heard := x.heard ++ [t.src] }) p (msgStep t)))) ∧
    (let z := acceptLoan (sendTxn s1 (respond s1 t 8)) t.src (msgStep t) (msgHalf t)
     takeInbox s t 5 = some s1 → msgKind t = 3 → msgReservedOk t = true → Unheld s z → Leaves (.loanCommit t) s z)

/-- The ends of this module's own requests, and its plan: an ACK ends its request or asks for it again later, an ERROR or a
timeout ends it with its code, what answers nothing is counted, a RETRY is sent again, and a step that does not close in time
fails; LOAD takes a plan whose record and spans pass the checks and zeroes its residuals, and UNLOAD drops it where the address register
lies in a live entry (R333, R345, R349, R353, R372, R373). The order of a record's checks is the model's reading (log 33). -/
def Obligations.ResponseAndPlanRows : Prop :=
  (∀ (t : Txn) (s s1 : State), domOn s 1 = true →
    (∀ q, takeInbox s t 8 = some s1 → reqOf s1 t = some q →
      let y := dropReq s1 q
      (bitB t.addr 0 = true → isContrib q.use = true →
        Leaves (.ack t) s { y with col := { y.col with retries := y.col.retries ++ [q] } }) ∧
      (bitB t.addr 0 = false ∨ isContrib q.use = false → Leaves (.ack t) s (reqEnd y q none))) ∧
    (takeInbox s t 8 = some s1 → reqOf s1 t = none → Leaves (.ack t) s (countStray s1)) ∧
    (takeInbox s t 9 = some s1 → Leaves (.readData t) s (countStray s1)) ∧
    (∀ q, takeInbox s t 10 = some s1 → reqOf s1 t = some q →
      Leaves (.errorResponse t) s (reqEnd (dropReq s1 q) q
        (some ⟨BitVec.ofNat 16 (bitsN t.addr 0 16), BitVec.ofNat 32 (bitsN t.addr 16 32)⟩)))) ∧
  (∀ (tag : BitVec 14) (s : State) (q : Req), s.col.reqs.find? (fun q => q.txn.tag = tag) = some q →
    Leaves (.respTimeout tag) s (reqEnd (dropReq { s with col := { s.col with
        epochs := smapPut (fun _ => (0 : BitVec 2)) s.col.epochs tag.toNat (epochOf s tag.toNat + 1) } } q) q
      (some ⟨0x0801, BitVec.ofNat 32 (q.txn.dst.toNat + tag.toNat * 2 ^ 16)⟩))) ∧
  (∀ (s : State) (q : Req) (rest : List Req) (core : Fin 72) (x y : _), s.col.retries = q :: rest →
    q.use = .contrib core x y →
    let z := { s with col := { s.col with retries := rest } }.modCore core fun c => orSticky c .cp 2
    (q.txn.dst ≠ ownId s → Leaves .retryResend s (request z [q])) ∧
    (q.txn.dst = ownId s → Unheld s (arriveContrib z q.txn (.own q.txn q.use)) →
      Leaves .retryResend s (arriveContrib z q.txn (.own q.txn q.use)))) ∧
  (∀ (s : State) (c : StepState), s.col.cur = some c → c.closed = false → bitsN (s.rget .colTimeout 0 0) 0 16 ≠ 0 →
    Leaves .colTimeout s (failStep s c.n ⟨0x0909, c.n⟩)) ∧
  (∀ (w : Writer) (v : W32) (s : State), Writable w (RegName.colPlanCtl.at 0 0) s → stepOpen s = false → cpBusy s = false →
    (let addr := (s.rget .colPlanAddr 0 0).toNat
     let n := fieldAt (readBytes s addr 0x80) 8 2
     let bs := readBytes s addr (0x80 + 2 * n)
     let p := { planOf bs with rank := ownRank s (planOf bs).members }
     Canonical s → StorageGood s → entryAt s addr = true → (dataSpan s addr (0x80 + 2 * n)).isSome = true →
     planReason s bs (planOf bs) = none →
     (∀ x ∈ planSpans p addr, x.2 ≠ 0 → (dataSpan s x.1 x.2).isSome = true) →
     ∃ t, exec (.planLoad w v) s = .next t ∧ (∃ uses, t.col.plan = some { p with uses := uses }) ∧ t.cores = s.cores ∧
       ∀ a, byteAt t a = if p.resBase ≠ 0 ∧ p.resBase ≤ a ∧ a < p.resBase + 4 * p.total then 0 else byteAt s a) ∧
    let y := recorded s w .colPlanCtl 0 0 4 ((setBit (setBit v 31 false) 30 true).zeroExtend 64)
    (entryAt s (s.rget .colPlanAddr 0 0).toNat = true → Leaves (.planUnload w v) s (planDrop y)) ∧
    (entryAt s (s.rget .colPlanAddr 0 0).toNat = false → Leaves (.planUnload w v) s (planRefuse y 5)))

/-! ## Time -/

/-- The clock of the fabric and the time counter: the fabric clock slews to a locked port within 100 ppm, holds over at its loss, goes back
to the local reference, and arrives; without a source every port that had lock retrains and keeps what it holds; an exchange is started,
answered and measured from ALIGN on; a PTP master is chosen and its exchange
measured; holdover drops the phase term and VALID, and VALID comes with the eighth good measurement in a row (R320, R341 to R345,
R443 to R446). How CORR rounds is free (log 44). -/
def Obligations.TimeRows : Prop :=
  (∀ (off : BitVec 16) (s : State), domOn s 6 = true → bitB (s.rget .zmzSyntCtl 0 0) 31 = true →
    2 ≤ (portOf s (syntPort s)).state.toNat → (portOf s (syntPort s)).state.toNat ≤ 5 → syntSource s ≠ 1 →
    let near := -25600 ≤ off.toInt ∧ off.toInt ≤ 25600
    (near → syntOffset s = off.toNat → Leaves (.syntLock off) s (setSynt s 1 off.toNat)) ∧
    (near → syntOffset s ≠ off.toNat → Leaves (.syntLock off) s
      (let y := setSynt s 3 (syntOffset s)
       { y with fab := { y.fab with slewLocked := true, slewOff := off } })) ∧
    (¬ near → Leaves (.syntLock off) s s)) ∧
  (∀ (off : BitVec 16) (s : State), domOn s 6 = true → syntSource s = 1 →
    Leaves (.syntLost off) s (logZmz ((setSynt s 2 off.toNat).rmod .zmzSyntStatus 0 0 fun v => setBit v 3 true) 0x0808
      (syntPort s).val (BitVec.ofNat 32 (syntPort s).val))) ∧
  (∀ s : State, domOn s 6 = true → syntSource s = 2 → Leaves .syntHoldoverExpire s (slewTo s false 0)) ∧
  (∀ s : State, domOn s 6 = true → syntSource s = 3 →
    Leaves .d06SlewComplete s (setSynt s (if s.fab.slewLocked then 1 else 0) s.fab.slewOff.toNat)) ∧
  (∀ s : State, domOn s 6 = true → syntSource s ≠ 1 →
    ∃ x, Leaves .d06SourceLost s x ∧ x.fab.d06Dead = true ∧ domOn x 6 = false ∧
      ∀ i, portOf x i = if (portOf s i).state.toNat ∈ [2, 3, 4, 7] then
        { portOf s i with state := 5, retrains := (portOf s i).retrains + 1, nakCount := 0 } else portOf s i) ∧
  (∀ s : State, domOn s 6 = true → domOn s 24 = true → bitB (s.rget .zmzTimeCtl 0 0) 31 = true →
    (portOf s (timePort s)).state.toNat ∈ [2, 3, 4] →
    ∃ x, Leaves .timeExchangeStart s x ∧ x.fab.exch = some (s.fab.exchNum + 1, now96 s) ∧
      (portOf x (timePort s)).timeq = (portOf s (timePort s)).timeq ++ [⟨false, s.fab.exchNum + 1, 0⟩]) ∧
  (∀ (i : Fin 16) (hdr : Flit) (rx : FlitRx) (num : BitVec 16) (s : State), domOn s 6 = true → timeValid s = true →
    let r := receive s i { hdr with ftype := 3, slots := timeSlots 1 num 0 0 } rx
    let up := (portOf r.1 i).state.toNat ∈ [2, 3, 4]
    (r.2 = true → up → Leaves (.timeReq i hdr rx num) s
      (modPort r.1 i fun x => { x with timeq := x.timeq ++ [⟨true, num, now96 s⟩] })) ∧
    (r.2 = false ∨ ¬ up → Leaves (.timeReq i hdr rx num) s r.1)) ∧
  (∀ (hdr : Flit) (rx : FlitRx) (num : BitVec 16) (t1 t2 t3 : BitVec 96) (s : State), domOn s 6 = true →
    (portOf s (timePort s)).state.toNat ∈ [2, 3, 4] → s.fab.exch = some (num, t1) →
    let i := timePort s
    let r := receive s i { hdr with ftype := 3, slots := timeSlots 2 num t2 t3 } rx
    let y := { r.1 with fab := { r.1.fab with exch := none } }
    (r.2 = true → timeSource s = 2 ∧ domOn s 24 = true → Leaves (.timeResp i hdr rx num t2 t3) s
      (measure y (stampDiff t2 t1 - ((stampDiff (now96 s) t1 - stampDiff t3 t2) / 2 - asymOf s i)))) ∧
    (r.2 = true → ¬ (timeSource s = 2 ∧ domOn s 24 = true) → Leaves (.timeResp i hdr rx num t2 t3) s y) ∧
    (r.2 = false → Leaves (.timeResp i hdr rx num t2 t3) s (abandonExchange r.1))) ∧
  (∀ (d : Byte) (src : W64) (s : State), ptpHears s d = true →
    (∀ better, s.mgmt.master = none ∨ better = true → s.mgmt.master ≠ some src →
      Leaves (.ptpAnnounce d src better) s { s with mgmt := { s.mgmt with master := some src, sync := none } }) ∧
    (s.mgmt.master = some src →
      (∀ rx t, Leaves (.ptpSync d src rx (some t)) s
        (emit { s with mgmt := { s.mgmt with sync := some (rx, some t) } } .delayReq)) ∧
      (∀ rx, Leaves (.ptpSync d src rx none) s { s with mgmt := { s.mgmt with sync := some (rx, none) } }) ∧
      (∀ rx t, s.mgmt.sync = some (rx, none) → Leaves (.ptpFollowUp d src t) s
        (emit { s with mgmt := { s.mgmt with sync := some (rx, some t) } } .delayReq)) ∧
      (∀ t1 t2 t3 t4, s.mgmt.sync = some (t2, some t1) →
        let y := { s with mgmt := { s.mgmt with sync := none } }
        Leaves (.ptpDelayResp d src t3 t4) s (if timeSource s = 1 ∧ domOn s 24 = true then
          measure y ((stampDiff t1 t2 + stampDiff t4 t3) / 2) else y)))) ∧
  (∀ s : State, domOn s 24 = true → timeSource s ≠ 0 →
    let y := setTimeBit s 1 true
    Leaves .timeHoldover s { y with free := y.free + 1, mgmt := { y.mgmt with phaseTerm := 0, corrDraw := y.free } }) ∧
  (∀ s : State, domOn s 24 = true → bitB (s.rget .mgtTimeStatus 0 0) 1 = true →
    let y := setTimeBit s 0 false
    Leaves .timeValidExpire s { y with mgmt := { y.mgmt with good := 0 } }) ∧
  (∀ (s : State) (θ : Rat), Canonical s →
    (timeValid (measure s θ) = true ↔ timeValid s = true ∨ (θ < 100 ∧ -100 < θ ∧ 7 ≤ s.mgmt.good)) ∧
    (measure s θ).rget .mgtTimeOffset 0 0 = BitVec.ofInt 64 (θ * 65536).floor)

/-! ## Resilience, telemetry and messages -/

/-- The Conservator, the annex, the telemetry and the intervals of the messages: an update takes RISK up to its target at once and down to it by
a fraction of the difference, and moves its advice; a
snapshot that completes is VALID with the bytes that it took; a restore and an erase are accepted, and end; the twelve items
are copied and counted; a merged request becomes one message at the end of its interval (R377, R378, R384 to R386, R389, R398,
R442, R447). Which requests merge, and that RISK is a recorded change of the Conservator's own, are the model's reading (log 21, log 62,
log 145). -/
def Obligations.ResilienceRows : Prop :=
  (∀ s : State, domOn s 23 = true → Leaves .riskUpdate s (autoRetire (adviceStep (riskStep s)))) ∧
  (∀ s : State, domOn s 23 = true → Canonical s → s.cur.wipe = none → s.cur.logBad = false → bitB (s.rget .rasCtl 0 0) 30 = false →
    let target := min (2 ^ 32 - 1) ((List.range 10).foldl (fun a i => a + (s.rget .rasWeight 0 i).toNat * inputCount s i)
      (s.rget .rasBaseFit 0 0).toNat)
    let risk := (s.rget .rasRisk 0 0).toNat % 2 ^ 32
    ∃ t, exec .riskUpdate s = .next t ∧ (t.rget .rasRisk 0 0).toNat / 2 ^ 32 = target ∧
      (t.rget .rasRisk 0 0).toNat % 2 ^ 32 =
        if risk ≤ target then target else risk - (risk - target) / 2 ^ ((s.rget .rasCtl 0 0).toNat / 2 ^ 20 % 16)) ∧
  (∀ (s : State) (x : Snapshot), domOn s 25 = true → StorageGood s → s.ras.snap = some x →
    (∃ t, exec (.snapshotComplete false) s = .next t ∧ t.ras.snap = none ∧ t.ras.shots = s.ras.shots + 1 ∧ t.mem = s.mem ∧
      (annexOf t x.slot).state = 2 ∧
      annexBytes (annexOf t x.slot) = readBytes s x.base x.len ++ readBytes s x.sealAt 64 ∧
      ∀ k, k ≠ x.slot → annexOf t k = annexOf s k) ∧
    Leaves (.snapshotComplete true) s (rasEvent (breakSnapshot s) 0x0C04 (BitVec.ofNat 32 x.slot.val))) ∧
  (∀ (w : Writer) (v : W64) (s : State), Writable w (RegName.rasAnnexCmd.at 0 0) s → Canonical s → s.ras.snap = none →
    s.ras.cmd = none →
    let k : Fin 4 := Fin.ofNat 4 (bitsN v 58 2)
    let addr := bitsN v 12 36 * 4096
    (∀ e, (annexOf s k).state = 2 → dataSpan s addr (annexOf s k).len = some e →
      ∃ t, exec (.annexRestore w v) s = .next t ∧ t.ras.cmd = some ⟨true, k, addr, e⟩ ∧ t.mem = s.mem ∧
        bitsN (t.rget .rasAnnexCmd 0 0) 48 2 = 1) ∧
    ∃ t, exec (.annexErase w v) s = .next t ∧ t.ras.cmd = some ⟨false, k, addr, 0⟩ ∧ t.mem = s.mem ∧
      bitsN (t.rget .rasAnnexCmd 0 0) 48 2 = 1) ∧
  (∀ (s : State) (c : AnnexCmd), domOn s 25 = true → Canonical s → StorageGood s → s.ras.cmd = some c →
    (c.restore = true → ∃ t, exec (.annexCommandDone none) s = .next t ∧ t.ras.cmd = none ∧
      bitsN (t.rget .rasAnnexCmd 0 0) 48 2 = 2 ∧
      (∀ i, i < (annexOf s c.slot).len → byteKey s (c.addr + i) ≠ none →
        byteAt t (c.addr + i) = (annexBytes (annexOf s c.slot)).getD i 0) ∧
      ∀ a, ¬ (c.addr ≤ a ∧ a < c.addr + (annexOf s c.slot).len) → byteAt t a = byteAt s a) ∧
    (c.restore = false → ∀ bad, Leaves (.annexCommandDone bad) s
      (annexState (setAnnex { s with ras := { s.ras with cmd := none } } c.slot {}) 2))) ∧
  (∀ s : State, domOn s 23 = true →
    Leaves .telemetrySnapshot s (((List.range 12).foldl telemCopy s).rcountWrap .mgtTelemSeq 0 0 0 32 1)) ∧
  (∀ (path : Fin 3) (s : State), (vAt s.host.paths {} path.val).running = true →
    ((vAt s.host.paths {} path.val).merged = true → pathOpen s path.val = true → Leaves (.errMsgIntervalExpire path) s
      (pathPut (pathSend s path.val) path.val { running := true, merged := false })) ∧
    ((vAt s.host.paths {} path.val).merged = false → Leaves (.errMsgIntervalExpire path) s (pathPut s path.val {})))

/-! ## Power -/

/-- The power states: the power-on sequence and what it leaves; OFF by PWR_EN, by the loss of the input and by request; the requests of
RUN, SLEEP and DEEP; the ends of an entry and of an exit; the warm reset and what it leaves, and the reset of a core's queues (R402, R406
to R410, R417 to R419, R422, R468 to R470). These rest on the model: the order of the reasons of a refusal (log 45), the power cycle that
stands between two runs (log 88), what a row does where its condition does not hold (log 106), a queue reset's tags (log 142), the link and
the cut reads in a warm reset (log 144), and the records it keeps (log 146). -/
def Obligations.PowerStateRows : Prop :=
  (∀ (d a : BitVec 3) (s : State), s.power.off = true → s.power.offReq = false →
    Leaves (.powerOn d a) s (powerOnReset s d a)) ∧
  (∀ (d a : BitVec 3) (s : State), PowerOnFresh d a s (powerOnReset s d a)) ∧
  (∀ s : State, Canonical s → WarmFresh s (warmReset s)) ∧
  (∀ (refclk : Bool) (s : State), s.power.off = false → pwrState s = 1 → s.power.phase = 1 →
    Leaves (.oscDelayExpire true refclk) s
      (curatorBoot { s with power := { s.power with localOk := true, refclk := refclk } })) ∧
  (∀ s : State, Canonical s → s.power.off = false → pwrState s = 1 → s.power.phase = 3 →
    ∃ t, exec .computeReady s = .next t ∧ pwrState t = 2 ∧ computeReady t = true ∧ t.power.phase = 4 ∧ t.mem = s.mem ∧
      t.cores = s.cores ∧ ∀ k : Fin 48, memState t k.val = if s.memMap.getLsbD k.val then 1 else 5) ∧
  (∀ s : State, s.power.off = false →
    ∃ t, exec .pwrEnFall s = .next t ∧ t.power.off = true ∧ t.power.offReq = false ∧ t.power.safe = true ∧
      ∀ n, domOn t n = false) ∧
  (∀ s : State, s.power.off = false → ∃ t, exec .alwaysOnLoss s = .next t ∧ t.power.off = true ∧ t.power.safe = true ∧
      ∀ n, domOn t n = false) ∧
  (∀ (w : Writer) (s : State), Writable w (RegName.pwrCtl.at 0 0) s →
    let y (op : Nat) := recorded s w .pwrCtl 0 0 4 ((opWord op 0).zeroExtend 64)
    (s.power.wake = none → s.power.target.isSome = true ∨ pwrState s = 3 ∨ pwrState s = 4 →
      Leaves (.reqRun w) s (startWake (reqAccept (y 1)) 1)) ∧
    (s.power.wake = none → s.power.target = none → pwrState s = 2 → Leaves (.reqRun w) s (reqAccept (y 1))) ∧
    (s.power.wake = none → s.power.target = none → pwrState s = 2 → s.host.cmds = [] → stepOpen s = false →
      computeReady s = true →
      (∀ p, (s.core p).runstate = 0 ∨ (s.core p).runstate = 6 ∨ (s.core p).runstate = 7) →
      (let x := reqAccept (y 2)
       Leaves (.reqSleep w) s { x with power := { x.power with target := some 3 } }) ∧
      (let x := reqAccept (y 3)
       Leaves (.reqDeep w) s { x with power := { x.power with target := some 4 } })) ∧
    (∀ k, sleepReason s = some k →
      Leaves (.reqSleep w) s (reqRefuse (y 2) k) ∧ Leaves (.reqDeep w) s (reqRefuse (y 3) k)) ∧
    (inTransition s = false →
      ∃ t, exec (.reqOff w) s = .next t ∧ t.power.off = true ∧ t.power.offReq = true ∧ ∀ n, domOn t n = false) ∧
    (inTransition s = true → Leaves (.reqOff w) s (reqRefuse (y 4) 1))) ∧
  (∀ (k : BitVec 3) (s : State), Canonical s → s.power.target = some k → k = 3 ∨ k = 4 →
    (s.col.reqs = [] → s.col.accq = [] → s.host.reqs = [] →
      ∃ t, exec .powerStateEntered s = .next t ∧ pwrState t = k.toNat ∧ t.power.target = none ∧ t.mem = s.mem ∧ t.vit.l2 = [] ∧
        ∀ p, (t.core p) = { s.core p with l1 := [], l1Err := [] }) ∧
    (s.col.reqs ≠ [] ∨ s.col.accq ≠ [] ∨ s.host.reqs ≠ [] → Leaves .powerStateEntered s s)) ∧
  (∀ (code : BitVec 4) (s : State), s.power.wake = some code → s.power.target = none → pwrState s = 3 ∨ pwrState s = 4 →
    s.power.lost = [] →
    let x := applyAllHeld
      (let y := (setPwrState (clearCores (moveMemStates s 2 1)) 2).rmod .pwrState 0 0 fun v => setBits v 4 4 code.toNat
       { y with power := { y.power with wake := none } })
    (s.power.lossAfter = false → s.power.warmAfter = false → Leaves .wakeComplete s x) ∧
    (s.power.lossAfter = false → s.power.warmAfter = true → Leaves .wakeComplete s (warmReset x)) ∧
    (s.power.lossAfter = true →
      Leaves .wakeComplete s (warmReset (s.rmod .pwrState 0 0 fun v => setBits v 4 4 code.toNat)))) ∧
  (∀ (w : Writer) (s : State), Writable w (RegName.pwrReset.at 0 0) s →
    let y := recorded s w .pwrReset 0 0 4 ((opWord 1 0).zeroExtend 64)
    (pwrState s = 2 ∨ (pwrState s = 1 ∧ s.power.phase = 3) → s.power.target = none → Leaves (.warm w) s (warmReset y)) ∧
    (sleeping s = false → ¬ (pwrState s = 2 ∨ (pwrState s = 1 ∧ s.power.phase = 3)) → Leaves (.warm w) s y) ∧
    (sleeping s = true → Leaves (.warm w) s
      (let x := startWake y 1
       { x with power := { x.power with warmAfter := true } }))) ∧
  (∀ (w : Writer) (p : Fin 72) (s : State), Writable w (RegName.pwrReset.at 0 0) s → s.map[p.val].role = 0 →
    domOn s 0 = true →
    ∃ t, exec (.queueReset w (BitVec.ofNat 7 p.val)) s = .next t ∧ (t.core p).runstate = 0 ∧
      QueuesEmpty (t.core p) ∧ (t.core p).s = Vector.replicate 32 0 ∧ (t.core p).frec = (s.core p).frec ∧
      (smapWf (fun _ => (0 : W32)) (s.core p).ab = true → ∀ k, k ∉ (s.core p).outAb → (∀ x ∈ coreFlights (s.core p), k ∉ x.outAb) →
        smapGet (fun _ => (0 : W32)) (t.core p).ab k = smapGet (fun _ => (0 : W32)) (s.core p).ab k) ∧
      (Canonical s → ∀ a, ¬ Abandoned (s.core p) a → byteAt t a = byteAt s a) ∧
      ∀ q, q ≠ p → t.core q = s.core q)

/-- The intake, the rails, the junction, the cap and the clock sources: warnings and droops are counted and logged; an
undervoltage, a rail fault and a hot sensor enter FAULT, in which only D23 and D24 run; the cap lowers the duty and raises it;
a lost source makes the outputs safe and stops the module until it returns (R405, R406, R412 to R416, R422). Where a cold
start goes on after a lost source, and that FAULT stays while one is lost, are the model's reading (log 60). -/
def Obligations.PowerProtectionRows : Prop :=
  (∀ s : State, Canonical s → s.power.off = false → pwrState (faultState s) = 5 ∧ (faultState s).power.safe = true ∧
    ∀ n, domOn (faultState s) n = true → n = 23 ∨ n = 24) ∧
  (∀ (mV : Nat) (s : State), s.power.off = false →
    (mV < 48000 → Leaves (.uvWarn mV) s
      (logPwr ((s.rcountSat .pwrEventCount 0 0 16 16 1).report 8 1) 0x0B05 (BitVec.ofNat 32 mV))) ∧
    (mV < 44000 → Leaves (.undervolt mV) s (faultState (logPwr s 0x0B01 (BitVec.ofNat 32 mV)))) ∧
    Leaves .inputOvervoltage s (faultState (logPwr s 0x0B02 16)) ∧
    Leaves .inputOvercurrent s (faultState (logPwr s 0x0B02 32)) ∧
    (∀ rail kind, 1 ≤ rail → rail ≤ 8 → kind ≤ 2 →
      Leaves (.railFault rail kind) s (faultState (logPwr s 0x0B02 (BitVec.ofNat 32 (rail + 16 * kind)))))) ∧
  (∀ (r : Fin 16) (s : State), s.power.off = false → pwrState s = 2 → r.val ∉ s.power.droop →
    let y := logPwr ((s.rcountSat .pwrEventCount 0 0 0 16 1).report 7 1) 0x0B06 (BitVec.ofNat 32 r.val)
    Leaves (.droop r) s { y with power := { y.power with droop := nsetAdd y.power.droop r.val } }) ∧
  (∀ (r : Fin 16) (s : State),
    ∃ x, Leaves (.droopRecovery r) s x ∧ x = { s with power := { s.power with droop := x.power.droop } } ∧
      ∀ k, k ∈ x.power.droop ↔ k ∈ s.power.droop ∧ k ≠ r.val) ∧
  (∀ (t : Vector Byte 16) (s : State), Canonical s → domOn s 23 = true →
    ((∀ i : Fin 16, i.val ∈ s.power.hot → t[i.val].toNat < 110) →
      ∃ x, Leaves (.junctionSample t) s x ∧ pwrState x = pwrState s ∧ x.mem = s.mem ∧ x.cores = s.cores ∧
        (∀ i : Fin 16, t[i.val].toNat ≤ bitsN (x.rget .pwrTherm 0 0) 0 8) ∧
        (∃ i : Fin 16, t[i.val].toNat = bitsN (x.rget .pwrTherm 0 0) 0 8) ∧
        ∀ i : Fin 16, i.val ∈ x.power.hot ↔ 110 ≤ t[i.val].toNat) ∧
    ((∃ i : Fin 16, i.val ∈ s.power.hot ∧ 110 ≤ t[i.val].toNat) →
      ∃ x, Leaves (.junctionSample t) s x ∧ pwrState x = 5 ∧ x.power.safe = true)) ∧
  (∀ (pk su : Nat) (s : State), domOn s 23 = true →
    let why := b2n (decide (sustLimit s < su)) + 2 * b2n (decide (peakLimit s < pk)) + 4 * b2n (tooHot s)
    (why = 0 → Leaves (.capCheck pk su) s (s.rmod .pwrCapStatus 0 0 fun v => setBits v 8 3 0)) ∧
    (why ≠ 0 → Canonical s →
      ∃ t, exec (.capCheck pk su) s = .next t ∧ duty t = max 4 (duty s - 1) % 64 ∧
        bitsN (t.rget .pwrCapStatus 0 0) 8 3 = why ∧ t.mem = s.mem ∧ t.cores = s.cores) ∧
    (100 * pk < 97 * peakLimit s → 100 * su < 97 * sustLimit s → tooHot s = false →
      Leaves (.dutyRaise pk su) s (s.rmod .pwrCapStatus 0 0 fun v => setBits (setBits v 0 6 (min 32 (duty s + 1))) 8 3 0))) ∧
  (∀ (k : Fin 10) (s : State), Canonical s → s.power.off = false → watched s k.val = true → k.val ∉ s.power.lost →
    ∃ t, exec (.clkSrcLost k) s = .next t ∧ t.power.safe = true ∧ k.val ∈ t.power.lost ∧ t.mem = s.mem ∧
      (pwrState s = 3 ∨ pwrState s = 4 → pwrState t = pwrState s ∧ t.power.lossAfter = true) ∧
      (pwrState s = 5 → pwrState t = 5) ∧
      (¬ (pwrState s = 3 ∨ pwrState s = 4 ∨ pwrState s = 5) →
        pwrState t = 7 ∧ t.power.target = none ∧ t.power.wake = none ∧ ∀ n, domOn t n = true → n = 23 ∨ n = 24)) ∧
  (∀ s : State,
    (s.power.lost ≠ [] → pwrState s = 7 → Leaves .clockSourceReturn s (sourcesBack s)) ∧
    (s.power.lost ≠ [] → pwrState s ≠ 7 →
      Leaves .clockSourceReturn s
        { s with power := { s.power with lost := [], refclk := s.power.refclk || s.power.lost.contains 1 } }) ∧
    (s.power.lost = [] → s.fab.d06Dead = true →
      Leaves .clockSourceReturn s (retrainPorts { s with fab := { s.fab with d06Dead := false } })))

/-! ## The Curator -/

/-- The Curator: RECOVER in recovery wait and UPDATE with firmware running read the image, and an update ends with the flash
as it reads back; a life-cycle command begins where the state allows it, SCRAPPED after a second write within a second; a
service operation is recorded; a tamper latches, wipes and enters FAULT; a wipe ends with a new chain and serves what it held;
and the requests of SPDM are answered where they are supported, signed with the Alias key of this boot's firmware (R427 to R435, R437,
R448). The encodings of measurements and SPDM, the read-back, the development key, the test access and the life of the seeds are the
model's (log 46 to log 48, log 71, log 87, log 149). -/
def Obligations.CuratorRows : Prop :=
  (∀ (w : Writer) (n : BitVec 12) (s : State), Writable w (RegName.curFwCmd.at 0 0) s → curatorBusy s = false →
    1 ≤ n.toNat → n.toNat ≤ 1536 →
    let run (op : Nat) (up : Bool) : State :=
      let y := recorded s w .curFwCmd 0 0 4 ((opWord op n.toNat).zeroExtend 64)
      fwState (hostRead { y with cur := { y.cur with fw := some { update := up, len := 4096 * n.toNat } } } .firmware
        (s.rget .curFwAddr 0 0).toNat (4096 * n.toNat)) 1
    (recoveryWait s = true → Leaves (.fwRecover w n) s (run 9 false)) ∧
    (firmwareRuns s = true → Leaves (.fwUpdate w n) s (run 10 true))) ∧
  (∀ (s : State) (op : FwOp), s.cur.fw = some op → op.writing = true → domOn s 23 = true → Canonical s →
    ∃ t, exec (.bootFlashWriteDone true) s = .next t ∧ t.cur = { s.cur with fw := none, flash := op.image } ∧
      bitsN (t.rget .curFwCmd 0 0) 16 2 = 2) ∧
  (∀ (w : Writer) (k : BitVec 3) (s : State), Writable w (RegName.curLcCmd.at 0 0) s → curatorBusy s = false →
    let y := recorded s w .curLcCmd 0 0 4 ((opWord (8 + k.toNat) 0).zeroExtend 64)
    (tokenTransition s.cur.lc k = true → Leaves (.lifecycle w k) s
      (lcState (hostRead { y with cur := { y.cur with lcOp := some ⟨k, false⟩, scrap := none } } .token
        (s.rget .curFwAddr 0 0).toNat tokenBytes) 1)) ∧
    (k ≠ 5 → tokenTransition s.cur.lc k = false → Leaves (.lifecycle w k) s (lcRefuse y k)) ∧
    (k = 5 → s.cur.lc ≠ 5 →
      (s.cur.scrap = none → Leaves (.lifecycle w k) s { y with cur := { y.cur with scrap := some s.timeNs } }) ∧
      ∀ t0, s.cur.scrap = some t0 → (s.timeNs - t0).toNat ≤ 10 ^ 9 → Leaves (.lifecycle w k) s (lcBegin y k))) ∧
  (∀ (w : Writer) (i : BitVec 7) (s : State), Writable w (RegName.curSvcCmd.at 0 0) s → curatorBusy s = false →
    s.cur.lc = 1 ∨ s.cur.lc = 4 →
    (i.toNat ≤ 71 → (vAt s.map ⟨3, 0⟩ i.toNat).role = 2 →
      ∃ t, exec (.unretireCore w i) s = .next t ∧ t.cur.backCores = nsetAdd s.cur.backCores i.toNat ∧
        t.cur.backCtrls = s.cur.backCtrls ∧ t.map = s.map ∧ t.cores = s.cores ∧ t.mem = s.mem ∧ t.cur.seq = s.cur.seq + 2) ∧
    (i.toNat ≤ 47 → s.memMap.getLsbD i.toNat = false →
      ∃ t, exec (.unretireCtrl w i) s = .next t ∧ t.cur.backCtrls = nsetAdd s.cur.backCtrls i.toNat ∧
        t.cur.backCores = s.cur.backCores ∧ t.memMap = s.memMap ∧ t.mem = s.mem ∧ t.cur.seq = s.cur.seq + 2)) ∧
  (∀ s : State, s.cur.lc = 0 → domOn s 23 = true → curatorBusy s = false → Leaves .tilwenTestAccess s (lcBegin s 1)) ∧
  (∀ (k : Fin 4) (s : State), domOn s 23 = true → Canonical s →
    ∃ t, exec (.tamper k) s = .next t ∧ pwrState t = 5 ∧ t.power.safe = true ∧ t.cur.tampered = some (s.cur.tampered.getD k.val) ∧
      t.cur.wipe = some 1 ∧ t.cur.secure = [] ∧ t.cur.log = [] ∧ t.cur.fw = none ∧ t.cur.lcOp = none ∧ t.cur.lc = s.cur.lc ∧
      t.mem = s.mem ∧ t.cores = s.cores) ∧
  (∀ (s : State) (r : Nat), s.cur.wipe = some r → domOn s 23 = true → s.cur.heldWrites = [] → s.cur.heldSpdm = [] →
    s.cur.lcOp = none →
    ∃ t, exec .wipeDone s = .next t ∧ t.cur.wipe = none ∧ t.cur.seq = 1 ∧
      t.cur.log = [chainStart s.timeNs s.cur.bootCount r] ∧ t.cur.lc = s.cur.lc ∧ t.mem = s.mem ∧ t.cores = s.cores) ∧
  (∀ (s : State) (r : Nat), s.cur.wipe = some r → domOn s 23 = true →
    let z := endWipe s r
    let y := s.cur.heldWrites.foldl releaseWrite { z with cur := { z.cur with heldWrites := [] } }
    Leaves .wipeDone s (s.cur.heldSpdm.foldl spdmServe { y with cur := { y.cur with heldSpdm := [] } })) ∧
  (∀ s : State, doeUp s = true → s.cur.wipe = none →
    (Leaves (.getVersion true) s (emit s (.spdm 0x84 [0x13])) ∧
      Leaves (.getCapabilities true) s (emit s (.spdm 0xE1 [])) ∧
      Leaves (.negotiateAlgorithms true) s (emit s (.spdm 0xE3 [1, 0]))) ∧
    (hasIdentity s = true →
      ∀ dev al, s.cur.devSeed = some dev → s.cur.aliasSeed = some al →
        let chain := Config.certificates ++ Config.certificate dev (Config.publicKey al)
        Leaves (.getDigests true) s (emit s (.spdm 0x81 (digestBytes chain))) ∧
        Leaves (.getCertificate true 0) s (emit s (.spdm 0x82 chain)) ∧
        Leaves (.challenge true 0) s (emit s (.spdm 0x83
          (Config.signature al ([1, 2, 3, 4, 5, 6, 7].flatMap fun i => digestBytes (measured s i)))))) ∧
    (∀ l signed, (∀ i ∈ l, 1 ≤ i ∧ i ≤ 7) → (signed = true → hasIdentity s = true) →
      let d := l.flatMap fun i => digestBytes (measured s i)
      Leaves (.getMeasurements true l signed) s (emit s (.spdm 0xE0 (if signed then d ++ Config.signature (s.cur.aliasSeed.getD []) d else d)))) ∧
    (∀ slot, slot ≠ 0 → Leaves (.challenge true slot) s
      (emit (logCur s 0x0A07 0x83) (.spdmError 0x83))))

/-! ## The management ports -/

/-- A port that serves a request answers a read with STATUS 0 and what the interface reads, and a write with STATUS 0 once it has taken
effect, or once its lower half is latched; during a wipe a write is held and not answered; an access that is unaligned or unassigned has
STATUS 2 and one to a stopped block STATUS 1, with no effect but that a write to another offset discards the latch; a held request
ends with STATUS 3 at its timeout; a record of the change log has 128 bytes (R15, R437, R438, R441). What a port that holds a write serves,
what a refused write does to the latch, and that a command of the Curator waits in a wipe to be recorded and refused, are the model's
reading (log 96, log 55, log 56). The common commands of I3C: the events' enables, the dynamic address, the reads of the target's identity
and status, and the reset action (R439, R467); what they answer beyond the spec's words is log 97. -/
def Obligations.ManagementRows : Prop :=
  ((∀ (eth : Bool) (num : W32) (s : State), portUp s eth = true → portBusy s eth = false →
     let w : Writer := if eth then .eth else .i3c
     let answers (i : Instr) (x : State) (status : Byte) (d : List Byte) := exec i s = .next (summaryRise s (portReply x eth num status d))
     (∀ off : W32, portRefusal s off.toNat 4 = none →
       let r := ifaceRead s (if eth then 2 else 1) off.toNat 4
       exec (.read4 eth num off) s = .next (summaryRise s (portReply r.2 eth num 0 r.1))) ∧
     (∀ off : W32, portRefusal s off.toNat 8 = none →
       let r := ifaceRead s (if eth then 2 else 1) off.toNat 8
       exec (.read8 eth num off) s = .next (summaryRise s (portReply r.2 eth num 0 r.1))) ∧
     (∀ (i : Instr) (off : W32) (size : Nat) (v : W64), portRefusal s off.toNat size = none →
       ∀ src : BitVec 48,
       (∃ x : W32, i = .write4 eth num off x src ∧ size = 4 ∧ v = x.zeroExtend 64) ∨ (i = .write8 eth num off v src ∧ size = 8) →
       let l := latchStep (fromFrame s eth src) w off.toNat size v
       (l.2 = none → answers i l.1 0 []) ∧
       (∀ y, l.2 = some y → s.cur.wipe = none → Unheld s (applyWrite l.1 w y) → portBusy (applyWrite l.1 w y) eth = false →
         exec i s = .next (summaryRise s (portReply (applyWrite l.1 w y) eth num 0 []))) ∧
       (∀ y, l.2 = some y → heldByWipe s y = true →
         exec i s = .next (summaryRise s (holdWrite l.1
           { w := w, off := y.off, size := y.size, v := y.v, num := num, port := true, refused := refusedInWipe y })))) ∧
     (∀ (off : W32) (k : Byte), portRefusal s off.toNat 4 = some k → answers (.read4 eth num off) s k [] ∧
       ∀ v src, answers (.write4 eth num off v src) (dropOther (fromFrame s eth src) w off.toNat) k []) ∧
     (∀ (off : W32) (k : Byte), portRefusal s off.toNat 8 = some k → answers (.read8 eth num off) s k [] ∧
       ∀ v src, answers (.write8 eth num off v src) (dropOther (fromFrame s eth src) w off.toNat) k [])) ∧
   (∀ (eth : Bool) (num seq : W32) (s : State), portUp s eth = true → portBusy s eth = false →
     ∃ d, exec (.readChangeLogRecord eth num seq) s = .next (summaryRise s (portReply s eth num 0 d)) ∧ 128 ≤ d.length ∧
       (seq.toNat ≤ fullSeq s seq → (logRecord s (fullSeq s seq)).length = 128 → d = logRecord s (fullSeq s seq)) ∧
       (fullSeq s seq < seq.toNat → d = List.replicate 128 0)) ∧
   (∀ (eth : Bool) (s : State) (h : HeldWrite), s.cur.heldWrites.find? (fun h => h.port && decide (h.w = portWriter eth)) = some h →
     exec (.mgmtHoldTimeout eth) s = .next (summaryRise s
       (portReply { s with cur := { s.cur with heldWrites := s.cur.heldWrites.erase h } } eth h.num 3 [])))) ∧
  (∀ s : State, domOn s 23 = true →
     let next (i : Instr) (x : State) := exec i s = .next (summaryRise s x)
     let set (f : I3c → I3c) : State := { s with mgmt := { s.mgmt with i3c := f s.mgmt.i3c } }
     let said (bs : List Byte) : State := { s with out := s.out ++ [.i3cData bs] }
     next .enec (set fun x => { x with events := true }) ∧
     next .disec (set fun x => { x with events := false }) ∧
     next .rstdaa (set fun x => { x with dynAddr := none }) ∧
     (∀ a, s.mgmt.i3c.dynAddr = none →
       next (.setdasa (0x60 + s.power.i3cSa.zeroExtend 7) a) (set fun x => { x with dynAddr := some a }) ∧
       ∃ x, exec (.entdaa a) s = .next (summaryRise s x) ∧ x.mgmt.i3c.dynAddr = some a ∧
         x.out = s.out ++ [.i3cData (provisionalId ++ Config.i3cBytes 1 ++ Config.i3cBytes 2)]) ∧
     next .getpid (said provisionalId) ∧ next .getbcr (said (Config.i3cBytes 1)) ∧
     next .getdcr (said (Config.i3cBytes 2)) ∧ next .getstatus (said (Config.i3cBytes 3)) ∧
     next .getmxds (said (Config.i3cBytes 4)) ∧
     ∀ a, next (.rstact a) (set fun x => { x with resetAction := a }))

/-! ## Debug -/

/-- The counters' snapshot and clear are accepted in RUN and act at their instant, each domain in its first clock; a selection of the
observation pins is kept, or refused; the TAP answers IDCODE, SAMPLE and BYPASS, drives the pins in a boundary test where its conditions
hold and selects BYPASS in its place where they do not, and DBG_ACCESS reads a register without changing it where debug access is open
(R453, R454, R456 to R459). What the instruction register shows and the order of the boundary cells are the model's (log 99, log 147). -/
def Obligations.DebugRows : Prop :=
  (∀ (w : Writer) (v : W32) (s : State), Writable w (RegName.dbgPmcCtl.at 0 0) s → pwrState s = 2 → s.dbg.snap = false →
    s.dbg.clear = false →
    let act (y : State) (snap clear : Bool) : State :=
      let z := (y.rmod .dbgPmcCtl 0 0 fun x => setBit x 31 (bitB v 31)).rmod .dbgPmcCtl 0 0 fun x => setBit x 27 false
      { z with dbg := { z.dbg with snap := snap, clear := clear, at_ := s.timeNs + 1000 } }
    Leaves (.pmcSnap w v) s
      (act (recorded s w .dbgPmcCtl 0 0 4 ((setBit v 29 true).zeroExtend 64)) true (bitB v 30)) ∧
    Leaves (.pmcClear w v) s
      (act (recorded s w .dbgPmcCtl 0 0 4 ((setBit v 30 true).zeroExtend 64)) (bitB v 29) true)) ∧
  (∀ s : State, Canonical s → s.dbg.snap = true ∨ s.dbg.clear = true → s.dbg.at_.toNat ≤ s.timeNs.toNat → s.dbg.acted = [] →
    domOn s 0 = true → domOn s 1 = true → domOn s 2 = true → domOn s 6 = true →
    ∃ t, exec .pmcInstant s = .next t ∧ t.dbg.snap = false ∧ t.dbg.clear = false ∧ t.mem = s.mem ∧
      t.cores = s.cores ∧ t.rget .dbgSnapTime 0 0 = s.dbg.at_ ∧
      (s.dbg.clear = true → (∀ n : Fin 9216, t.rget .vtrConf 0 n.val = 0) ∧ ∀ (p : Fin 72) (n : Fin 56), t.rget .corStall p.val n.val = 0) ∧
      ∀ n : Fin 8, (s.dbg.snap = true → t.rget .dbgColSnap 0 n.val = s.rget .dbgCol 0 n.val) ∧
        t.rget .dbgCol 0 n.val = if s.dbg.clear then 0 else s.rget .dbgCol 0 n.val) ∧
  (∀ s : State, Canonical s → s.dbg.snap = true ∨ s.dbg.clear = true → s.dbg.at_.toNat ≤ s.timeNs.toNat → s.dbg.acted = [] →
    domOn s 0 = true → domOn s 2 = false → domOn s 6 = false →
    ∃ t, exec .pmcInstant s = .next t ∧ t.dbg.snap = s.dbg.snap ∧ t.dbg.clear = s.dbg.clear ∧ t.dbg.acted = [0] ∧
      ∀ n : Fin 8, t.rget .dbgCol 0 n.val = s.rget .dbgCol 0 n.val) ∧
  (∀ (w : Writer) (v : W32) (s : State), Writable w (RegName.dbgObsSel.at 0 0) s →
    Leaves (.obsSelect w v) s ((recorded s w .dbgObsSel 0 0 4 (v.zeroExtend 64)).rset .dbgObsSel 0 0
      (setBit (BitVec.ofNat 64 (bitsN v 0 19)) 31 (!obsOk s (bitsN v 0 8) (bitsN v 8 8))))) ∧
  (∀ s : State, s.power.off = false → s.power.dead = false →
    Leaves .tapReset s (setIr s 1 false) ∧
    Leaves .jtagIdcode s (emit (setIr s 1 false) (.jtag 1 (bitList (idcode s)))) ∧
    let scan (y : State) (ir : Byte) (cells : List Bool) : State :=
      emit { y with free := y.free + 1, dbg := { y.dbg with cells := cells } } (.jtag ir (captured y.free))
    let driven (ir : Byte) : State := emit (setIr s ir true) (.pins (drivenLevels s.dbg.cells))
    (∀ cells, Leaves (.jtagSample cells) s (scan (setIr s 2 false) 2 cells)) ∧
    (∀ op, Leaves (.jtagBypass op) s (emit (setIr s op false) (.jtag op [false]))) ∧
    (s.power.perst = true → (∀ p, (s.core p).runstate ≠ 2 ∧ (s.core p).runstate ≠ 3 ∧ (s.core p).runstate ≠ 4) →
      Leaves .jtagClamp s (emit (driven 4) (.jtag 4 [false])) ∧
      Leaves .jtagHighz s (emit (emit (setIr s 5 true) (.pins [])) (.jtag 5 [false])) ∧
      ∀ cells, Leaves (.jtagExtest cells) s (emit (scan (driven 3) 3 cells) (.pins (drivenLevels cells))) ∧
        Leaves (.jtagExtestPulse cells) s (emit (scan (driven 6) 6 cells) (.pins (drivenLevels cells))) ∧
        Leaves (.jtagExtestTrain cells) s (emit (scan (driven 7) 7 cells) (.pins (drivenLevels cells)))) ∧
    (s.power.perst = false → ∀ cells,
      ∀ i ∈ [Instr.jtagExtest cells, .jtagClamp, .jtagHighz, .jtagExtestPulse cells, .jtagExtestTrain cells],
        Leaves i s (setIr (s.rmod .dbgJtagStatus 0 0 fun v => setBit v 8 true) 0xFF false)) ∧
    (∀ off, debugOpen s = true → domOn s 23 = true → dbgError s off.toNat = false →
      let r := read8 s off.toNat
      let d := dbgWord r.1 false off
      let y := setIr r.2 0x40 false
      Leaves (.jtagDbgAccess off) s (emit { y with dbg := { y.dbg with access := d } } (.jtag 0x40 (bitList d)))) ∧
    (∀ off, debugOpen s = false → Leaves (.jtagDbgAccess off) s (emit (setIr s 0xFF false) (.jtag 0xFF [false]))))
end

