-- ==== Sys2Proof/Laws/Maps.lean ====
section
/-!
SUPPORT. Sys2Proof/Laws/Maps.lean: the laws of the sparse maps: a read after a write, and that a write and a filter keep the
canonical form; then the same laws of memory and of the stored registers.
-/
namespace Sys2Proof.Machine

/-! ## Sparse maps -/

section
variable {β : Type} [DecidableEq β] {d : Nat → β}

theorem smapWfFrom_le {lo lo' : Nat} (h : lo' ≤ lo) : ∀ {m : List (Nat × β)}, smapWfFrom d lo m = true → smapWfFrom d lo' m = true
  | [], _ => rfl
  | (k, v) :: t, hm => by
    simp only [smapWfFrom, Bool.and_eq_true, decide_eq_true_eq] at hm ⊢
    exact ⟨⟨by omega, hm.1.2⟩, hm.2⟩

theorem smapGet_lt {lo k : Nat} (h : k < lo) : ∀ {m : List (Nat × β)}, smapWfFrom d lo m = true → smapGet d m k = d k
  | [], _ => rfl
  | (k', v) :: t, hm => by
    simp only [smapWfFrom, Bool.and_eq_true, decide_eq_true_eq] at hm
    simp only [smapGet]
    rw [if_pos (by omega)]

theorem smapPut_wfFrom (k : Nat) (v : β) : ∀ {lo : Nat} {m : List (Nat × β)}, lo ≤ k → smapWfFrom d lo m = true →
    smapWfFrom d lo (smapPut d m k v) = true
  | lo, [], hk, _ => by
    simp only [smapPut]
    split
    · rfl
    · next h => simp [smapWfFrom, hk, h]
  | lo, (k', v') :: t, hk, hm => by
    have hm' := hm
    simp only [smapWfFrom, Bool.and_eq_true, decide_eq_true_eq] at hm'
    obtain ⟨⟨h1, h2⟩, h3⟩ := hm'
    simp only [smapPut]
    split
    · next hlt =>
      split
      · exact hm
      · next hv =>
        simp only [smapWfFrom, Bool.and_eq_true, decide_eq_true_eq]
        exact ⟨⟨hk, hv⟩, ⟨by omega, h2⟩, h3⟩
    · split
      · next heq =>
        split
        · exact smapWfFrom_le (by omega) h3
        · next hv =>
          subst heq
          simp only [smapWfFrom, Bool.and_eq_true, decide_eq_true_eq]
          exact ⟨⟨hk, hv⟩, h3⟩
      · simp only [smapWfFrom, Bool.and_eq_true, decide_eq_true_eq]
        exact ⟨⟨h1, h2⟩, smapPut_wfFrom k v (by omega) h3⟩

theorem smapPut_wf {m : List (Nat × β)} (k : Nat) (v : β) (h : smapWf d m = true) : smapWf d (smapPut d m k v) = true :=
  smapPut_wfFrom k v (Nat.zero_le k) h

theorem smapGet_put_same (k : Nat) (v : β) : ∀ {lo : Nat} {m : List (Nat × β)}, smapWfFrom d lo m = true →
    smapGet d (smapPut d m k v) k = v
  | lo, [], _ => by
    simp only [smapPut]
    split
    · next h => simp [smapGet, h]
    · simp [smapGet]
  | lo, (k', v') :: t, hm => by
    have hm' := hm
    simp only [smapWfFrom, Bool.and_eq_true, decide_eq_true_eq] at hm'
    obtain ⟨⟨h1, h2⟩, h3⟩ := hm'
    simp only [smapPut]
    split
    · next hlt =>
      split
      · next hv => simp [smapGet, hlt, hv]
      · simp [smapGet]
    · split
      · next heq =>
        split
        · next hv => rw [hv]; exact smapGet_lt (by omega) h3
        · simp [smapGet]
      · next hlt hne =>
        simp only [smapGet, if_neg hlt, if_neg hne]
        exact smapGet_put_same k v h3

theorem smapGet_put_other {k j : Nat} (v : β) (hj : j ≠ k) : ∀ {lo : Nat} {m : List (Nat × β)}, smapWfFrom d lo m = true →
    smapGet d (smapPut d m k v) j = smapGet d m j
  | lo, [], _ => by
    simp only [smapPut]
    split
    · rfl
    · simp [smapGet, hj]
  | lo, (k', v') :: t, hm => by
    have hm' := hm
    simp only [smapWfFrom, Bool.and_eq_true, decide_eq_true_eq] at hm'
    obtain ⟨⟨h1, h2⟩, h3⟩ := hm'
    simp only [smapPut]
    split
    · next hlt =>
      split
      · rfl
      · by_cases hjk : j < k
        · have : j < k' := by omega
          simp [smapGet, hjk, this]
        · simp [smapGet, hjk, hj]
    · split
      · next hlt heq =>
        subst heq
        split
        · by_cases hjk : j < k
          · simp only [smapGet, if_pos hjk]; exact smapGet_lt (by omega) h3
          · simp only [smapGet, if_neg hjk, if_neg hj]
        · simp only [smapGet, if_neg hj]
      · simp only [smapGet, smapGet_put_other v hj h3]

theorem smapWfFrom_filter (p : Nat × β → Bool) : ∀ {lo : Nat} {m : List (Nat × β)}, smapWfFrom d lo m = true →
    smapWfFrom d lo (m.filter p) = true
  | _, [], _ => rfl
  | lo, (k, v) :: t, hm => by
    simp only [smapWfFrom, Bool.and_eq_true, decide_eq_true_eq] at hm
    obtain ⟨⟨h1, h2⟩, h3⟩ := hm
    have ih := smapWfFrom_filter p h3
    rw [List.filter_cons]
    split
    · simp only [smapWfFrom, Bool.and_eq_true, decide_eq_true_eq]
      exact ⟨⟨h1, h2⟩, ih⟩
    · exact smapWfFrom_le (by omega) ih

theorem smapWf_filter {m : List (Nat × β)} (p : Nat × β → Bool) (h : smapWf d m = true) : smapWf d (m.filter p) = true :=
  smapWfFrom_filter p h

end

/-! ## Memory (the canonical form of every memory operation) -/

section
variable (s : State) (m : List Host.Cell)

theorem memTop_mem : memTop { s with mem := m } = memTop s := rfl
theorem physOf_mem (n : Nat) : physOf { s with mem := m } n = physOf s n := rfl
theorem rget_mem (r : RegName) (i n : Nat) : ({ s with mem := m } : State).rget r i n = s.rget r i n := rfl

theorem byteKey_mem (a : Nat) : byteKey { s with mem := m } a = byteKey s a := by
  simp only [byteKey, memTop_mem, physOf_mem, rget_mem]; rfl

end

theorem putByte_some {s : State} {a k : Nat} (b : Byte) (hk : byteKey s a = some k) :
    putByte s a b = { s with mem := smapPut memDefault s.mem k b } := by
  simp only [putByte, hk]

theorem putByte_none {s : State} {a : Nat} (b : Byte) (hk : byteKey s a = none) : putByte s a b = s := by
  simp only [putByte, hk]

theorem byteKey_putByte (s : State) (a c : Nat) (b : Byte) : byteKey (putByte s a b) c = byteKey s c := by
  cases ha : byteKey s a with
  | none => rw [putByte_none b ha]
  | some k => rw [putByte_some b ha, byteKey_mem]

theorem putByte_wf {s : State} (a : Nat) (b : Byte) (h : memWf s.mem = true) : memWf (putByte s a b).mem = true := by
  cases ha : byteKey s a with
  | none => rw [putByte_none b ha]; exact h
  | some k => rw [putByte_some b ha]; exact smapPut_wf k b h

theorem putCells_wf (cells : List (Nat × Byte)) : ∀ {s : State}, memWf s.mem = true → memWf (putCells s cells).mem = true := by
  unfold putCells
  induction cells with
  | nil => exact fun h => h
  | cons c t ih => exact fun h => ih (putByte_wf c.1 c.2 h)

theorem byteAt_some {s : State} {a k : Nat} (hk : byteKey s a = some k) : byteAt s a = smapGet memDefault s.mem k := by
  simp only [byteAt, hk]

theorem byteAt_none {s : State} {a : Nat} (hk : byteKey s a = none) : byteAt s a = 0 := by
  simp only [byteAt, hk]

/-- A byte that was written reads as written where its address belongs to something. -/
theorem byteAt_putByte_same {s : State} {a k : Nat} (b : Byte) (hw : memWf s.mem = true) (hk : byteKey s a = some k) :
    byteAt (putByte s a b) a = b := by
  have h1 : byteKey (putByte s a b) a = some k := (byteKey_putByte s a a b).trans hk
  rw [byteAt_some h1, putByte_some b hk]
  exact smapGet_put_same k b hw

/-- A write leaves every byte of another place alone. -/
theorem byteAt_putByte_other {s : State} {a c : Nat} (b : Byte) (hw : memWf s.mem = true) (hk : byteKey s c ≠ byteKey s a) :
    byteAt (putByte s a b) c = byteAt s c := by
  have hc' := byteKey_putByte s a c b
  cases hc : byteKey s c with
  | none => rw [byteAt_none (hc'.trans hc), byteAt_none hc]
  | some j =>
    rw [byteAt_some (hc'.trans hc), byteAt_some hc]
    cases ha : byteKey s a with
    | none => rw [putByte_none b ha]
    | some k =>
      rw [putByte_some b ha]
      exact smapGet_put_other b (fun e => hk (by rw [hc, ha, e])) hw

/-! ## Stored registers -/

theorem rset_wf {s : State} (r : RegName) (i n : Nat) (v : W64) (h : smapWf regDefault s.regs = true) :
    smapWf regDefault (s.rset r i n v).regs = true := smapPut_wf _ _ h

theorem rget_rset_same {s : State} (r : RegName) (i n : Nat) (v : W64) (h : smapWf regDefault s.regs = true) :
    (s.rset r i n v).rget r i n = v := smapGet_put_same _ _ h

theorem rget_rset_other {s : State} {r q : RegName} {i n j m : Nat} (v : W64) (h : smapWf regDefault s.regs = true)
    (hne : q.at j m ≠ r.at i n) : (s.rset r i n v).rget q j m = s.rget q j m := smapGet_put_other _ hne h

theorem rget_rmod_same {s : State} (r : RegName) (i n : Nat) (f : W64 → W64) (h : smapWf regDefault s.regs = true) :
    (s.rmod r i n f).rget r i n = f (s.rget r i n) := smapGet_put_same _ _ h

theorem rget_rmod_other {s : State} {r q : RegName} {i n j m : Nat} (f : W64 → W64) (h : smapWf regDefault s.regs = true)
    (hne : q.at j m ≠ r.at i n) : (s.rmod r i n f).rget q j m = s.rget q j m := smapGet_put_other _ hne h

end Sys2Proof.Machine
end

