-- ==== Sys2Proof/Laws/Eff.lean ====
section
/-!
SUPPORT. Sys2Proof/Laws/Eff.lean: what every operation of the machine keeps, as one relation between the state before and after
it, with the lemmas by which it composes.
-/
namespace Sys2Proof.Machine

/-- What every operation but the end of a life-cycle transition keeps of the Curator's records. -/
structure CurEff (a b : CurState) : Prop where
  lc : b.lc = a.lc
  svn : a.svnMin.toNat ≤ b.svnMin.toNat
  uds : a.udsErased = true → b.udsErased = true
  tam : a.tampered.isSome = true → b.tampered.isSome = true
  op : OpLegal a → OpLegal b

theorem CurEff.refl (a : CurState) : CurEff a a := ⟨rfl, Nat.le_refl _, id, id, id⟩

theorem CurEff.trans {a b c : CurState} (h : CurEff a b) (k : CurEff b c) : CurEff a c :=
  ⟨k.lc.trans h.lc, Nat.le_trans h.svn k.svn, k.uds ∘ h.uds, k.tam ∘ h.tam, k.op ∘ h.op⟩

/-- An update of other fields. -/
theorem CurEff.of_eq {a b : CurState} (h1 : b.lc = a.lc) (h2 : b.svnMin = a.svnMin) (h3 : b.udsErased = a.udsErased)
    (h4 : b.tampered = a.tampered) (h5 : b.lcOp = a.lcOp) : CurEff a b :=
  ⟨h1, by rw [h2], by rw [h3]; exact id, by rw [h4]; exact id, fun h o ho => by rw [h1]; exact h o (h5 ▸ ho)⟩

/-- An update that ends a life-cycle request. -/
theorem CurEff.of_none {a b : CurState} (h1 : b.lc = a.lc) (h2 : b.svnMin = a.svnMin) (h3 : b.udsErased = a.udsErased)
    (h4 : b.tampered = a.tampered) (h5 : b.lcOp = none) : CurEff a b :=
  ⟨h1, by rw [h2], by rw [h3]; exact id, by rw [h4]; exact id, fun _ o ho => by rw [h5] at ho; cases ho⟩

/-- What every operation but the end of a life-cycle transition keeps: the queue, the canonical forms of memory and of the
stored registers, and the Curator's records. -/
structure Eff (s t : State) : Prop where
  pending : t.pending = s.pending
  mem : memWf s.mem = true → memWf t.mem = true
  regs : smapWf regDefault s.regs = true → smapWf regDefault t.regs = true
  cur : CurEff s.cur t.cur

theorem Eff.refl (s : State) : Eff s s := ⟨rfl, id, id, CurEff.refl _⟩

theorem Eff.trans {s t u : State} (h : Eff s t) (k : Eff t u) : Eff s u :=
  ⟨k.pending.trans h.pending, k.mem ∘ h.mem, k.regs ∘ h.regs, h.cur.trans k.cur⟩

/-- An update of any fields but the queue. -/
theorem Eff.upd {s y t : State} (h : Eff s y) (hp : t.pending = y.pending)
    (hm : memWf y.mem = true → memWf t.mem = true)
    (hr : smapWf regDefault y.regs = true → smapWf regDefault t.regs = true) (hc : CurEff y.cur t.cur) : Eff s t :=
  h.trans ⟨hp, hm, hr, hc⟩

/-- A state that differs from another in fields other than the queue, the memory, the stored registers and the Curator's
records: the form to which the proofs below bring a record update. -/
def State.others (y : State) (f : Nat) (c : Vector Core 72) (m : Vector CoreMapEntry 72) (mb : List (Nat × Byte)) (gb : List (Nat × BitVec 72))
    (vi : VitState) (l : LayState)
    (tn : W64) (mm mp : BitVec 48) (cv : List (Nat × W32)) (h : HostState) (fb : Fabric) (cl : CollState) (r : RasState)
    (la : Vector Latches 3) (pw : PowerState) (mg : Mgmt) (d : DebugState) (o : List Msg) : State :=
  State.mk y.pending f c m y.mem mb gb vi y.regs l tn mm mp cv h fb cl r la pw y.cur mg d o

theorem State.mk_others (y : State) (f : Nat) (c : Vector Core 72) (m : Vector CoreMapEntry 72) (mb : List (Nat × Byte)) (gb : List (Nat × BitVec 72))
    (vi : VitState) (l : LayState)
    (tn : W64) (mm mp : BitVec 48) (cv : List (Nat × W32)) (h : HostState) (fb : Fabric) (cl : CollState) (r : RasState)
    (la : Vector Latches 3) (pw : PowerState) (mg : Mgmt) (d : DebugState) (o : List Msg) :
    State.mk y.pending f c m y.mem mb gb vi y.regs l tn mm mp cv h fb cl r la pw y.cur mg d o =
      y.others f c m mb gb vi l tn mm mp cv h fb cl r la pw mg d o := rfl

/-- A change of the Curator's records alone. -/
def State.putCur (y : State) (c : CurState) : State := { y with cur := c }

/-- The same with other records of the Curator. -/
theorem State.mk_cur (y : State) (f : Nat) (c : Vector Core 72) (m : Vector CoreMapEntry 72) (mb : List (Nat × Byte)) (gb : List (Nat × BitVec 72))
    (vi : VitState) (l : LayState)
    (tn : W64) (mm mp : BitVec 48) (cv : List (Nat × W32)) (h : HostState) (fb : Fabric) (cl : CollState) (r : RasState)
    (la : Vector Latches 3) (pw : PowerState) (cu : CurState) (mg : Mgmt) (d : DebugState) (o : List Msg) :
    State.mk y.pending f c m y.mem mb gb vi y.regs l tn mm mp cv h fb cl r la pw cu mg d o =
      (y.others f c m mb gb vi l tn mm mp cv h fb cl r la pw mg d o).putCur cu := rfl

theorem Eff.others {s y : State} {f : Nat} {c : Vector Core 72} {m : Vector CoreMapEntry 72} {mb : List (Nat × Byte)} {gb : List (Nat × BitVec 72)}
    {vi : VitState} {l : LayState}
    {tn : W64} {mm mp : BitVec 48} {cv : List (Nat × W32)} {h : HostState} {fb : Fabric} {cl : CollState} {r : RasState}
    {la : Vector Latches 3} {pw : PowerState} {mg : Mgmt} {d : DebugState} {o : List Msg} (e : Eff s y) :
    Eff s (y.others f c m mb gb vi l tn mm mp cv h fb cl r la pw mg d o) :=
  e.trans ⟨rfl, id, id, CurEff.refl _⟩

theorem Eff.putCur {s y : State} {c : CurState} (e : Eff s y) (k : CurEff y.cur c) : Eff s (y.putCur c) :=
  e.trans ⟨rfl, id, id, k⟩

/-- A change of memory, of the stored registers and of the Curator's records. -/
def State.putAll (y : State) (m : List Host.Cell) (r : List (Nat × W64)) (c : CurState) : State :=
  { y with mem := m, regs := r, cur := c }

theorem State.mk_all (y : State) (f : Nat) (c : Vector Core 72) (m : Vector CoreMapEntry 72) (me : List Host.Cell)
    (mb : List (Nat × Byte)) (gb : List (Nat × BitVec 72))
    (vi : VitState) (re : List (Nat × W64)) (l : LayState)
    (tn : W64) (mm mp : BitVec 48) (cv : List (Nat × W32)) (h : HostState) (fb : Fabric) (cl : CollState) (r : RasState)
    (la : Vector Latches 3) (pw : PowerState) (cu : CurState) (mg : Mgmt) (d : DebugState) (o : List Msg) :
    State.mk y.pending f c m me mb gb vi re l tn mm mp cv h fb cl r la pw cu mg d o =
      (y.others f c m mb gb vi l tn mm mp cv h fb cl r la pw mg d o).putAll me re cu := rfl

theorem Eff.putAll {s y : State} {m : List Host.Cell} {r : List (Nat × W64)} {c : CurState} (e : Eff s y)
    (hm : memWf y.mem = true → memWf m = true) (hr : smapWf regDefault y.regs = true → smapWf regDefault r = true)
    (k : CurEff y.cur c) : Eff s (y.putAll m r c) :=
  e.trans ⟨rfl, hm, hr, k⟩

theorem Eff.ite {s a b : State} {c : Prop} [Decidable c] (ha : Eff s a) (hb : Eff s b) : Eff s (if c then a else b) := by
  split
  · exact ha
  · exact hb

theorem Eff.ite1 {β : Type} {s : State} {a b : State × β} {c : Prop} [Decidable c] (ha : Eff s a.1) (hb : Eff s b.1) :
    Eff s (if c then a else b).1 := by
  split
  · exact ha
  · exact hb

theorem Eff.ite2 {β : Type} {s : State} {a b : β × State} {c : Prop} [Decidable c] (ha : Eff s a.2) (hb : Eff s b.2) :
    Eff s (if c then a else b).2 := by
  split
  · exact ha
  · exact hb

theorem Eff.ite_at {β : Type} (st : β → State) {s : State} {a b : β} {c : Prop} [Decidable c] (ha : Eff s (st a))
    (hb : Eff s (st b)) : Eff s (st (if c then a else b)) := by
  split
  · exact ha
  · exact hb

theorem Eff.elim {α : Type} {z s : State} {f : α → State} (hs : Eff z s) (hf : ∀ a, Eff z (f a)) (o : Option α) :
    Eff z (o.elim s f) := by
  cases o with
  | none => exact hs
  | some a => exact hf a

theorem Eff.foldl {α : Type} {f : State → α → State} (h : ∀ s a, Eff s (f s a)) {z s : State} {l : List α} (k : Eff z s) :
    Eff z (l.foldl f s) := by
  induction l generalizing s with
  | nil => exact k
  | cons a t ih => exact ih (k.trans (h s a))

/-- A fold whose accumulator holds the state at a place. -/
theorem Eff.foldl_at {α β : Type} (st : β → State) {f : β → α → β} (h : ∀ b a, Eff (st b) (st (f b a))) {z : State}
    {l : List α} {b : β} (k : Eff z (st b)) : Eff z (st (l.foldl f b)) := by
  induction l generalizing b with
  | nil => exact k
  | cons a t ih => exact ih (k.trans (h b a))

theorem Eff.after {s y t : State} (k : Eff y t) (h : Eff s y) : Eff s t := h.trans k

theorem Eff.fst_mk {β : Type} {s t : State} {b : β} (h : Eff s t) : Eff s (t, b).1 := h

theorem Eff.of_fst {β : Type} {s t : State} {p : State × β} {x : β} (e : p = (t, x)) (h : Eff s p.1) : Eff s t := by
  subst e; exact h

theorem Eff.of_snd {β : Type} {s t : State} {p : β × State} {x : β} (e : p = (x, t)) (h : Eff s p.2) : Eff s t := by
  subst e; exact h

/-- The same of an outcome: any next state. -/
structure EffR (s : State) (r : Result) : Prop where
  of : ∀ t, r = .next t → Eff s t

theorem EffR.ite {s : State} {a b : Result} {c : Prop} [Decidable c] (ha : EffR s a) (hb : EffR s b) :
    EffR s (if c then a else b) := by
  split
  · exact ha
  · exact hb

theorem EffR.next {s t : State} (h : Eff s t) : EffR s (.next t) := ⟨fun u e => by cases e; exact h⟩

/-- What every command keeps, the end of a life-cycle transition among them: the life cycle moves along R432 only. -/
structure EffL (s t : State) : Prop where
  pending : t.pending = s.pending
  mem : memWf s.mem = true → memWf t.mem = true
  regs : smapWf regDefault s.regs = true → smapWf regDefault t.regs = true
  svn : s.cur.svnMin.toNat ≤ t.cur.svnMin.toNat
  uds : s.cur.udsErased = true → t.cur.udsErased = true
  lc : OpLegal s.cur → t.cur.lc = s.cur.lc ∨ lcLegal s.cur.lc t.cur.lc = true
  op : OpLegal s.cur → OpLegal t.cur
  tam : s.cur.tampered.isSome = true → t.cur.tampered.isSome = true ∨ (s.cur.lc = 4 ∧ t.cur.lc = 1)

theorem Eff.toL {s t : State} (h : Eff s t) : EffL s t :=
  ⟨h.pending, h.mem, h.regs, h.cur.svn, h.cur.uds, fun _ => .inl h.cur.lc, h.cur.op, fun k => .inl (h.cur.tam k)⟩

theorem EffL.trans {s t u : State} (h : EffL s t) (k : Eff t u) : EffL s u :=
  ⟨k.pending.trans h.pending, k.mem ∘ h.mem, k.regs ∘ h.regs, Nat.le_trans h.svn k.cur.svn, k.cur.uds ∘ h.uds,
   fun o => by rw [k.cur.lc]; exact h.lc o, k.cur.op ∘ h.op,
   fun o => (h.tam o).imp k.cur.tam fun x => ⟨x.1, k.cur.lc.trans x.2⟩⟩

/-! ## The operations of Ops -/

theorem modCore_eff {z : State} (s : State) (p : Fin 72) (f : Core → Core) (hz : Eff z s) : Eff z (s.modCore p f) :=
  hz.trans ⟨rfl, id, id, CurEff.refl _⟩
theorem setCore_eff {z : State} (s : State) (p : Fin 72) (c : Core) (hz : Eff z s) : Eff z (s.setCore p c) :=
  hz.trans ⟨rfl, id, id, CurEff.refl _⟩
theorem rset_eff {z : State} (s : State) (r : RegName) (i n : Nat) (v : W64) (hz : Eff z s) : Eff z (s.rset r i n v) :=
  hz.trans ⟨rfl, id, rset_wf r i n v, CurEff.refl _⟩
theorem rmod_eff {z : State} (s : State) (r : RegName) (i n : Nat) (f : W64 → W64) (hz : Eff z s) : Eff z (s.rmod r i n f) :=
  rset_eff s r i n _ hz
theorem rcountSat_eff {z : State} (s : State) (r : RegName) (i n lo len k : Nat) (hz : Eff z s) :
    Eff z (s.rcountSat r i n lo len k) := rset_eff s r i n _ hz
theorem rcountWrap_eff {z : State} (s : State) (r : RegName) (i n lo len k : Nat) (hz : Eff z s) :
    Eff z (s.rcountWrap r i n lo len k) := rset_eff s r i n _ hz
theorem draw_eff {z : State} (s : State) (hz : Eff z s) : Eff z s.draw.2 := hz.trans ⟨rfl, id, id, CurEff.refl _⟩
theorem report_eff {z : State} (s : State) (i k : Nat) (hz : Eff z s) : Eff z (s.report i k) :=
  hz.trans ⟨rfl, id, id, CurEff.refl _⟩
theorem putByte_eff {z : State} (s : State) (a : Nat) (b : Byte) (hz : Eff z s) : Eff z (putByte s a b) := by
  refine hz.trans ⟨?_, putByte_wf a b, ?_, ?_⟩ <;> (unfold putByte; split)
  · rfl
  · rfl
  · exact id
  · exact id
  · exact CurEff.refl _
  · exact CurEff.refl _

end Sys2Proof.Machine
end

