-- ==== Sys2Proof/Laws/EffFabric.lean ====
section
/-!
SUPPORT. Sys2Proof/Laws/EffFabric.lean: what each operation of Ops.lean, Flags.lean, Fabric.lean keeps (`Eff`), one lemma each.
-/
namespace Sys2Proof.Machine

/-! ## Ops -/

theorem rasNote_eff {z : State} (s : State) (x1 : Nat) (x2 : Nat) (x3 : Nat) (hz : Eff z s) :
    Eff z (rasNote s x1 x2 x3) := by
  unfold rasNote
  try dsimp only
  repeat' first
    | with_reducible assumption
    | rw [State.mk_others]
    | with_reducible apply Eff.others

theorem invPut_eff {z : State} (s : State) (x1 : Nat) (x2 : InvEntry) (hz : Eff z s) : Eff z (invPut s x1 x2) := by
  unfold invPut
  try dsimp only
  repeat' first
    | with_reducible assumption
    | rw [State.mk_others]
    | with_reducible apply Eff.others

theorem useEnd_eff {z : State} (s : State) (x1 : Nat) (hz : Eff z s) : Eff z (useEnd s x1) := by
  unfold useEnd
  try dsimp only
  repeat' first
    | with_reducible assumption
    | with_reducible apply invPut_eff

theorem usesEnd_eff {z : State} (s : State) (x1 : List Nat) (hz : Eff z s) : Eff z (usesEnd s x1) := by
  unfold usesEnd
  try dsimp only
  repeat' first
    | with_reducible assumption
    | with_reducible exact Eff.refl _
    | with_reducible apply useEnd_eff
    | with_reducible apply Eff.foldl
    | intro _

theorem noteLine_eff {z : State} (s : State) (x1 : Nat) (hz : Eff z s) : Eff z (noteLine s x1) := by
  unfold noteLine
  try dsimp only
  repeat' first
    | with_reducible assumption
    | with_reducible apply Eff.ite
    | rw [State.mk_others]
    | with_reducible apply Eff.others

theorem cleanLine_eff {z : State} (s : State) (x1 : Nat) (hz : Eff z s) : Eff z (cleanLine s x1) := by
  unfold cleanLine
  try dsimp only
  repeat' first
    | with_reducible assumption
    | with_reducible apply Eff.ite
    | rw [State.mk_others]
    | with_reducible apply Eff.others

theorem correctLine_eff {z : State} (s : State) (x1 : Nat) (hz : Eff z s) : Eff z (correctLine s x1) := by
  unfold correctLine
  try dsimp only
  repeat' first
    | with_reducible assumption
    | with_reducible apply rasNote_eff
    | with_reducible apply report_eff
    | with_reducible apply rcountSat_eff
    | with_reducible apply cleanLine_eff

theorem logMemUe_eff {z : State} (s : State) (x1 : Master) (x2 : Nat) (x3 : Nat) (hz : Eff z s) :
    Eff z (logMemUe s x1 x2 x3) := by
  unfold logMemUe
  try dsimp only
  repeat' first
    | with_reducible assumption
    | with_reducible apply rasNote_eff
    | with_reducible apply report_eff
    | with_reducible apply rcountSat_eff
    | with_reducible apply rset_eff
    | with_reducible apply Eff.ite

theorem freeBytes_eff {z : State} (s : State) (x1 : Nat) (x2 : Nat) (hz : Eff z s) : Eff z (freeBytes s x1 x2) := by
  unfold freeBytes
  try dsimp only
  repeat' first
    | with_reducible assumption
    | with_reducible exact Eff.refl _
    | with_reducible apply putByte_eff
    | with_reducible apply Eff.foldl
    | intro _
    | rw [State.mk_others]
    | with_reducible apply Eff.others

theorem memRead_eff {z : State} (x0 : Master) (x1 : Nat) (s : State) (x3 : Nat) (hz : Eff z s) :
    Eff z (memRead x0 x1 s x3).1 := by
  unfold memRead
  try dsimp only
  repeat' first
    | with_reducible assumption
    | dsimp only
    | with_reducible apply correctLine_eff
    | with_reducible apply logMemUe_eff
    | with_reducible apply freeBytes_eff
    | with_reducible apply Eff.ite1
    | rw [State.mk_others]
    | with_reducible apply Eff.others
    | split

theorem l2Put_eff {z : State} (s : State) (x1 : List L2Line) (hz : Eff z s) : Eff z (l2Put s x1) := by
  unfold l2Put
  try dsimp only
  repeat' first
    | with_reducible assumption
    | rw [State.mk_others]
    | with_reducible apply Eff.others

theorem l2Touch_eff {z : State} (s : State) (x1 : Nat) (hz : Eff z s) : Eff z (l2Touch s x1) := by
  unfold l2Touch
  try dsimp only
  repeat' first
    | with_reducible assumption
    | with_reducible apply l2Put_eff
    | with_reducible apply Eff.ite

theorem l2Repair_eff {z : State} (s : State) (x1 : Nat) (hz : Eff z s) : Eff z (l2Repair s x1) := by
  unfold l2Repair
  try dsimp only
  repeat' first
    | with_reducible assumption
    | with_reducible apply report_eff
    | with_reducible apply rcountSat_eff

theorem l2Fill_eff {z : State} (s : State) (x1 : Nat) (hz : Eff z s) : Eff z (l2Fill s x1) := by
  unfold l2Fill
  try dsimp only
  repeat' first
    | with_reducible assumption
    | with_reducible apply l2Touch_eff
    | with_reducible apply l2Put_eff
    | with_reducible apply Eff.ite
    | rw [State.mk_others]
    | with_reducible apply Eff.others

theorem sliceRead_eff {z : State} (x0 : Master) (x1 : Nat) (s : State) (x3 : Nat) (hz : Eff z s) :
    Eff z (sliceRead x0 x1 s x3).1 := by
  unfold sliceRead
  try dsimp only
  repeat' first
    | with_reducible assumption
    | dsimp only
    | with_reducible apply noteLine_eff
    | with_reducible apply memRead_eff
    | with_reducible apply l2Touch_eff
    | with_reducible apply l2Put_eff
    | with_reducible apply l2Repair_eff
    | with_reducible apply l2Fill_eff
    | split

theorem cleanWord_eff {z : State} (s : State) (x1 : Nat) (hz : Eff z s) : Eff z (cleanWord s x1) := by
  unfold cleanWord
  try dsimp only
  repeat' first
    | with_reducible assumption
    | rw [State.mk_others]
    | with_reducible apply Eff.others

theorem correctWord_eff {z : State} (s : State) (x1 : Nat) (x2 : Nat) (hz : Eff z s) : Eff z (correctWord s x1 x2) := by
  unfold correctWord
  try dsimp only
  repeat' first
    | with_reducible assumption
    | with_reducible apply rasNote_eff
    | with_reducible apply report_eff
    | with_reducible apply rcountSat_eff
    | with_reducible apply cleanWord_eff

theorem logVtrUe_eff {z : State} (s : State) (x1 : Nat) (x2 : Nat) (x3 : Nat) (x4 : Nat) (hz : Eff z s) :
    Eff z (logVtrUe s x1 x2 x3 x4) := by
  unfold logVtrUe
  try dsimp only
  repeat' first
    | with_reducible assumption
    | with_reducible apply rasNote_eff
    | with_reducible apply report_eff
    | with_reducible apply rcountSat_eff
    | with_reducible apply rset_eff
    | with_reducible apply Eff.ite

theorem wordRead_eff {z : State} (x0 : Nat) (x1 : Nat) (s : State) (x3 : Nat) (hz : Eff z s) :
    Eff z (wordRead x0 x1 s x3).1 := by
  unfold wordRead
  try dsimp only
  repeat' first
    | with_reducible assumption
    | dsimp only
    | with_reducible apply correctWord_eff
    | with_reducible apply logVtrUe_eff
    | with_reducible apply freeBytes_eff
    | with_reducible apply Eff.ite1
    | rw [State.mk_others]
    | with_reducible apply Eff.others
    | split

theorem wordsRead_eff {z : State} (x0 : Nat) (x1 : Nat) (x2 : Nat) (x3 : Nat) (s : State) (x5 : Nat) (hz : Eff z s) :
    Eff z (wordsRead x0 x1 x2 x3 s x5).1 := by
  unfold wordsRead
  try dsimp only
  repeat' first
    | with_reducible assumption
    | with_reducible exact Eff.refl _
    | dsimp only
    | with_reducible apply wordRead_eff
    | with_reducible apply Eff.ite1
    | with_reducible apply Eff.foldl_at Prod.fst
    | intro _

theorem readErrLine_eff {z : State} (x0 : Master) (x1 : Nat) (x2 : Nat) (s : State) (x4 : Nat) (hz : Eff z s) :
    Eff z (readErrLine x0 x1 x2 s x4).1 := by
  unfold readErrLine
  try dsimp only
  repeat' first
    | with_reducible assumption
    | with_reducible apply sliceRead_eff
    | with_reducible apply wordsRead_eff
    | with_reducible apply Eff.ite1
    | split

theorem readErr_eff {z : State} (x0 : Master) (s : State) (x2 : Nat) (x3 : Nat) (hz : Eff z s) :
    Eff z (readErr x0 s x2 x3).1 := by
  unfold readErr
  try dsimp only
  repeat' first
    | with_reducible assumption
    | with_reducible exact Eff.refl _
    | with_reducible apply readErrLine_eff
    | with_reducible apply Eff.foldl_at Prod.fst
    | intro _
    | split

theorem noteWipe_eff {z : State} (x0 : Master) (s : State) (x2 : Nat) (x3 : Nat) (hz : Eff z s) :
    Eff z (noteWipe x0 s x2 x3) := by
  unfold noteWipe
  try dsimp only
  repeat' first
    | with_reducible assumption
    | with_reducible apply Eff.ite
    | rw [State.mk_others]
    | with_reducible apply Eff.others

theorem devRead_eff {z : State} (x0 : Master) (s : State) (x2 : Nat) (x3 : Nat) (hz : Eff z s) :
    Eff z (devRead x0 s x2 x3).1 := by
  unfold devRead
  try dsimp only
  repeat' first
    | with_reducible assumption
    | with_reducible apply readErr_eff
    | with_reducible apply noteWipe_eff

theorem perfCount_eff {z : State} (s : State) (x1 : RegName) (x2 : Nat) (x3 : Nat) (hz : Eff z s) :
    Eff z (perfCount s x1 x2 x3) := by
  unfold perfCount
  try dsimp only
  repeat' first
    | with_reducible assumption
    | with_reducible apply rmod_eff
    | with_reducible apply Eff.ite

theorem countLines_eff {z : State} (s : State) (x1 : List (Nat × Byte)) (hz : Eff z s) : Eff z (countLines s x1) := by
  unfold countLines
  try dsimp only
  repeat' first
    | with_reducible assumption
    | with_reducible exact Eff.refl _
    | with_reducible apply perfCount_eff
    | with_reducible apply Eff.foldl
    | intro _

theorem putCells_eff {z : State} (s : State) (x1 : List (Nat × Byte)) (hz : Eff z s) : Eff z (putCells s x1) := by
  unfold putCells
  try dsimp only
  repeat' first
    | with_reducible assumption
    | with_reducible exact Eff.refl _
    | with_reducible apply putByte_eff
    | with_reducible apply Eff.foldl
    | intro _

theorem noteOut_eff {z : State} (x0 : Master) (s : State) (x2 : List (Nat × Byte)) (hz : Eff z s) :
    Eff z (noteOut x0 s x2) := by
  unfold noteOut
  try dsimp only
  repeat' first
    | with_reducible assumption
    | with_reducible apply modCore_eff
    | split

theorem putNoted_eff {z : State} (x0 : Master) (s : State) (x2 : List (Nat × Byte)) (hz : Eff z s) :
    Eff z (putNoted x0 s x2) := by
  unfold putNoted
  try dsimp only
  repeat' first
    | with_reducible assumption
    | with_reducible apply putCells_eff
    | with_reducible apply noteOut_eff

theorem l2Rewrite_eff {z : State} (s : State) (x1 : Nat) (hz : Eff z s) : Eff z (l2Rewrite s x1) := by
  unfold l2Rewrite
  try dsimp only
  repeat' first
    | with_reducible assumption
    | with_reducible apply l2Put_eff
    | with_reducible apply Eff.ite

theorem mergeUnit_eff {z : State} (x0 : Master) (x1 : List (Nat × Byte)) (s : State) (x3 : Nat) (hz : Eff z s) :
    Eff z (mergeUnit x0 x1 s x3).1 := by
  unfold mergeUnit
  try dsimp only
  repeat' first
    | with_reducible assumption
    | dsimp only
    | with_reducible apply cleanLine_eff
    | with_reducible apply l2Rewrite_eff
    | with_reducible apply sliceRead_eff
    | with_reducible apply cleanWord_eff
    | with_reducible apply wordRead_eff
    | with_reducible apply Eff.ite
    | with_reducible apply Eff.ite1
    | split

theorem devWriteN_eff {z : State} (x0 : Master) (s : State) (x2 : List (Nat × Byte)) (hz : Eff z s) :
    Eff z (devWriteN x0 s x2).1 := by
  unfold devWriteN
  try dsimp only
  repeat' first
    | with_reducible assumption
    | with_reducible exact Eff.refl _
    | dsimp only
    | with_reducible apply countLines_eff
    | with_reducible apply noteWipe_eff
    | with_reducible apply putNoted_eff
    | with_reducible apply mergeUnit_eff
    | with_reducible apply Eff.ite1
    | with_reducible apply Eff.foldl
    | with_reducible apply Eff.foldl_at Prod.fst
    | intro _

theorem l1Update_eff {z : State} (x0 : Fin 72) (s : State) (x2 : List (Nat × Byte)) (hz : Eff z s) :
    Eff z (l1Update x0 s x2) := by
  unfold l1Update
  try dsimp only
  repeat' first
    | with_reducible assumption
    | with_reducible apply modCore_eff

theorem writeThrough_eff {z : State} (x0 : Fin 72) (s : State) (x2 : List (Nat × Byte)) (hz : Eff z s) :
    Eff z (writeThrough x0 s x2).1 := by
  unfold writeThrough
  try dsimp only
  repeat' first
    | with_reducible assumption
    | with_reducible apply devWriteN_eff
    | with_reducible apply l1Update_eff

theorem storeCells_eff {z : State} (x0 : Fin 72) (s : State) (x2 : List (Nat × Byte)) (hz : Eff z s) :
    Eff z (storeCells x0 s x2).1 := by
  unfold storeCells
  try dsimp only
  repeat' first
    | with_reducible assumption
    | with_reducible exact Eff.refl _
    | with_reducible apply writeThrough_eff
    | with_reducible apply l2Fill_eff
    | with_reducible apply Eff.foldl
    | intro _

theorem useBegin_eff {z : State} (s : State) (x1 : Nat) (hz : Eff z s) : Eff z (useBegin s x1) := by
  unfold useBegin
  try dsimp only
  repeat' first
    | with_reducible assumption
    | with_reducible apply invPut_eff

theorem l1Miss_eff {z : State} (x0 : Fin 72) (s : State) (x2 : Nat) (hz : Eff z s) : Eff z (l1Miss x0 s x2).1 := by
  unfold l1Miss
  try dsimp only
  repeat' first
    | with_reducible assumption
    | dsimp only
    | with_reducible apply devRead_eff
    | with_reducible apply modCore_eff
    | with_reducible apply l2Fill_eff
    | split

theorem l1Repair_eff {z : State} (x0 : Fin 72) (s : State) (x2 : Nat) (hz : Eff z s) : Eff z (l1Repair x0 s x2) := by
  unfold l1Repair
  try dsimp only
  repeat' first
    | with_reducible assumption
    | with_reducible apply report_eff
    | with_reducible apply rcountSat_eff
    | with_reducible apply modCore_eff

theorem l1Line_eff {z : State} (x0 : Fin 72) (s : State) (x2 : Nat) (hz : Eff z s) : Eff z (l1Line x0 s x2).1 := by
  unfold l1Line
  try dsimp only
  repeat' first
    | with_reducible assumption
    | dsimp only
    | with_reducible apply l1Miss_eff
    | with_reducible apply l1Repair_eff
    | with_reducible apply modCore_eff
    | split

theorem loadBytes_eff {z : State} (x0 : Fin 72) (s : State) (x2 : Nat) (x3 : Nat) (hz : Eff z s) :
    Eff z (loadBytes x0 s x2 x3).1 := by
  unfold loadBytes
  try dsimp only
  repeat' first
    | with_reducible assumption
    | with_reducible exact Eff.refl _
    | dsimp only
    | with_reducible apply l1Line_eff
    | with_reducible apply devRead_eff
    | with_reducible apply Eff.ite1
    | with_reducible apply Eff.foldl_at Prod.fst
    | intro _
    | split

theorem devWrite_eff {z : State} (x0 : Master) (s : State) (x2 : List (Nat × Byte)) (hz : Eff z s) :
    Eff z (devWrite x0 s x2).1 := by
  unfold devWrite
  try dsimp only
  repeat' first
    | with_reducible assumption
    | with_reducible apply devWriteN_eff

theorem reachRead_eff {z : State} (x0 : Master) (x1 : Flt) (s : State) (x3 : Nat) (x4 : Nat) (hz : Eff z s) :
    Eff z (reachRead x0 x1 s x3 x4).1 := by
  unfold reachRead
  try dsimp only
  repeat' first
    | with_reducible assumption
    | with_reducible apply devRead_eff
    | split

theorem readThrough_eff {z : State} (x0 : Fin 72) (s : State) (x2 : Nat) (x3 : Nat) (hz : Eff z s) :
    Eff z (readThrough x0 s x2 x3).1 := by
  unfold readThrough
  try dsimp only
  repeat' first
    | with_reducible assumption
    | with_reducible exact Eff.refl _
    | dsimp only
    | with_reducible apply l1Line_eff
    | with_reducible apply devRead_eff
    | with_reducible apply Eff.ite1
    | with_reducible apply Eff.foldl_at Prod.fst
    | intro _
    | split

theorem copyRead_eff {z : State} (x0 : Master) (s : State) (x2 : Nat) (x3 : Nat) (hz : Eff z s) :
    Eff z (copyRead x0 s x2 x3).1 := by
  unfold copyRead
  try dsimp only
  repeat' first
    | with_reducible assumption
    | with_reducible apply readThrough_eff
    | with_reducible apply devRead_eff
    | split

theorem copyWrite_eff {z : State} (x0 : Master) (s : State) (x2 : List (Nat × Byte)) (hz : Eff z s) :
    Eff z (copyWrite x0 s x2).1 := by
  unfold copyWrite
  try dsimp only
  repeat' first
    | with_reducible assumption
    | with_reducible apply writeThrough_eff
    | with_reducible apply devWriteN_eff
    | split

theorem startWake_eff {z : State} (s : State) (x1 : BitVec 4) (hz : Eff z s) : Eff z (startWake s x1) := by
  unfold startWake
  try dsimp only
  repeat' first
    | with_reducible assumption
    | with_reducible apply Eff.ite
    | rw [State.mk_others]
    | with_reducible apply Eff.others

theorem setPwrState_eff {z : State} (s : State) (x1 : Nat) (hz : Eff z s) : Eff z (setPwrState s x1) := by
  unfold setPwrState
  try dsimp only
  repeat' first
    | with_reducible assumption
    | with_reducible apply rmod_eff

theorem l1Barrier_eff {z : State} (x0 : Fin 72) (s : State) (hz : Eff z s) : Eff z (l1Barrier x0 s) := by
  unfold l1Barrier
  try dsimp only
  repeat' first
    | with_reducible assumption
    | with_reducible apply rcountWrap_eff
    | with_reducible apply modCore_eff


/-! ## Flags -/

theorem pathPut_eff {z : State} (s : State) (x1 : Nat) (x2 : MsgPath) (hz : Eff z s) : Eff z (pathPut s x1 x2) := by
  unfold pathPut
  try dsimp only
  repeat' first
    | with_reducible assumption
    | rw [State.mk_others]
    | with_reducible apply Eff.others

theorem emit_eff {z : State} (s : State) (x1 : Msg) (hz : Eff z s) : Eff z (emit s x1) := by
  unfold emit
  try dsimp only
  repeat' first
    | with_reducible assumption
    | rw [State.mk_others]
    | with_reducible apply Eff.others

theorem sendMsix_eff {z : State} (s : State) (x1 : Nat) (hz : Eff z s) : Eff z (sendMsix s x1) := by
  unfold sendMsix
  try dsimp only
  repeat' first
    | with_reducible assumption
    | with_reducible apply emit_eff
    | with_reducible apply Eff.ite
    | rw [State.mk_others]
    | with_reducible apply Eff.others

theorem pathSend_eff {z : State} (s : State) (x1 : Nat) (hz : Eff z s) : Eff z (pathSend s x1) := by
  unfold pathSend
  try dsimp only
  repeat' first
    | with_reducible assumption
    | with_reducible apply sendMsix_eff
    | with_reducible apply emit_eff
    | split

theorem pathRequest_eff {z : State} (s : State) (x1 : Nat) (hz : Eff z s) : Eff z (pathRequest s x1) := by
  unfold pathRequest
  try dsimp only
  repeat' first
    | with_reducible assumption
    | with_reducible apply pathPut_eff
    | with_reducible apply pathSend_eff
    | with_reducible apply Eff.ite

theorem summaryRise_eff {z : State} (x0 : State) (s : State) (hz : Eff z s) : Eff z (summaryRise x0 s) := by
  unfold summaryRise
  try dsimp only
  repeat' first
    | with_reducible assumption
    | with_reducible exact Eff.refl _
    | with_reducible apply pathRequest_eff
    | with_reducible apply Eff.ite
    | with_reducible apply Eff.foldl
    | intro _

theorem answer_eff {z : State} (b t : State) (hb : Eff z b) (hz : Eff z t) : EffR z (answer b t) :=
  EffR.next (Eff.ite (summaryRise_eff _ _ hz) hb)

theorem eccRead_eff {z : State} (s : State) (x1 : Fin 72) (x2 : List Place) (hz : Eff z s) :
    Eff z (eccRead s x1 x2).1 := by
  unfold eccRead
  try dsimp only
  repeat' first
    | with_reducible assumption
    | with_reducible exact Eff.refl _
    | dsimp only
    | with_reducible apply rasNote_eff
    | with_reducible apply report_eff
    | with_reducible apply modCore_eff
    | with_reducible apply Eff.ite1
    | with_reducible apply Eff.foldl
    | intro _
    | split

theorem markStopping_eff {z : State} (s : State) (x1 : W32) (hz : Eff z s) : Eff z (markStopping s x1) := by
  unfold markStopping
  try dsimp only
  repeat' first
    | with_reducible assumption
    | rw [State.mk_others]
    | with_reducible apply Eff.others

theorem dropUnsent_eff {z : State} (s : State) (x1 : Fin 72) (hz : Eff z s) : Eff z (dropUnsent s x1) := by
  unfold dropUnsent
  try dsimp only
  repeat' first
    | with_reducible assumption
    | rw [State.mk_others]
    | with_reducible apply Eff.others

theorem abandonOutputs_eff {z : State} (s : State) (x1 : Fin 72) (hz : Eff z s) : Eff z (abandonOutputs s x1) := by
  unfold abandonOutputs
  try dsimp only
  repeat' first
    | with_reducible assumption
    | with_reducible exact Eff.refl _
    | with_reducible apply modCore_eff
    | with_reducible apply putByte_eff
    | with_reducible apply Eff.foldl
    | intro _
    | rw [State.mk_others]
    | with_reducible apply Eff.others

theorem stopCore_eff {z : State} (s : State) (x1 : Fin 72) (hz : Eff z s) : Eff z (stopCore s x1) := by
  unfold stopCore
  try dsimp only
  repeat' first
    | with_reducible assumption
    | with_reducible apply dropUnsent_eff
    | with_reducible apply abandonOutputs_eff
    | with_reducible apply usesEnd_eff
    | with_reducible apply modCore_eff

theorem coreFault_eff {z : State} (s : State) (x1 : Fin 72) (x2 : BitVec 3) (x3 : Flt) (x4 : Fin 6) (x5 : W64)
    (hz : Eff z s) :
    Eff z (coreFault s x1 x2 x3 x4 x5) := by
  unfold coreFault
  try dsimp only
  repeat' first
    | with_reducible assumption
    | with_reducible apply modCore_eff
    | with_reducible apply markStopping_eff
    | with_reducible apply stopCore_eff

theorem logWrite_eff {z : State} (s : State) (x1 : RegName) (x2 : RegName) (x3 : W64) (hz : Eff z s) :
    Eff z (logWrite s x1 x2 x3) := by
  unfold logWrite
  try dsimp only
  repeat' first
    | with_reducible assumption
    | with_reducible apply rset_eff
    | with_reducible apply Eff.ite

theorem logCol_eff {z : State} (s : State) (x1 : BitVec 16) (x2 : W32) (hz : Eff z s) : Eff z (logCol s x1 x2) := by
  unfold logCol
  try dsimp only
  repeat' first
    | with_reducible assumption
    | with_reducible apply logWrite_eff

theorem holdWrite_eff {z : State} (s : State) (x1 : HeldWrite) (hz : Eff z s) : Eff z (holdWrite s x1) := by
  unfold holdWrite
  try dsimp only
  repeat' first
    | with_reducible assumption
    | rw [State.mk_cur]
    | with_reducible apply Eff.others
    | with_reducible apply Eff.putCur
    | (with_reducible refine CurEff.of_eq ?_ ?_ ?_ ?_ ?_) <;> rfl

theorem logCur_eff {z : State} (s : State) (x1 : BitVec 16) (x2 : W32) (hz : Eff z s) : Eff z (logCur s x1 x2) := by
  unfold logCur
  try dsimp only
  repeat' first
    | with_reducible assumption
    | with_reducible apply logWrite_eff

theorem logPush_eff {z : State} (s : State) (x1 : List Byte) (hz : Eff z s) : Eff z (logPush s x1) := by
  unfold logPush
  try dsimp only
  repeat' first
    | with_reducible assumption
    | rw [State.mk_cur]
    | with_reducible apply Eff.others
    | with_reducible apply Eff.putCur
    | (with_reducible refine CurEff.of_eq ?_ ?_ ?_ ?_ ?_) <;> rfl

theorem logChange_eff {z : State} (s : State) (x1 : Sys2Proof.Writer) (x2 : Nat) (x3 : Nat) (x4 : W64) (x5 : W64)
    (hz : Eff z s) :
    Eff z (logChange s x1 x2 x3 x4 x5) := by
  unfold logChange
  try dsimp only
  repeat' first
    | with_reducible assumption
    | with_reducible apply logPush_eff

theorem withRecord_eff {z : State} (s : State) (x1 : Sys2Proof.Writer) (x2 : Nat) (x3 : Nat) (x4 : W64) (x5 : W64)
    (x6 : State → State) (h6 : ∀ (a0 : State), Eff a0 (x6 a0)) (hz : Eff z s) :
    Eff z (withRecord s x1 x2 x3 x4 x5 x6) := by
  unfold withRecord
  try dsimp only
  repeat' first
    | with_reducible assumption
    | with_reducible apply Eff.after (h6 _)
    | with_reducible apply logCur_eff
    | with_reducible apply logChange_eff
    | with_reducible apply Eff.ite

theorem ownChange_eff {z : State} (s : State) (x1 : RegName) (x2 : Nat) (x3 : Nat) (x4 : W64) (x5 : W64) (hz : Eff z s) :
    Eff z (ownChange s x1 x2 x3 x4 x5) := by
  unfold ownChange
  try dsimp only
  repeat' first
    | with_reducible assumption
    | with_reducible exact Eff.refl _
    | with_reducible apply holdWrite_eff
    | with_reducible apply withRecord_eff
    | with_reducible apply rset_eff
    | with_reducible apply Eff.ite
    | intro _

theorem logZmz_eff {z : State} (s : State) (x1 : BitVec 16) (x2 : Nat) (x3 : W32) (hz : Eff z s) :
    Eff z (logZmz s x1 x2 x3) := by
  unfold logZmz
  try dsimp only
  repeat' first
    | with_reducible assumption
    | with_reducible apply logWrite_eff

theorem logPwr_eff {z : State} (s : State) (x1 : BitVec 16) (x2 : W32) (hz : Eff z s) : Eff z (logPwr s x1 x2) := by
  unfold logPwr
  try dsimp only
  repeat' first
    | with_reducible assumption
    | with_reducible apply logWrite_eff

theorem reclaimTags_eff {z : State} (x0 : Req → Bool) (s : State) (hz : Eff z s) : Eff z (reclaimTags x0 s) := by
  unfold reclaimTags
  try dsimp only
  repeat' first
    | with_reducible assumption
    | rw [State.mk_others]
    | with_reducible apply Eff.others

theorem aerNote_eff {z : State} (s : State) (x1 : Nat) (hz : Eff z s) : Eff z (aerNote s x1) := by
  unfold aerNote
  try dsimp only
  repeat' first
    | with_reducible assumption
    | rw [State.mk_others]
    | with_reducible apply Eff.others

theorem replyUr_eff {z : State} (s : State) (hz : Eff z s) : Eff z (replyUr s) := by
  unfold replyUr
  try dsimp only
  repeat' first
    | with_reducible assumption
    | with_reducible apply emit_eff
    | with_reducible apply aerNote_eff

theorem logAcn_eff {z : State} (s : State) (x1 : BitVec 16) (x2 : Nat) (hz : Eff z s) : Eff z (logAcn s x1 x2) := by
  unfold logAcn
  try dsimp only
  repeat' first
    | with_reducible assumption
    | with_reducible apply logWrite_eff
    | with_reducible apply sendMsix_eff
    | with_reducible apply Eff.ite

theorem logRas_eff {z : State} (s : State) (x1 : BitVec 16) (x2 : W32) (hz : Eff z s) : Eff z (logRas s x1 x2) := by
  unfold logRas
  try dsimp only
  repeat' first
    | with_reducible assumption
    | with_reducible apply logWrite_eff

theorem settleStop_eff {z : State} (s : State) (x1 : Fin 72) (hz : Eff z s) : Eff z (settleStop s x1) := by
  unfold settleStop
  try dsimp only
  repeat' first
    | with_reducible assumption
    | with_reducible apply modCore_eff
    | with_reducible apply Eff.ite


/-! ## Fabric -/

theorem deliver_eff {z : State} (s : State) (x1 : Txn) (hz : Eff z s) : Eff z (deliver s x1) := by
  unfold deliver
  try dsimp only
  repeat' first
    | with_reducible assumption
    | rw [State.mk_others]
    | with_reducible apply Eff.others

theorem setPort_eff {z : State} (s : State) (x1 : Fin 16) (x2 : Port) (hz : Eff z s) : Eff z (setPort s x1 x2) := by
  unfold setPort
  try dsimp only
  repeat' first
    | with_reducible assumption
    | rw [State.mk_others]
    | with_reducible apply Eff.others

theorem modPort_eff {z : State} (s : State) (x1 : Fin 16) (x2 : Port → Port) (hz : Eff z s) :
    Eff z (modPort s x1 x2) := by
  unfold modPort
  try dsimp only
  repeat' first
    | with_reducible assumption
    | with_reducible apply setPort_eff

theorem queueTx_eff {z : State} (s : State) (x1 : Option (Fin 16)) (x2 : Fin 16) (x3 : Txn) (hz : Eff z s) :
    Eff z (queueTx s x1 x2 x3) := by
  unfold queueTx
  try dsimp only
  repeat' first
    | with_reducible assumption
    | with_reducible apply modPort_eff

theorem switchOut_eff {z : State} (s : State) (x1 : Option (Fin 16)) (x2 : Txn) (t : State) (h : switchOut s x1 x2 = some t)
    (hz : Eff z s) : Eff z t := by
  unfold switchOut at h
  split at h
  · cases h
    exact deliver_eff _ _ hz
  · split at h
    · cases h
    · split at h
      · cases h
      · cases h
        exact queueTx_eff _ _ _ _ hz

theorem countStray_eff {z : State} (s : State) (hz : Eff z s) : Eff z (countStray s) := by
  unfold countStray
  try dsimp only
  repeat' first
    | with_reducible assumption
    | with_reducible apply rcountSat_eff

theorem switchTxn_eff {z : State} (s : State) (x1 : Option (Fin 16)) (x2 : Txn) (hz : Eff z s) :
    Eff z (switchTxn s x1 x2) := by
  unfold switchTxn
  try dsimp only
  repeat' first
    | with_reducible assumption
    | with_reducible refine switchOut_eff _ _ _ _ (by assumption) ?_
    | with_reducible apply countStray_eff
    | with_reducible apply Eff.ite
    | split

theorem sendTxn_eff {z : State} (s : State) (x1 : Txn) (hz : Eff z s) : Eff z (sendTxn s x1) := by
  unfold sendTxn
  try dsimp only
  repeat' first
    | with_reducible assumption
    | with_reducible apply switchTxn_eff

theorem fecStep_eff {z : State} (s : State) (x1 : Fin 16) (x2 : FlitRx) (hz : Eff z s) : Eff z (fecStep s x1 x2).1 := by
  unfold fecStep
  try dsimp only
  repeat' first
    | with_reducible assumption
    | with_reducible apply setPort_eff
    | with_reducible apply rcountSat_eff
    | with_reducible apply Eff.ite

theorem reroute_eff {z : State} (s : State) (x1 : List (Nat × Txn)) (hz : Eff z s) : Eff z (reroute s x1) := by
  unfold reroute
  try dsimp only
  repeat' first
    | with_reducible assumption
    | with_reducible exact Eff.refl _
    | with_reducible apply switchTxn_eff
    | with_reducible apply Eff.foldl
    | intro _

theorem linkDownLog_eff {z : State} (s : State) (x1 : Fin 16) (hz : Eff z s) : Eff z (linkDownLog s x1) := by
  unfold linkDownLog
  try dsimp only
  repeat' first
    | with_reducible assumption
    | with_reducible apply logZmz_eff

theorem enterDown_eff {z : State} (s : State) (x1 : Fin 16) (hz : Eff z s) : Eff z (enterDown s x1) := by
  unfold enterDown
  try dsimp only
  repeat' first
    | with_reducible assumption
    | with_reducible apply setPort_eff
    | with_reducible apply reroute_eff
    | with_reducible apply report_eff
    | with_reducible apply linkDownLog_eff

theorem degraded_eff {z : State} (s : State) (x1 : Fin 16) (x2 : BitVec 4) (hz : Eff z s) :
    Eff z (degraded s x1 x2) := by
  unfold degraded
  try dsimp only
  repeat' first
    | with_reducible assumption
    | with_reducible apply rasNote_eff
    | with_reducible apply report_eff
    | with_reducible apply logZmz_eff

theorem narrow_eff {z : State} (s : State) (x1 : Fin 16) (x2 : BitVec 4) (hz : Eff z s) : Eff z (narrow s x1 x2) := by
  unfold narrow
  try dsimp only
  repeat' first
    | with_reducible assumption
    | with_reducible apply modPort_eff
    | with_reducible apply enterDown_eff
    | with_reducible apply degraded_eff
    | with_reducible apply Eff.ite

theorem enterRetrain_eff {z : State} (s : State) (x1 : Fin 16) (hz : Eff z s) : Eff z (enterRetrain s x1) := by
  unfold enterRetrain
  try dsimp only
  repeat' first
    | with_reducible assumption
    | with_reducible apply report_eff
    | with_reducible apply modPort_eff

theorem loseLock_eff {z : State} (s : State) (x1 : Fin 16) (hz : Eff z s) : Eff z (loseLock s x1) := by
  unfold loseLock
  try dsimp only
  repeat' first
    | with_reducible assumption
    | with_reducible apply enterRetrain_eff
    | with_reducible apply Eff.ite

theorem failLanes_eff {z : State} (s : State) (x1 : Fin 16) (x2 : BitVec 4) (hz : Eff z s) :
    Eff z (failLanes s x1 x2) := by
  unfold failLanes
  try dsimp only
  repeat' first
    | with_reducible assumption
    | with_reducible apply modPort_eff
    | with_reducible apply narrow_eff
    | with_reducible apply loseLock_eff
    | with_reducible apply Eff.ite

theorem countLanes_eff {z : State} (x0 : Port) (x1 : FlitRx) (s : State) (x3 : Fin 16) (hz : Eff z s) :
    Eff z (countLanes x0 x1 s x3) := by
  unfold countLanes
  try dsimp only
  repeat' first
    | with_reducible assumption
    | with_reducible apply modPort_eff
    | with_reducible apply failLanes_eff
    | with_reducible apply Eff.ite

theorem resendAll_eff {z : State} (s : State) (x1 : Fin 16) (hz : Eff z s) : Eff z (resendAll s x1) := by
  unfold resendAll
  try dsimp only
  repeat' first
    | with_reducible assumption
    | with_reducible apply modPort_eff

theorem actNak_eff {z : State} (s : State) (x1 : Fin 16) (x2 : Flit) (hz : Eff z s) : Eff z (actNak s x1 x2) := by
  unfold actNak
  try dsimp only
  repeat' first
    | with_reducible assumption
    | with_reducible apply rcountSat_eff
    | with_reducible apply setPort_eff
    | with_reducible apply enterRetrain_eff
    | with_reducible apply resendAll_eff
    | with_reducible apply Eff.ite

theorem applyHeader_eff {z : State} (s : State) (x1 : Fin 16) (x2 : Flit) (hz : Eff z s) :
    Eff z (applyHeader s x1 x2) := by
  unfold applyHeader
  try dsimp only
  repeat' first
    | with_reducible assumption
    | with_reducible apply modPort_eff
    | with_reducible apply actNak_eff
    | with_reducible apply Eff.ite

theorem receive_eff {z : State} (s : State) (x1 : Fin 16) (x2 : Flit) (x3 : FlitRx) (hz : Eff z s) :
    Eff z (receive s x1 x2 x3).1 := by
  unfold receive
  try dsimp only
  repeat' first
    | with_reducible assumption
    | dsimp only
    | with_reducible apply fecStep_eff
    | with_reducible apply countLanes_eff
    | with_reducible apply applyHeader_eff
    | with_reducible apply Eff.ite1

theorem startTraining_eff {z : State} (s : State) (x1 : Fin 16) (x2 : BitVec 4) (hz : Eff z s) :
    Eff z (startTraining s x1 x2) := by
  unfold startTraining
  try dsimp only
  repeat' first
    | with_reducible assumption
    | with_reducible apply reroute_eff
    | with_reducible apply setPort_eff

theorem portReset_eff {z : State} (s : State) (x1 : Fin 16) (hz : Eff z s) : Eff z (portReset s x1) := by
  unfold portReset
  try dsimp only
  repeat' first
    | with_reducible assumption
    | with_reducible apply startTraining_eff
    | with_reducible apply modPort_eff

theorem takeSlots_eff {z : State} (s : State) (x1 : Fin 16) (x2 : List (BitVec 128)) (hz : Eff z s) :
    Eff z (takeSlots s x1 x2) := by
  unfold takeSlots
  try dsimp only
  repeat' first
    | with_reducible assumption
    | with_reducible apply modPort_eff
    | with_reducible apply portReset_eff
    | with_reducible apply logZmz_eff
    | split

theorem refuseFlit_eff {z : State} (s : State) (x1 : Fin 16) (hz : Eff z s) : Eff z (refuseFlit s x1) := by
  unfold refuseFlit
  try dsimp only
  repeat' first
    | with_reducible assumption
    | with_reducible apply modPort_eff

theorem takeData_eff {z : State} (s : State) (x1 : Fin 16) (x2 : Flit) (hz : Eff z s) : Eff z (takeData s x1 x2) := by
  unfold takeData
  try dsimp only
  repeat' first
    | with_reducible assumption
    | with_reducible apply takeSlots_eff
    | with_reducible apply perfCount_eff
    | with_reducible apply modPort_eff
    | with_reducible apply refuseFlit_eff
    | with_reducible apply Eff.ite

theorem recvData_eff {z : State} (s : State) (x1 : Fin 16) (x2 : Flit) (x3 : FlitRx) (hz : Eff z s) :
    Eff z (recvData s x1 x2 x3) := by
  unfold recvData
  try dsimp only
  repeat' first
    | with_reducible assumption
    | with_reducible apply receive_eff
    | with_reducible apply takeData_eff
    | with_reducible apply refuseFlit_eff
    | with_reducible apply report_eff
    | with_reducible apply rcountSat_eff
    | with_reducible apply Eff.ite

theorem execDataFlit_eff {z : State} (x0 : Fin 16) (x1 : Flit) (x2 : FlitRx) (s : State) (hz : Eff z s) :
    EffR z (execDataFlit x0 x1 x2 s) := by
  unfold execDataFlit
  try dsimp only
  repeat' first
    | with_reducible assumption
    | with_reducible apply answer_eff
    | with_reducible apply recvData_eff

theorem writeRole_eff {z : State} (s : State) (x1 : Fin 16) (x2 : W32) (hz : Eff z s) : Eff z (writeRole s x1 x2) := by
  unfold writeRole
  try dsimp only
  repeat' first
    | with_reducible assumption
    | with_reducible apply rmod_eff
    | with_reducible apply portReset_eff
    | with_reducible apply rset_eff
    | with_reducible apply Eff.ite

theorem fillRoutes_eff {z : State} (s : State) (hz : Eff z s) : Eff z (fillRoutes s) := by
  unfold fillRoutes
  try dsimp only
  repeat' first
    | with_reducible assumption
    | with_reducible exact Eff.refl _
    | with_reducible apply rset_eff
    | with_reducible apply Eff.ite
    | with_reducible apply Eff.foldl
    | intro _

theorem settleInit_eff {z : State} (s : State) (x1 : Fin 16) (hz : Eff z s) : Eff z (settleInit s x1) := by
  unfold settleInit
  try dsimp only
  repeat' first
    | with_reducible assumption
    | with_reducible apply logZmz_eff
    | with_reducible apply modPort_eff
    | with_reducible apply Eff.ite

theorem execLaneFail_eff {z : State} (x0 : Fin 16) (x1 : Fin 4) (s : State) (hz : Eff z s) :
    EffR z (execLaneFail x0 x1 s) := by
  unfold execLaneFail
  try dsimp only
  repeat' first
    | with_reducible assumption
    | with_reducible apply answer_eff
    | with_reducible apply failLanes_eff
    | with_reducible apply Eff.ite

theorem queueTime_eff {z : State} (s : State) (x1 : Fin 16) (x2 : TimeMsg) (hz : Eff z s) :
    Eff z (queueTime s x1 x2) := by
  unfold queueTime
  try dsimp only
  repeat' first
    | with_reducible assumption
    | with_reducible apply modPort_eff

theorem execNakResend_eff {z : State} (x0 : Fin 16) (s : State) (hz : Eff z s) : EffR z (execNakResend x0 s) := by
  unfold execNakResend
  try dsimp only
  repeat' first
    | with_reducible assumption
    | with_reducible apply answer_eff
    | with_reducible apply modPort_eff
    | with_reducible apply Eff.ite

theorem sendFlit_eff {z : State} (s : State) (x1 : Fin 16) (x2 : Flit) (hz : Eff z s) : Eff z (sendFlit s x1 x2) := by
  unfold sendFlit
  try dsimp only
  repeat' first
    | with_reducible assumption
    | with_reducible apply emit_eff
    | with_reducible apply setPort_eff
    | with_reducible apply perfCount_eff
    | with_reducible apply Eff.ite

theorem sendTime_eff {z : State} (s : State) (x1 : Fin 16) (x2 : TimeMsg) (hz : Eff z s) :
    Eff z (sendTime s x1 x2) := by
  unfold sendTime
  try dsimp only
  repeat' first
    | with_reducible assumption
    | with_reducible apply modPort_eff
    | with_reducible apply sendFlit_eff
    | with_reducible apply Eff.ite
    | rw [State.mk_others]
    | with_reducible apply Eff.others

theorem sendData_eff {z : State} (s : State) (x1 : Fin 16) (x2 : Port) (hz : Eff z s) : Eff z (sendData s x1 x2) := by
  unfold sendData
  try dsimp only
  repeat' first
    | with_reducible assumption
    | with_reducible apply perfCount_eff
    | with_reducible apply sendFlit_eff
    | with_reducible apply setPort_eff

theorem activeFlit_eff {z : State} (s : State) (x1 : Fin 16) (hz : Eff z s) : Eff z (activeFlit s x1) := by
  unfold activeFlit
  try dsimp only
  repeat' first
    | with_reducible assumption
    | with_reducible apply sendFlit_eff
    | with_reducible apply sendTime_eff
    | with_reducible apply setPort_eff
    | with_reducible apply sendData_eff
    | with_reducible apply Eff.ite
    | split

theorem sendCtrl_eff {z : State} (s : State) (x1 : Fin 16) (hz : Eff z s) : Eff z (sendCtrl s x1) := by
  unfold sendCtrl
  try dsimp only
  repeat' first
    | with_reducible assumption
    | with_reducible apply sendFlit_eff
    | with_reducible apply modPort_eff

theorem linkFlit_eff {z : State} (s : State) (x1 : Fin 16) (hz : Eff z s) : Eff z (linkFlit s x1) := by
  unfold linkFlit
  try dsimp only
  repeat' first
    | with_reducible assumption
    | with_reducible apply sendFlit_eff
    | with_reducible apply sendTime_eff
    | with_reducible apply sendCtrl_eff
    | with_reducible apply Eff.ite
    | split

theorem obtainLock_eff {z : State} (s : State) (x1 : Fin 16) (hz : Eff z s) : Eff z (obtainLock s x1) := by
  unfold obtainLock
  try dsimp only
  repeat' first
    | with_reducible assumption
    | with_reducible apply resendAll_eff
    | with_reducible apply modPort_eff
    | with_reducible apply Eff.ite

theorem execAckStall_eff {z : State} (x0 : Fin 16) (s : State) (hz : Eff z s) : EffR z (execAckStall x0 s) := by
  unfold execAckStall
  try dsimp only
  repeat' first
    | with_reducible assumption
    | with_reducible apply answer_eff
    | with_reducible apply enterRetrain_eff
    | with_reducible apply Eff.ite

theorem takeRx_eff {z : State} (s : State) (x1 : Fin 16) (x2 : Txn) (hz : Eff z s) : Eff z (takeRx s x1 x2) := by
  unfold takeRx
  try dsimp only
  repeat' first
    | with_reducible assumption
    | with_reducible apply modPort_eff

theorem execRoute_eff {z : State} (x0 : Fin 16) (s : State) (hz : Eff z s) : EffR z (execRoute x0 s) := by
  unfold execRoute
  try dsimp only
  repeat' first
    | with_reducible assumption
    | with_reducible apply answer_eff
    | with_reducible apply takeRx_eff
    | with_reducible apply switchTxn_eff
    | with_reducible apply perfCount_eff
    | with_reducible apply Eff.ite
    | split

theorem execRetrainTimeout_eff {z : State} (x0 : Fin 16) (s : State) (hz : Eff z s) :
    EffR z (execRetrainTimeout x0 s) := by
  unfold execRetrainTimeout
  try dsimp only
  repeat' first
    | with_reducible assumption
    | with_reducible apply answer_eff
    | with_reducible apply enterDown_eff
    | with_reducible apply Eff.ite

theorem flitBoundary_eff {z : State} (s : State) (x1 : Fin 16) (hz : Eff z s) : Eff z (flitBoundary s x1) := by
  unfold flitBoundary
  try dsimp only
  repeat' first
    | with_reducible assumption
    | with_reducible apply linkFlit_eff
    | with_reducible apply modPort_eff
    | with_reducible apply settleInit_eff
    | with_reducible apply activeFlit_eff
    | with_reducible apply sendFlit_eff
    | with_reducible apply Eff.ite
    | split

theorem fabricClock_eff {z : State} (s : State) (hz : Eff z s) : Eff z (fabricClock s) := by
  unfold fabricClock
  try dsimp only
  repeat' first
    | with_reducible assumption
    | with_reducible exact Eff.refl _
    | with_reducible apply flitBoundary_eff
    | with_reducible apply Eff.ite
    | with_reducible apply Eff.foldl
    | intro _
    | rw [State.mk_others]
    | with_reducible apply Eff.others

theorem execDownRetry_eff {z : State} (x0 : Fin 16) (s : State) (hz : Eff z s) : EffR z (execDownRetry x0 s) := by
  unfold execDownRetry
  try dsimp only
  repeat' first
    | with_reducible assumption
    | with_reducible apply answer_eff
    | with_reducible apply startTraining_eff
    | with_reducible apply Eff.ite

theorem execNullFlit_eff {z : State} (x0 : Fin 16) (x1 : Flit) (x2 : FlitRx) (s : State) (hz : Eff z s) :
    EffR z (execNullFlit x0 x1 x2 s) := by
  unfold execNullFlit
  try dsimp only
  repeat' first
    | with_reducible assumption
    | with_reducible apply answer_eff
    | with_reducible apply receive_eff

theorem execCtrlFlit_eff {z : State} (x0 : Fin 16) (x1 : Flit) (x2 : FlitRx) (x3 : FarEnd) (s : State) (hz : Eff z s) :
    EffR z (execCtrlFlit x0 x1 x2 x3 s) := by
  unfold execCtrlFlit
  try dsimp only
  repeat' first
    | with_reducible assumption
    | with_reducible apply receive_eff
    | with_reducible apply answer_eff
    | with_reducible apply settleInit_eff
    | with_reducible apply modPort_eff
    | with_reducible apply Eff.ite

theorem execCodewordLockLost_eff {z : State} (x0 : Fin 16) (s : State) (hz : Eff z s) :
    EffR z (execCodewordLockLost x0 s) := by
  unfold execCodewordLockLost
  try dsimp only
  repeat' first
    | with_reducible assumption
    | with_reducible apply answer_eff
    | with_reducible apply loseLock_eff

theorem execTrainingAttempt_eff {z : State} (x0 : Fin 16) (x1 : Bool) (x2 : BitVec 4) (s : State) (hz : Eff z s) :
    EffR z (execTrainingAttempt x0 x1 x2 s) := by
  unfold execTrainingAttempt
  try dsimp only
  repeat' first
    | with_reducible assumption
    | with_reducible apply answer_eff
    | with_reducible apply narrow_eff
    | with_reducible apply obtainLock_eff
    | with_reducible apply Eff.ite

end Sys2Proof.Machine
end

