-- ==== Sys2Proof/Laws/EffCollective.lean ====
section
/-!
SUPPORT. Sys2Proof/Laws/EffCollective.lean: what each operation of Resilience.lean, Control.lean, Scalar.lean, View.lean, Collective.lean keeps (`Eff`), one lemma each.
-/
namespace Sys2Proof.Machine

/-! ## Resilience -/

theorem decideDepth_eff {z : State} (s : State) (x1 : W32) (hz : Eff z s) : Eff z (decideDepth s x1) := by
  unfold decideDepth
  try dsimp only
  repeat' first
    | with_reducible assumption
    | with_reducible apply ownChange_eff
    | with_reducible apply Eff.ite
    | rw [State.mk_others]
    | with_reducible apply Eff.others

theorem setAnnex_eff {z : State} (s : State) (x1 : Fin 4) (x2 : AnnexSlot) (hz : Eff z s) :
    Eff z (setAnnex s x1 x2) := by
  unfold setAnnex
  try dsimp only
  repeat' first
    | with_reducible assumption
    | rw [State.mk_others]
    | with_reducible apply Eff.others

theorem breakSnapshot_eff {z : State} (s : State) (hz : Eff z s) : Eff z (breakSnapshot s) := by
  unfold breakSnapshot
  try dsimp only
  repeat' first
    | with_reducible assumption
    | with_reducible apply setAnnex_eff
    | rw [State.mk_others]
    | with_reducible apply Eff.others
    | split

theorem annexState_eff {z : State} (s : State) (x1 : Nat) (hz : Eff z s) : Eff z (annexState s x1) := by
  unfold annexState
  try dsimp only
  repeat' first
    | with_reducible assumption
    | with_reducible apply rmod_eff

theorem annexStart_eff {z : State} (s : State) (x1 : Bool) (x2 : Fin 4) (x3 : Nat) (hz : Eff z s) :
    Eff z (annexStart s x1 x2 x3) := by
  unfold annexStart
  try dsimp only
  repeat' first
    | with_reducible assumption
    | with_reducible apply annexState_eff
    | with_reducible apply useBegin_eff
    | with_reducible apply Eff.ite
    | rw [State.mk_others]
    | with_reducible apply Eff.others
    | split

theorem rasEvent_eff {z : State} (s : State) (x1 : BitVec 16) (x2 : W32) (hz : Eff z s) : Eff z (rasEvent s x1 x2) := by
  unfold rasEvent
  try dsimp only
  repeat' first
    | with_reducible assumption
    | with_reducible apply logRas_eff
    | with_reducible apply sendMsix_eff
    | with_reducible apply Eff.ite

theorem startSnapshot_eff {z : State} (s : State) (x1 : Fin 2) (x2 : Nat) (x3 : Nat) (x4 : Nat) (x5 : Nat)
    (x6 : BitVec 16) (hz : Eff z s) :
    Eff z (startSnapshot s x1 x2 x3 x4 x5 x6) := by
  unfold startSnapshot
  try dsimp only
  repeat' first
    | with_reducible assumption
    | with_reducible apply rasEvent_eff
    | with_reducible apply setAnnex_eff
    | with_reducible apply Eff.ite
    | rw [State.mk_others]
    | with_reducible apply Eff.others
    | split

theorem acceptLoan_eff {z : State} (s : State) (x1 : BitVec 16) (x2 : W32) (x3 : Nat) (hz : Eff z s) :
    Eff z (acceptLoan s x1 x2 x3) := by
  unfold acceptLoan
  try dsimp only
  repeat' first
    | with_reducible assumption
    | with_reducible apply rmod_eff
    | with_reducible apply reachRead_eff
    | with_reducible apply rasEvent_eff
    | with_reducible apply startSnapshot_eff
    | with_reducible apply Eff.ite
    | split

theorem execSnapshotComplete_eff {z : State} (x0 : Bool) (s : State) (hz : Eff z s) :
    EffR z (execSnapshotComplete x0 s) := by
  unfold execSnapshotComplete
  try dsimp only
  repeat' first
    | with_reducible assumption
    | with_reducible apply answer_eff
    | with_reducible apply rasEvent_eff
    | with_reducible apply breakSnapshot_eff
    | with_reducible apply devRead_eff
    | with_reducible apply setAnnex_eff
    | with_reducible apply rmod_eff
    | with_reducible apply sendMsix_eff
    | with_reducible apply Eff.ite
    | rw [State.mk_others]
    | with_reducible apply Eff.others
    | split

theorem snapshotHit_eff {z : State} (s : State) (x1 : Nat) (x2 : Nat) (hz : Eff z s) : Eff z (snapshotHit s x1 x2) := by
  unfold snapshotHit
  try dsimp only
  repeat' first
    | with_reducible assumption
    | with_reducible apply rasEvent_eff
    | with_reducible apply breakSnapshot_eff
    | with_reducible apply Eff.ite
    | split

theorem execAnnexCommandDone_eff {z : State} (x0 : Option Nat) (s : State) (hz : Eff z s) :
    EffR z (execAnnexCommandDone x0 s) := by
  unfold execAnnexCommandDone
  try dsimp only
  repeat' first
    | with_reducible assumption
    | with_reducible apply answer_eff
    | with_reducible apply devWrite_eff
    | with_reducible apply annexState_eff
    | with_reducible apply useEnd_eff
    | with_reducible apply rasEvent_eff
    | with_reducible apply setAnnex_eff
    | with_reducible apply Eff.ite
    | rw [State.mk_others]
    | with_reducible apply Eff.others
    | split


/-! ## Control -/

theorem stateFault_eff {z : State} (s : State) (x1 : Fin 72) (x2 : Fin 6) (x3 : Flt) (hz : Eff z s) :
    Eff z (stateFault s x1 x2 x3) := by
  unfold stateFault
  try dsimp only
  repeat' first
    | with_reducible assumption
    | with_reducible apply coreFault_eff

theorem withPlaces_eff {z : State} (x0 : Fin 72) (x1 : Fin 6) (x2 : List Place) (s : State) (x4 : State → State)
    (h4 : ∀ (a0 : State), Eff a0 (x4 a0)) (hz : Eff z s) :
    Eff z (withPlaces x0 x1 x2 s x4) := by
  unfold withPlaces
  try dsimp only
  repeat' first
    | with_reducible assumption
    | with_reducible apply Eff.after (h4 _)
    | with_reducible apply eccRead_eff
    | with_reducible apply stateFault_eff
    | split

theorem fillLine_eff {z : State} (s : State) (x1 : Fin 72) (x2 : Nat) (x3 : Nat) (hz : Eff z s) :
    Eff z (fillLine s x1 x2 x3).1 := by
  unfold fillLine
  try dsimp only
  repeat' first
    | with_reducible assumption
    | with_reducible exact Eff.refl _
    | dsimp only
    | with_reducible apply devRead_eff
    | with_reducible apply l2Fill_eff
    | with_reducible apply modCore_eff
    | with_reducible apply Eff.ite
    | with_reducible apply Eff.foldl
    | intro _
    | rw [State.mk_others]
    | with_reducible apply Eff.others
    | split

theorem frontFault_eff {z : State} (s : State) (x1 : Fin 72) (x2 : Fin 6) (x3 : Flt) (hz : Eff z s) :
    Eff z (frontFault s x1 x2 x3) := by
  unfold frontFault
  try dsimp only
  repeat' first
    | with_reducible assumption
    | with_reducible apply coreFault_eff

theorem withLine_eff {z : State} (x0 : Fin 72) (x1 : Fin 6) (s : State) (x3 : State → State) (h3 : ∀
    (a0 : State), Eff a0 (x3 a0)) (hz : Eff z s) :
    Eff z (withLine x0 x1 s x3) := by
  unfold withLine
  try dsimp only
  repeat' first
    | with_reducible assumption
    | with_reducible apply Eff.after (h3 _)
    | with_reducible apply withPlaces_eff
    | with_reducible apply fillLine_eff
    | with_reducible apply frontFault_eff
    | with_reducible apply Eff.ite
    | split

theorem gotoPc_eff {z : State} (s : State) (x1 : Fin 72) (x2 : Fin 6) (x3 : List LoopFrame) (x4 : Nat) (hz : Eff z s) :
    Eff z (gotoPc s x1 x2 x3 x4) := by
  unfold gotoPc
  try dsimp only
  repeat' first
    | with_reducible assumption
    | with_reducible apply modCore_eff
    | with_reducible apply coreFault_eff
    | with_reducible apply Eff.ite

theorem afterOffset_eff {z : State} (s : State) (x1 : Fin 72) (x2 : Fin 6) (x3 : Nat) (hz : Eff z s) :
    Eff z (afterOffset s x1 x2 x3) := by
  unfold afterOffset
  try dsimp only
  repeat' first
    | with_reducible assumption
    | with_reducible apply gotoPc_eff

theorem advance_eff {z : State} (s : State) (x1 : Fin 72) (x2 : Fin 6) (hz : Eff z s) : Eff z (advance s x1 x2) := by
  unfold advance
  try dsimp only
  repeat' first
    | with_reducible assumption
    | with_reducible apply afterOffset_eff

theorem control_eff {z : State} (x0 : CoreOp) (x1 : Ctl) (x2 : OpS) (s : State) (x4 : State → State) (h4 : ∀
    (a0 : State), Eff a0 (x4 a0)) (hz : Eff z s) :
    EffR z (control x0 x1 x2 s x4) := by
  unfold control
  try dsimp only
  repeat' first
    | with_reducible assumption
    | with_reducible exact Eff.refl _
    | with_reducible apply answer_eff
    | with_reducible apply withLine_eff
    | with_reducible apply modCore_eff
    | with_reducible apply frontFault_eff
    | with_reducible apply withPlaces_eff
    | with_reducible apply Eff.ite
    | with_reducible apply EffR.ite
    | with_reducible apply EffR.next
    | intro _

theorem execNop_eff {z : State} (x0 : Ctl) (x1 : OpS) (s : State) (hz : Eff z s) : EffR z (execNop x0 x1 s) := by
  unfold execNop
  try dsimp only
  repeat' first
    | with_reducible assumption
    | with_reducible exact Eff.refl _
    | with_reducible apply control_eff
    | with_reducible apply advance_eff
    | intro _

theorem takeBranch_eff {z : State} (s : State) (x1 : Fin 72) (x2 : Fin 6) (x3 : OpS) (hz : Eff z s) :
    Eff z (takeBranch s x1 x2 x3) := by
  unfold takeBranch
  try dsimp only
  repeat' first
    | with_reducible assumption
    | with_reducible apply gotoPc_eff
    | with_reducible apply frontFault_eff
    | with_reducible apply Eff.ite

theorem execB_eff {z : State} (x0 : Ctl) (x1 : OpS) (s : State) (hz : Eff z s) : EffR z (execB x0 x1 s) := by
  unfold execB
  try dsimp only
  repeat' first
    | with_reducible assumption
    | with_reducible exact Eff.refl _
    | with_reducible apply control_eff
    | with_reducible apply takeBranch_eff
    | intro _

theorem execBcc_eff {z : State} (x0 : Ctl) (x1 : OpS) (s : State) (hz : Eff z s) : EffR z (execBcc x0 x1 s) := by
  unfold execBcc
  try dsimp only
  repeat' first
    | with_reducible assumption
    | with_reducible exact Eff.refl _
    | with_reducible apply control_eff
    | with_reducible apply takeBranch_eff
    | with_reducible apply advance_eff
    | with_reducible apply Eff.ite
    | intro _

theorem execCall_eff {z : State} (x0 : Ctl) (x1 : OpS) (s : State) (hz : Eff z s) : EffR z (execCall x0 x1 s) := by
  unfold execCall
  try dsimp only
  repeat' first
    | with_reducible assumption
    | with_reducible exact Eff.refl _
    | with_reducible apply control_eff
    | with_reducible apply frontFault_eff
    | with_reducible apply modCore_eff
    | with_reducible apply Eff.ite
    | intro _

theorem execRet_eff {z : State} (x0 : Ctl) (x1 : OpS) (s : State) (hz : Eff z s) : EffR z (execRet x0 x1 s) := by
  unfold execRet
  try dsimp only
  repeat' first
    | with_reducible assumption
    | with_reducible exact Eff.refl _
    | with_reducible apply control_eff
    | with_reducible apply frontFault_eff
    | with_reducible apply afterOffset_eff
    | with_reducible apply modCore_eff
    | with_reducible apply Eff.ite
    | intro _
    | split

theorem startLoop_eff {z : State} (s : State) (x1 : Ctl) (x2 : W64) (x3 : Nat) (hz : Eff z s) :
    Eff z (startLoop s x1 x2 x3) := by
  unfold startLoop
  try dsimp only
  repeat' first
    | with_reducible assumption
    | with_reducible apply afterOffset_eff
    | with_reducible apply frontFault_eff
    | with_reducible apply gotoPc_eff
    | with_reducible apply Eff.ite

theorem execLoop_eff {z : State} (x0 : Ctl) (x1 : OpS) (s : State) (hz : Eff z s) : EffR z (execLoop x0 x1 s) := by
  unfold execLoop
  try dsimp only
  repeat' first
    | with_reducible assumption
    | with_reducible exact Eff.refl _
    | with_reducible apply control_eff
    | with_reducible apply frontFault_eff
    | with_reducible apply startLoop_eff
    | with_reducible apply Eff.ite
    | intro _

theorem execLoopi_eff {z : State} (x0 : Ctl) (x1 : OpS) (s : State) (hz : Eff z s) : EffR z (execLoopi x0 x1 s) := by
  unfold execLoopi
  try dsimp only
  repeat' first
    | with_reducible assumption
    | with_reducible exact Eff.refl _
    | with_reducible apply control_eff
    | with_reducible apply frontFault_eff
    | with_reducible apply startLoop_eff
    | with_reducible apply Eff.ite
    | intro _

theorem execHalt_eff {z : State} (x0 : Ctl) (x1 : OpS) (s : State) (hz : Eff z s) : EffR z (execHalt x0 x1 s) := by
  unfold execHalt
  try dsimp only
  repeat' first
    | with_reducible assumption
    | with_reducible exact Eff.refl _
    | with_reducible apply control_eff
    | with_reducible apply modCore_eff
    | intro _


/-! ## Scalar -/

theorem ranFault_eff {z : State} (s : State) (x1 : Flt) (hz : Eff z s) : Eff z (ranFault s x1).st := by
  unfold ranFault
  try dsimp only
  repeat' first
    | with_reducible assumption

theorem ranOk_eff {z : State} (s : State) (hz : Eff z s) : Eff z (ranOk s).st := by
  unfold ranOk
  try dsimp only
  repeat' first
    | with_reducible assumption

theorem suWrite_eff {z : State} (x0 : Fin 72) (x1 : Entry) (s : State) (x3 : BitVec 5) (x4 : W64) (x5 : Flags)
    (hz : Eff z s) :
    Eff z (suWrite x0 x1 s x3 x4 x5).st := by
  unfold suWrite
  try dsimp only
  repeat' first
    | with_reducible assumption
    | with_reducible apply ranOk_eff
    | with_reducible apply modCore_eff

theorem runSld_eff {z : State} (x0 : Fin 72) (x1 : Entry) (x2 : OpS) (s : State) (hz : Eff z s) :
    Eff z (runSld x0 x1 x2 s).st := by
  unfold runSld
  try dsimp only
  repeat' first
    | with_reducible assumption
    | with_reducible apply ranFault_eff
    | with_reducible apply loadBytes_eff
    | with_reducible apply suWrite_eff
    | split

theorem runSst_eff {z : State} (x0 : Fin 72) (x1 : Entry) (x2 : OpS) (s : State) (hz : Eff z s) :
    Eff z (runSst x0 x1 x2 s).st := by
  unfold runSst
  try dsimp only
  repeat' first
    | with_reducible assumption
    | dsimp only
    | with_reducible apply ranFault_eff
    | with_reducible apply storeCells_eff
    | split

theorem runSflag_eff {z : State} (x0 : Fin 72) (x1 : Entry) (x2 : OpS) (s : State) (hz : Eff z s) :
    Eff z (runSflag x0 x1 x2 s).st := by
  unfold runSflag
  try dsimp only
  repeat' first
    | with_reducible assumption
    | with_reducible apply ranOk_eff
    | with_reducible apply modCore_eff
    | with_reducible apply suWrite_eff
    | split

theorem runSkadd_eff {z : State} (x0 : Fin 72) (x1 : OpS) (s : State) (hz : Eff z s) : Eff z (runSkadd x0 x1 s).st := by
  unfold runSkadd
  try dsimp only
  repeat' first
    | with_reducible assumption
    | with_reducible apply ranOk_eff
    | with_reducible apply modCore_eff

theorem runSstat_eff {z : State} (x0 : Fin 72) (x1 : Entry) (x2 : OpS) (s : State) (hz : Eff z s) :
    Eff z (runSstat x0 x1 x2 s).st := by
  unfold runSstat
  try dsimp only
  repeat' first
    | with_reducible assumption
    | with_reducible apply modCore_eff
    | with_reducible apply suWrite_eff
    | with_reducible apply Eff.ite

theorem runScalar_eff {z : State} (x0 : Fin 72) (x1 : Entry) (x2 : OpS) (s : State) (hz : Eff z s) :
    Eff z (runScalar x0 x1 x2 s).st := by
  unfold runScalar
  try dsimp only
  repeat' first
    | with_reducible assumption
    | with_reducible apply suWrite_eff
    | with_reducible apply runSld_eff
    | with_reducible apply runSst_eff
    | with_reducible apply runSflag_eff
    | with_reducible apply runSkadd_eff
    | with_reducible apply runSstat_eff
    | split


/-! ## View -/

theorem readRecord_eff {z : State} (x0 : Master) (s : State) (x2 : Nat) (hz : Eff z s) :
    Eff z (readRecord x0 s x2).1 := by
  unfold readRecord
  try dsimp only
  repeat' first
    | with_reducible assumption
    | dsimp only
    | with_reducible apply rcountSat_eff
    | with_reducible apply devRead_eff
    | with_reducible apply Eff.ite1
    | rw [State.mk_others]
    | with_reducible apply Eff.others

theorem viewRead_eff {z : State} (x0 : Master) (s : State) (x2 : W64) (x3 : Nat × Nat × InvEntry) (hz : Eff z s) :
    Eff z (viewRead x0 s x2 x3).1 := by
  unfold viewRead
  try dsimp only
  repeat' first
    | with_reducible assumption
    | dsimp only
    | with_reducible apply readRecord_eff
    | split

theorem openTwo_eff {z : State} (x0 : Master) (s : State) (x2 : W64) (x3 : W64) (hz : Eff z s) :
    Eff z (openTwo x0 s x2 x3).1 := by
  unfold openTwo
  try dsimp only
  repeat' first
    | with_reducible assumption
    | dsimp only
    | with_reducible apply viewRead_eff
    | split

theorem openView_eff {z : State} (x0 : Master) (s : State) (x2 : W64) (hz : Eff z s) : Eff z (openView x0 s x2).1 := by
  unfold openView
  try dsimp only
  repeat' first
    | with_reducible assumption
    | with_reducible apply viewRead_eff
    | split

theorem readElem_eff {z : State} (x0 : Master) (x1 : View) (s : Moving) (x3 : Spot) (hz : Eff z s.st) :
    Eff z (readElem x0 x1 s x3).1.st := by
  unfold readElem
  try dsimp only
  repeat' first
    | with_reducible assumption
    | dsimp only
    | with_reducible apply copyRead_eff
    | split

theorem settleCells_eff {z : State} (s : State) (x1 : Moving) (x2 : Nat) (hz : Eff z s) : Eff z (settleCells s x1 x2).1 := by
  unfold settleCells
  dsimp only
  refine Eff.ite1 hz ?_
  rw [State.mk_others]
  exact Eff.others hz

theorem finishCopy_eff {z : State} (x0 : Master) (s : Moving) (x2 : Nat) (hz : Eff z s.st) :
    Eff z (finishCopy x0 s x2).st := by
  unfold finishCopy
  try dsimp only
  repeat' first
    | with_reducible assumption
    | dsimp only
    | with_reducible apply settleCells_eff
    | with_reducible apply draw_eff
    | with_reducible apply copyWrite_eff
    | split

theorem writeElem_eff {z : State} (x0 : Master) (x1 : View) (s : Moving) (x3 : List Int) (x4 : List Byte)
    (x5 : Option Nat) (hz : Eff z s.st) :
    Eff z (writeElem x0 x1 s x3 x4 x5).st := by
  unfold writeElem
  try dsimp only
  repeat' first
    | with_reducible assumption
    | split

theorem copyStep_eff {z : State} (x0 : Master) (x1 : View) (x2 : View) (x3 : List Int) (x4 : List Int) (s : Moving)
    (hz : Eff z s.st) :
    Eff z (copyStep x0 x1 x2 x3 x4 s).st := by
  unfold copyStep
  try dsimp only
  repeat' first
    | with_reducible assumption
    | with_reducible apply readElem_eff
    | with_reducible apply writeElem_eff
    | split

theorem copyViews_eff {z : State} (x0 : Master) (x1 : View) (x2 : View) (x3 : Bool) (s : State) (hz : Eff z s) :
    Eff z (copyViews x0 x1 x2 x3 s).st := by
  unfold copyViews
  try dsimp only
  repeat' first
    | with_reducible assumption
    | with_reducible exact Eff.refl _
    | with_reducible apply finishCopy_eff
    | with_reducible apply copyStep_eff
    | with_reducible apply Eff.foldl_at (fun b : Moving => b.st)
    | intro _

theorem fillView_eff {z : State} (x0 : Master) (x1 : View) (x2 : W64) (s : State) (hz : Eff z s) :
    Eff z (fillView x0 x1 x2 s).st := by
  unfold fillView
  try dsimp only
  repeat' first
    | with_reducible assumption
    | with_reducible exact Eff.refl _
    | with_reducible apply finishCopy_eff
    | with_reducible apply writeElem_eff
    | with_reducible apply Eff.foldl_at (fun b : Moving => b.st)
    | intro _
    | split

theorem writeAll_eff {z : State} (x0 : Master) (x1 : View) (x2 : List (List Int × List Byte)) (s : State) (hz : Eff z s) :
    Eff z (writeAll x0 x1 x2 s).st := by
  unfold writeAll
  try dsimp only
  repeat' first
    | with_reducible assumption
    | with_reducible exact Eff.refl _
    | with_reducible apply finishCopy_eff
    | with_reducible apply writeElem_eff
    | with_reducible apply Eff.foldl_at (fun b : Moving => b.st)
    | intro _
    | split

theorem descPut_eff {z : State} (s : State) (x1 : Nat) (x2 : DescSlot) (hz : Eff z s) : Eff z (descPut s x1 x2) := by
  unfold descPut
  try dsimp only
  repeat' first
    | with_reducible assumption
    | rw [State.mk_others]
    | with_reducible apply Eff.others


/-! ## Collective -/

theorem countRetry_eff {z : State} (s : State) (hz : Eff z s) : Eff z (countRetry s) := by
  unfold countRetry
  try dsimp only
  repeat' first
    | with_reducible assumption
    | with_reducible apply rcountSat_eff

theorem ownAnswer_eff {z : State} (s : State) (x1 : Txn) (x2 : ReqUse) (x3 : AccAnswer) (hz : Eff z s) :
    Eff z (ownAnswer s x1 x2 x3) := by
  unfold ownAnswer
  try dsimp only
  repeat' first
    | with_reducible assumption
    | with_reducible apply logCol_eff
    | rw [State.mk_others]
    | with_reducible apply Eff.others
    | split

theorem accReply_eff {z : State} (s : State) (x1 : AccReply) (x2 : AccAnswer) (hz : Eff z s) :
    Eff z (accReply s x1 x2) := by
  unfold accReply
  try dsimp only
  repeat' first
    | with_reducible assumption
    | with_reducible apply countRetry_eff
    | with_reducible apply ownAnswer_eff
    | with_reducible apply sendTxn_eff
    | with_reducible apply Eff.ite
    | split

theorem modShard_eff {z : State} (s : State) (x1 : W32) (x2 : Nat) (x3 : Shard → Shard) (hz : Eff z s) :
    Eff z (modShard s x1 x2 x3) := by
  unfold modShard
  try dsimp only
  repeat' first
    | with_reducible assumption
    | rw [State.mk_others]
    | with_reducible apply Eff.others

theorem freeWin_eff {z : State} (s : State) (w : Option Nat) (hz : Eff z s) : Eff z (freeWin s w) := by
  unfold freeWin
  cases w with
  | none => exact hz
  | some _ => exact hz.trans ⟨rfl, id, id, CurEff.refl _⟩

theorem spoilParked_eff {z : State} (s : State) (x1 : W32) (x2 : Nat) (x3 : Nat) (x4 : Nat) (hz : Eff z s) :
    Eff z (spoilParked s x1 x2 x3 x4) := by
  unfold spoilParked
  try dsimp only
  repeat' first
    | with_reducible assumption
    | with_reducible exact Eff.refl _
    | with_reducible apply modShard_eff
    | with_reducible apply freeWin_eff
    | with_reducible apply Eff.foldl
    | intro _

theorem useBeginOpt_eff {z : State} (s : State) (u : Option Nat) (hz : Eff z s) : Eff z (useBeginOpt s u) := by
  unfold useBeginOpt
  cases u with
  | none => exact hz
  | some i => exact useBegin_eff _ _ hz

theorem enqueueOps_eff {z : State} (s : State) (x1 : Option (W32 × Nat)) (x2 : Nat) (x3 : Nat) (x4 : Nat) (x5 : List
    (BitVec 16)) (x6 : AccReply) (x7 : optParam (Option Nat) none) (hz : Eff z s) :
    Eff z (enqueueOps s x1 x2 x3 x4 x5 x6 x7) := by
  unfold enqueueOps
  try dsimp only
  repeat' first
    | with_reducible assumption
    | with_reducible apply useBeginOpt_eff
    | rw [State.mk_others]
    | with_reducible apply Eff.others

theorem badTurn_eff {z : State} (s : State) (x1 : W32) (x2 : Nat) (x3 : Nat) (hz : Eff z s) :
    Eff z (badTurn s x1 x2 x3) := by
  unfold badTurn
  try dsimp only
  repeat' first
    | with_reducible assumption
    | with_reducible apply modShard_eff

theorem takeParked_eff {z : State} (x0 : Plan) (x1 : W32) (x2 : Nat) (x3 : Nat) (x4 : Nat) (s : State) (hz : Eff z s) :
    Eff z (takeParked x0 x1 x2 x3 x4 s) := by
  induction x4 generalizing s with
  | zero =>
    unfold takeParked
    try dsimp only
    repeat' first
      | with_reducible assumption
  | succ n ih =>
    unfold takeParked
    try dsimp only
    repeat' first
      | with_reducible assumption
      | with_reducible apply ih
      | with_reducible apply devRead_eff
      | with_reducible apply enqueueOps_eff
      | with_reducible apply freeWin_eff
      | with_reducible apply modShard_eff
      | with_reducible apply badTurn_eff
      | with_reducible apply Eff.ite
      | split

theorem writeTrailer_eff {z : State} (s : State) (x1 : Plan) (x2 : Nat) (x3 : Trailer) (hz : Eff z s) :
    Eff z (writeTrailer s x1 x2 x3) := by
  unfold writeTrailer
  try dsimp only
  repeat' first
    | with_reducible assumption
    | with_reducible apply devWrite_eff
    | with_reducible apply logCol_eff
    | split

theorem modStep_eff {z : State} (s : State) (x1 : W32) (x2 : StepState → StepState) (hz : Eff z s) :
    Eff z (modStep s x1 x2) := by
  unfold modStep
  try dsimp only
  repeat' first
    | with_reducible assumption
    | rw [State.mk_others]
    | with_reducible apply Eff.others

theorem sendReq_eff {z : State} (s : State) (x1 : Req) (x2 : Nat) (hz : Eff z s) : Eff z (sendReq s x1 x2) := by
  unfold sendReq
  try dsimp only
  repeat' first
    | with_reducible assumption
    | with_reducible apply sendTxn_eff
    | rw [State.mk_others]
    | with_reducible apply Eff.others

theorem pumpReqs_eff {z : State} (x0 : Nat) (s : State) (hz : Eff z s) : Eff z (pumpReqs x0 s) := by
  induction x0 generalizing s with
  | zero =>
    unfold pumpReqs
    try dsimp only
    repeat' first
      | with_reducible assumption
  | succ n ih =>
    unfold pumpReqs
    try dsimp only
    repeat' first
      | with_reducible assumption
      | with_reducible apply ih
      | with_reducible apply sendReq_eff
      | rw [State.mk_others]
      | with_reducible apply Eff.others
      | split

theorem repump_eff {z : State} (s : State) (hz : Eff z s) : Eff z (repump s) := by
  unfold repump
  try dsimp only
  repeat' first
    | with_reducible assumption
    | with_reducible apply pumpReqs_eff

theorem request_eff {z : State} (s : State) (x1 : List Req) (hz : Eff z s) : Eff z (request s x1) := by
  unfold request
  try dsimp only
  repeat' first
    | with_reducible assumption
    | with_reducible apply repump_eff
    | rw [State.mk_others]
    | with_reducible apply Eff.others

theorem signalCores_eff {z : State} (s : State) (x1 : List (Fin 72)) (x2 : Bool) (x3 : Nat) (hz : Eff z s) :
    Eff z (signalCores s x1 x2 x3) := by
  unfold signalCores
  try dsimp only
  repeat' first
    | with_reducible assumption
    | with_reducible exact Eff.refl _
    | with_reducible apply modCore_eff
    | with_reducible apply Eff.foldl
    | intro _

theorem collFault_eff {z : State} (s : State) (x1 : List (Fin 72)) (x2 : Flt) (hz : Eff z s) :
    Eff z (collFault s x1 x2) := by
  unfold collFault
  try dsimp only
  repeat' first
    | with_reducible assumption
    | with_reducible apply coreFault_eff
    | with_reducible apply draw_eff
    | with_reducible apply Eff.ite
    | split

theorem loanNext_eff {z : State} (s : State) (x1 : Plan) (x2 : W32) (hz : Eff z s) : Eff z (loanNext s x1 x2) := by
  unfold loanNext
  try dsimp only
  repeat' first
    | with_reducible assumption
    | with_reducible apply rmod_eff
    | with_reducible apply request_eff
    | with_reducible apply modStep_eff
    | with_reducible apply Eff.ite
    | rw [State.mk_others]
    | with_reducible apply Eff.others
    | split

theorem tellMembers_eff {z : State} (s : State) (x1 : Plan) (x2 : StepState) (hz : Eff z s) :
    Eff z (tellMembers s x1 x2) := by
  unfold tellMembers
  try dsimp only
  repeat' first
    | with_reducible assumption
    | with_reducible apply request_eff
    | with_reducible apply modStep_eff

theorem dropShards_eff {z : State} (s : State) (x1 : W32) (x2 : Bool) (hz : Eff z s) : Eff z (dropShards s x1 x2) := by
  unfold dropShards
  try dsimp only
  repeat' first
    | with_reducible assumption
    | rw [State.mk_others]
    | with_reducible apply Eff.others

theorem afterClose_eff {z : State} (s : State) (x1 : W32) (hz : Eff z s) : Eff z (afterClose s x1) := by
  unfold afterClose
  try dsimp only
  repeat' first
    | with_reducible assumption
    | with_reducible apply decideDepth_eff
    | with_reducible apply Eff.ite
    | rw [State.mk_others]
    | with_reducible apply Eff.others
    | split

theorem closeStep_eff {z : State} (s : State) (x1 : W32) (x2 : Nat) (hz : Eff z s) : Eff z (closeStep s x1 x2) := by
  unfold closeStep
  try dsimp only
  repeat' first
    | with_reducible assumption
    | with_reducible apply modStep_eff
    | with_reducible apply perfCount_eff
    | with_reducible apply dropShards_eff
    | with_reducible apply afterClose_eff
    | with_reducible apply Eff.ite
    | rw [State.mk_others]
    | with_reducible apply Eff.others

theorem tryCommit_eff {z : State} (s : State) (x1 : W32) (hz : Eff z s) : Eff z (tryCommit s x1) := by
  unfold tryCommit
  try dsimp only
  repeat' first
    | with_reducible assumption
    | with_reducible apply closeStep_eff
    | with_reducible apply Eff.ite
    | split

theorem tryGathered_eff {z : State} (s : State) (x1 : Plan) (x2 : W32) (hz : Eff z s) :
    Eff z (tryGathered s x1 x2) := by
  unfold tryGathered
  try dsimp only
  repeat' first
    | with_reducible assumption
    | with_reducible apply tryCommit_eff
    | with_reducible apply signalCores_eff
    | with_reducible apply modStep_eff
    | with_reducible apply Eff.ite
    | split

theorem gatherNext_eff {z : State} (s : State) (x1 : W32) (hz : Eff z s) : Eff z (gatherNext s x1) := by
  unfold gatherNext
  try dsimp only
  repeat' first
    | with_reducible assumption
    | with_reducible apply loanNext_eff
    | with_reducible apply tellMembers_eff
    | with_reducible apply tryGathered_eff
    | with_reducible apply Eff.ite
    | split

theorem gatherSend_eff {z : State} (x0 : State) (x1 : Plan) (x2 : W32) (x3 : GatherSrc) (x4 : Bool) (x5 : Nat)
    (x6 : List (Nat × List Byte)) (s : State × List (Nat × List Byte) × Option Flt) (hz : Eff z s.1) :
    Eff z (gatherSend x0 x1 x2 x3 x4 x5 x6 s) := by
  unfold gatherSend
  try dsimp only
  repeat' first
    | with_reducible assumption
    | with_reducible apply collFault_eff
    | with_reducible apply modStep_eff
    | with_reducible apply gatherNext_eff
    | with_reducible apply request_eff
    | with_reducible apply perfCount_eff
    | split

theorem readRegions_eff {z : State} (s : State) (hz : Eff z s) : Eff z (readRegions s).1 := by
  unfold readRegions
  try dsimp only
  repeat' first
    | with_reducible assumption
    | with_reducible exact Eff.refl _
    | dsimp only
    | with_reducible apply reachRead_eff
    | with_reducible apply Eff.foldl_at (fun b : (State × _) × _ => b.1.1)
    | intro _
    | split

theorem gatherFrom_eff {z : State} (x0 : State) (x1 : Plan) (x2 : W32) (x3 : GatherSrc) (s : State × List
    (Nat × List Byte) × Option Flt) (hz : Eff z s.1) :
    Eff z (gatherFrom x0 x1 x2 x3 s) := by
  unfold gatherFrom
  try dsimp only
  repeat' first
    | with_reducible assumption
    | with_reducible apply collFault_eff
    | with_reducible apply gatherSend_eff
    | with_reducible apply readRegions_eff
    | with_reducible apply Eff.ite1
    | split

theorem readDense_eff {z : State} (s : State) (x1 : View) (x2 : Nat) (x3 : Nat) (hz : Eff z s) :
    Eff z (readDense s x1 x2 x3).1 := by
  unfold readDense
  try dsimp only
  repeat' first
    | with_reducible assumption
    | with_reducible exact Eff.refl _
    | dsimp only
    | with_reducible apply readElem_eff
    | with_reducible apply Eff.foldl_at (fun b : Moving × _ => b.1.st)
    | intro _
    | split

theorem readShards_eff {z : State} (s : State) (p : Plan) (v : View) (hz : Eff z s) : Eff z (readShards s p v).1 := by
  unfold readShards
  apply Eff.foldl_at Prod.fst _ hz
  intro r b
  obtain ⟨s', l, o⟩ := r
  cases o with
  | some f => exact Eff.refl _
  | none => exact Eff.fst_mk (readDense_eff _ _ _ _ (Eff.refl _))

theorem startGather_eff {z : State} (s : State) (x1 : Plan) (x2 : W32) (x3 : GatherSrc) (hz : Eff z s) :
    Eff z (startGather s x1 x2 x3) := by
  unfold startGather
  try dsimp only
  repeat' first
    | with_reducible assumption
    | with_reducible apply gatherFrom_eff
    | with_reducible apply readShards_eff

theorem verdictClean_eff {z : State} (s : State) (x1 : Plan) (x2 : StepState) (hz : Eff z s) :
    Eff z (verdictClean s x1 x2) := by
  unfold verdictClean
  try dsimp only
  repeat' first
    | with_reducible assumption
    | with_reducible apply modStep_eff
    | with_reducible apply signalCores_eff
    | with_reducible apply startGather_eff
    | with_reducible apply tryGathered_eff
    | rw [State.mk_others]
    | with_reducible apply Eff.others
    | split

theorem markNonfinite_eff {z : State} (s : State) (x1 : StepState) (hz : Eff z s) : Eff z (markNonfinite s x1) := by
  unfold markNonfinite
  try dsimp only
  repeat' first
    | with_reducible assumption
    | rw [State.mk_others]
    | with_reducible apply Eff.others

theorem verdictSkip_eff {z : State} (s : State) (x1 : Plan) (x2 : StepState) (hz : Eff z s) :
    Eff z (verdictSkip s x1 x2) := by
  unfold verdictSkip
  try dsimp only
  repeat' first
    | with_reducible assumption
    | with_reducible exact Eff.refl _
    | with_reducible apply modCore_eff
    | with_reducible apply markNonfinite_eff
    | with_reducible apply closeStep_eff
    | with_reducible apply Eff.foldl
    | intro _
    | rw [State.mk_others]
    | with_reducible apply Eff.others

theorem tryVerdict_eff {z : State} (s : State) (x1 : W32) (hz : Eff z s) : Eff z (tryVerdict s x1) := by
  unfold tryVerdict
  try dsimp only
  repeat' first
    | with_reducible assumption
    | with_reducible apply modStep_eff
    | with_reducible apply writeTrailer_eff
    | with_reducible apply verdictClean_eff
    | with_reducible apply verdictSkip_eff
    | with_reducible apply closeStep_eff
    | with_reducible apply collFault_eff
    | with_reducible apply logCol_eff
    | with_reducible apply Eff.ite
    | split

theorem trySend_eff {z : State} (s : State) (x1 : Plan) (x2 : W32) (hz : Eff z s) : Eff z (trySend s x1 x2) := by
  unfold trySend
  try dsimp only
  repeat' first
    | with_reducible assumption
    | with_reducible apply modStep_eff
    | with_reducible apply request_eff
    | with_reducible apply tryVerdict_eff
    | with_reducible apply Eff.ite
    | split

theorem tryShard_eff {z : State} (s : State) (x1 : W32) (x2 : Nat) (hz : Eff z s) : Eff z (tryShard s x1 x2) := by
  unfold tryShard
  try dsimp only
  repeat' first
    | with_reducible assumption
    | with_reducible apply writeTrailer_eff
    | with_reducible apply modShard_eff
    | with_reducible apply modStep_eff
    | with_reducible apply trySend_eff
    | with_reducible apply signalCores_eff
    | with_reducible apply Eff.ite
    | split

theorem park_eff {z : State} (s : State) (x1 : Plan) (x2 : W32) (x3 : Nat) (x4 : Nat) (x5 : Nat) (x6 : Txn)
    (x7 : AccReply) (hz : Eff z s) :
    Eff z (park s x1 x2 x3 x4 x5 x6 x7) := by
  unfold park
  try dsimp only
  repeat' first
    | with_reducible assumption
    | with_reducible apply accReply_eff
    | with_reducible apply devWrite_eff
    | with_reducible apply modShard_eff
    | with_reducible apply rmod_eff
    | with_reducible apply perfCount_eff
    | rw [State.mk_others]
    | with_reducible apply Eff.others
    | split

theorem takeContrib_eff {z : State} (s : State) (x1 : Plan) (x2 : Shard) (x3 : Nat) (x4 : Nat) (x5 : Txn)
    (x6 : AccReply) (hz : Eff z s) :
    Eff z (takeContrib s x1 x2 x3 x4 x5 x6) := by
  unfold takeContrib
  try dsimp only
  repeat' first
    | with_reducible assumption
    | with_reducible apply accReply_eff
    | with_reducible apply spoilParked_eff
    | with_reducible apply takeParked_eff
    | with_reducible apply badTurn_eff
    | with_reducible apply modShard_eff
    | with_reducible apply tryShard_eff
    | with_reducible apply enqueueOps_eff
    | with_reducible apply park_eff
    | with_reducible apply Eff.ite
    | split

theorem arriveContrib_eff {z : State} (s : State) (x1 : Txn) (x2 : AccReply) (hz : Eff z s) :
    Eff z (arriveContrib s x1 x2) := by
  unfold arriveContrib
  try dsimp only
  repeat' first
    | with_reducible assumption
    | with_reducible apply accReply_eff
    | with_reducible apply takeContrib_eff
    | with_reducible apply Eff.ite
    | split

theorem planCtl_eff {z : State} (s : State) (x1 : Nat) (x2 : Nat) (hz : Eff z s) : Eff z (planCtl s x1 x2) := by
  unfold planCtl
  try dsimp only
  repeat' first
    | with_reducible assumption
    | with_reducible apply rset_eff

theorem planRefuse_eff {z : State} (s : State) (x1 : Nat) (hz : Eff z s) : Eff z (planRefuse s x1) := by
  unfold planRefuse
  try dsimp only
  repeat' first
    | with_reducible assumption
    | with_reducible apply planCtl_eff

theorem endPlanUses_eff {z : State} (s : State) (hz : Eff z s) : Eff z (endPlanUses s) := by
  unfold endPlanUses
  try dsimp only
  repeat' first
    | with_reducible assumption
    | with_reducible apply usesEnd_eff
    | split

theorem clearColl_eff {z : State} (s : State) (hz : Eff z s) : Eff z (clearColl s) := by
  unfold clearColl
  try dsimp only
  repeat' first
    | with_reducible assumption
    | rw [State.mk_others]
    | with_reducible apply Eff.others

theorem planLoad_eff {z : State} (s : State) (hz : Eff z s) : Eff z (planLoad s) := by
  unfold planLoad
  lift_lets
  intro addr n r p0 p1 spans ents uses s1 s3 c3 s2 s4 c4 s5 s6 s7 s8
  have hr : ∀ s k, Eff z s → Eff z (planRefuse s k) := fun s k h => planRefuse_eff s k h
  have h1 : Eff z s1 := Eff.foldl (fun s a => useBegin_eff _ _ (Eff.refl s)) (endPlanUses_eff _ hz)
  clear_value s1
  have h3 : Eff z s3 := devWrite_eff _ _ _ h1
  clear_value s3
  have h2 : Eff z s2 := Eff.ite h1 (h3.trans ⟨rfl, id, id, CurEff.refl _⟩)
  have h4 : Eff z s4 := clearColl_eff _ h2
  clear_value s4
  have h5 : Eff z s5 := h4.trans ⟨rfl, id, id, CurEff.refl _⟩
  clear_value s5
  have h6 : Eff z s6 := rset_eff _ _ _ _ _ (rmod_eff _ _ _ _ _ h5)
  have h8 : Eff z s8 := ownChange_eff _ _ _ _ _ _ (planCtl_eff _ _ _ h6)
  have h9 : Eff z (decideDepth s8 0) := decideDepth_eff _ _ h8
  clear_value s8
  apply Eff.ite (hr _ _ hz)
  split
  · exact hr _ _ hz
  · split
    · exact hr _ _ (draw_eff _ (devRead_eff _ _ _ _ hz))
    · split
      · exact hr _ _ hz
      · exact Eff.ite (hr _ _ hz) h9

theorem planDrop_eff {z : State} (s : State) (hz : Eff z s) : Eff z (planDrop s) := by
  unfold planDrop
  try dsimp only
  repeat' first
    | with_reducible assumption
    | with_reducible apply clearColl_eff
    | with_reducible apply endPlanUses_eff
    | with_reducible apply planCtl_eff
    | rw [State.mk_others]
    | with_reducible apply Eff.others

theorem planUnload_eff {z : State} (s : State) (hz : Eff z s) : Eff z (planUnload s) := by
  unfold planUnload
  try dsimp only
  repeat' first
    | with_reducible assumption
    | with_reducible apply planRefuse_eff
    | with_reducible apply planDrop_eff
    | with_reducible apply Eff.ite

theorem useEndOpt_eff {z : State} (s : State) (u : Option Nat) (hz : Eff z s) : Eff z (useEndOpt s u) := by
  unfold useEndOpt
  cases u with
  | none => exact hz
  | some i => exact useEnd_eff _ _ hz

theorem failStep_eff {z : State} (s : State) (x1 : W32) (x2 : Flt) (hz : Eff z s) : Eff z (failStep s x1 x2) := by
  unfold failStep
  try dsimp only
  repeat' first
    | with_reducible assumption
    | with_reducible apply closeStep_eff
    | with_reducible apply collFault_eff
    | with_reducible apply logCol_eff
    | with_reducible apply modStep_eff
    | with_reducible apply Eff.ite
    | split

theorem arriveAcc_eff {z : State} (s : State) (x1 : Txn) (hz : Eff z s) : Eff z (arriveAcc s x1) := by
  unfold arriveAcc
  try dsimp only
  repeat' first
    | with_reducible assumption
    | with_reducible apply sendTxn_eff
    | with_reducible apply enqueueOps_eff
    | with_reducible apply Eff.ite

theorem dropReq_eff {z : State} (s : State) (q : Req) (hz : Eff z s) : Eff z (dropReq s q) := by
  unfold dropReq
  extract_lets c s1
  have h1 : Eff z s1 := hz.trans ⟨rfl, id, id, CurEff.refl _⟩
  exact repump_eff _ (Eff.elim h1 (fun _ => settleStop_eff _ _ h1) _)

theorem accApply_eff {z : State} (s : State) (x1 : Nat) (x2 : Bool) (x3 : List (BitVec 16)) (hz : Eff z s) :
    Eff z (accApply s x1 x2 x3).1 := by
  unfold accApply
  try dsimp only
  repeat' first
    | with_reducible assumption
    | dsimp only
    | with_reducible apply l2Rewrite_eff
    | with_reducible apply sliceRead_eff
    | with_reducible apply putCells_eff
    | with_reducible apply cleanLine_eff
    | with_reducible apply Eff.ite1
    | split

theorem contribFailed_eff {z : State} (s : State) (x1 : AccOp) (x2 : Flt) (hz : Eff z s) :
    Eff z (contribFailed s x1 x2) := by
  unfold contribFailed
  try dsimp only
  repeat' first
    | with_reducible assumption
    | with_reducible apply freeWin_eff
    | with_reducible apply useEndOpt_eff
    | with_reducible apply accReply_eff
    | with_reducible apply tryShard_eff
    | with_reducible apply modShard_eff
    | rw [State.mk_others]
    | with_reducible apply Eff.others
    | split

theorem contribDone_eff {z : State} (s : State) (x1 : AccOp) (hz : Eff z s) : Eff z (contribDone s x1) := by
  unfold contribDone
  try dsimp only
  repeat' first
    | with_reducible assumption
    | with_reducible apply freeWin_eff
    | with_reducible apply useEndOpt_eff
    | with_reducible apply accReply_eff
    | with_reducible apply modShard_eff
    | with_reducible apply rmod_eff
    | with_reducible apply tryShard_eff
    | split

theorem execAccumulatorOp_eff {z : State} (s : State) (hz : Eff z s) : EffR z (execAccumulatorOp s) := by
  unfold execAccumulatorOp
  try dsimp only
  repeat' first
    | with_reducible assumption
    | with_reducible apply answer_eff
    | with_reducible apply repump_eff
    | with_reducible apply accApply_eff
    | with_reducible apply perfCount_eff
    | with_reducible apply contribFailed_eff
    | with_reducible apply modShard_eff
    | with_reducible apply contribDone_eff
    | with_reducible apply Eff.ite
    | rw [State.mk_others]
    | with_reducible apply Eff.others
    | split

end Sys2Proof.Machine
end

