-- ==== Sys2Proof/Laws/EffTarget.lean ====
section
/-!
SUPPORT. Sys2Proof/Laws/EffTarget.lean: what each operation of Target.lean, CollPort.lean, Vector.lean, VecMem.lean, Copy.lean, Sf.lean, Chain.lean keeps (`Eff`), one lemma each.
-/
namespace Sys2Proof.Machine

/-! ## Target -/

theorem takeInbox_eff {z : State} (s : State) (x1 : Txn) (x2 : Nat) (t : State) (h : takeInbox s x1 x2 = some t)
    (hz : Eff z s) : Eff z t := by
  unfold takeInbox at h
  dsimp only at h
  split at h
  · cases h
  · split at h
    · cases h
    · cases h
      rw [State.mk_others]
      exact Eff.others hz

theorem holdTxn_eff {z : State} (s : State) (x1 : Txn) (hz : Eff z s) : Eff z (holdTxn s x1) := by
  unfold holdTxn
  try dsimp only
  repeat' first
    | with_reducible assumption
    | with_reducible apply deliver_eff
    | with_reducible apply startWake_eff
    | with_reducible apply Eff.ite

theorem onTxn_eff {z : State} (s : State) (x1 : Txn) (x2 : Nat) (x3 : State → State) (h3 : ∀ (a0 : State), Eff a0
    (x3 a0)) (hz : Eff z s) :
    EffR z (onTxn s x1 x2 x3) := by
  unfold onTxn
  try dsimp only
  repeat' first
    | with_reducible assumption
    | with_reducible apply Eff.after (h3 _)
    | with_reducible apply answer_eff
    | with_reducible refine takeInbox_eff _ _ _ _ (by assumption) ?_
    | with_reducible apply holdTxn_eff
    | with_reducible apply Eff.ite
    | split

theorem execSignal_eff {z : State} (x0 : Txn) (s : State) (hz : Eff z s) : EffR z (execSignal x0 s) := by
  unfold execSignal
  try dsimp only
  repeat' first
    | with_reducible assumption
    | with_reducible exact Eff.refl _
    | with_reducible apply onTxn_eff
    | with_reducible apply sendTxn_eff
    | with_reducible apply modCore_eff
    | with_reducible apply Eff.ite
    | intro _
    | split

theorem openNext_eff {z : State} (s : State) (x1 : W32) (hz : Eff z s) : Eff z (openNext s x1) := by
  unfold openNext
  try dsimp only
  repeat' first
    | with_reducible assumption
    | with_reducible apply Eff.ite
    | rw [State.mk_others]
    | with_reducible apply Eff.others
    | split

theorem stepMsg_eff {z : State} (s : State) (x1 : Txn) (x2 : State → Plan → State) (h2 : ∀ (a0 : State)
    (a1 : Plan), Eff a0 (x2 a0 a1)) (hz : Eff z s) :
    Eff z (stepMsg s x1 x2) := by
  unfold stepMsg
  try dsimp only
  repeat' first
    | with_reducible assumption
    | with_reducible apply Eff.after (h2 _ _)
    | with_reducible apply sendTxn_eff
    | with_reducible apply failStep_eff
    | with_reducible apply openNext_eff
    | with_reducible apply Eff.ite
    | split

theorem execStepTrailer_eff {z : State} (x0 : Txn) (s : State) (hz : Eff z s) : EffR z (execStepTrailer x0 s) := by
  unfold execStepTrailer
  try dsimp only
  repeat' first
    | with_reducible assumption
    | with_reducible exact Eff.refl _
    | with_reducible apply answer_eff
    | with_reducible apply onTxn_eff
    | with_reducible apply sendTxn_eff
    | with_reducible apply stepMsg_eff
    | with_reducible apply modStep_eff
    | with_reducible apply tryVerdict_eff
    | with_reducible apply Eff.ite
    | with_reducible apply EffR.ite
    | intro _

theorem execAcc_eff {z : State} (x0 : Txn) (s : State) (hz : Eff z s) : EffR z (execAcc x0 s) := by
  unfold execAcc
  try dsimp only
  repeat' first
    | with_reducible assumption
    | with_reducible exact Eff.refl _
    | with_reducible apply onTxn_eff
    | with_reducible apply arriveContrib_eff
    | with_reducible apply arriveAcc_eff
    | with_reducible apply Eff.ite
    | intro _

theorem execReadData_eff {z : State} (x0 : Txn) (s : State) (hz : Eff z s) : EffR z (execReadData x0 s) := by
  unfold execReadData
  try dsimp only
  repeat' first
    | with_reducible assumption
    | with_reducible exact Eff.refl _
    | with_reducible apply onTxn_eff
    | with_reducible apply countStray_eff
    | intro _

theorem execWrite_eff {z : State} (x0 : Txn) (s : State) (hz : Eff z s) : EffR z (execWrite x0 s) := by
  unfold execWrite
  try dsimp only
  repeat' first
    | with_reducible assumption
    | with_reducible exact Eff.refl _
    | with_reducible apply onTxn_eff
    | with_reducible apply sendTxn_eff
    | with_reducible apply devWrite_eff
    | with_reducible apply snapshotHit_eff
    | intro _
    | split

theorem onResponse_eff {z : State} (s : State) (x1 : Txn) (x2 : State → Req → State) (h2 : ∀ (a0 : State)
    (a1 : Req), Eff a0 (x2 a0 a1)) (hz : Eff z s) :
    Eff z (onResponse s x1 x2) := by
  unfold onResponse
  try dsimp only
  repeat' first
    | with_reducible assumption
    | with_reducible apply Eff.after (h2 _ _)
    | with_reducible apply countStray_eff
    | with_reducible apply dropReq_eff
    | split

theorem remoteEnd_eff {z : State} (s : State) (x1 : Req) (x2 : Fin 72) (x3 : W32) (x4 : Option Nat)
    (x5 : Option Flt) (hz : Eff z s) :
    Eff z (remoteEnd s x1 x2 x3 x4 x5) := by
  unfold remoteEnd
  try dsimp only
  repeat' first
    | with_reducible assumption
    | with_reducible apply logCol_eff
    | with_reducible apply collFault_eff
    | with_reducible apply modCore_eff
    | with_reducible apply Eff.ite
    | split

theorem reqEnd_eff {z : State} (s : State) (x1 : Req) (x2 : Option Flt) (hz : Eff z s) : Eff z (reqEnd s x1 x2) := by
  unfold reqEnd
  try dsimp only
  repeat' first
    | with_reducible assumption
    | with_reducible apply logCol_eff
    | with_reducible apply remoteEnd_eff
    | with_reducible apply gatherNext_eff
    | with_reducible apply modStep_eff
    | with_reducible apply tryCommit_eff
    | with_reducible apply Eff.ite
    | split

theorem execAck_eff {z : State} (x0 : Txn) (s : State) (hz : Eff z s) : EffR z (execAck x0 s) := by
  unfold execAck
  try dsimp only
  repeat' first
    | with_reducible assumption
    | with_reducible exact Eff.refl _
    | with_reducible apply onTxn_eff
    | with_reducible apply onResponse_eff
    | with_reducible apply reqEnd_eff
    | with_reducible apply Eff.ite
    | intro _
    | rw [State.mk_others]
    | with_reducible apply Eff.others

theorem execRetryResend_eff {z : State} (s : State) (hz : Eff z s) : EffR z (execRetryResend s) := by
  unfold execRetryResend
  try dsimp only
  repeat' first
    | with_reducible assumption
    | with_reducible apply answer_eff
    | with_reducible apply modCore_eff
    | with_reducible apply arriveContrib_eff
    | with_reducible apply request_eff
    | with_reducible apply Eff.ite
    | rw [State.mk_others]
    | with_reducible apply Eff.others
    | split

theorem execRead_eff {z : State} (x0 : Txn) (s : State) (hz : Eff z s) : EffR z (execRead x0 s) := by
  unfold execRead
  try dsimp only
  repeat' first
    | with_reducible assumption
    | with_reducible exact Eff.refl _
    | with_reducible apply onTxn_eff
    | with_reducible apply sendTxn_eff
    | with_reducible apply devRead_eff
    | intro _
    | split

theorem execColTimeout_eff {z : State} (s : State) (hz : Eff z s) : EffR z (execColTimeout s) := by
  unfold execColTimeout
  try dsimp only
  repeat' first
    | with_reducible assumption
    | with_reducible apply answer_eff
    | with_reducible apply failStep_eff
    | with_reducible apply Eff.ite
    | split

theorem execLoanCommit_eff {z : State} (x0 : Txn) (s : State) (hz : Eff z s) : EffR z (execLoanCommit x0 s) := by
  unfold execLoanCommit
  try dsimp only
  repeat' first
    | with_reducible assumption
    | with_reducible exact Eff.refl _
    | with_reducible apply answer_eff
    | with_reducible apply onTxn_eff
    | with_reducible apply sendTxn_eff
    | with_reducible apply acceptLoan_eff
    | with_reducible apply Eff.ite
    | with_reducible apply EffR.ite
    | intro _

theorem execErrorResponse_eff {z : State} (x0 : Txn) (s : State) (hz : Eff z s) : EffR z (execErrorResponse x0 s) := by
  unfold execErrorResponse
  try dsimp only
  repeat' first
    | with_reducible assumption
    | with_reducible exact Eff.refl _
    | with_reducible apply onTxn_eff
    | with_reducible apply onResponse_eff
    | with_reducible apply reqEnd_eff
    | intro _

theorem execRespTimeout_eff {z : State} (x0 : BitVec 14) (s : State) (hz : Eff z s) :
    EffR z (execRespTimeout x0 s) := by
  unfold execRespTimeout
  try dsimp only
  repeat' first
    | with_reducible assumption
    | with_reducible apply answer_eff
    | with_reducible apply dropReq_eff
    | with_reducible apply reqEnd_eff
    | rw [State.mk_others]
    | with_reducible apply Eff.others
    | split

theorem execGatherDone_eff {z : State} (x0 : Txn) (s : State) (hz : Eff z s) : EffR z (execGatherDone x0 s) := by
  unfold execGatherDone
  try dsimp only
  repeat' first
    | with_reducible assumption
    | with_reducible exact Eff.refl _
    | with_reducible apply answer_eff
    | with_reducible apply onTxn_eff
    | with_reducible apply stepMsg_eff
    | with_reducible apply modStep_eff
    | with_reducible apply tryGathered_eff
    | with_reducible apply EffR.ite
    | intro _


/-! ## CollPort -/

theorem sendContrib_eff {z : State} (x0 : ReqUse) (s : State) (x2 : Txn) (hz : Eff z s) :
    Eff z (sendContrib x0 s x2) := by
  unfold sendContrib
  try dsimp only
  repeat' first
    | with_reducible assumption
    | with_reducible apply perfCount_eff
    | with_reducible apply arriveContrib_eff
    | with_reducible apply request_eff
    | with_reducible apply Eff.ite

theorem cpbktHand_eff {z : State} (x0 : Fin 72) (x1 : Entry) (x2 : View) (s : State × List Txn × Option Flt)
    (hz : Eff z s.1) :
    Eff z (cpbktHand x0 x1 x2 s).st := by
  unfold cpbktHand
  try dsimp only
  repeat' first
    | with_reducible assumption
    | with_reducible exact Eff.refl _
    | dsimp only
    | with_reducible apply ranFault_eff
    | with_reducible apply useBegin_eff
    | with_reducible apply sendContrib_eff
    | with_reducible apply Eff.foldl
    | intro _
    | split

theorem chunkOut_eff {z : State} (x0 : Plan) (x1 : W32) (x2 : Nat) (x3 : Nat) (x4 : Bool) (x5 : State)
    (x6 : ChunkOut) (s : State × Option Flt) (hz : Eff z s.1) :
    Eff z (chunkOut x0 x1 x2 x3 x4 x5 x6 s).1 := by
  unfold chunkOut
  try dsimp only
  repeat' first
    | with_reducible assumption
    | split

theorem chunkFrom_eff {z : State} (x0 : State) (x1 : Plan) (x2 : W32) (x3 : Nat) (x4 : Nat) (x5 : Bool) (x6 : List
    (BitVec 16)) (s : State × List Byte × Option Flt) (hz : Eff z s.1) :
    Eff z (chunkFrom x0 x1 x2 x3 x4 x5 x6 s).1 := by
  unfold chunkFrom
  try dsimp only
  repeat' first
    | with_reducible assumption
    | with_reducible apply chunkOut_eff
    | with_reducible apply devWrite_eff
    | split

theorem doChunk_eff {z : State} (s : State) (x1 : Plan) (x2 : W32) (x3 : Nat) (x4 : Nat) (x5 : Bool) (x6 : List
    (BitVec 16)) (hz : Eff z s) :
    Eff z (doChunk s x1 x2 x3 x4 x5 x6).1 := by
  unfold doChunk
  try dsimp only
  repeat' first
    | with_reducible assumption
    | with_reducible apply chunkFrom_eff
    | with_reducible apply devRead_eff
    | with_reducible apply Eff.ite1

theorem doChunks_eff {z : State} (s : State) (x1 : Plan) (x2 : W32) (x3 : Nat) (x4 : Bool) (x5 : List (BitVec 16))
    (hz : Eff z s) :
    Eff z (doChunks s x1 x2 x3 x4 x5).1 := by
  unfold doChunks
  try dsimp only
  repeat' first
    | with_reducible assumption
    | with_reducible exact Eff.refl _
    | dsimp only
    | with_reducible apply doChunk_eff
    | with_reducible apply Eff.foldl_at Prod.fst
    | intro _
    | split

theorem cpbktChunks_eff {z : State} (x0 : Fin 72) (x1 : Entry) (x2 : OpD) (x3 : View) (x4 : Plan)
    (s : State × List Byte × Option Flt) (hz : Eff z s.1) :
    Eff z (cpbktChunks x0 x1 x2 x3 x4 s).st := by
  unfold cpbktChunks
  try dsimp only
  repeat' first
    | with_reducible assumption
    | with_reducible apply ranFault_eff
    | with_reducible apply cpbktHand_eff
    | with_reducible apply doChunks_eff
    | split

theorem putStep_eff {z : State} (s : State) (x1 : StepState) (hz : Eff z s) : Eff z (putStep s x1) := by
  unfold putStep
  try dsimp only
  repeat' first
    | with_reducible assumption
    | with_reducible apply Eff.ite
    | rw [State.mk_others]
    | with_reducible apply Eff.others
    | split

theorem cpbktOpen_eff {z : State} (x0 : Fin 72) (x1 : Entry) (s : State) (x3 : Plan) (x4 : StepState) (hz : Eff z s) :
    Eff z (cpbktOpen x0 x1 s x3 x4) := by
  unfold cpbktOpen
  try dsimp only
  repeat' first
    | with_reducible assumption
    | with_reducible apply putStep_eff
    | with_reducible apply perfCount_eff
    | with_reducible apply tryShard_eff
    | rw [State.mk_others]
    | with_reducible apply Eff.others

theorem cpbktFrom_eff {z : State} (x0 : Fin 72) (x1 : Entry) (x2 : OpD) (s : State × Except Flt View) (hz : Eff z s.1) :
    Eff z (cpbktFrom x0 x1 x2 s).st := by
  unfold cpbktFrom
  try dsimp only
  repeat' first
    | with_reducible assumption
    | with_reducible apply ranFault_eff
    | with_reducible apply cpbktChunks_eff
    | with_reducible apply readDense_eff
    | with_reducible apply cpbktOpen_eff
    | split

theorem runCpbkt_eff {z : State} (x0 : Fin 72) (x1 : Entry) (x2 : OpD) (s : State) (hz : Eff z s) :
    Eff z (runCpbkt x0 x1 x2 s).st := by
  unfold runCpbkt
  try dsimp only
  repeat' first
    | with_reducible assumption
    | with_reducible apply cpbktFrom_eff
    | with_reducible apply openView_eff

theorem runCpgath_eff {z : State} (x0 : Fin 72) (x1 : Entry) (s : State) (hz : Eff z s) :
    Eff z (runCpgath x0 x1 s).st := by
  unfold runCpgath
  try dsimp only
  repeat' first
    | with_reducible assumption
    | dsimp only
    | with_reducible apply ranFault_eff
    | with_reducible apply readRecord_eff
    | with_reducible apply ranOk_eff
    | with_reducible apply useBegin_eff
    | with_reducible apply modStep_eff
    | with_reducible apply startGather_eff
    | with_reducible apply Eff.ite
    | split

theorem putPos_eff {z : State} (x0 : View) (x1 : View) (x2 : List Int) (s : Moving) (hz : Eff z s.st) :
    Eff z (putPos x0 x1 x2 s).st := by
  unfold putPos
  try dsimp only
  repeat' first
    | with_reducible assumption
    | dsimp only
    | with_reducible apply readElem_eff
    | split

theorem sendRemote_eff {z : State} (s : State) (x1 : Fin 72) (x2 : Option Nat) (x3 : List Req) (hz : Eff z s) :
    Eff z (sendRemote s x1 x2 x3) := by
  unfold sendRemote
  try dsimp only
  repeat' first
    | with_reducible assumption
    | with_reducible apply modCore_eff
    | with_reducible apply request_eff
    | split

theorem runCpput_eff {z : State} (x0 : Fin 72) (x1 : Entry) (x2 : OpD) (s : State) (hz : Eff z s) :
    Eff z (runCpput x0 x1 x2 s).st := by
  unfold runCpput
  try dsimp only
  repeat' first
    | with_reducible assumption
    | with_reducible exact Eff.refl _
    | dsimp only
    | with_reducible apply openTwo_eff
    | with_reducible apply ranFault_eff
    | with_reducible apply putPos_eff
    | with_reducible apply settleCells_eff
    | with_reducible apply sendRemote_eff
    | with_reducible apply useBegin_eff
    | with_reducible apply Eff.foldl
    | with_reducible apply Eff.foldl_at (fun b : Moving => b.st)
    | intro _
    | split

theorem runCpacc_eff {z : State} (x0 : Fin 72) (x1 : Entry) (x2 : OpD) (s : State) (hz : Eff z s) :
    Eff z (runCpacc x0 x1 x2 s).st := by
  unfold runCpacc
  try dsimp only
  repeat' first
    | with_reducible assumption
    | with_reducible exact Eff.refl _
    | dsimp only
    | with_reducible apply openTwo_eff
    | with_reducible apply ranFault_eff
    | with_reducible apply readDense_eff
    | with_reducible apply sendRemote_eff
    | with_reducible apply useBegin_eff
    | with_reducible apply Eff.foldl
    | intro _
    | split

theorem runCpsig_eff {z : State} (x0 : Fin 72) (x1 : Entry) (x2 : OpD) (s : State) (hz : Eff z s) :
    Eff z (runCpsig x0 x1 x2 s).st := by
  unfold runCpsig
  try dsimp only
  repeat' first
    | with_reducible assumption
    | with_reducible apply ranFault_eff
    | with_reducible apply ranOk_eff
    | with_reducible apply request_eff
    | split

theorem runCollPort_eff {z : State} (x0 : Fin 72) (x1 : Entry) (x2 : OpD) (s : State) (hz : Eff z s) :
    Eff z (runCollPort x0 x1 x2 s).st := by
  unfold runCollPort
  try dsimp only
  repeat' first
    | with_reducible assumption
    | with_reducible apply runCpbkt_eff
    | with_reducible apply runCpgath_eff
    | with_reducible apply runCpput_eff
    | with_reducible apply runCpacc_eff
    | with_reducible apply runCpsig_eff
    | split


/-! ## Vector -/

theorem veDone_eff {z : State} (s : State) (x1 : Fin 72) (x2 : Core × Flags) (x3 : Flags) (hz : Eff z s) :
    Eff z (veDone s x1 x2 x3).st := by
  unfold veDone
  try dsimp only
  repeat' first
    | with_reducible assumption
    | with_reducible apply setCore_eff

theorem runVcmp_eff {z : State} (x0 : Fin 72) (x1 : Entry) (x2 : OpV) (s : State) (hz : Eff z s) :
    Eff z (runVcmp x0 x1 x2 s).st := by
  unfold runVcmp
  try dsimp only
  repeat' first
    | with_reducible assumption
    | with_reducible apply ranOk_eff
    | with_reducible apply setCore_eff

theorem runVsel_eff {z : State} (x0 : Fin 72) (x1 : Entry) (x2 : OpV) (s : State) (hz : Eff z s) :
    Eff z (runVsel x0 x1 x2 s).st := by
  unfold runVsel
  try dsimp only
  repeat' first
    | with_reducible assumption
    | with_reducible apply veDone_eff

theorem runVcvt_eff {z : State} (x0 : Fin 72) (x1 : OpV) (s : State) (hz : Eff z s) : Eff z (runVcvt x0 x1 s).st := by
  unfold runVcvt
  try dsimp only
  repeat' first
    | with_reducible assumption
    | with_reducible apply veDone_eff

theorem runVrng_eff {z : State} (x0 : Fin 72) (x1 : OpV) (s : State) (hz : Eff z s) : Eff z (runVrng x0 x1 s).st := by
  unfold runVrng
  try dsimp only
  repeat' first
    | with_reducible assumption
    | with_reducible apply veDone_eff

theorem runSparsify_eff {z : State} (x0 : Fin 72) (x1 : OpV) (s : State) (hz : Eff z s) :
    Eff z (runSparsify x0 x1 s).st := by
  unfold runSparsify
  try dsimp only
  repeat' first
    | with_reducible assumption
    | dsimp only
    | with_reducible apply ranFault_eff
    | with_reducible apply setCore_eff
    | with_reducible apply rmod_eff
    | with_reducible apply Eff.ite
    | split

theorem runElem_eff {z : State} (x0 : Fin 72) (x1 : Entry) (x2 : OpV) (s : State) (hz : Eff z s) :
    Eff z (runElem x0 x1 x2 s).st := by
  unfold runElem
  try dsimp only
  repeat' first
    | with_reducible assumption
    | with_reducible apply veDone_eff

theorem runVector_eff {z : State} (x0 : Fin 72) (x1 : Entry) (x2 : OpV) (s : State) (hz : Eff z s) :
    Eff z (runVector x0 x1 x2 s).st := by
  unfold runVector
  try dsimp only
  repeat' first
    | with_reducible assumption
    | with_reducible apply runVcmp_eff
    | with_reducible apply runVsel_eff
    | with_reducible apply runVcvt_eff
    | with_reducible apply runVrng_eff
    | with_reducible apply runSparsify_eff
    | with_reducible apply runElem_eff
    | split


/-! ## VecMem -/

theorem loadLanes_eff {z : State} (x0 : Fin 72) (s : State) (x2 : Nat) (x3 : List Nat) (hz : Eff z s) :
    Eff z (loadLanes x0 s x2 x3).1 := by
  unfold loadLanes
  try dsimp only
  repeat' first
    | with_reducible assumption
    | with_reducible exact Eff.refl _
    | dsimp only
    | with_reducible apply loadBytes_eff
    | with_reducible apply Eff.foldl_at Prod.fst
    | intro _
    | split

theorem runVld_eff {z : State} (x0 : Fin 72) (x1 : Entry) (x2 : OpV) (s : State) (hz : Eff z s) :
    Eff z (runVld x0 x1 x2 s).st := by
  unfold runVld
  try dsimp only
  repeat' first
    | with_reducible assumption
    | with_reducible apply ranFault_eff
    | with_reducible apply loadLanes_eff
    | with_reducible apply ranOk_eff
    | with_reducible apply modCore_eff
    | split

theorem runVst_eff {z : State} (x0 : Fin 72) (x1 : Entry) (x2 : OpV) (s : State) (hz : Eff z s) :
    Eff z (runVst x0 x1 x2 s).st := by
  unfold runVst
  try dsimp only
  repeat' first
    | with_reducible assumption
    | dsimp only
    | with_reducible apply ranFault_eff
    | with_reducible apply storeCells_eff
    | split

theorem viewElem_eff {z : State} (x0 : Fin 72) (x1 : View) (s : State) (x3 : List Int) (hz : Eff z s) :
    Eff z (viewElem x0 x1 s x3).1 := by
  unfold viewElem
  try dsimp only
  repeat' first
    | with_reducible assumption
    | dsimp only
    | with_reducible apply loadBytes_eff
    | split

theorem runVldw_eff {z : State} (x0 : Fin 72) (x1 : Entry) (x2 : OpV) (s : State) (hz : Eff z s) :
    Eff z (runVldw x0 x1 x2 s).st := by
  unfold runVldw
  try dsimp only
  repeat' first
    | with_reducible assumption
    | with_reducible exact Eff.refl _
    | dsimp only
    | with_reducible apply openView_eff
    | with_reducible apply ranFault_eff
    | with_reducible apply viewElem_eff
    | with_reducible apply modCore_eff
    | with_reducible apply useBegin_eff
    | with_reducible apply Eff.foldl_at Prod.fst
    | intro _
    | split

theorem runVldab_eff {z : State} (x0 : Fin 72) (x1 : Entry) (x2 : OpV) (s : State) (hz : Eff z s) :
    Eff z (runVldab x0 x1 x2 s).st := by
  unfold runVldab
  try dsimp only
  repeat' first
    | with_reducible assumption
    | with_reducible apply ranOk_eff
    | with_reducible apply setCore_eff

theorem runVstab_eff {z : State} (x0 : Fin 72) (x1 : Entry) (x2 : OpV) (s : State) (hz : Eff z s) :
    Eff z (runVstab x0 x1 x2 s).st := by
  unfold runVstab
  try dsimp only
  repeat' first
    | with_reducible assumption
    | with_reducible apply ranOk_eff
    | with_reducible apply setCore_eff

theorem runVperm_eff {z : State} (x0 : Fin 72) (x1 : Entry) (x2 : OpV) (s : State) (hz : Eff z s) :
    Eff z (runVperm x0 x1 x2 s).st := by
  unfold runVperm
  try dsimp only
  repeat' first
    | with_reducible assumption
    | with_reducible apply veDone_eff

theorem runVslide_eff {z : State} (x0 : Fin 72) (x1 : OpV) (s : State) (hz : Eff z s) :
    Eff z (runVslide x0 x1 s).st := by
  unfold runVslide
  try dsimp only
  repeat' first
    | with_reducible assumption
    | with_reducible apply veDone_eff

theorem runVbcast_eff {z : State} (x0 : Fin 72) (x1 : OpV) (s : State) (hz : Eff z s) :
    Eff z (runVbcast x0 x1 s).st := by
  unfold runVbcast
  try dsimp only
  repeat' first
    | with_reducible assumption
    | with_reducible apply veDone_eff

theorem runVred_eff {z : State} (x0 : Fin 72) (x1 : OpV) (s : State) (hz : Eff z s) : Eff z (runVred x0 x1 s).st := by
  unfold runVred
  try dsimp only
  repeat' first
    | with_reducible assumption
    | with_reducible apply veDone_eff

theorem runVscan_eff {z : State} (x0 : Fin 72) (x1 : OpV) (s : State) (hz : Eff z s) : Eff z (runVscan x0 x1 s).st := by
  unfold runVscan
  try dsimp only
  repeat' first
    | with_reducible assumption
    | with_reducible apply veDone_eff

theorem seqStep_eff {z : State} (x0 : Fin 72) (x1 : Entry) (x2 : OpV) (x3 : ETy) (s : State × Flags × Option Flt)
    (x5 : Nat) (hz : Eff z s.1) :
    Eff z (seqStep x0 x1 x2 x3 s x5).1 := by
  unfold seqStep
  try dsimp only
  repeat' first
    | with_reducible assumption
    | dsimp only
    | with_reducible apply loadLanes_eff
    | with_reducible apply setCore_eff
    | split

theorem seqStore_eff {z : State} (x0 : Fin 72) (x1 : Entry) (x2 : OpV) (x3 : ETy) (s : State × Flags × Option Flt)
    (x5 : Nat) (hz : Eff z s.1) :
    Eff z (seqStore x0 x1 x2 x3 s x5).1 := by
  unfold seqStore
  try dsimp only
  repeat' first
    | with_reducible assumption
    | dsimp only
    | with_reducible apply seqStep_eff
    | with_reducible apply storeCells_eff
    | with_reducible apply Eff.ite1
    | split

theorem runVseq_eff {z : State} (x0 : Fin 72) (x1 : Entry) (x2 : OpV) (s : State) (hz : Eff z s) :
    Eff z (runVseq x0 x1 x2 s).st := by
  unfold runVseq
  try dsimp only
  repeat' first
    | with_reducible assumption
    | with_reducible exact Eff.refl _
    | dsimp only
    | with_reducible apply ranFault_eff
    | with_reducible apply seqStore_eff
    | with_reducible apply modCore_eff
    | with_reducible apply Eff.foldl_at Prod.fst
    | intro _
    | split

theorem runVlut_eff {z : State} (x0 : Fin 72) (x1 : Entry) (x2 : OpV) (s : State) (hz : Eff z s) :
    Eff z (runVlut x0 x1 x2 s).st := by
  unfold runVlut
  try dsimp only
  repeat' first
    | with_reducible assumption
    | with_reducible apply veDone_eff

theorem runTwr_eff {z : State} (x0 : Fin 72) (x1 : OpV) (s : State) (hz : Eff z s) : Eff z (runTwr x0 x1 s).st := by
  unfold runTwr
  try dsimp only
  repeat' first
    | with_reducible assumption
    | with_reducible apply ranOk_eff
    | with_reducible apply setCore_eff

theorem runTswap_eff {z : State} (x0 : Fin 72) (x1 : OpV) (s : State) (hz : Eff z s) : Eff z (runTswap x0 x1 s).st := by
  unfold runTswap
  try dsimp only
  repeat' first
    | with_reducible assumption
    | with_reducible apply ranOk_eff
    | with_reducible apply modCore_eff

theorem writeBits_eff {z : State} (x0 : State → Nat → State × Byte × Option Flt) (x1 : State → List
    (Nat × Byte) → State × Option Flt) (s : State) (x3 : Nat) (x4 : Nat) (x5 : List Bool) (h0 : ∀ (a0 : State) (a1 : Nat), Eff a0 (x0 a0 a1).1) (h1 : ∀ (a0 : State) (a1 : List (Nat × Byte)), Eff a0 (x1 a0 a1).1) (hz : Eff z s) :
    Eff z (writeBits x0 x1 s x3 x4 x5).1 := by
  unfold writeBits
  try dsimp only
  repeat' first
    | with_reducible assumption
    | with_reducible exact Eff.refl _
    | dsimp only
    | with_reducible apply Eff.after (h0 _ _)
    | with_reducible apply Eff.after (h1 _ _)
    | with_reducible apply Eff.foldl_at Prod.fst
    | intro _
    | split

theorem readByteD_eff {z : State} (x0 : Fin 72) (s : State) (x2 : Nat) (hz : Eff z s) :
    Eff z (readByteD x0 s x2).1 := by
  unfold readByteD
  try dsimp only
  repeat' first
    | with_reducible assumption
    | with_reducible apply devRead_eff

theorem runVzmap_eff {z : State} (x0 : Fin 72) (x1 : Entry) (x2 : OpV) (s : State) (hz : Eff z s) :
    Eff z (runVzmap x0 x1 x2 s).st := by
  unfold runVzmap
  try dsimp only
  repeat' first
    | with_reducible assumption
    | with_reducible exact Eff.refl _
    | dsimp only
    | with_reducible apply ranFault_eff
    | with_reducible apply writeBits_eff
    | with_reducible apply readByteD_eff
    | with_reducible apply storeCells_eff
    | intro _
    | split

theorem runVmset_eff {z : State} (x0 : Fin 72) (x1 : Entry) (x2 : OpV) (s : State) (hz : Eff z s) :
    Eff z (runVmset x0 x1 x2 s).st := by
  unfold runVmset
  try dsimp only
  repeat' first
    | with_reducible assumption
    | with_reducible apply ranOk_eff
    | with_reducible apply setCore_eff


/-! ## Copy -/

theorem ceDone_eff {z : State} (x0 : Fin 72) (s : CopyOut) (x2 : List Nat) (hz : Eff z s.st) :
    Eff z (ceDone x0 s x2).st := by
  unfold ceDone
  try dsimp only
  repeat' first
    | with_reducible assumption
    | with_reducible exact Eff.refl _
    | dsimp only
    | with_reducible apply rmod_eff
    | with_reducible apply ranFault_eff
    | with_reducible apply useBegin_eff
    | with_reducible apply Eff.foldl
    | intro _
    | split

theorem runPair_eff {z : State} (x0 : Fin 72) (x1 : Bool) (x2 : Entry) (s : State) (hz : Eff z s) :
    Eff z (runPair x0 x1 x2 s).st := by
  unfold runPair
  try dsimp only
  repeat' first
    | with_reducible assumption
    | with_reducible apply openTwo_eff
    | with_reducible apply ranFault_eff
    | with_reducible apply ceDone_eff
    | with_reducible apply copyViews_eff
    | split

theorem runCfill_eff {z : State} (x0 : Fin 72) (x1 : Entry) (s : State) (hz : Eff z s) :
    Eff z (runCfill x0 x1 s).st := by
  unfold runCfill
  try dsimp only
  repeat' first
    | with_reducible assumption
    | with_reducible apply openView_eff
    | with_reducible apply ranFault_eff
    | with_reducible apply ceDone_eff
    | with_reducible apply fillView_eff
    | split

theorem runCabout_eff {z : State} (x0 : Fin 72) (x1 : Entry) (s : State) (hz : Eff z s) :
    Eff z (runCabout x0 x1 s).st := by
  unfold runCabout
  try dsimp only
  repeat' first
    | with_reducible assumption
    | with_reducible apply openView_eff
    | with_reducible apply ranFault_eff
    | with_reducible apply ceDone_eff
    | with_reducible apply writeAll_eff
    | split

theorem runCopy_eff {z : State} (x0 : Fin 72) (x1 : Entry) (s : State) (hz : Eff z s) : Eff z (runCopy x0 x1 s).st := by
  unfold runCopy
  try dsimp only
  repeat' first
    | with_reducible assumption
    | with_reducible apply runPair_eff
    | with_reducible apply runCfill_eff
    | with_reducible apply runCabout_eff
    | split


/-! ## Sf -/

theorem countClamps_eff {z : State} (s : State) (x1 : Fin 72) (x2 : Nat) (hz : Eff z s) :
    Eff z (countClamps s x1 x2) := by
  unfold countClamps
  try dsimp only
  repeat' first
    | with_reducible assumption
    | with_reducible apply rmod_eff
    | with_reducible apply Eff.ite

theorem runFfun_eff {z : State} (x0 : Fin 72) (x1 : OpV) (s : State) (hz : Eff z s) : Eff z (runFfun x0 x1 s).st := by
  unfold runFfun
  try dsimp only
  repeat' first
    | with_reducible assumption
    | with_reducible apply countClamps_eff
    | with_reducible apply setCore_eff

theorem runFstat_eff {z : State} (x0 : Fin 72) (x1 : OpV) (s : State) (hz : Eff z s) : Eff z (runFstat x0 x1 s).st := by
  unfold runFstat
  try dsimp only
  repeat' first
    | with_reducible assumption
    | dsimp only
    | with_reducible apply ranFault_eff
    | with_reducible apply countClamps_eff
    | with_reducible apply setCore_eff
    | split

theorem runFstrd_eff {z : State} (x0 : Fin 72) (x1 : OpV) (s : State) (hz : Eff z s) : Eff z (runFstrd x0 x1 s).st := by
  unfold runFstrd
  try dsimp only
  repeat' first
    | with_reducible assumption
    | with_reducible apply ranOk_eff
    | with_reducible apply modCore_eff

theorem runFstclr_eff {z : State} (x0 : Fin 72) (x1 : Entry) (x2 : OpV) (s : State) (hz : Eff z s) :
    Eff z (runFstclr x0 x1 x2 s).st := by
  unfold runFstclr
  try dsimp only
  repeat' first
    | with_reducible assumption
    | with_reducible apply ranOk_eff
    | with_reducible apply modCore_eff

theorem runSf_eff {z : State} (x0 : Fin 72) (x1 : Entry) (x2 : OpV) (s : State) (hz : Eff z s) :
    Eff z (runSf x0 x1 x2 s).st := by
  unfold runSf
  try dsimp only
  repeat' first
    | with_reducible assumption
    | with_reducible apply runFfun_eff
    | with_reducible apply runFstat_eff
    | with_reducible apply runFstrd_eff
    | with_reducible apply runFstclr_eff
    | split


/-! ## Chain -/

theorem runVchld_eff {z : State} (x0 : Fin 72) (x1 : Entry) (x2 : OpV) (s : State) (hz : Eff z s) :
    Eff z (runVchld x0 x1 x2 s).st := by
  unfold runVchld
  try dsimp only
  repeat' first
    | with_reducible assumption
    | with_reducible apply ranFault_eff
    | with_reducible apply modCore_eff
    | with_reducible apply devRead_eff
    | with_reducible apply ranOk_eff
    | split

theorem chainDone_eff {z : State} (x0 : Fin 72) (s : Work) (hz : Eff z s.st) : Eff z (chainDone x0 s).1 := by
  unfold chainDone
  try dsimp only
  repeat' first
    | with_reducible assumption
    | with_reducible apply modCore_eff
    | with_reducible apply countClamps_eff

theorem Work_reads_eff {z : State} (s : Work) (x1 : Fin 72) (x2 : List Place) (hz : Eff z s.st) :
    Eff z (Work.reads s x1 x2).st := by
  unfold Work.reads
  try dsimp only
  repeat' first
    | with_reducible assumption
    | dsimp only
    | with_reducible apply eccRead_eff
    | split

theorem stageStatVal_eff {z : State} (x0 : ChainCtx) (x1 : Words) (x2 : WRow) (s : Work) (hz : Eff z s.st) :
    Eff z (stageStatVal x0 x1 x2 s).1.st := by
  unfold stageStatVal
  try dsimp only
  repeat' first
    | with_reducible assumption
    | dsimp only
    | with_reducible apply Work_reads_eff
    | split

theorem chainReadElem_eff {z : State} (x0 : ChainCtx) (x1 : ETy) (s : Work × List W32) (x3 : Nat) (hz : Eff z s.1.st) :
    Eff z (chainReadElem x0 x1 s x3).1.st := by
  unfold chainReadElem
  try dsimp only
  repeat' first
    | with_reducible assumption
    | dsimp only
    | with_reducible apply devRead_eff
    | split

theorem stageSource_eff {z : State} (x0 : ChainCtx) (x1 : Words) (x2 : WRow) (x3 : W32) (s : Work) (x5 : Nat)
    (hz : Eff z s.st) :
    Eff z (stageSource x0 x1 x2 x3 s x5).1.st := by
  unfold stageSource
  try dsimp only
  repeat' first
    | with_reducible assumption
    | with_reducible exact Eff.refl _
    | dsimp only
    | with_reducible apply Work_reads_eff
    | with_reducible apply chainReadElem_eff
    | with_reducible apply Eff.foldl_at (fun b : Work × _ => b.1.st)
    | intro _
    | split

theorem addFlags_eff {z : State} (x0 : Bool) (x1 : Flags) (s : Work) (hz : Eff z s.st) :
    Eff z (addFlags x0 x1 s).st := by
  unfold addFlags
  try dsimp only
  repeat' first
    | with_reducible assumption
    | split

theorem stageElems_eff {z : State} (x0 : ChainCtx) (x1 : Words) (x2 : Nat) (x3 : Bool) (x4 : List (List W32 × ETy))
    (s : Work) (hz : Eff z s.st) :
    Eff z (stageElems x0 x1 x2 x3 x4 s).1.st := by
  unfold stageElems
  try dsimp only
  repeat' first
    | with_reducible assumption
    | with_reducible exact Eff.refl _
    | dsimp only
    | with_reducible apply Work_reads_eff
    | with_reducible apply setCore_eff
    | with_reducible apply addFlags_eff
    | with_reducible apply Eff.foldl_at (fun b : Work × _ => b.1.st)
    | intro _
    | split

theorem stageStat_eff {z : State} (x0 : ChainCtx) (x1 : Words) (x2 : WRow) (x3 : List W32) (s : Work) (hz : Eff z s.st) :
    Eff z (stageStat x0 x1 x2 x3 s).st := by
  unfold stageStat
  try dsimp only
  repeat' first
    | with_reducible assumption
    | dsimp only
    | with_reducible apply Work_reads_eff
    | with_reducible apply modCore_eff
    | split

theorem chainWrite_eff {z : State} (x0 : ChainCtx) (x1 : ETy) (s : Work) (x3 : Nat) (x4 : W32) (hz : Eff z s.st) :
    Eff z (chainWrite x0 x1 s x3 x4).st := by
  unfold chainWrite
  try dsimp only
  repeat' first
    | with_reducible assumption
    | dsimp only
    | with_reducible apply devWrite_eff
    | split

theorem stageHold_eff {z : State} (x0 : ChainCtx) (x1 : Words) (x2 : WRow) (x3 : List W32) (s : Work) (hz : Eff z s.st) :
    Eff z (stageHold x0 x1 x2 x3 s).st := by
  unfold stageHold
  try dsimp only
  repeat' first
    | with_reducible assumption
    | with_reducible exact Eff.refl _
    | with_reducible apply chainWrite_eff
    | with_reducible apply Eff.foldl_at (fun b : Work => b.st)
    | intro _

theorem stageStore_eff {z : State} (x0 : ChainCtx) (x1 : Words) (x2 : WRow) (x3 : List W32) (s : Work) (hz : Eff z s.st) :
    Eff z (stageStore x0 x1 x2 x3 s).st := by
  unfold stageStore
  try dsimp only
  repeat' first
    | with_reducible assumption
    | with_reducible exact Eff.refl _
    | dsimp only
    | with_reducible apply chainWrite_eff
    | with_reducible apply Eff.foldl_at (fun b : Work => b.st)
    | intro _
    | rw [State.mk_others]
    | with_reducible apply Eff.others
    | split

theorem stageStab_eff {z : State} (x0 : ChainCtx) (x1 : WRow) (x2 : List W32) (s : Work) (hz : Eff z s.st) :
    Eff z (stageStab x0 x1 x2 s).st := by
  unfold stageStab
  try dsimp only
  repeat' first
    | with_reducible assumption
    | with_reducible apply modCore_eff

theorem stageZmap_eff {z : State} (x0 : ChainCtx) (x1 : Words) (x2 : Nat) (x3 : WRow) (x4 : List W32) (x5 : ETy)
    (s : Work) (hz : Eff z s.st) :
    Eff z (stageZmap x0 x1 x2 x3 x4 x5 s).st := by
  unfold stageZmap
  try dsimp only
  repeat' first
    | with_reducible assumption
    | with_reducible exact Eff.refl _
    | dsimp only
    | with_reducible apply modCore_eff
    | with_reducible apply writeBits_eff
    | with_reducible apply readByteD_eff
    | with_reducible apply devWrite_eff
    | intro _
    | split

theorem stageRow_eff {z : State} (x0 : ChainCtx) (x1 : Nat) (x2 : Words) (x3 : WRow) (s : Work) (hz : Eff z s.st) :
    Eff z (stageRow x0 x1 x2 x3 s).1.st := by
  unfold stageRow
  try dsimp only
  repeat' first
    | with_reducible assumption
    | with_reducible exact Eff.refl _
    | dsimp only
    | with_reducible apply stageStatVal_eff
    | with_reducible apply stageSource_eff
    | with_reducible apply stageElems_eff
    | with_reducible apply stageStat_eff
    | with_reducible apply stageHold_eff
    | with_reducible apply stageStore_eff
    | with_reducible apply stageStab_eff
    | with_reducible apply stageZmap_eff
    | with_reducible apply Eff.foldl_at (fun b : Work × _ => b.1.st)
    | intro _
    | split

theorem stageGroup_eff {z : State} (x0 : ChainCtx) (x1 : Nat) (x2 : Words) (x3 : Bool) (s : Work × List WRow)
    (hz : Eff z s.1.st) :
    Eff z (stageGroup x0 x1 x2 x3 s).1.st := by
  unfold stageGroup
  try dsimp only
  repeat' first
    | with_reducible assumption
    | with_reducible exact Eff.refl _
    | dsimp only
    | with_reducible apply stageRow_eff
    | with_reducible apply Eff.foldl_at (fun b : Work × _ => b.1.st)
    | intro _
    | split

theorem runStages_eff {z : State} (x0 : ChainCtx) (x1 : Nat) (x2 : Nat) (x3 : Bool) (s : Work × List WRow)
    (hz : Eff z s.1.st) :
    Eff z (runStages x0 x1 x2 x3 s).1.st := by
  unfold runStages
  try dsimp only
  repeat' first
    | with_reducible assumption
    | with_reducible exact Eff.refl _
    | with_reducible apply stageGroup_eff
    | with_reducible apply Eff.foldl_at (fun b : Work × _ => b.1.st)
    | intro _

theorem heldTile_eff {z : State} (x0 : ChainCtx) (x1 : WRow) (s : Work × List WRow) (x3 : Nat) (hz : Eff z s.1.st) :
    Eff z (heldTile x0 x1 s x3).1.st := by
  unfold heldTile
  try dsimp only
  repeat' first
    | with_reducible assumption
    | with_reducible exact Eff.refl _
    | with_reducible apply chainReadElem_eff
    | with_reducible apply Eff.foldl_at (fun b : Work × _ => b.1.st)
    | intro _

theorem finishRow_eff {z : State} (x0 : ChainCtx) (x1 : Nat) (s : Work) (x3 : WRow) (hz : Eff z s.st) :
    Eff z (finishRow x0 x1 s x3).st := by
  unfold finishRow
  try dsimp only
  repeat' first
    | with_reducible assumption
    | with_reducible exact Eff.refl _
    | with_reducible apply heldTile_eff
    | with_reducible apply runStages_eff
    | with_reducible apply Eff.foldl_at (fun b : Work => b.st)
    | with_reducible apply Eff.foldl_at (fun b : Work × _ => b.1.st)
    | intro _
    | split

theorem epilogueGroup_eff {z : State} (x0 : ChainCtx) (x1 : List WRow) (s : State) (hz : Eff z s) :
    Eff z (epilogueGroup x0 x1 s).st := by
  unfold epilogueGroup
  try dsimp only
  repeat' first
    | with_reducible assumption
    | with_reducible exact Eff.refl _
    | with_reducible apply runStages_eff
    | with_reducible apply finishRow_eff
    | with_reducible apply Eff.foldl_at (fun b : Work => b.st)
    | intro _
    | split

theorem prologueGroup_eff {z : State} (x0 : ChainCtx) (x1 : List WRow) (s : Work) (hz : Eff z s.st) :
    Eff z (prologueGroup x0 x1 s).1.st := by
  unfold prologueGroup
  try dsimp only
  repeat' first
    | with_reducible assumption
    | with_reducible apply runStages_eff

end Sys2Proof.Machine
end

