-- ==== Sys2Proof/Laws/EffEngine.lean ====
section
/-!
SUPPORT. Sys2Proof/Laws/EffEngine.lean: what each operation of Matrix.lean, Sparse.lean, Engine.lean, Vitrine.lean, Power.lean, CoreEvents.lean keeps (`Eff`), one lemma each.
-/
namespace Sys2Proof.Machine

/-! ## Matrix -/

theorem loadSet_eff {z : State} (x0 : Fin 72) (x1 : ETy) (x2 : BitVec 4) (x3 : Bool) (x4 : Nat) (x5 : Nat)
    (x6 : Nat) (s : State) (hz : Eff z s) :
    Eff z (loadSet x0 x1 x2 x3 x4 x5 x6 s).1 := by
  unfold loadSet
  try dsimp only
  repeat' first
    | with_reducible assumption
    | dsimp only
    | with_reducible apply devRead_eff
    | with_reducible apply Eff.ite1
    | split

theorem spoilShadow_eff {z : State} (s : State) (x1 : Fin 72) (hz : Eff z s) : Eff z (spoilShadow s x1) := by
  unfold spoilShadow
  try dsimp only
  repeat' first
    | with_reducible assumption
    | with_reducible apply modCore_eff

theorem putShadow_eff {z : State} (s : State) (x1 : Fin 72) (x2 : MatSet) (hz : Eff z s) :
    Eff z (putShadow s x1 x2) := by
  unfold putShadow
  try dsimp only
  repeat' first
    | with_reducible assumption
    | with_reducible apply modCore_eff

theorem runMloads_eff {z : State} (x0 : Fin 72) (x1 : Entry) (x2 : OpM) (s : State) (hz : Eff z s) :
    Eff z (runMloads x0 x1 x2 s).st := by
  unfold runMloads
  try dsimp only
  repeat' first
    | with_reducible assumption
    | with_reducible apply loadSet_eff
    | with_reducible apply ranFault_eff
    | with_reducible apply spoilShadow_eff
    | with_reducible apply ranOk_eff
    | with_reducible apply putShadow_eff
    | split

theorem runMswap_eff {z : State} (x0 : Fin 72) (s : State) (hz : Eff z s) : Eff z (runMswap x0 s).st := by
  unfold runMswap
  try dsimp only
  repeat' first
    | with_reducible assumption
    | with_reducible apply ranOk_eff
    | with_reducible apply modCore_eff

theorem startBand_eff {z : State} (x0 : ProdCtx) (x1 : ChainProg) (s : State) (hz : Eff z s) :
    Eff z (startBand x0 x1 s) := by
  unfold startBand
  try dsimp only
  repeat' first
    | with_reducible assumption
    | with_reducible apply modCore_eff

theorem Prod_wk_eff {z : State} (s : Machine.Prod) (hz : Eff z s.wk.st) : Eff z (Prod.wk s).st := by
  unfold Prod.wk
  try dsimp only
  repeat' first
    | with_reducible assumption

theorem endGap_eff {z : State} (x0 : Fin 72) (s : State) (hz : Eff z s) : Eff z (endGap x0 s) := by
  unfold endGap
  try dsimp only
  repeat' first
    | with_reducible assumption
    | with_reducible apply rmod_eff
    | with_reducible apply modCore_eff
    | rw [State.mk_others]
    | with_reducible apply Eff.others

theorem spillRows_eff {z : State} (x0 : ProdCtx) (x1 : Machine.Prod) (s : State) (hz : Eff z s) :
    Eff z (spillRows x0 x1 s) := by
  unfold spillRows
  try dsimp only
  repeat' first
    | with_reducible assumption
    | with_reducible exact Eff.refl _
    | with_reducible apply epilogueGroup_eff
    | with_reducible apply modCore_eff
    | with_reducible apply Eff.ite
    | with_reducible apply Eff.foldl_at (fun b : Work => b.st)
    | intro _
    | rw [State.mk_others]
    | with_reducible apply Eff.others
    | split

theorem finishProduct_eff {z : State} (x0 : ProdCtx) (x1 : Entry) (s : Machine.Prod) (hz : Eff z s.wk.st) :
    Eff z (finishProduct x0 x1 s).st := by
  unfold finishProduct
  try dsimp only
  repeat' first
    | with_reducible assumption
    | dsimp only
    | with_reducible apply chainDone_eff
    | with_reducible apply endGap_eff
    | with_reducible apply ranFault_eff
    | with_reducible apply spillRows_eff
    | with_reducible apply modCore_eff
    | with_reducible apply Eff.ite
    | split

theorem Prod_reads_eff {z : State} (s : Machine.Prod) (x1 : Fin 72) (x2 : List Place) (hz : Eff z s.wk.st) :
    Eff z (Prod.reads s x1 x2).wk.st := by
  unfold Prod.reads
  try dsimp only
  repeat' first
    | with_reducible assumption
    | with_reducible apply Work_reads_eff

theorem Prod_fail_eff {z : State} (s : Machine.Prod) (x1 : Flt) (hz : Eff z s.wk.st) :
    Eff z (Prod.fail s x1).wk.st := by
  unfold Prod.fail
  try dsimp only
  repeat' first
    | with_reducible assumption

theorem readMarks_eff {z : State} (x : ProdCtx) (r : Nat) (s : Machine.Prod) (hz : Eff z s.wk.st) : Eff z (readMarks x r s).wk.st := by
  unfold readMarks
  extract_lets lo len a q
  exact Eff.ite_at (fun b : Machine.Prod => b.wk.st) hz (devRead_eff _ _ _ _ hz)

theorem loadEntry_eff {z : State} (x : ProdCtx) (i : Nat) (p : Bool) (s : Machine.Prod) (hz : Eff z s.wk.st) :
    Eff z (loadEntry x i p s).wk.st := by
  unfold loadEntry
  extract_lets w r
  have hr : Eff z r.1 := loadSet_eff _ _ _ _ _ _ _ _ hz
  cases r.2 with
  | error f => exact spoilShadow_eff _ _ hr
  | ok t => exact putShadow_eff _ _ _ hr

theorem entryStart_eff {z : State} (x : ProdCtx) (i : Nat) (s : Machine.Prod) (hz : Eff z s.wk.st) :
    Eff z (entryStart x i s).wk.st := by
  unfold entryStart
  extract_lets m pr1
  have h1 : Eff z pr1.wk.st :=
    Prod_reads_eff _ _ _ (Eff.ite_at (fun b : Machine.Prod => b.wk.st) hz (loadEntry_eff _ _ _ _ hz))
  clear_value pr1
  split
  · cases pr1.wk.err with
    | some _ => exact h1
    | none => exact modCore_eff _ _ _ h1
  · cases setUseFlt x m.stat with
    | some f => exact hz
    | none => exact Prod_reads_eff _ _ _ hz
  · exact Eff.ite_at (fun b : Machine.Prod => b.wk.st) (Prod_reads_eff _ _ _ hz) hz

theorem emitRow_eff {z : State} (x : ProdCtx) (tag : Nat) (real : Bool) (xs : List W32) (s : Machine.Prod) (hz : Eff z s.wk.st) :
    Eff z (emitRow x tag real xs s).wk.st := by
  unfold emitRow
  extract_lets r pr c ab y
  have h1 : Eff z pr.wk.st := Eff.ite_at (fun b : Machine.Prod => b.wk.st) (Prod_reads_eff _ _ _ hz) hz
  clear_value pr
  cases pr.wk.err with
  | some _ => exact h1
  | none => exact h1

theorem fetchRow_eff {z : State} (x : ProdCtx) (r : Nat) (s : Machine.Prod) (hz : Eff z s.wk.st) :
    Eff z (fetchRow x r s).1.wk.st := by
  unfold fetchRow
  extract_lets a q
  exact Eff.ite_at (fun b : Machine.Prod × List W32 => b.1.wk.st) hz (devRead_eff _ _ _ _ hz)

theorem proGroup_eff {z : State} (x : ProdCtx) (g : ChainProg) (plan : List RowPlan) (r : Nat) (s : Machine.Prod) (hz : Eff z s.wk.st) :
    Eff z (proGroup x g plan r s).wk.st := by
  unfold proGroup
  extract_lets lo e mine fetched cx out
  have h1 : Eff z fetched.1.wk.st := by
    apply Eff.foldl_at (fun b : Machine.Prod × List WRow => b.1.wk.st) _ hz
    intro b a
    dsimp only
    cases b.1.wk.err with
    | some _ => exact Eff.refl _
    | none => exact fetchRow_eff _ _ _ (Eff.refl _)
  have h2 : Eff z out.1.st := prologueGroup_eff _ _ _ h1
  clear_value fetched out
  cases fetched.1.wk.err with
  | some _ => exact h1
  | none => exact h2

theorem proRow_eff {z : State} (x : ProdCtx) (g : ChainProg) (plan : List RowPlan) (tag r : Nat) (s : Machine.Prod) (hz : Eff z s.wk.st) :
    Eff z (proRow x g plan tag r s).wk.st := by
  unfold proRow
  extract_lets pr
  have h1 : Eff z pr.wk.st := Eff.ite_at (fun b : Machine.Prod => b.wk.st) hz (proGroup_eff _ _ _ _ _ hz)
  clear_value pr
  cases pr.wk.err with
  | some _ => exact h1
  | none => exact emitRow_eff _ _ _ _ _ h1

theorem plainRow_eff {z : State} (x : ProdCtx) (tag r : Nat) (s : Machine.Prod) (hz : Eff z s.wk.st) :
    Eff z (plainRow x tag r s).wk.st := by
  have h1 : Eff z (fetchRow x r s).1.wk.st := fetchRow_eff _ _ _ hz
  unfold plainRow
  apply Eff.ite_at (fun b : Machine.Prod => b.wk.st)
  · apply emitRow_eff
    dsimp only
    exact rmod_eff _ _ _ _ _ hz
  · dsimp only
    generalize fetchRow x r s = f at h1
    cases f.1.wk.err with
    | some _ => exact h1
    | none => exact emitRow_eff _ _ _ _ _ h1

theorem rowStep_eff {z : State} (x : ProdCtx) (plan : List RowPlan) (s : Machine.Prod) (q : RowPlan × Nat) (hz : Eff z s.wk.st) :
    Eff z (rowStep x plan s q).wk.st := by
  unfold rowStep
  extract_lets pr0 pr1
  have h0 : Eff z pr0.wk.st := Eff.ite_at (fun b : Machine.Prod => b.wk.st) (readMarks_eff _ _ _ hz) hz
  have h1 : Eff z pr1.wk.st := by
    unfold pr1
    cases q.1.entry with
    | some i => exact entryStart_eff _ _ _ h0
    | none => exact h0
  clear_value pr0 pr1
  cases pr0.wk.err with
  | some _ => exact h0
  | none =>
    cases pr1.wk.err with
    | some _ => exact h1
    | none =>
      apply Eff.ite_at (fun b : Machine.Prod => b.wk.st)
      · exact emitRow_eff _ _ _ _ _ h1
      · cases x.chain with
        | some g => exact Eff.ite_at (fun b : Machine.Prod => b.wk.st) (proRow_eff _ _ _ _ _ _ h1) (plainRow_eff _ _ _ _ h1)
        | none => exact plainRow_eff _ _ _ _ h1

theorem streamRows_eff {z : State} (x0 : ProdCtx) (x1 : List RowPlan) (s : Machine.Prod) (hz : Eff z s.wk.st) :
    Eff z (streamRows x0 x1 s).wk.st := by
  unfold streamRows
  try dsimp only
  repeat' first
    | with_reducible assumption
    | with_reducible exact Eff.refl _
    | with_reducible apply rowStep_eff
    | with_reducible apply Eff.foldl_at (fun b : Machine.Prod => b.wk.st)
    | intro _

theorem preloadNext_eff {z : State} (x : ProdCtx) (s : Machine.Prod) (hz : Eff z s.wk.st) : Eff z (preloadNext x s).wk.st := by
  unfold preloadNext
  extract_lets m rest k pr1
  have h1 : Eff z pr1.wk.st := Prod_reads_eff _ _ _ hz
  clear_value pr1
  split
  · exact Eff.ite_at (fun b : Machine.Prod => b.wk.st) h1 (loadEntry_eff _ _ _ _ h1)
  · exact h1

theorem setMat_eff {z : State} (s : State) (x1 : Fin 72) (x2 : MatState) (hz : Eff z s) : Eff z (setMat s x1 x2) := by
  unfold setMat
  try dsimp only
  repeat' first
    | with_reducible assumption
    | with_reducible apply modCore_eff

theorem segProduct_eff {z : State} (x : ProdCtx) (s : Machine.Prod) (hz : Eff z s.wk.st) : Eff z (segProduct x s).wk.st := by
  unfold segProduct
  extract_lets m span pr0
  have h0 : Eff z pr0.wk.st := Prod_reads_eff _ _ _ hz
  clear_value pr0
  split
  · exact h0
  · exact h0
  · rename_i k _ _
    extract_lets pr1 m1
    have h1 : Eff z pr1.wk.st := streamRows_eff _ _ _ h0
    clear_value pr1
    cases pr1.wk.err with
    | some _ => exact h1
    | none => exact preloadNext_eff _ _ (setMat_eff _ _ _ h1)

theorem plainProduct_eff {z : State} (x : ProdCtx) (s : Machine.Prod) (hz : Eff z s.wk.st) : Eff z (plainProduct x s).wk.st := by
  unfold plainProduct
  cases setUseFlt x (s.wk.st.core x.p).mat.stat with
  | some f => exact hz
  | none =>
    dsimp only
    have h1 : Eff z (s.reads x.p (setPlaces x false)).wk.st := Prod_reads_eff _ _ _ hz
    generalize s.reads x.p (setPlaces x false) = pr1 at h1
    cases pr1.wk.err with
    | some _ => exact h1
    | none => exact streamRows_eff _ _ _ h1

theorem runMprod_eff {z : State} (x0 : Fin 72) (x1 : Entry) (x2 : OpM) (s : State) (hz : Eff z s) :
    Eff z (runMprod x0 x1 x2 s).st := by
  unfold runMprod
  try dsimp only
  repeat' first
    | with_reducible assumption
    | dsimp only
    | with_reducible apply ranFault_eff
    | with_reducible apply startBand_eff
    | with_reducible apply finishProduct_eff
    | with_reducible apply segProduct_eff
    | with_reducible apply plainProduct_eff
    | split

theorem runMsegt_eff {z : State} (x0 : Fin 72) (x1 : Entry) (s : State) (hz : Eff z s) :
    Eff z (runMsegt x0 x1 s).st := by
  unfold runMsegt
  try dsimp only
  repeat' first
    | with_reducible assumption
    | with_reducible apply ranFault_eff
    | with_reducible apply devRead_eff
    | with_reducible apply setMat_eff
    | with_reducible apply ranOk_eff
    | with_reducible apply modCore_eff
    | split

theorem runMcsum_eff {z : State} (x0 : Fin 72) (x1 : OpM) (s : State) (hz : Eff z s) : Eff z (runMcsum x0 x1 s).st := by
  unfold runMcsum
  try dsimp only
  repeat' first
    | with_reducible assumption
    | with_reducible apply ranOk_eff
    | with_reducible apply modCore_eff
    | with_reducible apply ranFault_eff
    | split

theorem runMabclr_eff {z : State} (x0 : Fin 72) (x1 : Entry) (x2 : OpM) (s : State) (hz : Eff z s) :
    Eff z (runMabclr x0 x1 x2 s).st := by
  unfold runMabclr
  try dsimp only
  repeat' first
    | with_reducible assumption
    | with_reducible apply ranOk_eff
    | with_reducible apply modCore_eff

theorem runMatrix_eff {z : State} (x0 : Fin 72) (x1 : Entry) (x2 : OpM) (s : State) (hz : Eff z s) :
    Eff z (runMatrix x0 x1 x2 s).st := by
  unfold runMatrix
  try dsimp only
  repeat' first
    | with_reducible assumption
    | with_reducible apply runMloads_eff
    | with_reducible apply runMswap_eff
    | with_reducible apply runMprod_eff
    | with_reducible apply runMsegt_eff
    | with_reducible apply runMcsum_eff
    | with_reducible apply runMabclr_eff
    | split

theorem execPronkGate_eff {z : State} (x0 : Fin 72) (s : State) (hz : Eff z s) : EffR z (execPronkGate x0 s) := by
  unfold execPronkGate
  try dsimp only
  repeat' first
    | with_reducible assumption
    | with_reducible apply modCore_eff
    | with_reducible apply rmod_eff
    | with_reducible apply EffR.ite
    | with_reducible apply EffR.next

theorem execPronkRampDown_eff {z : State} (x0 : Fin 72) (s : State) (hz : Eff z s) :
    EffR z (execPronkRampDown x0 s) := by
  unfold execPronkRampDown
  try dsimp only
  repeat' first
    | with_reducible assumption
    | with_reducible apply modCore_eff
    | with_reducible apply rmod_eff
    | with_reducible apply EffR.ite
    | with_reducible apply EffR.next


/-! ## Sparse -/

theorem csrArray_eff {z : State} (x0 : Fin 72) (s : State × Option Flt) (x2 : Nat) (x3 : Nat) (hz : Eff z s.1) :
    Eff z (csrArray x0 s x2 x3).1.1 := by
  unfold csrArray
  try dsimp only
  repeat' first
    | with_reducible assumption
    | dsimp only
    | with_reducible apply devRead_eff
    | split

theorem viewErr_eff {z : State} (x0 : Fin 72) (x1 : Nat) (x2 : View) (s : State × Option Flt) (x4 : List Nat)
    (hz : Eff z s.1) :
    Eff z (viewErr x0 x1 x2 s x4).1 := by
  unfold viewErr
  try dsimp only
  repeat' first
    | with_reducible assumption
    | with_reducible exact Eff.refl _
    | with_reducible apply csrArray_eff
    | with_reducible apply Eff.foldl_at Prod.fst
    | intro _
    | split

theorem csrAccRead_eff {z : State} (x0 : Fin 72) (x1 : CsrIn) (x2 : View) (x3 : Nat) (x4 : List Nat) (s : CsrRun)
    (hz : Eff z s.1) :
    Eff z (csrAccRead x0 x1 x2 x3 x4 s).1 := by
  unfold csrAccRead
  try dsimp only
  repeat' first
    | with_reducible assumption
    | dsimp only
    | with_reducible apply viewErr_eff
    | split

theorem csrTake_eff {z : State} (x0 : Fin 72) (x1 : CsrIn) (x2 : View) (x3 : Nat) (s : CsrRun) (x5 : Nat)
    (hz : Eff z s.1) :
    Eff z (csrTake x0 x1 x2 x3 s x5).1 := by
  unfold csrTake
  try dsimp only
  repeat' first
    | with_reducible assumption
    | dsimp only
    | with_reducible apply csrArray_eff
    | with_reducible apply viewErr_eff
    | with_reducible apply Eff.ite1
    | split

theorem csrStep_eff {z : State} (x0 : Fin 72) (x1 : CsrIn) (x2 : View) (x3 : View) (s : CsrRun) (x5 : Nat)
    (hz : Eff z s.1) :
    Eff z (csrStep x0 x1 x2 x3 s x5).1 := by
  unfold csrStep
  try dsimp only
  repeat' first
    | with_reducible assumption
    | with_reducible exact Eff.refl _
    | with_reducible apply csrAccRead_eff
    | with_reducible apply csrTake_eff
    | with_reducible apply Eff.foldl_at Prod.fst
    | intro _

theorem csrReads_eff {z : State} (x0 : Fin 72) (x1 : CsrIn) (x2 : View) (x3 : View) (s : State) (hz : Eff z s) :
    Eff z (csrReads x0 x1 x2 x3 s).1 := by
  unfold csrReads
  try dsimp only
  repeat' first
    | with_reducible assumption
    | with_reducible exact Eff.refl _
    | with_reducible apply csrStep_eff
    | with_reducible apply csrAccRead_eff
    | with_reducible apply Eff.foldl_at Prod.fst
    | intro _

theorem csrFinish_eff {z : State} (x0 : Fin 72) (x1 : CsrIn) (x2 : View) (x3 : View) (s : State) (hz : Eff z s) :
    Eff z (csrFinish x0 x1 x2 x3 s).st := by
  unfold csrFinish
  try dsimp only
  repeat' first
    | with_reducible assumption
    | dsimp only
    | with_reducible apply storeCells_eff
    | with_reducible apply ranFault_eff
    | with_reducible apply useBegin_eff
    | rw [State.mk_others]
    | with_reducible apply Eff.others
    | split

theorem csrWalk_eff {z : State} (x0 : Fin 72) (x1 : Bool) (x2 : CsrHdr) (x3 : View) (x4 : View) (s : State)
    (hz : Eff z s) :
    Eff z (csrWalk x0 x1 x2 x3 x4 s).st := by
  unfold csrWalk
  try dsimp only
  repeat' first
    | with_reducible assumption
    | with_reducible apply csrArray_eff
    | with_reducible apply ranFault_eff
    | with_reducible apply csrReads_eff
    | with_reducible apply storeCells_eff
    | with_reducible apply csrFinish_eff
    | rw [State.mk_others]
    | with_reducible apply Eff.others
    | split

theorem runVcsr_eff {z : State} (x0 : Fin 72) (x1 : Entry) (x2 : OpD) (s : State) (hz : Eff z s) :
    Eff z (runVcsr x0 x1 x2 s).st := by
  unfold runVcsr
  try dsimp only
  repeat' first
    | with_reducible assumption
    | with_reducible apply ranFault_eff
    | with_reducible apply devRead_eff
    | with_reducible apply openTwo_eff
    | with_reducible apply csrWalk_eff
    | split


/-! ## Engine -/

theorem runEntry_eff {z : State} (x0 : Fin 72) (x1 : Entry) (s : State) (hz : Eff z s) :
    Eff z (runEntry x0 x1 s).st := by
  unfold runEntry
  try dsimp only
  repeat' first
    | with_reducible assumption
    | with_reducible apply runVcsr_eff
    | with_reducible apply runVchld_eff
    | with_reducible apply runVld_eff
    | with_reducible apply runVst_eff
    | with_reducible apply runVldw_eff
    | with_reducible apply runVldab_eff
    | with_reducible apply runVstab_eff
    | with_reducible apply runVperm_eff
    | with_reducible apply runVslide_eff
    | with_reducible apply runVbcast_eff
    | with_reducible apply runVred_eff
    | with_reducible apply runVscan_eff
    | with_reducible apply runVseq_eff
    | with_reducible apply runVlut_eff
    | with_reducible apply runTwr_eff
    | with_reducible apply runTswap_eff
    | with_reducible apply runVzmap_eff
    | with_reducible apply runVmset_eff
    | with_reducible apply runScalar_eff
    | with_reducible apply runMatrix_eff
    | with_reducible apply runSf_eff
    | with_reducible apply runVector_eff
    | with_reducible apply runCollPort_eff
    | with_reducible apply runCopy_eff
    | with_reducible apply ranOk_eff
    | split

theorem startEntry_eff {z : State} (p : Fin 72) (g : Engine) (e : Entry) (rest : List Entry) (b s : State) (hb : Eff z b) (hz : Eff z s) :
    Eff z (startEntry p g e rest b s) := by
  unfold startEntry
  extract_lets r
  have hr : Eff z r.st := runEntry_eff _ _ _ hz
  clear_value r
  apply Eff.ite (modCore_eff _ _ _ hb)
  split
  · exact coreFault_eff _ _ _ _ _ _ hr
  · exact modCore_eff _ _ _ hr

theorem startHead_eff {z : State} (x0 : Fin 72) (x1 : Engine) (s : State) (hz : Eff z s) :
    Eff z (startHead x0 x1 s) := by
  unfold startHead
  try dsimp only
  repeat' first
    | with_reducible assumption
    | with_reducible apply eccRead_eff
    | with_reducible apply modCore_eff
    | with_reducible apply coreFault_eff
    | with_reducible apply startEntry_eff
    | split

theorem pumpCore_eff {z : State} (x0 : Fin 72) (x1 : Nat) (s : State) (hz : Eff z s) : Eff z (pumpCore x0 x1 s) := by
  induction x1 generalizing s with
  | zero =>
    unfold pumpCore
    try dsimp only
    repeat' first
      | with_reducible assumption
  | succ n ih =>
    unfold pumpCore
    try dsimp only
    repeat' first
      | with_reducible assumption
      | with_reducible apply ih
      | with_reducible apply startHead_eff
      | split

theorem pumpQueues_eff {z : State} (x0 : Fin 72) (s : State) (hz : Eff z s) : Eff z (pumpQueues x0 s) := by
  unfold pumpQueues
  try dsimp only
  repeat' first
    | with_reducible assumption
    | with_reducible apply pumpCore_eff

theorem issueEntry_eff {z : State} (x0 : CoreOp) (x1 : Args) (x2 : Ctl) (x3 : Engine) (s : State) (hz : Eff z s) :
    Eff z (issueEntry x0 x1 x2 x3 s) := by
  unfold issueEntry
  try dsimp only
  repeat' first
    | with_reducible assumption
    | with_reducible apply pumpQueues_eff
    | with_reducible apply advance_eff
    | with_reducible apply modCore_eff
    | with_reducible apply frontFault_eff
    | with_reducible apply Eff.ite

theorem issueNow_eff {z : State} (x0 : CoreOp) (x1 : Args) (x2 : Ctl) (s : State) (hz : Eff z s) :
    Eff z (issueNow x0 x1 x2 s) := by
  unfold issueNow
  try dsimp only
  repeat' first
    | with_reducible assumption
    | with_reducible exact Eff.refl _
    | with_reducible apply frontFault_eff
    | with_reducible apply withPlaces_eff
    | with_reducible apply issueEntry_eff
    | intro _
    | split

theorem issue_eff {z : State} (x0 : CoreOp) (x1 : Args) (x2 : Ctl) (s : State) (hz : Eff z s) :
    EffR z (issue x0 x1 x2 s) := by
  unfold issue
  try dsimp only
  repeat' first
    | with_reducible assumption
    | with_reducible exact Eff.refl _
    | with_reducible apply answer_eff
    | with_reducible apply withLine_eff
    | with_reducible apply modCore_eff
    | with_reducible apply issueNow_eff
    | with_reducible apply EffR.ite
    | with_reducible apply EffR.next
    | intro _

theorem execWaitTimeout_eff {z : State} (x0 : Fin 72) (x1 : Engine) (s : State) (hz : Eff z s) :
    EffR z (execWaitTimeout x0 x1 s) := by
  unfold execWaitTimeout
  try dsimp only
  repeat' first
    | with_reducible assumption
    | with_reducible apply answer_eff
    | with_reducible apply coreFault_eff
    | with_reducible apply Eff.ite
    | split

theorem execInstructionComplete_eff {z : State} (x0 : Fin 72) (x1 : Engine) (s : State) (hz : Eff z s) :
    EffR z (execInstructionComplete x0 x1 s) := by
  unfold execInstructionComplete
  try dsimp only
  repeat' first
    | with_reducible assumption
    | with_reducible apply answer_eff
    | with_reducible apply usesEnd_eff
    | with_reducible apply rset_eff
    | with_reducible apply pumpQueues_eff
    | with_reducible apply modCore_eff
    | with_reducible apply Eff.ite
    | split

theorem execInstructionRelease_eff {z : State} (x0 : Fin 72) (x1 : Engine) (s : State) (hz : Eff z s) :
    EffR z (execInstructionRelease x0 x1 s) := by
  unfold execInstructionRelease
  try dsimp only
  repeat' first
    | with_reducible assumption
    | with_reducible apply answer_eff
    | with_reducible apply pumpQueues_eff
    | with_reducible apply modCore_eff
    | with_reducible apply Eff.ite
    | split

theorem execWaitSatisfied_eff {z : State} (x0 : Fin 72) (x1 : Engine) (s : State) (hz : Eff z s) :
    EffR z (execWaitSatisfied x0 x1 s) := by
  unfold execWaitSatisfied
  try dsimp only
  repeat' first
    | with_reducible assumption
    | with_reducible apply answer_eff
    | with_reducible apply l1Barrier_eff
    | with_reducible apply pumpQueues_eff
    | with_reducible apply modCore_eff
    | with_reducible apply Eff.ite
    | split

theorem execChainGroup_eff {z : State} (x0 : Fin 72) (s : State) (hz : Eff z s) : EffR z (execChainGroup x0 s) := by
  unfold execChainGroup
  try dsimp only
  repeat' first
    | with_reducible assumption
    | with_reducible apply answer_eff
    | with_reducible apply chainDone_eff
    | with_reducible apply epilogueGroup_eff
    | with_reducible apply coreFault_eff
    | with_reducible apply pumpQueues_eff
    | with_reducible apply modCore_eff
    | split


/-! ## Vitrine -/

theorem zeroKeys_eff {z : State} (s : State) (f : Nat → Bool) (hz : Eff z s) : Eff z (zeroKeys s f) :=
  hz.trans ⟨rfl, fun h => smapWf_filter _ h, id, CurEff.refl _⟩

theorem zeroGallery_eff {z : State} (s : State) (x1 : Nat) (hz : Eff z s) : Eff z (zeroGallery s x1) := by
  unfold zeroGallery
  try dsimp only
  repeat' first
    | with_reducible assumption
    | with_reducible apply zeroKeys_eff

theorem zeroBank_eff {z : State} (s : State) (x1 : Nat) (hz : Eff z s) : Eff z (zeroBank s x1) := by
  unfold zeroBank
  try dsimp only
  repeat' first
    | with_reducible assumption
    | with_reducible apply zeroKeys_eff
    | split

theorem resetOwners_eff {z : State} (s : State) (hz : Eff z s) : Eff z (resetOwners s) := by
  unfold resetOwners
  try dsimp only
  repeat' first
    | with_reducible assumption
    | with_reducible exact Eff.refl _
    | with_reducible apply zeroBank_eff
    | with_reducible apply rmod_eff
    | with_reducible apply Eff.foldl
    | intro _

theorem handoverWrite_eff {z : State} (s : State) (x1 : Sys2Proof.Writer) (x2 : Nat) (x3 : W64) (hz : Eff z s) :
    Eff z (handoverWrite s x1 x2 x3) := by
  unfold handoverWrite
  try dsimp only
  repeat' first
    | with_reducible assumption
    | with_reducible apply rmod_eff
    | with_reducible apply zeroBank_eff
    | with_reducible apply Eff.ite

theorem swizzleSet_eff {z : State} (s : State) (x1 : Nat) (x2 : W64) (hz : Eff z s) : Eff z (swizzleSet s x1 x2) := by
  unfold swizzleSet
  try dsimp only
  repeat' first
    | with_reducible assumption
    | with_reducible apply rset_eff
    | with_reducible apply rmod_eff
    | with_reducible apply Eff.ite

theorem scrubWord_eff {z : State} (s : State) (w : Nat) (hz : Eff z s) : Eff z (scrubWord s w) := by
  unfold scrubWord
  refine Eff.elim hz (fun g => ?_) _
  split
  · exact Eff.elim hz (fun n => wordRead_eff _ _ _ _ hz) _
  · exact hz

theorem execPatrolScrub_eff {z : State} (s : State) (hz : Eff z s) : EffR z (execPatrolScrub s) := by
  unfold execPatrolScrub
  try dsimp only
  repeat' first
    | with_reducible assumption
    | with_reducible exact Eff.refl _
    | with_reducible apply answer_eff
    | with_reducible apply scrubWord_eff
    | with_reducible apply Eff.ite
    | with_reducible apply Eff.foldl
    | intro _


/-! ## Power -/

theorem newNonce_eff {z : State} (s : State) (hz : Eff z s) : Eff z (newNonce s) := by
  unfold newNonce
  try dsimp only
  repeat' first
    | with_reducible assumption
    | rw [State.mk_cur]
    | with_reducible apply Eff.others
    | with_reducible apply Eff.putCur
    | (with_reducible refine CurEff.of_eq ?_ ?_ ?_ ?_ ?_) <;> rfl

theorem reseedCore_eff {z : State} (s : State) (x1 : Fin 72) (hz : Eff z s) : Eff z (reseedCore s x1) := by
  unfold reseedCore
  try dsimp only
  repeat' first
    | with_reducible assumption
    | with_reducible apply modCore_eff
    | rw [State.mk_others]
    | with_reducible apply Eff.others

theorem idlePort_eff {z : State} (s : State) (x1 : Fin 16) (hz : Eff z s) : Eff z (idlePort s x1) := by
  unfold idlePort
  try dsimp only
  repeat' first
    | with_reducible assumption
    | with_reducible apply setPort_eff

theorem idlePorts_eff {z : State} (s : State) (hz : Eff z s) : Eff z (idlePorts s) := by
  unfold idlePorts
  try dsimp only
  repeat' first
    | with_reducible assumption
    | with_reducible exact Eff.refl _
    | with_reducible apply idlePort_eff
    | with_reducible apply Eff.foldl
    | intro _

theorem forceSafe_eff {z : State} (s : State) (hz : Eff z s) : Eff z (forceSafe s) := by
  unfold forceSafe
  try dsimp only
  repeat' first
    | with_reducible assumption
    | with_reducible apply breakSnapshot_eff
    | with_reducible apply idlePorts_eff
    | rw [State.mk_others]
    | with_reducible apply Eff.others

theorem dropReads_eff {z : State} (s : State) (x1 : HostUse → Bool) (hz : Eff z s) : Eff z (dropReads s x1) := by
  unfold dropReads
  try dsimp only
  repeat' first
    | with_reducible assumption
    | rw [State.mk_others]
    | with_reducible apply Eff.others

theorem ringPut_eff {z : State} (s : State) (x1 : Nat) (x2 : Ring) (hz : Eff z s) : Eff z (ringPut s x1 x2) := by
  unfold ringPut
  try dsimp only
  repeat' first
    | with_reducible assumption
    | rw [State.mk_others]
    | with_reducible apply Eff.others

theorem drainRing_eff {z : State} (s : State) (x1 : Nat) (hz : Eff z s) : Eff z (drainRing s x1) := by
  unfold drainRing
  try dsimp only
  repeat' first
    | with_reducible assumption
    | with_reducible apply dropReads_eff
    | with_reducible apply ringPut_eff
    | rw [State.mk_others]
    | with_reducible apply Eff.others

theorem enterMgmtOnly_eff {z : State} (s : State) (hz : Eff z s) : Eff z (enterMgmtOnly s) := by
  unfold enterMgmtOnly
  try dsimp only
  repeat' first
    | with_reducible assumption
    | with_reducible apply setPwrState_eff
    | with_reducible apply idlePorts_eff
    | with_reducible apply rmod_eff

theorem floorCheck_eff {z : State} (s : State) (hz : Eff z s) : Eff z (floorCheck s) := by
  unfold floorCheck
  try dsimp only
  repeat' first
    | with_reducible assumption
    | with_reducible exact Eff.refl _
    | with_reducible apply forceSafe_eff
    | with_reducible apply rset_eff
    | with_reducible apply logPwr_eff
    | with_reducible apply rmod_eff
    | with_reducible apply drainRing_eff
    | with_reducible apply enterMgmtOnly_eff
    | with_reducible apply Eff.ite
    | with_reducible apply Eff.foldl
    | intro _
    | rw [State.mk_others]
    | with_reducible apply Eff.others

theorem sleepPorts_eff {z : State} (s : State) (x1 : Bool) (hz : Eff z s) : Eff z (sleepPorts s x1) := by
  unfold sleepPorts
  try dsimp only
  repeat' first
    | with_reducible assumption
    | with_reducible exact Eff.refl _
    | with_reducible apply idlePort_eff
    | with_reducible apply Eff.ite
    | with_reducible apply Eff.foldl
    | intro _

theorem clearInventory_eff {z : State} (s : State) (hz : Eff z s) : Eff z (clearInventory s) := by
  unfold clearInventory
  try dsimp only
  repeat' first
    | with_reducible assumption
    | rw [State.mk_others]
    | with_reducible apply Eff.others

theorem resetCores_eff {z : State} (s : State) (hz : Eff z s) : Eff z (resetCores s) := by
  unfold resetCores
  try dsimp only
  repeat' first
    | with_reducible assumption
    | rw [State.mk_others]
    | with_reducible apply Eff.others

theorem newChain_eff {z : State} (s : State) (x1 : Nat) (hz : Eff z s) : Eff z (newChain s x1) := by
  unfold newChain
  try dsimp only
  repeat' first
    | with_reducible assumption
    | rw [State.mk_cur]
    | with_reducible apply Eff.others
    | with_reducible apply Eff.putCur
    | (with_reducible refine CurEff.of_eq ?_ ?_ ?_ ?_ ?_) <;> rfl

theorem ownersReset_eff {z : State} (s : State) (hz : Eff z s) : Eff z (ownersReset s) := by
  unfold ownersReset
  try dsimp only
  repeat' first
    | with_reducible assumption
    | with_reducible exact Eff.refl _
    | with_reducible apply rset_eff
    | with_reducible apply Eff.foldl
    | intro _

theorem powerOnReset_eff {z : State} (s : State) (x1 x2 : BitVec 3) (hz : Eff z s) : Eff z (powerOnReset s x1 x2) := by
  unfold powerOnReset
  lift_lets
  intro ctrls r0 s1 s2 s3
  have h1 : Eff z s1 := hz.trans ⟨rfl, fun _ => rfl, fun _ => rfl, CurEff.of_none rfl rfl rfl rfl rfl⟩
  have h2 : Eff z s2 := clearInventory_eff _ (resetCores_eff _ h1)
  have h3 : Eff z s3 := Eff.ite (rmod_eff _ _ _ _ _ h2) h2
  exact newChain_eff _ _ (ownersReset_eff _ h3)

theorem railsDown_eff {z : State} (s : State) (hz : Eff z s) : Eff z (railsDown s) := by
  unfold railsDown
  try dsimp only
  repeat' first
    | with_reducible assumption
    | rw [State.mk_others]
    | with_reducible apply Eff.others

theorem enterOff_eff {z : State} (s : State) (hz : Eff z s) : Eff z (enterOff s) := by
  unfold enterOff
  try dsimp only
  repeat' first
    | with_reducible assumption
    | with_reducible apply setPwrState_eff
    | with_reducible apply railsDown_eff
    | with_reducible apply forceSafe_eff
    | rw [State.mk_cur]
    | with_reducible apply Eff.others
    | with_reducible apply Eff.putCur
    | (with_reducible refine CurEff.of_eq ?_ ?_ ?_ ?_ ?_) <;> rfl

theorem fwState_eff {z : State} (s : State) (x1 : Nat) (hz : Eff z s) : Eff z (fwState s x1) := by
  unfold fwState
  try dsimp only
  repeat' first
    | with_reducible assumption
    | with_reducible apply rmod_eff

theorem firmwareFailed_eff {z : State} (s : State) (x1 : Flt) (hz : Eff z s) : Eff z (firmwareFailed s x1) := by
  unfold firmwareFailed
  try dsimp only
  repeat' first
    | with_reducible assumption
    | with_reducible apply fwState_eff
    | with_reducible apply logCur_eff
    | rw [State.mk_cur]
    | with_reducible apply Eff.others
    | with_reducible apply Eff.putCur
    | (with_reducible refine CurEff.of_eq ?_ ?_ ?_ ?_ ?_) <;> rfl

theorem lcState_eff {z : State} (s : State) (x1 : Nat) (hz : Eff z s) : Eff z (lcState s x1) := by
  unfold lcState
  try dsimp only
  repeat' first
    | with_reducible assumption
    | with_reducible apply rmod_eff

theorem lcRefuse_eff {z : State} (s : State) (x1 : BitVec 3) (hz : Eff z s) : Eff z (lcRefuse s x1) := by
  unfold lcRefuse
  try dsimp only
  repeat' first
    | with_reducible assumption
    | with_reducible apply lcState_eff
    | with_reducible apply newNonce_eff
    | with_reducible apply logCur_eff
    | rw [State.mk_cur]
    | with_reducible apply Eff.others
    | with_reducible apply Eff.putCur
    | (with_reducible refine CurEff.of_none ?_ ?_ ?_ ?_ ?_) <;> rfl

theorem tokenFailed_eff {z : State} (s : State) (hz : Eff z s) : Eff z (tokenFailed s) := by
  unfold tokenFailed
  try dsimp only
  repeat' first
    | with_reducible assumption
    | with_reducible apply lcRefuse_eff
    | split

theorem cutReads_eff {z : State} (s : State) (hz : Eff z s) : Eff z (cutReads s) := by
  unfold cutReads
  try dsimp only
  repeat' first
    | with_reducible assumption
    | with_reducible exact Eff.refl _
    | with_reducible apply firmwareFailed_eff
    | with_reducible apply tokenFailed_eff
    | with_reducible apply Eff.foldl
    | intro _
    | split

theorem applyMemRetire_eff {z : State} (s : State) (hz : Eff z s) : Eff z (applyMemRetire s) := by
  unfold applyMemRetire
  try dsimp only
  repeat' first
    | with_reducible assumption
    | rw [State.mk_others]
    | with_reducible apply Eff.others

theorem setMemStates_eff {z : State} (s : State) (x1 : Nat) (hz : Eff z s) : Eff z (setMemStates s x1) := by
  unfold setMemStates
  try dsimp only
  repeat' first
    | with_reducible assumption
    | with_reducible exact Eff.refl _
    | with_reducible apply rmod_eff
    | with_reducible apply Eff.foldl
    | intro _

theorem bootRest_eff {z : State} (s : State) (hz : Eff z s) : Eff z (bootRest s) := by
  unfold bootRest
  lift_lets
  intro s1 s2 s3 p3 s4
  have h1 : Eff z s1 := resetCores_eff _ hz
  clear_value s1
  have h2 : Eff z s2 :=
    clearInventory_eff _ (ownersReset_eff _ (h1.trans ⟨rfl, fun _ => rfl, id, CurEff.refl _⟩))
  have h3 : Eff z s3 := rmod_eff _ _ _ _ _ (setMemStates_eff _ _ h2)
  clear_value s3
  have h4 : Eff z s4 := h3.trans ⟨rfl, id, id, CurEff.refl _⟩
  exact floorCheck_eff _ (idlePorts_eff _ (setPwrState_eff _ _ h4))

theorem warmReset_eff {z : State} (s : State) (hz : Eff z s) : Eff z (warmReset s) := by
  unfold warmReset
  apply bootRest_eff
  rw [State.mk_all]
  exact Eff.putAll (Eff.others (breakSnapshot_eff _ (cutReads_eff _ (applyMemRetire_eff _ hz)))) id (fun h => smapWf_filter _ h) (CurEff.refl _)

theorem dropCaches_eff {z : State} (s : State) (hz : Eff z s) : Eff z (dropCaches s) := by
  unfold dropCaches
  try dsimp only
  repeat' first
    | with_reducible assumption
    | rw [State.mk_others]
    | with_reducible apply Eff.others

theorem floorSettle_eff {z : State} (s : State) (hz : Eff z s) : Eff z (floorSettle s) := by
  unfold floorSettle
  try dsimp only
  repeat' first
    | with_reducible assumption
    | with_reducible apply enterMgmtOnly_eff
    | with_reducible apply Eff.ite

theorem clearCore_eff {z : State} (s : State) (x1 : Fin 72) (hz : Eff z s) : Eff z (clearCore s x1) := by
  unfold clearCore
  try dsimp only
  repeat' first
    | with_reducible assumption
    | with_reducible apply reseedCore_eff
    | with_reducible apply modCore_eff

theorem clearCores_eff {z : State} (s : State) (hz : Eff z s) : Eff z (clearCores s) := by
  unfold clearCores
  try dsimp only
  repeat' first
    | with_reducible assumption
    | with_reducible exact Eff.refl _
    | with_reducible apply clearCore_eff
    | with_reducible apply Eff.foldl
    | intro _

theorem faultState_eff {z : State} (s : State) (hz : Eff z s) : Eff z (faultState s) := by
  unfold faultState
  try dsimp only
  repeat' first
    | with_reducible assumption
    | with_reducible apply setPwrState_eff
    | with_reducible apply railsDown_eff
    | with_reducible apply cutReads_eff
    | with_reducible apply forceSafe_eff

theorem enterFault_eff {z : State} (s : State) (x1 : BitVec 16) (x2 : Nat) (hz : Eff z s) :
    Eff z (enterFault s x1 x2) := by
  unfold enterFault
  try dsimp only
  repeat' first
    | with_reducible assumption
    | with_reducible apply faultState_eff
    | with_reducible apply logPwr_eff


/-! ## CoreEvents -/

theorem modCmd_eff {z : State} (s : State) (x1 : Nat) (x2 : W32) (x3 : Cmd → Cmd) (hz : Eff z s) :
    Eff z (modCmd s x1 x2 x3) := by
  unfold modCmd
  try dsimp only
  repeat' first
    | with_reducible assumption
    | rw [State.mk_others]
    | with_reducible apply Eff.others

theorem genCtlEffect_eff {z : State} (s : State) (x1 : Fin 72) (x2 : W64) (hz : Eff z s) :
    Eff z (genCtlEffect s x1 x2) := by
  unfold genCtlEffect
  try dsimp only
  repeat' first
    | with_reducible assumption
    | with_reducible apply reseedCore_eff
    | with_reducible apply modCore_eff
    | with_reducible apply Eff.ite

theorem retireStatus_eff {z : State} (s : State) (x1 : Nat) (x2 : Nat) (hz : Eff z s) :
    Eff z (retireStatus s x1 x2) := by
  unfold retireStatus
  try dsimp only
  repeat' first
    | with_reducible assumption
    | with_reducible apply rmod_eff

theorem setRunstate_eff {z : State} (s : State) (x1 : Fin 72) (x2 : BitVec 3) (hz : Eff z s) :
    Eff z (setRunstate s x1 x2) := by
  unfold setRunstate
  try dsimp only
  repeat' first
    | with_reducible assumption
    | with_reducible apply modCore_eff

theorem galleriesMoved_eff {z : State} (x0 : State) (s : State) (hz : Eff z s) : Eff z (galleriesMoved x0 s) := by
  unfold galleriesMoved
  try dsimp only
  repeat' first
    | with_reducible assumption
    | with_reducible exact Eff.refl _
    | with_reducible apply invPut_eff
    | with_reducible apply Eff.ite
    | with_reducible apply Eff.foldl
    | intro _
    | split

theorem alertManagement_eff {z : State} (s : State) (hz : Eff z s) : Eff z (alertManagement s) := by
  unfold alertManagement
  try dsimp only
  repeat' first
    | with_reducible assumption
    | with_reducible apply pathRequest_eff

theorem takeRetirement_eff {z : State} (s : State) (x1 : Fin 72) (hz : Eff z s) : Eff z (takeRetirement s x1) := by
  unfold takeRetirement
  try dsimp only
  repeat' first
    | with_reducible assumption
    | with_reducible apply setRunstate_eff
    | with_reducible apply zeroGallery_eff
    | with_reducible apply resetOwners_eff
    | with_reducible apply galleriesMoved_eff
    | with_reducible apply rmod_eff
    | with_reducible apply retireStatus_eff
    | with_reducible apply floorCheck_eff
    | with_reducible apply alertManagement_eff
    | rw [State.mk_others]
    | with_reducible apply Eff.others
    | split

theorem retireWrite_eff {z : State} (s : State) (x1 : W64) (hz : Eff z s) : Eff z (retireWrite s x1) := by
  unfold retireWrite
  try dsimp only
  repeat' first
    | with_reducible assumption
    | with_reducible apply retireStatus_eff
    | with_reducible apply takeRetirement_eff
    | with_reducible apply coreFault_eff
    | with_reducible apply Eff.ite
    | rw [State.mk_others]
    | with_reducible apply Eff.others
    | split

theorem stopOthers_eff {z : State} (s : State) (x1 : Dispatch) (hz : Eff z s) : Eff z (stopOthers s x1) := by
  unfold stopOthers
  try dsimp only
  repeat' first
    | with_reducible assumption
    | with_reducible exact Eff.refl _
    | with_reducible apply stopCore_eff
    | with_reducible apply Eff.ite
    | with_reducible apply Eff.foldl
    | intro _

theorem execFreeRunningStep_eff {z : State} (s : State) (hz : Eff z s) : EffR z (execFreeRunningStep s) := by
  unfold execFreeRunningStep
  try dsimp only
  repeat' first
    | with_reducible assumption
    | with_reducible exact Eff.refl _
    | with_reducible apply answer_eff
    | with_reducible apply modCore_eff
    | with_reducible apply Eff.ite
    | with_reducible apply Eff.foldl
    | intro _

theorem execRetirementTakesEffect_eff {z : State} (s : State) (hz : Eff z s) :
    EffR z (execRetirementTakesEffect s) := by
  unfold execRetirementTakesEffect
  try dsimp only
  repeat' first
    | with_reducible assumption
    | with_reducible apply answer_eff
    | with_reducible apply takeRetirement_eff
    | with_reducible apply Eff.ite
    | split

theorem modDispatch_eff {z : State} (s : State) (x1 : W32) (x2 : Dispatch → Dispatch) (hz : Eff z s) :
    Eff z (modDispatch s x1 x2) := by
  unfold modDispatch
  try dsimp only
  repeat' first
    | with_reducible assumption
    | rw [State.mk_others]
    | with_reducible apply Eff.others

theorem finishDispatch_eff {z : State} (s : State) (x1 : Dispatch) (hz : Eff z s) : Eff z (finishDispatch s x1) := by
  unfold finishDispatch
  try dsimp only
  repeat' first
    | with_reducible assumption
    | with_reducible apply modDispatch_eff
    | with_reducible apply modCmd_eff

theorem execCoreFinished_eff {z : State} (x0 : Fin 72) (s : State) (hz : Eff z s) : EffR z (execCoreFinished x0 s) := by
  unfold execCoreFinished
  try dsimp only
  repeat' first
    | with_reducible assumption
    | with_reducible apply answer_eff
    | with_reducible apply modDispatch_eff
    | with_reducible apply modCore_eff
    | with_reducible apply finishDispatch_eff
    | with_reducible apply Eff.ite
    | split

theorem reseedIfDue_eff {z : State} (s : State) (x1 : Fin 72) (hz : Eff z s) : Eff z (reseedIfDue s x1) := by
  unfold reseedIfDue
  try dsimp only
  repeat' first
    | with_reducible assumption
    | with_reducible apply reseedCore_eff
    | with_reducible apply Eff.ite

theorem execDispatchStop_eff {z : State} (x0 : W32) (s : State) (hz : Eff z s) : EffR z (execDispatchStop x0 s) := by
  unfold execDispatchStop
  try dsimp only
  repeat' first
    | with_reducible assumption
    | with_reducible apply answer_eff
    | with_reducible apply stopOthers_eff
    | with_reducible apply modCmd_eff
    | with_reducible apply modDispatch_eff
    | with_reducible apply Eff.ite
    | split

theorem execReseedAtIdle_eff {z : State} (x0 : Fin 72) (s : State) (hz : Eff z s) : EffR z (execReseedAtIdle x0 s) := by
  unfold execReseedAtIdle
  try dsimp only
  repeat' first
    | with_reducible assumption
    | with_reducible apply answer_eff
    | with_reducible apply reseedIfDue_eff

end Sys2Proof.Machine
end

