-- ==== Sys2Proof/Laws/EffRegistrar.lean ====
section
/-!
SUPPORT. Sys2Proof/Laws/EffRegistrar.lean: what each operation of Time.lean, Counters.lean, Layout.lean, MemCtl.lean, Registrar.lean keeps (`Eff`), one lemma each.
-/
namespace Sys2Proof.Machine

/-! ## Time -/

theorem setSynt_eff {z : State} (s : State) (x1 : Nat) (x2 : Nat) (hz : Eff z s) : Eff z (setSynt s x1 x2) := by
  unfold setSynt
  try dsimp only
  repeat' first
    | with_reducible assumption
    | with_reducible apply rmod_eff

theorem slewTo_eff {z : State} (s : State) (x1 : Bool) (x2 : BitVec 16) (hz : Eff z s) : Eff z (slewTo s x1 x2) := by
  unfold slewTo
  try dsimp only
  repeat' first
    | with_reducible assumption
    | with_reducible apply setSynt_eff
    | with_reducible apply Eff.ite
    | rw [State.mk_others]
    | with_reducible apply Eff.others

theorem setTimeBit_eff {z : State} (s : State) (x1 : Nat) (x2 : Bool) (hz : Eff z s) : Eff z (setTimeBit s x1 x2) := by
  unfold setTimeBit
  try dsimp only
  repeat' first
    | with_reducible assumption
    | with_reducible apply rmod_eff

theorem set96_eff {z : State} (s : State) (x1 : BitVec 96) (hz : Eff z s) : Eff z (set96 s x1) := by
  unfold set96
  try dsimp only
  repeat' first
    | with_reducible assumption
    | rw [State.mk_others]
    | with_reducible apply Eff.others

theorem tick_eff {z : State} (s : State) (hz : Eff z s) : Eff z (tick s) := by
  unfold tick
  try dsimp only
  repeat' first
    | with_reducible assumption
    | with_reducible apply set96_eff
    | with_reducible apply Eff.ite

theorem execSyntLock_eff {z : State} (x0 : BitVec 16) (s : State) (hz : Eff z s) : EffR z (execSyntLock x0 s) := by
  unfold execSyntLock
  try dsimp only
  repeat' first
    | with_reducible assumption
    | with_reducible apply answer_eff
    | with_reducible apply slewTo_eff
    | with_reducible apply Eff.ite

theorem stepCounter_eff {z : State} (s : State) (x1 : Rat) (hz : Eff z s) : Eff z (stepCounter s x1) := by
  unfold stepCounter
  try dsimp only
  repeat' first
    | with_reducible assumption
    | with_reducible apply set96_eff
    | with_reducible apply Eff.ite

theorem execPtpAnnounce_eff {z : State} (x0 : Byte) (x1 : W64) (x2 : Bool) (s : State) (hz : Eff z s) :
    EffR z (execPtpAnnounce x0 x1 x2 s) := by
  unfold execPtpAnnounce
  try dsimp only
  repeat' first
    | with_reducible assumption
    | with_reducible apply answer_eff
    | with_reducible apply Eff.ite
    | rw [State.mk_others]
    | with_reducible apply Eff.others

theorem execD06SourceLost_eff {z : State} (s : State) (hz : Eff z s) : EffR z (execD06SourceLost s) := by
  unfold execD06SourceLost
  try dsimp only
  repeat' first
    | with_reducible assumption
    | with_reducible exact Eff.refl _
    | with_reducible apply answer_eff
    | with_reducible apply loseLock_eff
    | with_reducible apply Eff.ite
    | with_reducible apply Eff.foldl
    | intro _
    | rw [State.mk_others]
    | with_reducible apply Eff.others

theorem execTimeValidExpire_eff {z : State} (s : State) (hz : Eff z s) : EffR z (execTimeValidExpire s) := by
  unfold execTimeValidExpire
  try dsimp only
  repeat' first
    | with_reducible assumption
    | with_reducible apply answer_eff
    | with_reducible apply setTimeBit_eff
    | with_reducible apply Eff.ite
    | rw [State.mk_others]
    | with_reducible apply Eff.others

theorem execTimeReq_eff {z : State} (x0 : Fin 16) (x1 : Flit) (x2 : FlitRx) (x3 : BitVec 16) (s : State) (hz : Eff z s) :
    EffR z (execTimeReq x0 x1 x2 x3 s) := by
  unfold execTimeReq
  try dsimp only
  repeat' first
    | with_reducible assumption
    | with_reducible apply receive_eff
    | with_reducible apply answer_eff
    | with_reducible apply queueTime_eff
    | with_reducible apply Eff.ite

theorem syncKnown_eff {z : State} (s : State) (x1 : BitVec 96) (x2 : BitVec 96) (hz : Eff z s) :
    Eff z (syncKnown s x1 x2) := by
  unfold syncKnown
  try dsimp only
  repeat' first
    | with_reducible assumption
    | with_reducible apply emit_eff
    | rw [State.mk_others]
    | with_reducible apply Eff.others

theorem execPtpSync_eff {z : State} (x0 : Byte) (x1 : W64) (x2 : BitVec 96) (x3 : Option (BitVec 96)) (s : State)
    (hz : Eff z s) :
    EffR z (execPtpSync x0 x1 x2 x3 s) := by
  unfold execPtpSync
  try dsimp only
  repeat' first
    | with_reducible assumption
    | with_reducible apply answer_eff
    | with_reducible apply syncKnown_eff
    | with_reducible apply Eff.ite
    | rw [State.mk_others]
    | with_reducible apply Eff.others
    | split

theorem execTimeHoldover_eff {z : State} (s : State) (hz : Eff z s) : EffR z (execTimeHoldover s) := by
  unfold execTimeHoldover
  try dsimp only
  repeat' first
    | with_reducible assumption
    | with_reducible apply answer_eff
    | with_reducible apply setTimeBit_eff
    | with_reducible apply Eff.ite
    | rw [State.mk_others]
    | with_reducible apply Eff.others

theorem execD06SlewComplete_eff {z : State} (s : State) (hz : Eff z s) : EffR z (execD06SlewComplete s) := by
  unfold execD06SlewComplete
  try dsimp only
  repeat' first
    | with_reducible assumption
    | with_reducible apply answer_eff
    | with_reducible apply setSynt_eff
    | with_reducible apply Eff.ite

theorem abandonExchange_eff {z : State} (s : State) (hz : Eff z s) : Eff z (abandonExchange s) := by
  unfold abandonExchange
  try dsimp only
  repeat' first
    | with_reducible assumption
    | with_reducible apply rcountSat_eff
    | with_reducible apply Eff.ite
    | rw [State.mk_others]
    | with_reducible apply Eff.others

theorem measure_eff {z : State} (s : State) (x1 : Rat) (hz : Eff z s) : Eff z (measure s x1) := by
  unfold measure
  try dsimp only
  repeat' first
    | with_reducible assumption
    | with_reducible apply rset_eff
    | with_reducible apply setTimeBit_eff
    | with_reducible apply stepCounter_eff
    | with_reducible apply Eff.ite
    | rw [State.mk_others]
    | with_reducible apply Eff.others

theorem execPtpDelayResp_eff {z : State} (x0 : Byte) (x1 : W64) (x2 : BitVec 96) (x3 : BitVec 96) (s : State)
    (hz : Eff z s) :
    EffR z (execPtpDelayResp x0 x1 x2 x3 s) := by
  unfold execPtpDelayResp
  try dsimp only
  repeat' first
    | with_reducible assumption
    | with_reducible apply answer_eff
    | with_reducible apply measure_eff
    | with_reducible apply Eff.ite
    | rw [State.mk_others]
    | with_reducible apply Eff.others
    | split

theorem execSyntHoldoverExpire_eff {z : State} (s : State) (hz : Eff z s) : EffR z (execSyntHoldoverExpire s) := by
  unfold execSyntHoldoverExpire
  try dsimp only
  repeat' first
    | with_reducible assumption
    | with_reducible apply answer_eff
    | with_reducible apply slewTo_eff
    | with_reducible apply Eff.ite

theorem execSyntLost_eff {z : State} (x0 : BitVec 16) (s : State) (hz : Eff z s) : EffR z (execSyntLost x0 s) := by
  unfold execSyntLost
  try dsimp only
  repeat' first
    | with_reducible assumption
    | with_reducible apply answer_eff
    | with_reducible apply logZmz_eff
    | with_reducible apply rmod_eff
    | with_reducible apply setSynt_eff
    | with_reducible apply Eff.ite

theorem retrainPorts_eff {z : State} (s : State) (hz : Eff z s) : Eff z (retrainPorts s) := by
  unfold retrainPorts
  try dsimp only
  repeat' first
    | with_reducible assumption
    | with_reducible exact Eff.refl _
    | with_reducible apply startTraining_eff
    | with_reducible apply Eff.ite
    | with_reducible apply Eff.foldl
    | intro _

theorem execPtpFollowUp_eff {z : State} (x0 : Byte) (x1 : W64) (x2 : BitVec 96) (s : State) (hz : Eff z s) :
    EffR z (execPtpFollowUp x0 x1 x2 s) := by
  unfold execPtpFollowUp
  try dsimp only
  repeat' first
    | with_reducible assumption
    | with_reducible apply answer_eff
    | with_reducible apply syncKnown_eff
    | with_reducible apply Eff.ite
    | split

theorem takeResp_eff {z : State} (s : State) (x1 : Fin 16) (x2 : BitVec 16) (x3 : BitVec 96) (x4 : BitVec 96)
    (hz : Eff z s) :
    Eff z (takeResp s x1 x2 x3 x4) := by
  unfold takeResp
  try dsimp only
  repeat' first
    | with_reducible assumption
    | with_reducible apply measure_eff
    | with_reducible apply Eff.ite
    | rw [State.mk_others]
    | with_reducible apply Eff.others
    | split

theorem execTimeResp_eff {z : State} (x0 : Fin 16) (x1 : Flit) (x2 : FlitRx) (x3 : BitVec 16) (x4 : BitVec 96)
    (x5 : BitVec 96) (s : State) (hz : Eff z s) :
    EffR z (execTimeResp x0 x1 x2 x3 x4 x5 s) := by
  unfold execTimeResp
  try dsimp only
  repeat' first
    | with_reducible assumption
    | with_reducible apply receive_eff
    | with_reducible apply answer_eff
    | with_reducible apply takeResp_eff
    | with_reducible apply abandonExchange_eff
    | with_reducible apply Eff.ite

theorem execTimeExchangeStart_eff {z : State} (s : State) (hz : Eff z s) : EffR z (execTimeExchangeStart s) := by
  unfold execTimeExchangeStart
  try dsimp only
  repeat' first
    | with_reducible assumption
    | with_reducible apply answer_eff
    | with_reducible apply abandonExchange_eff
    | with_reducible apply queueTime_eff
    | with_reducible apply Eff.ite
    | rw [State.mk_others]
    | with_reducible apply Eff.others


/-! ## Counters -/

theorem pmcEnd_eff {z : State} (s : State) (hz : Eff z s) : Eff z (pmcEnd s) := by
  unfold pmcEnd
  try dsimp only
  repeat' first
    | with_reducible assumption
    | with_reducible apply rset_eff
    | with_reducible apply Eff.ite
    | rw [State.mk_others]
    | with_reducible apply Eff.others

theorem snapTo_eff {z : State} (s : State) (x1 : RegName) (x2 : RegName) (x3 : Nat) (x4 : Nat) (hz : Eff z s) :
    Eff z (snapTo s x1 x2 x3 x4) := by
  unfold snapTo
  try dsimp only
  repeat' first
    | with_reducible assumption
    | with_reducible exact Eff.refl _
    | with_reducible apply rset_eff
    | with_reducible apply Eff.foldl
    | intro _

theorem memSync1_eff {z : State} (s : State) (x1 : Nat) (hz : Eff z s) : Eff z (memSync1 s x1) := by
  unfold memSync1
  try dsimp only
  repeat' first
    | with_reducible assumption
    | with_reducible apply rset_eff
    | with_reducible apply Eff.ite
    | rw [State.mk_others]
    | with_reducible apply Eff.others

theorem memSync_eff {z : State} (s : State) (x1 : List Nat) (hz : Eff z s) : Eff z (memSync s x1) := by
  unfold memSync
  try dsimp only
  repeat' first
    | with_reducible assumption
    | with_reducible exact Eff.refl _
    | with_reducible apply memSync1_eff
    | with_reducible apply Eff.foldl
    | intro _

theorem snapCounters_eff {z : State} (s : State) (x1 : Nat) (hz : Eff z s) : Eff z (snapCounters s x1) := by
  unfold snapCounters
  try dsimp only
  repeat' first
    | with_reducible assumption
    | with_reducible apply snapTo_eff
    | with_reducible apply memSync_eff
    | split

theorem ovfSet_eff {z : State} (s : State) (x1 : Nat) (hz : Eff z s) : Eff z (ovfSet s x1) := by
  unfold ovfSet
  try dsimp only
  repeat' first
    | with_reducible assumption
    | with_reducible apply rmod_eff

theorem confSync1_eff {z : State} (s : State) (x1 : Nat) (hz : Eff z s) : Eff z (confSync1 s x1) := by
  unfold confSync1
  try dsimp only
  repeat' first
    | with_reducible assumption
    | with_reducible apply rset_eff
    | with_reducible apply ovfSet_eff
    | with_reducible apply Eff.ite
    | rw [State.mk_others]
    | with_reducible apply Eff.others

theorem confSync_eff {z : State} (s : State) (x1 : List Nat) (hz : Eff z s) : Eff z (confSync s x1) := by
  unfold confSync
  try dsimp only
  repeat' first
    | with_reducible assumption
    | with_reducible exact Eff.refl _
    | with_reducible apply confSync1_eff
    | with_reducible apply Eff.foldl
    | intro _

theorem clearCounters_eff {z : State} (s : State) (d : Nat) (hz : Eff z s) : Eff z (clearCounters s d) := by
  unfold clearCounters
  extract_lets s1 x
  have h1 : Eff z s1 := Eff.ite (confSync_eff _ _ hz) hz
  exact h1.trans ⟨rfl, id, fun h => smapWf_filter _ h, CurEff.refl _⟩

theorem pmcAct_eff {z : State} (s : State) (d : Nat) (hz : Eff z s) : Eff z (pmcAct s d) := by
  unfold pmcAct
  extract_lets s1 s2
  have h1 : Eff z s1 := Eff.ite (snapCounters_eff _ _ hz) hz
  have h2 : Eff z s2 := Eff.ite (clearCounters_eff _ _ h1) h1
  exact Eff.ite (h2.trans ⟨rfl, id, id, CurEff.refl _⟩) hz

theorem pmcStep_eff {z : State} (s : State) (hz : Eff z s) : Eff z (pmcStep s) := by
  unfold pmcStep
  try dsimp only
  repeat' first
    | with_reducible assumption
    | with_reducible exact Eff.refl _
    | with_reducible apply pmcEnd_eff
    | with_reducible apply pmcAct_eff
    | with_reducible apply Eff.ite
    | with_reducible apply Eff.foldl
    | intro _

theorem pmcWrite_eff {z : State} (s : State) (x1 : W64) (hz : Eff z s) : Eff z (pmcWrite s x1) := by
  unfold pmcWrite
  try dsimp only
  repeat' first
    | with_reducible assumption
    | with_reducible apply rmod_eff
    | with_reducible apply Eff.ite
    | rw [State.mk_others]
    | with_reducible apply Eff.others

theorem obsWrite_eff {z : State} (s : State) (x1 : W64) (hz : Eff z s) : Eff z (obsWrite s x1) := by
  unfold obsWrite
  try dsimp only
  repeat' first
    | with_reducible assumption
    | with_reducible apply rset_eff

theorem countConf_eff {z : State} (s : State) (hz : Eff z s) : Eff z (countConf s) := by
  unfold countConf
  try dsimp only
  repeat' first
    | with_reducible assumption
    | with_reducible apply Eff.ite
    | rw [State.mk_others]
    | with_reducible apply Eff.others

theorem addClocks_eff {z : State} (s : State) (x1 : RegName) (x2 : Nat) (hz : Eff z s) : Eff z (addClocks s x1 x2) := by
  unfold addClocks
  try dsimp only
  repeat' first
    | with_reducible assumption
    | with_reducible apply rmod_eff
    | rw [State.mk_others]
    | with_reducible apply Eff.others

theorem countWaits_eff {z : State} (s : State) (hz : Eff z s) : Eff z (countWaits s) := by
  unfold countWaits
  try dsimp only
  repeat' first
    | with_reducible assumption
    | with_reducible exact Eff.refl _
    | with_reducible apply addClocks_eff
    | with_reducible apply Eff.ite
    | with_reducible apply Eff.foldl
    | intro _

theorem stallClock_eff {z : State} (s : State) (x1 : Fin 72) (x2 : List Nat) (hz : Eff z s) :
    Eff z (stallClock s x1 x2) := by
  unfold stallClock
  try dsimp only
  repeat' first
    | with_reducible assumption
    | with_reducible exact Eff.refl _
    | with_reducible apply rmod_eff
    | with_reducible apply Eff.foldl
    | intro _
    | rw [State.mk_others]
    | with_reducible apply Eff.others

theorem countStalls_eff {z : State} (x0 : State) (s : State) (hz : Eff z s) : Eff z (countStalls x0 s) := by
  unfold countStalls
  try dsimp only
  repeat' first
    | with_reducible assumption
    | with_reducible exact Eff.refl _
    | with_reducible apply stallClock_eff
    | with_reducible apply Eff.ite
    | with_reducible apply Eff.foldl
    | intro _
    | rw [State.mk_others]
    | with_reducible apply Eff.others

theorem countClocks_eff {z : State} (x0 : State) (s : State) (hz : Eff z s) : Eff z (countClocks x0 s) := by
  unfold countClocks
  try dsimp only
  repeat' first
    | with_reducible assumption
    | with_reducible apply countConf_eff
    | with_reducible apply countWaits_eff
    | with_reducible apply countStalls_eff

theorem execPmcInstant_eff {z : State} (s : State) (hz : Eff z s) : EffR z (execPmcInstant s) :=
  answer_eff _ _ hz (pmcStep_eff _ hz)


/-! ## Layout -/

theorem dtabWrite_eff {z : State} (s : State) (x1 : W64) (hz : Eff z s) : Eff z (dtabWrite s x1) := by
  unfold dtabWrite
  try dsimp only
  repeat' first
    | with_reducible assumption
    | with_reducible apply Eff.ite
    | rw [State.mk_others]
    | with_reducible apply Eff.others

theorem descCreate_eff {z : State} (s : State) (x1 : List Byte) (hz : Eff z s) : Eff z (descCreate s x1).1 := by
  unfold descCreate
  try dsimp only
  repeat' first
    | with_reducible assumption
    | dsimp only
    | with_reducible apply devWrite_eff
    | with_reducible apply descPut_eff
    | with_reducible apply Eff.ite1
    | split

theorem freeEntry_eff {z : State} (s : State) (x1 : Nat) (hz : Eff z s) : Eff z (freeEntry s x1) := by
  unfold freeEntry
  try dsimp only
  repeat' first
    | with_reducible assumption
    | with_reducible apply invPut_eff
    | rw [State.mk_others]
    | with_reducible apply Eff.others

theorem descDestroy_eff {z : State} (s : State) (x1 : W32) (hz : Eff z s) : Eff z (descDestroy s x1).1 := by
  unfold descDestroy
  try dsimp only
  repeat' first
    | with_reducible assumption
    | dsimp only
    | with_reducible apply descPut_eff
    | split

theorem layRegister_eff {z : State} (s : State) (x1 : Nat) (x2 : Nat) (x3 : Nat) (x4 : Bool) (hz : Eff z s) :
    Eff z (layRegister s x1 x2 x3 x4).1 := by
  unfold layRegister
  try dsimp only
  repeat' first
    | with_reducible assumption
    | dsimp only
    | with_reducible apply invPut_eff
    | split

theorem layFree_eff {z : State} (s : State) (x1 : Nat) (hz : Eff z s) : Eff z (layFree s x1) := by
  unfold layFree
  try dsimp only
  repeat' first
    | with_reducible assumption
    | with_reducible apply invPut_eff


/-! ## MemCtl -/

theorem setMemState_eff {z : State} (s : State) (x1 : Nat) (x2 : Nat) (hz : Eff z s) : Eff z (setMemState s x1 x2) := by
  unfold setMemState
  try dsimp only
  repeat' first
    | with_reducible assumption
    | with_reducible apply rmod_eff

theorem reinitWrite_eff {z : State} (s : State) (x1 : Nat) (x2 : W64) (hz : Eff z s) : Eff z (reinitWrite s x1 x2) := by
  unfold reinitWrite
  try dsimp only
  repeat' first
    | with_reducible assumption
    | with_reducible apply setMemState_eff
    | with_reducible apply Eff.ite

theorem memRetireWrite_eff {z : State} (s : State) (x1 : W64) (hz : Eff z s) : Eff z (memRetireWrite s x1) := by
  unfold memRetireWrite
  try dsimp only
  repeat' first
    | with_reducible assumption
    | with_reducible apply Eff.ite
    | rw [State.mk_others]
    | with_reducible apply Eff.others

theorem loseController_eff {z : State} (s : State) (x1 : Nat) (hz : Eff z s) : Eff z (loseController s x1) := by
  unfold loseController
  try dsimp only
  repeat' first
    | with_reducible assumption
    | with_reducible apply rasNote_eff
    | with_reducible apply report_eff
    | with_reducible apply setMemState_eff
    | with_reducible apply rset_eff
    | with_reducible apply Eff.ite

theorem zeroController_eff {z : State} (s : State) (k : Nat) (hz : Eff z s) : Eff z (zeroController s k) := by
  unfold zeroController
  rw [State.mk_all]
  exact Eff.putAll (Eff.others hz) (fun h => smapWf_filter _ h) id (CurEff.refl _)

theorem execReinitDone_eff {z : State} (x0 : Fin 48) (s : State) (hz : Eff z s) : EffR z (execReinitDone x0 s) := by
  unfold execReinitDone
  try dsimp only
  repeat' first
    | with_reducible assumption
    | with_reducible apply answer_eff
    | with_reducible apply setMemState_eff
    | with_reducible apply zeroController_eff
    | with_reducible apply Eff.ite

theorem execRefreshRateUpdate_eff {z : State} (x0 : Fin 48) (x1 : Byte) (x2 : Bool) (s : State) (hz : Eff z s) :
    EffR z (execRefreshRateUpdate x0 x1 x2 s) := by
  unfold execRefreshRateUpdate
  try dsimp only
  repeat' first
    | with_reducible assumption
    | with_reducible apply answer_eff
    | with_reducible apply rmod_eff
    | with_reducible apply rasNote_eff
    | with_reducible apply Eff.ite

theorem execMemClockLost_eff {z : State} (s : State) (hz : Eff z s) : EffR z (execMemClockLost s) := by
  unfold execMemClockLost
  try dsimp only
  repeat' first
    | with_reducible assumption
    | with_reducible apply answer_eff
    | with_reducible apply Eff.ite
    | rw [State.mk_others]
    | with_reducible apply Eff.others


/-! ## Registrar -/

theorem failCmd_eff {z : State} (s : State) (x1 : Cmd) (x2 : Flt) (hz : Eff z s) : Eff z (failCmd s x1 x2) := by
  unfold failCmd
  try dsimp only
  repeat' first
    | with_reducible assumption
    | with_reducible apply modCmd_eff

theorem ringStep_eff {z : State} (x0 : View) (x1 : View) (x2 : List Int) (x3 : List Int) (s : Moving) (hz : Eff z s.st) :
    Eff z (ringStep x0 x1 x2 x3 s).st := by
  unfold ringStep
  try dsimp only
  repeat' first
    | with_reducible assumption
    | with_reducible apply copyStep_eff

theorem holdAccess_eff {z : State} (s : State) (x1 : HeldAccess) (hz : Eff z s) : Eff z (holdAccess s x1) := by
  unfold holdAccess
  try dsimp only
  repeat' first
    | with_reducible assumption
    | rw [State.mk_others]
    | with_reducible apply Eff.others

theorem ctxStatus_eff {z : State} (s : State) (x1 : Nat) (x2 : Nat) (hz : Eff z s) : Eff z (ctxStatus s x1 x2) := by
  unfold ctxStatus
  try dsimp only
  repeat' first
    | with_reducible assumption
    | with_reducible apply rmod_eff

theorem askNext_eff {z : State} (s : State) (t : State) (h : askNext s = some t) (hz : Eff z s) : Eff z t := by
  unfold askNext at h
  split at h
  · cases h
  · simp only [Option.map_eq_some_iff] at h
    obtain ⟨r, -, rfl⟩ := h
    rw [State.mk_others]
    exact emit_eff _ _ (Eff.others hz)

theorem askReads_eff {z : State} (x0 : Nat) (s : State) (hz : Eff z s) : Eff z (askReads x0 s) := by
  induction x0 generalizing s with
  | zero =>
    unfold askReads
    try dsimp only
    repeat' first
      | with_reducible assumption
  | succ n ih =>
    unfold askReads
    try dsimp only
    repeat' first
      | with_reducible assumption
      | with_reducible apply ih
      | with_reducible refine askNext_eff _ _ (by assumption) ?_
      | split

theorem hostRead_eff {z : State} (s : State) (x1 : HostUse) (x2 : Nat) (x3 : Nat) (hz : Eff z s) :
    Eff z (hostRead s x1 x2 x3) := by
  unfold hostRead
  try dsimp only
  repeat' first
    | with_reducible assumption
    | with_reducible apply askReads_eff
    | rw [State.mk_others]
    | with_reducible apply Eff.others

theorem ctxOpWrite_eff {z : State} (s : State) (x1 : W64) (hz : Eff z s) : Eff z (ctxOpWrite s x1) := by
  unfold ctxOpWrite
  try dsimp only
  repeat' first
    | with_reducible assumption
    | with_reducible apply ctxStatus_eff
    | with_reducible apply hostRead_eff
    | with_reducible apply drainRing_eff
    | with_reducible apply Eff.ite
    | rw [State.mk_others]
    | with_reducible apply Eff.others

theorem dropDoorbell_eff {z : State} (s : State) (hz : Eff z s) : Eff z (dropDoorbell s) := by
  unfold dropDoorbell
  try dsimp only
  repeat' first
    | with_reducible assumption
    | with_reducible apply rmod_eff
    | with_reducible apply rcountSat_eff

theorem ringDoorbell_eff {z : State} (s : State) (x1 : Nat) (x2 : W64) (x3 : Bool) (x4 : Bool) (hz : Eff z s) :
    Eff z (ringDoorbell s x1 x2 x3 x4) := by
  unfold ringDoorbell
  try dsimp only
  repeat' first
    | with_reducible assumption
    | with_reducible apply logAcn_eff
    | with_reducible apply ringPut_eff
    | with_reducible apply Eff.ite

theorem joinMiss_eff {z : State} (s : State) (x1 : Nat) (x2 : W64 × Bool × Bool) (hz : Eff z s) :
    Eff z (joinMiss s x1 x2) := by
  unfold joinMiss
  try dsimp only
  repeat' first
    | with_reducible assumption
    | rw [State.mk_others]
    | with_reducible apply Eff.others

theorem applyDoorbell_eff {z : State} (s : State) (x1 : Nat) (x2 : W64) (x3 : Bool) (x4 : Bool) (hz : Eff z s) :
    Eff z (applyDoorbell s x1 x2 x3 x4) := by
  unfold applyDoorbell
  try dsimp only
  repeat' first
    | with_reducible assumption
    | with_reducible apply dropDoorbell_eff
    | with_reducible apply ringDoorbell_eff
    | with_reducible apply rcountSat_eff
    | with_reducible apply joinMiss_eff
    | with_reducible apply hostRead_eff
    | with_reducible apply Eff.ite

theorem countReadErr_eff {z : State} (s : State) (x1 : Bool) (hz : Eff z s) : Eff z (countReadErr s x1) := by
  unfold countReadErr
  try dsimp only
  repeat' first
    | with_reducible assumption
    | with_reducible apply rmod_eff
    | with_reducible apply rcountSat_eff

theorem writeBack_eff {z : State} (s : State) (x1 : Nat) (hz : Eff z s) : Eff z (writeBack s x1) := by
  unfold writeBack
  try dsimp only
  repeat' first
    | with_reducible assumption
    | with_reducible apply emit_eff

theorem makeRoom_eff {z : State} (s : State) (hz : Eff z s) : Eff z (makeRoom s) := by
  unfold makeRoom
  try dsimp only
  repeat' first
    | with_reducible assumption
    | with_reducible apply ringPut_eff
    | with_reducible apply writeBack_eff
    | with_reducible apply Eff.ite
    | rw [State.mk_others]
    | with_reducible apply Eff.others
    | split

theorem contextArrived_eff {z : State} (s : State) (x1 : Nat) (x2 : List Byte) (hz : Eff z s) :
    Eff z (contextArrived s x1 x2) := by
  unfold contextArrived
  try dsimp only
  repeat' first
    | with_reducible assumption
    | with_reducible apply ctxStatus_eff
    | with_reducible apply makeRoom_eff
    | with_reducible apply ringPut_eff
    | with_reducible apply writeBack_eff
    | with_reducible apply Eff.ite
    | rw [State.mk_others]
    | with_reducible apply Eff.others

theorem missDoorbells_eff {z : State} (s : State) (x1 : Nat) (x2 : List (W64 × Bool × Bool)) (hz : Eff z s) :
    Eff z (missDoorbells s x1 x2) := by
  unfold missDoorbells
  try dsimp only
  repeat' first
    | with_reducible assumption
    | with_reducible exact Eff.refl _
    | with_reducible apply ringDoorbell_eff
    | with_reducible apply dropDoorbell_eff
    | with_reducible apply Eff.ite
    | with_reducible apply Eff.foldl
    | intro _

theorem missArrived_eff {z : State} (s : State) (x1 : Nat) (x2 : List (W64 × Bool × Bool)) (x3 : List Byte)
    (hz : Eff z s) :
    Eff z (missArrived s x1 x2 x3) := by
  unfold missArrived
  try dsimp only
  repeat' first
    | with_reducible assumption
    | with_reducible apply missDoorbells_eff
    | with_reducible apply hostRead_eff
    | with_reducible apply makeRoom_eff
    | with_reducible apply ringPut_eff
    | with_reducible apply Eff.ite

theorem entriesArrived_eff {z : State} (s : State) (x1 : Nat) (x2 : W32) (x3 : Nat) (x4 : List Byte) (hz : Eff z s) :
    Eff z (entriesArrived s x1 x2 x3 x4) := by
  unfold entriesArrived
  try dsimp only
  repeat' first
    | with_reducible assumption
    | with_reducible apply ringPut_eff
    | with_reducible apply emit_eff
    | with_reducible apply Eff.ite
    | rw [State.mk_others]
    | with_reducible apply Eff.others

theorem finishCmd_eff {z : State} (s : State) (x1 : Cmd) (x2 : Cmd → Cmd) (hz : Eff z s) :
    Eff z (finishCmd s x1 x2) := by
  unfold finishCmd
  try dsimp only
  repeat' first
    | with_reducible assumption
    | with_reducible apply modCmd_eff

theorem refuseCmd_eff {z : State} (s : State) (x1 : Cmd) (x2 : BitVec 16) (x3 : Nat) (hz : Eff z s) :
    Eff z (refuseCmd s x1 x2 x3) := by
  unfold refuseCmd
  try dsimp only
  repeat' first
    | with_reducible assumption
    | with_reducible apply modCmd_eff

theorem createArrived_eff {z : State} (s : State) (x1 : Cmd) (x2 : List Byte) (hz : Eff z s) :
    Eff z (createArrived s x1 x2) := by
  unfold createArrived
  try dsimp only
  repeat' first
    | with_reducible assumption
    | with_reducible apply descCreate_eff
    | with_reducible apply finishCmd_eff
    | with_reducible apply refuseCmd_eff
    | with_reducible apply failCmd_eff
    | split

theorem dropImage_eff {z : State} (s : State) (x1 : Nat) (hz : Eff z s) : Eff z (dropImage s x1) := by
  unfold dropImage
  try dsimp only
  repeat' first
    | with_reducible assumption
    | rw [State.mk_others]
    | with_reducible apply Eff.others

theorem runningCmd_eff {z : State} (s : State) (x1 : Cmd) (x2 : Cmd → Cmd) (hz : Eff z s) :
    Eff z (runningCmd s x1 x2) := by
  unfold runningCmd
  try dsimp only
  repeat' first
    | with_reducible assumption
    | with_reducible apply modCmd_eff

theorem failAfter_eff {z : State} (s : State) (x1 : Cmd) (x2 : Flt) (x3 : Nat) (hz : Eff z s) :
    Eff z (failAfter s x1 x2 x3) := by
  unfold failAfter
  try dsimp only
  repeat' first
    | with_reducible assumption
    | with_reducible apply modCmd_eff

theorem uploadArrived_eff {z : State} (s : State) (x1 : Cmd) (x2 : Nat) (x3 : List Byte) (hz : Eff z s) :
    Eff z (uploadArrived s x1 x2 x3) := by
  unfold uploadArrived
  try dsimp only
  repeat' first
    | with_reducible assumption
    | with_reducible apply usesEnd_eff
    | with_reducible apply refuseCmd_eff
    | with_reducible apply hostRead_eff
    | with_reducible apply dropImage_eff
    | with_reducible apply runningCmd_eff
    | with_reducible apply devWriteN_eff
    | with_reducible apply failAfter_eff
    | with_reducible apply finishCmd_eff
    | with_reducible apply modCmd_eff
    | with_reducible apply Eff.ite
    | rw [State.mk_others]
    | with_reducible apply Eff.others
    | split

theorem copyEnd_eff {z : State} (s : State) (x1 : Cmd) (x2 : Option Flt) (x3 : Nat) (hz : Eff z s) :
    Eff z (copyEnd s x1 x2 x3) := by
  unfold copyEnd
  try dsimp only
  repeat' first
    | with_reducible assumption
    | with_reducible apply failAfter_eff
    | with_reducible apply finishCmd_eff
    | split

theorem copyInArrived_eff {z : State} (s : State) (x1 : Cmd) (x2 : List Byte) (hz : Eff z s) :
    Eff z (copyInArrived s x1 x2) := by
  unfold copyInArrived
  try dsimp only
  repeat' first
    | with_reducible assumption
    | with_reducible exact Eff.refl _
    | with_reducible apply finishCopy_eff
    | with_reducible apply writeElem_eff
    | with_reducible apply copyEnd_eff
    | with_reducible apply usesEnd_eff
    | with_reducible apply Eff.foldl_at (fun b : Moving => b.st)
    | intro _
    | split

theorem commandArrived_eff {z : State} (s : State) (x1 : Nat) (x2 : W32) (x3 : Nat) (x4 : List Byte) (hz : Eff z s) :
    Eff z (commandArrived s x1 x2 x3 x4) := by
  unfold commandArrived
  try dsimp only
  repeat' first
    | with_reducible assumption
    | with_reducible apply createArrived_eff
    | with_reducible apply uploadArrived_eff
    | with_reducible apply copyInArrived_eff
    | with_reducible apply Eff.ite
    | split

theorem registrarArrived_eff {z : State} (s : State) (x1 : HostUse) (x2 : List Byte) (hz : Eff z s) :
    Eff z (registrarArrived s x1 x2) := by
  unfold registrarArrived
  try dsimp only
  repeat' first
    | with_reducible assumption
    | with_reducible apply contextArrived_eff
    | with_reducible apply missArrived_eff
    | with_reducible apply entriesArrived_eff
    | with_reducible apply commandArrived_eff
    | split

theorem registrarFailed_eff {z : State} (s : State) (x1 : HostRead) (x2 : Bool) (hz : Eff z s) :
    Eff z (registrarFailed s x1 x2) := by
  unfold registrarFailed
  try dsimp only
  repeat' first
    | with_reducible assumption
    | with_reducible apply logAcn_eff
    | with_reducible apply ctxStatus_eff
    | with_reducible apply ringPut_eff
    | with_reducible apply failCmd_eff
    | with_reducible apply usesEnd_eff
    | with_reducible apply Eff.ite
    | rw [State.mk_others]
    | with_reducible apply Eff.others
    | split

theorem cancelCmd_eff {z : State} (s : State) (x1 : Cmd) (hz : Eff z s) : Eff z (cancelCmd s x1) := by
  unfold cancelCmd
  try dsimp only
  repeat' first
    | with_reducible assumption
    | with_reducible apply usesEnd_eff
    | with_reducible apply dropReads_eff
    | with_reducible apply dropImage_eff
    | with_reducible apply modCmd_eff
    | with_reducible apply Eff.ite

theorem doorbellRead_eff {z : State} (s : State) (x1 : Nat) (x2 : Bool) (x3 : Bool) (hz : Eff z s) :
    Eff z (doorbellRead s x1 x2 x3) := by
  unfold doorbellRead
  try dsimp only
  repeat' first
    | with_reducible assumption
    | with_reducible apply emit_eff

theorem vectorRequest_eff {z : State} (s : State) (x1 : Nat) (x2 : Nat) (hz : Eff z s) :
    Eff z (vectorRequest s x1 x2) := by
  unfold vectorRequest
  try dsimp only
  repeat' first
    | with_reducible assumption
    | with_reducible apply sendMsix_eff
    | with_reducible apply Eff.ite
    | rw [State.mk_others]
    | with_reducible apply Eff.others

theorem runCmd_eff {z : State} (x0 : Nat) (x1 : W32) (x2 : Nat) (s : State) (x4 : State → Cmd → State) (h4 : ∀
    (a0 : State) (a1 : Cmd), Eff a0 (x4 a0 a1)) (hz : Eff z s) :
    EffR z (runCmd x0 x1 x2 s x4) := by
  unfold runCmd
  try dsimp only
  repeat' first
    | with_reducible assumption
    | with_reducible apply Eff.after (h4 _ _)
    | with_reducible apply answer_eff
    | split

theorem dispatchCore_eff {z : State} (x0 : ImageHdr) (x1 : List W64) (x2 : W32) (x3 : Nat) (s : State)
    (x5 : Nat × Fin 72) (hz : Eff z s) :
    Eff z (dispatchCore x0 x1 x2 x3 s x5) := by
  unfold dispatchCore
  try dsimp only
  repeat' first
    | with_reducible assumption
    | with_reducible apply l1Barrier_eff
    | with_reducible apply reseedIfDue_eff
    | with_reducible apply modCore_eff

theorem execRunProgram_eff {z : State} (x0 : Nat) (x1 : W32) (s : State) (hz : Eff z s) :
    EffR z (execRunProgram x0 x1 s) := by
  unfold execRunProgram
  try dsimp only
  repeat' first
    | with_reducible assumption
    | with_reducible exact Eff.refl _
    | with_reducible apply runCmd_eff
    | with_reducible apply refuseCmd_eff
    | with_reducible apply dispatchCore_eff
    | with_reducible apply rset_eff
    | with_reducible apply runningCmd_eff
    | with_reducible apply Eff.ite
    | with_reducible apply Eff.foldl
    | intro _
    | rw [State.mk_others]
    | with_reducible apply Eff.others
    | split

theorem closeDispatch_eff {z : State} (s : State) (x1 : Dispatch) (hz : Eff z s) : Eff z (closeDispatch s x1) := by
  unfold closeDispatch
  try dsimp only
  repeat' first
    | with_reducible assumption
    | with_reducible exact Eff.refl _
    | with_reducible apply setRunstate_eff
    | with_reducible apply Eff.ite
    | with_reducible apply Eff.foldl
    | intro _
    | rw [State.mk_others]
    | with_reducible apply Eff.others

theorem execCommandDone_eff {z : State} (x0 : Nat) (x1 : W32) (s : State) (hz : Eff z s) :
    EffR z (execCommandDone x0 x1 s) := by
  unfold execCommandDone
  try dsimp only
  repeat' first
    | with_reducible assumption
    | with_reducible apply answer_eff
    | with_reducible apply emit_eff
    | with_reducible apply ringPut_eff
    | with_reducible apply closeDispatch_eff
    | with_reducible apply vectorRequest_eff
    | with_reducible apply Eff.ite
    | rw [State.mk_others]
    | with_reducible apply Eff.others
    | split

theorem execDescDestroy_eff {z : State} (x0 : Nat) (x1 : W32) (s : State) (hz : Eff z s) :
    EffR z (execDescDestroy x0 x1 s) := by
  unfold execDescDestroy
  try dsimp only
  repeat' first
    | with_reducible assumption
    | with_reducible exact Eff.refl _
    | with_reducible apply runCmd_eff
    | with_reducible apply descDestroy_eff
    | with_reducible apply finishCmd_eff
    | with_reducible apply refuseCmd_eff
    | with_reducible apply Eff.ite
    | intro _

theorem execRingDisabled_eff {z : State} (x0 : Nat) (s : State) (hz : Eff z s) : EffR z (execRingDisabled x0 s) := by
  unfold execRingDisabled
  try dsimp only
  repeat' first
    | with_reducible assumption
    | with_reducible apply answer_eff
    | with_reducible apply ringPut_eff
    | with_reducible apply floorSettle_eff
    | with_reducible apply writeBack_eff
    | with_reducible apply Eff.ite

theorem hostWrites_eff {z : State} (s : State) (x1 : Nat) (x2 : List Byte) (x3 : Nat) (hz : Eff z s) :
    Eff z (hostWrites s x1 x2 x3) := by
  induction x3 generalizing s x1 x2 with
  | zero =>
    unfold hostWrites
    try dsimp only
    repeat' first
      | with_reducible assumption
  | succ n ih =>
    unfold hostWrites
    try dsimp only
    repeat' first
      | with_reducible assumption
      | with_reducible apply ih
      | with_reducible apply emit_eff
      | with_reducible apply Eff.ite

theorem execRingCopy_eff {z : State} (x0 : Nat) (x1 : W32) (s : State) (hz : Eff z s) :
    EffR z (execRingCopy x0 x1 s) := by
  unfold execRingCopy
  try dsimp only
  repeat' first
    | with_reducible assumption
    | with_reducible exact Eff.refl _
    | dsimp only
    | with_reducible apply runCmd_eff
    | with_reducible apply openTwo_eff
    | with_reducible apply failCmd_eff
    | with_reducible apply finishCopy_eff
    | with_reducible apply ringStep_eff
    | with_reducible apply copyEnd_eff
    | with_reducible apply Eff.foldl_at (fun b : Moving => b.st)
    | intro _
    | split

theorem execCopyIn_eff {z : State} (x0 : Nat) (x1 : W32) (s : State) (hz : Eff z s) : EffR z (execCopyIn x0 x1 s) := by
  unfold execCopyIn
  try dsimp only
  repeat' first
    | with_reducible assumption
    | with_reducible exact Eff.refl _
    | with_reducible apply runCmd_eff
    | with_reducible apply openView_eff
    | with_reducible apply failCmd_eff
    | with_reducible apply refuseCmd_eff
    | with_reducible apply hostRead_eff
    | with_reducible apply useBegin_eff
    | with_reducible apply runningCmd_eff
    | with_reducible apply Eff.ite
    | intro _
    | split

theorem abortTarget_eff {z : State} (s : State) (x1 : Cmd) (x2 : Cmd) (hz : Eff z s) : Eff z (abortTarget s x1 x2) := by
  unfold abortTarget
  try dsimp only
  repeat' first
    | with_reducible assumption
    | with_reducible apply finishCmd_eff
    | with_reducible apply refuseCmd_eff
    | with_reducible apply modCmd_eff
    | with_reducible apply modDispatch_eff
    | with_reducible apply cancelCmd_eff
    | with_reducible apply Eff.ite
    | split

theorem execRingAbort_eff {z : State} (x0 : Nat) (x1 : W32) (s : State) (hz : Eff z s) :
    EffR z (execRingAbort x0 x1 s) := by
  unfold execRingAbort
  try dsimp only
  repeat' first
    | with_reducible assumption
    | with_reducible exact Eff.refl _
    | with_reducible apply runCmd_eff
    | with_reducible apply refuseCmd_eff
    | with_reducible apply finishCmd_eff
    | with_reducible apply abortTarget_eff
    | with_reducible apply Eff.ite
    | intro _
    | rw [State.mk_others]
    | with_reducible apply Eff.others
    | split

theorem execUploadImage_eff {z : State} (x0 : Nat) (x1 : W32) (s : State) (hz : Eff z s) :
    EffR z (execUploadImage x0 x1 s) := by
  unfold execUploadImage
  try dsimp only
  repeat' first
    | with_reducible assumption
    | with_reducible exact Eff.refl _
    | with_reducible apply runCmd_eff
    | with_reducible apply refuseCmd_eff
    | with_reducible apply hostRead_eff
    | with_reducible apply useBegin_eff
    | with_reducible apply runningCmd_eff
    | with_reducible apply Eff.ite
    | intro _
    | split

theorem execCopyOut_eff {z : State} (x0 : Nat) (x1 : W32) (s : State) (hz : Eff z s) :
    EffR z (execCopyOut x0 x1 s) := by
  unfold execCopyOut
  try dsimp only
  repeat' first
    | with_reducible assumption
    | with_reducible exact Eff.refl _
    | dsimp only
    | with_reducible apply runCmd_eff
    | with_reducible apply openView_eff
    | with_reducible apply failCmd_eff
    | with_reducible apply refuseCmd_eff
    | with_reducible apply readElem_eff
    | with_reducible apply copyEnd_eff
    | with_reducible apply hostWrites_eff
    | with_reducible apply Eff.foldl_at (fun b : Moving × _ => b.1.st)
    | intro _
    | split

theorem execItrExpire_eff {z : State} (x0 : Nat) (s : State) (hz : Eff z s) : EffR z (execItrExpire x0 s) := by
  unfold execItrExpire
  try dsimp only
  repeat' first
    | with_reducible assumption
    | with_reducible apply answer_eff
    | with_reducible apply sendMsix_eff
    | with_reducible apply Eff.ite
    | rw [State.mk_others]
    | with_reducible apply Eff.others
    | split

theorem execRingNop_eff {z : State} (x0 : Nat) (x1 : W32) (s : State) (hz : Eff z s) :
    EffR z (execRingNop x0 x1 s) := by
  unfold execRingNop
  try dsimp only
  repeat' first
    | with_reducible assumption
    | with_reducible exact Eff.refl _
    | with_reducible apply runCmd_eff
    | with_reducible apply finishCmd_eff
    | intro _

theorem execDescCreate_eff {z : State} (x0 : Nat) (x1 : W32) (s : State) (hz : Eff z s) :
    EffR z (execDescCreate x0 x1 s) := by
  unfold execDescCreate
  try dsimp only
  repeat' first
    | with_reducible assumption
    | with_reducible exact Eff.refl _
    | with_reducible apply runCmd_eff
    | with_reducible apply refuseCmd_eff
    | with_reducible apply runningCmd_eff
    | with_reducible apply hostRead_eff
    | with_reducible apply Eff.ite
    | intro _

theorem execRingRegister_eff {z : State} (x0 : Nat) (x1 : W32) (s : State) (hz : Eff z s) :
    EffR z (execRingRegister x0 x1 s) := by
  unfold execRingRegister
  try dsimp only
  repeat' first
    | with_reducible assumption
    | with_reducible exact Eff.refl _
    | with_reducible apply runCmd_eff
    | with_reducible apply layRegister_eff
    | with_reducible apply finishCmd_eff
    | with_reducible apply refuseCmd_eff
    | intro _
    | split

theorem execEntryFetch_eff {z : State} (x0 : Nat) (s : State) (hz : Eff z s) : EffR z (execEntryFetch x0 s) := by
  unfold execEntryFetch
  try dsimp only
  repeat' first
    | with_reducible assumption
    | with_reducible apply answer_eff
    | with_reducible apply hostRead_eff
    | with_reducible apply Eff.ite

theorem execFreeComplete_eff {z : State} (x0 : Nat) (s : State) (hz : Eff z s) : EffR z (execFreeComplete x0 s) := by
  unfold execFreeComplete
  try dsimp only
  repeat' first
    | with_reducible assumption
    | with_reducible apply answer_eff
    | with_reducible apply freeEntry_eff
    | with_reducible apply finishCmd_eff
    | with_reducible apply Eff.ite
    | split

theorem execRingFree_eff {z : State} (x0 : Nat) (x1 : W32) (s : State) (hz : Eff z s) :
    EffR z (execRingFree x0 x1 s) := by
  unfold execRingFree
  try dsimp only
  repeat' first
    | with_reducible assumption
    | with_reducible exact Eff.refl _
    | with_reducible apply runCmd_eff
    | with_reducible apply runningCmd_eff
    | with_reducible apply layFree_eff
    | with_reducible apply refuseCmd_eff
    | intro _
    | split

end Sys2Proof.Machine
end

