-- ==== Sys2Proof/Laws/EffRegs.lean ====
section
/-!
SUPPORT. Sys2Proof/Laws/EffRegs.lean: what each operation of PowerReq.lean, Curator.lean, RegRead.lean, Regs.lean keeps (`Eff`), one lemma each.
-/
namespace Sys2Proof.Machine

/-! ## PowerReq -/

theorem reqRefuse_eff {z : State} (s : State) (x1 : Nat) (hz : Eff z s) : Eff z (reqRefuse s x1) := by
  unfold reqRefuse
  try dsimp only
  repeat' first
    | with_reducible assumption
    | with_reducible apply rmod_eff

theorem reqAccept_eff {z : State} (s : State) (hz : Eff z s) : Eff z (reqAccept s) := by
  unfold reqAccept
  try dsimp only
  repeat' first
    | with_reducible assumption
    | with_reducible apply rmod_eff

theorem requestRun_eff {z : State} (s : State) (x1 : Sys2Proof.Writer) (hz : Eff z s) : Eff z (requestRun s x1) := by
  unfold requestRun
  try dsimp only
  repeat' first
    | with_reducible assumption
    | with_reducible apply reqRefuse_eff
    | with_reducible apply startWake_eff
    | with_reducible apply reqAccept_eff
    | with_reducible apply powerOnReset_eff
    | with_reducible apply Eff.ite
    | rw [State.mk_others]
    | with_reducible apply Eff.others
    | split

theorem requestSleep_eff {z : State} (s : State) (x1 : BitVec 3) (hz : Eff z s) : Eff z (requestSleep s x1) := by
  unfold requestSleep
  try dsimp only
  repeat' first
    | with_reducible assumption
    | with_reducible apply reqRefuse_eff
    | with_reducible apply reqAccept_eff
    | with_reducible apply Eff.ite
    | rw [State.mk_others]
    | with_reducible apply Eff.others
    | split

theorem requestOff_eff {z : State} (s : State) (hz : Eff z s) : Eff z (requestOff s) := by
  unfold requestOff
  try dsimp only
  repeat' first
    | with_reducible assumption
    | with_reducible apply enterOff_eff
    | rw [State.mk_others]
    | with_reducible apply Eff.others

theorem pwrCtlWrite_eff {z : State} (s : State) (x1 : Sys2Proof.Writer) (x2 : W64) (hz : Eff z s) :
    Eff z (pwrCtlWrite s x1 x2) := by
  unfold pwrCtlWrite
  try dsimp only
  repeat' first
    | with_reducible assumption
    | with_reducible apply requestRun_eff
    | with_reducible apply requestSleep_eff
    | with_reducible apply reqRefuse_eff
    | with_reducible apply requestOff_eff
    | with_reducible apply Eff.ite
    | split

theorem requestWarm_eff {z : State} (s : State) (hz : Eff z s) : Eff z (requestWarm s) := by
  unfold requestWarm
  try dsimp only
  repeat' first
    | with_reducible assumption
    | with_reducible apply startWake_eff
    | with_reducible apply warmReset_eff
    | with_reducible apply Eff.ite
    | rw [State.mk_others]
    | with_reducible apply Eff.others

theorem queueResetCore_eff {z : State} (s : State) (x1 : Fin 72) (hz : Eff z s) : Eff z (queueResetCore s x1) := by
  unfold queueResetCore
  try dsimp only
  repeat' first
    | with_reducible assumption
    | with_reducible apply modCore_eff
    | with_reducible apply reclaimTags_eff
    | with_reducible apply stopCore_eff
    | with_reducible apply reseedCore_eff
    | with_reducible apply markStopping_eff
    | with_reducible apply Eff.ite

theorem pwrResetWrite_eff {z : State} (s : State) (x1 : W64) (hz : Eff z s) : Eff z (pwrResetWrite s x1) := by
  unfold pwrResetWrite
  try dsimp only
  repeat' first
    | with_reducible assumption
    | with_reducible apply requestWarm_eff
    | with_reducible apply queueResetCore_eff
    | split


/-! ## Curator -/

theorem fwCmdWrite_eff {z : State} (s : State) (x1 : W64) (hz : Eff z s) : Eff z (fwCmdWrite s x1) := by
  unfold fwCmdWrite
  try dsimp only
  repeat' first
    | with_reducible assumption
    | with_reducible apply fwState_eff
    | with_reducible apply hostRead_eff
    | with_reducible apply Eff.ite
    | rw [State.mk_cur]
    | with_reducible apply Eff.others
    | with_reducible apply Eff.putCur
    | (with_reducible refine CurEff.of_eq ?_ ?_ ?_ ?_ ?_) <;> rfl

theorem startWipe_eff {z : State} (s : State) (x1 : Nat) (hz : Eff z s) : Eff z (startWipe s x1) := by
  unfold startWipe
  try dsimp only
  repeat' first
    | with_reducible assumption
    | rw [State.mk_cur]
    | with_reducible apply Eff.others
    | with_reducible apply Eff.putCur
    | (with_reducible refine CurEff.of_eq ?_ ?_ ?_ ?_ ?_) <;> rfl

theorem lcBegin_eff {z : State} (s : State) (t : BitVec 3) (hz : Eff z s)
    (ht : OpLegal z.cur → lcLegal s.cur.lc t = true) : Eff z (lcBegin s t) := by
  unfold lcBegin
  apply startWipe_eff
  apply lcState_eff
  rw [State.mk_cur]
  have h0 : Eff z (s.others s.free s.cores s.map s.memErr s.galErr s.vit s.lay s.timeNs s.memMap s.memPend s.consv s.host s.fab
      s.col s.ras s.latches s.power s.mgmt s.dbg s.out) := Eff.others hz
  refine ⟨h0.pending, h0.mem, h0.regs, ?_⟩
  refine ⟨h0.cur.lc, h0.cur.svn, h0.cur.uds, h0.cur.tam, fun h o ho => ?_⟩
  cases ho
  exact ht h

theorem lcLegal_token {a b : BitVec 3} (h : tokenTransition a b = true) : lcLegal a b = true := by
  revert h
  revert a b
  decide

theorem lcCmdWrite_eff {z : State} (s : State) (v : W64) (hz : Eff z s) : Eff z (lcCmdWrite s v) := by
  unfold lcCmdWrite
  lift_lets
  intro t c1 s1
  have hs : ∀ x : Option W64, Eff z { s with cur := { s.cur with scrap := x } } := fun x => by
    rw [State.mk_cur]
    exact Eff.putCur (Eff.others hz) (CurEff.of_eq rfl rfl rfl rfl rfl)
  apply Eff.ite hz
  apply Eff.ite (lcState_eff _ _ (newNonce_eff _ (logCur_eff _ _ _ hz)))
  split
  · rename_i h5
    split
    · exact lcRefuse_eff _ _ hz
    · rename_i hl
      split
      · apply Eff.ite _ (hs _)
        apply lcBegin_eff _ _ hz
        intro _
        rw [h5]
        unfold lcLegal
        rw [Bool.or_eq_true]
        right
        simp only [decide_true, Bool.and_true, decide_eq_true_eq]
        exact hl
      · exact hs _
  · split
    · exact lcRefuse_eff _ _ hz
    · rename_i ht
      have h1 : Eff z s1 := hz.trans ⟨rfl, id, id, ⟨rfl, Nat.le_refl _, id, id, fun _ o ho => by
        cases ho
        exact lcLegal_token (by simpa using ht)⟩⟩
      exact lcState_eff _ _ (hostRead_eff _ _ _ _ h1)

theorem svcState_eff {z : State} (s : State) (x1 : Nat) (x2 : Nat) (hz : Eff z s) : Eff z (svcState s x1 x2) := by
  unfold svcState
  try dsimp only
  repeat' first
    | with_reducible assumption
    | with_reducible apply rmod_eff

theorem svcCmdWrite_eff {z : State} (s : State) (x1 : W64) (hz : Eff z s) : Eff z (svcCmdWrite s x1) := by
  unfold svcCmdWrite
  try dsimp only
  repeat' first
    | with_reducible assumption
    | with_reducible exact Eff.refl _
    | with_reducible apply svcState_eff
    | with_reducible apply logCur_eff
    | with_reducible apply withRecord_eff
    | with_reducible apply Eff.ite
    | intro _
    | rw [State.mk_cur]
    | with_reducible apply Eff.others
    | with_reducible apply Eff.putCur
    | (with_reducible refine CurEff.of_eq ?_ ?_ ?_ ?_ ?_) <;> rfl
    | split

theorem intoVitrine_eff {z : State} (s : State) (x1 : Nat) (x2 : List Byte) (hz : Eff z s) :
    Eff z (intoVitrine s x1 x2) := by
  unfold intoVitrine
  try dsimp only
  repeat' first
    | with_reducible assumption
    | rw [State.mk_cur]
    | with_reducible apply Eff.others
    | with_reducible apply Eff.putCur
    | (with_reducible refine CurEff.of_eq ?_ ?_ ?_ ?_ ?_) <;> rfl

theorem deriveKeys_eff {z : State} (s : State) (hz : Eff z s) : Eff z (deriveKeys s) := by
  unfold deriveKeys
  try dsimp only
  repeat' first
    | with_reducible assumption
    | with_reducible apply Eff.ite
    | rw [State.mk_cur]
    | with_reducible apply Eff.others
    | with_reducible apply Eff.putCur
    | (with_reducible refine CurEff.of_eq ?_ ?_ ?_ ?_ ?_) <;> rfl

theorem leNat_lt : ∀ l : List Byte, leNat l < 256 ^ l.length
  | [] => Nat.one_pos
  | b :: t => by
    have h := leNat_lt t
    have hb := b.isLt
    simp only [leNat, List.length_cons, Nat.pow_succ]
    omega

theorem imageSvn_lt (img : List Byte) : imageSvn img < 2 ^ 16 := by
  unfold imageSvn fieldAt
  have h := leNat_lt (slice img 0xC 2)
  have hl : (slice img 0xC 2).length ≤ 2 := List.length_take_le _ _
  have := Nat.pow_le_pow_right (n := 256) (by decide) hl
  omega

theorem runImage_eff {z : State} (s : State) (img : List Byte) (hz : Eff z s) : Eff z (runImage s img) := by
  unfold runImage
  rw [State.mk_cur]
  refine Eff.putCur (Eff.others hz) ⟨rfl, ?_, id, id, fun h => h⟩
  have := s.cur.svnMin.isLt
  show s.cur.svnMin.toNat ≤ (BitVec.ofNat 16 (max s.cur.svnMin.toNat (imageSvn img))).toNat
  rw [BitVec.toNat_ofNat, Nat.mod_eq_of_lt]
  · exact Nat.le_max_left _ _
  · exact Nat.max_lt.mpr ⟨this, imageSvn_lt img⟩

theorem firmwareArrived_eff {z : State} (s : State) (x1 : List Byte) (hz : Eff z s) : Eff z (firmwareArrived s x1) := by
  unfold firmwareArrived
  try dsimp only
  repeat' first
    | with_reducible assumption
    | with_reducible apply intoVitrine_eff
    | with_reducible apply fwState_eff
    | with_reducible apply logCur_eff
    | with_reducible apply bootRest_eff
    | with_reducible apply rmod_eff
    | with_reducible apply deriveKeys_eff
    | with_reducible apply runImage_eff
    | with_reducible apply Eff.ite
    | rw [State.mk_cur]
    | with_reducible apply Eff.others
    | with_reducible apply Eff.putCur
    | (with_reducible refine CurEff.of_eq ?_ ?_ ?_ ?_ ?_) <;> rfl
    | split

theorem tokenArrived_eff {z : State} (s : State) (d : List Byte) (hz : Eff z s) : Eff z (tokenArrived s d) := by
  unfold tokenArrived
  split
  · exact hz
  · rename_i op hop
    apply Eff.ite _ (lcRefuse_eff _ _ hz)
    exact lcBegin_eff _ _ hz fun h => hz.cur.op h op hop

theorem spdmServe_eff {z : State} (s : State) (x1 : SpdmReq) (hz : Eff z s) : Eff z (spdmServe s x1) := by
  unfold spdmServe
  try dsimp only
  repeat' first
    | with_reducible assumption
    | with_reducible apply emit_eff
    | with_reducible apply logCur_eff
    | with_reducible apply Eff.ite

theorem spdmRequest_eff {z : State} (s : State) (x1 : SpdmReq) (hz : Eff z s) : Eff z (spdmRequest s x1) := by
  unfold spdmRequest
  try dsimp only
  repeat' first
    | with_reducible assumption
    | with_reducible apply spdmServe_eff
    | with_reducible apply Eff.ite
    | rw [State.mk_cur]
    | with_reducible apply Eff.others
    | with_reducible apply Eff.putCur
    | (with_reducible refine CurEff.of_eq ?_ ?_ ?_ ?_ ?_) <;> rfl

theorem execChallenge_eff {z : State} (x0 : Bool) (x1 : Nat) (s : State) (hz : Eff z s) :
    EffR z (execChallenge x0 x1 s) := by
  unfold execChallenge
  try dsimp only
  repeat' first
    | with_reducible assumption
    | with_reducible apply answer_eff
    | with_reducible apply spdmRequest_eff

theorem curatorBoot_eff {z : State} (s : State) (hz : Eff z s) : Eff z (curatorBoot s) := by
  unfold curatorBoot
  try dsimp only
  repeat' first
    | with_reducible assumption
    | with_reducible apply logCur_eff
    | with_reducible apply deriveKeys_eff
    | with_reducible apply runImage_eff
    | with_reducible apply intoVitrine_eff
    | with_reducible apply bootRest_eff
    | with_reducible apply rmod_eff
    | with_reducible apply Eff.ite
    | rw [State.mk_others]
    | with_reducible apply Eff.others
    | split

theorem lcFinish_effL (s : State) (op : LcOp) (h : s.cur.lcOp = some op) : EffL s (lcFinish s op.target) := by
  unfold lcFinish
  apply EffL.trans _ (newChain_eff _ _ (lcState_eff _ _ (newNonce_eff _ (Eff.refl _))))
  refine ⟨rfl, id, id, Nat.le_refl _, fun hu => ?_, fun ho => .inr (ho op h), fun _ o ho => (by cases ho), fun ht => ?_⟩
  · show (s.cur.udsErased || _) = true
    rw [hu]
    rfl
  · by_cases hb : s.cur.lc = 4 ∧ op.target = 1
    · exact .inr hb
    · left
      show (if decide (s.cur.lc = 4 ∧ op.target = 1) then none else s.cur.tampered).isSome = true
      rw [if_neg (by simpa using hb)]
      exact ht

theorem execGetDigests_eff {z : State} (x0 : Bool) (s : State) (hz : Eff z s) : EffR z (execGetDigests x0 s) := by
  unfold execGetDigests
  try dsimp only
  repeat' first
    | with_reducible assumption
    | with_reducible apply answer_eff
    | with_reducible apply spdmRequest_eff

theorem execGetCapabilities_eff {z : State} (x0 : Bool) (s : State) (hz : Eff z s) :
    EffR z (execGetCapabilities x0 s) := by
  unfold execGetCapabilities
  try dsimp only
  repeat' first
    | with_reducible assumption
    | with_reducible apply answer_eff
    | with_reducible apply spdmRequest_eff

theorem breakFlash_eff {z : State} (s : State) (hz : Eff z s) : Eff z (breakFlash s) := by
  unfold breakFlash
  try dsimp only
  repeat' first
    | with_reducible assumption
    | with_reducible apply Eff.ite
    | rw [State.mk_others]
    | rw [State.mk_cur]
    | with_reducible apply Eff.others
    | with_reducible apply Eff.putCur
    | (with_reducible refine CurEff.of_eq ?_ ?_ ?_ ?_ ?_) <;> rfl
    | split

theorem abandonOps_eff {z : State} (s : State) (hz : Eff z s) : Eff z (abandonOps s) := by
  unfold abandonOps
  try dsimp only
  repeat' first
    | with_reducible assumption
    | with_reducible apply dropReads_eff
    | with_reducible apply breakFlash_eff
    | with_reducible apply fwState_eff
    | with_reducible apply lcState_eff
    | with_reducible apply newNonce_eff
    | with_reducible apply Eff.ite
    | rw [State.mk_cur]
    | with_reducible apply Eff.others
    | with_reducible apply Eff.putCur
    | (with_reducible refine CurEff.of_none ?_ ?_ ?_ ?_ ?_) <;> rfl

theorem execBootFlashWriteDone_eff {z : State} (x0 : Bool) (s : State) (hz : Eff z s) :
    EffR z (execBootFlashWriteDone x0 s) := by
  unfold execBootFlashWriteDone
  try dsimp only
  repeat' first
    | with_reducible assumption
    | with_reducible apply answer_eff
    | with_reducible apply fwState_eff
    | with_reducible apply Eff.ite
    | rw [State.mk_cur]
    | with_reducible apply Eff.others
    | with_reducible apply Eff.putCur
    | (with_reducible refine CurEff.of_eq ?_ ?_ ?_ ?_ ?_) <;> rfl
    | split

theorem execTamper_eff {z : State} (x : Fin 4) (s : State) (hz : Eff z s) : EffR z (execTamper x s) := by
  unfold execTamper
  refine answer_eff _ _ hz ?_
  apply Eff.ite _ hz
  lift_lets
  intro s1 c1 s2
  have h1 : Eff z s1 := abandonOps_eff _ (forceSafe_eff _ hz)
  have h2 : Eff z s2 := h1.trans ⟨rfl, id, id, ⟨rfl, Nat.le_refl _, id, fun _ => rfl, fun h => h⟩⟩
  exact faultState_eff _ (logCur_eff _ _ _ (startWipe_eff _ _ h2))

theorem execGetCertificate_eff {z : State} (x0 : Bool) (x1 : Nat) (s : State) (hz : Eff z s) :
    EffR z (execGetCertificate x0 x1 s) := by
  unfold execGetCertificate
  try dsimp only
  repeat' first
    | with_reducible assumption
    | with_reducible apply answer_eff
    | with_reducible apply spdmRequest_eff

theorem execTilwenTestAccess_eff {z : State} (s : State) (hz : Eff z s) : EffR z (execTilwenTestAccess s) := by
  unfold execTilwenTestAccess
  refine answer_eff _ _ hz ?_
  split
  · rename_i h
    apply lcBegin_eff _ _ hz
    intro _
    simp only [Bool.and_eq_true, decide_eq_true_eq] at h
    rw [h.1.1]
    decide
  · exact hz

theorem execGetMeasurements_eff {z : State} (x0 : Bool) (x1 : List Nat) (x2 : Bool) (s : State) (hz : Eff z s) :
    EffR z (execGetMeasurements x0 x1 x2 s) := by
  unfold execGetMeasurements
  try dsimp only
  repeat' first
    | with_reducible assumption
    | with_reducible apply answer_eff
    | with_reducible apply spdmRequest_eff

theorem execNegotiateAlgorithms_eff {z : State} (x0 : Bool) (s : State) (hz : Eff z s) :
    EffR z (execNegotiateAlgorithms x0 s) := by
  unfold execNegotiateAlgorithms
  try dsimp only
  repeat' first
    | with_reducible assumption
    | with_reducible apply answer_eff
    | with_reducible apply spdmRequest_eff

theorem execDoeDiscovery_eff {z : State} (x0 : Byte) (s : State) (hz : Eff z s) : EffR z (execDoeDiscovery x0 s) := by
  unfold execDoeDiscovery
  try dsimp only
  repeat' first
    | with_reducible assumption
    | with_reducible apply answer_eff
    | with_reducible apply emit_eff
    | with_reducible apply Eff.ite

theorem execGetVersion_eff {z : State} (x0 : Bool) (s : State) (hz : Eff z s) : EffR z (execGetVersion x0 s) := by
  unfold execGetVersion
  try dsimp only
  repeat' first
    | with_reducible assumption
    | with_reducible apply answer_eff
    | with_reducible apply spdmRequest_eff


/-! ## RegRead -/

theorem setLatch_eff {z : State} (s : State) (x1 : Fin 3) (x2 : Latches → Latches) (hz : Eff z s) :
    Eff z (setLatch s x1 x2) := by
  unfold setLatch
  try dsimp only
  repeat' first
    | with_reducible assumption
    | rw [State.mk_others]
    | with_reducible apply Eff.others

theorem regRead_eff {z : State} (s : State) (x1 : RegName) (x2 : Nat) (x3 : Nat) (hz : Eff z s) :
    Eff z (regRead s x1 x2 x3).2 := by
  unfold regRead
  try dsimp only
  repeat' first
    | with_reducible assumption
    | with_reducible apply memSync_eff
    | with_reducible apply confSync_eff
    | with_reducible apply Eff.ite
    | rw [State.mk_others]
    | with_reducible apply Eff.others

theorem plainRead4_eff {z : State} (s : State) (x1 : Nat) (hz : Eff z s) : Eff z (plainRead4 s x1).2 := by
  unfold plainRead4
  try dsimp only
  repeat' first
    | with_reducible assumption
    | dsimp only
    | with_reducible apply regRead_eff
    | split

theorem read8_eff {z : State} (s : State) (x1 : Nat) (hz : Eff z s) : Eff z (read8 s x1).2 := by
  unfold read8
  try dsimp only
  repeat' first
    | with_reducible assumption
    | dsimp only
    | with_reducible apply regRead_eff
    | with_reducible apply plainRead4_eff
    | split

theorem latchRead4_eff {z : State} (s : State) (x1 : Fin 3) (x2 : Nat) (hz : Eff z s) :
    Eff z (latchRead4 s x1 x2).2 := by
  unfold latchRead4
  try dsimp only
  repeat' first
    | with_reducible assumption
    | dsimp only
    | with_reducible apply setLatch_eff
    | with_reducible apply plainRead4_eff
    | with_reducible apply regRead_eff
    | with_reducible apply Eff.ite2
    | split

theorem ifaceRead_eff {z : State} (s : State) (x1 : Fin 3) (x2 : Nat) (x3 : Nat) (hz : Eff z s) :
    Eff z (ifaceRead s x1 x2 x3).2 := by
  unfold ifaceRead
  try dsimp only
  repeat' first
    | with_reducible assumption
    | dsimp only
    | with_reducible apply read8_eff
    | with_reducible apply latchRead4_eff
    | with_reducible apply Eff.ite2


/-! ## Regs -/

theorem dropWr_eff {z : State} (s : State) (x1 : Sys2Proof.Writer) (hz : Eff z s) : Eff z (dropWr s x1) := by
  unfold dropWr
  try dsimp only
  repeat' first
    | with_reducible assumption
    | with_reducible apply setLatch_eff
    | split

theorem dropOther_eff {z : State} (s : State) (x1 : Sys2Proof.Writer) (x2 : Nat) (hz : Eff z s) :
    Eff z (dropOther s x1 x2) := by
  unfold dropOther
  try dsimp only
  repeat' first
    | with_reducible assumption
    | with_reducible apply dropWr_eff
    | with_reducible apply Eff.ite
    | split

theorem latchStep_eff {z : State} (s : State) (x1 : Sys2Proof.Writer) (x2 : Nat) (x3 : Nat) (x4 : W64) (hz : Eff z s) :
    Eff z (latchStep s x1 x2 x3 x4).1 := by
  unfold latchStep
  try dsimp only
  repeat' first
    | with_reducible assumption
    | dsimp only
    | with_reducible apply setLatch_eff
    | with_reducible apply dropWr_eff
    | with_reducible apply Eff.ite1
    | split

theorem holdWrite0_eff {z : State} (s : State) (x1 : Nat) (x2 : Nat) (x3 : W64) (hz : Eff z s) :
    Eff z (holdWrite0 s x1 x2 x3) := by
  unfold holdWrite0
  try dsimp only
  repeat' first
    | with_reducible assumption
    | with_reducible apply latchStep_eff
    | with_reducible apply startWake_eff
    | with_reducible apply holdAccess_eff
    | split

theorem plainWrite_eff {z : State} (s : State) (x1 : RegName) (x2 : Nat) (x3 : Nat) (x4 : W64) (x5 : W64) (hz : Eff z s) :
    Eff z (plainWrite s x1 x2 x3 x4 x5) := by
  unfold plainWrite
  try dsimp only
  repeat' first
    | with_reducible assumption
    | with_reducible apply rmod_eff

theorem catRefused_eff {z : State} (s : State) (x1 : Bool) (hz : Eff z s) : Eff z (catRefused s x1) := by
  unfold catRefused
  try dsimp only
  repeat' first
    | with_reducible assumption
    | with_reducible apply rmod_eff

theorem catBaseWrite_eff {z : State} (s : State) (x1 : W64) (x2 : W64) (hz : Eff z s) :
    Eff z (catBaseWrite s x1 x2) := by
  unfold catBaseWrite
  try dsimp only
  repeat' first
    | with_reducible assumption
    | with_reducible apply catRefused_eff
    | with_reducible apply plainWrite_eff
    | with_reducible apply Eff.ite

theorem catCtlWrite_eff {z : State} (s : State) (x1 : W64) (hz : Eff z s) : Eff z (catCtlWrite s x1) := by
  unfold catCtlWrite
  try dsimp only
  repeat' first
    | with_reducible assumption
    | with_reducible apply catRefused_eff
    | with_reducible apply rmod_eff
    | with_reducible apply Eff.ite

theorem portCtlWrite_eff {z : State} (s : State) (x1 : Nat) (x2 : W64) (x3 : W64) (hz : Eff z s) :
    Eff z (portCtlWrite s x1 x2 x3) := by
  unfold portCtlWrite
  try dsimp only
  repeat' first
    | with_reducible assumption
    | with_reducible apply plainWrite_eff
    | with_reducible apply portReset_eff
    | with_reducible apply Eff.ite

theorem leaveInit_eff {z : State} (s : State) (x1 : Fin 16) (hz : Eff z s) : Eff z (leaveInit s x1) := by
  unfold leaveInit
  try dsimp only
  repeat' first
    | with_reducible assumption
    | with_reducible apply settleInit_eff

theorem topoWrite_eff {z : State} (s : State) (x1 : W64) (x2 : W64) (hz : Eff z s) : Eff z (topoWrite s x1 x2) := by
  unfold topoWrite
  try dsimp only
  repeat' first
    | with_reducible assumption
    | with_reducible exact Eff.refl _
    | with_reducible apply plainWrite_eff
    | with_reducible apply fillRoutes_eff
    | with_reducible apply leaveInit_eff
    | with_reducible apply Eff.ite
    | with_reducible apply Eff.foldl
    | intro _

theorem syntCtlWrite_eff {z : State} (s : State) (x1 : W64) (x2 : W64) (hz : Eff z s) :
    Eff z (syntCtlWrite s x1 x2) := by
  unfold syntCtlWrite
  try dsimp only
  repeat' first
    | with_reducible assumption
    | with_reducible apply plainWrite_eff
    | with_reducible apply slewTo_eff
    | with_reducible apply Eff.ite

theorem planCtlWrite_eff {z : State} (s : State) (x1 : W64) (hz : Eff z s) : Eff z (planCtlWrite s x1) := by
  unfold planCtlWrite
  try dsimp only
  repeat' first
    | with_reducible assumption
    | with_reducible apply planLoad_eff
    | with_reducible apply planUnload_eff
    | with_reducible apply Eff.ite

theorem annexCmdWrite_eff {z : State} (s : State) (x1 : W64) (x2 : W64) (hz : Eff z s) :
    Eff z (annexCmdWrite s x1 x2) := by
  unfold annexCmdWrite
  try dsimp only
  repeat' first
    | with_reducible assumption
    | with_reducible apply rmod_eff
    | with_reducible apply annexStart_eff
    | with_reducible apply annexState_eff
    | with_reducible apply Eff.ite

theorem clkDomWrite_eff {z : State} (s : State) (x1 : Nat) (x2 : W64) (x3 : W64) (hz : Eff z s) :
    Eff z (clkDomWrite s x1 x2 x3) := by
  unfold clkDomWrite
  try dsimp only
  repeat' first
    | with_reducible assumption
    | with_reducible apply plainWrite_eff
    | with_reducible apply sleepPorts_eff
    | with_reducible apply portReset_eff
    | with_reducible apply Eff.ite

theorem timeCtlWrite_eff {z : State} (s : State) (x1 : W64) (x2 : W64) (hz : Eff z s) :
    Eff z (timeCtlWrite s x1 x2) := by
  unfold timeCtlWrite
  try dsimp only
  repeat' first
    | with_reducible assumption
    | with_reducible apply plainWrite_eff
    | with_reducible apply setTimeBit_eff
    | with_reducible apply Eff.ite
    | rw [State.mk_others]
    | with_reducible apply Eff.others

theorem ptpCtlWrite_eff {z : State} (s : State) (x1 : W64) (x2 : W64) (hz : Eff z s) : Eff z (ptpCtlWrite s x1 x2) := by
  unfold ptpCtlWrite
  try dsimp only
  repeat' first
    | with_reducible assumption
    | with_reducible apply plainWrite_eff
    | with_reducible apply Eff.ite
    | rw [State.mk_others]
    | with_reducible apply Eff.others

theorem alertCtlWrite_eff {z : State} (s : State) (x1 : Sys2Proof.Writer) (x2 : W64) (x3 : W64) (hz : Eff z s) :
    Eff z (alertCtlWrite s x1 x2 x3) := by
  unfold alertCtlWrite
  try dsimp only
  repeat' first
    | with_reducible assumption
    | with_reducible apply plainWrite_eff
    | with_reducible apply Eff.ite
    | rw [State.mk_others]
    | with_reducible apply Eff.others

theorem clearLog_eff {z : State} (s : State) (x1 : RegName) (x2 : RegName) (x3 : Nat) (x4 : W64) (x5 : W64)
    (hz : Eff z s) :
    Eff z (clearLog s x1 x2 x3 x4 x5) := by
  unfold clearLog
  try dsimp only
  repeat' first
    | with_reducible assumption
    | with_reducible apply rset_eff
    | with_reducible apply Eff.ite

theorem regEffect_eff {z : State} (s : State) (x1 : Sys2Proof.Writer) (x2 : RegName) (x3 : Nat) (x4 : Nat)
    (x5 : W64) (x6 : W64) (hz : Eff z s) :
    Eff z (regEffect s x1 x2 x3 x4 x5 x6) := by
  unfold regEffect
  try dsimp only
  repeat' first
    | with_reducible assumption
    | with_reducible apply modCore_eff
    | with_reducible apply genCtlEffect_eff
    | with_reducible apply plainWrite_eff
    | with_reducible apply retireWrite_eff
    | with_reducible apply handoverWrite_eff
    | with_reducible apply swizzleSet_eff
    | with_reducible apply dtabWrite_eff
    | with_reducible apply reinitWrite_eff
    | with_reducible apply memRetireWrite_eff
    | with_reducible apply catBaseWrite_eff
    | with_reducible apply catCtlWrite_eff
    | with_reducible apply ctxOpWrite_eff
    | with_reducible apply portCtlWrite_eff
    | with_reducible apply writeRole_eff
    | with_reducible apply topoWrite_eff
    | with_reducible apply syntCtlWrite_eff
    | with_reducible apply planCtlWrite_eff
    | with_reducible apply annexCmdWrite_eff
    | with_reducible apply clkDomWrite_eff
    | with_reducible apply pwrCtlWrite_eff
    | with_reducible apply pwrResetWrite_eff
    | with_reducible apply fwCmdWrite_eff
    | with_reducible apply lcCmdWrite_eff
    | with_reducible apply svcCmdWrite_eff
    | with_reducible apply timeCtlWrite_eff
    | with_reducible apply ptpCtlWrite_eff
    | with_reducible apply alertCtlWrite_eff
    | with_reducible apply pmcWrite_eff
    | with_reducible apply obsWrite_eff
    | with_reducible apply clearLog_eff
    | with_reducible apply Eff.ite
    | split

theorem takeEffect_eff {z : State} (s : State) (x1 : Sys2Proof.Writer) (x2 : RegHit) (x3 : Nat) (x4 : Nat)
    (x5 : W64) (x6 : W64) (hz : Eff z s) :
    Eff z (takeEffect s x1 x2 x3 x4 x5 x6) := by
  unfold takeEffect
  try dsimp only
  repeat' first
    | with_reducible assumption
    | with_reducible exact Eff.refl _
    | with_reducible apply regRead_eff
    | with_reducible apply regEffect_eff
    | with_reducible apply withRecord_eff
    | with_reducible apply Eff.ite
    | intro _

theorem msixPut_eff {z : State} (s : State) (x1 : Nat) (x2 : W32) (hz : Eff z s) : Eff z (msixPut s x1 x2) := by
  unfold msixPut
  try dsimp only
  repeat' first
    | with_reducible assumption
    | with_reducible apply sendMsix_eff
    | with_reducible apply Eff.ite
    | rw [State.mk_others]
    | with_reducible apply Eff.others

theorem msixWrite_eff {z : State} (s : State) (x1 : Sys2Proof.Writer) (x2 : Nat) (x3 : W32) (hz : Eff z s) :
    Eff z (msixWrite s x1 x2 x3) := by
  unfold msixWrite
  try dsimp only
  repeat' first
    | with_reducible assumption
    | with_reducible exact Eff.refl _
    | with_reducible apply withRecord_eff
    | with_reducible apply msixPut_eff
    | with_reducible apply Eff.ite
    | intro _

theorem plainWrite4_eff {z : State} (s : State) (x1 : Sys2Proof.Writer) (x2 : Nat) (x3 : W32) (hz : Eff z s) :
    Eff z (plainWrite4 s x1 x2 x3) := by
  unfold plainWrite4
  try dsimp only
  repeat' first
    | with_reducible assumption
    | with_reducible apply msixWrite_eff
    | with_reducible apply takeEffect_eff
    | with_reducible apply Eff.ite
    | split

theorem write8_eff {z : State} (s : State) (x1 : Sys2Proof.Writer) (x2 : Nat) (x3 : W64) (hz : Eff z s) :
    Eff z (write8 s x1 x2 x3) := by
  unfold write8
  try dsimp only
  repeat' first
    | with_reducible assumption
    | with_reducible apply takeEffect_eff
    | with_reducible apply plainWrite4_eff
    | split

theorem applyWrite_eff {z : State} (s : State) (x1 : Sys2Proof.Writer) (x2 : PassedWrite) (hz : Eff z s) :
    Eff z (applyWrite s x1 x2) := by
  unfold applyWrite
  try dsimp only
  repeat' first
    | with_reducible assumption
    | with_reducible apply write8_eff
    | with_reducible apply plainWrite4_eff
    | with_reducible apply Eff.ite

theorem passWrite_eff {z : State} (s : State) (x1 : Sys2Proof.Writer) (x2 : PassedWrite) (x3 : W32) (x4 : Bool)
    (hz : Eff z s) :
    Eff z (passWrite s x1 x2 x3 x4) := by
  unfold passWrite
  try dsimp only
  repeat' first
    | with_reducible assumption
    | with_reducible apply holdWrite_eff
    | with_reducible apply applyWrite_eff
    | with_reducible apply Eff.ite

theorem acceptWrite_eff {z : State} (s : State) (x1 : Sys2Proof.Writer) (x2 : Nat) (x3 : Nat) (x4 : W64)
    (x5 : optParam W32 0) (x6 : optParam Bool false) (hz : Eff z s) :
    Eff z (acceptWrite s x1 x2 x3 x4 x5 x6) := by
  unfold acceptWrite
  try dsimp only
  repeat' first
    | with_reducible assumption
    | with_reducible apply latchStep_eff
    | with_reducible apply passWrite_eff
    | split

theorem hostWrite0_eff {z : State} (s : State) (x1 : Nat) (x2 : Nat) (x3 : W64) (hz : Eff z s) :
    Eff z (hostWrite0 s x1 x2 x3) := by
  unfold hostWrite0
  try dsimp only
  repeat' first
    | with_reducible assumption
    | with_reducible apply dropOther_eff
    | with_reducible apply holdWrite0_eff
    | with_reducible apply acceptWrite_eff
    | with_reducible apply Eff.ite

theorem regWrite_eff {z : State} (x0 : Sys2Proof.Writer) (x1 : Nat) (x2 : Nat) (x3 : W64) (s : State) (hz : Eff z s) :
    Eff z (regWrite x0 x1 x2 x3 s) := by
  unfold regWrite
  try dsimp only
  repeat' first
    | with_reducible assumption
    | with_reducible apply hostWrite0_eff
    | with_reducible apply acceptWrite_eff
    | with_reducible apply dropOther_eff
    | with_reducible apply Eff.ite
    | split

theorem write32_eff {z : State} (x0 : Sys2Proof.Writer) (x1 : RegName) (x2 : Nat) (x3 : Nat) (x4 : W32) (s : State)
    (hz : Eff z s) :
    EffR z (write32 x0 x1 x2 x3 x4 s) := by
  unfold write32
  try dsimp only
  repeat' first
    | with_reducible assumption
    | with_reducible apply answer_eff
    | with_reducible apply regWrite_eff

theorem execReqDeep_eff {z : State} (x0 : Sys2Proof.Writer) (s : State) (hz : Eff z s) : EffR z (execReqDeep x0 s) := by
  unfold execReqDeep
  try dsimp only
  repeat' first
    | with_reducible assumption
    | with_reducible apply write32_eff

theorem execPmcSnap_eff {z : State} (x0 : Sys2Proof.Writer) (x1 : W32) (s : State) (hz : Eff z s) :
    EffR z (execPmcSnap x0 x1 s) := by
  unfold execPmcSnap
  try dsimp only
  repeat' first
    | with_reducible assumption
    | with_reducible apply write32_eff

theorem execUnretireCore_eff {z : State} (x0 : Sys2Proof.Writer) (x1 : BitVec 7) (s : State) (hz : Eff z s) :
    EffR z (execUnretireCore x0 x1 s) := by
  unfold execUnretireCore
  try dsimp only
  repeat' first
    | with_reducible assumption
    | with_reducible apply write32_eff

theorem hostRead0_eff {z : State} (s : State) (x1 : Nat) (x2 : Nat) (hz : Eff z s) : Eff z (hostRead0 s x1 x2) := by
  unfold hostRead0
  try dsimp only
  repeat' first
    | with_reducible assumption
    | with_reducible apply ifaceRead_eff
    | with_reducible apply emit_eff

theorem write64_eff {z : State} (x0 : Sys2Proof.Writer) (x1 : RegName) (x2 : Nat) (x3 : Nat) (x4 : W64) (s : State)
    (hz : Eff z s) :
    EffR z (write64 x0 x1 x2 x3 x4 s) := by
  unfold write64
  try dsimp only
  repeat' first
    | with_reducible assumption
    | with_reducible apply answer_eff
    | with_reducible apply regWrite_eff

theorem execLayDtabWrite_eff {z : State} (x0 : Sys2Proof.Writer) (x1 : W64) (s : State) (hz : Eff z s) :
    EffR z (execLayDtabWrite x0 x1 s) := by
  unfold execLayDtabWrite
  try dsimp only
  repeat' first
    | with_reducible assumption
    | with_reducible apply write64_eff

theorem execAnnexRestore_eff {z : State} (x0 : Sys2Proof.Writer) (x1 : W64) (s : State) (hz : Eff z s) :
    EffR z (execAnnexRestore x0 x1 s) := by
  unfold execAnnexRestore
  try dsimp only
  repeat' first
    | with_reducible assumption
    | with_reducible apply write64_eff

theorem execRingEnable_eff {z : State} (x0 : Sys2Proof.Writer) (x1 : W32) (s : State) (hz : Eff z s) :
    EffR z (execRingEnable x0 x1 s) := by
  unfold execRingEnable
  try dsimp only
  repeat' first
    | with_reducible assumption
    | with_reducible apply write32_eff

theorem holdOrRefuse_eff {z : State} (s : State) (a : HeldAccess) (r : State) (hz : Eff z s) (hr : Eff z r) :
    Eff z (holdOrRefuse s a r) := by
  unfold holdOrRefuse
  exact Eff.ite (startWake_eff _ _ (holdAccess_eff _ _ hz)) hr

theorem execMemRetire_eff {z : State} (x0 : Sys2Proof.Writer) (x1 : W32) (s : State) (hz : Eff z s) :
    EffR z (execMemRetire x0 x1 s) := by
  unfold execMemRetire
  try dsimp only
  repeat' first
    | with_reducible assumption
    | with_reducible apply write32_eff

theorem execQueueReset_eff {z : State} (x0 : Sys2Proof.Writer) (x1 : BitVec 7) (s : State) (hz : Eff z s) :
    EffR z (execQueueReset x0 x1 s) := by
  unfold execQueueReset
  try dsimp only
  repeat' first
    | with_reducible assumption
    | with_reducible apply write32_eff

theorem execHandover_eff {z : State} (x0 : Sys2Proof.Writer) (x1 : Fin 64) (x2 : W64) (s : State) (hz : Eff z s) :
    EffR z (execHandover x0 x1 x2 s) := by
  unfold execHandover
  try dsimp only
  repeat' first
    | with_reducible assumption
    | with_reducible apply write64_eff

theorem refuseGo_eff {z : State} (s : State) (x1 : Nat) (x2 : W64) (hz : Eff z s) : Eff z (refuseGo s x1 x2) := by
  unfold refuseGo
  try dsimp only
  repeat' first
    | with_reducible assumption
    | with_reducible apply fwState_eff
    | with_reducible apply lcState_eff
    | with_reducible apply newNonce_eff
    | with_reducible apply logCur_eff
    | with_reducible apply svcState_eff
    | with_reducible apply Eff.ite

theorem recordRefusal_eff {z : State} (s : State) (x1 : HeldWrite) (hz : Eff z s) : Eff z (recordRefusal s x1) := by
  unfold recordRefusal
  try dsimp only
  repeat' first
    | with_reducible assumption
    | with_reducible exact Eff.refl _
    | with_reducible apply regRead_eff
    | with_reducible apply withRecord_eff
    | with_reducible apply refuseGo_eff
    | intro _
    | split

theorem execUnretireCtrl_eff {z : State} (x0 : Sys2Proof.Writer) (x1 : BitVec 7) (s : State) (hz : Eff z s) :
    EffR z (execUnretireCtrl x0 x1 s) := by
  unfold execUnretireCtrl
  try dsimp only
  repeat' first
    | with_reducible assumption
    | with_reducible apply write32_eff

theorem execReqOff_eff {z : State} (x0 : Sys2Proof.Writer) (s : State) (hz : Eff z s) : EffR z (execReqOff x0 s) := by
  unfold execReqOff
  try dsimp only
  repeat' first
    | with_reducible assumption
    | with_reducible apply write32_eff

theorem execFwRecover_eff {z : State} (x0 : Sys2Proof.Writer) (x1 : BitVec 12) (s : State) (hz : Eff z s) :
    EffR z (execFwRecover x0 x1 s) := by
  unfold execFwRecover
  try dsimp only
  repeat' first
    | with_reducible assumption
    | with_reducible apply write32_eff

theorem execRoleWrite_eff {z : State} (x0 : Sys2Proof.Writer) (x1 : Fin 16) (x2 : W32) (s : State) (hz : Eff z s) :
    EffR z (execRoleWrite x0 x1 x2 s) := by
  unfold execRoleWrite
  try dsimp only
  repeat' first
    | with_reducible assumption
    | with_reducible apply write32_eff

theorem execBar0Read_eff {z : State} (x0 : Nat) (x1 : Nat) (s : State) (hz : Eff z s) :
    EffR z (execBar0Read x0 x1 s) := by
  unfold execBar0Read
  try dsimp only
  repeat' first
    | with_reducible assumption
    | with_reducible apply answer_eff
    | with_reducible apply replyUr_eff
    | with_reducible apply emit_eff
    | with_reducible apply holdOrRefuse_eff
    | with_reducible apply hostRead0_eff
    | with_reducible apply Eff.ite

theorem unknownFrame_eff {z : State} (s : State) (x1 : Sys2Proof.Writer) (hz : Eff z s) :
    Eff z (unknownFrame s x1) := by
  unfold unknownFrame
  try dsimp only
  repeat' first
    | with_reducible assumption
    | with_reducible apply Eff.ite
    | rw [State.mk_others]
    | with_reducible apply Eff.others

theorem execConfigWrite_eff {z : State} (x0 : Sys2Proof.Writer) (x1 : Nat) (x2 : Nat) (x3 : W64) (x4 : Bool)
    (s : State) (hz : Eff z s) :
    EffR z (execConfigWrite x0 x1 x2 x3 x4 s) := by
  unfold execConfigWrite
  try dsimp only
  repeat' first
    | with_reducible assumption
    | with_reducible apply answer_eff
    | with_reducible apply aerNote_eff
    | with_reducible apply regWrite_eff
    | with_reducible apply unknownFrame_eff
    | with_reducible apply Eff.ite

theorem execAnnexErase_eff {z : State} (x0 : Sys2Proof.Writer) (x1 : W64) (s : State) (hz : Eff z s) :
    EffR z (execAnnexErase x0 x1 s) := by
  unfold execAnnexErase
  try dsimp only
  repeat' first
    | with_reducible assumption
    | with_reducible apply write64_eff

theorem execReqSleep_eff {z : State} (x0 : Sys2Proof.Writer) (s : State) (hz : Eff z s) :
    EffR z (execReqSleep x0 s) := by
  unfold execReqSleep
  try dsimp only
  repeat' first
    | with_reducible assumption
    | with_reducible apply write32_eff

theorem execReinit_eff {z : State} (x0 : Sys2Proof.Writer) (x1 : Fin 48) (x2 : W32) (s : State) (hz : Eff z s) :
    EffR z (execReinit x0 x1 x2 s) := by
  unfold execReinit
  try dsimp only
  repeat' first
    | with_reducible assumption
    | with_reducible apply write32_eff

theorem execReseed_eff {z : State} (x0 : Sys2Proof.Writer) (x1 : Fin 72) (x2 : W32) (s : State) (hz : Eff z s) :
    EffR z (execReseed x0 x1 x2 s) := by
  unfold execReseed
  try dsimp only
  repeat' first
    | with_reducible assumption
    | with_reducible apply write32_eff

theorem execFill_eff {z : State} (x0 : Sys2Proof.Writer) (x1 : W32) (s : State) (hz : Eff z s) :
    EffR z (execFill x0 x1 s) := by
  unfold execFill
  try dsimp only
  repeat' first
    | with_reducible assumption
    | with_reducible apply write32_eff

theorem execCorRetire_eff {z : State} (x0 : Sys2Proof.Writer) (x1 : W32) (s : State) (hz : Eff z s) :
    EffR z (execCorRetire x0 x1 s) := by
  unfold execCorRetire
  try dsimp only
  repeat' first
    | with_reducible assumption
    | with_reducible apply write32_eff

theorem execPlanUnload_eff {z : State} (x0 : Sys2Proof.Writer) (x1 : W32) (s : State) (hz : Eff z s) :
    EffR z (execPlanUnload x0 x1 s) := by
  unfold execPlanUnload
  try dsimp only
  repeat' first
    | with_reducible assumption
    | with_reducible apply write32_eff

theorem execFwUpdate_eff {z : State} (x0 : Sys2Proof.Writer) (x1 : BitVec 12) (s : State) (hz : Eff z s) :
    EffR z (execFwUpdate x0 x1 s) := by
  unfold execFwUpdate
  try dsimp only
  repeat' first
    | with_reducible assumption
    | with_reducible apply write32_eff

theorem execPlanLoad_eff {z : State} (x0 : Sys2Proof.Writer) (x1 : W32) (s : State) (hz : Eff z s) :
    EffR z (execPlanLoad x0 x1 s) := by
  unfold execPlanLoad
  try dsimp only
  repeat' first
    | with_reducible assumption
    | with_reducible apply write32_eff

theorem execLifecycle_eff {z : State} (x0 : Sys2Proof.Writer) (x1 : BitVec 3) (s : State) (hz : Eff z s) :
    EffR z (execLifecycle x0 x1 s) := by
  unfold execLifecycle
  try dsimp only
  repeat' first
    | with_reducible assumption
    | with_reducible apply write32_eff

theorem execReqRun_eff {z : State} (x0 : Sys2Proof.Writer) (s : State) (hz : Eff z s) : EffR z (execReqRun x0 s) := by
  unfold execReqRun
  try dsimp only
  repeat' first
    | with_reducible assumption
    | with_reducible apply write32_eff

theorem execPmcClear_eff {z : State} (x0 : Sys2Proof.Writer) (x1 : W32) (s : State) (hz : Eff z s) :
    EffR z (execPmcClear x0 x1 s) := by
  unfold execPmcClear
  try dsimp only
  repeat' first
    | with_reducible assumption
    | with_reducible apply write32_eff

theorem execPortReset_eff {z : State} (x0 : Sys2Proof.Writer) (x1 : Fin 16) (x2 : W32) (s : State) (hz : Eff z s) :
    EffR z (execPortReset x0 x1 x2 s) := by
  unfold execPortReset
  try dsimp only
  repeat' first
    | with_reducible assumption
    | with_reducible apply write32_eff

theorem execObsSelect_eff {z : State} (x0 : Sys2Proof.Writer) (x1 : W32) (s : State) (hz : Eff z s) :
    EffR z (execObsSelect x0 x1 s) := by
  unfold execObsSelect
  try dsimp only
  repeat' first
    | with_reducible assumption
    | with_reducible apply write32_eff

theorem execWarm_eff {z : State} (x0 : Sys2Proof.Writer) (s : State) (hz : Eff z s) : EffR z (execWarm x0 s) := by
  unfold execWarm
  try dsimp only
  repeat' first
    | with_reducible assumption
    | with_reducible apply write32_eff

theorem execSwizzleWrite_eff {z : State} (x0 : Sys2Proof.Writer) (x1 : Fin 64) (x2 : W32) (s : State) (hz : Eff z s) :
    EffR z (execSwizzleWrite x0 x1 x2 s) := by
  unfold execSwizzleWrite
  try dsimp only
  repeat' first
    | with_reducible assumption
    | with_reducible apply write32_eff

theorem execRingDisable_eff {z : State} (x0 : Sys2Proof.Writer) (x1 : W32) (s : State) (hz : Eff z s) :
    EffR z (execRingDisable x0 x1 s) := by
  unfold execRingDisable
  try dsimp only
  repeat' first
    | with_reducible assumption
    | with_reducible apply write32_eff

end Sys2Proof.Machine
end

