-- ==== Sys2Proof/Laws/EffCoreRows.lean ====
section
/-!
SUPPORT. Sys2Proof/Laws/EffCoreRows.lean: what each operation of Bar4.lean, Conservator.lean, CoreRows.lean keeps (`Eff`), one lemma each.
-/
namespace Sys2Proof.Machine

/-! ## Bar4 -/

theorem orHold_eff {z : State} (s : State) (a : HeldAccess) (t : State) (hs : Eff z s) (hz : Eff z t) : Eff z (orHold s a t) := by
  unfold orHold
  exact Eff.ite hz (holdAccess_eff _ _ hs)

theorem hstFlag_eff {z : State} (s : State) (x1 : Nat) (hz : Eff z s) : Eff z (hstFlag s x1) := by
  unfold hstFlag
  try dsimp only
  repeat' first
    | with_reducible assumption
    | with_reducible apply rmod_eff

theorem replyCa_eff {z : State} (s : State) (hz : Eff z s) : Eff z (replyCa s) := by
  unfold replyCa
  try dsimp only
  repeat' first
    | with_reducible assumption
    | with_reducible apply emit_eff
    | with_reducible apply aerNote_eff
    | with_reducible apply hstFlag_eff

theorem hostDenied_eff {z : State} (s : State) (hz : Eff z s) : Eff z (hostDenied s) := by
  unfold hostDenied
  try dsimp only
  repeat' first
    | with_reducible assumption
    | with_reducible apply rmod_eff

theorem bar4Read_eff {z : State} (s : State) (x1 : Nat) (x2 : Nat) (hz : Eff z s) : Eff z (bar4Read s x1 x2) := by
  unfold bar4Read
  try dsimp only
  repeat' first
    | with_reducible assumption
    | with_reducible apply replyUr_eff
    | with_reducible apply hstFlag_eff
    | with_reducible apply replyCa_eff
    | with_reducible apply hostDenied_eff
    | with_reducible apply devRead_eff
    | with_reducible apply emit_eff
    | with_reducible apply Eff.ite
    | split

theorem bar4Write_eff {z : State} (s : State) (x1 : Nat) (x2 : List (Option Byte)) (hz : Eff z s) :
    Eff z (bar4Write s x1 x2) := by
  unfold bar4Write
  try dsimp only
  repeat' first
    | with_reducible assumption
    | with_reducible apply hstFlag_eff
    | with_reducible apply hostDenied_eff
    | with_reducible apply devWrite_eff
    | with_reducible apply Eff.ite
    | split

theorem takeReq_eff {z : State} (s : State) (x1 : Nat) (t : State) (q : HostReq) (h : takeReq s x1 = some (q, t))
    (hz : Eff z s) : Eff z t := by
  unfold takeReq at h
  simp only [Option.map_eq_some_iff] at h
  obtain ⟨r, -, -, rfl⟩ := h
  rw [State.mk_others]
  exact Eff.others hz

theorem readArrived_eff {z : State} (s : State) (x1 : HostRead) (x2 : List Byte) (hz : Eff z s) :
    Eff z (readArrived s x1 x2) := by
  unfold readArrived
  try dsimp only
  repeat' first
    | with_reducible assumption
    | with_reducible apply firmwareArrived_eff
    | with_reducible apply tokenArrived_eff
    | with_reducible apply registrarArrived_eff
    | split

theorem dropRead_eff {z : State} (s : State) (x1 : HostRead) (hz : Eff z s) : Eff z (dropRead s x1) := by
  unfold dropRead
  try dsimp only
  repeat' first
    | with_reducible assumption
    | rw [State.mk_others]
    | with_reducible apply Eff.others

theorem partArrived_eff {z : State} (s : State) (x1 : HostRead) (x2 : HostReq) (x3 : List Byte) (hz : Eff z s) :
    Eff z (partArrived s x1 x2 x3) := by
  unfold partArrived
  try dsimp only
  repeat' first
    | with_reducible assumption
    | with_reducible apply readArrived_eff
    | with_reducible apply askReads_eff
    | with_reducible apply dropRead_eff
    | with_reducible apply Eff.ite
    | rw [State.mk_others]
    | with_reducible apply Eff.others

theorem readFailed_eff {z : State} (s : State) (x1 : HostRead) (x2 : Bool) (hz : Eff z s) :
    Eff z (readFailed s x1 x2) := by
  unfold readFailed
  try dsimp only
  repeat' first
    | with_reducible assumption
    | with_reducible apply countReadErr_eff
    | with_reducible apply firmwareFailed_eff
    | with_reducible apply tokenFailed_eff
    | with_reducible apply registrarFailed_eff
    | split

theorem completeHost_eff {z : State} (s : State) (x1 : Nat) (x2 : HostData) (hz : Eff z s) :
    Eff z (completeHost s x1 x2) := by
  unfold completeHost
  try dsimp only
  repeat' first
    | with_reducible assumption
    | with_reducible refine takeReq_eff _ _ _ _ (by assumption) ?_
    | with_reducible apply askReads_eff
    | with_reducible apply countReadErr_eff
    | with_reducible apply aerNote_eff
    | with_reducible apply partArrived_eff
    | with_reducible apply readFailed_eff
    | with_reducible apply dropRead_eff
    | with_reducible apply Eff.ite
    | split

theorem heldEffect_eff {z : State} (s : State) (x1 : HeldAccess) (hz : Eff z s) : Eff z (heldEffect s x1) := by
  unfold heldEffect
  try dsimp only
  repeat' first
    | with_reducible assumption
    | with_reducible apply applyDoorbell_eff
    | with_reducible apply hostRead0_eff
    | with_reducible apply passWrite_eff
    | with_reducible apply bar4Read_eff
    | with_reducible apply bar4Write_eff
    | with_reducible apply completeHost_eff
    | split

theorem applyHeld_eff {z : State} (s : State) (x1 : HeldAccess) (hz : Eff z s) : Eff z (applyHeld s x1) := by
  unfold applyHeld
  try dsimp only
  repeat' first
    | with_reducible assumption
    | with_reducible apply replyUr_eff
    | with_reducible apply holdAccess_eff
    | with_reducible apply orHold_eff
    | with_reducible apply heldEffect_eff
    | with_reducible apply Eff.ite
    | split

theorem applyAllHeld_eff {z : State} (s : State) (hz : Eff z s) : Eff z (applyAllHeld s) := by
  unfold applyAllHeld
  try dsimp only
  repeat' first
    | with_reducible assumption
    | with_reducible exact Eff.refl _
    | with_reducible apply applyHeld_eff
    | with_reducible apply Eff.foldl
    | intro _
    | rw [State.mk_others]
    | with_reducible apply Eff.others

theorem doorbellWrite_eff {z : State} (s : State) (x1 : Nat) (x2 : W64) (x3 : Bool) (x4 : Bool) (hz : Eff z s) :
    Eff z (doorbellWrite s x1 x2 x3 x4) := by
  unfold doorbellWrite
  try dsimp only
  repeat' first
    | with_reducible assumption
    | with_reducible apply holdAccess_eff
    | with_reducible apply startWake_eff
    | with_reducible apply applyDoorbell_eff
    | with_reducible apply Eff.ite

theorem execDoorbell_eff {z : State} (x0 : Nat) (x1 : Nat) (x2 : Option W64) (x3 : Bool) (s : State) (hz : Eff z s) :
    EffR z (execDoorbell x0 x1 x2 x3 s) := by
  unfold execDoorbell
  try dsimp only
  repeat' first
    | with_reducible assumption
    | with_reducible apply answer_eff
    | with_reducible apply replyUr_eff
    | with_reducible apply doorbellRead_eff
    | with_reducible apply aerNote_eff
    | with_reducible apply doorbellWrite_eff
    | with_reducible apply Eff.ite
    | split

theorem execHostCompletion_eff {z : State} (x0 : Nat) (x1 : HostData) (s : State) (hz : Eff z s) :
    EffR z (execHostCompletion x0 x1 s) := by
  unfold execHostCompletion
  try dsimp only
  repeat' first
    | with_reducible assumption
    | with_reducible apply answer_eff
    | with_reducible apply orHold_eff
    | with_reducible apply completeHost_eff
    | with_reducible apply Eff.ite

theorem execBar4Read_eff {z : State} (x0 : Nat) (x1 : Nat) (s : State) (hz : Eff z s) :
    EffR z (execBar4Read x0 x1 s) := by
  unfold execBar4Read
  try dsimp only
  repeat' first
    | with_reducible assumption
    | with_reducible apply answer_eff
    | with_reducible apply replyUr_eff
    | with_reducible apply holdOrRefuse_eff
    | with_reducible apply orHold_eff
    | with_reducible apply bar4Read_eff
    | with_reducible apply Eff.ite

theorem execResizableBarControlWrite_eff {z : State} (x0 : Nat) (s : State) (hz : Eff z s) :
    EffR z (execResizableBarControlWrite x0 s) := by
  unfold execResizableBarControlWrite
  try dsimp only
  repeat' first
    | with_reducible assumption
    | with_reducible apply answer_eff
    | with_reducible apply rmod_eff
    | with_reducible apply Eff.ite

theorem execCompletionTimeoutValueWrite_eff {z : State} (x0 : BitVec 4) (s : State) (hz : Eff z s) :
    EffR z (execCompletionTimeoutValueWrite x0 s) := by
  unfold execCompletionTimeoutValueWrite
  try dsimp only
  repeat' first
    | with_reducible assumption
    | with_reducible apply answer_eff
    | with_reducible apply rset_eff
    | with_reducible apply Eff.ite
    | rw [State.mk_others]
    | with_reducible apply Eff.others
    | split

theorem execHostTimeout_eff {z : State} (x0 : Nat) (s : State) (hz : Eff z s) : EffR z (execHostTimeout x0 s) := by
  unfold execHostTimeout
  try dsimp only
  repeat' first
    | with_reducible assumption
    | with_reducible apply answer_eff
    | with_reducible refine takeReq_eff _ _ _ _ (by assumption) ?_
    | with_reducible apply askReads_eff
    | with_reducible apply countReadErr_eff
    | with_reducible apply aerNote_eff
    | with_reducible apply readFailed_eff
    | with_reducible apply dropRead_eff
    | split

theorem execBar4Write_eff {z : State} (x0 : Nat) (x1 : List (Option Byte)) (x2 : Bool) (s : State) (hz : Eff z s) :
    EffR z (execBar4Write x0 x1 x2 s) := by
  unfold execBar4Write
  try dsimp only
  repeat' first
    | with_reducible assumption
    | with_reducible apply answer_eff
    | with_reducible apply aerNote_eff
    | with_reducible apply holdOrRefuse_eff
    | with_reducible apply orHold_eff
    | with_reducible apply bar4Write_eff
    | with_reducible apply Eff.ite


/-! ## Conservator -/

theorem conservatorRetire_eff {z : State} (s : State) (x1 : Fin 72) (hz : Eff z s) :
    Eff z (conservatorRetire s x1) := by
  unfold conservatorRetire
  try dsimp only
  repeat' first
    | with_reducible assumption
    | with_reducible exact Eff.refl _
    | with_reducible apply holdWrite_eff
    | with_reducible apply withRecord_eff
    | with_reducible apply retireWrite_eff
    | with_reducible apply Eff.ite
    | intro _

theorem autoRetire_eff {z : State} (s : State) (hz : Eff z s) : Eff z (autoRetire s) := by
  unfold autoRetire
  try dsimp only
  repeat' first
    | with_reducible assumption
    | with_reducible exact Eff.refl _
    | with_reducible apply conservatorRetire_eff
    | with_reducible apply Eff.ite
    | with_reducible apply Eff.foldl
    | intro _

theorem advise_eff {z : State} (s : State) (x1 : RegName) (x2 : Nat) (hz : Eff z s) : Eff z (advise s x1 x2) := by
  unfold advise
  try dsimp only
  repeat' first
    | with_reducible assumption
    | with_reducible apply ownChange_eff

theorem adviseCore_eff {z : State} (s : State) (x1 : Nat) (hz : Eff z s) : Eff z (adviseCore s x1) := by
  unfold adviseCore
  try dsimp only
  repeat' first
    | with_reducible assumption
    | with_reducible apply advise_eff
    | with_reducible apply Eff.ite

theorem adviceStep_eff {z : State} (s : State) (hz : Eff z s) : Eff z (adviceStep s) := by
  unfold adviceStep
  try dsimp only
  repeat' first
    | with_reducible assumption
    | with_reducible exact Eff.refl _
    | with_reducible apply adviseCore_eff
    | with_reducible apply advise_eff
    | with_reducible apply Eff.ite
    | with_reducible apply Eff.foldl
    | intro _
    | rw [State.mk_others]
    | with_reducible apply Eff.others

theorem riskStep_eff {z : State} (s : State) (hz : Eff z s) : Eff z (riskStep s) := by
  unfold riskStep
  try dsimp only
  repeat' first
    | with_reducible assumption
    | with_reducible apply ownChange_eff
    | rw [State.mk_others]
    | with_reducible apply Eff.others

theorem execRiskUpdate_eff {z : State} (s : State) (hz : Eff z s) : EffR z (execRiskUpdate s) := by
  unfold execRiskUpdate
  try dsimp only
  repeat' first
    | with_reducible assumption
    | with_reducible apply answer_eff
    | with_reducible apply autoRetire_eff
    | with_reducible apply adviceStep_eff
    | with_reducible apply riskStep_eff
    | with_reducible apply Eff.ite


/-! ## CoreRows -/

theorem execSshl_eff {z : State} (x0 : Ctl) (x1 : OpS) (s : State) (hz : Eff z s) : EffR z (execSshl x0 x1 s) := by
  unfold execSshl
  try dsimp only
  repeat' first
    | with_reducible assumption
    | with_reducible apply issue_eff

theorem execSmul_eff {z : State} (x0 : Ctl) (x1 : OpS) (s : State) (hz : Eff z s) : EffR z (execSmul x0 x1 s) := by
  unfold execSmul
  try dsimp only
  repeat' first
    | with_reducible assumption
    | with_reducible apply issue_eff

theorem execTswap_eff {z : State} (x0 : Ctl) (x1 : OpV) (s : State) (hz : Eff z s) : EffR z (execTswap x0 x1 s) := by
  unfold execTswap
  try dsimp only
  repeat' first
    | with_reducible assumption
    | with_reducible apply issue_eff

theorem execSkadd_eff {z : State} (x0 : Ctl) (x1 : OpS) (s : State) (hz : Eff z s) : EffR z (execSkadd x0 x1 s) := by
  unfold execSkadd
  try dsimp only
  repeat' first
    | with_reducible assumption
    | with_reducible apply issue_eff

theorem execMloads_eff {z : State} (x0 : Ctl) (x1 : OpM) (s : State) (hz : Eff z s) : EffR z (execMloads x0 x1 s) := by
  unfold execMloads
  try dsimp only
  repeat' first
    | with_reducible assumption
    | with_reducible apply issue_eff

theorem execVmax_eff {z : State} (x0 : Ctl) (x1 : OpV) (s : State) (hz : Eff z s) : EffR z (execVmax x0 x1 s) := by
  unfold execVmax
  try dsimp only
  repeat' first
    | with_reducible assumption
    | with_reducible apply issue_eff

theorem execVlut_eff {z : State} (x0 : Ctl) (x1 : OpV) (s : State) (hz : Eff z s) : EffR z (execVlut x0 x1 s) := by
  unfold execVlut
  try dsimp only
  repeat' first
    | with_reducible assumption
    | with_reducible apply issue_eff

theorem execVred_eff {z : State} (x0 : Ctl) (x1 : OpV) (s : State) (hz : Eff z s) : EffR z (execVred x0 x1 s) := by
  unfold execVred
  try dsimp only
  repeat' first
    | with_reducible assumption
    | with_reducible apply issue_eff

theorem execCtrans_eff {z : State} (x0 : Ctl) (x1 : OpD) (s : State) (hz : Eff z s) : EffR z (execCtrans x0 x1 s) := by
  unfold execCtrans
  try dsimp only
  repeat' first
    | with_reducible assumption
    | with_reducible apply issue_eff

theorem execSffma_eff {z : State} (x0 : Ctl) (x1 : OpS) (s : State) (hz : Eff z s) : EffR z (execSffma x0 x1 s) := by
  unfold execSffma
  try dsimp only
  repeat' first
    | with_reducible assumption
    | with_reducible apply issue_eff

theorem execVmset_eff {z : State} (x0 : Ctl) (x1 : OpV) (s : State) (hz : Eff z s) : EffR z (execVmset x0 x1 s) := by
  unfold execVmset
  try dsimp only
  repeat' first
    | with_reducible assumption
    | with_reducible apply issue_eff

theorem execSst_eff {z : State} (x0 : Ctl) (x1 : OpS) (s : State) (hz : Eff z s) : EffR z (execSst x0 x1 s) := by
  unfold execSst
  try dsimp only
  repeat' first
    | with_reducible assumption
    | with_reducible apply issue_eff

theorem execVadd_eff {z : State} (x0 : Ctl) (x1 : OpV) (s : State) (hz : Eff z s) : EffR z (execVadd x0 x1 s) := by
  unfold execVadd
  try dsimp only
  repeat' first
    | with_reducible assumption
    | with_reducible apply issue_eff

theorem execSfmul_eff {z : State} (x0 : Ctl) (x1 : OpS) (s : State) (hz : Eff z s) : EffR z (execSfmul x0 x1 s) := by
  unfold execSfmul
  try dsimp only
  repeat' first
    | with_reducible assumption
    | with_reducible apply issue_eff

theorem execVcvt_eff {z : State} (x0 : Ctl) (x1 : OpV) (s : State) (hz : Eff z s) : EffR z (execVcvt x0 x1 s) := by
  unfold execVcvt
  try dsimp only
  repeat' first
    | with_reducible assumption
    | with_reducible apply issue_eff

theorem execVsel_eff {z : State} (x0 : Ctl) (x1 : OpV) (s : State) (hz : Eff z s) : EffR z (execVsel x0 x1 s) := by
  unfold execVsel
  try dsimp only
  repeat' first
    | with_reducible assumption
    | with_reducible apply issue_eff

theorem execCpput_eff {z : State} (x0 : Ctl) (x1 : OpD) (s : State) (hz : Eff z s) : EffR z (execCpput x0 x1 s) := by
  unfold execCpput
  try dsimp only
  repeat' first
    | with_reducible assumption
    | with_reducible apply issue_eff

theorem execSshr_eff {z : State} (x0 : Ctl) (x1 : OpS) (s : State) (hz : Eff z s) : EffR z (execSshr x0 x1 s) := by
  unfold execSshr
  try dsimp only
  repeat' first
    | with_reducible assumption
    | with_reducible apply issue_eff

theorem execVst_eff {z : State} (x0 : Ctl) (x1 : OpV) (s : State) (hz : Eff z s) : EffR z (execVst x0 x1 s) := by
  unfold execVst
  try dsimp only
  repeat' first
    | with_reducible assumption
    | with_reducible apply issue_eff

theorem execEngineNop_eff {z : State} (x0 : Ctl) (x1 : BitVec 4) (s : State) (hz : Eff z s) :
    EffR z (execEngineNop x0 x1 s) := by
  unfold execEngineNop
  try dsimp only
  repeat' first
    | with_reducible assumption
    | with_reducible apply issue_eff

theorem execSkrd_eff {z : State} (x0 : Ctl) (x1 : OpS) (s : State) (hz : Eff z s) : EffR z (execSkrd x0 x1 s) := by
  unfold execSkrd
  try dsimp only
  repeat' first
    | with_reducible assumption
    | with_reducible apply issue_eff

theorem execFstrd_eff {z : State} (x0 : Ctl) (x1 : OpV) (s : State) (hz : Eff z s) : EffR z (execFstrd x0 x1 s) := by
  unfold execFstrd
  try dsimp only
  repeat' first
    | with_reducible assumption
    | with_reducible apply issue_eff

theorem execVmov_eff {z : State} (x0 : Ctl) (x1 : OpV) (s : State) (hz : Eff z s) : EffR z (execVmov x0 x1 s) := by
  unfold execVmov
  try dsimp only
  repeat' first
    | with_reducible assumption
    | with_reducible apply issue_eff

theorem execVxor_eff {z : State} (x0 : Ctl) (x1 : OpV) (s : State) (hz : Eff z s) : EffR z (execVxor x0 x1 s) := by
  unfold execVxor
  try dsimp only
  repeat' first
    | with_reducible assumption
    | with_reducible apply issue_eff

theorem execVzmap_eff {z : State} (x0 : Ctl) (x1 : OpV) (s : State) (hz : Eff z s) : EffR z (execVzmap x0 x1 s) := by
  unfold execVzmap
  try dsimp only
  repeat' first
    | with_reducible assumption
    | with_reducible apply issue_eff

theorem execCpacc_eff {z : State} (x0 : Ctl) (x1 : OpD) (s : State) (hz : Eff z s) : EffR z (execCpacc x0 x1 s) := by
  unfold execCpacc
  try dsimp only
  repeat' first
    | with_reducible assumption
    | with_reducible apply issue_eff

theorem execSld_eff {z : State} (x0 : Ctl) (x1 : OpS) (s : State) (hz : Eff z s) : EffR z (execSld x0 x1 s) := by
  unfold execSld
  try dsimp only
  repeat' first
    | with_reducible assumption
    | with_reducible apply issue_eff

theorem execVmul_eff {z : State} (x0 : Ctl) (x1 : OpV) (s : State) (hz : Eff z s) : EffR z (execVmul x0 x1 s) := by
  unfold execVmul
  try dsimp only
  repeat' first
    | with_reducible assumption
    | with_reducible apply issue_eff

theorem execVperm_eff {z : State} (x0 : Ctl) (x1 : OpV) (s : State) (hz : Eff z s) : EffR z (execVperm x0 x1 s) := by
  unfold execVperm
  try dsimp only
  repeat' first
    | with_reducible assumption
    | with_reducible apply issue_eff

theorem execMabclr_eff {z : State} (x0 : Ctl) (x1 : OpM) (s : State) (hz : Eff z s) : EffR z (execMabclr x0 x1 s) := by
  unfold execMabclr
  try dsimp only
  repeat' first
    | with_reducible assumption
    | with_reducible apply issue_eff

theorem execSfmax_eff {z : State} (x0 : Ctl) (x1 : OpS) (s : State) (hz : Eff z s) : EffR z (execSfmax x0 x1 s) := by
  unfold execSfmax
  try dsimp only
  repeat' first
    | with_reducible assumption
    | with_reducible apply issue_eff

theorem execVfms_eff {z : State} (x0 : Ctl) (x1 : OpV) (s : State) (hz : Eff z s) : EffR z (execVfms x0 x1 s) := by
  unfold execVfms
  try dsimp only
  repeat' first
    | with_reducible assumption
    | with_reducible apply issue_eff

theorem execCabout_eff {z : State} (x0 : Ctl) (x1 : OpD) (s : State) (hz : Eff z s) : EffR z (execCabout x0 x1 s) := by
  unfold execCabout
  try dsimp only
  repeat' first
    | with_reducible assumption
    | with_reducible apply issue_eff

theorem execCpsig_eff {z : State} (x0 : Ctl) (x1 : OpD) (s : State) (hz : Eff z s) : EffR z (execCpsig x0 x1 s) := by
  unfold execCpsig
  try dsimp only
  repeat' first
    | with_reducible assumption
    | with_reducible apply issue_eff

theorem execVcmp_eff {z : State} (x0 : Ctl) (x1 : OpV) (s : State) (hz : Eff z s) : EffR z (execVcmp x0 x1 s) := by
  unfold execVcmp
  try dsimp only
  repeat' first
    | with_reducible assumption
    | with_reducible apply issue_eff

theorem execVchld_eff {z : State} (x0 : Ctl) (x1 : OpV) (s : State) (hz : Eff z s) : EffR z (execVchld x0 x1 s) := by
  unfold execVchld
  try dsimp only
  repeat' first
    | with_reducible assumption
    | with_reducible apply issue_eff

theorem execSxor_eff {z : State} (x0 : Ctl) (x1 : OpS) (s : State) (hz : Eff z s) : EffR z (execSxor x0 x1 s) := by
  unfold execSxor
  try dsimp only
  repeat' first
    | with_reducible assumption
    | with_reducible apply issue_eff

theorem execVsub_eff {z : State} (x0 : Ctl) (x1 : OpV) (s : State) (hz : Eff z s) : EffR z (execVsub x0 x1 s) := by
  unfold execVsub
  try dsimp only
  repeat' first
    | with_reducible assumption
    | with_reducible apply issue_eff

theorem execSmax_eff {z : State} (x0 : Ctl) (x1 : OpS) (s : State) (hz : Eff z s) : EffR z (execSmax x0 x1 s) := by
  unfold execSmax
  try dsimp only
  repeat' first
    | with_reducible assumption
    | with_reducible apply issue_eff

theorem execSfmin_eff {z : State} (x0 : Ctl) (x1 : OpS) (s : State) (hz : Eff z s) : EffR z (execSfmin x0 x1 s) := by
  unfold execSfmin
  try dsimp only
  repeat' first
    | with_reducible assumption
    | with_reducible apply issue_eff

theorem execVcsr_eff {z : State} (x0 : Ctl) (x1 : OpD) (s : State) (hz : Eff z s) : EffR z (execVcsr x0 x1 s) := by
  unfold execVcsr
  try dsimp only
  repeat' first
    | with_reducible assumption
    | with_reducible apply issue_eff

theorem execCfill_eff {z : State} (x0 : Ctl) (x1 : OpD) (s : State) (hz : Eff z s) : EffR z (execCfill x0 x1 s) := by
  unfold execCfill
  try dsimp only
  repeat' first
    | with_reducible assumption
    | with_reducible apply issue_eff

theorem execVldw_eff {z : State} (x0 : Ctl) (x1 : OpV) (s : State) (hz : Eff z s) : EffR z (execVldw x0 x1 s) := by
  unfold execVldw
  try dsimp only
  repeat' first
    | with_reducible assumption
    | with_reducible apply issue_eff

theorem execVscan_eff {z : State} (x0 : Ctl) (x1 : OpV) (s : State) (hz : Eff z s) : EffR z (execVscan x0 x1 s) := by
  unfold execVscan
  try dsimp only
  repeat' first
    | with_reducible assumption
    | with_reducible apply issue_eff

theorem execVrng_eff {z : State} (x0 : Ctl) (x1 : OpV) (s : State) (hz : Eff z s) : EffR z (execVrng x0 x1 s) := by
  unfold execVrng
  try dsimp only
  repeat' first
    | with_reducible assumption
    | with_reducible apply issue_eff

theorem execSsra_eff {z : State} (x0 : Ctl) (x1 : OpS) (s : State) (hz : Eff z s) : EffR z (execSsra x0 x1 s) := by
  unfold execSsra
  try dsimp only
  repeat' first
    | with_reducible assumption
    | with_reducible apply issue_eff

theorem execSfadd_eff {z : State} (x0 : Ctl) (x1 : OpS) (s : State) (hz : Eff z s) : EffR z (execSfadd x0 x1 s) := by
  unfold execSfadd
  try dsimp only
  repeat' first
    | with_reducible assumption
    | with_reducible apply issue_eff

theorem execSflag_eff {z : State} (x0 : Ctl) (x1 : OpS) (s : State) (hz : Eff z s) : EffR z (execSflag x0 x1 s) := by
  unfold execSflag
  try dsimp only
  repeat' first
    | with_reducible assumption
    | with_reducible apply issue_eff

theorem execVshr_eff {z : State} (x0 : Ctl) (x1 : OpV) (s : State) (hz : Eff z s) : EffR z (execVshr x0 x1 s) := by
  unfold execVshr
  try dsimp only
  repeat' first
    | with_reducible assumption
    | with_reducible apply issue_eff

theorem execCpbkt_eff {z : State} (x0 : Ctl) (x1 : OpD) (s : State) (hz : Eff z s) : EffR z (execCpbkt x0 x1 s) := by
  unfold execCpbkt
  try dsimp only
  repeat' first
    | with_reducible assumption
    | with_reducible apply issue_eff

theorem execSvget_eff {z : State} (x0 : Ctl) (x1 : OpS) (s : State) (hz : Eff z s) : EffR z (execSvget x0 x1 s) := by
  unfold execSvget
  try dsimp only
  repeat' first
    | with_reducible assumption
    | with_reducible apply issue_eff

theorem execCpgath_eff {z : State} (x0 : Ctl) (x1 : OpD) (s : State) (hz : Eff z s) : EffR z (execCpgath x0 x1 s) := by
  unfold execCpgath
  try dsimp only
  repeat' first
    | with_reducible assumption
    | with_reducible apply issue_eff

theorem execSfcvt_eff {z : State} (x0 : Ctl) (x1 : OpS) (s : State) (hz : Eff z s) : EffR z (execSfcvt x0 x1 s) := by
  unfold execSfcvt
  try dsimp only
  repeat' first
    | with_reducible assumption
    | with_reducible apply issue_eff

theorem execVstab_eff {z : State} (x0 : Ctl) (x1 : OpV) (s : State) (hz : Eff z s) : EffR z (execVstab x0 x1 s) := by
  unfold execVstab
  try dsimp only
  repeat' first
    | with_reducible assumption
    | with_reducible apply issue_eff

theorem execVor_eff {z : State} (x0 : Ctl) (x1 : OpV) (s : State) (hz : Eff z s) : EffR z (execVor x0 x1 s) := by
  unfold execVor
  try dsimp only
  repeat' first
    | with_reducible assumption
    | with_reducible apply issue_eff

theorem execVmin_eff {z : State} (x0 : Ctl) (x1 : OpV) (s : State) (hz : Eff z s) : EffR z (execVmin x0 x1 s) := by
  unfold execVmin
  try dsimp only
  repeat' first
    | with_reducible assumption
    | with_reducible apply issue_eff

theorem execSid_eff {z : State} (x0 : Ctl) (x1 : OpS) (s : State) (hz : Eff z s) : EffR z (execSid x0 x1 s) := by
  unfold execSid
  try dsimp only
  repeat' first
    | with_reducible assumption
    | with_reducible apply issue_eff

theorem execSand_eff {z : State} (x0 : Ctl) (x1 : OpS) (s : State) (hz : Eff z s) : EffR z (execSand x0 x1 s) := by
  unfold execSand
  try dsimp only
  repeat' first
    | with_reducible assumption
    | with_reducible apply issue_eff

theorem execFstclr_eff {z : State} (x0 : Ctl) (x1 : OpV) (s : State) (hz : Eff z s) : EffR z (execFstclr x0 x1 s) := by
  unfold execFstclr
  try dsimp only
  repeat' first
    | with_reducible assumption
    | with_reducible apply issue_eff

theorem execSadd_eff {z : State} (x0 : Ctl) (x1 : OpS) (s : State) (hz : Eff z s) : EffR z (execSadd x0 x1 s) := by
  unfold execSadd
  try dsimp only
  repeat' first
    | with_reducible assumption
    | with_reducible apply issue_eff

theorem execVld_eff {z : State} (x0 : Ctl) (x1 : OpV) (s : State) (hz : Eff z s) : EffR z (execVld x0 x1 s) := by
  unfold execVld
  try dsimp only
  repeat' first
    | with_reducible assumption
    | with_reducible apply issue_eff

theorem execVneg_eff {z : State} (x0 : Ctl) (x1 : OpV) (s : State) (hz : Eff z s) : EffR z (execVneg x0 x1 s) := by
  unfold execVneg
  try dsimp only
  repeat' first
    | with_reducible assumption
    | with_reducible apply issue_eff

theorem execMcsum_eff {z : State} (x0 : Ctl) (x1 : OpM) (s : State) (hz : Eff z s) : EffR z (execMcsum x0 x1 s) := by
  unfold execMcsum
  try dsimp only
  repeat' first
    | with_reducible assumption
    | with_reducible apply issue_eff

theorem execVand_eff {z : State} (x0 : Ctl) (x1 : OpV) (s : State) (hz : Eff z s) : EffR z (execVand x0 x1 s) := by
  unfold execVand
  try dsimp only
  repeat' first
    | with_reducible assumption
    | with_reducible apply issue_eff

theorem execScmp_eff {z : State} (x0 : Ctl) (x1 : OpS) (s : State) (hz : Eff z s) : EffR z (execScmp x0 x1 s) := by
  unfold execScmp
  try dsimp only
  repeat' first
    | with_reducible assumption
    | with_reducible apply issue_eff

theorem execCcopy_eff {z : State} (x0 : Ctl) (x1 : OpD) (s : State) (hz : Eff z s) : EffR z (execCcopy x0 x1 s) := by
  unfold execCcopy
  try dsimp only
  repeat' first
    | with_reducible assumption
    | with_reducible apply issue_eff

theorem execVbcast_eff {z : State} (x0 : Ctl) (x1 : OpV) (s : State) (hz : Eff z s) : EffR z (execVbcast x0 x1 s) := by
  unfold execVbcast
  try dsimp only
  repeat' first
    | with_reducible assumption
    | with_reducible apply issue_eff

theorem execVshl_eff {z : State} (x0 : Ctl) (x1 : OpV) (s : State) (hz : Eff z s) : EffR z (execVshl x0 x1 s) := by
  unfold execVshl
  try dsimp only
  repeat' first
    | with_reducible assumption
    | with_reducible apply issue_eff

theorem execSor_eff {z : State} (x0 : Ctl) (x1 : OpS) (s : State) (hz : Eff z s) : EffR z (execSor x0 x1 s) := by
  unfold execSor
  try dsimp only
  repeat' first
    | with_reducible assumption
    | with_reducible apply issue_eff

theorem execSparsify_eff {z : State} (x0 : Ctl) (x1 : OpV) (s : State) (hz : Eff z s) :
    EffR z (execSparsify x0 x1 s) := by
  unfold execSparsify
  try dsimp only
  repeat' first
    | with_reducible assumption
    | with_reducible apply issue_eff

theorem execSmovhi_eff {z : State} (x0 : Ctl) (x1 : OpS) (s : State) (hz : Eff z s) : EffR z (execSmovhi x0 x1 s) := by
  unfold execSmovhi
  try dsimp only
  repeat' first
    | with_reducible assumption
    | with_reducible apply issue_eff

theorem execSstat_eff {z : State} (x0 : Ctl) (x1 : OpS) (s : State) (hz : Eff z s) : EffR z (execSstat x0 x1 s) := by
  unfold execSstat
  try dsimp only
  repeat' first
    | with_reducible assumption
    | with_reducible apply issue_eff

theorem execSaddi_eff {z : State} (x0 : Ctl) (x1 : OpS) (s : State) (hz : Eff z s) : EffR z (execSaddi x0 x1 s) := by
  unfold execSaddi
  try dsimp only
  repeat' first
    | with_reducible assumption
    | with_reducible apply issue_eff

theorem execVseq_eff {z : State} (x0 : Ctl) (x1 : OpV) (s : State) (hz : Eff z s) : EffR z (execVseq x0 x1 s) := by
  unfold execVseq
  try dsimp only
  repeat' first
    | with_reducible assumption
    | with_reducible apply issue_eff

theorem execMsegt_eff {z : State} (x0 : Ctl) (x1 : OpM) (s : State) (hz : Eff z s) : EffR z (execMsegt x0 x1 s) := by
  unfold execMsegt
  try dsimp only
  repeat' first
    | with_reducible assumption
    | with_reducible apply issue_eff

theorem execFstat_eff {z : State} (x0 : Ctl) (x1 : OpV) (s : State) (hz : Eff z s) : EffR z (execFstat x0 x1 s) := by
  unfold execFstat
  try dsimp only
  repeat' first
    | with_reducible assumption
    | with_reducible apply issue_eff

theorem execFfun_eff {z : State} (x0 : Ctl) (x1 : OpV) (s : State) (hz : Eff z s) : EffR z (execFfun x0 x1 s) := by
  unfold execFfun
  try dsimp only
  repeat' first
    | with_reducible assumption
    | with_reducible apply issue_eff

theorem execSsub_eff {z : State} (x0 : Ctl) (x1 : OpS) (s : State) (hz : Eff z s) : EffR z (execSsub x0 x1 s) := by
  unfold execSsub
  try dsimp only
  repeat' first
    | with_reducible assumption
    | with_reducible apply issue_eff

theorem execVslide_eff {z : State} (x0 : Ctl) (x1 : OpV) (s : State) (hz : Eff z s) : EffR z (execVslide x0 x1 s) := by
  unfold execVslide
  try dsimp only
  repeat' first
    | with_reducible assumption
    | with_reducible apply issue_eff

theorem execVabs_eff {z : State} (x0 : Ctl) (x1 : OpV) (s : State) (hz : Eff z s) : EffR z (execVabs x0 x1 s) := by
  unfold execVabs
  try dsimp only
  repeat' first
    | with_reducible assumption
    | with_reducible apply issue_eff

theorem execSmin_eff {z : State} (x0 : Ctl) (x1 : OpS) (s : State) (hz : Eff z s) : EffR z (execSmin x0 x1 s) := by
  unfold execSmin
  try dsimp only
  repeat' first
    | with_reducible assumption
    | with_reducible apply issue_eff

theorem execVldab_eff {z : State} (x0 : Ctl) (x1 : OpV) (s : State) (hz : Eff z s) : EffR z (execVldab x0 x1 s) := by
  unfold execVldab
  try dsimp only
  repeat' first
    | with_reducible assumption
    | with_reducible apply issue_eff

theorem execMswap_eff {z : State} (x0 : Ctl) (x1 : OpM) (s : State) (hz : Eff z s) : EffR z (execMswap x0 x1 s) := by
  unfold execMswap
  try dsimp only
  repeat' first
    | with_reducible assumption
    | with_reducible apply issue_eff

theorem execVfma_eff {z : State} (x0 : Ctl) (x1 : OpV) (s : State) (hz : Eff z s) : EffR z (execVfma x0 x1 s) := by
  unfold execVfma
  try dsimp only
  repeat' first
    | with_reducible assumption
    | with_reducible apply issue_eff

theorem execSmovi_eff {z : State} (x0 : Ctl) (x1 : OpS) (s : State) (hz : Eff z s) : EffR z (execSmovi x0 x1 s) := by
  unfold execSmovi
  try dsimp only
  repeat' first
    | with_reducible assumption
    | with_reducible apply issue_eff

theorem execTwr_eff {z : State} (x0 : Ctl) (x1 : OpV) (s : State) (hz : Eff z s) : EffR z (execTwr x0 x1 s) := by
  unfold execTwr
  try dsimp only
  repeat' first
    | with_reducible assumption
    | with_reducible apply issue_eff

theorem execMprod_eff {z : State} (x0 : Ctl) (x1 : OpM) (s : State) (hz : Eff z s) : EffR z (execMprod x0 x1 s) := by
  unfold execMprod
  try dsimp only
  repeat' first
    | with_reducible assumption
    | with_reducible apply issue_eff

end Sys2Proof.Machine
end

