-- ==== Sys2Proof/Laws/EffHost.lean ====
section
/-!
SUPPORT. Sys2Proof/Laws/EffHost.lean: what each operation of HostEvents.lean, MgmtPorts.lean, Debug.lean, Pins.lean, FrontEnd.lean, PowerEvents.lean, Release.lean keeps (`Eff`), one lemma each.
-/
namespace Sys2Proof.Machine

/-! ## HostEvents -/

theorem flrBegin_eff {z : State} (s : State) (hz : Eff z s) : Eff z (flrBegin s) := by
  unfold flrBegin
  try dsimp only
  repeat' first
    | with_reducible assumption
    | with_reducible exact Eff.refl _
    | with_reducible apply stopCore_eff
    | with_reducible apply usesEnd_eff
    | with_reducible apply dropReads_eff
    | with_reducible apply Eff.ite
    | with_reducible apply Eff.foldl
    | intro _
    | rw [State.mk_others]
    | with_reducible apply Eff.others

theorem movedMem_wf (s : State) (cs : List Nat) (l : List Host.Cell) (m : List Host.Cell) (h : memWf m = true) :
    memWf (l.foldl (fun m c =>
      if c.1 < memTop s then
        match movedAddr s cs c.1 with
        | some a => smapPut memDefault m a c.2
        | none => m
      else smapPut memDefault m c.1 c.2) m) = true := by
  induction l generalizing m with
  | nil => exact h
  | cons a t ih =>
    apply ih
    dsimp only
    split
    · split
      · exact smapPut_wf _ _ h
      · exact h
    · exact smapPut_wf _ _ h

theorem retireControllers_eff {z : State} (s : State) (hz : Eff z s) : Eff z (retireControllers s) := by
  unfold retireControllers
  apply Eff.ite hz
  extract_lets s1 cs mem s2
  have h2 : Eff z s2 := by
    apply dropCaches_eff
    rw [State.mk_all]
    exact Eff.putAll (Eff.others (applyMemRetire_eff _ hz)) (fun _ => movedMem_wf _ _ _ _ rfl) id (CurEff.refl _)
  clear_value s2
  apply Eff.foldl _ h2
  intro s k
  exact Eff.ite (Eff.refl s) (setMemState_eff _ _ _ (Eff.refl s))

theorem flrEnd_eff {z : State} (s : State) (hz : Eff z s) : Eff z (flrEnd s) := by
  unfold flrEnd
  extract_lets s1 p s2
  have h1 : Eff z s1 := clearInventory_eff _ (retireControllers_eff _ (planDrop_eff _ hz))
  clear_value s1
  have h2 : Eff z s2 := h1.trans ⟨rfl, id, fun h => smapWf_filter _ h, CurEff.refl _⟩
  have h3 := Eff.foldl (f := fun (s : State) (n : Nat) => s.rmod .vtrOwn 0 n fun v => setBits v 0 8 n) (l := List.range 64)
    (fun s n => rmod_eff _ _ _ _ _ (Eff.refl s)) h2
  split
  · exact floorSettle_eff _ h3
  · exact floorCheck_eff _ h3

theorem execL1Exit_eff {z : State} (s : State) (hz : Eff z s) : EffR z (execL1Exit s) := by
  unfold execL1Exit
  try dsimp only
  repeat' first
    | with_reducible assumption
    | with_reducible apply answer_eff
    | with_reducible apply startWake_eff
    | with_reducible apply Eff.ite

theorem execPerstAssert_eff {z : State} (s : State) (hz : Eff z s) : EffR z (execPerstAssert s) := by
  unfold execPerstAssert
  try dsimp only
  repeat' first
    | with_reducible assumption
    | with_reducible apply answer_eff
    | with_reducible apply flrBegin_eff
    | with_reducible apply Eff.ite
    | rw [State.mk_others]
    | with_reducible apply Eff.others

theorem execFlrComplete_eff {z : State} (s : State) (hz : Eff z s) : EffR z (execFlrComplete s) := by
  unfold execFlrComplete
  try dsimp only
  repeat' first
    | with_reducible assumption
    | with_reducible apply answer_eff
    | with_reducible apply flrEnd_eff
    | with_reducible apply Eff.ite

theorem execPerstDeassert_eff {z : State} (x0 : Nat) (x1 : Nat) (x2 : Bool) (s : State) (hz : Eff z s) :
    EffR z (execPerstDeassert x0 x1 x2 s) := by
  unfold execPerstDeassert
  try dsimp only
  repeat' first
    | with_reducible assumption
    | with_reducible apply answer_eff
    | with_reducible apply Eff.ite
    | rw [State.mk_others]
    | with_reducible apply Eff.others

theorem dropHeld_eff {z : State} (s : State) (hz : Eff z s) : Eff z (dropHeld s) := by
  unfold dropHeld
  try dsimp only
  repeat' first
    | with_reducible assumption
    | with_reducible exact Eff.refl _
    | with_reducible apply reclaimTags_eff
    | with_reducible apply freeWin_eff
    | with_reducible apply useEndOpt_eff
    | with_reducible apply Eff.foldl
    | intro _
    | rw [State.mk_others]
    | with_reducible apply Eff.others

theorem execTagWaitExpire_eff {z : State} (s : State) (hz : Eff z s) : EffR z (execTagWaitExpire s) := by
  unfold execTagWaitExpire
  try dsimp only
  repeat' first
    | with_reducible assumption
    | with_reducible apply answer_eff
    | with_reducible apply dropHeld_eff
    | with_reducible apply Eff.ite

theorem execD0Return_eff {z : State} (s : State) (hz : Eff z s) : EffR z (execD0Return s) := by
  unfold execD0Return
  try dsimp only
  repeat' first
    | with_reducible assumption
    | with_reducible apply answer_eff
    | with_reducible apply startWake_eff
    | with_reducible apply Eff.ite
    | rw [State.mk_others]
    | with_reducible apply Eff.others

theorem execFlr_eff {z : State} (s : State) (hz : Eff z s) : EffR z (execFlr s) := by
  unfold execFlr
  try dsimp only
  repeat' first
    | with_reducible assumption
    | with_reducible apply answer_eff
    | with_reducible apply startWake_eff
    | with_reducible apply flrBegin_eff
    | with_reducible apply Eff.ite

theorem execD3hot_eff {z : State} (s : State) (hz : Eff z s) : EffR z (execD3hot s) := by
  unfold execD3hot
  try dsimp only
  repeat' first
    | with_reducible assumption
    | with_reducible apply answer_eff
    | with_reducible apply requestSleep_eff
    | with_reducible apply Eff.ite
    | rw [State.mk_others]
    | with_reducible apply Eff.others


/-! ## MgmtPorts -/

theorem modI3c_eff {z : State} (s : State) (x1 : I3c → I3c) (hz : Eff z s) : Eff z (modI3c s x1) := by
  unfold modI3c
  try dsimp only
  repeat' first
    | with_reducible assumption
    | rw [State.mk_others]
    | with_reducible apply Eff.others

theorem execEntdaa_eff {z : State} (x0 : BitVec 7) (s : State) (hz : Eff z s) : EffR z (execEntdaa x0 s) := by
  unfold execEntdaa
  try dsimp only
  repeat' first
    | with_reducible assumption
    | with_reducible apply answer_eff
    | with_reducible apply emit_eff
    | with_reducible apply modI3c_eff
    | with_reducible apply Eff.ite

theorem execDisec_eff {z : State} (s : State) (hz : Eff z s) : EffR z (execDisec s) := by
  unfold execDisec
  try dsimp only
  repeat' first
    | with_reducible assumption
    | with_reducible apply answer_eff
    | with_reducible apply modI3c_eff
    | with_reducible apply Eff.ite

theorem i3cRead_eff {z : State} (s : State) (x1 : List Byte) (hz : Eff z s) : EffR z (i3cRead s x1) := by
  unfold i3cRead
  try dsimp only
  repeat' first
    | with_reducible assumption
    | with_reducible apply answer_eff
    | with_reducible apply emit_eff
    | with_reducible apply Eff.ite

theorem execGetstatus_eff {z : State} (s : State) (hz : Eff z s) : EffR z (execGetstatus s) := by
  unfold execGetstatus
  try dsimp only
  repeat' first
    | with_reducible assumption
    | with_reducible apply i3cRead_eff

theorem portReply_eff {z : State} (s : State) (x1 : Bool) (x2 : W32) (x3 : Byte) (x4 : List Byte) (hz : Eff z s) :
    Eff z (portReply s x1 x2 x3 x4) := by
  unfold portReply
  try dsimp only
  repeat' first
    | with_reducible assumption
    | with_reducible apply emit_eff
    | with_reducible apply modI3c_eff
    | with_reducible apply Eff.ite

theorem heldReply_eff {z : State} (s : State) (x1 : HeldWrite) (x2 : Byte) (hz : Eff z s) :
    Eff z (heldReply s x1 x2) := by
  unfold heldReply
  try dsimp only
  repeat' first
    | with_reducible assumption
    | with_reducible apply portReply_eff
    | with_reducible apply Eff.ite

theorem endWipe_effL (s : State) (r : Nat) : EffL s (endWipe s r) := by
  have h1 : Eff s { s with cur := { s.cur with wipe := none } } :=
    (Eff.refl s).trans ⟨rfl, id, id, CurEff.of_eq rfl rfl rfl rfl rfl⟩
  unfold endWipe
  dsimp only
  split
  · rename_i op hop
    split
    · have h2 := lcFinish_effL { s with cur := { s.cur with wipe := none } } op hop
      exact ⟨h2.pending, h2.mem, h2.regs, h2.svn, h2.uds, h2.lc, h2.op, h2.tam⟩
    · exact (newChain_eff _ _ h1).toL
  · exact (newChain_eff _ _ h1).toL

theorem onPort_eff {z : State} (s : State) (e : Bool) (f : State) (hz : Eff z s) (hf : Eff z f) : EffR z (onPort s e f) :=
  answer_eff _ _ hz (Eff.ite hf hz)

theorem portWrite_eff {z : State} (s : State) (x1 : Bool) (x2 : W32) (x3 : Nat) (x4 : Nat) (x5 : W64) (hz : Eff z s) :
    Eff z (portWrite s x1 x2 x3 x4 x5) := by
  unfold portWrite
  try dsimp only
  repeat' first
    | with_reducible assumption
    | with_reducible apply portReply_eff
    | with_reducible apply dropOther_eff
    | with_reducible apply acceptWrite_eff
    | with_reducible apply Eff.ite
    | split

theorem fromFrame_eff {z : State} (s : State) (x1 : Bool) (x2 : BitVec 48) (hz : Eff z s) :
    Eff z (fromFrame s x1 x2) := by
  unfold fromFrame
  try dsimp only
  repeat' first
    | with_reducible assumption
    | with_reducible apply Eff.ite
    | rw [State.mk_others]
    | with_reducible apply Eff.others

theorem execWrite4_eff {z : State} (x0 : Bool) (x1 : W32) (x2 : W32) (x3 : W32) (x4 : BitVec 48) (s : State)
    (hz : Eff z s) :
    EffR z (execWrite4 x0 x1 x2 x3 x4 s) := by
  unfold execWrite4
  try dsimp only
  repeat' first
    | with_reducible assumption
    | with_reducible apply onPort_eff
    | with_reducible apply portWrite_eff
    | with_reducible apply fromFrame_eff

theorem execGetdcr_eff {z : State} (s : State) (hz : Eff z s) : EffR z (execGetdcr s) := by
  unfold execGetdcr
  try dsimp only
  repeat' first
    | with_reducible assumption
    | with_reducible apply i3cRead_eff

theorem portRead_eff {z : State} (s : State) (x1 : Bool) (x2 : W32) (x3 : Nat) (x4 : Nat) (hz : Eff z s) :
    Eff z (portRead s x1 x2 x3 x4) := by
  unfold portRead
  try dsimp only
  repeat' first
    | with_reducible assumption
    | with_reducible apply portReply_eff
    | with_reducible apply ifaceRead_eff
    | split

theorem execRead8_eff {z : State} (x0 : Bool) (x1 : W32) (x2 : W32) (s : State) (hz : Eff z s) :
    EffR z (execRead8 x0 x1 x2 s) := by
  unfold execRead8
  try dsimp only
  repeat' first
    | with_reducible assumption
    | with_reducible apply onPort_eff
    | with_reducible apply portRead_eff

theorem execWrite8_eff {z : State} (x0 : Bool) (x1 : W32) (x2 : W32) (x3 : W64) (x4 : BitVec 48) (s : State)
    (hz : Eff z s) :
    EffR z (execWrite8 x0 x1 x2 x3 x4 s) := by
  unfold execWrite8
  try dsimp only
  repeat' first
    | with_reducible assumption
    | with_reducible apply onPort_eff
    | with_reducible apply portWrite_eff
    | with_reducible apply fromFrame_eff

theorem execReadChangeLogRecord_eff {z : State} (x0 : Bool) (x1 : W32) (x2 : W32) (s : State) (hz : Eff z s) :
    EffR z (execReadChangeLogRecord x0 x1 x2 s) := by
  unfold execReadChangeLogRecord
  try dsimp only
  repeat' first
    | with_reducible assumption
    | with_reducible apply onPort_eff
    | with_reducible apply portReply_eff

theorem execEnec_eff {z : State} (s : State) (hz : Eff z s) : EffR z (execEnec s) := by
  unfold execEnec
  try dsimp only
  repeat' first
    | with_reducible assumption
    | with_reducible apply answer_eff
    | with_reducible apply modI3c_eff
    | with_reducible apply Eff.ite

theorem execRstdaa_eff {z : State} (s : State) (hz : Eff z s) : EffR z (execRstdaa s) := by
  unfold execRstdaa
  try dsimp only
  repeat' first
    | with_reducible assumption
    | with_reducible apply answer_eff
    | with_reducible apply modI3c_eff
    | with_reducible apply Eff.ite

theorem releaseWrite_eff {z : State} (s : State) (x1 : HeldWrite) (hz : Eff z s) : Eff z (releaseWrite s x1) := by
  unfold releaseWrite
  try dsimp only
  repeat' first
    | with_reducible assumption
    | with_reducible apply ownChange_eff
    | with_reducible apply heldReply_eff
    | with_reducible apply recordRefusal_eff
    | with_reducible apply applyWrite_eff
    | with_reducible apply holdWrite_eff
    | with_reducible apply Eff.ite
    | split

theorem releaseWrites_eff {z : State} (s : State) (hz : Eff z s) : Eff z (releaseWrites s) := by
  unfold releaseWrites
  try dsimp only
  repeat' first
    | with_reducible assumption
    | with_reducible exact Eff.refl _
    | with_reducible apply releaseWrite_eff
    | with_reducible apply Eff.foldl
    | intro _
    | rw [State.mk_cur]
    | with_reducible apply Eff.others
    | with_reducible apply Eff.putCur
    | (with_reducible refine CurEff.of_eq ?_ ?_ ?_ ?_ ?_) <;> rfl

theorem execRead4_eff {z : State} (x0 : Bool) (x1 : W32) (x2 : W32) (s : State) (hz : Eff z s) :
    EffR z (execRead4 x0 x1 x2 s) := by
  unfold execRead4
  try dsimp only
  repeat' first
    | with_reducible assumption
    | with_reducible apply onPort_eff
    | with_reducible apply portRead_eff

theorem answer_effL {b u t : State} (hu : EffL b u) (h : answer b u = .next t) : EffL b t := by
  unfold answer at h
  cases h
  by_cases hm : metNothing b u = true
  · rw [if_pos hm]
    exact hu.trans (summaryRise_eff _ _ (Eff.refl _))
  · rw [if_neg hm]
    exact (Eff.refl b).toL

theorem execWipeDone_effL (s : State) : ∀ t, execWipeDone s = .next t → EffL s t := by
  intro t ht
  refine answer_effL ?_ ht
  split
  · exact (Eff.refl s).toL
  · rename_i r _
    split
    · apply EffL.trans (endWipe_effL s r)
      apply Eff.foldl (fun s a => spdmServe_eff _ _ (Eff.refl s))
      exact (releaseWrites_eff _ (Eff.refl _)).trans ⟨rfl, id, id, CurEff.of_eq rfl rfl rfl rfl rfl⟩
    · exact (Eff.refl s).toL

theorem execGetbcr_eff {z : State} (s : State) (hz : Eff z s) : EffR z (execGetbcr s) := by
  unfold execGetbcr
  try dsimp only
  repeat' first
    | with_reducible assumption
    | with_reducible apply i3cRead_eff

theorem execRstact_eff {z : State} (x0 : Byte) (s : State) (hz : Eff z s) : EffR z (execRstact x0 s) := by
  unfold execRstact
  try dsimp only
  repeat' first
    | with_reducible assumption
    | with_reducible apply answer_eff
    | with_reducible apply modI3c_eff
    | with_reducible apply Eff.ite

theorem execSetdasa_eff {z : State} (x0 : BitVec 7) (x1 : BitVec 7) (s : State) (hz : Eff z s) :
    EffR z (execSetdasa x0 x1 s) := by
  unfold execSetdasa
  try dsimp only
  repeat' first
    | with_reducible assumption
    | with_reducible apply answer_eff
    | with_reducible apply modI3c_eff
    | with_reducible apply Eff.ite

theorem execGetmxds_eff {z : State} (s : State) (hz : Eff z s) : EffR z (execGetmxds s) := by
  unfold execGetmxds
  try dsimp only
  repeat' first
    | with_reducible assumption
    | with_reducible apply i3cRead_eff

theorem telemItem_eff {z : State} (s : State) (x1 : Nat) (hz : Eff z s) : Eff z (telemItem s x1).2 := by
  unfold telemItem
  try dsimp only
  repeat' first
    | with_reducible assumption
    | with_reducible apply regRead_eff
    | split

theorem telemCopy_eff {z : State} (s : State) (x1 : Nat) (hz : Eff z s) : Eff z (telemCopy s x1) := by
  unfold telemCopy
  try dsimp only
  repeat' first
    | with_reducible assumption
    | with_reducible apply telemItem_eff
    | with_reducible apply rset_eff
    | with_reducible apply Eff.ite

theorem execTelemetrySnapshot_eff {z : State} (s : State) (hz : Eff z s) : EffR z (execTelemetrySnapshot s) := by
  unfold execTelemetrySnapshot
  try dsimp only
  repeat' first
    | with_reducible assumption
    | with_reducible exact Eff.refl _
    | with_reducible apply answer_eff
    | with_reducible apply rcountWrap_eff
    | with_reducible apply telemCopy_eff
    | with_reducible apply Eff.ite
    | with_reducible apply Eff.foldl
    | intro _

theorem execErrMsgIntervalExpire_eff {z : State} (x0 : Fin 3) (s : State) (hz : Eff z s) :
    EffR z (execErrMsgIntervalExpire x0 s) := by
  unfold execErrMsgIntervalExpire
  try dsimp only
  repeat' first
    | with_reducible assumption
    | with_reducible apply answer_eff
    | with_reducible apply pathPut_eff
    | with_reducible apply pathSend_eff
    | with_reducible apply Eff.ite

theorem execMgmtHoldTimeout_eff {z : State} (x0 : Bool) (s : State) (hz : Eff z s) :
    EffR z (execMgmtHoldTimeout x0 s) := by
  unfold execMgmtHoldTimeout
  try dsimp only
  repeat' first
    | with_reducible assumption
    | with_reducible apply answer_eff
    | with_reducible apply portReply_eff
    | rw [State.mk_cur]
    | with_reducible apply Eff.others
    | with_reducible apply Eff.putCur
    | (with_reducible refine CurEff.of_eq ?_ ?_ ?_ ?_ ?_) <;> rfl
    | split

theorem execGetpid_eff {z : State} (s : State) (hz : Eff z s) : EffR z (execGetpid s) := by
  unfold execGetpid
  try dsimp only
  repeat' first
    | with_reducible assumption
    | with_reducible apply i3cRead_eff


/-! ## Debug -/

theorem portDark_eff {z : State} (s : State) (x1 : Fin 16) (hz : Eff z s) : Eff z (portDark s x1) := by
  unfold portDark
  try dsimp only
  repeat' first
    | with_reducible assumption
    | with_reducible apply enterDown_eff
    | with_reducible apply Eff.ite

theorem portLit_eff {z : State} (s : State) (x1 : Fin 16) (hz : Eff z s) : Eff z (portLit s x1) := by
  unfold portLit
  try dsimp only
  repeat' first
    | with_reducible assumption
    | with_reducible apply startTraining_eff
    | with_reducible apply Eff.ite

theorem setBoundary_eff {z : State} (s : State) (x1 : Bool) (hz : Eff z s) : Eff z (setBoundary s x1) := by
  unfold setBoundary
  try dsimp only
  repeat' first
    | with_reducible assumption
    | with_reducible exact Eff.refl _
    | with_reducible apply portDark_eff
    | with_reducible apply portLit_eff
    | with_reducible apply Eff.ite
    | with_reducible apply Eff.foldl
    | intro _
    | rw [State.mk_others]
    | with_reducible apply Eff.others

theorem setIr_eff {z : State} (s : State) (x1 : Byte) (x2 : Bool) (hz : Eff z s) : Eff z (setIr s x1 x2) := by
  unfold setIr
  try dsimp only
  repeat' first
    | with_reducible assumption
    | with_reducible apply setBoundary_eff
    | with_reducible apply rmod_eff

theorem boundaryRefuse_eff {z : State} (s : State) (hz : Eff z s) : Eff z (boundaryRefuse s) := by
  unfold boundaryRefuse
  try dsimp only
  repeat' first
    | with_reducible assumption
    | with_reducible apply setIr_eff
    | with_reducible apply rmod_eff

theorem boundaryTest_eff {z : State} (x0 : Byte) (x1 : List Bool) (x2 : State → State) (s : State) (h2 : ∀
    (a0 : State), Eff a0 (x2 a0)) (hz : Eff z s) :
    EffR z (boundaryTest x0 x1 x2 s) := by
  unfold boundaryTest
  try dsimp only
  repeat' first
    | with_reducible assumption
    | with_reducible apply Eff.after (h2 _)
    | with_reducible apply answer_eff
    | with_reducible apply emit_eff
    | with_reducible apply setIr_eff
    | with_reducible apply boundaryRefuse_eff
    | with_reducible apply Eff.ite

theorem bypassTest_eff {z : State} (x0 : Byte) (x1 : List Bool) (s : State) (hz : Eff z s) :
    EffR z (bypassTest x0 x1 s) := by
  unfold bypassTest
  try dsimp only
  repeat' first
    | with_reducible assumption
    | with_reducible exact Eff.refl _
    | with_reducible apply boundaryTest_eff
    | with_reducible apply emit_eff
    | intro _

theorem execJtagClamp_eff {z : State} (s : State) (hz : Eff z s) : EffR z (execJtagClamp s) := by
  unfold execJtagClamp
  try dsimp only
  repeat' first
    | with_reducible assumption
    | with_reducible apply bypassTest_eff

theorem scanBoundary_eff {z : State} (s : State) (x1 : Byte) (x2 : List Bool) (hz : Eff z s) :
    Eff z (scanBoundary s x1 x2) := by
  unfold scanBoundary
  try dsimp only
  repeat' first
    | with_reducible assumption
    | with_reducible apply emit_eff
    | rw [State.mk_others]
    | with_reducible apply Eff.others

theorem execJtagSample_eff {z : State} (x0 : List Bool) (s : State) (hz : Eff z s) : EffR z (execJtagSample x0 s) := by
  unfold execJtagSample
  try dsimp only
  repeat' first
    | with_reducible assumption
    | with_reducible apply answer_eff
    | with_reducible apply scanBoundary_eff
    | with_reducible apply setIr_eff
    | with_reducible apply Eff.ite

theorem execTapReset_eff {z : State} (s : State) (hz : Eff z s) : EffR z (execTapReset s) := by
  unfold execTapReset
  try dsimp only
  repeat' first
    | with_reducible assumption
    | with_reducible apply answer_eff
    | with_reducible apply setIr_eff
    | with_reducible apply Eff.ite

theorem execJtagDbgAccess_eff {z : State} (x0 : BitVec 26) (s : State) (hz : Eff z s) :
    EffR z (execJtagDbgAccess x0 s) := by
  unfold execJtagDbgAccess
  try dsimp only
  repeat' first
    | with_reducible assumption
    | with_reducible apply answer_eff
    | with_reducible apply emit_eff
    | with_reducible apply setIr_eff
    | with_reducible apply read8_eff
    | with_reducible apply Eff.ite
    | with_reducible apply Eff.ite2
    | rw [State.mk_others]
    | with_reducible apply Eff.others

theorem externTest_eff {z : State} (x0 : Byte) (x1 : List Bool) (s : State) (hz : Eff z s) :
    EffR z (externTest x0 x1 s) := by
  unfold externTest
  try dsimp only
  repeat' first
    | with_reducible assumption
    | with_reducible exact Eff.refl _
    | with_reducible apply boundaryTest_eff
    | with_reducible apply emit_eff
    | with_reducible apply scanBoundary_eff
    | intro _

theorem execJtagExtestTrain_eff {z : State} (x0 : List Bool) (s : State) (hz : Eff z s) :
    EffR z (execJtagExtestTrain x0 s) := by
  unfold execJtagExtestTrain
  try dsimp only
  repeat' first
    | with_reducible assumption
    | with_reducible apply externTest_eff

theorem execJtagExtest_eff {z : State} (x0 : List Bool) (s : State) (hz : Eff z s) : EffR z (execJtagExtest x0 s) := by
  unfold execJtagExtest
  try dsimp only
  repeat' first
    | with_reducible assumption
    | with_reducible apply externTest_eff

theorem execJtagHighz_eff {z : State} (s : State) (hz : Eff z s) : EffR z (execJtagHighz s) := by
  unfold execJtagHighz
  try dsimp only
  repeat' first
    | with_reducible assumption
    | with_reducible apply bypassTest_eff

theorem execJtagIdcode_eff {z : State} (s : State) (hz : Eff z s) : EffR z (execJtagIdcode s) := by
  unfold execJtagIdcode
  try dsimp only
  repeat' first
    | with_reducible assumption
    | with_reducible apply answer_eff
    | with_reducible apply emit_eff
    | with_reducible apply setIr_eff
    | with_reducible apply Eff.ite

theorem execJtagExtestPulse_eff {z : State} (x0 : List Bool) (s : State) (hz : Eff z s) :
    EffR z (execJtagExtestPulse x0 s) := by
  unfold execJtagExtestPulse
  try dsimp only
  repeat' first
    | with_reducible assumption
    | with_reducible apply externTest_eff

theorem execJtagBypass_eff {z : State} (x0 : Byte) (s : State) (hz : Eff z s) : EffR z (execJtagBypass x0 s) := by
  unfold execJtagBypass
  try dsimp only
  repeat' first
    | with_reducible assumption
    | with_reducible apply answer_eff
    | with_reducible apply emit_eff
    | with_reducible apply setIr_eff
    | with_reducible apply Eff.ite


/-! ## Pins -/

theorem obsClock_eff {z : State} (s : State) (hz : Eff z s) : Eff z (obsClock s) := by
  unfold obsClock
  try dsimp only
  repeat' first
    | with_reducible assumption
    | rw [State.mk_others]
    | with_reducible apply Eff.others


/-! ## FrontEnd -/

theorem nextOf_eff {z : State} (r : Result) (s : State) (hr : EffR z r) (hz : Eff z s) : Eff z (nextOf r s) := by
  unfold nextOf
  split
  · exact hr.of _ rfl
  · exact hz

theorem issueRow_eff {z : State} (x0 : CoreOp) (x1 : Args) (x2 : Ctl) (s : State) (hz : Eff z s) :
    EffR z (issueRow x0 x1 x2 s) := by
  unfold issueRow
  try dsimp only
  repeat' first
    | with_reducible assumption
    | with_reducible apply execNop_eff
    | with_reducible apply execB_eff
    | with_reducible apply execBcc_eff
    | with_reducible apply execCall_eff
    | with_reducible apply execRet_eff
    | with_reducible apply execLoop_eff
    | with_reducible apply execLoopi_eff
    | with_reducible apply execHalt_eff
    | with_reducible apply issue_eff
    | split

theorem issueWord_eff {z : State} (x0 : Fin 72) (x1 : Fin 6) (x2 : BitVec 128) (s : State) (hz : Eff z s) :
    EffR z (issueWord x0 x1 x2 s) := by
  unfold issueWord
  try dsimp only
  repeat' first
    | with_reducible assumption
    | with_reducible exact Eff.refl _
    | with_reducible apply answer_eff
    | with_reducible apply withLine_eff
    | with_reducible apply modCore_eff
    | with_reducible apply frontFault_eff
    | with_reducible apply issueRow_eff
    | intro _
    | split

theorem frontStream_eff {z : State} (p : Fin 72) (s : State) (k : Fin 6) (hz : Eff z s) : Eff z (frontStream p s k) := by
  unfold frontStream
  extract_lets c
  refine Eff.ite hz (Eff.ite ?_ (Eff.ite ?_ hz))
  · exact nextOf_eff _ _ (issueWord_eff _ _ _ _ hz) hz
  · exact nextOf_eff _ _ (answer_eff _ _ hz (withLine_eff _ _ _ _ (fun a => Eff.refl a) hz)) hz

theorem frontEnd_eff {z : State} (s : State) (x1 : Fin 72) (hz : Eff z s) : Eff z (frontEnd s x1) := by
  unfold frontEnd
  try dsimp only
  repeat' first
    | with_reducible assumption
    | with_reducible exact Eff.refl _
    | with_reducible apply modCore_eff
    | with_reducible apply frontStream_eff
    | with_reducible apply Eff.ite
    | with_reducible apply Eff.foldl
    | intro _
    | rw [State.mk_others]
    | with_reducible apply Eff.others

theorem frontEnds_eff {z : State} (s : State) (hz : Eff z s) : Eff z (frontEnds s) := by
  unfold frontEnds
  try dsimp only
  repeat' first
    | with_reducible assumption
    | with_reducible exact Eff.refl _
    | with_reducible apply frontEnd_eff
    | with_reducible apply Eff.ite
    | with_reducible apply Eff.foldl
    | intro _

theorem clockTick_eff {z : State} (s : State) (hz : Eff z s) : Eff z (clockTick s) := by
  unfold clockTick
  try dsimp only
  repeat' first
    | with_reducible assumption
    | with_reducible apply pmcStep_eff
    | with_reducible apply frontEnds_eff
    | with_reducible apply summaryRise_eff
    | with_reducible apply tick_eff
    | with_reducible apply obsClock_eff
    | with_reducible apply fabricClock_eff
    | with_reducible apply countClocks_eff


/-! ## PowerEvents -/

theorem moveMemStates_eff {z : State} (s : State) (x1 : Nat) (x2 : Nat) (hz : Eff z s) :
    Eff z (moveMemStates s x1 x2) := by
  unfold moveMemStates
  try dsimp only
  repeat' first
    | with_reducible assumption
    | with_reducible exact Eff.refl _
    | with_reducible apply setMemState_eff
    | with_reducible apply Eff.ite
    | with_reducible apply Eff.foldl
    | intro _

theorem finishWake_eff {z : State} (s : State) (x1 : BitVec 4) (hz : Eff z s) : Eff z (finishWake s x1) := by
  unfold finishWake
  try dsimp only
  repeat' first
    | with_reducible assumption
    | with_reducible apply clearCores_eff
    | with_reducible apply moveMemStates_eff
    | with_reducible apply rmod_eff
    | with_reducible apply setPwrState_eff
    | with_reducible apply applyAllHeld_eff
    | rw [State.mk_others]
    | with_reducible apply Eff.others

theorem execCapCheck_eff {z : State} (x0 : Nat) (x1 : Nat) (s : State) (hz : Eff z s) :
    EffR z (execCapCheck x0 x1 s) := by
  unfold execCapCheck
  try dsimp only
  repeat' first
    | with_reducible assumption
    | with_reducible apply answer_eff
    | with_reducible apply rmod_eff
    | with_reducible apply rcountSat_eff
    | with_reducible apply logPwr_eff
    | with_reducible apply report_eff
    | with_reducible apply Eff.ite

theorem waitForSource_eff {z : State} (s : State) (x1 : Nat) (hz : Eff z s) : Eff z (waitForSource s x1) := by
  unfold waitForSource
  try dsimp only
  repeat' first
    | with_reducible assumption
    | with_reducible apply logPwr_eff
    | with_reducible apply forceSafe_eff
    | with_reducible apply setTimeBit_eff
    | with_reducible apply Eff.ite
    | rw [State.mk_others]
    | with_reducible apply Eff.others

theorem execOscDelayExpire_eff {z : State} (x0 : Bool) (x1 : Bool) (s : State) (hz : Eff z s) :
    EffR z (execOscDelayExpire x0 x1 s) := by
  unfold execOscDelayExpire
  try dsimp only
  repeat' first
    | with_reducible assumption
    | with_reducible apply answer_eff
    | with_reducible apply curatorBoot_eff
    | with_reducible apply setPwrState_eff
    | with_reducible apply waitForSource_eff
    | with_reducible apply Eff.ite
    | rw [State.mk_others]
    | with_reducible apply Eff.others

theorem execComputeReady_eff {z : State} (s : State) (hz : Eff z s) : EffR z (execComputeReady s) := by
  unfold execComputeReady
  try dsimp only
  repeat' first
    | with_reducible assumption
    | with_reducible apply answer_eff
    | with_reducible apply setMemStates_eff
    | with_reducible apply setPwrState_eff
    | with_reducible apply rmod_eff
    | with_reducible apply Eff.ite
    | rw [State.mk_others]
    | with_reducible apply Eff.others

theorem execAlwaysOnLoss_eff {z : State} (s : State) (hz : Eff z s) : EffR z (execAlwaysOnLoss s) := by
  unfold execAlwaysOnLoss
  try dsimp only
  repeat' first
    | with_reducible assumption
    | with_reducible apply answer_eff
    | with_reducible apply enterOff_eff
    | with_reducible apply Eff.ite

theorem execWakeComplete_eff {z : State} (s : State) (hz : Eff z s) : EffR z (execWakeComplete s) := by
  unfold execWakeComplete
  try dsimp only
  repeat' first
    | with_reducible assumption
    | with_reducible apply answer_eff
    | with_reducible apply warmReset_eff
    | with_reducible apply rmod_eff
    | with_reducible apply finishWake_eff
    | with_reducible apply Eff.ite
    | split

theorem execJunctionSample_eff {z : State} (x0 : Vector Byte 16) (s : State) (hz : Eff z s) :
    EffR z (execJunctionSample x0 s) := by
  unfold execJunctionSample
  try dsimp only
  repeat' first
    | with_reducible assumption
    | with_reducible apply answer_eff
    | with_reducible apply rmod_eff
    | with_reducible apply enterFault_eff
    | with_reducible apply Eff.ite
    | rw [State.mk_others]
    | with_reducible apply Eff.others
    | split

theorem execPowerOn_eff {z : State} (x0 : BitVec 3) (x1 : BitVec 3) (s : State) (hz : Eff z s) :
    EffR z (execPowerOn x0 x1 s) := by
  unfold execPowerOn
  try dsimp only
  repeat' first
    | with_reducible assumption
    | with_reducible apply answer_eff
    | with_reducible apply powerOnReset_eff
    | with_reducible apply Eff.ite

theorem execRailFault_eff {z : State} (x0 : Nat) (x1 : Nat) (s : State) (hz : Eff z s) :
    EffR z (execRailFault x0 x1 s) := by
  unfold execRailFault
  try dsimp only
  repeat' first
    | with_reducible assumption
    | with_reducible apply answer_eff
    | with_reducible apply enterFault_eff
    | with_reducible apply Eff.ite

theorem execDroopRecovery_eff {z : State} (x0 : Fin 16) (s : State) (hz : Eff z s) :
    EffR z (execDroopRecovery x0 s) := by
  unfold execDroopRecovery
  try dsimp only
  repeat' first
    | with_reducible assumption
    | with_reducible apply answer_eff
    | rw [State.mk_others]
    | with_reducible apply Eff.others

theorem execPwrEnFall_eff {z : State} (s : State) (hz : Eff z s) : EffR z (execPwrEnFall s) := by
  unfold execPwrEnFall
  try dsimp only
  repeat' first
    | with_reducible assumption
    | with_reducible apply answer_eff
    | with_reducible apply enterOff_eff
    | with_reducible apply Eff.ite
    | rw [State.mk_others]
    | with_reducible apply Eff.others

theorem execDroop_eff {z : State} (x0 : Fin 16) (s : State) (hz : Eff z s) : EffR z (execDroop x0 s) := by
  unfold execDroop
  try dsimp only
  repeat' first
    | with_reducible assumption
    | with_reducible apply answer_eff
    | with_reducible apply logPwr_eff
    | with_reducible apply report_eff
    | with_reducible apply rcountSat_eff
    | with_reducible apply Eff.ite
    | rw [State.mk_others]
    | with_reducible apply Eff.others

theorem execUvWarn_eff {z : State} (x0 : Nat) (s : State) (hz : Eff z s) : EffR z (execUvWarn x0 s) := by
  unfold execUvWarn
  try dsimp only
  repeat' first
    | with_reducible assumption
    | with_reducible apply answer_eff
    | with_reducible apply logPwr_eff
    | with_reducible apply report_eff
    | with_reducible apply rcountSat_eff
    | with_reducible apply Eff.ite

theorem execInputOvervoltage_eff {z : State} (s : State) (hz : Eff z s) : EffR z (execInputOvervoltage s) := by
  unfold execInputOvervoltage
  try dsimp only
  repeat' first
    | with_reducible assumption
    | with_reducible apply answer_eff
    | with_reducible apply enterFault_eff
    | with_reducible apply Eff.ite

theorem execPowerStateEntered_eff {z : State} (s : State) (hz : Eff z s) : EffR z (execPowerStateEntered s) := by
  unfold execPowerStateEntered
  try dsimp only
  repeat' first
    | with_reducible assumption
    | with_reducible apply answer_eff
    | with_reducible apply breakSnapshot_eff
    | with_reducible apply dropCaches_eff
    | with_reducible apply sleepPorts_eff
    | with_reducible apply moveMemStates_eff
    | with_reducible apply setPwrState_eff
    | with_reducible apply Eff.ite
    | rw [State.mk_others]
    | with_reducible apply Eff.others
    | split

theorem sourcesBack_eff {z : State} (s : State) (hz : Eff z s) : Eff z (sourcesBack s) := by
  unfold sourcesBack
  try dsimp only
  repeat' first
    | with_reducible assumption
    | with_reducible apply curatorBoot_eff
    | with_reducible apply setPwrState_eff
    | with_reducible apply warmReset_eff
    | rw [State.mk_others]
    | with_reducible apply Eff.others
    | split

theorem execClockSourceReturn_eff {z : State} (s : State) (hz : Eff z s) : EffR z (execClockSourceReturn s) := by
  unfold execClockSourceReturn
  try dsimp only
  repeat' first
    | with_reducible assumption
    | with_reducible apply answer_eff
    | with_reducible apply sourcesBack_eff
    | with_reducible apply retrainPorts_eff
    | with_reducible apply Eff.ite
    | rw [State.mk_others]
    | with_reducible apply Eff.others

theorem execDutyRaise_eff {z : State} (x0 : Nat) (x1 : Nat) (s : State) (hz : Eff z s) :
    EffR z (execDutyRaise x0 x1 s) := by
  unfold execDutyRaise
  try dsimp only
  repeat' first
    | with_reducible assumption
    | with_reducible apply answer_eff
    | with_reducible apply rmod_eff
    | with_reducible apply Eff.ite

theorem execClkSrcLost_eff {z : State} (x0 : Fin 10) (s : State) (hz : Eff z s) : EffR z (execClkSrcLost x0 s) := by
  unfold execClkSrcLost
  try dsimp only
  repeat' first
    | with_reducible assumption
    | with_reducible apply answer_eff
    | with_reducible apply waitForSource_eff
    | with_reducible apply setPwrState_eff
    | with_reducible apply Eff.ite
    | rw [State.mk_others]
    | with_reducible apply Eff.others

theorem execInputOvercurrent_eff {z : State} (s : State) (hz : Eff z s) : EffR z (execInputOvercurrent s) := by
  unfold execInputOvercurrent
  try dsimp only
  repeat' first
    | with_reducible assumption
    | with_reducible apply answer_eff
    | with_reducible apply enterFault_eff
    | with_reducible apply Eff.ite

theorem execUndervolt_eff {z : State} (x0 : Nat) (s : State) (hz : Eff z s) : EffR z (execUndervolt x0 s) := by
  unfold execUndervolt
  try dsimp only
  repeat' first
    | with_reducible assumption
    | with_reducible apply answer_eff
    | with_reducible apply enterFault_eff
    | with_reducible apply Eff.ite


/-! ## Release -/

theorem releaseHolds_eff {z : State} (s : State) (hz : Eff z s) : Eff z (releaseHolds s) := by
  unfold releaseHolds
  try dsimp only
  repeat' first
    | with_reducible assumption
    | with_reducible exact Eff.refl _
    | with_reducible apply pumpQueues_eff
    | with_reducible apply applyAllHeld_eff
    | with_reducible apply releaseWrites_eff
    | with_reducible apply Eff.ite
    | with_reducible apply Eff.foldl
    | intro _
    | rw [State.mk_others]
    | with_reducible apply Eff.others

theorem execMemClockReturn_eff {z : State} (x0 : Bool) (s : State) (hz : Eff z s) :
    EffR z (execMemClockReturn x0 s) := by
  unfold execMemClockReturn
  try dsimp only
  repeat' first
    | with_reducible assumption
    | with_reducible exact Eff.refl _
    | with_reducible apply answer_eff
    | with_reducible apply releaseHolds_eff
    | with_reducible apply loseController_eff
    | with_reducible apply Eff.ite
    | with_reducible apply Eff.foldl
    | intro _
    | rw [State.mk_others]
    | with_reducible apply Eff.others

theorem execHandoverWipeDone_eff {z : State} (x0 : Fin 64) (s : State) (hz : Eff z s) :
    EffR z (execHandoverWipeDone x0 s) := by
  unfold execHandoverWipeDone
  try dsimp only
  repeat' first
    | with_reducible assumption
    | with_reducible apply answer_eff
    | with_reducible apply releaseHolds_eff
    | with_reducible apply rmod_eff
    | with_reducible apply Eff.ite

end Sys2Proof.Machine
end

