-- ==== Sys2Proof/Laws/Exec.lean ====
section
/-!
SUPPORT. Sys2Proof/Laws/Exec.lean: what every command keeps, said once for all of them.
-/
namespace Sys2Proof.Machine

/-- What a command keeps of the queue, the canonical forms and the Curator's records. -/
theorem exec_effL (i : Instr) (s t : State) (h : exec i s = .next t) : EffL s t := by
  cases i
  case nop x0 x1 => exact (Eff.toL ((execNop_eff x0 x1 s (Eff.refl s)).of t h))
  case b x0 x1 => exact (Eff.toL ((execB_eff x0 x1 s (Eff.refl s)).of t h))
  case bcc x0 x1 => exact (Eff.toL ((execBcc_eff x0 x1 s (Eff.refl s)).of t h))
  case call x0 x1 => exact (Eff.toL ((execCall_eff x0 x1 s (Eff.refl s)).of t h))
  case ret x0 x1 => exact (Eff.toL ((execRet_eff x0 x1 s (Eff.refl s)).of t h))
  case loop x0 x1 => exact (Eff.toL ((execLoop_eff x0 x1 s (Eff.refl s)).of t h))
  case loopi x0 x1 => exact (Eff.toL ((execLoopi_eff x0 x1 s (Eff.refl s)).of t h))
  case halt x0 x1 => exact (Eff.toL ((execHalt_eff x0 x1 s (Eff.refl s)).of t h))
  case engineNop x0 x1 => exact (Eff.toL ((execEngineNop_eff x0 x1 s (Eff.refl s)).of t h))
  case sadd x0 x1 => exact (Eff.toL ((execSadd_eff x0 x1 s (Eff.refl s)).of t h))
  case ssub x0 x1 => exact (Eff.toL ((execSsub_eff x0 x1 s (Eff.refl s)).of t h))
  case smul x0 x1 => exact (Eff.toL ((execSmul_eff x0 x1 s (Eff.refl s)).of t h))
  case sand x0 x1 => exact (Eff.toL ((execSand_eff x0 x1 s (Eff.refl s)).of t h))
  case sor x0 x1 => exact (Eff.toL ((execSor_eff x0 x1 s (Eff.refl s)).of t h))
  case sxor x0 x1 => exact (Eff.toL ((execSxor_eff x0 x1 s (Eff.refl s)).of t h))
  case sshl x0 x1 => exact (Eff.toL ((execSshl_eff x0 x1 s (Eff.refl s)).of t h))
  case sshr x0 x1 => exact (Eff.toL ((execSshr_eff x0 x1 s (Eff.refl s)).of t h))
  case ssra x0 x1 => exact (Eff.toL ((execSsra_eff x0 x1 s (Eff.refl s)).of t h))
  case smin x0 x1 => exact (Eff.toL ((execSmin_eff x0 x1 s (Eff.refl s)).of t h))
  case smax x0 x1 => exact (Eff.toL ((execSmax_eff x0 x1 s (Eff.refl s)).of t h))
  case scmp x0 x1 => exact (Eff.toL ((execScmp_eff x0 x1 s (Eff.refl s)).of t h))
  case smovi x0 x1 => exact (Eff.toL ((execSmovi_eff x0 x1 s (Eff.refl s)).of t h))
  case smovhi x0 x1 => exact (Eff.toL ((execSmovhi_eff x0 x1 s (Eff.refl s)).of t h))
  case saddi x0 x1 => exact (Eff.toL ((execSaddi_eff x0 x1 s (Eff.refl s)).of t h))
  case sfadd x0 x1 => exact (Eff.toL ((execSfadd_eff x0 x1 s (Eff.refl s)).of t h))
  case sfmul x0 x1 => exact (Eff.toL ((execSfmul_eff x0 x1 s (Eff.refl s)).of t h))
  case sffma x0 x1 => exact (Eff.toL ((execSffma_eff x0 x1 s (Eff.refl s)).of t h))
  case sfmin x0 x1 => exact (Eff.toL ((execSfmin_eff x0 x1 s (Eff.refl s)).of t h))
  case sfmax x0 x1 => exact (Eff.toL ((execSfmax_eff x0 x1 s (Eff.refl s)).of t h))
  case sfcvt x0 x1 => exact (Eff.toL ((execSfcvt_eff x0 x1 s (Eff.refl s)).of t h))
  case sld x0 x1 => exact (Eff.toL ((execSld_eff x0 x1 s (Eff.refl s)).of t h))
  case sst x0 x1 => exact (Eff.toL ((execSst_eff x0 x1 s (Eff.refl s)).of t h))
  case sflag x0 x1 => exact (Eff.toL ((execSflag_eff x0 x1 s (Eff.refl s)).of t h))
  case skadd x0 x1 => exact (Eff.toL ((execSkadd_eff x0 x1 s (Eff.refl s)).of t h))
  case skrd x0 x1 => exact (Eff.toL ((execSkrd_eff x0 x1 s (Eff.refl s)).of t h))
  case sid x0 x1 => exact (Eff.toL ((execSid_eff x0 x1 s (Eff.refl s)).of t h))
  case sstat x0 x1 => exact (Eff.toL ((execSstat_eff x0 x1 s (Eff.refl s)).of t h))
  case svget x0 x1 => exact (Eff.toL ((execSvget_eff x0 x1 s (Eff.refl s)).of t h))
  case mloads x0 x1 => exact (Eff.toL ((execMloads_eff x0 x1 s (Eff.refl s)).of t h))
  case mswap x0 x1 => exact (Eff.toL ((execMswap_eff x0 x1 s (Eff.refl s)).of t h))
  case mprod x0 x1 => exact (Eff.toL ((execMprod_eff x0 x1 s (Eff.refl s)).of t h))
  case msegt x0 x1 => exact (Eff.toL ((execMsegt_eff x0 x1 s (Eff.refl s)).of t h))
  case mcsum x0 x1 => exact (Eff.toL ((execMcsum_eff x0 x1 s (Eff.refl s)).of t h))
  case mabclr x0 x1 => exact (Eff.toL ((execMabclr_eff x0 x1 s (Eff.refl s)).of t h))
  case vadd x0 x1 => exact (Eff.toL ((execVadd_eff x0 x1 s (Eff.refl s)).of t h))
  case vsub x0 x1 => exact (Eff.toL ((execVsub_eff x0 x1 s (Eff.refl s)).of t h))
  case vmul x0 x1 => exact (Eff.toL ((execVmul_eff x0 x1 s (Eff.refl s)).of t h))
  case vfma x0 x1 => exact (Eff.toL ((execVfma_eff x0 x1 s (Eff.refl s)).of t h))
  case vfms x0 x1 => exact (Eff.toL ((execVfms_eff x0 x1 s (Eff.refl s)).of t h))
  case vmin x0 x1 => exact (Eff.toL ((execVmin_eff x0 x1 s (Eff.refl s)).of t h))
  case vmax x0 x1 => exact (Eff.toL ((execVmax_eff x0 x1 s (Eff.refl s)).of t h))
  case vabs x0 x1 => exact (Eff.toL ((execVabs_eff x0 x1 s (Eff.refl s)).of t h))
  case vneg x0 x1 => exact (Eff.toL ((execVneg_eff x0 x1 s (Eff.refl s)).of t h))
  case vcmp x0 x1 => exact (Eff.toL ((execVcmp_eff x0 x1 s (Eff.refl s)).of t h))
  case vsel x0 x1 => exact (Eff.toL ((execVsel_eff x0 x1 s (Eff.refl s)).of t h))
  case vand x0 x1 => exact (Eff.toL ((execVand_eff x0 x1 s (Eff.refl s)).of t h))
  case vor x0 x1 => exact (Eff.toL ((execVor_eff x0 x1 s (Eff.refl s)).of t h))
  case vxor x0 x1 => exact (Eff.toL ((execVxor_eff x0 x1 s (Eff.refl s)).of t h))
  case vshl x0 x1 => exact (Eff.toL ((execVshl_eff x0 x1 s (Eff.refl s)).of t h))
  case vshr x0 x1 => exact (Eff.toL ((execVshr_eff x0 x1 s (Eff.refl s)).of t h))
  case vmov x0 x1 => exact (Eff.toL ((execVmov_eff x0 x1 s (Eff.refl s)).of t h))
  case vcvt x0 x1 => exact (Eff.toL ((execVcvt_eff x0 x1 s (Eff.refl s)).of t h))
  case vrng x0 x1 => exact (Eff.toL ((execVrng_eff x0 x1 s (Eff.refl s)).of t h))
  case sparsify x0 x1 => exact (Eff.toL ((execSparsify_eff x0 x1 s (Eff.refl s)).of t h))
  case vld x0 x1 => exact (Eff.toL ((execVld_eff x0 x1 s (Eff.refl s)).of t h))
  case vst x0 x1 => exact (Eff.toL ((execVst_eff x0 x1 s (Eff.refl s)).of t h))
  case vldw x0 x1 => exact (Eff.toL ((execVldw_eff x0 x1 s (Eff.refl s)).of t h))
  case vldab x0 x1 => exact (Eff.toL ((execVldab_eff x0 x1 s (Eff.refl s)).of t h))
  case vstab x0 x1 => exact (Eff.toL ((execVstab_eff x0 x1 s (Eff.refl s)).of t h))
  case vperm x0 x1 => exact (Eff.toL ((execVperm_eff x0 x1 s (Eff.refl s)).of t h))
  case vslide x0 x1 => exact (Eff.toL ((execVslide_eff x0 x1 s (Eff.refl s)).of t h))
  case vbcast x0 x1 => exact (Eff.toL ((execVbcast_eff x0 x1 s (Eff.refl s)).of t h))
  case vred x0 x1 => exact (Eff.toL ((execVred_eff x0 x1 s (Eff.refl s)).of t h))
  case vscan x0 x1 => exact (Eff.toL ((execVscan_eff x0 x1 s (Eff.refl s)).of t h))
  case vseq x0 x1 => exact (Eff.toL ((execVseq_eff x0 x1 s (Eff.refl s)).of t h))
  case vlut x0 x1 => exact (Eff.toL ((execVlut_eff x0 x1 s (Eff.refl s)).of t h))
  case twr x0 x1 => exact (Eff.toL ((execTwr_eff x0 x1 s (Eff.refl s)).of t h))
  case tswap x0 x1 => exact (Eff.toL ((execTswap_eff x0 x1 s (Eff.refl s)).of t h))
  case vchld x0 x1 => exact (Eff.toL ((execVchld_eff x0 x1 s (Eff.refl s)).of t h))
  case vzmap x0 x1 => exact (Eff.toL ((execVzmap_eff x0 x1 s (Eff.refl s)).of t h))
  case vcsr x0 x1 => exact (Eff.toL ((execVcsr_eff x0 x1 s (Eff.refl s)).of t h))
  case vmset x0 x1 => exact (Eff.toL ((execVmset_eff x0 x1 s (Eff.refl s)).of t h))
  case ffun x0 x1 => exact (Eff.toL ((execFfun_eff x0 x1 s (Eff.refl s)).of t h))
  case fstat x0 x1 => exact (Eff.toL ((execFstat_eff x0 x1 s (Eff.refl s)).of t h))
  case fstrd x0 x1 => exact (Eff.toL ((execFstrd_eff x0 x1 s (Eff.refl s)).of t h))
  case fstclr x0 x1 => exact (Eff.toL ((execFstclr_eff x0 x1 s (Eff.refl s)).of t h))
  case ccopy x0 x1 => exact (Eff.toL ((execCcopy_eff x0 x1 s (Eff.refl s)).of t h))
  case ctrans x0 x1 => exact (Eff.toL ((execCtrans_eff x0 x1 s (Eff.refl s)).of t h))
  case cfill x0 x1 => exact (Eff.toL ((execCfill_eff x0 x1 s (Eff.refl s)).of t h))
  case cabout x0 x1 => exact (Eff.toL ((execCabout_eff x0 x1 s (Eff.refl s)).of t h))
  case cpbkt x0 x1 => exact (Eff.toL ((execCpbkt_eff x0 x1 s (Eff.refl s)).of t h))
  case cpsig x0 x1 => exact (Eff.toL ((execCpsig_eff x0 x1 s (Eff.refl s)).of t h))
  case cpput x0 x1 => exact (Eff.toL ((execCpput_eff x0 x1 s (Eff.refl s)).of t h))
  case cpacc x0 x1 => exact (Eff.toL ((execCpacc_eff x0 x1 s (Eff.refl s)).of t h))
  case cpgath x0 x1 => exact (Eff.toL ((execCpgath_eff x0 x1 s (Eff.refl s)).of t h))
  case chainGroup x0 => exact (Eff.toL ((execChainGroup_eff x0 s (Eff.refl s)).of t h))
  case pronkRampDown x0 => exact (Eff.toL ((execPronkRampDown_eff x0 s (Eff.refl s)).of t h))
  case pronkGate x0 => exact (Eff.toL ((execPronkGate_eff x0 s (Eff.refl s)).of t h))
  case waitSatisfied x0 x1 => exact (Eff.toL ((execWaitSatisfied_eff x0 x1 s (Eff.refl s)).of t h))
  case instructionRelease x0 x1 => exact (Eff.toL ((execInstructionRelease_eff x0 x1 s (Eff.refl s)).of t h))
  case instructionComplete x0 x1 => exact (Eff.toL ((execInstructionComplete_eff x0 x1 s (Eff.refl s)).of t h))
  case waitTimeout x0 x1 => exact (Eff.toL ((execWaitTimeout_eff x0 x1 s (Eff.refl s)).of t h))
  case coreFinished x0 => exact (Eff.toL ((execCoreFinished_eff x0 s (Eff.refl s)).of t h))
  case dispatchStop x0 => exact (Eff.toL ((execDispatchStop_eff x0 s (Eff.refl s)).of t h))
  case corRetire x0 x1 => exact (Eff.toL ((execCorRetire_eff x0 x1 s (Eff.refl s)).of t h))
  case retirementTakesEffect => exact (Eff.toL ((execRetirementTakesEffect_eff s (Eff.refl s)).of t h))
  case reseed x0 x1 x2 => exact (Eff.toL ((execReseed_eff x0 x1 x2 s (Eff.refl s)).of t h))
  case reseedAtIdle x0 => exact (Eff.toL ((execReseedAtIdle_eff x0 s (Eff.refl s)).of t h))
  case freeRunningStep => exact (Eff.toL ((execFreeRunningStep_eff s (Eff.refl s)).of t h))
  case handover x0 x1 x2 => exact (Eff.toL ((execHandover_eff x0 x1 x2 s (Eff.refl s)).of t h))
  case handoverWipeDone x0 => exact (Eff.toL ((execHandoverWipeDone_eff x0 s (Eff.refl s)).of t h))
  case swizzleWrite x0 x1 x2 => exact (Eff.toL ((execSwizzleWrite_eff x0 x1 x2 s (Eff.refl s)).of t h))
  case patrolScrub => exact (Eff.toL ((execPatrolScrub_eff s (Eff.refl s)).of t h))
  case layDtabWrite x0 x1 => exact (Eff.toL ((execLayDtabWrite_eff x0 x1 s (Eff.refl s)).of t h))
  case ringRegister x0 x1 => exact (Eff.toL ((execRingRegister_eff x0 x1 s (Eff.refl s)).of t h))
  case ringFree x0 x1 => exact (Eff.toL ((execRingFree_eff x0 x1 s (Eff.refl s)).of t h))
  case freeComplete x0 => exact (Eff.toL ((execFreeComplete_eff x0 s (Eff.refl s)).of t h))
  case descCreate x0 x1 => exact (Eff.toL ((execDescCreate_eff x0 x1 s (Eff.refl s)).of t h))
  case descDestroy x0 x1 => exact (Eff.toL ((execDescDestroy_eff x0 x1 s (Eff.refl s)).of t h))
  case uploadImage x0 x1 => exact (Eff.toL ((execUploadImage_eff x0 x1 s (Eff.refl s)).of t h))
  case runProgram x0 x1 => exact (Eff.toL ((execRunProgram_eff x0 x1 s (Eff.refl s)).of t h))
  case ringCopy x0 x1 => exact (Eff.toL ((execRingCopy_eff x0 x1 s (Eff.refl s)).of t h))
  case copyIn x0 x1 => exact (Eff.toL ((execCopyIn_eff x0 x1 s (Eff.refl s)).of t h))
  case copyOut x0 x1 => exact (Eff.toL ((execCopyOut_eff x0 x1 s (Eff.refl s)).of t h))
  case ringAbort x0 x1 => exact (Eff.toL ((execRingAbort_eff x0 x1 s (Eff.refl s)).of t h))
  case ringNop x0 x1 => exact (Eff.toL ((execRingNop_eff x0 x1 s (Eff.refl s)).of t h))
  case commandDone x0 x1 => exact (Eff.toL ((execCommandDone_eff x0 x1 s (Eff.refl s)).of t h))
  case itrExpire x0 => exact (Eff.toL ((execItrExpire_eff x0 s (Eff.refl s)).of t h))
  case doorbell x0 x1 x2 x3 => exact (Eff.toL ((execDoorbell_eff x0 x1 x2 x3 s (Eff.refl s)).of t h))
  case entryFetch x0 => exact (Eff.toL ((execEntryFetch_eff x0 s (Eff.refl s)).of t h))
  case hostCompletion x0 x1 => exact (Eff.toL ((execHostCompletion_eff x0 x1 s (Eff.refl s)).of t h))
  case hostTimeout x0 => exact (Eff.toL ((execHostTimeout_eff x0 s (Eff.refl s)).of t h))
  case ringEnable x0 x1 => exact (Eff.toL ((execRingEnable_eff x0 x1 s (Eff.refl s)).of t h))
  case ringDisable x0 x1 => exact (Eff.toL ((execRingDisable_eff x0 x1 s (Eff.refl s)).of t h))
  case ringDisabled x0 => exact (Eff.toL ((execRingDisabled_eff x0 s (Eff.refl s)).of t h))
  case bar0Read x0 x1 => exact (Eff.toL ((execBar0Read_eff x0 x1 s (Eff.refl s)).of t h))
  case configWrite x0 x1 x2 x3 x4 => exact (Eff.toL ((execConfigWrite_eff x0 x1 x2 x3 x4 s (Eff.refl s)).of t h))
  case bar4Read x0 x1 => exact (Eff.toL ((execBar4Read_eff x0 x1 s (Eff.refl s)).of t h))
  case bar4Write x0 x1 x2 => exact (Eff.toL ((execBar4Write_eff x0 x1 x2 s (Eff.refl s)).of t h))
  case completionTimeoutValueWrite x0 => exact (Eff.toL ((execCompletionTimeoutValueWrite_eff x0 s (Eff.refl s)).of t h))
  case flr => exact (Eff.toL ((execFlr_eff s (Eff.refl s)).of t h))
  case tagWaitExpire => exact (Eff.toL ((execTagWaitExpire_eff s (Eff.refl s)).of t h))
  case perstAssert => exact (Eff.toL ((execPerstAssert_eff s (Eff.refl s)).of t h))
  case d3hot => exact (Eff.toL ((execD3hot_eff s (Eff.refl s)).of t h))
  case d0Return => exact (Eff.toL ((execD0Return_eff s (Eff.refl s)).of t h))
  case l1Exit => exact (Eff.toL ((execL1Exit_eff s (Eff.refl s)).of t h))
  case doeDiscovery x0 => exact (Eff.toL ((execDoeDiscovery_eff x0 s (Eff.refl s)).of t h))
  case refreshRateUpdate x0 x1 x2 => exact (Eff.toL ((execRefreshRateUpdate_eff x0 x1 x2 s (Eff.refl s)).of t h))
  case memClockLost => exact (Eff.toL ((execMemClockLost_eff s (Eff.refl s)).of t h))
  case memClockReturn x0 => exact (Eff.toL ((execMemClockReturn_eff x0 s (Eff.refl s)).of t h))
  case reinit x0 x1 x2 => exact (Eff.toL ((execReinit_eff x0 x1 x2 s (Eff.refl s)).of t h))
  case reinitDone x0 => exact (Eff.toL ((execReinitDone_eff x0 s (Eff.refl s)).of t h))
  case memRetire x0 x1 => exact (Eff.toL ((execMemRetire_eff x0 x1 s (Eff.refl s)).of t h))
  case accumulatorOp => exact (Eff.toL ((execAccumulatorOp_eff s (Eff.refl s)).of t h))
  case dataFlit x0 x1 x2 => exact (Eff.toL ((execDataFlit_eff x0 x1 x2 s (Eff.refl s)).of t h))
  case nullFlit x0 x1 x2 => exact (Eff.toL ((execNullFlit_eff x0 x1 x2 s (Eff.refl s)).of t h))
  case ctrlFlit x0 x1 x2 x3 => exact (Eff.toL ((execCtrlFlit_eff x0 x1 x2 x3 s (Eff.refl s)).of t h))
  case nakResend x0 => exact (Eff.toL ((execNakResend_eff x0 s (Eff.refl s)).of t h))
  case ackStall x0 => exact (Eff.toL ((execAckStall_eff x0 s (Eff.refl s)).of t h))
  case codewordLockLost x0 => exact (Eff.toL ((execCodewordLockLost_eff x0 s (Eff.refl s)).of t h))
  case laneFail x0 x1 => exact (Eff.toL ((execLaneFail_eff x0 x1 s (Eff.refl s)).of t h))
  case trainingAttempt x0 x1 x2 => exact (Eff.toL ((execTrainingAttempt_eff x0 x1 x2 s (Eff.refl s)).of t h))
  case retrainTimeout x0 => exact (Eff.toL ((execRetrainTimeout_eff x0 s (Eff.refl s)).of t h))
  case downRetry x0 => exact (Eff.toL ((execDownRetry_eff x0 s (Eff.refl s)).of t h))
  case portReset x0 x1 x2 => exact (Eff.toL ((execPortReset_eff x0 x1 x2 s (Eff.refl s)).of t h))
  case roleWrite x0 x1 x2 => exact (Eff.toL ((execRoleWrite_eff x0 x1 x2 s (Eff.refl s)).of t h))
  case fill x0 x1 => exact (Eff.toL ((execFill_eff x0 x1 s (Eff.refl s)).of t h))
  case route x0 => exact (Eff.toL ((execRoute_eff x0 s (Eff.refl s)).of t h))
  case write x0 => exact (Eff.toL ((execWrite_eff x0 s (Eff.refl s)).of t h))
  case read x0 => exact (Eff.toL ((execRead_eff x0 s (Eff.refl s)).of t h))
  case acc x0 => exact (Eff.toL ((execAcc_eff x0 s (Eff.refl s)).of t h))
  case signal x0 => exact (Eff.toL ((execSignal_eff x0 s (Eff.refl s)).of t h))
  case stepTrailer x0 => exact (Eff.toL ((execStepTrailer_eff x0 s (Eff.refl s)).of t h))
  case gatherDone x0 => exact (Eff.toL ((execGatherDone_eff x0 s (Eff.refl s)).of t h))
  case loanCommit x0 => exact (Eff.toL ((execLoanCommit_eff x0 s (Eff.refl s)).of t h))
  case ack x0 => exact (Eff.toL ((execAck_eff x0 s (Eff.refl s)).of t h))
  case readData x0 => exact (Eff.toL ((execReadData_eff x0 s (Eff.refl s)).of t h))
  case errorResponse x0 => exact (Eff.toL ((execErrorResponse_eff x0 s (Eff.refl s)).of t h))
  case respTimeout x0 => exact (Eff.toL ((execRespTimeout_eff x0 s (Eff.refl s)).of t h))
  case retryResend => exact (Eff.toL ((execRetryResend_eff s (Eff.refl s)).of t h))
  case colTimeout => exact (Eff.toL ((execColTimeout_eff s (Eff.refl s)).of t h))
  case planLoad x0 x1 => exact (Eff.toL ((execPlanLoad_eff x0 x1 s (Eff.refl s)).of t h))
  case planUnload x0 x1 => exact (Eff.toL ((execPlanUnload_eff x0 x1 s (Eff.refl s)).of t h))
  case syntLock x0 => exact (Eff.toL ((execSyntLock_eff x0 s (Eff.refl s)).of t h))
  case syntLost x0 => exact (Eff.toL ((execSyntLost_eff x0 s (Eff.refl s)).of t h))
  case syntHoldoverExpire => exact (Eff.toL ((execSyntHoldoverExpire_eff s (Eff.refl s)).of t h))
  case d06SourceLost => exact (Eff.toL ((execD06SourceLost_eff s (Eff.refl s)).of t h))
  case timeExchangeStart => exact (Eff.toL ((execTimeExchangeStart_eff s (Eff.refl s)).of t h))
  case timeReq x0 x1 x2 x3 => exact (Eff.toL ((execTimeReq_eff x0 x1 x2 x3 s (Eff.refl s)).of t h))
  case timeResp x0 x1 x2 x3 x4 x5 => exact (Eff.toL ((execTimeResp_eff x0 x1 x2 x3 x4 x5 s (Eff.refl s)).of t h))
  case riskUpdate => exact (Eff.toL ((execRiskUpdate_eff s (Eff.refl s)).of t h))
  case snapshotComplete x0 => exact (Eff.toL ((execSnapshotComplete_eff x0 s (Eff.refl s)).of t h))
  case annexRestore x0 x1 => exact (Eff.toL ((execAnnexRestore_eff x0 x1 s (Eff.refl s)).of t h))
  case annexErase x0 x1 => exact (Eff.toL ((execAnnexErase_eff x0 x1 s (Eff.refl s)).of t h))
  case annexCommandDone x0 => exact (Eff.toL ((execAnnexCommandDone_eff x0 s (Eff.refl s)).of t h))
  case powerOn x0 x1 => exact (Eff.toL ((execPowerOn_eff x0 x1 s (Eff.refl s)).of t h))
  case oscDelayExpire x0 x1 => exact (Eff.toL ((execOscDelayExpire_eff x0 x1 s (Eff.refl s)).of t h))
  case computeReady => exact (Eff.toL ((execComputeReady_eff s (Eff.refl s)).of t h))
  case pwrEnFall => exact (Eff.toL ((execPwrEnFall_eff s (Eff.refl s)).of t h))
  case reqRun x0 => exact (Eff.toL ((execReqRun_eff x0 s (Eff.refl s)).of t h))
  case reqSleep x0 => exact (Eff.toL ((execReqSleep_eff x0 s (Eff.refl s)).of t h))
  case reqDeep x0 => exact (Eff.toL ((execReqDeep_eff x0 s (Eff.refl s)).of t h))
  case reqOff x0 => exact (Eff.toL ((execReqOff_eff x0 s (Eff.refl s)).of t h))
  case powerStateEntered => exact (Eff.toL ((execPowerStateEntered_eff s (Eff.refl s)).of t h))
  case wakeComplete => exact (Eff.toL ((execWakeComplete_eff s (Eff.refl s)).of t h))
  case uvWarn x0 => exact (Eff.toL ((execUvWarn_eff x0 s (Eff.refl s)).of t h))
  case undervolt x0 => exact (Eff.toL ((execUndervolt_eff x0 s (Eff.refl s)).of t h))
  case inputOvervoltage => exact (Eff.toL ((execInputOvervoltage_eff s (Eff.refl s)).of t h))
  case inputOvercurrent => exact (Eff.toL ((execInputOvercurrent_eff s (Eff.refl s)).of t h))
  case railFault x0 x1 => exact (Eff.toL ((execRailFault_eff x0 x1 s (Eff.refl s)).of t h))
  case junctionSample x0 => exact (Eff.toL ((execJunctionSample_eff x0 s (Eff.refl s)).of t h))
  case capCheck x0 x1 => exact (Eff.toL ((execCapCheck_eff x0 x1 s (Eff.refl s)).of t h))
  case dutyRaise x0 x1 => exact (Eff.toL ((execDutyRaise_eff x0 x1 s (Eff.refl s)).of t h))
  case droop x0 => exact (Eff.toL ((execDroop_eff x0 s (Eff.refl s)).of t h))
  case clkSrcLost x0 => exact (Eff.toL ((execClkSrcLost_eff x0 s (Eff.refl s)).of t h))
  case clockSourceReturn => exact (Eff.toL ((execClockSourceReturn_eff s (Eff.refl s)).of t h))
  case alwaysOnLoss => exact (Eff.toL ((execAlwaysOnLoss_eff s (Eff.refl s)).of t h))
  case warm x0 => exact (Eff.toL ((execWarm_eff x0 s (Eff.refl s)).of t h))
  case queueReset x0 x1 => exact (Eff.toL ((execQueueReset_eff x0 x1 s (Eff.refl s)).of t h))
  case fwRecover x0 x1 => exact (Eff.toL ((execFwRecover_eff x0 x1 s (Eff.refl s)).of t h))
  case fwUpdate x0 x1 => exact (Eff.toL ((execFwUpdate_eff x0 x1 s (Eff.refl s)).of t h))
  case lifecycle x0 x1 => exact (Eff.toL ((execLifecycle_eff x0 x1 s (Eff.refl s)).of t h))
  case unretireCore x0 x1 => exact (Eff.toL ((execUnretireCore_eff x0 x1 s (Eff.refl s)).of t h))
  case unretireCtrl x0 x1 => exact (Eff.toL ((execUnretireCtrl_eff x0 x1 s (Eff.refl s)).of t h))
  case tamper x0 => exact (Eff.toL ((execTamper_eff x0 s (Eff.refl s)).of t h))
  case wipeDone => exact execWipeDone_effL s t h
  case getVersion x0 => exact (Eff.toL ((execGetVersion_eff x0 s (Eff.refl s)).of t h))
  case getCapabilities x0 => exact (Eff.toL ((execGetCapabilities_eff x0 s (Eff.refl s)).of t h))
  case negotiateAlgorithms x0 => exact (Eff.toL ((execNegotiateAlgorithms_eff x0 s (Eff.refl s)).of t h))
  case getDigests x0 => exact (Eff.toL ((execGetDigests_eff x0 s (Eff.refl s)).of t h))
  case getCertificate x0 x1 => exact (Eff.toL ((execGetCertificate_eff x0 x1 s (Eff.refl s)).of t h))
  case challenge x0 x1 => exact (Eff.toL ((execChallenge_eff x0 x1 s (Eff.refl s)).of t h))
  case getMeasurements x0 x1 x2 => exact (Eff.toL ((execGetMeasurements_eff x0 x1 x2 s (Eff.refl s)).of t h))
  case read4 x0 x1 x2 => exact (Eff.toL ((execRead4_eff x0 x1 x2 s (Eff.refl s)).of t h))
  case read8 x0 x1 x2 => exact (Eff.toL ((execRead8_eff x0 x1 x2 s (Eff.refl s)).of t h))
  case write4 x0 x1 x2 x3 x4 => exact (Eff.toL ((execWrite4_eff x0 x1 x2 x3 x4 s (Eff.refl s)).of t h))
  case write8 x0 x1 x2 x3 x4 => exact (Eff.toL ((execWrite8_eff x0 x1 x2 x3 x4 s (Eff.refl s)).of t h))
  case readChangeLogRecord x0 x1 x2 => exact (Eff.toL ((execReadChangeLogRecord_eff x0 x1 x2 s (Eff.refl s)).of t h))
  case mgmtHoldTimeout x0 => exact (Eff.toL ((execMgmtHoldTimeout_eff x0 s (Eff.refl s)).of t h))
  case enec => exact (Eff.toL ((execEnec_eff s (Eff.refl s)).of t h))
  case disec => exact (Eff.toL ((execDisec_eff s (Eff.refl s)).of t h))
  case rstdaa => exact (Eff.toL ((execRstdaa_eff s (Eff.refl s)).of t h))
  case entdaa x0 => exact (Eff.toL ((execEntdaa_eff x0 s (Eff.refl s)).of t h))
  case setdasa x0 x1 => exact (Eff.toL ((execSetdasa_eff x0 x1 s (Eff.refl s)).of t h))
  case getpid => exact (Eff.toL ((execGetpid_eff s (Eff.refl s)).of t h))
  case getbcr => exact (Eff.toL ((execGetbcr_eff s (Eff.refl s)).of t h))
  case getdcr => exact (Eff.toL ((execGetdcr_eff s (Eff.refl s)).of t h))
  case getstatus => exact (Eff.toL ((execGetstatus_eff s (Eff.refl s)).of t h))
  case getmxds => exact (Eff.toL ((execGetmxds_eff s (Eff.refl s)).of t h))
  case rstact x0 => exact (Eff.toL ((execRstact_eff x0 s (Eff.refl s)).of t h))
  case ptpSync x0 x1 x2 x3 => exact (Eff.toL ((execPtpSync_eff x0 x1 x2 x3 s (Eff.refl s)).of t h))
  case ptpFollowUp x0 x1 x2 => exact (Eff.toL ((execPtpFollowUp_eff x0 x1 x2 s (Eff.refl s)).of t h))
  case ptpDelayResp x0 x1 x2 x3 => exact (Eff.toL ((execPtpDelayResp_eff x0 x1 x2 x3 s (Eff.refl s)).of t h))
  case ptpAnnounce x0 x1 x2 => exact (Eff.toL ((execPtpAnnounce_eff x0 x1 x2 s (Eff.refl s)).of t h))
  case timeHoldover => exact (Eff.toL ((execTimeHoldover_eff s (Eff.refl s)).of t h))
  case timeValidExpire => exact (Eff.toL ((execTimeValidExpire_eff s (Eff.refl s)).of t h))
  case telemetrySnapshot => exact (Eff.toL ((execTelemetrySnapshot_eff s (Eff.refl s)).of t h))
  case errMsgIntervalExpire x0 => exact (Eff.toL ((execErrMsgIntervalExpire_eff x0 s (Eff.refl s)).of t h))
  case pmcSnap x0 x1 => exact (Eff.toL ((execPmcSnap_eff x0 x1 s (Eff.refl s)).of t h))
  case pmcClear x0 x1 => exact (Eff.toL ((execPmcClear_eff x0 x1 s (Eff.refl s)).of t h))
  case pmcInstant => exact (Eff.toL ((execPmcInstant_eff s (Eff.refl s)).of t h))
  case obsSelect x0 x1 => exact (Eff.toL ((execObsSelect_eff x0 x1 s (Eff.refl s)).of t h))
  case tapReset => exact (Eff.toL ((execTapReset_eff s (Eff.refl s)).of t h))
  case jtagIdcode => exact (Eff.toL ((execJtagIdcode_eff s (Eff.refl s)).of t h))
  case jtagSample x0 => exact (Eff.toL ((execJtagSample_eff x0 s (Eff.refl s)).of t h))
  case jtagExtest x0 => exact (Eff.toL ((execJtagExtest_eff x0 s (Eff.refl s)).of t h))
  case jtagClamp => exact (Eff.toL ((execJtagClamp_eff s (Eff.refl s)).of t h))
  case jtagHighz => exact (Eff.toL ((execJtagHighz_eff s (Eff.refl s)).of t h))
  case jtagExtestPulse x0 => exact (Eff.toL ((execJtagExtestPulse_eff x0 s (Eff.refl s)).of t h))
  case jtagExtestTrain x0 => exact (Eff.toL ((execJtagExtestTrain_eff x0 s (Eff.refl s)).of t h))
  case jtagDbgAccess x0 => exact (Eff.toL ((execJtagDbgAccess_eff x0 s (Eff.refl s)).of t h))
  case jtagBypass x0 => exact (Eff.toL ((execJtagBypass_eff x0 s (Eff.refl s)).of t h))
  case perstDeassert x0 x1 x2 => exact (Eff.toL ((execPerstDeassert_eff x0 x1 x2 s (Eff.refl s)).of t h))
  case resizableBarControlWrite x0 => exact (Eff.toL ((execResizableBarControlWrite_eff x0 s (Eff.refl s)).of t h))
  case flrComplete => exact (Eff.toL ((execFlrComplete_eff s (Eff.refl s)).of t h))
  case d06SlewComplete => exact (Eff.toL ((execD06SlewComplete_eff s (Eff.refl s)).of t h))
  case droopRecovery x0 => exact (Eff.toL ((execDroopRecovery_eff x0 s (Eff.refl s)).of t h))
  case tilwenTestAccess => exact (Eff.toL ((execTilwenTestAccess_eff s (Eff.refl s)).of t h))
  case bootFlashWriteDone x0 => exact (Eff.toL ((execBootFlashWriteDone_eff x0 s (Eff.refl s)).of t h))

/-- A meaning that answers a next state. -/
theorem answer_next (s t : State) : ∃ u, answer s t = .next u := ⟨_, rfl⟩

theorem control_next (op : CoreOp) (k : Ctl) (o : OpS) (s : State) (f : State → State) : ∃ t, control op k o s f = .next t := by
  unfold control
  dsimp only
  split <;> exact ⟨_, rfl⟩

theorem issue_next (op : CoreOp) (args : Args) (k : Ctl) (s : State) : ∃ t, issue op args k s = .next t := by
  unfold issue
  split <;> exact ⟨_, rfl⟩

/-- Every command answers a next state. -/
theorem exec_next (i : Instr) (s : State) : ∃ t, exec i s = .next t := by
  cases i
  case nop x0 x1 => show ∃ t, execNop x0 x1 s = _; unfold execNop; exact control_next _ _ _ _ _
  case b x0 x1 => show ∃ t, execB x0 x1 s = _; unfold execB; exact control_next _ _ _ _ _
  case bcc x0 x1 => show ∃ t, execBcc x0 x1 s = _; unfold execBcc; exact control_next _ _ _ _ _
  case call x0 x1 => show ∃ t, execCall x0 x1 s = _; unfold execCall; exact control_next _ _ _ _ _
  case ret x0 x1 => show ∃ t, execRet x0 x1 s = _; unfold execRet; exact control_next _ _ _ _ _
  case loop x0 x1 => show ∃ t, execLoop x0 x1 s = _; unfold execLoop; exact control_next _ _ _ _ _
  case loopi x0 x1 => show ∃ t, execLoopi x0 x1 s = _; unfold execLoopi; exact control_next _ _ _ _ _
  case halt x0 x1 => show ∃ t, execHalt x0 x1 s = _; unfold execHalt; exact control_next _ _ _ _ _
  case engineNop x0 x1 => show ∃ t, execEngineNop x0 x1 s = _; unfold execEngineNop; exact issue_next _ _ _ _
  case sadd x0 x1 => show ∃ t, execSadd x0 x1 s = _; unfold execSadd; exact issue_next _ _ _ _
  case ssub x0 x1 => show ∃ t, execSsub x0 x1 s = _; unfold execSsub; exact issue_next _ _ _ _
  case smul x0 x1 => show ∃ t, execSmul x0 x1 s = _; unfold execSmul; exact issue_next _ _ _ _
  case sand x0 x1 => show ∃ t, execSand x0 x1 s = _; unfold execSand; exact issue_next _ _ _ _
  case sor x0 x1 => show ∃ t, execSor x0 x1 s = _; unfold execSor; exact issue_next _ _ _ _
  case sxor x0 x1 => show ∃ t, execSxor x0 x1 s = _; unfold execSxor; exact issue_next _ _ _ _
  case sshl x0 x1 => show ∃ t, execSshl x0 x1 s = _; unfold execSshl; exact issue_next _ _ _ _
  case sshr x0 x1 => show ∃ t, execSshr x0 x1 s = _; unfold execSshr; exact issue_next _ _ _ _
  case ssra x0 x1 => show ∃ t, execSsra x0 x1 s = _; unfold execSsra; exact issue_next _ _ _ _
  case smin x0 x1 => show ∃ t, execSmin x0 x1 s = _; unfold execSmin; exact issue_next _ _ _ _
  case smax x0 x1 => show ∃ t, execSmax x0 x1 s = _; unfold execSmax; exact issue_next _ _ _ _
  case scmp x0 x1 => show ∃ t, execScmp x0 x1 s = _; unfold execScmp; exact issue_next _ _ _ _
  case smovi x0 x1 => show ∃ t, execSmovi x0 x1 s = _; unfold execSmovi; exact issue_next _ _ _ _
  case smovhi x0 x1 => show ∃ t, execSmovhi x0 x1 s = _; unfold execSmovhi; exact issue_next _ _ _ _
  case saddi x0 x1 => show ∃ t, execSaddi x0 x1 s = _; unfold execSaddi; exact issue_next _ _ _ _
  case sfadd x0 x1 => show ∃ t, execSfadd x0 x1 s = _; unfold execSfadd; exact issue_next _ _ _ _
  case sfmul x0 x1 => show ∃ t, execSfmul x0 x1 s = _; unfold execSfmul; exact issue_next _ _ _ _
  case sffma x0 x1 => show ∃ t, execSffma x0 x1 s = _; unfold execSffma; exact issue_next _ _ _ _
  case sfmin x0 x1 => show ∃ t, execSfmin x0 x1 s = _; unfold execSfmin; exact issue_next _ _ _ _
  case sfmax x0 x1 => show ∃ t, execSfmax x0 x1 s = _; unfold execSfmax; exact issue_next _ _ _ _
  case sfcvt x0 x1 => show ∃ t, execSfcvt x0 x1 s = _; unfold execSfcvt; exact issue_next _ _ _ _
  case sld x0 x1 => show ∃ t, execSld x0 x1 s = _; unfold execSld; exact issue_next _ _ _ _
  case sst x0 x1 => show ∃ t, execSst x0 x1 s = _; unfold execSst; exact issue_next _ _ _ _
  case sflag x0 x1 => show ∃ t, execSflag x0 x1 s = _; unfold execSflag; exact issue_next _ _ _ _
  case skadd x0 x1 => show ∃ t, execSkadd x0 x1 s = _; unfold execSkadd; exact issue_next _ _ _ _
  case skrd x0 x1 => show ∃ t, execSkrd x0 x1 s = _; unfold execSkrd; exact issue_next _ _ _ _
  case sid x0 x1 => show ∃ t, execSid x0 x1 s = _; unfold execSid; exact issue_next _ _ _ _
  case sstat x0 x1 => show ∃ t, execSstat x0 x1 s = _; unfold execSstat; exact issue_next _ _ _ _
  case svget x0 x1 => show ∃ t, execSvget x0 x1 s = _; unfold execSvget; exact issue_next _ _ _ _
  case mloads x0 x1 => show ∃ t, execMloads x0 x1 s = _; unfold execMloads; exact issue_next _ _ _ _
  case mswap x0 x1 => show ∃ t, execMswap x0 x1 s = _; unfold execMswap; exact issue_next _ _ _ _
  case mprod x0 x1 => show ∃ t, execMprod x0 x1 s = _; unfold execMprod; exact issue_next _ _ _ _
  case msegt x0 x1 => show ∃ t, execMsegt x0 x1 s = _; unfold execMsegt; exact issue_next _ _ _ _
  case mcsum x0 x1 => show ∃ t, execMcsum x0 x1 s = _; unfold execMcsum; exact issue_next _ _ _ _
  case mabclr x0 x1 => show ∃ t, execMabclr x0 x1 s = _; unfold execMabclr; exact issue_next _ _ _ _
  case vadd x0 x1 => show ∃ t, execVadd x0 x1 s = _; unfold execVadd; exact issue_next _ _ _ _
  case vsub x0 x1 => show ∃ t, execVsub x0 x1 s = _; unfold execVsub; exact issue_next _ _ _ _
  case vmul x0 x1 => show ∃ t, execVmul x0 x1 s = _; unfold execVmul; exact issue_next _ _ _ _
  case vfma x0 x1 => show ∃ t, execVfma x0 x1 s = _; unfold execVfma; exact issue_next _ _ _ _
  case vfms x0 x1 => show ∃ t, execVfms x0 x1 s = _; unfold execVfms; exact issue_next _ _ _ _
  case vmin x0 x1 => show ∃ t, execVmin x0 x1 s = _; unfold execVmin; exact issue_next _ _ _ _
  case vmax x0 x1 => show ∃ t, execVmax x0 x1 s = _; unfold execVmax; exact issue_next _ _ _ _
  case vabs x0 x1 => show ∃ t, execVabs x0 x1 s = _; unfold execVabs; exact issue_next _ _ _ _
  case vneg x0 x1 => show ∃ t, execVneg x0 x1 s = _; unfold execVneg; exact issue_next _ _ _ _
  case vcmp x0 x1 => show ∃ t, execVcmp x0 x1 s = _; unfold execVcmp; exact issue_next _ _ _ _
  case vsel x0 x1 => show ∃ t, execVsel x0 x1 s = _; unfold execVsel; exact issue_next _ _ _ _
  case vand x0 x1 => show ∃ t, execVand x0 x1 s = _; unfold execVand; exact issue_next _ _ _ _
  case vor x0 x1 => show ∃ t, execVor x0 x1 s = _; unfold execVor; exact issue_next _ _ _ _
  case vxor x0 x1 => show ∃ t, execVxor x0 x1 s = _; unfold execVxor; exact issue_next _ _ _ _
  case vshl x0 x1 => show ∃ t, execVshl x0 x1 s = _; unfold execVshl; exact issue_next _ _ _ _
  case vshr x0 x1 => show ∃ t, execVshr x0 x1 s = _; unfold execVshr; exact issue_next _ _ _ _
  case vmov x0 x1 => show ∃ t, execVmov x0 x1 s = _; unfold execVmov; exact issue_next _ _ _ _
  case vcvt x0 x1 => show ∃ t, execVcvt x0 x1 s = _; unfold execVcvt; exact issue_next _ _ _ _
  case vrng x0 x1 => show ∃ t, execVrng x0 x1 s = _; unfold execVrng; exact issue_next _ _ _ _
  case sparsify x0 x1 => show ∃ t, execSparsify x0 x1 s = _; unfold execSparsify; exact issue_next _ _ _ _
  case vld x0 x1 => show ∃ t, execVld x0 x1 s = _; unfold execVld; exact issue_next _ _ _ _
  case vst x0 x1 => show ∃ t, execVst x0 x1 s = _; unfold execVst; exact issue_next _ _ _ _
  case vldw x0 x1 => show ∃ t, execVldw x0 x1 s = _; unfold execVldw; exact issue_next _ _ _ _
  case vldab x0 x1 => show ∃ t, execVldab x0 x1 s = _; unfold execVldab; exact issue_next _ _ _ _
  case vstab x0 x1 => show ∃ t, execVstab x0 x1 s = _; unfold execVstab; exact issue_next _ _ _ _
  case vperm x0 x1 => show ∃ t, execVperm x0 x1 s = _; unfold execVperm; exact issue_next _ _ _ _
  case vslide x0 x1 => show ∃ t, execVslide x0 x1 s = _; unfold execVslide; exact issue_next _ _ _ _
  case vbcast x0 x1 => show ∃ t, execVbcast x0 x1 s = _; unfold execVbcast; exact issue_next _ _ _ _
  case vred x0 x1 => show ∃ t, execVred x0 x1 s = _; unfold execVred; exact issue_next _ _ _ _
  case vscan x0 x1 => show ∃ t, execVscan x0 x1 s = _; unfold execVscan; exact issue_next _ _ _ _
  case vseq x0 x1 => show ∃ t, execVseq x0 x1 s = _; unfold execVseq; exact issue_next _ _ _ _
  case vlut x0 x1 => show ∃ t, execVlut x0 x1 s = _; unfold execVlut; exact issue_next _ _ _ _
  case twr x0 x1 => show ∃ t, execTwr x0 x1 s = _; unfold execTwr; exact issue_next _ _ _ _
  case tswap x0 x1 => show ∃ t, execTswap x0 x1 s = _; unfold execTswap; exact issue_next _ _ _ _
  case vchld x0 x1 => show ∃ t, execVchld x0 x1 s = _; unfold execVchld; exact issue_next _ _ _ _
  case vzmap x0 x1 => show ∃ t, execVzmap x0 x1 s = _; unfold execVzmap; exact issue_next _ _ _ _
  case vcsr x0 x1 => show ∃ t, execVcsr x0 x1 s = _; unfold execVcsr; exact issue_next _ _ _ _
  case vmset x0 x1 => show ∃ t, execVmset x0 x1 s = _; unfold execVmset; exact issue_next _ _ _ _
  case ffun x0 x1 => show ∃ t, execFfun x0 x1 s = _; unfold execFfun; exact issue_next _ _ _ _
  case fstat x0 x1 => show ∃ t, execFstat x0 x1 s = _; unfold execFstat; exact issue_next _ _ _ _
  case fstrd x0 x1 => show ∃ t, execFstrd x0 x1 s = _; unfold execFstrd; exact issue_next _ _ _ _
  case fstclr x0 x1 => show ∃ t, execFstclr x0 x1 s = _; unfold execFstclr; exact issue_next _ _ _ _
  case ccopy x0 x1 => show ∃ t, execCcopy x0 x1 s = _; unfold execCcopy; exact issue_next _ _ _ _
  case ctrans x0 x1 => show ∃ t, execCtrans x0 x1 s = _; unfold execCtrans; exact issue_next _ _ _ _
  case cfill x0 x1 => show ∃ t, execCfill x0 x1 s = _; unfold execCfill; exact issue_next _ _ _ _
  case cabout x0 x1 => show ∃ t, execCabout x0 x1 s = _; unfold execCabout; exact issue_next _ _ _ _
  case cpbkt x0 x1 => show ∃ t, execCpbkt x0 x1 s = _; unfold execCpbkt; exact issue_next _ _ _ _
  case cpsig x0 x1 => show ∃ t, execCpsig x0 x1 s = _; unfold execCpsig; exact issue_next _ _ _ _
  case cpput x0 x1 => show ∃ t, execCpput x0 x1 s = _; unfold execCpput; exact issue_next _ _ _ _
  case cpacc x0 x1 => show ∃ t, execCpacc x0 x1 s = _; unfold execCpacc; exact issue_next _ _ _ _
  case cpgath x0 x1 => show ∃ t, execCpgath x0 x1 s = _; unfold execCpgath; exact issue_next _ _ _ _
  case chainGroup x0 => show ∃ t, execChainGroup x0 s = _; unfold execChainGroup; dsimp only; exact answer_next _ _
  case pronkRampDown x0 => show ∃ t, execPronkRampDown x0 s = _; unfold execPronkRampDown; dsimp only; split <;> exact ⟨_, rfl⟩
  case pronkGate x0 => show ∃ t, execPronkGate x0 s = _; unfold execPronkGate; dsimp only; split <;> exact ⟨_, rfl⟩
  case waitSatisfied x0 x1 => show ∃ t, execWaitSatisfied x0 x1 s = _; unfold execWaitSatisfied; dsimp only; exact answer_next _ _
  case instructionRelease x0 x1 => show ∃ t, execInstructionRelease x0 x1 s = _; unfold execInstructionRelease; exact answer_next _ _
  case instructionComplete x0 x1 => show ∃ t, execInstructionComplete x0 x1 s = _; unfold execInstructionComplete; exact answer_next _ _
  case waitTimeout x0 x1 => show ∃ t, execWaitTimeout x0 x1 s = _; unfold execWaitTimeout; dsimp only; exact answer_next _ _
  case coreFinished x0 => show ∃ t, execCoreFinished x0 s = _; unfold execCoreFinished; exact answer_next _ _
  case dispatchStop x0 => show ∃ t, execDispatchStop x0 s = _; unfold execDispatchStop; exact answer_next _ _
  case corRetire x0 x1 => show ∃ t, execCorRetire x0 x1 s = _; unfold execCorRetire; exact answer_next _ _
  case retirementTakesEffect => exact answer_next _ _
  case reseed x0 x1 x2 => show ∃ t, execReseed x0 x1 x2 s = _; unfold execReseed; exact answer_next _ _
  case reseedAtIdle x0 => show ∃ t, execReseedAtIdle x0 s = _; unfold execReseedAtIdle; exact answer_next _ _
  case freeRunningStep => exact answer_next _ _
  case handover x0 x1 x2 => show ∃ t, execHandover x0 x1 x2 s = _; unfold execHandover; exact answer_next _ _
  case handoverWipeDone x0 => show ∃ t, execHandoverWipeDone x0 s = _; unfold execHandoverWipeDone; exact answer_next _ _
  case swizzleWrite x0 x1 x2 => show ∃ t, execSwizzleWrite x0 x1 x2 s = _; unfold execSwizzleWrite; exact answer_next _ _
  case patrolScrub => exact answer_next _ _
  case layDtabWrite x0 x1 => show ∃ t, execLayDtabWrite x0 x1 s = _; unfold execLayDtabWrite; exact answer_next _ _
  case ringRegister x0 x1 => show ∃ t, execRingRegister x0 x1 s = _; unfold execRingRegister; exact answer_next _ _
  case ringFree x0 x1 => show ∃ t, execRingFree x0 x1 s = _; unfold execRingFree; exact answer_next _ _
  case freeComplete x0 => show ∃ t, execFreeComplete x0 s = _; unfold execFreeComplete; exact answer_next _ _
  case descCreate x0 x1 => show ∃ t, execDescCreate x0 x1 s = _; unfold execDescCreate; exact answer_next _ _
  case descDestroy x0 x1 => show ∃ t, execDescDestroy x0 x1 s = _; unfold execDescDestroy; exact answer_next _ _
  case uploadImage x0 x1 => show ∃ t, execUploadImage x0 x1 s = _; unfold execUploadImage; exact answer_next _ _
  case runProgram x0 x1 => show ∃ t, execRunProgram x0 x1 s = _; unfold execRunProgram; exact answer_next _ _
  case ringCopy x0 x1 => show ∃ t, execRingCopy x0 x1 s = _; unfold execRingCopy; exact answer_next _ _
  case copyIn x0 x1 => show ∃ t, execCopyIn x0 x1 s = _; unfold execCopyIn; exact answer_next _ _
  case copyOut x0 x1 => show ∃ t, execCopyOut x0 x1 s = _; unfold execCopyOut; exact answer_next _ _
  case ringAbort x0 x1 => show ∃ t, execRingAbort x0 x1 s = _; unfold execRingAbort; exact answer_next _ _
  case ringNop x0 x1 => show ∃ t, execRingNop x0 x1 s = _; unfold execRingNop; exact answer_next _ _
  case commandDone x0 x1 => show ∃ t, execCommandDone x0 x1 s = _; unfold execCommandDone; exact answer_next _ _
  case itrExpire x0 => show ∃ t, execItrExpire x0 s = _; unfold execItrExpire; exact answer_next _ _
  case doorbell x0 x1 x2 x3 => show ∃ t, execDoorbell x0 x1 x2 x3 s = _; unfold execDoorbell; exact answer_next _ _
  case entryFetch x0 => show ∃ t, execEntryFetch x0 s = _; unfold execEntryFetch; dsimp only; exact answer_next _ _
  case hostCompletion x0 x1 => show ∃ t, execHostCompletion x0 x1 s = _; unfold execHostCompletion; exact answer_next _ _
  case hostTimeout x0 => show ∃ t, execHostTimeout x0 s = _; unfold execHostTimeout; exact answer_next _ _
  case ringEnable x0 x1 => show ∃ t, execRingEnable x0 x1 s = _; unfold execRingEnable; exact answer_next _ _
  case ringDisable x0 x1 => show ∃ t, execRingDisable x0 x1 s = _; unfold execRingDisable; exact answer_next _ _
  case ringDisabled x0 => show ∃ t, execRingDisabled x0 s = _; unfold execRingDisabled; exact answer_next _ _
  case bar0Read x0 x1 => show ∃ t, execBar0Read x0 x1 s = _; unfold execBar0Read; exact answer_next _ _
  case configWrite x0 x1 x2 x3 x4 => show ∃ t, execConfigWrite x0 x1 x2 x3 x4 s = _; unfold execConfigWrite; exact answer_next _ _
  case bar4Read x0 x1 => show ∃ t, execBar4Read x0 x1 s = _; unfold execBar4Read; exact answer_next _ _
  case bar4Write x0 x1 x2 => show ∃ t, execBar4Write x0 x1 x2 s = _; unfold execBar4Write; exact answer_next _ _
  case completionTimeoutValueWrite x0 => show ∃ t, execCompletionTimeoutValueWrite x0 s = _; unfold execCompletionTimeoutValueWrite; exact answer_next _ _
  case flr => exact answer_next _ _
  case tagWaitExpire => exact answer_next _ _
  case perstAssert => exact answer_next _ _
  case d3hot => exact answer_next _ _
  case d0Return => exact answer_next _ _
  case l1Exit => exact answer_next _ _
  case doeDiscovery x0 => show ∃ t, execDoeDiscovery x0 s = _; unfold execDoeDiscovery; exact answer_next _ _
  case refreshRateUpdate x0 x1 x2 => show ∃ t, execRefreshRateUpdate x0 x1 x2 s = _; unfold execRefreshRateUpdate; exact answer_next _ _
  case memClockLost => exact answer_next _ _
  case memClockReturn x0 => show ∃ t, execMemClockReturn x0 s = _; unfold execMemClockReturn; exact answer_next _ _
  case reinit x0 x1 x2 => show ∃ t, execReinit x0 x1 x2 s = _; unfold execReinit; exact answer_next _ _
  case reinitDone x0 => show ∃ t, execReinitDone x0 s = _; unfold execReinitDone; exact answer_next _ _
  case memRetire x0 x1 => show ∃ t, execMemRetire x0 x1 s = _; unfold execMemRetire; exact answer_next _ _
  case accumulatorOp => exact answer_next _ _
  case dataFlit x0 x1 x2 => show ∃ t, execDataFlit x0 x1 x2 s = _; unfold execDataFlit; exact answer_next _ _
  case nullFlit x0 x1 x2 => show ∃ t, execNullFlit x0 x1 x2 s = _; unfold execNullFlit; exact answer_next _ _
  case ctrlFlit x0 x1 x2 x3 => show ∃ t, execCtrlFlit x0 x1 x2 x3 s = _; unfold execCtrlFlit; exact answer_next _ _
  case nakResend x0 => show ∃ t, execNakResend x0 s = _; unfold execNakResend; exact answer_next _ _
  case ackStall x0 => show ∃ t, execAckStall x0 s = _; unfold execAckStall; exact answer_next _ _
  case codewordLockLost x0 => show ∃ t, execCodewordLockLost x0 s = _; unfold execCodewordLockLost; exact answer_next _ _
  case laneFail x0 x1 => show ∃ t, execLaneFail x0 x1 s = _; unfold execLaneFail; exact answer_next _ _
  case trainingAttempt x0 x1 x2 => show ∃ t, execTrainingAttempt x0 x1 x2 s = _; unfold execTrainingAttempt; dsimp only; exact answer_next _ _
  case retrainTimeout x0 => show ∃ t, execRetrainTimeout x0 s = _; unfold execRetrainTimeout; exact answer_next _ _
  case downRetry x0 => show ∃ t, execDownRetry x0 s = _; unfold execDownRetry; dsimp only; exact answer_next _ _
  case portReset x0 x1 x2 => show ∃ t, execPortReset x0 x1 x2 s = _; unfold execPortReset; exact answer_next _ _
  case roleWrite x0 x1 x2 => show ∃ t, execRoleWrite x0 x1 x2 s = _; unfold execRoleWrite; exact answer_next _ _
  case fill x0 x1 => show ∃ t, execFill x0 x1 s = _; unfold execFill; exact answer_next _ _
  case route x0 => show ∃ t, execRoute x0 s = _; unfold execRoute; exact answer_next _ _
  case write x0 => show ∃ t, execWrite x0 s = _; unfold execWrite; exact answer_next _ _
  case read x0 => show ∃ t, execRead x0 s = _; unfold execRead; exact answer_next _ _
  case acc x0 => show ∃ t, execAcc x0 s = _; unfold execAcc; exact answer_next _ _
  case signal x0 => show ∃ t, execSignal x0 s = _; unfold execSignal; exact answer_next _ _
  case stepTrailer x0 => show ∃ t, execStepTrailer x0 s = _; unfold execStepTrailer; dsimp only; split <;> exact ⟨_, rfl⟩
  case gatherDone x0 => show ∃ t, execGatherDone x0 s = _; unfold execGatherDone; dsimp only; split <;> exact ⟨_, rfl⟩
  case loanCommit x0 => show ∃ t, execLoanCommit x0 s = _; unfold execLoanCommit; split <;> exact ⟨_, rfl⟩
  case ack x0 => show ∃ t, execAck x0 s = _; unfold execAck; exact answer_next _ _
  case readData x0 => show ∃ t, execReadData x0 s = _; unfold execReadData; exact answer_next _ _
  case errorResponse x0 => show ∃ t, execErrorResponse x0 s = _; unfold execErrorResponse; exact answer_next _ _
  case respTimeout x0 => show ∃ t, execRespTimeout x0 s = _; unfold execRespTimeout; exact answer_next _ _
  case retryResend => exact answer_next _ _
  case colTimeout => exact answer_next _ _
  case planLoad x0 x1 => show ∃ t, execPlanLoad x0 x1 s = _; unfold execPlanLoad; exact answer_next _ _
  case planUnload x0 x1 => show ∃ t, execPlanUnload x0 x1 s = _; unfold execPlanUnload; exact answer_next _ _
  case syntLock x0 => show ∃ t, execSyntLock x0 s = _; unfold execSyntLock; dsimp only; exact answer_next _ _
  case syntLost x0 => show ∃ t, execSyntLost x0 s = _; unfold execSyntLost; dsimp only; exact answer_next _ _
  case syntHoldoverExpire => exact answer_next _ _
  case d06SourceLost => exact answer_next _ _
  case timeExchangeStart => show ∃ t, execTimeExchangeStart  s = _; unfold execTimeExchangeStart; dsimp only; exact answer_next _ _
  case timeReq x0 x1 x2 x3 => show ∃ t, execTimeReq x0 x1 x2 x3 s = _; unfold execTimeReq; exact answer_next _ _
  case timeResp x0 x1 x2 x3 x4 x5 => show ∃ t, execTimeResp x0 x1 x2 x3 x4 x5 s = _; unfold execTimeResp; exact answer_next _ _
  case riskUpdate => exact answer_next _ _
  case snapshotComplete x0 => show ∃ t, execSnapshotComplete x0 s = _; unfold execSnapshotComplete; exact answer_next _ _
  case annexRestore x0 x1 => show ∃ t, execAnnexRestore x0 x1 s = _; unfold execAnnexRestore; exact answer_next _ _
  case annexErase x0 x1 => show ∃ t, execAnnexErase x0 x1 s = _; unfold execAnnexErase; exact answer_next _ _
  case annexCommandDone x0 => show ∃ t, execAnnexCommandDone x0 s = _; unfold execAnnexCommandDone; exact answer_next _ _
  case powerOn x0 x1 => show ∃ t, execPowerOn x0 x1 s = _; unfold execPowerOn; exact answer_next _ _
  case oscDelayExpire x0 x1 => show ∃ t, execOscDelayExpire x0 x1 s = _; unfold execOscDelayExpire; exact answer_next _ _
  case computeReady => exact answer_next _ _
  case pwrEnFall => exact answer_next _ _
  case reqRun x0 => show ∃ t, execReqRun x0 s = _; unfold execReqRun; exact answer_next _ _
  case reqSleep x0 => show ∃ t, execReqSleep x0 s = _; unfold execReqSleep; exact answer_next _ _
  case reqDeep x0 => show ∃ t, execReqDeep x0 s = _; unfold execReqDeep; exact answer_next _ _
  case reqOff x0 => show ∃ t, execReqOff x0 s = _; unfold execReqOff; exact answer_next _ _
  case powerStateEntered => exact answer_next _ _
  case wakeComplete => exact answer_next _ _
  case uvWarn x0 => show ∃ t, execUvWarn x0 s = _; unfold execUvWarn; exact answer_next _ _
  case undervolt x0 => show ∃ t, execUndervolt x0 s = _; unfold execUndervolt; exact answer_next _ _
  case inputOvervoltage => exact answer_next _ _
  case inputOvercurrent => exact answer_next _ _
  case railFault x0 x1 => show ∃ t, execRailFault x0 x1 s = _; unfold execRailFault; exact answer_next _ _
  case junctionSample x0 => show ∃ t, execJunctionSample x0 s = _; unfold execJunctionSample; exact answer_next _ _
  case capCheck x0 x1 => show ∃ t, execCapCheck x0 x1 s = _; unfold execCapCheck; exact answer_next _ _
  case dutyRaise x0 x1 => show ∃ t, execDutyRaise x0 x1 s = _; unfold execDutyRaise; exact answer_next _ _
  case droop x0 => show ∃ t, execDroop x0 s = _; unfold execDroop; exact answer_next _ _
  case clkSrcLost x0 => show ∃ t, execClkSrcLost x0 s = _; unfold execClkSrcLost; exact answer_next _ _
  case clockSourceReturn => exact answer_next _ _
  case alwaysOnLoss => exact answer_next _ _
  case warm x0 => show ∃ t, execWarm x0 s = _; unfold execWarm; exact answer_next _ _
  case queueReset x0 x1 => show ∃ t, execQueueReset x0 x1 s = _; unfold execQueueReset; exact answer_next _ _
  case fwRecover x0 x1 => show ∃ t, execFwRecover x0 x1 s = _; unfold execFwRecover; exact answer_next _ _
  case fwUpdate x0 x1 => show ∃ t, execFwUpdate x0 x1 s = _; unfold execFwUpdate; exact answer_next _ _
  case lifecycle x0 x1 => show ∃ t, execLifecycle x0 x1 s = _; unfold execLifecycle; exact answer_next _ _
  case unretireCore x0 x1 => show ∃ t, execUnretireCore x0 x1 s = _; unfold execUnretireCore; exact answer_next _ _
  case unretireCtrl x0 x1 => show ∃ t, execUnretireCtrl x0 x1 s = _; unfold execUnretireCtrl; exact answer_next _ _
  case tamper x0 => show ∃ t, execTamper x0 s = _; unfold execTamper; exact answer_next _ _
  case wipeDone  => exact answer_next _ _
  case getVersion x0 => show ∃ t, execGetVersion x0 s = _; unfold execGetVersion; exact answer_next _ _
  case getCapabilities x0 => show ∃ t, execGetCapabilities x0 s = _; unfold execGetCapabilities; exact answer_next _ _
  case negotiateAlgorithms x0 => show ∃ t, execNegotiateAlgorithms x0 s = _; unfold execNegotiateAlgorithms; exact answer_next _ _
  case getDigests x0 => show ∃ t, execGetDigests x0 s = _; unfold execGetDigests; exact answer_next _ _
  case getCertificate x0 x1 => show ∃ t, execGetCertificate x0 x1 s = _; unfold execGetCertificate; exact answer_next _ _
  case challenge x0 x1 => show ∃ t, execChallenge x0 x1 s = _; unfold execChallenge; exact answer_next _ _
  case getMeasurements x0 x1 x2 => show ∃ t, execGetMeasurements x0 x1 x2 s = _; unfold execGetMeasurements; exact answer_next _ _
  case read4 x0 x1 x2 => show ∃ t, execRead4 x0 x1 x2 s = _; unfold execRead4; exact answer_next _ _
  case read8 x0 x1 x2 => show ∃ t, execRead8 x0 x1 x2 s = _; unfold execRead8; exact answer_next _ _
  case write4 x0 x1 x2 x3 x4 => show ∃ t, execWrite4 x0 x1 x2 x3 x4 s = _; unfold execWrite4; exact answer_next _ _
  case write8 x0 x1 x2 x3 x4 => show ∃ t, execWrite8 x0 x1 x2 x3 x4 s = _; unfold execWrite8; exact answer_next _ _
  case readChangeLogRecord x0 x1 x2 => show ∃ t, execReadChangeLogRecord x0 x1 x2 s = _; unfold execReadChangeLogRecord; dsimp only; exact answer_next _ _
  case mgmtHoldTimeout x0 => show ∃ t, execMgmtHoldTimeout x0 s = _; unfold execMgmtHoldTimeout; exact answer_next _ _
  case enec => exact answer_next _ _
  case disec => exact answer_next _ _
  case rstdaa => exact answer_next _ _
  case entdaa x0 => show ∃ t, execEntdaa x0 s = _; unfold execEntdaa; exact answer_next _ _
  case setdasa x0 x1 => show ∃ t, execSetdasa x0 x1 s = _; unfold execSetdasa; exact answer_next _ _
  case getpid => exact answer_next _ _
  case getbcr => exact answer_next _ _
  case getdcr => exact answer_next _ _
  case getstatus => exact answer_next _ _
  case getmxds => exact answer_next _ _
  case rstact x0 => show ∃ t, execRstact x0 s = _; unfold execRstact; exact answer_next _ _
  case ptpSync x0 x1 x2 x3 => show ∃ t, execPtpSync x0 x1 x2 x3 s = _; unfold execPtpSync; exact answer_next _ _
  case ptpFollowUp x0 x1 x2 => show ∃ t, execPtpFollowUp x0 x1 x2 s = _; unfold execPtpFollowUp; exact answer_next _ _
  case ptpDelayResp x0 x1 x2 x3 => show ∃ t, execPtpDelayResp x0 x1 x2 x3 s = _; unfold execPtpDelayResp; exact answer_next _ _
  case ptpAnnounce x0 x1 x2 => show ∃ t, execPtpAnnounce x0 x1 x2 s = _; unfold execPtpAnnounce; exact answer_next _ _
  case timeHoldover => exact answer_next _ _
  case timeValidExpire => exact answer_next _ _
  case telemetrySnapshot => exact answer_next _ _
  case errMsgIntervalExpire x0 => show ∃ t, execErrMsgIntervalExpire x0 s = _; unfold execErrMsgIntervalExpire; dsimp only; exact answer_next _ _
  case pmcSnap x0 x1 => show ∃ t, execPmcSnap x0 x1 s = _; unfold execPmcSnap; exact answer_next _ _
  case pmcClear x0 x1 => show ∃ t, execPmcClear x0 x1 s = _; unfold execPmcClear; exact answer_next _ _
  case pmcInstant => exact answer_next _ _
  case obsSelect x0 x1 => show ∃ t, execObsSelect x0 x1 s = _; unfold execObsSelect; exact answer_next _ _
  case tapReset => exact answer_next _ _
  case jtagIdcode => exact answer_next _ _
  case jtagSample x0 => show ∃ t, execJtagSample x0 s = _; unfold execJtagSample; exact answer_next _ _
  case jtagExtest x0 => exact answer_next _ _
  case jtagClamp => exact answer_next _ _
  case jtagHighz => exact answer_next _ _
  case jtagExtestPulse x0 => exact answer_next _ _
  case jtagExtestTrain x0 => exact answer_next _ _
  case jtagDbgAccess x0 => show ∃ t, execJtagDbgAccess x0 s = _; unfold execJtagDbgAccess; exact answer_next _ _
  case jtagBypass x0 => show ∃ t, execJtagBypass x0 s = _; unfold execJtagBypass; exact answer_next _ _
  case perstDeassert x0 x1 x2 => show ∃ t, execPerstDeassert x0 x1 x2 s = _; unfold execPerstDeassert; exact answer_next _ _
  case resizableBarControlWrite x0 => show ∃ t, execResizableBarControlWrite x0 s = _; unfold execResizableBarControlWrite; exact answer_next _ _
  case flrComplete => exact answer_next _ _
  case d06SlewComplete => exact answer_next _ _
  case droopRecovery x0 => show ∃ t, execDroopRecovery x0 s = _; unfold execDroopRecovery; exact answer_next _ _
  case tilwenTestAccess => exact answer_next _ _
  case bootFlashWriteDone x0 => show ∃ t, execBootFlashWriteDone x0 s = _; unfold execBootFlashWriteDone; exact answer_next _ _

end Sys2Proof.Machine
end

