-- ==== Sys2Proof/Laws/State.lean ====
section
/-!
SUPPORT. Sys2Proof/Laws/State.lean: what each field of the state is after each of the small updates, by rfl; then reads of a core
after a write of one, and what the requests of a summary rise leave alone.
-/
namespace Sys2Proof.Machine

/-! ## setCore -/

@[simp] theorem setCore_pending (s : State) (p : Fin 72) (c : Core) : (s.setCore p c).pending = s.pending := rfl
@[simp] theorem setCore_free (s : State) (p : Fin 72) (c : Core) : (s.setCore p c).free = s.free := rfl
@[simp] theorem setCore_map (s : State) (p : Fin 72) (c : Core) : (s.setCore p c).map = s.map := rfl
@[simp] theorem setCore_mem (s : State) (p : Fin 72) (c : Core) : (s.setCore p c).mem = s.mem := rfl
@[simp] theorem setCore_memErr (s : State) (p : Fin 72) (c : Core) : (s.setCore p c).memErr = s.memErr := rfl
@[simp] theorem setCore_galErr (s : State) (p : Fin 72) (c : Core) : (s.setCore p c).galErr = s.galErr := rfl
@[simp] theorem setCore_vit (s : State) (p : Fin 72) (c : Core) : (s.setCore p c).vit = s.vit := rfl
@[simp] theorem setCore_regs (s : State) (p : Fin 72) (c : Core) : (s.setCore p c).regs = s.regs := rfl
@[simp] theorem setCore_lay (s : State) (p : Fin 72) (c : Core) : (s.setCore p c).lay = s.lay := rfl
@[simp] theorem setCore_timeNs (s : State) (p : Fin 72) (c : Core) : (s.setCore p c).timeNs = s.timeNs := rfl
@[simp] theorem setCore_memMap (s : State) (p : Fin 72) (c : Core) : (s.setCore p c).memMap = s.memMap := rfl
@[simp] theorem setCore_memPend (s : State) (p : Fin 72) (c : Core) : (s.setCore p c).memPend = s.memPend := rfl
@[simp] theorem setCore_consv (s : State) (p : Fin 72) (c : Core) : (s.setCore p c).consv = s.consv := rfl
@[simp] theorem setCore_host (s : State) (p : Fin 72) (c : Core) : (s.setCore p c).host = s.host := rfl
@[simp] theorem setCore_fab (s : State) (p : Fin 72) (c : Core) : (s.setCore p c).fab = s.fab := rfl
@[simp] theorem setCore_col (s : State) (p : Fin 72) (c : Core) : (s.setCore p c).col = s.col := rfl
@[simp] theorem setCore_ras (s : State) (p : Fin 72) (c : Core) : (s.setCore p c).ras = s.ras := rfl
@[simp] theorem setCore_latches (s : State) (p : Fin 72) (c : Core) : (s.setCore p c).latches = s.latches := rfl
@[simp] theorem setCore_power (s : State) (p : Fin 72) (c : Core) : (s.setCore p c).power = s.power := rfl
@[simp] theorem setCore_cur (s : State) (p : Fin 72) (c : Core) : (s.setCore p c).cur = s.cur := rfl
@[simp] theorem setCore_mgmt (s : State) (p : Fin 72) (c : Core) : (s.setCore p c).mgmt = s.mgmt := rfl
@[simp] theorem setCore_dbg (s : State) (p : Fin 72) (c : Core) : (s.setCore p c).dbg = s.dbg := rfl
@[simp] theorem setCore_out (s : State) (p : Fin 72) (c : Core) : (s.setCore p c).out = s.out := rfl
@[simp] theorem setCore_rget (s : State) (p : Fin 72) (c : Core) (q : RegName) (a b : Nat) : (s.setCore p c).rget q a b = s.rget q a b := rfl

/-! ## modCore -/

@[simp] theorem modCore_pending (s : State) (p : Fin 72) (f : Core → Core) : (s.modCore p f).pending = s.pending := rfl
@[simp] theorem modCore_free (s : State) (p : Fin 72) (f : Core → Core) : (s.modCore p f).free = s.free := rfl
@[simp] theorem modCore_map (s : State) (p : Fin 72) (f : Core → Core) : (s.modCore p f).map = s.map := rfl
@[simp] theorem modCore_mem (s : State) (p : Fin 72) (f : Core → Core) : (s.modCore p f).mem = s.mem := rfl
@[simp] theorem modCore_memErr (s : State) (p : Fin 72) (f : Core → Core) : (s.modCore p f).memErr = s.memErr := rfl
@[simp] theorem modCore_galErr (s : State) (p : Fin 72) (f : Core → Core) : (s.modCore p f).galErr = s.galErr := rfl
@[simp] theorem modCore_vit (s : State) (p : Fin 72) (f : Core → Core) : (s.modCore p f).vit = s.vit := rfl
@[simp] theorem modCore_regs (s : State) (p : Fin 72) (f : Core → Core) : (s.modCore p f).regs = s.regs := rfl
@[simp] theorem modCore_lay (s : State) (p : Fin 72) (f : Core → Core) : (s.modCore p f).lay = s.lay := rfl
@[simp] theorem modCore_timeNs (s : State) (p : Fin 72) (f : Core → Core) : (s.modCore p f).timeNs = s.timeNs := rfl
@[simp] theorem modCore_memMap (s : State) (p : Fin 72) (f : Core → Core) : (s.modCore p f).memMap = s.memMap := rfl
@[simp] theorem modCore_memPend (s : State) (p : Fin 72) (f : Core → Core) : (s.modCore p f).memPend = s.memPend := rfl
@[simp] theorem modCore_consv (s : State) (p : Fin 72) (f : Core → Core) : (s.modCore p f).consv = s.consv := rfl
@[simp] theorem modCore_host (s : State) (p : Fin 72) (f : Core → Core) : (s.modCore p f).host = s.host := rfl
@[simp] theorem modCore_fab (s : State) (p : Fin 72) (f : Core → Core) : (s.modCore p f).fab = s.fab := rfl
@[simp] theorem modCore_col (s : State) (p : Fin 72) (f : Core → Core) : (s.modCore p f).col = s.col := rfl
@[simp] theorem modCore_ras (s : State) (p : Fin 72) (f : Core → Core) : (s.modCore p f).ras = s.ras := rfl
@[simp] theorem modCore_latches (s : State) (p : Fin 72) (f : Core → Core) : (s.modCore p f).latches = s.latches := rfl
@[simp] theorem modCore_power (s : State) (p : Fin 72) (f : Core → Core) : (s.modCore p f).power = s.power := rfl
@[simp] theorem modCore_cur (s : State) (p : Fin 72) (f : Core → Core) : (s.modCore p f).cur = s.cur := rfl
@[simp] theorem modCore_mgmt (s : State) (p : Fin 72) (f : Core → Core) : (s.modCore p f).mgmt = s.mgmt := rfl
@[simp] theorem modCore_dbg (s : State) (p : Fin 72) (f : Core → Core) : (s.modCore p f).dbg = s.dbg := rfl
@[simp] theorem modCore_out (s : State) (p : Fin 72) (f : Core → Core) : (s.modCore p f).out = s.out := rfl
@[simp] theorem modCore_rget (s : State) (p : Fin 72) (f : Core → Core) (q : RegName) (a c : Nat) : (s.modCore p f).rget q a c = s.rget q a c := rfl

/-! ## rset -/

@[simp] theorem rset_pending (s : State) (r : RegName) (i n : Nat) (v : W64) : (s.rset r i n v).pending = s.pending := rfl
@[simp] theorem rset_free (s : State) (r : RegName) (i n : Nat) (v : W64) : (s.rset r i n v).free = s.free := rfl
@[simp] theorem rset_cores (s : State) (r : RegName) (i n : Nat) (v : W64) : (s.rset r i n v).cores = s.cores := rfl
@[simp] theorem rset_map (s : State) (r : RegName) (i n : Nat) (v : W64) : (s.rset r i n v).map = s.map := rfl
@[simp] theorem rset_mem (s : State) (r : RegName) (i n : Nat) (v : W64) : (s.rset r i n v).mem = s.mem := rfl
@[simp] theorem rset_memErr (s : State) (r : RegName) (i n : Nat) (v : W64) : (s.rset r i n v).memErr = s.memErr := rfl
@[simp] theorem rset_galErr (s : State) (r : RegName) (i n : Nat) (v : W64) : (s.rset r i n v).galErr = s.galErr := rfl
@[simp] theorem rset_vit (s : State) (r : RegName) (i n : Nat) (v : W64) : (s.rset r i n v).vit = s.vit := rfl
@[simp] theorem rset_lay (s : State) (r : RegName) (i n : Nat) (v : W64) : (s.rset r i n v).lay = s.lay := rfl
@[simp] theorem rset_timeNs (s : State) (r : RegName) (i n : Nat) (v : W64) : (s.rset r i n v).timeNs = s.timeNs := rfl
@[simp] theorem rset_memMap (s : State) (r : RegName) (i n : Nat) (v : W64) : (s.rset r i n v).memMap = s.memMap := rfl
@[simp] theorem rset_memPend (s : State) (r : RegName) (i n : Nat) (v : W64) : (s.rset r i n v).memPend = s.memPend := rfl
@[simp] theorem rset_consv (s : State) (r : RegName) (i n : Nat) (v : W64) : (s.rset r i n v).consv = s.consv := rfl
@[simp] theorem rset_host (s : State) (r : RegName) (i n : Nat) (v : W64) : (s.rset r i n v).host = s.host := rfl
@[simp] theorem rset_fab (s : State) (r : RegName) (i n : Nat) (v : W64) : (s.rset r i n v).fab = s.fab := rfl
@[simp] theorem rset_col (s : State) (r : RegName) (i n : Nat) (v : W64) : (s.rset r i n v).col = s.col := rfl
@[simp] theorem rset_ras (s : State) (r : RegName) (i n : Nat) (v : W64) : (s.rset r i n v).ras = s.ras := rfl
@[simp] theorem rset_latches (s : State) (r : RegName) (i n : Nat) (v : W64) : (s.rset r i n v).latches = s.latches := rfl
@[simp] theorem rset_power (s : State) (r : RegName) (i n : Nat) (v : W64) : (s.rset r i n v).power = s.power := rfl
@[simp] theorem rset_cur (s : State) (r : RegName) (i n : Nat) (v : W64) : (s.rset r i n v).cur = s.cur := rfl
@[simp] theorem rset_mgmt (s : State) (r : RegName) (i n : Nat) (v : W64) : (s.rset r i n v).mgmt = s.mgmt := rfl
@[simp] theorem rset_dbg (s : State) (r : RegName) (i n : Nat) (v : W64) : (s.rset r i n v).dbg = s.dbg := rfl
@[simp] theorem rset_out (s : State) (r : RegName) (i n : Nat) (v : W64) : (s.rset r i n v).out = s.out := rfl
@[simp] theorem rset_core (s : State) (r : RegName) (i n : Nat) (v : W64) (q : Fin 72) : (s.rset r i n v).core q = s.core q := rfl

/-! ## rmod -/

@[simp] theorem rmod_pending (s : State) (r : RegName) (i n : Nat) (f : W64 → W64) : (s.rmod r i n f).pending = s.pending := rfl
@[simp] theorem rmod_free (s : State) (r : RegName) (i n : Nat) (f : W64 → W64) : (s.rmod r i n f).free = s.free := rfl
@[simp] theorem rmod_cores (s : State) (r : RegName) (i n : Nat) (f : W64 → W64) : (s.rmod r i n f).cores = s.cores := rfl
@[simp] theorem rmod_map (s : State) (r : RegName) (i n : Nat) (f : W64 → W64) : (s.rmod r i n f).map = s.map := rfl
@[simp] theorem rmod_mem (s : State) (r : RegName) (i n : Nat) (f : W64 → W64) : (s.rmod r i n f).mem = s.mem := rfl
@[simp] theorem rmod_memErr (s : State) (r : RegName) (i n : Nat) (f : W64 → W64) : (s.rmod r i n f).memErr = s.memErr := rfl
@[simp] theorem rmod_galErr (s : State) (r : RegName) (i n : Nat) (f : W64 → W64) : (s.rmod r i n f).galErr = s.galErr := rfl
@[simp] theorem rmod_vit (s : State) (r : RegName) (i n : Nat) (f : W64 → W64) : (s.rmod r i n f).vit = s.vit := rfl
@[simp] theorem rmod_lay (s : State) (r : RegName) (i n : Nat) (f : W64 → W64) : (s.rmod r i n f).lay = s.lay := rfl
@[simp] theorem rmod_timeNs (s : State) (r : RegName) (i n : Nat) (f : W64 → W64) : (s.rmod r i n f).timeNs = s.timeNs := rfl
@[simp] theorem rmod_memMap (s : State) (r : RegName) (i n : Nat) (f : W64 → W64) : (s.rmod r i n f).memMap = s.memMap := rfl
@[simp] theorem rmod_memPend (s : State) (r : RegName) (i n : Nat) (f : W64 → W64) : (s.rmod r i n f).memPend = s.memPend := rfl
@[simp] theorem rmod_consv (s : State) (r : RegName) (i n : Nat) (f : W64 → W64) : (s.rmod r i n f).consv = s.consv := rfl
@[simp] theorem rmod_host (s : State) (r : RegName) (i n : Nat) (f : W64 → W64) : (s.rmod r i n f).host = s.host := rfl
@[simp] theorem rmod_fab (s : State) (r : RegName) (i n : Nat) (f : W64 → W64) : (s.rmod r i n f).fab = s.fab := rfl
@[simp] theorem rmod_col (s : State) (r : RegName) (i n : Nat) (f : W64 → W64) : (s.rmod r i n f).col = s.col := rfl
@[simp] theorem rmod_ras (s : State) (r : RegName) (i n : Nat) (f : W64 → W64) : (s.rmod r i n f).ras = s.ras := rfl
@[simp] theorem rmod_latches (s : State) (r : RegName) (i n : Nat) (f : W64 → W64) : (s.rmod r i n f).latches = s.latches := rfl
@[simp] theorem rmod_power (s : State) (r : RegName) (i n : Nat) (f : W64 → W64) : (s.rmod r i n f).power = s.power := rfl
@[simp] theorem rmod_cur (s : State) (r : RegName) (i n : Nat) (f : W64 → W64) : (s.rmod r i n f).cur = s.cur := rfl
@[simp] theorem rmod_mgmt (s : State) (r : RegName) (i n : Nat) (f : W64 → W64) : (s.rmod r i n f).mgmt = s.mgmt := rfl
@[simp] theorem rmod_dbg (s : State) (r : RegName) (i n : Nat) (f : W64 → W64) : (s.rmod r i n f).dbg = s.dbg := rfl
@[simp] theorem rmod_out (s : State) (r : RegName) (i n : Nat) (f : W64 → W64) : (s.rmod r i n f).out = s.out := rfl
@[simp] theorem rmod_core (s : State) (r : RegName) (i n : Nat) (f : W64 → W64) (q : Fin 72) : (s.rmod r i n f).core q = s.core q := rfl

/-! ## rcountSat -/

@[simp] theorem rcountSat_pending (s : State) (r : RegName) (i n lo len k : Nat) : (s.rcountSat r i n lo len k).pending = s.pending := rfl
@[simp] theorem rcountSat_free (s : State) (r : RegName) (i n lo len k : Nat) : (s.rcountSat r i n lo len k).free = s.free := rfl
@[simp] theorem rcountSat_cores (s : State) (r : RegName) (i n lo len k : Nat) : (s.rcountSat r i n lo len k).cores = s.cores := rfl
@[simp] theorem rcountSat_map (s : State) (r : RegName) (i n lo len k : Nat) : (s.rcountSat r i n lo len k).map = s.map := rfl
@[simp] theorem rcountSat_mem (s : State) (r : RegName) (i n lo len k : Nat) : (s.rcountSat r i n lo len k).mem = s.mem := rfl
@[simp] theorem rcountSat_memErr (s : State) (r : RegName) (i n lo len k : Nat) : (s.rcountSat r i n lo len k).memErr = s.memErr := rfl
@[simp] theorem rcountSat_galErr (s : State) (r : RegName) (i n lo len k : Nat) : (s.rcountSat r i n lo len k).galErr = s.galErr := rfl
@[simp] theorem rcountSat_vit (s : State) (r : RegName) (i n lo len k : Nat) : (s.rcountSat r i n lo len k).vit = s.vit := rfl
@[simp] theorem rcountSat_lay (s : State) (r : RegName) (i n lo len k : Nat) : (s.rcountSat r i n lo len k).lay = s.lay := rfl
@[simp] theorem rcountSat_timeNs (s : State) (r : RegName) (i n lo len k : Nat) : (s.rcountSat r i n lo len k).timeNs = s.timeNs := rfl
@[simp] theorem rcountSat_memMap (s : State) (r : RegName) (i n lo len k : Nat) : (s.rcountSat r i n lo len k).memMap = s.memMap := rfl
@[simp] theorem rcountSat_memPend (s : State) (r : RegName) (i n lo len k : Nat) : (s.rcountSat r i n lo len k).memPend = s.memPend := rfl
@[simp] theorem rcountSat_consv (s : State) (r : RegName) (i n lo len k : Nat) : (s.rcountSat r i n lo len k).consv = s.consv := rfl
@[simp] theorem rcountSat_host (s : State) (r : RegName) (i n lo len k : Nat) : (s.rcountSat r i n lo len k).host = s.host := rfl
@[simp] theorem rcountSat_fab (s : State) (r : RegName) (i n lo len k : Nat) : (s.rcountSat r i n lo len k).fab = s.fab := rfl
@[simp] theorem rcountSat_col (s : State) (r : RegName) (i n lo len k : Nat) : (s.rcountSat r i n lo len k).col = s.col := rfl
@[simp] theorem rcountSat_ras (s : State) (r : RegName) (i n lo len k : Nat) : (s.rcountSat r i n lo len k).ras = s.ras := rfl
@[simp] theorem rcountSat_latches (s : State) (r : RegName) (i n lo len k : Nat) : (s.rcountSat r i n lo len k).latches = s.latches := rfl
@[simp] theorem rcountSat_power (s : State) (r : RegName) (i n lo len k : Nat) : (s.rcountSat r i n lo len k).power = s.power := rfl
@[simp] theorem rcountSat_cur (s : State) (r : RegName) (i n lo len k : Nat) : (s.rcountSat r i n lo len k).cur = s.cur := rfl
@[simp] theorem rcountSat_mgmt (s : State) (r : RegName) (i n lo len k : Nat) : (s.rcountSat r i n lo len k).mgmt = s.mgmt := rfl
@[simp] theorem rcountSat_dbg (s : State) (r : RegName) (i n lo len k : Nat) : (s.rcountSat r i n lo len k).dbg = s.dbg := rfl
@[simp] theorem rcountSat_out (s : State) (r : RegName) (i n lo len k : Nat) : (s.rcountSat r i n lo len k).out = s.out := rfl
@[simp] theorem rcountSat_core (s : State) (r : RegName) (i n lo len k : Nat) (q : Fin 72) : (s.rcountSat r i n lo len k).core q = s.core q := rfl

/-! ## rcountWrap -/

@[simp] theorem rcountWrap_pending (s : State) (r : RegName) (i n lo len k : Nat) : (s.rcountWrap r i n lo len k).pending = s.pending := rfl
@[simp] theorem rcountWrap_free (s : State) (r : RegName) (i n lo len k : Nat) : (s.rcountWrap r i n lo len k).free = s.free := rfl
@[simp] theorem rcountWrap_cores (s : State) (r : RegName) (i n lo len k : Nat) : (s.rcountWrap r i n lo len k).cores = s.cores := rfl
@[simp] theorem rcountWrap_map (s : State) (r : RegName) (i n lo len k : Nat) : (s.rcountWrap r i n lo len k).map = s.map := rfl
@[simp] theorem rcountWrap_mem (s : State) (r : RegName) (i n lo len k : Nat) : (s.rcountWrap r i n lo len k).mem = s.mem := rfl
@[simp] theorem rcountWrap_memErr (s : State) (r : RegName) (i n lo len k : Nat) : (s.rcountWrap r i n lo len k).memErr = s.memErr := rfl
@[simp] theorem rcountWrap_galErr (s : State) (r : RegName) (i n lo len k : Nat) : (s.rcountWrap r i n lo len k).galErr = s.galErr := rfl
@[simp] theorem rcountWrap_vit (s : State) (r : RegName) (i n lo len k : Nat) : (s.rcountWrap r i n lo len k).vit = s.vit := rfl
@[simp] theorem rcountWrap_lay (s : State) (r : RegName) (i n lo len k : Nat) : (s.rcountWrap r i n lo len k).lay = s.lay := rfl
@[simp] theorem rcountWrap_timeNs (s : State) (r : RegName) (i n lo len k : Nat) : (s.rcountWrap r i n lo len k).timeNs = s.timeNs := rfl
@[simp] theorem rcountWrap_memMap (s : State) (r : RegName) (i n lo len k : Nat) : (s.rcountWrap r i n lo len k).memMap = s.memMap := rfl
@[simp] theorem rcountWrap_memPend (s : State) (r : RegName) (i n lo len k : Nat) : (s.rcountWrap r i n lo len k).memPend = s.memPend := rfl
@[simp] theorem rcountWrap_consv (s : State) (r : RegName) (i n lo len k : Nat) : (s.rcountWrap r i n lo len k).consv = s.consv := rfl
@[simp] theorem rcountWrap_host (s : State) (r : RegName) (i n lo len k : Nat) : (s.rcountWrap r i n lo len k).host = s.host := rfl
@[simp] theorem rcountWrap_fab (s : State) (r : RegName) (i n lo len k : Nat) : (s.rcountWrap r i n lo len k).fab = s.fab := rfl
@[simp] theorem rcountWrap_col (s : State) (r : RegName) (i n lo len k : Nat) : (s.rcountWrap r i n lo len k).col = s.col := rfl
@[simp] theorem rcountWrap_ras (s : State) (r : RegName) (i n lo len k : Nat) : (s.rcountWrap r i n lo len k).ras = s.ras := rfl
@[simp] theorem rcountWrap_latches (s : State) (r : RegName) (i n lo len k : Nat) : (s.rcountWrap r i n lo len k).latches = s.latches := rfl
@[simp] theorem rcountWrap_power (s : State) (r : RegName) (i n lo len k : Nat) : (s.rcountWrap r i n lo len k).power = s.power := rfl
@[simp] theorem rcountWrap_cur (s : State) (r : RegName) (i n lo len k : Nat) : (s.rcountWrap r i n lo len k).cur = s.cur := rfl
@[simp] theorem rcountWrap_mgmt (s : State) (r : RegName) (i n lo len k : Nat) : (s.rcountWrap r i n lo len k).mgmt = s.mgmt := rfl
@[simp] theorem rcountWrap_dbg (s : State) (r : RegName) (i n lo len k : Nat) : (s.rcountWrap r i n lo len k).dbg = s.dbg := rfl
@[simp] theorem rcountWrap_out (s : State) (r : RegName) (i n lo len k : Nat) : (s.rcountWrap r i n lo len k).out = s.out := rfl
@[simp] theorem rcountWrap_core (s : State) (r : RegName) (i n lo len k : Nat) (q : Fin 72) : (s.rcountWrap r i n lo len k).core q = s.core q := rfl

/-! ## draw -/

@[simp] theorem draw_pending (s : State) : (s.draw.2).pending = s.pending := rfl
@[simp] theorem draw_cores (s : State) : (s.draw.2).cores = s.cores := rfl
@[simp] theorem draw_map (s : State) : (s.draw.2).map = s.map := rfl
@[simp] theorem draw_mem (s : State) : (s.draw.2).mem = s.mem := rfl
@[simp] theorem draw_memErr (s : State) : (s.draw.2).memErr = s.memErr := rfl
@[simp] theorem draw_galErr (s : State) : (s.draw.2).galErr = s.galErr := rfl
@[simp] theorem draw_vit (s : State) : (s.draw.2).vit = s.vit := rfl
@[simp] theorem draw_regs (s : State) : (s.draw.2).regs = s.regs := rfl
@[simp] theorem draw_lay (s : State) : (s.draw.2).lay = s.lay := rfl
@[simp] theorem draw_timeNs (s : State) : (s.draw.2).timeNs = s.timeNs := rfl
@[simp] theorem draw_memMap (s : State) : (s.draw.2).memMap = s.memMap := rfl
@[simp] theorem draw_memPend (s : State) : (s.draw.2).memPend = s.memPend := rfl
@[simp] theorem draw_consv (s : State) : (s.draw.2).consv = s.consv := rfl
@[simp] theorem draw_host (s : State) : (s.draw.2).host = s.host := rfl
@[simp] theorem draw_fab (s : State) : (s.draw.2).fab = s.fab := rfl
@[simp] theorem draw_col (s : State) : (s.draw.2).col = s.col := rfl
@[simp] theorem draw_ras (s : State) : (s.draw.2).ras = s.ras := rfl
@[simp] theorem draw_latches (s : State) : (s.draw.2).latches = s.latches := rfl
@[simp] theorem draw_power (s : State) : (s.draw.2).power = s.power := rfl
@[simp] theorem draw_cur (s : State) : (s.draw.2).cur = s.cur := rfl
@[simp] theorem draw_mgmt (s : State) : (s.draw.2).mgmt = s.mgmt := rfl
@[simp] theorem draw_dbg (s : State) : (s.draw.2).dbg = s.dbg := rfl
@[simp] theorem draw_out (s : State) : (s.draw.2).out = s.out := rfl
@[simp] theorem draw_core (s : State)  (q : Fin 72) : (s.draw.2).core q = s.core q := rfl
@[simp] theorem draw_rget (s : State)  (q : RegName) (a c : Nat) : (s.draw.2).rget q a c = s.rget q a c := rfl

/-! ## report -/

@[simp] theorem report_pending (s : State) (i k : Nat) : (s.report i k).pending = s.pending := rfl
@[simp] theorem report_free (s : State) (i k : Nat) : (s.report i k).free = s.free := rfl
@[simp] theorem report_cores (s : State) (i k : Nat) : (s.report i k).cores = s.cores := rfl
@[simp] theorem report_map (s : State) (i k : Nat) : (s.report i k).map = s.map := rfl
@[simp] theorem report_mem (s : State) (i k : Nat) : (s.report i k).mem = s.mem := rfl
@[simp] theorem report_memErr (s : State) (i k : Nat) : (s.report i k).memErr = s.memErr := rfl
@[simp] theorem report_galErr (s : State) (i k : Nat) : (s.report i k).galErr = s.galErr := rfl
@[simp] theorem report_vit (s : State) (i k : Nat) : (s.report i k).vit = s.vit := rfl
@[simp] theorem report_regs (s : State) (i k : Nat) : (s.report i k).regs = s.regs := rfl
@[simp] theorem report_lay (s : State) (i k : Nat) : (s.report i k).lay = s.lay := rfl
@[simp] theorem report_timeNs (s : State) (i k : Nat) : (s.report i k).timeNs = s.timeNs := rfl
@[simp] theorem report_memMap (s : State) (i k : Nat) : (s.report i k).memMap = s.memMap := rfl
@[simp] theorem report_memPend (s : State) (i k : Nat) : (s.report i k).memPend = s.memPend := rfl
@[simp] theorem report_host (s : State) (i k : Nat) : (s.report i k).host = s.host := rfl
@[simp] theorem report_fab (s : State) (i k : Nat) : (s.report i k).fab = s.fab := rfl
@[simp] theorem report_col (s : State) (i k : Nat) : (s.report i k).col = s.col := rfl
@[simp] theorem report_ras (s : State) (i k : Nat) : (s.report i k).ras = s.ras := rfl
@[simp] theorem report_latches (s : State) (i k : Nat) : (s.report i k).latches = s.latches := rfl
@[simp] theorem report_power (s : State) (i k : Nat) : (s.report i k).power = s.power := rfl
@[simp] theorem report_cur (s : State) (i k : Nat) : (s.report i k).cur = s.cur := rfl
@[simp] theorem report_mgmt (s : State) (i k : Nat) : (s.report i k).mgmt = s.mgmt := rfl
@[simp] theorem report_dbg (s : State) (i k : Nat) : (s.report i k).dbg = s.dbg := rfl
@[simp] theorem report_out (s : State) (i k : Nat) : (s.report i k).out = s.out := rfl
@[simp] theorem report_core (s : State) (i k : Nat) (q : Fin 72) : (s.report i k).core q = s.core q := rfl
@[simp] theorem report_rget (s : State) (i k : Nat) (q : RegName) (a c : Nat) : (s.report i k).rget q a c = s.rget q a c := rfl

/-! ## emit -/

@[simp] theorem emit_pending (s : State) (m : Msg) : (emit s m).pending = s.pending := rfl
@[simp] theorem emit_free (s : State) (m : Msg) : (emit s m).free = s.free := rfl
@[simp] theorem emit_cores (s : State) (m : Msg) : (emit s m).cores = s.cores := rfl
@[simp] theorem emit_map (s : State) (m : Msg) : (emit s m).map = s.map := rfl
@[simp] theorem emit_mem (s : State) (m : Msg) : (emit s m).mem = s.mem := rfl
@[simp] theorem emit_memErr (s : State) (m : Msg) : (emit s m).memErr = s.memErr := rfl
@[simp] theorem emit_galErr (s : State) (m : Msg) : (emit s m).galErr = s.galErr := rfl
@[simp] theorem emit_vit (s : State) (m : Msg) : (emit s m).vit = s.vit := rfl
@[simp] theorem emit_regs (s : State) (m : Msg) : (emit s m).regs = s.regs := rfl
@[simp] theorem emit_lay (s : State) (m : Msg) : (emit s m).lay = s.lay := rfl
@[simp] theorem emit_timeNs (s : State) (m : Msg) : (emit s m).timeNs = s.timeNs := rfl
@[simp] theorem emit_memMap (s : State) (m : Msg) : (emit s m).memMap = s.memMap := rfl
@[simp] theorem emit_memPend (s : State) (m : Msg) : (emit s m).memPend = s.memPend := rfl
@[simp] theorem emit_consv (s : State) (m : Msg) : (emit s m).consv = s.consv := rfl
@[simp] theorem emit_host (s : State) (m : Msg) : (emit s m).host = s.host := rfl
@[simp] theorem emit_fab (s : State) (m : Msg) : (emit s m).fab = s.fab := rfl
@[simp] theorem emit_col (s : State) (m : Msg) : (emit s m).col = s.col := rfl
@[simp] theorem emit_ras (s : State) (m : Msg) : (emit s m).ras = s.ras := rfl
@[simp] theorem emit_latches (s : State) (m : Msg) : (emit s m).latches = s.latches := rfl
@[simp] theorem emit_power (s : State) (m : Msg) : (emit s m).power = s.power := rfl
@[simp] theorem emit_cur (s : State) (m : Msg) : (emit s m).cur = s.cur := rfl
@[simp] theorem emit_mgmt (s : State) (m : Msg) : (emit s m).mgmt = s.mgmt := rfl
@[simp] theorem emit_dbg (s : State) (m : Msg) : (emit s m).dbg = s.dbg := rfl
@[simp] theorem emit_core (s : State) (m : Msg) (q : Fin 72) : (emit s m).core q = s.core q := rfl
@[simp] theorem emit_rget (s : State) (m : Msg) (q : RegName) (a c : Nat) : (emit s m).rget q a c = s.rget q a c := rfl

/-! ## A core after a write of one -/

@[simp] theorem setCore_core_same (s : State) (p : Fin 72) (c : Core) : (s.setCore p c).core p = c := by
  simp [State.setCore, State.core]

theorem setCore_core_other (s : State) {p q : Fin 72} (c : Core) (h : p ≠ q) : (s.setCore p c).core q = s.core q := by
  have : p.val ≠ q.val := fun e => h (Fin.ext e)
  simp [State.setCore, State.core, this]

@[simp] theorem modCore_core_same (s : State) (p : Fin 72) (f : Core → Core) : (s.modCore p f).core p = f (s.core p) :=
  setCore_core_same s p _

theorem modCore_core_other (s : State) {p q : Fin 72} (f : Core → Core) (h : p ≠ q) : (s.modCore p f).core q = s.core q :=
  setCore_core_other s _ h

@[simp] theorem setCore_setCore (s : State) (p : Fin 72) (c d : Core) : (s.setCore p c).setCore p d = s.setCore p d := by
  simp [State.setCore]

@[simp] theorem setCore_core (s : State) (p : Fin 72) : s.setCore p (s.core p) = s := by
  simp [State.setCore, State.core]

theorem modCore_modCore (s : State) (p : Fin 72) (f g : Core → Core) :
    (s.modCore p f).modCore p g = s.modCore p fun c => g (f c) := by
  simp [State.modCore]

/-! ## The requests of a summary rise -/

/-- Two states that agree in everything but the messages sent, the interval state of the message paths and the pending
MSI-X bits. -/
structure SameButMsgs (s t : State) : Prop where
  eq : t = { s with out := t.out, host := { s.host with paths := t.host.paths, pba := t.host.pba } }

theorem SameButMsgs.refl (s : State) : SameButMsgs s s := ⟨rfl⟩

theorem SameButMsgs.trans {s t u : State} (h : SameButMsgs s t) (k : SameButMsgs t u) : SameButMsgs s u := by
  constructor
  rw [k.eq, h.eq]

theorem sendMsix_same (s : State) (v : Nat) : SameButMsgs s (sendMsix s v) := by
  unfold sendMsix
  split
  · exact ⟨rfl⟩
  · split
    · exact ⟨rfl⟩
    · exact SameButMsgs.refl s

theorem pathSend_same (s : State) (i : Nat) : SameButMsgs s (pathSend s i) := by
  unfold pathSend
  split
  · exact sendMsix_same _ _
  · exact ⟨rfl⟩
  · exact ⟨rfl⟩

theorem pathRequest_same (s : State) (i : Nat) : SameButMsgs s (pathRequest s i) := by
  unfold pathRequest
  split
  · split
    · exact ⟨rfl⟩
    · exact (pathSend_same s i).trans ⟨rfl⟩
  · exact SameButMsgs.refl s

theorem summaryRise_same (b s : State) : SameButMsgs s (summaryRise b s) := by
  unfold summaryRise
  dsimp only
  split
  · exact SameButMsgs.refl s
  · generalize List.range 9 = l
    suffices h : ∀ s0 : State, SameButMsgs s0 (l.foldl (fun s i =>
        if bitB (errSummary _ &&& ~~~(errSummary b)) i then pathRequest (pathRequest (pathRequest s 0) 1) 2 else s) s0) from h s
    induction l with
    | nil => exact fun s0 => SameButMsgs.refl s0
    | cons a t ih =>
      intro s0
      refine SameButMsgs.trans ?_ (ih _)
      dsimp only
      split
      · exact ((pathRequest_same _ _).trans (pathRequest_same _ _)).trans (pathRequest_same _ _)
      · exact SameButMsgs.refl s0

/-- Where no summary bit rises nothing is sent. -/
theorem summaryRise_none {b s : State} (h : errSummary s &&& ~~~(errSummary b) = 0) : summaryRise b s = s := by
  simp [summaryRise, h]

@[simp] theorem summaryRise_pending (b s : State) : (summaryRise b s).pending = s.pending := by rw [(summaryRise_same b s).eq]
@[simp] theorem summaryRise_free (b s : State) : (summaryRise b s).free = s.free := by rw [(summaryRise_same b s).eq]
@[simp] theorem summaryRise_cores (b s : State) : (summaryRise b s).cores = s.cores := by rw [(summaryRise_same b s).eq]
@[simp] theorem summaryRise_map (b s : State) : (summaryRise b s).map = s.map := by rw [(summaryRise_same b s).eq]
@[simp] theorem summaryRise_mem (b s : State) : (summaryRise b s).mem = s.mem := by rw [(summaryRise_same b s).eq]
@[simp] theorem summaryRise_memErr (b s : State) : (summaryRise b s).memErr = s.memErr := by rw [(summaryRise_same b s).eq]
@[simp] theorem summaryRise_galErr (b s : State) : (summaryRise b s).galErr = s.galErr := by rw [(summaryRise_same b s).eq]
@[simp] theorem summaryRise_vit (b s : State) : (summaryRise b s).vit = s.vit := by rw [(summaryRise_same b s).eq]
@[simp] theorem summaryRise_regs (b s : State) : (summaryRise b s).regs = s.regs := by rw [(summaryRise_same b s).eq]
@[simp] theorem summaryRise_lay (b s : State) : (summaryRise b s).lay = s.lay := by rw [(summaryRise_same b s).eq]
@[simp] theorem summaryRise_timeNs (b s : State) : (summaryRise b s).timeNs = s.timeNs := by rw [(summaryRise_same b s).eq]
@[simp] theorem summaryRise_memMap (b s : State) : (summaryRise b s).memMap = s.memMap := by rw [(summaryRise_same b s).eq]
@[simp] theorem summaryRise_memPend (b s : State) : (summaryRise b s).memPend = s.memPend := by rw [(summaryRise_same b s).eq]
@[simp] theorem summaryRise_consv (b s : State) : (summaryRise b s).consv = s.consv := by rw [(summaryRise_same b s).eq]
@[simp] theorem summaryRise_fab (b s : State) : (summaryRise b s).fab = s.fab := by rw [(summaryRise_same b s).eq]
@[simp] theorem summaryRise_col (b s : State) : (summaryRise b s).col = s.col := by rw [(summaryRise_same b s).eq]
@[simp] theorem summaryRise_ras (b s : State) : (summaryRise b s).ras = s.ras := by rw [(summaryRise_same b s).eq]
@[simp] theorem summaryRise_latches (b s : State) : (summaryRise b s).latches = s.latches := by rw [(summaryRise_same b s).eq]
@[simp] theorem summaryRise_power (b s : State) : (summaryRise b s).power = s.power := by rw [(summaryRise_same b s).eq]
@[simp] theorem summaryRise_cur (b s : State) : (summaryRise b s).cur = s.cur := by rw [(summaryRise_same b s).eq]
@[simp] theorem summaryRise_mgmt (b s : State) : (summaryRise b s).mgmt = s.mgmt := by rw [(summaryRise_same b s).eq]
@[simp] theorem summaryRise_dbg (b s : State) : (summaryRise b s).dbg = s.dbg := by rw [(summaryRise_same b s).eq]
@[simp] theorem summaryRise_host_rings (b s : State) : (summaryRise b s).host.rings = s.host.rings := by rw [(summaryRise_same b s).eq]
@[simp] theorem summaryRise_host_ctxOp (b s : State) : (summaryRise b s).host.ctxOp = s.host.ctxOp := by rw [(summaryRise_same b s).eq]
@[simp] theorem summaryRise_host_cmds (b s : State) : (summaryRise b s).host.cmds = s.host.cmds := by rw [(summaryRise_same b s).eq]
@[simp] theorem summaryRise_host_marks (b s : State) : (summaryRise b s).host.marks = s.host.marks := by rw [(summaryRise_same b s).eq]
@[simp] theorem summaryRise_host_reads (b s : State) : (summaryRise b s).host.reads = s.host.reads := by rw [(summaryRise_same b s).eq]
@[simp] theorem summaryRise_host_reqs (b s : State) : (summaryRise b s).host.reqs = s.host.reqs := by rw [(summaryRise_same b s).eq]
@[simp] theorem summaryRise_host_nextId (b s : State) : (summaryRise b s).host.nextId = s.host.nextId := by rw [(summaryRise_same b s).eq]
@[simp] theorem summaryRise_host_mps (b s : State) : (summaryRise b s).host.mps = s.host.mps := by rw [(summaryRise_same b s).eq]
@[simp] theorem summaryRise_host_mrrs (b s : State) : (summaryRise b s).host.mrrs = s.host.mrrs := by rw [(summaryRise_same b s).eq]
@[simp] theorem summaryRise_host_cplField (b s : State) : (summaryRise b s).host.cplField = s.host.cplField := by rw [(summaryRise_same b s).eq]
@[simp] theorem summaryRise_host_aer (b s : State) : (summaryRise b s).host.aer = s.host.aer := by rw [(summaryRise_same b s).eq]
@[simp] theorem summaryRise_host_dispatches (b s : State) : (summaryRise b s).host.dispatches = s.host.dispatches := by rw [(summaryRise_same b s).eq]
@[simp] theorem summaryRise_host_images (b s : State) : (summaryRise b s).host.images = s.host.images := by rw [(summaryRise_same b s).eq]
@[simp] theorem summaryRise_host_retire (b s : State) : (summaryRise b s).host.retire = s.host.retire := by rw [(summaryRise_same b s).eq]
@[simp] theorem summaryRise_host_msix (b s : State) : (summaryRise b s).host.msix = s.host.msix := by rw [(summaryRise_same b s).eq]
@[simp] theorem summaryRise_host_itr (b s : State) : (summaryRise b s).host.itr = s.host.itr := by rw [(summaryRise_same b s).eq]
@[simp] theorem summaryRise_core (b s : State) (p : Fin 72) : (summaryRise b s).core p = s.core p := by
  simp only [State.core, summaryRise_cores]
@[simp] theorem summaryRise_rget (b s : State) (r : RegName) (i n : Nat) : (summaryRise b s).rget r i n = s.rget r i n := by
  simp only [State.rget, summaryRise_regs]

/-! ## The outcome of a meaning -/

/-- An effect that met nothing to wait for happens, with the requests of a summary rise. -/
theorem answer_met {b s : State} (h : metNothing b s = true) : answer b s = .next (summaryRise b s) := by
  simp [answer, h]

/-- One that met a wait has not happened. -/
theorem answer_waits {b s : State} (h : metNothing b s = false) : answer b s = .next b := by
  simp [answer, h]

/-- An effect that leaves the waits as they are is never dropped. -/
theorem answer_same {b s : State} (h : s.vit.met = b.vit.met) : answer b s = .next (summaryRise b s) :=
  answer_met (by simp [metNothing, h])

/-- Everything that `answer` does. -/
theorem answer_cases (b s : State) : ∃ t, answer b s = .next t ∧ (t = b ∨ SameButMsgs s t) := by
  refine ⟨_, rfl, ?_⟩
  split
  · exact .inr (summaryRise_same b s)
  · exact .inl rfl

end Sys2Proof.Machine
end

