-- ==== Sys2Proof/Laws/Issue.lean ====
section
/-!
SUPPORT. Sys2Proof/Laws/Issue.lean: an instruction that issues into empty queues starts at once, with the effect of its engine.
-/
namespace Sys2Proof.Machine

theorem queueOf_setQueue_same (c : Core) (g : Engine) (l : List Entry) : queueOf (setQueue c g l) g = l := by
  unfold queueOf setQueue vAt
  have : (engIdx g).val < 6 := (engIdx g).isLt
  simp [this]

theorem queueOf_setQueue_other (c : Core) {g h : Engine} (l : List Entry) (n : g ≠ h) :
    queueOf (setQueue c g l) h = queueOf c h := by
  have : (engIdx g).val ≠ (engIdx h).val := by
    intro e
    apply n
    cases g <;> cases h <;> first | rfl | (exact absurd e (by decide))
  unfold queueOf setQueue vAt
  simp [this]

theorem QueuesEmpty.queueOf {c : Core} (h : QueuesEmpty c) (g : Engine) : queueOf c g = [] := by
  unfold Machine.queueOf vAt
  rw [show c.queues = Vector.replicate 6 [] from h]
  cases g <;> rfl

/-- Reading places of a core that holds no error gives no fault and changes nothing. -/
theorem eccRead_free {s : State} {p : Fin 72} (h : eccFree (s.core p) = true) (l : List Place) : eccRead s p l = (s, none) := by
  simp [eccRead, h]

theorem withPlaces_free {s : State} {p : Fin 72} (h : eccFree (s.core p) = true) (k : Fin 6) (l : List Place) (f : State → State) :
    withPlaces p k l s f = f s := by
  simp [withPlaces, eccRead_free h]

/-- A line that the buffer holds is not filled. -/
theorem withLine_has {s : State} {p : Fin 72} {k : Fin 6} (hl : hasLine (s.core p) k = true) (h : eccFree (s.core p) = true)
    (f : State → State) : withLine p k s f = f s := by
  simp [withLine, hl, withPlaces_free h]

/-- The state of a core that has left LOADING. -/
theorem loaded_core (s : State) (p : Fin 72) : (s.modCore p Core.loaded).core p = Core.loaded (s.core p) := modCore_core_same s p _

/-! ## What a fault of a core leaves alone -/

theorem foldl_keeps {α β γ : Type} (f : α → β → α) (g : α → γ) (h : ∀ a b, g (f a b) = g a) (l : List β) (a : α) :
    g (l.foldl f a) = g a := by
  induction l generalizing a with
  | nil => rfl
  | cons b t ih => rw [List.foldl_cons, ih, h]

theorem putByte_vit (s : State) (a : Nat) (b : Byte) : (putByte s a b).vit = s.vit := by
  unfold putByte
  split <;> rfl

theorem usesEnd_vit (s : State) (l : List Nat) : (usesEnd s l).vit = s.vit := foldl_keeps useEnd State.vit (fun _ _ => rfl) l s

theorem abandonOutputs_vit (s : State) (p : Fin 72) : (abandonOutputs s p).vit = s.vit := by
  unfold abandonOutputs
  dsimp only
  rw [foldl_keeps (fun (s : State) a => putByte { s with free := s.free + 1 } a ((Config.freeValue s.free).extractLsb' 0 8)) State.vit
    fun s a => putByte_vit _ _ _]
  rfl

theorem dropUnsent_vit (s : State) (p : Fin 72) : (dropUnsent s p).vit = s.vit := rfl

theorem stopCore_vit (s : State) (p : Fin 72) : (stopCore s p).vit = s.vit := by
  unfold stopCore
  dsimp only
  rw [modCore_vit, dropUnsent_vit, abandonOutputs_vit, usesEnd_vit]

theorem markStopping_vit (s : State) (tag : W32) : (markStopping s tag).vit = s.vit := rfl

/-- The stop of a core meets nothing that makes an access wait. -/
theorem coreFault_vit (s : State) (p : Fin 72) (g : BitVec 3) (f : Flt) (k : Fin 6) (pc : W64) : (coreFault s p g f k pc).vit = s.vit := by
  unfold coreFault
  rw [markStopping_vit, stopCore_vit, modCore_vit]

theorem afterStart_vit (p : Fin 72) (g : Engine) (e : Entry) (r : RunOut) : (afterStart p g e r).vit = r.st.vit := by
  unfold afterStart
  split
  · exact coreFault_vit _ _ _ _ _ _
  · rfl

/-! ## Issue -/

/-- What the check at issue gives where the instruction may start. -/
theorem StartsNow.check {op : CoreOp} {args : Args} {k : Ctl} {g : Engine} {s : State} (h : StartsNow op args k g s) :
    issueCheck (s.core k.core) op args k = .entry g := by
  unfold issueCheck
  have h1 : ((s.core k.core).pl12 && decide (k.stream ≠ engIdx g)) = false := by
    cases hp : (s.core k.core).pl12 with
    | false => rfl
    | true => simp [h.stream hp]
  have h2 : decide (32 ≤ (queueOf (s.core k.core) g).length) = false := by rw [h.empty.queueOf g]; rfl
  simp only [h.eng, h1, h.sync, h.form, h.regs, h2, h.board]
  rfl

theorem issued_queueOf (c : Core) (g h : Engine) (e : Entry) (k : Fin 6) (x : Stream) :
    queueOf (setStream (enqueue c g e) k x) h = queueOf (setQueue c g (queueOf c g ++ [e])) h := rfl

/-- What an engine holds back depends on the started instructions, the epilogue, the slots, the copies and, for the others, on the queue of
the ME. -/
theorem startHeld_congr {c d : Core} {g : Engine} {e : Entry} (hr : d.runs = c.runs) (hi : d.inflight = c.inflight)
    (hs : d.slots = c.slots) (hc : d.copySel = c.copySel)
    (hq : (queueOf d .me).filter (fun m => decide (m.seq < e.seq)) = (queueOf c .me).filter fun m => decide (m.seq < e.seq)) :
    startHeld d g e = startHeld c g e := by
  have hf : ∀ h, flightOf d h = flightOf c h := fun h => by unfold flightOf; rw [hi]
  have hu : ∀ a b, slotUsesTable d a b = slotUsesTable c a b := fun a b => by unfold slotUsesTable slotGet; rw [hs]
  have hm : meEarlier d e.seq = meEarlier c e.seq := by unfold meEarlier meRunning; rw [hq, hf]
  have hb : sfBusy d e = sfBusy c e := by unfold sfBusy; rw [hf]
  unfold startHeld
  rw [hr, hm, hc, hb]
  simp only [hu, hf]

/-- Two changes of a core that agree on what it holds are one. -/
theorem modCore_congr (s : State) (p : Fin 72) {f g : Core → Core} (h : f (s.core p) = g (s.core p)) : s.modCore p f = s.modCore p g := by
  unfold State.modCore
  rw [h]

theorem enqueue_stream (c : Core) (g : Engine) (e : Entry) (k : Fin 6) : streamOf (enqueue (Core.loaded c) g e) k = streamOf c k := rfl

/-- The core after an instruction has entered its queue and the front end has moved on. -/
def issuedCore (op : CoreOp) (args : Args) (k : Ctl) (g : Engine) (c : Core) : Core :=
  setStream (enqueue (Core.loaded c) g (entryOf c op args k)) k.stream
    { streamOf c k.stream with pc := BitVec.ofNat 32 (nextOffset c k.stream).2, loops := (nextOffset c k.stream).1 }

/-- What the front end does with an instruction that may start: it enters its queue, and the queues are served. -/
theorem issueNow_enters {op : CoreOp} {args : Args} {k : Ctl} {g : Engine} {s : State} (h : StartsNow op args k g s) :
    issueNow op args k (s.modCore k.core Core.loaded) = pumpQueues k.core (s.modCore k.core (issuedCore op args k g)) := by
  have hc : (s.modCore k.core Core.loaded).core k.core = Core.loaded (s.core k.core) := loaded_core s k.core
  unfold issueNow
  rw [hc, show issueCheck (Core.loaded (s.core k.core)) op args k = .entry g from h.check]
  dsimp only
  rw [withPlaces_free (by rw [hc]; exact h.good)]
  unfold issueEntry
  dsimp only
  rw [hc, show entryOf (Core.loaded (s.core k.core)) op args k = entryOf (s.core k.core) op args k from rfl, if_pos h.vals]
  congr 1
  unfold advance afterOffset gotoPc
  rw [modCore_modCore, modCore_core_same]
  dsimp only
  have hn : loopEnd (streamOf (s.core k.core) k.stream).pc.toNat (streamOf (s.core k.core) k.stream).loops =
      nextOffset (s.core k.core) k.stream := rfl
  rw [enqueue_stream, hn, if_pos (show targetOk (enqueue (Core.loaded (s.core k.core)) g _) _ = true from h.next), modCore_modCore]
  apply modCore_congr
  unfold issuedCore
  dsimp only
  rw [enqueue_stream]

theorem issuedCore_queues {op : CoreOp} {args : Args} {k : Ctl} {g : Engine} {c : Core} (h : QueuesEmpty c) :
    queueOf (issuedCore op args k g c) g = [entryOf c op args k] ∧
    (∀ h', g ≠ h' → queueOf (issuedCore op args k g c) h' = []) ∧
    (issuedCore op args k g c).queues = (Vector.replicate 6 []).setIfInBounds (engIdx g).val [entryOf c op args k] := by
  have hq : ∀ h', queueOf (Core.loaded c) h' = [] := h.queueOf
  refine ⟨?_, fun h' hn => ?_, ?_⟩
  · show queueOf (setQueue (Core.loaded c) g (queueOf (Core.loaded c) g ++ [entryOf c op args k])) g = _
    rw [queueOf_setQueue_same, hq]
    rfl
  · show queueOf (setQueue (Core.loaded c) g (queueOf (Core.loaded c) g ++ [entryOf c op args k])) h' = _
    rw [queueOf_setQueue_other _ _ hn, hq]
  · show c.queues.setIfInBounds (engIdx g).val (queueOf c g ++ [entryOf c op args k]) = _
    rw [show queueOf c g = [] from h.queueOf g, show c.queues = Vector.replicate 6 [] from h]
    rfl

theorem issuedCore_good (op : CoreOp) (args : Args) (k : Ctl) (g : Engine) (c : Core) :
    eccFree (takeHead g [] (issuedCore op args k g c)) = eccFree c := by
  simp only [eccFree, takeHead, issuedCore, setStream, enqueue, setQueue, Core.loaded]

theorem issuedCore_holds (op : CoreOp) (args : Args) (k : Ctl) (g : Engine) (c : Core) :
    (issuedCore op args k g c).runs = c.runs ∧ (issuedCore op args k g c).inflight = c.inflight ∧
    (issuedCore op args k g c).slots = c.slots ∧ (issuedCore op args k g c).copySel = c.copySel := ⟨rfl, rfl, rfl, rfl⟩

/-- The state in which the head that issued is taken is the state at its start. -/
theorem atStart_eq (op : CoreOp) (args : Args) (k : Ctl) (g : Engine) (s : State) :
    (s.modCore k.core (issuedCore op args k g)).modCore k.core (takeHead g []) = atStart op args k g s := by
  rw [modCore_modCore]
  unfold atStart State.modCore
  rfl

/-- The queues after an instruction that may start has entered its own: it is the one head that may start. -/
theorem issued_mayStart {op : CoreOp} {args : Args} {k : Ctl} {g : Engine} {s : State} (h : StartsNow op args k g s) :
    engines.find? (mayStart (issuedCore op args k g (s.core k.core))) = some g := by
  obtain ⟨hqg, hqo, -⟩ := issuedCore_queues (op := op) (args := args) (k := k) (g := g) h.empty
  obtain ⟨h1, h2, h3, h4⟩ := issuedCore_holds op args k g (s.core k.core)
  have hsync : syWaits (entryOf (s.core k.core) op args k).sync = false := h.waits
  generalize issuedCore op args k g (s.core k.core) = d at *
  have hfil : (queueOf d .me).filter (fun m => decide (m.seq < (entryOf (s.core k.core) op args k).seq)) =
      (queueOf (s.core k.core) .me).filter fun m => decide (m.seq < (entryOf (s.core k.core) op args k).seq) := by
    rw [h.empty.queueOf]
    by_cases hg : g = .me
    · subst hg
      rw [hqg]
      simp
    · rw [hqo _ hg]
  have hstart : mayStart d g = true := by
    unfold mayStart
    rw [hqg]
    dsimp only
    rw [hsync, startHeld_congr h1 h2 h3 h4 hfil, h.held]
    rfl
  have hno : ∀ h', g ≠ h' → mayStart d h' = false := fun h' hn => by
    unfold mayStart
    rw [hqo h' hn]
  unfold engines
  cases g <;> simp [List.find?, hstart, hno]

/-- An instruction that may start does so when it has entered its queue. -/
theorem pump_starts {op : CoreOp} {args : Args} {k : Ctl} {g : Engine} {s : State} (h : StartsNow op args k g s) :
    pumpQueues k.core (s.modCore k.core (issuedCore op args k g)) =
      startEntry k.core g (entryOf (s.core k.core) op args k) [] (s.modCore k.core (issuedCore op args k g)) (atStart op args k g s) := by
  obtain ⟨hqg, -, hqs⟩ := issuedCore_queues (op := op) (args := args) (k := k) (g := g) h.empty
  have hfind := issued_mayStart h
  have hgood := (issuedCore_good op args k g (s.core k.core)).trans h.good
  have hst := atStart_eq op args k g s
  have hBc : (s.modCore k.core (issuedCore op args k g)).core k.core = issuedCore op args k g (s.core k.core) := modCore_core_same _ _ _
  generalize s.modCore k.core (issuedCore op args k g) = B at *
  generalize issuedCore op args k g (s.core k.core) = d at *
  have hlen : d.queues.toList.foldl (fun a l => a + l.length) 0 = 1 := by
    rw [hqs]
    cases g <;> rfl
  have hfree : eccFree ((B.modCore k.core (takeHead g [])).core k.core) = true := by
    rw [modCore_core_same, hBc]
    exact hgood
  unfold pumpQueues
  rw [hBc, hlen]
  unfold pumpCore
  rw [hBc, hfind]
  show pumpCore k.core 0 _ = _
  unfold pumpCore startHead
  rw [hBc, hqg]
  dsimp only
  rw [eccRead_free hfree]
  dsimp only
  rw [hst]

theorem issue_pumps {op : CoreOp} {args : Args} {k : Ctl} {g : Engine} {s : State} (h : StartsNow op args k g s) :
    issue op args k s = answer s (startEntry k.core g (entryOf (s.core k.core) op args k) [] (s.modCore k.core (issuedCore op args k g))
      (atStart op args k g s)) := by
  unfold issue
  rw [if_neg (by simp [h.dom, h.can]), withLine_has (by rw [loaded_core]; exact h.line) (by rw [loaded_core]; exact h.good),
    issueNow_enters h, pump_starts h]

/-- An instruction that may start at once has, at issue, the effect of its engine on the state at its start, where its accesses need not
wait. -/
theorem issue_starts {op : CoreOp} {args : Args} {k : Ctl} {g : Engine} {s : State} (h : StartsNow op args k g s)
    (hu : Unheld s (runEntry k.core (issuedEntry op args k s) (atStart op args k g s)).st) :
    issue op args k s = .next (summaryRise s (afterStart k.core g (issuedEntry op args k s)
      (runEntry k.core (issuedEntry op args k s) (atStart op args k g s)))) := by
  rw [issue_pumps h]
  have he : startEntry k.core g (entryOf (s.core k.core) op args k) [] (s.modCore k.core (issuedCore op args k g))
      (atStart op args k g s) = afterStart k.core g (issuedEntry op args k s)
      (runEntry k.core (issuedEntry op args k s) (atStart op args k g s)) := by
    unfold startEntry
    exact if_neg fun hne => hne hu
  rw [he]
  exact answer_same (by rw [afterStart_vit]; exact hu)

/-- One whose accesses must wait stays at the head of its queue. -/
theorem issue_waits {op : CoreOp} {args : Args} {k : Ctl} {g : Engine} {s : State} (h : StartsNow op args k g s)
    (hu : ¬ Unheld s (runEntry k.core (issuedEntry op args k s) (atStart op args k g s)).st) :
    issue op args k s = answer s ((s.modCore k.core (issuedCore op args k g)).modCore k.core fun c =>
      setQueue c g [{ issuedEntry op args k s with held := true }]) := by
  rw [issue_pumps h]
  congr 1
  unfold startEntry
  exact if_pos hu

/-! ## The state at the start -/

theorem fsum_congr {s t : State} (h : ∀ p, (t.core p).frec = (s.core p).frec) : fsum t = fsum s := by
  unfold fsum
  simp only [h]

theorem errSummary_congr {s t : State} (hr : t.regs = s.regs) (h : ∀ p, (t.core p).frec = (s.core p).frec) :
    errSummary t = errSummary s := by
  have hg : ∀ r i n, t.rget r i n = s.rget r i n := fun r i n => by unfold State.rget; rw [hr]
  unfold errSummary
  simp only [hg, fsum_congr h]

theorem summaryRise_same_summary {b s : State} (h : errSummary s = errSummary b) : summaryRise b s = s := by
  apply summaryRise_none
  rw [h]
  simp

theorem CoreOnly.regs {p : Fin 72} {s t : State} (h : CoreOnly p s t) : t.regs = s.regs := by rw [h.1]

theorem flightOf_setFlight_other (c : Core) {g h : Engine} (l : List Inflight) (n : g ≠ h) :
    flightOf (setFlight c g l) h = flightOf c h := by
  have : (engIdx g).val ≠ (engIdx h).val := by
    intro e
    apply n
    cases g <;> cases h <;> first | rfl | (exact absurd e (by decide))
  unfold flightOf setFlight vAt
  simp [this]

theorem front_left (c : Core) (g : Engine) (e : Entry) (k : Fin 6) (x : Stream) (h : QueuesEmpty c) :
    ∃ i, takeHead g [] (setStream (enqueue (Core.loaded c) g e) k x) =
      { c with streams := c.streams.set k.val x, loading := false, seq := c.seq + 1, issueSel := i, outV := [], outAb := [], outMem := [] } := by
  have hq : (c.queues.setIfInBounds (engIdx g).val (queueOf c g ++ [e])).setIfInBounds (engIdx g).val [] = c.queues := by
    rw [show c.queues = Vector.replicate 6 [] from h]
    cases g <;> rfl
  refine ⟨(enqueue (Core.loaded c) g e).issueSel, ?_⟩
  unfold takeHead setQueue setStream
  have : (({ enqueue (Core.loaded c) g e with streams := (enqueue (Core.loaded c) g e).streams.set k.val x } : Core).queues).setIfInBounds
      (engIdx g).val [] = c.queues := hq
  rw [this]
  rfl

theorem modCore_only (s : State) (p : Fin 72) (f : Core → Core) :
    s.modCore p f = { s with cores := (s.modCore p f).cores } ∧ CoreOnly p s (s.modCore p f) :=
  ⟨rfl, rfl, fun _ hq => modCore_core_other _ _ (Ne.symm hq)⟩

/-- The issue and the way into and out of the queue change nothing of the core but what the front end owns. -/
theorem atStart_front {op : CoreOp} {args : Args} {k : Ctl} {g : Engine} {s : State} (h : StartsNow op args k g s) :
    atStart op args k g s = { s with cores := (atStart op args k g s).cores } ∧ CoreOnly k.core s (atStart op args k g s) ∧
    SameButFront (s.core k.core) ((atStart op args k g s).core k.core) ∧
    ((atStart op args k g s).core k.core).inflight = (s.core k.core).inflight ∧
    ((atStart op args k g s).core k.core).f = (s.core k.core).f ∧ ((atStart op args k g s).core k.core).k = (s.core k.core).k ∧
    (streamOf ((atStart op args k g s).core k.core) k.stream).pc = BitVec.ofNat 32 (nextOffset (s.core k.core) k.stream).2 ∧
    ∀ j, j ≠ k.stream → streamOf ((atStart op args k g s).core k.core) j = streamOf (s.core k.core) j := by
  have hd := atStart_eq op args k g s
  rw [modCore_modCore] at hd
  obtain ⟨i, hi⟩ : ∃ i, takeHead g [] (issuedCore op args k g (s.core k.core)) = _ := front_left (s.core k.core) g
    (entryOf (s.core k.core) op args k) k.stream
    { streamOf (s.core k.core) k.stream with
      pc := BitVec.ofNat 32 (nextOffset (s.core k.core) k.stream).2, loops := (nextOffset (s.core k.core) k.stream).1 } h.empty
  rw [← hd]
  clear hd
  obtain ⟨h1, h2⟩ := modCore_only s k.core fun c => takeHead g [] (issuedCore op args k g c)
  have hcore := modCore_core_same s k.core fun c => takeHead g [] (issuedCore op args k g c)
  generalize (s.modCore k.core fun c => takeHead g [] (issuedCore op args k g c)) = t at *
  rw [hi] at hcore
  refine ⟨h1, h2, ?_, ?_, ?_, ?_, ?_, ?_⟩
  · unfold SameButFront
    rw [hcore]
  · rw [hcore]
  · rw [hcore]
  · rw [hcore]
  · rw [hcore]
    unfold streamOf
    simp
  · intro j hj
    rw [hcore]
    have : k.stream.val ≠ j.val := fun e => hj (Fin.ext e.symm)
    unfold streamOf
    simp [this]

theorem atStart_unheld (op : CoreOp) (args : Args) (k : Ctl) (g : Engine) (s : State) : (atStart op args k g s).vit = s.vit := rfl

theorem flightOf_setFlight (c : Core) (g : Engine) (l : List Inflight) : flightOf (setFlight c g l) g = l := by
  unfold flightOf setFlight vAt
  have : (engIdx g).val < 6 := (engIdx g).isLt
  simp [this]

/-! ## The started instruction -/

theorem sameButFront_refl (c : Core) : SameButFront c c := rfl

theorem SameButFront.trans {c d e : Core} (h : SameButFront c d) (k : SameButFront d e) : SameButFront c e := by
  unfold SameButFront at *
  rw [k, h]

/-- Two cores that differ only in flags, counters and started instructions. -/
def SameButSignals (c d : Core) : Prop := d = { c with f := d.f, k := d.k, inflight := d.inflight }

theorem SameButSignals.refl (c : Core) : SameButSignals c c := rfl

theorem SameButSignals.trans {c d e : Core} (h : SameButSignals c d) (k : SameButSignals d e) : SameButSignals c e := by
  unfold SameButSignals at *
  rw [k, h]

theorem applySignals_same (y : BitVec 48) (c : Core) : SameButSignals c (applySignals y c) ∧ (applySignals y c).inflight = c.inflight := by
  unfold applySignals SameButSignals
  split <;> split <;> exact ⟨rfl, rfl⟩

theorem drainDone_same (l : List Inflight) (c : Core) :
    SameButSignals c (drainDone l c).2 ∧ (drainDone l c).2.inflight = c.inflight := by
  induction l generalizing c with
  | nil => exact ⟨rfl, rfl⟩
  | cons x t ih =>
    unfold drainDone
    split
    · split
      · exact ih c
      · have h := applySignals_same x.e.sync c
        exact ⟨h.1.trans (ih _).1, (ih _).2.trans h.2⟩
    · exact ⟨rfl, rfl⟩

/-- An instruction that is not complete stays where it is. -/
theorem drainDone_last (l : List Inflight) (x : Inflight) (h : x.done = false) (c : Core) :
    ∃ l', (drainDone (l ++ [x]) c).1 = l' ++ [x] := by
  induction l generalizing c with
  | nil => exact ⟨[], by simp [drainDone, h]⟩
  | cons y t ih =>
    rw [List.cons_append]
    unfold drainDone
    split
    · exact ih _
    · exact ⟨y :: t, rfl⟩

theorem deliverSignals_same (l : List Inflight) (c : Core) :
    SameButSignals c (deliverSignals l c).2 ∧ (deliverSignals l c).2.inflight = c.inflight := by
  induction l generalizing c with
  | nil => exact ⟨rfl, rfl⟩
  | cons x t ih =>
    unfold deliverSignals
    split
    · exact ih c
    · split
      · have h := applySignals_same x.e.sync c
        exact ⟨h.1.trans (ih _).1, (ih _).2.trans h.2⟩
      · exact ⟨rfl, rfl⟩

/-- Signals change nothing of a started instruction but whether it has signalled. -/
theorem deliverSignals_map (l : List Inflight) (c : Core) :
    ∃ b : List Bool, (deliverSignals l c).1 = l.zipWith (fun x s => { x with signalled := s }) b ∧ b.length = l.length := by
  induction l generalizing c with
  | nil => exact ⟨[], rfl, rfl⟩
  | cons x t ih =>
    unfold deliverSignals
    split
    · obtain ⟨b, hb, hl⟩ := ih c
      exact ⟨x.signalled :: b, by simp [hb], by simp [hl]⟩
    · split
      · obtain ⟨b, hb, hl⟩ := ih (applySignals x.e.sync c)
        exact ⟨true :: b, by simp [hb], by simp [hl]⟩
      · refine ⟨(x :: t).map (·.signalled), ?_, by simp⟩
        clear ih
        induction (x :: t) with
        | nil => rfl
        | cons a u ih' => simp [← ih']

theorem zipWith_last (l : List Inflight) (x : Inflight) (b : List Bool) (h : b.length = (l ++ [x]).length) :
    ∃ s, ((l ++ [x]).zipWith (fun y s => ({ y with signalled := s } : Inflight)) b).getLast? = some { x with signalled := s } := by
  induction l generalizing b with
  | nil =>
    match b, h with
    | [s], _ => exact ⟨s, rfl⟩
  | cons a t ih =>
    match b, h with
    | s :: u, h =>
      obtain ⟨s', hs⟩ := ih u (by simpa using h)
      refine ⟨s', ?_⟩
      simp only [List.cons_append, List.zipWith_cons_cons]
      cases hz : List.zipWith (fun y s => ({ y with signalled := s } : Inflight)) (t ++ [x]) u with
      | nil => rw [hz] at hs; cases hs
      | cons c d => rw [hz] at hs; rw [List.getLast?_cons_cons, hs]

/-- What a start, a release or a completion leaves behind on its engine. -/
theorem settleFlight_same (c : Core) (g : Engine) :
    SameButSignals c (settleFlight c g) ∧ ∀ h, g ≠ h → flightOf (settleFlight c g) h = flightOf c h := by
  have h1 := drainDone_same (flightOf c g) c
  generalize hr : drainDone (flightOf c g) c = r at h1
  have h2 := deliverSignals_same (flightOf (setFlight r.2 g r.1) g) (setFlight r.2 g r.1)
  have he : settleFlight c g = setFlight (deliverSignals (flightOf (setFlight r.2 g r.1) g) (setFlight r.2 g r.1)).2 g
      (deliverSignals (flightOf (setFlight r.2 g r.1) g) (setFlight r.2 g r.1)).1 := by
    unfold settleFlight deliverCore
    rw [hr]
  have s1 : ∀ (d : Core) (l : List Inflight), SameButSignals d (setFlight d g l) := fun d l => rfl
  rw [he]
  refine ⟨((h1.1.trans (s1 _ _)).trans h2.1).trans (s1 _ _), fun h hn => ?_⟩
  rw [flightOf_setFlight_other _ _ hn]
  have : ∀ d e : Core, e.inflight = d.inflight → flightOf e h = flightOf d h := fun d e k => by unfold flightOf; rw [k]
  rw [this _ _ h2.2, flightOf_setFlight_other _ _ hn, this _ _ h1.2]

/-- The youngest of an engine stays the youngest, unless it completed as it started. -/
theorem settleFlight_last (c : Core) (g : Engine) (l : List Inflight) (x : Inflight) (h : x.done = false) :
    ∃ s, (flightOf (settleFlight (setFlight c g (l ++ [x])) g) g).getLast? = some { x with signalled := s } := by
  unfold settleFlight deliverCore
  dsimp only
  rw [flightOf_setFlight, flightOf_setFlight, flightOf_setFlight]
  obtain ⟨l', hl⟩ := drainDone_last l x h (setFlight c g (l ++ [x]))
  rw [hl]
  obtain ⟨b, hb, hlen⟩ := deliverSignals_map (l' ++ [x]) (setFlight (drainDone (l ++ [x]) (setFlight c g (l ++ [x]))).2 g (l' ++ [x]))
  rw [hb]
  exact zipWith_last l' x b hlen

/-- What a core records of an instruction that starts. -/
theorem inProgress_same (g : Engine) (e : Entry) (r : RunOut) (c : Core) :
    SameButFront c (inProgress g e r c) ∧ (inProgress g e r c).streams = c.streams ∧ (inProgress g e r c).frec = c.frec ∧
    (∀ h, h ≠ g → flightOf (inProgress g e r c) h = flightOf c h) ∧
    (doneAtStart e = false → ∃ x, (flightOf (inProgress g e r c) g).getLast? = some x ∧ x.e = e ∧ x.sticky = r.sticky ∧ x.uses = r.uses ∧
      x.done = false) := by
  unfold inProgress
  dsimp only
  generalize hx : ({ e := e, released := noSource e, done := doneAtStart e, sticky := r.sticky, uses := r.uses, csrLast := r.csrLast,
                     outV := c.outV, outAb := c.outAb, outMem := c.outMem } : Inflight) = x
  generalize hd : setFlight { c with outV := [], outAb := [], outMem := [] } g (flightOf c g ++ [x]) = d
  have h := settleFlight_same d g
  have hs : settleFlight d g = { d with f := (settleFlight d g).f, k := (settleFlight d g).k, inflight := (settleFlight d g).inflight } := h.1
  refine ⟨?_, ?_, ?_, fun j hj => ?_, fun hdone => ?_⟩
  · unfold SameButFront
    rw [hs, ← hd]
    rfl
  · rw [hs, ← hd]
    rfl
  · rw [hs, ← hd]
    rfl
  · rw [h.2 j (Ne.symm hj), ← hd, flightOf_setFlight_other _ _ (Ne.symm hj)]
    rfl
  · obtain ⟨s, hl⟩ := settleFlight_last { c with outV := [], outAb := [], outMem := [] } g (flightOf c g) x (by rw [← hx]; exact hdone)
    rw [hd] at hl
    exact ⟨_, hl, by rw [← hx], by rw [← hx], by rw [← hx], by rw [← hx]; exact hdone⟩

/-- What a started instruction whose effect lies in its own core leaves. -/
theorem ranTo_inCore {op : CoreOp} {args : Args} {k : Ctl} {g : Engine} {s : State} (h : StartsNow op args k g s)
    (f : Core → Core) (sticky : Flags) (hf : ∀ c, (f c).frec = c.frec) :
    let x := (atStart op args k g s).modCore k.core f
    let t := x.modCore k.core (inProgress g (issuedEntry op args k s) { st := x, sticky := sticky })
    summaryRise s t = t ∧ CoreOnly k.core s t ∧ SameButFront (f ((atStart op args k g s).core k.core)) (t.core k.core) := by
  obtain ⟨ha, hb, hc, -⟩ := atStart_front h
  dsimp only
  generalize hx : atStart op args k g s = x at ha hb hc
  generalize hr : ({ st := x.modCore k.core f, sticky := sticky } : RunOut) = r
  have hp := inProgress_same g (issuedEntry op args k s) r (f (x.core k.core))
  rw [modCore_modCore]
  have hcore : (x.modCore k.core fun c => inProgress g (issuedEntry op args k s) r (f c)).core k.core =
      inProgress g (issuedEntry op args k s) r (f (x.core k.core)) := modCore_core_same _ _ _
  have hoth : ∀ q, q ≠ k.core → (x.modCore k.core fun c => inProgress g (issuedEntry op args k s) r (f c)).core q = s.core q := fun q hq => by
    rw [modCore_core_other _ _ (Ne.symm hq), hb.2 q hq]
  have hfr : (x.core k.core).frec = (s.core k.core).frec := by rw [show x.core k.core = _ from hc]
  have heq : (x.modCore k.core fun c => inProgress g (issuedEntry op args k s) r (f c)) =
      { s with cores := (x.modCore k.core fun c => inProgress g (issuedEntry op args k s) r (f c)).cores } := by
    conv => lhs; unfold State.modCore State.setCore; rw [ha]
    rfl
  refine ⟨?_, ⟨?_, hoth⟩, ?_⟩
  · apply summaryRise_same_summary
    apply errSummary_congr
    · rw [heq]
    · intro q
      by_cases hq : q = k.core
      · subst hq
        rw [hcore, hp.2.2.1, hf, hfr]
      · rw [hoth q hq]
  · rw [heq]
  · rw [hcore]
    exact hp.1

theorem orSticky_zero (c : Core) (g : Engine) : orSticky c g 0 = c := by
  have e : ∀ n, c.sticky.setIfInBounds n (vAt c.sticky 0 n ||| 0) = c.sticky := by
    intro n
    ext i h
    unfold vAt
    simp only [Vector.getElem_setIfInBounds]
    split
    · rename_i hn
      subst hn
      simp [h]
    · rfl
  unfold orSticky
  rw [e]

theorem suWrite_pure (p : Fin 72) (e : Entry) (s : State) (r : BitVec 5) (x : W64) :
    suWrite p e s r x 0 = { st := s.modCore p fun c => writeS c e.stream r x } := by
  unfold suWrite ranOk
  rw [show (0 : Flags) &&& 0x1D = 0 from rfl]
  simp only [orSticky_zero]

theorem writeS_front (c : Core) (k : Fin 6) (r : BitVec 5) (x : W64) :
    (writeS c k r x).frec = c.frec ∧ (writeS c k r x).streams = c.streams := by
  unfold writeS
  split <;> exact ⟨rfl, rfl⟩

/-- An instruction with an effect on its own core alone, from what its engine does. -/
theorem inCore_of {i : Instr} {op : CoreOp} {args : Args} {k : Ctl} {g : Engine} {s : State} (f : Core → Core × Flags)
    (h : StartsNow op args k g s) (he : exec i s = issue op args k s)
    (hr : ∀ x : State, x = atStart op args k g s → runEntry k.core (issuedEntry op args k s) x =
      { st := x.modCore k.core fun c => (f c).1, sticky := (f (x.core k.core)).2 })
    (hf : ∀ c, (f c).1.frec = c.frec) : InCore i op args k g s f := by
  have hu : Unheld s (runEntry k.core (issuedEntry op args k s) (atStart op args k g s)).st := by rw [hr _ rfl]; rfl
  obtain ⟨h1, h2, h3⟩ := ranTo_inCore h (fun c => (f c).1) (f ((atStart op args k g s).core k.core)).2 hf
  have hi := issue_starts h hu
  rw [hr _ rfl] at hi
  refine ⟨_, he.trans hi, rfl, ?_⟩
  unfold afterStart
  dsimp only
  rw [h1]
  exact ⟨h2, h3⟩

/-- An instruction that starts at once, from what its engine leaves. -/
theorem ranTo_of {i : Instr} {op : CoreOp} {args : Args} {k : Ctl} {g : Engine} {s x : State} {sticky : Flags} {uses : List Nat}
    {last : Option W64} (h : StartsNow op args k g s) (he : exec i s = issue op args k s)
    (hr : runEntry k.core (issuedEntry op args k s) (atStart op args k g s) =
      { st := x, sticky := sticky, uses := uses, csrLast := last }) (hu : Unheld s x) :
    ∃ t, exec i s = .next t ∧ RanTo op args k g s x sticky uses last t := by
  have hi := issue_starts h (by rw [hr]; exact hu)
  rw [hr] at hi
  exact ⟨_, he.trans hi, rfl⟩

/-- An instruction that starts at once and faults. -/
theorem ranToFault_of {i : Instr} {op : CoreOp} {args : Args} {k : Ctl} {g : Engine} {s x : State} {f : Flt} {sticky : Flags}
    {uses : List Nat} {last : Option W64} (h : StartsNow op args k g s) (he : exec i s = issue op args k s)
    (hr : runEntry k.core (issuedEntry op args k s) (atStart op args k g s) =
      { st := x, fault := some f, sticky := sticky, uses := uses, csrLast := last }) (hu : Unheld s x) :
    ∃ t, exec i s = .next t ∧ RanToFault op args k g s x f t := by
  have hi := issue_starts h (by rw [hr]; exact hu)
  rw [hr] at hi
  exact ⟨_, he.trans hi, rfl⟩

/-- A control-flow instruction that is ready has its effect on the state in which its core has left LOADING. -/
theorem control_ready {op : CoreOp} {k : Ctl} {o : OpS} {s : State} {f : State → State} (h : ControlReady op k o s) :
    Machine.control op k o s f = answer s (f (s.modCore k.core Core.loaded)) := by
  have hg : eccFree ((s.modCore k.core Core.loaded).core k.core) = true := by rw [loaded_core]; exact h.good
  unfold Machine.control
  dsimp only
  rw [if_neg (by simp [h.dom, h.can]), withLine_has (by rw [loaded_core]; exact h.line) hg]
  rw [if_neg (by simpa [h.sync, h.form] using h.regs), if_neg (by simpa using h.board), withPlaces_free hg]

/-- A control-flow instruction that changes its own stream alone. -/
theorem moved_of {op : CoreOp} {k : Ctl} {o : OpS} {s : State} (h : ControlReady op k o s) (x : Machine.Stream) (f : State → State)
    (hf : ∀ y : State, y.core k.core = Core.loaded (s.core k.core) → f y = y.modCore k.core fun c => setStream c k.stream x) :
    ∃ t, Machine.control op k o s f = .next t ∧ Moved k s x t := by
  rw [control_ready h, hf _ (loaded_core s k.core), modCore_modCore, answer_same (by rw [modCore_vit])]
  refine ⟨_, rfl, ?_⟩
  rw [summaryRise_same_summary]
  · rfl
  · apply errSummary_congr (modCore_regs s _ _)
    intro p
    by_cases hp : p = k.core
    · subst hp
      rw [modCore_core_same]
      simp only [setStream, Core.loaded]
    · rw [modCore_core_other _ _ (Ne.symm hp)]

end Sys2Proof.Machine
end

