-- ==== Sys2Proof/Laws/Memory.lean ====
section
/-!
SUPPORT. Sys2Proof/Laws/Memory.lean: what a read gives and what a write leaves where no storage error can meet it.
-/
namespace Sys2Proof.Machine

/-- Two states whose bytes lie alike. -/
structure SamePlaces (s t : State) : Prop where
  map : t.map = s.map
  memMap : t.memMap = s.memMap
  swz : ∀ n, n < 64 → t.rget .vtrSwz 0 n = s.rget .vtrSwz 0 n

theorem SamePlaces.memTop {s t : State} (h : SamePlaces s t) : memTop t = memTop s := by
  unfold Machine.memTop ctrlsInService
  rw [h.memMap]

theorem galOf_lt {a n o : Nat} (h : galOf a = some (n, o)) : n < 64 := by
  unfold galOf at h
  split at h
  · rename_i hw
    cases h
    omega
  · cases h

theorem galOf_some {a n o : Nat} (h : galOf a = some (n, o)) : vtrBase ≤ a ∧ (a - vtrBase) / 2 ^ 24 = n ∧
    o = (a - vtrBase) % 2 ^ 24 := by
  unfold galOf at h
  split at h
  · rename_i hw
    exact ⟨hw.1, congrArg (fun x => (x.getD (0, 0)).1) h, (congrArg (fun x => (x.getD (0, 0)).2) h).symm⟩
  · cases h

theorem SamePlaces.byteKey {s t : State} (h : SamePlaces s t) (a : Nat) : byteKey t a = byteKey s a := by
  unfold Machine.byteKey physOf
  rw [h.memTop, h.map]
  split
  · rfl
  · split
    · rename_i n o hg
      rw [h.swz n (galOf_lt hg)]
    · rfl

theorem byteAt_congr {s t : State} (h : SamePlaces s t) (hm : t.mem = s.mem) (a : Nat) : byteAt t a = byteAt s a := by
  unfold byteAt
  rw [h.byteKey, hm]

theorem readBytes_congr {s t : State} (h : SamePlaces s t) (hm : t.mem = s.mem) (a len : Nat) :
    readBytes t a len = readBytes s a len := by
  unfold readBytes
  simp only [byteAt_congr h hm]

theorem foldl_id {α β : Type} (f : β → α → β) (b : β) (l : List α) (h : ∀ a ∈ l, f b a = b) : l.foldl f b = b := by
  induction l with
  | nil => rfl
  | cons a t ih =>
    rw [List.foldl_cons, h a (by simp)]
    exact ih fun x hx => h x (by simp [hx])

/-! ### Accesses that meet nothing to wait for -/

theorem noteWipe_good {s : State} (h : StorageGood s) (m : Master) (a len : Nat) : noteWipe m s a len = s := by
  have hw : wipeBanks m s a len = [] := by
    unfold wipeBanks
    rw [List.filterMap_eq_nil_iff]
    intro b _
    split
    · rename_i n o hg
      rw [if_neg (by simp [h.wipe n (galOf_lt hg)])]
    · rfl
  unfold noteWipe clockWaits
  rw [hw, h.clock]
  rfl

theorem noteWipes_good {s : State} (h : StorageGood s) (m : Master) (cells : List (Nat × Byte)) :
    cells.foldl (fun s c => noteWipe m s c.1 1) s = s :=
  foldl_id _ _ _ fun _ _ => noteWipe_good h _ _ _

/-! ### The caches -/

/-- A state that differs from another in the lines of the L2, none of which has become bad, and in the lines read that DBG_MEM has still to
count. -/
structure OnlyL2 (s t : State) : Prop where
  eq : t = { s with free := t.free, vit := { s.vit with l2 := t.vit.l2 }, dbg := { s.dbg with memLag := t.dbg.memLag } }
  lines : (∀ x ∈ s.vit.l2, x.err = none) → ∀ x ∈ t.vit.l2, x.err = none

theorem OnlyL2.refl (s : State) : OnlyL2 s s := ⟨rfl, id⟩

theorem OnlyL2.trans {s t u : State} (h : OnlyL2 s t) (k : OnlyL2 t u) : OnlyL2 s u := by
  refine ⟨?_, k.lines ∘ h.lines⟩
  have hk := k.eq
  generalize u.free = n at *
  generalize u.vit.l2 = l at *
  generalize u.dbg.memLag = d at *
  rw [hk, h.eq]

theorem noteLine_only (s : State) (a : Nat) : OnlyL2 s (noteLine s a) := by
  unfold noteLine
  dsimp only
  split
  · exact ⟨rfl, id⟩
  · exact .refl s

theorem l2Put_only {s : State} {l : List L2Line} (h : (∀ x ∈ s.vit.l2, x.err = none) → ∀ x ∈ l, x.err = none) : OnlyL2 s (l2Put s l) :=
  ⟨rfl, h⟩

theorem l2Touch_only (s : State) (a : Nat) : OnlyL2 s (l2Touch s a) := by
  have h1 : (∀ x ∈ s.vit.l2, x.err = none) →
      ∀ x ∈ s.vit.l2.map (fun x => if x.line = a / 64 then ({ x with used := true } : L2Line) else x), x.err = none := by
    intro hs x hx
    obtain ⟨y, hy, rfl⟩ := List.mem_map.mp hx
    split
    · exact hs y hy
    · exact hs y hy
  unfold l2Touch
  dsimp only
  split
  · refine l2Put_only fun hs x hx => ?_
    obtain ⟨y, hy, rfl⟩ := List.mem_map.mp hx
    split
    · exact h1 hs y hy
    · exact h1 hs y hy
  · exact l2Put_only h1

theorem l2Fill_only (s : State) (a : Nat) : OnlyL2 s (l2Fill s a) := by
  unfold l2Fill
  dsimp only
  split
  · exact l2Touch_only s a
  · split
    · refine (l2Put_only fun hs x hx => ?_).trans (l2Touch_only _ a)
      rcases List.mem_cons.mp hx with rfl | hx
      · rfl
      · exact hs x hx
    · have h0 : OnlyL2 s { s with free := s.free + 1 } := ⟨rfl, id⟩
      refine (h0.trans (l2Put_only fun hs x hx => ?_)).trans (l2Touch_only _ a)
      rcases List.mem_cons.mp hx with rfl | hx
      · rfl
      · exact hs x (List.mem_filter.mp hx).1

theorem SamePlaces.l2 {s t : State} (h : OnlyL2 s t) : SamePlaces s t := by
  rw [h.eq]
  exact ⟨rfl, rfl, fun _ _ => rfl⟩

theorem StorageGood.l2 {s t : State} (g : StorageGood s) (h : OnlyL2 s t) : StorageGood t := by
  have hl := h.lines g.lines
  have he := h.eq
  generalize t.free = n at *
  generalize t.vit.l2 = l at *
  generalize t.dbg.memLag = d at *
  subst he
  exact ⟨g.mem, g.gal, hl, g.l1, g.ctrl, g.clock, g.wipe⟩

/-! ### Reads that can meet no storage error -/

theorem memRead_good {s : State} (h : StorageGood s) (m : Master) (src a : Nat) : memRead m src s a = (s, none) := by
  unfold memRead symbolErrs
  rw [h.mem]
  rfl

/-- A present line serves a read, an absent one comes from memory: nothing changes but the marks of the L2. -/
theorem sliceRead_good {s : State} (h : StorageGood s) (m : Master) (src a : Nat) :
    ∃ t, sliceRead m src s a = (t, none) ∧ OnlyL2 s t := by
  have o := noteLine_only s a
  have g := h.l2 o
  unfold sliceRead
  dsimp only
  split
  · exact ⟨_, memRead_good g _ _ _, o⟩
  · rename_i x hx
    rw [g.lines x (List.mem_of_find?_eq_some hx)]
    exact ⟨_, rfl, o.trans (l2Touch_only _ a)⟩

theorem readErrLine_good {s : State} (h : StorageGood s) (m : Master) (lo hi line : Nat) :
    ∃ t, readErrLine m lo hi s line = (t, none) ∧ OnlyL2 s t := by
  unfold readErrLine
  split
  · rw [if_neg (by simp [h.ctrl])]
    exact sliceRead_good h m 0 line
  · split
    · exact ⟨s, rfl, .refl s⟩
    · refine ⟨s, ?_, .refl s⟩
      unfold wordsRead
      rw [h.gal]
      rfl

theorem readErr_good {s : State} (h : StorageGood s) (m : Master) (a len : Nat) :
    ∃ t, readErr m s a len = (t, none) ∧ OnlyL2 s t := by
  unfold readErr
  generalize spanLines a len = l
  suffices key : ∀ u, OnlyL2 s u → ∃ t, l.foldl (fun (r : State × Option Flt) line =>
      match r.2 with
      | some _ => r
      | none => readErrLine m a (a + len) r.1 line) (u, none) = (t, none) ∧ OnlyL2 s t from key s (.refl s)
  induction l with
  | nil => exact fun u hu => ⟨u, rfl, hu⟩
  | cons x xs ih =>
    intro u hu
    obtain ⟨v, hv, ho⟩ := readErrLine_good (h.l2 hu) m a (a + len) x
    rw [List.foldl_cons]
    dsimp only
    rw [hv]
    exact ih v (hu.trans ho)

/-- A read gives the bytes of the address space, and changes nothing but the marks of the L2. -/
theorem devRead_good {s : State} (h : StorageGood s) (m : Master) (a len : Nat) :
    ∃ t, devRead m s a len = (t, readBytes s a len, none) ∧ OnlyL2 s t := by
  obtain ⟨t, ht, ho⟩ := readErr_good h m a len
  unfold devRead
  rw [noteWipe_good h, ht]
  dsimp only
  exact ⟨t, by rw [readBytes_congr (.l2 ho) (by rw [ho.eq])], ho⟩

theorem readBytes_length (s : State) (a len : Nat) : (readBytes s a len).length = len := by
  unfold readBytes
  simp

/-- The bytes of a packed line. -/
theorem leNat_lt_pow : ∀ l : List Byte, leNat l < 256 ^ l.length
  | [] => by simp [leNat]
  | b :: t => by
    have := leNat_lt_pow t
    have hb := b.isLt
    simp only [leNat, List.length_cons, Nat.pow_succ]
    omega

theorem leNat_byte : ∀ (l : List Byte) (i : Nat), i < l.length → BitVec.ofNat 8 (leNat l / 256 ^ i) = l.getD i 0
  | [], i, h => by simp at h
  | b :: t, 0, _ => by
    apply BitVec.eq_of_toNat_eq
    have := b.isLt
    simp [leNat]
    omega
  | b :: t, i + 1, h => by
    have e : leNat (b :: t) / 256 ^ (i + 1) = leNat t / 256 ^ i := by
      rw [Nat.pow_succ, Nat.mul_comm, ← Nat.div_div_eq_div_mul]
      congr 1
      have := b.isLt
      simp only [leNat]
      omega
    rw [e, leNat_byte t i (by simpa using h)]
    rfl

set_option exponentiation.threshold 600 in
theorem lineBytes_pack (bs : List Byte) (h : bs.length = 64) : lineBytes (packLine bs) = bs := by
  unfold lineBytes packLine
  apply List.ext_getElem
  · simp [h]
  · intro i h1 h2
    simp only [List.getElem_map, List.getElem_range]
    have hl := leNat_lt_pow bs
    rw [h] at hl
    have e : BitVec.extractLsb' (8 * i) 8 (BitVec.ofNat 512 (leNat bs)) = BitVec.ofNat 8 (leNat bs / 256 ^ i) := by
      apply BitVec.eq_of_toNat_eq
      rw [show (256 : Nat) ^ 64 = 2 ^ 512 from by rw [show (256 : Nat) = 2 ^ 8 from rfl, ← Nat.pow_mul]] at hl
      rw [BitVec.extractLsb'_toNat, BitVec.toNat_ofNat, BitVec.toNat_ofNat, Nat.mod_eq_of_lt hl, Nat.shiftRight_eq_div_pow,
        show (2 : Nat) ^ (8 * i) = 256 ^ i from by rw [Nat.pow_mul]]
    rw [e, leNat_byte bs i h2]
    exact (List.getD_eq_getElem _ _ h2)

theorem ctrlOf_lt (s : State) (a : Nat) : (ctrlOf s a).1 < 48 := by
  unfold ctrlOf homeOf
  dsimp only
  rw [List.getD_eq_getElem?_getD]
  cases h : (ctrlsInService s)[(a / 256 % (ctrlsInService s).length + a / 256 / (ctrlsInService s).length) %
    (ctrlsInService s).length]? with
  | none => decide
  | some x =>
    have := List.mem_of_getElem? h
    unfold ctrlsInService at this
    simp only [List.mem_filter, List.mem_range] at this
    exact this.1

theorem StorageGood.congr {s t : State} (h : StorageGood s) (hm : t.memErr = s.memErr) (hg : t.galErr = s.galErr)
    (hv : t.vit.l2 = s.vit.l2) (hc : ∀ p, (t.core p).l1Err = (s.core p).l1Err) (hk : t.power.memClk = s.power.memClk)
    (hp : t.memMap = s.memMap) (hr : ∀ k, k < 48 → t.rget .memStatus k 0 = s.rget .memStatus k 0)
    (hw : ∀ n, n < 64 → t.rget .vtrOwn 0 n = s.rget .vtrOwn 0 n) : StorageGood t := by
  refine ⟨hm.trans h.mem, hg.trans h.gal, by rw [hv]; exact h.lines, fun p => (hc p).trans (h.l1 p), fun a => ?_, hk.trans h.clock,
    fun n hn => by rw [hw n hn]; exact h.wipe n hn⟩
  have := h.ctrl a
  unfold ctrlLost at this ⊢
  rw [show ctrlOf t a = ctrlOf s a from by unfold ctrlOf homeOf ctrlsInService; rw [hp]]
  dsimp only at this ⊢
  rw [hr _ (ctrlOf_lt s a)]
  exact this

/-- A state that differs from another in the L1 of core p, the lines of the L2 and the lines read that DBG_MEM has still to count. -/
structure OnlyCaches (p : Fin 72) (s t : State) : Prop where
  eq : ∃ l, t = { s.modCore p (fun c => { c with l1 := l }) with free := t.free, vit := { s.vit with l2 := t.vit.l2 }, dbg := { s.dbg with memLag := t.dbg.memLag } }
  lines : (∀ x ∈ s.vit.l2, x.err = none) → ∀ x ∈ t.vit.l2, x.err = none

theorem OnlyL2.caches {s t : State} (h : OnlyL2 s t) (p : Fin 72) : OnlyCaches p s t := by
  refine ⟨⟨(s.core p).l1, ?_⟩, h.lines⟩
  rw [show s.modCore p (fun c => { c with l1 := (s.core p).l1 }) = s from setCore_core s p]
  exact h.eq

theorem OnlyCaches.refl (p : Fin 72) (s : State) : OnlyCaches p s s := (OnlyL2.refl s).caches p

theorem OnlyCaches.trans {p : Fin 72} {s t u : State} (h : OnlyCaches p s t) (k : OnlyCaches p t u) : OnlyCaches p s u := by
  obtain ⟨⟨l, hl⟩, hx⟩ := h
  obtain ⟨⟨m, hm⟩, hy⟩ := k
  refine ⟨⟨m, ?_⟩, hy ∘ hx⟩
  generalize u.free = n at *
  generalize u.vit.l2 = v at *
  generalize u.dbg.memLag = d at *
  rw [hm, hl]
  simp only [State.modCore, State.setCore, State.core, Vector.getElem_set_self, Vector.set_set]

theorem onlyL1 (p : Fin 72) (s : State) (l : List (Nat × BitVec 512)) : OnlyCaches p s (s.modCore p fun c => { c with l1 := l }) :=
  ⟨⟨l, rfl⟩, id⟩

/-- What the caches do not hold stays. -/
theorem OnlyCaches.same {p : Fin 72} {s t : State} (h : OnlyCaches p s t) :
    t = { s with cores := t.cores, free := t.free, vit := { s.vit with l2 := t.vit.l2 }, dbg := { s.dbg with memLag := t.dbg.memLag } } := by
  obtain ⟨l, hl⟩ := h.eq
  generalize t.free = n at *
  generalize t.vit.l2 = v at *
  generalize t.dbg.memLag = d at *
  rw [hl]
  rfl

theorem OnlyCaches.other {p q : Fin 72} {s t : State} (h : OnlyCaches p s t) (hq : q ≠ p) : t.core q = s.core q := by
  obtain ⟨l, hl⟩ := h.eq
  rw [hl]
  exact modCore_core_other s (fun c => { c with l1 := l }) (Ne.symm hq)

theorem OnlyCaches.core {p : Fin 72} {s t : State} (h : OnlyCaches p s t) : ∃ l, t.core p = { s.core p with l1 := l } := by
  obtain ⟨l, hl⟩ := h.eq
  rw [hl]
  exact ⟨l, modCore_core_same s p fun c => { c with l1 := l }⟩

theorem SamePlaces.caches {p : Fin 72} {s t : State} (h : OnlyCaches p s t) : SamePlaces s t := by
  rw [h.same]
  exact ⟨rfl, rfl, fun _ _ => rfl⟩

theorem OnlyCaches.bytes {p : Fin 72} {s t : State} (h : OnlyCaches p s t) (a n : Nat) : readBytes t a n = readBytes s a n :=
  readBytes_congr (.caches h) (by rw [h.same]) a n

theorem StorageGood.caches {p : Fin 72} {s t : State} (g : StorageGood s) (h : OnlyCaches p s t) : StorageGood t := by
  have hl := h.lines g.lines
  have h1 : ∀ q, (t.core q).l1Err = [] := fun q => by
    by_cases hq : q = p
    · subst hq
      obtain ⟨l, e⟩ := h.core
      rw [e]
      exact g.l1 q
    · rw [h.other hq]
      exact g.l1 q
  have hs := h.same
  have : StorageGood { t with vit := s.vit } := by
    refine g.congr (by rw [hs]) (by rw [hs]) rfl (fun q => (h1 q).trans (g.l1 q).symm) (by rw [hs]) (by rw [hs]) (fun k _ => by rw [hs]; rfl)
      fun n _ => by rw [hs]; rfl
  exact ⟨this.mem, this.gal, hl, this.l1, this.ctrl, this.clock, this.wipe⟩

theorem l1Insert_mem {l : List (Nat × BitVec 512)} {line : Nat} {x : BitVec 512} {e : Nat × BitVec 512}
    (h : e ∈ l1Insert l line x) : e = (line, x) ∨ e ∈ l := by
  unfold l1Insert at h
  dsimp only at h
  split at h
  · rcases List.mem_cons.mp h with h | h
    · exact .inl h
    · exact .inr (List.mem_filter.mp h).1
  · split at h
    · rcases List.mem_cons.mp h with h | h
      · exact .inl h
      · exact .inr (List.mem_filter.mp (List.mem_filter.mp h).1).1
    · rcases List.mem_cons.mp h with h | h
      · exact .inl h
      · exact .inr (List.mem_filter.mp h).1

/-- A change of the L1 that keeps it coherent. -/
theorem l1Insert_good {p : Fin 72} {s0 s : State} (o : OnlyCaches p s0 s) (c : L1Coherent p s) {line : Nat} (hl : line % 64 = 0) :
    let t := s.modCore p fun c => { c with l1 := l1Insert c.l1 line (packLine (readBytes s0 line 64)) }
    OnlyCaches p s0 t ∧ L1Coherent p t := by
  dsimp only
  have o1 : OnlyCaches p s (s.modCore p fun c => { c with l1 := l1Insert c.l1 line (packLine (readBytes s0 line 64)) }) := onlyL1 p s _
  refine ⟨o.trans o1, fun e he => ?_⟩
  rw [modCore_core_same] at he
  rw [o1.bytes]
  rcases l1Insert_mem he with he | he
  · subst he
    exact ⟨hl, by rw [o.bytes]⟩
  · exact c e he

theorem L1Coherent.l2 {p : Fin 72} {s t : State} (c : L1Coherent p s) (h : OnlyL2 s t) : L1Coherent p t := by
  intro e he
  rw [(h.caches p).bytes]
  exact c e (by rw [h.eq] at he; exact he)

/-- A miss fills the line. -/
theorem l1Miss_good {p : Fin 72} {s0 s : State} (h : StorageGood s0) (o : OnlyCaches p s0 s) (c : L1Coherent p s) {line : Nat}
    (hl : line % 64 = 0) : ∃ s', l1Miss p s line = (s', packLine (readBytes s0 line 64), none) ∧ OnlyCaches p s0 s' ∧
      L1Coherent p s' := by
  obtain ⟨t, ht, hq⟩ := devRead_good (h.caches o) (.core p) line 64
  have o2 : OnlyL2 s (l2Fill t line) := hq.trans (l2Fill_only t line)
  have hg := (h.caches (o.trans (o2.caches p))).l1 p
  have hi := l1Insert_good (o.trans (o2.caches p)) (c.l2 o2) hl
  unfold l1Miss
  rw [ht, o.bytes]
  refine ⟨_, rfl, ?_⟩
  rw [modCore_congr (l2Fill t line) p (g := fun c => { c with l1 := l1Insert c.l1 line (packLine (readBytes s0 line 64)) })
    (by rw [hg]; simp only [List.filter_nil])]
  exact hi

/-- One line as the L1 gives it. -/
theorem l1Line_good {p : Fin 72} {s0 s : State} (h : StorageGood s0) (o : OnlyCaches p s0 s) (c : L1Coherent p s) {line : Nat}
    (hl : line % 64 = 0) : ∃ s', l1Line p s line = (s', packLine (readBytes s0 line 64), none) ∧ OnlyCaches p s0 s' ∧
      L1Coherent p s' := by
  unfold l1Line
  split
  · exact l1Miss_good h o c hl
  · rename_i e hf
    have hm := List.mem_of_find?_eq_some hf
    have he : e.1 = line := by simpa using List.find?_some hf
    have hx : e.2 = packLine (readBytes s0 line 64) := by rw [(c e hm).2, o.bytes, he]
    rw [(h.caches o).l1 p, hx]
    exact ⟨_, rfl, l1Insert_good o c hl⟩

theorem readBytes_append (s : State) (a n m : Nat) : readBytes s a n ++ readBytes s (a + n) m = readBytes s a (n + m) := by
  unfold readBytes
  rw [List.range_add, List.map_append, List.map_map]
  congr 1
  apply List.map_congr_left
  intro i _
  simp [Nat.add_assoc]

theorem readBytes_slice (s : State) (a n lo len : Nat) (h : lo + len ≤ n) :
    slice (readBytes s a n) lo len = readBytes s (a + lo) len := by
  unfold slice readBytes
  apply List.ext_getElem
  · simp
    omega
  · intro i h1 h2
    simp [Nat.add_assoc]

/-- A load through the L1 gives the bytes of memory. -/
theorem loadBytes_good {p : Fin 72} {s0 s : State} (h : StorageGood s0) (o : OnlyCaches p s0 s) (c : L1Coherent p s) (a len : Nat)
    (hlen : 0 < len) : ∃ s', loadBytes p s a len = (s', readBytes s0 a len, none) ∧ OnlyCaches p s0 s' ∧ L1Coherent p s' := by
  unfold loadBytes
  split
  · have key : ∀ n base (s1 : State) (bs : List Byte), OnlyCaches p s0 s1 → L1Coherent p s1 →
        ∃ s', ((List.range n).map fun i => (base + i) * 64).foldl (fun (r : State × List Byte × Option Flt) line =>
          match r.2.2 with
          | some _ => r
          | none =>
            let (s2, x, e) := l1Line p r.1 line
            (s2, r.2.1 ++ lineBytes x, e)) (s1, bs, none) = (s', bs ++ readBytes s0 (base * 64) (64 * n), none) ∧
          OnlyCaches p s0 s' ∧ L1Coherent p s' := by
      intro n
      induction n with
      | zero =>
        intro base s1 bs o1 c1
        exact ⟨s1, by simp [readBytes], o1, c1⟩
      | succ n ih =>
        intro base s1 bs o1 c1
        rw [List.range_succ_eq_map, List.map_cons, List.map_map, List.foldl_cons]
        obtain ⟨s2, e2, o2, c2⟩ := l1Line_good h o1 c1 (line := (base + 0) * 64) (by omega)
        dsimp only
        rw [e2]
        dsimp only
        rw [lineBytes_pack _ (readBytes_length _ _ _)]
        obtain ⟨s3, e3, o3, c3⟩ := ih (base + 1) s2 (bs ++ readBytes s0 ((base + 0) * 64) 64) o2 c2
        refine ⟨s3, ?_, o3, c3⟩
        have hf : ((fun i => (base + i) * 64) ∘ Nat.succ) = fun i => (base + 1 + i) * 64 := by
          funext i
          simp only [Function.comp]
          congr 1
          omega
        rw [hf, e3, List.append_assoc, Nat.add_zero, show (base + 1) * 64 = base * 64 + 64 from by omega, readBytes_append,
          show 64 + 64 * n = 64 * (n + 1) from by omega]
    unfold spanLines
    rw [if_neg (by omega)]
    obtain ⟨s', e, o', c'⟩ := key ((a + len - 1) / 64 - a / 64 + 1) (a / 64) s [] o c
    refine ⟨s', ?_, o', c'⟩
    refine (congrArg (fun r : State × List Byte × Option Flt => (r.1, slice r.2.1 (a % 64) len, r.2.2)) e).trans ?_
    dsimp only
    rw [List.nil_append, readBytes_slice _ _ _ _ _ (by omega), show a / 64 * 64 + a % 64 = a from by omega]
  · obtain ⟨t, ht, hq⟩ := devRead_good (h.caches o) (.core p) a len
    rw [ht, o.bytes]
    exact ⟨t, rfl, o.trans (hq.caches p), c.l2 hq⟩

/-! ## Stores -/

/-- A state that differs from another in counters of chapter 20 alone. -/
structure OnlyPerf (s t : State) : Prop where
  eq : t = { s with regs := t.regs }
  wf : smapWf regDefault t.regs = true
  reg : ∀ r i n, (∀ j, r.at i n ≠ RegName.at .dbgMem 0 j) → t.rget r i n = s.rget r i n

theorem OnlyPerf.places {s t : State} (h : OnlyPerf s t) : SamePlaces s t := by
  refine ⟨by rw [h.eq], by rw [h.eq], fun n hn => h.reg _ _ _ fun j e => ?_⟩
  have e : 0x2000400 + 0 * 1 + n * 8 = 0x3e01000 + 0 * 1 + j * 8 := e
  omega

theorem OnlyPerf.good {s t : State} (h : OnlyPerf s t) (g : StorageGood s) : StorageGood t := by
  refine g.congr (by rw [h.eq]) (by rw [h.eq]) (by rw [h.eq]) (fun p => by rw [h.eq]; rfl) (by rw [h.eq]) (by rw [h.eq])
    (fun k hk => h.reg _ _ _ fun j e => ?_) fun n hn => h.reg _ _ _ fun j e => ?_
  · have e : 0x2400000 + k * 0x4000 + 0 * 1 = 0x3e01000 + 0 * 1 + j * 8 := e
    omega
  · have e : 0x2000100 + 0 * 1 + n * 8 = 0x3e01000 + 0 * 1 + j * 8 := e
    omega

theorem only_regs {s t : State} (h : t = { s with regs := t.regs }) (r : List (Nat × W64)) :
    { t with regs := r } = { s with regs := r } := by
  rw [h]

theorem perfCount_perf {s t : State} (h : OnlyPerf s t) (n k : Nat) : OnlyPerf s (perfCount t .dbgMem n k) := by
  unfold perfCount
  split
  · refine ⟨only_regs h.eq _, rset_wf _ _ _ _ h.wf, fun r i m hr => ?_⟩
    rw [rget_rmod_other _ h.wf (hr n), h.reg r i m hr]
  · exact h

theorem countLines_perf {s : State} (hw : smapWf regDefault s.regs = true) (cells : List (Nat × Byte)) :
    OnlyPerf s (countLines s cells) := by
  unfold countLines
  generalize List.foldl _ ([] : List Nat) cells = l
  have key : ∀ t, OnlyPerf s t → OnlyPerf s (l.foldl (fun s l =>
      perfCount s .dbgMem (4 * (ctrlOf s (64 * l)).1 + if unitCovered s cells (64 * l) then 1 else 2) 1) t) := by
    induction l with
    | nil => exact fun t h => h
    | cons a u ih => exact fun t h => ih _ (perfCount_perf h _ _)
  exact key s ⟨rfl, hw, fun _ _ _ _ => rfl⟩

/-- A write that can meet no storage error writes every byte. -/
theorem devWriteN_good {s : State} (h : StorageGood s) (hw : smapWf regDefault s.regs = true) (m : Master)
    (cells : List (Nat × Byte)) : devWriteN m s cells = (putNoted m (countLines s cells) cells, none, cells.length) := by
  have g := (countLines_perf hw cells).good h
  unfold devWriteN
  rw [noteWipes_good h]
  dsimp only
  rw [if_pos]
  simp only [g.mem, g.gal, g.ctrl, Bool.and_eq_true, List.all_eq_true]
  exact ⟨⟨⟨rfl, rfl⟩, fun x hx => by rw [g.lines x hx]; rfl⟩, fun c _ => by simp⟩

theorem devWrite_good {s : State} (h : StorageGood s) (hw : smapWf regDefault s.regs = true) (m : Master)
    (cells : List (Nat × Byte)) : devWrite m s cells = (putNoted m (countLines s cells) cells, none) := by
  unfold devWrite
  rw [devWriteN_good h hw]

/-- The byte of a cell list that is written last at an address. -/
def cellAt (cells : List (Nat × Byte)) (a : Nat) : Option Byte := (cells.find? fun c => c.1 = a).map (·.2)

theorem xor_lt_16 {a b : Nat} (ha : a < 16) (hb : b < 16) : a ^^^ b < 16 := Nat.xor_lt_two_pow (n := 4) ha hb

theorem galBank_lt (w : W64) (o : Nat) : galBank w o < 16 := by
  unfold galBank
  have hm : ∀ x, x % 16 < 16 := fun x => Nat.mod_lt _ (by decide)
  dsimp only
  split <;> split <;> (repeat' first | apply xor_lt_16 | apply hm)

/-- Two offsets of one gallery at one row and byte lie in one bank only when they are one offset. -/
theorem galBank_inj {w : W64} {o p : Nat} (ho : o < 2 ^ 24) (hp : p < 2 ^ 24) (hr : o % 2 ^ 20 = p % 2 ^ 20)
    (hb : galBank w o = galBank w p) : o = p := by
  have e1 : o / 64 % 16 = p / 64 % 16 := by omega
  have e2 : o / 2 ^ 10 % 16 = p / 2 ^ 10 % 16 := by omega
  have e3 : o / 2 ^ 14 % 16 = p / 2 ^ 14 % 16 := by omega
  have hm : ∀ x, x % 16 < 16 := fun x => Nat.mod_lt _ (by decide)
  have hx : o / 2 ^ 20 % 16 = p / 2 ^ 20 % 16 := by
    unfold galBank at hb
    rw [e1, e2, e3] at hb
    have cancel : ∀ u v z : Nat, u ^^^ z = v ^^^ z → u = v := fun u v z h => by
      have := congrArg (· ^^^ z) h
      simpa [Nat.xor_assoc] using this
    have cancel' : ∀ u v z : Nat, z ^^^ u = z ^^^ v → u = v := fun u v z h => by
      rw [Nat.xor_comm z u, Nat.xor_comm z v] at h
      exact cancel u v z h
    dsimp only at hb
    split at hb <;> split at hb <;> (repeat (first | exact cancel' _ _ _ hb | replace hb := cancel _ _ _ hb))
  omega

theorem memTop_le (s : State) : memTop s ≤ 30 * 2 ^ 30 * 48 := by
  unfold memTop
  apply Nat.mul_le_mul_left
  unfold ctrlsInService
  exact (List.length_filter_le _ _).trans (by simp)

/-- A byte of storage belongs to one address. -/
theorem byteKey_inj {s : State} {a b k : Nat} (ha : byteKey s a = some k) (hb : byteKey s b = some k) : a = b := by
  have hT := memTop_le s
  have gal : ∀ {c : Nat}, byteKey s c = some k → ¬ c < memTop s → ∃ (n o : Nat) (p : Fin 72),
      galOf c = some (n, o) ∧ physOf s n = some p ∧ k = galKey p.val (galBank (s.rget .vtrSwz 0 n) o) o := by
    intro c hc hn
    unfold byteKey at hc
    rw [if_neg hn] at hc
    split at hc
    · rename_i n o hg
      split at hc
      · rename_i p hp
        cases hc
        exact ⟨n, o, p, hg, hp, rfl⟩
      · cases hc
    · cases hc
  have low : ∀ {c : Nat}, byteKey s c = some k → c < memTop s → k = c := by
    intro c hc hn
    unfold byteKey at hc
    rw [if_pos hn] at hc
    cases hc
    rfl
  by_cases h1 : a < memTop s <;> by_cases h2 : b < memTop s
  · rw [← low ha h1, ← low hb h2]
  · obtain ⟨n, o, p, -, -, e⟩ := gal hb h2
    have := low ha h1
    unfold galKey at e
    omega
  · obtain ⟨n, o, p, -, -, e⟩ := gal ha h1
    have := low hb h2
    unfold galKey at e
    omega
  · obtain ⟨n, o, p, hg, hp, e⟩ := gal ha h1
    obtain ⟨n', o', p', hg', hp', e'⟩ := gal hb h2
    have l1 := galBank_lt (s.rget .vtrSwz 0 n) o
    have l2 := galBank_lt (s.rget .vtrSwz 0 n') o'
    have ee := e.symm.trans e'
    unfold galKey at ee
    have hpp : p = p' := by apply Fin.ext; omega
    subst hpp
    have hnn : n = n' := by
      unfold physOf at hp hp'
      have a1 := List.find?_some hp
      have a2 := List.find?_some hp'
      simp only [decide_eq_true_eq] at a1 a2
      exact a1.2.symm.trans a2.2
    subst hnn
    obtain ⟨w1, u1, v1⟩ := galOf_some hg
    obtain ⟨w2, u2, v2⟩ := galOf_some hg'
    have hoo := galBank_inj (w := s.rget .vtrSwz 0 n) (o := o) (p := o') (by rw [v1]; exact Nat.mod_lt _ (by decide))
      (by rw [v2]; exact Nat.mod_lt _ (by decide)) (by omega) (by omega)
    omega

theorem byteKey_putCells (cells : List (Nat × Byte)) : ∀ (s : State) (a : Nat), byteKey (putCells s cells) a = byteKey s a := by
  induction cells with
  | nil => exact fun _ _ => rfl
  | cons c t ih =>
    intro s a
    show byteKey (putCells (putByte s c.1 c.2) t) a = _
    rw [ih, byteKey_putByte]

/-- What a run of writes leaves: at each address the byte written there, at every other address what stood there. -/
theorem byteAt_putCells (cells : List (Nat × Byte)) : ∀ {s : State}, memWf s.mem = true →
    (∀ c ∈ cells, byteKey s c.1 ≠ none) → cells.Pairwise (fun x y => x.1 ≠ y.1) → ∀ a,
    byteAt (putCells s cells) a = (cellAt cells a).getD (byteAt s a) := by
  induction cells with
  | nil => exact fun _ _ _ _ => rfl
  | cons c t ih =>
    intro s hw hk hp a
    have hp' := List.pairwise_cons.mp hp
    show byteAt (putCells (putByte s c.1 c.2) t) a = _
    rw [ih (putByte_wf _ _ hw) (fun x hx => by rw [byteKey_putByte]; exact hk x (by simp [hx])) hp'.2]
    unfold cellAt
    by_cases hc : c.1 = a
    · have hn : t.find? (fun c => decide (c.1 = a)) = none := by
        rw [List.find?_eq_none]
        intro x hx
        have := hp'.1 x hx
        simp only [decide_eq_true_eq]
        exact fun e => this (hc.trans e.symm)
      rw [List.find?_cons_of_pos (by simp [hc]), hn]
      dsimp only [Option.map, Option.getD]
      subst hc
      cases hk2 : byteKey s c.1 with
      | none => exact absurd hk2 (hk c (by simp))
      | some k => exact byteAt_putByte_same _ hw hk2
    · rw [List.find?_cons_of_neg (by simp [hc])]
      congr 1
      cases hk2 : byteKey s c.1 with
      | none => exact absurd hk2 (hk c (by simp))
      | some k =>
        by_cases hka : byteKey s a = some k
        · exact absurd (byteKey_inj hk2 hka) hc
        · exact byteAt_putByte_other _ hw (by rw [hk2]; exact hka)

theorem noteOut_cores (m : Master) (s : State) (cells : List (Nat × Byte)) : noteOut m s cells = { s with cores := (noteOut m s cells).cores } := by
  unfold noteOut
  split <;> rfl

/-- What a write request leaves. -/
theorem byteAt_putNoted (m : Master) (cells : List (Nat × Byte)) {s : State} (hw : memWf s.mem = true)
    (hk : ∀ c ∈ cells, byteKey s c.1 ≠ none) (hp : cells.Pairwise fun x y => x.1 ≠ y.1) (a : Nat) :
    byteAt (putNoted m s cells) a = (cellAt cells a).getD (byteAt s a) := by
  have he := noteOut_cores m s cells
  have hs : SamePlaces s (noteOut m s cells) := by
    rw [he]
    exact ⟨rfl, rfl, fun _ _ => rfl⟩
  have hm : (noteOut m s cells).mem = s.mem := by rw [he]
  unfold putNoted
  rw [byteAt_putCells cells (by rw [hm]; exact hw) (fun c hc => by rw [hs.byteKey]; exact hk c hc) hp, byteAt_congr hs hm]

end Sys2Proof.Machine
end

