-- ==== Sys2Proof/Laws/Writes.lean ====
section
/-!
SUPPORT. Sys2Proof/Laws/Writes.lean: what a configuration write that is served does, once for every row that is such a write.
-/
namespace Sys2Proof.Machine

theorem dropWr_frame (s : State) (w : Writer) : ∃ l, dropWr s w = { s with latches := l } := by
  unfold dropWr setLatch
  split
  · exact ⟨_, rfl⟩
  · exact ⟨s.latches, rfl⟩

/-- A write that passes on takes effect where no wipe holds it and its accesses need not wait. -/
theorem passWrite_applies {s : State} {w : Writer} {x : PassedWrite} {num : W32} {port : Bool} (hw : s.cur.wipe = none)
    (hu : Unheld s (applyWrite s w x)) : passWrite s w x num port = applyWrite s w x := by
  have h1 : heldByWipe s x = false := by simp [heldByWipe, hw]
  have h2 : metNothing s (applyWrite s w x) = true := by simpa [metNothing, Unheld] using hu
  unfold passWrite
  dsimp only
  rw [h1, h2]
  rfl

/-- A write that is served at once reaches its register. -/
theorem regWrite_accepts {s : State} {w : Writer} {off size : Nat} {v : W64} (h : Writable w off s) (ha : alignedAccess off size = true) :
    regWrite w off size v s = acceptWrite s w off size v := by
  unfold regWrite hostWrite0
  cases w <;> simp [ha, h.runs]
  · obtain ⟨h1, h2, h3⟩ := h.host rfl
    simp [h1, h2]
    intro h4; simp [h3 h4]
  · intro hd; simp [h.port (.inl rfl)] at hd
  · intro hd; simp [h.port (.inr rfl)] at hd

/-- A served write that passes its latch has its effect. -/
theorem acceptWrite_applies {s : State} {w : Writer} {off size : Nat} {v : W64} {x : PassedWrite} {d : State}
    (hl : latchStep s w off size v = (d, some x)) (hd : ∃ l, d = { s with latches := l }) (hw : s.cur.wipe = none)
    (hu : Unheld s (applyWrite d w x)) : acceptWrite s w off size v = applyWrite d w x := by
  obtain ⟨l, hd⟩ := hd
  unfold acceptWrite
  rw [hl]
  dsimp only
  exact passWrite_applies (by rw [hd]; exact hw) (by unfold Unheld at *; rw [hu, hd])

theorem confSync_frame (l : List Nat) : ∀ s : State, ∃ f d r, confSync s l = { s with free := f, dbg := d, regs := r } := by
  induction l with
  | nil => exact fun s => ⟨s.free, s.dbg, s.regs, rfl⟩
  | cons n t ih =>
    intro s
    have h1 : ∃ f d r, confSync1 s n = { s with free := f, dbg := d, regs := r } := by
      unfold confSync1
      split
      · exact ⟨s.free, s.dbg, s.regs, rfl⟩
      · dsimp only
        split
        · exact ⟨_, _, _, rfl⟩
        · exact ⟨_, _, _, rfl⟩
    obtain ⟨f, d, r, h1⟩ := h1
    obtain ⟨f', d', r', h2⟩ := ih { s with free := f, dbg := d, regs := r }
    refine ⟨f', d', r', ?_⟩
    show confSync (confSync1 s n) t = _
    rw [h1, h2]

theorem memSync_frame (l : List Nat) : ∀ s : State, ∃ f d r, memSync s l = { s with free := f, dbg := d, regs := r } := by
  induction l with
  | nil => exact fun s => ⟨s.free, s.dbg, s.regs, rfl⟩
  | cons k t ih =>
    intro s
    have h1 : ∃ f d r, memSync1 s k = { s with free := f, dbg := d, regs := r } := by
      unfold memSync1
      dsimp only
      split
      · exact ⟨s.free, s.dbg, s.regs, rfl⟩
      · exact ⟨_, _, _, rfl⟩
    obtain ⟨f, d, r, h1⟩ := h1
    obtain ⟨f', d', r', h2⟩ := ih { s with free := f, dbg := d, regs := r }
    refine ⟨f', d', r', ?_⟩
    show memSync (memSync1 s k) t = _
    rw [h1, h2]

/-- A read of a register touches the count of free values and the counters that it brings up to date, and nothing else. -/
theorem regRead_frame (s : State) (r : RegName) (k n : Nat) :
    ∃ f d q, (regRead s r k n).2 = { s with free := f, dbg := d, regs := q } := by
  obtain ⟨f, d, q, hd⟩ := confSync_frame (confShown s r n) s
  obtain ⟨f', d', q', hm⟩ := memSync_frame (memShown r n) { s with free := f, dbg := d, regs := q }
  unfold regRead
  rw [hd, hm]
  dsimp only
  split
  · exact ⟨_, d', q', rfl⟩
  · exact ⟨f', d', q', rfl⟩

/-- A change whose record can be written is recorded, then made. -/
theorem withRecord_writes {s : State} (h : s.cur.logBad = false) (w : Writer) (size off : Nat) (old new : W64) (f : State → State) :
    withRecord s w size off old new f = f (logChange s w size off old new) := by
  unfold withRecord
  simp [h]

theorem takeEffect_recorded {s : State} {w : Writer} {r : RegName} {k n : Nat} (size : Nat) (v m : W64) (hl : s.cur.logBad = false)
    (hs : size = 8 ∨ size = 4) :
    takeEffect (dropWr s w) w ⟨r, k, n, false⟩ size (r.at k n) v m = regEffect (recorded s w r k n size v) w r k n v m := by
  obtain ⟨l, hd⟩ := dropWr_frame s w
  unfold takeEffect recorded
  dsimp only
  split
  · rfl
  · rw [withRecord_writes]
    · rcases hs with rfl | rfl <;> rfl
    · obtain ⟨f, d, q, h⟩ := regRead_frame (dropWr s w) r k n
      rw [h, hd]
      exact hl

/-- A served 4-byte write of a 32-bit register is recorded, then has its register's effect. -/
theorem write32_recorded {s : State} {w : Writer} {r : RegName} {k n : Nat} (v : W32) (h : Writable w (r.at k n) s)
    (hr : findReg (r.at k n) = some ⟨r, k, n, false⟩) (hw : r.info.width = 32) (ha : alignedAccess (r.at k n) 4 = true)
    (hu : Unheld s (regEffect (recorded s w r k n 4 (v.zeroExtend 64)) w r k n (v.zeroExtend 64) 0xFFFFFFFF)) :
    write32 w r k n v s = .next (summaryRise s
      (regEffect (recorded s w r k n 4 (v.zeroExtend 64)) w r k n (v.zeroExtend 64) 0xFFFFFFFF)) := by
  have hl : lower (v.zeroExtend 64 : W64) = v := by unfold lower; apply BitVec.eq_of_getLsbD_eq; intro i hi; simp [hi]; omega
  have hs : latchStep s w (r.at k n) 4 (v.zeroExtend 64) = (dropWr s w, some ⟨r.at k n, 4, v.zeroExtend 64⟩) := by
    unfold latchStep
    rw [if_pos rfl, hr]
    cases ifaceOf w <;> simp [hw]
  have hx : applyWrite (dropWr s w) w ⟨r.at k n, 4, v.zeroExtend 64⟩ =
      regEffect (recorded s w r k n 4 (v.zeroExtend 64)) w r k n (v.zeroExtend 64) 0xFFFFFFFF := by
    simp only [applyWrite, hl, plainWrite4, hr, takeEffect_recorded 4 _ _ h.log (.inr rfl)]
    rfl
  unfold write32
  rw [regWrite_accepts h ha, acceptWrite_applies hs (dropWr_frame s w) h.wipe (by rw [hx]; exact hu), hx]
  exact answer_same hu

/-- A served 8-byte write of a 64-bit register is recorded, then has its register's effect. -/
theorem write64_recorded {s : State} {w : Writer} {r : RegName} {k n : Nat} (v : W64) (h : Writable w (r.at k n) s)
    (hr : findReg (r.at k n) = some ⟨r, k, n, false⟩) (hw : r.info.width = 64) (ha : alignedAccess (r.at k n) 8 = true)
    (hu : Unheld s (regEffect (recorded s w r k n 8 v) w r k n v (BitVec.allOnes 64))) :
    write64 w r k n v s = .next (summaryRise s
      (regEffect (recorded s w r k n 8 v) w r k n v (BitVec.allOnes 64))) := by
  have hs : latchStep s w (r.at k n) 8 v = (dropWr s w, some ⟨r.at k n, 8, v⟩) := by
    unfold latchStep
    rw [if_neg (by decide)]
  have hx : applyWrite (dropWr s w) w ⟨r.at k n, 8, v⟩ = regEffect (recorded s w r k n 8 v) w r k n v (BitVec.allOnes 64) := by
    simp only [applyWrite, write8, hr, Option.filter, hw]
    exact takeEffect_recorded 8 v _ h.log (.inl rfl)
  unfold write64
  rw [regWrite_accepts h ha, acceptWrite_applies hs (dropWr_frame s w) h.wipe (by rw [hx]; exact hu), hx]
  exact answer_same hu

/-- The map holds each register of a one-register row at its place. -/
theorem findReg_single : ∀ r ∈ [RegName.corRetire, .layDtab, .memRetire, .zmzTopo, .dbgPmcCtl, .dbgObsSel, .acnCtxOp, .colPlanCtl,
    .rasAnnexCmd, .pwrCtl, .pwrReset, .curFwCmd, .curLcCmd, .curSvcCmd], findReg (r.at 0 0) = some ⟨r, 0, 0, false⟩ := by
  decide

theorem findReg_vtr : ∀ r ∈ [RegName.vtrOwn, .vtrSwz], ∀ n : Fin 64, findReg (r.at 0 n.val) = some ⟨r, 0, n.val, false⟩ := by
  decide

theorem findReg_genCtl : ∀ p : Fin 72, findReg (RegName.corVeGenCtl.at p.val 0) = some ⟨.corVeGenCtl, p.val, 0, false⟩ := by
  decide

theorem findReg_memCtl : ∀ k : Fin 48, findReg (RegName.memCtl.at k.val 0) = some ⟨.memCtl, k.val, 0, false⟩ := by decide

theorem findReg_port : ∀ r ∈ [RegName.zmzCtl, .zmzRole], ∀ j : Fin 16, findReg (r.at j.val 0) = some ⟨r, j.val, 0, false⟩ := by
  decide

/-- The record of a write touches the change log, the latches, the count of free values and the counters that its register's read brings
up to date, and nothing else. -/
theorem recorded_frame (s : State) (w : Writer) (r : RegName) (k n size : Nat) (v : W64) :
    ∃ l f d q g e, recorded s w r k n size v =
      { s with latches := l, free := f, dbg := d, regs := q, cur := { s.cur with log := g, seq := e } } := by
  obtain ⟨l, hd⟩ := dropWr_frame s w
  obtain ⟨f, d, q, hr⟩ := regRead_frame { s with latches := l } r k n
  unfold recorded
  rw [hd]
  dsimp only
  split
  · exact ⟨l, s.free, s.dbg, s.regs, s.cur.log, s.cur.seq, rfl⟩
  · rw [hr]
    exact ⟨l, f, d, q, _, _, rfl⟩

end Sys2Proof.Machine
end

