-- ==== Sys2Proof/WellFormed.lean ====
section
/-!
DEFINITION. Sys2Proof/WellFormed.lean: which commands the spec gives a form to: the ranges of their operands.  The machine is total
on the others too.
-/
namespace Sys2Proof

/-- The engine groups that have a FUNC 63 (R58). -/
def groupOk (g : BitVec 4) : Bool := ([1, 2, 4, 5, 6, 7, 8, 9] : List (BitVec 4)).contains g

/-- Rings 0 to 1,048,575 (R294). -/
def ringOk (r : Nat) : Bool := decide (r < 2 ^ 20)

/-- Naturally aligned accesses of 4 and 8 bytes within BAR0 (R13). -/
def accessOk (off size : Nat) : Bool := decide ((size = 4 ∨ size = 8) ∧ off % size = 0 ∧ off + size ≤ 2 ^ 26)

/-- A transaction of a type with 1 to 64 lines and as many bytes of data as its type carries (R331, R332). -/
def txnOk (ty : Nat) (t : Txn) : Bool :=
  decide (t.ttype.toNat = ty ∧ 1 ≤ t.len.toNat ∧ t.len.toNat ≤ 64) &&
    decide (t.data.length = match ty with
      | 1 | 9 => 64 * t.len.toNat
      | 3 => 32 * t.len.toNat
      | 5 => 64
      | _ => 0)

/-- What a link trains to: a width of R287 and a rate, with Flit Mode where the rate needs it. -/
def linkOk (width rate : Nat) (flit : Bool) : Bool :=
  decide (width ∈ [1, 2, 4, 8, 16]) && decide (1 ≤ rate ∧ rate ≤ 7) && (flit || decide (rate ≤ 5))

/-- Opcodes that act as BYPASS: 0xFF and those that R458 does not list. -/
def bypassOk (op : Byte) : Bool := !([1, 2, 3, 4, 5, 6, 7, 0x40] : List Byte).contains op

/-- Whether a command's operands are those that its row has. -/
def Instr.wellFormed : Instr → Bool
  | .engineNop _ g => groupOk g
  | .ringRegister r _ => ringOk r
  | .ringFree r _ => ringOk r
  | .freeComplete e => decide (e < 65536)
  | .descCreate r _ => ringOk r
  | .descDestroy r _ => ringOk r
  | .uploadImage r _ => ringOk r
  | .runProgram r _ => ringOk r
  | .ringCopy r _ => ringOk r
  | .copyIn r _ => ringOk r
  | .copyOut r _ => ringOk r
  | .ringAbort r _ => ringOk r
  | .ringNop r _ => ringOk r
  | .commandDone r _ => ringOk r
  | .itrExpire v => decide (v < 2048)
  | .doorbell off size value poison => decide (off < 2 ^ 23 ∧ 0 < size) && (!poison || value.isSome)
  | .entryFetch r => ringOk r
  | .ringDisabled r => ringOk r
  | .bar0Read off size => accessOk off size
  | .configWrite w off size v poison =>
    accessOk off size && (decide (size = 8) || decide (v.toNat < 2 ^ 32)) && (!poison || decide (w = .bar0))
  | .jtagSample cells => decide (cells.length = boundaryLen)
  | .jtagExtest cells => decide (cells.length = boundaryLen)
  | .jtagExtestPulse cells => decide (cells.length = boundaryLen)
  | .jtagExtestTrain cells => decide (cells.length = boundaryLen)
  | .bar4Read _ len => decide (1 ≤ len ∧ len ≤ 4096)
  | .bar4Write _ bytes _ => decide (1 ≤ bytes.length ∧ bytes.length ≤ 4096)
  | .dataFlit _ f _ => decide (f.slots.length = 31)
  | .write t => txnOk 1 t
  | .read t => txnOk 2 t
  | .acc t => txnOk 3 t
  | .signal t => txnOk 4 t
  | .stepTrailer t => txnOk 5 t
  | .gatherDone t => txnOk 5 t
  | .loanCommit t => txnOk 5 t
  | .ack t => txnOk 8 t
  | .readData t => txnOk 9 t
  | .errorResponse t => txnOk 10 t
  | .railFault rail kind => decide (rail ≤ 15 ∧ kind ≤ 2)
  | .getCertificate _ slot => decide (slot ≤ 7)
  | .challenge _ slot => decide (slot ≤ 7)
  | .getMeasurements _ l _ => l.all fun i => decide (1 ≤ i ∧ i ≤ 254)
  | .jtagDbgAccess off => decide (off.toNat % 8 = 0)
  | .jtagBypass op => bypassOk op
  | .perstDeassert w r f => linkOk w r f
  | .resizableBarControlWrite n => decide (n ≤ 63)
  | .nop _ _ | .b _ _ | .bcc _ _ | .call _ _ | .ret _ _ | .loop _ _ | .loopi _ _ | .halt _ _ | .sadd _ _
  | .ssub _ _ | .smul _ _ | .sand _ _ | .sor _ _ | .sxor _ _ | .sshl _ _ | .sshr _ _ | .ssra _ _ | .smin _ _
  | .smax _ _ | .scmp _ _ | .smovi _ _ | .smovhi _ _ | .saddi _ _ | .sfadd _ _ | .sfmul _ _ | .sffma _ _
  | .sfmin _ _ | .sfmax _ _ | .sfcvt _ _ | .sld _ _ | .sst _ _ | .sflag _ _ | .skadd _ _ | .skrd _ _ | .sid _ _
  | .sstat _ _ | .svget _ _ | .mloads _ _ | .mswap _ _ | .mprod _ _ | .msegt _ _ | .mcsum _ _ | .mabclr _ _
  | .vadd _ _ | .vsub _ _ | .vmul _ _ | .vfma _ _ | .vfms _ _ | .vmin _ _ | .vmax _ _ | .vabs _ _ | .vneg _ _
  | .vcmp _ _ | .vsel _ _ | .vand _ _ | .vor _ _ | .vxor _ _ | .vshl _ _ | .vshr _ _ | .vmov _ _ | .vcvt _ _
  | .vrng _ _ | .sparsify _ _ | .vld _ _ | .vst _ _ | .vldw _ _ | .vldab _ _ | .vstab _ _ | .vperm _ _
  | .vslide _ _ | .vbcast _ _ | .vred _ _ | .vscan _ _ | .vseq _ _ | .vlut _ _ | .twr _ _ | .tswap _ _ | .vchld _ _
  | .vzmap _ _ | .vcsr _ _ | .vmset _ _ | .ffun _ _ | .fstat _ _ | .fstrd _ _ | .fstclr _ _ | .ccopy _ _
  | .ctrans _ _ | .cfill _ _ | .cabout _ _ | .cpbkt _ _ | .cpsig _ _ | .cpput _ _ | .cpacc _ _ | .cpgath _ _
  | .chainGroup _ | .pronkRampDown _ | .pronkGate _ | .waitSatisfied _ _ | .instructionRelease _ _
  | .instructionComplete _ _ | .waitTimeout _ _ | .coreFinished _ | .dispatchStop _ | .corRetire _ _
  | .retirementTakesEffect | .reseed _ _ _ | .reseedAtIdle _ | .freeRunningStep | .handover _ _ _
  | .handoverWipeDone _ | .swizzleWrite _ _ _ | .patrolScrub | .layDtabWrite _ _ | .hostCompletion _ _
  | .completionTimeoutValueWrite _
  | .hostTimeout _ | .ringEnable _ _ | .ringDisable _ _ | .flr | .tagWaitExpire | .perstAssert | .d3hot | .d0Return
  | .l1Exit | .doeDiscovery _ | .refreshRateUpdate _ _ _ | .memClockLost | .memClockReturn _ | .reinit _ _ _
  | .reinitDone _ | .memRetire _ _ | .accumulatorOp | .nullFlit _ _ _ | .ctrlFlit _ _ _ _ | .nakResend _
  | .ackStall _ | .codewordLockLost _ | .laneFail _ _ | .trainingAttempt _ _ _ | .retrainTimeout _ | .downRetry _
  | .portReset _ _ _ | .roleWrite _ _ _ | .fill _ _ | .route _ | .respTimeout _ | .retryResend | .colTimeout
  | .planLoad _ _ | .planUnload _ _ | .syntLock _ | .syntLost _ | .syntHoldoverExpire | .d06SourceLost
  | .timeExchangeStart | .timeReq _ _ _ _ | .timeResp _ _ _ _ _ _ | .riskUpdate | .snapshotComplete _
  | .annexRestore _ _ | .annexErase _ _ | .annexCommandDone _ | .powerOn _ _ | .oscDelayExpire _ _ | .computeReady
  | .pwrEnFall | .reqRun _ | .reqSleep _ | .reqDeep _ | .reqOff _ | .powerStateEntered | .wakeComplete | .uvWarn _
  | .undervolt _ | .inputOvervoltage | .inputOvercurrent | .junctionSample _ | .capCheck _ _ | .dutyRaise _ _
  | .droop _ | .clkSrcLost _ | .clockSourceReturn | .alwaysOnLoss | .warm _ | .queueReset _ _ | .fwRecover _ _
  | .fwUpdate _ _ | .lifecycle _ _ | .unretireCore _ _ | .unretireCtrl _ _ | .tamper _ | .wipeDone | .getVersion _
  | .getCapabilities _ | .negotiateAlgorithms _ | .getDigests _ | .read4 _ _ _ | .read8 _ _ _ | .write4 _ _ _ _ _
  | .write8 _ _ _ _ _ | .readChangeLogRecord _ _ _ | .mgmtHoldTimeout _ | .enec | .disec | .rstdaa | .entdaa _
  | .setdasa _ _ | .getpid | .getbcr | .getdcr | .getstatus | .getmxds | .rstact _ | .ptpSync _ _ _ _
  | .ptpFollowUp _ _ _ | .ptpDelayResp _ _ _ _ | .ptpAnnounce _ _ _ | .timeHoldover | .timeValidExpire
  | .telemetrySnapshot | .errMsgIntervalExpire _ | .pmcSnap _ _ | .pmcClear _ _ | .pmcInstant | .obsSelect _ _
  | .tapReset | .jtagIdcode | .jtagClamp | .jtagHighz | .flrComplete | .d06SlewComplete | .droopRecovery _ | .tilwenTestAccess
  | .bootFlashWriteDone _ => true

end Sys2Proof
end

