-- ==== Sys2Proof/Tests/Slice0.lean ====
section
/-!
SUPPORT. Sys2Proof/Tests/Slice0.lean: ill-formed commands, the spec's worked examples, and for every statement states and
operands that meet its hypotheses.
-/
namespace Sys2Proof.Tests
open Sys2Proof.Machine
set_option Elab.async false

/-! ## Ill-formed commands: one for each check -/

theorem test_wf_core_and_ring : ([.engineNop ⟨0, 0, 0⟩ 3, .ringRegister (2 ^ 20) 0, .ringFree (2 ^ 20) 0, .freeComplete 65536,
    .descCreate (2 ^ 20) 0, .descDestroy (2 ^ 20) 0, .uploadImage (2 ^ 20) 0, .runProgram (2 ^ 20) 0, .ringCopy (2 ^ 20) 0,
    .copyIn (2 ^ 20) 0, .copyOut (2 ^ 20) 0, .ringAbort (2 ^ 20) 0, .ringNop (2 ^ 20) 0, .commandDone (2 ^ 20) 0, .itrExpire 2048,
    .doorbell (2 ^ 23) 4 none false, .doorbell 0 0 none false, .doorbell 0 4 none true, .entryFetch (2 ^ 20), .ringDisabled (2 ^ 20)] : List Instr).any Instr.wellFormed = false := by
  decide +kernel

theorem test_wf_accesses : ([.bar0Read 2 4, .bar0Read 4 8, .bar0Read (2 ^ 26) 4, .bar0Read 0 2, .configWrite .bar0 1 4 0 false, .configWrite .eth 0x10 4 0 true,
    .configWrite .bar0 0 4 (BitVec.ofNat 64 (2 ^ 32)) false, .bar4Read 0 0, .bar4Read 0 4097, .bar4Write 0 [] false,
    .perstDeassert 3 1 true, .perstDeassert 16 6 false, .perstDeassert 16 8 true,
    .resizableBarControlWrite 64] : List Instr).any Instr.wellFormed = false := by
  decide +kernel

theorem test_wf_fabric : ([.dataFlit 0 {} {}, .write { ttype := 1 }, .write { ttype := 1, len := 0 }, .read { ttype := 1 },
    .read { ttype := 2, len := 65 }, .acc { ttype := 3 }, .signal { ttype := 4, data := [0] }, .stepTrailer { ttype := 5 },
    .gatherDone { ttype := 5 }, .loanCommit { ttype := 4 }, .ack { ttype := 9 }, .readData { ttype := 9 },
    .errorResponse { ttype := 8 }] : List Instr).any Instr.wellFormed = false := by
  decide +kernel

theorem test_wf_management : ([.railFault 16 0, .railFault 1 3, .getCertificate true 8, .challenge true 8,
    .getMeasurements true [0] false, .getMeasurements true [255] false, .jtagDbgAccess 4, .jtagBypass 0x40,
    .jtagBypass 1, .jtagSample [], .jtagExtest [], .jtagExtestPulse [], .jtagExtestTrain [true]] : List Instr).any Instr.wellFormed = false := by
  decide +kernel

theorem test_wf_accepts : ([.engineNop ⟨0, 0, 0⟩ 9, .ringNop (2 ^ 20 - 1) 0, .bar0Read (2 ^ 26 - 8) 8, .bar4Read 0 4096,
    .write { ttype := 1, data := List.replicate 64 0 }, .acc { ttype := 3, data := List.replicate 32 0 },
    .perstDeassert 16 6 true, .jtagBypass 0xFF, .jtagDbgAccess 8] : List Instr).all Instr.wellFormed = true := by
  decide +kernel

/-! ## Worked examples of the spec -/

/-- R117: 2.5 becomes 2 under code 0 and 3 under code 2, and −2.5 becomes −2 under code 1. -/
theorem test_r117_integers : (convert .int32 .fp32 0 0 false 0x40200000).1 = 2 ∧
    (convert .int32 .fp32 2 0 false 0x40200000).1 = 3 ∧ (convert .int32 .fp32 1 0 false 0xC0200000).1 = 0 - 2 := by
  decide +kernel

/-- Stochastic rounding to BF16 (chapter 5). -/
theorem test_stochastic_bf16 : (convert .bf16 .fp32 4 0xD1A23C45 false 0x3F804000).1 = 0x3F81 ∧
    (convert .bf16 .fp32 4 0x2B000017 false 0x3F804000).1 = 0x3F80 := by
  decide +kernel

/-- One E4M3 row (chapter 5): −280 gives −288, 67.2 gives 64, 448 stays, −2.24 gives −2.25. -/
theorem test_e4m3_row : (convert .e4m3 .fp32 0 0 true 0xC38C0000).1 = 0xF9 ∧
    (convert .e4m3 .fp32 0 0 true 0x42866666).1 = 0x68 ∧ (convert .e4m3 .fp32 0 0 true 0x43E00000).1 = 0x7E ∧
    (convert .e4m3 .fp32 0 0 true 0xC00F5C29).1 = 0xC1 := by
  decide +kernel

/-- The tree of VRED is not the serial sum (chapter 6): 2^24, 1, 1 and −2^24 give 1. -/
theorem test_vred_tree :
    (reduceLanes ((((vPut (vPut (vPut (vPut (Core.reset 0 2) 1 0 0x4B800000) 1 1 0x3F800000) 1 2 0x3F800000) 1 3 0xCB800000))))
      { va := 1, vl := 4 } .fp32 (RedOp.ofCode 0) false id 0 9).1 = 0x3F800000 := by
  decide +kernel

/-- The check value of the lane generators (chapter 6). -/
theorem test_generator_check : (drawGen { Core.reset 0 2 with gen := [(0, 1)] } 0).1 = 0xA3BCA2D4 ∧
    (drawGen { Core.reset 0 2 with gen := [(0, 1)] } 0).2.gen = [(0, 0x5851F42D4C957F2E)] ∧ genOut 0 = 0 ∧ genStep 3 0 = 7 := by
  decide +kernel

/-- Four groups (chapter 9): 0.5, −2, 0, 0.5; 0, 0, 7, 0; −0, NaN, 1, ∞; zeros. -/
theorem test_sparsify_groups : keepPair .bf16 [0x3F00, 0xC000, 0, 0x3F00] = (0, 1) ∧
    keepPair .bf16 [0, 0, 0x40E0, 0] = (0, 2) ∧ keepPair .bf16 [0x8000, 0x7FC1, 0x3F80, 0x7F80] = (1, 3) ∧
    keepPair .bf16 [0, 0, 0, 0] = (0, 1) ∧ metaWord [0x4, 0x8, 0xD, 0x4] 0 = 0x4D84 := by
  decide +kernel

/-- Where gallery offsets land (chapter 10), with E1 and E2 at 1. -/
theorem test_gallery_banks : ([0, 0x40, 0x400, 0x440, 0x4000, 0x123456, 0xF00000, 0xF00040].map (galBank 3)) =
    [0, 1, 1, 0, 1, 5, 15, 14] := by
  decide +kernel

/-- Where three addresses are stored (chapter 12): controllers 5, 5 and 6, channels 11, 11 and 13. -/
theorem test_memory_map : ([0x123400, 0x1234C0, 0x123500].map fun a => (ctrlOf State.reset a).1 * 2 + (ctrlOf State.reset a).2) =
    [11, 11, 13] := by
  decide +kernel

/-- Two ways round a ring of 16 (chapter 14): from 3 to 13 the negative way, from 14 to 2 the positive way. -/
theorem test_shorter_way : fillEntry 3 16 13 = 2 ∧ fillEntry 14 16 2 = 1 ∧ fillEntry 9 16 9 = 0 ∧ fillEntry 3 16 11 = 1 ∧
    fillEntry 3 16 16 = 3 := by
  decide +kernel

/-- Identifiers of two modules (chapter 14): (3, 14, 9) and (13, 2, 9). -/
theorem test_module_ids : moduleId 3 14 9 = 0x25C3 ∧ moduleId 13 2 9 = 0x244D := by
  decide +kernel

/-- The accumulation of one chunk (chapter 15): 1 + 2^-24 + 2^-24 in FP32 is 1. -/
theorem test_accumulator_order : (accLine false (accLine false (accLine true [7] [0x3F80]) [0x3380]) [0x3380]) = [0x3F800000] := by
  decide +kernel

/-! ## States that the hypotheses are tried on -/

/-- The module in RUN, with its host link in D0 at 16 lanes and rate 6 in Flit Mode. -/
def runSt : State :=
  (setPwrState { State.reset with
      power := { State.reset.power with phase := 4, localOk := true, refclk := true, perst := false, link := some (16, 6, true) } } 2).rset
    .glbStatus 0 0 1

/-- A core in a dispatch with tag 7 and a code region of 4 KiB, of which its buffer holds the first and the last line: S1 = 5, S2 = −3, S3 and S4 in a buffer, S5 and S6 in its own
gallery, S8 = 1. -/
def busyCore : Core :=
  { Core.reset 0 2 with
      tag := 7
      ncores := 1
      extent := 0x1000
      ibuf := [(0, List.replicate 128 0), (31, List.replicate 128 0)]
      streams := (Vector.replicate 6 ({} : Stream)).set 0 { active := true }
      s := Vector.ofFn fun i => ([0, 5, 0 - 3, 0x10000, 0x10040, 0x800000000000, 0x800000000400, 0x10002, 1, 0x20000000] : List W64).getD i.val 0 }

/-- RUN with core 0 at work: an image in entry 100 and a writable buffer of 64 KiB at 0x10000 in entry 101. -/
def busySt : State :=
  let s := invPut (invPut runSt 100 { base := 0x100000, size := 0x2000, gen := 1, kind := 2 }) 101
    { base := 0x10000, size := 0x10000, gen := 1, kind := 1, wr := true }
  ({ s with host := { s.host with dispatches := [{ tag := 7, ring := 0, index := 0, image := 100, cores := [0] }] } }).setCore 0 busyCore

/-- Its core with another content. -/
def busyWith (f : Core → Core) : State := busySt.modCore 0 f

/-- The conditions of `StartsNow`, as one test. -/
def startsB (op : CoreOp) (args : Args) (k : Ctl) (g : Engine) (s : State) : Bool :=
  let c := s.core k.core
  domOn s 0 && canIssue c k.stream && hasLine c k.stream && eccFree c &&
  targetOk c (nextOffset c k.stream).2 && decide (opEngine op = some g) && (!c.pl12 || decide (k.stream = engIdx g)) &&
  syncOk k.sync && formOk op args && pl12RegsOk c (srcsOf op args) k.sync (destOf op args) && valuesOk (entryOf c op args k) &&
  !scoreboardHolds c k.stream (srcsOf op args) k.sync && decide (c.queues = Vector.replicate 6 []) && !syWaits k.sync &&
  !startHeld c g (entryOf c op args k)

theorem startsNow_of {op : CoreOp} {args : Args} {k : Ctl} {g : Engine} {s : State} (h : startsB op args k g s = true) :
    StartsNow op args k g s := by
  simp only [startsB, Bool.and_eq_true, decide_eq_true_eq, Bool.not_eq_true', Bool.or_eq_true] at h
  obtain ⟨⟨⟨⟨⟨⟨⟨⟨⟨⟨⟨⟨⟨⟨h1, h2⟩, h3⟩, h4⟩, h5⟩, h6⟩, h7⟩, h8⟩, h9⟩, h10⟩, h11⟩, h12⟩, h13⟩, h14⟩, h15⟩ := h
  exact ⟨⟨h1, h2, h3, h4, h5⟩, h6, fun hp => h7.resolve_left (by simp [hp]), h8, h9, h10, h11, h12, h13, h14, h15⟩

/-- The conditions of `ControlReady`, as one test. -/
def controlB (op : CoreOp) (k : Ctl) (o : OpS) (s : State) : Bool :=
  let c := s.core k.core
  domOn s 0 && canIssue c k.stream && hasLine c k.stream && eccFree c && decide (k.sync = 0) &&
  formOk op (.s o) && pl12RegsOk c (srcsOf op (.s o)) 0 none && !scoreboardHolds c k.stream (srcsOf op (.s o)) 0

theorem controlReady_of {op : CoreOp} {k : Ctl} {o : OpS} {s : State} (h : controlB op k o s = true) : ControlReady op k o s := by
  simp only [controlB, Bool.and_eq_true, decide_eq_true_eq, Bool.not_eq_true'] at h
  obtain ⟨⟨⟨⟨⟨⟨⟨h1, h2⟩, h3⟩, h4⟩, h5⟩, h6⟩, h7⟩, h8⟩ := h
  exact ⟨h1, h2, h3, h4, h5, h6, h7, h8⟩

/-- The control word of core 0. -/
def k0 : Ctl := ⟨0, 0, 0⟩

/-- Operands of format S, one set of which every row of the SU and the front end accepts. -/
def sForms : List OpS :=
  [{ rd := 7, ra := 1, rb := 2 }, { rd := 7, ra := 1 }, { rd := 7 }, { ra := 3, rb := 2 }, { imm := 32 }, { rd := 7, imm := 1 },
   { pa := true, ra := 1, imm := 32 }, {}]

/-- Operands of format V. -/
def vForms : List OpV :=
  [{ vd := 1, va := 2, vb := 3 }, { vd := 1, va := 2, vb := 3, vc := 4 }, { vd := 1, va := 2 }, { vd := 1, va := 2, type := 7 },
   { vd := 1, va := 2, vb := 3, mskEn := true, msk := 7 }, { vd := 1, va := 2, vb := 3, type := 7 }, { vd := 1, fx := 1 },
   { vd := 1, vb := 3 }, { va := 2, vb := 3 }, { vd := 1, va := 2, vc := 3 }, { vd := 1, vb := 8 }, { va := 2, vb := 8 },
   { va := 2, vl := 256 }, {}, { fx := 1 }, { vb := 5, fx := 31 }, { va := 2, vb := 3, vc := 8 }, { vd := 1, va := 2, fx := 4095 },
   { vd := 1 }, { va := 2 }, { vb := 1, fx := 4090 }]

/-- Operands of formats M and D. -/
def mForms : List OpM :=
  [{}, { sa := 5, wfmt := 1 }, { sa := 5, sn := 8, wfmt := 1, afmt := 1 }, { sa := 5, sn := 1 }, { abr := 4095 }, { sn := 1 }]

def dForms : List OpD :=
  [{ sd := 1, ss := 2 }, { sd := 1, so := 2 }, { sd := 1, so := 1, sx := 1 }, { sd := 1, ss := 2, so := 3 },
   { ss := 2, so := 1, sx := 3 }, { sd := 1, ss := 2, fx := 5 }, { sd := 9 }, { ss := 2, sx := 3 }]

/-! ## The machine as a whole -/

theorem test_witness_IdleStepIsClock : (runSt.rset .dbgPmcCtl 0 0 0).pending = [] ∧
    bitB ((runSt.rset .dbgPmcCtl 0 0 0).rget .dbgPmcCtl 0 0) 31 = false := by
  decide +kernel

theorem test_witness_CanonicalKept_LifeCycleKept : Canonical busySt ∧ OpLegal busySt.cur := by
  refine ⟨⟨?_, ?_⟩, ?_⟩
  · exact (by decide +kernel : memWf busySt.mem = true)
  · exact (by decide +kernel : smapWf regDefault busySt.regs = true)
  · intro o h
    rw [show busySt.cur.lcOp = none by decide +kernel] at h
    cases h

theorem test_queue_order : step { runSt with pending := [.nakResend 3, .enec] } =
    exec (.nakResend 3) { runSt with pending := [.enec] } := rfl

/-! ## Instructions: every row of the tables starts on core 0 -/

theorem test_witness_ScalarIntRows : ∀ r ∈ suIntRows, ∃ o, StartsNow r.2.1 (.s o) k0 .su busySt := fun r h =>
  let ⟨o, _, ho⟩ := List.any_eq_true.1 (List.all_eq_true.1 (by decide +kernel :
    suIntRows.all (fun r => sForms.any fun o => startsB r.2.1 (.s o) k0 .su busySt) = true) r h)
  ⟨o, startsNow_of ho⟩

theorem test_witness_ScalarFpRows : ∀ r ∈ suFpRows, ∃ o, StartsNow r.2.1 (.s o) k0 .su busySt := fun r h =>
  let ⟨o, _, ho⟩ := List.any_eq_true.1 (List.all_eq_true.1 (by decide +kernel :
    suFpRows.all (fun r => sForms.any fun o => startsB r.2.1 (.s o) k0 .su busySt) = true) r h)
  ⟨o, startsNow_of ho⟩

theorem test_witness_ScalarOtherRows : (∀ r ∈ suOtherRows, ∃ o, StartsNow r.2.1 (.s o) k0 .su busySt) ∧
    StartsNow (.engineNop 9) .none k0 .cp busySt := ⟨fun r h =>
  let ⟨o, _, ho⟩ := List.any_eq_true.1 (List.all_eq_true.1 (by decide +kernel :
    suOtherRows.all (fun r => sForms.any fun o => startsB r.2.1 (.s o) k0 .su busySt) = true) r h)
  ⟨o, startsNow_of ho⟩, startsNow_of (by decide +kernel)⟩

theorem test_witness_VectorElemRows : ∀ r ∈ vecElemRows, ∃ o, StartsNow r.2.1 (.v o) k0 .ve busySt := fun r h =>
  let ⟨o, _, ho⟩ := List.any_eq_true.1 (List.all_eq_true.1 (by decide +kernel :
    vecElemRows.all (fun r => vForms.any fun o => startsB r.2.1 (.v o) k0 .ve busySt) = true) r h)
  ⟨o, startsNow_of ho⟩

theorem test_witness_VectorCoreRows : ∀ r ∈ vecCoreRows, ∃ o, StartsNow r.2.1 (.v o) k0 .ve busySt := fun r h =>
  let ⟨o, _, ho⟩ := List.any_eq_true.1 (List.all_eq_true.1 (by decide +kernel :
    vecCoreRows.all (fun r => vForms.any fun o => startsB r.2.1 (.v o) k0 .ve busySt) = true) r h)
  ⟨o, startsNow_of ho⟩

theorem test_witness_VectorFoldRows : (∀ r ∈ vecFoldRows, ∃ o, StartsNow r.2.1 (.v o) k0 .ve busySt) ∧
    StartsNow .vcmp (.v { vd := 7, va := 2, vb := 3, fx := 7, type := 1, vl := 512 }) k0 .ve busySt := ⟨fun r h =>
  let ⟨o, _, ho⟩ := List.any_eq_true.1 (List.all_eq_true.1 (by decide +kernel :
    vecFoldRows.all (fun r => vForms.any fun o => startsB r.2.1 (.v o) k0 .ve busySt) = true) r h)
  ⟨o, startsNow_of ho⟩, startsNow_of (by decide +kernel)⟩

/-- An entry of each format that some row accepts. -/
theorem test_witness_EngineRowsStart : ∀ op ∈ ([.mloads, .mswap, .mprod, .msegt, .mcsum, .mabclr] : List CoreOp), ∃ o,
    StartsNow op (.m o) k0 .me busySt := fun op h =>
  let ⟨o, _, ho⟩ := List.any_eq_true.1 (List.all_eq_true.1 (by decide +kernel :
    ([.mloads, .mswap, .mprod, .msegt, .mcsum, .mabclr] : List CoreOp).all (fun op => mForms.any fun o =>
      startsB op (.m o) k0 .me busySt) = true) op h)
  ⟨o, startsNow_of ho⟩

theorem test_witness_copy_port_rows : ∀ r ∈ ([(.ccopy, .ce), (.ctrans, .ce), (.cfill, .ce), (.cabout, .ce), (.vcsr, .ve),
    (.cpbkt, .cp), (.cpsig, .cp), (.cpput, .cp), (.cpacc, .cp), (.cpgath, .cp)] : List (CoreOp × Engine)), ∃ o,
    StartsNow r.1 (.d o) k0 r.2 busySt := fun r h =>
  let ⟨o, _, ho⟩ := List.any_eq_true.1 (List.all_eq_true.1 (by decide +kernel :
    ([(.ccopy, .ce), (.ctrans, .ce), (.cfill, .ce), (.cabout, .ce), (.vcsr, .ve), (.cpbkt, .cp), (.cpsig, .cp), (.cpput, .cp),
      (.cpacc, .cp), (.cpgath, .cp)] : List (CoreOp × Engine)).all (fun r => dForms.any fun o =>
      startsB r.1 (.d o) k0 r.2 busySt) = true) r h)
  ⟨o, startsNow_of ho⟩

theorem test_witness_ve_sf_rows : ∀ r ∈ ([(.vld, .ve), (.vst, .ve), (.vldw, .ve), (.vseq, .ve), (.vchld, .ve), (.vzmap, .ve),
    (.sparsify, .ve), (.ffun, .sf), (.fstat, .sf), (.fstrd, .sf), (.fstclr, .sf)] : List (CoreOp × Engine)), ∃ o,
    StartsNow r.1 (.v o) k0 r.2 busySt := fun r h =>
  let ⟨o, _, ho⟩ := List.any_eq_true.1 (List.all_eq_true.1 (by decide +kernel :
    ([(.vld, .ve), (.vst, .ve), (.vldw, .ve), (.vseq, .ve), (.vchld, .ve), (.vzmap, .ve), (.sparsify, .ve), (.ffun, .sf),
      (.fstat, .sf), (.fstrd, .sf), (.fstclr, .sf)] : List (CoreOp × Engine)).all (fun r => vForms.any fun o =>
      startsB r.1 (.v o) k0 r.2 busySt) = true) r h)
  ⟨o, startsNow_of ho⟩

/-! ## Instructions: the hypotheses beyond the start -/

/-- No storage error, as one test. -/
def goodB (s : State) : Bool :=
  decide (s.memErr = []) && decide (s.galErr = []) && decide (s.vit.l2 = []) &&
  ((List.finRange 72).all fun p => decide ((s.core p).l1Err = [])) &&
  ((List.range 48).all fun k => decide (bitsN (s.rget .memStatus k 0) 0 3 ≠ 3 ∧ bitsN (s.rget .memStatus k 0) 0 3 ≠ 4)) &&
  s.power.memClk && (List.range 64).all fun n => !bitB (s.rget .vtrOwn 0 n) 30

theorem storageGood_of {s : State} (h : goodB s = true) : StorageGood s := by
  simp only [goodB, Bool.and_eq_true, decide_eq_true_eq, List.all_eq_true, List.mem_range, List.mem_finRange, forall_const,
    Bool.not_eq_true'] at h
  obtain ⟨⟨⟨⟨⟨⟨h1, h2⟩, h3⟩, h4⟩, h5⟩, h6⟩, h7⟩ := h
  exact ⟨h1, h2, fun x hx => absurd (h3 ▸ hx) (List.not_mem_nil), h4,
    fun a => (by have := h5 _ (ctrlOf_lt s a); simp [ctrlLost, this]), h6, h7⟩

theorem l1Coherent_of {p : Fin 72} {s : State} (h : (s.core p).l1 = []) : L1Coherent p s := by
  intro e he; rw [h] at he; cases he

theorem canonical_of {s : State} (h : (memWf s.mem && smapWf regDefault s.regs) = true) : Canonical s := by
  rw [Bool.and_eq_true] at h; exact h

/-- Every control-flow row has a state and operands that leave a stream. -/
theorem test_witness_ControlRows : ∀ r ∈ controlRows, ∃ o s x, ControlReady r.2.1 k0 o s ∧ r.2.2 (s.core 0) k0 o = some x :=
  fun r h => by
    have := List.all_eq_true.1 (by decide +kernel :
      controlRows.all (fun r => sForms.any fun o => controlB r.2.1 k0 o
        (busyWith fun c => setStream c 0 { streamOf c 0 with rets := [0x20] }) &&
        (r.2.2 ((busyWith fun c => setStream c 0 { streamOf c 0 with rets := [0x20] }).core 0) k0 o).isSome) = true) r h
    obtain ⟨o, _, ho⟩ := List.any_eq_true.1 this
    rw [Bool.and_eq_true] at ho
    obtain ⟨x, hx⟩ := Option.isSome_iff_exists.1 ho.2
    exact ⟨o, _, x, controlReady_of ho.1, hx⟩

theorem test_witness_halt : ControlReady .halt k0 {} busySt := controlReady_of (by decide +kernel)

/-- And operands, at the last instruction of the region, that leave none. -/
theorem test_witness_ControlFaults : ∀ r ∈ controlRows, ∃ o s, ControlReady r.2.1 k0 o s ∧ (s.core 0).frec.valid = false ∧
    r.2.2 (s.core 0) k0 o = none :=
  fun r h => by
    have := List.all_eq_true.1 (by decide +kernel :
      controlRows.all (fun r => sForms.any fun o => controlB r.2.1 k0 o
        (busyWith fun c => setStream c 0 { streamOf c 0 with pc := 0xFF0 }) &&
        (r.2.2 ((busyWith fun c => setStream c 0 { streamOf c 0 with pc := 0xFF0 }).core 0) k0 o).isNone) = true) r h
    obtain ⟨o, _, ho⟩ := List.any_eq_true.1 this
    rw [Bool.and_eq_true] at ho
    exact ⟨o, _, controlReady_of ho.1, by decide +kernel, Option.isNone_iff_eq_none.1 ho.2⟩

theorem test_witness_ElementWalk : ETy.int32 ∈ [ETy.fp32, .bf16, .fp16, .int32] ∧ smapWf (fun _ => (0 : W32)) busyCore.v = true := by
  decide +kernel

theorem test_witness_Vperm_Vmset : StartsNow .vperm (.v { vd := 1, va := 2, vb := 3 }) k0 .ve busySt ∧
    smapWf (fun _ => (0 : W32)) (busySt.core 0).v = true ∧ tyIs ty32 (1 : BitVec 4) = false ∧
    StartsNow .vmset (.v { vd := 7, vb := 8, fx := 4 }) k0 .ve busySt :=
  ⟨startsNow_of (by decide +kernel), by decide +kernel, by decide +kernel, startsNow_of (by decide +kernel)⟩

/-- Loads and stores of the last 8 bytes of the buffer; a misaligned place and one outside every allocation. -/
theorem test_witness_ScalarAccessRows :
    let o : OpS := { rd := 7, ra := 3, sz := 3, imm := 0xFFF8 }
    StartsNow .sld (.s o) k0 .su busySt ∧ StartsNow .sst (.s { o with rd := 0, rb := 2 }) k0 .su busySt ∧ StorageGood busySt ∧
    L1Coherent 0 busySt ∧ Canonical busySt ∧
    (let a := ((issuedEntry .sld (.s o) k0 busySt).a + o.imm.signExtend 64).toNat
     a % 8 = 0 ∧ liveSpan busySt 0x1FFF8 8 = true ∧ writableSpan busySt 0x1FFF8 8 = true ∧ placeErrSpan (.core 0) busySt 0x1FFF8 8 = none) ∧
    (StartsNow .sld (.s { rd := 7, ra := 7, sz := 2 }) k0 .su busySt ∧ 0x10002 % 4 ≠ 0) ∧
    StartsNow .sst (.s { ra := 9, sz := 2 }) k0 .su busySt ∧ liveSpan busySt 0x20000000 4 = false ∧
    (let s := busyWith fun c => { c with s := c.s.set 9 0x100000 }
     StartsNow .sst (.s { ra := 9, sz := 2 }) k0 .su s ∧ ((issuedEntry .sst (.s { ra := 9, sz := 2 }) k0 s).a.toNat = 0x100000 ∧
      liveSpan s 0x100000 4 = true ∧ placeErrSpan (.core 0) s 0x100000 4 = none ∧ writableSpan s 0x100000 4 = false)) :=
  ⟨startsNow_of (by decide +kernel), startsNow_of (by decide +kernel), storageGood_of (by decide +kernel),
    l1Coherent_of (by decide +kernel), canonical_of (by decide +kernel), by decide +kernel,
    ⟨startsNow_of (by decide +kernel), by decide +kernel⟩, startsNow_of (by decide +kernel), by decide +kernel,
    startsNow_of (by decide +kernel), by decide +kernel⟩

theorem test_witness_VectorAccessRows :
    StartsNow .vld (.v { vd := 1, vb := 3, vl := 512 }) k0 .ve busySt ∧ StartsNow .vst (.v { va := 2, vb := 3 }) k0 .ve busySt ∧
    liveSpan busySt ((issuedEntry .vld (.v { vd := 1, vb := 3, vl := 512 }) k0 busySt).b).toNat 2048 = true ∧
    placeErrSpan (.core 0) busySt 0x10000 2048 = none ∧ writableSpan busySt 0x10000 2048 = true :=
  ⟨startsNow_of (by decide +kernel), startsNow_of (by decide +kernel), by decide +kernel, by decide +kernel, by decide +kernel⟩

/-! ### A table of descriptors, a sparse matrix and a chain program in the gallery of core 0 -/

/-- A record of two dimensions (R249). -/
def recordOf (inv : W32) (ty offset n0 n1 s1 : Nat) : List Byte :=
  leBytes 4 inv.toNat ++ leBytes 4 (ty + 256 * 2) ++ leBytes 8 offset ++ List.replicate 16 0 ++ leBytes 4 n0 ++ leBytes 4 n1 ++
  List.replicate 24 0 ++ leBytes 8 1 ++ leBytes 8 s1 ++ List.replicate 48 0

/-- Slots 0 to 4: BF16 views of 2 × 1 elements in the gallery, an FP32 view of 64 × 1 for AB rows, and for the collective port a BF16
view of 16 × 1 and an FP32 one of 16 × 1 in the buffer. -/
def records : List (List Byte) :=
  [recordOf 0x00010000 1 0x800 2 1 2, recordOf 0x00010000 1 0x900 2 1 2, recordOf 0x00010000 0 0xA00 64 1 64,
   recordOf 0x00010065 1 0x1000 16 1 16, recordOf 0x00010065 0 0x2000 16 1 16]

/-- Bytes that are not zero, by device address: the table, the CSR header with its arrays, a chain program of one stage and a
segment table of one entry. -/
def storedCells : List (Nat × Byte) :=
  ((records.zip (List.range 5)).flatMap fun r => cellsAt (0x30000 + 128 * r.2) r.1) ++
  cellsAt 0x800000001000 (leBytes 8 0x800000001100 ++ leBytes 8 0x800000001200 ++ leBytes 8 0x800000001300 ++ leBytes 4 1 ++
    leBytes 4 1 ++ leBytes 4 1 ++ [1]) ++
  cellsAt 0x800000001100 (leBytes 8 0x100000000) ++ cellsAt 0x800000001300 [0x80, 0x3F] ++
  cellsAt 0x800000002000 (leBytes 8 0x0001010043484149) ++ cellsAt 0x800000002080 (leBytes 8 7) ++
  cellsAt 0x800000002800 (leBytes 8 0x2001)

/-- The same bytes by the place that each has in `State.mem`, galleries from 2^47 on. -/
def storedMem : List Host.Cell :=
  (([(0x30002, 1), (0x30004, 1), (0x30005, 2), (0x30009, 8), (0x30020, 2), (0x30024, 1), (0x30040, 1), (0x30048, 2)] ++
    [(0x30082, 1), (0x30084, 1), (0x30085, 2), (0x30089, 9), (0x300A0, 2), (0x300A4, 1), (0x300C0, 1), (0x300C8, 2)] ++
    [(0x30102, 1), (0x30105, 2), (0x30109, 10), (0x30120, 64), (0x30124, 1), (0x30140, 1), (0x30148, 64)] ++
    [(0x30180, 101), (0x30182, 1), (0x30184, 1), (0x30185, 2), (0x30189, 16), (0x301A0, 16), (0x301A4, 1), (0x301C0, 1)] ++
    [(0x301C8, 16), (0x30200, 101), (0x30202, 1), (0x30205, 2), (0x30209, 32), (0x30220, 16), (0x30224, 1), (0x30240, 1)] ++
    [(0x30248, 16)]) ++
   (([(0x1104, 1), (0x401001, 17), (0x401005, 128), (0x401009, 18), (0x40100D, 128), (0x401011, 19), (0x401015, 128)] ++
    [(0x401018, 1), (0x40101C, 1), (0x401020, 1), (0x401024, 1), (0x801300, 128), (0x801301, 63), (0x802000, 73)] ++
    [(0x802001, 65), (0x802002, 72), (0x802003, 67), (0x802005, 1), (0x802006, 1), (0xA02080, 7), (0xA02800, 1)] ++
    [(0xA02801, 32)]).map fun (c : Nat × Nat) => (2 ^ 47 + c.1, c.2))).map fun (c : Nat × Nat) => (c.1, BitVec.ofNat 8 c.2)

/-- S0 to S18 of `descSt`: S10 to S14 hold its handles, S15 to S18 the addresses of its header, program, table and 2:4
metadata. -/
def descRegs : List W64 :=
  [0, 5, 0 - 3, 0x10000, 0x10040, 0x800000000000, 0x800000000400, 0x10002, 1, 0x20000000] ++
  [0x100000, 0x100001, 0x100002, 0x100003, 0x100004, 0x800000001000, 0x800000002000, 0x800000002800] ++
  [0x800000004000]

/-- `busySt` with those bytes and descriptors. -/
def descSt : State :=
  let s := busyWith fun c => { c with s := Vector.ofFn fun i => descRegs.getD i.val 0 }
  let s := invPut s 102 { base := 0x30000, size := 0x1000, gen := 1, kind := 3, wr := true }
  let lay : LayState := { s.lay with
    dtab := 0x00010066, slots := 32, descs := (records.zip (List.range 5)).map fun r => (r.2, ⟨1, true, r.1⟩) }
  { s with mem := storedMem, lay := lay }

theorem test_stored_bytes : (putCells { descSt with mem := [] } (storedCells.filter fun c => c.2 ≠ 0)).mem = storedMem := by
  decide +kernel

theorem test_descriptor_record : decodeDesc ((records.getD 3 [])) =
    { inv := 0x00010065, typeCode := 1, ndim := 2, swz := 0, oob := 0, offset := 0x1000, fill := 0, padval := 0, padlo := [0, 0],
      padhi := [0, 0], size := [16, 1, 0, 0, 0, 0, 0, 0], stride := [1, 16, 0, 0, 0, 0, 0, 0] } := by
  decide +kernel

theorem descSt_canonical : Canonical descSt := canonical_of (by decide +kernel)
theorem descSt_good : StorageGood descSt := storageGood_of (by decide +kernel)

/-! ### The reads of a record, hit or miss -/

/-- `readRecord` and what rests on it, with the cache's choice given. -/
def readAs (hit : Bool) (m : Master) (s : State) (slot : Nat) : State × List Byte × Option Flt :=
  let s1 := { s with free := s.free + 1 }
  if hit then (s1.rcountSat .layDcacheStat 0 0 0 32 1, (descGet s slot).record, none)
  else devRead m (s1.rcountSat .layDcacheStat 0 0 32 32 1) (tableBase s + 128 * slot) 128

def viewAs (hit : Bool) (m : Master) (s : State) (h : W64) (x : Nat × Nat × InvEntry) : State × Except Flt View :=
  let r := readAs hit m s x.1
  match r.2.2 with
  | some f => (r.1, .error f)
  | none => (r.1, .ok ⟨h.extractLsb' 0 32, decodeDesc r.2.1, x.2.2.base.toNat, x.2.1, x.2.2.kind, x.2.2.wr⟩)

def openAs (hit : Bool) (m : Master) (s : State) (h : W64) : State × Except Flt View :=
  match viewCheck s h with
  | .error f => (s, .error f)
  | .ok x => viewAs hit m s h x

def openTwoAs (hit1 hit2 : Bool) (m : Master) (s : State) (h1 h2 : W64) : State × Except Flt (View × View) :=
  match viewCheck s h1 with
  | .error f => (s, .error f)
  | .ok x1 =>
    match viewCheck s h2 with
    | .error f => (s, .error f)
    | .ok x2 =>
      let r1 := viewAs hit1 m s h1 x1
      match r1.2 with
      | .error f => (r1.1, .error f)
      | .ok v1 =>
        let r2 := viewAs hit2 m r1.1 h2 x2
        match r2.2 with
        | .error f => (r2.1, .error f)
        | .ok v2 => (r2.1, .ok (v1, v2))

theorem openView_as (m : Master) (s : State) (h : W64) : ∃ b, openView m s h = openAs b m s h := ⟨_, rfl⟩

theorem openTwo_as (m : Master) (s : State) (h1 h2 : W64) : ∃ b c, openTwo m s h1 h2 = openTwoAs b c m s h1 h2 := by
  unfold openTwo openTwoAs
  cases viewCheck s h1 with
  | error f => exact ⟨true, true, rfl⟩
  | ok x1 =>
    cases viewCheck s h2 with
    | error f => exact ⟨true, true, rfl⟩
    | ok x2 => exact ⟨_, _, rfl⟩

/-- What a test of both outcomes says of the one that the machine takes. -/
theorem openTwo_test {m : Master} {s : State} {h1 h2 : W64} {P : State × Except Flt (View × View) → Prop}
    (h : ∀ b c, P (openTwoAs b c m s h1 h2)) : P (openTwo m s h1 h2) := by
  obtain ⟨b, c, e⟩ := openTwo_as m s h1 h2; rw [e]; exact h b c

theorem openView_test {m : Master} {s : State} {h1 : W64} {P : State × Except Flt View → Prop}
    (h : ∀ b, P (openAs b m s h1)) : P (openView m s h1) := by
  obtain ⟨b, e⟩ := openView_as m s h1; rw [e]; exact h b

/-- Whether a use opens this view, or these views. -/
def opened (v : View) : Except Flt View → Bool
  | .ok x => decide (x = v)
  | .error _ => false

def openedTwo (v w : View) : Except Flt (View × View) → Bool
  | .ok x => decide (x = (v, w))
  | .error _ => false

theorem opened_ok {v : View} {x : Except Flt View} (h : opened v x = true) : x = .ok v := by
  cases x with
  | error f => cases h
  | ok y => rw [of_decide_eq_true h]

theorem openedTwo_ok {v w : View} {x : Except Flt (View × View)} (h : openedTwo v w x = true) : x = .ok (v, w) := by
  cases x with
  | error f => cases h
  | ok y => rw [of_decide_eq_true h]

/-- The five views. -/
def viewN (n : Nat) : View :=
  let g := n < 3
  { handle := BitVec.ofNat 32 (0x100000 + n), desc := decodeDesc (records.getD n []), base := if g then 0x800000000000 else 0x10000
    entry := if g then 0 else 101, kind := if g then 4 else 1, wr := true }

theorem test_witness_VldwRow :
    let o : OpV := { vd := 1, vb := 10, vc := 0, type := 1, vl := 1 }
    StartsNow .vldw (.v o) k0 .ve descSt ∧ StorageGood descSt ∧ L1Coherent 0 descSt ∧ Canonical descSt ∧
    (openView (.core 0) (atStart .vldw (.v o) k0 .ve descSt) (issuedEntry .vldw (.v o) k0 descSt).b).2 = .ok (viewN 0) ∧
    (viewN 0).desc.typeCode = 1 ∧ placeErrSpan (.core 0) descSt ((viewN 0).addr [0]) 2 = none ∧
    placeErrSpan (.core 0) descSt ((viewN 0).addr [1]) 2 = none :=
  ⟨startsNow_of (by decide +kernel), descSt_good, l1Coherent_of (by decide +kernel), descSt_canonical,
    openView_test (P := fun r => r.2 = .ok (viewN 0)) fun b => opened_ok (by revert b; decide +kernel),
    by decide +kernel, by decide +kernel, by decide +kernel⟩

/-- One step whose row is stored, from and to the core's own gallery. -/
theorem test_witness_VseqRow :
    let o : OpV := { vd := 1, va := 5, vb := 6, vc := 16, vl := 16, fx := 1 }
    let e := issuedEntry .vseq (.v o) k0 descSt
    StartsNow .vseq (.v o) k0 .ve descSt ∧ StorageGood descSt ∧ Canonical descSt ∧ (∀ a ∈ [e.a.toNat, e.b.toNat, e.c.toNat],
      a % 64 = 0 ∧ liveSpan descSt a (1 * 64) = true ∧ ownSpan descSt 0 a (1 * 64) = true) ∧
    ((4 * vlOf o + 63) / 64 * 64 = 64 ∧ o.fx.toNat % 2 ^ 16 = 1 ∧ o.fx.getLsbD 17 = false ∧ activeAt (descSt.core 0) o 15 false = true) :=
  ⟨startsNow_of (by decide +kernel), descSt_good, descSt_canonical, by decide +kernel, by decide +kernel⟩

theorem test_witness_VzmapRow :
    let o : OpV := { va := 2, vb := 3, vc := 1, vl := 512, fx := 9 }
    let e := issuedEntry .vzmap (.v o) k0 busySt
    StartsNow .vzmap (.v o) k0 .ve busySt ∧ e.b.toNat % 4 = 0 ∧ e.c.toNat = 5 ∧ liveSpan busySt e.b.toNat 1 = true ∧
    writableSpan busySt e.b.toNat 1 = true ∧
    placeErrSpan (.core 0) busySt e.b.toNat 1 = none ∧ Canonical busySt ∧ StorageGood busySt :=
  ⟨startsNow_of (by decide +kernel), by decide +kernel, by decide +kernel, by decide +kernel, by decide +kernel, by decide +kernel,
    canonical_of (by decide +kernel), storageGood_of (by decide +kernel)⟩

theorem test_witness_VchldRow :
    let o : OpV := { vb := 16, fx := 31 }
    let x := atStart .vchld (.v o) k0 .ve descSt
    let a := (issuedEntry .vchld (.v o) k0 descSt).b.toNat
    StartsNow .vchld (.v o) k0 .ve descSt ∧ StorageGood descSt ∧
    (a % 64 = 0 ∧ ownGallery x 0 a 144 = true ∧ ownGallery x 0 a 128 = true ∧ (chainParse (readBytes descSt a 128)).epi = 1 ∧
      headerBad1 (readBytes descSt a 128) (chainParse (readBytes descSt a 128)) = false ∧
      chainBad 0 x 31 (readBytes descSt a 144) (chainParse (readBytes descSt a 144)) = none) ∧
    StartsNow .vchld (.v { vb := 7, fx := 1 }) k0 .ve busySt ∧ (0x10002 : Nat) % 64 ≠ 0 :=
  ⟨startsNow_of (by decide +kernel), descSt_good, by decide +kernel, startsNow_of (by decide +kernel), by decide +kernel⟩

/-- A VCSR of a matrix of one row, one column and one element: Y through S11, the header of S15 and B through S10. -/
def csrOps : OpD := { sd := 11, ss := 15, so := 10 }
def csrStart : State := atStart .vcsr (.d csrOps) k0 .ve descSt
def csrBytes : List Byte := readBytes descSt 0x800000001000 64

theorem test_witness_VcsrRow :
    let v := openTwo (.core 0) csrStart 0x100000 0x100001
    StartsNow .vcsr (.d csrOps) k0 .ve descSt ∧ StorageGood descSt ∧ Canonical descSt ∧ v.2 = .ok (viewN 0, viewN 1) ∧
    csrPlaceFlt 0 v.1 (csrHdr csrBytes) (viewN 0) (viewN 1) = none ∧
    ((issuedEntry .vcsr (.d csrOps) k0 descSt).b = 0x800000001000 ∧ ownSpan csrStart 0 0x800000001000 64 = true ∧
    csrHdrBad csrBytes (csrHdr csrBytes) = none ∧ (viewN 1).destOk = true ∧
    csrShapeOk (csrHdr csrBytes) (viewN 0).desc (viewN 1).desc = true ∧ (csrHdr csrBytes).rowptr = 0x800000001100 ∧
      (csrHdr csrBytes).rows = 1 ∧ (csrHdr csrBytes).nnz = 1 ∧ (csrHdr csrBytes).cols = 1 ∧
      csrPtrBad (csrHdr csrBytes) (wordsAt (readBytes descSt 0x800000001100 8)) = none ∧
      (csrInput descSt false (csrHdr csrBytes) (viewN 0) (viewN 1) [0, 1]).cols = [0]) :=
  ⟨startsNow_of (by decide +kernel), descSt_good, descSt_canonical,
    openTwo_test (P := fun r => r.2 = .ok (viewN 0, viewN 1)) fun b c => openedTwo_ok (by revert b c; decide +kernel),
    openTwo_test (P := fun r => csrPlaceFlt 0 r.1 (csrHdr csrBytes) (viewN 0) (viewN 1) = none) (by decide +kernel),
    by decide +kernel⟩

/-- Four elements, not strict and strict. -/
theorem test_witness_SparsifyRow :
    StartsNow .sparsify (.v { vd := 1, va := 2, vc := 3, vl := 4 }) k0 .ve busySt ∧
    StartsNow .sparsify (.v { vd := 1, va := 2, vc := 3, vl := 4, fx := 1 }) k0 .ve busySt ∧
    (elemPlaces 4 ETy.fp32.perLane).length % 4 = 0 ∧ nonZeros .fp32 [0, 0, 0, 0] ≤ 2 :=
  ⟨startsNow_of (by decide +kernel), startsNow_of (by decide +kernel), by decide +kernel⟩

theorem test_witness_Ffun_Fstat_rows : StartsNow .ffun (.v { vd := 1, va := 2, type := 1, fx := 15 }) k0 .sf busySt ∧
    StartsNow .fstat (.v { va := 2, fx := 4095 + 32768 }) k0 .sf busySt ∧ kindClash (statGet busyCore 4095) true = false ∧
    (let s := busyWith fun c => statPut c 4095 { count := 1, kind := 1 }
     StartsNow .fstat (.v { va := 2, fx := 4095 + 32768 }) k0 .sf s ∧ kindClash (statGet (s.core 0) 4095) true = true ∧
      (groupElems (s.core 0) { va := 2, fx := 4095 + 32768 } .fp32 0 0).isEmpty = false) ∧
    StartsNow .fstrd (.v { vd := 1, fx := 4095 }) k0 .sf busySt ∧ StartsNow .fstclr (.v { vb := 8, fx := 4095 }) k0 .sf busySt :=
  ⟨startsNow_of (by decide +kernel), startsNow_of (by decide +kernel), by decide +kernel,
    ⟨startsNow_of (by decide +kernel), by decide +kernel, by decide +kernel⟩, startsNow_of (by decide +kernel),
    startsNow_of (by decide +kernel)⟩

/-! ### The matrix engine -/

/-- `descSt` with a valid stationary set of BF16 weights, all zero. -/
def statSt : State :=
  descSt.modCore 0 fun c => { c with mat := { c.mat with stat :=
    { valid := true, wfmt := 1, cols := List.replicate 64 (List.replicate 128 0), sums := List.replicate 64 0 } } }

theorem test_witness_MatrixCoreRows : StartsNow .mswap (.m {}) k0 .me busySt ∧
    StartsNow .mabclr (.m { abr := 4091, sn := 1 }) k0 .me busySt ∧ StartsNow .mcsum (.m { abr := 4095 }) k0 .me statSt ∧
    (statSt.core 0).mat.stat.valid = true :=
  ⟨startsNow_of (by decide +kernel), startsNow_of (by decide +kernel), startsNow_of (by decide +kernel), by decide +kernel⟩

/-- 2:4 metadata of a whole set: every code keeps positions 0 and 1. -/
def metaSt : State :=
  { descSt with mem := (putCells descSt (cellsAt (vtrBase + 0x4000) (List.replicate 2048 (0x44 : Byte)))).mem }

/-- A place of gallery 0 is stored somewhere. -/
theorem gallery0_key {s : State} {o : Nat} (ho : o < 2 ^ 24) (ht : memTop s ≤ vtrBase) (hp : physOf s 0 = some 0) :
    byteKey s (vtrBase + o) ≠ none := by
  have hg : galOf (vtrBase + o) = some (0, o) := by
    unfold galOf
    rw [if_pos (by omega), Nat.add_sub_cancel_left, Nat.div_eq_of_lt ho, Nat.mod_eq_of_lt ho]
  unfold byteKey
  rw [if_neg (by omega), hg]
  simp [hp]

/-- A run of one value that is written reads back. -/
theorem run_reads {s : State} {a n : Nat} {b : Byte} (hw : memWf s.mem = true) (hk : ∀ i, i < n → byteKey s (a + i) ≠ none)
    (i : Nat) (h : i < n) :
    byteAt { s with mem := (putCells s (cellsAt a (List.replicate n b))).mem } (a + i) = b := by
  have h1 : byteAt { s with mem := (putCells s (cellsAt a (List.replicate n b))).mem } (a + i) =
      byteAt (putCells s (cellsAt a (List.replicate n b))) (a + i) := by
    unfold byteAt
    rw [byteKey_putCells]
    rfl
  rw [h1, byteAt_putCells _ hw]
  · have hf : cellAt (cellsAt a (List.replicate n b)) (a + i) = some b := by
      unfold cellAt
      cases hx : (cellsAt a (List.replicate n b)).find? (fun c => c.1 = a + i) with
      | none =>
        have := List.find?_eq_none.1 hx (a + i, b) (List.mem_mapIdx.2 ⟨i, by simpa using h, by rw [List.getElem_replicate]⟩)
        simp at this
      | some c =>
        obtain ⟨j, hj, rfl⟩ := List.mem_mapIdx.1 (List.mem_of_find?_eq_some hx)
        simp
    rw [hf]; rfl
  · intro c hc
    obtain ⟨j, hj, rfl⟩ := List.mem_mapIdx.1 hc
    exact hk j (by simpa using hj)
  · refine List.pairwise_iff_getElem.2 fun i j hi hj hij => ?_
    simp only [cellsAt, List.getElem_mapIdx]
    omega

theorem metaSt_byte (i : Nat) (h : i < 2048) : byteAt metaSt (vtrBase + 0x4000 + i) = 0x44 :=
  run_reads descSt_canonical.1 (fun j hj => by
    rw [Nat.add_assoc]
    exact gallery0_key (by omega) (by decide +kernel) (by decide +kernel)) i h

theorem codesOf_mem : ∀ (l : List Byte) (q : Nat), q ∈ codesOf l → ∃ b ∈ l, q = b.toNat % 16 ∨ q = b.toNat / 16
  | [], q, h => by cases h
  | b :: t, q, h => by
    simp only [codesOf, List.mem_cons] at h
    rcases h with h | h | h
    · exact ⟨b, .head _, .inl h⟩
    · exact ⟨b, .head _, .inr h⟩
    · obtain ⟨c, hc, hq⟩ := codesOf_mem t q h
      exact ⟨c, .tail _ hc, hq⟩

theorem metaSt_codes : ∀ q ∈ codesOf (readBytes metaSt (vtrBase + 0x4000) 2048), q % 4 < q / 4 := by
  intro q h
  obtain ⟨b, hb, hq⟩ := codesOf_mem _ q h
  simp only [readBytes, List.mem_map, List.mem_range] at hb
  obtain ⟨i, hi, rfl⟩ := hb
  rw [metaSt_byte i hi] at hq
  rcases hq with rfl | rfl <;> decide

theorem metaSt_good : StorageGood metaSt := storageGood_of (by decide +kernel)

/-- A dense set, a 2:4 set, and an address that is not the core's own. -/
theorem test_witness_MloadsRow :
    let o : OpM := { sa := 5, wfmt := 1 }
    StartsNow .mloads (.m o) k0 .me descSt ∧ StorageGood descSt ∧ ownSpan descSt 0 0x800000000000 (setBytes .bf16) = true ∧
    (StartsNow .mloads (.m { o with sp24 := true, sz := 18 }) k0 .me metaSt ∧ StorageGood metaSt ∧
      metaBytes .bf16 = 2048 ∧ ownSpan metaSt 0 (vtrBase + 0x4000) 2048 = true ∧
      ∀ q ∈ codesOf (readBytes metaSt (vtrBase + 0x4000) 2048), q % 4 < q / 4) ∧
    (StartsNow .mloads (.m { o with sa := 3 }) k0 .me descSt ∧ ownSpan descSt 0 0x10000 (setBytes .bf16) = false) :=
  ⟨startsNow_of (by decide +kernel), descSt_good, by decide +kernel,
    ⟨startsNow_of (by decide +kernel), metaSt_good, by decide +kernel, by decide +kernel, metaSt_codes⟩,
    startsNow_of (by decide +kernel), by decide +kernel⟩

/-- A table of one good entry, and one whose entry has no rows. -/
theorem test_witness_MsegtRow :
    StartsNow .msegt (.m { sa := 17, sn := 8 }) k0 .me descSt ∧ StartsNow .msegt (.m { sa := 5, sn := 8 }) k0 .me descSt ∧
    ownSpan descSt 0 0x800000002800 16 = true ∧ ownSpan descSt 0 0x800000000000 16 = true ∧
    [(0x2001, 0)].findIdx? (segBad 0 descSt) = none ∧ [(0, 0)].findIdx? (segBad 0 descSt) = some 0 ∧
    leNat (readBytes descSt 0x800000002800 8) = 0x2001 ∧ leNat (readBytes descSt 0x800000002808 8) = 0 ∧
    leNat (readBytes descSt 0x800000000000 8) = 0 :=
  ⟨startsNow_of (by decide +kernel), startsNow_of (by decide +kernel), by decide +kernel⟩

theorem test_witness_MprodRow :
    let o : OpM := { sa := 5, sn := 8, wfmt := 1, afmt := 1, abr := 4095 }
    StartsNow .mprod (.m o) k0 .me statSt ∧ StorageGood statSt ∧ smapWf (fun _ => (0 : W32)) (statSt.core 0).ab = true ∧
    (statSt.core 0).mat.stat.wfmt = o.wfmt ∧ (statSt.core 0).mat.stat.sp24 = o.sp24 ∧
    ownSpan statSt 0 0x800000000000 256 = true ∧
    let r := runMprod 0 (issuedEntry .mprod (.m o) k0 statSt) o (atStart .mprod (.m o) k0 .me statSt)
    r.fault = none ∧ r.st.vit.met = statSt.vit.met :=
  ⟨startsNow_of (by decide +kernel), storageGood_of (by decide +kernel), by decide +kernel⟩

/-- A run of one row through an epilogue of one stage: the last group of its product. -/
theorem test_witness_MatrixEventRows :
    let g : ChainProg := chainParse (readBytes descSt 0x800000002000 144)
    let run : ChainRun := { slot := 31, ei := 0, n := 1, abr := 0, next := 0, rows := [⟨List.replicate 64 0, 0, []⟩], pc := 0,
                            stream := 0, sel := 0, seq := 0 }
    let s := busyWith fun c => { c with slots := [(31, g)], runs := [run] }
    let d := chainDone 0 (epilogueGroup { p := 0, slot := 31, g := g, epi := true, n := 64, sel := 0, abr := 0 }
      (runGroup (s.core 0) run .fp32) s)
    domOn s 0 = true ∧ (s.core 0).runs = [run] ∧ slotGet (s.core 0) 31 = some g ∧ d.2 = none ∧
    (pumpQueues 0 (d.1.modCore 0 fun c => advanceBand { noteGroup 0 c with runs := [] } 31 1)).vit.met = s.vit.met := by
  decide +kernel

/-- With PRONK_MAX set as the gap began: a gap that is past it, and one that ramps down. -/
theorem test_witness_MatrixEventRows_pronk :
    let s := busyWith fun c => { c with mat := { c.mat with gapCtl := 0x80000FFF } }
    let x := s.modCore 0 fun c => { c with mat := { c.mat with pronk := 1 } }
    Canonical s ∧ (s.core 0).mat.gapCtl.getLsbD 31 = true ∧ (s.core 0).mat.pronk = 0 ∧ (s.map[0]).role = 0 ∧
    Canonical x ∧ (x.core 0).mat.pronk = 1 :=
  ⟨canonical_of (by decide +kernel), by decide +kernel, by decide +kernel, by decide +kernel, canonical_of (by decide +kernel),
    by decide +kernel⟩

/-! ### The copy engine and the collective port -/

/-- Whether a use opens two views, for every way that the records can be read. -/
theorem opens {m : Master} {v w : View} {s : State} {h1 h2 : W64}
    (h : (openedTwo v w (openTwoAs true true m s h1 h2).2 && openedTwo v w (openTwoAs true false m s h1 h2).2 &&
      openedTwo v w (openTwoAs false true m s h1 h2).2 && openedTwo v w (openTwoAs false false m s h1 h2).2) = true) :
    (openTwo m s h1 h2).2 = .ok (v, w) := by
  simp only [Bool.and_eq_true] at h
  refine openTwo_test (P := fun r => r.2 = .ok (v, w)) fun b c => openedTwo_ok ?_
  cases b <;> cases c
  exacts [h.2, h.1.2, h.1.1.2, h.1.1.1]

/-- `CopyReaches`, and that a copy writes no byte that it reads, as tests. -/
def reachB (m : Master) (s : State) (v : View) : Spot → Bool
  | .data x _ => decide (placeErrSpan m s (v.addr x) v.desc.esize = none)
  | _ => true

theorem reaches_of {m : Master} {s : State} {v : View} {x : Spot} (h : reachB m s v x = true) : Reaches m s v x := by
  cases x with
  | data y b => simpa [Reaches, reachB] using h
  | fill => trivial
  | pad b => trivial
  | dropped => trivial

def reachesB (m : Master) (s : State) (src dst : View) (place : List Int → List Int) : Bool :=
  dst.desc.logical.all fun x => reachB m s dst (dst.desc.writePlace x) && reachB m s src (src.desc.readPlace (place x))

theorem copyReaches_of {m : Master} {s : State} {src dst : View} {place : List Int → List Int} (h : reachesB m s src dst place = true) :
    CopyReaches m s src dst place := by
  intro x hx y q hy
  have := List.all_eq_true.1 h x hx
  rw [Bool.and_eq_true, hy] at this
  exact ⟨reaches_of this.1, reaches_of this.2⟩

def apartB (src dst : View) (place : List Int → List Int) (l : List Nat) : Bool :=
  dst.desc.logical.all fun x => match src.desc.readPlace (place x) with
    | .data z _ => l.all fun e => decide (src.addr z + src.desc.esize ≤ e ∨ e + dst.desc.esize ≤ src.addr z)
    | _ => true

theorem apart_of {s : State} {src dst : View} {place : List Int → List Int}
    (h : apartB src dst place ((movedElems s src dst place).map (·.1)) = true) :
    ∀ x ∈ dst.desc.logical, ∀ y q z u, dst.desc.writePlace x = .data y q → src.desc.readPlace (place x) = .data z u →
      ∀ e ∈ movedElems s src dst place, src.addr z + src.desc.esize ≤ e.1 ∨ e.1 + dst.desc.esize ≤ src.addr z := by
  intro x hx y q z u _ hz e he
  have := List.all_eq_true.1 h x hx
  simp only [hz] at this
  exact of_decide_eq_true (List.all_eq_true.1 this e.1 (List.mem_map_of_mem he))

/-- CCOPY and CTRANS of 2 × 1 elements, types that differ, and a handle of no slot. -/
theorem test_witness_CopyRows :
    (let x := atStart .ccopy (.d { sd := 11, ss := 10 }) k0 .ce descSt
     StartsNow .ccopy (.d { sd := 11, ss := 10 }) k0 .ce descSt ∧ StorageGood descSt ∧ Canonical descSt ∧ L1Coherent 0 descSt ∧
      (openTwo (.core 0) x 0x100000 0x100001).2 = .ok (viewN 0, viewN 1) ∧ pairFlt (viewN 0) (viewN 1) false = none ∧
      CopyReaches (.core 0) descSt (viewN 0) (viewN 1) id ∧
      ∀ x ∈ (viewN 1).desc.logical, ∀ y q z u, (viewN 1).desc.writePlace x = .data y q → (viewN 0).desc.readPlace (id x) = .data z u →
        ∀ e ∈ movedElems descSt (viewN 0) (viewN 1) id,
          (viewN 0).addr z + (viewN 0).desc.esize ≤ e.1 ∨ e.1 + (viewN 1).desc.esize ≤ (viewN 0).addr z) ∧
    (let x := atStart .ctrans (.d { sd := 11, ss := 10 }) k0 .ce descSt
     StartsNow .ctrans (.d { sd := 11, ss := 10 }) k0 .ce descSt ∧ pairFlt (viewN 0) (viewN 1) true = none ∧
      (openTwo (.core 0) x 0x100000 0x100001).2 = .ok (viewN 0, viewN 1) ∧
      CopyReaches (.core 0) descSt (viewN 0) (viewN 1) fun x => x.getD 1 0 :: x.getD 0 0 :: x.drop 2) ∧
    (let x := atStart .ccopy (.d { sd := 12, ss := 10 }) k0 .ce descSt
     StartsNow .ccopy (.d { sd := 12, ss := 10 }) k0 .ce descSt ∧ (openTwo (.core 0) x 0x100000 0x100002).2 = .ok (viewN 0, viewN 2) ∧
      pairFlt (viewN 0) (viewN 2) false = some (layTypeFlt 0 1)) ∧
    (StartsNow .ccopy (.d { sd := 11, ss := 9 }) k0 .ce descSt ∧
      openTwo (.core 0) (atStart .ccopy (.d { sd := 11, ss := 9 }) k0 .ce descSt) 0x20000000 0x100001 =
        (atStart .ccopy (.d { sd := 11, ss := 9 }) k0 .ce descSt, .error (layHandleFlt 0x20000000))) :=
  ⟨⟨startsNow_of (by decide +kernel), descSt_good, descSt_canonical, l1Coherent_of (by decide +kernel), opens (by decide +kernel),
      by decide +kernel, copyReaches_of (by decide +kernel), apart_of (by decide +kernel)⟩,
    ⟨startsNow_of (by decide +kernel), by decide +kernel, opens (by decide +kernel), copyReaches_of (by decide +kernel)⟩,
    ⟨startsNow_of (by decide +kernel), opens (by decide +kernel), by decide +kernel⟩, startsNow_of (by decide +kernel), rfl⟩

/-- The byte after a destination's last. -/
theorem test_witness_CopyFrame : byteKey descSt 0x800000000904 ≠ none ∧
    ((viewN 1).desc.logical.all fun x => match (viewN 1).desc.writePlace x with
      | .data y _ => decide (0x800000000904 < (viewN 1).addr y ∨ (viewN 1).addr y + (viewN 1).desc.esize ≤ 0x800000000904)
      | _ => true) = true := by
  decide +kernel

theorem opensOne {m : Master} {v : View} {s : State} {h : W64}
    (hb : (opened v (openAs true m s h).2 && opened v (openAs false m s h).2) = true) : (openView m s h).2 = .ok v := by
  rw [Bool.and_eq_true] at hb
  refine openView_test (P := fun r => r.2 = .ok v) fun b => opened_ok ?_
  cases b
  exacts [hb.2, hb.1]

theorem test_witness_FillRows :
    (StartsNow .cfill (.d { sd := 11, so := 1 }) k0 .ce descSt ∧ StorageGood descSt ∧ Canonical descSt ∧
      (openView (.core 0) (atStart .cfill (.d { sd := 11, so := 1 }) k0 .ce descSt) 0x100001).2 = .ok (viewN 1) ∧
      (viewN 1).destOk = true ∧ ∀ x ∈ (viewN 1).desc.positions, placeErrSpan (.core 0) descSt ((viewN 1).addr x) 2 = none) ∧
    (StartsNow .cfill (.d { sd := 9 }) k0 .ce descSt ∧ openView (.core 0) (atStart .cfill (.d { sd := 9 }) k0 .ce descSt) 0x20000000 =
      (atStart .cfill (.d { sd := 9 }) k0 .ce descSt, .error (layHandleFlt 0x20000000))) ∧
    (StartsNow .cabout (.d { sd := 12, sx := 8 }) k0 .ce descSt ∧
      (openView (.core 0) (atStart .cabout (.d { sd := 12, sx := 8 }) k0 .ce descSt) 0x100002).2 = .ok (viewN 2) ∧
      (viewN 2).destOk = true ∧ ((viewN 2).desc.ty = .fp32 ∧ (viewN 2).desc.ext 0 = 64 ∧ rowCount (viewN 2).desc = 1) ∧
      ∀ x ∈ (viewN 2).desc.logical, Reaches (.core 0) descSt (viewN 2) ((viewN 2).desc.writePlace x)) ∧
    (StartsNow .cabout (.d { sd := 11, sx := 8 }) k0 .ce descSt ∧
      (openView (.core 0) (atStart .cabout (.d { sd := 11, sx := 8 }) k0 .ce descSt) 0x100001).2 = .ok (viewN 1) ∧
      (viewN 1).desc.ext 0 ≠ 64) :=
  ⟨⟨startsNow_of (by decide +kernel), descSt_good, descSt_canonical, opensOne (by decide +kernel), by decide +kernel⟩,
    ⟨startsNow_of (by decide +kernel), rfl⟩,
    ⟨startsNow_of (by decide +kernel), opensOne (by decide +kernel), by decide +kernel, by decide +kernel, fun x hx =>
      reaches_of (List.all_eq_true.1 (by decide +kernel :
        (viewN 2).desc.logical.all (fun x => reachB (.core 0) descSt (viewN 2) ((viewN 2).desc.writePlace x)) = true) x hx)⟩,
    startsNow_of (by decide +kernel), opensOne (by decide +kernel), by decide +kernel⟩

/-- S1 = 5 names module 5 and flag 0; MODE 2 is reserved; S9 has a reserved bit. -/
theorem test_witness_CpsigRow :
    StartsNow .cpsig (.d { sd := 1 }) k0 .cp busySt ∧ StartsNow .cpsig (.d { sd := 1, mode := 2 }) k0 .cp busySt ∧
    StartsNow .cpsig (.d { sd := 9 }) k0 .cp busySt ∧
    ((issuedEntry .cpsig (.d { sd := 1 }) k0 busySt).a = 5 ∧ (issuedEntry .cpsig (.d { sd := 9 }) k0 busySt).a = 0x20000000) :=
  ⟨startsNow_of (by decide +kernel), startsNow_of (by decide +kernel), startsNow_of (by decide +kernel), by decide +kernel⟩

/-- A plan of one member and one bucket of 16 values, this module alone. -/
def tinyPlan : Plan :=
  { planId := 1, members := [0], bucketMib := 1, topk := 0, kBucket := 0, fVerdict := 1, fSkip := 2, fGather := 3, total := 16
    redBase := 0, paramBase := 0, resBase := 0, winBase := 0, winSlots := 0, trlBase := 0, loanBase := 0, loanHalf := 0
    loanPartner := 0, rank := 0, uses := [] }

def planSt : State := { descSt with col := { descSt.col with plan := some tinyPlan, cur := some { n := 5 } } }

/-! #### Two more slots: a BF16 view of 1,024 × 1 elements in the buffer, and a view that is no destination (OOB = 1) -/

def moreRecords : List (List Byte) :=
  [recordOf 0x00010065 1 0x4000 1024 1 1024, (recordOf 0x00010065 1 0x1000 16 1 16).set 7 1]

/-- `descSt` with them in slots 5 and 6, whose handles S7 and S9 hold. -/
def moreSt : State :=
  let s := descSt.modCore 0 fun c => { c with s := (c.s.set 7 0x100005).set 9 0x100006 }
  let l := moreRecords.zip [5, 6]
  { s with mem := (putCells s (l.flatMap fun r => cellsAt (0x30000 + 128 * r.2) r.1)).mem
           lay := { s.lay with descs := s.lay.descs ++ l.map fun r => (r.2, ⟨1, true, r.1⟩) } }

def viewM (n : Nat) : View :=
  { handle := BitVec.ofNat 32 (0x100005 + n), desc := decodeDesc (moreRecords.getD n []), base := 0x10000, entry := 101, kind := 1, wr := true }

theorem moreSt_canonical : Canonical moreSt := canonical_of (by decide +kernel)
theorem moreSt_good : StorageGood moreSt := storageGood_of (by decide +kernel)

def okOf {α : Type} : Except Flt α → Option α
  | .ok x => some x
  | .error _ => none

theorem ok_of {α : Type} {x : Except Flt α} {a : α} (h : okOf x = some a) : x = .ok a := by
  cases x with
  | error f => cases h
  | ok y => rw [Option.some.inj h]

/-- The states of a hand-over of `tinyPlan`'s bucket by core 0, from the one in which its view is open. -/
def handZ (x : State) : State :=
  let y := putStep (perfCount x .dbgCol 0 1) { ({ n := 5 } : StepState) with tag := some 7, handed := nsetAdd [] 0 }
  tryShard { y with col := { y.col with shards := y.col.shards ++ [newShard tinyPlan 5 0] } } 5 0

def handD (x : State) : State × List Byte × Option Flt := readDense (handZ x) (viewN 3) 0 16
def handC (x : State) : State × List Txn × Option Flt := doChunks (handD x).1 tinyPlan 5 0 false (halves (handD x).2.1)
def handQ (x : State) : State := useBegin ((handC x).2.1.foldl (sendContrib (.contrib 0 0 5)) (handC x).1) 101

/-- A bucket that is handed over; one without a plan; a handle of no slot; and a bucket of one chunk in a plan of this module alone. -/
theorem test_witness_cpbkt :
    (let x := atStart .cpbkt (.d { ss := 13, sx := 1 }) k0 .cp planSt
     let r := openView .coll x 0x100003
     StartsNow .cpbkt (.d { ss := 13, sx := 1 }) k0 .cp planSt ∧
      (r.2 = .ok (viewN 3) ∧ okOf (bucketCheck r.1 0 { ss := 13, sx := 1 } (viewN 3) 0 5) = some (tinyPlan, { n := 5 }) ∧
        (handD r.1).2.2 = none ∧ (handC r.1).2.2 = none ∧ (handQ r.1).vit.met = planSt.vit.met)) ∧
    bucketCheck descSt 0 { ss := 13, sx := 1 } (viewN 3) 0 5 = .error (colFlt 1) ∧
    (StartsNow .cpbkt (.d { ss := 9 }) k0 .cp descSt ∧ openView .coll (atStart .cpbkt (.d { ss := 9 }) k0 .cp descSt) 0x20000000 =
      (atStart .cpbkt (.d { ss := 9 }) k0 .cp descSt, .error (layHandleFlt 0x20000000))) ∧
    (let pl := { tinyPlan with total := 1024 }
     let s := { moreSt with col := { moreSt.col with plan := some pl, cur := some { n := 5 } } }
     let r := openView .coll (atStart .cpbkt (.d { ss := 7, sx := 1 }) k0 .cp s) 0x100005
     StartsNow .cpbkt (.d { ss := 7, sx := 1 }) k0 .cp s ∧ StorageGood s ∧ Canonical s ∧
      (r.2 = .ok (viewM 0) ∧ okOf (bucketCheck r.1 0 { ss := 7, sx := 1 } (viewM 0) 0 5) = some (pl, { n := 5 })) ∧
      (0 < pl.r ∧ pl.first 0 pl.rank < pl.last 0 pl.rank ∧ shardOf s 5 0 = none ∧ pl.v 0 = 1024) ∧
      ∀ i, i < 1024 → placeErrSpan .coll s ((viewM 0).addr ((viewM 0).desc.denseCoord i)) 2 = none) :=
  ⟨⟨startsNow_of (by decide +kernel), openView_test (P := fun r => r.2 = .ok (viewN 3) ∧
      okOf (bucketCheck r.1 0 { ss := 13, sx := 1 } (viewN 3) 0 5) = some (tinyPlan, { n := 5 }) ∧
      (handD r.1).2.2 = none ∧ (handC r.1).2.2 = none ∧ (handQ r.1).vit.met = planSt.vit.met)
      fun b => ⟨opened_ok (by revert b; decide +kernel), by revert b; decide +kernel⟩⟩, rfl, ⟨startsNow_of (by decide +kernel), rfl⟩,
    startsNow_of (by decide +kernel), storageGood_of (by decide +kernel), canonical_of (by decide +kernel),
    openView_test (P := fun r => r.2 = .ok (viewM 0) ∧
      okOf (bucketCheck r.1 0 { ss := 7, sx := 1 } (viewM 0) 0 5) = some ({ tinyPlan with total := 1024 }, { n := 5 }))
      fun b => ⟨opened_ok (by revert b; decide +kernel), by revert b; decide +kernel⟩,
    by decide +kernel, by decide +kernel⟩

/-- What `gatherCheck` says of view 3 in step 5, with the cache's choice given. -/
def gathAs (hit : Bool) (s : State) : Option (Option (Plan × StepState)) :=
  let x := atStart .cpgath (.d { ss := 13, sx := 1 }) k0 .cp s
  match viewCheck x 0x100003 with
  | .error _ => none
  | .ok y =>
    let r := readAs hit .coll x y.1
    okOf (gatherCheck r.1 (gatherView ⟨0, 0, 0x100003, r.2.1, y.2.2.base.toNat, y.2.1⟩) 5)

theorem gath_of {s : State} {v : Option (Plan × StepState)}
    (h : (decide (gathAs true s = some v) && decide (gathAs false s = some v)) = true) :
    let x := atStart .cpgath (.d { ss := 13, sx := 1 }) k0 .cp s
    ∃ y, viewCheck x 0x100003 = .ok y ∧
      gatherCheck (readRecord .coll x y.1).1
        (gatherView ⟨0, 0, 0x100003, (readRecord .coll x y.1).2.1, y.2.2.base.toNat, y.2.1⟩) 5 = .ok v := by
  rw [Bool.and_eq_true, decide_eq_true_eq, decide_eq_true_eq] at h
  intro x
  have hb : ∀ b, gathAs b s = some v := fun b => by cases b; exacts [h.2, h.1]
  cases hy : viewCheck x 0x100003 with
  | error f =>
    have := hb true
    dsimp only [gathAs] at this
    rw [show viewCheck (atStart .cpgath (.d { ss := 13, sx := 1 }) k0 .cp s) 0x100003 = .error f from hy] at this
    cases this
  | ok y =>
    obtain ⟨b, e⟩ : ∃ b, readRecord .coll x y.1 = readAs b .coll x y.1 := ⟨_, rfl⟩
    have := hb b
    dsimp only [gathAs] at this
    rw [show viewCheck (atStart .cpgath (.d { ss := 13, sx := 1 }) k0 .cp s) 0x100003 = .ok y from hy] at this
    exact ⟨y, rfl, by rw [e]; exact ok_of this⟩

/-- `planSt` in a plan of two members, with a step and skipped steps. -/
def gathSt (c : StepState) (skips : List W32) : State :=
  { planSt with col := { planSt.col with plan := some { tinyPlan with members := [0, 5] }, cur := some c, skips := skips } }

theorem test_witness_cpgath :
    (∀ s ∈ [gathSt { n := 5 } [], gathSt { n := 5, cls := some 0 } [], gathSt { n := 6 } [5]],
      StartsNow .cpgath (.d { ss := 13, sx := 1 }) k0 .cp s ∧ StorageGood s) ∧
    ((issuedEntry .cpgath (.d { ss := 13, sx := 1 }) k0 planSt).b = 0x100003 ∧
      (issuedEntry .cpgath (.d { ss := 13, sx := 1 }) k0 planSt).d.extractLsb' 0 32 = 5) ∧
    (∀ v ∈ [({ n := 5 } : StepState), { n := 5, cls := some 0 }],
      decide (gathAs true (gathSt v []) = some (some ({ tinyPlan with members := [0, 5] }, v))) &&
        decide (gathAs false (gathSt v []) = some (some ({ tinyPlan with members := [0, 5] }, v))) = true) ∧
    (decide (gathAs true (gathSt { n := 6 } [5]) = some none) && decide (gathAs false (gathSt { n := 6 } [5]) = some none)) = true ∧
    (gatherCheck descSt (viewN 3) 5 = .error (colFlt 1) ∧
      viewCheck (atStart .cpgath (.d { ss := 9 }) k0 .cp descSt) 0x20000000 = .error (layHandleFlt 0x20000000)) ∧
    (let s := gathSt { n := 5, cls := some 0 } []
     let pl := { tinyPlan with members := [0, 5] }
     bitB (s.rget .colLoanCtl 0 0) 31 = false ∧ pl.r ≠ 1 ∧ others s pl = [5] ∧ pl.nb = 1 ∧ pl.own 0 pl.rank = 0) :=
  ⟨by
    intro s hs
    have := List.all_eq_true.1 (by decide +kernel : [gathSt { n := 5 } [], gathSt { n := 5, cls := some 0 } [], gathSt { n := 6 } [5]].all
      (fun s => startsB .cpgath (.d { ss := 13, sx := 1 }) k0 .cp s && goodB s) = true) s hs
    rw [Bool.and_eq_true] at this
    exact ⟨startsNow_of this.1, storageGood_of this.2⟩,
    by decide +kernel, by decide +kernel, by decide +kernel, ⟨rfl, rfl⟩, by decide +kernel⟩

theorem test_witness_cpput :
    (let o : OpD := { sd := 11, ss := 10, fx := 5 }
     StartsNow .cpput (.d o) k0 .cp descSt ∧ StorageGood descSt ∧
      (openTwo .coll (atStart .cpput (.d o) k0 .cp descSt) 0x100000 0x100001).2 = .ok (viewN 0, viewN 1) ∧
      ((viewN 1).destOk = true ∧ (viewN 0).desc.typeCode = (viewN 1).desc.typeCode ∧ portDetail descSt o False = none ∧
        portTarget descSt o = some 5) ∧
      ∀ x ∈ (viewN 1).desc.logical, ∀ y q, (viewN 1).desc.writePlace x = .data y q → Reaches .coll descSt (viewN 0) ((viewN 0).desc.readPlace x)) ∧
    (portDetail descSt { fx := 0x10000 } False = some 1 ∧ portDetail descSt { fx := 0x400005 } False = some 6 ∧
      portDetail descSt { fx := 5, mode := 1 } False = some 6 ∧ portDetail planSt { fx := 0x10007 } False = some 7) ∧
    (StartsNow .cpput (.d { sd := 12, ss := 10 }) k0 .cp descSt ∧
      (openTwo .coll (atStart .cpput (.d { sd := 12, ss := 10 }) k0 .cp descSt) 0x100000 0x100002).2 = .ok (viewN 0, viewN 2) ∧
      (viewN 2).destOk = true ∧ (viewN 0).desc.typeCode ≠ (viewN 2).desc.typeCode) ∧
    (StartsNow .cpput (.d { sd := 9, ss := 10 }) k0 .cp moreSt ∧ StorageGood moreSt ∧
      (openTwo .coll (atStart .cpput (.d { sd := 9, ss := 10 }) k0 .cp moreSt) 0x100000 0x100006).2 = .ok (viewN 0, viewM 1) ∧
      (viewM 1).destOk = false) ∧
    (StartsNow .cpput (.d { sd := 11, ss := 9 }) k0 .cp descSt ∧
      openTwo .coll (atStart .cpput (.d { sd := 11, ss := 9 }) k0 .cp descSt) 0x20000000 0x100001 =
        (atStart .cpput (.d { sd := 11, ss := 9 }) k0 .cp descSt, .error (layHandleFlt 0x20000000))) :=
  ⟨⟨startsNow_of (by decide +kernel), descSt_good, opens (by decide +kernel), by decide +kernel, fun x hx y q hy =>
      (copyReaches_of (place := id) (by decide +kernel : reachesB .coll descSt (viewN 0) (viewN 1) id = true) x hx y q hy).2⟩,
    by decide +kernel, ⟨startsNow_of (by decide +kernel), opens (by decide +kernel), by decide +kernel⟩,
    ⟨startsNow_of (by decide +kernel), moreSt_good, opens (by decide +kernel), by decide +kernel⟩, startsNow_of (by decide +kernel), rfl⟩

theorem test_witness_cpacc :
    (let o : OpD := { sd := 14, ss := 13, fx := 5 }
     StartsNow .cpacc (.d o) k0 .cp descSt ∧
      (openTwo .coll (atStart .cpacc (.d o) k0 .cp descSt) 0x100003 0x100004).2 = .ok (viewN 3, viewN 4) ∧
      ((viewN 4).destOk = true ∧ portDetail descSt o ((viewN 3).desc.ty ≠ .bf16) = none ∧ portTarget descSt o = some 5 ∧
        (viewN 3).desc.count = 16 ∧ (viewN 4).desc.ty = .fp32 ∧ 0x12000 % 64 = 0 ∧
        (viewN 4).desc.positions.map (viewN 4).addr = (List.range 16).map fun i => 0x12000 + 4 * i) ∧
      ∀ i, i < 16 → placeErrSpan .coll descSt ((viewN 3).addr ((viewN 3).desc.denseCoord i)) 2 = none) ∧
    (StartsNow .cpacc (.d { sd := 14, ss := 14 }) k0 .cp descSt ∧
      (openTwo .coll (atStart .cpacc (.d { sd := 14, ss := 14 }) k0 .cp descSt) 0x100004 0x100004).2 = .ok (viewN 4, viewN 4) ∧
      portDetail descSt { sd := 14, ss := 14 } ((viewN 4).desc.ty ≠ .bf16) = some 3) ∧
    (StartsNow .cpacc (.d { sd := 13, ss := 13, fx := 5 }) k0 .cp descSt ∧
      (openTwo .coll (atStart .cpacc (.d { sd := 13, ss := 13, fx := 5 }) k0 .cp descSt) 0x100003 0x100003).2 = .ok (viewN 3, viewN 3) ∧
      (viewN 3).destOk = true ∧ (viewN 3).desc.ty ≠ .fp32) :=
  ⟨⟨startsNow_of (by decide +kernel), opens (by decide +kernel), by decide +kernel, by decide +kernel⟩,
    ⟨startsNow_of (by decide +kernel), opens (by decide +kernel), by decide +kernel⟩,
    startsNow_of (by decide +kernel), opens (by decide +kernel), by decide +kernel⟩

/-! #### The refusals of VCHLD and VCSR -/

/-- Core 0 with another address in S5 and bytes at some places. -/
def placed (a : Nat) (l : List (Nat × List Byte)) : State :=
  let s := descSt.modCore 0 fun c => { c with s := c.s.set 5 (BitVec.ofNat 64 a) }
  { s with mem := (putCells s (l.flatMap fun x => cellsAt x.1 x.2)).mem }

/-- A good header in the last 128 bytes of the gallery, whose stage leaves it. -/
def edgeSt : State := placed 0x800000FFFF80 [(0x800000FFFF80, leBytes 8 0x0001010043484149)]

/-- A good header whose stage has the reserved operation 0. -/
def stageSt : State := placed 0x800000005000 [(0x800000005000, leBytes 8 0x0001010043484149)]

theorem test_witness_VchldRow_refused :
    let o : OpV := { vb := 5, fx := 31 }
    let bytes (s : State) (a n : Nat) : List Byte := readBytes s a n
    (StartsNow .vchld (.v { vb := 6, fx := 31 }) k0 .ve descSt ∧ ownGallery (atStart .vchld (.v { vb := 6, fx := 31 }) k0 .ve descSt) 0 0x800000000400 128 = true ∧
      headerBad1 (bytes descSt 0x800000000400 128) (chainParse (bytes descSt 0x800000000400 128)) = true) ∧
    (StartsNow .vchld (.v o) k0 .ve edgeSt ∧ StorageGood edgeSt ∧
      ownGallery (atStart .vchld (.v o) k0 .ve edgeSt) 0 0x800000FFFF80 128 = true ∧
      headerBad1 (bytes edgeSt 0x800000FFFF80 128) (chainParse (bytes edgeSt 0x800000FFFF80 128)) = false ∧
      ownGallery (atStart .vchld (.v o) k0 .ve edgeSt) 0 0x800000FFFF80 144 = false) ∧
    (StartsNow .vchld (.v o) k0 .ve stageSt ∧ StorageGood stageSt ∧
      ownGallery (atStart .vchld (.v o) k0 .ve stageSt) 0 0x800000005000 144 = true ∧
      headerBad1 (bytes stageSt 0x800000005000 128) (chainParse (bytes stageSt 0x800000005000 128)) = false ∧
      chainBad 0 (atStart .vchld (.v o) k0 .ve stageSt) 31 (bytes stageSt 0x800000005000 144) (chainParse (bytes stageSt 0x800000005000 144)) =
        some (chainFormatFlt 31 3 0)) :=
  ⟨⟨startsNow_of (by decide +kernel), by decide +kernel⟩,
    ⟨startsNow_of (by decide +kernel), storageGood_of (by decide +kernel), by decide +kernel⟩,
    startsNow_of (by decide +kernel), storageGood_of (by decide +kernel), by decide +kernel⟩

/-- The matrix of `csrOps` with a row pointer past its element, and with a column past its last. -/
def badPtrSt : State := placed 0 [(0x800000001104, [2])]
def badColSt : State := placed 0 [(0x800000001200, [3])]

/-- One state and operands for each check of R202, in its order. -/
theorem test_witness_VcsrRow_refused :
    ([((7 : BitVec 5), descSt), (3, descSt), (6, descSt)].all fun x => startsB .vcsr (.d { sd := 11, ss := x.1, so := 10 }) k0 .ve x.2) = true ∧
    (0x10002 % 64 ≠ 0 ∧ ownSpan csrStart 0 0x10000 64 = false ∧
      csrHdrBad (readBytes descSt 0x800000000400 64) (csrHdr (readBytes descSt 0x800000000400 64)) = some 0x18) ∧
    (StartsNow .vcsr (.d { sd := 9, ss := 15, so := 10 }) k0 .ve descSt ∧
      openTwo (.core 0) csrStart 0x100000 0x20000000 = (csrStart, .error (layHandleFlt 0x20000000))) ∧
    (StartsNow .vcsr (.d { sd := 9, ss := 15, so := 10 }) k0 .ve moreSt ∧
      (openTwo (.core 0) (atStart .vcsr (.d { sd := 9, ss := 15, so := 10 }) k0 .ve moreSt) 0x100000 0x100006).2 = .ok (viewN 0, viewM 1) ∧
      (viewM 1).destOk = false) ∧
    (StartsNow .vcsr (.d { sd := 12, ss := 15, so := 10 }) k0 .ve descSt ∧
      (openTwo (.core 0) csrStart 0x100000 0x100002).2 = .ok (viewN 0, viewN 2) ∧ (viewN 2).destOk = true ∧
      csrShapeOk (csrHdr csrBytes) (viewN 0).desc (viewN 2).desc = false) ∧
    (StartsNow .vcsr (.d { sd := 14, ss := 15, so := 13 }) k0 .ve descSt ∧
      (openTwo (.core 0) csrStart 0x100003 0x100004).2 = .ok (viewN 3, viewN 4) ∧
      csrShapeOk (csrHdr csrBytes) (viewN 3).desc (viewN 4).desc = true ∧
      (csrPlaceFlt 0 (openTwo (.core 0) csrStart 0x100003 0x100004).1 (csrHdr csrBytes) (viewN 3) (viewN 4)).isSome = true) ∧
    (StartsNow .vcsr (.d csrOps) k0 .ve badPtrSt ∧ Canonical badPtrSt ∧ StorageGood badPtrSt ∧
      csrPtrBad (csrHdr csrBytes) (wordsAt (readBytes badPtrSt 0x800000001100 8)) = some 1) ∧
    (StartsNow .vcsr (.d csrOps) k0 .ve badColSt ∧ Canonical badColSt ∧ StorageGood badColSt ∧
      (csrInput badColSt false (csrHdr csrBytes) (viewN 0) (viewN 1) [0, 1]).cols = [3]) :=
  ⟨by decide +kernel, by decide +kernel, ⟨startsNow_of (by decide +kernel), rfl⟩,
    ⟨startsNow_of (by decide +kernel), opens (by decide +kernel), by decide +kernel⟩,
    ⟨startsNow_of (by decide +kernel), opens (by decide +kernel), by decide +kernel⟩,
    ⟨startsNow_of (by decide +kernel), opens (by decide +kernel), by decide +kernel,
      openTwo_test (P := fun r => (csrPlaceFlt 0 r.1 (csrHdr csrBytes) (viewN 3) (viewN 4)).isSome = true) (by decide +kernel)⟩,
    ⟨startsNow_of (by decide +kernel), canonical_of (by decide +kernel), storageGood_of (by decide +kernel), by decide +kernel⟩,
    startsNow_of (by decide +kernel), canonical_of (by decide +kernel), storageGood_of (by decide +kernel), by decide +kernel⟩

/-! ## Queues, dispatches, the vitrine -/

/-- The conditions of `Writable`, as one test. -/
def writableB (w : Writer) (off : Nat) (s : State) : Bool :=
  !blockStopped s off && decide (s.cur.wipe = none) && !s.cur.logBad &&
  (decide (w ≠ .bar0) || (hostReaches s && barServed s && (!recoveryWait s || recoveryServes off))) &&
  (decide (w ≠ .i3c ∧ w ≠ .eth) || domOn s 23)

theorem writable_of {w : Writer} {off : Nat} {s : State} (h : writableB w off s = true) : Writable w off s := by
  simp only [writableB, Bool.and_eq_true, Bool.not_eq_true', decide_eq_true_eq, Bool.or_eq_true] at h
  obtain ⟨⟨⟨⟨h1, h2⟩, hb⟩, h3⟩, h4⟩ := h
  refine ⟨h1, h2, hb, fun e => ?_, fun e => ?_⟩
  · rcases h3 with h3 | ⟨h3, h5⟩
    · exact absurd e h3
    · exact ⟨h3.1, h3.2, fun hr => h5.resolve_left (by simp [hr])⟩
  · rcases h4 with h4 | h4
    · rcases e with e | e
      · exact absurd e h4.1
      · exact absurd e h4.2
    · exact h4

/-- A queued instruction that waits for flag 0 to be 0, and one that waits for it to be 1. -/
def waiting (state : Bool) : Entry :=
  { op := .sadd, args := .s {}, sync := BitVec.ofNat 48 (2 ^ 47 + if state then 2 ^ 46 else 0) }

theorem test_witness_QueueEventRows :
    (let s := busyWith fun c => setQueue c .su [waiting false]
     coreWorks s 0 = true ∧ queueOf (s.core 0) .su = [waiting false] ∧ syWaits (waiting false).sync = true ∧
      waitsOk (s.core 0) (waiting false).sync 0 = true ∧ outranked (s.core 0) .su (waiting false).sync = false) ∧
    (let x : Inflight := { e := waiting false }
     let s := busyWith fun c => setFlight c .su [x]
     coreWorks s 0 = true ∧ flightOf (s.core 0) .su = [] ++ x :: [] ∧ x.released = false ∧ cpMayRelease s 0 x.e = true ∧
      mayComplete s 0 x = true) ∧
    (let s := (busyWith fun c => setQueue c .cp [waiting true]).rset .corWaitLimit 0 0 1
     coreWorks s 0 = true ∧ queueOf (s.core 0) .cp = [waiting true] ∧ waitsOk (s.core 0) (waiting true).sync 0 = false ∧
      s.rget .corWaitLimit 0 0 ≠ 0) := by
  decide +kernel

/-- The one core of a dispatch has issued HALT and is done, is one of two, or has no dispatch; a dispatch stops. -/
theorem test_witness_DispatchEnds :
    (let s := busyWith fun c => { c with runstate := 3 }
     let d : Dispatch := { tag := 7, ring := 0, index := 0, image := 100, cores := [0] }
     domOn s 0 = true ∧ coreDone s 0 = true ∧ dispatchOf s 7 = some d) ∧
    (let s := busyWith fun c => { c with runstate := 3, tag := 8 }
     domOn s 0 = true ∧ coreDone s 0 = true ∧ dispatchOf s 8 = none) ∧
    (let d : Dispatch := { tag := 7, ring := 0, index := 0, image := 100, cores := [0, 71], aborted := true }
     let s := { busySt with host := { busySt.host with dispatches := [d], cmds := [{ ring := 0, index := 0, entry := [] }] } }
     dispatchOf s 7 = some d ∧ (cmdAt s 0 0).isSome = true) := by
  decide +kernel

theorem test_witness_CoreAndVitrineWrites :
    (Writable .bar0 (RegName.corRetire.at 0 0) busySt ∧ bitB (0x80000001 : W32) 31 = true ∧ busySt.map[1].role = 0 ∧
      busySt.host.retire = none ∧ dispatchOfCore busySt 1 = none ∧ (dispatchOfCore busySt 0).isSome = true) ∧
    (let s := { busySt with host := { busySt.host with retire := some 1 } }
     s.host.retire = some 1 ∧ lowestSpare s = some 64) ∧
    (Writable .i3c (RegName.corVeGenCtl.at 71 0) busySt ∧ (busySt.core 1).runstate = 0 ∧ (busySt.core 0).runstate ≠ 0) ∧
    (let s := busySt.modCore 1 fun c => { c with reseedPending := true }
     (s.core 1).reseedPending = true ∧ (s.core 1).runstate = 0) ∧
    (pwrState busySt = 2 ∧ domOn busySt 0 = true) ∧
    (Writable .eth (RegName.vtrOwn.at 0 63) busySt ∧ ownerOk busySt 0x43 = true ∧ ownerOk busySt 0x44 = false ∧
      bitB (busySt.rget .vtrOwn 0 63) 30 = false ∧ bitB (busySt.rget .vtrOwn 0 63) 31 = true ∧
      bitsN (busySt.rget .vtrOwn 0 63) 0 8 ≠ 0x42) ∧
    (Writable .bar0 (RegName.vtrSwz.at 0 63) busySt ∧ physOf busySt 63 = some 63 ∧ (busySt.core 63).runstate = 0 ∧
      bitB (busySt.rget .vtrOwn 0 63) 30 = false ∧ bitB ((busySt.rset .vtrOwn 0 63 0xC0000042).rget .vtrOwn 0 63) 30 = true) ∧
    bitB ((busySt.rset .vtrScrubCtl 0 0 0x80000000).rget .vtrScrubCtl 0 0) 31 = true ∧
    pwrState (busySt.rset .vtrScrubCtl 0 0 0x80000000) = 2 :=
  ⟨⟨writable_of (by decide +kernel), by decide +kernel⟩, by decide +kernel, ⟨writable_of (by decide +kernel), by decide +kernel⟩,
    by decide +kernel, by decide +kernel, ⟨writable_of (by decide +kernel), by decide +kernel⟩,
    ⟨writable_of (by decide +kernel), by decide +kernel⟩, by decide +kernel⟩

theorem test_witness_WipedBankIsZero : Canonical descSt ∧ physOf descSt 0 = some 0 :=
  ⟨descSt_canonical, by decide +kernel⟩

/-! ## The registrar -/

/-- A ring of 64 slots that is ENABLED with its context cached: two entries posted from index 6 on. -/
def ring37 : Ring := { state := 1, cached := true, pi := 8, fi := 6, cpi := 5, cci := 5, ringBase := 0x10000, cqBase := 0x20000, log2 := 6 }

/-- `descSt` without its dispatch, with an uploaded image in entry 100 and ring 37. -/
def ringSt : State :=
  let img : Image := ⟨1, leBytes 8 0x0001000000010000 ++ leBytes 8 0x1000 ++ List.replicate 24 0 ++ leBytes 4 0x00400001 ++
    List.replicate 212 0⟩
  { descSt with host := { descSt.host with dispatches := [], images := [(100, img)], rings := [(37, ring37)] } }

/-- `ringSt` with one fetched command at index 5 of ring 37. -/
def cmdOf (w0 w1 w2 w3 : Nat) : Cmd :=
  { ring := 37, index := 5, entry := leBytes 8 w0 ++ leBytes 8 w1 ++ leBytes 8 w2 ++ leBytes 8 w3 ++ List.replicate 32 0 }

def cmdSt (c : Cmd) : State := { ringSt with host := { ringSt.host with cmds := [c] } }

/-- One night's RUN_PROGRAM (chapter 13): TAG 305, handle 0x0001_0050, 64 cores and the six patches. -/
theorem test_run_program_entry :
    let bytes : List Byte := [0x06, 2, 0, 0, 0x31, 1, 0, 0, 0x50, 0, 1, 0, 0x40, 0, 0, 0] ++
      [0x80, 0x81, 0x82, 0x83, 0x84, 0x85, 0, 0] ++ [0x47, 0, 2, 0, 0, 0x30, 0, 0, 0, 2, 0, 0, 0x31, 1, 0, 0] ++
      [2, 0x3C, 0x1F, 0x6A, 0x17, 0xB7, 0x51, 0x39] ++ List.replicate 16 0
    let c : Cmd := { ring := 37, index := 0x131, entry := bytes }
    opHandle c 4 = 305 ∧ opHandle c 8 = 0x00010050 ∧ opField c 0x0C 2 = 64 ∧ entryBad c.entry = none ∧
    (patchesOf c).map (·.2) = [(0, 0x00020047), (1, 12288), (2, 512), (3, 305), (4, 0x6A1F3C02), (5, 0x3951B717)] := by
  decide +kernel

/-- A ring copy of view 0 to view 1, for each way to read the two records. -/
def ringCopyB (b c : Bool) : Bool :=
  let v := openTwoAs b c .ring (cmdSt (cmdOf 7 0x0010000000100001 0 0)) 0x100000 0x100001
  openedTwo (viewN 0) (viewN 1) v.2 &&
  decide ((finishCopy .ring ((viewN 0).desc.logical.foldl (fun mv x => ringStep (viewN 0) (viewN 1) [0, 0, 0, 0] x mv)
    { st := v.1 }) 2).err = none ∧
    (finishCopy .ring ((viewN 0).desc.logical.foldl (fun mv x => ringStep (viewN 0) (viewN 1) [0, 0, 0, 0] x mv)
    { st := v.1 }) 2).st.vit.met = [])

theorem test_witness_ring_copy : startable (cmdSt (cmdOf 7 0x0010000000100001 0 0)) 37 5 7 = some (cmdOf 7 0x0010000000100001 0 0) ∧
    ∃ x, openTwo .ring (cmdSt (cmdOf 7 0x0010000000100001 0 0)) 0x100000 0x100001 = (x, .ok (viewN 0, viewN 1)) ∧
      pairFlt (viewN 0) (viewN 1) false = none ∧
      (finishCopy .ring ((viewN 0).desc.logical.foldl (fun mv y => ringStep (viewN 0) (viewN 1) [0, 0, 0, 0] y mv)
        { st := x }) 2).err = none ∧
      (finishCopy .ring ((viewN 0).desc.logical.foldl (fun mv y => ringStep (viewN 0) (viewN 1) [0, 0, 0, 0] y mv)
        { st := x }) 2).st.vit.met = [] := by
  refine ⟨by decide +kernel, ?_⟩
  obtain ⟨b, c, e⟩ := openTwo_as .ring (cmdSt (cmdOf 7 0x0010000000100001 0 0)) 0x100000 0x100001
  have h : ringCopyB b c = true := by clear e; revert b c; decide +kernel
  simp only [ringCopyB, Bool.and_eq_true, decide_eq_true_eq] at h
  exact ⟨_, by rw [e, ← openedTwo_ok h.1], by decide +kernel, h.2⟩

/-- COPY_IN to view 1 and COPY_OUT of view 0, four bytes each. -/
def copyOutB (b : Bool) : Bool :=
  let v := openAs b .ring (cmdSt (cmdOf 9 0x100000 0x40 4)) 0x100000
  opened (viewN 0) v.2 &&
  decide (((viewN 0).desc.positions.foldl (fun (a : Moving × List Byte) y =>
    match a.1.err with
    | some _ => a
    | none => ((readElem .ring (viewN 0) a.1 (.data y false)).1, a.2 ++ (readElem .ring (viewN 0) a.1 (.data y false)).2.1))
    ({ st := v.1 }, [])).1.err = none ∧ ((viewN 0).desc.positions.foldl (fun (a : Moving × List Byte) y =>
    match a.1.err with
    | some _ => a
    | none => ((readElem .ring (viewN 0) a.1 (.data y false)).1, a.2 ++ (readElem .ring (viewN 0) a.1 (.data y false)).2.1))
    ({ st := v.1 }, [])).1.st.vit.met = [])

theorem test_witness_copy_in_out : startable (cmdSt (cmdOf 8 0x100001 0x40 4)) 37 5 8 = some (cmdOf 8 0x100001 0x40 4) ∧
    (∃ x, openView .ring (cmdSt (cmdOf 8 0x100001 0x40 4)) 0x100001 = (x, .ok (viewN 1)) ∧ x.vit.met = []) ∧
    (viewN 1).destOk = true ∧ (viewN 1).desc.dataBytes = 4 ∧ (viewN 0).desc.dataBytes = 4 ∧
    startable (cmdSt (cmdOf 9 0x100000 0x40 4)) 37 5 9 = some (cmdOf 9 0x100000 0x40 4) ∧
    ∃ x, openView .ring (cmdSt (cmdOf 9 0x100000 0x40 4)) 0x100000 = (x, .ok (viewN 0)) ∧
      ((viewN 0).desc.positions.foldl (fun (a : Moving × List Byte) y =>
        match a.1.err with
        | some _ => a
        | none => ((readElem .ring (viewN 0) a.1 (.data y false)).1, a.2 ++ (readElem .ring (viewN 0) a.1 (.data y false)).2.1))
        ({ st := x }, [])).1.err = none ∧ ((viewN 0).desc.positions.foldl (fun (a : Moving × List Byte) y =>
        match a.1.err with
        | some _ => a
        | none => ((readElem .ring (viewN 0) a.1 (.data y false)).1, a.2 ++ (readElem .ring (viewN 0) a.1 (.data y false)).2.1))
        ({ st := x }, [])).1.st.vit.met = [] := by
  refine ⟨by decide +kernel, ?_, by decide +kernel, by decide +kernel, by decide +kernel, by decide +kernel, ?_⟩
  · obtain ⟨b, e⟩ := openView_as .ring (cmdSt (cmdOf 8 0x100001 0x40 4)) 0x100001
    have h : opened (viewN 1) (openAs b .ring (cmdSt (cmdOf 8 0x100001 0x40 4)) 0x100001).2 = true ∧
        (openAs b .ring (cmdSt (cmdOf 8 0x100001 0x40 4)) 0x100001).1.vit.met = [] := by
      clear e; revert b; decide +kernel
    exact ⟨_, by rw [e, ← opened_ok h.1], h.2⟩
  · obtain ⟨b, e⟩ := openView_as .ring (cmdSt (cmdOf 9 0x100000 0x40 4)) 0x100000
    have h : copyOutB b = true := by clear e; revert b; decide +kernel
    simp only [copyOutB, Bool.and_eq_true, decide_eq_true_eq] at h
    exact ⟨_, by rw [e, ← opened_ok h.1], h.2⟩

theorem test_witness_RingCommandRows :
    startable (cmdSt (cmdOf 0 0 0 0)) 37 5 0 = some (cmdOf 0 0 0 0) ∧
    (startable (cmdSt (cmdOf 1 0x2000000 0x1000 1)) 37 5 1 = some (cmdOf 1 0x2000000 0x1000 1) ∧
      registerReason ringSt 0x2000000 0x1000 1 = 0 ∧ freeIndex ringSt = some 64 ∧ registerReason ringSt 0x10000 0x1000 1 = 4) ∧
    (startable (cmdSt (cmdOf 2 0x00010065 0 0)) 37 5 2 = some (cmdOf 2 0x00010065 0 0) ∧ freeReason ringSt 0x00010065 = 0 ∧
      freeReason ringSt 0x00010066 = 7 ∧ freeReason ringSt 0x00020065 = 6) ∧
    (startable (cmdSt (cmdOf 3 0x80 0 0)) 37 5 3 = some (cmdOf 3 0x80 0 0) ∧
      startable (cmdSt (cmdOf 3 0x40 0 0)) 37 5 3 = some (cmdOf 3 0x40 0 0)) ∧
    (startable (cmdSt (cmdOf 4 0x100004 0 0)) 37 5 4 = some (cmdOf 4 0x100004 0 0) ∧ tableSet ringSt = true ∧
      descLive ringSt 0x100004 = some 4 ∧ descLive ringSt 0x100005 = none) ∧
    (startable (cmdSt (cmdOf 5 0x00010064 0x40 0x2000)) 37 5 5 = some (cmdOf 5 0x00010064 0x40 0x2000) ∧
      (handleEntry ringSt 0x00010064).map (fun x => (x.1, x.2.kind, x.2.size)) = some (100, 2, 0x2000) ∧
      imageLocked ringSt 100 = false) ∧
    (let c := cmdOf 6 0x0000003F00010064 0x80 5
     startable (cmdSt c) 37 5 6 = some c ∧ (invGet (cmdSt c) (bitsN (opHandle c 8) 0 16)).kind = 2 ∧ patchDup [] (patchesOf c) = none ∧
      (uploadOf ringSt 0x00010064).map (fun m => ((parseHdr m.header).coresMin, (parseHdr m.header).coresMax)) = some (1, 64) ∧
      (idleCores ringSt).length = 63) ∧
    (let c := cmdOf 10 0x0000000700000025 0 0
     let s := cmdSt c
     startable s 37 5 10 = some c ∧ (ringGet s 37).state = 1 ∧ ((7 : W32) - (ringGet s 37).fi).toNat = 1 ∧
      s.host.marks.contains (37, 7) = false) := by
  decide +kernel

theorem test_witness_RingFlowRows :
    (hostReaches ringSt = true ∧ sleeping ringSt = false ∧ (ringGet ringSt 37).state = 1 ∧ (ringGet ringSt 37).cached = true ∧
      ¬ ((ringGet ringSt 37).size < ((69 : W32) - 5).toNat ∨ idxBelow 69 6 = true ∨ idxBelow 5 5 = true) ∧
      (ringGet ringSt 37).size < ((70 : W32) - 5).toNat) ∧
    (hostReaches { ringSt with power := { ringSt.power with flr := true } } = false ∧ hostLink ringSt = true ∧ (2 : Nat) % 4 ≠ 0) ∧
    (registrarOn ringSt = true ∧ readRoom ringSt = true ∧ ringSt.host.reads = [] ∧ fetchCount ringSt 37 = 2) ∧
    (let rd : HostRead := ⟨9, .entries 37 6 2, 0, 128, 128, []⟩
     let q (n : Nat) : HostReq := ⟨10, 9, 0, 0, n⟩
     let s (n : Nat) := { ringSt with host := { ringSt.host with reads := [rd], reqs := [q n] } }
     (s 128).power.link.isSome = true ∧ (s 128).power.perst = false ∧ ([64, 128].all fun n =>
       decide ((takeReq (s n) 10).map (·.1) = some (q n)) && decide (((takeReq (s n) 10).bind fun x => readOf x.2 x.1) = some rd)) = true ∧
      ((takeReq (s 128) 10).map fun x => (registrarArrived (askReads 1024 (dropRead x.2 rd)) rd.use (List.replicate 128 0)).vit.met) =
        some (s 128).vit.met) ∧
    ((ringGet ringSt 38).state = 0 ∧ ringSt.host.ctxOp = none ∧ bitB ((ringSt.rset .acnCatCtl 0 0 1).rget .acnCatCtl 0 0) 0 = true) ∧
    (let s := ringPut ringSt 37 { ring37 with state := 3 }
     (ringGet s 37).state = 3 ∧ ringCmds s 37 = [] ∧ registrarOn s = true) ∧
    (let s := invPut ringSt 101 { base := 0x10000, size := 0x10000, gen := 2, kind := 1, freeing := true }
     (invGet s 101).freeing = true ∧ (invGet s 101).users = 0 ∧ domOn s 1 = true ∧ freeCmd s 101 = none) ∧
    (let c := { cmdOf 2 0x00010065 0 0 with state := .running }
     let s := invPut (cmdSt c) 101 { base := 0x10000, size := 0x10000, gen := 2, kind := 1, freeing := true }
     (invGet s 101).freeing = true ∧ (invGet s 101).users = 0 ∧ freeCmd s 101 = some c) ∧
    (let c := { cmdOf 0 0 0 0 with state := .finished }
     cmdAt (cmdSt c) 37 5 = some c ∧ registrarOn (cmdSt c) = true ∧ recordReady (cmdSt c) c = true) ∧
    [(2047, true)].find? (fun (e : Nat × Bool) => e.1 = 2047) = some (2047, true) := by
  decide +kernel

theorem test_witness_ring_operations : Writable .bar0 (RegName.acnCtxOp.at 0 0) (ringSt.rset .acnCatCtl 0 0 1) :=
  writable_of (by decide +kernel)

/-! ## The host's accesses, the function, memory -/

theorem test_witness_HostAccessRows :
    (hostReaches runSt = true ∧ barServed runSt = true ∧ recoveryWait runSt = false ∧ alignedAccess 0x3FFFFF8 8 = true ∧
      blockStopped runSt 0 = false) ∧
    Writable .bar0 0 runSt ∧ (windowStopped runSt = false ∧ 64 ≤ winSize runSt ∧
      placeErrSpan .host runSt (winAddr runSt 0) 64 = none) ∧
    (let s := runSt.rset .hstWinBase 0 0 0x400000000000
     placeErrSpan .host s (winAddr s 0) 1 = some .outside) ∧
    (let s := runSt.rset .hstWinBase 0 0 0x800000F00000
     placeErrSpan .host s (winAddr s 0) 8 = some (.notOwner 0 (bankOwner s 0)) ∧ bankOwner s 0 ≠ 0x43) ∧
    Canonical runSt ∧ StorageGood runSt :=
  ⟨by decide +kernel, writable_of (by decide +kernel), by decide +kernel, by decide +kernel, by decide +kernel,
    canonical_of (by decide +kernel), storageGood_of (by decide +kernel)⟩

theorem test_witness_FunctionRows :
    (configServed runSt = true ∧ domOn runSt 4 = true ∧ runSt.power.flr = false ∧ sleeping runSt = false ∧
      runSt.power.perst = false ∧ runSt.power.d3hot = false ∧ hostLink runSt = true) ∧
    (let s := { runSt with power := { runSt.power with flr := true } }
     s.power.flr = true ∧ s.col.reqs = [] ∧ s.col.sendq = [] ∧ s.col.retries = [] ∧ inTransition s = false) ∧
    (State.reset.power.perst = true ∧ ({ runSt.power with d3hot := true }).d3hot = true) ∧
    doeUp { runSt with cur := { runSt.cur with image := some [] } } = true := by
  decide +kernel

/-- The record of a plan of one member and one bucket of 1,024 values in the buffer. -/
def planRecord : List Byte :=
  leBytes 4 0x504C4F43 ++ leBytes 4 1 ++ leBytes 8 0x00040001 ++ leBytes 8 1024 ++ leBytes 8 0x12000 ++ leBytes 8 0x14000 ++
  leBytes 8 0 ++ leBytes 8 0x16000 ++ leBytes 8 0 ++ leBytes 8 0x16800

def planRecSt : State :=
  { busySt with mem := (cellsAt 0x11000 planRecord).filter fun c => c.2 ≠ 0 }.rset .colPlanAddr 0 0 0x11000 |>.rset .zmzTopo 0 0 0x010101

theorem test_witness_MemoryRows :
    (domOn runSt 2 = true ∧ runSt.memMap.getLsbD 47 = true ∧ ({ runSt.power with memClk := false }).memClk = false) ∧
    (Writable .bar0 (RegName.memCtl.at 47 0) (setMemState runSt 47 3) ∧ memState (setMemState runSt 47 3) 47 = 3) ∧
    (Canonical (setMemState runSt 47 4) ∧ memState (setMemState runSt 47 4) 47 = 4) ∧
    (Writable .bar0 (RegName.memRetire.at 0 0) runSt ∧ bitsN (0x8000002F : W32) 0 6 = 47 ∧
      (runSt.memMap &&& ~~~runSt.memPend) &&& ~~~(BitVec.ofNat 48 (2 ^ 47)) ≠ 0) ∧
    (let s := { descSt with lay := { descSt.lay with dtab := 0, slots := 0, descs := [] } }
     Writable .bar0 (RegName.layDtab.at 0 0) s ∧ anyDesc s = false ∧
      (handleEntry s 0x00010066).map (fun x => (x.1, x.2.kind)) = some (102, 3)) ∧
    (let o : AccOp := { shard := none, addr := 0x10000, vals := List.replicate 16 0x3F80, last := false, reply := .nobody }
     o.last = false ∧ o.addr + 64 ≤ memTop busySt ∧ o.vals.length = 16) :=
  ⟨by decide +kernel, ⟨writable_of (by decide +kernel), by decide +kernel⟩, ⟨canonical_of (by decide +kernel), by decide +kernel⟩,
    ⟨writable_of (by decide +kernel), by decide +kernel⟩, ⟨writable_of (by decide +kernel), by decide +kernel⟩, by decide +kernel⟩

/-! ## The fabric and the collective engine -/

/-- `runSt` with port 0 in a state, four lanes in use. -/
def portSt (k : BitVec 3) : State := modPort runSt 0 fun x => { x with state := k, lanes := 0xF }

/-- A flit whose CRC is its own and whose codeword has 15 wrong symbols is good, and 16 are too many: on four lanes each carries 136. -/
theorem test_witness_LinkRows_fec (f : Flit) :
    (let rx : FlitRx := { crc := crc32 (flitBytes f) }
     (fecStep (portSt 4) 0 rx).2 = false ∧ rx.crc = crc32 (flitBytes f)) ∧
    fecBegins (portOf (portSt 4) 0).fecPos = true ∧ fecBegins 1044 = false ∧ fecBegins 1045 = true ∧
    (fecStep (portSt 4) 0 { wrong := #v[0, 15, 0, 0] }).2 = false ∧ (fecStep (portSt 4) 0 { wrong := #v[4, 4, 4, 4] }).2 = true ∧
    laneSymbols 0xF 0 = 136 ∧ laneSymbols 3 0 = 272 ∧ laneSymbols 3 2 = 0 :=
  ⟨⟨rfl, rfl⟩, by decide +kernel⟩

/-- A codeword over two flits spoils both (R319). -/
theorem test_fec_two_flits :
    let a := fecStep (modPort (portSt 4) 0 fun x => { x with fecPos := 1045 }) 0 { wrong := #v[16, 0, 0, 0] }
    a.2 = true ∧ (portOf a.1 0).fecPos = 1 ∧ (fecStep a.1 0 {}).2 = true := by
  decide +kernel

theorem test_witness_LinkRows :
    (let s := portSt 4
     portActive s 0 = true ∧ portActive (applyHeader s 0 {}) 0 = true ∧ (0 : BitVec _) = (portOf (applyHeader s 0 {}) 0).expect ∧
      portActive (portSt 3) 0 = false ∧ (1 : BitVec 12) ≠ (portOf (applyHeader s 0 {}) 0).expect) ∧
    (let s := (modPort (portSt 3) 0 fun x => { x with told := true }).rset .zmzTopo 0 0 0x80000000
     (portOf s 0).state = 3 ∧ (portOf s 0).told = true ∧ bitB (s.rget .zmzTopo 0 0) 31 = true ∧
      portRole (s.rset .zmzRole 0 0 2) 0 ≠ 3 ∧ portRole (s.rset .zmzRole 0 0 3) 0 = 3 ∧
      (0x7FFF : BitVec 16) ≠ expectedFar (s.rset .zmzRole 0 0 3) 0) ∧
    (let s := modPort (portSt 4) 0 fun x => { x with nak := true, replay := [{}] }
     portActive s 0 = true ∧ (portOf s 0).nak = true ∧ (portOf s 0).replay ≠ []) ∧
    ((portOf (portSt 2) 0).state = 2 ∧ (portOf (portSt 7) 0).state = 7) ∧
    (bitB (portOf (portSt 4) 0).lanes 3 = true ∧ (portOf (narrow (portSt 4) 0 7) 0).state ≠ 6 ∧
      (portOf (narrow (modPort (portSt 4) 0 fun x => { x with lanes := 1 }) 0 0) 0).state = 6) ∧
    ((portSt 1).fab.d06Dead = false ∧ domOn (portSt 1) 6 = true ∧ domOn (portSt 1) 7 = true ∧
      (portOf (narrow (portSt 1) 0 0) 0).state = 6 ∧ (portOf (narrow (portSt 1) 0 0xF) 0).state ≠ 6 ∧
      (portOf (portSt 5) 0).state = 5) ∧
    ((portOf (portSt 6) 0).state = 6 ∧ bitB (((portSt 6).rset .zmzCtl 0 0 0x20000000).rget .zmzCtl 0 0) 29 = true) ∧
    (roleClash runSt 0 3 = false ∧ roleClash (runSt.rset .zmzRole 1 0 3) 0 3 = true) ∧
    (let t : Txn := { ttype := 4 }
     nextRx (portOf (modPort (portSt 4) 0 fun x => { x with rx := [t] }) 0) = some t ∧ t.dst = ownId runSt ∧
      ({ t with dst := 9 } : Txn).dst ≠ ownId runSt) := by
  decide +kernel

/-- Whatever a flit carries, a port past training takes it with its own CRC, and one in TRAINING takes none. -/
theorem test_witness_received (f : Flit) : (∀ k ∈ [(2 : BitVec 3), 3, 4, 7],
      (receive (portSt k) 0 f { crc := crc32 (flitBytes f) }).2 = true) ∧ (receive (portSt 1) 0 f {}).2 = false := by
  refine ⟨fun k hk => ?_, rfl⟩
  unfold receive
  have hh : portHears (portOf (portSt k) 0) = true := by revert k; decide +kernel
  have hz : (fecStep (portSt k) 0 {}).2 = false := by revert k; decide +kernel
  have hf : ∀ c, (fecStep (portSt k) 0 { crc := c }).2 = false := fun c => hz
  rw [if_pos hh]
  dsimp only
  rw [hf, if_pos (by simp [flitCrc])]

/-- A port with two transactions of different inputs to send, and credit for them. -/
def txnA : Txn := { ttype := 2, dst := 5, tag := 1, addr := 0x10000 }
def txnB : Txn := { ttype := 1, dst := 5, tag := 2, addr := 0x20000, data := List.replicate 64 7 }
def sendSt : State := modPort (portSt 4) 0 fun x =>
  { x with txq := [(3, txnB), (16, txnB), (3, txnA)], avail := Vector.replicate 4 8, served := Vector.replicate 4 3 }

theorem test_witness_FlitRows :
    ((portOf (portSt 2) 0).state = 2 ∧ (portOf (portSt 3) 0).state = 3 ∧ (portOf (portSt 5) 0).state = 5) ∧
    (let x := portOf sendSt 0
     x.state = 4 ∧ x.sinceNull = 0 ∧ x.timeq = [] ∧ x.resend = [] ∧ nextTx x = some (16, txnB) ∧ (fillFlit 31 x).txPart ≠ [] ∧
      x.replay.length < 256) ∧
    ((portOf (modPort sendSt 0 fun x => { x with sinceNull := 2047 }) 0).sinceNull = 2047 ∧
      (portOf (modPort sendSt 0 fun x => { x with timeq := [⟨false, 1, 0⟩] }) 0).timeq = [⟨false, 1, 0⟩] ∧
      (portOf (modPort sendSt 0 fun x => { x with resend := [{}] }) 0).resend = [{}] ∧
      (fillFlit 31 (portOf (portSt 4) 0)).txPart = []) ∧
    (txnSent txnA = true ∧ txnSent txnB = true) := by
  decide +kernel

/-- Transactions fill a flit one after another, the inputs in turn (R321, R327): tags 2, 2 and 1 begin at slots 0, 5 and 10. -/
theorem test_flit_packing :
    ((flitBoundary sendSt 0).out.getLast?.map fun m => match m with
      | .flit _ f => (f.ftype, f.seq, [0, 5, 10, 11].map fun k => (f.slots.getD k 0).extractLsb' 40 14)
      | _ => (0, 0, [])) = some (1, 0, [2, 2, 1, 0]) := by
  decide +kernel

/-- Chapter 14: the ways of a ring of five from place 1, and the opposite places of a ring of four. -/
theorem test_fill_ring : (List.range 6).map (fillEntry 1 5) = [2, 0, 1, 1, 2, 3] ∧ fillEntry 0 4 2 = 1 := by decide +kernel

theorem test_witness_link_writes : Writable .bar0 (RegName.zmzCtl.at 15 0) runSt ∧ Writable .bar0 (RegName.zmzRole.at 15 0) runSt ∧
    Writable .bar0 (RegName.zmzTopo.at 0 0) runSt :=
  ⟨writable_of (by decide +kernel), writable_of (by decide +kernel), writable_of (by decide +kernel)⟩

/-- A state whose inbox is empty takes a transaction of a row. -/
theorem test_witness_RequestRows :
    let w : Txn := { ttype := 1, addr := 0x10000, data := List.replicate 64 7 }
    let r : Txn := { ttype := 2, addr := 0x10000 }
    let g (k : Nat) : Txn := { ttype := 5, data := leBytes 8 (k + 2 ^ 32) ++ leBytes 8 5 ++ List.replicate 48 0 }
    domOn busySt 1 = true ∧ Canonical busySt ∧ StorageGood busySt ∧
    (takeInbox busySt w 1).isSome = true ∧ targetFlt busySt [1, 4] true w = none ∧
    (takeInbox busySt r 2).isSome = true ∧ targetFlt busySt [1, 2, 4] false r = none ∧
    (targetFlt busySt [1, 2, 4] false { r with addr := 0x20000000 }).isSome = true ∧
    (targetFlt busySt [1, 4] true { w with addr := 0x100000 }).isSome = true ∧
    (takeInbox busySt { ttype := 3 } 3).isSome = true ∧
    ((takeInbox busySt { ttype := 4, addr := 0x7FF } 4).isSome = true ∧ physOf busySt (bitsN (0x7C0 : BitVec 48) 0 6) = some 0 ∧
      bitsN (0x7C0 : BitVec 48) 7 5 = 15) ∧
    (∀ k ∈ [1, 2], (takeInbox planSt (g k) 5).isSome = true ∧ msgKind (g k) = k ∧ msgReservedOk (g k) = true ∧
      msgStepOk planSt (msgStep (g k)) = true ∧ msgPlan (g k) = tinyPlan.planId ∧ msgRepeated planSt tinyPlan (g k) = false ∧
      (g k).src ∈ tinyPlan.members) ∧
    (msgKind (g 3) = 3 ∧ msgReservedOk (g 3) = true) :=
  ⟨by decide +kernel, canonical_of (by decide +kernel), storageGood_of (by decide +kernel), by decide +kernel⟩

theorem test_witness_ResponseAndPlanRows :
    (let q : Req := ⟨{ ttype := 3, tag := 9 }, .contrib 0 1 5⟩
     let s := { busySt with col := { busySt.col with reqs := [q] } }
     (takeInbox s { ttype := 8, tag := 9, addr := 1 } 8).isSome = true ∧ reqOf s { ttype := 8, tag := 9, addr := 1 } = some q ∧
      bitB (1 : BitVec 48) 0 = true ∧ isContrib q.use = true ∧ reqOf s { ttype := 8, tag := 8 } = none ∧
      (takeInbox s { ttype := 9 } 9).isSome = true ∧ (takeInbox s { ttype := 10, tag := 9 } 10).isSome = true ∧
      s.col.reqs.find? (fun q => q.txn.tag = 9) = some q) ∧
    (planSt.col.cur = some { n := 5 } ∧ bitsN ((planSt.rset .colTimeout 0 0 1).rget .colTimeout 0 0) 0 16 ≠ 0) ∧
    (Writable .bar0 (RegName.colPlanCtl.at 0 0) planRecSt ∧ stepOpen planRecSt = false ∧ cpBusy planRecSt = false) ∧
    (Canonical planRecSt ∧ StorageGood planRecSt ∧ entryAt planRecSt 0x11000 = true) ∧
    (let bs := readBytes planRecSt 0x11000 0x82
     let p := { planOf bs with rank := ownRank planRecSt (planOf bs).members }
     (planRecSt.rget .colPlanAddr 0 0).toNat = 0x11000 ∧ fieldAt (readBytes planRecSt 0x11000 0x80) 8 2 = 1 ∧
      (dataSpan planRecSt 0x11000 0x82).isSome = true ∧ planReason planRecSt bs (planOf bs) = none ∧
      ∀ x ∈ planSpans p 0x11000, x.2 ≠ 0 → (dataSpan planRecSt x.1 x.2).isSome = true) :=
  ⟨by decide +kernel, by decide +kernel, ⟨writable_of (by decide +kernel), by decide +kernel⟩,
    ⟨canonical_of (by decide +kernel), storageGood_of (by decide +kernel), by decide +kernel⟩, by decide +kernel⟩

/-! ## Time -/

theorem test_witness_TimeRows :
    (let s := (portSt 4).rset .zmzSyntCtl 0 0 0x80000000
     domOn s 6 = true ∧ bitB (s.rget .zmzSyntCtl 0 0) 31 = true ∧ 2 ≤ (portOf s (syntPort s)).state.toNat ∧
      (portOf s (syntPort s)).state.toNat ≤ 5 ∧ syntSource s ≠ 1 ∧ syntOffset s = 0 ∧ syntSource (setSynt s 1 5) = 1 ∧
      syntSource (setSynt s 2 5) = 2 ∧ syntSource (setSynt s 3 5) = 3) ∧
    (let s := (portSt 4).rset .zmzTimeCtl 0 0 0x80000000
     domOn s 24 = true ∧ bitB (s.rget .zmzTimeCtl 0 0) 31 = true ∧ portActive s (timePort s) = true ∧
      timeValid (setTimeBit s 0 true) = true) ∧
    (timeSource (runSt.rset .mgtTimeCtl 0 0 0x80000000) = 2 ∧ timeSource (runSt.rset .mgtTimeCtl 0 0 0x40000000) = 1) ∧
    ptpHears ((runSt.rset .mgtPtpCtl 0 0 0x80000005).rset .mgtEthCtl 0 0 0x80000000) 5 = true ∧
    (bitB ((setTimeBit runSt 1 true).rget .mgtTimeStatus 0 0) 1 = true ∧ runSt.mgmt.master = none) := by
  decide +kernel

/-! ## Resilience, power, the Curator, the management ports, debug -/

theorem test_witness_ResilienceRows :
    domOn runSt 23 = true ∧ nextRisk 0 16 2 = 16 ∧ nextRisk 100 60 2 = 90 ∧
    (let s := { busySt with ras := { busySt.ras with snap := some ⟨1, 0x10000, 64, 0x11000, 0⟩ } }
     domOn s 25 = true ∧ s.ras.snap.isSome = true) ∧
    StorageGood busySt ∧ Writable .bar0 (RegName.rasAnnexCmd.at 0 0) busySt ∧ Canonical busySt ∧
    busySt.ras.snap = none ∧ busySt.ras.cmd = none ∧
    (let s := setAnnex busySt 0 { state := 2, len := 64 }
     (annexOf s (Fin.ofNat 4 (bitsN (0x10000 : W64) 58 2))).state = 2 ∧
      (dataSpan s (bitsN (0x10000 : W64) 12 36 * 4096) (annexOf s 0).len).isSome = true) ∧
    (∀ r ∈ [true, false], ({ busySt with ras := { busySt.ras with cmd := some ⟨r, 0, 0x10000, 101⟩ } }).ras.cmd =
      some ⟨r, 0, 0x10000, 101⟩) ∧
    (let s := pathPut (pathPut runSt 0 { running := true, merged := true }) 2 { running := true }
     (vAt s.host.paths {} 0).running = true ∧ (vAt s.host.paths {} 0).merged = true ∧ pathOpen s 0 = true ∧
      (vAt s.host.paths {} 2).running = true ∧ (vAt s.host.paths {} 2).merged = false) :=
  ⟨by decide +kernel, by decide +kernel, by decide +kernel, by decide +kernel, storageGood_of (by decide +kernel),
    writable_of (by decide +kernel), canonical_of (by decide +kernel), by decide +kernel⟩

/-- `runSt` in SLEEP. -/
def sleepSt : State := setPwrState runSt 3

theorem test_witness_PowerStateRows :
    (let s := { runSt with power := { runSt.power with off := true } }
     s.power.off = true ∧ s.power.offReq = false) ∧
    (State.reset.power.off = false ∧ pwrState State.reset = 1 ∧ State.reset.power.phase = 1) ∧
    (let s := { State.reset with power := { State.reset.power with phase := 3 } }
     s.power.off = false ∧ pwrState s = 1 ∧ s.power.phase = 3) ∧
    Canonical State.reset ∧ Writable .bar0 (RegName.pwrCtl.at 0 0) runSt ∧ Writable .bar0 (RegName.pwrReset.at 0 0) runSt ∧
    (runSt.power.wake = none ∧ runSt.power.target = none ∧ pwrState runSt = 2 ∧ runSt.host.cmds = [] ∧
      stepOpen runSt = false ∧ computeReady runSt = true ∧
      (∀ p, (runSt.core p).runstate = 0 ∨ (runSt.core p).runstate = 6 ∨ (runSt.core p).runstate = 7) ∧
      sleepReason (runSt.modCore 0 fun c => { c with runstate := 2 }) = some 2) ∧
    (sleepSt.power.wake = none ∧ pwrState sleepSt = 3 ∧ sleeping sleepSt = true ∧ sleepSt.power.lost = []) ∧
    Canonical sleepSt ∧ runSt.map[(0 : Fin 72).val].role = 0 ∧ domOn runSt 0 = true :=
  ⟨by decide +kernel, by decide +kernel, by decide +kernel, canonical_of (by decide +kernel), writable_of (by decide +kernel),
    writable_of (by decide +kernel), by decide +kernel, by decide +kernel, canonical_of (by decide +kernel), by decide +kernel⟩

theorem test_witness_PowerProtectionRows :
    Canonical runSt ∧ runSt.power.off = false ∧ pwrState runSt = 2 ∧ (0 : Fin 16).val ∉ runSt.power.droop ∧
    domOn runSt 23 = true ∧
    (let s := { runSt with power := { runSt.power with hot := [3] } }
     (∀ i : Fin 16, i.val ∈ s.power.hot → ((Vector.replicate 16 109 : Vector Byte 16)[i.val]).toNat < 110) ∧
      ∃ i : Fin 16, i.val ∈ s.power.hot ∧ 110 ≤ ((Vector.replicate 16 110 : Vector Byte 16)[i.val]).toNat) ∧
    (b2n (decide (sustLimit runSt < 0)) + 2 * b2n (decide (peakLimit runSt < 0)) + 4 * b2n (tooHot runSt) = 0 ∧
      b2n (decide (sustLimit runSt < 3000)) ≠ 0 ∧ 0 < 97 * peakLimit runSt ∧ 0 < 97 * sustLimit runSt ∧ tooHot runSt = false) ∧
    (watched runSt 0 = true ∧ watched sleepSt 7 = true ∧ (0 : Fin 10).val ∉ runSt.power.lost) ∧
    (let s (k : Nat) := { setPwrState runSt k with power := { (setPwrState runSt k).power with lost := [7] } }
     (s 7).power.lost ≠ [] ∧ pwrState (s 7) = 7 ∧ pwrState (s 3) ≠ 7) ∧
    (let s := { runSt with fab := { runSt.fab with d06Dead := true } }
     s.power.lost = [] ∧ s.fab.d06Dead = true) :=
  ⟨canonical_of (by decide +kernel), by decide +kernel⟩

/-- `runSt` in a life-cycle state, with firmware running. -/
def lcSt (k : BitVec 3) : State := { runSt with cur := { runSt.cur with lc := k, image := some [], devSeed := some [1], aliasSeed := some [2] } }.rset .curStatus 0 0 1

theorem test_witness_CuratorRows :
    Writable .bar0 (RegName.curFwCmd.at 0 0) (lcSt 1) ∧ Writable .bar0 (RegName.curLcCmd.at 0 0) (lcSt 1) ∧
    Writable .bar0 (RegName.curSvcCmd.at 0 0) (lcSt 1) ∧ Writable .i3c (RegName.curFwCmd.at 0 0) { State.reset with
      power := { State.reset.power with phase := 2 } } ∧ Canonical (lcSt 1) ∧
    (curatorBusy (lcSt 1) = false ∧ firmwareRuns (lcSt 1) = true ∧
      recoveryWait { State.reset with power := { State.reset.power with phase := 2 } } = true) ∧
    (let s := { lcSt 1 with cur := { (lcSt 1).cur with fw := some { update := true, len := 4096, writing := true } } }
     s.cur.fw = some { update := true, len := 4096, writing := true } ∧ domOn s 23 = true) ∧
    (tokenTransition (lcSt 2).cur.lc 3 = true ∧ tokenTransition (lcSt 1).cur.lc 4 = false ∧ (lcSt 1).cur.lc ≠ 5 ∧
      (lcSt 1).cur.scrap = none) ∧
    (let s := lcSt 1
     s.cur.lc = 1 ∧ (∃ i : BitVec 7, i.toNat ≤ 71 ∧
        (vAt ({ s with map := s.map.set 7 { role := 2, logical := 0 } }).map ⟨3, 0⟩ i.toNat).role = 2) ∧
      ({ s with memMap := s.memMap &&& ~~~1 }).memMap.getLsbD 0 = false) ∧
    ((lcSt 0).cur.lc = 0 ∧ curatorBusy (lcSt 0) = false) ∧
    (let s := { lcSt 1 with cur := { (lcSt 1).cur with wipe := some 1 } }
     s.cur.wipe = some 1 ∧ domOn s 23 = true ∧ s.cur.heldWrites = [] ∧ s.cur.heldSpdm = [] ∧ s.cur.lcOp = none) ∧
    (doeUp (lcSt 1) = true ∧ hasIdentity (lcSt 1) = true ∧ (lcSt 1).cur.wipe = none ∧
      (lcSt 1).cur.devSeed = some [1] ∧ (lcSt 1).cur.aliasSeed = some [2]) :=
  ⟨writable_of (by decide +kernel), writable_of (by decide +kernel), writable_of (by decide +kernel),
    writable_of (by decide +kernel), canonical_of (by decide +kernel), by decide +kernel⟩

theorem test_witness_ManagementRows :
    (portUp runSt false = true ∧ portUp (runSt.rset .mgtEthCtl 0 0 0x80000000) true = true ∧ portBusy runSt false = false) ∧
    (portRefusal runSt 0 4 = none ∧ portRefusal runSt 0 8 = none ∧ portRefusal runSt 2 4 = some 2 ∧ runSt.cur.wipe = none) ∧
    (portRefusal (setPwrState runSt 6) 0x02000000 4).isSome = true ∧
    (let h : HeldWrite := { w := .i3c, off := 0, size := 4, v := 0, port := true }
     ([h].find? fun h => h.port && decide (h.w = portWriter false)) = some h) ∧
    domOn runSt 23 = true ∧ runSt.mgmt.i3c.dynAddr = none := by
  decide +kernel

theorem test_witness_DebugRows :
    Writable .bar0 (RegName.dbgPmcCtl.at 0 0) runSt ∧ Writable .bar0 (RegName.dbgObsSel.at 0 0) runSt ∧ Canonical runSt ∧
    (pwrState runSt = 2 ∧ runSt.dbg.snap = false ∧ runSt.dbg.clear = false) ∧
    (let s := { runSt with dbg := { runSt.dbg with snap := true } }
     s.dbg.snap = true ∧ s.dbg.at_.toNat ≤ s.timeNs.toNat ∧ domOn s 0 = true ∧ domOn s 1 = true ∧ domOn s 2 = true ∧
      domOn s 6 = true) ∧
    (runSt.power.off = false ∧ State.reset.power.perst = true ∧ runSt.power.perst = false ∧
      ∀ p, (State.reset.core p).runstate ≠ 2 ∧ (State.reset.core p).runstate ≠ 3 ∧ (State.reset.core p).runstate ≠ 4) ∧
    (debugOpen (lcSt 1) = true ∧ dbgError (lcSt 1) 0 = false ∧ debugOpen (lcSt 3) = false) :=
  ⟨writable_of (by decide +kernel), writable_of (by decide +kernel), canonical_of (by decide +kernel), by decide +kernel⟩

/-- A queue with a command, and an empty one. -/
theorem test_witness_step : ({ runSt with pending := [.obsSelect .bar0 0] }).pending = [.obsSelect .bar0 0] ∧
    runSt.pending = [] := by
  decide +kernel

/-! ## Witnesses of the clauses about the front end's idle clock, waits, latches and drains -/

theorem test_witness_IdleStepIsClock_quiet : (∀ p, (runSt.core p).runstate ≠ 2) ∧
    ∀ i, (portOf runSt i).state ≠ 2 ∧ (portOf runSt i).state ≠ 3 ∧ (portOf runSt i).state ≠ 4 := by
  decide +kernel

/-- `busySt` with the handover bank of core 0 in a wipe: a load of it waits. -/
def wipedSt : State := (busyWith fun c => { c with s := c.s.set 5 0x800000F00000 }).rset .vtrOwn 0 0 0x40000000

theorem test_witness_EngineRowsStart_waits :
    let o : OpS := { rd := 7, ra := 5, sz := 3 }
    StartsNow .sld (.s o) k0 .su wipedSt ∧
    ¬ Unheld wipedSt (runEntry 0 (issuedEntry .sld (.s o) k0 wipedSt) (atStart .sld (.s o) k0 .su wipedSt)).st :=
  ⟨startsNow_of (by decide +kernel), by unfold Unheld; decide +kernel⟩

/-- The line of `SADD RD = 7, RA = 1, RB = 2` (GROUP 1, FUNC 0), and of a word of the reserved group 12 (R56, R57, R61). -/
def wordLine (bits7970 rest : Nat) : List Byte := leBytes 16 (bits7970 * 2 ^ 70 + rest) ++ List.replicate 112 0

theorem test_witness_StoredWordIssues :
    (let s := busyWith fun c => { c with ibuf := [(0, wordLine 0x040 (7 * 2 ^ 65 + 1 * 2 ^ 60 + 2 * 2 ^ 55))] }
     canIssue (s.core 0) 0 = true ∧ hasLine (s.core 0) 0 = true ∧ wordOp (bufferedWord (s.core 0) 0) = some .sadd ∧
      wordArgs (bufferedWord (s.core 0) 0) .sadd = .s { rd := 7, ra := 1, rb := 2 }) ∧
    (let s := busyWith fun c => { c with ibuf := [(0, wordLine 0x300 0)] }
     canIssue (s.core 0) 0 = true ∧ hasLine (s.core 0) 0 = true ∧ eccFree (s.core 0) = true ∧ (s.core 0).frec.valid = false ∧
      wordOp (bufferedWord (s.core 0) 0) = none) ∧
    (let s := busyWith fun c => { c with ibuf := [] }
     canIssue (s.core 0) 0 = true ∧ hasLine (s.core 0) 0 = false ∧ codeBase s 0 = some 0x100100 ∧ goodB s = true ∧
      (s.core 0).extent.toNat = 0x1000) ∧
    (opEngine (.engineNop 9)).isSome = true ∧ wordOp (BitVec.ofNat 128 (0x27F * 2 ^ 70)) = some (.engineNop 9) := by
  decide +kernel

/-- Halves of a 64-bit register, and a register of 32 bits: CUR_FW_ADDR and GLB_STATUS. -/
theorem test_witness_HostAccessRows_latch :
    let lo := RegName.curFwAddr.at 0 0
    let s := setLatch runSt 0 fun l => { l with wr := some (lo, 5) }
    Writable .bar0 lo runSt ∧ Writable .bar0 (lo + 4) s ∧ ifaceOf .bar0 = some 0 ∧
    ((findReg lo).map fun h => (h.reg.info.width, h.upper)) = some (64, false) ∧
    ((findReg (lo + 4)).map fun h => (h.reg.info.width, h.upper)) = some (64, true) ∧ (latchOf s 0).wr = some (lo, 5) ∧
    Unheld s (applyWrite (dropWr s .bar0) .bar0 ⟨lo, 8, 0⟩) ∧
    ((findReg (RegName.pwrCtl.at 0 0)).map fun h => (h.reg.info.width, h.upper)) = some (32, false) :=
  ⟨writable_of (by decide +kernel), writable_of (by decide +kernel), by decide +kernel, by decide +kernel, by decide +kernel,
    by decide +kernel, by unfold Unheld; decide +kernel, by decide +kernel⟩

theorem test_witness_FunctionRows_codes : subRangeLow 6 = some 65000 ∧ subRangeLow 3 = none ∧ maxPayload runSt = 128 := by decide

/-- An ACC that adds to a buffer, one outside every entry, and a contribution that meets no wait. -/
theorem test_witness_RequestRows_acc :
    let a (x : Nat) : Txn := { ttype := 3, addr := BitVec.ofNat 48 x, data := List.replicate 32 0 }
    let c : Txn := { ttype := 3, addr := 1, data := List.replicate 32 0 }
    let l : Txn := { ttype := 5, data := leBytes 8 (3 + 2 ^ 32) ++ leBytes 8 5 ++ List.replicate 48 0 }
    accBkt (a 0x10000) = false ∧ (dataSpan busySt (accAddr (a 0x10000)) 64).isSome = true ∧
    dataSpan busySt (accAddr (a 0x300000)) 64 = none ∧ accBkt c = true ∧ (arriveContrib busySt c (.remote c)).vit.met = busySt.vit.met ∧
    (takeInbox busySt l 5).isSome = true ∧
    (acceptLoan (sendTxn busySt (respond busySt l 8)) l.src (msgStep l) (msgHalf l)).vit.met = busySt.vit.met := by
  decide +kernel

theorem test_witness_retry :
    let t : Txn := { ttype := 3, dst := ownId busySt, addr := 1, data := List.replicate 32 0 }
    let u : ReqUse := .contrib 0 1 5
    t.dst = ownId busySt ∧ ({ t with dst := 9 } : Txn).dst ≠ ownId busySt ∧
    (arriveContrib (busySt.modCore 0 fun c => orSticky c .cp 2) t (.own t u)).vit.met = busySt.vit.met := by
  decide +kernel

theorem test_witness_TimeRows_exchange :
    let s := { (portSt 4).rset .zmzTimeCtl 0 0 0x80000000 with fab := { (portSt 4).fab with exch := some (7, 9) } }
    domOn s 6 = true ∧ portActive s (timePort s) = true ∧ s.fab.exch = some (7, 9) ∧
    portActive (applyHeader (fecStep s (timePort s) {}).1 (timePort s) { ftype := 3 }) (timePort s) = true := by
  decide +kernel

/-- A write that a port takes at once, one half that it latches, and one that a wipe holds. -/
theorem test_witness_ManagementRows_writes :
    let lo := RegName.curFwAddr.at 0 0
    let ctl := RegName.mgtEthCtl.at 0 0
    let w := { runSt with cur := { runSt.cur with wipe := some 1 } }
    portRefusal runSt lo 4 = none ∧ (latchStep runSt .i3c lo 4 5).2 = none ∧ portRefusal runSt ctl 4 = none ∧
    (let l := latchStep runSt .i3c ctl 4 5
     l.2 = some ⟨ctl, 4, 5⟩ ∧ Unheld runSt (applyWrite l.1 .i3c ⟨ctl, 4, 5⟩) ∧
      portBusy (applyWrite l.1 .i3c ⟨ctl, 4, 5⟩) false = false) ∧
    heldByWipe w ⟨ctl, 4, 5⟩ = true ∧ refusedInWipe ⟨ctl, 4, 5⟩ = false :=
  ⟨by decide +kernel, by decide +kernel, by decide +kernel, ⟨by decide +kernel, by unfold Unheld; decide +kernel, by decide +kernel⟩,
    by decide +kernel, by decide +kernel⟩

/-- An entry to SLEEP with nothing outstanding, and with a line of an accumulation to add. -/
theorem test_witness_PowerStateRows_drained :
    let s := { runSt with power := { runSt.power with target := some 3 } }
    Canonical s ∧ s.power.target = some 3 ∧ s.col.reqs = [] ∧ s.col.accq = [] ∧ s.host.reqs = [] ∧
    ({ s with col := { s.col with accq := [{ shard := none, addr := 0, vals := [], last := true, reply := .nobody }] } }).col.accq ≠ [] :=
  ⟨canonical_of (by decide +kernel), by decide +kernel⟩

/-! ## What the front end and the L1 do in one clock -/

/-- A stored SADD issues as its row: the program counter moves on, and S7 is 5 − 3 (R28, R57). -/
theorem test_stored_sadd :
    let s := busyWith fun c => { c with ibuf := [(0, wordLine 0x040 (7 * 2 ^ 65 + 1 * 2 ^ 60 + 2 * 2 ^ 55))] }
    (streamOf ((frontStream 0 s 0).core 0) 0).pc = 16 ∧ vAt ((frontStream 0 s 0).core 0).s 0 7 = 2 := by
  decide +kernel

/-- An undefined word stops the core with E_CORE_OPCODE and bits [79:70] (R59). -/
theorem test_stored_reserved :
    let s := busyWith fun c => { c with ibuf := [(0, wordLine 0x300 0)] }
    ((frontStream 0 s 0).core 0).frec.code = 0x0101 ∧ ((frontStream 0 s 0).core 0).frec.detail = 0x300 := by
  decide +kernel

/-! ## Witnesses of the clauses about held and dropped accesses, resets and refusals -/

/-- A retirement with FORCE of a core that a dispatch holds. -/
theorem test_witness_CoreAndVitrineWrites_force :
    bitB (0x80000100 : W32) 31 = true ∧ bitB (0x80000100 : W32) 8 = true ∧ bitsN (0x80000100 : W32) 0 7 = 0 ∧
    busySt.map[0].role = 0 ∧ busySt.host.retire = none ∧ Canonical busySt ∧
    (dispatchOfCore busySt 0).map (fun d => (d.done, d.stopping, d.aborted)) = some (false, false, false) :=
  ⟨by decide, by decide, by decide, by decide +kernel, by decide +kernel, canonical_of (by decide +kernel), by decide +kernel⟩

/-- `ringSt` with ring 37 uncached, its context being read, and a BAR4 write that waits. -/
def missSt : State := ringPut ringSt 37 { ring37 with cached := false }

theorem test_witness_RingFlowRows_miss :
    (bar2Served ringSt = true ∧ sleeping ringSt = false ∧ writeHeld ringSt = false) ∧
    (bar2Served missSt = true ∧ (ringGet missSt 37).state = 1 ∧ (ringGet missSt 37).cached = false ∧ missRead missSt 37 = false) ∧
    (let s := hostRead missSt (.miss 37 [(7, true, false)]) (contextAddr missSt 37) 64
     bar2Served s = true ∧ missRead s 37 = true ∧ (ringGet s 37).cached = false) ∧
    (let s := { ringSt with power := { ringSt.power with held := [.write4 0 []] } }
     bar2Served s = true ∧ sleeping s = false ∧ writeHeld s = true) ∧
    (let s := { ringSt with power := { ringSt.power with d3hot := true } }
     hostLink s = true ∧ bar2Served s = false) ∧
    (let q : HostReq := ⟨10, 9, 0, 0, 64⟩
     let s := { ringSt with host := { ringSt.host with reqs := [q] } }
     pcieUp s = true ∧ (takeReq s 10).map (·.1) = some q ∧ ((takeReq s 10).bind fun x => readOf x.2 x.1) = none) ∧
    belowFloor ringSt = false := by
  decide +kernel

/-- An FLR that has drained, and one with a line of an accumulation to add. -/
theorem test_witness_FunctionRows_drained :
    let s := { runSt with power := { runSt.power with flr := true } }
    s.col.accq = [] ∧ Canonical runSt ∧
    ({ s with col := { s.col with accq := [{ shard := none, addr := 0, vals := [], last := true, reply := .nobody }] } }).col.accq ≠ [] :=
  ⟨by decide +kernel, canonical_of (by decide +kernel), by decide +kernel⟩

theorem test_witness_MemoryRows_accumulator :
    let o : AccOp := { shard := none, addr := 0x10000, vals := List.replicate 16 0x3F80, last := false, reply := .nobody }
    let s := { busySt with col := { busySt.col with accq := [o] } }.rset .memStatus (ctrlOf busySt 0x10000).1 0 1
    Canonical s ∧ StorageGood s ∧ s.col.reqs.length < collTags ∧ memState s (ctrlOf s 0x10000).1 = 1 ∧ 0x10000 + 64 ≤ memTop s :=
  ⟨canonical_of (by decide +kernel), storageGood_of (by decide +kernel), by decide +kernel, by decide +kernel, by decide +kernel⟩

/-- A lane that the port does not use, attempts that lock and that do not, a port of role BYPASS_IDLE, and the ports of a retrain. -/
theorem test_witness_LinkRows_lanes :
    (let s := modPort (portSt 4) 0 fun x => { x with lanes := 3 }
     bitB (portOf s 0).lanes 2 = false ∧ bitB (portOf s 0).lanes 1 = true) ∧
    (let s := portSt 1
     let y (trained : BitVec 4) := portOf (narrow s 0 ((portOf s 0).good &&& ~~~((portOf s 0).lanes &&& ~~~trained))) 0
     (y 0xF).state ≠ 6 ∧ (y 0xF).lanes &&& ~~~((portOf s 0).lanes &&& 0xF) = 0 ∧
      ¬ ((y 0).state ≠ 6 ∧ (y 0).lanes &&& ~~~((portOf s 0).lanes &&& 0) = 0)) ∧
    (portActive (portSt 4) 0 = true ∧ portRole (portSt 4) 0 ≠ 1 ∧ portRole ((portSt 4).rset .zmzRole 0 0 1) 0 = 1) ∧
    ((portOf (portSt 7) 0).state = 7 ∧ (portOf (portSt 0) 0).state.toNat ∉ [2, 3, 4, 7]) := by
  decide +kernel

/-- UNLOAD where the address register lies in a live entry, and where it does not. -/
theorem test_witness_planUnload : entryAt planRecSt (planRecSt.rget .colPlanAddr 0 0).toNat = true ∧
    entryAt runSt (runSt.rget .colPlanAddr 0 0).toNat = false ∧ Writable .bar0 (RegName.colPlanCtl.at 0 0) runSt ∧
    stepOpen runSt = false ∧ cpBusy runSt = false :=
  ⟨by decide +kernel, by decide +kernel, writable_of (by decide +kernel), by decide +kernel, by decide +kernel⟩

/-- Offsets inside and outside 100 ppm, an exchange in ALIGN, and a request with VALID set. -/
theorem test_witness_TimeRows_range :
    (-25600 ≤ (25600 : BitVec 16).toInt ∧ (25600 : BitVec 16).toInt ≤ 25600 ∧ ¬ (25601 : BitVec 16).toInt ≤ 25600) ∧
    (let s := (portSt 2).rset .zmzTimeCtl 0 0 0x80000000
     domOn s 6 = true ∧ domOn s 24 = true ∧ bitB (s.rget .zmzTimeCtl 0 0) 31 = true ∧ (portOf s (timePort s)).state.toNat ∈ [2, 3, 4]) ∧
    timeValid (setTimeBit (portSt 2) 0 true) = true ∧ syntSource (portSt 4) ≠ 1 := by
  decide +kernel

theorem test_witness_ResilienceRows_risk : Canonical runSt ∧ runSt.cur.wipe = none ∧ runSt.cur.logBad = false ∧
    bitB (runSt.rget .rasCtl 0 0) 30 = false ∧ domOn runSt 23 = true :=
  ⟨canonical_of (by decide +kernel), by decide +kernel⟩

/-- An exit, one that a loss or a warm reset follows, and the states of a warm reset and of REQ = OFF. -/
theorem test_witness_PowerStateRows_exits :
    (let s (w l : Bool) : State := { sleepSt with power := { sleepSt.power with wake := some 1, warmAfter := w, lossAfter := l } }
     ∀ w l, (s w l).power.wake = some 1 ∧ (s w l).power.target = none ∧ pwrState (s w l) = 3 ∧ (s w l).power.lost = [] ∧
      (s w l).power.warmAfter = w ∧ (s w l).power.lossAfter = l) ∧
    (let s := { State.reset with power := { State.reset.power with phase := 3 } }
     Writable .i3c (RegName.pwrReset.at 0 0) s ∧ pwrState s = 1 ∧ s.power.phase = 3 ∧ s.power.target = none) ∧
    (let s := { State.reset with power := { State.reset.power with phase := 2 } }
     Writable .i3c (RegName.pwrReset.at 0 0) s ∧ sleeping s = false ∧ ¬ (pwrState s = 2 ∨ (pwrState s = 1 ∧ s.power.phase = 3))) ∧
    (inTransition runSt = false ∧
      let s := { runSt with power := { runSt.power with target := some 3 } }
      Writable .bar0 (RegName.pwrCtl.at 0 0) s ∧ inTransition s = true) ∧
    Canonical runSt :=
  ⟨by decide +kernel, ⟨writable_of (by decide +kernel), by decide +kernel⟩, ⟨writable_of (by decide +kernel), by decide +kernel⟩,
    ⟨by decide +kernel, writable_of (by decide +kernel), by decide +kernel⟩, canonical_of (by decide +kernel)⟩

/-- A source that is lost in FAULT. -/
theorem test_witness_PowerProtectionRows_fault :
    let s := setPwrState runSt 5
    Canonical s ∧ s.power.off = false ∧ watched s 0 = true ∧ (0 : Fin 10).val ∉ s.power.lost ∧ pwrState s = 5 :=
  ⟨canonical_of (by decide +kernel), by decide +kernel⟩

/-- A command of the Curator that a wipe holds to refuse. -/
theorem test_witness_ManagementRows_refused :
    let go := RegName.curSvcCmd.at 0 0
    let w := { runSt with cur := { runSt.cur with wipe := some 1 } }
    portUp w false = true ∧ portBusy w false = false ∧ portRefusal w go 4 = none ∧ heldByWipe w ⟨go, 4, 0x80000000⟩ = true ∧
    refusedInWipe ⟨go, 4, 0x80000000⟩ = true ∧ (latchStep w .i3c go 4 0x80000000).2 = some ⟨go, 4, 0x80000000⟩ := by
  decide +kernel

/-- An instant at which every domain of the counters runs, and one at which D00 alone does. -/
theorem test_witness_DebugRows_instant :
    let s := { runSt with dbg := { runSt.dbg with snap := true } }
    let d := (s.rmod .clkDom 0 2 fun v => setBit v 0 false).rmod .clkDom 0 6 fun v => setBit v 0 false
    s.dbg.acted = [] ∧ Canonical d ∧ d.dbg.snap = true ∧ d.dbg.at_.toNat ≤ d.timeNs.toNat ∧ d.dbg.acted = [] ∧ domOn d 0 = true ∧
    domOn d 2 = false ∧ domOn d 6 = false ∧ d.power.dead = false :=
  ⟨by decide +kernel, canonical_of (by decide +kernel), by decide +kernel⟩

end Sys2Proof.Tests
end

/-! # VPERM (R78): the walk over whole lanes, and where the statement about it fails -/

namespace Sys2Proof.Machine

/-! ## Reads of V registers and masks -/

theorem vGet_congr {c d : Core} (h : d.v = c.v) (r : BitVec 5) (lane : Nat) : vGet d r lane = vGet c r lane := by
  unfold vGet
  rw [h]

theorem activeAt_congr {c d : Core} (h : d.m = c.m) (o : OpV) (lane : Nat) (hi : Bool) : activeAt d o lane hi = activeAt c o lane hi := by
  unfold activeAt maskBit
  simp only [h]

/-- A place beyond lane 511 of a register is a place of the next one. -/
theorem vGet_lane_512 (c : Core) {r q : BitVec 5} (h : q.toNat = r.toNat + 1) : vGet c r 512 = vGet c q 0 := by
  unfold vGet
  rw [h, Nat.add_mul, Nat.one_mul, Nat.add_zero]

/-! ## One lane written -/

/-- Two cores that differ only in lanes of V registers, in what the instruction records of its writes to them, and in the errors that the
writes cleared. -/
def SameButLanes (c d : Core) : Prop := d = { c with v := d.v, outV := d.outV, ecc := d.ecc, ecc1 := d.ecc1 }

theorem SameButLanes.refl (c : Core) : SameButLanes c c := rfl

theorem SameButLanes.trans {c d e : Core} (h : SameButLanes c d) (k : SameButLanes d e) : SameButLanes c e := by
  unfold SameButLanes at *
  rw [k, h]

theorem SameButLanes.m {c d : Core} (h : SameButLanes c d) : d.m = c.m := by rw [show d = _ from h]
theorem SameButLanes.frec {c d : Core} (h : SameButLanes c d) : d.frec = c.frec := by rw [show d = _ from h]
theorem SameButLanes.runstate {c d : Core} (h : SameButLanes c d) : d.runstate = c.runstate := by rw [show d = _ from h]

theorem vPut_same (c : Core) (r : BitVec 5) (lane : Nat) (x : W32) : SameButLanes c (vPut c r lane x) := rfl

/-- The lanes of a core are in canonical form. -/
def LanesWf (c : Core) : Prop := smapWf (fun _ => (0 : W32)) c.v = true

theorem vPut_wf {c : Core} (h : LanesWf c) (r : BitVec 5) (lane : Nat) (x : W32) : LanesWf (vPut c r lane x) := smapPut_wf _ x h

theorem vGet_vPut_same {c : Core} (h : LanesWf c) (r : BitVec 5) (lane : Nat) (x : W32) : vGet (vPut c r lane x) r lane = x :=
  smapGet_put_same _ x h

theorem vGet_vPut_other {c : Core} (h : LanesWf c) {r q : BitVec 5} {lane i : Nat} (x : W32)
    (hne : q.toNat * 512 + i ≠ r.toNat * 512 + lane) : vGet (vPut c r lane x) q i = vGet c q i :=
  smapGet_put_other x hne h

/-- An element of 32 bits is its whole lane. -/
theorem elemPut_32 (x y : W32) : elemPut 32 0 x y = y := by
  have hm : (BitVec.ofNat 32 ((2 ^ 32 - 1) * 2 ^ (0 * 32)) : W32) = BitVec.allOnes 32 := by decide
  have hy : BitVec.ofNat 32 (y.toNat % 2 ^ 32 * 2 ^ (0 * 32)) = y := by
    apply BitVec.eq_of_toNat_eq
    simp [Nat.mod_eq_of_lt y.isLt]
  unfold elemPut setBits
  dsimp only
  rw [hm, hy]
  simp

theorem putElem_fp32 (c : Core) (r : BitVec 5) (lane : Nat) (x : W32) : putElem c .fp32 r lane 0 x = vPut c r lane x := by
  unfold putElem vPut
  rw [show ETy.fp32.width = 32 from rfl, elemPut_32, elemPut_32]

/-! ## The walk on one word for each lane -/

section
variable (o : OpV) (f : Nat → W32 × Flags)

/-- One lane of the walk: `elemStep` where the element is the lane. -/
def laneStep (acc : Core × Flags) (lane : Nat) : Core × Flags :=
  if activeAt acc.1 o lane false then (vPut acc.1 o.vd lane (f lane).1, acc.2 ||| (f lane).2)
  else if o.mz then (vPut acc.1 o.vd lane 0, acc.2)
  else acc

/-- The walk over the first n lanes. -/
def walkLanes (c : Core) (n : Nat) : Core × Flags := (List.range n).foldl (laneStep o f) (c, 0)

/-- What the walk leaves in a lane of VD (R128). -/
def laneAfter (c : Core) (lane : Nat) : W32 :=
  if activeAt c o lane false then (f lane).1 else if o.mz then 0 else vGet c o.vd lane

theorem elemStep_fp32 (acc : Core × Flags) (lane : Nat) :
    elemStep o .fp32 (pureElem fun l _ => f l) acc (lane, 0) = laneStep o f acc lane := by
  unfold elemStep laneStep pureElem
  simp only [putElem_fp32]
  rfl

theorem elemPlaces_one (n : Nat) : elemPlaces n 1 = (List.range n).map fun lane => (lane, 0) := by
  exact List.map_eq_flatMap.symm

theorem elemWise_fp32 (c : Core) : elemWise o .fp32 (pureElem fun l _ => f l) c = walkLanes o f c (vlOf o) := by
  unfold elemWise walkLanes
  rw [show ETy.fp32.perLane = 1 from rfl, elemPlaces_one, List.foldl_map]
  simp only [elemStep_fp32]

@[simp] theorem walkLanes_zero (c : Core) : walkLanes o f c 0 = (c, 0) := rfl

theorem walkLanes_succ (c : Core) (n : Nat) : walkLanes o f c (n + 1) = laneStep o f (walkLanes o f c n) n := by
  unfold walkLanes
  rw [List.range_succ, List.foldl_append]
  rfl

theorem laneStep_same (acc : Core × Flags) (lane : Nat) : SameButLanes acc.1 (laneStep o f acc lane).1 := by
  unfold laneStep
  split
  · exact vPut_same _ _ _ _
  · split
    · exact vPut_same _ _ _ _
    · exact SameButLanes.refl _

theorem walkLanes_same (c : Core) (n : Nat) : SameButLanes c (walkLanes o f c n).1 := by
  induction n with
  | zero => exact SameButLanes.refl c
  | succ n ih =>
    rw [walkLanes_succ]
    exact ih.trans (laneStep_same o f _ n)

theorem activeAt_walkLanes (c : Core) (n lane : Nat) : activeAt (walkLanes o f c n).1 o lane false = activeAt c o lane false :=
  activeAt_congr (walkLanes_same o f c n).m o lane false

theorem laneStep_wf {acc : Core × Flags} (h : LanesWf acc.1) (lane : Nat) : LanesWf (laneStep o f acc lane).1 := by
  unfold laneStep
  split
  · exact vPut_wf h _ _ _
  · split
    · exact vPut_wf h _ _ _
    · exact h

theorem walkLanes_wf {c : Core} (h : LanesWf c) (n : Nat) : LanesWf (walkLanes o f c n).1 := by
  induction n with
  | zero => exact h
  | succ n ih =>
    rw [walkLanes_succ]
    exact laneStep_wf o f ih n

theorem vGet_laneStep_same {acc : Core × Flags} (h : LanesWf acc.1) (lane : Nat) :
    vGet (laneStep o f acc lane).1 o.vd lane = laneAfter o f acc.1 lane := by
  unfold laneStep laneAfter
  split
  · exact vGet_vPut_same h _ _ _
  · split
    · exact vGet_vPut_same h _ _ _
    · rfl

theorem vGet_laneStep_other {acc : Core × Flags} (h : LanesWf acc.1) {lane i : Nat} {r : BitVec 5}
    (hne : r.toNat * 512 + i ≠ o.vd.toNat * 512 + lane) : vGet (laneStep o f acc lane).1 r i = vGet acc.1 r i := by
  unfold laneStep
  split
  · exact vGet_vPut_other h _ hne
  · split
    · exact vGet_vPut_other h _ hne
    · rfl

/-- The walk leaves every place of V alone that lies before VD or at or beyond its lane n. -/
theorem vGet_walkLanes_other {c : Core} (h : LanesWf c) {n i : Nat} {r : BitVec 5}
    (hout : r.toNat * 512 + i < o.vd.toNat * 512 ∨ o.vd.toNat * 512 + n ≤ r.toNat * 512 + i) :
    vGet (walkLanes o f c n).1 r i = vGet c r i := by
  induction n with
  | zero => rfl
  | succ n ih =>
    rw [walkLanes_succ, vGet_laneStep_other o f (walkLanes_wf o f h n) (by omega), ih (by omega)]

/-- The walk gives each of its lanes what `laneAfter` says, lanes beyond 511 included. -/
theorem vGet_walkLanes_vd {c : Core} (h : LanesWf c) {n i : Nat} (hi : i < n) :
    vGet (walkLanes o f c n).1 o.vd i = laneAfter o f c i := by
  induction n with
  | zero => omega
  | succ n ih =>
    have hw := walkLanes_wf o f h n
    rw [walkLanes_succ]
    by_cases hin : i = n
    · subst hin
      rw [vGet_laneStep_same o f hw]
      unfold laneAfter
      rw [activeAt_walkLanes, vGet_walkLanes_other o f h (Or.inr (Nat.le_refl _))]
    · rw [vGet_laneStep_other o f hw (by omega), ih (by omega)]

theorem laneStep_flags (acc : Core × Flags) (lane j : Nat) : (laneStep o f acc lane).2.getLsbD j = true ↔
    acc.2.getLsbD j = true ∨ (activeAt acc.1 o lane false = true ∧ (f lane).2.getLsbD j = true) := by
  unfold laneStep
  split
  · next ha => simp [ha]
  · next ha => split <;> simp [ha]

/-- The flags of the walk are those of its active lanes. -/
theorem walkLanes_flags (c : Core) (n j : Nat) : (walkLanes o f c n).2.getLsbD j = true ↔
    ∃ i, i < n ∧ activeAt c o i false = true ∧ (f i).2.getLsbD j = true := by
  induction n with
  | zero => simp
  | succ n ih =>
    rw [walkLanes_succ, laneStep_flags, ih, activeAt_walkLanes]
    constructor
    · rintro (⟨i, hi, hf⟩ | hf)
      · exact ⟨i, by omega, hf⟩
      · exact ⟨n, by omega, hf⟩
    · rintro ⟨i, hi, hf⟩
      by_cases hin : i = n
      · subst hin
        exact Or.inr hf
      · exact Or.inl ⟨i, by omega, hf⟩

end

/-! ## What VPERM leaves -/

theorem SameButFront.v {c d : Core} (h : SameButFront c d) : d.v = c.v := by rw [show d = _ from h]
theorem SameButFront.m {c d : Core} (h : SameButFront c d) : d.m = c.m := by rw [show d = _ from h]
theorem SameButFront.frec {c d : Core} (h : SameButFront c d) : d.frec = c.frec := by rw [show d = _ from h]
theorem SameButFront.runstate {c d : Core} (h : SameButFront c d) : d.runstate = c.runstate := by rw [show d = _ from h]

/-- What VPERM gives an active lane: the lane of VA that its index names, or zero with PERM_OOR. -/
def vpermLane (e : Entry) (o : OpV) (c : Core) (lane : Nat) : W32 × Flags :=
  let i := (opB c e o lane).toNat
  if i < vlOf o then (vGet c o.va i, 0) else (0, fPermOor)

theorem vpermLane_congr {c d : Core} (h : d.v = c.v) (e : Entry) (o : OpV) : vpermLane e o d = vpermLane e o c := by
  funext lane
  unfold vpermLane opB
  simp only [vGet_congr h]

theorem vpermLane_word (e : Entry) (o : OpV) (c : Core) (lane : Nat) :
    (vpermLane e o c lane).1 = if (opB c e o lane).toNat < vlOf o then vGet c o.va (opB c e o lane).toNat else 0 := by
  unfold vpermLane
  dsimp only
  split <;> rfl

theorem vpermLane_oor (e : Entry) (o : OpV) (c : Core) (lane : Nat) :
    (vpermLane e o c lane).2.getLsbD 6 = true ↔ vlOf o ≤ (opB c e o lane).toNat := by
  unfold vpermLane
  dsimp only
  split
  · next h => simpa using h
  · next h => simpa [fPermOor] using h

theorem runVperm_eq (p : Fin 72) (e : Entry) (o : OpV) (s : State) : runVperm p e o s =
    { st := s.modCore p fun c => (walkLanes o (vpermLane e o c) c (vlOf o)).1,
      sticky := (walkLanes o (vpermLane e o (s.core p)) (s.core p) (vlOf o)).2 &&& fPermOor } := by
  simp only [← elemWise_fp32]
  rfl

/-- A VPERM that starts walks its lanes on the core at its start, and changes no other core. -/
theorem vperm_inCore {k : Ctl} {o : OpV} {s : State} (h : StartsNow .vperm (.v o) k .ve s) :
    InCore (.vperm k o) .vperm (.v o) k .ve s fun c =>
      let r := walkLanes o (vpermLane (issuedEntry .vperm (.v o) k s) o c) c (vlOf o)
      (r.1, r.2 &&& fPermOor) :=
  inCore_of _ h rfl (fun x _ => runVperm_eq k.core _ o x) fun c => (walkLanes_same o _ c _).frec

/-- A VPERM that starts gives every lane below VL of VD what `laneAfter` says and leaves alone every place of V before VD and from lane VL of VD
on; its core does not fault, and at its completion it sets PERM_OOR where an active lane's index is at or above VL (R78, R128). This holds
whatever the VL field says. -/
theorem vperm_leaves {k : Ctl} {o : OpV} {s : State} (h : StartsNow .vperm (.v o) k .ve s) (hw : LanesWf (s.core k.core)) :
    let c := s.core k.core
    let e := issuedEntry .vperm (.v o) k s
    ∃ t, exec (.vperm k o) s = .next t ∧ (t.core k.core).runstate = c.runstate ∧ (t.core k.core).frec = c.frec ∧
      (∀ i, i < vlOf o → vGet (t.core k.core) o.vd i = laneAfter o (vpermLane e o c) c i) ∧
      (∀ (r : BitVec 5) (i : Nat), r.toNat * 512 + i < o.vd.toNat * 512 ∨ o.vd.toNat * 512 + vlOf o ≤ r.toNat * 512 + i →
        vGet (t.core k.core) r i = vGet c r i) ∧
      ∃ x, (flightOf (t.core k.core) .ve).getLast? = some x ∧ x.e = e ∧
        (x.sticky.getLsbD 6 = true ↔ ∃ i, i < vlOf o ∧ activeAt c o i false = true ∧ vlOf o ≤ (opB c e o i).toNat) := by
  intro c e
  obtain ⟨t, ht, hran, -, hsame⟩ := vperm_inCore h
  obtain ⟨-, -, hfront, -⟩ := atStart_front h
  dsimp only at hran hsame
  generalize atStart .vperm (.v o) k .ve s = a at hran hsame hfront
  rw [vpermLane_congr hfront.v] at hsame
  have hwa : LanesWf (a.core k.core) := by
    unfold LanesWf
    rw [hfront.v]
    exact hw
  have hwalk := walkLanes_same o (vpermLane e o c) (a.core k.core) (vlOf o)
  refine ⟨t, ht, hsame.runstate.trans (hwalk.runstate.trans hfront.runstate), hsame.frec.trans (hwalk.frec.trans hfront.frec),
    fun i hi => ?_, fun r i hout => ?_, ?_⟩
  · rw [vGet_congr hsame.v, vGet_walkLanes_vd o _ hwa hi]
    unfold laneAfter
    rw [activeAt_congr hfront.m, vGet_congr hfront.v]
  · rw [vGet_congr hsame.v, vGet_walkLanes_other o _ hwa hout, vGet_congr hfront.v]
  · unfold RanTo at hran
    rw [hran, summaryRise_core, modCore_core_same]
    obtain ⟨-, -, -, -, hyoungest⟩ := inProgress_same .ve e _ _
    obtain ⟨x, hx, hxe, hsticky, -⟩ := hyoungest rfl
    refine ⟨x, hx, hxe, ?_⟩
    rw [hsticky, vpermLane_congr hfront.v]
    have hbit : ∀ y : Flags, (y &&& fPermOor).getLsbD 6 = y.getLsbD 6 := fun y => by simp [fPermOor]
    simp only [hbit, walkLanes_flags, vpermLane_oor, activeAt_congr hfront.m]
    rfl

/-! ## R78 for the lengths of R61, and the length that the model accepts beyond them -/

/-- A VPERM of a type that is not of 32 bits is not accepted (R78). -/
theorem vperm_form_needs_ty32 {o : OpV} (h : tyIs ty32 o.type = false) : formOk .vperm (.v o) = false := by
  unfold formOk formOkV
  simp [h]

/-- VPERM is as R78 says where VL is a length that R61 gives, 1 to 512 lanes. -/
theorem vperm_moves_within_table {k : Ctl} {o : OpV} {s : State} (h : StartsNow .vperm (.v o) k .ve s) (hw : LanesWf (s.core k.core))
    (hvl : vlOf o ≤ 512) :
    let c := s.core k.core
    let e := issuedEntry .vperm (.v o) k s
    let b (lane : Nat) : Nat := (opB c e o lane).toNat
    ∃ t, exec (.vperm k o) s = .next t ∧ (t.core k.core).runstate = c.runstate ∧ (t.core k.core).frec = c.frec ∧
      (∀ i, i < vlOf o → activeAt c o i false = true →
        vGet (t.core k.core) o.vd i = if b i < vlOf o then vGet c o.va (b i) else 0) ∧
      (∃ x, (flightOf (t.core k.core) .ve).getLast? = some x ∧ x.e = e ∧
        (x.sticky.getLsbD 6 = true ↔ ∃ i, i < vlOf o ∧ activeAt c o i false = true ∧ vlOf o ≤ b i)) ∧
      ∀ r i, i < 512 → r ≠ o.vd → vGet (t.core k.core) r i = vGet c r i := by
  intro c e b
  obtain ⟨t, ht, hrun, hfrec, hvd, hother, hflight⟩ := vperm_leaves h hw
  refine ⟨t, ht, hrun, hfrec, fun i hi ha => ?_, hflight, fun r i hi hr => hother r i ?_⟩
  · rw [hvd i hi, laneAfter, if_pos ha, vpermLane_word]
  · have hne : r.toNat ≠ o.vd.toNat := fun e => hr (BitVec.eq_of_toNat_eq e)
    omega

/-- A VPERM with VL = 513 in its ten bits, which R61 gives no meaning and the form check accepts. -/
def vperm513 : OpV := { vd := 1, va := 3, vb := 4, vl := 513 }

/-- A core in a dispatch, with the line of its first instruction in the buffer and 1 in lane 0 of V2. -/
def v2Core : Core :=
  { Core.reset 0 2 with
      extent := 0x1000
      ibuf := [(0, List.replicate 128 0)]
      streams := (Vector.replicate 6 ({} : Stream)).set 0 { active := true }
      v := [(2 * 512, 1)] }

/-- The module in RUN with that core as its core 0. -/
def v2St : State := (setPwrState { State.reset with power := { State.reset.power with phase := 4 } } 2).setCore 0 v2Core

theorem vperm513_starts : StartsNow .vperm (.v vperm513) ⟨0, 0, 0⟩ .ve v2St where
  dom := by decide +kernel
  can := by decide +kernel
  line := by decide +kernel
  good := by decide +kernel
  next := by decide +kernel
  eng := rfl
  stream := by decide +kernel
  sync := by decide +kernel
  form := by decide +kernel
  regs := by decide +kernel
  vals := by decide +kernel
  board := by decide +kernel
  empty := rfl
  waits := by decide +kernel
  held := by decide +kernel

theorem v2St_core : v2St.core 0 = v2Core := setCore_core_same _ _ _

theorem v2Core_wf : LanesWf v2Core := by
  unfold LanesWf
  decide +kernel

/-- Every place of V but lane 0 of V2 holds zero: lane 512 of this VPERM has index 0 and takes zero. -/
theorem vperm513_lane_512 (e : Entry) : laneAfter vperm513 (vpermLane e vperm513 v2Core) v2Core 512 = 0 := by
  have hb : opB v2Core e vperm513 512 = 0 := (if_neg (by decide)).trans (by decide +kernel : vGet v2Core vperm513.vb 512 = 0)
  rw [laneAfter, if_pos (by decide), vpermLane_word, hb]
  decide +kernel

/-- VPERM with VL = 513 writes the place of lane 0 of V2, which lies behind lane 511 of its VD. -/
theorem vperm513_writes_v2 : ∃ t, exec (.vperm ⟨0, 0, 0⟩ vperm513) v2St = .next t ∧ vGet (t.core 0) 2 0 = 0 := by
  obtain ⟨t, ht, -, -, hvd, -⟩ := vperm_leaves vperm513_starts (by rw [v2St_core]; exact v2Core_wf)
  rw [v2St_core] at hvd
  refine ⟨t, ht, ?_⟩
  rw [← vGet_lane_512 (t.core 0) (r := 1) (q := 2) rfl]
  exact (hvd 512 (by decide)).trans (vperm513_lane_512 _)

/-- Refutes O18: the form check admits VL = 513 (R61 gives 1 to 511, and 0 for 512), and the walk over 513 lanes then changes lane 0 of the
register behind VD. Within R61's lengths the statement holds (`vperm_form_needs_ty32`, `vperm_moves_within_table`). -/
theorem not_vpermMoves : ¬ Obligations.VpermMoves := by
  unfold Obligations.VpermMoves
  rintro ⟨-, hmoves⟩
  obtain ⟨t, ht, -, -, -, -, hkept⟩ := hmoves ⟨0, 0, 0⟩ vperm513 v2St vperm513_starts (by rw [v2St_core]; exact v2Core_wf)
  obtain ⟨u, hu, hzero⟩ := vperm513_writes_v2
  obtain rfl : t = u := Host.Outcome.next.inj (ht.symm.trans hu)
  have hone : vGet (t.core 0) 2 0 = 1 := by
    rw [hkept 2 0 (by decide) (by decide), v2St_core]
    decide +kernel
  exact absurd (hzero.symm.trans hone) (by decide)

end Sys2Proof.Machine

/-! # VMSET (R133): whole masks, and what else it leaves -/

namespace Sys2Proof.Machine

/-! ## A place of a vector after a write -/

theorem vAt_setIfInBounds_same {α : Type} {n : Nat} (v : Vector α n) (d x : α) {i : Nat} (h : i < n) :
    vAt (v.setIfInBounds i x) d i = x := by
  unfold vAt
  simp [h]

theorem vAt_setIfInBounds_other {α : Type} {n : Nat} (v : Vector α n) (d x : α) {i j : Nat} (h : i ≠ j) :
    vAt (v.setIfInBounds i x) d j = vAt v d j := by
  unfold vAt
  simp [h]

/-! ## The bits of the mask -/

/-- One bit of the mask that a VMSET writes, from the same bit of its two sources and the value of S[VB] (R133). -/
def vmsetBit (fn : Nat) (x y : Bool) (n i : Nat) : Bool :=
  match fn with
  | 0 => x && y
  | 1 => x || y
  | 2 => x ^^ y
  | 3 => !x
  | 4 => decide (i < min n 512)
  | 5 => true
  | _ => false

/-- A count of at most 512, as a mask of 512 bits, has the bits below the count. -/
theorem getLsbD_prefixMask (n : Nat) {i : Nat} (hi : i < 512) :
    (BitVec.ofNat 512 (2 ^ min n 512 - 1)).getLsbD i = decide (i < min n 512) := by
  rw [BitVec.getLsbD_ofNat, Nat.testBit_two_pow_sub_one, decide_eq_true hi, Bool.true_and]

theorem getLsbD_vmset (fn : Nat) (a b : BitVec 512) (n : Nat) {i : Nat} (hi : i < 512) :
    (vmset fn a b n).getLsbD i = vmsetBit fn (a.getLsbD i) (b.getLsbD i) n i :=
  match fn with
  | 0 => BitVec.getLsbD_and
  | 1 => BitVec.getLsbD_or
  | 2 => BitVec.getLsbD_xor
  | 3 => by rw [vmset, vmsetBit, BitVec.getLsbD_not, decide_eq_true hi, Bool.true_and]
  | 4 => getLsbD_prefixMask n hi
  | 5 => BitVec.getLsbD_allOnes.trans (decide_eq_true hi)
  | _ + 6 => BitVec.getLsbD_zero

/-- FX[2:0] of a VMSET is its function. -/
theorem bitsN_low3 {w : Nat} (x : BitVec w) : bitsN x 0 3 = x.toNat % 8 := by
  simp [bitsN]

/-! ## What VMSET leaves -/

/-- The mask that a VMSET writes: its function of two whole masks and S[VB]. -/
def vmsetMask (e : Entry) (o : OpV) (c : Core) : BitVec 512 :=
  vmset (o.fx.toNat % 8) (vAt c.m 0 (o.va.toNat % 8)) (vAt c.m 0 (o.vb.toNat % 8)) e.b.toNat

/-- A core with another value in mask i, and no error left in that mask. -/
def writeMask (c : Core) (i : Nat) (x : BitVec 512) : Core :=
  Core.clean { c with m := c.m.setIfInBounds i x } fun q => decide (q = .m i)

@[simp] theorem writeMask_m (c : Core) (i : Nat) (x : BitVec 512) : (writeMask c i x).m = c.m.setIfInBounds i x := rfl
@[simp] theorem writeMask_v (c : Core) (i : Nat) (x : BitVec 512) : (writeMask c i x).v = c.v := rfl
@[simp] theorem writeMask_frec (c : Core) (i : Nat) (x : BitVec 512) : (writeMask c i x).frec = c.frec := rfl

theorem vmsetMask_congr {c d : Core} (h : d.m = c.m) (e : Entry) (o : OpV) : vmsetMask e o d = vmsetMask e o c := by
  unfold vmsetMask
  rw [h]

theorem runVmset_eq (p : Fin 72) (e : Entry) (o : OpV) (s : State) :
    runVmset p e o s = { st := s.modCore p fun c => writeMask c (o.vd.toNat % 8) (vmsetMask e o c) } := by
  unfold runVmset
  rw [bitsN_low3]
  rfl

/-- A VMSET that starts writes its mask on the core at its start, sets no sticky bit and changes no other core. -/
theorem vmset_inCore {k : Ctl} {o : OpV} {s : State} (h : StartsNow .vmset (.v o) k .ve s) :
    InCore (.vmset k o) .vmset (.v o) k .ve s fun c =>
      (writeMask c (o.vd.toNat % 8) (vmsetMask (issuedEntry .vmset (.v o) k s) o c), 0) :=
  inCore_of _ h rfl (fun x _ => runVmset_eq k.core _ o x) fun c => writeMask_frec c _ _

/-- A VMSET that starts leaves the masks of its core as they were, but for its own mask, and the V registers as they were. -/
theorem vmset_leaves {k : Ctl} {o : OpV} {s : State} (h : StartsNow .vmset (.v o) k .ve s) :
    let c := s.core k.core
    ∃ t, exec (.vmset k o) s = .next t ∧ (t.core k.core).v = c.v ∧
      (t.core k.core).m = c.m.setIfInBounds (o.vd.toNat % 8) (vmsetMask (issuedEntry .vmset (.v o) k s) o c) := by
  intro c
  obtain ⟨t, ht, -, -, hsame⟩ := vmset_inCore h
  obtain ⟨-, -, hfront, -⟩ := atStart_front h
  refine ⟨t, ht, ?_, ?_⟩
  · rw [hsame.v, writeMask_v, hfront.v]
  · rw [hsame.m, writeMask_m, vmsetMask_congr hfront.m, hfront.m]

/-- Settles O19: the mask that VMSET writes has at each of its 512 bits what its function gives, and the write reaches no other mask. -/
theorem vmsetMasks : Obligations.VmsetMasks := by
  unfold Obligations.VmsetMasks
  intro k o s h c n bit
  obtain ⟨t, ht, hv, hm⟩ := vmset_leaves h
  refine ⟨t, ht, hv, fun i hi => ?_, fun j _ hj => ?_⟩
  · rw [hm, vAt_setIfInBounds_same _ _ _ (Nat.mod_lt _ (by decide))]
    exact getLsbD_vmset _ _ _ _ hi
  · rw [hm, vAt_setIfInBounds_other _ _ _ (Ne.symm hj)]

end Sys2Proof.Machine

/-! # The machine as a whole: the invariants of a step, and the order of the queue -/

namespace Sys2Proof.Machine

/-- A command at the front of the queue acts on the state with the rest of the queue. -/
theorem step_front {s : State} {c : Instr} {rest : List Instr} (h : s.pending = c :: rest) :
    step s = exec c { s with pending := rest } := by
  unfold step
  rw [h]

theorem step_idle {s : State} (h : s.pending = []) : step s = .next (clockTick s) := by
  unfold step
  rw [h]

/-- Every step keeps what every command keeps, but for the queue, from which it takes the front command off. -/
theorem step_effL {s t : State} (h : step s = .next t) : EffL { s with pending := s.pending.tail } t := by
  match hp : s.pending with
  | [] =>
    rw [step_idle hp] at h
    cases h
    have hs : ({ s with pending := [].tail } : State) = s := by rw [List.tail_nil, ← hp]
    rw [hs]
    exact (clockTick_eff s (Eff.refl s)).toL
  | c :: rest =>
    rw [step_front hp] at h
    exact exec_effL c _ t h

/-- Settles O4: the canonical forms are kept by every command and by the clock. -/
theorem canonicalKept : Obligations.CanonicalKept := by
  unfold Obligations.CanonicalKept
  rintro s t ⟨hmem, hregs⟩ h
  exact ⟨(step_effL h).mem hmem, (step_effL h).regs hregs⟩

/-- Settles O5: the life cycle moves along R432 only, in every command and in the clock. -/
theorem lifeCycleKept : Obligations.LifeCycleKept := by
  unfold Obligations.LifeCycleKept
  intro s t hop h
  exact ⟨(step_effL h).op hop, (step_effL h).lc hop⟩

/-- Settles O6: what every step keeps of the Curator's records. -/
theorem securityMonotone : Obligations.SecurityMonotone := by
  unfold Obligations.SecurityMonotone
  intro s t h
  exact ⟨(step_effL h).svn, (step_effL h).uds, (step_effL h).tam⟩

/-- Settles O7: every command answers a next state, and no command changes the queue behind it. -/
theorem everyCommandCompletes : Obligations.EveryCommandCompletes := by
  unfold Obligations.EveryCommandCompletes
  intro s c rest hp
  obtain ⟨t, ht⟩ := exec_next c { s with pending := rest }
  exact ⟨t, (step_front hp).trans ht, (exec_effL c _ t ht).pending⟩

/-- Settles O1: the definition of a step on a queue that is not empty. -/
theorem stepRunsFront : Obligations.StepRunsFront := by
  unfold Obligations.StepRunsFront
  intro s c rest hp
  exact step_front hp

end Sys2Proof.Machine

/-! # The idle clock, and the state after power-on reset -/

namespace Sys2Proof.Machine

/-! ## What a clock leaves alone where nothing can move -/

theorem pmcStep_none {s : State} (hs : s.dbg.snap = false) (hc : s.dbg.clear = false) : pmcStep s = s := by
  unfold pmcStep pmcDue
  rw [hs, hc]
  rfl

theorem frontEnds_none {s : State} (h : domOn s 0 = true → ∀ p, (s.core p).runstate ≠ 2) : frontEnds s = s := by
  unfold frontEnds
  split
  · next hd =>
    refine foldl_id _ _ _ fun p _ => ?_
    unfold frontEnd
    exact if_neg (h hd p)
  · rfl

theorem countClocks_off {s : State} (b : State) (h : bitB (s.rget .dbgPmcCtl 0 0) 31 = false) : countClocks b s = s := by
  have hoff : ∀ d, pmcOn s d = false := fun d => by unfold pmcOn; rw [h]; rfl
  have h1 : countStalls b s = s := by unfold countStalls; rw [hoff]; rfl
  have h2 : countWaits s = s := by unfold countWaits; rw [hoff]; rfl
  unfold countClocks
  rw [h1, h2]
  unfold countConf
  rw [hoff]
  rfl

/-- The states in which a port sends, as numbers. -/
theorem portSends_toNat : ∀ x : BitVec 3, x ∈ [2, 3, 4, 7] ↔ x.toNat ∈ [2, 3, 4, 7] := by decide

/-- A port in none of the states ALIGN, INIT, ACTIVE and MISWIRED sends nothing. -/
theorem flitBoundary_silent {s : State} {i : Fin 16} (h : (portOf s i).state.toNat ∉ [2, 3, 4, 7]) : flitBoundary s i = s := by
  unfold flitBoundary
  split
  · next e => exact absurd (by simp [e]) h
  · next e => exact absurd (by simp [e]) h
  · next e => exact absurd (by simp [e]) h
  · next e => exact absurd (by simp [e]) h
  · rfl

theorem fabricClock_silent {s : State} (h : domOn s 6 = true → ∀ i, (portOf s i).state ∉ [2, 3, 4, 7]) :
    ∃ n, fabricClock s = { s with free := n } := by
  unfold fabricClock
  split
  · next hd =>
    refine ⟨s.free + 32, ?_⟩
    rw [foldl_id]
    intro i _
    split
    · exact flitBoundary_silent (mt (portSends_toNat _).mpr (h hd i))
    · rfl
  · exact ⟨s.free, rfl⟩

theorem obsClock_pins (s : State) : ∃ n o, obsClock s = { s with free := n, dbg := { s.dbg with obs := o } } := ⟨_, _, rfl⟩

theorem domOn_congr {s t : State} (hr : t.regs = s.regs) (hp : t.power = s.power) (hf : t.fab = s.fab) (n : Nat) :
    domOn t n = domOn s n := by
  have hg : ∀ r i m, t.rget r i m = s.rget r i m := fun r i m => by unfold State.rget; rw [hr]
  unfold domOn domDead pwrState domEn
  simp only [hg, hp, hf]

theorem now96_set96 (s : State) (x : BitVec 96) : now96 (set96 s x) = x := by
  unfold now96 set96
  apply BitVec.eq_of_toNat_eq
  simp only [BitVec.toNat_append, BitVec.extractLsb'_toNat, Nat.shiftRight_eq_div_pow]
  have := x.isLt
  rw [← Nat.shiftLeft_add_eq_or_of_lt (by omega), Nat.shiftLeft_eq]
  omega

/-- One clock of the time counter. -/
theorem tick_time (s : State) : (∃ x f, tick s = { s with timeNs := x, mgmt := { s.mgmt with frac := f } }) ∧
    now96 (tick s) = if domOn s 24 then now96 s + BitVec.ofInt 96 (4294967296 + corrOf s) else now96 s := by
  unfold tick
  split
  · exact ⟨⟨_, _, rfl⟩, now96_set96 _ _⟩
  · exact ⟨⟨_, _, rfl⟩, rfl⟩

/-- A clock in which nothing can move but the observation pins and the time counter. -/
theorem clockTick_quiet {s : State} (hoff : bitB (s.rget .dbgPmcCtl 0 0) 31 = false) (hs : s.dbg.snap = false)
    (hc : s.dbg.clear = false) (hf : domOn s 0 = true → ∀ p, (s.core p).runstate ≠ 2)
    (hp : domOn s 6 = true → ∀ i, (portOf s i).state ∉ [2, 3, 4, 7]) :
    ∃ n o, clockTick s = tick { s with free := n, dbg := { s.dbg with obs := o } } := by
  obtain ⟨n, hn⟩ := fabricClock_silent hp
  obtain ⟨m, o, ho⟩ := obsClock_pins { s with free := n }
  refine ⟨m, o, ?_⟩
  unfold clockTick
  dsimp only
  rw [pmcStep_none hs hc, frontEnds_none hf, countClocks_off s hoff, hn, ho]
  obtain ⟨⟨x, f, ht⟩, -⟩ := tick_time { s with free := m, dbg := { s.dbg with obs := o } }
  exact summaryRise_same_summary (errSummary_congr (by rw [ht]) fun p => by rw [ht]; rfl)

/-- Settles O2: a step on an empty queue is one clock, in which only the observation pins and the time counter move where nothing else can. -/
theorem idleStepIsClock : Obligations.IdleStepIsClock := by
  unfold Obligations.IdleStepIsClock
  refine fun s hempty => ⟨step_idle hempty, fun hoff hs hc hf hp => ?_⟩
  obtain ⟨n, o, ht⟩ := clockTick_quiet hoff hs hc hf hp
  obtain ⟨⟨x, f, hx⟩, hnow⟩ := tick_time { s with free := n, dbg := { s.dbg with obs := o } }
  refine ⟨_, (step_idle hempty).trans (by rw [ht]), ⟨x, f, n, o, hx⟩, hnow.trans ?_⟩
  rw [domOn_congr rfl rfl rfl]
  rfl

/-! ## Power-on reset -/

theorem reset_core (p : Fin 72) : State.reset.core p = Core.reset (p.val * 1024) (if p.val < 64 then 0 else 7) := by
  unfold State.core State.reset
  simp

theorem byteAt_of_mem_nil {s : State} (h : s.mem = []) (a : Nat) : byteAt s a = 0 := by
  unfold byteAt
  rw [h]
  split <;> rfl

/-- Settles O3: the fields of the reset state. -/
theorem resetState : Obligations.ResetState := by
  unfold Obligations.ResetState
  refine ⟨rfl, ⟨rfl, rfl⟩, fun o h => (nomatch h), fun p => ?_, fun p => ?_, fun r => rfl, rfl, byteAt_of_mem_nil rfl⟩
  · rw [reset_core]
    rfl
  · rw [reset_core]
    exact ⟨rfl, rfl⟩

end Sys2Proof.Machine

/-! # The fields of a word -/

namespace Sys2Proof.Machine

section
variable {w : Nat} (x : BitVec w)

/-- Bits [len-1:0] of a value. -/
theorem bitsN_low (n : Nat) : bitsN x 0 n = x.toNat % 2 ^ n := by
  simp [bitsN]

theorem testBit_bitsN (lo len i : Nat) : (bitsN x lo len).testBit i = (decide (i < len) && x.getLsbD (lo + i)) := by
  unfold bitsN
  rw [Nat.testBit_mod_two_pow, Nat.testBit_div_two_pow, Nat.add_comm]
  rfl

/-- A field as a word of its length. -/
theorem ofNat_bitsN (lo len : Nat) : BitVec.ofNat len (bitsN x lo len) = x.extractLsb' lo len := by
  apply BitVec.eq_of_toNat_eq
  rw [BitVec.toNat_ofNat, BitVec.extractLsb'_toNat, Nat.shiftRight_eq_div_pow]
  exact Nat.mod_mod _ _

theorem bitsN_lt (lo len : Nat) : bitsN x lo len < 2 ^ len := Nat.mod_lt _ (Nat.two_pow_pos _)

/-- The bits of a word with a field replaced. -/
theorem getLsbD_setBits (lo len v i : Nat) : (setBits x lo len v).getLsbD i =
    (decide (i < w) && if lo ≤ i ∧ i < lo + len then v.testBit (i - lo) else x.getLsbD i) := by
  unfold setBits
  by_cases hi : i < w
  · simp only [BitVec.getLsbD_or, BitVec.getLsbD_and, BitVec.getLsbD_not, BitVec.getLsbD_ofNat, Nat.testBit_mul_two_pow,
      Nat.testBit_two_pow_sub_one, Nat.testBit_mod_two_pow, hi, decide_true, Bool.true_and]
    by_cases h1 : lo ≤ i
    · by_cases h2 : i < lo + len
      · simp [h1, h2, show i - lo < len by omega]
      · simp [h1, h2, show ¬ i - lo < len by omega]
    · simp [h1]
  · simp [hi, BitVec.getLsbD_of_ge _ _ (Nat.le_of_not_lt hi)]

theorem getLsbD_setBit (n i : Nat) (b : Bool) : (setBit x n b).getLsbD i =
    (decide (i < w) && if i = n then b else x.getLsbD i) := by
  unfold setBit
  rw [getLsbD_setBits]
  by_cases h : i = n
  · subst h
    cases b <;> simp
  · rw [if_neg (by omega), if_neg h]

/-- A field reads as it was written. -/
theorem bitsN_setBits_same {lo len : Nat} (v : Nat) (h : lo + len ≤ w) : bitsN (setBits x lo len v) lo len = v % 2 ^ len := by
  apply Nat.eq_of_testBit_eq
  intro i
  rw [testBit_bitsN, getLsbD_setBits, Nat.testBit_mod_two_pow]
  by_cases hi : i < len
  · simp [hi, show lo + i < w by omega]
  · simp [hi]

/-- A field that another write does not touch reads as before. -/
theorem bitsN_setBits_other {lo len lo' len' : Nat} (v : Nat) (h : lo' + len' ≤ lo ∨ lo + len ≤ lo') :
    bitsN (setBits x lo len v) lo' len' = bitsN x lo' len' := by
  apply Nat.eq_of_testBit_eq
  intro i
  rw [testBit_bitsN, testBit_bitsN, getLsbD_setBits]
  by_cases hi : i < len'
  · by_cases hw : lo' + i < w
    · simp [hi, hw, show ¬ (lo ≤ lo' + i ∧ lo' + i < lo + len) by omega]
    · simp [hw, BitVec.getLsbD_of_ge x _ (Nat.le_of_not_lt hw)]
  · simp [hi]

theorem bitB_setBits_other {lo len i : Nat} (v : Nat) (h : i < lo ∨ lo + len ≤ i) : bitB (setBits x lo len v) i = bitB x i := by
  unfold bitB
  rw [getLsbD_setBits, if_neg (by omega)]
  by_cases hw : i < w
  · simp [hw]
  · simp [hw, BitVec.getLsbD_of_ge x _ (Nat.le_of_not_lt hw)]

theorem bitB_setBit_same {i : Nat} (b : Bool) (h : i < w) : bitB (setBit x i b) i = b := by
  unfold bitB
  rw [getLsbD_setBit, if_pos rfl, decide_eq_true h, Bool.true_and]

theorem bitB_setBit_other {i j : Nat} (b : Bool) (h : j ≠ i) : bitB (setBit x i b) j = bitB x j :=
  bitB_setBits_other x _ (by omega)

end

end Sys2Proof.Machine

/-! # The scalar unit: integer, floating-point and other rows -/

namespace Sys2Proof.Machine

/-! ## One register write -/

theorem orSticky_frec (c : Core) (g : Engine) (x : Flags) : (orSticky c g x).frec = c.frec := rfl

section
variable {i : Instr} {op : CoreOp} {o : OpS} {k : Ctl} {s : State}

/-- An instruction of the SU that writes RD and sets sticky bits has that effect on its own core alone. -/
theorem suWrite_inCore (r : W64 × Flags) (h : StartsNow op (.s o) k .su s) (he : exec i s = issue op (.s o) k s)
    (hr : ∀ x, runEntry k.core (issuedEntry op (.s o) k s) x = suWrite k.core (issuedEntry op (.s o) k s) x o.rd r.1 r.2) :
    InCore i op (.s o) k .su s fun c => (orSticky (writeS c k.stream o.rd r.1) .su (r.2 &&& 0x1D), 0) :=
  inCore_of _ h he (fun x _ => hr x) fun c => (orSticky_frec _ _ _).trans (writeS_front c _ _ _).1

/-- One that sets no sticky bit writes RD alone, with a value that the state at its start gives. -/
theorem suWrite_pure_inCore (v : Core → W64) (h : StartsNow op (.s o) k .su s) (he : exec i s = issue op (.s o) k s)
    (hr : ∀ x, x = atStart op (.s o) k .su s → runEntry k.core (issuedEntry op (.s o) k s) x =
      suWrite k.core (issuedEntry op (.s o) k s) x o.rd (v (x.core k.core)) 0) :
    InCore i op (.s o) k .su s fun c => (writeS c k.stream o.rd (v c), 0) :=
  inCore_of _ h he (fun x hx => (hr x hx).trans (suWrite_pure _ _ _ _ _)) fun c => (writeS_front c _ _ _).1

end

/-! ## The values of the integer rows -/

theorem suInt_shift (o : OpS) (a b d : W64) :
    suInt .sshl o a b d = a <<< (b.toNat % 64) ∧ suInt .sshr o a b d = a >>> (b.toNat % 64) ∧
    suInt .ssra o a b d = a.sshiftRight (b.toNat % 64) := by
  simp only [suInt, bitsN_low]
  exact ⟨rfl, rfl, rfl⟩

/-- SMOVHI replaces bits [63:48]. -/
theorem suInt_smovhi (o : OpS) (a b d : W64) : suInt .smovhi o a b d = o.imm.extractLsb' 0 16 ++ d.extractLsb' 0 48 := by
  simp only [suInt]
  apply BitVec.eq_of_getLsbD_eq
  intro i hi
  rw [getLsbD_setBits, BitVec.getLsbD_append, testBit_bitsN]
  by_cases h : i < 48
  · simp [h, hi, show ¬ 48 ≤ i by omega]
  · simp [h, hi, show 48 ≤ i by omega]

/-- An integer instruction writes RD with its result of the operands that were read at issue. -/
theorem scalarInt_inCore {i : Instr} {op : CoreOp} {o : OpS} {k : Ctl} {s : State} {v : W64}
    (h : StartsNow op (.s o) k .su s) (he : exec i s = issue op (.s o) k s)
    (hr : ∀ e x, e.op = op → e.args = .s o → runEntry k.core e x = suWrite k.core e x o.rd (suInt op o e.a e.b e.c) 0)
    (hv : suInt op o (issuedEntry op (.s o) k s).a (issuedEntry op (.s o) k s).b (issuedEntry op (.s o) k s).c = v) :
    InCore i op (.s o) k .su s fun c => (writeS c k.stream o.rd v, 0) :=
  suWrite_pure_inCore (fun _ => v) h he fun x _ => by rw [hr _ _ rfl rfl, hv]

/-- Settles O10: each integer row writes RD with the value of the table. -/
theorem scalarIntRows : Obligations.ScalarIntRows := by
  unfold Obligations.ScalarIntRows
  simp only [suIntRows, List.forall_mem_cons]
  refine ⟨fun k o s h => scalarInt_inCore h rfl ?_ rfl, fun k o s h => scalarInt_inCore h rfl ?_ rfl,
    fun k o s h => scalarInt_inCore h rfl ?_ rfl, fun k o s h => scalarInt_inCore h rfl ?_ rfl,
    fun k o s h => scalarInt_inCore h rfl ?_ rfl, fun k o s h => scalarInt_inCore h rfl ?_ rfl,
    fun k o s h => scalarInt_inCore h rfl ?_ (suInt_shift o _ _ _).1,
    fun k o s h => scalarInt_inCore h rfl ?_ (suInt_shift o _ _ _).2.1,
    fun k o s h => scalarInt_inCore h rfl ?_ (suInt_shift o _ _ _).2.2,
    fun k o s h => scalarInt_inCore h rfl ?_ rfl, fun k o s h => scalarInt_inCore h rfl ?_ rfl,
    fun k o s h => scalarInt_inCore h rfl ?_ rfl, fun k o s h => scalarInt_inCore h rfl ?_ rfl,
    fun k o s h => scalarInt_inCore h rfl ?_ (suInt_smovhi o _ _ _),
    fun k o s h => scalarInt_inCore h rfl ?_ rfl, fun _ h => absurd h List.not_mem_nil⟩
  all_goals
    intro e x hop hargs
    simp only [runEntry, hargs, runScalar, hop]

/-! ## The floating-point rows -/

/-- A floating-point instruction writes RD and sets sticky bits, from the operands that were read at issue. -/
theorem scalarFp_inCore {r : (Ctl → OpS → Instr) × CoreOp × (OpS → W64 → W64 → W64 → W64 × Flags)} {o : OpS} {k : Ctl} {s : State}
    (h : StartsNow r.2.1 (.s o) k .su s) (he : exec (r.1 k o) s = issue r.2.1 (.s o) k s)
    (hr : ∀ e x, e.op = r.2.1 → e.args = .s o → runEntry k.core e x =
      suWrite k.core e x o.rd (suFp r.2.1 o e.a e.b e.c).1 (suFp r.2.1 o e.a e.b e.c).2)
    (hv : suFp r.2.1 o = r.2.2 o) :
    InCore (r.1 k o) r.2.1 (.s o) k .su s fun c =>
      let x := r.2.2 o (issuedEntry r.2.1 (.s o) k s).a (issuedEntry r.2.1 (.s o) k s).b (issuedEntry r.2.1 (.s o) k s).c
      (orSticky (writeS c k.stream o.rd x.1) .su (x.2 &&& 0x1D), 0) :=
  suWrite_inCore _ h he fun x => by rw [hr _ _ rfl rfl, hv]

/-- Settles O11: each floating-point row writes RD and sets the sticky bits of the table. -/
theorem scalarFpRows : Obligations.ScalarFpRows := by
  unfold Obligations.ScalarFpRows
  intro r hmem k o s h
  simp only [suFpRows, List.mem_cons, List.not_mem_nil, or_false] at hmem
  obtain rfl | rfl | rfl | rfl | rfl | rfl := hmem
  all_goals
    refine scalarFp_inCore h rfl (fun e x hop hargs => ?_) rfl
    dsimp only at hop
    simp only [runEntry, hargs, runScalar, hop]

/-! ## Flags, counters, identity, status and lanes -/

/-- The identity that SID reads of a core is that of the table. -/
theorem identity_atStart {op : CoreOp} {o : OpS} {k : Ctl} {s x : State} (hx : x = atStart op (.s o) k .su s) (i : Nat) :
    identity x k.core k.stream i = match i with
      | 0 => (x.core k.core).dindex.zeroExtend 64
      | 1 => (x.core k.core).ncores.zeroExtend 64
      | 2 => BitVec.ofNat 64 ((logicalOf s k.core).getD 0)
      | 3 => BitVec.ofNat 64 k.core.val
      | 4 => (x.core k.core).tag.zeroExtend 64
      | 5 => s.timeNs
      | _ => BitVec.ofNat 64 k.stream.val := by
  subst hx
  rcases i with _ | _ | _ | _ | _ | _ | i <;> rfl

/-- A flag as SFLAG clears it. -/
theorem setFlag_false (c : Core) {i : Nat} (h : i < 32) : setFlag c i false = { c with f := c.f &&& ~~~((1 : W32) <<< i) } := by
  unfold setFlag
  congr 1
  apply BitVec.eq_of_getLsbD_eq
  intro j hj
  rw [getLsbD_setBit]
  by_cases hij : j = i
  · subst hij
    simp [hj]
  · simp [hj, hij]
    omega

/-- A flag as SFLAG sets it. -/
theorem setFlag_true (c : Core) {i : Nat} (h : i < 32) : setFlag c i true = { c with f := c.f ||| ((1 : W32) <<< i) } := by
  unfold setFlag
  congr 1
  apply BitVec.eq_of_getLsbD_eq
  intro j hj
  rw [getLsbD_setBit]
  by_cases hij : j = i
  · subst hij
    simp [hj]
  · simp [hj, hij]
    omega

/-- SFLAG clears, sets or reads a flag. -/
theorem sflag_inCore {k : Ctl} {o : OpS} {s : State} (h : StartsNow .sflag (.s o) k .su s) :
    InCore (.sflag k o) .sflag (.s o) k .su s fun c =>
      (match o.imm.toNat / 256 % 4 with
        | 0 => { c with f := c.f &&& ~~~((1 : W32) <<< (o.imm.toNat % 32)) }
        | 1 => { c with f := c.f ||| ((1 : W32) <<< (o.imm.toNat % 32)) }
        | _ => writeS c k.stream o.rd (if c.f.getLsbD (o.imm.toNat % 32) then 1 else 0), 0) := by
  have hi : o.imm.toNat % 32 < 32 := Nat.mod_lt _ (by decide)
  have h5 : bitsN o.imm 0 5 = o.imm.toNat % 32 := bitsN_low _ _
  refine inCore_of _ h rfl (fun x _ => ?_) fun c => ?_
  · show runSflag k.core (issuedEntry .sflag (.s o) k s) o x = _
    unfold runSflag
    rw [h5, show bitsN o.imm 8 2 = o.imm.toNat / 256 % 4 from rfl]
    rcases o.imm.toNat / 256 % 4 with _ | _ | n
    · simp only [setFlag_false _ hi]
      rfl
    · simp only [setFlag_true _ hi]
      rfl
    · exact suWrite_pure _ _ _ _ _
  · rcases o.imm.toNat / 256 % 4 with _ | _ | n
    · rfl
    · rfl
    · exact (writeS_front c _ _ _).1

/-- SSTAT reads the sticky bits of an engine, and clears them with IMM[8] = 1. -/
theorem sstat_inCore {k : Ctl} {o : OpS} {s : State} (h : StartsNow .sstat (.s o) k .su s) :
    InCore (.sstat k o) .sstat (.s o) k .su s fun c =>
      let i := o.imm.toNat % 8 - 1
      let d := if o.imm.getLsbD 8 then { c with sticky := c.sticky.setIfInBounds i 0 } else c
      (writeS d k.stream o.rd ((vAt c.sticky 0 i).zeroExtend 64), 0) := by
  refine inCore_of _ h rfl (fun x _ => ?_) fun c => ?_
  · show runSstat k.core (issuedEntry .sstat (.s o) k s) o x = _
    unfold runSstat bitB
    rw [show bitsN o.imm 0 3 = o.imm.toNat % 8 from bitsN_low _ _]
    cases o.imm.getLsbD 8
    · exact suWrite_pure _ _ _ _ _
    · refine (suWrite_pure _ _ _ _ _).trans ?_
      rw [if_pos rfl, modCore_modCore]
      rfl
  · dsimp only
    rw [(writeS_front _ _ _ _).1]
    split <;> rfl

/-- Settles O12: the other rows of the SU, and the no-ops of the engines. -/
theorem scalarOtherRows : Obligations.ScalarOtherRows := by
  unfold Obligations.ScalarOtherRows
  have low (n : Nat) (o : OpS) : bitsN o.imm 0 n = o.imm.toNat % 2 ^ n := bitsN_low _ _
  refine ⟨?_, fun k grp g s h => inCore_of _ h rfl (fun x _ => ?_) fun _ => rfl⟩
  · simp only [suOtherRows, List.forall_mem_cons]
    refine ⟨fun k o s h => sflag_inCore h, fun k o s h => inCore_of _ h rfl (fun x _ => ?_) fun _ => rfl,
      fun k o s h => suWrite_pure_inCore (fun c => (vAt c.k 0 (o.imm.toNat % 16)).zeroExtend 64) h rfl fun x _ => ?_,
      fun k o s h => suWrite_pure_inCore _ h rfl fun x hx => ?_, fun k o s h => sstat_inCore h,
      fun k o s h => suWrite_pure_inCore (fun c => (vGet c o.ra (o.imm.toNat % 512)).zeroExtend 64) h rfl fun x _ => ?_,
      fun _ h => absurd h List.not_mem_nil⟩
    · show runSkadd k.core o x = _
      unfold runSkadd
      rw [low, ofNat_bitsN]
      rfl
    · show suWrite _ _ x _ ((counterOf (x.core k.core) (bitsN o.imm 0 4)).zeroExtend 64) 0 = _
      rw [low]
      rfl
    · show suWrite _ _ x _ (identity x k.core k.stream (bitsN o.imm 0 4)) 0 = _
      rw [low, identity_atStart hx]
      rfl
    · show suWrite _ _ x _ ((vGet (x.core k.core) o.ra (bitsN o.imm 0 9)).zeroExtend 64) 0 = _
      rw [low]
      rfl
  · exact congrArg ranOk (setCore_core x k.core).symm

end Sys2Proof.Machine

/-! # Vector rows with an effect on their own core -/

namespace Sys2Proof.Machine

/-! ## The walk keeps the fault record -/

@[simp] theorem putElem_frec (c : Core) (t : ETy) (r : BitVec 5) (lane j : Nat) (x : W32) : (putElem c t r lane j x).frec = c.frec := rfl

theorem drawElem_frec (rnd : BitVec 3) (f : Nat → Nat → W32 → W32 × Flags) (lane j : Nat) (c : Core) :
    (drawElem rnd f lane j c).core.frec = c.frec := by
  unfold drawElem
  split <;> rfl

/-- An element-wise walk keeps the fault record where its element function does. -/
theorem elemWise_frec (o : OpV) (t : ETy) {f : Nat → Nat → Core → ElemOut} (hf : ∀ lane j c, (f lane j c).core.frec = c.frec) (c : Core) :
    (elemWise o t f c).1.frec = c.frec := by
  refine foldl_keeps (elemStep o t f) (fun a : Core × Flags => a.1.frec) (fun a pl => ?_) _ _
  unfold elemStep
  split
  · exact hf _ _ _
  · split <;> rfl

theorem pureWalk_frec (o : OpV) (t : ETy) (f : Nat → Nat → W32 × Flags) (c : Core) : (elemWise o t (pureElem f) c).1.frec = c.frec :=
  elemWise_frec o t (fun _ _ _ => rfl) c

/-! ## Two forms of a row -/

/-- A walk whose mask is empty sets no sticky bit. -/
theorem veDone_zero (x : State) (p : Fin 72) (r : Core × Flags) : veDone x p r 0 = ranOk (x.setCore p r.1) := by
  unfold veDone ranOk
  rw [show r.2 &&& 0 = 0 from BitVec.and_zero]

section
variable {i : Instr} {op : CoreOp} {args : Args} {k : Ctl} {g : Engine} {s : State}

/-- A row whose engine writes the core and sets the sticky bits of a mask. -/
theorem walkRow_inCore (r : Core → Core × Flags) (mask : Flags) (h : StartsNow op args k g s) (he : exec i s = issue op args k s)
    (hr : ∀ x, runEntry k.core (issuedEntry op args k s) x = veDone x k.core (r (x.core k.core)) mask)
    (hf : ∀ c, (r c).1.frec = c.frec) : InCore i op args k g s fun c => ((r c).1, (r c).2 &&& mask) :=
  inCore_of _ h he (fun x _ => hr x) hf

/-- A row whose engine writes the core and sets no sticky bit; the core at its start holds no error. -/
theorem coreRow_inCore (r : Core → Core) (h : StartsNow op args k g s) (he : exec i s = issue op args k s)
    (hr : ∀ x : State, eccFree (x.core k.core) = true →
      runEntry k.core (issuedEntry op args k s) x = ranOk (x.setCore k.core (r (x.core k.core))))
    (hf : ∀ c, (r c).frec = c.frec) : InCore i op args k g s fun c => (r c, 0) :=
  inCore_of (fun c => (r c, 0)) h he (fun x hx => hr x (by
    obtain ⟨-, -, hfront, -⟩ := atStart_front h
    rw [hx, show (atStart op args k g s).core k.core = _ from hfront]
    exact h.good)) hf

end

/-- An instruction of format V that is in neither a row of its own nor group 7 runs on the vector engine. -/
theorem runEntry_vector {op : CoreOp} {o : OpV} {k : Ctl} {s x : State} {p : Fin 72} {y : RunOut} (hg : opGroup op ≠ 7)
    (hr : runEntry p (issuedEntry op (.v o) k s) x = if opGroup op = 7 then runSf p (issuedEntry op (.v o) k s) o x else y) :
    runEntry p (issuedEntry op (.v o) k s) x = y :=
  hr.trans (if_neg hg)

/-! ## Element-wise rows -/

theorem lanewise_inCore {i : Instr} {op : CoreOp} {o : OpV} {k : Ctl} {s : State} {f : ETy → W32 → W32 → W32 → W32 → W32 × Flags}
    (h : StartsNow op (.v o) k .ve s) (he : exec i s = issue op (.v o) k s)
    (hr : ∀ x, runEntry k.core (issuedEntry op (.v o) k s) x = runElem k.core (issuedEntry op (.v o) k s) o x)
    (hv : veElem op (tyOf o.type) o = f (tyOf o.type)) :
    InCore i op (.v o) k .ve s (lanewise f (issuedEntry op (.v o) k s) o) :=
  walkRow_inCore (fun c => elemWise o (tyOf o.type) (drawElem o.rnd fun lane j d =>
      f (tyOf o.type) d (elemAt c (tyOf o.type) o.va lane j) (elemB c (issuedEntry op (.v o) k s) o (tyOf o.type) lane j)
        (elemAt c (tyOf o.type) o.vc lane j)) c) fArith h he
    (fun x => by
      rw [hr]
      unfold runElem
      rw [show (issuedEntry op (.v o) k s).op = op from rfl]
      simp only [hv])
    fun c => elemWise_frec _ _ (drawElem_frec _ _) c

theorem veElem_vabs (t : ETy) (o : OpV) : veElem .vabs t o =
    fun _ a _ _ => (if t = .int32 then (if a.getLsbD 31 then 0 - a else a) else eAbsBits t a, 0) := by
  cases t <;> rfl

theorem veElem_vneg (t : ETy) (o : OpV) : veElem .vneg t o = fun _ a _ _ => (if t = .int32 then 0 - a else eNegBits t a, 0) := by
  cases t <;> rfl

theorem veElem_vshl (t : ETy) (o : OpV) : veElem .vshl t o = fun _ (a b : W32) _ => (a <<< (b.toNat % 32), 0) := by
  funext _ a b _
  show (a <<< bitsN b 0 5, (0 : Flags)) = _
  rw [bitsN_low]
  rfl

theorem veElem_vshr (t : ETy) (o : OpV) : veElem .vshr t o =
    fun _ (a b : W32) _ => (if o.fx.getLsbD 0 then a.sshiftRight (b.toNat % 32) else a >>> (b.toNat % 32), 0) := by
  funext _ a b _
  show (if bitB o.fx 0 then a.sshiftRight (bitsN b 0 5) else a >>> (bitsN b 0 5), (0 : Flags)) = _
  rw [bitsN_low]
  rfl

/-- Settles O15: each element-wise row is the walk on its function. -/
theorem vectorElemRows : Obligations.VectorElemRows := by
  unfold Obligations.VectorElemRows
  simp only [vecElemRows, List.forall_mem_cons]
  refine ⟨fun k o s h => lanewise_inCore h rfl (fun _ => runEntry_vector ?_ rfl) rfl,
    fun k o s h => lanewise_inCore h rfl (fun _ => runEntry_vector ?_ rfl) rfl,
    fun k o s h => lanewise_inCore h rfl (fun _ => runEntry_vector ?_ rfl) rfl,
    fun k o s h => lanewise_inCore h rfl (fun _ => runEntry_vector ?_ rfl) rfl,
    fun k o s h => lanewise_inCore h rfl (fun _ => runEntry_vector ?_ rfl) rfl,
    fun k o s h => lanewise_inCore h rfl (fun _ => runEntry_vector ?_ rfl) rfl,
    fun k o s h => lanewise_inCore h rfl (fun _ => runEntry_vector ?_ rfl) rfl,
    fun k o s h => lanewise_inCore h rfl (fun _ => runEntry_vector ?_ rfl) (veElem_vabs _ o),
    fun k o s h => lanewise_inCore h rfl (fun _ => runEntry_vector ?_ rfl) (veElem_vneg _ o),
    fun k o s h => lanewise_inCore h rfl (fun _ => runEntry_vector ?_ rfl) rfl,
    fun k o s h => lanewise_inCore h rfl (fun _ => runEntry_vector ?_ rfl) rfl,
    fun k o s h => lanewise_inCore h rfl (fun _ => runEntry_vector ?_ rfl) rfl,
    fun k o s h => lanewise_inCore h rfl (fun _ => runEntry_vector ?_ rfl) (veElem_vshl _ o),
    fun k o s h => lanewise_inCore h rfl (fun _ => runEntry_vector ?_ rfl) (veElem_vshr _ o),
    fun k o s h => lanewise_inCore h rfl (fun _ => runEntry_vector ?_ rfl) rfl, fun _ h => absurd h List.not_mem_nil⟩
  all_goals decide

/-! ## The walk past lane 511 -/

/-- Refutes O16: the model's length field admits VL = 513, and then the walk writes lane 512 of VD, which is lane 0 of the register
behind it. -/
theorem not_elementWalk : ¬ Obligations.ElementWalk := by
  unfold Obligations.ElementWalk
  intro hall
  obtain ⟨-, hother, -⟩ := hall vperm513 .fp32 (fun _ _ => (5, 0)) v2Core (by decide) v2Core_wf
  have hkept := hother 2 0 (by decide) (by decide)
  rw [elemWise_fp32, ← vGet_lane_512 _ (r := 1) (q := 2) rfl] at hkept
  have hfive : vGet (walkLanes vperm513 (fun _ => (5, 0)) v2Core (vlOf vperm513)).1 1 512 = 5 :=
    (vGet_walkLanes_vd vperm513 _ v2Core_wf (by decide : 512 < vlOf vperm513)).trans (if_pos (by decide))
  exact absurd (hfive.symm.trans hkept) (by decide +kernel)

/-! ## Lane moves, AB moves, folio tables and masks -/

/-- Cleaning changes nothing of a core that holds no error. -/
theorem clean_free {c : Core} (h : eccFree c = true) (f : Place → Bool) : Core.clean c f = c := by
  simp only [eccFree, Bool.and_eq_true, List.isEmpty_iff] at h
  obtain ⟨he, he1⟩ := h
  cases c
  dsimp only at he he1
  subst he he1
  rfl

theorem abClean_free {c : Core} (h : eccFree c = true) (row : Nat) (cols : List Nat) : abClean c row cols = c := if_pos h

section
variable {i : Instr} {op : CoreOp} {o : OpV} {k : Ctl} {s : State}

/-- A row that walks one word for each lane. -/
theorem wordwise_inCore (f : Core → Nat → W32 × Flags) (mask : Flags) (h : StartsNow op (.v o) k .ve s)
    (he : exec i s = issue op (.v o) k s)
    (hr : ∀ x, runEntry k.core (issuedEntry op (.v o) k s) x =
      veDone x k.core (elemWise o .fp32 (pureElem fun lane _ => f (x.core k.core) lane) (x.core k.core)) mask) :
    InCore i op (.v o) k .ve s fun c => wordwise o (f c) mask c :=
  walkRow_inCore (fun c => elemWise o .fp32 (pureElem fun lane _ => f c lane) c) mask h he hr fun c => pureWalk_frec _ _ _ c

end

/-! ### AB and folio tables -/

/-- VSTAB as the table states it: the active lanes below VL, one after the other. -/
def stabLanes (e : Entry) (o : OpV) (c : Core) : Core :=
  (List.range (vlOf o)).foldl (fun d lane =>
    if activeAt c o lane false then abPut d (e.b.toNat + lane / 64) (lane % 64) (vGet c o.va lane) else d) c

theorem stabLanes_frec (e : Entry) (o : OpV) (c : Core) : (stabLanes e o c).frec = c.frec := by
  refine foldl_keeps _ Core.frec (fun a lane => ?_) _ _
  split <;> rfl

theorem stabLanes_good (e : Entry) (o : OpV) (c : Core) : eccFree (stabLanes e o c) = eccFree c := by
  refine foldl_keeps _ eccFree (fun a lane => ?_) _ _
  split <;> rfl

theorem runVstab_free (p : Fin 72) (e : Entry) (o : OpV) (x : State) (h : eccFree (x.core p) = true) :
    runVstab p e o x = ranOk (x.setCore p (stabLanes e o (x.core p))) := by
  have hfold : ((List.range (vlOf o)).filter fun lane => activeAt (x.core p) o lane false).foldl (fun a lane =>
      abPut a (e.b.toNat + lane / 64) (lane % 64) (vGet (x.core p) o.va lane)) (x.core p) = stabLanes e o (x.core p) :=
    List.foldl_filter
  unfold runVstab
  simp only [hfold]
  congr 2
  have hgood := (stabLanes_good e o (x.core p)).trans h
  generalize stabLanes e o (x.core p) = d at hgood
  generalize List.range 8 = l
  induction l with
  | nil => rfl
  | cons j l ih =>
    rw [List.foldl_cons, abClean_free hgood]
    exact ih

/-- TWR as the table states it. -/
def twrLanes (o : OpV) (c : Core) : Core :=
  (List.range (vlOf o)).foldl (fun d lane =>
    if activeAt c o lane false then
      tblPut d o.type2.toNat (1 - activeCopy c.copySel o.type2.toNat) (o.fx.toNat % 256 + lane) (vGet c o.va lane)
    else d) c

theorem twrLanes_frec (o : OpV) (c : Core) : (twrLanes o c).frec = c.frec := by
  refine foldl_keeps _ Core.frec (fun a lane => ?_) _ _
  split <;> rfl

theorem runTwr_eq (p : Fin 72) (o : OpV) (x : State) : runTwr p o x = ranOk (x.setCore p (twrLanes o (x.core p))) := by
  unfold runTwr twrLanes
  rw [show bitsN o.fx 0 8 = o.fx.toNat % 256 from bitsN_low _ _]

/-! ### Draws and masks -/

theorem vrngElem_frec (o : OpV) (lane j : Nat) (c : Core) :
    ((fun (lane _ : Nat) (d : Core) =>
      let x := drawGen d lane
      ({ bits := if o.fx.getLsbD 0 then (roundFin .fp32 0 0 false false (x.1.toNat / 256) (-24) false).1 else x.1
         core := x.2 } : ElemOut)) lane j c).core.frec = c.frec := rfl

/-- Settles O17: each row has the effect of the table on its core. -/
theorem vectorCoreRows : Obligations.VectorCoreRows := by
  unfold Obligations.VectorCoreRows
  simp only [vecCoreRows, List.forall_mem_cons]
  refine ⟨fun k o s h => ?_, fun k o s h => ?_, fun k o s h => ?_, fun k o s h => ?_, fun k o s h => ?_, fun k o s h => ?_,
    fun k o s h => ?_, fun k o s h => ?_, fun k o s h => ?_, fun k o s h => ?_, fun k o s h => ?_, fun _ h => absurd h List.not_mem_nil⟩
  · exact walkRow_inCore _ fArith h rfl (fun _ => runEntry_vector (by decide) rfl) fun c => pureWalk_frec _ _ _ c
  · exact coreRow_inCore _ h rfl (fun x _ => (runEntry_vector (by decide) rfl).trans (veDone_zero x _ _)) fun c => elemWise_frec _ _ (vrngElem_frec o) c
  · exact wordwise_inCore _ fPermOor h rfl fun _ => rfl
  · exact wordwise_inCore _ 0 h rfl fun _ => rfl
  · refine wordwise_inCore _ fPermOor h rfl fun x => ?_
    show runVbcast _ o x = _
    unfold runVbcast
    rw [show bitsN o.fx 0 9 = o.fx.toNat % 512 from bitsN_low _ _]
    rfl
  · exact wordwise_inCore _ 0 h rfl fun x => (veDone_zero _ _ _).symm
  · exact wordwise_inCore _ fLutOor h rfl fun _ => rfl
  · exact coreRow_inCore (stabLanes _ o) h rfl (fun x hx => runVstab_free _ _ o x hx) fun c => stabLanes_frec _ o c
  · exact coreRow_inCore (twrLanes o) h rfl (fun x _ => runTwr_eq _ o x) fun c => twrLanes_frec o c
  · exact coreRow_inCore _ h rfl (fun _ _ => rfl) fun _ => rfl
  · refine coreRow_inCore _ h rfl (fun x hx => ?_) fun _ => rfl
    refine (runVmset_eq _ _ o x).trans (congrArg ranOk (congrArg (x.setCore k.core) ?_))
    exact clean_free (c := { x.core k.core with
      m := (x.core k.core).m.setIfInBounds (o.vd.toNat % 8) (vmsetMask (issuedEntry .vmset (.v o) k s) o (x.core k.core)) }) hx _

/-! ## Conversion, reduction and scan -/

theorem cvtStep_frec (c0 : Core) (o : OpV) (dst src : ETy) (n g lane j : Nat) (acc : Core × Flags) :
    (cvtStep c0 o dst src n g lane j acc).1.frec = acc.1.frec := by
  unfold cvtStep
  dsimp only
  split
  · rw [putElem_frec]
    split <;> rfl
  · split <;> rfl

theorem setWholeReg_frec (c : Core) (r : BitVec 5) (xs : List W32) : (setWholeReg c r xs).frec = c.frec := by
  unfold setWholeReg
  exact foldl_keeps (fun d lane => vPut d r lane (xs.getD lane 0)) Core.frec (fun _ _ => rfl) _ _

/-- What VRED gives its core, and its flags. -/
def vredOut (o : OpV) (c : Core) : Core × Flags :=
  let t := tyOf o.type
  let r := reduceLanes c o t (RedOp.ofCode (o.fx.toNat % 4)) (o.fx.getLsbD 2) id 0 9
  let q := convert t (redType t) o.rnd.toNat 0 false r.1
  (setWholeReg c o.vd [q.1], r.2 ||| q.2)

theorem vredOut_frec (o : OpV) (c : Core) : (vredOut o c).1.frec = c.frec := by
  unfold vredOut
  dsimp only
  rw [setWholeReg_frec]

theorem runVred_eq (p : Fin 72) (o : OpV) (x : State) : runVred p o x = veDone x p (vredOut o (x.core p)) fArith := by
  unfold runVred vredOut
  rw [show bitsN o.fx 0 2 = o.fx.toNat % 4 from bitsN_low _ _]
  rfl

/-- What VSCAN gives its core, and its flags. -/
def vscanOut (o : OpV) (c : Core) : Core × Flags :=
  let t := tyOf o.type
  let op := RedOp.ofCode (o.fx.toNat % 4)
  let x := (List.range 512).map fun lane =>
    if decide (lane < vlOf o) && activeAt c o lane false then vGet c o.va lane else redIdent t op
  let r := scanAll (redStep t op (o.fx.getLsbD 3)) x
  let out := if o.fx.getLsbD 2 then redIdent t op :: r.1 else r.1
  ((elemWise o .fp32 (pureElem fun lane _ => (out.getD lane 0, 0)) c).1, r.2)

theorem vscanOut_frec (o : OpV) (c : Core) : (vscanOut o c).1.frec = c.frec := pureWalk_frec _ _ _ c

theorem runVscan_eq (p : Fin 72) (o : OpV) (x : State) : runVscan p o x = veDone x p (vscanOut o (x.core p)) fArith := by
  unfold runVscan vscanOut
  rw [show bitsN o.fx 0 2 = o.fx.toNat % 4 from bitsN_low _ _]
  rfl

/-- The rows of a conversion, a reduction and a scan. -/
theorem vecFoldRows_inCore : ∀ r ∈ vecFoldRows, ∀ (k : Ctl) (o : OpV) (s : State), StartsNow r.2.1 (.v o) k .ve s →
    InCore (r.1 k o) r.2.1 (.v o) k .ve s (r.2.2 (issuedEntry r.2.1 (.v o) k s) o) := by
  simp only [vecFoldRows, List.forall_mem_cons]
  refine ⟨fun k o s h => ?_, fun k o s h => ?_, fun k o s h => ?_, fun _ h => absurd h List.not_mem_nil⟩
  · exact walkRow_inCore _ fArith h rfl (fun _ => runEntry_vector (by decide) rfl) fun c =>
      foldl_keeps _ (fun a : Core × Flags => a.1.frec) (fun a pl => cvtStep_frec _ _ _ _ _ _ _ _ a) _ _
  · have hrow := walkRow_inCore (i := .vred k o) (vredOut o) fArith h rfl (fun x => runVred_eq _ o x) (vredOut_frec o)
    simpa only [vredOut, fArith] using hrow
  · have hrow := walkRow_inCore (i := .vscan k o) (vscanOut o) fArith h rfl (fun x => runVscan_eq _ o x) (vscanOut_frec o)
    simpa only [vscanOut, fArith, wordwise] using hrow

/-! ## VCMP (R132) -/

/-- A started row of an engine is the youngest of its engine, with no sticky bit, where it sets none and does not complete at once. -/
theorem youngest_of_ranTo {op : CoreOp} {args : Args} {k : Ctl} {g : Engine} {s x t : State} {uses : List Nat} {last : Option W64}
    (h : RanTo op args k g s x 0 uses last t) (hg : opEngine op = some g) (hd : doneAtStart (issuedEntry op args k s) = false) :
    Youngest op args k s t := by
  obtain ⟨-, -, -, -, hlast⟩ := inProgress_same g (issuedEntry op args k s)
    { st := x, sticky := 0, uses := uses, csrLast := last } (x.core k.core)
  obtain ⟨y, hy, hye, hys, -⟩ := hlast hd
  refine ⟨y, hye, hys, ?_⟩
  unfold RanTo at h
  rw [hg, h, summaryRise_core, modCore_core_same]
  exact hy

/-- The mask of an element of a lane: M[VD], or M[VD XOR 1] for a high half. -/
def cmpReg (o : OpV) (j : Nat) : Nat := if j = 1 then o.vd.toNat ^^^ 1 else o.vd.toNat

/-- The bit that VCMP gives an element, from the core at its start and the old bit. -/
def cmpBit (e : Entry) (o : OpV) (c : Core) (lane j : Nat) (old : Bool) : Bool :=
  if activeAt c o lane (decide (j = 1)) then
    eCmp (tyOf o.type) (o.fx.toNat % 8) (elemAt c (tyOf o.type) o.va lane j) (elemB c e o (tyOf o.type) lane j)
  else if o.mz then false else old

/-- One element of VCMP. -/
def cmpStep (e : Entry) (o : OpV) (c acc : Core) (pl : Nat × Nat) : Core :=
  if activeAt c o pl.1 (decide (pl.2 = 1)) then
    putMask acc (cmpReg o pl.2) pl.1
      (eCmp (tyOf o.type) (o.fx.toNat % 8) (elemAt c (tyOf o.type) o.va pl.1 pl.2) (elemB c e o (tyOf o.type) pl.1 pl.2))
  else if o.mz then putMask acc (cmpReg o pl.2) pl.1 false else acc

/-- The masks after the lanes below n. -/
def cmpLanes (e : Entry) (o : OpV) (c : Core) (n : Nat) : Core := (elemPlaces n (tyOf o.type).perLane).foldl (cmpStep e o c) c

/-- One bit of a mask. -/
def mBit (c : Core) (m lane : Nat) : Bool := (vAt c.m 0 m).getLsbD lane

theorem runVcmp_free (p : Fin 72) (e : Entry) (o : OpV) (x : State) (h : eccFree (x.core p) = true) :
    runVcmp p e o x = ranOk (x.setCore p (cmpLanes e o (x.core p) (vlOf o))) := by
  unfold runVcmp
  dsimp only
  rw [clean_free h, show bitsN o.fx 0 3 = o.fx.toNat % 8 from bitsN_low _ _]
  simp only [decide_eq_true_eq]
  rfl

theorem cmpStep_same (e : Entry) (o : OpV) (c acc : Core) (pl : Nat × Nat) :
    cmpStep e o c acc pl = { acc with m := (cmpStep e o c acc pl).m } := by
  unfold cmpStep
  split
  · rfl
  · split <;> rfl

/-- VCMP changes the masks of its core alone. -/
theorem cmpLanes_same (e : Entry) (o : OpV) (c : Core) (n : Nat) : cmpLanes e o c n = { c with m := (cmpLanes e o c n).m } := by
  unfold cmpLanes
  generalize elemPlaces n (tyOf o.type).perLane = l
  suffices h : ∀ acc : Core, acc = { c with m := acc.m } →
      l.foldl (cmpStep e o c) acc = { c with m := (l.foldl (cmpStep e o c) acc).m } from h c rfl
  induction l with
  | nil => exact fun _ h => h
  | cons pl l ih =>
    intro acc h
    refine ih _ ((cmpStep_same e o c acc pl).trans ?_)
    rw [h]

theorem mBit_putMask (c : Core) {m m' lane lane' : Nat} (b : Bool) (hm : m < 8) (hm' : m' < 8) (hl : lane < 512) :
    mBit (putMask c m' lane' b) m lane = if m = m' ∧ lane = lane' then b else mBit c m lane := by
  unfold mBit putMask
  dsimp only
  rw [Nat.mod_eq_of_lt hm']
  by_cases h : m = m'
  · subst h
    rw [vAt_setIfInBounds_same _ _ _ hm, getLsbD_setBit, decide_eq_true hl, Bool.true_and]
    simp only [true_and]
  · rw [vAt_setIfInBounds_other _ _ _ (Ne.symm h), if_neg fun hh => h hh.1]

theorem mBit_cmpStep (e : Entry) (o : OpV) (c acc : Core) (pl : Nat × Nat) {m lane : Nat} (hm : m < 8) (hr : cmpReg o pl.2 < 8)
    (hl : lane < 512) : mBit (cmpStep e o c acc pl) m lane =
      if m = cmpReg o pl.2 ∧ lane = pl.1 then cmpBit e o c pl.1 pl.2 (mBit acc m lane) else mBit acc m lane := by
  unfold cmpStep cmpBit
  split
  · exact mBit_putMask _ _ hm hr hl
  · split
    · exact mBit_putMask _ _ hm hr hl
    · exact (ite_self _).symm

theorem elemPlaces_succ (n per : Nat) : elemPlaces (n + 1) per = elemPlaces n per ++ (List.range per).map fun j => (n, j) := by
  simp [elemPlaces, List.range_succ]

/-- The masks after n lanes: the elements of those lanes have their bits, and no other bit has changed. -/
theorem mBit_cmpLanes (e : Entry) (o : OpV) (c : Core) (n : Nat) {m lane : Nat} (hm : m < 8) (hd : o.vd.toNat < 8)
    (hper : (tyOf o.type).perLane = 1 ∨ (tyOf o.type).perLane = 2) (hl : lane < 512) :
    mBit (cmpLanes e o c n) m lane =
      if lane < n ∧ m = o.vd.toNat then cmpBit e o c lane 0 (mBit c m lane)
      else if lane < n ∧ (tyOf o.type).perLane = 2 ∧ m = o.vd.toNat ^^^ 1 then cmpBit e o c lane 1 (mBit c m lane)
      else mBit c m lane := by
  have hx : o.vd.toNat ^^^ 1 < 8 := Nat.xor_lt_two_pow (n := 3) hd (by decide)
  have hne : o.vd.toNat ^^^ 1 ≠ o.vd.toNat := by
    intro h
    have := congrArg (fun n => n ^^^ o.vd.toNat) h
    simp [Nat.xor_comm] at this
  have h0 : cmpReg o 0 = o.vd.toNat := rfl
  have h1 : cmpReg o 1 = o.vd.toNat ^^^ 1 := rfl
  induction n with
  | zero => simp [cmpLanes, elemPlaces]
  | succ n ih =>
    unfold cmpLanes at *
    rw [elemPlaces_succ, List.foldl_append]
    generalize (elemPlaces n (tyOf o.type).perLane).foldl (cmpStep e o c) c = acc at ih ⊢
    obtain hp | hp := hper
    · rw [hp] at ih ⊢
      simp only [show List.range 1 = [0] from rfl, List.map_cons, List.map_nil, List.foldl_cons, List.foldl_nil]
      rw [mBit_cmpStep e o c acc (n, 0) hm hd hl, ih]
      grind
    · rw [hp] at ih ⊢
      simp only [show List.range 2 = [0, 1] from rfl, List.map_cons, List.map_nil, List.foldl_cons, List.foldl_nil]
      rw [mBit_cmpStep e o c _ (n, 1) hm hx hl, mBit_cmpStep e o c acc (n, 0) hm hd hl, ih, h0, h1]
      grind

theorem cmpLanes_frec (e : Entry) (o : OpV) (c : Core) (n : Nat) : (cmpLanes e o c n).frec = c.frec := by
  rw [cmpLanes_same]

/-- The form check of VCMP names a mask, and a type of one or two elements in a lane. -/
theorem vcmp_form {o : OpV} (h : formOk .vcmp (.v o) = true) :
    o.vd.toNat < 8 ∧ ((tyOf o.type).perLane = 1 ∨ (tyOf o.type).perLane = 2) := by
  have hv := (Bool.and_eq_true_iff.mp h).2
  simp only [formOkV, Bool.and_eq_true, decide_eq_true_eq] at hv
  obtain ⟨⟨⟨⟨⟨⟨hty, -⟩, -⟩, -⟩, -⟩, -⟩, hd⟩ := hv
  refine ⟨hd, ?_⟩
  unfold tyIs at hty
  unfold tyOf
  split at hty
  · next t ht =>
    rw [ht]
    revert hty
    cases t <;> decide
  · exact absurd hty (by decide)

/-- What VCMP gives a bit depends on the lanes and the masks of the core. -/
theorem cmpBit_congr {c d : Core} (hv : d.v = c.v) (hm : d.m = c.m) (e : Entry) (o : OpV) (lane j : Nat) (old : Bool) :
    cmpBit e o d lane j old = cmpBit e o c lane j old := by
  unfold cmpBit elemAt elemB opB
  simp only [vGet_congr hv, activeAt_congr hm]

theorem vcmp_inCore {k : Ctl} {o : OpV} {s : State} (h : StartsNow .vcmp (.v o) k .ve s) :
    InCore (.vcmp k o) .vcmp (.v o) k .ve s fun c => (cmpLanes (issuedEntry .vcmp (.v o) k s) o c (vlOf o), 0) :=
  coreRow_inCore (fun c => cmpLanes (issuedEntry .vcmp (.v o) k s) o c (vlOf o)) h rfl
    (fun x hx => (runEntry_vector (by decide) rfl).trans (runVcmp_free _ _ o x hx)) fun c => cmpLanes_frec _ o c _

theorem toNat_xor_one (x : BitVec 5) : (x ^^^ 1).toNat = x.toNat ^^^ 1 := rfl

/-- Settles O20: the rows of the table, and the bits of VCMP. -/
theorem vectorFoldRows : Obligations.VectorFoldRows := by
  unfold Obligations.VectorFoldRows
  refine ⟨vecFoldRows_inCore, fun k o s h => ?_⟩
  intro e c t
  obtain ⟨t', ht, hran, honly, hsame⟩ := vcmp_inCore h
  obtain ⟨-, -, hfront, -⟩ := atStart_front h
  obtain ⟨hd, hper⟩ := vcmp_form h.form
  dsimp only at hran hsame
  have hm : (t'.core k.core).m = (cmpLanes e o ((atStart .vcmp (.v o) k .ve s).core k.core) (vlOf o)).m := hsame.m
  refine ⟨t', ht, honly, youngest_of_ranTo hran rfl rfl, ?_, fun m lane hm8 hl => ?_⟩
  · unfold SameButFront at hsame hfront ⊢
    rw [hm, hsame, cmpLanes_same, hfront]
  · have hbit := mBit_cmpLanes e o ((atStart .vcmp (.v o) k .ve s).core k.core) (vlOf o) hm8 hd hper hl
    unfold mBit at hbit
    rw [hm, hbit, toNat_xor_one]
    simp only [cmpBit_congr hfront.v hfront.m, hfront.m]
    rfl

end Sys2Proof.Machine

/-! # The stop of a core (R48 to R50, R192) -/

namespace Sys2Proof.Machine

/-! ## Bytes where nothing that places them changes -/

theorem summaryRise_places (b s : State) : SamePlaces s (summaryRise b s) :=
  ⟨summaryRise_map b s, summaryRise_memMap b s, fun _ _ => summaryRise_rget b s _ _ _⟩

@[simp] theorem byteAt_summaryRise (b s : State) (a : Nat) : byteAt (summaryRise b s) a = byteAt s a :=
  byteAt_congr (summaryRise_places b s) (summaryRise_mem b s) a

@[simp] theorem byteAt_modCore (s : State) (p : Fin 72) (f : Core → Core) (a : Nat) : byteAt (s.modCore p f) a = byteAt s a :=
  byteAt_congr ⟨rfl, rfl, fun _ _ => rfl⟩ rfl a

/-- A write reaches no byte of another address. -/
theorem byteAt_putByte_ne {s : State} {a c : Nat} (b : Byte) (hw : memWf s.mem = true) (h : c ≠ a) :
    byteAt (putByte s a b) c = byteAt s c := by
  cases ha : byteKey s a with
  | none => rw [putByte_none b ha]
  | some i => exact byteAt_putByte_other b hw fun hk => h (byteKey_inj (hk.trans ha) ha)

@[simp] theorem putByte_core (s : State) (a : Nat) (b : Byte) (q : Fin 72) : (putByte s a b).core q = s.core q := by
  unfold putByte
  split <;> rfl

@[simp] theorem putByte_col (s : State) (a : Nat) (b : Byte) : (putByte s a b).col = s.col := by
  unfold putByte
  split <;> rfl

/-! ## What abandoned instructions leave -/

/-- Write a free value to an address. -/
def putFree (s : State) (a : Nat) : State := putByte { s with free := s.free + 1 } a ((Config.freeValue s.free).extractLsb' 0 8)

theorem byteAt_free (s : State) (n a : Nat) : byteAt { s with free := n } a = byteAt s a := rfl

theorem putFree_core (s : State) (a : Nat) (q : Fin 72) : (putFree s a).core q = s.core q := by
  unfold putFree
  rw [putByte_core]
  rfl

theorem putFree_wf {s : State} (a : Nat) (h : memWf s.mem = true) : memWf (putFree s a).mem = true := putByte_wf a _ h

/-- Free values reach no byte of another address. -/
theorem byteAt_putFrees (l : List Nat) {a : Nat} (ha : a ∉ l) : ∀ {s : State}, memWf s.mem = true →
    byteAt (l.foldl putFree s) a = byteAt s a := by
  induction l with
  | nil => exact fun _ => rfl
  | cons x l ih =>
    intro s hw
    rw [List.foldl_cons, ih (fun h => ha (List.mem_cons_of_mem _ h)) (putFree_wf x hw)]
    exact (byteAt_putByte_ne (s := { s with free := s.free + 1 }) _ hw fun h => ha (by rw [h]; exact List.mem_cons_self)).trans (byteAt_free _ _ _)

/-- The bytes that a core's abandoned instructions and its open bands were writing. -/
def abandonedBytes (c : Core) : List Nat :=
  ((coreFlights c).flatMap fun x => x.outMem) ++ c.outMem ++ (openBands c).flatMap bandBytes

theorem mem_abandonedBytes (c : Core) (a : Nat) : a ∈ abandonedBytes c ↔ Abandoned c a := by
  unfold abandonedBytes Abandoned
  rw [List.mem_append, List.mem_append, List.mem_flatMap, or_assoc, or_left_comm]

theorem abandonEntry_frec (n : Nat) (b : Bool) (e : Entry) (c : Core) : (abandonEntry n b e c).frec = c.frec := rfl

/-- An abandonment is a change of the core that keeps its fault record, and free values at its bytes. -/
theorem abandonOutputs_eq (s : State) (p : Fin 72) : ∃ (f : Core → Core) (n : Nat), (∀ c, (f c).frec = c.frec) ∧
    abandonOutputs s p = (abandonedBytes (s.core p)).foldl putFree { s.modCore p f with free := n } := by
  refine ⟨_, _, fun c => ?_, rfl⟩
  exact foldl_keeps _ Core.frec (fun c x => abandonEntry_frec _ _ _ c) _ _

theorem abandonOutputs_frec (s : State) (p : Fin 72) : ((abandonOutputs s p).core p).frec = (s.core p).frec := by
  obtain ⟨f, n, hf, he⟩ := abandonOutputs_eq s p
  rw [he, foldl_keeps putFree (fun s : State => s.core p) fun s a => putFree_core s a p]
  exact (congrArg Core.frec (modCore_core_same s p f)).trans (hf _)

theorem abandonOutputs_other (s : State) {p q : Fin 72} (h : q ≠ p) : (abandonOutputs s p).core q = s.core q := by
  obtain ⟨f, n, -, he⟩ := abandonOutputs_eq s p
  rw [he, foldl_keeps putFree (fun s : State => s.core q) fun s a => putFree_core s a q]
  exact modCore_core_other s f (Ne.symm h)

theorem byteAt_abandonOutputs {s : State} {p : Fin 72} {a : Nat} (hw : memWf s.mem = true) (h : ¬ Abandoned (s.core p) a) :
    byteAt (abandonOutputs s p) a = byteAt s a := by
  obtain ⟨f, n, -, he⟩ := abandonOutputs_eq s p
  rw [he]
  exact (byteAt_putFrees _ (fun hm => h ((mem_abandonedBytes _ _).mp hm)) (s := { s.modCore p f with free := n }) hw).trans
    ((byteAt_free _ _ _).trans (byteAt_modCore s p f a))

/-! ## The stop -/

@[simp] theorem usesEnd_core (s : State) (l : List Nat) (q : Fin 72) : (usesEnd s l).core q = s.core q :=
  foldl_keeps useEnd (fun s : State => s.core q) (fun _ _ => rfl) l s

theorem usesEnd_mem (s : State) (l : List Nat) : (usesEnd s l).mem = s.mem :=
  foldl_keeps useEnd State.mem (fun _ _ => rfl) l s

theorem usesEnd_places (s : State) (l : List Nat) : SamePlaces s (usesEnd s l) :=
  ⟨foldl_keeps useEnd State.map (fun _ _ => rfl) l s, foldl_keeps useEnd State.memMap (fun _ _ => rfl) l s,
    fun n _ => foldl_keeps useEnd (fun s : State => s.rget .vtrSwz 0 n) (fun _ _ => rfl) l s⟩

theorem dropUnsent_core (s : State) (p q : Fin 72) : (dropUnsent s p).core q = s.core q := rfl

theorem byteAt_dropUnsent (s : State) (p : Fin 72) (a : Nat) : byteAt (dropUnsent s p) a = byteAt s a := rfl

theorem clean_frec (c : Core) (f : Place → Bool) : (Core.clean c f).frec = c.frec := rfl

/-- What the stop of a core leaves of its state. -/
theorem stopCore_core (s : State) (p : Fin 72) : ((stopCore s p).core p).runstate = (if coreReqOpen s p then 4 else 5) ∧
    QueuesEmpty ((stopCore s p).core p) ∧ ((stopCore s p).core p).frec = (s.core p).frec := by
  unfold stopCore
  dsimp only
  rw [modCore_core_same]
  refine ⟨rfl, rfl, ?_⟩
  rw [clean_frec]
  dsimp only
  rw [dropUnsent_core, abandonOutputs_frec, usesEnd_core]

theorem stopCore_other (s : State) {p q : Fin 72} (h : q ≠ p) : (stopCore s p).core q = s.core q := by
  unfold stopCore
  dsimp only
  rw [modCore_core_other _ _ (Ne.symm h), dropUnsent_core, abandonOutputs_other _ h, usesEnd_core]

/-- A stop changes no byte but those that the core was writing. -/
theorem byteAt_stopCore {s : State} {p : Fin 72} {a : Nat} (hw : memWf s.mem = true) (h : ¬ Abandoned (s.core p) a) :
    byteAt (stopCore s p) a = byteAt s a := by
  unfold stopCore
  dsimp only
  rw [byteAt_modCore, byteAt_dropUnsent, byteAt_abandonOutputs (by rw [usesEnd_mem]; exact hw) (by rw [usesEnd_core]; exact h), byteAt_congr (usesEnd_places s _) (usesEnd_mem s _)]

/-! ## The fault of a core -/

section
variable (s : State) (p : Fin 72) (g : BitVec 3) (f : Flt) (k : Fin 6) (pc : W64)

/-- The state with the record of a fault. -/
def faulted (s : State) (p : Fin 72) (g : BitVec 3) (f : Flt) (k : Fin 6) (pc : W64) : State :=
  s.modCore p fun c => { c with frec := recordFault c.frec g f (BitVec.ofNat 8 k.val) pc (nowNs s) c.tag }

theorem coreFault_eq : coreFault s p g f k pc = markStopping (stopCore (faulted s p g f k pc) p) (s.core p).tag := rfl

theorem faulted_core : (faulted s p g f k pc).core p =
    { s.core p with frec := recordFault (s.core p).frec g f (BitVec.ofNat 8 k.val) pc s.timeNs (s.core p).tag } := modCore_core_same s p _

theorem markStopping_core (tag : W32) (q : Fin 72) : (markStopping s tag).core q = s.core q := rfl

theorem byteAt_markStopping (tag : W32) (a : Nat) : byteAt (markStopping s tag) a = byteAt s a := rfl

theorem coreFault_core : ((coreFault s p g f k pc).core p).runstate = (if coreReqOpen s p then 4 else 5) ∧
    QueuesEmpty ((coreFault s p g f k pc).core p) ∧
    ((coreFault s p g f k pc).core p).frec = recordFault (s.core p).frec g f (BitVec.ofNat 8 k.val) pc s.timeNs (s.core p).tag := by
  obtain ⟨hr, hq, hf⟩ := stopCore_core (faulted s p g f k pc) p
  rw [faulted_core] at hf
  rw [coreFault_eq, markStopping_core]
  exact ⟨hr, hq, hf⟩

theorem coreFault_other {q : Fin 72} (h : q ≠ p) : (coreFault s p g f k pc).core q = s.core q := by
  rw [coreFault_eq, markStopping_core, stopCore_other _ h]
  exact modCore_core_other s _ (Ne.symm h)

theorem byteAt_coreFault {a : Nat} (hw : memWf s.mem = true) (h : ¬ Abandoned (s.core p) a) :
    byteAt (coreFault s p g f k pc) a = byteAt s a := by
  have hrec : ¬ Abandoned ((faulted s p g f k pc).core p) a := by
    rw [faulted_core]
    exact h
  rw [coreFault_eq, byteAt_markStopping, byteAt_stopCore (s := faulted s p g f k pc) hw hrec]
  exact byteAt_modCore _ _ _ _

end

/-- The record of a first fault. -/
theorem recordFault_fresh {r : FaultRec} (h : r.valid = false) (g : BitVec 3) (f : Flt) (st : BitVec 8) (pc now : W64) (tag : W32) :
    recordFault r g f st pc now tag =
      { valid := true, engine := g, code := f.code, stream := st, detail := f.detail, pc := pc, timeNs := now, tag := tag } := by
  unfold recordFault
  rw [h]
  rfl

end Sys2Proof.Machine

/-! # Control flow -/

namespace Sys2Proof.Machine

/-- The front end has stopped core k.core, with a fault of a control-flow instruction. -/
def FrontStop (k : Ctl) (y z : State) : Prop :=
  ∃ (x : Machine.Stream) (f : Flt) (pc : W64), z = coreFault (y.modCore k.core fun c => setStream c k.stream x) k.core 0 f k.stream pc ∧
    f.code ∈ [(0x0101 : BitVec 16), 0x0102, 0x0107]

/-- A stream goes on as given, or its core has stopped. -/
def Leads (k : Ctl) (y z : State) : Option Machine.Stream → Prop
  | some x => z = y.modCore k.core fun c => setStream c k.stream x
  | none => FrontStop k y z

theorem setStream_setStream (c : Core) (k : Fin 6) (x y : Machine.Stream) : setStream (setStream c k x) k y = setStream c k y := by
  simp [setStream]

theorem setStream_self (c : Core) (k : Fin 6) : setStream c k (streamOf c k) = c := by
  simp [setStream, streamOf]

theorem streamOf_setStream (c : Core) (k : Fin 6) (x : Machine.Stream) : streamOf (setStream c k x) k = x := by
  simp [setStream, streamOf]

theorem frontStop_here {k : Ctl} (y : State) {f : Flt} (pc : W64) (hf : f.code ∈ [(0x0101 : BitVec 16), 0x0102, 0x0107]) :
    FrontStop k y (coreFault y k.core 0 f k.stream pc) := by
  refine ⟨streamOf (y.core k.core) k.stream, f, pc, ?_, hf⟩
  rw [modCore_congr y k.core (g := fun c => c) (setStream_self _ _), show y.modCore k.core (fun c => c) = y from setCore_core y k.core]

/-- What holds after another change of the same stream holds before it. -/
theorem Leads.of_moved {k : Ctl} {y z : State} {x : Machine.Stream} {r : Option Machine.Stream}
    (h : Leads k (y.modCore k.core fun c => setStream c k.stream x) z r) : Leads k y z r := by
  cases r with
  | some w =>
    unfold Leads at h ⊢
    rw [h, modCore_modCore]
    simp only [setStream_setStream]
  | none =>
    obtain ⟨w, f, pc, hz, hf⟩ := h
    rw [modCore_modCore] at hz
    simp only [setStream_setStream] at hz
    exact ⟨w, f, pc, hz, hf⟩

theorem gotoPc_leads (k : Ctl) (y : State) (loops : List LoopFrame) (t : Nat) :
    Leads k y (gotoPc y k.core k.stream loops t) (if targetOk (y.core k.core) t then
      some { streamOf (y.core k.core) k.stream with pc := BitVec.ofNat 32 t, loops := loops } else none) := by
  unfold gotoPc
  split
  · exact modCore_congr y k.core rfl
  · exact frontStop_here y _ (by simp [extentFlt])

theorem afterOffset_leads (k : Ctl) (y : State) (q : Nat) :
    Leads k y (afterOffset y k.core k.stream q) (pastOffset (y.core k.core) (streamOf (y.core k.core) k.stream) q) :=
  gotoPc_leads k y _ _

theorem takeBranch_leads (k : Ctl) (y : State) (o : OpS) :
    Leads k y (takeBranch y k.core k.stream o) (branched (y.core k.core) (streamOf (y.core k.core) k.stream) o) := by
  unfold takeBranch branched immI
  dsimp only
  split
  · next ht =>
    have h := gotoPc_leads k y (loopsAfterBranch ((streamOf (y.core k.core) k.stream).pc.toNat + o.imm.toInt).toNat
      (streamOf (y.core k.core) k.stream).loops) ((streamOf (y.core k.core) k.stream).pc.toNat + o.imm.toInt).toNat
    have h0 : 0 ≤ ((streamOf (y.core k.core) k.stream).pc.toNat : Int) + o.imm.toInt := by
      unfold targetOk at ht
      exact (of_decide_eq_true ht).1
    rw [Int.toNat_of_nonneg h0, if_pos ht] at h
    exact h
  · exact frontStop_here y _ (by simp [extentFlt])

theorem startLoop_leads (k : Ctl) (y : State) (n : W64) (e : Nat) :
    Leads k y (startLoop y k n e) (looped (y.core k.core) (streamOf (y.core k.core) k.stream) n e) := by
  unfold startLoop looped
  dsimp only
  generalize hd : (if (y.core k.core).pl12 = true then 2 else 4) = depth
  split
  · exact afterOffset_leads k y _
  · by_cases hl : depth ≤ (streamOf (y.core k.core) k.stream).loops.length
    · rw [if_pos hl, if_pos (Or.inl hl)]
      exact frontStop_here y _ (by simp [depthFlt])
    · rw [if_neg hl]
      have h := gotoPc_leads k y (⟨BitVec.ofNat 64 ((streamOf (y.core k.core) k.stream).pc.toNat + 16),
        BitVec.ofNat 64 ((streamOf (y.core k.core) k.stream).pc.toNat + e), n⟩ :: (streamOf (y.core k.core) k.stream).loops)
        ((streamOf (y.core k.core) k.stream).pc.toNat + 16)
      cases ht : targetOk (y.core k.core) ((streamOf (y.core k.core) k.stream).pc.toNat + 16 : Nat) with
      | true => rw [ht, if_pos rfl] at h; rw [if_neg (by simp [hl])]; exact h
      | false => rw [ht] at h; rw [if_pos (Or.inr rfl)]; exact h

theorem call_leads (k : Ctl) (y : State) (o : OpS) :
    let c := y.core k.core
    let st := streamOf c k.stream
    let t : Int := st.pc.toNat + immI o
    Leads k y
      (if (if c.pl12 then 4 else 16) ≤ st.rets.length then frontFault y k.core k.stream (depthFlt (st.rets.length + 1))
        else if !targetOk c t then frontFault y k.core k.stream (extentFlt t)
        else y.modCore k.core fun c => setStream c k.stream { st with pc := BitVec.ofInt 32 t, rets := (st.pc + 16) :: st.rets })
      (if st.rets.length < (if c.pl12 then 4 else 16) ∧ targetOk c t = true then
        some { st with pc := BitVec.ofInt 32 t, rets := (st.pc + 16) :: st.rets } else none) := by
  dsimp only
  generalize (if (y.core k.core).pl12 = true then 4 else 16) = depth
  by_cases hd : depth ≤ (streamOf (y.core k.core) k.stream).rets.length
  · rw [if_pos hd, if_neg fun h => Nat.not_lt.mpr hd h.1]
    exact frontStop_here y _ (by simp [depthFlt])
  · rw [if_neg hd]
    cases ht : targetOk (y.core k.core) ((streamOf (y.core k.core) k.stream).pc.toNat + immI o) with
    | true =>
      rw [if_neg (by decide), if_pos ⟨Nat.not_le.mp hd, rfl⟩]
      rfl
    | false =>
      rw [if_pos (by decide), if_neg fun h => Bool.noConfusion h.2]
      exact frontStop_here y _ (by simp [extentFlt])

/-- Where a return leads: past the call, with the loop-end processing of its offset. -/
def returned (c : Core) (x : Machine.Stream) : Option Machine.Stream :=
  match x.rets with
  | [] => none
  | r :: l => if targetOk c r.toNat then pastOffset c { x with rets := l } (r.toNat - 16) else none

/-- What RET does on a core that may go on. -/
def retEffect (k : Ctl) (s : State) : State :=
  let st := streamOf (s.core k.core) k.stream
  match st.rets with
  | [] => frontFault s k.core k.stream (depthFlt 0)
  | r :: t =>
    if targetOk (s.core k.core) r.toNat then
      afterOffset (s.modCore k.core fun c => setStream c k.stream { st with rets := t }) k.core k.stream (r.toNat - 16)
    else frontFault s k.core k.stream (extentFlt r.toNat)

theorem ret_leads (k : Ctl) (y : State) : Leads k y (retEffect k y) (returned (y.core k.core) (streamOf (y.core k.core) k.stream)) := by
  unfold retEffect returned
  dsimp only
  cases hr : (streamOf (y.core k.core) k.stream).rets with
  | nil => exact frontStop_here y _ (by simp [depthFlt])
  | cons r l =>
    dsimp only
    split
    · have h := afterOffset_leads k (y.modCore k.core fun c =>
        setStream c k.stream { streamOf (y.core k.core) k.stream with rets := l }) (r.toNat - 16)
      rw [modCore_core_same, streamOf_setStream] at h
      exact h.of_moved
    · exact frontStop_here y _ (by simp [extentFlt])

/-- A conditional branch: taken, or the next instruction. -/
theorem bcc_leads (k : Ctl) (y : State) (o : OpS) (taken : Bool) :
    Leads k y (if taken then takeBranch y k.core k.stream o else advance y k.core k.stream)
      (if taken then branched (y.core k.core) (streamOf (y.core k.core) k.stream) o
        else pastOffset (y.core k.core) (streamOf (y.core k.core) k.stream) (streamOf (y.core k.core) k.stream).pc.toNat) := by
  cases taken with
  | true => exact takeBranch_leads k y o
  | false => exact afterOffset_leads k y _

/-- A loop whose end offset the entry refuses is a bad operand; otherwise it starts. -/
theorem loop_leads (k : Ctl) (y : State) (op : CoreOp) (bad : Prop) [Decidable bad] (n : W64) (e : Nat) :
    Leads k y (if bad then frontFault y k.core k.stream (opcodeFlt op) else startLoop y k n e)
      (if bad then none else looped (y.core k.core) (streamOf (y.core k.core) k.stream) n e) := by
  by_cases h : bad
  · rw [if_pos h, if_pos h]
    exact frontStop_here y _ (by simp [opcodeFlt])
  · rw [if_neg h, if_neg h]
    exact startLoop_leads k y n e

/-- Each row of the table leads its stream where the table says. -/
theorem controlRows_lead : ∀ r ∈ controlRows, ∀ (k : Ctl) (o : OpS), ∃ f : State → State,
    (∀ s, exec (r.1 k o) s = Machine.control r.2.1 k o s f) ∧ ∀ y, Leads k y (f y) (r.2.2 (y.core k.core) k o) := by
  simp only [controlRows, List.forall_mem_cons]
  refine ⟨fun k o => ⟨_, fun _ => rfl, fun y => afterOffset_leads k y _⟩, fun k o => ⟨_, fun _ => rfl, fun y => takeBranch_leads k y o⟩,
    fun k o => ⟨_, fun _ => rfl, fun y => bcc_leads k y o (scalarCmp _ _ _)⟩, fun k o => ⟨_, fun _ => rfl, fun y => call_leads k y o⟩,
    fun k o => ⟨retEffect k, fun _ => rfl, fun y => ret_leads k y⟩, fun k o => ⟨_, fun _ => rfl, fun y => loop_leads k y .loop _ _ _⟩,
    fun k o => ⟨_, fun _ => rfl, fun y => loop_leads k y .loopi _ _ _⟩, fun _ h => absurd h List.not_mem_nil⟩

/-- Leaving LOADING moves no stream. -/
theorem controlRows_loaded : ∀ r ∈ controlRows, ∀ (c : Core) (k : Ctl) (o : OpS), r.2.2 (Core.loaded c) k o = r.2.2 c k o := by
  simp only [controlRows, List.forall_mem_cons]
  exact ⟨fun _ _ _ => rfl, fun _ _ _ => rfl, fun _ _ _ => rfl, fun _ _ _ => rfl, fun _ _ _ => rfl, fun _ _ _ => rfl,
    fun _ _ _ => rfl, fun _ h => absurd h List.not_mem_nil⟩

/-- HALT ends its stream, and drains its core where no present stream is left. -/
def haltCore (k : Ctl) (c : Core) : Core :=
  let c := setStream c k.stream { streamOf c k.stream with halted := true }
  if allHalted c then { c with runstate := 3 } else c

theorem allHalted_iff (c : Core) : allHalted c = true ↔ ∀ x ∈ c.streams.toList, x.active = true → x.halted = true := by
  unfold allHalted
  rw [List.all_eq_true]
  refine forall₂_congr fun x _ => ?_
  cases x.active <;> simp

theorem haltCore_frec (k : Ctl) (c : Core) : (haltCore k c).frec = c.frec := by
  unfold haltCore
  dsimp only
  split <;> rfl

theorem haltCore_loaded (k : Ctl) (d : Core) : haltCore k (Core.loaded d) =
    let c := setStream (Core.loaded d) k.stream { streamOf d k.stream with halted := true }
    { c with runstate := if ∀ x ∈ c.streams.toList, x.active = true → x.halted = true then 3 else c.runstate } := by
  unfold haltCore
  dsimp only
  rw [show streamOf (Core.loaded d) k.stream = streamOf d k.stream from rfl]
  by_cases h : allHalted (setStream (Core.loaded d) k.stream { streamOf d k.stream with halted := true }) = true
  · rw [if_pos h, if_pos ((allHalted_iff _).mp h)]
  · rw [if_neg h, if_neg fun hh => h ((allHalted_iff _).mpr hh)]

/-- A HALT that is ready has its effect on its core alone. -/
theorem halt_leaves {k : Ctl} {o : OpS} {s : State} (h : ControlReady .halt k o s) :
    exec (.halt k o) s = .next (s.modCore k.core fun d => haltCore k (Core.loaded d)) := by
  have he : exec (.halt k o) s = Machine.control .halt k o s fun s => s.modCore k.core (haltCore k) := rfl
  rw [he, control_ready h, modCore_modCore, answer_same (by rw [modCore_vit]), summaryRise_same_summary]
  refine errSummary_congr (modCore_regs s _ _) fun p => ?_
  by_cases hp : p = k.core
  · subst hp
    rw [modCore_core_same, haltCore_frec]
    rfl
  · rw [modCore_core_other _ _ (Ne.symm hp)]

/-- Settles O13: each row leads its stream where the table says, and HALT ends its stream. -/
theorem controlRows_hold : Obligations.ControlRows := by
  unfold Obligations.ControlRows
  refine ⟨fun r hr k o s x h hx => ?_, fun k o s h => ⟨_, halt_leaves h, ?_⟩⟩
  · obtain ⟨f, hexec, hlead⟩ := controlRows_lead r hr k o
    rw [hexec]
    refine moved_of h x f fun y hy => ?_
    have hl := hlead y
    rw [hy, controlRows_loaded r hr, hx] at hl
    exact hl
  · exact modCore_congr s k.core (haltCore_loaded k _)

/-- Settles O14: where a row has no stream to leave, its core stops with the fault of the row. -/
theorem controlFaults : Obligations.ControlFaults := by
  unfold Obligations.ControlFaults
  intro r hr k o s h hvalid hnone
  obtain ⟨f, hexec, hlead⟩ := controlRows_lead r hr k o
  have hl := hlead (s.modCore k.core Core.loaded)
  rw [loaded_core, controlRows_loaded r hr, hnone] at hl
  obtain ⟨x, flt, pc, hz, hcode⟩ := hl
  rw [modCore_modCore] at hz
  have hcore : (s.modCore k.core fun c => setStream (Core.loaded c) k.stream x).core k.core =
      setStream (Core.loaded (s.core k.core)) k.stream x := modCore_core_same _ _ _
  obtain ⟨hrun, hqueues, hfrec⟩ := coreFault_core (s.modCore k.core fun c => setStream (Core.loaded c) k.stream x) k.core 0 flt k.stream pc
  rw [hcore, recordFault_fresh (show (setStream (Core.loaded (s.core k.core)) k.stream x).frec.valid = false from hvalid)] at hfrec
  rw [hexec, control_ready h, hz, answer_same (by rw [coreFault_vit, modCore_vit])]
  refine ⟨_, rfl, ?_⟩
  simp only [summaryRise_core, byteAt_summaryRise, hrun, hfrec]
  refine ⟨rfl, hqueues, trivial, trivial, rfl, rfl, hcode, fun q hq => ?_, fun hc a ha => ?_⟩
  · rw [coreFault_other _ _ _ _ _ _ hq, modCore_core_other _ _ (Ne.symm hq)]
  · have hw : memWf (s.modCore k.core fun c => setStream (Core.loaded c) k.stream x).mem = true := hc.1
    rw [byteAt_coreFault _ _ _ _ _ _ hw (by rw [hcore]; exact ha), byteAt_modCore]

end Sys2Proof.Machine

/-! # The rows that an engine executes -/

namespace Sys2Proof.Machine

/-- A row that an engine executes issues. -/
theorem exec_engineRow {i : Instr} {op : CoreOp} {args : Args} {k : Ctl} (h : engineRow i = some (op, args, k)) (s : State) :
    exec i s = issue op args k s := by
  unfold engineRow at h
  split at h
  all_goals cases h
  all_goals rfl

/-- The state in which an instruction that waits stays at the head of its queue. -/
def waitingHead (op : CoreOp) (args : Args) (k : Ctl) (g : Engine) (s : State) : State :=
  s.modCore k.core fun c => setQueue (issuedCore op args k g c) g [{ issuedEntry op args k s with held := true }]

theorem waitingHead_summary (op : CoreOp) (args : Args) (k : Ctl) (g : Engine) (s : State) :
    summaryRise s (waitingHead op args k g s) = waitingHead op args k g s := by
  refine summaryRise_same_summary (errSummary_congr (modCore_regs s _ _) fun p => ?_)
  unfold waitingHead
  by_cases hp : p = k.core
  · subst hp
    rw [modCore_core_same]
    simp only [setQueue, issuedCore, setStream, enqueue, Core.loaded]
  · rw [modCore_core_other _ _ (Ne.symm hp)]

theorem issue_waits_head {op : CoreOp} {args : Args} {k : Ctl} {g : Engine} {s : State} (h : StartsNow op args k g s)
    (hu : ¬ Unheld s (runEntry k.core (issuedEntry op args k s) (atStart op args k g s)).st) :
    issue op args k s = .next (waitingHead op args k g s) := by
  rw [issue_waits h hu, modCore_modCore]
  refine (answer_same (s := waitingHead op args k g s) (by unfold waitingHead; rw [modCore_vit])).trans ?_
  rw [waitingHead_summary]

theorem waitingHead_core (op : CoreOp) (args : Args) (k : Ctl) (g : Engine) (s : State) : (waitingHead op args k g s).core k.core =
    setQueue (issuedCore op args k g (s.core k.core)) g [{ issuedEntry op args k s with held := true }] := modCore_core_same _ _ _

/-- Settles O8: every row of an engine starts at issue, and waits where its effect met something to wait for. -/
theorem engineRowsStart : Obligations.EngineRowsStart := by
  unfold Obligations.EngineRowsStart
  refine ⟨fun i op args k g s hrow h => ⟨fun hu => ?_, fun hu => ?_⟩, fun op args k g s h => ?_, fun g e r c => ?_⟩
  · rw [exec_engineRow hrow]
    exact issue_starts h hu
  · rw [exec_engineRow hrow]
    refine ⟨waitingHead op args k g s, issue_waits_head h hu, rfl, fun q hq => ?_, ?_, ?_⟩
    · exact modCore_core_other s _ (Ne.symm hq)
    · rw [waitingHead_core, queueOf_setQueue_same]
    · rw [waitingHead_core]
      simp only [SameButFront, setQueue, issuedCore, setStream, enqueue, Core.loaded]
  · obtain ⟨heq, ⟨-, hother⟩, hrest⟩ := atStart_front h
    exact ⟨heq, hother, hrest⟩
  · obtain ⟨hsame, hstreams, -, hflights, hlast⟩ := inProgress_same g e r c
    exact ⟨hsame, hstreams, hflights, hlast⟩

end Sys2Proof.Machine

/-! # Stored words (R27 to R29, R56 to R59) -/

namespace Sys2Proof.Machine

/-! ## The opcode table -/

theorem wordOps_codes_nodup : (wordOps.map CoreOp.code).Nodup := by decide +kernel

/-- The engine no-ops of the table are those of the groups that have an engine. -/
theorem engineNop_mem {g : BitVec 4} (h : (opEngine (.engineNop g)).isSome = true) : CoreOp.engineNop g ∈ wordOps := by
  revert g
  decide +kernel

theorem mem_wordOps {op : CoreOp} (h : ∀ g, op = .engineNop g → (opEngine op).isSome = true) : op ∈ wordOps := by
  cases op with
  | engineNop g => exact engineNop_mem (h g rfl)
  | _ => decide +kernel

/-- No word names two operations. -/
theorem wordOp_of_code {op : CoreOp} {w : BitVec 128} (hop : op ∈ wordOps) (h : w.extractLsb' 70 10 = op.code) : wordOp w = some op := by
  unfold wordOp
  cases hf : wordOps.find? fun x => decide (x.code = w.extractLsb' 70 10) with
  | none =>
    have := List.find?_eq_none.mp hf op hop
    simp [h] at this
  | some x =>
    have hx : x.code = op.code := by
      have hd := List.find?_some hf
      exact (of_decide_eq_true hd).trans h
    rw [List.inj_on_of_nodup_map wordOps_codes_nodup (List.mem_of_find?_eq_some hf) hop hx]

theorem code_of_wordOp {op : CoreOp} {w : BitVec 128} (h : wordOp w = some op) : op.code = w.extractLsb' 70 10 := by
  unfold wordOp at h
  have hd := List.find?_some h
  exact of_decide_eq_true hd

/-! ## A word reaches issue -/

/-- A decoded word issues as the row of its operation. -/
theorem issueRow_of_frontRow {i : Instr} {op : CoreOp} {args : Args} {k : Ctl} (h : frontRow i = some (op, args, k)) (s : State) :
    issueRow op args k s = exec i s := by
  unfold frontRow at h
  split at h
  case h_9 =>
    rw [exec_engineRow h]
    unfold engineRow at h
    split at h
    all_goals cases h
    all_goals rfl
  all_goals
    cases h
    rfl

theorem frontStream_issues {p : Fin 72} {k : Fin 6} {s : State} (hc : canIssue (s.core p) k = true) (hl : hasLine (s.core p) k = true) :
    frontStream p s k = nextOf (issueWord p k (bufferedWord (s.core p) k) s) s := by
  unfold frontStream
  simp only [hc, hl, Bool.not_true, Bool.false_eq_true, if_false, if_true]

/-- A word whose GROUP is reserved or whose FUNC is not defined stops its core. -/
theorem frontStream_undefined {p : Fin 72} {k : Fin 6} {s : State} (hc : canIssue (s.core p) k = true)
    (hl : hasLine (s.core p) k = true) (hg : eccFree (s.core p) = true) (hw : wordOp (bufferedWord (s.core p) k) = none) :
    frontStream p s k = summaryRise s (frontFault (s.modCore p Core.loaded) p k (wordFlt (bufferedWord (s.core p) k))) := by
  rw [frontStream_issues hc hl]
  unfold issueWord
  rw [hw]
  dsimp only
  rw [withLine_has (by rw [loaded_core]; exact hl) (by rw [loaded_core]; exact hg)]
  rw [answer_same (by unfold frontFault; rw [coreFault_vit, modCore_vit])]
  rfl

/-! ## The fill of a line (R28) -/

theorem l2Fills_only (l : List Nat) : ∀ s : State, OnlyL2 s (l.foldl (fun s l => if l < memTop s then l2Fill s l else s) s) := by
  induction l with
  | nil => exact fun s => .refl s
  | cons a l ih =>
    intro s
    rw [List.foldl_cons]
    refine OnlyL2.trans ?_ (ih _)
    split
    · exact l2Fill_only s a
    · exact .refl s

theorem OnlyL2.core {s t : State} (h : OnlyL2 s t) (q : Fin 72) : t.core q = s.core q := by rw [h.eq]; rfl
theorem OnlyL2.mem {s t : State} (h : OnlyL2 s t) : t.mem = s.mem := by rw [h.eq]
theorem OnlyL2.met {s t : State} (h : OnlyL2 s t) : t.vit.met = s.vit.met := by rw [h.eq]

/-- A fill that meets no error puts the bytes of the line in front of the buffer. -/
theorem fillLine_good {s : State} (h : StorageGood s) (p : Fin 72) (base line : Nat) : ∃ (t : State) (n : Nat) (d : Core),
    OnlyL2 s t ∧ d.streams = (s.core p).streams ∧
    (∃ l, d.ibuf = (line, readBytes s (base + 128 * line) (min 128 ((s.core p).extent.toNat - 128 * line))) :: l) ∧
    fillLine s p base line = ({ t.setCore p d with free := n }, none) := by
  obtain ⟨t, ht, ho⟩ := devRead_good h (.core p) (base + 128 * line) (min 128 ((s.core p).extent.toNat - 128 * line))
  unfold fillLine
  dsimp only
  rw [ht]
  dsimp only
  have ho2 := ho.trans (l2Fills_only (spanLines (base + 128 * line) (min 128 ((s.core p).extent.toNat - 128 * line))) t)
  generalize (spanLines (base + 128 * line) (min 128 ((s.core p).extent.toNat - 128 * line))).foldl _ t = u at ho2 ⊢
  refine ⟨u, u.free + 1, _, ho2, ?_, ⟨ibufRoom u.free (u.core p).ibuf, rfl⟩, rfl⟩
  show (u.core p).streams = _
  rw [ho2.core]

/-- The word at the program counter of a core whose buffer has the line's bytes in front. -/
theorem bufferedWord_filled {s : State} {d : Core} {k : Fin 6} {b ext pc : Nat} {l : List (Nat × List Byte)}
    (hpc : (streamOf d k).pc.toNat = pc)
    (hd : d.ibuf = (pc / 128, readBytes s (b + 128 * (pc / 128)) (min 128 (ext - 128 * (pc / 128)))) :: l)
    (h16 : pc % 16 = 0) (hext : pc + 16 ≤ ext) :
    hasLine d k = true ∧ bufferedWord d k = BitVec.ofNat 128 (leNat (readBytes s (b + pc) 16)) := by
  unfold hasLine bufferedWord
  rw [hpc, hd]
  dsimp only
  rw [List.find?_cons_of_pos (by simp)]
  refine ⟨by simp, ?_⟩
  dsimp only [Option.map, Option.getD]
  rw [readBytes_slice _ _ _ _ _ (by omega), show b + 128 * (pc / 128) + pc % 128 = b + pc by omega]

theorem nextOf_answer {b s x : State} (h : s.vit.met = b.vit.met) : nextOf (answer b s) x = summaryRise b s := by
  rw [answer_same h]
  rfl

/-- A stream whose line the buffer does not hold has it filled. -/
theorem frontStream_fills {p : Fin 72} {k : Fin 6} {s : State} {b : Nat} (hc : canIssue (s.core p) k = true)
    (hl : hasLine (s.core p) k = false) (hb : codeBase s p = some b) (hs : StorageGood s) : ∃ (t : State) (n : Nat) (d : Core),
    OnlyL2 s t ∧ d.streams = (s.core p).streams ∧
    (∃ l, d.ibuf = ((streamOf (s.core p) k).pc.toNat / 128, readBytes s (b + 128 * ((streamOf (s.core p) k).pc.toNat / 128))
      (min 128 ((s.core p).extent.toNat - 128 * ((streamOf (s.core p) k).pc.toNat / 128)))) :: l) ∧
    frontStream p s k = summaryRise s { t.setCore p d with free := n } := by
  obtain ⟨t, n, d, ho, hst, hib, hf⟩ := fillLine_good hs p b ((streamOf (s.core p) k).pc.toNat / 128)
  refine ⟨t, n, d, ho, hst, hib, ?_⟩
  have hline : withLine p k s id = { t.setCore p d with free := n } := by
    unfold withLine
    simp only [hl, hb, hf, Bool.false_eq_true, if_false, id]
  unfold frontStream
  simp only [hc, hl, hb, hline, Bool.not_true, Bool.false_eq_true, if_false, Option.isSome_some, if_true]
  exact nextOf_answer (b := s) ho.met

/-- Settles O9: a stored word issues as its row, an undefined one stops its core, and a line that is absent is filled; the opcode table has
one code for each operation. -/
theorem storedWordIssues : Obligations.StoredWordIssues := by
  unfold Obligations.StoredWordIssues
  refine ⟨⟨fun p k s t op i hc hl => ?_, fun p k s hc hl hg hv hw => ?_, fun p k s b hc hl hb hs => ?_⟩,
    fun op w hop h => wordOp_of_code (mem_wordOps hop) h, fun op w h => code_of_wordOp h⟩
  · intro w hop hrow hexec
    rw [frontStream_issues hc hl]
    unfold issueWord
    rw [hop]
    dsimp only
    rw [issueRow_of_frontRow hrow, hexec]
    rfl
  · obtain ⟨hrun, -, hfrec⟩ := coreFault_core (s.modCore p Core.loaded) p 0 (wordFlt (bufferedWord (s.core p) k)) k
      ((streamOf (Core.loaded (s.core p)) k).pc.zeroExtend 64)
    rw [loaded_core, recordFault_fresh (show (Core.loaded (s.core p)).frec.valid = false from hv)] at hfrec
    rw [frontStream_undefined hc hl hg hw, summaryRise_core]
    unfold frontFault
    rw [loaded_core]
    dsimp only
    rw [hrun, hfrec]
    exact ⟨rfl, rfl, rfl⟩
  · intro pc h16 hext t
    obtain ⟨u, n, d, ho, hst, ⟨l, hib⟩, hf⟩ := frontStream_fills hc hl hb hs
    have hcore : t.core p = d := by
      show (frontStream p s k).core p = d
      rw [hf, summaryRise_core]
      exact setCore_core_same u p d
    have hmem : t.mem = s.mem := by
      show (frontStream p s k).mem = s.mem
      rw [hf, summaryRise_mem]
      exact ho.mem
    have hpc : (streamOf d k).pc.toNat = pc := by
      unfold streamOf
      rw [hst]
      rfl
    obtain ⟨hline, hword⟩ := bufferedWord_filled hpc hib h16 hext
    rw [hcore]
    exact ⟨hline, hword, hst, hmem⟩

end Sys2Proof.Machine

/-! # Accesses of an engine to memory -/

namespace Sys2Proof.Machine

/-! ## Who reaches a place depends on its block -/

theorem memTop_block (s : State) : memTop s % 2 ^ 20 = 0 := by
  unfold memTop
  omega

theorem memTop_le_vtrBase (s : State) : memTop s ≤ vtrBase := (memTop_le s).trans (by decide)

theorem lt_memTop_block (s : State) (a : Nat) : a / 2 ^ 20 * 2 ^ 20 < memTop s ↔ a < memTop s := by
  have := memTop_block s
  omega

/-- The gallery of an address, and the block of it. -/
def galBlock (a : Nat) : Option (Nat × Nat) := (galOf a).map fun x => (x.1, x.2 / 2 ^ 20)

theorem galBlock_block (a : Nat) : galBlock (a / 2 ^ 20 * 2 ^ 20) = galBlock a := by
  have hv : vtrBase = 2 ^ 47 := by decide
  unfold galBlock galOf
  by_cases h : vtrBase ≤ a ∧ a < vtrBase + 0x40000000
  · rw [if_pos h, if_pos (by omega)]
    refine congrArg some (Prod.ext ?_ ?_)
    · show (a / 2 ^ 20 * 2 ^ 20 - vtrBase) / 2 ^ 24 = (a - vtrBase) / 2 ^ 24
      omega
    · show (a / 2 ^ 20 * 2 ^ 20 - vtrBase) % 2 ^ 24 / 2 ^ 20 = (a - vtrBase) % 2 ^ 24 / 2 ^ 20
      omega
  · rw [if_neg h, if_neg (by omega)]

theorem placeErr_eq (m : Master) (s : State) (a : Nat) : placeErr m s a =
    if a < memTop s then none
    else (galBlock a).elim (some .outside) fun x =>
      if (physOf s x.1).isNone then some .outside
      else if x.2 = 15 ∧ bankOwner s x.1 ≠ m.owner s then some (.notOwner x.1 (bankOwner s x.1))
      else if m = .curator ∧ x.2 ≠ 15 then some .outside
      else none := by
  unfold placeErr galBlock
  cases galOf a <;> rfl

theorem placeErr_block (m : Master) (s : State) (a : Nat) : placeErr m s (a / 2 ^ 20 * 2 ^ 20) = placeErr m s a := by
  rw [placeErr_eq, placeErr_eq, galBlock_block]
  by_cases h : a < memTop s
  · rw [if_pos h, if_pos ((lt_memTop_block s a).mpr h)]
  · rw [if_neg h, if_neg fun hb => h ((lt_memTop_block s a).mp hb)]

theorem ownPlace_eq (s : State) (p : Fin 72) (a : Nat) : ownPlace s p a = (galBlock a).elim false fun x =>
    if x.2 = 15 then (physOf s x.1).isSome && decide (bankOwner s x.1 = (Master.core p).owner s)
    else decide (logicalOf s p = some x.1) := by
  unfold ownPlace galBlock
  cases galOf a <;> rfl

theorem ownPlace_block (s : State) (p : Fin 72) (a : Nat) : ownPlace s p (a / 2 ^ 20 * 2 ^ 20) = ownPlace s p a := by
  rw [ownPlace_eq, ownPlace_eq, galBlock_block]

/-- Every address of a span lies in one of its blocks. -/
theorem mem_spanBlocks {a len i : Nat} (h : i < len) : (a + i) / 2 ^ 20 * 2 ^ 20 ∈ spanBlocks a len := by
  unfold spanBlocks
  rw [if_neg (by omega), List.mem_map]
  exact ⟨(a + i) / 2 ^ 20 - a / 2 ^ 20, List.mem_range.mpr (by omega), by congr 1; omega⟩

/-- No address of a span that a master reaches is out of its reach. -/
theorem placeErr_of_span {m : Master} {s : State} {a len i : Nat} (h : placeErrSpan m s a len = none) (hi : i < len) :
    placeErr m s (a + i) = none := by
  rw [← placeErr_block]
  exact List.findSome?_eq_none_iff.mp h _ (mem_spanBlocks hi)

theorem ownPlace_of_span {s : State} {p : Fin 72} {a len i : Nat} (h : ownSpan s p a len = true) (hi : i < len) :
    ownPlace s p (a + i) = true := by
  rw [← ownPlace_block]
  exact List.all_eq_true.mp h _ (mem_spanBlocks hi)

/-- A place that a master reaches belongs to something. -/
theorem byteKey_of_reached {m : Master} {s : State} {a : Nat} (h : placeErr m s a = none) : byteKey s a ≠ none := by
  unfold placeErr at h
  unfold byteKey
  split
  · exact Option.some_ne_none _
  · next hlt =>
    rw [if_neg hlt] at h
    cases hg : galOf a with
    | none => rw [hg] at h; cases h
    | some x =>
      rw [hg] at h
      dsimp only at h ⊢
      cases hp : physOf s x.1 with
      | none => rw [hp] at h; cases h
      | some q => exact Option.some_ne_none _

theorem byteKey_of_span {m : Master} {s : State} {a len i : Nat} (h : placeErrSpan m s a len = none) (hi : i < len) :
    byteKey s (a + i) ≠ none :=
  byteKey_of_reached (placeErr_of_span h hi)

/-- A core's own place lies in a gallery that belongs to something. -/
theorem byteKey_of_own {s : State} {p : Fin 72} {a : Nat} (h : ownPlace s p a = true) : ¬ a < memTop s ∧ byteKey s a ≠ none := by
  unfold ownPlace at h
  cases hg : galOf a with
  | none => rw [hg] at h; cases h
  | some x =>
    rw [hg] at h
    dsimp only at h
    have hlt : ¬ a < memTop s := by
      have := (galOf_some hg).1
      have := memTop_le_vtrBase s
      omega
    refine ⟨hlt, ?_⟩
    have hphys : (physOf s x.1).isSome = true := by
      split at h
      · exact (Bool.and_eq_true_iff.mp h).1
      · have hl : logicalOf s p = some x.1 := of_decide_eq_true h
        unfold logicalOf at hl
        split at hl
        · next hr =>
          unfold physOf
          rw [List.find?_isSome]
          exact ⟨p, List.mem_finRange p, by simpa using ⟨hr, Option.some.inj hl⟩⟩
        · cases hl
    unfold byteKey
    rw [if_neg hlt, hg]
    dsimp only
    obtain ⟨q, hq⟩ := Option.isSome_iff_exists.mp hphys
    rw [hq]
    exact Option.some_ne_none _

/-! ## Counters of chapter 20 are no error log -/

theorem dbgMem_at (j : Nat) : RegName.at .dbgMem 0 j = 0x3e01000 + j * 8 := by
  show 0x3e01000 + 0 * 1 + j * 8 = _
  omega

theorem OnlyPerf.below {s t : State} (h : OnlyPerf s t) {r : RegName} {i n : Nat} (ha : r.at i n < 0x3e01000) :
    t.rget r i n = s.rget r i n :=
  h.reg r i n fun j e => by rw [dbgMem_at] at e; omega

theorem OnlyPerf.core {s t : State} (h : OnlyPerf s t) (q : Fin 72) : t.core q = s.core q := by rw [h.eq]; rfl

theorem OnlyPerf.summary {s t : State} (h : OnlyPerf s t) : errSummary t = errSummary s := by
  have hmem (k : Nat) (hk : k < 48) : t.rget .memUeLog0 k 0 = s.rget .memUeLog0 k 0 := h.below (by
    show 0x2400018 + k * 0x4000 + 0 * 1 < _
    omega)
  have hany : ((List.range 48).any fun k => bitB (t.rget .memUeLog0 k 0) 63) = (List.range 48).any fun k => bitB (s.rget .memUeLog0 k 0) 63 := by
    rw [Bool.eq_iff_iff, List.any_eq_true, List.any_eq_true]
    refine exists_congr fun k => and_congr_right fun hk => ?_
    rw [hmem k (List.mem_range.mp hk)]
  unfold errSummary
  dsimp only
  rw [hany, h.below (r := .acnErrLog0) (by decide), h.below (r := .vtrUeLog0) (by decide), h.below (r := .zmzErrLog0) (by decide),
    h.below (r := .colErrLog0) (by decide), h.below (r := .rasErrLog0) (by decide), h.below (r := .curErrLog0) (by decide),
    h.below (r := .pwrLog0) (by decide), show fsum t = fsum s from fsum_congr fun p => by rw [h.core p]]

/-! ## A store that meets no error -/

/-- Two states that differ in cores, free values, memory, registers and the lines of the L2 alone. -/
def OnlyStore (s t : State) : Prop :=
  t = { s with cores := t.cores, free := t.free, mem := t.mem, regs := t.regs, vit := { s.vit with l2 := t.vit.l2 } }

theorem OnlyStore.trans {s t u : State} (h : OnlyStore s t) (k : OnlyStore t u) : OnlyStore s u := by
  unfold OnlyStore at *
  generalize u.cores = a at *
  generalize u.free = b at *
  generalize u.mem = c at *
  generalize u.regs = d at *
  generalize u.vit.l2 = e at *
  rw [k, h]

theorem l2Touch_dbg (s : State) (a : Nat) : (l2Touch s a).dbg = s.dbg := by
  unfold l2Touch
  dsimp only
  split <;> rfl

theorem l2Fill_dbg (s : State) (a : Nat) : (l2Fill s a).dbg = s.dbg := by
  unfold l2Fill
  dsimp only
  split
  · exact l2Touch_dbg s a
  · split
    · exact l2Touch_dbg _ a
    · exact l2Touch_dbg _ a

theorem l2Fill_store (s : State) (a : Nat) : OnlyStore s (l2Fill s a) := by
  have hd := l2Fill_dbg s a
  have h := (l2Fill_only s a).eq
  unfold OnlyStore
  rw [hd] at h
  rw [h]

theorem putByte_store (s : State) (a : Nat) (b : Byte) : OnlyStore s (putByte s a b) := by
  unfold putByte
  split <;> rfl

/-- What a fold of store steps keeps. -/
theorem foldl_store {α : Type} (f : State → α → State) (h : ∀ s a, OnlyStore s (f s a)) (l : List α) (s : State) :
    OnlyStore s (l.foldl f s) := by
  induction l generalizing s with
  | nil => rfl
  | cons a l ih => exact (h s a).trans (ih (f s a))

theorem putCells_store (s : State) (cells : List (Nat × Byte)) : OnlyStore s (putCells s cells) :=
  foldl_store (fun (s : State) (c : Nat × Byte) => putByte s c.1 c.2) (fun s c => putByte_store s c.1 c.2) cells s

theorem modCore_store (s : State) (p : Fin 72) (f : Core → Core) : OnlyStore s (s.modCore p f) := rfl

theorem OnlyPerf.store {s t : State} (h : OnlyPerf s t) : OnlyStore s t := by
  unfold OnlyStore
  rw [h.eq]

theorem putCells_core (s : State) (cells : List (Nat × Byte)) (q : Fin 72) : (putCells s cells).core q = s.core q :=
  foldl_keeps (fun (s : State) (c : Nat × Byte) => putByte s c.1 c.2) (fun s => s.core q) (fun s c => putByte_core s c.1 c.2 q) cells s

theorem putByte_regs (s : State) (a : Nat) (b : Byte) : (putByte s a b).regs = s.regs := by
  unfold putByte
  split <;> rfl

theorem putCells_regs (s : State) (cells : List (Nat × Byte)) : (putCells s cells).regs = s.regs :=
  foldl_keeps (fun (s : State) (c : Nat × Byte) => putByte s c.1 c.2) State.regs (fun s c => putByte_regs s c.1 c.2) cells s

theorem putCells_vit (s : State) (cells : List (Nat × Byte)) : (putCells s cells).vit = s.vit :=
  foldl_keeps (fun (s : State) (c : Nat × Byte) => putByte s c.1 c.2) State.vit (fun s c => putByte_vit s c.1 c.2) cells s

/-- The lines of a store are allocated in the L2. -/
theorem l2FillLines_only (l : List Nat) (s : State) : OnlyL2 s (l.foldl (fun s l => l2Fill s (64 * l)) s) := by
  induction l generalizing s with
  | nil => exact .refl s
  | cons a l ih => exact (l2Fill_only s (64 * a)).trans (ih _)

/-- What a store of core p leaves besides its bytes: its own core's L1 and the list of what its instruction has written, the lines of the
L2, the count of free values and counters of chapter 20. -/
structure StoredBy (p : Fin 72) (s t : State) : Prop where
  store : OnlyStore s t
  perf : OnlyPerf s { s with regs := t.regs }
  other : ∀ q, q ≠ p → t.core q = s.core q
  own : ∃ l1 out, t.core p = { s.core p with l1 := l1, outMem := out }
  wf : memWf t.mem = true
  lines : (∀ x ∈ s.vit.l2, x.err = none) → ∀ x ∈ t.vit.l2, x.err = none

/-- The state after the bytes of a store are written, before its lines are allocated. -/
def storeWritten (p : Fin 72) (s : State) (cells : List (Nat × Byte)) : State :=
  l1Update p (putNoted (.core p) (countLines s cells) cells) (cells.filter fun c => decide (c.1 < memTop s))

theorem storeCells_eq {s : State} (h : StorageGood s) (hc : Canonical s) (p : Fin 72) (cells : List (Nat × Byte)) : ∃ l : List Nat,
    storeCells p s cells = (l.foldl (fun s l => l2Fill s (64 * l)) (storeWritten p s cells), none) := by
  unfold storeCells writeThrough
  rw [devWriteN_good h hc.2]
  exact ⟨_, rfl⟩

theorem storeWritten_core (p : Fin 72) (s : State) (cells : List (Nat × Byte)) (h : OnlyPerf s (countLines s cells)) :
    (∀ q, q ≠ p → (storeWritten p s cells).core q = s.core q) ∧
    ∃ l1 out, (storeWritten p s cells).core p = { s.core p with l1 := l1, outMem := out } := by
  unfold storeWritten l1Update putNoted noteOut
  constructor
  · intro q hq
    rw [modCore_core_other _ _ (Ne.symm hq), putCells_core, modCore_core_other _ _ (Ne.symm hq), h.core]
  · rw [modCore_core_same, putCells_core, modCore_core_same, h.core]
    exact ⟨_, _, rfl⟩

theorem noteOut_store (m : Master) (s : State) (cells : List (Nat × Byte)) : OnlyStore s (noteOut m s cells) := by
  unfold noteOut
  split <;> rfl

theorem storeWritten_store (p : Fin 72) (s : State) (cells : List (Nat × Byte)) (h : OnlyPerf s (countLines s cells)) :
    OnlyStore s (storeWritten p s cells) := by
  have hput := (h.store.trans (noteOut_store (.core p) _ cells)).trans (putCells_store _ cells)
  exact hput.trans (by unfold storeWritten l1Update; exact modCore_store _ p _)

/-- A store that meets no storage error writes its bytes, and leaves what `StoredBy` says. -/
theorem storeCells_good {s : State} (h : StorageGood s) (hc : Canonical s) (p : Fin 72) {cells : List (Nat × Byte)}
    (hk : ∀ c ∈ cells, byteKey s c.1 ≠ none) (hp : cells.Pairwise fun x y => x.1 ≠ y.1) : ∃ t, storeCells p s cells = (t, none) ∧
    StoredBy p s t ∧ ∀ a, byteAt t a = (cellAt cells a).getD (byteAt s a) := by
  obtain ⟨l, hl⟩ := storeCells_eq h hc p cells
  have hperf := countLines_perf hc.2 cells
  obtain ⟨hother, hown⟩ := storeWritten_core p s cells hperf
  have hfill := l2FillLines_only l (storeWritten p s cells)
  have hplaces : SamePlaces s (countLines s cells) := hperf.places
  have hmemw : memWf (countLines s cells).mem = true := by rw [hperf.eq]; exact hc.1
  have hstore := storeWritten_store p s cells hperf
  have hregs : (storeWritten p s cells).regs = (countLines s cells).regs :=
    putCells_regs (noteOut (.core p) (countLines s cells) cells) cells
  have hvit : (storeWritten p s cells).vit = s.vit := (putCells_vit (noteOut (.core p) (countLines s cells) cells) cells).trans (by
    rw [noteOut_cores, hperf.eq])
  have hbytes (a : Nat) : byteAt (storeWritten p s cells) a = (cellAt cells a).getD (byteAt s a) := by
    unfold storeWritten l1Update
    rw [byteAt_modCore, byteAt_putNoted _ _ hmemw (fun c hcm => by rw [hplaces.byteKey]; exact hk c hcm) hp,
      byteAt_congr hplaces (by rw [hperf.eq])]
  refine ⟨_, hl, ⟨hstore.trans (foldl_store _ (fun s a => l2Fill_store s (64 * a)) l _), ?_, fun q hq => ?_, ?_, ?_, fun hs => ?_⟩, fun a => ?_⟩
  · rw [show (l.foldl (fun s l => l2Fill s (64 * l)) (storeWritten p s cells)).regs = (countLines s cells).regs by rw [hfill.eq]; exact hregs]
    rw [← hperf.eq]
    exact hperf
  · rw [hfill.core, hother q hq]
  · rw [hfill.core]
    exact hown
  · rw [hfill.mem]
    exact putCells_wf cells hmemw
  · exact hfill.lines (by rw [hvit]; exact hs)
  · rw [byteAt_congr (.l2 hfill) hfill.mem, hbytes]

/-! ## Loads and stores of an instruction that starts -/

/-- Two cores that differ in the L1 and in what the issue and the start of an instruction record. -/
def SameButLoad (c d : Core) : Prop := ∃ l1, SameButFront { c with l1 := l1 } d

section
variable {op : CoreOp} {args : Args} {k : Ctl} {g : Engine} {s : State}

theorem atStart_core (h : StartsNow op args k g s) : SameButFront (s.core k.core) ((atStart op args k g s).core k.core) := by
  obtain ⟨-, -, hfront, -⟩ := atStart_front h
  exact hfront

theorem byteAt_atStart (a : Nat) : byteAt (atStart op args k g s) a = byteAt s a := byteAt_modCore _ _ _ _

theorem readBytes_atStart (a n : Nat) : readBytes (atStart op args k g s) a n = readBytes s a n := by
  unfold readBytes
  simp only [byteAt_atStart]

theorem storageGood_atStart (h : StartsNow op args k g s) (hs : StorageGood s) : StorageGood (atStart op args k g s) := by
  obtain ⟨-, ⟨-, hother⟩, hfront, -⟩ := atStart_front h
  refine hs.congr rfl rfl rfl (fun p => ?_) rfl rfl (fun _ _ => rfl) fun _ _ => rfl
  by_cases hp : p = k.core
  · subst hp
    rw [show (atStart op args k g s).core k.core = _ from hfront]
  · rw [hother p hp]

theorem l1Coherent_atStart (h : StartsNow op args k g s) (hl : L1Coherent k.core s) : L1Coherent k.core (atStart op args k g s) := by
  intro e he
  rw [show (atStart op args k g s).core k.core = _ from atStart_core h] at he
  rw [readBytes_atStart]
  exact hl e he

theorem canonical_atStart (hc : Canonical s) : Canonical (atStart op args k g s) := hc

/-- A core whose caches alone differ from those at the start of an instruction. -/
theorem sameButLoad_caches (h : StartsNow op args k g s) {y : State} (hy : OnlyCaches k.core (atStart op args k g s) y) :
    SameButLoad (s.core k.core) (y.core k.core) := by
  obtain ⟨l, hl⟩ := hy.core
  have hfront := atStart_core h
  refine ⟨l, ?_⟩
  rw [hl]
  unfold SameButFront at hfront ⊢
  rw [hfront]

/-- What a load leaves whose engine changes its own core after the caches have served it. -/
theorem loaded_of {i : Instr} {y : State} (f f' : Core → Core) (h : StartsNow op args k g s) (he : exec i s = issue op args k s)
    (hd : doneAtStart (issuedEntry op args k s) = false) (hy : OnlyCaches k.core (atStart op args k g s) y)
    (hr : runEntry k.core (issuedEntry op args k s) (atStart op args k g s) = { st := y.modCore k.core f' })
    (hfrec : (f (s.core k.core)).frec = (s.core k.core).frec)
    (hf : ∀ d, SameButLoad (s.core k.core) d → SameButLoad (f (s.core k.core)) (f' d)) :
    ∃ t, exec i s = .next t ∧ Loaded op args k s f t := by
  obtain ⟨heq, ⟨-, hother⟩, -⟩ := atStart_front h
  have hsame := hy.same
  have hmet : Unheld s (y.modCore k.core f') := by
    unfold Unheld
    rw [modCore_vit, hsame, heq]
  obtain ⟨t, ht, hran⟩ := ranTo_of h he hr hmet
  have hprog := inProgress_same g (issuedEntry op args k s) { st := y.modCore k.core f' } (f' (y.core k.core))
  obtain ⟨l1, hload⟩ := hf _ (sameButLoad_caches h hy)
  have hfr : (f' (y.core k.core)).frec = (s.core k.core).frec := by rw [hload.frec]; exact hfrec
  have hcores : ∀ q, q ≠ k.core → ((y.modCore k.core f').modCore k.core (inProgress g (issuedEntry op args k s)
      { st := y.modCore k.core f' })).core q = s.core q := fun q hq => by
    rw [modCore_core_other _ _ (Ne.symm hq), modCore_core_other _ _ (Ne.symm hq), hy.other hq, hother q hq]
  have hown : ((y.modCore k.core f').modCore k.core (inProgress g (issuedEntry op args k s) { st := y.modCore k.core f' })).core k.core =
      inProgress g (issuedEntry op args k s) { st := y.modCore k.core f' } (f' (y.core k.core)) := by
    rw [modCore_core_same, modCore_core_same]
  have hsum : t = (y.modCore k.core f').modCore k.core (inProgress g (issuedEntry op args k s) { st := y.modCore k.core f' }) := by
    refine Eq.trans hran (summaryRise_same_summary (errSummary_congr ?_ fun q => ?_))
    · rw [modCore_regs, modCore_regs, hsame, heq]
    · by_cases hq : q = k.core
      · subst hq
        rw [hown, hprog.2.2.1, hfr]
      · rw [hcores q hq]
  have hyoung := youngest_of_ranTo hran h.eng hd
  refine ⟨t, ht, ?_, ?_, ⟨l1, ?_⟩, fun a => ?_, hyoung⟩
  · rw [hsum]
    conv => lhs; unfold State.modCore State.setCore; rw [hsame, heq]
    rfl
  · rw [hsum]
    exact hcores
  · rw [hsum, hown]
    exact hload.trans hprog.1
  · rw [hsum, byteAt_modCore, byteAt_modCore, byteAt_congr (.caches hy) (by rw [hsame]), byteAt_atStart]

/-- What a store leaves whose engine writes a run of bytes. -/
theorem stored_of {i : Instr} {y : State} {cells : List (Nat × Byte)} (h : StartsNow op args k g s) (he : exec i s = issue op args k s)
    (hd : doneAtStart (issuedEntry op args k s) = false) (hy : StoredBy k.core (atStart op args k g s) y)
    (hb : ∀ a, byteAt y a = (cellAt cells a).getD (byteAt (atStart op args k g s) a))
    (hr : runEntry k.core (issuedEntry op args k s) (atStart op args k g s) = { st := y }) :
    ∃ t, exec i s = .next t ∧ Stored op args k s cells t := by
  obtain ⟨heq, ⟨-, hother⟩, hfront, -⟩ := atStart_front h
  have hsame := hy.store
  have hmet : Unheld s y := by
    unfold Unheld
    rw [show y = _ from hsame, heq]
  obtain ⟨t, ht, hran⟩ := ranTo_of h he hr hmet
  have hprog := inProgress_same g (issuedEntry op args k s) { st := y } (y.core k.core)
  obtain ⟨l1, out, hown⟩ := hy.own
  have hfr : (y.core k.core).frec = (s.core k.core).frec := by rw [hown, show (atStart op args k g s).core k.core = _ from hfront]
  have hperf : OnlyPerf s { s with regs := y.regs } := by
    have hp := hy.perf
    rw [heq] at hp
    exact ⟨rfl, hp.wf, fun r i n hr => hp.reg r i n hr⟩
  have hsum : t = y.modCore k.core (inProgress g (issuedEntry op args k s) { st := y }) := by
    refine Eq.trans hran (summaryRise_same_summary ?_)
    refine Eq.trans (errSummary_congr (s := { s with regs := y.regs }) rfl fun q => ?_) hperf.summary
    by_cases hq : q = k.core
    · subst hq
      rw [modCore_core_same, hprog.2.2.1, hfr]
      rfl
    · rw [modCore_core_other _ _ (Ne.symm hq), hy.other q hq, hother q hq]
      rfl
  have hyoung := youngest_of_ranTo hran h.eng hd
  refine ⟨t, ht, ?_, fun q hq => ?_, ⟨l1, ?_⟩, fun a => ?_, hyoung⟩
  · rw [hsum]
    conv => lhs; unfold State.modCore State.setCore; rw [show y = _ from hsame, heq]
    rfl
  · rw [hsum, modCore_core_other _ _ (Ne.symm hq), hy.other q hq, hother q hq]
  · rw [hsum, modCore_core_same]
    refine SameButFront.trans ?_ hprog.1
    rw [hown]
    unfold SameButFront at hfront ⊢
    rw [hfront]
  · rw [hsum, byteAt_modCore, hb, byteAt_atStart]
    rfl

end

end Sys2Proof.Machine

/-! # SLD and SST (R47, R57) -/

namespace Sys2Proof.Machine

/-! ## Bytes of a word -/

theorem leBytes_eq (n x : Nat) : leBytes n x = (List.range n).map fun i => BitVec.ofNat 8 (x / 256 ^ i) := by
  induction n generalizing x with
  | zero => rfl
  | succ n ih =>
    unfold leBytes
    rw [ih, List.range_succ_eq_map, List.map_cons, List.map_map]
    refine congrArg₂ List.cons (by simp) (List.map_congr_left fun i _ => ?_)
    show BitVec.ofNat 8 (x / 256 / 256 ^ i) = BitVec.ofNat 8 (x / 256 ^ (i + 1))
    rw [Nat.div_div_eq_div_mul, Nat.pow_succ, Nat.mul_comm]

theorem byte_of_word {w : Nat} (x : BitVec w) (i : Nat) : BitVec.ofNat 8 (x.toNat / 256 ^ i) = x.extractLsb' (8 * i) 8 := by
  apply BitVec.eq_of_toNat_eq
  rw [BitVec.extractLsb'_toNat, BitVec.toNat_ofNat, Nat.shiftRight_eq_div_pow, show (2 : Nat) ^ (8 * i) = 256 ^ i by rw [Nat.pow_mul]]

/-- The cells of the low bytes of a word, the lowest first. -/
theorem cellsAt_leBytes {w : Nat} (a n : Nat) (x : BitVec w) :
    cellsAt a (leBytes n x.toNat) = (List.range n).map fun i => (a + i, x.extractLsb' (8 * i) 8) := by
  rw [leBytes_eq]
  unfold cellsAt
  apply List.ext_getElem
  · simp
  · intro i h1 h2
    simp [byte_of_word]

/-- Cells at ascending addresses name no address twice. -/
theorem cells_pairwise (a n : Nat) (f : Nat → Byte) :
    ((List.range n).map fun i => (a + i, f i)).Pairwise fun x y => x.1 ≠ y.1 := by
  rw [List.pairwise_map]
  exact List.nodup_range.imp fun h e => h (Nat.add_left_cancel e)

/-! ## The checks of a scalar access -/

section
variable {op : CoreOp} {args : Args} {k : Ctl} {g : Engine} {s : State}

theorem writableSpan_atStart (a n : Nat) : writableSpan (atStart op args k g s) a n = writableSpan s a n := rfl

theorem scalarFlt_atStart (p : Fin 72) (a n : Nat) : scalarFlt p (atStart op args k g s) a n = scalarFlt p s a n := rfl

end

theorem scalarFlt_none {p : Fin 72} {s : State} {a len : Nat} (ha : a % len = 0) (hl : liveSpan s a len = true)
    (hp : placeErrSpan (.core p) s a len = none) : scalarFlt p s a len = none := by
  unfold scalarFlt
  rw [if_neg (by simpa using ha), if_neg (by simp [hl]), hp]
  rfl

theorem scalarFlt_refused {p : Fin 72} {s : State} {a len : Nat} (h : a % len ≠ 0 ∨ liveSpan s a len = false) :
    scalarFlt p s a len = some ⟨if a % len ≠ 0 then 0x0104 else 0x0105, BitVec.ofNat 32 a⟩ := by
  unfold scalarFlt
  by_cases ha : a % len = 0
  · have hl := h.resolve_left (fun hn => hn ha)
    rw [if_neg (by simpa using ha), if_pos (by simp [hl]), if_neg (by simpa using ha)]
    rfl
  · rw [if_pos ha, if_pos ha]
    rfl

/-! ## SLD -/

/-- The value of SLD from its bytes. -/
def sldValue (o : OpS) (len n : Nat) : W64 :=
  if bitB o.cond 0 && bitB (BitVec.ofNat 64 n : W64) (8 * len - 1) then BitVec.ofNat 64 n - BitVec.ofNat 64 (2 ^ (8 * len))
  else BitVec.ofNat 64 n

/-- A sign extension of a short word subtracts its modulus where its top bit is set. -/
theorem signExtend_ofNat {w n : Nat} (hw : 0 < w) (hw' : w ≤ 64) (hn : n < 2 ^ w) : (BitVec.ofNat w n).signExtend 64 =
    if bitB (BitVec.ofNat 64 n : W64) (w - 1) then BitVec.ofNat 64 n - BitVec.ofNat 64 (2 ^ w) else BitVec.ofNat 64 n := by
  have h64 : 2 ^ w ≤ 2 ^ 64 := Nat.pow_le_pow_right (by decide) hw'
  have hmsb : (BitVec.ofNat w n).msb = bitB (BitVec.ofNat 64 n : W64) (w - 1) := by
    unfold bitB
    rw [BitVec.msb_eq_getLsbD_last, BitVec.getLsbD_ofNat, BitVec.getLsbD_ofNat, decide_eq_true (by omega), decide_eq_true (by omega)]
  have hset : (BitVec.setWidth 64 (BitVec.ofNat w n)).toNat = n := by
    rw [BitVec.toNat_setWidth, BitVec.toNat_ofNat, Nat.mod_eq_of_lt hn, Nat.mod_eq_of_lt (by omega)]
  apply BitVec.eq_of_toNat_eq
  rw [BitVec.toNat_signExtend, hmsb, hset]
  split
  · rw [BitVec.toNat_sub, BitVec.toNat_ofNat, BitVec.toNat_ofNat]
    rcases Nat.lt_or_ge (2 ^ w) (2 ^ 64) with h | h
    · rw [Nat.mod_eq_of_lt h]
      omega
    · rw [show 2 ^ w = 2 ^ 64 by omega]
      omega
  · rw [BitVec.toNat_ofNat]
    omega

theorem sldValue_eq {o : OpS} {len n : Nat} (hlen : len = 2 ^ o.sz.toNat) (hn : n < 256 ^ len) : sldValue o len n =
    if o.cond.getLsbD 0 then (BitVec.ofNat (8 * len) n).signExtend 64 else BitVec.ofNat 64 n := by
  have hsz := o.sz.isLt
  have hle : len ≤ 8 := by
    rw [hlen]
    exact Nat.pow_le_pow_right (n := 2) (j := 3) (by decide) (by omega)
  have hpos : 0 < len := hlen ▸ Nat.two_pow_pos _
  unfold sldValue
  rw [signExtend_ofNat (by omega) (by omega) (by rw [Nat.pow_mul]; exact hn)]
  unfold bitB
  cases o.cond.getLsbD 0
  · rfl
  · rw [Bool.true_and]
    rfl

/-- The parts in which two cores differ that differ in the record of the front end. -/
theorem SameButFront.exists_front {c d : Core} (h : SameButFront c d) : ∃ st lo sq is fl v ab m f k,
    d = { c with streams := st, loading := lo, seq := sq, issueSel := is, inflight := fl, outV := v, outAb := ab, outMem := m, f := f, k := k } :=
  ⟨_, _, _, _, _, _, _, _, _, _, h⟩

theorem writeS_load {c d : Core} (h : SameButLoad c d) (k : Fin 6) (r : BitVec 5) (x : W64) :
    SameButLoad (writeS c k r x) (writeS d k r x) := by
  obtain ⟨l1, h⟩ := h
  obtain ⟨_, _, _, _, _, _, _, _, _, _, rfl⟩ := h.exists_front
  refine ⟨l1, ?_⟩
  unfold writeS
  dsimp only
  split <;> rfl

theorem sld_loads {k : Ctl} {o : OpS} {s : State} (h : StartsNow .sld (.s o) k .su s) (hs : StorageGood s) (hc : L1Coherent k.core s)
    {a len : Nat} (ha : a = scalarAddr (issuedEntry .sld (.s o) k s) o) (hlen : len = 2 ^ o.sz.toNat) (hal : a % len = 0)
    (hl : liveSpan s a len = true) (hp : placeErrSpan (.core k.core) s a len = none) :
    ∃ t, exec (.sld k o) s = .next t ∧
      Loaded .sld (.s o) k s (fun c => writeS c k.stream o.rd (sldValue o len (leNat (readBytes s a len)))) t := by
  obtain ⟨y, hy, hcaches, -⟩ := loadBytes_good (storageGood_atStart h hs) (.refl k.core _) (l1Coherent_atStart h hc) a len
    (by rw [hlen]; exact Nat.two_pow_pos _)
  rw [readBytes_atStart] at hy
  refine loaded_of _ _ h rfl rfl hcaches ?_ (writeS_front _ _ _ _).1 fun d hd => writeS_load hd _ _ _
  show runSld k.core (issuedEntry .sld (.s o) k s) o (atStart .sld (.s o) k .su s) = _
  unfold runSld
  dsimp only
  rw [← hlen, ← ha, scalarFlt_atStart, scalarFlt_none hal hl hp]
  dsimp only
  rw [hy]
  exact suWrite_pure _ _ _ _ _

theorem sst_stores {k : Ctl} {o : OpS} {s : State} (h : StartsNow .sst (.s o) k .su s) (hs : StorageGood s) (hc : Canonical s)
    {a len : Nat} (ha : a = scalarAddr (issuedEntry .sst (.s o) k s) o) (hlen : len = 2 ^ o.sz.toNat) (hal : a % len = 0)
    (hl : liveSpan s a len = true) (hw : writableSpan s a len = true) (hp : placeErrSpan (.core k.core) s a len = none) :
    ∃ t, exec (.sst k o) s = .next t ∧ Stored .sst (.s o) k s
      ((List.range len).map fun i => (a + i, (issuedEntry .sst (.s o) k s).b.extractLsb' (8 * i) 8)) t := by
  obtain ⟨y, hy, hby, hbytes⟩ := storeCells_good (storageGood_atStart h hs) (canonical_atStart hc) k.core
    (cells := (List.range len).map fun i => (a + i, (issuedEntry .sst (.s o) k s).b.extractLsb' (8 * i) 8))
    (fun c hcm => by
      obtain ⟨i, hi, rfl⟩ := List.mem_map.mp hcm
      exact byteKey_of_span (m := .core k.core) (s := atStart .sst (.s o) k .su s) hp (List.mem_range.mp hi))
    (cells_pairwise a len _)
  refine stored_of h rfl rfl hby hbytes ?_
  show runSst k.core (issuedEntry .sst (.s o) k s) o (atStart .sst (.s o) k .su s) = _
  unfold runSst
  dsimp only
  rw [← hlen, ← ha, scalarFlt_atStart, scalarFlt_none hal hl hp, writableSpan_atStart, hw, cellsAt_leBytes]
  dsimp only [Option.or]
  rw [if_pos rfl]
  dsimp only
  rw [hy]

/-! ## Where a scalar access stops its core -/

/-- A refused SLD or SST raises the first fault of its checks, and does nothing else. -/
theorem runSld_refused {p : Fin 72} {e : Entry} {o : OpS} {x : State} {f : Flt}
    (h : scalarFlt p x (scalarAddr e o) (2 ^ o.sz.toNat) = some f) : runSld p e o x = ranFault x f := by
  unfold runSld
  dsimp only
  rw [h]

theorem runSst_refused {p : Fin 72} {e : Entry} {o : OpS} {x : State} {f : Flt}
    (h : scalarFlt p x (scalarAddr e o) (2 ^ o.sz.toNat) = some f) : runSst p e o x = ranFault x f := by
  unfold runSst
  dsimp only
  rw [h]
  rfl

theorem runSst_readOnly {p : Fin 72} {e : Entry} {o : OpS} {x : State}
    (h : scalarFlt p x (scalarAddr e o) (2 ^ o.sz.toNat) = none) (hw : writableSpan x (scalarAddr e o) (2 ^ o.sz.toNat) = false) :
    runSst p e o x = ranFault x (scalarAddrFlt (scalarAddr e o)) := by
  unfold runSst
  dsimp only
  rw [h, hw]
  rfl

/-- Settles O21: SLD and SST move their bytes where their checks pass, and stop their core with the first that fails. -/
theorem scalarAccessRows : Obligations.ScalarAccessRows := by
  unfold Obligations.ScalarAccessRows
  refine ⟨fun k o s h hs hc => ?_, fun k o s h hs hc => ?_, ?_, fun k o s h => ?_⟩
  · intro a len ha hl hp
    have hn := leNat_lt_pow (readBytes s a len)
    rw [readBytes_length] at hn
    obtain ⟨t, ht, hload⟩ := sld_loads (a := a) (len := len) h hs hc rfl rfl ha hl hp
    rw [sldValue_eq rfl hn] at hload
    exact ⟨t, ht, hload⟩
  · intro e a len ha hl hw hp
    exact sst_stores h hs hc rfl rfl ha hl hw hp
  · simp only [List.forall_mem_cons]
    refine ⟨fun k o s h => ?_, fun k o s h => ?_, fun _ hm => absurd hm List.not_mem_nil⟩
    · intro hbad
      exact ranToFault_of h rfl (runSld_refused (scalarFlt_refused hbad)) rfl
    · intro hbad
      exact ranToFault_of h rfl (runSst_refused (scalarFlt_refused hbad)) rfl
  · intro a len ha hl hp hw
    exact ranToFault_of h rfl (runSst_readOnly (scalarFlt_none ha hl hp) hw) rfl

end Sys2Proof.Machine

/-! # VLD and VST (R149, R150) -/

namespace Sys2Proof.Machine

/-! ## The walk depends on the lanes, the masks and the values of the active elements -/

/-- Two cores that agree in what an element-wise walk reads and writes. -/
structure LanesAlike (c d : Core) : Prop where
  v : d.v = c.v
  m : d.m = c.m
  ecc : d.ecc = c.ecc
  ecc1 : d.ecc1 = c.ecc1

theorem LanesAlike.refl (c : Core) : LanesAlike c c := ⟨rfl, rfl, rfl, rfl⟩

theorem SameButLanes.exists_lanes {c d : Core} (h : SameButLanes c d) : ∃ v w e e1, d = { c with v := v, outV := w, ecc := e, ecc1 := e1 } :=
  ⟨_, _, _, _, h⟩

/-- Changes of the lanes that agree keep what two cores share. -/
theorem sameButLoad_lanes {c d c' d' : Core} (h : SameButLoad c d) (hc : SameButLanes c c') (hd : SameButLanes d d')
    (ha : LanesAlike c' d') : SameButLoad c' d' := by
  obtain ⟨l1, hfront⟩ := h
  obtain ⟨_, _, _, _, _, _, _, _, _, _, rfl⟩ := hfront.exists_front
  obtain ⟨v, w, e, e1, rfl⟩ := hc.exists_lanes
  obtain ⟨v', w', e', e1', rfl⟩ := hd.exists_lanes
  obtain ⟨hv, -, he, he1⟩ := ha
  dsimp only at hv he he1
  subst hv he he1
  exact ⟨l1, rfl⟩

theorem putElem_alike {c d : Core} (h : LanesAlike c d) (t : ETy) (r : BitVec 5) (lane j : Nat) (x : W32) :
    LanesAlike (putElem c t r lane j x) (putElem d t r lane j x) := by
  unfold putElem vPutBits vGet Core.clean
  exact ⟨by simp only [h.v], h.m, by simp only [h.ecc], by simp only [h.ecc1]⟩

theorem putElem_same (c : Core) (t : ETy) (r : BitVec 5) (lane j : Nat) (x : W32) : SameButLanes c (putElem c t r lane j x) := rfl

section
variable (o : OpV) (t : ETy)

theorem elemStep_same (f : Nat → Nat → W32 × Flags) (acc : Core × Flags) (pl : Nat × Nat) :
    SameButLanes acc.1 (elemStep o t (pureElem f) acc pl).1 := by
  unfold elemStep
  split
  · exact putElem_same _ _ _ _ _ _
  · split
    · exact putElem_same _ _ _ _ _ _
    · exact .refl _

/-- One step of two walks that agree in the lanes, and in the values of the active elements. -/
theorem elemStep_alike {f f' : Nat → Nat → W32 × Flags} {acc acc' : Core × Flags} (h : LanesAlike acc.1 acc'.1) (hf : acc'.2 = acc.2)
    {pl : Nat × Nat} (hv : activeAt acc.1 o pl.1 (decide (pl.2 = 1)) = true → f' pl.1 pl.2 = f pl.1 pl.2) :
    LanesAlike (elemStep o t (pureElem f) acc pl).1 (elemStep o t (pureElem f') acc' pl).1 ∧
    (elemStep o t (pureElem f') acc' pl).2 = (elemStep o t (pureElem f) acc pl).2 := by
  unfold elemStep pureElem
  rw [activeAt_congr h.m]
  split
  · next ha =>
    dsimp only
    rw [hv ha, hf]
    exact ⟨putElem_alike h _ _ _ _ _, rfl⟩
  · split
    · exact ⟨putElem_alike h _ _ _ _ _, hf⟩
    · exact ⟨h, hf⟩

theorem elemWalk_same (f : Nat → Nat → W32 × Flags) (l : List (Nat × Nat)) (acc : Core × Flags) :
    SameButLanes acc.1 (l.foldl (elemStep o t (pureElem f)) acc).1 := by
  induction l generalizing acc with
  | nil => exact .refl _
  | cons pl l ih => exact (elemStep_same o t f acc pl).trans (ih _)

theorem elemWalk_alike {f f' : Nat → Nat → W32 × Flags} (l : List (Nat × Nat)) : ∀ {acc acc' : Core × Flags},
    LanesAlike acc.1 acc'.1 → acc'.2 = acc.2 →
    (∀ pl ∈ l, activeAt acc.1 o pl.1 (decide (pl.2 = 1)) = true → f' pl.1 pl.2 = f pl.1 pl.2) →
    LanesAlike (l.foldl (elemStep o t (pureElem f)) acc).1 (l.foldl (elemStep o t (pureElem f')) acc').1 ∧
    (l.foldl (elemStep o t (pureElem f')) acc').2 = (l.foldl (elemStep o t (pureElem f)) acc).2 := by
  induction l with
  | nil => exact fun h hf _ => ⟨h, hf⟩
  | cons pl l ih =>
    intro acc acc' h hf hv
    obtain ⟨h1, h2⟩ := elemStep_alike o t h hf (hv pl List.mem_cons_self)
    refine ih h1 h2 fun q hq ha => hv q (List.mem_cons_of_mem _ hq) ?_
    rw [activeAt_congr (elemStep_same o t f acc pl).m] at ha
    exact ha

/-- An element-wise walk of pure functions changes the lanes alone. -/
theorem pureWalk_same (f : Nat → Nat → W32 × Flags) (c : Core) : SameButLanes c (elemWise o t (pureElem f) c).1 :=
  elemWalk_same o t f _ (c, 0)

/-- Walks over cores that agree in the lanes agree in the lanes. -/
theorem pureWalk_alike {c d : Core} (h : LanesAlike c d) {f f' : Nat → Nat → W32 × Flags}
    (hv : ∀ pl ∈ elemPlaces (vlOf o) t.perLane, activeAt c o pl.1 (decide (pl.2 = 1)) = true → f' pl.1 pl.2 = f pl.1 pl.2) :
    LanesAlike (elemWise o t (pureElem f) c).1 (elemWise o t (pureElem f') d).1 :=
  (elemWalk_alike o t _ (acc := (c, 0)) (acc' := (d, 0)) h rfl hv).1

/-- A walk on another L1 and another record of the front end is that walk. -/
theorem pureWalk_load {c d : Core} (h : SameButLoad c d) {f f' : Nat → Nat → W32 × Flags}
    (hv : ∀ pl ∈ elemPlaces (vlOf o) t.perLane, activeAt c o pl.1 (decide (pl.2 = 1)) = true → f' pl.1 pl.2 = f pl.1 pl.2) :
    SameButLoad (elemWise o t (pureElem f) c).1 (elemWise o t (pureElem f') d).1 := by
  have halike : LanesAlike c d := by
    obtain ⟨l1, hfront⟩ := h
    obtain ⟨_, _, _, _, _, _, _, _, _, _, rfl⟩ := hfront.exists_front
    exact ⟨rfl, rfl, rfl, rfl⟩
  exact sameButLoad_lanes h (pureWalk_same o t f c) (pureWalk_same o t f' d) (pureWalk_alike o t halike hv)

end

/-! ## Lanes of an arithmetic type -/

/-- An arithmetic type has one element of four bytes in a lane, or two of two bytes. -/
theorem tyArith_lane {c : BitVec 4} (h : tyIs tyArith c = true) :
    ((tyOf c).perLane = 1 ∧ (tyOf c).bytes = 4) ∨ ((tyOf c).perLane = 2 ∧ (tyOf c).bytes = 2) := by
  unfold tyIs at h
  unfold tyOf
  split at h
  · next t ht =>
    rw [ht]
    revert h
    cases t <;> decide
  · exact absurd h (by decide)

theorem mem_elemPlaces {vl per : Nat} {pl : Nat × Nat} : pl ∈ elemPlaces vl per ↔ pl.1 < vl ∧ pl.2 < per := by
  unfold elemPlaces
  simp only [List.mem_flatMap, List.mem_map, List.mem_range]
  constructor
  · rintro ⟨lane, hl, j, hj, rfl⟩
    exact ⟨hl, hj⟩
  · rintro ⟨hl, hj⟩
    exact ⟨pl.1, hl, pl.2, hj, rfl⟩

/-- The lane of an active element is an active lane. -/
theorem mem_activeLanes {c : Core} {o : OpV} {t : ETy} (ht : t.perLane = 1 ∨ t.perLane = 2) {pl : Nat × Nat}
    (hp : pl ∈ elemPlaces (vlOf o) t.perLane) (ha : activeAt c o pl.1 (decide (pl.2 = 1)) = true) : pl.1 ∈ activeLanes c o t := by
  obtain ⟨hl, hj⟩ := mem_elemPlaces.mp hp
  unfold activeLanes laneActive
  rw [List.mem_filter, List.mem_range]
  refine ⟨hl, ?_⟩
  by_cases h1 : pl.2 = 1
  · rw [decide_eq_true h1] at ha
    rw [ha, decide_eq_true (by omega : t.perLane = 2)]
    simp
  · rw [decide_eq_false h1] at ha
    rw [ha, Bool.true_or]

theorem activeLanes_lt {c : Core} {o : OpV} {t : ETy} {l : Nat} (h : l ∈ activeLanes c o t) : l < vlOf o :=
  List.mem_range.mp (List.mem_filter.mp h).1

/-! ## Words of lanes -/

/-- The word of memory that a lane of an access names. -/
def laneOf (s : State) (a l : Nat) : W32 := BitVec.ofNat 32 (leNat (readBytes s (a + 4 * l) 4))

theorem laneWord_map (f : Nat → W32) {lanes : List Nat} {l : Nat} (h : l ∈ lanes) : laneWord (lanes.map fun x => (x, f x)) l = f l := by
  unfold laneWord
  rw [List.find?_map]
  have hf : (lanes.find? ((fun x : Nat × W32 => decide (x.1 = l)) ∘ fun x => (x, f x))) = some l := by
    cases hx : lanes.find? ((fun x : Nat × W32 => decide (x.1 = l)) ∘ fun x => (x, f x)) with
    | none => exact absurd (List.find?_eq_none.mp hx l h) (by simp)
    | some y =>
      have hy := List.find?_some hx
      exact congrArg some (of_decide_eq_true hy)
  rw [hf]
  rfl

/-- One lane of a load. -/
def loadLaneStep (p : Fin 72) (a : Nat) (r : State × List (Nat × W32) × Option Flt) (l : Nat) : State × List (Nat × W32) × Option Flt :=
  match r.2.2 with
  | some _ => r
  | none =>
    let q := loadBytes p r.1 (a + 4 * l) 4
    (q.1, r.2.1 ++ [(l, BitVec.ofNat 32 (leNat q.2.1))], q.2.2)

theorem loadLanes_eq (p : Fin 72) (s : State) (a : Nat) (lanes : List Nat) :
    loadLanes p s a lanes = lanes.foldl (loadLaneStep p a) (s, [], none) := rfl

/-- A load of lanes gives their words. -/
theorem loadLanes_good {p : Fin 72} {s0 : State} (h : StorageGood s0) (a : Nat) (lanes : List Nat) :
    ∀ {s : State} {ws : List (Nat × W32)}, OnlyCaches p s0 s → L1Coherent p s →
    ∃ s', lanes.foldl (loadLaneStep p a) (s, ws, none) = (s', ws ++ lanes.map (fun l => (l, laneOf s0 a l)), none) ∧
      OnlyCaches p s0 s' ∧ L1Coherent p s' := by
  induction lanes with
  | nil => exact fun o c => ⟨_, by simp, o, c⟩
  | cons l lanes ih =>
    intro s ws o c
    obtain ⟨s1, e1, o1, c1⟩ := loadBytes_good h o c (a + 4 * l) 4 (by decide)
    obtain ⟨s2, e2, o2, c2⟩ := ih (ws := ws ++ [(l, laneOf s0 a l)]) o1 c1
    refine ⟨s2, ?_, o2, c2⟩
    rw [List.foldl_cons]
    have hstep : loadLaneStep p a (s, ws, none) l = (s1, ws ++ [(l, laneOf s0 a l)], none) := by
      unfold loadLaneStep
      dsimp only
      rw [e1]
      rfl
    rw [hstep, e2, List.append_assoc]
    rfl

/-! ## VLD -/

theorem lanesPlaceFlt_none {p : Fin 72} {s : State} {a n : Nat} {lanes : List Nat} (h : placeErrSpan (.core p) s a (4 * n) = none)
    (hl : ∀ l ∈ lanes, l < n) : lanesPlaceFlt p s a lanes = none := by
  unfold lanesPlaceFlt
  rw [List.findSome?_eq_none_iff]
  intro l hm
  have := hl l hm
  rw [placeErr_of_span h (by omega)]
  rfl

theorem vecSpanFlt_none {s : State} {a len : Nat} (ha : a % 4 = 0) (hl : liveSpan s a len = true) : vecSpanFlt s a len = none := by
  unfold vecSpanFlt
  rw [if_neg (by simp [ha, hl])]

/-- What VLD gives its core. -/
def vldCore (s : State) (o : OpV) (a : Nat) (c : Core) : Core :=
  (elemWise o (tyOf o.type) (pureElem fun lane j => (elemOf (tyOf o.type).width j (laneOf s a lane), 0)) c).1

theorem vld_form {o : OpV} (h : formOk .vld (.v o) = true) : tyIs tyArith o.type = true := by
  have hv := (Bool.and_eq_true_iff.mp h).2
  simp only [formOkV, Bool.and_eq_true] at hv
  obtain ⟨⟨⟨⟨⟨⟨hty, -⟩, -⟩, -⟩, -⟩, -⟩, -⟩ := hv
  exact hty

theorem vld_loads {k : Ctl} {o : OpV} {s : State} (h : StartsNow .vld (.v o) k .ve s) (hs : StorageGood s) (hc : L1Coherent k.core s)
    {a : Nat} (ha : a = vecAddr (issuedEntry .vld (.v o) k s) o) (hal : a % 4 = 0) (hl : liveSpan s a (4 * vlOf o) = true)
    (hp : placeErrSpan (.core k.core) s a (4 * vlOf o) = none) :
    ∃ t, exec (.vld k o) s = .next t ∧ Loaded .vld (.v o) k s (vldCore s o a) t := by
  have hper : (tyOf o.type).perLane = 1 ∨ (tyOf o.type).perLane = 2 := (tyArith_lane (vld_form h.form)).imp And.left And.left
  have hread := loadLanes_good (storageGood_atStart h hs) a
    (activeLanes ((atStart .vld (.v o) k .ve s).core k.core) o (tyOf o.type)) (ws := []) (.refl k.core _) (l1Coherent_atStart h hc)
  obtain ⟨y, hy, hcaches, -⟩ := hread
  rw [List.nil_append] at hy
  refine loaded_of (vldCore s o a) _ h rfl rfl hcaches ?_ (pureWalk_frec _ _ _ _) fun d hd => pureWalk_load o (tyOf o.type) hd (f' := fun lane j =>
    (elemOf (tyOf o.type).width j (laneWord ((activeLanes ((atStart .vld (.v o) k .ve s).core k.core) o (tyOf o.type)).map fun l =>
      (l, laneOf (atStart .vld (.v o) k .ve s) a l)) lane), 0)) fun pl hpl hact => ?_
  · show runVld k.core (issuedEntry .vld (.v o) k s) o (atStart .vld (.v o) k .ve s) = _
    unfold runVld
    dsimp only
    rw [← ha, vecSpanFlt_none (s := atStart .vld (.v o) k .ve s) hal hl,
      lanesPlaceFlt_none (s := atStart .vld (.v o) k .ve s) hp fun l hm => activeLanes_lt hm]
    dsimp only [Option.or]
    rw [loadLanes_eq, hy]
    rfl
  · have hlane : pl.1 ∈ activeLanes ((atStart .vld (.v o) k .ve s).core k.core) o (tyOf o.type) :=
      mem_activeLanes hper hpl (by rw [activeAt_congr (atStart_core h).m]; exact hact)
    rw [laneWord_map _ hlane]
    unfold laneOf
    rw [readBytes_atStart]

/-! ## VST -/

theorem flatMap_filter {α β : Type} (l : List α) (p : α → Bool) (f : α → List β) :
    (l.filter p).flatMap f = l.flatMap fun x => if p x then f x else [] := by
  induction l with
  | nil => rfl
  | cons x l ih =>
    rw [List.flatMap_cons, List.filter_cons]
    split
    · rw [List.flatMap_cons, ih]
    · rw [ih, List.nil_append]

/-- The bytes of one element at its place. -/
def elemCells (c : Core) (o : OpV) (t : ETy) (a : Nat) (pl : Nat × Nat) : List (Nat × Byte) :=
  (List.range t.bytes).map fun i => (a + 4 * pl.1 + t.bytes * pl.2 + i, (elemAt c t o.va pl.1 pl.2).extractLsb' (8 * i) 8)

theorem laneCells_eq (c : Core) (o : OpV) (t : ETy) (a : Nat) : laneCells c o t a =
    (elemPlaces (vlOf o) t.perLane).flatMap fun pl => if activeAt c o pl.1 (decide (pl.2 = 1)) then elemCells c o t a pl else [] := by
  unfold laneCells
  rw [flatMap_filter]
  simp only [cellsAt_leBytes]
  rfl

theorem laneCells_congr {c d : Core} (hv : d.v = c.v) (hm : d.m = c.m) (o : OpV) (t : ETy) (a : Nat) :
    laneCells d o t a = laneCells c o t a := by
  rw [laneCells_eq, laneCells_eq]
  unfold elemCells elemAt
  simp only [vGet_congr hv, activeAt_congr hm]

/-- A cell of a lane store is a byte of an active element. -/
theorem mem_laneCells {c : Core} {o : OpV} {t : ETy} {a : Nat} {x : Nat × Byte} : x ∈ laneCells c o t a ↔
    ∃ lane j i, lane < vlOf o ∧ j < t.perLane ∧ activeAt c o lane (decide (j = 1)) = true ∧ i < t.bytes ∧
      x = (a + 4 * lane + t.bytes * j + i, (elemAt c t o.va lane j).extractLsb' (8 * i) 8) := by
  rw [laneCells_eq, List.mem_flatMap]
  constructor
  · rintro ⟨pl, hpl, hx⟩
    obtain ⟨hl, hj⟩ := mem_elemPlaces.mp hpl
    split at hx
    · next ha =>
      obtain ⟨i, hi, rfl⟩ := List.mem_map.mp hx
      exact ⟨pl.1, pl.2, i, hl, hj, ha, List.mem_range.mp hi, rfl⟩
    · cases hx
  · rintro ⟨lane, j, i, hl, hj, ha, hi, rfl⟩
    refine ⟨(lane, j), mem_elemPlaces.mpr ⟨hl, hj⟩, ?_⟩
    rw [if_pos ha]
    exact List.mem_map.mpr ⟨i, List.mem_range.mpr hi, rfl⟩

/-- The places of the elements of a walk are in ascending order. -/
theorem elemPlaces_pairwise (vl per : Nat) : (elemPlaces vl per).Pairwise fun x y => x.1 < y.1 ∨ (x.1 = y.1 ∧ x.2 < y.2) := by
  unfold elemPlaces
  rw [List.pairwise_flatMap]
  constructor
  · intro lane _
    rw [List.pairwise_map]
    exact List.pairwise_lt_range.imp fun h => Or.inr ⟨rfl, h⟩
  · refine List.pairwise_lt_range.imp fun h x hx y hy => Or.inl ?_
    obtain ⟨_, _, rfl⟩ := List.mem_map.mp hx
    obtain ⟨_, _, rfl⟩ := List.mem_map.mp hy
    exact h

/-- A lane store names no address twice. -/
theorem laneCells_pairwise (c : Core) (o : OpV) {t : ETy} (ht : (t.perLane = 1 ∧ t.bytes = 4) ∨ (t.perLane = 2 ∧ t.bytes = 2)) (a : Nat) :
    (laneCells c o t a).Pairwise fun x y => x.1 ≠ y.1 := by
  rw [laneCells_eq, List.pairwise_flatMap]
  constructor
  · intro pl _
    split
    · exact cells_pairwise _ _ _
    · exact List.Pairwise.nil
  · refine (elemPlaces_pairwise _ _).imp_of_mem fun {p q} hp hq hlt x hx y hy => ?_
    have hpj := (mem_elemPlaces.mp hp).2
    have hqj := (mem_elemPlaces.mp hq).2
    split at hx
    · split at hy
      · obtain ⟨i, hi, rfl⟩ := List.mem_map.mp hx
        obtain ⟨j, hj, rfl⟩ := List.mem_map.mp hy
        rw [List.mem_range] at hi hj
        dsimp only
        rcases ht with ⟨h1, h2⟩ | ⟨h1, h2⟩ <;> rw [h2] at hi hj ⊢ <;> rw [h1] at hpj hqj <;> omega
      · cases hy
    · cases hx

theorem vst_form {o : OpV} (h : formOk .vst (.v o) = true) : tyIs tyArith o.type = true := by
  have hv := (Bool.and_eq_true_iff.mp h).2
  simp only [formOkV, Bool.and_eq_true] at hv
  obtain ⟨⟨⟨⟨⟨⟨⟨hty, -⟩, -⟩, -⟩, -⟩, -⟩, -⟩, -⟩ := hv
  exact hty

theorem vecStoreFlt_none {s : State} {a len : Nat} (ha : a % 4 = 0) (hl : liveSpan s a len = true) (hw : writableSpan s a len = true) :
    vecStoreFlt s a len = none := by
  unfold vecStoreFlt
  rw [vecSpanFlt_none ha hl, hw]
  rfl

theorem vst_stores {k : Ctl} {o : OpV} {s : State} (h : StartsNow .vst (.v o) k .ve s) (hs : StorageGood s) (hc : Canonical s)
    {a : Nat} (ha : a = vecAddr (issuedEntry .vst (.v o) k s) o) (hal : a % 4 = 0) (hl : liveSpan s a (4 * vlOf o) = true)
    (hw : writableSpan s a (4 * vlOf o) = true) (hp : placeErrSpan (.core k.core) s a (4 * vlOf o) = none) :
    ∃ t, exec (.vst k o) s = .next t ∧ Stored .vst (.v o) k s (laneCells (s.core k.core) o (tyOf o.type) a) t := by
  have hty := tyArith_lane (vst_form h.form)
  have hfront := atStart_core h
  have hcells := laneCells_congr hfront.v hfront.m o (tyOf o.type) a
  obtain ⟨y, hy, hby, hbytes⟩ := storeCells_good (storageGood_atStart h hs) (canonical_atStart hc) k.core
    (cells := laneCells (s.core k.core) o (tyOf o.type) a)
    (fun c hcm => by
      obtain ⟨lane, j, i, hlane, hj, -, hi, rfl⟩ := mem_laneCells.mp hcm
      have := byteKey_of_span (m := .core k.core) (s := atStart .vst (.v o) k .ve s) hp
        (i := 4 * lane + (tyOf o.type).bytes * j + i) (by rcases hty with ⟨h1, h2⟩ | ⟨h1, h2⟩ <;> rw [h2] at hi ⊢ <;> rw [h1] at hj <;> omega)
      simpa only [Nat.add_assoc] using this)
    (laneCells_pairwise _ _ hty a)
  refine stored_of h rfl rfl hby hbytes ?_
  show runVst k.core (issuedEntry .vst (.v o) k s) o (atStart .vst (.v o) k .ve s) = _
  unfold runVst
  dsimp only
  rw [← ha, vecStoreFlt_none (s := atStart .vst (.v o) k .ve s) hal hl hw,
    lanesPlaceFlt_none (s := atStart .vst (.v o) k .ve s) hp fun l hm => activeLanes_lt hm, hcells]
  dsimp only [Option.or]
  rw [hy]

/-- Settles O22: VLD and VST move the active elements of their lanes. -/
theorem vectorAccessRows : Obligations.VectorAccessRows := by
  unfold Obligations.VectorAccessRows
  refine ⟨fun k o s h hs hc => ?_, fun k o s h hs hc => ?_⟩
  · intro a t ha hl hp
    exact vld_loads h hs hc rfl ha hl hp
  · intro a t c ha hl hw hp
    have hst := vst_stores h hs hc (a := a) rfl ha hl hw hp
    rw [laneCells_eq] at hst
    exact hst

end Sys2Proof.Machine

/-! # Queues, dispatches and cores: their own events (R27 to R53, R146, R217 to R227) -/

namespace Sys2Proof.Machine

/-! ## Starts that meet a wait change nothing else (R227, R278) -/

theorem eccRead_vit (s : State) (p : Fin 72) (l : List Place) : (eccRead s p l).1.vit = s.vit := by
  unfold eccRead
  dsimp only
  split
  · rfl
  · split
    · rw [foldl_keeps (fun (s : State) (_ : Place) => rasNote (s.report 2 1) 4 p.val 0) State.vit fun _ _ => rfl]
      rfl
    · rw [show ∀ (x : State) k u j, (rasNote x k u j).vit = x.vit from fun _ _ _ _ => rfl, report_vit,
        foldl_keeps (fun (s : State) (_ : Place) => rasNote (s.report 2 1) 4 p.val 0) State.vit fun _ _ => rfl]
      rfl

theorem startEntry_met (p : Fin 72) (g : Engine) (e : Entry) (rest : List Entry) (s x : State) :
    (startEntry p g e rest s x).vit.met = s.vit.met := by
  unfold startEntry
  dsimp only
  by_cases h : (runEntry p e x).st.vit.met = s.vit.met
  · rw [if_neg (not_not_intro h)]
    split
    · rw [coreFault_vit, h]
    · rw [modCore_vit, h]
  · rw [if_pos h, modCore_vit]

theorem startHead_met (p : Fin 72) (g : Engine) (s : State) : (startHead p g s).vit.met = s.vit.met := by
  unfold startHead
  split
  · rfl
  · dsimp only
    split
    · rw [coreFault_vit, eccRead_vit, modCore_vit]
    · exact startEntry_met _ _ _ _ _ _

theorem pumpCore_met (p : Fin 72) (n : Nat) : ∀ s : State, (pumpCore p n s).vit.met = s.vit.met := by
  induction n with
  | zero => exact fun _ => rfl
  | succ n ih =>
    intro s
    unfold pumpCore
    split
    · rfl
    · rw [ih, startHead_met]

/-- Starting what may start never makes an event wait. -/
theorem pumpQueues_met (p : Fin 72) (s : State) : (pumpQueues p s).vit.met = s.vit.met := pumpCore_met p _ s

/-- An effect that leaves the waits as they are is what its command leaves. -/
theorem leaves_of {i : Instr} {s x : State} (h : exec i s = answer s x) (hm : x.vit.met = s.vit.met) : Leaves i s x :=
  h.trans (answer_same hm)

/-! ## The events of a queue -/

theorem headReady_of {c : Core} {g : Engine} {e : Entry} {rest : List Entry} (hq : queueOf c g = e :: rest) (hw : syWaits e.sync = true)
    (ha : e.armed = false) (hok : waitsOk c e.sync e.thr = true) : headReady c g = true := by
  simp [headReady, hq, hw, ha, hok]

theorem releaseFirst_append {pre : List Inflight} {x : Inflight} (post : List Inflight) (hp : ∀ y ∈ pre, y.released = true)
    (hx : x.released = false) : releaseFirst (pre ++ x :: post) = pre ++ { x with released := true } :: post := by
  induction pre with
  | nil => simp [releaseFirst, hx]
  | cons y t ih =>
    rw [List.cons_append, releaseFirst, if_pos (hp y (by simp)), ih fun z hz => hp z (List.mem_cons_of_mem _ hz)]
    rfl

theorem find_unreleased {pre : List Inflight} {x : Inflight} (post : List Inflight) (hp : ∀ y ∈ pre, y.released = true)
    (hx : x.released = false) : (pre ++ x :: post).find? (fun y => !y.released) = some x := by
  rw [List.find?_append, List.find?_eq_none.mpr (by simpa using hp), List.find?_cons_of_pos (by simp [hx])]
  rfl

theorem waitSatisfied_leaves {p : Fin 72} {g : Engine} {s : State} {e : Entry} {rest : List Entry} (hw : coreWorks s p = true)
    (hq : queueOf (s.core p) g = e :: rest) (h1 : syWaits e.sync = true) (h2 : e.armed = false)
    (h3 : waitsOk (s.core p) e.sync e.thr = true) (h4 : outranked (s.core p) g e.sync = false) :
    Leaves (.waitSatisfied p g) s (pumpQueues p ((if (s.core p).extSig then l1Barrier p s else s).modCore p fun c =>
      setQueue (waitClear e.sync c) g ({ e with armed := true } :: rest))) := by
  refine leaves_of ?_ ?_
  · show execWaitSatisfied p g s = _
    unfold execWaitSatisfied
    dsimp only
    rw [hq]
    dsimp only
    rw [if_pos (by simp [hw, headReady_of hq h1 h2 h3, h4])]
  · rw [pumpQueues_met, modCore_vit]
    split <;> rfl

theorem instructionRelease_leaves {p : Fin 72} {g : Engine} {s : State} {pre : List Inflight} {x : Inflight} {post : List Inflight}
    (hw : coreWorks s p = true) (hf : flightOf (s.core p) g = pre ++ x :: post) (hp : ∀ y ∈ pre, y.released = true)
    (hx : x.released = false) (hc : cpMayRelease s p x.e = true) :
    Leaves (.instructionRelease p g) s (pumpQueues p (s.modCore p fun c =>
      settleFlight (setFlight c g (pre ++ { x with released := true } :: post)) g)) := by
  refine leaves_of ?_ (by rw [pumpQueues_met, modCore_vit])
  show execInstructionRelease p g s = _
  unfold execInstructionRelease
  rw [hf, find_unreleased post hp hx]
  dsimp only
  rw [if_pos (by simp [hw, hc]), modCore_congr]
  rw [hf, releaseFirst_append post hp hx]

theorem instructionComplete_leaves {p : Fin 72} {g : Engine} {s : State} {x : Inflight} {rest : List Inflight}
    (hw : coreWorks s p = true) (hf : flightOf (s.core p) g = x :: rest) (hc : mayComplete s p x = true) :
    Leaves (.instructionComplete p g) s (pumpQueues p
      ((match x.csrLast with
        | some v => (usesEnd s x.uses).rset .corVeCsrLast p.val 0 v
        | none => usesEnd s x.uses).modCore p fun c => settleFlight (completeCore g rest x (setFlight c g rest)) g)) := by
  refine leaves_of ?_ ?_
  · show execInstructionComplete p g s = _
    unfold execInstructionComplete
    rw [hf]
    dsimp only
    rw [if_pos (by simp [hw, hc])] <;> rfl
  · rw [pumpQueues_met, modCore_vit]
    split
    · rw [rset_vit, usesEnd_vit]
    · rw [usesEnd_vit]

theorem waitTimeout_leaves {p : Fin 72} {g : Engine} {s : State} {e : Entry} {rest : List Entry} (hw : coreWorks s p = true)
    (hq : queueOf (s.core p) g = e :: rest) (h1 : syWaits e.sync = true) (h2 : e.armed = false)
    (h3 : waitsOk (s.core p) e.sync e.thr = false) (h4 : s.rget .corWaitLimit p.val 0 ≠ 0) :
    Leaves (.waitTimeout p g) s (coreFault s p (engCode g) (waitFlt g e.sync) e.stream (e.pc.zeroExtend 64)) := by
  refine leaves_of ?_ (by rw [coreFault_vit])
  show execWaitTimeout p g s = _
  unfold execWaitTimeout
  dsimp only
  rw [hq]
  dsimp only
  rw [if_pos (by simpa [hw, h1, h2, h3] using h4)]

/-- Settles O41: each event's guard holds where its row's hypotheses do, and no start that follows makes the event wait. -/
theorem queueEventRows : Obligations.QueueEventRows := by
  unfold Obligations.QueueEventRows
  intro p g s hw
  refine ⟨fun _ _ => waitSatisfied_leaves hw, fun _ _ _ => instructionRelease_leaves hw, fun _ _ => instructionComplete_leaves hw,
    fun _ _ => waitTimeout_leaves hw⟩

/-! ## The end of a dispatch -/

theorem allContained_iff (l f : List (Fin 72)) : l.all (fun q => f.contains q) = true ↔ ∀ q ∈ l, q ∈ f := by
  simp [List.all_eq_true]

/-- The state in which a core that is done has reported. -/
def reported (p : Fin 72) (s : State) : State :=
  modDispatch (s.modCore p fun c => { c with runstate := 0 }) (s.core p).tag fun d => { d with finished := d.finished ++ [p] }

theorem coreFinished_exec {p : Fin 72} {s : State} (hd : domOn s 0 = true) (hc : coreDone s p = true) :
    exec (.coreFinished p) s = answer s (match dispatchOf (reported p s) (s.core p).tag with
      | none => reported p s
      | some d => if d.cores.all (fun q => d.finished.contains q) && !d.stopping && !d.aborted then finishDispatch (reported p s) d
        else reported p s) := by
  show execCoreFinished p s = _
  unfold execCoreFinished
  rw [if_pos (by simp [hd, hc])]
  rfl

/-- A core that is done reports and is IDLE; its dispatch is DONE with the last one (R30, R312). -/
theorem coreFinished_leaves {p : Fin 72} {s : State} (hd : domOn s 0 = true) (hc : coreDone s p = true) :
    (dispatchOf (reported p s) (s.core p).tag = none → Leaves (.coreFinished p) s (reported p s)) ∧
    ∀ d, dispatchOf (reported p s) (s.core p).tag = some d →
      ((∀ q ∈ d.cores, q ∈ d.finished) ∧ d.stopping = false ∧ d.aborted = false →
        Leaves (.coreFinished p) s (finishDispatch (reported p s) d)) ∧
      (¬ ((∀ q ∈ d.cores, q ∈ d.finished) ∧ d.stopping = false ∧ d.aborted = false) → Leaves (.coreFinished p) s (reported p s)) := by
  refine ⟨fun hn => leaves_of ?_ rfl, fun d hs => ⟨fun hall => leaves_of ?_ rfl, fun hall => leaves_of ?_ rfl⟩⟩
  · rw [coreFinished_exec hd hc, hn]
  · obtain ⟨hf, h1, h2⟩ := hall
    rw [coreFinished_exec hd hc, hs]
    dsimp only
    rw [if_pos (by simp only [Bool.and_eq_true, Bool.not_eq_true']; exact ⟨⟨(allContained_iff _ _).mpr hf, h1⟩, h2⟩)]
  · rw [coreFinished_exec hd hc, hs]
    dsimp only
    rw [if_neg]
    intro h
    simp only [Bool.and_eq_true, Bool.not_eq_true'] at h
    obtain ⟨⟨hf, h1⟩, h2⟩ := h
    exact hall ⟨(allContained_iff _ _).mp hf, h1, h2⟩

/-! ## The stop of a dispatch (R50) -/

/-- Whether a stop of a dispatch stops a core: it has not finished, stopped or begun to stop. -/
def stoppable (d : Dispatch) (s : State) (p : Fin 72) : Prop :=
  ¬ (d.finished.contains p = true ∨ (s.core p).runstate = 5 ∨ (s.core p).runstate = 4 ∨ (s.core p).runstate = 0)

/-- One core of a dispatch that stops. -/
def stopOne (d : Dispatch) (s : State) (p : Fin 72) : State :=
  if d.finished.contains p ∨ (s.core p).runstate = 5 ∨ (s.core p).runstate = 4 ∨ (s.core p).runstate = 0 then s else stopCore s p

theorem stopOthers_eq (s : State) (d : Dispatch) : stopOthers s d = d.cores.foldl (stopOne d) s := rfl

theorem stopOne_stops {d : Dispatch} {s : State} {p : Fin 72} (h : stoppable d s p) : stopOne d s p = stopCore s p := if_neg h

theorem stopOne_stays {d : Dispatch} {s : State} {p : Fin 72} (h : ¬ stoppable d s p) : stopOne d s p = s := if_pos (not_not.mp h)

theorem stopOne_other (d : Dispatch) (s : State) {p q : Fin 72} (h : q ≠ p) : (stopOne d s p).core q = s.core q := by
  by_cases hs : stoppable d s p
  · rw [stopOne_stops hs, stopCore_other s h]
  · rw [stopOne_stays hs]

theorem not_stoppable_stopOne (d : Dispatch) (s : State) (p : Fin 72) : ¬ stoppable d (stopOne d s p) p := by
  by_cases hs : stoppable d s p
  · rw [stopOne_stops hs, stoppable, not_not, (stopCore_core s p).1]
    split
    · exact .inr (.inr (.inl rfl))
    · exact .inr (.inl rfl)
  · rwa [stopOne_stays hs]

/-- A core that a stop leaves alone is left alone by a later one. -/
theorem not_stoppable_keeps {d : Dispatch} {s : State} {q : Fin 72} (p : Fin 72) (h : ¬ stoppable d s q) :
    ¬ stoppable d (stopOne d s p) q := by
  by_cases hq : q = p
  · rw [hq]
    exact not_stoppable_stopOne d s p
  · unfold stoppable
    rwa [stopOne_other d s hq]

theorem stopped_after (d : Dispatch) (l : List (Fin 72)) : ∀ {s : State} {q : Fin 72}, q ∈ l ∨ ¬ stoppable d s q →
    ¬ stoppable d (l.foldl (stopOne d) s) q := by
  induction l with
  | nil =>
    intro s q h
    exact h.resolve_left (by simp)
  | cons p t ih =>
    intro s q h
    refine ih ?_
    rcases h with h | h
    · rcases List.mem_cons.mp h with rfl | h
      · exact .inr (not_stoppable_stopOne d s q)
      · exact .inl h
    · exact .inr (not_stoppable_keeps p h)

/-- A stop of a dispatch leaves the cores of other dispatches and those that have finished. -/
theorem stops_other (d : Dispatch) {q : Fin 72} (l : List (Fin 72)) : ∀ {s : State}, q ∉ l ∨ q ∈ d.finished →
    (l.foldl (stopOne d) s).core q = s.core q := by
  induction l with
  | nil => exact fun _ => rfl
  | cons p t ih =>
    intro s h
    rw [List.foldl_cons, ih (h.imp_left fun hq ht => hq (List.mem_cons_of_mem _ ht))]
    by_cases hq : q = p
    · subst hq
      have hf : q ∈ d.finished := h.resolve_left fun hn => hn List.mem_cons_self
      rw [stopOne_stays (not_not_intro (.inl (by simpa using hf)))]
    · exact stopOne_other d s hq

/-- What a property of the state keeps through each core's stop, it keeps through the dispatch's. -/
theorem stops_keep {γ : Type} (g : State → γ) (hg : ∀ s p, g (stopCore s p) = g s) (d : Dispatch) (s : State) :
    g (stopOthers s d) = g s := by
  rw [stopOthers_eq]
  refine foldl_keeps _ g (fun s p => ?_) _ _
  by_cases hs : stoppable d s p
  · rw [stopOne_stops hs, hg]
  · rw [stopOne_stays hs]

theorem stopCore_frec (s : State) (p q : Fin 72) : ((stopCore s p).core q).frec = (s.core q).frec := by
  by_cases h : q = p
  · rw [h, (stopCore_core s p).2.2]
  · rw [stopCore_other s h]

theorem putFree_host (s : State) (a : Nat) : (putFree s a).host = s.host := by
  unfold putFree putByte
  split <;> rfl

theorem putFree_regs (s : State) (a : Nat) : (putFree s a).regs = s.regs := by
  unfold putFree putByte
  split <;> rfl

theorem abandonOutputs_host (s : State) (p : Fin 72) : (abandonOutputs s p).host = s.host := by
  obtain ⟨f, n, -, he⟩ := abandonOutputs_eq s p
  rw [he, foldl_keeps putFree State.host putFree_host]
  rfl

theorem abandonOutputs_regs (s : State) (p : Fin 72) : (abandonOutputs s p).regs = s.regs := by
  obtain ⟨f, n, -, he⟩ := abandonOutputs_eq s p
  rw [he, foldl_keeps putFree State.regs putFree_regs]
  rfl

theorem stopCore_host (s : State) (p : Fin 72) : (stopCore s p).host = s.host := by
  unfold stopCore
  dsimp only
  rw [modCore_host, show ∀ x : State, (dropUnsent x p).host = x.host from fun _ => rfl, abandonOutputs_host]
  exact foldl_keeps useEnd State.host (fun _ _ => rfl) _ s

theorem stopCore_regs (s : State) (p : Fin 72) : (stopCore s p).regs = s.regs := by
  unfold stopCore
  dsimp only
  rw [modCore_regs, show ∀ x : State, (dropUnsent x p).regs = x.regs from fun _ => rfl, abandonOutputs_regs]
  exact foldl_keeps useEnd State.regs (fun _ _ => rfl) _ s

theorem stops_bytes {a : Nat} (d : Dispatch) (l : List (Fin 72)) : ∀ {s : State}, memWf s.mem = true →
    (∀ p ∈ l, stoppable d s p → ¬ Abandoned (s.core p) a) → byteAt (l.foldl (stopOne d) s) a = byteAt s a := by
  induction l with
  | nil => exact fun _ _ => rfl
  | cons p t ih =>
    intro s hw h
    have later : ∀ q ∈ t, stoppable d (stopOne d s p) q → ¬ Abandoned ((stopOne d s p).core q) a := by
      intro q hq hs
      have hne : q ≠ p := fun e => not_stoppable_stopOne d s p (e ▸ hs)
      rw [stopOne_other d s hne]
      rw [stoppable, stopOne_other d s hne] at hs
      exact h q (List.mem_cons_of_mem _ hq) hs
    rw [List.foldl_cons]
    by_cases hs : stoppable d s p
    · have hw' : memWf (stopOne d s p).mem = true := by
        rw [stopOne_stops hs]
        exact (stopCore_eff s p (Eff.refl s)).mem hw
      rw [ih hw' later, stopOne_stops hs]
      exact byteAt_stopCore hw (h p List.mem_cons_self hs)
    · have hw' : memWf (stopOne d s p).mem = true := by rwa [stopOne_stays hs]
      rw [ih hw' later, stopOne_stays hs]

/-! ## The record of a stopped dispatch -/

theorem firstFault_congr {s t : State} (h : ∀ q, (t.core q).frec = (s.core q).frec) (d : Dispatch) : firstFault t d = firstFault s d := by
  unfold firstFault faultsOf earlier
  simp only [h]

theorem stopRecord_place (s : State) (d : Dispatch) (c : Cmd) : (stopRecord s d c).ring = c.ring ∧
    (stopRecord s d c).index = c.index ∧ (stopRecord s d c).entry = c.entry ∧ (stopRecord s d c).state = .finished := by
  unfold stopRecord
  dsimp only
  split
  · exact ⟨rfl, rfl, rfl, rfl⟩
  · split <;> exact ⟨rfl, rfl, rfl, rfl⟩

theorem stopRecord_status (s : State) (d : Dispatch) (c : Cmd) : (stopRecord s d c).status = if d.aborted then 3 else 1 := by
  unfold stopRecord
  dsimp only
  split
  · rfl
  · split <;> rfl

theorem stopRecord_first {s : State} {d : Dispatch} {q : Fin 72} (c : Cmd) (ha : d.aborted = false) (hq : firstFault s d = some q) :
    (stopRecord s d c).code = (s.core q).frec.code ∧ (stopRecord s d c).detail = (s.core q).frec.detail := by
  unfold stopRecord
  simp [ha, hq]

theorem find_map_ite {α : Type} (p : α → Bool) (f : α → α) (hf : ∀ x, p x = true → p (f x) = true) (l : List α) {c : α}
    (h : l.find? p = some c) : (l.map fun x => if p x then f x else x).find? p = some (f c) := by
  induction l with
  | nil => cases h
  | cons x t ih =>
    by_cases hx : p x = true
    · rw [List.find?_cons_of_pos hx] at h
      cases h
      rw [List.map_cons, if_pos hx, List.find?_cons_of_pos (hf _ hx)]
    · rw [List.find?_cons_of_neg hx] at h
      rw [List.map_cons, if_neg hx, List.find?_cons_of_neg hx, ih h]

/-- The command that a change finds at its place. -/
theorem cmdAt_modCmd {s : State} {ring : Nat} {index : W32} {f : Cmd → Cmd} {c : Cmd} (hf : ∀ c, (f c).ring = c.ring ∧ (f c).index = c.index)
    (h : cmdAt s ring index = some c) : cmdAt (modCmd s ring index f) ring index = some (f c) := by
  have := find_map_ite (fun c : Cmd => decide (c.ring = ring ∧ c.index = index)) f
    (fun x hx => by rw [(hf x).1, (hf x).2]; exact hx) s.host.cmds h
  simp only [decide_eq_true_eq] at this
  exact this


/-- The state in which the record of a dispatch that has stopped on every core is made. -/
def dispatchEnded (s : State) (tag : W32) (d : Dispatch) : State :=
  modCmd (modDispatch s tag fun d => { d with done := true }) d.ring d.index (stopRecord s d)

theorem allStopped_iff (s : State) (d : Dispatch) : allStopped s d = true ↔
    ∀ p ∈ d.cores, p ∉ d.finished → (s.core p).runstate = 5 ∨ (s.core p).runstate = 0 := by
  unfold allStopped
  rw [List.all_eq_true]
  refine forall₂_congr fun p _ => ?_
  simp [or_iff_not_imp_left]

/-- What a stop of a dispatch leaves: the stopped cores, with the record once none of them is stopping. -/
def dispatchStopped (s : State) (tag : W32) (d : Dispatch) : State :=
  if allStopped (stopOthers s d) d then dispatchEnded (stopOthers s d) tag d else stopOthers s d

theorem dispatchStopped_core (s : State) (tag : W32) (d : Dispatch) (q : Fin 72) :
    (dispatchStopped s tag d).core q = (stopOthers s d).core q := by
  unfold dispatchStopped
  split <;> rfl

theorem dispatchStopped_byteAt (s : State) (tag : W32) (d : Dispatch) (a : Nat) :
    byteAt (dispatchStopped s tag d) a = byteAt (stopOthers s d) a := by
  unfold dispatchStopped
  split <;> rfl

/-- Its record sets no bit of the error summary. -/
theorem summaryRise_dispatchStopped (s : State) (tag : W32) (d : Dispatch) :
    summaryRise s (dispatchStopped s tag d) = dispatchStopped s tag d := by
  refine summaryRise_same_summary (errSummary_congr ?_ fun p => ?_)
  · rw [← stops_keep State.regs stopCore_regs d s]
    unfold dispatchStopped
    split <;> rfl
  · rw [dispatchStopped_core]
    exact stops_keep (fun x => (x.core p).frec) (fun x q => stopCore_frec x q p) d s

theorem dispatchStop_leaves {tag : W32} {s : State} {d : Dispatch} (h : dispatchOf s tag = some d) (hs : d.stopping = true ∨ d.aborted = true) :
    Leaves (.dispatchStop tag) s (dispatchStopped s tag d) := by
  refine leaves_of ?_ ?_
  · show execDispatchStop tag s = _
    unfold execDispatchStop
    rw [h]
    dsimp only
    rw [if_pos (by simpa using hs)]
    unfold dispatchStopped
    cases allStopped (stopOthers s d) d <;> rfl
  · unfold dispatchStopped
    split
    · exact stops_keep (fun s : State => s.vit.met) (fun s p => by rw [stopCore_vit]) d s
    · exact stops_keep (fun s : State => s.vit.met) (fun s p => by rw [stopCore_vit]) d s

theorem dispatchStop_next {tag : W32} {s : State} {d : Dispatch} (h : dispatchOf s tag = some d) (hs : d.stopping = true ∨ d.aborted = true) :
    exec (.dispatchStop tag) s = .next (dispatchStopped s tag d) := by
  rw [← summaryRise_dispatchStopped]
  exact dispatchStop_leaves h hs

theorem dispatchStopped_ended {s : State} {tag : W32} {d : Dispatch} (h : allStopped (stopOthers s d) d = true) :
    dispatchStopped s tag d = dispatchEnded (stopOthers s d) tag d := if_pos h

theorem dispatchStopped_waits {s : State} {tag : W32} {d : Dispatch} (h : ¬ allStopped (stopOthers s d) d = true) :
    dispatchStopped s tag d = stopOthers s d := if_neg h

theorem stopOthers_host (s : State) (d : Dispatch) : (stopOthers s d).host = s.host := stops_keep State.host stopCore_host d s

/-- Every core of the dispatch that has not finished is STOPPED, stopping or IDLE. -/
theorem dispatchStopped_runstate (s : State) (tag : W32) {d : Dispatch} {p : Fin 72} (hp : p ∈ d.cores) (hf : p ∉ d.finished) :
    ((dispatchStopped s tag d).core p).runstate = 5 ∨ ((dispatchStopped s tag d).core p).runstate = 4 ∨
      ((dispatchStopped s tag d).core p).runstate = 0 := by
  have h := stopped_after d d.cores (s := s) (.inl hp)
  rw [← stopOthers_eq, stoppable, not_not] at h
  rw [dispatchStopped_core]
  exact h.resolve_left (by simpa using hf)

/-- The command of a dispatch whose cores are all STOPPED ends with its record. -/
theorem dispatchEnded_cmd {s : State} (tag : W32) {d : Dispatch} {c : Cmd} (h : cmdAt s d.ring d.index = some c) :
    cmdAt (dispatchEnded (stopOthers s d) tag d) d.ring d.index = some (stopRecord (stopOthers s d) d c) := by
  refine cmdAt_modCmd (s := modDispatch (stopOthers s d) tag fun d => { d with done := true })
    (fun c => ⟨(stopRecord_place _ d c).1, (stopRecord_place _ d c).2.1⟩) ?_
  show (stopOthers s d).host.cmds.find? _ = _
  rw [stopOthers_host]
  exact h

theorem dispatchEnded_done (s : State) (tag : W32) (d : Dispatch) :
    ∀ e ∈ (dispatchEnded s tag d).host.dispatches, e.tag = tag → e.done = true := by
  intro e he ht
  obtain ⟨x, -, rfl⟩ := List.mem_map.mp he
  by_cases hx : x.tag = tag
  · simp [hx]
  · rw [if_neg hx] at ht
    exact absurd ht hx

/-- Settles O42: a core that is done by its row; a stop core by core, with the record once no core is stopping. -/
theorem dispatchEnds : Obligations.DispatchEnds := by
  unfold Obligations.DispatchEnds
  refine ⟨fun p s => coreFinished_leaves, fun tag s d hd hs => ⟨_, dispatchStop_next hd hs, ?_, ?_, ?_, ?_, ?_⟩⟩
  · intro hc a ha
    rw [dispatchStopped_byteAt]
    exact stops_bytes d d.cores hc.1 fun p hp hst => ha p hp fun hf => hst (.inl (by simpa using hf))
  · exact fun p => dispatchStopped_runstate s tag
  · intro p hp
    rw [dispatchStopped_core]
    exact stops_other d d.cores hp
  · rintro ⟨p, hp, hf, h4⟩
    rw [dispatchStopped_waits, stopOthers_host]
    intro hall
    rw [dispatchStopped_core] at h4
    rcases (allStopped_iff _ d).mp hall p hp hf with h | h <;> simp [h] at h4
  · intro h4
    have hall : allStopped (stopOthers s d) d = true := (allStopped_iff _ d).mpr fun p hp hf => by
      rw [← dispatchStopped_core s tag]
      have := h4 p hp hf
      rcases dispatchStopped_runstate s tag hp hf with h | h | h
      · exact .inl h
      · exact absurd h this
      · exact .inr h
    rw [dispatchStopped_ended hall]
    refine ⟨dispatchEnded_done _ tag d, fun c hc => ⟨_, dispatchEnded_cmd tag hc, ?_⟩⟩
    obtain ⟨-, -, he, hst⟩ := stopRecord_place (stopOthers s d) d c
    refine ⟨he, hst, stopRecord_status _ d c, fun q hna hq => ?_⟩
    have hfrec (q : Fin 72) : ((stopOthers s d).core q).frec = (s.core q).frec :=
      stops_keep (fun x => (x.core q).frec) (fun x r => stopCore_frec x r q) d s
    rw [← hfrec q]
    exact stopRecord_first c hna (by rw [firstFault_congr hfrec]; exact hq)

end Sys2Proof.Machine

/-! # The handover banks (R217, R218, R227) -/

namespace Sys2Proof.Machine

/-! ## Places of a gallery -/

/-- The bank of an offset: that of its row, and its block on top of it (R218). -/
theorem galBank_row (w : W64) (o : Nat) : galBank w o = galBank w (o % 2 ^ 20) ^^^ (o / 2 ^ 20 % 16) := by
  have e1 : o % 2 ^ 20 / 64 % 16 = o / 64 % 16 := by omega
  have e2 : o % 2 ^ 20 / 2 ^ 10 % 16 = o / 2 ^ 10 % 16 := by omega
  have e3 : o % 2 ^ 20 / 2 ^ 14 % 16 = o / 2 ^ 14 % 16 := by omega
  have e4 : o % 2 ^ 20 / 2 ^ 20 % 16 = 0 := by omega
  unfold galBank
  rw [e1, e2, e3, e4]
  cases bitB w 0 <;> cases bitB w 1 <;> simp [Nat.xor_assoc, Nat.xor_comm, Nat.xor_left_comm]

theorem keyGallery_galKey {p b : Nat} (o : Nat) (hb : b < 16) : keyGallery (galKey p b o) = some p := by
  unfold keyGallery galKey
  rw [if_pos (by omega)]
  congr 1
  omega

/-- The inverse of the swizzle gives the offset back. -/
theorem keyOffset_galKey {o : Nat} (w : W64) (p : Nat) (ho : o < 2 ^ 24) : keyOffset w (galKey p (galBank w o) o) = o := by
  have hb := galBank_lt w o
  have hlow : galKey p (galBank w o) o % 2 ^ 20 = o % 2 ^ 20 := by
    unfold galKey
    omega
  have hbank : galKey p (galBank w o) o / 2 ^ 20 % 16 = galBank w o := by
    unfold galKey
    omega
  have hblock : galBank w (o % 2 ^ 20) ^^^ galBank w o = o / 2 ^ 20 % 16 := by
    rw [galBank_row w o, ← Nat.xor_assoc, Nat.xor_self, Nat.zero_xor]
  unfold keyOffset
  dsimp only
  rw [hlow, hbank, hblock]
  omega

theorem keyGallery_low {k : Nat} (h : k < 2 ^ 47) : keyGallery k = none := if_neg (by omega)

/-- What the key of a byte of a gallery says of its address. -/
theorem byteKey_gallery {s : State} {a k p : Nat} (hk : byteKey s a = some k) (hg : keyGallery k = some p) :
    ∃ n o, ∃ q : Fin 72, galOf a = some (n, o) ∧ physOf s n = some q ∧ q.val = p ∧ k = galKey p (galBank (s.rget .vtrSwz 0 n) o) o := by
  unfold byteKey at hk
  split at hk
  · next hlt =>
    cases hk
    have := memTop_le s
    rw [keyGallery_low (by omega)] at hg
    cases hg
  · split at hk
    · next n o hgal =>
      split at hk
      · next q hq =>
        cases hk
        rw [keyGallery_galKey o (galBank_lt _ _)] at hg
        cases hg
        exact ⟨n, o, q, hgal, hq, rfl, rfl⟩
      · cases hk
    · cases hk

theorem galOf_window {n o : Nat} (hn : n < 64) (ho : o < 2 ^ 24) : galOf (vtrBase + n * 2 ^ 24 + o) = some (n, o) := by
  unfold galOf
  have hlo : vtrBase + n * 2 ^ 24 + o - vtrBase = n * 2 ^ 24 + o := by omega
  rw [if_pos (by unfold vtrBase; omega), hlo, show (n * 2 ^ 24 + o) / 2 ^ 24 = n by omega, show (n * 2 ^ 24 + o) % 2 ^ 24 = o by omega]

theorem byteKey_window {s : State} {n o : Nat} {p : Fin 72} (hn : n < 64) (ho : o < 2 ^ 24) (hp : physOf s n = some p) :
    byteKey s (vtrBase + n * 2 ^ 24 + o) = some (galKey p.val (galBank (s.rget .vtrSwz 0 n) o) o) := by
  have := memTop_le_vtrBase s
  unfold byteKey
  rw [if_neg (by omega), galOf_window hn ho]
  dsimp only
  rw [hp]

theorem physOf_logical {s : State} {n : Nat} {p : Fin 72} (h : physOf s n = some p) : s.map[p.val].logical.toNat = n := by
  have := List.find?_some h
  simp only [decide_eq_true_eq] at this
  exact this.2

/-! ## Zeroed keys -/

section
variable {β : Type} [DecidableEq β] {d : Nat → β}

/-- A map without the keys of a test reads as before elsewhere, and as by default there. -/
theorem smapGet_filter (f : Nat → Bool) (k : Nat) : ∀ {lo : Nat} {m : List (Nat × β)}, smapWfFrom d lo m = true →
    smapGet d (m.filter fun c => !f c.1) k = if f k then d k else smapGet d m k
  | _, [], _ => by simp [smapGet]
  | lo, (k', v) :: t, hm => by
    have ht : smapWfFrom d (k' + 1) t = true := by
      simp only [smapWfFrom, Bool.and_eq_true] at hm
      exact hm.2
    have ih := smapGet_filter f k ht
    by_cases hf : f k' = true
    · rw [List.filter_cons_of_neg (by simp [hf]), ih]
      split
      · rfl
      · next hk =>
        have hne : k ≠ k' := fun e => hk (e ▸ hf)
        rw [smapGet, if_neg hne]
        split
        · next hlt => exact smapGet_lt (by omega) ht
        · rfl
    · rw [List.filter_cons_of_pos (by simp [hf]), smapGet, smapGet, ih]
      by_cases hlt : k < k'
      · simp [hlt]
      · by_cases he : k = k'
        · simp [he, hf]
        · simp [hlt, he]

end

theorem byteKey_zeroKeys (s : State) (f : Nat → Bool) (a : Nat) : byteKey (zeroKeys s f) a = byteKey s a := by
  exact byteKey_mem (m := (zeroKeys s f).mem) s a

/-- A byte whose key is zeroed reads zero, any other as before. -/
theorem byteAt_zeroKeys {s : State} (f : Nat → Bool) {a k : Nat} (hw : memWf s.mem = true) (hk : byteKey s a = some k) :
    byteAt (zeroKeys s f) a = if f k then 0 else byteAt s a := by
  have hz : byteKey (zeroKeys s f) a = some k := (byteKey_zeroKeys s f a).trans hk
  rw [byteAt_some hz, byteAt_some hk]
  exact smapGet_filter f k hw

theorem byteAt_zeroKeys_none {s : State} (f : Nat → Bool) {a : Nat} (hk : byteKey s a = none) : byteAt (zeroKeys s f) a = byteAt s a := by
  have hz : byteKey (zeroKeys s f) a = none := (byteKey_zeroKeys s f a).trans hk
  rw [byteAt_none hz, byteAt_none hk]

/-- Whether a key lies in handover bank n, whose gallery is p. -/
def bankKey (s : State) (n : Nat) (p : Fin 72) (k : Nat) : Bool :=
  decide (keyGallery k = some p.val) && decide (keyOffset (s.rget .vtrSwz 0 n) k / 2 ^ 20 = 15)

theorem zeroBank_eq {s : State} {n : Nat} {p : Fin 72} (h : physOf s n = some p) : zeroBank s n = zeroKeys s (bankKey s n p) := by
  unfold zeroBank
  rw [h]
  rfl

/-- A key of bank n belongs to an address of block 15 of window n. -/
theorem bankKey_address {s : State} {n a k : Nat} {p : Fin 72} (hp : physOf s n = some p) (hk : byteKey s a = some k)
    (hb : bankKey s n p k = true) : vtrBase + n * 2 ^ 24 + 15 * 2 ^ 20 ≤ a ∧ a < vtrBase + (n + 1) * 2 ^ 24 := by
  simp only [bankKey, Bool.and_eq_true, decide_eq_true_eq] at hb
  obtain ⟨hg, h15⟩ := hb
  obtain ⟨m, o, q, hgal, hq, hqp, hkey⟩ := byteKey_gallery hk hg
  have hqp : q = p := Fin.ext hqp
  subst hqp
  have hm : m = n := (physOf_logical hq).symm.trans (physOf_logical hp)
  subst hm
  obtain ⟨hlo, hmn, ho⟩ := galOf_some hgal
  have hlt : o < 2 ^ 24 := ho ▸ Nat.mod_lt _ (by decide)
  rw [hkey, keyOffset_galKey _ _ hlt] at h15
  omega

/-- Settles O44: block 15 of window n holds exactly the keys that the wipe zeroes. -/
theorem wipedBankIsZero : Obligations.WipedBankIsZero := by
  unfold Obligations.WipedBankIsZero
  intro n p s hc hp
  obtain ⟨hmem, -⟩ := hc
  rw [zeroBank_eq hp]
  constructor
  · intro o h15 ho
    have hk := byteKey_window n.isLt ho hp
    rw [byteAt_zeroKeys _ hmem hk, if_pos]
    simp only [bankKey, keyGallery_galKey o (galBank_lt _ _), keyOffset_galKey _ _ ho, Bool.and_eq_true, decide_eq_true_eq]
    exact ⟨trivial, by omega⟩
  · intro a ha
    cases hk : byteKey s a with
    | none => exact byteAt_zeroKeys_none _ hk
    | some k =>
      rw [byteAt_zeroKeys _ hmem hk, if_neg]
      exact fun hb => ha (bankKey_address hp hk hb)

end Sys2Proof.Machine

/-! # Retirement, generators and the vitrine's writes (R52, R53, R146, R147, R219, R224 to R227) -/

namespace Sys2Proof.Machine

/-! ## The state of a served write -/

section
variable (s : State) (w : Writer) (r : RegName) (k n size : Nat) (v : W64)

theorem recorded_vit : (recorded s w r k n size v).vit = s.vit := by
  obtain ⟨l, f, d, q, g, e, h⟩ := recorded_frame s w r k n size v
  rw [h]

theorem recorded_map : (recorded s w r k n size v).map = s.map := by
  obtain ⟨l, f, d, q, g, e, h⟩ := recorded_frame s w r k n size v
  rw [h]

theorem recorded_host : (recorded s w r k n size v).host = s.host := by
  obtain ⟨l, f, d, q, g, e, h⟩ := recorded_frame s w r k n size v
  rw [h]

theorem recorded_core (p : Fin 72) : (recorded s w r k n size v).core p = s.core p := by
  obtain ⟨l, f, d, q, g, e, h⟩ := recorded_frame s w r k n size v
  rw [h]
  rfl

/-- Registers that bring no counter up to date when they are read leave the stored registers as they are. -/
theorem recorded_regs (h : confShown (dropWr s w) r n = []) (hm : memShown r n = []) :
    (recorded s w r k n size v).regs = s.regs := by
  obtain ⟨l, hd⟩ := dropWr_frame s w
  have hr : (regRead (dropWr s w) r k n).2.regs = s.regs := by
    unfold regRead
    rw [h, hm, hd]
    dsimp only
    split <;> rfl
  unfold recorded
  dsimp only
  split
  · rw [hd]
  · exact hr

end

/-- A served 4-byte write leaves what its register's write does. -/
theorem write32_leaves {i : Instr} {s : State} {w : Writer} {r : RegName} {k n : Nat} {v : W32} {x : State}
    (hi : exec i s = write32 w r k n v s) (h : Writable w (r.at k n) s) (hr : findReg (r.at k n) = some ⟨r, k, n, false⟩)
    (hw : r.info.width = 32) (ha : alignedAccess (r.at k n) 4 = true)
    (hx : regEffect (recorded s w r k n 4 (v.zeroExtend 64)) w r k n (v.zeroExtend 64) 0xFFFFFFFF = x) (hm : x.vit.met = s.vit.met) :
    Leaves i s x := by
  subst hx
  exact hi.trans (write32_recorded v h hr hw ha hm)

/-- A served 8-byte write leaves what its register's write does. -/
theorem write64_leaves {i : Instr} {s : State} {w : Writer} {r : RegName} {k n : Nat} {v : W64} {x : State}
    (hi : exec i s = write64 w r k n v s) (h : Writable w (r.at k n) s) (hr : findReg (r.at k n) = some ⟨r, k, n, false⟩)
    (hw : r.info.width = 64) (ha : alignedAccess (r.at k n) 8 = true)
    (hx : regEffect (recorded s w r k n 8 v) w r k n v (BitVec.allOnes 64) = x) (hm : x.vit.met = s.vit.met) : Leaves i s x := by
  subst hx
  exact hi.trans (write64_recorded v h hr hw ha hm)

theorem bitB_zeroExtend {v : W32} (i : Nat) : bitB (v.zeroExtend 64) i = (decide (i < 64) && bitB v i) := by
  simp [bitB]

theorem bitsN_zeroExtend (v : W32) (i n : Nat) : bitsN (v.zeroExtend 64 : W64) i n = bitsN v i n := by
  unfold bitsN
  have hv : v.toNat < 2 ^ 64 := by have := v.isLt; omega
  rw [BitVec.toNat_setWidth, Nat.mod_eq_of_lt hv]

/-! ## The floors (R420, R421) -/

/-- What a change of a port, of the logs or of the rings leaves alone: the map and the waits. -/
structure Apart (s t : State) : Prop where
  map : t.map = s.map
  vit : t.vit = s.vit

theorem Apart.refl (s : State) : Apart s s := ⟨rfl, rfl⟩

theorem Apart.trans {s t u : State} (h : Apart s t) (k : Apart t u) : Apart s u := ⟨k.map.trans h.map, k.vit.trans h.vit⟩

theorem Apart.foldl {β : Type} {f : State → β → State} (h : ∀ s b, Apart s (f s b)) (l : List β) (s : State) : Apart s (l.foldl f s) :=
  ⟨foldl_keeps f State.map (fun s b => (h s b).map) l s, foldl_keeps f State.vit (fun s b => (h s b).vit) l s⟩

theorem idlePort_apart (s : State) (i : Fin 16) : Apart s (idlePort s i) := ⟨rfl, rfl⟩

theorem idlePorts_apart (s : State) : Apart s (idlePorts s) := by
  unfold idlePorts
  exact Apart.foldl idlePort_apart _ s

theorem rmod_apart (s : State) (r : RegName) (i n : Nat) (f : W64 → W64) : Apart s (s.rmod r i n f) := ⟨rfl, rfl⟩

theorem rset_apart (s : State) (r : RegName) (i n : Nat) (v : W64) : Apart s (s.rset r i n v) := ⟨rfl, rfl⟩

theorem drainRing_apart (s : State) (r : Nat) : Apart s (drainRing s r) := ⟨rfl, rfl⟩

theorem breakSnapshot_apart (s : State) : Apart s (breakSnapshot s) := by
  unfold breakSnapshot
  split <;> exact ⟨rfl, rfl⟩

theorem forceSafe_apart (s : State) : Apart s (forceSafe s) := by
  unfold forceSafe
  exact ((idlePorts_apart s).trans (breakSnapshot_apart _)).trans ⟨rfl, rfl⟩

theorem logWrite_apart (s : State) (a b : RegName) (v : W64) : Apart s (logWrite s a b v) := by
  unfold logWrite
  split <;> exact ⟨rfl, rfl⟩

theorem enterMgmtOnly_apart (s : State) : Apart s (enterMgmtOnly s) := by
  unfold enterMgmtOnly setPwrState
  exact ((idlePorts_apart s).trans (rmod_apart _ _ _ _ _)).trans (rmod_apart _ _ _ _ _)

theorem drainRings_apart (l : List Nat) (s : State) : Apart s (l.foldl drainRing s) := Apart.foldl drainRing_apart l s

theorem floorCheck_apart (s : State) : Apart s (floorCheck s) := by
  have hlog (k : Nat) : Apart s ((logPwr s 0x0B08 (BitVec.ofNat 32 k)).rset .pwrFloor 0 0 (BitVec.ofNat 64 k)) :=
    (logWrite_apart s _ _ _).trans (rset_apart _ _ _ _ _)
  unfold floorCheck
  dsimp only
  split
  · exact (forceSafe_apart s).trans ⟨rfl, rfl⟩
  · split
    · exact Apart.refl s
    · split
      · have hd (l : List Nat) := ((hlog (floorMissing s)).trans (rmod_apart _ .glbStatus 0 0 fun v => setBit v 1 true)).trans
          (drainRings_apart l _)
        split
        · exact (hd _).trans (enterMgmtOnly_apart _)
        · exact hd _
      · exact (hlog _).trans (enterMgmtOnly_apart _)

theorem SameButMsgs.apart {s t : State} (h : SameButMsgs s t) : Apart s t := by
  rw [h.eq]
  exact ⟨rfl, rfl⟩

/-! ## Retirement (R52, R53, R245) -/

theorem alertManagement_apart (s : State) : Apart s (alertManagement s) :=
  ((pathRequest_same s 1).trans (pathRequest_same _ 2)).apart

theorem zeroBank_apart (s : State) (n : Nat) : Apart s (zeroBank s n) := by
  unfold zeroBank
  split <;> exact ⟨rfl, rfl⟩

/-- One owner after a dense reassignment. -/
theorem resetOwners_apart (s : State) : Apart s (resetOwners s) := by
  unfold resetOwners
  exact Apart.foldl (fun s n => (rmod_apart s _ _ _ _).trans (zeroBank_apart _ n)) _ s

theorem galleriesMoved_apart (old s : State) : Apart s (galleriesMoved old s) := by
  unfold galleriesMoved
  refine Apart.foldl (fun s n => ?_) _ s
  dsimp only
  split
  · split <;> exact ⟨rfl, rfl⟩
  · exact ⟨rfl, rfl⟩
  · exact ⟨rfl, rfl⟩
  · exact Apart.refl s

/-- What a retirement whose spare takes the logical index leaves of the map. -/
theorem takeRetirement_spare {s : State} {p q : Fin 72} (h : lowestSpare s = some q) :
    (takeRetirement s p).map = (s.map.set p.val ⟨2, 0⟩).set q.val ⟨0, s.map[p.val].logical⟩ := by
  unfold takeRetirement
  rw [h]
  dsimp only
  rw [(floorCheck_apart _).map]
  exact (alertManagement_apart _).map

theorem takeRetirement_vit (s : State) (p : Fin 72) : (takeRetirement s p).vit = s.vit := by
  unfold takeRetirement
  dsimp only
  rw [(floorCheck_apart _).vit]
  refine (alertManagement_apart _).vit.trans ?_
  rw [rmod_vit, retireStatus, rmod_vit]
  split
  · rfl
  · exact (resetOwners_apart _).vit.trans (galleriesMoved_apart _ _).vit

theorem findPhys (p : Fin 72) : (List.finRange 72).find? (fun q => decide (q.val = p.val)) = some p := by
  revert p
  decide +kernel

/-- A write of COR_RETIRE that is accepted. -/
theorem retireWrite_accepted {s : State} {v : W64} {p : Fin 72} (hg : bitB v 31 = true) (hi : bitsN v 0 7 = p.val)
    (hr : s.map[p.val].role = 0) (hn : s.host.retire = none) :
    retireWrite s v = match dispatchOfCore s p with
      | none => takeRetirement s p
      | some d =>
        if bitB v 8 && !d.done && !d.stopping && !d.aborted then
          coreFault (retireStatus { s with host := { s.host with retire := some p } } 1 0) p 7 ⟨0x010C, BitVec.ofNat 32 p.val⟩ 0
            ((streamOf (s.core p) 0).pc.zeroExtend 64)
        else retireStatus { s with host := { s.host with retire := some p } } 1 0 := by
  unfold retireWrite
  dsimp only
  rw [hg, hi, findPhys]
  simp only [Bool.not_true, Bool.false_eq_true, if_false, hr, hn, ne_eq, not_true_eq_false, Option.isSome_none] <;> rfl

theorem retire_leaves {w : Writer} {v : W32} {s : State} {p : Fin 72} (hw : Writable w (RegName.corRetire.at 0 0) s) (hg : bitB v 31 = true)
    (hi : bitsN v 0 7 = p.val) (hr : s.map[p.val].role = 0) (hn : s.host.retire = none) :
    let y := recorded s w .corRetire 0 0 4 (v.zeroExtend 64)
    (dispatchOfCore s p = none → Leaves (.corRetire w v) s (takeRetirement y p)) ∧
    (∀ d, dispatchOfCore s p = some d →
      let x := retireStatus { y with host := { y.host with retire := some p } } 1 0
      (bitB v 8 = false ∨ d.done = true ∨ d.stopping = true ∨ d.aborted = true → Leaves (.corRetire w v) s x) ∧
      (bitB v 8 = true → d.done = false → d.stopping = false → d.aborted = false →
        Leaves (.corRetire w v) s
          (coreFault x p 7 ⟨0x010C, BitVec.ofNat 32 p.val⟩ 0 ((streamOf (s.core p) 0).pc.zeroExtend 64)))) := by
  intro y
  have hv : y.vit = s.vit := recorded_vit s w .corRetire 0 0 4 (v.zeroExtend 64)
  have hd : dispatchOfCore y p = dispatchOfCore s p := by
    unfold dispatchOfCore
    rw [show y.host = s.host from recorded_host s w .corRetire 0 0 4 (v.zeroExtend 64)]
  have hacc := retireWrite_accepted (s := y) (v := v.zeroExtend 64) (p := p) (by simp [bitB_zeroExtend, hg]) (by rw [bitsN_zeroExtend, hi])
    (by rw [show y.map = s.map from recorded_map s w .corRetire 0 0 4 (v.zeroExtend 64)]; exact hr)
    (by rw [show y.host = s.host from recorded_host s w .corRetire 0 0 4 (v.zeroExtend 64)]; exact hn)
  rw [hd, show y.core p = s.core p from recorded_core s w .corRetire 0 0 4 (v.zeroExtend 64) p, bitB_zeroExtend] at hacc
  have leaves {x : State} (hx : retireWrite y (v.zeroExtend 64) = x) (hm : x.vit = y.vit) : Leaves (.corRetire w v) s x :=
    write32_leaves rfl hw (findReg_single _ (by decide)) rfl (by decide) hx (by rw [hm, hv])
  refine ⟨fun hnone => leaves ?_ (takeRetirement_vit y p), fun d hsome => ⟨fun h => leaves ?_ rfl, fun h8 h1 h2 h3 => leaves ?_ ?_⟩⟩
  · rw [hacc, hnone]
  · rw [hacc, hsome]
    dsimp only
    rw [if_neg]
    rcases h with h | h | h | h <;> simp [h]
  · rw [hacc, hsome]
    dsimp only
    rw [if_pos (by simp [h8, h1, h2, h3])]
  · rw [coreFault_vit]
    rfl

/-! ## Lane generators (R146, R147) -/

theorem coreNo_val (p : Fin 72) : coreNo p.val = p := Fin.ext (Nat.mod_eq_of_lt p.isLt)

theorem bitB_setBit8 (v : W32) : bitB ((setBit v 8 true).zeroExtend 64) 8 = true := by
  rw [bitB_zeroExtend, bitB_setBit_same v true (by decide)]
  rfl

theorem aligned_genCtl : ∀ p : Fin 72, alignedAccess (RegName.corVeGenCtl.at p.val 0) 4 = true := by decide

theorem reseed_leaves {w : Writer} {p : Fin 72} {v : W32} {s : State} (hw : Writable w (RegName.corVeGenCtl.at p.val 0) s) :
    let v' : W64 := (setBit v 8 true).zeroExtend 64
    let y := plainWrite (recorded s w .corVeGenCtl p.val 0 4 v') .corVeGenCtl p.val 0 v' 0xFFFFFFFF
    ((s.core p).runstate = 0 → Leaves (.reseed w p v) s (reseedCore y p)) ∧
    ((s.core p).runstate ≠ 0 → Leaves (.reseed w p v) s (y.modCore p fun c => { c with reseedPending := true })) := by
  intro v' y
  have hc : y.core p = s.core p := recorded_core s w .corVeGenCtl p.val 0 4 v' p
  have hv : y.vit = s.vit := recorded_vit s w .corVeGenCtl p.val 0 4 v'
  have leaves {x : State} (hx : genCtlEffect y p v' = x) (hm : x.vit = y.vit) : Leaves (.reseed w p v) s x := by
    refine write32_leaves rfl hw (findReg_genCtl p) rfl (aligned_genCtl p) ?_ (by rw [hm, hv])
    rw [← hx]
    show genCtlEffect _ (coreNo p.val) _ = _
    rw [coreNo_val]
  refine ⟨fun h => leaves ?_ rfl, fun h => leaves ?_ rfl⟩
  · unfold genCtlEffect
    rw [if_pos (bitB_setBit8 v), hc, if_pos h]
  · unfold genCtlEffect
    rw [if_pos (bitB_setBit8 v), hc, if_neg h]

theorem reseedAtIdle_leaves {p : Fin 72} {s : State} (h1 : (s.core p).reseedPending = true) (h2 : (s.core p).runstate = 0) :
    Leaves (.reseedAtIdle p) s (reseedCore s p) := by
  refine leaves_of ?_ rfl
  show answer s (reseedIfDue s p) = _
  unfold reseedIfDue
  rw [if_pos (by simp [h1, h2])]

/-- Whether the generators of a core step at every clock. -/
def runsFree (s : State) (p : Fin 72) : Prop := s.map[p.val].role = 0 ∧ (s.core p).freeRun = true

/-- One core in a clock of the free-running generators. -/
def stepFree (s : State) (p : Fin 72) : State := if s.map[p.val].role = 0 ∧ (s.core p).freeRun then s.modCore p stepGens else s

theorem stepFree_frame (s : State) (p : Fin 72) : stepFree s p = { s with cores := (stepFree s p).cores } := by
  unfold stepFree
  split <;> rfl

theorem stepFree_core (s : State) (p q : Fin 72) [Decidable (runsFree s p)] :
    (stepFree s p).core q = if q = p ∧ runsFree s p then stepGens (s.core p) else s.core q := by
  unfold stepFree runsFree
  by_cases h : s.map[p.val].role = 0 ∧ (s.core p).freeRun = true
  · rw [if_pos h]
    by_cases hq : q = p
    · rw [if_pos ⟨hq, h⟩, hq, modCore_core_same]
    · rw [if_neg fun e => hq e.1, modCore_core_other _ _ (Ne.symm hq)]
  · rw [if_neg h, if_neg fun e => h e.2]

theorem runsFree_stepFree {s : State} {p q : Fin 72} (h : q ≠ p) : runsFree (stepFree s p) q ↔ runsFree s q := by
  unfold runsFree
  classical rw [stepFree_core, if_neg fun e => h e.1, stepFree_frame]

theorem stepFrees_frame (l : List (Fin 72)) : ∀ s : State, l.foldl stepFree s = { s with cores := (l.foldl stepFree s).cores } := by
  induction l with
  | nil => exact fun _ => rfl
  | cons p t ih =>
    intro s
    rw [List.foldl_cons, ih (stepFree s p), stepFree_frame]

/-- Every core of a list steps its own generators, once. -/
theorem stepFrees_core (l : List (Fin 72)) (hl : l.Nodup) (q : Fin 72) [∀ s p, Decidable (runsFree s p)] : ∀ s : State,
    (l.foldl stepFree s).core q = if q ∈ l ∧ runsFree s q then stepGens (s.core q) else s.core q := by
  induction l with
  | nil => simp
  | cons p t ih =>
    intro s
    obtain ⟨hp, ht⟩ := List.nodup_cons.mp hl
    rw [List.foldl_cons, ih ht, stepFree_core]
    by_cases hq : q = p
    · subst hq
      simp [hp]
    · simp [hq, runsFree_stepFree hq]

theorem freeRunning_leaves {s : State} (h2 : pwrState s = 2) (hd : domOn s 0 = true) :
    ∃ x, Leaves .freeRunningStep s x ∧ x = { s with cores := x.cores } ∧
      ∀ p, x.core p = if s.map[p.val].role = 0 ∧ (s.core p).freeRun = true then stepGens (s.core p) else s.core p := by
  refine ⟨(List.finRange 72).foldl stepFree s, leaves_of ?_ ?_, stepFrees_frame _ s, fun p => ?_⟩
  · show execFreeRunningStep s = _
    unfold execFreeRunningStep
    rw [if_pos ⟨h2, hd⟩]
    rfl
  · rw [stepFrees_frame]
  · classical rw [stepFrees_core _ (List.nodup_finRange 72)]
    simp [runsFree]

/-! ## Handover, swizzle, scrubber (R219, R224 to R227) -/

theorem findReg_vtrOwn (n : Fin 64) : findReg (RegName.vtrOwn.at 0 n.val) = some ⟨.vtrOwn, 0, n.val, false⟩ :=
  findReg_vtr _ (by decide) n

theorem aligned_vtr : ∀ n : Fin 64, alignedAccess (RegName.vtrOwn.at 0 n.val) 8 = true ∧ alignedAccess (RegName.vtrSwz.at 0 n.val) 4 = true := by
  decide

theorem handover_leaves {w : Writer} {n : Fin 64} {v : W64} {s : State} (hw : Writable w (RegName.vtrOwn.at 0 n.val) s)
    (ho : ownerOk s (bitsN v 0 8) = true) (hp : bitB (s.rget .vtrOwn 0 n.val) 30 = false) (h31 : bitB (s.rget .vtrOwn 0 n.val) 31 = true)
    (hs : bitsN (s.rget .vtrOwn 0 n.val) 0 8 ≠ 0x42 ∨ w = .curator) :
    let y := (recorded s w .vtrOwn 0 n.val 8 v).rmod .vtrOwn 0 n.val fun x =>
      setBit (setBits (setBits (setBit x 29 false) 0 8 (bitsN v 0 8)) 32 16 (bitsN x 32 16 + 1)) 30 (bitB v 16)
    Leaves (.handover w n v) s (if bitB v 16 then zeroBank y n.val else y) := by
  intro y
  have hr : (recorded s w .vtrOwn 0 n.val 8 v).regs = s.regs := recorded_regs s w .vtrOwn 0 n.val 8 v rfl rfl
  have hg : (recorded s w .vtrOwn 0 n.val 8 v).rget .vtrOwn 0 n.val = s.rget .vtrOwn 0 n.val := by
    unfold State.rget
    rw [hr]
  have hown : ownerOk (recorded s w .vtrOwn 0 n.val 8 v) (bitsN v 0 8) = true := by
    rw [← ho]
    unfold ownerOk enabledCount
    rw [recorded_map]
  have href : handoverRefused (recorded s w .vtrOwn 0 n.val 8 v) w n.val (bitsN v 0 8) = false := by
    unfold handoverRefused
    dsimp only
    rw [hg, hown, hp, h31]
    rcases hs with hs | hs <;> simp [hs]
  refine write64_leaves rfl hw (findReg_vtrOwn n) rfl (aligned_vtr n).1 ?_ ?_
  · show handoverWrite (recorded s w .vtrOwn 0 n.val 8 v) w n.val v = _
    unfold handoverWrite
    rw [href]
    rfl
  · have hv : y.vit = s.vit := recorded_vit s w .vtrOwn 0 n.val 8 v
    split
    · rw [(zeroBank_apart y n.val).vit, hv]
    · rw [hv]

theorem swizzle_leaves {w : Writer} {n : Fin 64} {v : W32} {s : State} {p : Fin 72} (hw : Writable w (RegName.vtrSwz.at 0 n.val) s)
    (hp : physOf s n.val = some p) (hr : (s.core p).runstate = 0) (ho : bitB (s.rget .vtrOwn 0 n.val) 30 = false) :
    Leaves (.swizzleWrite w n v) s
      ((recorded s w .vtrSwz 0 n.val 4 (v.zeroExtend 64)).rset .vtrSwz 0 n.val (BitVec.ofNat 64 (bitsN v 0 2))) := by
  have hg : (recorded s w .vtrSwz 0 n.val 4 (v.zeroExtend 64)).rget .vtrOwn 0 n.val = s.rget .vtrOwn 0 n.val := by
    unfold State.rget
    rw [recorded_regs s w .vtrSwz 0 n.val 4 (v.zeroExtend 64) rfl rfl]
  have hok : swizzleOk (recorded s w .vtrSwz 0 n.val 4 (v.zeroExtend 64)) n.val = true := by
    unfold swizzleOk physOf
    rw [recorded_map, hg, ho, show (List.finRange 72).find? _ = some p from hp]
    dsimp only
    rw [recorded_core, hr]
    rfl
  refine write32_leaves rfl hw (findReg_vtr _ (by decide) n) rfl (aligned_vtr n).2 ?_ ?_
  · show swizzleSet _ n.val _ = _
    unfold swizzleSet
    rw [if_pos hok, bitsN_zeroExtend]
  · rw [rset_vit, recorded_vit]

theorem putFree_vit (s : State) (a : Nat) : (putFree s a).vit = s.vit := putByte_vit _ _ _

theorem freeBytes_vit (s : State) (a n : Nat) : (freeBytes s a n).vit = s.vit :=
  foldl_keeps (fun s i => putFree s (a + i)) State.vit (fun s i => putFree_vit s (a + i)) _ s

theorem logVtrUe_vit (s : State) (owner src n o : Nat) : (logVtrUe s owner src n o).vit = s.vit := by
  unfold logVtrUe
  dsimp only
  split <;> split <;> rfl

theorem wordRead_vit (owner src : Nat) (s : State) (w : Nat) : (wordRead owner src s w).1.vit = s.vit := by
  unfold wordRead
  split
  · split
    · rfl
    · rfl
    · split
      · exact logVtrUe_vit _ _ _ _ _
      · exact freeBytes_vit _ _ _
  · rfl

/-- The address at which window n shows a word of storage. -/
def shownAt (s : State) (w n : Nat) : Nat := vtrBase + n * 2 ^ 24 + keyOffset (s.rget .vtrSwz 0 n) (8 * w)

/-- What the scrubber does to a word of gallery g. -/
def scrubGallery (s : State) (w g : Nat) : State :=
  if h : g < 72 then (logicalOf s ⟨g, h⟩).elim s fun n => (wordRead 0xFF 1 s (shownAt s w n)).1 else s

theorem scrubWord_eq (s : State) (w : Nat) : scrubWord s w = (keyGallery (8 * w)).elim s (scrubGallery s w) := rfl

theorem scrubGallery_vit (s : State) (w g : Nat) : (scrubGallery s w g).vit = s.vit := by
  unfold scrubGallery
  by_cases h : g < 72
  · rw [dif_pos h]
    cases logicalOf s ⟨g, h⟩ with
    | none => rw [Option.elim_none]
    | some n => rw [Option.elim_some, wordRead_vit]
  · rw [dif_neg h]

theorem scrubWord_vit (s : State) (w : Nat) : (scrubWord s w).vit = s.vit := by
  rw [scrubWord_eq]
  cases keyGallery (8 * w) with
  | none => rw [Option.elim_none]
  | some g => rw [Option.elim_some, scrubGallery_vit]

theorem patrolScrub_leaves {s : State} (h1 : bitB (s.rget .vtrScrubCtl 0 0) 31 = true) (h2 : pwrState s = 2) :
    Leaves .patrolScrub s ((s.galErr.map (·.1)).foldl scrubWord s) := by
  refine leaves_of ?_ ?_
  · show execPatrolScrub s = _
    unfold execPatrolScrub
    rw [if_pos (by simp [h1, h2])]
  · rw [foldl_keeps scrubWord State.vit scrubWord_vit]

/-! ## The end of a wait (R227) -/

theorem orHold_met (s : State) (a : HeldAccess) (t : State) : (orHold s a t).vit.met = s.vit.met := by
  unfold orHold
  split
  · next h => simpa [metNothing] using h
  · rfl

theorem applyHeld_met (s : State) (a : HeldAccess) : (applyHeld s a).vit.met = s.vit.met := by
  unfold applyHeld
  split
  · rfl
  · rfl
  · rfl
  · rfl
  · rfl
  · split
    · rfl
    · exact orHold_met _ _ _
  · exact orHold_met _ _ _

theorem applyAllHeld_met (s : State) : (applyAllHeld s).vit.met = s.vit.met := by
  unfold applyAllHeld
  rw [foldl_keeps applyHeld (fun s : State => s.vit.met) applyHeld_met]

theorem logCur_vit (s : State) (code : BitVec 16) (d : W32) : (logCur s code d).vit = s.vit := (logWrite_apart s _ _ _).vit

theorem regRead_vit (s : State) (r : RegName) (k n : Nat) : (regRead s r k n).2.vit = s.vit := by
  obtain ⟨f, d, q, h⟩ := regRead_frame s r k n
  rw [h]

/-- A change that is recorded keeps the waits where the change does. -/
theorem withRecord_vit {f : State → State} (hf : ∀ x, (f x).vit = x.vit) (s : State) (w : Writer) (size off : Nat) (old new : W64) :
    (withRecord s w size off old new f).vit = s.vit := by
  unfold withRecord
  split
  · exact logCur_vit _ _ _
  · exact hf _

theorem ownChange_vit (s : State) (r : RegName) (i n : Nat) (v m : W64) : (ownChange s r i n v m).vit = s.vit := by
  unfold ownChange
  dsimp only
  split
  · rfl
  · split
    · rfl
    · exact withRecord_vit (fun x => rset_vit x r i n _) _ _ _ _ _ _

theorem refuseGo_vit (s : State) (off : Nat) (v : W64) : (refuseGo s off v).vit = s.vit := by
  unfold refuseGo
  split
  · rfl
  · split
    · exact logCur_vit _ _ _
    · exact logCur_vit _ _ _

theorem recordRefusal_vit (s : State) (h : HeldWrite) : (recordRefusal s h).vit = s.vit := by
  unfold recordRefusal
  split
  · dsimp only
    rw [withRecord_vit (fun _ => refuseGo_vit _ _ _), regRead_vit]
  · rfl

theorem heldReply_vit (s : State) (h : HeldWrite) (b : Byte) : (heldReply s h b).vit = s.vit := by
  unfold heldReply portReply
  split
  · split <;> rfl
  · rfl

theorem releaseWrite_met (s : State) (h : HeldWrite) : (releaseWrite s h).vit.met = s.vit.met := by
  unfold releaseWrite
  split
  · split
    · rw [ownChange_vit]
    · rfl
  · split
    · rw [heldReply_vit, recordRefusal_vit]
    · split
      · rw [heldReply_vit]
      · dsimp only
        split
        · next hm =>
          rw [heldReply_vit]
          simpa [metNothing] using hm
        · rfl

theorem releaseWrites_met (s : State) : (releaseWrites s).vit.met = s.vit.met := by
  unfold releaseWrites
  rw [foldl_keeps releaseWrite (fun s : State => s.vit.met) releaseWrite_met]

/-- What is tried again meets its waits anew, and what meets one goes on waiting. -/
theorem releaseHolds_met (s : State) : (releaseHolds s).vit.met = s.vit.met := by
  have pumps (l : List (Fin 72)) (x : State) :
      (l.foldl (fun s p => if coreWorks s p then pumpQueues p s else s) x).vit.met = x.vit.met :=
    foldl_keeps _ (fun s : State => s.vit.met) (fun s p => by
      split
      · exact pumpQueues_met p s
      · rfl) l x
  have held (x : State) : (if sleeping x then x else applyAllHeld x).vit.met = x.vit.met := by
    split
    · rfl
    · exact applyAllHeld_met x
  have released (x : State) : (if x.cur.wipe.isSome then x else releaseWrites x).vit.met = x.vit.met := by
    split
    · rfl
    · exact releaseWrites_met x
  exact (released _).trans ((held _).trans (pumps _ _))

theorem handoverWipeDone_leaves (n : Fin 64) (s : State) :
    (bitB (s.rget .vtrOwn 0 n.val) 30 = true →
      Leaves (.handoverWipeDone n) s (releaseHolds (s.rmod .vtrOwn 0 n.val fun x => setBit x 30 false))) ∧
    (bitB (s.rget .vtrOwn 0 n.val) 30 = false → Leaves (.handoverWipeDone n) s s) := by
  refine ⟨fun h => leaves_of ?_ (by rw [releaseHolds_met, rmod_vit]), fun h => leaves_of ?_ rfl⟩
  · show execHandoverWipeDone n s = _
    unfold execHandoverWipeDone
    rw [if_pos h]
  · show execHandoverWipeDone n s = _
    unfold execHandoverWipeDone
    rw [if_neg (by simp [h])]

theorem retirementTakesEffect_leaves {s : State} {p : Fin 72} (hr : s.host.retire = some p) (hd : dispatchOfCore s p = none) :
    Leaves .retirementTakesEffect s (takeRetirement s p) := by
  refine leaves_of ?_ (by rw [takeRetirement_vit])
  show execRetirementTakesEffect s = _
  unfold execRetirementTakesEffect
  rw [hr]
  dsimp only
  rw [hd]
  rfl

/-- Settles O43: each write and event by its row, on the state that holds the write's record. -/
theorem coreAndVitrineWrites : Obligations.CoreAndVitrineWrites := by
  unfold Obligations.CoreAndVitrineWrites
  exact ⟨fun _ _ _ _ => retire_leaves, fun _ _ => retirementTakesEffect_leaves, fun _ _ _ _ => takeRetirement_spare,
    fun _ _ _ _ => reseed_leaves, fun _ _ => reseedAtIdle_leaves, fun _ => freeRunning_leaves, fun _ _ _ _ => handover_leaves,
    fun n s => (handoverWipeDone_leaves n s).1, fun n s => (handoverWipeDone_leaves n s).2, fun _ _ _ _ _ => swizzle_leaves,
    fun _ => patrolScrub_leaves⟩

end Sys2Proof.Machine

/-! # The commands of a ring (R242, R243, R248, R252, R301 to R306, R312, R313) -/

namespace Sys2Proof.Machine

/-! ## A command that may start -/

/-- The row of a command that may start. -/
theorem runCmd_started {ring : Nat} {index : W32} {op : Nat} {s : State} {c : Cmd} (f : State → Cmd → State)
    (hc : startable s ring index op = some c) : runCmd ring index op s f = answer s (f s c) := by
  unfold runCmd
  rw [hc]

/-- Asking host memory meets nothing that makes an access wait. -/
theorem askReads_vit (n : Nat) : ∀ s : State, (askReads n s).vit = s.vit := by
  induction n with
  | zero => exact fun _ => rfl
  | succ n ih =>
    intro s
    unfold askReads
    split
    · rfl
    · next t ht =>
      rw [ih]
      unfold askNext at ht
      split at ht
      · cases ht
      · obtain ⟨r, -, rfl⟩ := Option.map_eq_some_iff.mp ht
        rfl

theorem hostRead_vit (s : State) (use : HostUse) (addr len : Nat) : (hostRead s use addr len).vit = s.vit := askReads_vit _ _

section
variable {ring : Nat} {index : W32} {s : State} {c : Cmd}

theorem runningCmd_vit (s : State) (c : Cmd) (f : Cmd → Cmd) : (runningCmd s c f).vit = s.vit := rfl

theorem hostCopyReason_none {v : View} (ha : opField c 0x10 8 % 64 = 0) (hn : opField c 0x18 8 = v.desc.dataBytes) :
    hostCopyReason c v = none := by
  unfold hostCopyReason
  rw [if_neg (not_not_intro ha), if_neg (not_not_intro hn)]

/-- A COPY_IN that may start: the record is that of the handle that its own entry names. -/
theorem copyIn_leaves {dst : View} {x : State} (hc : startable s ring index 8 = some c)
    (ho : openView .ring s ((opHandle c 8).zeroExtend 64) = (x, .ok dst)) (hu : Unheld s x) (hd : dst.destOk = true)
    (ha : opField c 0x10 8 % 64 = 0) (hn : opField c 0x18 8 = dst.desc.dataBytes) :
    Leaves (.copyIn ring index) s (runningCmd
      (hostRead (useBegin x dst.entry) (.command ring index 1) (opField c 0x10 8) (opField c 0x18 8)) c fun d =>
        { d with record := (descGet x (bitsN (opHandle c 8) 0 20)).record, uses := [dst.entry] }) := by
  refine leaves_of ?_ (by rw [runningCmd_vit, hostRead_vit]; exact hu)
  show execCopyIn ring index s = _
  rw [execCopyIn, runCmd_started _ hc]
  dsimp only
  rw [ho]
  dsimp only
  rw [hd, hostCopyReason_none ha hn, if_neg (by simp)]

end

/-! ## Two commands of one place

The statement's row of COPY_IN takes the slot of the record from each command that stands at the ring and index, the model takes it from the
command that starts. A table with two commands of one place tells them apart. -/

open Sys2Proof.Tests

/-- `ringSt` with two COPY_IN at index 5 of ring 37, of descriptors 1 and 0. -/
def twinSt : State := { ringSt with host := { ringSt.host with cmds := [cmdOf 8 0x100001 0x40 4, cmdOf 8 0x100000 0x40 4] } }

/-- Reading host memory leaves the command table. -/
theorem askReads_cmds (n : Nat) : ∀ s : State, (askReads n s).host.cmds = s.host.cmds := by
  induction n with
  | zero => exact fun _ => rfl
  | succ n ih =>
    intro s
    unfold askReads
    split
    · rfl
    · next t ht =>
      rw [ih]
      unfold askNext at ht
      split at ht
      · cases ht
      · obtain ⟨r, -, rfl⟩ := Option.map_eq_some_iff.mp ht
        rfl

theorem runningRead_cmds (s : State) (use : HostUse) (addr len : Nat) (c : Cmd) (f : Cmd → Cmd) :
    (runningCmd (hostRead s use addr len) c f).host.cmds =
      s.host.cmds.map fun d => if d.ring = c.ring ∧ d.index = c.index then f { d with state := .running } else d := by
  show List.map _ (askReads 1024 _).host.cmds = _
  rw [askReads_cmds]

theorem twinSt_opens : ∃ x, openView .ring twinSt ((opHandle (cmdOf 8 0x100001 0x40 4) 8).zeroExtend 64) = (x, .ok (viewN 1)) ∧
    x.vit.met = twinSt.vit.met ∧ x.host.cmds = twinSt.host.cmds ∧ (descGet x 0).record ≠ (descGet x 1).record := by
  obtain ⟨b, e⟩ := openView_as .ring twinSt ((opHandle (cmdOf 8 0x100001 0x40 4) 8).zeroExtend 64)
  have h : opened (viewN 1) (openAs b .ring twinSt ((opHandle (cmdOf 8 0x100001 0x40 4) 8).zeroExtend 64)).2 = true ∧
      (openAs b .ring twinSt ((opHandle (cmdOf 8 0x100001 0x40 4) 8).zeroExtend 64)).1.vit.met = twinSt.vit.met ∧
      (openAs b .ring twinSt ((opHandle (cmdOf 8 0x100001 0x40 4) 8).zeroExtend 64)).1.host.cmds = twinSt.host.cmds ∧
      (descGet (openAs b .ring twinSt ((opHandle (cmdOf 8 0x100001 0x40 4) 8).zeroExtend 64)).1 0).record ≠
        (descGet (openAs b .ring twinSt ((opHandle (cmdOf 8 0x100001 0x40 4) 8).zeroExtend 64)).1 1).record := by
    clear e
    revert b
    decide +kernel
  obtain ⟨hv, hrest⟩ := h
  exact ⟨_, by rw [e, ← opened_ok hv], hrest⟩

theorem twinHandles : bitsN (opHandle { cmdOf 8 0x100000 0x40 4 with state := .running } 8) 0 20 = 0 ∧
    bitsN (opHandle (cmdOf 8 0x100001 0x40 4) 8) 0 20 = 1 := by
  decide +kernel

/-- What a change of the commands at that place makes of the second one's record. -/
theorem twinSt_second (f : Cmd → Cmd) :
    ((twinSt.host.cmds.map fun d => if d.ring = (cmdOf 8 0x100001 0x40 4).ring ∧ d.index = (cmdOf 8 0x100001 0x40 4).index then
      f { d with state := .running } else d).getLast?.map Cmd.record) = some (f { cmdOf 8 0x100000 0x40 4 with state := .running }).record := rfl

/-- Refutes O45: where two commands stand at one place of the table, the row of COPY_IN gives the second the record of its own handle, and
the machine the record of the first one's. -/
theorem not_ringCommandRows : ¬ Obligations.RingCommandRows := by
  unfold Obligations.RingCommandRows
  intro h
  obtain ⟨-, -, -, -, -, -, -, -, hcopy, -, -⟩ := h 37 5 twinSt (cmdOf 8 0x100001 0x40 4)
  obtain ⟨x, ho, hm, hcmds, hne⟩ := twinSt_opens
  have hst : startable twinSt 37 5 8 = some (cmdOf 8 0x100001 0x40 4) := by decide +kernel
  have hd : (viewN 1).destOk = true := by decide +kernel
  have ha : opField (cmdOf 8 0x100001 0x40 4) 0x10 8 % 64 = 0 := by decide +kernel
  have hn : opField (cmdOf 8 0x100001 0x40 4) 0x18 8 = (viewN 1).desc.dataBytes := by decide +kernel
  have hsaid := hcopy (viewN 1) x hst ho hm hd ha hn
  have hdone := copyIn_leaves hst ho hm hd ha hn
  have hstates := (Eq.symm hsaid).trans hdone
  injection hstates with hstates
  have hsame := congrArg (fun s : State => s.host.cmds) hstates
  simp only [summaryRise_host_cmds, runningRead_cmds] at hsame
  rw [show (useBegin x (viewN 1).entry).host.cmds = twinSt.host.cmds from hcmds] at hsame
  have hsecond : some (descGet x (bitsN (opHandle { cmdOf 8 0x100000 0x40 4 with state := .running } 8) 0 20)).record =
      some (descGet x (bitsN (opHandle (cmdOf 8 0x100001 0x40 4) 8) 0 20)).record :=
    (twinSt_second fun d => { d with record := (descGet x (bitsN (opHandle d 8) 0 20)).record, uses := [(viewN 1).entry] }).symm.trans
      (congrArg (fun l : List Cmd => l.getLast?.map Cmd.record) hsame)
  rw [twinHandles.1, twinHandles.2] at hsecond
  exact hne (Option.some.inj hsecond)

end Sys2Proof.Machine

/-! # The flow of a ring (R243, R287, R291, R295 to R300, R307, R308, R311) -/

namespace Sys2Proof.Machine

/-! ## What meets no wait -/

theorem sendMsix_vit (s : State) (v : Nat) : (sendMsix s v).vit = s.vit := (sendMsix_same s v).apart.vit

theorem logAcn_vit (s : State) (code : BitVec 16) (ring : Nat) : (logAcn s code ring).vit = s.vit := by
  unfold logAcn
  dsimp only
  split
  · rw [sendMsix_vit, (logWrite_apart s _ _ _).vit]
  · exact (logWrite_apart s _ _ _).vit

theorem ctxStatus_vit (s : State) (a b : Nat) : (ctxStatus s a b).vit = s.vit := rfl

theorem tokenFailed_vit (s : State) : (tokenFailed s).vit = s.vit := by
  unfold tokenFailed
  split
  · rfl
  · exact logCur_vit _ _ _

theorem firmwareFailed_vit (s : State) (f : Flt) : (firmwareFailed s f).vit = s.vit := by
  unfold firmwareFailed
  exact logCur_vit _ _ _

theorem failCmd_vit (s : State) (c : Cmd) (f : Flt) : (failCmd s c f).vit = s.vit := rfl

theorem registrarFailed_vit (s : State) (rd : HostRead) (b : Bool) : (registrarFailed s rd b).vit = s.vit := by
  have inError (r : Nat) : (if (ringGet s r).state = 1 then ringPut s r { ringGet s r with state := 2 } else s).vit = s.vit := by
    split <;> rfl
  unfold registrarFailed
  dsimp only
  split
  · rw [logAcn_vit]
    rfl
  · rw [logAcn_vit, inError]
  · rw [logAcn_vit, inError]
  · split
    · rw [logAcn_vit]
    · rw [logAcn_vit]
      split
      · rw [failCmd_vit, usesEnd_vit]
      · rfl
  · rfl

theorem countReadErr_vit (s : State) (b : Bool) : (countReadErr s b).vit = s.vit := rfl

theorem readFailed_vit (s : State) (rd : HostRead) (b : Bool) : (readFailed s rd b).vit = s.vit := by
  unfold readFailed
  dsimp only
  split
  · rw [firmwareFailed_vit, countReadErr_vit]
  · rw [tokenFailed_vit, countReadErr_vit]
  · rw [registrarFailed_vit, countReadErr_vit]

theorem takeReq_vit {s s1 : State} {id : Nat} {q : HostReq} (h : takeReq s id = some (q, s1)) : s1.vit = s.vit := by
  obtain ⟨r, -, hr⟩ := Option.map_eq_some_iff.mp h
  cases hr
  rfl

theorem aerNote_vit (s : State) (b : Nat) : (aerNote s b).vit = s.vit := rfl

theorem poison_vit (c : Prop) [Decidable c] (s : State) : (if c then aerNote s 12 else s).vit = s.vit := by
  split <;> rfl

theorem dropRead_vit (s : State) (rd : HostRead) : (dropRead s rd).vit = s.vit := rfl

/-! ## Doorbells (R288, R291, R296, R299) -/

theorem bar2_link {s : State} (h : bar2Served s = true) : hostLink s = true := by
  unfold bar2Served hostReaches at h
  simp only [Bool.and_eq_true] at h
  exact h.1.1.1.1.1

/-- An access of BAR2 that is served, by the register that it names. -/
theorem doorbell_served {off size : Nat} {value : Option W64} {poison : Bool} {s : State} {r : Nat} {lo hi : Bool}
    (h : bar2Served s = true) (ho : off < 2 ^ 23) (hd : doorbellAt off size = some (r, lo, hi)) :
    exec (.doorbell off size value poison) s = answer s (match value with
      | none => doorbellRead s r lo hi
      | some v => if poison then aerNote s 12 else doorbellWrite s r (if lo then v else v <<< 32) lo hi) := by
  show execDoorbell off size value poison s = _
  unfold execDoorbell
  rw [if_neg (by rw [bar2_link h]; simp; omega), if_pos h, hd]
  cases value <;> rfl

theorem doorbellAt_whole (r : Nat) : doorbellAt (8 * r) 8 = some (r, true, true) := by
  unfold doorbellAt
  rw [if_pos (by omega), show 8 * r / 8 = r by omega, show 8 * r % 8 = 0 by omega]
  rfl

theorem doorbellAt_low (r : Nat) : doorbellAt (8 * r) 4 = some (r, true, false) := by
  unfold doorbellAt
  rw [if_pos (by omega), show 8 * r / 8 = r by omega, show 8 * r % 8 = 0 by omega]
  rfl

theorem doorbellAt_high (r : Nat) : doorbellAt (8 * r + 4) 4 = some (r, false, true) := by
  unfold doorbellAt
  rw [if_pos (by omega), show (8 * r + 4) / 8 = r by omega, show (8 * r + 4) % 8 = 4 by omega]
  rfl

/-- The halves that an access of BAR2 covers: all of it, the low one, the high one. -/
theorem doorbellAt_half (r : Nat) (half : Fin 3) : doorbellAt (8 * r + if half = 2 then 4 else 0) (if half = 0 then 8 else 4) =
    some (r, decide (half ≠ 2), decide (half ≠ 1)) := by
  match half with
  | 0 => exact doorbellAt_whole r
  | 1 => exact doorbellAt_low r
  | 2 => exact doorbellAt_high r

theorem extract_low (v : W64) : (v <<< 32).extractLsb' 32 32 = v.extractLsb' 0 32 := by
  apply BitVec.eq_of_getLsbD_eq
  intro i hi
  simp only [BitVec.getLsbD_extractLsb', BitVec.getLsbD_shiftLeft, hi, decide_true, Bool.true_and]
  simp [show 32 + i < 64 by omega]

/-- The indices that a doorbell carries, by the half that it covers. -/
def newPi (half : Fin 3) (value : W64) (x : Ring) : W32 := if half ≠ 2 then value.extractLsb' 0 32 else x.pi
def newCci (half : Fin 3) (value : W64) (x : Ring) : W32 :=
  if half = 0 then value.extractLsb' 32 32 else if half = 2 then value.extractLsb' 0 32 else x.cci

/-- A doorbell whose indices leave the order of R299. -/
def badIndices (x : Ring) (pi cci : W32) : Prop := x.size < (pi - cci).toNat ∨ idxBelow pi x.fi = true ∨ idxBelow x.cpi cci = true

theorem ringDoorbell_eq (s : State) (r : Nat) (half : Fin 3) (value : W64) [Decidable (badIndices (ringGet s r)
      (newPi half value (ringGet s r)) (newCci half value (ringGet s r)))] :
    ringDoorbell s r (if half = 2 then value <<< 32 else value) (decide (half ≠ 2)) (decide (half ≠ 1)) =
      if badIndices (ringGet s r) (newPi half value (ringGet s r)) (newCci half value (ringGet s r)) then
        logAcn (ringPut s r { ringGet s r with state := 2 }) 0x0702 r
      else ringPut s r { ringGet s r with pi := newPi half value (ringGet s r), cci := newCci half value (ringGet s r) } := by
  have hpi : (if decide (half ≠ 2) = true then (if half = 2 then value <<< 32 else value).extractLsb' 0 32 else (ringGet s r).pi) =
      newPi half value (ringGet s r) := by
    match half with
    | 0 => rfl
    | 1 => rfl
    | 2 => rfl
  have hcci : (if decide (half ≠ 1) = true then (if half = 2 then value <<< 32 else value).extractLsb' 32 32 else (ringGet s r).cci) =
      newCci half value (ringGet s r) := by
    match half with
    | 0 => rfl
    | 1 => rfl
    | 2 => exact extract_low value
  unfold ringDoorbell
  dsimp only
  rw [hpi, hcci]
  refine if_congr ?_ rfl rfl
  simp only [badIndices, Bool.or_eq_true, decide_eq_true_eq, or_assoc]

/-- A doorbell that may take effect at once. -/
theorem doorbell_applies {ring : Fin (2 ^ 20)} {half : Fin 3} {value : W64} {s : State} (h : bar2Served s = true) (hs : sleeping s = false) :
    exec (.doorbell (8 * ring.val + if half = 2 then 4 else 0) (if half = 0 then 8 else 4) (some value) false) s =
      answer s (if writeHeld s then
        holdAccess s (.doorbell ring.val (if half = 2 then value <<< 32 else value) (decide (half ≠ 2)) (decide (half ≠ 1)))
      else applyDoorbell s ring.val (if half = 2 then value <<< 32 else value) (decide (half ≠ 2)) (decide (half ≠ 1))) := by
  have hv : (if decide (half ≠ 2) = true then value else value <<< 32) = if half = 2 then value <<< 32 else value := by
    by_cases h2 : half = 2 <;> simp [h2]
  have hoff : (8 * ring.val + if half = 2 then 4 else 0) < 2 ^ 23 := by
    have := ring.isLt
    split <;> omega
  rw [doorbell_served h hoff (doorbellAt_half ring.val half)]
  dsimp only
  rw [if_neg Bool.false_ne_true, hv]
  unfold doorbellWrite
  rw [if_neg (by rw [hs]; exact Bool.false_ne_true)]

theorem doorbell_poisoned {ring : Fin (2 ^ 20)} {half : Fin 3} {value : W64} {s : State} (h : bar2Served s = true) :
    Leaves (.doorbell (8 * ring.val + if half = 2 then 4 else 0) (if half = 0 then 8 else 4) (some value) true) s (aerNote s 12) := by
  have hoff : (8 * ring.val + if half = 2 then 4 else 0) < 2 ^ 23 := by
    have := ring.isLt
    split <;> omega
  refine leaves_of ?_ rfl
  rw [doorbell_served h hoff (doorbellAt_half ring.val half)]
  rfl

section
variable {ring : Fin (2 ^ 20)} {half : Fin 3} {value : W64} {s : State} (h : bar2Served s = true) (hs : sleeping s = false)
include h hs

theorem doorbell_held (hw : writeHeld s = true) :
    Leaves (.doorbell (8 * ring.val + if half = 2 then 4 else 0) (if half = 0 then 8 else 4) (some value) false) s
      (holdAccess s (.doorbell ring.val (if half = 2 then value <<< 32 else value) (decide (half ≠ 2)) (decide (half ≠ 1)))) := by
  refine leaves_of ?_ rfl
  rw [doorbell_applies h hs, if_pos hw]

variable (hw : writeHeld s = false) (h1 : (ringGet s ring.val).state = 1)
include hw h1

/-- A doorbell on an ENABLED ring, by what the cache holds. -/
theorem doorbell_enabled :
    exec (.doorbell (8 * ring.val + if half = 2 then 4 else 0) (if half = 0 then 8 else 4) (some value) false) s =
      answer s (if (ringGet s ring.val).cached then
        ringDoorbell (s.rcountSat .acnCacheStat 0 0 0 32 1) ring.val (if half = 2 then value <<< 32 else value) (decide (half ≠ 2)) (decide (half ≠ 1))
      else if missRead s ring.val then
        joinMiss (s.rcountSat .acnCacheStat 0 0 32 32 1) ring.val
          (if half = 2 then value <<< 32 else value, decide (half ≠ 2), decide (half ≠ 1))
      else hostRead (s.rcountSat .acnCacheStat 0 0 32 32 1)
        (.miss ring.val [(if half = 2 then value <<< 32 else value, decide (half ≠ 2), decide (half ≠ 1))]) (contextAddr s ring.val) 64) := by
  rw [doorbell_applies h hs, if_neg (by rw [hw]; exact Bool.false_ne_true)]
  unfold applyDoorbell
  dsimp only
  rw [if_neg (not_not_intro h1)]

theorem doorbell_moves (hc : (ringGet s ring.val).cached = true)
    (hb : ¬ badIndices (ringGet s ring.val) (newPi half value (ringGet s ring.val)) (newCci half value (ringGet s ring.val))) :
    Leaves (.doorbell (8 * ring.val + if half = 2 then 4 else 0) (if half = 0 then 8 else 4) (some value) false) s
      (ringPut (s.rcountSat .acnCacheStat 0 0 0 32 1) ring.val
        { ringGet s ring.val with pi := newPi half value (ringGet s ring.val), cci := newCci half value (ringGet s ring.val) }) := by
  classical
  refine leaves_of ?_ rfl
  rw [doorbell_enabled h hs hw h1, if_pos hc, ringDoorbell_eq]
  exact congrArg (answer s) (if_neg hb)

theorem doorbell_refused (hc : (ringGet s ring.val).cached = true)
    (hb : badIndices (ringGet s ring.val) (newPi half value (ringGet s ring.val)) (newCci half value (ringGet s ring.val))) :
    Leaves (.doorbell (8 * ring.val + if half = 2 then 4 else 0) (if half = 0 then 8 else 4) (some value) false) s
      (logAcn (ringPut (s.rcountSat .acnCacheStat 0 0 0 32 1) ring.val { ringGet s ring.val with state := 2 }) 0x0702 ring.val) := by
  classical
  refine leaves_of ?_ (by rw [logAcn_vit]; rfl)
  rw [doorbell_enabled h hs hw h1, if_pos hc, ringDoorbell_eq]
  exact congrArg (answer s) (if_pos hb)

theorem doorbell_missed (hc : (ringGet s ring.val).cached = false) (hm : missRead s ring.val = false) :
    Leaves (.doorbell (8 * ring.val + if half = 2 then 4 else 0) (if half = 0 then 8 else 4) (some value) false) s
      (hostRead (s.rcountSat .acnCacheStat 0 0 32 32 1)
        (.miss ring.val [(if half = 2 then value <<< 32 else value, decide (half ≠ 2), decide (half ≠ 1))]) (contextAddr s ring.val) 64) := by
  refine leaves_of ?_ (by rw [hostRead_vit, rcountSat_vit])
  rw [doorbell_enabled h hs hw h1, if_neg (by rw [hc]; exact Bool.false_ne_true)]
  exact congrArg (answer s) (if_neg (by rw [hm]; exact Bool.false_ne_true))

theorem doorbell_joins (hc : (ringGet s ring.val).cached = false) (hm : missRead s ring.val = true) :
    Leaves (.doorbell (8 * ring.val + if half = 2 then 4 else 0) (if half = 0 then 8 else 4) (some value) false) s
      (joinMiss (s.rcountSat .acnCacheStat 0 0 32 32 1) ring.val
        (if half = 2 then value <<< 32 else value, decide (half ≠ 2), decide (half ≠ 1))) := by
  refine leaves_of ?_ rfl
  rw [doorbell_enabled h hs hw h1, if_neg (by rw [hc]; exact Bool.false_ne_true)]
  exact congrArg (answer s) (if_pos hm)

end

theorem doorbellRead_leaves {ring : Fin (2 ^ 20)} {s : State} (h : bar2Served s = true) :
    let x := ringGet s ring.val
    let reply (off size : Nat) (l : List Byte) := Leaves (.doorbell off size none false) s (emit s (.reply .success l))
    reply (8 * ring.val) 8 (leBytes 4 x.pi.toNat ++ leBytes 4 x.cci.toNat) ∧ reply (8 * ring.val) 4 (leBytes 4 x.pi.toNat) ∧
    reply (8 * ring.val + 4) 4 (leBytes 4 x.cci.toNat) := by
  intro x reply
  have hr := ring.isLt
  refine ⟨leaves_of ?_ rfl, leaves_of ?_ rfl, leaves_of ?_ rfl⟩
  · rw [doorbell_served h (by omega) (doorbellAt_whole ring.val)]
    rfl
  · rw [doorbell_served h (by omega) (doorbellAt_low ring.val)]
    show answer s (emit s (.reply .success (leBytes 4 x.pi.toNat ++ []))) = _
    rw [List.append_nil]
  · rw [doorbell_served h (by omega) (doorbellAt_high ring.val)]
    rfl

theorem doorbell_unserved {off size : Nat} {s : State} (ho : off < 2 ^ 23) (hl : hostLink s = true)
    (h : bar2Served s = false ∨ ¬ ((size = 4 ∨ size = 8) ∧ off % size = 0)) :
    Leaves (.doorbell off size none false) s (replyUr s) ∧ ∀ value poison, Leaves (.doorbell off size (some value) poison) s s := by
  have hn : (if bar2Served s then doorbellAt off size else none) = none := by
    rcases h with h | h
    · rw [h]
      rfl
    · rw [doorbellAt, if_neg h, ite_self]
  have hex (value : Option W64) (poison : Bool) : exec (.doorbell off size value poison) s = answer s (match value with
      | none => replyUr s
      | some _ => s) := by
    show execDoorbell off size value poison s = _
    unfold execDoorbell
    rw [if_neg (by rw [hl]; simp; omega), hn]
    cases value <;> rfl
  exact ⟨leaves_of (hex _ _) rfl, fun value poison => leaves_of (hex _ _) rfl⟩

/-! ## Reads of host memory and their ends (R297, R300) -/

/-- A read of a ring's entries. -/
def readsEntries (ring : Nat) : HostUse → Bool
  | .entries r _ _ => decide (r = ring)
  | _ => false

theorem noEntriesRead {ring : Nat} {s : State} (h : ∀ r ∈ s.host.reads, ∀ i n, r.use ≠ .entries ring i n) :
    hasRead s (readsEntries ring) = false := by
  unfold hasRead
  rw [List.any_eq_false]
  intro r hr
  unfold readsEntries
  split
  · next k i n hu =>
    rw [decide_eq_true_eq]
    rintro rfl
    exact h r hr i n hu
  · exact Bool.false_ne_true

theorem entryFetch_leaves {ring : Nat} {s : State} (h1 : registrarOn s = true) (h2 : sleeping s = false) (h3 : readRoom s = true)
    (h4 : (ringGet s ring).state = 1) (h5 : (ringGet s ring).cached = true) (h6 : 0 < fetchCount s ring)
    (h7 : ∀ r ∈ s.host.reads, ∀ i n, r.use ≠ .entries ring i n) :
    let x := ringGet s ring
    Leaves (.entryFetch ring) s (hostRead s (.entries ring x.fi (fetchCount s ring))
      (x.ringBase.toNat + 64 * (x.fi.toNat % x.size)) (64 * fetchCount s ring)) ∧ fetchCount s ring ≤ 8 := by
  intro x
  refine ⟨leaves_of ?_ (by rw [hostRead_vit]), ?_⟩
  · show execEntryFetch ring s = _
    unfold execEntryFetch
    dsimp only
    refine congrArg (answer s) (if_pos ?_)
    show (registrarOn s && !sleeping s && readRoom s && decide ((ringGet s ring).state = 1) && (ringGet s ring).cached &&
      decide (0 < fetchCount s ring) && !hasRead s (readsEntries ring)) = true
    rw [h1, h2, h3, h4, h5, decide_eq_true h6, noEntriesRead h7]
    rfl
  · unfold fetchCount
    exact (Nat.min_le_left _ _).trans (Nat.min_le_left _ _)

section
variable {id : Nat} {q : HostReq} {s s1 : State} (hp : pcieUp s = true) (ht : takeReq s id = some (q, s1))

/-- A completion of an outstanding request, where it makes nothing wait. -/
theorem completion_leaves {d : HostData} {x : State} (hp : pcieUp s = true) (hx : completeHost s id d = x) (hm : x.vit.met = s.vit.met) :
    Leaves (.hostCompletion id d) s x := by
  refine leaves_of ?_ hm
  show execHostCompletion id d s = _
  unfold execHostCompletion orHold
  rw [if_pos hp, hx, if_pos (by simpa [metNothing] using hm)]

include hp ht

theorem completion_part {bs : List Byte} {rd : HostRead} (hr : readOf s1 q = some rd) (hl : bs.length = q.len)
    (hn : ((kvInsert rd.got q.off bs).flatMap (·.2)).length ≠ rd.len) :
    Leaves (.hostCompletion id (.ok bs)) s (askReads 1024 { s1 with host := { s1.host with
      reads := s1.host.reads.map fun y => if y.id = rd.id then { rd with got := kvInsert rd.got q.off bs } else y } }) := by
  refine completion_leaves hp ?_ ?_
  · unfold completeHost
    rw [ht]
    dsimp only
    rw [hr]
    dsimp only
    rw [if_neg (not_not_intro hl), partArrived]
    exact if_neg hn
  · have hm : s1.vit.met = s.vit.met := congrArg VitState.met (takeReq_vit ht)
    rw [askReads_vit]
    exact hm

theorem completion_whole {bs : List Byte} {rd : HostRead} (hr : readOf s1 q = some rd) (hl : bs.length = q.len)
    (hn : ((kvInsert rd.got q.off bs).flatMap (·.2)).length = rd.len)
    (hu : Unheld s (readArrived (askReads 1024 (dropRead s1 rd)) rd ((kvInsert rd.got q.off bs).flatMap (·.2)))) :
    Leaves (.hostCompletion id (.ok bs)) s (readArrived (askReads 1024 (dropRead s1 rd)) rd ((kvInsert rd.got q.off bs).flatMap (·.2))) := by
  refine completion_leaves hp ?_ hu
  have hd : readArrived (askReads 1024 (dropRead s1 rd)) { rd with got := kvInsert rd.got q.off bs } = readArrived (askReads 1024 (dropRead s1 rd)) rd := rfl
  unfold completeHost
  rw [ht]
  dsimp only
  rw [hr]
  dsimp only
  rw [if_neg (not_not_intro hl), partArrived]
  exact if_pos hn

theorem completion_dropped (hr : readOf s1 q = none) : (∀ bs, Leaves (.hostCompletion id (.ok bs)) s (askReads 1024 s1)) ∧
    ∀ d, d = .unsupported ∨ d = .abort ∨ d = .poison →
      Leaves (.hostCompletion id d) s (askReads 1024 (countReadErr (if d = .poison then aerNote s1 12 else s1) false)) := by
  have hm : s1.vit.met = s.vit.met := congrArg VitState.met (takeReq_vit ht)
  refine ⟨fun bs => completion_leaves hp ?_ (by rw [askReads_vit, hm]),
    fun d hd => completion_leaves hp ?_ (by rw [askReads_vit, countReadErr_vit, poison_vit, hm])⟩
  · unfold completeHost
    rw [ht]
    dsimp only
    rw [hr]
  · unfold completeHost
    rw [ht]
    dsimp only
    rw [hr]
    rcases hd with rfl | rfl | rfl <;> rfl

theorem completion_failed {d : HostData} {rd : HostRead} (hr : readOf s1 q = some rd) (hd : d = .unsupported ∨ d = .abort ∨ d = .poison) :
    Leaves (.hostCompletion id d) s
      (readFailed (askReads 1024 (dropRead (if d = .poison then aerNote s1 12 else s1) rd)) { rd with addr := q.addr } false) := by
  have hm : s1.vit.met = s.vit.met := congrArg VitState.met (takeReq_vit ht)
  refine completion_leaves hp ?_ (by rw [readFailed_vit, askReads_vit, dropRead_vit, poison_vit, hm])
  unfold completeHost
  rw [ht]
  dsimp only
  rw [hr]
  rcases hd with rfl | rfl | rfl <;> rfl

end

theorem hostTimeout_leaves {id : Nat} {q : HostReq} {rd : HostRead} {s s1 : State} (ht : takeReq s id = some (q, s1))
    (hr : readOf s1 q = some rd) :
    Leaves (.hostTimeout id) s (readFailed (askReads 1024 (dropRead (aerNote s1 14) rd)) { rd with addr := q.addr } true) := by
  refine leaves_of ?_ (by rw [readFailed_vit, askReads_vit, dropRead_vit, aerNote_vit, takeReq_vit ht])
  show execHostTimeout id s = _
  unfold execHostTimeout
  rw [ht]
  dsimp only
  rw [hr]
  rfl

/-! ## ENABLE, DISABLE and the freed index (R243, R294, R295) -/

theorem opWord_bits {op rest : Nat} (ho : op < 16) (hr : rest < 2 ^ 28) : bitsN ((opWord op rest).zeroExtend 64 : W64) 28 4 = op ∧
    ∀ n, n ≤ 28 → bitsN ((opWord op rest).zeroExtend 64 : W64) 0 n = rest % 2 ^ n := by
  have hv : (opWord op rest).toNat = op * 2 ^ 28 + rest := by
    unfold opWord
    rw [BitVec.toNat_ofNat]
    omega
  refine ⟨?_, fun n hn => ?_⟩
  · rw [bitsN_zeroExtend, bitsN, hv]
    omega
  · rw [bitsN_zeroExtend, bitsN, hv, pow_zero, Nat.div_one, show 2 ^ 28 = 2 ^ n * 2 ^ (28 - n) by rw [← pow_add]; congr 1; omega,
      ← mul_assoc, mul_comm op, mul_assoc, Nat.mul_add_mod]

theorem bitsN_shorter {w : Nat} (v : BitVec w) (lo : Nat) {m n : Nat} (h : m ≤ n) : bitsN v lo n % 2 ^ m = bitsN v lo m := by
  unfold bitsN
  exact Nat.mod_mod_of_dvd _ (pow_dvd_pow 2 h)

section
variable {w : Writer} {v : W32} {s : State} (hw : Writable w (RegName.acnCtxOp.at 0 0) s) (ho : s.host.ctxOp = none)
  (hen : bitB (s.rget .acnCatCtl 0 0) 0 = true)
include hw ho hen

theorem ringEnable_leaves (h0 : (ringGet s (bitsN v 0 20)).state = 0) (hf : belowFloor s = false) :
    let r := bitsN v 0 20
    let y := recorded s w .acnCtxOp 0 0 4 ((opWord 1 (bitsN v 0 28)).zeroExtend 64)
    Leaves (.ringEnable w v) s (ctxStatus (hostRead { y with host := { y.host with ctxOp := some (true, r) } } (.context r) (contextAddr s r) 32)
      1 0) := by
  intro r y
  have hh : y.host = s.host := recorded_host s w .acnCtxOp 0 0 4 _
  have hv : y.vit = s.vit := recorded_vit s w .acnCtxOp 0 0 4 _
  have hr : y.regs = s.regs := recorded_regs s w .acnCtxOp 0 0 4 _ rfl rfl
  have hg : y.rget = s.rget := by
    funext a b c
    unfold State.rget
    rw [hr]
  have hring : ringGet y r = ringGet s r := by
    unfold ringGet
    rw [hh]
  obtain ⟨hop, hlow⟩ := opWord_bits (op := 1) (rest := bitsN v 0 28) (by decide) (bitsN_lt v 0 28)
  have hr20 := (hlow 20 (by decide)).trans (bitsN_shorter v 0 (by decide : 20 ≤ 28))
  refine write32_leaves rfl hw (findReg_single _ (by decide)) rfl (by decide) ?_ ?_
  · show ctxOpWrite y _ = _
    unfold ctxOpWrite
    dsimp only
    rw [hop, hr20, hh, ho, hg, hen, show belowFloor y = belowFloor s by unfold belowFloor; rw [hg], hf]
    show (if (ringGet y r).state ≠ 0 then _ else _) = _
    rw [hring, if_neg (not_not_intro h0), show contextAddr y r = contextAddr s r by unfold contextAddr; rw [hg]]
  · rw [ctxStatus_vit, hostRead_vit]
    exact congrArg VitState.met hv

theorem ringDisable_leaves (h12 : (ringGet s (bitsN v 0 20)).state = 1 ∨ (ringGet s (bitsN v 0 20)).state = 2) :
    let r := bitsN v 0 20
    let y := recorded s w .acnCtxOp 0 0 4 ((opWord 2 (bitsN v 0 28)).zeroExtend 64)
    Leaves (.ringDisable w v) s (drainRing (ctxStatus y 2 0) r) := by
  intro r y
  have hh : y.host = s.host := recorded_host s w .acnCtxOp 0 0 4 _
  have hv : y.vit = s.vit := recorded_vit s w .acnCtxOp 0 0 4 _
  have hr : y.regs = s.regs := recorded_regs s w .acnCtxOp 0 0 4 _ rfl rfl
  have hg : y.rget = s.rget := by
    funext a b c
    unfold State.rget
    rw [hr]
  have hring : ringGet y r = ringGet s r := by
    unfold ringGet
    rw [hh]
  obtain ⟨hop, hlow⟩ := opWord_bits (op := 2) (rest := bitsN v 0 28) (by decide) (bitsN_lt v 0 28)
  have hr20 := (hlow 20 (by decide)).trans (bitsN_shorter v 0 (by decide : 20 ≤ 28))
  have hlive : ¬ ((ringGet s r).state = 0 ∨ (ringGet s r).state = 3) := by
    rcases h12 with h | h <;> simp [r, h]
  refine write32_leaves rfl hw (findReg_single _ (by decide)) rfl (by decide) ?_ ?_
  · show ctxOpWrite y _ = _
    unfold ctxOpWrite
    dsimp only
    rw [hop, hr20, hh, ho, hg, hen]
    show (if (ringGet y r).state = 0 ∨ (ringGet y r).state = 3 then _ else _) = _
    rw [hring, if_neg hlive]
  · rw [(drainRing_apart _ r).vit, ctxStatus_vit]
    exact congrArg VitState.met hv

end

theorem floorSettle_vit (s : State) : (floorSettle s).vit = s.vit := by
  unfold floorSettle
  split
  · exact (enterMgmtOnly_apart s).vit
  · rfl

theorem ringDisabled_leaves {ring : Nat} {s : State} (h3 : (ringGet s ring).state = 3) (hc : ringCmds s ring = []) (hr : registrarOn s = true) :
    Leaves (.ringDisabled ring) s (floorSettle (writeBack (ringPut s ring { ringGet s ring with state := 0 }) ring)) := by
  refine leaves_of ?_ (by rw [floorSettle_vit]; rfl)
  show execRingDisabled ring s = _
  unfold execRingDisabled
  rw [if_pos (by rw [h3, hc, hr]; rfl)]

theorem freeComplete_leaves {entry : Nat} {s : State} (hf : (invGet s entry).freeing = true) (hu : (invGet s entry).users = 0)
    (hd : domOn s 1 = true) :
    (freeCmd s entry = none → Leaves (.freeComplete entry) s (freeEntry s entry)) ∧
    ∀ c, freeCmd s entry = some c → Leaves (.freeComplete entry) s (finishCmd (freeEntry s entry) c id) := by
  have hex : exec (.freeComplete entry) s = answer s (match freeCmd s entry with
      | none => freeEntry s entry
      | some c => finishCmd (freeEntry s entry) c id) := by
    show execFreeComplete entry s = _
    unfold execFreeComplete
    rw [if_pos (by rw [hf, hu, hd]; rfl)] <;> rfl
  refine ⟨fun h => leaves_of ?_ rfl, fun c h => leaves_of ?_ rfl⟩
  · rw [hex, h]
  · rw [hex, h]

/-! ## Completion records (R307, R308, R311) -/

/-- What only sends messages after those that have gone, and changes no memory, core, ring or command. -/
structure Sends (s t : State) : Prop where
  mem : t.mem = s.mem
  lay : t.lay = s.lay
  cores : t.cores = s.cores
  vit : t.vit = s.vit
  rings : t.host.rings = s.host.rings
  cmds : t.host.cmds = s.host.cmds
  out : ∃ l, t.out = s.out ++ l

theorem Sends.refl (s : State) : Sends s s := ⟨rfl, rfl, rfl, rfl, rfl, rfl, [], (List.append_nil _).symm⟩

theorem Sends.trans {s t u : State} (h : Sends s t) (k : Sends t u) : Sends s u := by
  obtain ⟨l, hl⟩ := h.out
  obtain ⟨m, hm⟩ := k.out
  exact ⟨k.mem.trans h.mem, k.lay.trans h.lay, k.cores.trans h.cores, k.vit.trans h.vit, k.rings.trans h.rings, k.cmds.trans h.cmds,
    l ++ m, by rw [hm, hl, List.append_assoc]⟩

theorem emit_sends (s : State) (m : Msg) : Sends s (emit s m) := ⟨rfl, rfl, rfl, rfl, rfl, rfl, [m], rfl⟩

theorem sendMsix_sends (s : State) (v : Nat) : Sends s (sendMsix s v) := by
  unfold sendMsix
  split
  · exact ⟨rfl, rfl, rfl, rfl, rfl, rfl, [], (List.append_nil _).symm⟩
  · split
    · exact emit_sends s _
    · exact Sends.refl s

theorem pathSend_sends (s : State) (i : Nat) : Sends s (pathSend s i) := by
  unfold pathSend
  split
  · exact sendMsix_sends s _
  · exact emit_sends s _
  · exact emit_sends s _

theorem pathPut_sends (s : State) (i : Nat) (p : MsgPath) : Sends s (pathPut s i p) :=
  ⟨rfl, rfl, rfl, rfl, rfl, rfl, [], (List.append_nil _).symm⟩

theorem pathRequest_sends (s : State) (i : Nat) : Sends s (pathRequest s i) := by
  unfold pathRequest
  split
  · split
    · exact pathPut_sends s i _
    · exact (pathSend_sends s i).trans (pathPut_sends _ i _)
  · exact Sends.refl s

theorem Sends.foldl {β : Type} {f : State → β → State} (h : ∀ s b, Sends s (f s b)) (l : List β) : ∀ s : State, Sends s (l.foldl f s) := by
  induction l with
  | nil => exact Sends.refl
  | cons b t ih => exact fun s => (h s b).trans (ih _)

theorem summaryRise_sends (b s : State) : Sends s (summaryRise b s) := by
  unfold summaryRise
  dsimp only
  split
  · exact Sends.refl s
  · refine Sends.foldl (fun s i => ?_) _ s
    split
    · exact ((pathRequest_sends s 0).trans (pathRequest_sends _ 1)).trans (pathRequest_sends _ 2)
    · exact Sends.refl s

theorem vectorRequest_sends (s : State) (v itr : Nat) : Sends s (vectorRequest s v itr) := by
  unfold vectorRequest
  split
  · exact ⟨rfl, rfl, rfl, rfl, rfl, rfl, [], (List.append_nil _).symm⟩
  · dsimp only
    split
    · exact sendMsix_sends s v
    · exact (sendMsix_sends s v).trans ⟨rfl, rfl, rfl, rfl, rfl, rfl, [], (List.append_nil _).symm⟩

/-- One core of a dispatch that ends. -/
def closeCore (s : State) (p : Fin 72) : State := if (s.core p).runstate = 5 then setRunstate s p 0 else s

/-- A core that is back in IDLE. -/
def idledCore (c : Core) : Core := { c with runstate := 0 }

theorem idledCore_not5 (c : Core) : (idledCore c).runstate ≠ 5 := by
  show (0 : BitVec 3) ≠ 5
  decide

theorem closeCore_core (s : State) (p q : Fin 72) : (closeCore s p).core q =
    if q = p ∧ (s.core q).runstate = 5 then idledCore (s.core q) else s.core q := by
  unfold closeCore
  by_cases h : (s.core p).runstate = 5
  · rw [if_pos h]
    by_cases hq : q = p
    · subst hq
      rw [if_pos ⟨rfl, h⟩]
      exact modCore_core_same s q _
    · rw [if_neg fun e => hq e.1]
      exact modCore_core_other s _ (Ne.symm hq)
  · rw [if_neg h, if_neg]
    rintro ⟨rfl, h5⟩
    exact h h5

theorem closeCores_core (l : List (Fin 72)) (q : Fin 72) : ∀ s : State, (l.foldl closeCore s).core q =
    if q ∈ l ∧ (s.core q).runstate = 5 then idledCore (s.core q) else s.core q := by
  induction l with
  | nil => simp
  | cons p t ih =>
    intro s
    rw [List.foldl_cons, ih]
    by_cases hq : q = p
    · subst hq
      by_cases h5 : (s.core q).runstate = 5
      · have hidle : (closeCore s q).core q = idledCore (s.core q) := by rw [closeCore_core, if_pos ⟨rfl, h5⟩]
        rw [hidle, if_neg fun e => idledCore_not5 _ e.2, if_pos ⟨List.mem_cons_self, h5⟩]
      · have hstays : (closeCore s q).core q = s.core q := by rw [closeCore_core, if_neg fun e => h5 e.2]
        rw [hstays, if_neg fun e => h5 e.2, if_neg fun e => h5 e.2]
    · have hstays : (closeCore s p).core q = s.core q := by rw [closeCore_core, if_neg fun e => hq e.1]
      rw [hstays]
      simp [hq]

theorem closeCores_keep {γ : Type} (g : State → γ) (hg : ∀ s p r, g (setRunstate s p r) = g s) (l : List (Fin 72)) (s : State) :
    g (l.foldl closeCore s) = g s := by
  refine foldl_keeps closeCore g (fun s p => ?_) l s
  unfold closeCore
  split
  · exact hg s p 0
  · rfl

/-- The state of a command's place after its record: the record is out, its slot is taken, and the command is gone. -/
def recordSent (s : State) (ring : Nat) (index : W32) (c : Cmd) : State :=
  let x := ringGet s ring
  let s1 := emit s (.hostWrite (BitVec.ofNat 64 (x.cqBase.toNat + 32 * (x.cpi.toNat % x.size))) (recordBytes x c) false)
  let s2 := ringPut s1 ring { x with cpi := x.cpi + 1 }
  { s2 with host := { s2.host with cmds := s2.host.cmds.filter fun e => !(decide (e.ring = ring) && decide (e.index = index)) } }

/-- The end of its dispatch, if it has one. -/
def dispatchClosed (d : Option Dispatch) (s : State) : State :=
  match d with
  | some d => closeDispatch s d
  | none => s

theorem dispatchClosed_core (d : Option Dispatch) (s : State) (p : Fin 72) : (dispatchClosed d s).core p = (match d with
    | some d => if p ∈ d.cores ∧ (s.core p).runstate = 5 then { s.core p with runstate := 0 } else s.core p
    | none => s.core p) := by
  cases d with
  | none => rfl
  | some d => exact closeCores_core d.cores p s

/-- What the end of a dispatch leaves of the rest. -/
theorem dispatchClosed_rest (d : Option Dispatch) (s : State) : (dispatchClosed d s).mem = s.mem ∧ (dispatchClosed d s).lay = s.lay ∧
    (dispatchClosed d s).vit = s.vit ∧ (dispatchClosed d s).out = s.out ∧ (dispatchClosed d s).host.rings = s.host.rings ∧
    (dispatchClosed d s).host.cmds = s.host.cmds := by
  cases d with
  | none => exact ⟨rfl, rfl, rfl, rfl, rfl, rfl⟩
  | some d =>
    exact ⟨closeCores_keep State.mem (fun _ _ _ => rfl) _ _, closeCores_keep State.lay (fun _ _ _ => rfl) _ _,
      closeCores_keep State.vit (fun _ _ _ => rfl) _ _, closeCores_keep State.out (fun _ _ _ => rfl) _ _,
      closeCores_keep (fun s => s.host.rings) (fun _ _ _ => rfl) _ _, closeCores_keep (fun s => s.host.cmds) (fun _ _ _ => rfl) _ _⟩

/-- The record of a command that is ready, and the request of its ring's vector. -/
theorem commandDone_leaves {ring : Nat} {index : W32} {s : State} {c : Cmd} (hc : cmdAt s ring index = some c) (hr : registrarOn s = true)
    (hd : recordReady s c = true) :
    let c' := { c with nonfinite := (dispatchAt s ring index).elim false (·.nonfinite),
                       result := if c.status = 2 then 0 else c.result }
    ∃ t, exec (.commandDone ring index) s = .next t ∧ Sends (dispatchClosed (dispatchAt s ring index) (recordSent s ring index c')) t := by
  intro c'
  obtain ⟨-, -, hv, -⟩ := dispatchClosed_rest (dispatchAt s ring index) (recordSent s ring index c')
  have hsent (b : Bool) : Sends (dispatchClosed (dispatchAt s ring index) (recordSent s ring index c'))
      (if b then vectorRequest (dispatchClosed (dispatchAt s ring index) (recordSent s ring index c')) (ringGet s ring).vector.toNat (ringGet s ring).itr.toNat
        else dispatchClosed (dispatchAt s ring index) (recordSent s ring index c')) := by
    split
    · exact vectorRequest_sends _ _ _
    · exact Sends.refl _
  have hex : exec (.commandDone ring index) s = answer s
      (if (ringGet s ring).irqEn && bitB (c.entry.getD 1 0) 1 then
        vectorRequest (dispatchClosed (dispatchAt s ring index) (recordSent s ring index c')) (ringGet s ring).vector.toNat (ringGet s ring).itr.toNat
      else dispatchClosed (dispatchAt s ring index) (recordSent s ring index c')) := by
    show execCommandDone ring index s = _
    unfold execCommandDone
    rw [hc]
    dsimp only
    rw [if_pos (by rw [hr, hd]; rfl)]
    rfl
  refine ⟨_, leaves_of hex ?_, (hsent _).trans (summaryRise_sends s _)⟩
  rw [(hsent _).vit, hv]
  rfl

theorem itrExpire_leaves {v : Nat} {s : State} {merged : Bool} (h : s.host.itr.find? (fun e => e.1 = v) = some (v, merged)) :
    let rest := s.host.itr.filter fun e => decide (e.1 ≠ v)
    Leaves (.itrExpire v) s (if merged then sendMsix { s with host := { s.host with itr := rest ++ [(v, false)] } } v
      else { s with host := { s.host with itr := rest } }) := by
  intro rest
  refine leaves_of ?_ ?_
  · show execItrExpire v s = _
    unfold execItrExpire
    rw [h]
  · split
    · rw [sendMsix_vit]
    · rfl

/-- Settles O46: each event of a ring by its row; what is sent after a record only adds messages. -/
theorem ringFlowRows : Obligations.RingFlowRows := by
  unfold Obligations.RingFlowRows
  refine ⟨fun ring half value s h => ⟨fun hs hw h1 => ⟨doorbell_moves h hs hw h1, doorbell_refused h hs hw h1, doorbell_missed h hs hw h1,
      doorbell_joins h hs hw h1⟩, doorbell_held h, doorbell_poisoned h⟩, fun _ _ => doorbellRead_leaves, fun _ _ _ => doorbell_unserved,
    fun _ _ => entryFetch_leaves, fun id bs q rd s s1 hp ht hr hl => ⟨completion_part hp ht hr hl, completion_whole hp ht hr hl⟩,
    fun _ _ _ _ => completion_dropped, fun _ _ _ _ _ _ hp ht => completion_failed hp ht, fun _ _ _ _ _ => hostTimeout_leaves,
    fun w v s hw ho hen => ⟨ringEnable_leaves hw ho hen, ringDisable_leaves hw ho hen⟩, fun _ _ => ringDisabled_leaves,
    fun _ _ => freeComplete_leaves, ?_, fun _ _ _ => itrExpire_leaves⟩
  intro ring index s c hc hr hd x c'
  obtain ⟨t, ht, hs⟩ := commandDone_leaves hc hr hd
  obtain ⟨hm, hl, -, ho, hrings, hcmds⟩ := dispatchClosed_rest (dispatchAt s ring index) (recordSent s ring index c')
  obtain ⟨l, hout⟩ := hs.out
  refine ⟨t, ht, hs.mem.trans hm, hs.lay.trans hl, ⟨l, ?_⟩, hs.rings.trans hrings, hs.cmds.trans hcmds, fun p => ?_⟩
  · rw [hout, ho]
    exact List.append_assoc _ _ _
  · have hcore : t.core p = (dispatchClosed (dispatchAt s ring index) (recordSent s ring index c')).core p := by
      unfold State.core
      rw [hs.cores]
    rw [hcore, dispatchClosed_core]
    rfl

end Sys2Proof.Machine


/-! # The host's accesses (O47) -/

namespace Sys2Proof.Machine

/-! ## Reads of a register through an interface -/

theorem plainRead4_vit (s : State) (off : Nat) : (plainRead4 s off).2.vit = s.vit := by
  unfold plainRead4
  split
  · rfl
  · next h _ => exact regRead_vit s h.reg h.i h.n

theorem read8_vit (s : State) (off : Nat) : (read8 s off).2.vit = s.vit := by
  unfold read8
  split
  · next h _ => exact regRead_vit s h.reg h.i h.n
  · exact (plainRead4_vit _ _).trans (plainRead4_vit _ _)

theorem latchRead4_vit (s : State) (i : Fin 3) (off : Nat) : (latchRead4 s i off).2.vit = s.vit := by
  unfold latchRead4
  split
  · rfl
  · split
    · split
      · rfl
      · exact plainRead4_vit _ _
    · split
      · exact plainRead4_vit _ _
      · split
        · split
          · split
            · rfl
            · exact plainRead4_vit _ _
          · exact plainRead4_vit _ _
        · next h _ _ _ _ => exact regRead_vit s h.reg h.i h.n

theorem ifaceRead_vit (s : State) (i : Fin 3) (off size : Nat) : (ifaceRead s i off size).2.vit = s.vit := by
  unfold ifaceRead
  split
  · exact read8_vit _ _
  · exact latchRead4_vit _ _ _

/-! ## Configuration writes -/

/-- The state in which a configuration write meets its interface's latch. -/
theorem unknownFrame_eq (s : State) (w : Writer) : ∃ n m, unknownFrame s w = { s with free := n, mgmt := m } := by
  unfold unknownFrame
  split
  · exact ⟨_, _, rfl⟩
  · exact ⟨_, _, rfl⟩

theorem unknownFrame_vit (s : State) (w : Writer) : (unknownFrame s w).vit = s.vit := by
  obtain ⟨n, m, h⟩ := unknownFrame_eq s w
  rw [h]

theorem unknownFrame_latchOf (s : State) (w : Writer) (i : Fin 3) : latchOf (unknownFrame s w) i = latchOf s i := by
  obtain ⟨n, m, h⟩ := unknownFrame_eq s w
  rw [h]
  rfl

theorem unknownFrame_writable {s : State} {w : Writer} {off : Nat} (h : Writable w off s) : Writable w off (unknownFrame s w) := by
  obtain ⟨n, m, e⟩ := unknownFrame_eq s w
  rw [e]
  exact ⟨h.runs, h.wipe, h.log, h.host, h.port⟩

section
variable {w : Writer} {off size : Nat} {v : W64} {s : State}

/-- A configuration write that its interface passes on takes its effect. -/
theorem configWrite_passes {x : PassedWrite} (h : Writable w off s) (ha : alignedAccess off size = true)
    (hl : latchStep (unknownFrame s w) w off size v = (dropWr (unknownFrame s w) w, some x))
    (hu : Unheld s (applyWrite (dropWr (unknownFrame s w) w) w x)) :
    Leaves (.configWrite w off size v false) s (applyWrite (dropWr (unknownFrame s w) w) w x) := by
  have hw := unknownFrame_writable h
  refine leaves_of (congrArg (answer s) ?_) hu
  show regWrite w off size v (unknownFrame s w) = _
  rw [regWrite_accepts hw ha]
  exact acceptWrite_applies hl (dropWr_frame _ w) hw.wipe (hu.trans (congrArg VitState.met (unknownFrame_vit s w).symm))

/-- A configuration write that its interface latches changes nothing else. -/
theorem configWrite_latched {d : State} (h : Writable w off s) (ha : alignedAccess off size = true)
    (hl : latchStep (unknownFrame s w) w off size v = (d, none)) (hd : d.vit = s.vit) :
    Leaves (.configWrite w off size v false) s d := by
  refine leaves_of (congrArg (answer s) ?_) (congrArg _ hd)
  show regWrite w off size v (unknownFrame s w) = _
  rw [regWrite_accepts (unknownFrame_writable h) ha]
  unfold acceptWrite
  rw [hl]

end

/-- What the write latch passes on of a write that is not a half of a 64-bit register at an interface. -/
theorem latchStep_plain {s : State} {w : Writer} {off size : Nat} (v : W64) (h : size = 8 ∨ findReg off = none ∨ ifaceOf w = none) :
    latchStep s w off size v = (dropWr s w, some ⟨off, size, v⟩) := by
  unfold latchStep
  rcases h with rfl | h | h
  · rfl
  · rw [h, ite_self]
  · rw [h]
    cases (if size = 4 then findReg off else none) <;> rfl

section
variable {s : State} {w : Writer} {off : Nat} {i : Fin 3} {r : RegHit}

/-- What the write latch makes of a 4-byte write at an interface. -/
theorem latchStep_half (v : W64) (hi : ifaceOf w = some i) (hr : findReg off = some r) : latchStep s w off 4 v =
    if r.reg.info.width = 64 ∧ !r.upper then (setLatch s i fun l => { l with wr := some (off, lower v) }, none)
    else ((if r.upper then (latchOf s i).wr else none).elim (dropWr s w, some ⟨off, 4, v⟩) fun q =>
      (dropWr s w, some (if q.1 + 4 = off then ⟨off - 4, 8, lower v ++ q.2⟩ else ⟨off, 4, v⟩))) := by
  unfold latchStep
  rw [if_pos rfl, hr, hi]
  dsimp only
  split
  · rfl
  · cases hl : (if r.upper then (latchOf s i).wr else none) with
    | none => rfl
    | some q =>
      obtain ⟨o, x⟩ := q
      dsimp only [Option.elim]
      congr 2
      by_cases ho : o + 4 = off
      · rw [if_pos ho, if_pos ho, ← ho]; rfl
      · rw [if_neg ho, if_neg ho]

end

/-- A configuration write takes effect as its interface's latch passes it on. -/
theorem configWriteTakes (w : Writer) (off size : Nat) (v : W64) (s : State) (h : Writable w off s) (ha : alignedAccess off size = true) :
    let u := unknownFrame s w
    let takes (x : PassedWrite) := Unheld s (applyWrite (dropWr u w) w x) →
      Leaves (.configWrite w off size v false) s (applyWrite (dropWr u w) w x)
    (∀ i h, ifaceOf w = some i → size = 4 → findReg off = some h →
      (h.reg.info.width = 64 → h.upper = false →
        Leaves (.configWrite w off size v false) s (setLatch u i fun l => { l with wr := some (off, v.extractLsb' 0 32) })) ∧
      (∀ o x, h.upper = true → (latchOf s i).wr = some (o, x) → o + 4 = off → takes ⟨o, 8, v.extractLsb' 0 32 ++ x⟩) ∧
      (∀ o x, h.upper = true → (latchOf s i).wr = some (o, x) → o + 4 ≠ off → takes ⟨off, size, v⟩) ∧
      (h.upper = true → (latchOf s i).wr = none → takes ⟨off, size, v⟩) ∧
      (h.reg.info.width ≠ 64 → h.upper = false → takes ⟨off, size, v⟩)) ∧
    (size = 8 ∨ findReg off = none ∨ ifaceOf w = none → takes ⟨off, size, v⟩) := by
  intro u takes
  refine ⟨fun i r hi hs hr => ?_, fun hp => configWrite_passes h ha (latchStep_plain v hp)⟩
  subst hs
  have hl := latchStep_half (s := u) v hi hr
  rw [unknownFrame_latchOf] at hl
  refine ⟨fun hw hup => ?_, fun o x hup hx ho => ?_, fun o x hup hx ho => ?_, fun hup hx => ?_, fun hw hup => ?_⟩
  · exact configWrite_latched h ha (hl.trans (by rw [if_pos ⟨hw, by rw [hup]; rfl⟩]; rfl)) (unknownFrame_vit s w)
  · refine configWrite_passes h ha (hl.trans ?_)
    rw [if_neg (by simp [hup]), if_pos hup, hx, Option.elim_some, if_pos ho, ← ho]
    rfl
  · refine configWrite_passes h ha (hl.trans ?_)
    rw [if_neg (by simp [hup]), if_pos hup, hx, Option.elim_some, if_neg ho]
  · refine configWrite_passes h ha (hl.trans ?_)
    rw [if_neg (by simp [hup]), if_pos hup, hx, Option.elim_none]
  · refine configWrite_passes h ha (hl.trans ?_)
    rw [if_neg (fun hc => hw hc.1), if_neg (by rw [hup]; decide), Option.elim_none]

/-! ## Reads of memory with no error in it -/

theorem l2Touch_free (s : State) (a : Nat) : (l2Touch s a).free = s.free := by
  unfold l2Touch
  dsimp only
  split <;> rfl

theorem noteLine_free (s : State) (a : Nat) : (noteLine s a).free = s.free := by
  unfold noteLine
  dsimp only
  split <;> rfl

/-- A read that meets no error draws no free value. -/
theorem readErrLine_free {s : State} (h : StorageGood s) (m : Master) (lo hi line : Nat) :
    (readErrLine m lo hi s line).1.free = s.free := by
  unfold readErrLine
  split
  · rw [if_neg (by simp [h.ctrl])]
    have g := h.l2 (noteLine_only s line)
    unfold sliceRead
    dsimp only
    split
    · rw [memRead_good g]
      exact noteLine_free s line
    · next x hx =>
      rw [g.lines x (List.mem_of_find?_eq_some hx)]
      exact (l2Touch_free _ _).trans (noteLine_free s line)
  · split
    · rfl
    · unfold wordsRead
      rw [h.gal]
      rfl

theorem readErr_free {s : State} (h : StorageGood s) (m : Master) (a len : Nat) : (readErr m s a len).1.free = s.free := by
  unfold readErr
  generalize spanLines a len = l
  suffices key : ∀ u, OnlyL2 s u → (l.foldl (fun (r : State × Option Flt) line =>
      match r.2 with
      | some _ => r
      | none => readErrLine m a (a + len) r.1 line) (u, none)).1.free = u.free from key s (.refl s)
  induction l with
  | nil => exact fun u hu => rfl
  | cons x xs ih =>
    intro u hu
    have hfree := readErrLine_free (h.l2 hu) m a (a + len) x
    obtain ⟨v, hv, ho⟩ := readErrLine_good (h.l2 hu) m a (a + len) x
    rw [List.foldl_cons]
    dsimp only
    rw [hv] at hfree ⊢
    exact (ih v (hu.trans ho)).trans hfree

/-- A read that meets no error changes the lines that the L2 holds and the lines still to count, and nothing else. -/
theorem devRead_lines {s : State} (h : StorageGood s) (m : Master) (a len : Nat) : ∃ l d, devRead m s a len =
    ({ s with vit := { s.vit with l2 := l }, dbg := { s.dbg with memLag := d } }, readBytes s a len, none) := by
  obtain ⟨t, ht, ho⟩ := devRead_good h m a len
  have hfree : t.free = s.free := by
    have := readErr_free h m a len
    unfold devRead at ht
    rw [noteWipe_good h] at ht
    exact (congrArg State.free (Prod.ext_iff.mp ht).1).symm.trans this
  refine ⟨t.vit.l2, t.dbg.memLag, ht.trans ?_⟩
  have he := ho.eq
  rw [hfree] at he
  rw [← he]

/-! ## Accesses of the window -/

section
variable {x len : Nat} {s : State}

/-- A read of the window that is served leaves what the read of its bytes does. -/
theorem bar4Read_leaves {t : State} (hr : hostReaches s = true) (hb : barServed s = true) (hw : recoveryWait s = false)
    (hs : windowStopped s = false) (ht : bar4Read s x len = t) (hm : t.vit.met = s.vit.met) : Leaves (.bar4Read x len) s t := by
  refine leaves_of ?_ hm
  show execBar4Read x len s = _
  unfold execBar4Read
  simp only [hr, hb, hw, hs, Bool.not_true, Bool.false_eq_true, Bool.or_self, if_false]
  rw [ht]
  refine congrArg (answer s) ?_
  unfold orHold metNothing
  exact if_pos (by simp [hm])

theorem execBar4Write_served {bytes : List (Option Byte)} (hr : hostReaches s = true) (hb : barServed s = true)
    (hw : recoveryWait s = false) (hs : windowStopped s = false) (hm : (bar4Write s x bytes).vit.met = s.vit.met) :
    Leaves (.bar4Write x bytes false) s (bar4Write s x bytes) := by
  refine leaves_of ?_ hm
  show execBar4Write x bytes false s = _
  unfold execBar4Write
  simp only [hr, hb, hw, hs, Bool.not_true, Bool.false_eq_true, Bool.or_self, if_false]
  refine congrArg (answer s) ?_
  unfold orHold metNothing
  exact if_pos (by simp [hm])

theorem bar4Read_placed (hl : 0 < len) (hp : len ≤ maxPayload s) (hx : x + len ≤ winSize s) : bar4Read s x len =
    match placeErrSpan .host s (winAddr s x) len with
    | some .outside => replyUr (hstFlag s 1)
    | some (.notOwner _ _) => replyCa (hostDenied s)
    | none =>
      let r := devRead .host s (winAddr s x) len
      match r.2.2 with
      | some _ => replyCa r.1
      | none => emit r.1 (.reply .success r.2.1) := by
  unfold bar4Read
  exact if_neg (by omega)

theorem bar4Read_refused (h : ¬ (len ≤ maxPayload s ∧ x + len ≤ winSize s)) : bar4Read s x len = replyUr s := by
  unfold bar4Read
  exact if_pos (by omega)

theorem bar4Write_placed {bytes : List (Option Byte)} (hp : bytes.length ≤ maxPayload s) (hx : x + bytes.length ≤ winSize s) :
    bar4Write s x bytes =
    match placeErrSpan .host s (winAddr s x) bytes.length with
    | some .outside => hstFlag s 1
    | some (.notOwner _ _) => hostDenied s
    | none => (devWrite .host s (enabledCells (winAddr s x) bytes)).1 := by
  unfold bar4Write
  exact if_neg (by omega)

theorem bar4Write_refused {bytes : List (Option Byte)} (h : ¬ (bytes.length ≤ maxPayload s ∧ x + bytes.length ≤ winSize s)) :
    bar4Write s x bytes = s := by
  unfold bar4Write
  exact if_pos (by omega)

end

/-! ## The cells of a write with byte enables -/

theorem mem_enabledCells {a : Nat} {bytes : List (Option Byte)} {c : Nat × Byte} (h : c ∈ enabledCells a bytes) :
    ∃ i, i < bytes.length ∧ c.1 = a + i := by
  unfold enabledCells at h
  rw [List.mem_filterMap] at h
  obtain ⟨e, he, hc⟩ := h
  rw [List.mem_mapIdx] at he
  obtain ⟨i, hi, rfl⟩ := he
  rw [Option.map_eq_some_iff] at hc
  obtain ⟨b, -, rfl⟩ := hc
  exact ⟨i, hi, rfl⟩

theorem enabledCells_pairwise (a : Nat) (bytes : List (Option Byte)) :
    (enabledCells a bytes).Pairwise fun x y => x.1 ≠ y.1 := by
  unfold enabledCells
  rw [List.pairwise_filterMap]
  have h : (bytes.mapIdx fun i b => (a + i, b)).Pairwise fun x y => x.1 ≠ y.1 := by
    rw [List.pairwise_iff_getElem]
    intro i j hi hj hij
    simp only [List.getElem_mapIdx]
    omega
  refine h.imp fun {x y} hne u hu v hv => ?_
  rw [Option.map_eq_some_iff] at hu hv
  obtain ⟨_, -, rfl⟩ := hu
  obtain ⟨_, -, rfl⟩ := hv
  exact hne

theorem putByte_cores (s : State) (a : Nat) (b : Byte) : (putByte s a b).cores = s.cores := by
  unfold putByte
  split <;> rfl

/-- A write of the host changes no core. -/
theorem putNoted_host_cores (s : State) (cells : List (Nat × Byte)) : (putNoted .host s cells).cores = s.cores :=
  foldl_keeps (fun (s : State) (c : Nat × Byte) => putByte s c.1 c.2) State.cores (fun s c => putByte_cores s c.1 c.2) cells s

/-- A write of the window that meets no error stores its enabled bytes, and no other. -/
theorem bar4Write_stores {x : Nat} {bytes : List (Option Byte)} {s : State} (hc : Canonical s) (hr : hostReaches s = true)
    (hb : barServed s = true) (hw : recoveryWait s = false) (hs : windowStopped s = false) (hg : StorageGood s)
    (hl : bytes.length ≤ maxPayload s) (hx : x + bytes.length ≤ winSize s)
    (hp : placeErrSpan .host s (winAddr s x) bytes.length = none) :
    ∃ t, exec (.bar4Write x bytes false) s = .next t ∧ t.cores = s.cores ∧
      ∀ a, byteAt t a = ((enabledCells (winAddr s x) bytes).find? fun c => c.1 = a).elim (byteAt s a) (·.2) := by
  generalize hcells : enabledCells (winAddr s x) bytes = cells
  have hperf := countLines_perf hc.2 cells
  have hput : bar4Write s x bytes = putNoted .host (countLines s cells) cells := by
    rw [bar4Write_placed hl hx, hp, hcells]
    dsimp only
    rw [devWrite_good hg hc.2]
  have hvit : (bar4Write s x bytes).vit = s.vit := by
    rw [hput]
    exact (putCells_vit _ _).trans (by rw [noteOut_cores, hperf.eq])
  refine ⟨_, execBar4Write_served hr hb hw hs (congrArg _ hvit), ?_, fun a => ?_⟩
  · rw [summaryRise_cores, hput, putNoted_host_cores, hperf.eq]
  · rw [byteAt_summaryRise, hput, byteAt_putNoted .host cells (by rw [hperf.eq]; exact hc.1) (fun c hm => ?_)
      (hcells ▸ enabledCells_pairwise _ _), byteAt_congr hperf.places (by rw [hperf.eq])]
    · unfold cellAt
      cases cells.find? fun c => decide (c.1 = a) <;> rfl
    · rw [hperf.places.byteKey]
      obtain ⟨i, hi, hci⟩ := mem_enabledCells (hcells ▸ hm)
      rw [hci]
      exact byteKey_of_span hp hi

/-- Settles O47: an access of the host that is served is answered, one that is refused changes no memory, and a configuration write
takes effect as its latch passes it on. -/
theorem hostAccessRows : Obligations.HostAccessRows := by
  unfold Obligations.HostAccessRows
  refine ⟨⟨fun off size s hr hb hw ha hs => ?_, configWriteTakes, fun x len s hr hb hw hs hg h0 hl hx hp => ?_,
    fun x bytes s hc hr hb hw hs hg hl hx hp => bar4Write_stores hc hr hb hw hs hg hl hx hp⟩,
    fun x len bytes s hr hb hw hs => ?_⟩
  · refine leaves_of ?_ (congrArg _ (ifaceRead_vit s 0 off size))
    show execBar0Read off size s = _
    unfold execBar0Read
    simp only [hr, hb, hw, ha, hs, Bool.not_true, Bool.false_eq_true, Bool.or_self, Bool.false_and, if_false]
    rfl
  · obtain ⟨l, d, hread⟩ := devRead_lines hg .host (winAddr s x) len
    refine ⟨l, d, bar4Read_leaves hr hb hw hs ?_ rfl⟩
    rw [bar4Read_placed h0 hl hx, hp]
    dsimp only
    rw [hread]
  · intro a fits
    refine ⟨fun h0 hf hp => ?_, fun b o h0 hf hp => ?_, fun hf => ?_, fun hf hp => ?_, fun b o hf hp => ?_, fun hf => ?_, ?_,
      fun off size v => ?_⟩
    · refine bar4Read_leaves hr hb hw hs ?_ (congrArg VitState.met (aerNote_vit _ 15))
      rw [bar4Read_placed h0 hf.1 hf.2, hp]
    · refine bar4Read_leaves hr hb hw hs ?_ (congrArg VitState.met (aerNote_vit _ 15))
      rw [bar4Read_placed h0 hf.1 hf.2, hp]
      rfl
    · exact bar4Read_leaves hr hb hw hs (bar4Read_refused hf) (congrArg VitState.met (aerNote_vit s 20))
    · have he : bar4Write s x bytes = hstFlag s 1 := by rw [bar4Write_placed hf.1 hf.2, hp]
      exact he ▸ execBar4Write_served hr hb hw hs (by rw [he]; rfl)
    · have he : bar4Write s x bytes = hostDenied s := by rw [bar4Write_placed hf.1 hf.2, hp]
      have hl := execBar4Write_served (x := x) (bytes := bytes) hr hb hw hs (by rw [he]; rfl)
      rw [he] at hl
      exact hl
    · have he := bar4Write_refused (bytes := bytes) (s := s) hf
      have hl := execBar4Write_served (x := x) (bytes := bytes) hr hb hw hs (by rw [he])
      rw [he] at hl
      exact hl
    · refine leaves_of ?_ (congrArg VitState.met (aerNote_vit s 12))
      show execBar4Write x bytes true s = _
      unfold execBar4Write
      simp only [hr, hb, hw, Bool.not_true, Bool.false_eq_true, Bool.or_self, if_false, if_true]
    · refine leaves_of ?_ (congrArg VitState.met (aerNote_vit s 12))
      show execConfigWrite .bar0 off size v true s = _
      unfold execConfigWrite
      simp only [hr, hb, Bool.and_self, if_true]

end Sys2Proof.Machine


/-! # The function and its link (O48) -/

namespace Sys2Proof.Machine

/-! ## The stop of every dispatch -/

/-- A core that no stop of a dispatch stops any more: it is STOPPED, stopping or IDLE. -/
def Halted (c : Core) : Prop := c.runstate = 5 ∨ c.runstate = 4 ∨ c.runstate = 0

theorem stopOne_halted (d : Dispatch) {s : State} (p : Fin 72) {q : Fin 72} (h : Halted (s.core q)) : Halted ((stopOne d s p).core q) := by
  by_cases hq : q = p
  · subst hq
    rw [stopOne_stays (not_not_intro (.inr h))]
    exact h
  · rwa [stopOne_other d s hq]

theorem stopOthers_halted (d : Dispatch) {s : State} {q : Fin 72} (h : Halted (s.core q)) : Halted ((stopOthers s d).core q) := by
  rw [stopOthers_eq]
  induction d.cores generalizing s with
  | nil => exact h
  | cons p t ih => exact ih (stopOne_halted d p h)

/-- Each core is halted or has not been writing the byte. -/
def Spared (s : State) (a : Nat) : Prop := ∀ q, Halted (s.core q) ∨ ¬ Abandoned (s.core q) a

theorem stopOne_spared (d : Dispatch) {s : State} {a : Nat} (p : Fin 72) (hw : memWf s.mem = true) (h : Spared s a) :
    memWf (stopOne d s p).mem = true ∧ Spared (stopOne d s p) a ∧ byteAt (stopOne d s p) a = byteAt s a := by
  by_cases hs : stoppable d s p
  · have hp : ¬ Abandoned (s.core p) a := (h p).resolve_left fun hh => hs (.inr hh)
    refine ⟨by rw [stopOne_stops hs]; exact (stopCore_eff s p (Eff.refl s)).mem hw, fun q => ?_,
      by rw [stopOne_stops hs]; exact byteAt_stopCore hw hp⟩
    by_cases hq : q = p
    · subst hq
      left
      rw [stopOne_stops hs, Halted, (stopCore_core s q).1]
      split
      · exact .inr (.inl rfl)
      · exact .inl rfl
    · rw [stopOne_other d s hq]
      exact h q
  · rw [stopOne_stays hs]
    exact ⟨hw, h, rfl⟩

theorem stopOthers_spared (d : Dispatch) {s : State} {a : Nat} (hw : memWf s.mem = true) (h : Spared s a) :
    memWf (stopOthers s d).mem = true ∧ Spared (stopOthers s d) a ∧ byteAt (stopOthers s d) a = byteAt s a := by
  rw [stopOthers_eq]
  induction d.cores generalizing s with
  | nil => exact ⟨hw, h, rfl⟩
  | cons p t ih =>
    obtain ⟨hw1, h1, hb1⟩ := stopOne_spared d p hw h
    obtain ⟨hw2, h2, hb2⟩ := ih hw1 h1
    exact ⟨hw2, h2, hb2.trans hb1⟩

section
variable (l : List Dispatch)

theorem stopAll_bytes {s : State} {a : Nat} (hw : memWf s.mem = true) (h : Spared s a) :
    byteAt (l.foldl stopOthers s) a = byteAt s a := by
  induction l generalizing s with
  | nil => rfl
  | cons d t ih =>
    obtain ⟨hw1, h1, hb1⟩ := stopOthers_spared d hw h
    exact (ih hw1 h1).trans hb1

theorem stopAll_keeps_halted {s : State} {q : Fin 72} (h : Halted (s.core q)) : Halted ((l.foldl stopOthers s).core q) := by
  induction l generalizing s with
  | nil => exact h
  | cons d t ih => exact ih (stopOthers_halted d h)

theorem stopAll_halted {s : State} {d : Dispatch} {q : Fin 72} (hd : d ∈ l) (hq : q ∈ d.cores) (hf : q ∉ d.finished) :
    Halted ((l.foldl stopOthers s).core q) := by
  induction l generalizing s with
  | nil => cases hd
  | cons e t ih =>
    rcases List.mem_cons.mp hd with rfl | hd
    · refine stopAll_keeps_halted t ?_
      have h := stopped_after d d.cores (s := s) (.inl hq)
      rw [← stopOthers_eq, stoppable, not_not] at h
      exact h.resolve_left (by simpa using hf)
    · exact ih hd

theorem stopAll_other {s : State} {q : Fin 72} (h : ∀ d ∈ l, q ∉ d.cores) : (l.foldl stopOthers s).core q = s.core q := by
  induction l generalizing s with
  | nil => rfl
  | cons d t ih =>
    rw [List.foldl_cons, ih fun e he => h e (List.mem_cons_of_mem _ he), stopOthers_eq]
    exact stops_other d d.cores (.inl (h d List.mem_cons_self))

theorem stopAll_vit (s : State) : (l.foldl stopOthers s).vit = s.vit :=
  foldl_keeps stopOthers State.vit (fun s d => stops_keep State.vit stopCore_vit d s) l s

end

/-! ## The function-level reset -/

/-- The steps of a reset that stop the dispatches and end the uses of the commands. -/
def flrStopped (s : State) : State :=
  usesEnd (s.host.dispatches.foldl stopOthers s) ((s.host.dispatches.foldl stopOthers s).host.cmds.flatMap fun c => c.uses)

theorem flrBegin_eq (s : State) : ∃ l, flrBegin s = { flrStopped s with
    host := { (flrStopped s).host with reads := l, cmds := [], ctxOp := none }, power := { (flrStopped s).power with flr := true } } :=
  ⟨_, rfl⟩

theorem flrBegin_core (s : State) (q : Fin 72) : (flrBegin s).core q = (s.host.dispatches.foldl stopOthers s).core q := by
  obtain ⟨l, h⟩ := flrBegin_eq s
  rw [h]
  exact usesEnd_core _ _ q

theorem flrBegin_vit (s : State) : (flrBegin s).vit = s.vit := by
  obtain ⟨l, h⟩ := flrBegin_eq s
  rw [h]
  exact (usesEnd_vit _ _).trans (stopAll_vit _ s)

/-- A reset changes no byte but what abandoned instructions and open bands were writing. -/
theorem flrBegin_bytes {s : State} (hc : Canonical s) {a : Nat} (h : ∀ p, ¬ Abandoned (s.core p) a) :
    byteAt (flrBegin s) a = byteAt s a := by
  obtain ⟨l, he⟩ := flrBegin_eq s
  rw [he]
  show byteAt (flrStopped s) a = _
  unfold flrStopped
  rw [byteAt_congr (usesEnd_places _ _) (usesEnd_mem _ _)]
  exact stopAll_bytes _ hc.1 fun q => .inr (h q)

theorem flr_stops {s : State} (hc : configServed s = true) (hf : s.power.flr = false) (hs : sleeping s = false) :
    ∃ t, exec .flr s = .next t ∧ t.power.flr = true ∧ t.host.cmds = [] ∧ t.host.ctxOp = none ∧
      (Canonical s → ∀ a, (∀ p, ¬ Abandoned (s.core p) a) → byteAt t a = byteAt s a) ∧
      (∀ d ∈ s.host.dispatches, ∀ p ∈ d.cores, p ∉ d.finished →
        (t.core p).runstate = 5 ∨ (t.core p).runstate = 4 ∨ (t.core p).runstate = 0) ∧
      ∀ p, (∀ d ∈ s.host.dispatches, p ∉ d.cores) → t.core p = s.core p := by
  have hex : Leaves .flr s (flrBegin s) := by
    refine leaves_of ?_ (congrArg VitState.met (flrBegin_vit s))
    show execFlr s = _
    unfold execFlr
    simp only [hc, hf, hs, Bool.not_false, Bool.and_self, if_true, Bool.false_eq_true, if_false]
  have hsame := (summaryRise_same s (flrBegin s)).eq
  refine ⟨_, hex, ?_, ?_, ?_, fun hcan a ha => ?_, fun d hd p hp hn => ?_, fun p hp => ?_⟩
  · rw [hsame]; rfl
  · rw [hsame]; rfl
  · rw [hsame]; rfl
  · rw [byteAt_summaryRise]
    exact flrBegin_bytes hcan ha
  · rw [summaryRise_core, flrBegin_core]
    exact stopAll_halted _ hd hp hn
  · rw [summaryRise_core, flrBegin_core]
    exact stopAll_other _ hp

/-! ## What a reset waits for -/

/-- Nothing changes but the collective engine and the layout. -/
def OnlyColLay (s t : State) : Prop := t = { s with col := t.col, lay := t.lay }

theorem OnlyColLay.trans {s t u : State} (h : OnlyColLay s t) (k : OnlyColLay t u) : OnlyColLay s u := by
  unfold OnlyColLay at *
  generalize u.col = a at *
  generalize u.lay = b at *
  subst k
  rw [h]

theorem lineEnd_only (s : State) (o : AccOp) : OnlyColLay s (freeWin (useEndOpt s o.use) o.slot) := by
  unfold freeWin useEndOpt
  cases o.slot <;> cases o.use <;> exact rfl

theorem lineEnd_reqs (s : State) (o : AccOp) : (freeWin (useEndOpt s o.use) o.slot).col.reqs = s.col.reqs := by
  unfold freeWin useEndOpt
  cases o.slot <;> cases o.use <;> exact rfl

/-- Dropping what holds or waits for a tag leaves none, and changes nothing else. -/
theorem dropHeld_leaves (s : State) : OnlyColLay s (dropHeld s) ∧ (dropHeld s).col.reqs = [] := by
  have honly : ∀ (l : List AccOp) (t : State), OnlyColLay s t →
      OnlyColLay s (l.foldl (fun s o => freeWin (useEndOpt s o.use) o.slot) t) := by
    intro l
    induction l with
    | nil => exact fun _ h => h
    | cons o t ih => exact fun u h => ih _ (h.trans (lineEnd_only u o))
  unfold dropHeld
  refine ⟨(honly _ (reclaimTags (fun _ => true) s) rfl).trans rfl, ?_⟩
  refine (foldl_keeps (fun (s : State) (o : AccOp) => freeWin (useEndOpt s o.use) o.slot) (fun s => s.col.reqs) lineEnd_reqs _ _).trans ?_
  show s.col.reqs.filter (fun q => !true) = []
  simp

/-- Retirements of controllers make nothing wait. -/
theorem retireControllers_met (s : State) : (retireControllers s).vit.met = s.vit.met := by
  unfold retireControllers
  split
  · rfl
  · dsimp only
    refine (foldl_keeps _ (fun s : State => s.vit.met) (fun s k => ?_) _ _).trans rfl
    split <;> rfl

theorem planDrop_vit (s : State) : (planDrop s).vit = s.vit := by
  unfold planDrop endPlanUses planCtl clearColl
  rw [rset_vit]
  show (match s.col.plan with
    | some p => usesEnd s p.uses
    | none => s).vit = _
  split
  · exact usesEnd_vit _ _
  · rfl

/-- The end of a reset makes nothing wait. -/
theorem flrEnd_met (s : State) : (flrEnd s).vit.met = s.vit.met := by
  have hown (t : State) : ((List.range 64).foldl (fun s n => s.rmod .vtrOwn 0 n fun v => setBits v 0 8 n) t).vit = t.vit :=
    foldl_keeps (fun (s : State) n => s.rmod .vtrOwn 0 n fun v => setBits v 0 8 n) State.vit (fun _ _ => rfl) _ t
  have hend (t : State) : ((if s.memPend = 0 then floorSettle else floorCheck) t).vit = t.vit := by
    split
    · exact floorSettle_vit t
    · exact (floorCheck_apart t).vit
  unfold flrEnd
  dsimp only
  rw [hend, hown]
  show (retireControllers (planDrop s)).vit.met = _
  rw [retireControllers_met, planDrop_vit]

theorem noTagHeld_iff (s : State) : noTagHeld s = true ↔
    s.col.reqs = [] ∧ s.col.sendq = [] ∧ s.col.retries = [] ∧ s.col.accq = [] := by
  unfold noTagHeld
  simp [List.isEmpty_iff, and_assoc]

/-! ## PERST_N -/

/-- The function, its link and its configuration space as PERST_N leaves them. -/
def perstReset (s : State) : State :=
  { s with latches := s.latches.set 0 {},
           host := { s.host with mps := 0, mrrs := 2, cplField := 0, aer := 0 },
           power := { s.power with perst := true, link := none, d3hot := false, held := [] } }

theorem perst_resets {s : State} (hp : s.power.perst = false) :
    ∃ t, exec .perstAssert s = .next t ∧ t.power.perst = true ∧ t.power.link = none ∧ t.power.d3hot = false ∧
      t.power.flr = true ∧ t.power.held = [] ∧ t.host.mps = 0 ∧ t.host.mrrs = 2 ∧ t.host.cplField = 0 ∧ t.host.aer = 0 ∧
      (Canonical s → ∀ a, (∀ p, ¬ Abandoned (s.core p) a) → byteAt t a = byteAt s a) := by
  obtain ⟨u, hu, hvit, hflr, hbytes⟩ : ∃ u, (if s.power.flr then s else flrBegin s) = u ∧ u.vit = s.vit ∧ u.power.flr = true ∧
      (Canonical s → ∀ a, (∀ p, ¬ Abandoned (s.core p) a) → byteAt u a = byteAt s a) := by
    by_cases hf : s.power.flr = true
    · exact ⟨s, if_pos hf, rfl, hf, fun _ _ _ => rfl⟩
    · exact ⟨_, if_neg hf, flrBegin_vit s, rfl, fun hc a ha => flrBegin_bytes hc ha⟩
  have hex : Leaves .perstAssert s (perstReset u) := by
    refine leaves_of ?_ (congrArg VitState.met hvit)
    show execPerstAssert s = _
    unfold execPerstAssert
    rw [if_neg (by simp [hp]), hu]
    rfl
  have hsame := (summaryRise_same s (perstReset u)).eq
  refine ⟨_, hex, ?_, ?_, ?_, ?_, ?_, ?_, ?_, ?_, ?_, fun hc a ha => ?_⟩
  · rw [hsame]; rfl
  · rw [hsame]; rfl
  · rw [hsame]; rfl
  · rw [hsame]; exact hflr
  · rw [hsame]; rfl
  · rw [hsame]; rfl
  · rw [hsame]; rfl
  · rw [hsame]; rfl
  · rw [hsame]; rfl
  · rw [byteAt_summaryRise]
    exact hbytes hc a ha

/-! ## The power state of the function -/

theorem startWake_vit (s : State) (code : BitVec 4) : (startWake s code).vit = s.vit := by
  unfold startWake
  split <;> rfl

theorem requestSleep_vit (s : State) (st : BitVec 3) : (requestSleep s st).vit = s.vit := by
  unfold requestSleep
  split
  · rfl
  · split
    · rfl
    · split <;> rfl

theorem completionTimeout_leaves (field : BitVec 4) (s : State) (hc : configServed s = true) (hd : domOn s 4 = true) :
    let x := { s with host := { s.host with cplField := field } }
    (∀ us, subRangeLow field = some us →
      Leaves (.completionTimeoutValueWrite field) s (x.rset .hstCplTimeout 0 0 (BitVec.ofNat 64 (min us 50000)))) ∧
    (subRangeLow field = none → Leaves (.completionTimeoutValueWrite field) s x) := by
  have hex : exec (.completionTimeoutValueWrite field) s = answer s (match subRangeLow field with
      | some us => ({ s with host := { s.host with cplField := field } }).rset .hstCplTimeout 0 0 (BitVec.ofNat 64 (min us 50000))
      | none => { s with host := { s.host with cplField := field } }) :=
    congrArg (answer s) (if_pos (by rw [hc, hd]; rfl))
  refine ⟨fun us h => leaves_of ?_ rfl, fun h => leaves_of ?_ rfl⟩
  · rw [hex, h]
  · rw [hex, h]

theorem flrComplete_leaves (s : State) (hf : s.power.flr = true) (ht : inTransition s = false) :
    (s.col.reqs = [] ∧ s.col.sendq = [] ∧ s.col.retries = [] ∧ s.col.accq = [] → Leaves .flrComplete s (flrEnd s)) ∧
    (s.col.reqs ≠ [] ∨ s.col.sendq ≠ [] ∨ s.col.retries ≠ [] ∨ s.col.accq ≠ [] → Leaves .flrComplete s s) := by
  refine ⟨fun h => leaves_of (congrArg (answer s) (if_pos ?_)) (flrEnd_met s), fun h => leaves_of (congrArg (answer s) (if_neg ?_)) rfl⟩
  · rw [hf, ht, (noTagHeld_iff s).mpr h]
    rfl
  · intro hn
    simp only [Bool.and_eq_true] at hn
    obtain ⟨⟨-, hn⟩, -⟩ := hn
    obtain ⟨h1, h2, h3, h4⟩ := (noTagHeld_iff s).mp hn
    exact h.elim (· h1) (·.elim (· h2) (·.elim (· h3) (· h4)))

theorem perstDeassert_leaves (width rate : Nat) (flit : Bool) (s : State) (hp : s.power.perst = true) (hw : width ∈ [1, 2, 4, 8, 16])
    (h1 : 1 ≤ rate) (hr : rate ≤ (if flit then 7 else 5)) : Leaves (.perstDeassert width rate flit) s
      { s with power := { s.power with perst := false, refclk := true, link := some (width, rate, flit) } } := by
  refine leaves_of ((congrArg (answer s) (if_pos hp)).trans ?_) rfl
  have hok : (decide (width ∈ [1, 2, 4, 8, 16]) && decide (1 ≤ rate ∧ rate ≤ 7) && (flit || decide (rate ≤ 5))) = true := by
    cases flit
    · simp only [Bool.false_eq_true, if_false] at hr
      simp only [hw, h1, hr, decide_true, Bool.true_and, Bool.false_or, Bool.and_true, true_and, decide_eq_true_eq]
      omega
    · simp only [if_true] at hr
      simp only [hw, h1, hr, decide_true, Bool.true_and, Bool.true_or, and_self]
  dsimp only
  rw [if_pos hok]

/-- Settles O48: each event of the function and its link leaves what its row says. -/
theorem functionRows : Obligations.FunctionRows := by
  unfold Obligations.FunctionRows
  refine ⟨completionTimeout_leaves, fun k s hc hd h1 h2 => leaves_of (congrArg (answer s) (if_pos ?_)) rfl,
    fun s hc hf hs => flr_stops hc hf hs, fun s hf => ?_, flrComplete_leaves, fun s hp => perst_resets hp, perstDeassert_leaves,
    fun s hc hd => leaves_of (congrArg (answer s) (if_pos ?_)) ?_, fun s hl hd => leaves_of (congrArg (answer s) (if_pos ?_)) ?_,
    fun s hl hp => leaves_of (congrArg (answer s) (if_pos ?_)) ?_, fun index s hd => ?_⟩
  · rw [hc, hd, decide_eq_true ⟨h1, h2⟩]
    rfl
  · obtain ⟨honly, hreqs⟩ := dropHeld_leaves s
    refine ⟨dropHeld s, leaves_of (congrArg (answer s) (if_pos hf)) ?_, honly, hreqs, rfl, rfl, rfl⟩
    rw [honly]
  · rw [hc, hd]
    rfl
  · rw [requestSleep_vit]
  · rw [hl, hd]
    rfl
  · rw [startWake_vit]
  · rw [hl, hp]
    rfl
  · rw [startWake_vit]
  · refine ⟨_, leaves_of (congrArg (answer s) (if_pos hd)) rfl, ?_⟩
    split <;> rfl

end Sys2Proof.Machine


/-! # Main memory's controllers and the layout's registers (O49) -/

namespace Sys2Proof.Machine

/-! ## REINIT (R278) -/

theorem smapGet_absent {β : Type} (d : Nat → β) {l : List (Nat × β)} {k : Nat} (h : ∀ e ∈ l, e.1 ≠ k) : smapGet d l k = d k := by
  induction l with
  | nil => rfl
  | cons e t ih =>
    unfold smapGet
    split
    · rfl
    · rw [if_neg fun hk => h e List.mem_cons_self hk.symm, ih fun x hx => h x (List.mem_cons_of_mem _ hx)]

/-- A data line of a channel lies below its 2 to the power 28 lines, and so does its check line. -/
theorem homeOf_line {s : State} {a : Nat} (h : a < memTop s) : (homeOf s a).2.2 < 15 * 2 ^ 24 := by
  have hm : a < 30 * 2 ^ 30 * (ctrlsInService s).length := h
  have hn : 0 < (ctrlsInService s).length := by
    rcases Nat.eq_zero_or_pos (ctrlsInService s).length with e | e
    · rw [e] at hm
      omega
    · exact e
  have hq : a / 256 / (ctrlsInService s).length < 30 * 2 ^ 22 := by
    rw [Nat.div_lt_iff_lt_mul hn]
    omega
  show a / 256 / (ctrlsInService s).length / 2 * 4 + a / 64 % 4 < _
  omega

/-- The symbols of a line are those of its own controller's channels. -/
theorem symbolsOf_ctrl {s : State} {a x : Nat} (h : a < memTop s) (hx : x ∈ symbolsOf s a) : x / 64 / 2 ^ 29 = (ctrlOf s a).1 := by
  have hl := homeOf_line h
  have hh : (homeOf s a).2.1 < 2 := Nat.mod_lt _ (by decide)
  unfold symbolsOf at hx
  simp only [List.mem_append, List.mem_map, List.mem_range] at hx
  show _ = (homeOf s a).1
  unfold rawByte physLine checkLine at hx
  obtain ⟨i, hi, rfl⟩ | ⟨i, hi, rfl⟩ := hx <;> omega

/-- A controller whose lines are zeroed holds no error. -/
theorem symbolErrs_zeroController {s : State} {k a : Nat} (h : a < memTop s) (hk : (ctrlOf s a).1 = k) :
    symbolErrs (zeroController s k) a = 0 := by
  unfold symbolErrs
  split
  · rfl
  · rw [List.countP_eq_zero]
    intro x hx
    have hx : x ∈ symbolsOf s a := hx
    rw [decide_eq_true_eq, not_not]
    refine smapGet_absent symbolDefault fun e he hex => ?_
    have he : e ∈ s.memErr.filter fun e => decide (e.1 / 64 / 2 ^ 29 ≠ k) := he
    rw [List.mem_filter, decide_eq_true_eq, hex, symbolsOf_ctrl h hx] at he
    exact he.2 hk

/-- Whether a key lies in main memory at a controller. -/
def ctrlKey (s : State) (k c : Nat) : Bool := decide (c < memTop s) && decide ((ctrlOf s c).1 = k)

theorem byteAt_zeroController {s : State} (hw : memWf s.mem = true) (k a : Nat) :
    byteAt (zeroController s k) a = if a < memTop s ∧ (ctrlOf s a).1 = k then 0 else byteAt s a := by
  have hz : byteAt (zeroController s k) a = byteAt (zeroKeys s (ctrlKey s k)) a :=
    byteAt_congr (t := zeroController s k) (s := zeroKeys s (ctrlKey s k)) ⟨rfl, rfl, fun _ _ => rfl⟩ rfl a
  rw [hz]
  cases hk : byteKey s a with
  | none =>
    rw [byteAt_zeroKeys_none _ hk, if_neg]
    rintro ⟨ha, -⟩
    unfold byteKey at hk
    rw [if_pos ha] at hk
    cases hk
  | some c =>
    rw [byteAt_zeroKeys _ hw hk]
    by_cases ha : a < memTop s
    · have hc : c = a := by
        unfold byteKey at hk
        rw [if_pos ha] at hk
        exact (Option.some.inj hk).symm
      simp [hc, ctrlKey, ha]
    · have hck : ctrlKey s k c = false := by
        unfold ctrlKey
        rw [Bool.and_eq_false_imp]
        intro hc
        have hkc : byteKey s c = some c := if_pos (of_decide_eq_true hc)
        exact absurd (byteKey_inj hk hkc ▸ of_decide_eq_true hc) ha
      rw [hck, if_neg (by decide), if_neg fun h => ha h.1]

theorem memState_setMemState {s : State} (hw : smapWf regDefault s.regs = true) (k st : Nat) (hst : st < 8) :
    memState (setMemState s k st) k = st := by
  unfold memState setMemState
  rw [rget_rmod_same _ _ _ _ hw, bitsN_setBits_same _ _ (by decide)]
  omega

theorem reinitDone_zeroes {k : Fin 48} {s : State} (hc : Canonical s) (hd : domOn s 2 = true) (hm : memState s k.val = 4) :
    ∃ t, exec (.reinitDone k) s = .next t ∧ memState t k.val = 1 ∧ (∀ a, a < memTop s → (ctrlOf s a).1 = k.val → symbolErrs t a = 0) ∧
      ∀ a, byteAt t a = if a < memTop s ∧ (ctrlOf s a).1 = k.val then 0 else byteAt s a := by
  have hex : Leaves (.reinitDone k) s (setMemState (zeroController s k.val) k.val 1) :=
    leaves_of (congrArg (answer s) (if_pos (by rw [hd, decide_eq_true hm]; rfl))) rfl
  have hst := memState_setMemState (s := zeroController s k.val) hc.2 k.val 1 (by decide)
  have hplaces : SamePlaces (zeroController s k.val) (setMemState (zeroController s k.val) k.val 1) := by
    refine ⟨rfl, rfl, fun n hn => rget_rmod_other _ hc.2 ?_⟩
    show 0x2000400 + 0 * 1 + n * 8 ≠ 0x2400000 + k.val * 0x4000 + 0 * 1
    omega
  refine ⟨_, hex, ?_, fun a ha hk => ?_, fun a => ?_⟩
  · unfold memState State.rget at hst ⊢
    rw [summaryRise_regs]
    exact hst
  · have hs : ∀ t : State, symbolErrs (summaryRise s t) a = symbolErrs t a := fun t => by
      rw [(summaryRise_same s t).eq]
      rfl
    rw [hs]
    exact symbolErrs_zeroController ha hk
  · rw [byteAt_summaryRise, byteAt_congr hplaces rfl, byteAt_zeroController hc.1]

/-! ## Configuration writes of the controllers and the layout -/

theorem recorded_keeps {γ : Type} (g : State → γ) (h : ∀ (s : State) l f d q c, g { s with latches := l, free := f, dbg := d, regs := q, cur := c } = g s)
    (s : State) (w : Writer) (r : RegName) (k n size : Nat) (v : W64) : g (recorded s w r k n size v) = g s := by
  obtain ⟨l, f, d, q, b, e, hr⟩ := recorded_frame s w r k n size v
  rw [hr]
  exact h s l f d q _

theorem aligned_memCtl : ∀ k : Fin 48, alignedAccess (RegName.memCtl.at k.val 0) 4 = true := by decide

theorem reinit_leaves (w : Writer) (k : Fin 48) (v : W32) (s : State) (hw : Writable w (RegName.memCtl.at k.val 0) s)
    (hm : memState s k.val = 3) :
    Leaves (.reinit w k v) s (setMemState (recorded s w .memCtl k.val 0 4 ((setBit v 0 true).zeroExtend 64)) k.val 4) := by
  refine write32_leaves rfl hw (findReg_memCtl k) rfl (aligned_memCtl k) ?_ (congrArg VitState.met (recorded_vit _ _ _ _ _ _ _))
  · have hst : memState (recorded s w .memCtl k.val 0 4 ((setBit v 0 true).zeroExtend 64)) k.val = 3 := by
      unfold memState State.rget at hm ⊢
      rw [recorded_regs _ _ _ _ _ _ _ rfl rfl]
      exact hm
    have hbit : bitB ((setBit v 0 true).zeroExtend 64) 0 = true := by
      rw [bitB_zeroExtend]
      simp [bitB, setBit, getLsbD_setBits]
    show reinitWrite _ _ (((setBit v 0 true).zeroExtend 64)) = _
    unfold reinitWrite
    rw [if_pos (by rw [hbit, decide_eq_true hst]; rfl)]

theorem memRetire_leaves (w : Writer) (v : W32) (s : State) (hw : Writable w (RegName.memRetire.at 0 0) s) (hg : bitB v 31 = true)
    (hk : bitsN v 0 6 < 48) (hm : s.memMap.getLsbD (bitsN v 0 6) = true)
    (hl : (s.memMap &&& ~~~s.memPend) &&& ~~~(BitVec.ofNat 48 (2 ^ bitsN v 0 6)) ≠ 0) :
    Leaves (.memRetire w v) s { recorded s w .memRetire 0 0 4 (v.zeroExtend 64) with memPend := setBit s.memPend (bitsN v 0 6) true } := by
  refine write32_leaves rfl hw (findReg_single _ (by decide)) rfl (by decide) ?_ (congrArg VitState.met (recorded_vit _ _ _ _ _ _ _))
  have hmap : (recorded s w .memRetire 0 0 4 (v.zeroExtend 64)).memMap = s.memMap :=
    recorded_keeps State.memMap (fun _ _ _ _ _ _ => rfl) _ _ _ _ _ _ _
  have hpend : (recorded s w .memRetire 0 0 4 (v.zeroExtend 64)).memPend = s.memPend :=
    recorded_keeps State.memPend (fun _ _ _ _ _ _ => rfl) _ _ _ _ _ _ _
  show memRetireWrite _ (v.zeroExtend 64) = _
  unfold memRetireWrite
  dsimp only
  rw [bitsN_zeroExtend, hmap, hpend, if_pos]
  rw [bitB_zeroExtend, hg, decide_eq_true hk, hm, decide_eq_true hl]
  rfl

theorem layDtab_leaves (w : Writer) (v : W64) (s : State) (i : Nat) (e : InvEntry) (hw : Writable w (RegName.layDtab.at 0 0) s)
    (hd : anyDesc s = false) (hh : handleEntry s (v.extractLsb' 0 32) = some (i, e)) (hk : e.kind = 3) :
    let y := recorded s w .layDtab 0 0 8 v
    Leaves (.layDtabWrite w v) s { y with lay := { y.lay with
      dtabRefused := false, dtab := v.extractLsb' 0 32, slots := min (e.size.toNat / 128) 1048576 } } := by
  intro y
  refine write64_leaves rfl hw (findReg_single _ (by decide)) rfl (by decide) ?_ (congrArg VitState.met (recorded_vit _ _ _ _ _ _ _))
  have hany : anyDesc y = false := (recorded_keeps anyDesc (fun _ _ _ _ _ _ => rfl) _ _ _ _ _ _ _).trans hd
  have hent : handleEntry y (v.extractLsb' 0 32) = some (i, e) :=
    (recorded_keeps (fun s => handleEntry s (v.extractLsb' 0 32)) (fun _ _ _ _ _ _ => rfl) _ _ _ _ _ _ _).trans hh
  show dtabWrite y v = _
  unfold dtabWrite
  dsimp only
  rw [hany, hent]
  simp [hk]

/-! ## The accumulator (R280, R283) -/

/-- Sending what waits for a tag changes the ports, the tags, and the count of what could not be sent, alone. -/
structure OnlySent (s t : State) : Prop where
  eq : t = { s with fab := t.fab, regs := t.regs, col := t.col }
  wf : smapWf regDefault s.regs = true → smapWf regDefault t.regs = true
  reg : ∀ r i n, r.at i n ≠ RegName.at .zmzDropCount 0 0 → smapWf regDefault s.regs = true → t.rget r i n = s.rget r i n
  accq : t.col.accq = s.col.accq

theorem OnlySent.refl (s : State) : OnlySent s s := ⟨rfl, id, fun _ _ _ _ _ => rfl, rfl⟩

theorem OnlySent.trans {s t u : State} (h : OnlySent s t) (k : OnlySent t u) : OnlySent s u := by
  refine ⟨?_, k.wf ∘ h.wf, fun r i n hr hw => (k.reg r i n hr (h.wf hw)).trans (h.reg r i n hr hw), k.accq.trans h.accq⟩
  have he := k.eq
  generalize u.fab = a at he ⊢
  generalize u.regs = b at he ⊢
  generalize u.col = c at he ⊢
  rw [he, h.eq]

theorem switchOut_sent {s t : State} {src : Option (Fin 16)} {x : Txn} (h : switchOut s src x = some t) : OnlySent s t := by
  unfold switchOut at h
  split at h
  · cases h
    exact ⟨rfl, id, fun _ _ _ _ _ => rfl, rfl⟩
  · split at h
    · cases h
    · split at h
      · cases h
      · cases h
        exact ⟨rfl, id, fun _ _ _ _ _ => rfl, rfl⟩

theorem countStray_sent (s : State) : OnlySent s (countStray s) :=
  ⟨rfl, rset_wf _ _ _ _, fun _ _ _ hr hw => rget_rset_other _ hw hr, rfl⟩

theorem sendTxn_sent (s : State) (x : Txn) : OnlySent s (sendTxn s x) := by
  unfold sendTxn switchTxn
  split
  · next h => exact switchOut_sent h
  · split
    · exact countStray_sent s
    · split
      · next h => exact switchOut_sent h
      · exact countStray_sent s

theorem pumpReqs_sent (n : Nat) : ∀ s : State, OnlySent s (pumpReqs n s) := by
  induction n with
  | zero => exact .refl
  | succ n ih =>
    intro s
    unfold pumpReqs
    split
    · next q rest t _ _ =>
      refine .trans ?_ (ih _)
      refine .trans ?_ (sendTxn_sent _ _)
      exact ⟨rfl, id, fun _ _ _ _ _ => rfl, rfl⟩
    · exact .refl s

theorem OnlySent.places {s t : State} (h : OnlySent s t) (hw : smapWf regDefault s.regs = true) : SamePlaces s t := by
  refine ⟨by rw [h.eq], by rw [h.eq], fun n hn => h.reg _ _ _ (fun e => ?_) hw⟩
  have e : 0x2000400 + 0 * 1 + n * 8 = 0x2c00030 + 0 * 1 + 0 * 1 := e
  omega

theorem OnlySent.good {s t : State} (h : OnlySent s t) (hw : smapWf regDefault s.regs = true) (g : StorageGood s) : StorageGood t := by
  refine g.congr (by rw [h.eq]) (by rw [h.eq]) (by rw [h.eq]) (fun p => by rw [h.eq]; rfl) (by rw [h.eq]) (by rw [h.eq])
    (fun k hk => h.reg _ _ _ (fun e => ?_) hw) fun n hn => h.reg _ _ _ (fun e => ?_) hw
  · have e : 0x2400000 + k * 0x4000 + 0 * 1 = 0x2c00030 + 0 * 1 + 0 * 1 := e
    omega
  · have e : 0x2000100 + 0 * 1 + n * 8 = 0x2c00030 + 0 * 1 + 0 * 1 := e
    omega

theorem cellAt_none {cells : List (Nat × Byte)} {a : Nat} (h : ∀ c ∈ cells, c.1 ≠ a) : cellAt cells a = none := by
  unfold cellAt
  rw [List.find?_eq_none.mpr fun c hc => by simpa using h c hc]
  rfl

theorem cellAt_some {cells : List (Nat × Byte)} {a : Nat} {b : Byte} (hp : cells.Pairwise fun x y => x.1 ≠ y.1) (h : (a, b) ∈ cells) :
    cellAt cells a = some b := by
  unfold cellAt
  induction cells with
  | nil => cases h
  | cons c t ih =>
    obtain ⟨hc, ht⟩ := List.pairwise_cons.mp hp
    rcases List.mem_cons.mp h with rfl | h
    · rw [List.find?_cons_of_pos (by simp)]
      rfl
    · rw [List.find?_cons_of_neg (by simpa using hc _ h)]
      exact ih ht h

theorem mem_cellsAt {a : Nat} {bs : List Byte} {c : Nat × Byte} : c ∈ cellsAt a bs ↔ ∃ i, ∃ h : i < bs.length, c = (a + i, bs[i]) := by
  unfold cellsAt
  rw [List.mem_mapIdx]
  simp only [eq_comm]

theorem cellsAt_pairwise (a : Nat) (bs : List Byte) : (cellsAt a bs).Pairwise fun x y => x.1 ≠ y.1 := by
  unfold cellsAt
  rw [List.pairwise_iff_getElem]
  intro i j hi hj hij
  simp only [List.getElem_mapIdx]
  omega

/-- The byte that consecutive cells hold at an address. -/
theorem cellAt_cellsAt (a x : Nat) (bs : List Byte) : cellAt (cellsAt a bs) x = if a ≤ x ∧ x < a + bs.length then bs[x - a]? else none := by
  split
  · next h =>
    have hi : x - a < bs.length := by omega
    rw [List.getElem?_eq_getElem hi]
    refine cellAt_some (cellsAt_pairwise a bs) (mem_cellsAt.mpr ⟨x - a, hi, ?_⟩)
    rw [show a + (x - a) = x by omega]
  · next h =>
    refine cellAt_none fun c hc => ?_
    obtain ⟨i, hi, rfl⟩ := mem_cellsAt.mp hc
    dsimp only
    omega

/-- The bytes of words that stand one after another. -/
theorem words_getElem (l : List W32) (i : Nat) :
    (l.flatMap fun x => leBytes 4 x.toNat)[i]? = l[i / 4]?.map fun x => BitVec.ofNat 8 (x.toNat / 256 ^ (i % 4)) := by
  induction l generalizing i with
  | nil => rfl
  | cons x t ih =>
    rw [List.flatMap_cons, leBytes_eq]
    by_cases hi : i < 4
    · rw [List.getElem?_append_left (by simpa using hi), show i / 4 = 0 by omega, show i % 4 = i by omega]
      simp [hi]
    · rw [List.getElem?_append_right (by simpa using hi)]
      simp only [List.length_map, List.length_range]
      rw [ih, show i / 4 = (i - 4) / 4 + 1 by omega, show (i - 4) % 4 = i % 4 by omega, List.getElem?_cons_succ]

theorem words_length (l : List W32) : (l.flatMap fun x => leBytes 4 x.toNat).length = 4 * l.length := by
  induction l with
  | nil => rfl
  | cons x t ih =>
    rw [List.flatMap_cons, List.length_append, ih, leBytes_eq, List.length_map, List.length_range, List.length_cons]
    omega

theorem accLine_length (init : Bool) (old : List W32) (vals : List (BitVec 16)) : (accLine init old vals).length = vals.length := by
  unfold accLine
  rw [List.length_mapIdx]

/-- A line of an accumulation that meets no error is read, changed and written back, and nothing else changes but the lines that the L2
holds. -/
theorem accApply_good {s : State} (h : StorageGood s) (a : Nat) (init : Bool) (vals : List (BitVec 16)) : ∃ t, OnlyL2 s t ∧
    accApply s a init vals = (putCells t (cellsAt a ((accLine init ((List.range 16).map fun i =>
      BitVec.ofNat 32 (leNat (readBytes s (a + 4 * i) 4))) vals).flatMap fun x => leBytes 4 x.toNat)),
      .ok (accLine init ((List.range 16).map fun i => BitVec.ofNat 32 (leNat (readBytes s (a + 4 * i) 4))) vals)) := by
  have hread : ∃ t, (if init then (l2Rewrite s a, none) else sliceRead .coll 2 s a) = (t, none) ∧ OnlyL2 s t := by
    cases init with
    | true =>
      refine ⟨s, ?_, .refl s⟩
      rw [if_pos rfl]
      unfold l2Rewrite
      rw [if_neg]
      intro hany
      obtain ⟨x, hx, he⟩ := List.any_eq_true.mp hany
      simp [h.lines x hx] at he
    | false => exact sliceRead_good h .coll 2 a
  obtain ⟨t, ht, ho⟩ := hread
  refine ⟨t, ho, ?_⟩
  have hclean : cleanLine t a = t := by
    unfold cleanLine
    rw [if_pos (by rw [(h.l2 ho).mem]; rfl)]
  have hbytes (x n : Nat) : readBytes t x n = readBytes s x n := readBytes_congr (.l2 ho) ho.mem x n
  unfold accApply
  rw [h.ctrl a, if_neg (by decide)]
  dsimp only
  rw [ht]
  dsimp only
  rw [hclean]
  simp only [hbytes]

/-- The report of a line that has been applied, in its shard. -/
def reportedLine (o : AccOp) (new : List W32) (s : State) : State :=
  match o.shard with
  | none => s
  | some (n, b) => modShard s n b fun x => { x with reports := kvInsert x.reports (o.chunk * 64 + o.line) (accReport new) }

theorem reportedLine_col (o : AccOp) (new : List W32) (s : State) : ∃ c, reportedLine o new s = { s with col := c } ∧ c.accq = s.col.accq := by
  unfold reportedLine
  split
  · exact ⟨s.col, rfl, rfl⟩
  · exact ⟨_, rfl, rfl⟩

/-- One line operation that holds a tag. -/
def lineStep (u : State) (o : AccOp) (init : Bool) : State :=
  let r := accApply u o.addr init o.vals
  match r.2 with
  | .error f => contribFailed r.1 o f
  | .ok new => if o.last then contribDone (reportedLine o new r.1) o else reportedLine o new r.1

theorem lineStep_good {u : State} {o : AccOp} (h : StorageGood u) (hl : o.last = false) (init : Bool) :
    let new := accLine init ((List.range 16).map fun i => BitVec.ofNat 32 (leNat (readBytes u (o.addr + 4 * i) 4))) o.vals
    ∃ t, OnlyL2 u t ∧
      lineStep u o init = reportedLine o new (putCells t (cellsAt o.addr (new.flatMap fun x => leBytes 4 x.toNat))) := by
  intro new
  obtain ⟨t, ho, ht⟩ := accApply_good h o.addr init o.vals
  refine ⟨t, ho, ?_⟩
  unfold lineStep
  rw [ht]
  dsimp only
  rw [hl, if_neg (by decide)]

theorem putCells_col (s : State) (cells : List (Nat × Byte)) : (putCells s cells).col = s.col :=
  foldl_keeps (fun (s : State) (c : Nat × Byte) => putByte s c.1 c.2) State.col (fun s c => putByte_col s c.1 c.2) cells s

theorem loseController_vit (s : State) (k : Nat) : (loseController s k).vit = s.vit := by
  unfold loseController
  split
  · rfl
  · dsimp only
    split <;> rfl

/-- One line of an accumulation for which a tag is free is applied at its home slice. -/
theorem accumulatorOp_applies {s : State} {o : AccOp} {rest : List AccOp} (hq : s.col.accq = o :: rest) (hlast : o.last = false)
    (hc : Canonical s) (hg : StorageGood s) (htag : s.col.reqs.length < collTags) (ha : o.addr + 64 ≤ memTop s)
    (hm : memState s (ctrlOf s o.addr).1 = 1) (hv : o.vals.length = 16) :
    let old := (List.range 16).map fun i => BitVec.ofNat 32 (leNat (readBytes s (o.addr + 4 * i) 4))
    let new := accLine (opInit s o) old o.vals
    ∃ t, exec .accumulatorOp s = .next t ∧ t.col.accq = rest ∧ t.cores = s.cores ∧
      ∀ a, byteAt t a = if o.addr ≤ a ∧ a < o.addr + 64 then
        BitVec.ofNat 8 ((new.getD ((a - o.addr) / 4) 0).toNat / 256 ^ ((a - o.addr) % 4)) else byteAt s a := by
  intro old new
  have hfilter : (s.col.accq.filter fun _ => decide (s.col.reqs.length < collTags) && s.col.accq.head?.any fun o => ctrlAnswers s o.addr) =
      o :: rest := by
    rw [hq]
    have hans : ctrlAnswers s o.addr = true := by
      unfold ctrlAnswers
      rw [hg.clock, show decide (bitsN (s.rget .memStatus (ctrlOf s o.addr).1 0) 0 3 = 1) = true from decide_eq_true hm, Bool.and_self, Bool.or_true]
    exact List.filter_eq_self.mpr fun _ _ => by simp [htag, hans]
  have hsent : OnlySent { s with col := { s.col with accq := rest } } (repump { s with col := { s.col with accq := rest } }) :=
    pumpReqs_sent _ _
  have hperf := perfCount_perf (s := repump { s with col := { s.col with accq := rest } })
    (t := repump { s with col := { s.col with accq := rest } }) ⟨rfl, hsent.wf hc.2, fun _ _ _ _ => rfl⟩
    (4 * (ctrlOf s o.addr).1 + 3) 1
  have hplaces : SamePlaces s (repump { s with col := { s.col with accq := rest } }) :=
    have h := hsent.places hc.2
    ⟨h.map, h.memMap, h.swz⟩
  have hgood : StorageGood (repump { s with col := { s.col with accq := rest } }) :=
    hsent.good hc.2 (hg.congr rfl rfl rfl (fun _ => rfl) rfl rfl (fun _ _ => rfl) fun _ _ => rfl)
  have hexec : exec .accumulatorOp s = answer s (lineStep (perfCount (repump { s with col := { s.col with accq := rest } }) .dbgMem
      (4 * (ctrlOf s o.addr).1 + 3) 1) o (opInit s o)) := by
    show execAccumulatorOp s = _
    unfold execAccumulatorOp
    rw [hfilter]
    rfl
  have hmem := hsent.eq
  have haccq := hsent.accq
  generalize repump { s with col := { s.col with accq := rest } } = x at *
  generalize perfCount x .dbgMem (4 * (ctrlOf s o.addr).1 + 3) 1 = u at *
  have hbytes (b : Nat) : byteAt u b = byteAt s b :=
    (byteAt_congr hperf.places (by rw [hperf.eq]) b).trans (byteAt_congr hplaces (by rw [hmem]) b)
  have hread (b n : Nat) : readBytes u b n = readBytes s b n := by
    unfold readBytes
    simp only [hbytes]
  obtain ⟨t, ho, hstep⟩ := lineStep_good (hperf.good hgood) hlast (opInit s o)
  simp only [hread] at hstep
  have hplacet : SamePlaces s t := by
    have h1 := hplaces
    have h2 := hperf.places
    have h3 := SamePlaces.l2 ho
    exact ⟨h3.map.trans (h2.map.trans h1.map), h3.memMap.trans (h2.memMap.trans h1.memMap),
      fun n hn => (h3.swz n hn).trans ((h2.swz n hn).trans (h1.swz n hn))⟩
  have hmemt : t.mem = s.mem := by rw [ho.mem, hperf.eq, hmem]
  have hcorest : t.cores = s.cores := by rw [ho.eq, hperf.eq, hmem]
  have haccqt : t.col.accq = rest := by rw [ho.eq, hperf.eq, haccq]
  have hmett : t.vit.met = s.vit.met := by rw [ho.met, hperf.eq, hmem]
  obtain ⟨col, hcol, hq2⟩ := reportedLine_col o new (putCells t (cellsAt o.addr (new.flatMap fun x => leBytes 4 x.toNat)))
  have hkeys : ∀ c ∈ cellsAt o.addr (new.flatMap fun x => leBytes 4 x.toNat), byteKey t c.1 ≠ none := by
    intro c hcm
    obtain ⟨i, hi, rfl⟩ := mem_cellsAt.mp hcm
    rw [words_length, accLine_length, hv] at hi
    rw [hplacet.byteKey]
    unfold byteKey
    rw [if_pos (by dsimp only; omega)]
    exact Option.some_ne_none _
  have hmet : (lineStep u o (opInit s o)).vit.met = s.vit.met := by
    rw [hstep, hcol]
    show (putCells t _).vit.met = _
    rw [putCells_vit, hmett]
  refine ⟨_, hexec.trans (answer_same hmet), ?_, ?_, fun a => ?_⟩
  · rw [summaryRise_col, hstep, hcol]
    exact hq2.trans ((putCells_col t _).symm ▸ haccqt)
  · rw [summaryRise_cores, hstep, hcol]
    exact (foldl_keeps (fun (s : State) (c : Nat × Byte) => putByte s c.1 c.2) State.cores (fun s c => putByte_cores s c.1 c.2) _ _).trans hcorest
  · rw [byteAt_summaryRise, hstep, hcol]
    show byteAt (putCells t (cellsAt o.addr (new.flatMap fun x => leBytes 4 x.toNat))) a = _
    rw [byteAt_putCells _ (by rw [hmemt]; exact hc.1) hkeys (cellsAt_pairwise _ _), cellAt_cellsAt, words_length, accLine_length, hv]
    by_cases hin : o.addr ≤ a ∧ a < o.addr + 64
    · have hlt : (a - o.addr) / 4 < new.length := by
        rw [accLine_length, hv]
        omega
      rw [if_pos hin, if_pos hin, words_getElem, List.getElem?_eq_getElem hlt, List.getD_eq_getElem _ _ hlt]
      rfl
    · rw [if_neg hin, if_neg hin]
      exact byteAt_congr hplacet hmemt a

/-- Settles O49: each event of the controllers, the descriptor table and the accumulator leaves what its row says. -/
theorem memoryRows : Obligations.MemoryRows := by
  unfold Obligations.MemoryRows
  refine ⟨fun k code hot s hd hk => ?_, fun s hd => leaves_of (congrArg (answer s) (if_pos hd)) rfl, fun s hc => ⟨leaves_of ?_ ?_, leaves_of ?_ ?_⟩,
    reinit_leaves, fun k s hc hd hm => reinitDone_zeroes hc hd hm, memRetire_leaves,
    fun w v s i e hw hd hh hk _ => layDtab_leaves w v s i e hw hd hh hk,
    fun s o rest hq hl hc hg ht ha hm hv => accumulatorOp_applies hq hl hc hg ht ha hm hv⟩
  · refine leaves_of ((congrArg (answer s) (if_pos (by rw [hd, hk]; rfl))).trans rfl) ?_
    split <;> rfl
  · exact congrArg (answer s) (if_neg (by simp [hc]))
  · rw [releaseHolds_met]
  · exact congrArg (answer s) (if_neg (by simp [hc]))
  · rw [releaseHolds_met, foldl_keeps loseController State.vit loseController_vit]

end Sys2Proof.Machine


/-! # The events of a port (O50) -/

namespace Sys2Proof.Machine

open Sys2Proof.Tests

/-- A flit that a port hears and that the FEC and the CRC find good has its header applied. -/
theorem receive_good {s : State} {i : Fin 16} {f : Flit} {rx : FlitRx} (hh : portHears (portOf s i) = true)
    (hf : (fecStep s i rx).2 = false) (hc : rx.crc = flitCrc f) :
    receive s i f rx = (applyHeader (countLanes (portOf s i) rx (fecStep s i rx).1 i) i f, true) := by
  unfold receive
  rw [if_pos hh]
  dsimp only
  rw [hf, if_pos (by simp [hc])]

/-- A port in INIT whose count of corrected symbols is stored although it reads as after reset. The stored registers are not in canonical
form: the entry hides the role that comes after it, 2, so that the port reads as a torus port. -/
def hiddenRoleSt : State :=
  { modPort (portSt 3) 0 fun x => { x with told := true } with
    regs := [(RegName.zmzFec.at 0 0, 0), (RegName.zmzRole.at 0 0, 2), (RegName.zmzTopo.at 0 0, 0x80000000)] }

/-- The far end that the port hears, which is not the neighbour of a torus port. -/
def strangerEnd : FarEnd := { id := 0x7FFF }

def strangerFlit : Flit := { ftype := 2, slots := ctrlSlots strangerEnd }

def strangerRx : FlitRx := { crc := flitCrc strangerFlit }

/-- The port once the good flit has come: the count is stored as a register that reads as after reset is, so that it is not listed, and the
role shows. -/
def heardRoleSt : State := applyHeader (countLanes (portOf hiddenRoleSt 0) strangerRx (fecStep hiddenRoleSt 0 strangerRx).1 0) 0 strangerFlit

theorem strangerFlit_heard : receive hiddenRoleSt 0 strangerFlit strangerRx = (heardRoleSt, true) :=
  receive_good (by decide +kernel) (by decide +kernel) rfl

theorem hiddenRole_shows : portRole hiddenRoleSt 0 = 3 ∧ strangerEnd.id ≠ expectedFar hiddenRoleSt 0 ∧ (portOf hiddenRoleSt 0).state.toNat ∈ [2, 3, 4, 7] ∧
    bitB (hiddenRoleSt.rget .zmzTopo 0 0) 31 = true ∧ (portOf heardRoleSt 0).state = 3 ∧ (portOf heardRoleSt 0).told = true ∧
    heardRoleSt.vit = hiddenRoleSt.vit ∧
    (portOf (settleInit (modPort heardRoleSt 0 (hearFar strangerEnd)) 0) 0).state = 4 := by
  decide +kernel

theorem miswired_state (s : State) (i : Fin 16) (a : BitVec 16) (b : W32) :
    (portOf (logZmz (modPort s i fun x => { x with state := 7 }) a i.val b) i).state = 7 := by
  have h : (logZmz (modPort s i fun x => { x with state := 7 }) a i.val b).fab = (modPort s i fun x => { x with state := 7 }).fab := by
    unfold logZmz logWrite
    split <;> rfl
  unfold portOf
  rw [h]
  simp [modPort, setPort]

theorem settleInit_vit (s : State) (i : Fin 16) : (settleInit s i).vit = s.vit := by
  unfold settleInit
  dsimp only
  split
  · rfl
  · split
    · exact (logWrite_apart _ _ _ _).vit
    · rfl

theorem summaryRise_portOf (b s : State) (i : Fin 16) : portOf (summaryRise b s) i = portOf s i := by
  rw [(summaryRise_same b s).eq]
  rfl

/-- A good CTRL flit in INIT has the far end's identity checked. -/
theorem ctrlFlit_settles {s x : State} {i : Fin 16} {hdr : Flit} {rx : FlitRx} {far : FarEnd}
    (hr : receive s i { hdr with ftype := 2, slots := ctrlSlots far } rx = (x, true)) (hst : (portOf x i).state = 3) (hv : x.vit = s.vit) :
    Leaves (.ctrlFlit i hdr rx far) s (settleInit (modPort x i (hearFar far)) i) := by
  refine leaves_of ?_ (congrArg VitState.met ((settleInit_vit _ i).trans hv))
  show execCtrlFlit i hdr rx far s = _
  unfold execCtrlFlit
  dsimp only
  rw [hr]
  dsimp only
  rw [if_pos (by simp [hst])]

theorem leaves_unique {i : Instr} {s x y : State} (hx : Leaves i s x) (hy : Leaves i s y) : summaryRise s x = summaryRise s y := by
  have h := hx.symm.trans hy
  injection h

/-- Refutes O50: the row of a CTRL flit reads the port's role before the flit, and where the stored registers are not in canonical form the
count of the flit's corrected symbols uncovers another role, so that a port that the row makes MISWIRED is ACTIVE. -/
theorem not_linkRows : ¬ Obligations.LinkRows := by
  unfold Obligations.LinkRows
  rintro ⟨h, -⟩
  obtain ⟨hrole, hfar, hhears, hvalid, hst, htold, hvit, hactive⟩ := hiddenRole_shows
  obtain ⟨-, -, -, hctrl, -⟩ := h 0 hiddenRoleSt
  obtain ⟨-, hctrl⟩ := hctrl {} strangerRx strangerEnd hhears
  rw [show receive hiddenRoleSt 0 { ftype := 2, slots := ctrlSlots strangerEnd } strangerRx = (heardRoleSt, true) from strangerFlit_heard]
    at hctrl
  obtain ⟨-, hsettle⟩ := hctrl rfl (.inr hst)
  obtain ⟨-, hmiswired⟩ := hsettle hst hvalid htold
  have hport := congrArg (fun t => (portOf t 0).state) (leaves_unique (hmiswired hrole hfar) (ctrlFlit_settles strangerFlit_heard hst hvit))
  simp only [summaryRise_portOf] at hport
  rw [hactive] at hport
  exact absurd ((miswired_state _ _ _ _).symm.trans hport) (by decide)

end Sys2Proof.Machine


/-! # What a port sends, and what its slots parse back to (O51) -/

namespace Sys2Proof.Machine

/-! ## A flit leaves (R324, R325, R328) -/

theorem portOf_setPort (s : State) (i : Fin 16) (x : Port) : portOf (setPort s i x) i = x := by
  unfold portOf setPort
  simp

theorem portOf_modPort (s : State) (i : Fin 16) (f : Port → Port) : portOf (modPort s i f) i = f (portOf s i) := portOf_setPort s i _

/-- From state s to state t port i, which was x, has sent flit f with what its receiver has to say. -/
def SentBy (i : Fin 16) (x : Port) (s t : State) (f : Flit) : Prop :=
  t.out = s.out ++ [.flit i f] ∧ f.ack = x.expect - 1 ∧ f.ackv = x.gotAny ∧ f.nak = x.nakDue ∧ f.cret = x.freed ∧
    (portOf t i).nakDue = false

theorem perfCount_portOf (s : State) (r : RegName) (n k : Nat) (i : Fin 16) : portOf (perfCount s r n k) i = portOf s i := by
  unfold perfCount
  split <;> rfl

theorem perfCount_out (s : State) (r : RegName) (n k : Nat) : (perfCount s r n k).out = s.out := by
  unfold perfCount
  split <;> rfl

theorem sendFlit_portOf (s : State) (i : Fin 16) (f : Flit) : portOf (sendFlit s i f) i =
    { portOf s i with nakDue := false, sinceNull := if f.ftype = 0 then 0 else (portOf s i).sinceNull + 1 } := by
  unfold sendFlit
  dsimp only
  by_cases h : f.ftype = 0
  · rw [if_pos (decide_eq_true h), perfCount_portOf, if_pos h]
    simp only [h, decide_true, if_true]
    exact portOf_setPort s i _
  · rw [if_neg fun hd => h (of_decide_eq_true hd), if_neg h]
    simp only [h, decide_false, Bool.false_eq_true, if_false]
    exact portOf_setPort s i _

/-- A flit that leaves carries what its port's receiver has to say. -/
theorem sendFlit_sent {i : Fin 16} {x : Port} {b s : State} (f : Flit) (ho : s.out = b.out) (he : (portOf s i).expect = x.expect)
    (hg : (portOf s i).gotAny = x.gotAny) (hn : (portOf s i).nakDue = x.nakDue) (hf : (portOf s i).freed = x.freed) :
    SentBy i x b (sendFlit s i f) (stamp (portOf s i) f) := by
  refine ⟨?_, by rw [← he]; rfl, hg, hn, hf, by rw [sendFlit_portOf]⟩
  rw [← ho]
  unfold sendFlit
  dsimp only
  split
  · rw [perfCount_out]
    rfl
  · rfl

/-! ## Flits of a port that aligns (R320, R327, R329) -/

section
variable (i : Fin 16) (s t : State)

/-- What a port in ALIGN or INIT sends where it sends a flit. -/
def LinkSends : Prop :=
  let x := portOf s i
  ∃ f, SentBy i x s t f ∧
    (2047 ≤ x.sinceNull → f.ftype = 0) ∧
    (x.sinceNull < 2047 →
      (∀ m rest, x.timeq = m :: rest → f.ftype = 3 ∧ f.slots =
        timeSlots (if m.resp then 2 else 1) m.num m.t2 (if m.resp then now96 s else 0) ∧ (portOf t i).timeq = rest) ∧
      (x.timeq = [] → f.ftype = 2 ∧ (portOf t i).told = true ∧
        f.slots = ctrlSlots { id := ownId s, port := BitVec.ofNat 4 i.val, role := BitVec.ofNat 4 (portRole s i), units := freeUnits x }))

end

/-- A TIME flit has the time at which it is sent. -/
theorem sendTime_sent (s : State) (i : Fin 16) {m : TimeMsg} {rest : List TimeMsg} (h : (portOf s i).timeq = m :: rest) :
    ∃ f, SentBy i (portOf s i) s (sendTime s i m) f ∧ f.ftype = 3 ∧
      f.slots = timeSlots (if m.resp then 2 else 1) m.num m.t2 (if m.resp then now96 s else 0) ∧
      (portOf (sendTime s i m) i).timeq = rest := by
  have hport : ∀ u : State, u.fab.ports = (modPort s i fun x => { x with timeq := x.timeq.tail }).fab.ports →
      portOf u i = { portOf s i with timeq := rest } := fun u hu => by
    have hp := portOf_modPort s i fun x => { x with timeq := x.timeq.tail }
    rw [h] at hp
    unfold portOf at hp ⊢
    rw [hu]
    exact hp
  unfold sendTime
  dsimp only
  cases m.resp with
  | true =>
    have hp := hport _ rfl
    refine ⟨_, sendFlit_sent _ rfl ?_ ?_ ?_ ?_, rfl, rfl, ?_⟩
    · rw [if_pos rfl, hp]
    · rw [if_pos rfl, hp]
    · rw [if_pos rfl, hp]
    · rw [if_pos rfl, hp]
    · rw [if_pos rfl, sendFlit_portOf, hp]
  | false =>
    have hp := hport { modPort s i fun x => { x with timeq := x.timeq.tail } with
      fab := { (modPort s i fun x => { x with timeq := x.timeq.tail }).fab with
        exch := (modPort s i fun x => { x with timeq := x.timeq.tail }).fab.exch.map fun e => (e.1, now96 s) } } rfl
    refine ⟨_, sendFlit_sent _ rfl ?_ ?_ ?_ ?_, rfl, rfl, ?_⟩
    · rw [if_neg (by decide), hp]
    · rw [if_neg (by decide), hp]
    · rw [if_neg (by decide), hp]
    · rw [if_neg (by decide), hp]
    · rw [if_neg (by decide), sendFlit_portOf, hp]

/-- A NULL flit. -/
theorem sendNull_sent (s : State) (i : Fin 16) : ∃ f, SentBy i (portOf s i) s (sendFlit s i {}) f ∧ f.ftype = 0 :=
  ⟨_, sendFlit_sent {} rfl rfl rfl rfl rfl, rfl⟩

theorem linkFlit_sends (i : Fin 16) (s : State) : LinkSends i s (linkFlit s i) := by
  unfold LinkSends linkFlit
  dsimp only
  by_cases hnull : 2047 ≤ (portOf s i).sinceNull
  · rw [if_pos hnull]
    obtain ⟨f, hf, h0⟩ := sendNull_sent s i
    exact ⟨f, hf, fun _ => h0, fun h => absurd hnull (by omega)⟩
  · rw [if_neg hnull]
    cases hq : (portOf s i).timeq with
    | cons m rest =>
      obtain ⟨f, hf, h3, hslots, hrest⟩ := sendTime_sent s i hq
      refine ⟨f, hf, fun h => absurd h hnull, fun _ => ⟨fun m' rest' he => ?_, fun he => absurd he (by simp)⟩⟩
      cases he
      exact ⟨h3, hslots, hrest⟩
    | nil =>
      have hp := portOf_modPort s i fun x => { x with told := true }
      refine ⟨_, sendFlit_sent (b := s) (x := portOf s i) (s := modPort s i fun x => { x with told := true }) _ rfl ?_ ?_ ?_ ?_, fun h => absurd h hnull,
        fun _ => ⟨fun m rest he => absurd he (by simp), fun _ => ⟨rfl, ?_, rfl⟩⟩⟩
      · rw [hp]
      · rw [hp]
      · rw [hp]
      · rw [hp]
      · show (portOf (sendFlit _ i _) i).told = true
        rw [sendFlit_portOf, hp]

theorem settleInit_out (s : State) (i : Fin 16) : (settleInit s i).out = s.out := by
  unfold settleInit
  dsimp only
  split
  · rfl
  · split
    · unfold logZmz logWrite
      split <;> rfl
    · rfl

theorem logZmz_portOf (s : State) (a : BitVec 16) (n : Nat) (b : W32) (i : Fin 16) : portOf (logZmz s a n b) i = portOf s i := by
  unfold logZmz logWrite
  split <;> rfl

/-- The check of the far end's identity changes the state of the port alone. -/
theorem settleInit_portOf (s : State) (i : Fin 16) : ∃ st r, portOf (settleInit s i) i = { portOf s i with state := st, ready := r } := by
  unfold settleInit
  dsimp only
  split
  · exact ⟨_, _, rfl⟩
  · split
    · rw [logZmz_portOf, portOf_modPort]
      exact ⟨_, _, rfl⟩
    · rw [portOf_modPort]
      exact ⟨_, _, rfl⟩

theorem settleInit_sends {i : Fin 16} {s t : State} (h : LinkSends i s t) : LinkSends i s (settleInit t i) := by
  obtain ⟨f, ⟨ho, ha, hv, hn, hc, hdue⟩, hnull, hrest⟩ := h
  obtain ⟨st, r, hp⟩ := settleInit_portOf t i
  refine ⟨f, ⟨by rw [settleInit_out, ho], ha, hv, hn, hc, by rw [hp]; exact hdue⟩, hnull, fun hlt => ?_⟩
  rw [hp]
  exact hrest hlt

/-! ## Flits of an ACTIVE port (R324, R327) -/

/-- Starting transactions changes what has started, what waits and the credits, and nothing else of a port. -/
theorem fillFlit_keeps {γ : Type} (g : Port → γ) (hg : ∀ x t, g (startTx x t) = g x) (n : Nat) : ∀ x, g (fillFlit n x) = g x := by
  induction n with
  | zero => exact fun _ => rfl
  | succ n ih =>
    intro x
    unfold fillFlit
    split
    · rfl
    · split
      · rfl
      · rw [ih, hg]

theorem sendData_sent (s : State) (i : Fin 16) {y : Port} (he : y.expect = (portOf s i).expect) (hg : y.gotAny = (portOf s i).gotAny)
    (hn : y.nakDue = (portOf s i).nakDue) (hf : y.freed = (portOf s i).freed) :
    ∃ f g, SentBy i (portOf s i) s (sendData s i y) f ∧ f.ftype = 1 ∧ f.seq = y.txSeq ∧
      f.slots = (y.txPart ++ List.replicate 31 0).take 31 ∧
      portOf (sendData s i y) i = { y with
        txPart := y.txPart.drop 31, txSeq := y.txSeq + 1, replay := y.replay ++ [g], nakDue := false, sinceNull := y.sinceNull + 1 } ∧
      g.seq = y.txSeq ∧ g.slots = f.slots := by
  unfold sendData
  dsimp only
  generalize hd : ({ ftype := 1, seq := y.txSeq, slots := (y.txPart ++ List.replicate 31 0).take 31 } : Flit) = d
  have hp := portOf_setPort s i { y with txPart := y.txPart.drop 31, txSeq := y.txSeq + 1, replay := y.replay ++ [d] }
  have hsent := sendFlit_sent (b := s) (x := portOf s i) d (s := setPort s i { y with
    txPart := y.txPart.drop 31, txSeq := y.txSeq + 1, replay := y.replay ++ [d] }) rfl (by rw [hp]; exact he) (by rw [hp]; exact hg)
    (by rw [hp]; exact hn) (by rw [hp]; exact hf)
  obtain ⟨ho, ha, hv, hna, hc, hdue⟩ := hsent
  have htype : d.ftype = 1 := hd ▸ rfl
  refine ⟨_, d, ⟨by rw [perfCount_out]; exact ho, ha, hv, hna, hc, by rw [perfCount_portOf]; exact hdue⟩, htype, hd ▸ rfl, hd ▸ rfl, ?_,
    hd ▸ rfl, rfl⟩
  rw [perfCount_portOf, sendFlit_portOf, hp, htype]
  rfl

/-- A flit that is sent again. -/
theorem resendFlit_sent (s : State) (i : Fin 16) (g : Flit) (rest : List Flit) :
    ∃ f, SentBy i (portOf s i) s (sendFlit (setPort s i { portOf s i with resend := rest }) i g) f ∧ f.ftype = g.ftype ∧
      f.seq = g.seq ∧ f.slots = g.slots ∧ (portOf (sendFlit (setPort s i { portOf s i with resend := rest }) i g) i).resend = rest := by
  have hp := portOf_setPort s i { portOf s i with resend := rest }
  refine ⟨_, sendFlit_sent g rfl ?_ ?_ ?_ ?_, rfl, rfl, rfl, ?_⟩
  · rw [hp]
  · rw [hp]
  · rw [hp]
  · rw [hp]
  · rw [sendFlit_portOf, hp]

/-- What an ACTIVE port sends. -/
theorem activeFlit_sends (i : Fin 16) (s : State) :
    let x := portOf s i
    let t := activeFlit s i
    ∃ f, SentBy i x s t f ∧
      (2047 ≤ x.sinceNull → f.ftype = 0) ∧
      (x.sinceNull < 2047 →
        (∀ m rest, x.timeq = m :: rest → f.ftype = 3 ∧ f.slots =
          timeSlots (if m.resp then 2 else 1) m.num m.t2 (if m.resp then now96 s else 0) ∧ (portOf t i).timeq = rest) ∧
        (x.timeq = [] →
          (∀ g rest, x.resend = g :: rest → f.ftype = g.ftype ∧ f.seq = g.seq ∧ f.slots = g.slots ∧
            (portOf t i).resend = rest) ∧
          (x.resend = [] →
            let y := fillFlit 31 x
            (y.txPart = [] ∨ 256 ≤ x.replay.length → f.ftype = 0) ∧
            (y.txPart ≠ [] → x.replay.length < 256 → f.ftype = 1 ∧ f.seq = x.txSeq ∧
              f.slots = (y.txPart ++ List.replicate 31 0).take 31 ∧ (portOf t i).txPart = y.txPart.drop 31 ∧
              (portOf t i).txSeq = x.txSeq + 1 ∧
              ∃ g, (portOf t i).replay = x.replay ++ [g] ∧ g.seq = x.txSeq ∧ g.slots = f.slots)))) := by
  dsimp only
  unfold activeFlit
  dsimp only
  by_cases hnull : 2047 ≤ (portOf s i).sinceNull
  · rw [if_pos hnull]
    obtain ⟨f, hf, h0⟩ := sendNull_sent s i
    exact ⟨f, hf, fun _ => h0, fun h => absurd hnull (by omega)⟩
  rw [if_neg hnull]
  cases hq : (portOf s i).timeq with
  | cons m rest =>
    obtain ⟨f, hf, h3, hslots, hrest⟩ := sendTime_sent s i hq
    refine ⟨f, hf, fun h => absurd h hnull, fun _ => ⟨fun m' rest' he => ?_, fun he => absurd he (by simp)⟩⟩
    cases he
    exact ⟨h3, hslots, hrest⟩
  | nil =>
    dsimp only
    cases hr : (portOf s i).resend with
    | cons g rest =>
      obtain ⟨f, hf, ht, hseq, hslots, hrest⟩ := resendFlit_sent s i g rest
      have hnone : ({ portOf s i with resend := rest } : Port) = { portOf s i with resend := rest, timeq := [] } := by rw [← hq]
      rw [hnone] at hf hrest
      refine ⟨f, hf, fun h => absurd h hnull, fun _ => ⟨fun m rest he => absurd he (by simp), fun _ => ⟨fun g' rest' he => ?_,
        fun he => absurd he (by simp)⟩⟩⟩
      cases he
      exact ⟨ht, hseq, hslots, hrest⟩
    | nil =>
      dsimp only
      have hreplay : (fillFlit 31 (portOf s i)).replay = (portOf s i).replay := fillFlit_keeps Port.replay (fun _ _ => rfl) 31 _
      have hseq : (fillFlit 31 (portOf s i)).txSeq = (portOf s i).txSeq := fillFlit_keeps Port.txSeq (fun _ _ => rfl) 31 _
      by_cases hempty : (fillFlit 31 (portOf s i)).txPart = [] ∨ 256 ≤ (portOf s i).replay.length
      · rw [if_pos (by simpa [List.isEmpty_iff] using hempty)]
        obtain ⟨f, hf, h0⟩ := sendNull_sent s i
        refine ⟨f, hf, fun _ => h0, fun _ => ⟨fun m rest he => absurd he (by simp), fun _ => ⟨fun g rest he => absurd he (by simp),
          fun _ => ⟨fun _ => h0, fun h1 h2 => ?_⟩⟩⟩⟩
        exact absurd hempty (by simp only [h1, false_or, not_le]; exact h2)
      · rw [if_neg (by simpa [List.isEmpty_iff] using hempty)]
        obtain ⟨f, g, hf, h1, hfseq, hslots, hport, hgseq, hgslots⟩ := sendData_sent s i (y := fillFlit 31 (portOf s i))
          (fillFlit_keeps Port.expect (fun _ _ => rfl) 31 _) (fillFlit_keeps Port.gotAny (fun _ _ => rfl) 31 _)
          (fillFlit_keeps Port.nakDue (fun _ _ => rfl) 31 _) (fillFlit_keeps Port.freed (fun _ _ => rfl) 31 _)
        refine ⟨f, hf, fun h => absurd h hnull, fun _ => ⟨fun m rest he => absurd he (by simp), fun _ => ⟨fun g rest he => absurd he (by simp),
          fun _ => ⟨fun h => absurd h hempty, fun _ _ => ⟨h1, by rw [hfseq, hseq], hslots, ?_, ?_, g, ?_, by rw [hgseq, hseq], hgslots⟩⟩⟩⟩⟩
        · rw [hport]
        · rw [hport, hseq]
        · rw [hport, hreplay]

/-! ## Which transaction starts (R327, R328) -/

theorem firstOfVc_mem {x : Port} {v : Nat} {w : Nat × Txn} (h : firstOfVc x v = some w) : w ∈ x.txq ∧ w.2.vc.toNat = v := by
  have key : ∀ (l : List (Nat × Txn)) (best : Option (Nat × Txn)), (l.foldl (fun best t => match best with
      | none => some t
      | some b => if turn (vAt x.served 16 v) t.1 < turn (vAt x.served 16 v) b.1 then some t else some b) best) = some w →
      w ∈ l ∨ best = some w := by
    intro l
    induction l with
    | nil => exact fun _ h => .inr h
    | cons t l ih =>
      intro best h
      rcases ih _ h with h | h
      · exact .inl (List.mem_cons_of_mem _ h)
      · cases best with
        | none => exact .inl (by cases h; exact List.mem_cons_self)
        | some b =>
          dsimp only at h
          split at h
          · exact .inl (by cases h; exact List.mem_cons_self)
          · exact .inr h
  unfold firstOfVc at h
  rcases key _ _ h with h | h
  · have h := List.mem_filter.mp h
    exact ⟨h.1, by simpa using h.2⟩
  · cases h

/-- A VC in which a transaction is queued has a first one. -/
theorem firstOfVc_some {x : Port} {u : Nat × Txn} (h : u ∈ x.txq) : ∃ w, firstOfVc x u.2.vc.toNat = some w := by
  have key : ∀ (l : List (Nat × Txn)) (b : Nat × Txn), ∃ w, (l.foldl (fun best t => match best with
      | none => some t
      | some b => if turn (vAt x.served 16 u.2.vc.toNat) t.1 < turn (vAt x.served 16 u.2.vc.toNat) b.1 then some t else some b)
        (some b)) = some w := by
    intro l
    induction l with
    | nil => exact fun b => ⟨b, rfl⟩
    | cons t l ih =>
      intro b
      rw [List.foldl_cons]
      dsimp only
      split
      · exact ih _
      · exact ih _
  have hmem : u ∈ x.txq.filter fun t => decide (t.2.vc.toNat = u.2.vc.toNat) := List.mem_filter.mpr ⟨h, by simp⟩
  unfold firstOfVc
  cases hl : x.txq.filter fun t => decide (t.2.vc.toNat = u.2.vc.toNat) with
  | nil => rw [hl] at hmem; cases hmem
  | cons t l => exact key l t

/-- What the transmitter starts is queued and has credit, and no queued transaction of a higher VC had. -/
theorem nextTx_credit (x : Port) (t : Nat × Txn) (h : nextTx x = some t) : t ∈ x.txq ∧ txnUnits t.2 ≤ (vAt x.avail 0 t.2.vc.toNat).toNat ∧
    ∀ u ∈ x.txq, t.2.vc.toNat < u.2.vc.toNat → ∃ w, firstOfVc x u.2.vc.toNat = some w ∧ (vAt x.avail 0 u.2.vc.toNat).toNat < txnUnits w.2 := by
  unfold nextTx at h
  obtain ⟨l, v, r, hl, hv, hbefore⟩ := List.findSome?_eq_some_iff.mp h
  have hw : creditWait x v = false ∧ firstOfVc x v = some t := by
    cases hc : creditWait x v with
    | true => rw [hc] at hv; cases hv
    | false => rw [hc] at hv; exact ⟨rfl, hv⟩
  obtain ⟨hcredit, hfirst⟩ := hw
  obtain ⟨hmem, hvc⟩ := firstOfVc_mem hfirst
  refine ⟨hmem, ?_, fun u hu hlt => ?_⟩
  · unfold creditWait at hcredit
    rw [hfirst] at hcredit
    rw [hvc]
    simpa using hcredit
  · obtain ⟨w, hw⟩ := firstOfVc_some hu
    have hin : u.2.vc.toNat ∈ l := by
      have hu4 := u.2.vc.isLt
      rw [hvc] at hlt
      match l, hl with
      | [], hl => simp only [List.nil_append, List.cons.injEq] at hl; omega
      | [a], hl => simp only [List.cons_append, List.nil_append, List.cons.injEq] at hl; simp only [List.mem_cons]; omega
      | [a, b], hl => simp only [List.cons_append, List.nil_append, List.cons.injEq] at hl; simp only [List.mem_cons]; omega
      | [a, b, c], hl => simp only [List.cons_append, List.nil_append, List.cons.injEq] at hl; simp only [List.mem_cons]; omega
      | a :: b :: c :: d :: l, hl => exact absurd (congrArg List.length hl) (by simp)
    have hwait := hbefore _ hin
    cases hc : creditWait x u.2.vc.toNat with
    | false => rw [hc, if_neg (by decide), hw] at hwait; cases hwait
    | true =>
      unfold creditWait at hc
      rw [hw] at hc
      exact ⟨w, hw, by simpa using hc⟩

/-! ## The slots of a transaction (R331, R332) -/

theorem headerSlot_toNat (t : Txn) : (headerSlot t).toNat = t.ttype.toNat + t.vc.toNat * 2 ^ 4 + (if t.be then 2 ^ 6 else 0) +
    t.dst.toNat * 2 ^ 8 + t.src.toNat * 2 ^ 24 + t.tag.toNat * 2 ^ 40 + t.tepoch.toNat * 2 ^ 54 + t.len.toNat * 2 ^ 56 +
    t.addr.toNat * 2 ^ 64 + t.hops.toNat * 2 ^ 112 := by
  unfold headerSlot
  rw [BitVec.toNat_ofNat]
  have h1 := t.ttype.isLt
  have h2 := t.vc.isLt
  have h3 := t.dst.isLt
  have h4 := t.src.isLt
  have h5 := t.tag.isLt
  have h6 := t.tepoch.isLt
  have h7 := t.len.isLt
  have h8 := t.addr.isLt
  have h9 := t.hops.isLt
  have hb : (if t.be then 2 ^ 6 else 0) ≤ 64 := by split <;> decide
  generalize (if t.be then 2 ^ 6 else 0) = b at *
  omega

/-- A field of a slot. -/
theorem field_eq {n : Nat} {x : BitVec 128} {y : BitVec n} (lo : Nat) (h : x.toNat / 2 ^ lo % 2 ^ n = y.toNat) :
    x.extractLsb' lo n = y := by
  apply BitVec.eq_of_toNat_eq
  rw [BitVec.extractLsb'_toNat, Nat.shiftRight_eq_div_pow]
  exact h

theorem bitB_slot (x : BitVec 128) (i : Nat) : bitB x i = decide (x.toNat / 2 ^ i % 2 = 1) := by
  unfold bitB
  rw [BitVec.getLsbD, Nat.testBit_eq_decide_div_mod_eq]

/-- The header of a transaction parses back to it, without what its other slots hold. -/
theorem parseHeader_headerSlot {t : Txn} (h : txnSent t = true) :
    parseHeader (headerSlot t) = some { t with enables := 0, data := [] } ∧ headerSlot t ≠ 0 := by
  unfold txnSent at h
  simp only [Bool.and_eq_true, decide_eq_true_eq] at h
  obtain ⟨⟨⟨⟨hty, hl1, hl2⟩, haddr⟩, -⟩, -⟩ := h
  have hx := headerSlot_toNat t
  have h1 := t.ttype.isLt
  have h2 := t.vc.isLt
  have h3 := t.dst.isLt
  have h4 := t.src.isLt
  have h5 := t.tag.isLt
  have h6 := t.tepoch.isLt
  have h7 := t.len.isLt
  have h8 := t.addr.isLt
  have h9 := t.hops.isLt
  obtain ⟨b, hbe, hb⟩ : ∃ b : Nat, (if t.be then 2 ^ 6 else 0) = b * 64 ∧ b = t.be.toNat := ⟨t.be.toNat, by cases t.be <;> rfl, rfl⟩
  have hb1 : b ≤ 1 := by rw [hb]; cases t.be <;> decide
  rw [hbe] at hx
  generalize headerSlot t = x at *
  have etype : x.extractLsb' 0 4 = t.ttype := field_eq 0 (by rw [hx]; omega)
  have evc : x.extractLsb' 4 2 = t.vc := field_eq 4 (by rw [hx]; omega)
  have edst : x.extractLsb' 8 16 = t.dst := field_eq 8 (by rw [hx]; omega)
  have esrc : x.extractLsb' 24 16 = t.src := field_eq 24 (by rw [hx]; omega)
  have etag : x.extractLsb' 40 14 = t.tag := field_eq 40 (by rw [hx]; omega)
  have eep : x.extractLsb' 54 2 = t.tepoch := field_eq 54 (by rw [hx]; omega)
  have elen : x.extractLsb' 56 7 = t.len := field_eq 56 (by rw [hx]; omega)
  have eaddr : x.extractLsb' 64 48 = t.addr := field_eq 64 (by rw [hx]; omega)
  have ehops : x.extractLsb' 112 7 = t.hops := field_eq 112 (by rw [hx]; omega)
  have ebe : bitB x 6 = t.be := by
    rw [bitB_slot, show x.toNat / 2 ^ 6 % 2 = b by rw [hx]; omega, hb]
    cases t.be <;> rfl
  have e7 : bitB x 7 = false := by rw [bitB_slot, decide_eq_false]; rw [hx]; omega
  have e63 : bitB x 63 = false := by rw [bitB_slot, decide_eq_false]; rw [hx]; omega
  have e119 : bitsN x 119 9 = 0 := by unfold bitsN; rw [hx]; omega
  have e76 : t.ttype = 4 → bitsN x 76 36 = 0 := fun h4 => by
    have := haddr h4
    unfold bitsN
    rw [hx]
    omega
  refine ⟨?_, fun h0 => ?_⟩
  · unfold parseHeader
    dsimp only
    rw [etype, evc, edst, esrc, etag, eep, elen, eaddr, ehops, ebe, if_pos]
    rw [e7, e63, decide_eq_true e119, decide_eq_true hty, decide_eq_true (show 1 ≤ t.len.toNat ∧ t.len.toNat ≤ 64 from ⟨hl1, hl2⟩)]
    simpa [Bool.or_eq_true, ← Classical.not_imp, imp_iff_not_or] using e76
  · rw [h0] at hx
    have : (0 : BitVec 128).toNat = 0 := rfl
    rw [this] at hx
    omega

theorem leBytes_length (n x : Nat) : (leBytes n x).length = n := by rw [leBytes_eq]; simp

/-- Sixteen bytes come back from the slot that holds them. -/
theorem leBytes_leNat {bs : List Byte} (h : bs.length = 16) : leBytes 16 (BitVec.ofNat 128 (leNat bs)).toNat = bs := by
  have hlt := leNat_lt_pow bs
  rw [h] at hlt
  rw [BitVec.toNat_ofNat, Nat.mod_eq_of_lt (by exact hlt), leBytes_eq]
  refine List.ext_getElem (by simp [h]) fun i h1 h2 => ?_
  rw [List.getElem_map, List.getElem_range, leNat_byte bs i h2, List.getD_eq_getElem _ _ h2]

/-- Bytes come back from the slots that hold them. -/
theorem slotBytes_packSlots : ∀ (n : Nat) {bs : List Byte}, bs.length = 16 * n → slotBytes (packSlots n bs) = bs
  | 0, bs, h => by
    rw [List.eq_nil_of_length_eq_zero h]
    rfl
  | n + 1, bs, h => by
    have ih := slotBytes_packSlots n (bs := bs.drop 16) (by rw [List.length_drop]; omega)
    unfold slotBytes at ih ⊢
    unfold packSlots
    rw [List.flatMap_cons, ih, leBytes_leNat (by rw [List.length_take]; omega), List.take_append_drop]

theorem packSlots_length : ∀ (n : Nat) (bs : List Byte), (packSlots n bs).length = n
  | 0, _ => rfl
  | n + 1, bs => by rw [packSlots, List.length_cons, packSlots_length n]

/-- The slots that follow the header of a transaction. -/
def bodySlots (t : Txn) : List (BitVec 128) :=
  (if t.be && decide (t.ttype = 1) then [t.enables] else []) ++ packSlots (dataSlots t.ttype false t.len.toNat) t.data

theorem dataSlots_be (ty : BitVec 4) (be : Bool) (len : Nat) :
    dataSlots ty be len = (if be && decide (ty = 1) then 1 else 0) + dataSlots ty false len := by
  by_cases h : ty = 1
  · subst h
    cases be
    · simp
    · show 4 * len + 1 = 1 + (4 * len + 0)
      omega
  · have hn : ty.toNat ≠ 1 := fun e => h (BitVec.eq_of_toNat_eq e)
    simp only [h, decide_false, Bool.and_false, Bool.false_eq_true, if_false, Nat.zero_add]
    unfold dataSlots
    split <;> simp_all

theorem bodySlots_length (t : Txn) : (bodySlots t).length = dataSlots t.ttype t.be t.len.toNat := by
  unfold bodySlots
  rw [dataSlots_be t.ttype t.be, List.length_append, packSlots_length]
  split <;> rfl

/-- The slots after a header give back what the header does not hold. -/
theorem withData_bodySlots {t : Txn} (h : txnSent t = true) : withData { t with enables := 0, data := [] } (bodySlots t) = t := by
  unfold txnSent at h
  simp only [Bool.and_eq_true, Bool.or_eq_true, decide_eq_true_eq] at h
  obtain ⟨⟨-, hdata⟩, hen⟩ := h
  have hbytes := slotBytes_packSlots _ hdata
  unfold withData bodySlots
  by_cases hbe : t.be = true ∧ t.ttype = 1
  · have hif : (t.be && decide (t.ttype = 1)) = true := by simp [hbe]
    dsimp only
    rw [if_pos hif, if_pos hif]
    simp only [List.cons_append, List.nil_append, List.headD_cons, List.tail_cons, hbytes]
  · have hif : ¬ (t.be && decide (t.ttype = 1)) = true := by simpa using hbe
    dsimp only
    rw [if_neg hif, if_neg hif, List.nil_append, hbytes]
    have := hen.resolve_left hbe
    cases t
    simp_all

theorem txnToSlots_append (t : Txn) (l : List (BitVec 128)) : txnToSlots t ++ l = headerSlot t :: (bodySlots t ++ l) := by
  unfold txnToSlots bodySlots
  generalize headerSlot t = x
  rfl

/-- A parser that meets a header with all its slots behind it takes them. -/
theorem parseSlots_cons {x : BitVec 128} {t : Txn} (h0 : x ≠ 0) (h : parseHeader x = some t) (m : Nat) (b l : List (BitVec 128))
    (hb : b.length = dataSlots t.ttype t.be t.len.toNat) (acc : List Txn) :
    parseSlots (m + 1) (x :: (b ++ l)) acc = parseSlots m l (acc ++ [withData t b]) := by
  conv_lhs => unfold parseSlots
  rw [if_neg h0, h]
  dsimp only
  rw [← hb, if_neg (by rw [List.length_append]; omega), List.take_left, List.drop_left]

/-- A parser that meets a transaction takes it whole. -/
theorem parseSlots_txn {t : Txn} (h : txnSent t = true) (m : Nat) (l : List (BitVec 128)) (acc : List Txn) :
    parseSlots (m + 1) (txnToSlots t ++ l) acc = parseSlots m l (acc ++ [t]) := by
  obtain ⟨hp, hne⟩ := parseHeader_headerSlot h
  rw [txnToSlots_append, parseSlots_cons hne hp m _ l (bodySlots_length t) acc, withData_bodySlots h]

/-- Padding is dropped. -/
theorem parseSlots_zeros : ∀ (n m : Nat) (acc : List Txn), n ≤ m → parseSlots m (List.replicate n 0) acc = .ok (acc, [])
  | 0, 0, _, _ => rfl
  | 0, _ + 1, _, _ => rfl
  | n + 1, 0, _, h => absurd h (by omega)
  | n + 1, m + 1, acc, h => by
    rw [List.replicate_succ]
    unfold parseSlots
    rw [if_pos rfl]
    exact parseSlots_zeros n m acc (by omega)

/-- A stream of transactions parses back to them. -/
theorem parseSlots_stream (n : Nat) : ∀ (ts : List Txn) (m : Nat) (acc : List Txn), (∀ t ∈ ts, txnSent t = true) → ts.length + n ≤ m →
    parseSlots m (ts.flatMap txnToSlots ++ List.replicate n 0) acc = .ok (acc ++ ts, [])
  | [], m, acc, _, hm => by
    rw [List.flatMap_nil, List.nil_append, List.append_nil]
    exact parseSlots_zeros n m acc (by simpa using hm)
  | t :: ts, 0, _, _, hm => absurd hm (by simp)
  | t :: ts, m + 1, acc, h, hm => by
    rw [List.flatMap_cons, List.append_assoc, parseSlots_txn (h t List.mem_cons_self),
      parseSlots_stream n ts m _ (fun x hx => h x (List.mem_cons_of_mem _ hx)) (by simp only [List.length_cons] at hm; omega),
      List.append_assoc]
    rfl

/-! ## A flit boundary -/

theorem flitBoundary_of {i : Fin 16} {s : State} {k : BitVec 3} (h : (portOf s i).state = k) : flitBoundary s i =
    match k.toNat with
    | 2 => if Config.freeChoice (s.free + 16 + i.val) then linkFlit s i else modPort s i fun x => { x with state := 3 }
    | 3 => settleInit (linkFlit s i) i
    | 4 => activeFlit s i
    | 7 => sendFlit s i {}
    | _ => s := by
  subst h
  rfl

/-- Settles O51: a port sends what its state calls for, and the slots of whole transactions parse back to them. -/
theorem flitRows : Obligations.FlitRows := by
  unfold Obligations.FlitRows
  refine ⟨fun i s => ⟨flitBoundary_silent, fun h => ?_, fun h => ?_, fun h => ?_, fun h => ?_⟩, nextTx_credit,
    fun ts n h => ⟨ts.length + n, fun m hm => by simpa using parseSlots_stream n ts m [] h hm⟩⟩
  · have hb := flitBoundary_of h
    rw [hb]
    show (LinkSends i s (if Config.freeChoice (s.free + 16 + i.val) then linkFlit s i else modPort s i fun x => { x with state := 3 })) ∨
      (if Config.freeChoice (s.free + 16 + i.val) then linkFlit s i else modPort s i fun x => { x with state := 3 }) = _
    split
    · exact .inl (linkFlit_sends i s)
    · exact .inr rfl
  · rw [flitBoundary_of h]
    exact settleInit_sends (linkFlit_sends i s)
  · rw [flitBoundary_of h]
    exact sendNull_sent s i
  · rw [flitBoundary_of h]
    exact activeFlit_sends i s

end Sys2Proof.Machine


/-! # Transactions that this module serves (O52) -/

namespace Sys2Proof.Machine

/-! ## What leaves memory and its places alone -/

/-- A register is not a gallery's swizzle. -/
def NotSwz (r : RegName) (i n : Nat) : Prop := ∀ m, m < 64 → RegName.at .vtrSwz 0 m ≠ r.at i n

/-- From state s to state t memory, its places, the cores and the waits are the same, and stored registers stay in canonical form. -/
structure Beside (s t : State) : Prop where
  mem : t.mem = s.mem
  map : t.map = s.map
  memMap : t.memMap = s.memMap
  cores : t.cores = s.cores
  vit : t.vit = s.vit
  regs : smapWf regDefault s.regs = true → smapWf regDefault t.regs = true ∧
    ∀ m, m < 64 → t.rget .vtrSwz 0 m = s.rget .vtrSwz 0 m

theorem Beside.refl (s : State) : Beside s s := ⟨rfl, rfl, rfl, rfl, rfl, fun h => ⟨h, fun _ _ => rfl⟩⟩

theorem Beside.trans {s t u : State} (h : Beside s t) (k : Beside t u) : Beside s u :=
  ⟨k.mem.trans h.mem, k.map.trans h.map, k.memMap.trans h.memMap, k.cores.trans h.cores, k.vit.trans h.vit, fun hw =>
    have ⟨ht, hs⟩ := h.regs hw
    have ⟨hu, hs'⟩ := k.regs ht
    ⟨hu, fun m hm => (hs' m hm).trans (hs m hm)⟩⟩

theorem Beside.places {s t : State} (h : Beside s t) (hw : smapWf regDefault s.regs = true) : SamePlaces s t :=
  ⟨h.map, h.memMap, (h.regs hw).2⟩

theorem Beside.bytes {s t : State} (h : Beside s t) (hw : smapWf regDefault s.regs = true) (a : Nat) : byteAt t a = byteAt s a :=
  byteAt_congr (h.places hw) h.mem a

theorem rset_beside {r : RegName} {i n : Nat} (h : NotSwz r i n) (s : State) (v : W64) : Beside s (s.rset r i n v) :=
  ⟨rfl, rfl, rfl, rfl, rfl, fun hw => ⟨rset_wf _ _ _ _ hw, fun m hm => rget_rset_other v hw (h m hm)⟩⟩

theorem rmod_beside {r : RegName} {i n : Nat} (h : NotSwz r i n) (s : State) (f : W64 → W64) : Beside s (s.rmod r i n f) :=
  rset_beside h s _

theorem logWrite_beside {a b : RegName} (ha : NotSwz a 0 0) (hb : NotSwz b 0 0) (s : State) (v : W64) : Beside s (logWrite s a b v) := by
  unfold logWrite
  split
  · exact .refl s
  · exact (rset_beside ha _ _).trans (rset_beside hb _ _)

/-- The swizzle registers lie from 0x2000400 on, 8 bytes apart. -/
theorem notSwz_of {r : RegName} {i n : Nat} (h : r.at i n < 0x2000400 ∨ 0x2000600 ≤ r.at i n) : NotSwz r i n := by
  intro m hm e
  have e : 0x2000400 + 0 * 1 + m * 8 = r.at i n := e
  omega

theorem sendMsix_beside (s : State) (v : Nat) : Beside s (sendMsix s v) := by
  rw [(sendMsix_same s v).eq]
  exact ⟨rfl, rfl, rfl, rfl, rfl, fun h => ⟨h, fun _ _ => rfl⟩⟩

theorem rasEvent_beside (s : State) (c : BitVec 16) (d : W32) : Beside s (rasEvent s c d) := by
  have hlog : Beside s (logRas s c d) := logWrite_beside (notSwz_of (by decide)) (notSwz_of (by decide)) _ _
  unfold rasEvent
  dsimp only
  split
  · exact hlog.trans (sendMsix_beside _ _)
  · exact hlog

theorem breakSnapshot_beside (s : State) : Beside s (breakSnapshot s) := by
  unfold breakSnapshot
  split <;> exact ⟨rfl, rfl, rfl, rfl, rfl, fun h => ⟨h, fun _ _ => rfl⟩⟩

theorem snapshotHit_beside (s : State) (a n : Nat) : Beside s (snapshotHit s a n) := by
  unfold snapshotHit
  split
  · exact .refl s
  · split
    · exact (breakSnapshot_beside s).trans (rasEvent_beside _ _ _)
    · exact .refl s

theorem OnlySent.beside {s t : State} (h : OnlySent s t) : Beside s t :=
  ⟨by rw [h.eq], by rw [h.eq], by rw [h.eq], by rw [h.eq], by rw [h.eq], fun hw => ⟨h.wf hw, (h.places hw).swz⟩⟩

theorem sendTxn_vit (s : State) (t : Txn) : (sendTxn s t).vit = s.vit := (sendTxn_sent s t).beside.vit

/-! ## Steps of the collective plan meet no wait -/

theorem modStep_vit (s : State) (n : W32) (f : StepState → StepState) : (modStep s n f).vit = s.vit := rfl

theorem perfCount_vit (s : State) (r : RegName) (n k : Nat) : (perfCount s r n k).vit = s.vit := by
  unfold perfCount
  split <;> rfl

theorem decideDepth_vit (s : State) (n : W32) : (decideDepth s n).vit = s.vit := by
  unfold decideDepth
  dsimp only
  have h1 : ∀ x : State, (if 3 ≤ (depthOf s).1 then { x with ras := { x.ras with lastDeep := some x.timeNs } } else x).vit = x.vit :=
    fun x => by split <;> rfl
  split
  · rw [ownChange_vit, h1, ownChange_vit]
  · rw [h1, ownChange_vit]

theorem afterClose_vit (s : State) (n : W32) : (afterClose s n).vit = s.vit := by
  unfold afterClose
  rw [decideDepth_vit]
  split
  · split <;> rfl
  · rfl

theorem closeStep_vit (s : State) (n : W32) (k : Nat) : (closeStep s n k).vit = s.vit := by
  have h : (perfCount (dropShards (modStep s n fun x => { x with closed := true, code := k }) n (decide (k = 6))) .dbgCol 7
      (if k = 4 then 1 else 0)).vit = s.vit := by
    rw [perfCount_vit]
    rfl
  unfold closeStep
  dsimp only
  rw [apply_ite State.vit, afterClose_vit]
  exact (ite_self _).trans h

theorem signalCores_vit (s : State) (l : List (Fin 72)) (inc : Bool) (i : Nat) : (signalCores s l inc i).vit = s.vit :=
  foldl_keeps (fun (s : State) p => s.modCore p (outsideSignal inc i)) State.vit (fun _ _ => rfl) l s

theorem tryCommit_vit (s : State) (n : W32) : (tryCommit s n).vit = s.vit := by
  unfold tryCommit
  split
  · rfl
  · split
    · exact closeStep_vit _ _ _
    · rfl

theorem tryGathered_vit (s : State) (p : Plan) (n : W32) : (tryGathered s p n).vit = s.vit := by
  unfold tryGathered
  split
  · rfl
  · split
    · rw [tryCommit_vit, signalCores_vit, modStep_vit]
    · exact tryCommit_vit _ _

theorem openNext_vit (s : State) (n : W32) : (openNext s n).vit = s.vit := by
  unfold openNext
  split
  · split <;> rfl
  · rfl

/-! ## A delivered transaction -/

theorem takeInbox_eq {s s1 : State} {t : Txn} {ty : Nat} (h : takeInbox s t ty = some s1) :
    ∃ l, s1 = { s with fab := { s.fab with inbox := l } } := by
  unfold takeInbox at h
  dsimp only at h
  split at h
  · cases h
  · split at h
    · cases h
    · exact ⟨_, (Option.some.inj h).symm⟩

theorem onTxn_serves {s s1 : State} {t : Txn} {ty : Nat} (h : takeInbox s t ty = some s1) (hd : domOn s 1 = true) (f : State → State) :
    onTxn s t ty f = answer s (f s1) := by
  unfold onTxn
  rw [h]
  dsimp only
  rw [if_pos hd]

/-- A transaction that is taken leaves what its row says where that meets no wait. -/
theorem txn_leaves {i : Instr} {s s1 x : State} {t : Txn} {ty : Nat} {f : State → State} (hi : exec i s = onTxn s t ty f)
    (h : takeInbox s t ty = some s1) (hd : domOn s 1 = true) (hf : f s1 = x) (hx : x.vit.met = s.vit.met) : Leaves i s x :=
  leaves_of (hi.trans ((onTxn_serves h hd f).trans (congrArg (answer s) hf))) hx

theorem writeCells_pairwise (t : Txn) : (writeCells t).Pairwise fun x y => x.1 ≠ y.1 := by
  unfold writeCells
  rw [List.pairwise_map]
  exact (List.nodup_range.filter _).imp fun h e => h (Nat.add_left_cancel e)

theorem mem_writeCells {t : Txn} {c : Nat × Byte} (h : c ∈ writeCells t) : ∃ i, i < 64 * t.len.toNat ∧ c.1 = t.addr.toNat + i := by
  unfold writeCells at h
  obtain ⟨i, hi, rfl⟩ := List.mem_map.mp h
  exact ⟨i, List.mem_range.mp (List.mem_filter.mp hi).1, rfl⟩

theorem targetFlt_place {s : State} {kinds : List (BitVec 3)} {w : Bool} {t : Txn} (h : targetFlt s kinds w t = none) :
    placeErrSpan .coll s t.addr.toNat (64 * t.len.toNat) = none := by
  unfold targetFlt at h
  dsimp only at h
  split at h
  · cases h
  · exact Option.map_eq_none_iff.mp h

/-- A write of the collective engine changes memory and the count of lines alone. -/
theorem putNoted_coll (s : State) (cells : List (Nat × Byte)) : ∃ m, putNoted .coll s cells = { s with mem := m } := by
  unfold putNoted
  show ∃ m, putCells s cells = _
  unfold putCells
  induction cells generalizing s with
  | nil => exact ⟨s.mem, rfl⟩
  | cons c t ih =>
    rw [List.foldl_cons]
    have h1 : ∃ m, putByte s c.1 c.2 = { s with mem := m } := by
      unfold putByte
      split
      · exact ⟨_, rfl⟩
      · exact ⟨s.mem, rfl⟩
    obtain ⟨m, hm⟩ := h1
    obtain ⟨m', hm'⟩ := ih (putByte s c.1 c.2)
    exact ⟨m', by rw [hm', hm]⟩

/-- A WRITE whose checks hold stores its enabled bytes and is acknowledged. -/
theorem write_served {t : Txn} {s s1 : State} (hd : domOn s 1 = true) (ht : takeInbox s t 1 = some s1)
    (hf : targetFlt s1 [1, 4] true t = none) (hc : Canonical s) (hg : StorageGood s) :
    let w := (devWrite .coll s1 (writeCells t)).1
    let y := snapshotHit w t.addr.toNat (64 * t.len.toNat)
    Leaves (.write t) s (sendTxn y (respond y t 8)) ∧
    ∃ t', exec (.write t) s = .next t' ∧
      ∀ a, byteAt t' a = ((writeCells t).find? fun c => c.1 = a).elim (byteAt s a) (·.2) := by
  intro w y
  obtain ⟨l, he⟩ := takeInbox_eq ht
  have hc1 : Canonical s1 := by rw [he]; exact hc
  have hg1 : StorageGood s1 := by rw [he]; exact hg.congr rfl rfl rfl (fun _ => rfl) rfl rfl (fun _ _ => rfl) fun _ _ => rfl
  have hdev := devWrite_good hg1 hc1.2 .coll (writeCells t)
  have hperf := countLines_perf hc1.2 (writeCells t)
  obtain ⟨m, hput⟩ := putNoted_coll (countLines s1 (writeCells t)) (writeCells t)
  have hw : w = putNoted .coll (countLines s1 (writeCells t)) (writeCells t) := congrArg Prod.fst hdev
  have hwfw : smapWf regDefault w.regs = true := by rw [hw, hput]; exact hperf.wf
  have hbeside : Beside w (sendTxn y (respond y t 8)) := (snapshotHit_beside _ _ _).trans (sendTxn_sent _ _).beside
  have hvit : (sendTxn y (respond y t 8)).vit = s.vit := by
    rw [hbeside.vit, hw, hput]
    show (countLines s1 (writeCells t)).vit = _
    rw [hperf.eq, he]
  have hleaves : Leaves (.write t) s (sendTxn y (respond y t 8)) := by
    refine txn_leaves rfl ht hd ?_ (congrArg VitState.met hvit)
    dsimp only
    rw [hf]
    dsimp only
    rw [show (devWrite .coll s1 (writeCells t)).2 = none from congrArg Prod.snd hdev]
  refine ⟨hleaves, _, hleaves, fun a => ?_⟩
  rw [byteAt_summaryRise, hbeside.bytes hwfw, hw, byteAt_putNoted .coll (writeCells t) (by rw [hperf.eq]; exact hc1.1) (fun c hcm => ?_)
    (writeCells_pairwise t), byteAt_congr hperf.places (by rw [hperf.eq]), he]
  · unfold cellAt
    cases (writeCells t).find? fun c => decide (c.1 = a) <;> rfl
  · obtain ⟨i, hi, hci⟩ := mem_writeCells hcm
    rw [hperf.places.byteKey, hci]
    exact byteKey_of_span (targetFlt_place hf) hi

theorem read_served {t : Txn} {s s1 : State} (hd : domOn s 1 = true) (ht : takeInbox s t 2 = some s1)
    (hf : targetFlt s1 [1, 2, 4] false t = none) (hg : StorageGood s) :
    ∃ l d, Leaves (.read t) s (sendTxn { s1 with vit := { s1.vit with l2 := l }, dbg := { s1.dbg with memLag := d } }
      { respond s1 t 9 with len := t.len, data := readBytes s t.addr.toNat (64 * t.len.toNat) }) := by
  obtain ⟨l, he⟩ := takeInbox_eq ht
  have hg1 : StorageGood s1 := by rw [he]; exact hg.congr rfl rfl rfl (fun _ => rfl) rfl rfl (fun _ _ => rfl) fun _ _ => rfl
  obtain ⟨l2, d, hread⟩ := devRead_lines hg1 .coll t.addr.toNat (64 * t.len.toNat)
  refine ⟨l2, d, txn_leaves rfl ht hd ?_ ?_⟩
  · dsimp only
    rw [hf]
    dsimp only
    rw [hread, he]
    rfl
  · rw [sendTxn_vit, he]

/-- The order of KIND 1 and 2 of a message that passes every check. -/
theorem stepMsg_accepts {s : State} {t : Txn} {p : Plan} (hp : s.col.plan = some p) (hm : t.src ∈ p.members) (hr : msgReservedOk t = true)
    (hs : msgStepOk s (msgStep t) = true) (hid : msgPlan t = p.planId) (hrep : msgRepeated s p t = false) (f : State → Plan → State) :
    stepMsg s t f = f (sendTxn (openNext s (msgStep t)) (respond s t 8)) p := by
  unfold stepMsg
  rw [hp]
  dsimp only
  rw [if_neg (by simp [hm]), if_neg (by simp [hr, hs]), if_neg (by simp [hid]), if_neg (by simp [hrep])]

section
variable {t : Txn} {s s1 : State}

theorem acc_served (hd : domOn s 1 = true) (ht : takeInbox s t 3 = some s1) :
    (accBkt t = true → Unheld s (arriveContrib s1 t (.remote t)) → Leaves (.acc t) s (arriveContrib s1 t (.remote t))) ∧
    (accBkt t = false → ∀ e, dataSpan s (accAddr t) (64 * t.len.toNat) = some e →
      Leaves (.acc t) s (useBegin { s1 with col := { s1.col with accq := s1.col.accq ++ (List.range t.len.toNat).map fun k =>
        { shard := none, chunk := 0, line := k, addr := accAddr t + 64 * k, vals := slice (halves t.data) (16 * k) 16,
          last := decide (k + 1 = t.len.toNat), reply := .remote t, use := some e } } } e)) ∧
    (accBkt t = false → dataSpan s (accAddr t) (64 * t.len.toNat) = none →
      Leaves (.acc t) s (sendTxn s1 (errorTxn s1 t ⟨0x0803, t.addr.extractLsb' 0 32⟩))) := by
  obtain ⟨l, he⟩ := takeInbox_eq ht
  have hspan : dataSpan s1 (accAddr t) (64 * t.len.toNat) = dataSpan s (accAddr t) (64 * t.len.toNat) := by rw [he]; rfl
  refine ⟨fun hb hu => txn_leaves rfl ht hd (if_pos hb) hu, fun hb e hs => txn_leaves rfl ht hd ((if_neg (by simp [hb])).trans ?_) ?_,
    fun hb hs => txn_leaves rfl ht hd ((if_neg (by simp [hb])).trans ?_) ?_⟩
  · unfold arriveAcc
    dsimp only
    rw [hspan, hs, if_neg (by simp)]
    unfold enqueueOps accUse
    dsimp only
    rw [if_neg (by simp), hspan, hs]
    rfl
  · rw [he]
    rfl
  · unfold arriveAcc
    dsimp only
    rw [hspan, hs]
    rfl
  · rw [sendTxn_vit, he]

theorem signal_served (hd : domOn s 1 = true) {p : Fin 72} (ht : takeInbox s t 4 = some s1) (hp : physOf s (bitsN t.addr 0 6) = some p)
    (hi : bitB t.addr 6 = true → bitsN t.addr 7 5 < 16) :
    Leaves (.signal t) s (sendTxn (s1.modCore p (outsideSignal (bitB t.addr 6) (bitsN t.addr 7 5))) (respond s1 t 8)) := by
  obtain ⟨l, he⟩ := takeInbox_eq ht
  have hp1 : physOf s1 (bitsN t.addr 0 6) = some p := by rw [he]; exact hp
  refine txn_leaves rfl ht hd ?_ ?_
  · dsimp only
    rw [hp1]
    dsimp only
    rw [if_neg]
    · rfl
    · intro h
      rw [Bool.and_eq_true, decide_eq_true_eq] at h
      have := hi h.1
      omega
  · rw [sendTxn_vit, modCore_vit, he]

theorem message_served (hd : domOn s 1 = true) {p : Plan} (ht : takeInbox s t 5 = some s1) (hp : s.col.plan = some p)
    (hm : t.src ∈ p.members) (hr : msgReservedOk t = true) (hs : msgStepOk s (msgStep t) = true) (hid : msgPlan t = p.planId)
    (hrep : msgRepeated s1 p t = false) :
    let y := sendTxn (openNext s1 (msgStep t)) (respond s1 t 8)
    (let z := tryVerdict (modStep y (msgStep t) fun x =>
      if x.closed then x else { x with trailers := x.trailers ++
        [(p.members.findIdx fun m => m = t.src, trailerOf (slice t.data 0x10 32))] }) (msgStep t)
     msgKind t = 1 → Unheld s z → Leaves (.stepTrailer t) s z) ∧
    (msgKind t = 2 → Leaves (.gatherDone t) s
      (tryGathered (modStep y (msgStep t) fun x => { x with heard := x.heard ++ [t.src] }) p (msgStep t))) := by
  obtain ⟨l, he⟩ := takeInbox_eq ht
  have hp1 : s1.col.plan = some p := by rw [he]; exact hp
  have hs1 : msgStepOk s1 (msgStep t) = true := by rw [he]; exact hs
  refine ⟨fun hk hu => ?_, fun hk => ?_⟩
  · refine leaves_of ?_ hu
    show execStepTrailer t s = _
    unfold execStepTrailer
    rw [if_neg (by omega), onTxn_serves ht hd]
    refine congrArg (answer s) ?_
    rw [if_neg (by simp [hk])]
    exact stepMsg_accepts hp1 hm hr hs1 hid hrep _
  · refine leaves_of ?_ ?_
    · show execGatherDone t s = _
      unfold execGatherDone
      rw [if_neg (by simp [hk]), onTxn_serves ht hd]
      exact congrArg (answer s) (stepMsg_accepts hp1 hm hr hs1 hid hrep _)
    · rw [tryGathered_vit, modStep_vit, sendTxn_vit, openNext_vit, he]

end

/-- Settles O52: a transaction that this module takes has its row's effect. -/
theorem requestRows : Obligations.RequestRows := by
  unfold Obligations.RequestRows
  intro t s s1 hd
  refine ⟨fun ht hf hc hg => write_served hd ht hf hc hg, fun ht hf hg => read_served hd ht hf hg, fun f ht hf => ?_, fun f ht hf => ?_,
    fun ht => acc_served hd ht, fun p ht hp hi => signal_served hd ht hp hi,
    fun p ht hp hm hr hs hid hrep => message_served hd ht hp hm hr hs hid hrep, fun ht hk hr hu => ?_⟩
  · obtain ⟨l, he⟩ := takeInbox_eq ht
    refine txn_leaves rfl ht hd ?_ (by rw [sendTxn_vit, he])
    dsimp only
    rw [hf]
  · obtain ⟨l, he⟩ := takeInbox_eq ht
    refine txn_leaves rfl ht hd ?_ (by rw [sendTxn_vit, he])
    dsimp only
    rw [hf]
  · refine leaves_of ?_ hu
    show execLoanCommit t s = _
    unfold execLoanCommit
    rw [if_neg (by simp [hk]), onTxn_serves ht hd]
    exact congrArg (answer s) (if_neg (by simp [hr]))

end Sys2Proof.Machine


/-! # Responses, timeouts and the collective plan (O53) -/

namespace Sys2Proof.Machine

/-! ## The end of a request meets no wait -/

theorem logCol_beside (s : State) (code : BitVec 16) (d : W32) : Beside s (logCol s code d) :=
  logWrite_beside (notSwz_of (by decide)) (notSwz_of (by decide)) _ _

theorem logCol_vit (s : State) (code : BitVec 16) (d : W32) : (logCol s code d).vit = s.vit := (logCol_beside s code d).vit

theorem countStray_vit (s : State) : (countStray s).vit = s.vit := (countStray_sent s).beside.vit

theorem request_vit (s : State) (l : List Req) : (request s l).vit = s.vit := by
  unfold request repump
  exact (pumpReqs_sent _ _).beside.vit

theorem settleStop_vit (s : State) (p : Fin 72) : (settleStop s p).vit = s.vit := by
  unfold settleStop
  split <;> rfl

theorem dropReq_vit (s : State) (q : Req) : (dropReq s q).vit = s.vit := by
  unfold dropReq repump
  rw [(pumpReqs_sent _ _).beside.vit]
  cases q.core with
  | none => rfl
  | some p => exact settleStop_vit _ _

theorem collFault_vit (s : State) (l : List (Fin 72)) (f : Flt) : (collFault s l f).vit = s.vit := by
  unfold collFault
  split
  · rfl
  · split
    · rfl
    · exact (coreFault_vit _ _ _ _ _ _).trans (draw_vit s)

theorem failStep_vit (s : State) (n : W32) (f : Flt) : (failStep s n f).vit = s.vit := by
  unfold failStep
  split
  · rfl
  · split
    · rfl
    · rw [closeStep_vit, collFault_vit, logCol_vit, modStep_vit]

theorem remoteEnd_vit (s : State) (q : Req) (core : Fin 72) (tag : W32) (counter : Option Nat) (f : Option Flt) :
    (remoteEnd s q core tag counter f).vit = s.vit := by
  unfold remoteEnd
  split
  · dsimp only
    split
    · rw [collFault_vit, logCol_vit]
    · exact logCol_vit _ _ _
  · split
    · split <;> rfl
    · rfl

theorem tellMembers_vit (s : State) (p : Plan) (x : StepState) : (tellMembers s p x).vit = s.vit := by
  unfold tellMembers
  rw [request_vit, modStep_vit]

theorem loanNext_vit (s : State) (p : Plan) (n : W32) : (loanNext s p n).vit = s.vit := by
  unfold loanNext
  split
  · rfl
  · split
    · rfl
    · dsimp only
      split
      · rfl
      · split
        · exact request_vit _ _
        · rw [request_vit, modStep_vit]

theorem gatherNext_vit (s : State) (n : W32) : (gatherNext s n).vit = s.vit := by
  unfold gatherNext
  split
  · split
    · rw [tryGathered_vit, loanNext_vit, tellMembers_vit]
    · rfl
  · rfl

theorem reqEnd_vit (s : State) (q : Req) (f : Option Flt) : (reqEnd s q f).vit = s.vit := by
  have hlog : (match f with
      | some f => logCol s f.code f.detail
      | none => s).vit = s.vit := by
    split
    · exact logCol_vit _ _ _
    · rfl
  unfold reqEnd
  dsimp only
  split
  · exact hlog
  · exact remoteEnd_vit _ _ _ _ _ _
  · split
    · exact gatherNext_vit _ _
    · rw [modStep_vit]
      exact hlog
  · split
    · exact gatherNext_vit _ _
    · rw [modStep_vit]
      exact hlog
  · split
    · exact gatherNext_vit _ _
    · rw [modStep_vit]
      exact hlog
  · split
    · rw [tryCommit_vit, modStep_vit]
    · rw [modStep_vit]
      exact hlog
  · exact hlog

/-! ## Responses and timeouts -/

theorem onResponse_some {s : State} {t : Txn} {q : Req} (h : reqOf s t = some q) (f : State → Req → State) :
    onResponse s t f = f (dropReq s q) q := by
  unfold onResponse
  rw [h]

theorem onResponse_none {s : State} {t : Txn} (h : reqOf s t = none) (f : State → Req → State) : onResponse s t f = countStray s := by
  unfold onResponse
  rw [h]

section
variable {s s1 : State} {t : Txn}

theorem takeInbox_vit {ty : Nat} (h : takeInbox s t ty = some s1) : s1.vit = s.vit := by
  obtain ⟨l, he⟩ := takeInbox_eq h
  rw [he]

theorem ack_known (hd : domOn s 1 = true) {q : Req} (ht : takeInbox s t 8 = some s1) (hq : reqOf s1 t = some q) :
    let y := dropReq s1 q
    (bitB t.addr 0 = true → isContrib q.use = true →
      Leaves (.ack t) s { y with col := { y.col with retries := y.col.retries ++ [q] } }) ∧
    (bitB t.addr 0 = false ∨ isContrib q.use = false → Leaves (.ack t) s (reqEnd y q none)) := by
  intro y
  have hy : y.vit = s.vit := (dropReq_vit s1 q).trans (takeInbox_vit ht)
  refine ⟨fun hb hu => txn_leaves rfl ht hd ?_ (congrArg VitState.met hy),
    fun hbu => txn_leaves rfl ht hd ?_ (congrArg VitState.met ((reqEnd_vit y q none).trans hy))⟩
  · rw [onResponse_some hq, hb, hu]
    rfl
  · rw [onResponse_some hq]
    refine if_neg ?_
    rw [Bool.and_eq_true]
    rintro ⟨hb, hu⟩
    rcases hbu with h | h
    · exact Bool.false_ne_true (h.symm.trans hb)
    · exact Bool.false_ne_true (h.symm.trans hu)

theorem ack_unknown (hd : domOn s 1 = true) (ht : takeInbox s t 8 = some s1) (hq : reqOf s1 t = none) : Leaves (.ack t) s (countStray s1) :=
  txn_leaves rfl ht hd (onResponse_none hq _) (congrArg VitState.met ((countStray_vit s1).trans (takeInbox_vit ht)))

theorem readData_counts (hd : domOn s 1 = true) (ht : takeInbox s t 9 = some s1) : Leaves (.readData t) s (countStray s1) :=
  txn_leaves rfl ht hd rfl (congrArg VitState.met ((countStray_vit s1).trans (takeInbox_vit ht)))

theorem error_known (hd : domOn s 1 = true) {q : Req} (ht : takeInbox s t 10 = some s1) (hq : reqOf s1 t = some q) :
    Leaves (.errorResponse t) s (reqEnd (dropReq s1 q) q
      (some ⟨BitVec.ofNat 16 (bitsN t.addr 0 16), BitVec.ofNat 32 (bitsN t.addr 16 32)⟩)) :=
  txn_leaves rfl ht hd (onResponse_some hq _)
    (congrArg VitState.met (((reqEnd_vit _ _ _).trans (dropReq_vit s1 q)).trans (takeInbox_vit ht)))

end

theorem respTimeout_ends {tag : BitVec 14} {s : State} {q : Req} (h : s.col.reqs.find? (fun q => q.txn.tag = tag) = some q) :
    Leaves (.respTimeout tag) s (reqEnd (dropReq { s with col := { s.col with
        epochs := smapPut (fun _ => (0 : BitVec 2)) s.col.epochs tag.toNat (epochOf s tag.toNat + 1) } } q) q
      (some ⟨0x0801, BitVec.ofNat 32 (q.txn.dst.toNat + tag.toNat * 2 ^ 16)⟩)) := by
  refine leaves_of ?_ (congrArg VitState.met ((reqEnd_vit _ _ _).trans (dropReq_vit _ _)))
  show execRespTimeout tag s = _
  unfold execRespTimeout
  rw [h]

theorem retryResend_again {s : State} {q : Req} {rest : List Req} {core : Fin 72} {x : Nat} {y : W32} (h : s.col.retries = q :: rest)
    (hu : q.use = .contrib core x y) :
    let z := { s with col := { s.col with retries := rest } }.modCore core fun c => orSticky c .cp 2
    (q.txn.dst ≠ ownId s → Leaves .retryResend s (request z [q])) ∧
    (q.txn.dst = ownId s → Unheld s (arriveContrib z q.txn (.own q.txn q.use)) →
      Leaves .retryResend s (arriveContrib z q.txn (.own q.txn q.use))) := by
  intro z
  have hex : exec .retryResend s = answer s (if q.txn.dst = ownId s then arriveContrib z q.txn (.own q.txn q.use) else request z [q]) := by
    show execRetryResend s = _
    unfold execRetryResend
    rw [h]
    dsimp only
    rw [hu]
  refine ⟨fun hd => leaves_of ?_ (congrArg VitState.met (request_vit z [q])), fun hd hm => leaves_of ?_ hm⟩
  · rw [hex, if_neg hd]
  · rw [hex, if_pos hd]

theorem colTimeout_fails {s : State} {c : StepState} (hc : s.col.cur = some c) (ho : c.closed = false)
    (ht : bitsN (s.rget .colTimeout 0 0) 0 16 ≠ 0) : Leaves .colTimeout s (failStep s c.n ⟨0x0909, c.n⟩) := by
  refine leaves_of ?_ (congrArg VitState.met (failStep_vit s c.n ⟨0x0909, c.n⟩))
  show execColTimeout s = _
  unfold execColTimeout
  rw [hc]
  simp [ho, ht]

/-! ## The plan -/

theorem logChange_beside (s : State) (w : Writer) (size off : Nat) (old new : W64) : Beside s (logChange s w size off old new) :=
  ⟨rfl, rfl, rfl, rfl, rfl, fun h => ⟨h, fun _ _ => rfl⟩⟩

theorem ownChange_beside {r : RegName} {i n : Nat} (h : NotSwz r i n) (s : State) (v m : W64) : Beside s (ownChange s r i n v m) := by
  unfold ownChange
  dsimp only
  split
  · exact ⟨rfl, rfl, rfl, rfl, rfl, fun h => ⟨h, fun _ _ => rfl⟩⟩
  · split
    · exact .refl s
    · unfold withRecord
      split
      · exact logWrite_beside (notSwz_of (by decide)) (notSwz_of (by decide)) _ _
      · exact (logChange_beside _ _ _ _ _ _).trans (rset_beside h _ _)

theorem ownChange_col (s : State) (r : RegName) (i n : Nat) (v m : W64) : (ownChange s r i n v m).col = s.col := by
  unfold ownChange
  dsimp only
  split
  · rfl
  · split
    · rfl
    · unfold withRecord logCur logWrite
      split
      · split <;> rfl
      · rfl

/-- The time of a deep decision. -/
theorem Beside.lastDeep {s t : State} (h : Beside s t) (c : Prop) [Decidable c] (x : Option W64) :
    Beside s (if c then { t with ras := { t.ras with lastDeep := x } } else t) := by
  split
  · exact h.trans ⟨rfl, rfl, rfl, rfl, rfl, fun h => ⟨h, fun _ _ => rfl⟩⟩
  · exact h

theorem decideDepth_beside (s : State) (n : W32) : Beside s (decideDepth s n) := by
  have hdepth := ownChange_beside (notSwz_of (r := .rasDepth) (i := 0) (n := 0) (by decide)) s
  unfold decideDepth
  dsimp only
  split
  · exact ((hdepth _ _).lastDeep _ _).trans (ownChange_beside (notSwz_of (by decide)) _ _ _)
  · exact (hdepth _ _).lastDeep _ _

theorem decideDepth_col (s : State) (n : W32) : (decideDepth s n).col = s.col := by
  have h1 : ∀ x : State, (if 3 ≤ (depthOf s).1 then { x with ras := { x.ras with lastDeep := some x.timeNs } } else x).col = x.col :=
    fun x => by split <;> rfl
  unfold decideDepth
  dsimp only
  split
  · rw [ownChange_col, h1, ownChange_col]
  · rw [h1, ownChange_col]

theorem byteAt_putByte_zero {s : State} (hw : memWf s.mem = true) (x a : Nat) :
    byteAt (putByte s x 0) a = if x = a then 0 else byteAt s a := by
  cases hk : byteKey s x with
  | none =>
    have hput : putByte s x 0 = s := by
      unfold putByte
      rw [hk]
    rw [hput]
    split
    · next h =>
      subst h
      unfold byteAt
      rw [hk]
    · rfl
  | some k =>
    split
    · next h =>
      subst h
      exact byteAt_putByte_same _ hw hk
    · next h => exact byteAt_putByte_other _ hw fun e => h (byteKey_inj hk (e.trans hk))

/-- Zeroes that are written read as zero wherever they go: an address that belongs to nothing reads zero too. -/
theorem byteAt_putZeroes (cells : List (Nat × Byte)) (hz : ∀ c ∈ cells, c.2 = 0) (a : Nat) : ∀ {s : State}, memWf s.mem = true →
    byteAt (putCells s cells) a = if ∃ c ∈ cells, c.1 = a then 0 else byteAt s a := by
  induction cells with
  | nil => exact fun _ => (if_neg (by simp)).symm
  | cons c t ih =>
    intro s hw
    have hc : c.2 = 0 := hz c (by simp)
    show byteAt (putCells (putByte s c.1 c.2) t) a = _
    rw [ih (fun x hx => hz x (by simp [hx])) (putByte_wf _ _ hw), hc, byteAt_putByte_zero hw]
    by_cases h1 : ∃ x ∈ t, x.1 = a
    · obtain ⟨x, hx, he⟩ := h1
      rw [if_pos ⟨x, hx, he⟩, if_pos ⟨x, by simp [hx], he⟩]
    · rw [if_neg h1]
      by_cases h2 : c.1 = a
      · rw [if_pos h2, if_pos ⟨c, by simp, h2⟩]
      · rw [if_neg h2, if_neg]
        rintro ⟨x, hx, he⟩
        rcases List.mem_cons.mp hx with rfl | hx
        · exact h2 he
        · exact h1 ⟨x, hx, he⟩

theorem zeroes_reach (b n a : Nat) : (∃ c ∈ cellsAt b (List.replicate n (0 : Byte)), c.1 = a) ↔ b ≤ a ∧ a < b + n := by
  constructor
  · rintro ⟨c, hc, rfl⟩
    obtain ⟨i, hi, rfl⟩ := mem_cellsAt.mp hc
    rw [List.length_replicate] at hi
    exact ⟨Nat.le_add_right _ _, Nat.add_lt_add_left hi b⟩
  · rintro ⟨h1, h2⟩
    exact ⟨(a, 0), mem_cellsAt.mpr ⟨a - b, by rw [List.length_replicate]; omega, by simp [Nat.add_sub_cancel' h1]⟩, rfl⟩

/-- A run of zeroes that the collective engine writes. -/
theorem zeroFill {s : State} (hg : StorageGood s) (hc : Canonical s) (b n : Nat) :
    let t := (devWrite .coll s (cellsAt b (List.replicate n 0))).1
    t.cores = s.cores ∧ t.vit = s.vit ∧ smapWf regDefault t.regs = true ∧ ∀ a, byteAt t a = if b ≤ a ∧ a < b + n then 0 else byteAt s a := by
  intro t
  have hperf := countLines_perf hc.2 (cellsAt b (List.replicate n 0))
  have ht : t = putCells (countLines s (cellsAt b (List.replicate n 0))) (cellsAt b (List.replicate n 0)) :=
    congrArg Prod.fst (devWrite_good hg hc.2 .coll _)
  obtain ⟨m, hput⟩ := putNoted_coll (countLines s (cellsAt b (List.replicate n 0))) (cellsAt b (List.replicate n 0))
  have hput : t = { countLines s (cellsAt b (List.replicate n 0)) with mem := m } := ht.trans hput
  have hcores : t.cores = s.cores := by
    rw [hput]
    show (countLines s _).cores = _
    rw [hperf.eq]
  have hvit : t.vit = s.vit := by
    rw [hput]
    show (countLines s _).vit = _
    rw [hperf.eq]
  refine ⟨hcores, hvit, by rw [hput]; exact hperf.wf, fun a => ?_⟩
  have hzero : ∀ c ∈ cellsAt b (List.replicate n (0 : Byte)), c.2 = 0 := fun c hc => by
    obtain ⟨i, hi, rfl⟩ := mem_cellsAt.mp hc
    exact List.getElem_replicate _
  rw [ht, byteAt_putZeroes _ hzero a (by rw [hperf.eq]; exact hc.1), byteAt_congr hperf.places (by rw [hperf.eq]), if_congr (zeroes_reach b n a) rfl rfl]

theorem useBegins_eq (l : List Nat) (s : State) : ∃ i, l.foldl useBegin s = { s with lay := { s.lay with inv := i } } := by
  induction l generalizing s with
  | nil => exact ⟨s.lay.inv, rfl⟩
  | cons k t ih =>
    obtain ⟨i, hi⟩ := ih (useBegin s k)
    exact ⟨i, by rw [List.foldl_cons, hi]; rfl⟩

theorem usesEnd_eq (l : List Nat) (s : State) : ∃ i, usesEnd s l = { s with lay := { s.lay with inv := i } } := by
  induction l generalizing s with
  | nil => exact ⟨s.lay.inv, rfl⟩
  | cons k t ih =>
    obtain ⟨i, hi⟩ := ih (useEnd s k)
    exact ⟨i, Eq.trans hi rfl⟩

theorem endPlanUses_eq (s : State) : ∃ i, endPlanUses s = { s with lay := { s.lay with inv := i } } := by
  unfold endPlanUses
  split
  · exact usesEnd_eq _ _
  · exact ⟨s.lay.inv, rfl⟩

/-- The effects of a load after its residuals are zeroed. -/
def planTaken (s : State) (p : Plan) (reason : Nat) : State :=
  let s4 := clearColl s
  let s5 := { s4 with col := { s4.col with plan := some p } }
  let s6 := (s5.rmod .colWinStat 0 0 fun v => setBits v 47 17 0).rset .colCount 0 0 0
  let s7 := planCtl s6 2 reason
  let s8 := ownChange s7 .rasRisk 0 0 (s7.rget .rasPrior 0 0) 0xFFFFFFFF
  decideDepth s8 0

theorem planTaken_beside (s : State) (p : Plan) (k : Nat) : Beside s (planTaken s p k) := by
  have hclear : Beside s { clearColl s with col := { (clearColl s).col with plan := some p } } :=
    ⟨rfl, rfl, rfl, rfl, rfl, fun h => ⟨h, fun _ _ => rfl⟩⟩
  unfold planTaken planCtl
  exact ((((hclear.trans (rmod_beside (notSwz_of (by decide)) _ _)).trans (rset_beside (notSwz_of (by decide)) _ _)).trans
    (rset_beside (notSwz_of (by decide)) _ _)).trans (ownChange_beside (notSwz_of (by decide)) _ _ _)).trans (decideDepth_beside _ _)

theorem planTaken_plan (s : State) (p : Plan) (k : Nat) : (planTaken s p k).col.plan = some p := by
  unfold planTaken
  dsimp only
  rw [decideDepth_col, ownChange_col]
  rfl

/-- The residuals of a plan as zeroes. -/
def residualsWritten (s : State) (p : Plan) : State := (devWrite .coll s (cellsAt p.resBase (List.replicate (4 * p.total) 0))).1

/-- The first half of the residuals is current. -/
def firstResiduals (s : State) : State := { s with col := { s.col with resSel := false } }

/-- The residuals of a plan that has some are zeroed. -/
def residualsZeroed (s : State) (p : Plan) : State := if p.resBase = 0 then s else firstResiduals (residualsWritten s p)

theorem residualsZeroed_bytes {s : State} (hg : StorageGood s) (hc : Canonical s) (p : Plan) :
    let t := residualsZeroed s p
    t.cores = s.cores ∧ t.vit = s.vit ∧ smapWf regDefault t.regs = true ∧
      ∀ a, byteAt t a = if p.resBase ≠ 0 ∧ p.resBase ≤ a ∧ a < p.resBase + 4 * p.total then 0 else byteAt s a := by
  intro t
  by_cases h0 : p.resBase = 0
  · have ht : t = s := if_pos h0
    rw [ht]
    exact ⟨rfl, rfl, hc.2, fun a => (if_neg fun h => h.1 h0).symm⟩
  · have ht : t = firstResiduals (residualsWritten s p) := if_neg h0
    obtain ⟨h1, h2, h3, h4⟩ := zeroFill hg hc p.resBase (4 * p.total)
    rw [ht]
    refine ⟨h1, h2, h3, fun a => Eq.trans (h4 a) (if_congr ?_ rfl rfl)⟩
    exact (and_iff_right h0).symm

/-- A plan whose record can be read and passes every check is taken, with its residuals zeroed. -/
theorem planLoad_passes {s : State} {addr n d : Nat} {t : State} {bs : List Byte} {p : Plan}
    (ha : (s.rget .colPlanAddr 0 0).toNat = addr) (hopen : (stepOpen s || cpBusy s || !entryAt s addr) = false)
    (hn : fieldAt (readBytes s addr 0x80) 8 2 = n) (hd : dataSpan s addr (0x80 + 2 * n) = some d)
    (hread : devRead .coll s addr (0x80 + 2 * n) = (t, bs, none)) (hr : planReason s bs (planOf bs) = none)
    (hp : { planOf bs with rank := ownRank s (planOf bs).members } = p)
    (hall : (((planSpans p addr).filter fun x => x.2 ≠ 0).map fun x => dataSpan s x.1 x.2).any Option.isNone = false) :
    ∃ uses, planLoad s = planTaken (residualsZeroed (uses.foldl useBegin (endPlanUses s)) p) { p with uses := uses }
      (bitsN (s.rget .colPlanCtl 0 0) 8 8) := by
  unfold planLoad
  rw [ha]
  extract_lets a n' r p0 p1 spans ents uses s1 s3 c3 s2 s4 c4 s5 s6 s7 s8
  have hn' : n' = n := hn
  have hr' : r = (t, bs, none) := by rw [← hread, ← hn']
  have hp0 : p0 = planOf bs := congrArg (fun r : State × List Byte × Option Flt => planOf r.2.1) hr'
  have hp1 : p1 = p := by rw [← hp, ← hp0]
  have hents : ents.any Option.isNone = false := by rw [← hp1] at hall; exact hall
  have hs3 : s3 = residualsWritten s1 p1 := rfl
  clear_value s3
  have hs2 : s2 = residualsZeroed s1 p1 := by
    unfold residualsZeroed firstResiduals
    rw [← hs3]
  have htaken : decideDepth s8 0 = planTaken s2 { p1 with uses := uses } (bitsN (s.rget .colPlanCtl 0 0) 8 8) := by
    clear_value s2
    rfl
  refine ⟨uses, ?_⟩
  show _ = planTaken (residualsZeroed s1 p) _ _
  rw [← hp1, ← hs2, ← htaken]
  clear_value s8 p0 p1
  rw [if_neg (show ¬ (stepOpen s || cpBusy s || !entryAt s a) = true by rw [hopen]; exact Bool.false_ne_true), hn',
    show dataSpan s a (128 + 2 * n) = some d from hd, hr', hp0]
  dsimp only
  rw [hr]
  dsimp only
  rw [if_neg (by rw [hents]; exact Bool.false_ne_true)]

/-- The spans of a plan that lie in live entries name an entry each. -/
theorem spans_named {s : State} {p : Plan} {addr : Nat} (h : ∀ x ∈ planSpans p addr, x.2 ≠ 0 → (dataSpan s x.1 x.2).isSome = true) :
    (((planSpans p addr).filter fun x => x.2 ≠ 0).map fun x => dataSpan s x.1 x.2).any Option.isNone = false := by
  rw [List.any_eq_false]
  intro o hmem
  obtain ⟨x, hx, rfl⟩ := List.mem_map.mp hmem
  obtain ⟨hx1, hx2⟩ := List.mem_filter.mp hx
  rw [Option.isNone_iff_eq_none, ← ne_eq, ← Option.isSome_iff_ne_none]
  exact h x hx1 (of_decide_eq_true hx2)

theorem planLoad_takes {s : State} (hg : StorageGood s) (ho : stepOpen s = false) (hb : cpBusy s = false) {addr n : Nat} {bs : List Byte}
    {p : Plan} (ha : (s.rget .colPlanAddr 0 0).toNat = addr) (hn : fieldAt (readBytes s addr 0x80) 8 2 = n)
    (hbs : readBytes s addr (0x80 + 2 * n) = bs) (hp : { planOf bs with rank := ownRank s (planOf bs).members } = p)
    (he : entryAt s addr = true) (hd : (dataSpan s addr (0x80 + 2 * n)).isSome = true) (hr : planReason s bs (planOf bs) = none)
    (hs : ∀ x ∈ planSpans p addr, x.2 ≠ 0 → (dataSpan s x.1 x.2).isSome = true) :
    ∃ i k uses, planLoad s = planTaken (residualsZeroed { s with lay := { s.lay with inv := i } } p) { p with uses := uses } k := by
  obtain ⟨d, hd⟩ := Option.isSome_iff_exists.mp hd
  obtain ⟨l, g, hread⟩ := devRead_lines hg .coll addr (0x80 + 2 * n)
  rw [hbs] at hread
  obtain ⟨uses, hload⟩ := planLoad_passes ha (by rw [ho, hb, he]; rfl) hn hd hread hr hp (spans_named hs)
  obtain ⟨i1, h1⟩ := endPlanUses_eq s
  obtain ⟨i2, h2⟩ := useBegins_eq uses (endPlanUses s)
  rw [h2, h1] at hload
  exact ⟨_, _, _, hload⟩

/-! ## Configuration writes of the plan -/

section
variable {s : State} {w : Writer} {v : W32}

theorem planCtl_regs (u : W64) : (recorded s w .colPlanCtl 0 0 4 u).regs = s.regs := recorded_regs _ _ _ _ _ _ _ rfl rfl

theorem planCtl_rget (u : W64) (r : RegName) (i n : Nat) : (recorded s w .colPlanCtl 0 0 4 u).rget r i n = s.rget r i n := by
  unfold State.rget
  rw [planCtl_regs]

theorem planCtl_beside (u : W64) : Beside s (recorded s w .colPlanCtl 0 0 4 u) := by
  refine ⟨recorded_keeps State.mem (fun _ _ _ _ _ _ => rfl) _ _ _ _ _ _ _, recorded_keeps State.map (fun _ _ _ _ _ _ => rfl) _ _ _ _ _ _ _,
    recorded_keeps State.memMap (fun _ _ _ _ _ _ => rfl) _ _ _ _ _ _ _, recorded_keeps State.cores (fun _ _ _ _ _ _ => rfl) _ _ _ _ _ _ _,
    recorded_keeps State.vit (fun _ _ _ _ _ _ => rfl) _ _ _ _ _ _ _, fun hw => ⟨?_, fun m _ => planCtl_rget u _ _ _⟩⟩
  rw [planCtl_regs]
  exact hw

theorem planCtl_good (h : StorageGood s) (u : W64) : StorageGood (recorded s w .colPlanCtl 0 0 4 u) :=
  h.congr (recorded_keeps State.memErr (fun _ _ _ _ _ _ => rfl) _ _ _ _ _ _ _) (recorded_keeps State.galErr (fun _ _ _ _ _ _ => rfl) _ _ _ _ _ _ _)
    (congrArg VitState.l2 (recorded_vit _ _ _ _ _ _ _))
    (fun p => congrArg Core.l1Err (recorded_keeps (fun s => s.core p) (fun _ _ _ _ _ _ => rfl) _ _ _ _ _ _ _))
    (recorded_keeps (fun s => s.power.memClk) (fun _ _ _ _ _ _ => rfl) _ _ _ _ _ _ _) (recorded_keeps State.memMap (fun _ _ _ _ _ _ => rfl) _ _ _ _ _ _ _)
    (fun _ _ => planCtl_rget u _ _ _) fun _ _ => planCtl_rget u _ _ _

theorem planCtl_open (u : W64) : stepOpen (recorded s w .colPlanCtl 0 0 4 u) = stepOpen s :=
  recorded_keeps stepOpen (fun _ _ _ _ _ _ => rfl) _ _ _ _ _ _ _

theorem planCtl_busy (u : W64) : cpBusy (recorded s w .colPlanCtl 0 0 4 u) = cpBusy s :=
  recorded_keeps cpBusy (fun _ _ _ _ _ _ => rfl) _ _ _ _ _ _ _

theorem planCtl_entryAt (u : W64) (a : Nat) : entryAt (recorded s w .colPlanCtl 0 0 4 u) a = entryAt s a :=
  recorded_keeps (fun s => entryAt s a) (fun _ _ _ _ _ _ => rfl) _ _ _ _ _ _ _

theorem planCtl_dataSpan (u : W64) (a n : Nat) : dataSpan (recorded s w .colPlanCtl 0 0 4 u) a n = dataSpan s a n :=
  recorded_keeps (fun s => dataSpan s a n) (fun _ _ _ _ _ _ => rfl) _ _ _ _ _ _ _

theorem ownId_congr {s t : State} (h : t.regs = s.regs) : ownId t = ownId s := by
  unfold ownId ownCoord State.rget
  rw [h]

theorem planReason_congr {s t : State} (h : t.regs = s.regs) (bs : List Byte) (p : Plan) : planReason t bs p = planReason s bs p := by
  have ht : ∀ id, inTorus t id = inTorus s id := fun id => by
    unfold inTorus ringSize State.rget
    rw [h]
  unfold planReason
  rw [ownId_congr h, funext ht]

theorem ownRank_congr {s t : State} (h : t.regs = s.regs) (l : List (BitVec 16)) : ownRank t l = ownRank s l := by
  unfold ownRank
  rw [ownId_congr h]

theorem planUnload_rows (hw : Writable w (RegName.colPlanCtl.at 0 0) s) (ho : stepOpen s = false) (hb : cpBusy s = false) :
    let y := recorded s w .colPlanCtl 0 0 4 ((setBit (setBit v 31 false) 30 true).zeroExtend 64)
    (entryAt s (s.rget .colPlanAddr 0 0).toNat = true → Leaves (.planUnload w v) s (planDrop y)) ∧
    (entryAt s (s.rget .colPlanAddr 0 0).toNat = false → Leaves (.planUnload w v) s (planRefuse y 5)) := by
  intro y
  have hy : y.vit = s.vit := recorded_vit _ _ _ _ _ _ _
  have h31 : bitB ((setBit (setBit v 31 false) 30 true).zeroExtend 64) 31 = false := by
    rw [bitB_zeroExtend]
    simp only [bitB, setBit, getLsbD_setBits]
    simp
  have h30 : bitB ((setBit (setBit v 31 false) 30 true).zeroExtend 64) 30 = true := by
    rw [bitB_zeroExtend]
    simp only [bitB, setBit, getLsbD_setBits]
    simp
  have heff : planCtlWrite y ((setBit (setBit v 31 false) 30 true).zeroExtend 64) =
      if !entryAt s (s.rget .colPlanAddr 0 0).toNat then planRefuse y 5 else planDrop y := by
    unfold planCtlWrite
    rw [h31, h30, if_neg Bool.false_ne_true, if_pos rfl]
    unfold planUnload
    rw [planCtl_open, planCtl_busy, planCtl_rget, planCtl_entryAt, ho, hb]
    rfl
  refine ⟨fun he => write32_leaves rfl hw (findReg_single _ (by decide)) rfl (by decide) (heff.trans ?_)
      (congrArg VitState.met ((planDrop_vit y).trans hy)),
    fun he => write32_leaves rfl hw (findReg_single _ (by decide)) rfl (by decide) (heff.trans ?_) (congrArg VitState.met hy)⟩
  · rw [he]
    rfl
  · rw [he]
    rfl

theorem planLoad_row (hw : Writable w (RegName.colPlanCtl.at 0 0) s) (ho : stepOpen s = false) (hb : cpBusy s = false) {addr n : Nat}
    {bs : List Byte} {p : Plan} (ha : (s.rget .colPlanAddr 0 0).toNat = addr) (hn : fieldAt (readBytes s addr 0x80) 8 2 = n)
    (hbs : readBytes s addr (0x80 + 2 * n) = bs) (hp : { planOf bs with rank := ownRank s (planOf bs).members } = p) (hc : Canonical s)
    (hg : StorageGood s) (he : entryAt s addr = true) (hd : (dataSpan s addr (0x80 + 2 * n)).isSome = true)
    (hr : planReason s bs (planOf bs) = none) (hs : ∀ x ∈ planSpans p addr, x.2 ≠ 0 → (dataSpan s x.1 x.2).isSome = true) :
    ∃ t, exec (.planLoad w v) s = .next t ∧ (∃ uses, t.col.plan = some { p with uses := uses }) ∧ t.cores = s.cores ∧
      ∀ a, byteAt t a = if p.resBase ≠ 0 ∧ p.resBase ≤ a ∧ a < p.resBase + 4 * p.total then 0 else byteAt s a := by
  generalize hu : ((setBit v 31 true).zeroExtend 64 : W64) = u
  generalize hy : recorded s w .colPlanCtl 0 0 4 u = y
  have hregs : y.regs = s.regs := by rw [← hy, planCtl_regs]
  have hside : Beside s y := by rw [← hy]; exact planCtl_beside u
  have hgood : StorageGood y := by rw [← hy]; exact planCtl_good hg u
  have hcan : Canonical y := ⟨by unfold MemCanonical; rw [hside.mem]; exact hc.1, (hside.regs hc.2).1⟩
  have hbytes : ∀ a k, readBytes y a k = readBytes s a k := readBytes_congr (hside.places hc.2) hside.mem
  have hspan : ∀ a k, dataSpan y a k = dataSpan s a k := fun a k => by rw [← hy, planCtl_dataSpan]
  obtain ⟨i, k, uses, hload⟩ := planLoad_takes (s := y) (addr := addr) (n := n) (bs := bs) (p := p) hgood (by rw [← hy, planCtl_open, ho])
    (by rw [← hy, planCtl_busy, hb]) (by rw [← hy, planCtl_rget, ha]) (by rw [hbytes, hn]) (by rw [hbytes, hbs])
    (by rw [ownRank_congr hregs, hp]) (by rw [← hy, planCtl_entryAt, he]) (by rw [hspan]; exact hd)
    (by rw [planReason_congr hregs, hr]) (fun x hx hne => by rw [hspan]; exact hs x hx hne)
  have h31 : bitB u 31 = true := by
    rw [← hu, bitB_zeroExtend]
    simp [bitB, setBit, getLsbD_setBits]
  obtain ⟨hcores, hvit, hwf, hfill⟩ := residualsZeroed_bytes (s := { y with lay := { y.lay with inv := i } })
    (hgood.congr rfl rfl rfl (fun _ => rfl) rfl rfl (fun _ _ => rfl) fun _ _ => rfl) hcan p
  have htaken := planTaken_beside (residualsZeroed { y with lay := { y.lay with inv := i } } p) { p with uses := uses } k
  have hleaves : Leaves (.planLoad w v) s (planTaken (residualsZeroed { y with lay := { y.lay with inv := i } } p) { p with uses := uses } k) := by
    refine write32_leaves rfl hw (findReg_single _ (by decide)) rfl (by decide) ?_
      (congrArg VitState.met (htaken.vit.trans (hvit.trans hside.vit)))
    rw [hu, hy]
    show planCtlWrite y u = _
    unfold planCtlWrite
    rw [if_pos h31, hload]
  refine ⟨_, hleaves, ⟨uses, ?_⟩, ?_, fun a => ?_⟩
  · rw [summaryRise_col, planTaken_plan]
  · rw [summaryRise_cores, htaken.cores, hcores]
    exact hside.cores
  · rw [byteAt_summaryRise, htaken.bytes hwf, hfill]
    refine if_congr Iff.rfl rfl ?_
    exact (byteAt_congr ⟨rfl, rfl, fun _ _ => rfl⟩ rfl a).trans (hside.bytes hc.2 a)

end

/-- Settles O53: a response finds its request by tag and epoch, and what ends the request meets no wait; a load passes its checks in the state
that holds the write's record, and what follows the zeroes of the residuals leaves memory and the cores alone. -/
theorem responseAndPlanRows : Obligations.ResponseAndPlanRows := by
  unfold Obligations.ResponseAndPlanRows
  refine ⟨fun t s s1 hd => ⟨fun q ht hq => ack_known hd ht hq, ack_unknown hd, readData_counts hd, fun q ht hq => error_known hd ht hq⟩,
    fun tag s q h => respTimeout_ends h, fun s q rest core x y h hu => retryResend_again h hu, fun s c hc ho ht => colTimeout_fails hc ho ht,
    fun w v s hw ho hb => ⟨fun hc hg he hd hr hs => planLoad_row hw ho hb rfl rfl rfl rfl hc hg he hd hr hs, planUnload_rows hw ho hb⟩⟩

end Sys2Proof.Machine


/-! # The time counter (O54) -/

namespace Sys2Proof.Machine

open Sys2Proof.Tests

/-- A port in ACTIVE with an open exchange, in the memory initialisation of a cold start, whose count of corrected symbols is stored although it reads as after reset. The stored
registers are not in canonical form: the entry hides the gate of the counter's domain D24 that comes after it. -/
def hiddenGateSt : State :=
  let s := portSt 4
  { s with
    fab := { s.fab with exch := some (0, 0) }
    power := { s.power with phase := 3 }
    regs := [(RegName.zmzFec.at 0 0, 0), (RegName.clkDom.at 0 24, 0), (RegName.mgtTimeCtl.at 0 0, 0x80000000)] }

/-- The answer of the port's far end. -/
def answerFlit : Flit := { ftype := 3, slots := timeSlots 2 0 0 0 }

def answerRx : FlitRx := { crc := flitCrc answerFlit }

/-- The port once the good flit has come: the count is stored as a register that reads as after reset is, so that it is not listed, and the
gate shows. -/
def heardGateSt : State := applyHeader (countLanes (portOf hiddenGateSt 0) answerRx (fecStep hiddenGateSt 0 answerRx).1 0) 0 answerFlit

/-- The exchange has ended. -/
def endedGateSt : State := { heardGateSt with fab := { heardGateSt.fab with exch := none } }

theorem answerFlit_heard : receive hiddenGateSt 0 answerFlit answerRx = (heardGateSt, true) :=
  receive_good (by decide +kernel) (by decide +kernel) rfl

theorem hiddenGate_shows : domOn hiddenGateSt 6 = true ∧ (portOf hiddenGateSt 0).state.toNat ∈ [2, 3, 4] ∧ timePort hiddenGateSt = 0 ∧
    timeSource hiddenGateSt = 2 ∧ domOn hiddenGateSt 24 = true ∧ domOn heardGateSt 24 = false ∧ hiddenGateSt.fab.exch = some (0, 0) ∧
    heardGateSt.fab.exch = some (0, 0) ∧ endedGateSt.vit = hiddenGateSt.vit ∧ endedGateSt.mgmt.lastMeas = none := by
  decide +kernel

/-- Every measurement notes its instant. -/
theorem measure_notes (s : State) (θ : Rat) : (measure s θ).mgmt.lastMeas ≠ none := by
  unfold measure
  extract_lets s0 big s1 n s2 s3
  split
  · exact Option.some_ne_none _
  · exact Option.some_ne_none _

/-- An exchange that completes while the counter's domain is gated is measured by no one. -/
theorem takeResp_gated {s : State} {num : BitVec 16} {t1 : BitVec 96} (h : s.fab.exch = some (num, t1)) (hg : domOn s 24 = false) (i : Fin 16)
    (t2 t3 : BitVec 96) : takeResp s i num t2 t3 = { s with fab := { s.fab with exch := none } } := by
  unfold takeResp
  rw [h]
  dsimp only
  rw [if_neg (by simp), if_neg (by simp [hg])]

/-- Refutes O54: the row of a TIME flit's answer reads the gate of the counter's domain before the flit, and where the stored registers are
not in canonical form the count of the flit's corrected symbols uncovers a closed gate, so that no measurement is taken. -/
theorem not_timeRows : ¬ Obligations.TimeRows := by
  unfold Obligations.TimeRows
  rintro ⟨-, -, -, -, -, -, -, hresp, -⟩
  obtain ⟨h6, hst, hport, hsource, h24, hgate, hopen, hexch, hvit, hmeas⟩ := hiddenGate_shows
  have hrows := hresp {} answerRx 0 0 0 0 hiddenGateSt h6 (by rw [hport]; exact hst) hopen
  dsimp only at hrows
  have hrow := hrows.1
  rw [hport, show receive hiddenGateSt 0 { ftype := 3, slots := timeSlots 2 0 0 0 } answerRx = (heardGateSt, true) from answerFlit_heard] at hrow
  have hleaves : Leaves (.timeResp 0 {} answerRx 0 0 0) hiddenGateSt endedGateSt := by
    refine leaves_of ?_ (congrArg VitState.met hvit)
    show execTimeResp 0 {} answerRx 0 0 0 hiddenGateSt = _
    unfold execTimeResp
    dsimp only
    rw [show receive hiddenGateSt 0 { ftype := 3, slots := timeSlots 2 0 0 0 } answerRx = (heardGateSt, true) from answerFlit_heard, h6, hport]
    refine congrArg (answer hiddenGateSt) ((if_neg ?_).trans ((if_pos rfl).trans (takeResp_gated hexch hgate 0 0 0)))
    rw [show portTimes hiddenGateSt 0 = true from decide_eq_true hst]
    simp
  have hmgmt := congrArg State.mgmt (leaves_unique (hrow rfl ⟨hsource, h24⟩) hleaves)
  rw [summaryRise_mgmt, summaryRise_mgmt] at hmgmt
  exact measure_notes _ _ ((congrArg Mgmt.lastMeas hmgmt).trans hmeas)

end Sys2Proof.Machine


/-! # The Conservator, the annex and the telemetry (O55) -/

namespace Sys2Proof.Machine

/-! ## The failure estimate (R378, R389) -/

/-- From state s to state t the waits are the same, and in canonical form the registers that the Conservator's update reads again are too. -/
structure Advised (s t : State) : Prop where
  vit : t.vit = s.vit
  regs : smapWf regDefault s.regs = true → smapWf regDefault t.regs = true ∧
    t.rget .rasRisk 0 0 = s.rget .rasRisk 0 0 ∧ t.rget .rasCtl 0 0 = s.rget .rasCtl 0 0

theorem Advised.refl (s : State) : Advised s s := ⟨rfl, fun h => ⟨h, rfl, rfl⟩⟩

theorem Advised.trans {s t u : State} (h : Advised s t) (k : Advised t u) : Advised s u :=
  ⟨k.vit.trans h.vit, fun hw =>
    have ⟨ht, hr, hc⟩ := h.regs hw
    have ⟨hu, hr', hc'⟩ := k.regs ht
    ⟨hu, hr'.trans hr, hc'.trans hc⟩⟩

theorem Advised.foldl {β : Type} {f : State → β → State} (h : ∀ s b, Advised s (f s b)) (l : List β) (s : State) : Advised s (l.foldl f s) := by
  induction l generalizing s with
  | nil => exact .refl s
  | cons b t ih => exact (h s b).trans (ih _)

/-- A register that the update of RISK does not read again. -/
def AdviceReg (r : RegName) : Prop := RegName.at .rasRisk 0 0 ≠ r.at 0 0 ∧ RegName.at .rasCtl 0 0 ≠ r.at 0 0

theorem rset_advised {r : RegName} (h : AdviceReg r) (s : State) (v : W64) : Advised s (s.rset r 0 0 v) :=
  ⟨rfl, fun hw => ⟨rset_wf _ _ _ _ hw, rget_rset_other v hw h.1, rget_rset_other v hw h.2⟩⟩

theorem logCur_advised (s : State) (code : BitVec 16) (d : W32) : Advised s (logCur s code d) := by
  unfold logCur logWrite
  split
  · exact .refl s
  · exact (rset_advised ⟨by decide, by decide⟩ _ _).trans (rset_advised ⟨by decide, by decide⟩ _ _)

theorem ownChange_advised {r : RegName} (h : AdviceReg r) (s : State) (v m : W64) : Advised s (ownChange s r 0 0 v m) := by
  unfold ownChange
  dsimp only
  split
  · exact ⟨rfl, fun h => ⟨h, rfl, rfl⟩⟩
  · split
    · exact .refl s
    · unfold withRecord
      split
      · exact logCur_advised _ _ _
      · exact Advised.trans (t := logChange s _ _ _ _ _) ⟨rfl, fun h => ⟨h, rfl, rfl⟩⟩ (rset_advised h _ _)

theorem advise_advised {r : RegName} (h : AdviceReg r) (s : State) (bit : Nat) : Advised s (advise s r bit) :=
  (ownChange_advised h _ _ _).trans (ownChange_advised ⟨by decide, by decide⟩ _ _ _)

theorem advice0 : AdviceReg .rasAdvice0 := ⟨by decide, by decide⟩

theorem advice1 : AdviceReg .rasAdvice1 := ⟨by decide, by decide⟩

theorem advice2 : AdviceReg .rasAdvice2 := ⟨by decide, by decide⟩

theorem adviseCore_advised (s : State) (p : Nat) : Advised s (adviseCore s p) := by
  unfold adviseCore
  split
  · exact advise_advised advice0 _ _
  · exact advise_advised advice1 _ _

/-- A step that advises where a condition holds. -/
theorem Advised.ite {s t : State} (h : Advised s t) (c : Prop) [Decidable c] : Advised s (if c then t else s) := by
  split
  · exact h
  · exact .refl s

/-- What an update has noted of past events. -/
theorem ras_advised (s : State) (x : RasState) : Advised s { s with ras := x } := ⟨rfl, fun h => ⟨h, rfl, rfl⟩⟩

theorem adviceStep_advised (s : State) : Advised s (adviceStep s) := by
  have hevent (s : State) (e : RasEvent) :
      Advised s (if e.kind = 2 then adviseCore s e.unit else if e.kind = 1 then advise s .rasAdvice2 e.unit else s) := by
    split
    · exact adviseCore_advised _ _
    · exact (advise_advised advice2 _ _).ite _
  unfold adviceStep
  extract_lets l s1 sc s2 s3 s4
  have h1 : Advised s s1 := Advised.foldl hevent _ _
  have hc : Advised s sc := h1.trans (Advised.foldl (fun _ _ => (adviseCore_advised _ _).ite _) _ _)
  have h2 : Advised s s2 := hc.trans (Advised.foldl (fun _ _ => (advise_advised advice2 _ _).ite _) _ _)
  have h3 : Advised s s3 := h2.trans (Advised.foldl (fun _ _ => (advise_advised advice1 _ _).ite _) _ _)
  have h4 : Advised s s4 := h3.trans ((advise_advised advice1 _ _).ite _)
  exact h4.trans (ras_advised _ _)

theorem putMasked_all (old v : W64) : putMasked old v (BitVec.allOnes 64) = v := by
  unfold putMasked
  rw [BitVec.not_allOnes, BitVec.and_zero, BitVec.and_allOnes, BitVec.zero_or]

/-- A change of its own that the Conservator can record is made. -/
theorem ownChange_reads {s : State} (hw : smapWf regDefault s.regs = true) (h : s.cur.wipe = none) (hl : s.cur.logBad = false) (r : RegName)
    (i n : Nat) (v m : W64) : (ownChange s r i n v m).rget r i n = putMasked (s.rget r i n) v m := by
  unfold ownChange
  dsimp only
  rw [h, if_neg (by simp)]
  split
  · next he => exact he.symm
  · unfold withRecord
    rw [hl, if_neg Bool.false_ne_true]
    exact rget_rset_same (s := logChange s _ _ _ _ _) r i n _ hw

theorem ownChange_wf {s : State} (hw : smapWf regDefault s.regs = true) (r : RegName) (i n : Nat) (v m : W64) :
    smapWf regDefault (ownChange s r i n v m).regs = true := by
  unfold ownChange
  dsimp only
  split
  · exact hw
  · split
    · exact hw
    · unfold withRecord
      split
      · exact ((logCur_advised _ _ _).regs hw).1
      · exact rset_wf _ _ _ _ hw

theorem ownChange_other {s : State} (hw : smapWf regDefault s.regs = true) (h : s.cur.wipe = none) (hl : s.cur.logBad = false) {r q : RegName}
    {i n j m : Nat} (hne : q.at j m ≠ r.at i n) (v k : W64) : (ownChange s r i n v k).rget q j m = s.rget q j m := by
  unfold ownChange
  dsimp only
  rw [h, if_neg (by simp)]
  split
  · rfl
  · unfold withRecord
    rw [hl, if_neg Bool.false_ne_true]
    exact rget_rset_other (s := logChange s _ _ _ _ _) _ hw hne

theorem retireWrite_vit (s : State) (v : W64) : (retireWrite s v).vit = s.vit := by
  unfold retireWrite
  dsimp only
  split
  · rfl
  · split
    · rfl
    · split
      · rfl
      · split
        · rfl
        · split
          · exact takeRetirement_vit _ _
          · split
            · rw [coreFault_vit]
              rfl
            · rfl

theorem conservatorRetire_vit (s : State) (p : Fin 72) : (conservatorRetire s p).vit = s.vit := by
  unfold conservatorRetire
  dsimp only
  split
  · split <;> rfl
  · unfold withRecord
    split
    · exact logCur_vit _ _ _
    · exact retireWrite_vit _ _

theorem autoRetire_vit (s : State) : (autoRetire s).vit = s.vit := by
  unfold autoRetire
  split
  · refine foldl_keeps _ State.vit (fun s p => ?_) _ _
    split
    · exact conservatorRetire_vit s p
    · rfl
  · rfl

theorem riskStep_vit (s : State) : (riskStep s).vit = s.vit := ownChange_vit s _ _ _ _ _

theorem riskUpdate_leaves {s : State} (hd : domOn s 23 = true) : Leaves .riskUpdate s (autoRetire (adviceStep (riskStep s))) := by
  refine leaves_of (congrArg (answer s) (if_pos hd)) (congrArg VitState.met ?_)
  rw [autoRetire_vit, (adviceStep_advised _).vit, riskStep_vit]

/-- The word that an update writes holds the target above and RISK below. -/
theorem risk_word {t r : Nat} (ht : t < 2 ^ 32) (hr : r < 2 ^ 32) :
    (BitVec.ofNat 64 (t * 2 ^ 32 + r)).toNat / 2 ^ 32 = t ∧ (BitVec.ofNat 64 (t * 2 ^ 32 + r)).toNat % 2 ^ 32 = r := by
  rw [BitVec.toNat_ofNat, Nat.mod_eq_of_lt (by omega)]
  omega

theorem riskUpdate_row {s : State} (hd : domOn s 23 = true) (hc : Canonical s) (hw : s.cur.wipe = none) (hl : s.cur.logBad = false)
    (ha : bitB (s.rget .rasCtl 0 0) 30 = false) :
    let target := min (2 ^ 32 - 1) ((List.range 10).foldl (fun a i => a + (s.rget .rasWeight 0 i).toNat * inputCount s i)
      (s.rget .rasBaseFit 0 0).toNat)
    let risk := (s.rget .rasRisk 0 0).toNat % 2 ^ 32
    ∃ t, exec .riskUpdate s = .next t ∧ (t.rget .rasRisk 0 0).toNat / 2 ^ 32 = target ∧
      (t.rget .rasRisk 0 0).toNat % 2 ^ 32 =
        if risk ≤ target then target else risk - (risk - target) / 2 ^ ((s.rget .rasCtl 0 0).toNat / 2 ^ 20 % 16) := by
  intro target risk
  have hrisk : riskOf s = risk := by
    unfold riskOf
    rw [bitsN_low]
  have hctl : (riskStep s).rget .rasCtl 0 0 = s.rget .rasCtl 0 0 := ownChange_other hc.2 hw hl (by decide) _ _
  have hval : (riskStep s).rget .rasRisk 0 0 =
      BitVec.ofNat 64 (target * 2 ^ 32 + nextRisk (riskOf s) target (bitsN (s.rget .rasCtl 0 0) 20 4)) :=
    (ownChange_reads hc.2 hw hl .rasRisk 0 0 _ _).trans (putMasked_all _ _)
  obtain ⟨-, hread, hctl'⟩ := (adviceStep_advised (riskStep s)).regs (ownChange_wf hc.2 _ _ _ _ _)
  have hoff : autoRetire (adviceStep (riskStep s)) = adviceStep (riskStep s) := by
    unfold autoRetire
    rw [hctl', hctl, ha]
    rfl
  have htarget : target < 2 ^ 32 := by omega
  have hnext : nextRisk (riskOf s) target (bitsN (s.rget .rasCtl 0 0) 20 4) < 2 ^ 32 := by
    rw [hrisk]
    have hlt : risk < 2 ^ 32 := Nat.mod_lt _ (by decide)
    unfold nextRisk
    split
    · exact htarget
    · exact Nat.lt_of_le_of_lt (Nat.sub_le _ _) hlt
  refine ⟨_, riskUpdate_leaves hd, ?_⟩
  rw [summaryRise_rget, hoff, hread, hval]
  obtain ⟨h1, h2⟩ := risk_word htarget hnext
  refine ⟨h1, h2.trans ?_⟩
  rw [hrisk]
  rfl

/-! ## The annex (R384 to R386) -/

/-- The entries of a slot's bytes from place k on. -/
def packFrom (k : Nat) (bs : List Byte) : List (Nat × Byte) := (bs.mapIdx fun i b => (k + i, b)).filter fun e => e.2 ≠ 0

theorem packFrom_cons (k : Nat) (b : Byte) (bs : List Byte) :
    packFrom k (b :: bs) = if b = 0 then packFrom (k + 1) bs else (k, b) :: packFrom (k + 1) bs := by
  have hshift : (bs.mapIdx fun i b => (k + (i + 1), b)) = bs.mapIdx fun i b => (k + 1 + i, b) := by
    congr 1
    funext i b
    rw [Nat.add_assoc, Nat.add_comm 1 i]
  unfold packFrom
  rw [List.mapIdx_cons, hshift, List.filter_cons]
  by_cases hb : b = 0
  · rw [if_pos hb, if_neg (by simp [hb])]
  · rw [if_neg hb, if_pos (decide_eq_true hb)]
    rfl

theorem packFrom_keys {k : Nat} {bs : List Byte} {e : Nat × Byte} (h : e ∈ packFrom k bs) : k ≤ e.1 := by
  obtain ⟨i, hi, rfl⟩ := List.mem_mapIdx.mp (List.mem_filter.mp h).1
  exact Nat.le_add_right _ _

theorem smapGet_packFrom (bs : List Byte) : ∀ k i, smapGet annexDefault (packFrom k bs) (k + i) = bs.getD i 0 := by
  induction bs with
  | nil => exact fun k i => rfl
  | cons b t ih =>
    intro k i
    rw [packFrom_cons]
    match i with
    | 0 =>
      split
      · next hb =>
        rw [smapGet_absent annexDefault fun e he => by have := packFrom_keys he; omega, hb]
        rfl
      · simp [smapGet]
    | i + 1 =>
      rw [show k + (i + 1) = k + 1 + i by omega]
      split
      · rw [ih]
        simp
      · unfold smapGet
        rw [if_neg (by omega), if_neg (by omega), ih]
        simp

/-- A slot holds the bytes that it has packed. -/
theorem annexBytes_pack (x : AnnexSlot) {bs : List Byte} (hl : x.len = bs.length) (hb : x.bytes = annexPack bs) : annexBytes x = bs := by
  have hpack : annexPack bs = packFrom 0 bs := by
    unfold annexPack packFrom
    simp
  unfold annexBytes
  rw [hl, hb, hpack]
  refine List.ext_getElem (by simp) fun i h1 h2 => ?_
  rw [List.getElem_map, List.getElem_range]
  have hget := smapGet_packFrom bs 0 i
  rw [Nat.zero_add] at hget
  rw [hget, List.getD_eq_getElem?_getD, List.getElem?_eq_getElem h2]
  rfl

theorem annexOf_setAnnex_same (s : State) (k : Fin 4) (x : AnnexSlot) : annexOf (setAnnex s k x) k = x := by
  unfold annexOf setAnnex
  simp

theorem annexOf_setAnnex_other (s : State) {k j : Fin 4} (x : AnnexSlot) (h : j ≠ k) : annexOf (setAnnex s k x) j = annexOf s j := by
  unfold annexOf setAnnex
  simp [Fin.val_ne_of_ne h.symm]

/-- A snapshot is in its slot, with the slot's contents x. -/
def snapTaken (s : State) (k : Fin 4) (x : AnnexSlot) (n : Nat) : State :=
  { setAnnex s k x with ras := { (setAnnex s k x).ras with snap := none, shots := s.ras.shots + 1, written := s.ras.written + n } }

/-- RAS_STATUS and a message may follow a snapshot. -/
def snapNoted (s u : State) (depth : Nat) : State :=
  let s3 := if annexWorn u then u.rmod .rasStatus 0 0 fun v => setBit v 1 true else u
  if depth = 4 then
    let s4 := s3.rmod .rasStatus 0 0 fun v => setBit v 3 true
    let v := s.rget .rasCtl 0 0
    if bitB v 11 then sendMsix s4 (bitsN v 0 11) else s4
  else s3

theorem sendMsix_ras (s : State) (v : Nat) : (sendMsix s v).ras = s.ras := by rw [(sendMsix_same s v).eq]

/-- From state s to state t the annex, memory and the waits are the same. -/
structure AnnexKept (s t : State) : Prop where
  ras : t.ras = s.ras
  mem : t.mem = s.mem
  vit : t.vit = s.vit

theorem AnnexKept.refl (s : State) : AnnexKept s s := ⟨rfl, rfl, rfl⟩

theorem AnnexKept.trans {s t u : State} (h : AnnexKept s t) (k : AnnexKept t u) : AnnexKept s u :=
  ⟨k.ras.trans h.ras, k.mem.trans h.mem, k.vit.trans h.vit⟩

theorem rmod_annexKept (s : State) (r : RegName) (i n : Nat) (f : W64 → W64) : AnnexKept s (s.rmod r i n f) := ⟨rfl, rfl, rfl⟩

theorem sendMsix_annexKept (s : State) (v : Nat) : AnnexKept s (sendMsix s v) :=
  ⟨sendMsix_ras s v, (sendMsix_beside s v).mem, (sendMsix_beside s v).vit⟩

theorem snapNoted_annexKept (s u : State) (depth : Nat) : AnnexKept u (snapNoted s u depth) := by
  unfold snapNoted
  extract_lets s3 s4 v
  have h3 : AnnexKept u s3 := by
    unfold s3
    split
    · exact rmod_annexKept _ _ _ _ _
    · exact .refl u
  have h4 : AnnexKept u s4 := h3.trans (rmod_annexKept _ _ _ _ _)
  split
  · split
    · exact h4.trans (sendMsix_annexKept _ _)
    · exact h4
  · exact h3

/-- A snapshot that completes reads its half and its seal. -/
theorem snapshotComplete_eq {s t u : State} {x : Snapshot} {bs tail : List Byte} (hd : domOn s 25 = true) (hx : s.ras.snap = some x)
    (h1 : devRead .registrar s x.base x.len = (t, bs, none)) (h2 : devRead .registrar t x.sealAt 64 = (u, tail, none))
    (hras : u.ras = s.ras) :
    ∃ y : AnnexSlot, y.state = 2 ∧ y.len = (bs ++ tail).length ∧ y.bytes = annexPack (bs ++ tail) ∧
      exec (.snapshotComplete false) s = answer s (snapNoted s (snapTaken u x.slot y (bs ++ tail).length) (fieldAt tail 0x0C 1)) := by
  refine ⟨{
      state := 2
      step := BitVec.ofNat 32 (fieldAt tail 8 4)
      sender := BitVec.ofNat 16 (fieldAt tail 0x0E 2)
      depth := BitVec.ofNat 3 (fieldAt tail 0x0C 1)
      order := s.ras.shots + 1
      len := (bs ++ tail).length
      bytes := annexPack (bs ++ tail) },
    rfl, rfl, rfl, ?_⟩
  show execSnapshotComplete false s = _
  unfold execSnapshotComplete
  rw [hd, if_pos rfl, hx]
  dsimp only
  rw [if_neg Bool.false_ne_true, h1]
  dsimp only
  rw [h2]
  dsimp only
  unfold snapNoted snapTaken
  rw [hras]

theorem snapshotComplete_row {s : State} {x : Snapshot} (hd : domOn s 25 = true) (hg : StorageGood s) (hx : s.ras.snap = some x) :
    ∃ t, exec (.snapshotComplete false) s = .next t ∧ t.ras.snap = none ∧ t.ras.shots = s.ras.shots + 1 ∧ t.mem = s.mem ∧
      (annexOf t x.slot).state = 2 ∧
      annexBytes (annexOf t x.slot) = readBytes s x.base x.len ++ readBytes s x.sealAt 64 ∧
      ∀ k, k ≠ x.slot → annexOf t k = annexOf s k := by
  obtain ⟨t, h1, ht⟩ := devRead_good hg .registrar x.base x.len
  obtain ⟨u, h2, hu⟩ := devRead_good (hg.l2 ht) .registrar x.sealAt 64
  have hue := (ht.trans hu).eq
  have hras : u.ras = s.ras := by rw [hue]
  have hmem : u.mem = s.mem := by rw [hue]
  have hvit : u.vit.met = s.vit.met := by rw [hue]
  obtain ⟨y, hst, hlen, hbytes, hex⟩ := snapshotComplete_eq hd hx h1 h2 hras
  have hseal : readBytes t x.sealAt 64 = readBytes s x.sealAt 64 := by
    rw [ht.eq]
    exact readBytes_congr ⟨rfl, rfl, fun _ _ => rfl⟩ rfl _ _
  have hkept := snapNoted_annexKept s (snapTaken u x.slot y (readBytes s x.base x.len ++ readBytes t x.sealAt 64).length)
    (fieldAt (readBytes t x.sealAt 64) 0x0C 1)
  have hannex : ∀ k, annexOf (snapTaken u x.slot y (readBytes s x.base x.len ++ readBytes t x.sealAt 64).length) k =
      annexOf (setAnnex u x.slot y) k := fun _ => rfl
  have hleaves := leaves_of hex (show _ = _ from (congrArg VitState.met hkept.vit).trans hvit)
  refine ⟨_, hleaves, ?_⟩
  have hof : ∀ k, annexOf (summaryRise s (snapNoted s (snapTaken u x.slot y (readBytes s x.base x.len ++ readBytes t x.sealAt 64).length)
      (fieldAt (readBytes t x.sealAt 64) 0x0C 1))) k = annexOf (setAnnex u x.slot y) k := fun k => by
    rw [← hannex]
    unfold annexOf
    rw [summaryRise_ras, hkept.ras]
  rw [summaryRise_ras, hkept.ras, summaryRise_mem, hkept.mem, hof, annexOf_setAnnex_same]
  refine ⟨rfl, congrArg (fun x => x.shots + 1) hras, hmem, hst, ?_, fun k hk => ?_⟩
  · rw [annexBytes_pack y hlen hbytes, hseal]
  · rw [hof, annexOf_setAnnex_other u y hk]
    unfold annexOf
    rw [hras]

theorem snapshotComplete_media {s : State} {x : Snapshot} (hd : domOn s 25 = true) (hx : s.ras.snap = some x) :
    Leaves (.snapshotComplete true) s (rasEvent (breakSnapshot s) 0x0C04 (BitVec.ofNat 32 x.slot.val)) := by
  refine leaves_of ?_ (congrArg VitState.met (((breakSnapshot_beside s).trans (rasEvent_beside _ _ _)).vit))
  show execSnapshotComplete true s = _
  unfold execSnapshotComplete
  rw [hd, if_pos rfl, hx]
  rfl

/-- The fields of a command that its register keeps. -/
def annexFields : W64 := 0x0C00FFFFFFFFF000

theorem annexFields_slot : ∀ i : Fin 2, annexFields.getLsbD (58 + i.val) = true := by decide

theorem annexFields_addr : ∀ i : Fin 36, annexFields.getLsbD (12 + i.val) = true := by decide

/-- A field that a mask takes whole is the field of the written word. -/
theorem bitsN_masked (old v m : W64) {lo len : Nat} (h : ∀ i : Fin len, m.getLsbD (lo + i.val) = true) :
    bitsN ((old &&& ~~~(m &&& BitVec.allOnes 64)) ||| (v &&& m &&& BitVec.allOnes 64)) lo len = bitsN v lo len := by
  refine Nat.eq_of_testBit_eq fun i => ?_
  rw [testBit_bitsN, testBit_bitsN, BitVec.and_allOnes, BitVec.and_allOnes]
  by_cases hi : i < len
  · have hm := h ⟨i, hi⟩
    simp only [BitVec.getLsbD_or, BitVec.getLsbD_and, BitVec.getLsbD_not, hm]
    simp
  · simp [hi]

/-- A command of RAS_ANNEX_CMD with GO = 1 and an operation that is restore or erase starts. -/
theorem annexCmd_starts {s : State} {v : W64} (hw : smapWf regDefault s.regs = true) (hgo : bitB v 63 = true)
    (hop : bitsN v 60 3 = 1 ∨ bitsN v 60 3 = 2) :
    ∃ f, annexCmdWrite s v (BitVec.allOnes 64) = annexStart (s.rmod .rasAnnexCmd 0 0 f) (decide (bitsN v 60 3 = 1))
      (Fin.ofNat 4 (bitsN v 58 2)) (bitsN v 12 36 * 4096) := by
  refine ⟨fun old => (old &&& ~~~(annexFields &&& BitVec.allOnes 64)) ||| (v &&& annexFields &&& BitVec.allOnes 64), ?_⟩
  unfold annexCmdWrite
  dsimp only
  rw [if_pos (by rw [BitVec.and_allOnes]; exact hgo), if_pos (by rw [BitVec.and_allOnes]; exact hop), rget_rmod_same _ _ _ _ hw,
    BitVec.and_allOnes (x := v)]
  exact congrArg₂ (fun k a => annexStart _ _ (Fin.ofNat 4 k) (a * 4096)) (bitsN_masked _ v annexFields annexFields_slot)
    (bitsN_masked _ v annexFields annexFields_addr)

/-- STATE of a command reads as it is set. -/
theorem annexState_reads {s : State} (hw : smapWf regDefault s.regs = true) {k : Nat} (hk : k < 4) :
    bitsN ((annexState s k).rget .rasAnnexCmd 0 0) 48 2 = k := by
  unfold annexState
  rw [rget_rmod_same _ _ _ _ hw, bitsN_setBits_same _ _ (by decide)]
  exact Nat.mod_eq_of_lt hk

/-- What an accepted command of the annex names: its entry, where it restores, and none otherwise. -/
def annexEntry (s : State) (restore : Bool) (k : Fin 4) (addr : Nat) : Option Nat :=
  if restore then (if (annexOf s k).state = 2 then dataSpan s addr (annexOf s k).len else none) else some 0

theorem annexStart_accepts {s : State} {restore : Bool} {k : Fin 4} {addr e : Nat} (hsnap : s.ras.snap = none) (hcmd : s.ras.cmd = none)
    (he : annexEntry s restore k addr = some e) :
    ∃ z, annexStart s restore k addr = annexState z 1 ∧ z.ras.cmd = some ⟨restore, k, addr, e⟩ ∧ z.mem = s.mem ∧ z.vit = s.vit ∧
      z.regs = s.regs := by
  unfold annexEntry at he
  unfold annexStart
  dsimp only
  rw [hsnap, hcmd, if_neg (by simp), he]
  refine ⟨_, rfl, rfl, ?_⟩
  dsimp only
  split <;> exact ⟨rfl, rfl, rfl⟩

section
variable {s : State} {w : Writer} {v : W64}

theorem annexCmd_regs (u : W64) : (recorded s w .rasAnnexCmd 0 0 8 u).regs = s.regs := recorded_regs _ _ _ _ _ _ _ rfl rfl

/-- The fields of a command's word. -/
theorem annexWord_fields (v : W64) {op : Nat} (hop : op < 8) :
    let u := setBit (setBits v 60 3 op) 63 true
    bitB u 63 = true ∧ bitsN u 60 3 = op ∧ bitsN u 58 2 = bitsN v 58 2 ∧ bitsN u 12 36 = bitsN v 12 36 := by
  intro u
  have hu : u = setBits (setBits v 60 3 op) 63 1 1 := rfl
  refine ⟨?_, ?_, ?_, ?_⟩
  · show u.getLsbD 63 = true
    rw [show u = setBit (setBits v 60 3 op) 63 true from rfl, getLsbD_setBit]
    rfl
  · rw [hu, bitsN_setBits_other _ _ (by decide), bitsN_setBits_same _ _ (by decide)]
    exact Nat.mod_eq_of_lt hop
  · rw [hu, bitsN_setBits_other _ _ (by decide), bitsN_setBits_other _ _ (by decide)]
  · rw [hu, bitsN_setBits_other _ _ (by decide), bitsN_setBits_other _ _ (by decide)]

/-- A command of the annex that is accepted: it stands in the record of the Conservator and its STATE is 1. -/
theorem annexCommand_accepted {i : Instr} {op e : Nat} (hi : exec i s = write64 w .rasAnnexCmd 0 0 (setBit (setBits v 60 3 op) 63 true) s)
    (hop : op = 1 ∨ op = 2) (hw : Writable w (RegName.rasAnnexCmd.at 0 0) s) (hc : Canonical s) (hsnap : s.ras.snap = none)
    (hcmd : s.ras.cmd = none) (he : annexEntry s (decide (op = 1)) (Fin.ofNat 4 (bitsN v 58 2)) (bitsN v 12 36 * 4096) = some e) :
    ∃ t, exec i s = .next t ∧ t.ras.cmd = some ⟨decide (op = 1), Fin.ofNat 4 (bitsN v 58 2), bitsN v 12 36 * 4096, e⟩ ∧ t.mem = s.mem ∧
      bitsN (t.rget .rasAnnexCmd 0 0) 48 2 = 1 := by
  obtain ⟨hgo, hop', hslot, haddr⟩ := annexWord_fields v (op := op) (by omega)
  generalize setBit (setBits v 60 3 op) 63 true = u at *
  generalize hy : recorded s w .rasAnnexCmd 0 0 8 u = y
  have hras : y.ras = s.ras := by rw [← hy]; exact recorded_keeps State.ras (fun _ _ _ _ _ _ => rfl) _ _ _ _ _ _ _
  have hlay : y.lay = s.lay := by rw [← hy]; exact recorded_keeps State.lay (fun _ _ _ _ _ _ => rfl) _ _ _ _ _ _ _
  have hmem : y.mem = s.mem := by rw [← hy]; exact recorded_keeps State.mem (fun _ _ _ _ _ _ => rfl) _ _ _ _ _ _ _
  have hvit : y.vit = s.vit := by rw [← hy]; exact recorded_vit _ _ _ _ _ _ _
  have hregs : smapWf regDefault y.regs = true := by rw [← hy, annexCmd_regs]; exact hc.2
  obtain ⟨f, hf⟩ := annexCmd_starts hregs hgo (by rw [hop']; exact hop)
  rw [hop', hslot, haddr] at hf
  have hentry : annexEntry (y.rmod .rasAnnexCmd 0 0 f) (decide (op = 1)) (Fin.ofNat 4 (bitsN v 58 2)) (bitsN v 12 36 * 4096) = some e := by
    rw [← he]
    unfold annexEntry annexOf dataSpan
    rw [show (y.rmod .rasAnnexCmd 0 0 f).ras = s.ras from hras, show (y.rmod .rasAnnexCmd 0 0 f).lay = s.lay from hlay]
  obtain ⟨z, hz, hcmdz, hmemz, hvitz, hregsz⟩ := annexStart_accepts (s := y.rmod .rasAnnexCmd 0 0 f)
    (show y.ras.snap = none by rw [hras, hsnap]) (show y.ras.cmd = none by rw [hras, hcmd]) hentry
  have hwz : smapWf regDefault z.regs = true := by
    rw [hregsz]
    exact rset_wf _ _ _ _ hregs
  have hleaves : Leaves i s (annexState z 1) :=
    write64_leaves hi hw (findReg_single _ (by decide)) rfl (by decide) (by rw [hy]; exact hf.trans hz)
      (congrArg VitState.met (hvitz.trans hvit))
  refine ⟨_, hleaves, ?_⟩
  rw [summaryRise_ras, summaryRise_mem, summaryRise_rget]
  exact ⟨hcmdz, hmemz.trans hmem, annexState_reads hwz (by decide)⟩

theorem annexCommand_rows (hw : Writable w (RegName.rasAnnexCmd.at 0 0) s) (hc : Canonical s) (hsnap : s.ras.snap = none)
    (hcmd : s.ras.cmd = none) :
    let k : Fin 4 := Fin.ofNat 4 (bitsN v 58 2)
    let addr := bitsN v 12 36 * 4096
    (∀ e, (annexOf s k).state = 2 → dataSpan s addr (annexOf s k).len = some e →
      ∃ t, exec (.annexRestore w v) s = .next t ∧ t.ras.cmd = some ⟨true, k, addr, e⟩ ∧ t.mem = s.mem ∧
        bitsN (t.rget .rasAnnexCmd 0 0) 48 2 = 1) ∧
    ∃ t, exec (.annexErase w v) s = .next t ∧ t.ras.cmd = some ⟨false, k, addr, 0⟩ ∧ t.mem = s.mem ∧
      bitsN (t.rget .rasAnnexCmd 0 0) 48 2 = 1 :=
  ⟨fun _ hst he => annexCommand_accepted (op := 1) rfl (.inl rfl) hw hc hsnap hcmd ((if_pos rfl).trans ((if_pos hst).trans he)),
    annexCommand_accepted (op := 2) rfl (.inr rfl) hw hc hsnap hcmd (if_neg (by decide))⟩

end

theorem byteAt_nowhere {s : State} {a : Nat} (h : byteKey s a = none) : byteAt s a = 0 := by
  unfold byteAt
  rw [h]

theorem byteAt_putByte_else {s : State} (hw : memWf s.mem = true) {a x : Nat} (b : Byte) (h : x ≠ a) :
    byteAt (putByte s x b) a = byteAt s a := by
  cases hk : byteKey s x with
  | none => rw [putByte_none b hk]
  | some k => exact byteAt_putByte_other _ hw fun e => h (byteKey_inj hk (e.trans hk))

/-- What a run of writes leaves: at each address of memory the byte written there; an address that belongs to nothing takes none. -/
theorem byteAt_putCells_placed (cells : List (Nat × Byte)) : ∀ {s : State}, memWf s.mem = true →
    cells.Pairwise (fun x y => x.1 ≠ y.1) → ∀ a,
    byteAt (putCells s cells) a = if byteKey s a = none then byteAt s a else (cellAt cells a).getD (byteAt s a) := by
  induction cells with
  | nil =>
    intro s _ _ a
    exact (ite_self _).symm
  | cons c t ih =>
    intro s hw hp a
    obtain ⟨hc, ht⟩ := List.pairwise_cons.mp hp
    show byteAt (putCells (putByte s c.1 c.2) t) a = _
    rw [ih (putByte_wf _ _ hw) ht, byteKey_putByte]
    by_cases hk : byteKey s a = none
    · rw [if_pos hk, if_pos hk, byteAt_nowhere hk, byteAt_nowhere (by rw [byteKey_putByte]; exact hk)]
    · rw [if_neg hk, if_neg hk]
      by_cases he : c.1 = a
      · obtain ⟨k, hk⟩ := Option.ne_none_iff_exists'.mp hk
        rw [cellAt_none fun x hx => fun e => hc x hx (he.trans e.symm), ← he]
        unfold cellAt
        rw [List.find?_cons_of_pos (by simp)]
        exact byteAt_putByte_same _ hw (he ▸ hk)
      · rw [byteAt_putByte_else hw _ he]
        unfold cellAt
        rw [List.find?_cons_of_neg (by simp [he])]

theorem annexRestore_row {s : State} {c : AnnexCmd} (hd : domOn s 25 = true) (hc : Canonical s) (hg : StorageGood s) (hcmd : s.ras.cmd = some c)
    (hr : c.restore = true) :
    ∃ t, exec (.annexCommandDone none) s = .next t ∧ t.ras.cmd = none ∧ bitsN (t.rget .rasAnnexCmd 0 0) 48 2 = 2 ∧
      (∀ i, i < (annexOf s c.slot).len → byteKey s (c.addr + i) ≠ none →
        byteAt t (c.addr + i) = (annexBytes (annexOf s c.slot)).getD i 0) ∧
      ∀ a, ¬ (c.addr ≤ a ∧ a < c.addr + (annexOf s c.slot).len) → byteAt t a = byteAt s a := by
  have hlen : (annexBytes (annexOf s c.slot)).length = (annexOf s c.slot).len := by simp [annexBytes]
  generalize hx : annexOf s c.slot = x at *
  generalize hbs : annexBytes x = bs at *
  generalize hz : ({ s with ras := { s.ras with cmd := none } } : State) = z
  have hgz : StorageGood z := by rw [← hz]; exact hg.congr rfl rfl rfl (fun _ => rfl) rfl rfl (fun _ _ => rfl) fun _ _ => rfl
  have hwz : smapWf regDefault z.regs = true := by rw [← hz]; exact hc.2
  have hperf := countLines_perf hwz (cellsAt c.addr bs)
  obtain ⟨m, hput⟩ : ∃ m, putNoted .registrar (countLines z (cellsAt c.addr bs)) (cellsAt c.addr bs) =
    { countLines z (cellsAt c.addr bs) with mem := m } := putNoted_coll _ _
  have hwrite := devWrite_good hgz hwz .registrar (cellsAt c.addr bs)
  generalize hu : putNoted .registrar (countLines z (cellsAt c.addr bs)) (cellsAt c.addr bs) = u at *
  have hwu : smapWf regDefault u.regs = true := by rw [hput]; exact hperf.wf
  have hras : u.ras.cmd = none := by
    rw [hput]
    show (countLines z (cellsAt c.addr bs)).ras.cmd = none
    rw [hperf.eq, ← hz]
  have hvit : u.vit = s.vit := by
    rw [hput]
    show (countLines z (cellsAt c.addr bs)).vit = s.vit
    rw [hperf.eq, ← hz]
  have hex : exec (.annexCommandDone none) s = answer s (annexState (useEnd u c.entry) 2) := by
    show execAnnexCommandDone none s = _
    unfold execAnnexCommandDone
    rw [hd, if_pos rfl, hcmd]
    dsimp only
    rw [if_pos hr, hx, hbs, hz, hwrite]
    rfl
  have hbyte : ∀ a, byteAt (annexState (useEnd u c.entry) 2) a =
      if byteKey s a = none then byteAt s a else (cellAt (cellsAt c.addr bs) a).getD (byteAt s a) := by
    intro a
    have hplaces : SamePlaces s z := by rw [← hz]; exact ⟨rfl, rfl, fun _ _ => rfl⟩
    have hmem : z.mem = s.mem := by rw [← hz]
    have hside : Beside (useEnd u c.entry) (annexState (useEnd u c.entry) 2) := rmod_beside (notSwz_of (by decide)) _ _
    rw [hside.bytes hwu a, byteAt_congr (s := u) (t := useEnd u c.entry) ⟨rfl, rfl, fun _ _ => rfl⟩ rfl a, ← hu]
    show byteAt (putCells (countLines z (cellsAt c.addr bs)) (cellsAt c.addr bs)) a = _
    rw [byteAt_putCells_placed _ (by rw [hperf.eq, hmem]; exact hc.1) (cellsAt_pairwise _ _), hperf.places.byteKey, hplaces.byteKey,
      byteAt_congr hperf.places (by rw [hperf.eq]), byteAt_congr hplaces hmem]
  refine ⟨_, leaves_of hex (congrArg VitState.met hvit), ?_⟩
  simp only [byteAt_summaryRise, hbyte, cellAt_cellsAt, hlen]
  rw [summaryRise_ras, summaryRise_rget]
  refine ⟨hras, annexState_reads hwu (by decide), fun i hi hk => ?_, fun a ha => ?_⟩
  · rw [if_neg hk, if_pos ⟨Nat.le_add_right _ _, Nat.add_lt_add_left hi _⟩, Nat.add_sub_cancel_left,
      List.getD_eq_getElem?_getD, List.getElem?_eq_getElem (by omega)]
    rfl
  · rw [if_neg ha]
    exact ite_self _

theorem annexErase_leaves {s : State} {c : AnnexCmd} (hd : domOn s 25 = true) (hcmd : s.ras.cmd = some c) (hr : c.restore = false)
    (bad : Option Nat) : Leaves (.annexCommandDone bad) s (annexState (setAnnex { s with ras := { s.ras with cmd := none } } c.slot {}) 2) := by
  refine leaves_of ?_ rfl
  show execAnnexCommandDone bad s = _
  unfold execAnnexCommandDone
  rw [hd, if_pos rfl, hcmd]
  dsimp only
  rw [if_neg (by rw [hr]; exact Bool.false_ne_true)]

/-! ## Telemetry and the messages of an interval (R398, R447) -/

theorem telemItem_vit (s : State) (n : Nat) : (telemItem s n).2.vit = s.vit := by
  unfold telemItem
  split
  case h_7 | h_9 => rfl
  all_goals exact regRead_vit _ _ _ _

theorem telemCopy_vit (s : State) (n : Nat) : (telemCopy s n).vit = s.vit := by
  unfold telemCopy
  split
  · exact telemItem_vit s n
  · rfl

theorem telemetry_leaves {s : State} (hd : domOn s 23 = true) :
    Leaves .telemetrySnapshot s (((List.range 12).foldl telemCopy s).rcountWrap .mgtTelemSeq 0 0 0 32 1) :=
  leaves_of (congrArg (answer s) (if_pos hd)) (congrArg VitState.met (foldl_keeps telemCopy State.vit telemCopy_vit (List.range 12) s))

theorem pathSend_vit (s : State) (i : Nat) : (pathSend s i).vit = s.vit := by
  unfold pathSend
  split
  · exact (sendMsix_beside _ _).vit
  · rfl
  · rfl

theorem errMsg_rows (path : Fin 3) {s : State} (hr : (vAt s.host.paths {} path.val).running = true) :
    ((vAt s.host.paths {} path.val).merged = true → pathOpen s path.val = true → Leaves (.errMsgIntervalExpire path) s
      (pathPut (pathSend s path.val) path.val { running := true, merged := false })) ∧
    ((vAt s.host.paths {} path.val).merged = false → Leaves (.errMsgIntervalExpire path) s (pathPut s path.val {})) := by
  have hex : exec (.errMsgIntervalExpire path) s = answer s (
      if (vAt s.host.paths {} path.val).merged && pathOpen s path.val then
        pathPut (pathSend s path.val) path.val { running := true, merged := false }
      else pathPut s path.val {}) := by
    show execErrMsgIntervalExpire path s = _
    unfold execErrMsgIntervalExpire
    dsimp only
    rw [if_neg (by rw [hr]; decide)]
  refine ⟨fun hm ho => leaves_of ?_ (congrArg VitState.met (pathSend_vit s path.val)), fun hm => leaves_of ?_ rfl⟩
  · rw [hex, hm, ho]
    rfl
  · rw [hex, hm]
    rfl

/-- Settles O55: the advice of an update writes neither RISK nor the register that turns automatic retirement on; a slot packs the bytes that
it gives back; and a restore writes its slot's bytes wherever they have a place. -/
theorem resilienceRows : Obligations.ResilienceRows := by
  unfold Obligations.ResilienceRows
  exact ⟨fun s hd => riskUpdate_leaves hd, fun s hd hc hw hl ha => riskUpdate_row hd hc hw hl ha,
    fun s x hd hg hx => ⟨snapshotComplete_row hd hg hx, snapshotComplete_media hd hx⟩,
    fun w v s hw hc hs hcmd => annexCommand_rows hw hc hs hcmd,
    fun s c hd hc hg hcmd => ⟨annexRestore_row hd hc hg hcmd, annexErase_leaves hd hcmd⟩,
    fun s hd => telemetry_leaves hd, fun path s hr => errMsg_rows path hr⟩

end Sys2Proof.Machine


/-! # The power states and the resets (O56) -/

namespace Sys2Proof.Machine

/-! ## Changes of the stored registers alone -/

/-- From state s to state t only stored registers change, and they stay in canonical form. -/
structure OnlyRegs (s t : State) : Prop where
  eq : t = { s with regs := t.regs }
  wf : smapWf regDefault s.regs = true → smapWf regDefault t.regs = true

theorem OnlyRegs.refl (s : State) : OnlyRegs s s := ⟨rfl, id⟩

theorem OnlyRegs.trans {s t u : State} (h : OnlyRegs s t) (k : OnlyRegs t u) : OnlyRegs s u := by
  refine ⟨?_, k.wf ∘ h.wf⟩
  have hk := k.eq
  generalize u.regs = r at hk ⊢
  rw [hk, h.eq]

theorem rset_only (s : State) (r : RegName) (i n : Nat) (v : W64) : OnlyRegs s (s.rset r i n v) := ⟨rfl, rset_wf _ _ _ _⟩

theorem rmod_only (s : State) (r : RegName) (i n : Nat) (f : W64 → W64) : OnlyRegs s (s.rmod r i n f) := rset_only s r i n _

theorem OnlyRegs.foldl {β : Type} {f : State → β → State} (h : ∀ s b, OnlyRegs s (f s b)) (l : List β) (s : State) : OnlyRegs s (l.foldl f s) := by
  induction l generalizing s with
  | nil => exact .refl s
  | cons b t ih => exact (h s b).trans (ih _)

theorem OnlyRegs.ite {s t : State} (h : OnlyRegs s t) (c : Prop) [Decidable c] : OnlyRegs s (if c then t else s) := by
  split
  · exact h
  · exact .refl s

theorem logWrite_only (s : State) (a b : RegName) (v : W64) : OnlyRegs s (logWrite s a b v) := by
  unfold logWrite
  split
  · exact .refl s
  · exact (rset_only _ _ _ _ _).trans (rset_only _ _ _ _ _)

theorem ownersReset_only (s : State) : OnlyRegs s (ownersReset s) := OnlyRegs.foldl (fun s _ => rset_only s _ _ _ _) _ s

theorem setMemStates_only (s : State) (k : Nat) : OnlyRegs s (setMemStates s k) := OnlyRegs.foldl (fun s _ => rmod_only s _ _ _ _) _ s

/-- A run of writes of registers that are not at an address leaves what it reads. -/
theorem foldl_get {β : Type} {f : State → β → State} (h : ∀ s b, OnlyRegs s (f s b)) {a : Nat} {l : List β}
    (hne : ∀ s, smapWf regDefault s.regs = true → ∀ b ∈ l, smapGet regDefault (f s b).regs a = smapGet regDefault s.regs a) {s : State}
    (hw : smapWf regDefault s.regs = true) : smapGet regDefault (l.foldl f s).regs a = smapGet regDefault s.regs a := by
  induction l generalizing s with
  | nil => rfl
  | cons b t ih =>
    rw [List.foldl_cons, ih (fun s hw x hx => hne s hw x (List.mem_cons_of_mem _ hx)) ((h s b).wf hw)]
    exact hne s hw b List.mem_cons_self

theorem ownersReset_get {s : State} (hw : smapWf regDefault s.regs = true) {a : Nat} (ha : ∀ n, n < 64 → a ≠ RegName.vtrOwn.at 0 n) :
    smapGet regDefault (ownersReset s).regs a = smapGet regDefault s.regs a :=
  foldl_get (fun s _ => rset_only s _ _ _ _) (fun _ hw n hn => smapGet_put_other _ (ha n (List.mem_range.mp hn)) hw) hw

/-! ## Power-on reset (R417, R418) -/

theorem resetCores_core (s : State) (p : Fin 72) :
    (resetCores s).core p = { Core.reset (s.free + p.val * 1024) (roleState s.map[p.val].role) with frec := (s.core p).frec } := by
  show (resetCores s).cores[p.val] = _
  unfold resetCores
  exact Vector.getElem_ofFn _

theorem reset_frec (p : Fin 72) : (State.reset.core p).frec = {} := by
  show State.reset.cores[p.val].frec = {}
  unfold State.reset
  rw [Vector.getElem_ofFn]
  rfl

theorem powerOn_fresh (d a : BitVec 3) (s : State) : PowerOnFresh d a s (powerOnReset s d a) := by
  unfold powerOnReset
  extract_lets ctrls z s1 s2 s3
  have h3 : OnlyRegs s2 s3 := (rmod_only _ _ _ _ _).ite _
  have hw2 : smapWf regDefault s2.regs = true := rfl
  have hregs : ∀ a, (∀ n, n < 64 → a ≠ RegName.vtrOwn.at 0 n) → a ≠ RegName.rasStatus.at 0 0 →
      smapGet regDefault (ownersReset s3).regs a = regDefault a := fun a ha hr => by
    rw [ownersReset_get (h3.wf hw2) ha]
    unfold s3
    split
    · exact smapGet_put_other _ hr hw2
    · rfl
  have hcores : ∀ p, s2.core p = Core.reset (s1.free + p.val * 1024) (roleState s1.map[p.val].role) := fun p => by
    show (resetCores s1).core p = _
    rw [resetCores_core, show (s1.core p).frec = {} from reset_frec p]
    rfl
  have heq := (h3.trans (ownersReset_only s3)).eq
  generalize (ownersReset s3).regs = r at heq hregs
  rw [heq]
  exact ⟨⟨rfl, rfl, rfl, rfl⟩, ⟨rfl, rfl, rfl, rfl, rfl, rfl⟩, fun p => ⟨_, hcores p⟩, hregs, ⟨rfl, rfl, rfl, rfl, rfl⟩, ⟨rfl, rfl, rfl, rfl, rfl⟩⟩

theorem powerOnReset_met (d a : BitVec 3) (s : State) : (powerOnReset s d a).vit.met = s.vit.met := by
  unfold powerOnReset
  extract_lets ctrls z s1 s2 s3
  have h3 : OnlyRegs s2 s3 := (rmod_only _ _ _ _ _).ite _
  rw [(h3.trans (ownersReset_only s3)).eq]
  rfl

/-! ## Warm reset (R417) -/

/-- Registers of the cores' blocks, which begin at 0x1000000. -/
def CoreReg (a : Nat) : Prop := 0x1000000 ≤ a ∧ a < 0x1480000

/-- From state s to state t ports are idled, registers outside the cores' blocks are written, and the outputs may be made safe. -/
structure BootKept (s t : State) : Prop where
  eq : t = { s with fab := t.fab, regs := t.regs, ras := t.ras, power := { s.power with safe := t.power.safe, dead := t.power.dead } }
  annex : s.ras.snap = none → t.ras.snap = none ∧ t.ras.annex = s.ras.annex
  regs : smapWf regDefault s.regs = true → smapWf regDefault t.regs = true ∧
    ∀ a, CoreReg a → smapGet regDefault t.regs a = smapGet regDefault s.regs a

theorem BootKept.refl (s : State) : BootKept s s := ⟨rfl, fun h => ⟨h, rfl⟩, fun h => ⟨h, fun _ _ => rfl⟩⟩

theorem BootKept.trans {s t u : State} (h : BootKept s t) (k : BootKept t u) : BootKept s u := by
  refine ⟨?_, fun hs => ?_, fun hw => ?_⟩
  · have hk := k.eq
    generalize u.fab = a at hk ⊢
    generalize u.regs = b at hk ⊢
    generalize u.ras = c at hk ⊢
    generalize u.power.safe = d at hk ⊢
    generalize u.power.dead = e at hk ⊢
    rw [hk, h.eq]
  · obtain ⟨ht, ha⟩ := h.annex hs
    obtain ⟨hu, hb⟩ := k.annex ht
    exact ⟨hu, hb.trans ha⟩
  · obtain ⟨ht, ha⟩ := h.regs hw
    obtain ⟨hu, hb⟩ := k.regs ht
    exact ⟨hu, fun a hr => (hb a hr).trans (ha a hr)⟩

theorem BootKept.foldl {β : Type} {f : State → β → State} (h : ∀ s b, BootKept s (f s b)) (l : List β) (s : State) : BootKept s (l.foldl f s) := by
  induction l generalizing s with
  | nil => exact .refl s
  | cons b t ih => exact (h s b).trans (ih _)

/-- Whether a register lies outside the cores' blocks. -/
def OffCores (r : RegName) (i n : Nat) : Prop := r.at i n < 0x1000000 ∨ 0x1480000 ≤ r.at i n

theorem rset_bootKept {r : RegName} {i n : Nat} (h : OffCores r i n) (s : State) (v : W64) : BootKept s (s.rset r i n v) :=
  ⟨rfl, fun h => ⟨h, rfl⟩, fun hw => ⟨rset_wf _ _ _ _ hw, fun a ha => smapGet_put_other _ (by
    obtain ⟨h1, h2⟩ := ha
    rcases h with h | h <;> omega) hw⟩⟩

theorem rmod_bootKept {r : RegName} {i n : Nat} (h : OffCores r i n) (s : State) (f : W64 → W64) : BootKept s (s.rmod r i n f) :=
  rset_bootKept h s _

theorem setPwrState_bootKept (s : State) (k : Nat) : BootKept s (setPwrState s k) := rmod_bootKept (.inl (by decide)) _ _

theorem logPwr_bootKept (s : State) (code : BitVec 16) (d : W32) : BootKept s (logPwr s code d) := by
  unfold logPwr logWrite
  split
  · exact .refl s
  · exact (rset_bootKept (.inl (by decide)) _ _).trans (rset_bootKept (.inl (by decide)) _ _)

theorem idlePort_bootKept (s : State) (i : Fin 16) : BootKept s (idlePort s i) :=
  ⟨rfl, fun h => ⟨h, rfl⟩, fun h => ⟨h, fun _ _ => rfl⟩⟩

theorem idlePorts_bootKept (s : State) : BootKept s (idlePorts s) := by
  unfold idlePorts
  exact BootKept.foldl idlePort_bootKept _ s

theorem breakSnapshot_bootKept (s : State) : BootKept s (breakSnapshot s) := by
  unfold breakSnapshot
  split
  · exact .refl s
  · next h => exact ⟨rfl, fun h' => absurd (h.symm.trans h') (by simp), fun h => ⟨h, fun _ _ => rfl⟩⟩

/-- The outputs are made safe, or the module answers no more. -/
theorem power_bootKept (s : State) (a b : Bool) : BootKept s { s with power := { s.power with safe := a, dead := b } } :=
  ⟨rfl, fun h => ⟨h, rfl⟩, fun h => ⟨h, fun _ _ => rfl⟩⟩

theorem enterMgmtOnly_bootKept (s : State) : BootKept s (enterMgmtOnly s) := by
  unfold enterMgmtOnly
  exact ((idlePorts_bootKept s).trans (setPwrState_bootKept _ _)).trans (rmod_bootKept (.inl (by decide)) _ _)

/-- A check of the floors outside RUN. -/
theorem floorCheck_bootKept {s : State} (h : pwrState s ≠ 2) : BootKept s (floorCheck s) := by
  unfold floorCheck
  dsimp only
  split
  · unfold forceSafe
    exact (((idlePorts_bootKept s).trans (breakSnapshot_bootKept _)).trans (power_bootKept _ true _)).trans (power_bootKept _ _ true)
  · split
    · exact .refl s
    · exact ((logPwr_bootKept _ _ _).trans (rset_bootKept (.inl (by decide)) _ _)).trans (enterMgmtOnly_bootKept _)

theorem ownersReset_bootKept (s : State) : BootKept s (ownersReset s) :=
  BootKept.foldl (fun s n => rset_bootKept (.inr (by show _ ≤ 0x2000100 + 0 * 1 + n * 8; omega)) s _) _ s

theorem setMemStates_bootKept (s : State) (k : Nat) : BootKept s (setMemStates s k) :=
  BootKept.foldl (fun s n => rmod_bootKept (.inr (by show _ ≤ 0x2400000 + n * 0x4000 + 0 * 1; omega)) s _) _ s

theorem idlePorts_regs (s : State) : (idlePorts s).regs = s.regs := foldl_keeps idlePort State.regs (fun _ _ => rfl) _ s

theorem pwrState_setPwrState {s : State} (hw : smapWf regDefault s.regs = true) {k : Nat} (hk : k < 8) : pwrState (setPwrState s k) = k := by
  unfold pwrState setPwrState
  rw [rget_rmod_same _ _ _ _ hw, bitsN_setBits_same _ _ (by decide)]
  exact Nat.mod_eq_of_lt hk

theorem BootKept.inventory {s t : State} (h : BootKept s t) : BootKept (clearInventory s) (clearInventory t) := by
  have hcount : enabledCount t = enabledCount s := by
    unfold enabledCount
    rw [h.eq]
  unfold clearInventory
  rw [hcount]
  refine ⟨?_, h.annex, h.regs⟩
  rw [h.eq]

/-- The rails are up, and memory is in initialisation. -/
def railsUp (p : PowerState) : PowerState := { p with phase := 3, safe := false, memClk := true, lost := [] }

theorem BootKept.rails {s t : State} (h : BootKept s t) : BootKept { s with power := railsUp s.power } { t with power := railsUp t.power } := by
  refine ⟨?_, h.annex, h.regs⟩
  rw [h.eq]
  rfl

/-- Every core is at its reset state, and the storage is empty. -/
def cleared (s : State) : State :=
  { resetCores s with mem := [], memErr := [], galErr := [], vit := { met := (resetCores s).vit.met } }

/-- The rails of a state are up. -/
def withRails (s : State) : State := { s with power := railsUp s.power }

/-- Memory is in initialisation, and the vitrine is cleared. -/
def memoryInit (s : State) : State := (setMemStates s 0).rmod .vtrStatus 0 0 fun v => setBit v 0 true

theorem memoryInit_bootKept (s : State) : BootKept s (memoryInit s) :=
  (setMemStates_bootKept s 0).trans (rmod_bootKept (.inr (by decide)) _ _)

/-- The last step of R418. -/
def portsAndFloor (s : State) : State := floorCheck (idlePorts (setPwrState s 1))

theorem bootRest_eq (s : State) : bootRest s = portsAndFloor (withRails (memoryInit (clearInventory (ownersReset (cleared s))))) := rfl

theorem portsAndFloor_bootKept {s : State} (hw : smapWf regDefault s.regs = true) : BootKept s (portsAndFloor s) := by
  have hst : pwrState (idlePorts (setPwrState s 1)) = 1 := by
    refine Eq.trans ?_ (pwrState_setPwrState hw (by decide))
    unfold pwrState State.rget
    rw [idlePorts_regs]
  exact ((setPwrState_bootKept s 1).trans (idlePorts_bootKept _)).trans (floorCheck_bootKept (by rw [hst]; decide))

/-- What steps 5 to 8 of R418 leave, but for the ports and the registers outside the cores' blocks. -/
def booted (s : State) : State := withRails (clearInventory (cleared s))

theorem bootRest_kept {s : State} (hw : smapWf regDefault s.regs = true) : BootKept (booted s) (bootRest s) := by
  have h : BootKept (booted s) (withRails (memoryInit (clearInventory (ownersReset (cleared s))))) :=
    ((ownersReset_bootKept (cleared s)).inventory.trans (memoryInit_bootKept _)).rails
  rw [bootRest_eq]
  exact h.trans (portsAndFloor_bootKept (h.regs hw).1)

theorem ownersReset_vit (s : State) : (ownersReset s).vit = s.vit := by rw [(ownersReset_only s).eq]

theorem setMemStates_vit (s : State) (k : Nat) : (setMemStates s k).vit = s.vit := by rw [(setMemStates_only s k).eq]

theorem clearInventory_vit (s : State) : (clearInventory s).vit = s.vit := rfl

theorem setPwrState_vit (s : State) (k : Nat) : (setPwrState s k).vit = s.vit := rfl

theorem withRails_vit (s : State) : (withRails s).vit = s.vit := rfl

theorem memoryInit_vit (s : State) : (memoryInit s).vit = s.vit := by
  unfold memoryInit
  rw [rmod_vit, setMemStates_vit]

theorem portsAndFloor_vit (s : State) : (portsAndFloor s).vit = s.vit := by
  unfold portsAndFloor
  rw [(floorCheck_apart _).vit, (idlePorts_apart _).vit, setPwrState_vit]

theorem bootRest_met (s : State) : (bootRest s).vit.met = s.vit.met := by
  rw [bootRest_eq, portsAndFloor_vit, withRails_vit, memoryInit_vit, clearInventory_vit, ownersReset_vit]
  rfl

/-- From state s to state t operations of the Curator end without their bytes. -/
structure CutKept (s t : State) : Prop where
  eq : t = { s with regs := t.regs, free := t.free, cur := { s.cur with fw := t.cur.fw, lcOp := t.cur.lcOp, scrap := t.cur.scrap, nonce := t.cur.nonce } }
  wf : smapWf regDefault s.regs = true → smapWf regDefault t.regs = true

theorem CutKept.refl (s : State) : CutKept s s := ⟨rfl, id⟩

theorem CutKept.trans {s t u : State} (h : CutKept s t) (k : CutKept t u) : CutKept s u := by
  refine ⟨?_, k.wf ∘ h.wf⟩
  have hk := k.eq
  generalize u.regs = a at hk ⊢
  generalize u.free = b at hk ⊢
  generalize u.cur.fw = c at hk ⊢
  generalize u.cur.lcOp = d at hk ⊢
  generalize u.cur.scrap = e at hk ⊢
  generalize u.cur.nonce = f at hk ⊢
  rw [hk, h.eq]

theorem OnlyRegs.cut {s t : State} (h : OnlyRegs s t) : CutKept s t := ⟨by
  have he := h.eq
  generalize t.regs = r at he ⊢
  rw [he], h.wf⟩

theorem logCur_cut (s : State) (code : BitVec 16) (d : W32) : CutKept s (logCur s code d) := (logWrite_only _ _ _ _).cut

theorem firmwareFailed_cut (s : State) (f : Flt) : CutKept s (firmwareFailed s f) := by
  have h1 : CutKept s { s with cur := { s.cur with fw := none } } := ⟨rfl, id⟩
  unfold firmwareFailed fwState
  exact (h1.trans (logCur_cut _ _ _)).trans (rmod_only _ _ _ _ _).cut

theorem lcRefuse_cut (s : State) (k : BitVec 3) : CutKept s (lcRefuse s k) := by
  have h1 : CutKept s { s with cur := { s.cur with lcOp := none, scrap := none } } := ⟨rfl, id⟩
  have h2 : ∀ t, CutKept t (newNonce t) := fun t => ⟨rfl, id⟩
  unfold lcRefuse lcState
  exact ((h1.trans (logCur_cut _ _ _)).trans (h2 _)).trans (rmod_only _ _ _ _ _).cut

theorem tokenFailed_cut (s : State) : CutKept s (tokenFailed s) := by
  unfold tokenFailed
  split
  · exact .refl s
  · exact lcRefuse_cut _ _

theorem cutReads_cut (s : State) : CutKept s (cutReads s) := by
  unfold cutReads
  generalize s.host.reads = l
  induction l generalizing s with
  | nil => exact .refl s
  | cons rd t ih =>
    rw [List.foldl_cons]
    refine CutKept.trans ?_ (ih _)
    split
    · exact firmwareFailed_cut _ _
    · exact tokenFailed_cut _
    · exact .refl s

/-- What a warm reset drops of a state whose reads have been cut. -/
def warmDropped (s : State) : State :=
  { s with
    regs := s.regs.filter fun e => keptByWarm e.1
    lay := { inv := [] }
    host := { paths := s.host.paths }
    fab := { ports := s.fab.ports.map fun x => { retrains := x.retrains } }
    col := {}
    ras := { s.ras with cmd := none }
    latches := s.latches.set 0 {}
    power := { s.power with
      target := none
      wake := none
      warmAfter := false
      lossAfter := false
      d3hot := false
      flr := false
      held := [] } }

theorem warmReset_eq (s : State) : warmReset s = bootRest (warmDropped (breakSnapshot (cutReads (applyMemRetire s)))) := rfl

theorem breakSnapshot_snap (s : State) : (breakSnapshot s).ras.snap = none := by
  unfold breakSnapshot
  split
  · next h => exact h
  · rfl

theorem breakSnapshot_none {s : State} (h : s.ras.snap = none) : breakSnapshot s = s := by
  unfold breakSnapshot
  rw [h]

theorem breakSnapshot_eq (s : State) : ∃ r, breakSnapshot s = { s with ras := r } := by
  unfold breakSnapshot
  split
  · exact ⟨s.ras, rfl⟩
  · exact ⟨_, rfl⟩

theorem warm_fresh {s : State} (hc : Canonical s) : WarmFresh s (warmReset s) := by
  have hcut := cutReads_cut (applyMemRetire s)
  obtain ⟨r, hbreak⟩ := breakSnapshot_eq (cutReads (applyMemRetire s))
  have hsnap := breakSnapshot_snap (cutReads (applyMemRetire s))
  have hannex : s.ras.snap = none → r.annex = s.ras.annex := fun h => by
    have hn := breakSnapshot_none (s := cutReads (applyMemRetire s)) (by rw [hcut.eq]; exact h)
    have hr : r = (cutReads (applyMemRetire s)).ras := congrArg State.ras (hbreak.symm.trans hn)
    rw [hr, hcut.eq]
    rfl
  rw [warmReset_eq]
  generalize hu : cutReads (applyMemRetire s) = u at *
  have hwu : smapWf regDefault u.regs = true := hcut.wf hc.2
  have hcut := hcut.eq
  generalize u.regs = q at hcut hwu
  generalize u.free = n at hcut
  generalize u.cur.fw = fw at hcut
  generalize u.cur.lcOp = op at hcut
  generalize u.cur.scrap = sc at hcut
  generalize u.cur.nonce = nc at hcut
  rw [hbreak, hcut] at hsnap ⊢
  generalize hv : ({ { applyMemRetire s with
    regs := q, free := n, cur := { (applyMemRetire s).cur with fw := fw, lcOp := op, scrap := sc, nonce := nc } } with ras := r } : State) = v at *
  have hkept := bootRest_kept (s := warmDropped v) (smapWf_filter _ (by rw [← hv]; exact hwu))
  have hann := hkept.annex hsnap
  have hregs := (hkept.regs (smapWf_filter _ (by rw [← hv]; exact hwu))).2
  have heq := hkept.eq
  generalize bootRest (warmDropped v) = z at *
  generalize z.fab = a at heq
  generalize z.regs = b at heq hregs
  generalize z.ras = c at heq hann
  generalize z.power.safe = d at heq
  generalize z.power.dead = e at heq
  subst heq hv
  refine ⟨⟨rfl, rfl, rfl, rfl⟩, ⟨rfl, rfl, rfl⟩, fun p => ⟨_, resetCores_core _ p⟩, fun a h1 h2 hk => ?_, ⟨rfl, rfl, rfl, rfl, rfl⟩,
    rfl, rfl, rfl, rfl, rfl, fun h => hann.2.trans (hannex h)⟩
  refine (hregs a ⟨h1, h2⟩).trans ?_
  refine smapGet_absent regDefault fun x hx hxa => ?_
  have hkeep := (List.mem_filter.mp hx).2
  rw [hxa, hk] at hkeep
  exact Bool.false_ne_true hkeep

theorem warmReset_met (s : State) : (warmReset s).vit.met = s.vit.met := by
  obtain ⟨r, hbreak⟩ := breakSnapshot_eq (cutReads (applyMemRetire s))
  rw [warmReset_eq, bootRest_met, hbreak]
  show (cutReads (applyMemRetire s)).vit.met = _
  rw [(cutReads_cut _).eq]
  rfl

/-! ## The power-on sequence (R418) -/

theorem deriveKeys_vit (s : State) : (deriveKeys s).vit = s.vit := by
  unfold deriveKeys
  split <;> rfl

theorem curatorBoot_met (s : State) : (curatorBoot s).vit.met = s.vit.met := by
  unfold curatorBoot
  split
  · rfl
  · split
    · exact congrArg VitState.met (logCur_vit _ _ _)
    · dsimp only
      split
      · exact congrArg VitState.met ((deriveKeys_vit _).trans (logCur_vit _ _ _))
      · rw [bootRest_met, rmod_vit, deriveKeys_vit]
        rfl

theorem oscDelay_leaves {refclk : Bool} {s : State} (hoff : s.power.off = false) (hst : pwrState s = 1) (hph : s.power.phase = 1) :
    Leaves (.oscDelayExpire true refclk) s (curatorBoot { s with power := { s.power with localOk := true, refclk := refclk } }) := by
  refine leaves_of (congrArg (answer s) (if_pos ?_)) (curatorBoot_met _)
  rw [hoff, hst, hph]
  rfl

/-- The state of a controller at a place of the interleave. -/
def placeMem (j : Nat) (s : State) (i : Nat) : State :=
  s.rmod .memStatus i 0 fun v => setBits v 0 3 (if s.memMap.getLsbD i then j else 5)

theorem setMemStates_eq (s : State) (j : Nat) : setMemStates s j = (List.range 48).foldl (placeMem j) s := rfl

theorem placeMem_only (j : Nat) (s : State) (i : Nat) : OnlyRegs s (placeMem j s i) := rmod_only _ _ _ _ _

theorem memStatus_at_ne {i k : Nat} (h : k ≠ i) : RegName.at .memStatus k 0 ≠ RegName.at .memStatus i 0 := by
  show 0x2400000 + k * 0x4000 + 0 * 1 ≠ 0x2400000 + i * 0x4000 + 0 * 1
  omega

theorem placeMems_at (j k : Nat) (l : List Nat) : ∀ {s : State}, smapWf regDefault s.regs = true → l.Nodup → k ∈ l →
    (l.foldl (placeMem j) s).rget .memStatus k 0 = setBits (s.rget .memStatus k 0) 0 3 (if s.memMap.getLsbD k then j else 5) := by
  induction l with
  | nil => exact fun _ _ hk => absurd hk List.not_mem_nil
  | cons i t ih =>
    intro s hw hn hk
    obtain ⟨hi, ht⟩ := List.nodup_cons.mp hn
    have hw' := (placeMem_only j s i).wf hw
    rw [List.foldl_cons]
    rcases List.mem_cons.mp hk with rfl | hk
    · refine (foldl_get (placeMem_only j) (fun s hw x hx => smapGet_put_other _ (memStatus_at_ne fun (e : k = x) => hi (by rw [e]; exact hx)) hw) hw').trans ?_
      exact rget_rmod_same _ _ _ _ hw
    · rw [ih hw' ht hk]
      unfold placeMem
      rw [rget_rmod_other _ hw (memStatus_at_ne fun (e : k = i) => hi (by rw [← e]; exact hk))]
      rfl

/-- Every controller is in the state that its place in the interleave gives. -/
theorem memState_setMemStates {s : State} (hw : smapWf regDefault s.regs = true) {j : Nat} (hj : j < 8) (k : Fin 48) :
    memState (setMemStates s j) k.val = if s.memMap.getLsbD k.val then j else 5 := by
  unfold memState
  rw [setMemStates_eq, placeMems_at j k.val _ hw List.nodup_range (List.mem_range.mpr k.isLt), bitsN_setBits_same _ _ (by decide)]
  split
  · exact Nat.mod_eq_of_lt hj
  · rfl

/-- Registers that lie below the controllers'. -/
theorem setMemStates_rget {s : State} (hw : smapWf regDefault s.regs = true) (j : Nat) {r : RegName} {i n : Nat} (h : r.at i n < 0x2400000) :
    (setMemStates s j).rget r i n = s.rget r i n :=
  foldl_get (fun s _ => rmod_only s _ _ _ _) (fun s hw k _ => smapGet_put_other _ (by
    show r.at i n ≠ 0x2400000 + k * 0x4000 + 0 * 1
    omega) hw) hw

theorem rget_congr {s t : State} (h : t.regs = s.regs) (r : RegName) (i n : Nat) : t.rget r i n = s.rget r i n := by
  unfold State.rget
  rw [h]

theorem pwrState_congr {s t : State} (h : t.regs = s.regs) : pwrState t = pwrState s := congrArg (bitsN · 0 3) (rget_congr h _ _ _)

theorem memState_congr {s t : State} (h : t.regs = s.regs) (k : Nat) : memState t k = memState s k := congrArg (bitsN · 0 3) (rget_congr h _ _ _)

theorem computeReady_congr {s t : State} (h : t.regs = s.regs) : computeReady t = computeReady s := congrArg (bitB · 0) (rget_congr h _ _ _)

theorem pwrState_summaryRise (b s : State) : pwrState (summaryRise b s) = pwrState s := by
  unfold pwrState
  rw [summaryRise_rget]

theorem memState_summaryRise (b s : State) (k : Nat) : memState (summaryRise b s) k = memState s k := by
  unfold memState
  rw [summaryRise_rget]

theorem computeReady_summaryRise (b s : State) : computeReady (summaryRise b s) = computeReady s := by
  unfold computeReady
  rw [summaryRise_rget]

/-- GLB_STATUS and RAS_STATUS say that the module is ready. -/
def readied (s : State) : State := (s.rmod .glbStatus 0 0 fun v => setBit v 0 true).rmod .rasStatus 0 0 fun v => setBit v 0 true

theorem readied_only (s : State) : OnlyRegs s (readied s) := (rmod_only _ _ _ _ _).trans (rmod_only _ _ _ _ _)

theorem readied_rget {s : State} (hw : smapWf regDefault s.regs = true) {r : RegName} {i n : Nat} (h1 : r.at i n ≠ RegName.at .glbStatus 0 0)
    (h2 : r.at i n ≠ RegName.at .rasStatus 0 0) : (readied s).rget r i n = s.rget r i n :=
  (rget_rmod_other _ ((rmod_only s _ _ _ _).wf hw) h2).trans (rget_rmod_other _ hw h1)

theorem readied_ready {s : State} (hw : smapWf regDefault s.regs = true) : computeReady (readied s) = true := by
  unfold computeReady readied
  rw [rget_rmod_other _ ((rmod_only s _ _ _ _).wf hw) (by decide), rget_rmod_same _ _ _ _ hw]
  show (setBit _ 0 true).getLsbD 0 = true
  rw [getLsbD_setBit]
  rfl

/-- The cold start is over. -/
def startedUp (s : State) : State := { s with power := { s.power with phase := 4 } }

theorem startedUp_regs (s : State) : (startedUp s).regs = s.regs := rfl

theorem computeReady_exec {s : State} (hoff : s.power.off = false) (hst : pwrState s = 1) (hph : s.power.phase = 3) :
    exec .computeReady s = answer s (startedUp (readied (setMemStates (setPwrState s 2) 1))) := by
  refine congrArg (answer s) (if_pos ?_)
  rw [hoff, hst, hph]
  rfl

/-- The end of a cold start whose registers are as a state y has them. -/
theorem startedUp_row {s y : State} (honly : OnlyRegs s y) (hpwr : pwrState y = 2) (hready : computeReady y = true)
    (hmem : ∀ k : Fin 48, memState y k.val = if s.memMap.getLsbD k.val then 1 else 5)
    (hex : exec .computeReady s = answer s (startedUp y)) :
    ∃ t, exec .computeReady s = .next t ∧ pwrState t = 2 ∧ computeReady t = true ∧ t.power.phase = 4 ∧ t.mem = s.mem ∧
      t.cores = s.cores ∧ ∀ k : Fin 48, memState t k.val = if s.memMap.getLsbD k.val then 1 else 5 := by
  have hvit : (startedUp y).vit = s.vit := by
    show y.vit = s.vit
    rw [honly.eq]
  refine ⟨_, leaves_of hex (congrArg VitState.met hvit), ?_⟩
  rw [pwrState_summaryRise, computeReady_summaryRise, summaryRise_power, summaryRise_mem, summaryRise_cores]
  refine ⟨(pwrState_congr (startedUp_regs y)).trans hpwr, (computeReady_congr (startedUp_regs y)).trans hready, rfl, ?_, ?_, fun k => ?_⟩
  · show y.mem = s.mem
    rw [honly.eq]
  · show y.cores = s.cores
    rw [honly.eq]
  · rw [memState_summaryRise, memState_congr (startedUp_regs y), hmem]

theorem computeReady_row {s : State} (hc : Canonical s) (hoff : s.power.off = false) (hst : pwrState s = 1) (hph : s.power.phase = 3) :
    ∃ t, exec .computeReady s = .next t ∧ pwrState t = 2 ∧ computeReady t = true ∧ t.power.phase = 4 ∧ t.mem = s.mem ∧
      t.cores = s.cores ∧ ∀ k : Fin 48, memState t k.val = if s.memMap.getLsbD k.val then 1 else 5 := by
  have hw1 : smapWf regDefault (setPwrState s 2).regs = true := (rmod_only _ _ _ _ _).wf hc.2
  have hwx : smapWf regDefault (setMemStates (setPwrState s 2) 1).regs = true := (setMemStates_only _ _).wf hw1
  have hmem (k : Fin 48) : memState (readied (setMemStates (setPwrState s 2) 1)) k.val = if s.memMap.getLsbD k.val then 1 else 5 := by
    refine Eq.trans ?_ (memState_setMemStates hw1 (j := 1) (by decide) k)
    have h1 : RegName.at .glbStatus 0 0 < 0x2400000 := by decide
    have h2 : 0x2400000 + 48 * 0x4000 < RegName.at .rasStatus 0 0 := by decide
    have hk : RegName.at .memStatus k.val 0 = 0x2400000 + k.val * 0x4000 + 0 * 1 := rfl
    unfold memState
    rw [readied_rget hwx (by omega) (by omega)]
  have hpwr : pwrState (readied (setMemStates (setPwrState s 2) 1)) = 2 := by
    refine Eq.trans ?_ (pwrState_setPwrState hc.2 (k := 2) (by decide))
    unfold pwrState
    rw [readied_rget hwx (by decide) (by decide), setMemStates_rget hw1 1 (by decide)]
  have honly : OnlyRegs s (readied (setMemStates (setPwrState s 2) 1)) :=
    ((rmod_only _ _ _ _ _).trans (setMemStates_only _ _)).trans (readied_only _)
  exact startedUp_row honly hpwr (readied_ready hwx) hmem (computeReady_exec hoff hst hph)

/-! ## OFF (R406, R469, R470) -/

theorem domOn_off {s : State} (h : s.power.off = true) (n : Nat) : domOn s n = false := by
  unfold domOn domDead
  rw [h]
  rfl

theorem domOn_summaryRise (b s : State) (n : Nat) : domOn (summaryRise b s) n = domOn s n :=
  domOn_congr (summaryRise_regs b s) (summaryRise_power b s) (summaryRise_fab b s) n

theorem railsDown_vit (s : State) : (railsDown s).vit = s.vit := rfl

theorem enterOff_vit (s : State) : (enterOff s).vit = s.vit := by
  unfold enterOff
  extract_lets s1
  have h : s1.vit = s.vit := (setPwrState_vit _ _).trans ((railsDown_vit _).trans (forceSafe_apart s).vit)
  exact h

theorem enterOff_off (s : State) : (enterOff s).power.off = true := rfl

theorem requestOff_off (s : State) : (requestOff s).power.off = true ∧ (requestOff s).power.offReq = true := by
  unfold requestOff
  exact ⟨enterOff_off s, rfl⟩

theorem requestOff_vit (s : State) : (requestOff s).vit = s.vit := by
  unfold requestOff
  exact enterOff_vit s

theorem forceSafe_safe (s : State) : (forceSafe s).power.safe = true := rfl

theorem enterOff_safe (s : State) : (enterOff s).power.safe = true := forceSafe_safe s

/-- PWR_EN falls in OFF: the next power-on is allowed. -/
def offAllowed (s : State) : State := { s with power := { s.power with offReq := false } }

theorem pwrEnFall_row {s : State} (h : s.power.off = false) :
    ∃ t, exec .pwrEnFall s = .next t ∧ t.power.off = true ∧ t.power.offReq = false ∧ t.power.safe = true ∧ ∀ n, domOn t n = false := by
  have hex : exec .pwrEnFall s = answer s (offAllowed (enterOff s)) := by
    show execPwrEnFall s = _
    unfold execPwrEnFall
    rw [h]
    rfl
  refine ⟨_, leaves_of hex (congrArg VitState.met (enterOff_vit s)), ?_⟩
  rw [summaryRise_power]
  exact ⟨enterOff_off s, rfl, enterOff_safe s, fun n => (domOn_summaryRise _ _ _).trans (domOn_off (enterOff_off s) n)⟩

theorem alwaysOnLoss_row {s : State} (h : s.power.off = false) :
    ∃ t, exec .alwaysOnLoss s = .next t ∧ t.power.off = true ∧ t.power.safe = true ∧ ∀ n, domOn t n = false := by
  have hex : exec .alwaysOnLoss s = answer s (enterOff s) := congrArg (answer s) (if_neg (by rw [h]; exact Bool.false_ne_true))
  refine ⟨_, leaves_of hex (congrArg VitState.met (enterOff_vit s)), ?_⟩
  rw [summaryRise_power]
  exact ⟨enterOff_off s, enterOff_safe s, fun n => (domOn_summaryRise _ _ _).trans (domOn_off (enterOff_off s) n)⟩

/-! ## Requests of a power state (R407, R410) -/

/-- Stored registers as they stand before a write are those in which it takes effect, where its register's read brings none up to date. -/
theorem recorded_plain {s : State} {w : Writer} {r : RegName} {k n size : Nat} {v : W64} (h : (recorded s w r k n size v).regs = s.regs) :
    ∃ l f d g e, recorded s w r k n size v = { s with latches := l, free := f, dbg := d, cur := { s.cur with log := g, seq := e } } := by
  obtain ⟨l, f, d, q, g, e, hr⟩ := recorded_frame s w r k n size v
  rw [hr] at h ⊢
  exact ⟨l, f, d, g, e, by rw [show q = s.regs from h]⟩

section
variable {s : State} {w : Writer}

theorem bitsN_opWord {op rest : Nat} (h : op < 16) (hr : rest < 2 ^ 28) : bitsN ((opWord op rest).zeroExtend 64 : W64) 28 4 = op := by
  rw [bitsN_zeroExtend]
  unfold opWord bitsN
  rw [BitVec.toNat_ofNat]
  omega

/-- A request of a power state leaves what its word asks for, in the state that holds its record. -/
theorem pwrCtl_leaves {i : Instr} {op : Nat} (hi : exec i s = write32 w .pwrCtl 0 0 (opWord op 0) s)
    (hw : Writable w (RegName.pwrCtl.at 0 0) s) {x : State}
    (hx : pwrCtlWrite (recorded s w .pwrCtl 0 0 4 ((opWord op 0).zeroExtend 64)) w ((opWord op 0).zeroExtend 64) = x)
    (hm : x.vit = s.vit) : Leaves i s x :=
  write32_leaves hi hw (findReg_single _ (by decide)) rfl (by decide) hx (congrArg VitState.met hm)

/-- What a request asks for. -/
def pwrRequest (y : State) (w : Writer) : Nat → State
  | 1 => requestRun y w
  | 2 => requestSleep y 3
  | 3 => requestSleep y 4
  | 4 => if inTransition y then reqRefuse y 1 else requestOff y
  | _ => reqRefuse y (if inTransition y then 1 else 6)

theorem pwrCtlWrite_op {y : State} {v : W64} {op : Nat} (h : bitsN v 28 4 = op) : pwrCtlWrite y w v = pwrRequest y w op := by
  rw [← h]
  rfl

theorem sleepReason_congr {s t : State} (hp : t.power = s.power) (hc : t.cores = s.cores) (hh : t.host = s.host) (hl : t.col = s.col)
    (hr : t.regs = s.regs) : sleepReason t = sleepReason s := by
  unfold sleepReason inTransition stepOpen
  rw [hp, hc, hh, hl, computeReady_congr hr]

/-- A module that rests in RUN may sleep. -/
theorem sleepReason_none (hwk : s.power.wake = none) (ht : s.power.target = none) (hcmds : s.host.cmds = []) (hstep : stepOpen s = false)
    (hready : computeReady s = true) (hcores : ∀ p, (s.core p).runstate = 0 ∨ (s.core p).runstate = 6 ∨ (s.core p).runstate = 7) :
    sleepReason s = none := by
  have hany : s.cores.toList.any (fun c => decide (c.runstate ≠ 0 ∧ c.runstate ≠ 6 ∧ c.runstate ≠ 7)) = false := by
    rw [List.any_eq_false]
    intro c hc
    obtain ⟨i, hi, rfl⟩ := List.mem_iff_getElem.mp hc
    have hlt : i < 72 := by simpa using hi
    have hrun := hcores ⟨i, hlt⟩
    rw [decide_eq_true_eq]
    rintro ⟨h0, h6, h7⟩
    rcases hrun with h | h | h
    · exact h0 h
    · exact h6 h
    · exact h7 h
  unfold sleepReason inTransition
  rw [hwk, ht, hany, hcmds, hstep, hready]
  rfl

theorem requestRun_vit (y : State) (hwk : y.power.wake = none) (h : y.power.target.isSome = true ∨ pwrState y = 3 ∨ pwrState y = 4) :
    requestRun y w = startWake (reqAccept y) 1 := by
  unfold requestRun
  rw [hwk, if_neg (by simp), if_pos]
  rw [Bool.or_eq_true, decide_eq_true_eq]
  exact h

theorem pwrCtl_rows (hw : Writable w (RegName.pwrCtl.at 0 0) s) :
    let y (op : Nat) := recorded s w .pwrCtl 0 0 4 ((opWord op 0).zeroExtend 64)
    (s.power.wake = none → s.power.target.isSome = true ∨ pwrState s = 3 ∨ pwrState s = 4 →
      Leaves (.reqRun w) s (startWake (reqAccept (y 1)) 1)) ∧
    (s.power.wake = none → s.power.target = none → pwrState s = 2 → Leaves (.reqRun w) s (reqAccept (y 1))) ∧
    (s.power.wake = none → s.power.target = none → pwrState s = 2 → s.host.cmds = [] → stepOpen s = false →
      computeReady s = true →
      (∀ p, (s.core p).runstate = 0 ∨ (s.core p).runstate = 6 ∨ (s.core p).runstate = 7) →
      (let x := reqAccept (y 2)
       Leaves (.reqSleep w) s { x with power := { x.power with target := some 3 } }) ∧
      (let x := reqAccept (y 3)
       Leaves (.reqDeep w) s { x with power := { x.power with target := some 4 } })) ∧
    (∀ k, sleepReason s = some k →
      Leaves (.reqSleep w) s (reqRefuse (y 2) k) ∧ Leaves (.reqDeep w) s (reqRefuse (y 3) k)) ∧
    (inTransition s = false →
      ∃ t, exec (.reqOff w) s = .next t ∧ t.power.off = true ∧ t.power.offReq = true ∧ ∀ n, domOn t n = false) ∧
    (inTransition s = true → Leaves (.reqOff w) s (reqRefuse (y 4) 1)) := by
  intro y
  have hregs (op : Nat) : (y op).regs = s.regs := recorded_regs _ _ _ _ _ _ _ rfl rfl
  have hpower (op : Nat) : (y op).power = s.power := recorded_keeps State.power (fun _ _ _ _ _ _ => rfl) _ _ _ _ _ _ _
  have hvit (op : Nat) : (y op).vit = s.vit := recorded_vit _ _ _ _ _ _ _
  have hreason (op : Nat) : sleepReason (y op) = sleepReason s :=
    sleepReason_congr (hpower op) (recorded_keeps State.cores (fun _ _ _ _ _ _ => rfl) _ _ _ _ _ _ _)
      (recorded_keeps State.host (fun _ _ _ _ _ _ => rfl) _ _ _ _ _ _ _) (recorded_keeps State.col (fun _ _ _ _ _ _ => rfl) _ _ _ _ _ _ _) (hregs op)
  have hstate (op : Nat) : pwrState (y op) = pwrState s := pwrState_congr (hregs op)
  have htrans (op : Nat) : inTransition (y op) = inTransition s := by
    unfold inTransition
    rw [hpower]
  have hop (op : Nat) (h : op < 16) : bitsN ((opWord op 0).zeroExtend 64 : W64) 28 4 = op := bitsN_opWord h (by decide)
  have hsleep (op : Nat) (st : BitVec 3) (hst : st.toNat ≠ 2) (h1 : pwrState s = 2) (h2 : sleepReason s = none) :
      requestSleep (y op) st = { reqAccept (y op) with power := { (reqAccept (y op)).power with target := some st } } := by
    unfold requestSleep
    rw [hreason, h2]
    dsimp only
    rw [hstate, h1, if_neg (Ne.symm hst), if_pos rfl]
  have hrefuse (op : Nat) (st : BitVec 3) {k : Nat} (h2 : sleepReason s = some k) : requestSleep (y op) st = reqRefuse (y op) k := by
    unfold requestSleep
    rw [hreason, h2]
  refine ⟨fun hwk h => ?_, fun hwk ht hst => ?_, fun hwk ht hst hcmds hstep hready hcores => ⟨?_, ?_⟩, fun k hk => ⟨?_, ?_⟩, fun hin => ?_, fun hin => ?_⟩
  · refine pwrCtl_leaves (op := 1) rfl hw ((pwrCtlWrite_op (hop 1 (by decide))).trans ?_) ((startWake_vit _ _).trans (hvit 1))
    exact requestRun_vit (y 1) (by rw [hpower]; exact hwk) (by rw [hpower, hstate]; exact h)
  · refine pwrCtl_leaves (op := 1) rfl hw ((pwrCtlWrite_op (hop 1 (by decide))).trans ?_) (hvit 1)
    show requestRun (y 1) w = _
    unfold requestRun
    rw [hpower, hwk, ht, hstate, hst]
    rfl
  · exact pwrCtl_leaves (op := 2) rfl hw ((pwrCtlWrite_op (hop 2 (by decide))).trans
      (hsleep 2 3 (by decide) hst (sleepReason_none hwk ht hcmds hstep hready hcores))) (hvit 2)
  · exact pwrCtl_leaves (op := 3) rfl hw ((pwrCtlWrite_op (hop 3 (by decide))).trans
      (hsleep 3 4 (by decide) hst (sleepReason_none hwk ht hcmds hstep hready hcores))) (hvit 3)
  · exact pwrCtl_leaves (op := 2) rfl hw ((pwrCtlWrite_op (hop 2 (by decide))).trans (hrefuse 2 3 hk)) (hvit 2)
  · exact pwrCtl_leaves (op := 3) rfl hw ((pwrCtlWrite_op (hop 3 (by decide))).trans (hrefuse 3 4 hk)) (hvit 3)
  · have hleaves : Leaves (.reqOff w) s (requestOff (y 4)) := by
      refine pwrCtl_leaves (op := 4) rfl hw ((pwrCtlWrite_op (hop 4 (by decide))).trans ?_) ((requestOff_vit (y 4)).trans (hvit 4))
      exact if_neg (by rw [htrans, hin]; exact Bool.false_ne_true)
    refine ⟨_, hleaves, ?_⟩
    rw [summaryRise_power]
    obtain ⟨hoff, hreq⟩ := requestOff_off (y 4)
    exact ⟨hoff, hreq, fun n => (domOn_summaryRise _ _ _).trans (domOn_off hoff n)⟩
  · refine pwrCtl_leaves (op := 4) rfl hw ((pwrCtlWrite_op (hop 4 (by decide))).trans ?_) (hvit 4)
    exact if_pos (by rw [htrans, hin])

end

/-! ## Entry and exit (R408, R409) -/

/-- Ports that go to electrical idle change the ports alone. -/
theorem sleepPorts_eq (s : State) (deep : Bool) : ∃ p, sleepPorts s deep = { s with fab := { s.fab with ports := p } } := by
  unfold sleepPorts
  generalize List.finRange 16 = l
  induction l generalizing s with
  | nil => exact ⟨s.fab.ports, rfl⟩
  | cons i t ih =>
    rw [List.foldl_cons]
    split
    · obtain ⟨p, hp⟩ := ih (idlePort s i)
      exact ⟨p, hp⟩
    · exact ih s

theorem moveMemStates_only (s : State) (a b : Nat) : OnlyRegs s (moveMemStates s a b) :=
  OnlyRegs.foldl (fun _ _ => (rmod_only _ _ _ _ _).ite _) _ s

/-- The entry is over. -/
def entered (s : State) (k : BitVec 3) : State :=
  let s3 := setPwrState (sleepPorts (moveMemStates (breakSnapshot (dropCaches s)) 1 2) (decide (k = 4))) k.toNat
  { s3 with power := { s3.power with target := none } }

theorem entered_eq (s : State) (k : BitVec 3) : ∃ p q r, entered s k =
    { dropCaches s with fab := { s.fab with ports := p }, regs := q, ras := r, power := { s.power with target := none } } ∧
    (smapWf regDefault s.regs = true → bitsN (smapGet regDefault q (RegName.at .pwrState 0 0)) 0 3 = k.toNat) := by
  obtain ⟨r, hr⟩ := breakSnapshot_eq (dropCaches s)
  have hmove := moveMemStates_only (breakSnapshot (dropCaches s)) 1 2
  obtain ⟨p, hp⟩ := sleepPorts_eq (moveMemStates (breakSnapshot (dropCaches s)) 1 2) (decide (k = 4))
  have hwf : smapWf regDefault s.regs = true → smapWf regDefault (moveMemStates (breakSnapshot (dropCaches s)) 1 2).regs = true := fun h =>
    hmove.wf (by rw [hr]; exact h)
  have hmove := hmove.eq
  generalize (moveMemStates (breakSnapshot (dropCaches s)) 1 2).regs = q at hmove hwf
  rw [hr] at hmove
  unfold entered
  dsimp only
  rw [hp, hr, hmove]
  refine ⟨p, _, r, rfl, fun h => ?_⟩
  exact pwrState_setPwrState (s := { dropCaches s with regs := q }) (hwf h) k.isLt

theorem entered_exec {s : State} {k : BitVec 3} (ht : s.power.target = some k) (hd : drained s = true) :
    exec .powerStateEntered s = answer s (entered s k) := by
  show execPowerStateEntered s = _
  unfold execPowerStateEntered
  rw [ht]
  dsimp only
  rw [hd]
  rfl

theorem dropCaches_core (s : State) (p : Fin 72) : (dropCaches s).core p = { s.core p with l1 := [], l1Err := [] } := by
  show (s.cores.map _)[p.val] = _
  rw [Vector.getElem_map]
  rfl

theorem powerStateEntered_rows {k : BitVec 3} {s : State} (hc : Canonical s) (ht : s.power.target = some k) :
    (s.col.reqs = [] → s.col.accq = [] → s.host.reqs = [] →
      ∃ t, exec .powerStateEntered s = .next t ∧ pwrState t = k.toNat ∧ t.power.target = none ∧ t.mem = s.mem ∧ t.vit.l2 = [] ∧
        ∀ p, (t.core p) = { s.core p with l1 := [], l1Err := [] }) ∧
    (s.col.reqs ≠ [] ∨ s.col.accq ≠ [] ∨ s.host.reqs ≠ [] → Leaves .powerStateEntered s s) := by
  refine ⟨fun h1 h2 h3 => ?_, fun h => leaves_of ?_ rfl⟩
  · have hd : drained s = true := by
      unfold drained
      rw [h1, h2, h3]
      rfl
    obtain ⟨p, q, r, he, hst⟩ := entered_eq s k
    have hex := entered_exec ht hd
    rw [he] at hex
    refine ⟨_, leaves_of hex rfl, ?_⟩
    rw [pwrState_summaryRise, summaryRise_power, summaryRise_mem, summaryRise_vit]
    refine ⟨hst hc.2, rfl, rfl, rfl, fun p => ?_⟩
    rw [summaryRise_core]
    exact dropCaches_core s p
  · show execPowerStateEntered s = _
    unfold execPowerStateEntered
    rw [ht]
    dsimp only
    rw [if_pos]
    unfold drained
    rcases h with h | h | h
    all_goals simp [h]

theorem clearCores_vit (s : State) : (clearCores s).vit = s.vit := foldl_keeps clearCore State.vit (fun _ _ => rfl) _ s

theorem finishWake_met (s : State) (code : BitVec 4) : (finishWake s code).vit.met = s.vit.met := by
  unfold finishWake
  extract_lets s1 s2
  have h1 : s1.vit = s.vit := by
    refine (clearCores_vit _).trans ?_
    rw [(moveMemStates_only s 2 1).eq]
  have h2 : s2.vit = s1.vit := (rmod_vit _ _ _ _ _).trans (setPwrState_vit _ _)
  refine (applyAllHeld_met _).trans ?_
  show s2.vit.met = _
  rw [h2, h1]

theorem wakeComplete_rows {code : BitVec 4} {s : State} (hwk : s.power.wake = some code) (ht : s.power.target = none)
    (hst : pwrState s = 3 ∨ pwrState s = 4) (hl : s.power.lost = []) :
    (s.power.lossAfter = false → s.power.warmAfter = false → Leaves .wakeComplete s (finishWake s code)) ∧
    (s.power.lossAfter = false → s.power.warmAfter = true → Leaves .wakeComplete s (warmReset (finishWake s code))) ∧
    (s.power.lossAfter = true →
      Leaves .wakeComplete s (warmReset (s.rmod .pwrState 0 0 fun v => setBits v 4 4 code.toNat))) := by
  have hex : exec .wakeComplete s = answer s (
      if s.power.lossAfter then warmReset (s.rmod .pwrState 0 0 fun v => setBits v 4 4 code.toNat)
      else if s.power.warmAfter then warmReset (finishWake s code)
      else finishWake s code) := by
    show execWakeComplete s = _
    unfold execWakeComplete
    rw [hwk]
    dsimp only
    rw [if_neg]
    rw [ht, hl, decide_eq_true hst]
    decide
  refine ⟨fun h1 h2 => leaves_of ?_ (finishWake_met s code), fun h1 h2 => leaves_of ?_ ((warmReset_met _).trans (finishWake_met s code)),
    fun h1 => leaves_of ?_ (warmReset_met _)⟩
  · rw [hex, h1, h2]
    rfl
  · rw [hex, h1, h2]
    rfl
  · rw [hex, h1]
    rfl

/-! ## Resets by PWR_RESET (R417, R419) -/

section
variable {s : State} {w : Writer}

theorem pwrReset_leaves {i : Instr} {op rest : Nat} (hi : exec i s = write32 w .pwrReset 0 0 (opWord op rest) s)
    (hw : Writable w (RegName.pwrReset.at 0 0) s) {x : State}
    (hx : pwrResetWrite (recorded s w .pwrReset 0 0 4 ((opWord op rest).zeroExtend 64)) ((opWord op rest).zeroExtend 64) = x)
    (hm : x.vit.met = s.vit.met) : Leaves i s x :=
  write32_leaves hi hw (findReg_single _ (by decide)) rfl (by decide) hx hm

theorem pwrResetWrite_warm (y : State) {v : W64} (h : bitsN v 28 4 = 1) : pwrResetWrite y v = requestWarm y := by
  unfold pwrResetWrite
  rw [h]; rfl

theorem sleeping_congr {s t : State} (hr : t.regs = s.regs) (hp : t.power = s.power) : sleeping t = sleeping s := by
  unfold sleeping
  rw [pwrState_congr hr, hp]

theorem warm_rows (hw : Writable w (RegName.pwrReset.at 0 0) s) :
    let y := recorded s w .pwrReset 0 0 4 ((opWord 1 0).zeroExtend 64)
    (pwrState s = 2 ∨ (pwrState s = 1 ∧ s.power.phase = 3) → s.power.target = none → Leaves (.warm w) s (warmReset y)) ∧
    (sleeping s = false → ¬ (pwrState s = 2 ∨ (pwrState s = 1 ∧ s.power.phase = 3)) → Leaves (.warm w) s y) ∧
    (sleeping s = true → Leaves (.warm w) s
      (let x := startWake y 1
       { x with power := { x.power with warmAfter := true } })) := by
  intro y
  have hregs : y.regs = s.regs := recorded_regs _ _ _ _ _ _ _ rfl rfl
  have hpower : y.power = s.power := recorded_keeps State.power (fun _ _ _ _ _ _ => rfl) _ _ _ _ _ _ _
  have hvit : y.vit = s.vit := recorded_vit _ _ _ _ _ _ _
  have hop := pwrResetWrite_warm y (bitsN_opWord (op := 1) (rest := 0) (by decide) (by decide))
  have hsl : sleeping y = sleeping s := sleeping_congr hregs hpower
  refine ⟨fun hst ht => ?_, fun hno hst => ?_, fun hyes => ?_⟩
  · have hno : sleeping y = false := by
      have h34 : ¬ (pwrState s = 3 ∨ pwrState s = 4) := by omega
      rw [hsl]
      unfold sleeping
      rw [ht, decide_eq_false h34]
      rfl
    refine pwrReset_leaves rfl hw (hop.trans ?_) ((warmReset_met y).trans (congrArg VitState.met hvit))
    unfold requestWarm
    rw [if_neg (by rw [hno]; exact Bool.false_ne_true), if_pos (by rw [pwrState_congr hregs, hpower]; exact hst)]
  · refine pwrReset_leaves rfl hw (hop.trans ?_) (congrArg VitState.met hvit)
    unfold requestWarm
    rw [if_neg (by rw [hsl, hno]; exact Bool.false_ne_true), if_neg (by rw [pwrState_congr hregs, hpower]; exact hst)]
  · refine pwrReset_leaves rfl hw (hop.trans ?_) (congrArg VitState.met ((startWake_vit y 1).trans hvit))
    unfold requestWarm
    rw [if_pos (by rw [hsl, hyes])]

end

theorem smapGet_freeFill {β : Type} [DecidableEq β] (d : Nat → β) (f : W64 → β) {k : Nat} (keys : List Nat) : ∀ (n : Nat) {m : List (Nat × β)},
    smapWf d m = true → k ∉ keys → smapGet d (freeFill d f n m keys) k = smapGet d m k := by
  unfold freeFill
  induction keys with
  | nil => exact fun _ _ _ _ => rfl
  | cons x t ih =>
    intro n m hw hk
    obtain ⟨hx, ht⟩ := not_or.mp (fun h => hk (List.mem_cons.mpr h))
    rw [List.zipIdx_cons, List.foldl_cons, ih (n + 1) (smapPut_wf _ _ hw) ht]
    exact smapGet_put_other _ hx hw

/-- The words of the AB that a core's instructions were writing. -/
def abandonedWords (c : Core) : List Nat := ((coreFlights c).flatMap fun x => x.outAb) ++ c.outAb

theorem abandonEntry_ab (n : Nat) (b : Bool) (e : Entry) (c : Core) : (abandonEntry n b e c).ab = c.ab := rfl

/-- The number of V lanes that a core's instructions were writing: their free values come before those of the AB. -/
def abandonedLanes (c : Core) : Nat := (((coreFlights c).flatMap fun x => x.outV.map (·.1)) ++ c.outV.map (·.1)).length

theorem abandonOutputs_ab (s : State) (p : Fin 72) : ∃ n, ((abandonOutputs s p).core p).ab =
    freeFill (fun _ => (0 : W32)) (fun x => x.extractLsb' 0 32) n (s.core p).ab (abandonedWords (s.core p)) := by
  have hcore : ∃ f k, (∀ c, (f c : Core).ab = freeFill (fun _ => (0 : W32)) (fun x => x.extractLsb' 0 32) (s.free + abandonedLanes (s.core p)) c.ab
        (abandonedWords (s.core p))) ∧ abandonOutputs s p = (abandonedBytes (s.core p)).foldl putFree { s.modCore p f with free := k } := by
    refine ⟨_, _, fun c => ?_, rfl⟩
    exact congrArg (fun ab => freeFill _ _ _ ab _) (foldl_keeps _ Core.ab (fun c x => abandonEntry_ab _ _ _ c) _ _)
  obtain ⟨f, k, hf, he⟩ := hcore
  refine ⟨s.free + abandonedLanes (s.core p), ?_⟩
  rw [he, foldl_keeps putFree (fun s : State => s.core p) fun s a => putFree_core s a p]
  exact (congrArg Core.ab (modCore_core_same s p f)).trans (hf _)

theorem clean_ab (c : Core) (f : Place → Bool) : (Core.clean c f).ab = c.ab := rfl

theorem stopCore_ab (s : State) (p : Fin 72) : ∃ n, ((stopCore s p).core p).ab =
    freeFill (fun _ => (0 : W32)) (fun x => x.extractLsb' 0 32) n (s.core p).ab (abandonedWords (s.core p)) := by
  obtain ⟨n, hn⟩ := abandonOutputs_ab (usesEnd s (coreUses (s.core p))) p
  refine ⟨n, ?_⟩
  rw [usesEnd_core] at hn
  unfold stopCore
  dsimp only
  rw [modCore_core_same, clean_ab]
  dsimp only
  rw [dropUnsent_core, hn]

/-- The core at the head of a queue reset: stopped, its tags reclaimed, at the state of R22. -/
def queueCleared (y : State) (p : Fin 72) : State := (reclaimTags (fun q => reqOfCore p q.use) (stopCore y p)).modCore p coreAtR22

/-- What a queue reset leaves of the stopped core and of all else. -/
structure QueueReset (y t : State) (p : Fin 72) : Prop where
  runstate : (t.core p).runstate = 0
  queues : QueuesEmpty (t.core p)
  regs : (t.core p).s = Vector.replicate 32 0
  frec : (t.core p).frec = (y.core p).frec
  ab : (t.core p).ab = ((stopCore y p).core p).ab
  bytes : ∀ a, byteAt t a = byteAt (stopCore y p) a
  other : ∀ q, q ≠ p → t.core q = y.core q
  vit : t.vit = y.vit

theorem coreAtR22_row (c : Core) : (coreAtR22 c).runstate = 0 ∧ (QueuesEmpty c → QueuesEmpty (coreAtR22 c)) ∧
    (coreAtR22 c).s = Vector.replicate 32 0 ∧ (coreAtR22 c).frec = c.frec ∧ (coreAtR22 c).ab = c.ab :=
  ⟨rfl, id, rfl, rfl, rfl⟩

theorem reclaimTags_kept (f : Req → Bool) (s : State) : (reclaimTags f s).core = s.core ∧ (reclaimTags f s).vit = s.vit ∧
    ∀ {a}, byteAt (reclaimTags f s) a = byteAt s a := ⟨rfl, rfl, rfl⟩

theorem queueCleared_reset (y : State) (p : Fin 72) : QueueReset y (queueCleared y p) p := by
  have hc : (queueCleared y p).core p = coreAtR22 ((stopCore y p).core p) :=
    (modCore_core_same _ p _).trans (congrArg coreAtR22 (congrFun (reclaimTags_kept _ _).1 p))
  obtain ⟨hr, hq, hs, hf, ha⟩ := coreAtR22_row ((stopCore y p).core p)
  rw [← hc] at hr hq hs hf ha
  obtain ⟨-, hempty, hfrec⟩ := stopCore_core y p
  refine ⟨hr, hq hempty, hs, hf.trans hfrec, ha, fun a => ?_, fun q h => ?_, ?_⟩
  · exact (byteAt_modCore _ p _ a).trans (reclaimTags_kept _ _).2.2
  · exact (modCore_core_other _ _ (Ne.symm h)).trans ((congrFun (reclaimTags_kept _ _).1 q).trans (stopCore_other y h))
  · exact (modCore_vit _ p _).trans ((reclaimTags_kept _ _).2.1.trans (stopCore_vit y p))

/-- A core whose generators draw from free value `n` on. -/
def reseeded (n : Nat) (c : Core) : Core := Core.clean { c with gen := [], seedBase := n, reseedPending := false } isGen

theorem QueueReset.reseed {y t : State} {p : Fin 72} (h : QueueReset y t p) : QueueReset y (reseedCore t p) p := by
  have hc : (reseedCore t p).core p = reseeded t.free (t.core p) := modCore_core_same t p (reseeded t.free)
  refine ⟨?_, ?_, ?_, ?_, ?_, fun a => (byteAt_modCore t p (reseeded t.free) a).trans (h.bytes a), fun q hq => ?_, h.vit⟩
  · rw [hc]; exact h.runstate
  · rw [hc]; exact h.queues
  · rw [hc]; exact h.regs
  · rw [hc]; exact h.frec
  · rw [hc]; exact h.ab
  · exact (modCore_core_other t (reseeded t.free) (Ne.symm hq)).trans (h.other q hq)

theorem QueueReset.marked {y t : State} {p : Fin 72} (h : QueueReset y t p) (tag : W32) : QueueReset y (markStopping t tag) p :=
  ⟨h.runstate, h.queues, h.regs, h.frec, h.ab, h.bytes, h.other, h.vit⟩

theorem queueResetCore_reset {y : State} {p : Fin 72} (hrole : y.map[p.val].role = 0) (hdom : domOn y 0 = true) :
    QueueReset y (queueResetCore y p) p := by
  have hc := queueCleared_reset y p
  have h2 : QueueReset y (if (y.core p).reseedPending then reseedCore (queueCleared y p) p else queueCleared y p) p := by
    split
    · exact hc.reseed
    · exact hc
  unfold queueResetCore
  rw [if_neg (by rw [hrole, hdom]; decide)]
  dsimp only
  split
  · exact h2.marked _
  · exact h2

theorem find_core : ∀ p : Fin 72, (List.finRange 72).find? (fun q => decide (q.val = p.val)) = some p := by decide

theorem pwrResetWrite_queue (y : State) (p : Fin 72) :
    pwrResetWrite y ((opWord 2 (BitVec.ofNat 7 p.val).toNat).zeroExtend 64) = queueResetCore y p := by
  have hp : (BitVec.ofNat 7 p.val).toNat = p.val := by
    rw [BitVec.toNat_ofNat]
    exact Nat.mod_eq_of_lt (by omega)
  have hlow : bitsN ((opWord 2 p.val).zeroExtend 64 : W64) 0 7 = p.val := by
    rw [bitsN_zeroExtend]
    unfold opWord bitsN
    rw [BitVec.toNat_ofNat]
    omega
  unfold pwrResetWrite
  rw [hp, bitsN_opWord (op := 2) (by decide) (by omega), hlow]
  exact congrArg (fun o : Option (Fin 72) => match o with | some p => queueResetCore y p | none => y) (find_core p)

theorem queueReset_row {s : State} {w : Writer} {p : Fin 72} (hw : Writable w (RegName.pwrReset.at 0 0) s) (hrole : s.map[p.val].role = 0)
    (hdom : domOn s 0 = true) : ∃ t, exec (.queueReset w (BitVec.ofNat 7 p.val)) s = .next t ∧ (t.core p).runstate = 0 ∧
      QueuesEmpty (t.core p) ∧ (t.core p).s = Vector.replicate 32 0 ∧ (t.core p).frec = (s.core p).frec ∧
      (smapWf (fun _ => (0 : W32)) (s.core p).ab = true → ∀ k, k ∉ (s.core p).outAb → (∀ x ∈ coreFlights (s.core p), k ∉ x.outAb) →
        smapGet (fun _ => (0 : W32)) (t.core p).ab k = smapGet (fun _ => (0 : W32)) (s.core p).ab k) ∧
      (Canonical s → ∀ a, ¬ Abandoned (s.core p) a → byteAt t a = byteAt s a) ∧
      ∀ q, q ≠ p → t.core q = s.core q := by
  obtain ⟨l, f, d, g, e, hy⟩ := recorded_plain (s := s) (w := w) (r := .pwrReset) (k := 0) (n := 0) (size := 4)
    (v := (opWord 2 (BitVec.ofNat 7 p.val).toNat).zeroExtend 64) (recorded_regs _ _ _ _ _ _ _ rfl rfl)
  have hreg : ∀ z, pwrResetWrite z ((opWord 2 (BitVec.ofNat 7 p.val).toNat).zeroExtend 64) = queueResetCore z p := fun z => pwrResetWrite_queue z p
  have hleaves := fun x hx => pwrReset_leaves (i := .queueReset w (BitVec.ofNat 7 p.val)) (x := x) rfl hw ((hreg _).trans hx)
  generalize recorded s w .pwrReset 0 0 4 ((opWord 2 (BitVec.ofNat 7 p.val).toNat).zeroExtend 64) = y at hy hleaves
  have hcore : y.core = s.core := by rw [hy]; rfl
  have hbyte : ∀ a, byteAt y a = byteAt s a := fun a => by rw [hy]; rfl
  have hmem : y.mem = s.mem := by rw [hy]
  have hvit : y.vit = s.vit := by rw [hy]
  have hq : QueueReset y (queueResetCore y p) p :=
    queueResetCore_reset (by rw [hy]; exact hrole) ((domOn_congr (by rw [hy]) (by rw [hy]) (by rw [hy]) 0).trans hdom)
  have hl := hleaves _ rfl (congrArg VitState.met (hq.vit.trans hvit))
  refine ⟨_, hl, ?_⟩
  rw [summaryRise_core]
  refine ⟨hq.runstate, hq.queues, hq.regs, hq.frec.trans (by rw [hcore]), fun hwf k hk hf => ?_, fun hc a ha => ?_, fun q hne => ?_⟩
  · obtain ⟨n, hab⟩ := stopCore_ab y p
    rw [hq.ab, hab, hcore]
    refine smapGet_freeFill _ _ _ n hwf fun hmem => ?_
    obtain hm | hm := List.mem_append.mp hmem
    · obtain ⟨x, hx, hkx⟩ := List.mem_flatMap.mp hm
      exact hf x hx hkx
    · exact hk hm
  · rw [byteAt_summaryRise, hq.bytes, byteAt_stopCore (by rw [hmem]; exact hc.1) (by rw [hcore]; exact ha), hbyte]
  · rw [summaryRise_core, hq.other q hne, hcore]

/-- Settles O56: the sequences of power-on, wake, entry and warm reset by the frames of their steps; the controls by the request that their
write makes; the queue reset by what its stop leaves. -/
theorem powerStateRows : Obligations.PowerStateRows := by
  unfold Obligations.PowerStateRows
  refine ⟨fun d a s hoff hreq => ?_, powerOn_fresh, fun s hc => warm_fresh hc, fun _ s => oscDelay_leaves, fun s => computeReady_row, fun s => pwrEnFall_row,
    fun s => alwaysOnLoss_row, fun w s => pwrCtl_rows, fun k s hc ht _ => powerStateEntered_rows hc ht, fun code s => wakeComplete_rows,
    fun w s => warm_rows, fun w p s => queueReset_row⟩
  refine leaves_of ?_ (powerOnReset_met d a s)
  show execPowerOn d a s = _
  unfold execPowerOn
  rw [if_pos]
  rw [hoff, hreq]
  rfl

end Sys2Proof.Machine


/-! # Supply, junction, cap and clock sources (O57) -/

namespace Sys2Proof.Machine

/-! ## FAULT (R406) -/

theorem domOn_standstill {s : State} (h : pwrState s = 5 ∨ pwrState s = 7) {n : Nat} (hd : domOn s n = true) : n = 23 ∨ n = 24 := by
  unfold domOn at hd
  split at hd
  · exact absurd hd Bool.false_ne_true
  · obtain h | h := h <;> rw [h] at hd <;> simpa using hd

theorem idlePorts_eq (l : List (Fin 16)) (s : State) : ∃ p, l.foldl idlePort s = { s with fab := { s.fab with ports := p } } := by
  induction l generalizing s with
  | nil => exact ⟨s.fab.ports, rfl⟩
  | cons i l ih =>
    obtain ⟨p, h⟩ := ih (idlePort s i)
    exact ⟨p, h⟩

theorem forceSafe_eq (s : State) : ∃ p r, forceSafe s = { s with fab := { s.fab with ports := p }, ras := r, power := { s.power with safe := true } } := by
  obtain ⟨p, h⟩ := idlePorts_eq (List.finRange 16) s
  obtain ⟨r, hr⟩ := breakSnapshot_eq (idlePorts s)
  refine ⟨p, r, ?_⟩
  unfold forceSafe
  rw [hr]
  unfold idlePorts
  rw [h]

theorem faultState_row {s : State} (hw : smapWf regDefault s.regs = true) : pwrState (faultState s) = 5 ∧ (faultState s).power.safe = true ∧
    (faultState s).vit = s.vit ∧ (faultState s).mem = s.mem ∧ (faultState s).cores = s.cores := by
  obtain ⟨p, r, hf⟩ := forceSafe_eq s
  have hcut := cutReads_cut (forceSafe s)
  have heq := hcut.eq
  have hwf := hcut.wf (by rw [hf]; exact hw)
  unfold faultState
  generalize cutReads (forceSafe s) = y at heq hwf
  refine ⟨pwrState_setPwrState hwf (by decide), ?_, ?_, ?_, ?_⟩
  · show y.power.safe = true
    rw [heq, hf]
  · show y.vit = s.vit
    rw [heq, hf]
  · show y.mem = s.mem
    rw [heq, hf]
  · show y.cores = s.cores
    rw [heq, hf]

theorem faultState_vit (s : State) : (faultState s).vit = s.vit := by
  have heq := (cutReads_cut (forceSafe s)).eq
  unfold faultState
  generalize cutReads (forceSafe s) = y at heq
  refine Eq.trans (b := y.vit) rfl ?_
  rw [heq]
  exact (forceSafe_apart s).vit

theorem logPwr_vit (s : State) (code : BitVec 16) (d : W32) : (logPwr s code d).vit = s.vit := by
  unfold logPwr
  rw [(logWrite_only s _ _ _).eq]

theorem enterFault_leaves {i : Instr} {s x : State} {code : BitVec 16} {d : Nat} (h : exec i s = answer s (enterFault s code d))
    (hx : enterFault s code d = x) : Leaves i s x := by
  rw [hx] at h
  refine leaves_of h ?_
  rw [← hx]
  unfold enterFault
  rw [faultState_vit, logPwr_vit]

theorem intake_rows {mV : Nat} {s : State} (h : s.power.off = false) :
    (mV < 48000 → Leaves (.uvWarn mV) s
      (logPwr ((s.rcountSat .pwrEventCount 0 0 16 16 1).report 8 1) 0x0B05 (BitVec.ofNat 32 mV))) ∧
    (mV < 44000 → Leaves (.undervolt mV) s (faultState (logPwr s 0x0B01 (BitVec.ofNat 32 mV)))) ∧
    Leaves .inputOvervoltage s (faultState (logPwr s 0x0B02 16)) ∧
    Leaves .inputOvercurrent s (faultState (logPwr s 0x0B02 32)) ∧
    (∀ rail kind, 1 ≤ rail → rail ≤ 8 → kind ≤ 2 →
      Leaves (.railFault rail kind) s (faultState (logPwr s 0x0B02 (BitVec.ofNat 32 (rail + 16 * kind))))) := by
  have hon : intakeOn s = true := by
    unfold intakeOn
    rw [h]
    rfl
  refine ⟨fun hv => ?_, fun hv => ?_, ?_, ?_, fun rail kind h1 h8 hk => ?_⟩
  · refine leaves_of (congrArg (answer s) (if_pos ?_)) (congrArg VitState.met (logPwr_vit _ _ _))
    rw [hon, decide_eq_true hv]
    rfl
  · refine enterFault_leaves (congrArg (answer s) (if_pos ?_)) rfl
    rw [hon, decide_eq_true hv]
    rfl
  · exact enterFault_leaves (congrArg (answer s) (if_pos hon)) rfl
  · exact enterFault_leaves (congrArg (answer s) (if_pos hon)) rfl
  · refine enterFault_leaves (congrArg (answer s) (if_pos ?_)) ?_
    · rw [hon, decide_eq_true ⟨h1, h8, hk⟩]
      rfl
    · have hd : railDetail rail kind = rail + 16 * kind := by
        unfold railDetail
        omega
      rw [hd]
      rfl

theorem droop_row {r : Fin 16} {s : State} (h : s.power.off = false) (hst : pwrState s = 2) (hr : r.val ∉ s.power.droop) :
    let y := logPwr ((s.rcountSat .pwrEventCount 0 0 0 16 1).report 7 1) 0x0B06 (BitVec.ofNat 32 r.val)
    Leaves (.droop r) s { y with power := { y.power with droop := nsetAdd y.power.droop r.val } } := by
  intro y
  refine leaves_of (congrArg (answer s) (if_pos ?_)) (congrArg VitState.met (logPwr_vit _ _ _))
  unfold intakeOn coreRailOn
  rw [h, hst, show s.power.droop.contains r.val = false by simpa using hr]
  rfl

theorem droopRecovery_row {r : Fin 16} {s : State} :
    ∃ x, Leaves (.droopRecovery r) s x ∧ x = { s with power := { s.power with droop := x.power.droop } } ∧
      ∀ k, k ∈ x.power.droop ↔ k ∈ s.power.droop ∧ k ≠ r.val := by
  refine ⟨_, leaves_of rfl rfl, rfl, fun k => ?_⟩
  exact List.mem_filter.trans (and_congr_right fun _ => decide_eq_true_iff)

/-! ## The junction (R416) -/

/-- The highest reading of the sensors. -/
def topReading (l : List Byte) (a : Byte) : Byte := l.foldl (fun a x => if a.toNat < x.toNat then x else a) a

theorem topReading_spec (l : List Byte) : ∀ a : Byte, a.toNat ≤ (topReading l a).toNat ∧ (∀ x ∈ l, x.toNat ≤ (topReading l a).toNat) ∧
    (topReading l a = a ∨ topReading l a ∈ l) := by
  unfold topReading
  induction l with
  | nil => exact fun a => ⟨le_rfl, fun _ h => absurd h List.not_mem_nil, .inl rfl⟩
  | cons x l ih =>
    intro a
    rw [List.foldl_cons]
    obtain ⟨h1, h2, h3⟩ := ih (if a.toNat < x.toNat then x else a)
    by_cases hx : a.toNat < x.toNat
    · rw [if_pos hx] at h1 h2 h3 ⊢
      refine ⟨by omega, List.forall_mem_cons.mpr ⟨h1, h2⟩, .inr ?_⟩
      obtain h | h := h3
      · exact List.mem_cons.mpr (.inl h)
      · exact List.mem_cons.mpr (.inr h)
    · rw [if_neg hx] at h1 h2 h3 ⊢
      refine ⟨h1, List.forall_mem_cons.mpr ⟨by omega, h2⟩, ?_⟩
      exact h3.imp_right (List.mem_cons_of_mem x)

theorem topReading_max (t : Vector Byte 16) : (∀ i : Fin 16, t[i.val].toNat ≤ (topReading t.toList 0).toNat) ∧
    ∃ i : Fin 16, t[i.val].toNat = (topReading t.toList 0).toNat := by
  obtain ⟨-, hle, hmem⟩ := topReading_spec t.toList 0
  have hall : ∀ i : Fin 16, t[i.val].toNat ≤ (topReading t.toList 0).toNat := fun i => hle _ (by simp)
  refine ⟨hall, ?_⟩
  obtain h | h := hmem
  · refine ⟨0, Nat.le_antisymm (hall 0) ?_⟩
    rw [h]
    exact Nat.zero_le _
  · obtain ⟨i, hi, ht⟩ := List.getElem_of_mem h
    exact ⟨⟨i, by simpa using hi⟩, congrArg BitVec.toNat (by simpa using ht)⟩

/-- The sensors at or above 110 °C. -/
def hotSensors (t : Vector Byte 16) : List Nat := (List.range 16).filter fun i => decide (110 ≤ (vAt t 0 i).toNat)

theorem mem_hotSensors (t : Vector Byte 16) (i : Fin 16) : i.val ∈ hotSensors t ↔ 110 ≤ t[i.val].toNat := by
  unfold hotSensors vAt
  simp

/-- The state with a sample of the junction. -/
def sampled (t : Vector Byte 16) (s : State) : State :=
  let s1 := s.rmod .pwrTherm 0 0 fun v => setBits v 0 8 (topReading t.toList 0).toNat
  { s1 with
    power := { s1.power with hot := hotSensors t }
    ras := { s1.ras with tjPeak := if s.ras.tjPeak.toNat < (topReading t.toList 0).toNat then topReading t.toList 0 else s.ras.tjPeak } }

theorem sampled_regs (t : Vector Byte 16) (s : State) :
    (sampled t s).regs = (s.rmod .pwrTherm 0 0 fun v => setBits v 0 8 (topReading t.toList 0).toNat).regs := rfl

theorem junctionSample_exec {t : Vector Byte 16} {s : State} (h : domOn s 23 = true) : exec (.junctionSample t) s =
    answer s (match (hotSensors t).find? fun i => s.power.hot.contains i with
      | some i => enterFault (sampled t s) 0x0B03 (i + (vAt t 0 i).toNat * 256)
      | none => sampled t s) := by
  show execJunctionSample t s = _
  unfold execJunctionSample
  rw [if_pos h]
  rfl

theorem enterFault_row {s : State} (hw : smapWf regDefault s.regs = true) (code : BitVec 16) (d : Nat) :
    pwrState (enterFault s code d) = 5 ∧ (enterFault s code d).power.safe = true ∧ (enterFault s code d).vit = s.vit := by
  obtain ⟨h1, h2, h3, -⟩ := faultState_row ((logWrite_only s .pwrLog0 .pwrLog1 (logWord code (BitVec.ofNat 32 d))).wf hw)
  exact ⟨h1, h2, h3.trans (logPwr_vit _ _ _)⟩

theorem junctionSample_rows {t : Vector Byte 16} {s : State} (hc : Canonical s) (hd : domOn s 23 = true) :
    ((∀ i : Fin 16, i.val ∈ s.power.hot → t[i.val].toNat < 110) →
      ∃ x, Leaves (.junctionSample t) s x ∧ pwrState x = pwrState s ∧ x.mem = s.mem ∧ x.cores = s.cores ∧
        (∀ i : Fin 16, t[i.val].toNat ≤ bitsN (x.rget .pwrTherm 0 0) 0 8) ∧
        (∃ i : Fin 16, t[i.val].toNat = bitsN (x.rget .pwrTherm 0 0) 0 8) ∧
        ∀ i : Fin 16, i.val ∈ x.power.hot ↔ 110 ≤ t[i.val].toNat) ∧
    ((∃ i : Fin 16, i.val ∈ s.power.hot ∧ 110 ≤ t[i.val].toNat) →
      ∃ x, Leaves (.junctionSample t) s x ∧ pwrState x = 5 ∧ x.power.safe = true) := by
  have hregs : smapWf regDefault s.regs = true := hc.2
  have hsw : smapWf regDefault (sampled t s).regs = true := rset_wf _ _ _ _ hregs
  refine ⟨fun hcool => ?_, fun hhot => ?_⟩
  · have hnone : ((hotSensors t).find? fun i => s.power.hot.contains i) = none := by
      rw [List.find?_eq_none]
      intro i hi hs
      have hlt : i < 16 := List.mem_range.mp (List.mem_of_mem_filter hi)
      have := hcool ⟨i, hlt⟩ (by simpa using hs)
      have := (mem_hotSensors t ⟨i, hlt⟩).mp hi
      omega
    have hex := junctionSample_exec hd (t := t)
    rw [hnone] at hex
    have htop : bitsN ((sampled t s).rget .pwrTherm 0 0) 0 8 = (topReading t.toList 0).toNat := by
      rw [rget_congr (sampled_regs t s), rget_rmod_same _ _ _ _ hregs, bitsN_setBits_same _ _ (by decide)]
      exact Nat.mod_eq_of_lt (topReading t.toList 0).isLt
    have hst : pwrState (sampled t s) = pwrState s :=
      (pwrState_congr (sampled_regs t s)).trans (congrArg (bitsN · 0 3) (rget_rmod_other (q := .pwrState) (j := 0) (m := 0) _ hregs (by decide)))
    obtain ⟨hmax, hat⟩ := topReading_max t
    refine ⟨sampled t s, leaves_of hex rfl, hst, rfl, rfl, ?_, ?_, mem_hotSensors t⟩
    · rw [htop]; exact hmax
    · rw [htop]; exact hat
  · obtain ⟨i, hi, hge⟩ := hhot
    have hex := junctionSample_exec hd (t := t)
    obtain ⟨k, hk⟩ : ∃ k, ((hotSensors t).find? fun i => s.power.hot.contains i) = some k :=
      Option.isSome_iff_exists.mp (List.find?_isSome.mpr ⟨i.val, (mem_hotSensors t i).mpr hge, by simpa using hi⟩)
    rw [hk] at hex
    obtain ⟨hst, hsafe, hvit⟩ := enterFault_row hsw 0x0B03 (k + (vAt t 0 k).toNat * 256)
    exact ⟨_, leaves_of hex (congrArg VitState.met hvit), hst, hsafe⟩

/-! ## The cap (R414) -/

/-- The throttle's first stage of a check: the duty and its causes. -/
def throttled (s : State) (why : Nat) : State := s.rmod .pwrCapStatus 0 0 fun v => setBits (setBits v 0 6 (max 4 (duty s - 1))) 8 3 why

/-- The count of an episode of heat. -/
def heatCounted (s z : State) : State := if tooHot s && !bitB (s.rget .pwrCapStatus 0 0) 10 then z.rcountSat .pwrEventCount 0 0 48 16 1 else z

/-- The count and the report of a throttle that begins. -/
def capLogged (s z : State) (why : Nat) : State :=
  if duty s = 32 then logPwr ((z.rcountSat .pwrEventCount 0 0 32 16 1).report 8 1) 0x0B07 (BitVec.ofNat 32 why) else z

theorem capCheck_exec {pk su : Nat} {s : State} (h : domOn s 23 = true) : exec (.capCheck pk su) s =
    answer s (let why := b2n (decide (sustLimit s < su)) + 2 * b2n (decide (peakLimit s < pk)) + 4 * b2n (tooHot s)
      if why = 0 then s.rmod .pwrCapStatus 0 0 fun v => setBits v 8 3 0 else capLogged s (heatCounted s (throttled s why)) why) :=
  congrArg (answer s) (if_pos h)

/-- From state s to state t stored registers but PWR_CAP_STATUS change, and what is reported: nothing else. -/
structure CapKept (s t : State) : Prop where
  eq : t = { s with regs := t.regs, consv := t.consv }
  cap : smapWf regDefault s.regs = true → smapWf regDefault t.regs = true ∧ t.rget .pwrCapStatus 0 0 = s.rget .pwrCapStatus 0 0

theorem CapKept.refl (s : State) : CapKept s s := ⟨rfl, fun h => ⟨h, rfl⟩⟩

theorem CapKept.trans {s t u : State} (h : CapKept s t) (k : CapKept t u) : CapKept s u := by
  refine ⟨?_, fun hw => ?_⟩
  · have hk := k.eq
    generalize u.regs = a at hk ⊢
    generalize u.consv = b at hk ⊢
    rw [hk, h.eq]
  · obtain ⟨h1, h2⟩ := h.cap hw
    obtain ⟨h3, h4⟩ := k.cap h1
    exact ⟨h3, h4.trans h2⟩

theorem rset_capKept (s : State) {r : RegName} {i n : Nat} (h : RegName.pwrCapStatus.at 0 0 ≠ r.at i n) (v : W64) : CapKept s (s.rset r i n v) :=
  ⟨rfl, fun hw => ⟨rset_wf _ _ _ _ hw, rget_rset_other _ hw h⟩⟩

theorem logPwr_capKept (s : State) (code : BitVec 16) (d : W32) : CapKept s (logPwr s code d) := by
  unfold logPwr logWrite
  split
  · exact .refl s
  · exact (rset_capKept _ (by decide) _).trans (rset_capKept _ (by decide) _)

theorem heatCounted_kept (s z : State) : CapKept z (heatCounted s z) := by
  unfold heatCounted
  split
  · exact rset_capKept _ (by decide) _
  · exact .refl z

theorem report_capKept (s : State) (i k : Nat) : CapKept s (s.report i k) := ⟨rfl, fun h => ⟨h, rfl⟩⟩

theorem capLogged_kept (s z : State) (why : Nat) : CapKept z (capLogged s z why) := by
  unfold capLogged
  split
  · exact ((rset_capKept z (by decide) _).trans (report_capKept _ _ _)).trans (logPwr_capKept _ _ _)
  · exact .refl z

theorem b2n_le (b : Bool) : b2n b ≤ 1 := by cases b <;> decide

theorem capCheck_rows {pk su : Nat} {s : State} (hd : domOn s 23 = true) :
    let why := b2n (decide (sustLimit s < su)) + 2 * b2n (decide (peakLimit s < pk)) + 4 * b2n (tooHot s)
    (why = 0 → Leaves (.capCheck pk su) s (s.rmod .pwrCapStatus 0 0 fun v => setBits v 8 3 0)) ∧
    (why ≠ 0 → Canonical s →
      ∃ t, exec (.capCheck pk su) s = .next t ∧ duty t = max 4 (duty s - 1) % 64 ∧
        bitsN (t.rget .pwrCapStatus 0 0) 8 3 = why ∧ t.mem = s.mem ∧ t.cores = s.cores) ∧
    (100 * pk < 97 * peakLimit s → 100 * su < 97 * sustLimit s → tooHot s = false →
      Leaves (.dutyRaise pk su) s (s.rmod .pwrCapStatus 0 0 fun v => setBits (setBits v 0 6 (min 32 (duty s + 1))) 8 3 0)) := by
  intro why
  have hwhy : why < 2 ^ 3 := by
    have h1 := b2n_le (decide (sustLimit s < su))
    have h2 := b2n_le (decide (peakLimit s < pk))
    have h3 := b2n_le (tooHot s)
    show b2n (decide (sustLimit s < su)) + 2 * b2n (decide (peakLimit s < pk)) + 4 * b2n (tooHot s) < 2 ^ 3
    omega
  have hex : exec (.capCheck pk su) s = answer s (if why = 0 then s.rmod .pwrCapStatus 0 0 fun v => setBits v 8 3 0
      else capLogged s (heatCounted s (throttled s why)) why) := capCheck_exec hd
  clear_value why
  refine ⟨fun h0 => ?_, fun h0 hc => ?_, fun h1 h2 h3 => ?_⟩
  · exact leaves_of (hex.trans (congrArg (answer s) (if_pos h0))) rfl
  · have hw : smapWf regDefault s.regs = true := hc.2
    rw [if_neg h0] at hex
    have hk := (heatCounted_kept s (throttled s why)).trans (capLogged_kept s _ why)
    have hcap := (hk.cap (rset_wf _ _ _ _ hw)).2.trans (rget_rmod_same _ _ _ _ hw)
    have heq := hk.eq
    generalize hx : capLogged s (heatCounted s (throttled s why)) why = x at hex hcap heq
    refine ⟨_, leaves_of hex (by rw [heq]; rfl), ?_, ?_, ?_, ?_⟩
    · unfold duty
      rw [summaryRise_rget, hcap, bitsN_setBits_other _ _ (by decide), bitsN_setBits_same _ _ (by decide)]
      rfl
    · rw [summaryRise_rget, hcap, bitsN_setBits_same _ _ (by decide)]
      exact Nat.mod_eq_of_lt hwhy
    · rw [summaryRise_mem, heq]; rfl
    · rw [summaryRise_cores, heq]; rfl
  · refine leaves_of (congrArg (answer s) (if_pos ?_)) rfl
    rw [hd, decide_eq_true ⟨h1, h2⟩, h3]
    rfl

/-! ## The clock sources (R405, R422) -/

theorem mem_nsetAdd (l : List Nat) (k : Nat) : k ∈ nsetAdd l k := by
  induction l with
  | nil => exact List.mem_singleton.mpr rfl
  | cons x t ih =>
    unfold nsetAdd
    split
    · exact List.mem_cons_self
    · split
      · next h => exact List.mem_cons.mpr (.inl h)
      · exact List.mem_cons_of_mem x ih

theorem logPwr_pwrState {s : State} (hw : smapWf regDefault s.regs = true) (code : BitVec 16) (d : W32) :
    (logPwr s code d).rget .pwrState 0 0 = s.rget .pwrState 0 0 := by
  unfold logPwr logWrite
  split
  · rfl
  · rw [rget_rset_other _ (rset_wf _ _ _ _ hw) (by decide), rget_rset_other _ hw (by decide)]

/-- What the loss of a source leaves before the power state is looked at. -/
theorem waitForSource_row {s : State} (hw : smapWf regDefault s.regs = true) (k : Nat) : (waitForSource s k).power.safe = true ∧
    k ∈ (waitForSource s k).power.lost ∧ (waitForSource s k).mem = s.mem ∧ (waitForSource s k).vit = s.vit ∧
    pwrState (waitForSource s k) = pwrState s ∧ smapWf regDefault (waitForSource s k).regs = true := by
  obtain ⟨p, r, hf⟩ := forceSafe_eq s
  have hlog := logWrite_only (forceSafe s) .pwrLog0 .pwrLog1 (logWord 0x0B04 (BitVec.ofNat 32 k))
  have hw1 : smapWf regDefault (forceSafe s).regs = true := by rw [hf]; exact hw
  have hst : pwrState (logPwr (forceSafe s) 0x0B04 (BitVec.ofNat 32 k)) = pwrState s :=
    (congrArg (bitsN · 0 3) (logPwr_pwrState hw1 _ _)).trans (pwrState_congr (by rw [hf]))
  have heq : logPwr (forceSafe s) 0x0B04 (BitVec.ofNat 32 k) = _ := hlog.eq
  have hw2 : smapWf regDefault (logPwr (forceSafe s) 0x0B04 (BitVec.ofNat 32 k)).regs = true := hlog.wf hw1
  unfold waitForSource
  rw [hf] at heq hst hw2 ⊢
  generalize logPwr _ 0x0B04 (BitVec.ofNat 32 k) = y at hst heq hw2 ⊢
  have hlost := mem_nsetAdd y.power.lost k
  split
  · refine ⟨?_, hlost, ?_, ?_, ?_, rset_wf _ _ _ _ hw2⟩
    · show y.power.safe = true
      rw [heq]
    · show y.mem = s.mem
      rw [heq]
    · show y.vit = s.vit
      rw [heq]
    · have hbit : (setTimeBit y 0 false).rget .pwrState 0 0 = y.rget .pwrState 0 0 := rget_rmod_other _ hw2 (by decide)
      exact (congrArg (bitsN · 0 3) hbit).trans hst
  · refine ⟨?_, hlost, ?_, ?_, hst, hw2⟩
    · show y.power.safe = true
      rw [heq]
    · show y.mem = s.mem
      rw [heq]
    · show y.vit = s.vit
      rw [heq]

theorem clkSrcLost_row {k : Fin 10} {s : State} (hc : Canonical s) (hoff : s.power.off = false) (hwat : watched s k.val = true)
    (hk : k.val ∉ s.power.lost) :
    ∃ t, exec (.clkSrcLost k) s = .next t ∧ t.power.safe = true ∧ k.val ∈ t.power.lost ∧ t.mem = s.mem ∧
      (pwrState s = 3 ∨ pwrState s = 4 → pwrState t = pwrState s ∧ t.power.lossAfter = true) ∧
      (pwrState s = 5 → pwrState t = 5) ∧
      (¬ (pwrState s = 3 ∨ pwrState s = 4 ∨ pwrState s = 5) →
        pwrState t = 7 ∧ t.power.target = none ∧ t.power.wake = none ∧ ∀ n, domOn t n = true → n = 23 ∨ n = 24) := by
  obtain ⟨hsafe, hlost, hmem, hvit, hst, hw⟩ := waitForSource_row hc.2 k.val
  have hex : exec (.clkSrcLost k) s = answer s (let s1 := waitForSource s k.val
      if pwrState s = 5 then s1
      else if pwrState s = 3 ∨ pwrState s = 4 then { s1 with power := { s1.power with lossAfter := true } }
      else
        let s2 := setPwrState s1 7
        { s2 with power := { s2.power with target := none, wake := none } }) := by
    refine congrArg (answer s) (if_pos ?_)
    rw [hoff, hwat, show s.power.lost.contains k.val = false by simpa using hk]
    rfl
  generalize waitForSource s k.val = y at hsafe hlost hmem hvit hst hw hex
  dsimp only at hex
  by_cases h5 : pwrState s = 5
  · rw [if_pos h5] at hex
    refine ⟨_, leaves_of hex (congrArg VitState.met hvit), ?_⟩
    rw [summaryRise_power, summaryRise_mem, pwrState_summaryRise]
    exact ⟨hsafe, hlost, hmem, fun h => by omega, fun _ => hst.trans h5, fun h => absurd (.inr (.inr h5)) h⟩
  · rw [if_neg h5] at hex
    by_cases h34 : pwrState s = 3 ∨ pwrState s = 4
    · rw [if_pos h34] at hex
      refine ⟨_, leaves_of hex (congrArg VitState.met hvit), ?_⟩
      rw [summaryRise_power, summaryRise_mem, pwrState_summaryRise]
      refine ⟨hsafe, hlost, hmem, fun _ => ⟨hst, rfl⟩, fun h => absurd h h5, fun h => ?_⟩
      exact absurd (h34.elim .inl fun h4 => .inr (.inl h4)) h
    · rw [if_neg h34] at hex
      have h7 : pwrState (setPwrState y 7) = 7 := pwrState_setPwrState hw (by decide)
      refine ⟨_, leaves_of hex (congrArg VitState.met hvit), ?_⟩
      rw [summaryRise_power, summaryRise_mem, pwrState_summaryRise]
      refine ⟨hsafe, hlost, hmem, fun h => absurd h h34, fun h => absurd h h5, fun _ => ⟨h7, rfl, rfl, fun n hn => ?_⟩⟩
      rw [domOn_summaryRise] at hn
      exact domOn_standstill (.inr h7) hn

theorem OnlySent.vit {s t : State} (h : OnlySent s t) : t.vit = s.vit := by rw [h.eq]

theorem switchTxn_vit (s : State) (src : Option (Fin 16)) (t : Txn) : (switchTxn s src t).vit = s.vit := by
  unfold switchTxn
  split
  · next h => exact (switchOut_sent h).vit
  · split
    · rfl
    · split
      · next h => exact (switchOut_sent h).vit
      · rfl

theorem reroute_vit (s : State) (l : List (Nat × Txn)) : (reroute s l).vit = s.vit :=
  foldl_keeps _ State.vit (fun _ _ => switchTxn_vit _ _ _) l s

theorem startTraining_vit (s : State) (i : Fin 16) (l : BitVec 4) : (startTraining s i l).vit = s.vit := by
  unfold startTraining
  exact reroute_vit _ _

theorem retrainPorts_vit (s : State) : (retrainPorts s).vit = s.vit := by
  refine foldl_keeps (fun (s : State) (i : Fin 16) =>
    if (portOf s i).state = 6 then startTraining s i (trainLanes (portOf s i)) else s) State.vit (fun s i => ?_) _ s
  split
  · exact startTraining_vit _ _ _
  · rfl

theorem sourcesBack_met (s : State) : (sourcesBack s).vit.met = s.vit.met := by
  unfold sourcesBack
  split
  · exact curatorBoot_met _
  · rfl
  · rfl
  · exact warmReset_met _

theorem sourceReturn_rows (s : State) :
    (s.power.lost ≠ [] → pwrState s = 7 → Leaves .clockSourceReturn s (sourcesBack s)) ∧
    (s.power.lost ≠ [] → pwrState s ≠ 7 →
      Leaves .clockSourceReturn s
        { s with power := { s.power with lost := [], refclk := s.power.refclk || s.power.lost.contains 1 } }) ∧
    (s.power.lost = [] → s.fab.d06Dead = true →
      Leaves .clockSourceReturn s (retrainPorts { s with fab := { s.fab with d06Dead := false } })) := by
  have hex : exec .clockSourceReturn s = answer s (
    if !s.power.lost.isEmpty then
      if pwrState s = 7 then sourcesBack s
      else { s with power := { s.power with lost := [], refclk := s.power.refclk || s.power.lost.contains 1 } }
    else if s.fab.d06Dead then
      retrainPorts { s with fab := { s.fab with d06Dead := false } }
    else s) := rfl
  refine ⟨fun h h7 => ?_, fun h h7 => ?_, fun h hd => ?_⟩
  · rw [if_pos (by simpa using h), if_pos h7] at hex
    exact leaves_of hex (sourcesBack_met s)
  · rw [if_pos (by simpa using h), if_neg h7] at hex
    exact leaves_of hex rfl
  · rw [if_neg (by simpa using h), if_pos hd] at hex
    exact leaves_of hex (congrArg VitState.met (retrainPorts_vit _))

/-- Settles O57: FAULT by what its entry leaves of the power state; the junction by the highest of its readings; the cap by the field that a
later count or report leaves. -/
theorem powerProtectionRows : Obligations.PowerProtectionRows := by
  unfold Obligations.PowerProtectionRows
  refine ⟨fun s hc _ => ?_, fun mV s h => intake_rows h, fun r s h => droop_row h, fun r s => droopRecovery_row, fun t s hc => junctionSample_rows hc,
    fun pk su s hd => capCheck_rows hd, fun k s hc hoff => clkSrcLost_row hc hoff, sourceReturn_rows⟩
  obtain ⟨h5, hsafe, -⟩ := faultState_row hc.2
  exact ⟨h5, hsafe, fun n => domOn_standstill (.inl h5)⟩

end Sys2Proof.Machine


/-! # The Curator (O58) -/

namespace Sys2Proof.Machine

/-! ## Commands of the Curator -/

/-- The fields of a command word whose GO bit is set: GO, the operation and what lies beneath. -/
theorem opWord_go {op rest : Nat} (h : op < 8) (hr : rest < 2 ^ 28) : bitB ((opWord (8 + op) rest).zeroExtend 64 : W64) 31 = true ∧
    bitsN ((opWord (8 + op) rest).zeroExtend 64 : W64) 28 3 = op ∧
    ∀ n, n ≤ 28 → bitsN ((opWord (8 + op) rest).zeroExtend 64 : W64) 0 n = rest % 2 ^ n := by
  obtain ⟨h4, hlow⟩ := opWord_bits (op := 8 + op) (rest := rest) (by omega) hr
  generalize ((opWord (8 + op) rest).zeroExtend 64 : W64) = v at h4 hlow
  unfold bitsN at h4
  refine ⟨?_, ?_, hlow⟩
  · unfold bitB
    rw [BitVec.getLsbD, Nat.testBit_eq_decide_div_mod_eq, decide_eq_true_eq]
    omega
  · unfold bitsN
    omega

theorem curatorBusy_congr {s t : State} (h1 : t.cur.fw = s.cur.fw) (h2 : t.cur.lcOp = s.cur.lcOp) (h3 : t.cur.wipe = s.cur.wipe) :
    curatorBusy t = curatorBusy s := by
  unfold curatorBusy
  rw [h1, h2, h3]

theorem recoveryWait_congr {s t : State} (hr : t.regs = s.regs) (hp : t.power = s.power) : recoveryWait t = recoveryWait s := by
  unfold recoveryWait
  rw [pwrState_congr hr, hp]

theorem firmwareRuns_congr {s t : State} (hr : t.regs = s.regs) : firmwareRuns t = firmwareRuns s := by
  unfold firmwareRuns
  rw [rget_congr hr]

/-- A firmware operation that is accepted: the image of `n` × 4 KiB is read. -/
def fwBegun (y : State) (a n : Nat) (up : Bool) : State :=
  fwState (hostRead { y with cur := { y.cur with fw := some { update := up, len := 4096 * n } } } .firmware a (4096 * n)) 1

theorem fwBegun_vit (y : State) (a n : Nat) (up : Bool) : (fwBegun y a n up).vit = y.vit := by
  have h : ∀ z k, (fwState z k).vit = z.vit := fun _ _ => rfl
  unfold fwBegun
  rw [h, hostRead_vit]

theorem fwCmdWrite_begins {y : State} {v : W64} {n : Nat} {up : Bool} (hgo : bitB v 31 = true) (hop : bitsN v 28 3 = if up then 2 else 1)
    (hn : bitsN v 0 12 = n) (h1 : 1 ≤ n) (h2 : n ≤ 1536) (hbusy : curatorBusy y = false)
    (hrun : if up then firmwareRuns y = true else recoveryWait y = true) :
    fwCmdWrite y v = fwBegun y (y.rget .curFwAddr 0 0).toNat n up := by
  have hn' : decide (n = 0 ∨ 1536 < n) = false := decide_eq_false (by omega)
  unfold fwCmdWrite
  dsimp only
  rw [hgo, hop, hn, hbusy, hn']
  cases up with
  | false =>
    rw [if_neg (by decide), if_neg (by rw [show recoveryWait y = true from hrun]; simp)]
    rfl
  | true =>
    rw [if_neg (by decide), if_neg (by rw [show firmwareRuns y = true from hrun]; simp)]
    rfl

section
variable {s : State} {w : Writer}

theorem fwCmd_leaves {i : Instr} {op : Nat} {n : BitVec 12} {up : Bool} (hi : exec i s = write32 w .curFwCmd 0 0 (opWord (8 + op) n.toNat) s)
    (hop : op = if up then 2 else 1) (hw : Writable w (RegName.curFwCmd.at 0 0) s) (hbusy : curatorBusy s = false) (h1 : 1 ≤ n.toNat)
    (h2 : n.toNat ≤ 1536) (hrun : if up then firmwareRuns s = true else recoveryWait s = true) :
    Leaves i s (fwBegun (recorded s w .curFwCmd 0 0 4 ((opWord (8 + op) n.toNat).zeroExtend 64)) (s.rget .curFwAddr 0 0).toNat n.toNat up) := by
  have hop8 : op < 8 := by
    rw [hop]
    split <;> decide
  obtain ⟨hgo, h3, hlow⟩ := opWord_go hop8 (rest := n.toNat) (by omega)
  have hl := fun x hx => write32_leaves (x := x) hi hw (findReg_single _ (by decide)) rfl (by decide) hx
  obtain ⟨l, f, d, g, e, hy⟩ := recorded_plain (s := s) (w := w) (r := .curFwCmd) (k := 0) (n := 0) (size := 4)
    (v := (opWord (8 + op) n.toNat).zeroExtend 64) (recorded_regs _ _ _ _ _ _ _ rfl rfl)
  generalize recorded s w .curFwCmd 0 0 4 ((opWord (8 + op) n.toNat).zeroExtend 64) = y at hl hy ⊢
  have hregs : y.regs = s.regs := by rw [hy]
  refine hl _ ?_ (congrArg VitState.met ((fwBegun_vit _ _ _ _).trans (by rw [hy])))
  refine (fwCmdWrite_begins hgo (h3.trans hop) ((hlow 12 (by decide)).trans (Nat.mod_eq_of_lt n.isLt)) h1 h2
    ((curatorBusy_congr (by rw [hy]) (by rw [hy]) (by rw [hy])).trans hbusy) ?_).trans ?_
  · rw [firmwareRuns_congr hregs, recoveryWait_congr hregs (by rw [hy])]
    exact hrun
  · rw [rget_congr hregs]

theorem bootFlash_row {op : FwOp} (hop : s.cur.fw = some op) (hwr : op.writing = true) (hd : domOn s 23 = true) (hc : Canonical s) :
    ∃ t, exec (.bootFlashWriteDone true) s = .next t ∧ t.cur = { s.cur with fw := none, flash := op.image } ∧
      bitsN (t.rget .curFwCmd 0 0) 16 2 = 2 := by
  have hex : exec (.bootFlashWriteDone true) s = answer s (fwState { s with cur := { s.cur with fw := none, flash := op.image } } 2) := by
    show execBootFlashWriteDone true s = _
    unfold execBootFlashWriteDone
    rw [hop]
    refine congrArg (answer s) (if_pos ?_)
    rw [hwr, hd]
    rfl
  refine ⟨_, leaves_of hex rfl, ?_, ?_⟩
  · rw [summaryRise_cur]
    rfl
  · rw [summaryRise_rget]
    have h : (fwState { s with cur := { s.cur with fw := none, flash := op.image } } 2).rget .curFwCmd 0 0 = setBits (s.rget .curFwCmd 0 0) 16 2 2 :=
      rget_rmod_same _ _ _ _ hc.2
    rw [h]
    exact bitsN_setBits_same _ _ (by decide)

/-! ## The life cycle (R432, R433) -/

theorem tokenTransition_scrapped : ∀ a : BitVec 3, tokenTransition a 5 = false := by decide

theorem lcState_vit (y : State) (k : Nat) : (lcState y k).vit = y.vit := rfl

theorem lcRefuse_vit (y : State) (k : BitVec 3) : (lcRefuse y k).vit = y.vit := by
  rw [(lcRefuse_cut y k).eq]

theorem lcBegin_vit (y : State) (k : BitVec 3) : (lcBegin y k).vit = y.vit := rfl

theorem lifecycle_rows {k : BitVec 3} (hw : Writable w (RegName.curLcCmd.at 0 0) s) (hbusy : curatorBusy s = false) :
    let y := recorded s w .curLcCmd 0 0 4 ((opWord (8 + k.toNat) 0).zeroExtend 64)
    (tokenTransition s.cur.lc k = true → Leaves (.lifecycle w k) s
      (lcState (hostRead { y with cur := { y.cur with lcOp := some ⟨k, false⟩, scrap := none } } .token
        (s.rget .curFwAddr 0 0).toNat tokenBytes) 1)) ∧
    (k ≠ 5 → tokenTransition s.cur.lc k = false → Leaves (.lifecycle w k) s (lcRefuse y k)) ∧
    (k = 5 → s.cur.lc ≠ 5 →
      (s.cur.scrap = none → Leaves (.lifecycle w k) s { y with cur := { y.cur with scrap := some s.timeNs } }) ∧
      ∀ t0, s.cur.scrap = some t0 → (s.timeNs - t0).toNat ≤ 10 ^ 9 → Leaves (.lifecycle w k) s (lcBegin y k)) := by
  obtain ⟨hgo, h3, -⟩ := opWord_go (op := k.toNat) (rest := 0) k.isLt (by decide)
  have hl := fun x hx => write32_leaves (i := .lifecycle w k) (x := x) rfl hw (findReg_single _ (by decide)) rfl (by decide) hx
  obtain ⟨l, f, d, g, e, hy⟩ := recorded_plain (s := s) (w := w) (r := .curLcCmd) (k := 0) (n := 0) (size := 4)
    (v := (opWord (8 + k.toNat) 0).zeroExtend 64) (recorded_regs _ _ _ _ _ _ _ rfl rfl)
  generalize recorded s w .curLcCmd 0 0 4 ((opWord (8 + k.toNat) 0).zeroExtend 64) = y at hl hy ⊢
  intro z
  have hz : z = y := rfl
  rw [hz]
  have hvit : y.vit = s.vit := by rw [hy]
  have hlc : y.cur.lc = s.cur.lc := by rw [hy]
  have hscrap : y.cur.scrap = s.cur.scrap := by rw [hy]
  have htime : y.timeNs = s.timeNs := by rw [hy]
  have hb : curatorBusy y = false := (curatorBusy_congr (by rw [hy]) (by rw [hy]) (by rw [hy])).trans hbusy
  have hk : (BitVec.ofNat 3 (bitsN ((opWord (8 + k.toNat) 0).zeroExtend 64 : W64) 28 3)) = k := by
    rw [h3]
    exact BitVec.eq_of_toNat_eq (by rw [BitVec.toNat_ofNat]; exact Nat.mod_eq_of_lt k.isLt)
  have hcmd : lcCmdWrite y ((opWord (8 + k.toNat) 0).zeroExtend 64) = if k = 5 then
        if y.cur.lc = 5 then lcRefuse y k
        else match y.cur.scrap with
          | some t0 => if (y.timeNs - t0).toNat ≤ 10 ^ 9 then lcBegin y k
                       else { y with cur := { y.cur with scrap := some y.timeNs } }
          | none => { y with cur := { y.cur with scrap := some y.timeNs } }
      else if !tokenTransition y.cur.lc k then lcRefuse y k
      else lcState (hostRead { y with cur := { y.cur with lcOp := some ⟨k, false⟩, scrap := none } } .token
        (y.rget .curFwAddr 0 0).toNat tokenBytes) 1 := by
    unfold lcCmdWrite
    dsimp only
    rw [hgo, hk, hb]
    rfl
  refine ⟨fun ht => ?_, fun hne ht => ?_, fun h5 hne => ⟨fun hs => ?_, fun t0 hs hle => ?_⟩⟩
  · have hne : k ≠ 5 := fun h => absurd ht (by rw [h, tokenTransition_scrapped]; exact Bool.false_ne_true)
    refine hl _ (hcmd.trans ?_) (congrArg VitState.met ((lcState_vit _ _).trans ((hostRead_vit _ _ _ _).trans hvit)))
    rw [if_neg hne, hlc, ht, rget_congr (show y.regs = s.regs by rw [hy])]
    rfl
  · refine hl _ (hcmd.trans ?_) (congrArg VitState.met ((lcRefuse_vit _ _).trans hvit))
    rw [if_neg hne, hlc, ht]
    rfl
  · refine hl _ (hcmd.trans ?_) (congrArg VitState.met hvit)
    rw [if_pos h5, hlc, if_neg hne, hscrap, hs, htime]
  · refine hl _ (hcmd.trans ?_) (congrArg VitState.met ((lcBegin_vit _ _).trans hvit))
    rw [if_pos h5, hlc, if_neg hne, hscrap, hs, htime]
    exact if_pos hle

/-! ## Service operations (R435) -/

/-- What a service operation that is accepted leaves: its record, and the unit that it returns at the next boot. -/
def serviced (y : State) (op i : Nat) : State :=
  let old := y.rget .curSvcCmd 0 0
  let z := logChange y .curator 4 (RegName.curSvcCmd.at 0 0) old (setBits old 16 2 2)
  svcState { z with cur := { z.cur with
    backCores := if op = 1 then nsetAdd z.cur.backCores i else z.cur.backCores
    backCtrls := if op = 2 then nsetAdd z.cur.backCtrls i else z.cur.backCtrls } } 2 (bitsN old 8 8)

theorem svcCmdWrite_returns {y : State} {v : W64} {op i : Nat} (hgo : bitB v 31 = true) (hop : bitsN v 28 3 = op) (hi : bitsN v 0 7 = i)
    (hr : svcReason y op i = none) (hlog : y.cur.logBad = false) : svcCmdWrite y v = serviced y op i := by
  unfold svcCmdWrite withRecord
  dsimp only
  rw [hgo, hop, hi, hr, hlog]
  rfl

theorem recorded_seq (s : State) (w : Writer) {r : RegName} (h : selectorReg r = false) (k n size : Nat) (v : W64) :
    (recorded s w r k n size v).cur.seq = s.cur.seq + 1 := by
  obtain ⟨l, hd⟩ := dropWr_frame s w
  obtain ⟨f, d, q, hr⟩ := regRead_frame { s with latches := l } r k n
  unfold recorded
  rw [hd]
  dsimp only
  rw [h, hr]
  rfl

theorem service_row {op : Nat} {i : BitVec 7} {j : Instr} (hj : exec j s = write32 w .curSvcCmd 0 0 (opWord (8 + op) i.toNat) s) (hop8 : op < 8)
    (hw : Writable w (RegName.curSvcCmd.at 0 0) s) (hr : svcReason s op i.toNat = none) :
    ∃ t, exec j s = .next t ∧ t.cur.backCores = (if op = 1 then nsetAdd s.cur.backCores i.toNat else s.cur.backCores) ∧
      t.cur.backCtrls = (if op = 2 then nsetAdd s.cur.backCtrls i.toNat else s.cur.backCtrls) ∧ t.map = s.map ∧ t.memMap = s.memMap ∧
      t.cores = s.cores ∧ t.mem = s.mem ∧ t.cur.seq = s.cur.seq + 2 := by
  obtain ⟨hgo, h3, hlow⟩ := opWord_go hop8 (rest := i.toNat) (by omega)
  have hl := fun x hx => write32_leaves (x := x) hj hw (findReg_single _ (by decide)) rfl (by decide) hx
  have hseq := recorded_seq s w (r := .curSvcCmd) rfl 0 0 4 ((opWord (8 + op) i.toNat).zeroExtend 64)
  obtain ⟨l, f, d, g, e, hy⟩ := recorded_plain (s := s) (w := w) (r := .curSvcCmd) (k := 0) (n := 0) (size := 4)
    (v := (opWord (8 + op) i.toNat).zeroExtend 64) (recorded_regs _ _ _ _ _ _ _ rfl rfl)
  generalize recorded s w .curSvcCmd 0 0 4 ((opWord (8 + op) i.toNat).zeroExtend 64) = y at hl hy hseq ⊢
  have hreason : svcReason y op i.toNat = none := by
    rw [hy]
    exact hr
  have hwrite := svcCmdWrite_returns hgo h3 ((hlow 7 (by decide)).trans (Nat.mod_eq_of_lt i.isLt)) hreason (by rw [hy]; exact hw.log)
  have hleaves := hl _ hwrite (show y.vit.met = s.vit.met by rw [hy])
  refine ⟨_, hleaves, ?_⟩
  rw [summaryRise_cur, summaryRise_map, summaryRise_cores, summaryRise_mem, summaryRise_memMap]
  have hcores : y.cur.backCores = s.cur.backCores := by rw [hy]
  have hctrls : y.cur.backCtrls = s.cur.backCtrls := by rw [hy]
  refine ⟨?_, ?_, ?_, ?_, ?_, ?_, ?_⟩
  · rw [← hcores]; rfl
  · rw [← hctrls]; rfl
  · exact (show y.map = s.map by rw [hy])
  · exact (show y.memMap = s.memMap by rw [hy])
  · exact (show y.cores = s.cores by rw [hy])
  · exact (show y.mem = s.mem by rw [hy])
  · show y.cur.seq + 1 = s.cur.seq + 2
    rw [hseq, BitVec.add_assoc]
    rfl

theorem svcReason_none {op i : Nat} (hlc : s.cur.lc = 1 ∨ s.cur.lc = 4) (hbusy : curatorBusy s = false)
    (h : (op = 1 ∧ i ≤ 71 ∧ (vAt s.map ⟨3, 0⟩ i).role = 2) ∨ (op = 2 ∧ i ≤ 47 ∧ s.memMap.getLsbD i = false)) : svcReason s op i = none := by
  unfold svcReason
  rw [if_neg (by simpa [or_iff_not_imp_left] using hlc), hbusy]
  obtain ⟨rfl, hi, hr⟩ | ⟨rfl, hi, hr⟩ := h
  · rw [if_neg (by omega), if_neg (not_or.mpr ⟨fun h => h.2 hr, fun h => absurd h.1 (by decide)⟩)]
    rfl
  · rw [if_neg (by omega), if_neg (by simp [hr])]
    rfl

theorem service_rows {i : BitVec 7} (hw : Writable w (RegName.curSvcCmd.at 0 0) s) (hbusy : curatorBusy s = false) (hlc : s.cur.lc = 1 ∨ s.cur.lc = 4) :
    (i.toNat ≤ 71 → (vAt s.map ⟨3, 0⟩ i.toNat).role = 2 →
      ∃ t, exec (.unretireCore w i) s = .next t ∧ t.cur.backCores = nsetAdd s.cur.backCores i.toNat ∧
        t.cur.backCtrls = s.cur.backCtrls ∧ t.map = s.map ∧ t.cores = s.cores ∧ t.mem = s.mem ∧ t.cur.seq = s.cur.seq + 2) ∧
    (i.toNat ≤ 47 → s.memMap.getLsbD i.toNat = false →
      ∃ t, exec (.unretireCtrl w i) s = .next t ∧ t.cur.backCtrls = nsetAdd s.cur.backCtrls i.toNat ∧
        t.cur.backCores = s.cur.backCores ∧ t.memMap = s.memMap ∧ t.mem = s.mem ∧ t.cur.seq = s.cur.seq + 2) := by
  refine ⟨fun hi hr => ?_, fun hi hr => ?_⟩
  · obtain ⟨t, hex, hcores, hctrls, hmap, -, hc, hmem, hseq⟩ :=
      service_row (op := 1) (j := .unretireCore w i) rfl (by decide) hw (svcReason_none hlc hbusy (.inl ⟨rfl, hi, hr⟩))
    exact ⟨t, hex, hcores, hctrls, hmap, hc, hmem, hseq⟩
  · obtain ⟨t, hex, hcores, hctrls, -, hmap, -, hmem, hseq⟩ :=
      service_row (op := 2) (j := .unretireCtrl w i) rfl (by decide) hw (svcReason_none hlc hbusy (.inr ⟨rfl, hi, hr⟩))
    exact ⟨t, hex, hctrls, hcores, hmap, hmem, hseq⟩

end

/-! ## Tamper (R434, R448) -/

/-- From state s to state t operations of the Curator are abandoned. -/
structure Abandons (s t : State) : Prop where
  eq : t = { s with regs := t.regs, free := t.free, host := t.host, cur := t.cur }
  cur : t.cur = { s.cur with fw := t.cur.fw, lcOp := t.cur.lcOp, scrap := t.cur.scrap, nonce := t.cur.nonce, flash := t.cur.flash }
  wf : smapWf regDefault s.regs = true → smapWf regDefault t.regs = true

theorem Abandons.trans {s t u : State} (h : Abandons s t) (k : Abandons t u) : Abandons s u := by
  refine ⟨?_, ?_, k.wf ∘ h.wf⟩
  · have hk := k.eq
    generalize u.regs = a at hk ⊢
    generalize u.free = b at hk ⊢
    generalize u.host = c at hk ⊢
    generalize u.cur = d at hk ⊢
    rw [hk, h.eq]
  · have hk := k.cur
    generalize u.cur.fw = a at hk ⊢
    generalize u.cur.lcOp = b at hk ⊢
    generalize u.cur.scrap = c at hk ⊢
    generalize u.cur.nonce = d at hk ⊢
    generalize u.cur.flash = e at hk ⊢
    rw [hk, h.cur]

theorem CutKept.abandons {s t : State} (h : CutKept s t) : Abandons s t := by
  refine ⟨?_, ?_, h.wf⟩
  · exact h.eq.trans (by rw [h.eq])
  · have hflash : t.cur.flash = s.cur.flash := by rw [h.eq]
    exact (congrArg State.cur h.eq).trans (by rw [hflash])

theorem breakFlash_abandons (s : State) : Abandons s (breakFlash s) := by
  unfold breakFlash
  split
  · split <;> exact ⟨rfl, rfl, id⟩
  · exact ⟨rfl, rfl, id⟩

theorem abandonOps_abandons (s : State) : Abandons s (abandonOps s) := by
  unfold abandonOps
  extract_lets s1 s2 s3
  have h1 : Abandons s s1 := (breakFlash_abandons s).trans ⟨rfl, rfl, id⟩
  have h2 : Abandons s1 s2 := by
    show Abandons s1 (if s.cur.fw.isSome then fwState s1 3 else s1)
    split
    · exact (rmod_only _ _ _ _ _).cut.abandons
    · exact ⟨rfl, rfl, id⟩
  have h3 : Abandons s2 s3 := by
    show Abandons s2 (if s.cur.lcOp.isSome then lcState (newNonce s2) 3 else s2)
    split
    · exact ⟨rfl, rfl, rset_wf _ _ _ _⟩
    · exact ⟨rfl, rfl, id⟩
  exact ((h1.trans h2).trans h3).trans ⟨rfl, rfl, id⟩

theorem logCur_eq (s : State) (code : BitVec 16) (d : W32) : ∃ r, logCur s code d = { s with regs := r } := ⟨_, (logWrite_only s _ _ _).eq⟩

theorem logCur_cur (s : State) (code : BitVec 16) (d : W32) : (logCur s code d).cur = s.cur := by
  obtain ⟨r, h⟩ := logCur_eq s code d
  rw [h]

/-- Where no operation of the Curator is under way, the end of its reads changes nothing of it. -/
theorem cutReads_idle {s : State} (h : s.cur.fw = none ∧ s.cur.lcOp = none) : (cutReads s).cur.fw = none ∧ (cutReads s).cur.lcOp = none := by
  unfold cutReads
  generalize s.host.reads = l
  induction l generalizing s with
  | nil => exact h
  | cons rd t ih =>
    rw [List.foldl_cons]
    refine ih ?_
    split
    · have hfw : ∀ z k, (fwState z k).cur = z.cur := fun _ _ => rfl
      unfold firmwareFailed
      rw [hfw, logCur_cur]
      exact ⟨rfl, h.2⟩
    · unfold tokenFailed
      rw [h.2]
      exact h
    · exact h

/-- The latch and the wipe of a tamper. -/
def wipedFrom (y : State) (k : Nat) : State := startWipe { y with cur := { y.cur with tampered := some (y.cur.tampered.getD k) } } 1

/-- The state that enters FAULT after a tamper. -/
def wiped (s : State) (k : Nat) : State := logCur (wipedFrom (abandonOps (forceSafe s)) k) 0x0A03 (BitVec.ofNat 32 k)

theorem tamper_exec {s : State} (k : Fin 4) (h : domOn s 23 = true) : exec (.tamper k) s = answer s (faultState (wiped s k.val)) :=
  congrArg (answer s) (if_pos h)

/-- What a tamper leaves of the Curator before FAULT is entered. -/
structure Wiped (s t : State) (k : Nat) : Prop where
  wf : smapWf regDefault s.regs = true → smapWf regDefault t.regs = true
  kept : t.mem = s.mem ∧ t.cores = s.cores ∧ t.vit = s.vit
  cur : t.cur.tampered = some (s.cur.tampered.getD k) ∧ t.cur.wipe = some 1 ∧ t.cur.secure = [] ∧ t.cur.log = [] ∧ t.cur.fw = none ∧
    t.cur.lcOp = none ∧ t.cur.lc = s.cur.lc

theorem abandonOps_idle (s : State) : (abandonOps s).cur.fw = none ∧ (abandonOps s).cur.lcOp = none := ⟨rfl, rfl⟩

theorem wiped_wiped (s : State) (k : Nat) : Wiped s (wiped s k) k := by
  obtain ⟨p, r, hf⟩ := forceSafe_eq s
  have ha := abandonOps_abandons (forceSafe s)
  obtain ⟨hfw, hlc⟩ := abandonOps_idle (forceSafe s)
  have heq := ha.eq
  have hcur := ha.cur
  have hwf := ha.wf
  have hw : wiped s k = logCur (wipedFrom (abandonOps (forceSafe s)) k) 0x0A03 (BitVec.ofNat 32 k) := rfl
  generalize abandonOps (forceSafe s) = y at heq hcur hwf hfw hlc hw
  rw [hf] at heq hcur hwf
  have hl := (logWrite_only (wipedFrom y k) .curErrLog0 .curErrLog1 (logWord 0x0A03 (BitVec.ofNat 32 k))).wf
  obtain ⟨q, hq⟩ := logCur_eq (wipedFrom y k) 0x0A03 (BitVec.ofNat 32 k)
  refine ⟨fun h => ?_, ?_, ?_⟩
  · rw [hw]
    exact hl (hwf h)
  · rw [hw, hq]
    refine ⟨?_, ?_, ?_⟩
    · exact (show y.mem = s.mem by rw [heq])
    · exact (show y.cores = s.cores by rw [heq])
    · exact (show y.vit = s.vit by rw [heq])
  · rw [hw, logCur_cur]
    refine ⟨?_, rfl, rfl, rfl, hfw, hlc, ?_⟩
    · exact (show some (y.cur.tampered.getD k) = some (s.cur.tampered.getD k) by rw [hcur])
    · exact (show y.cur.lc = s.cur.lc by rw [hcur])

theorem Wiped.fault {s t : State} {k : Nat} (h : Wiped s t k) : (faultState t).cur.tampered = some (s.cur.tampered.getD k) ∧
    (faultState t).cur.wipe = some 1 ∧ (faultState t).cur.secure = [] ∧ (faultState t).cur.log = [] ∧ (faultState t).cur.fw = none ∧
    (faultState t).cur.lcOp = none ∧ (faultState t).cur.lc = s.cur.lc := by
  obtain ⟨ht, hw, hs, hl, hfw, hop, hlc⟩ := h.cur
  obtain ⟨p, r, hf⟩ := forceSafe_eq t
  have hcut := (cutReads_cut (forceSafe t)).eq
  obtain ⟨h1, h2⟩ := cutReads_idle (s := forceSafe t) (by rw [hf]; exact ⟨hfw, hop⟩)
  have hcur : (faultState t).cur = (cutReads (forceSafe t)).cur := rfl
  rw [hcur]
  generalize cutReads (forceSafe t) = y at hcut h1 h2
  refine ⟨?_, ?_, ?_, ?_, h1, h2, ?_⟩
  · rw [hcut, hf]; exact ht
  · rw [hcut, hf]; exact hw
  · rw [hcut, hf]; exact hs
  · rw [hcut, hf]; exact hl
  · rw [hcut, hf]; exact hlc

theorem tamper_row {k : Fin 4} {s : State} (hd : domOn s 23 = true) (hc : Canonical s) :
    ∃ t, exec (.tamper k) s = .next t ∧ pwrState t = 5 ∧ t.power.safe = true ∧ t.cur.tampered = some (s.cur.tampered.getD k.val) ∧
      t.cur.wipe = some 1 ∧ t.cur.secure = [] ∧ t.cur.log = [] ∧ t.cur.fw = none ∧ t.cur.lcOp = none ∧ t.cur.lc = s.cur.lc ∧
      t.mem = s.mem ∧ t.cores = s.cores := by
  have hw := wiped_wiped s k.val
  have hex := tamper_exec k hd
  generalize wiped s k.val = y at hw hex
  obtain ⟨hst, hsafe, hvit, hmem, hcores⟩ := faultState_row (hw.wf hc.2)
  obtain ⟨h1, h2, h3, h4, h5, h6, h7⟩ := hw.fault
  obtain ⟨k1, k2, k3⟩ := hw.kept
  refine ⟨_, leaves_of hex (congrArg VitState.met (hvit.trans k3)), ?_⟩
  rw [pwrState_summaryRise, summaryRise_power, summaryRise_cur, summaryRise_mem, summaryRise_cores]
  exact ⟨hst, hsafe, h1, h2, h3, h4, h5, h6, h7, hmem.trans k1, hcores.trans k2⟩

/-! ## The end of a wipe (R433, R448) -/

theorem endWipe_vit (s : State) (r : Nat) : (endWipe s r).vit = s.vit := by
  unfold endWipe
  split
  · split <;> rfl
  · rfl

theorem spdmServe_vit (s : State) (q : SpdmReq) : (spdmServe s q).vit = s.vit := by
  unfold spdmServe
  split
  · rfl
  · obtain ⟨r, h⟩ := logCur_eq s 0x0A07 (BitVec.ofNat 32 q.kind)
    rw [h]
    rfl

/-- A wipe that ends: what it held is served. -/
theorem wipeDone_leaves {s : State} {r : Nat} (hw : s.cur.wipe = some r) (hd : domOn s 23 = true) :
    let z := endWipe s r
    let y := s.cur.heldWrites.foldl releaseWrite { z with cur := { z.cur with heldWrites := [] } }
    Leaves .wipeDone s (s.cur.heldSpdm.foldl spdmServe { y with cur := { y.cur with heldSpdm := [] } }) := by
  intro z y
  have hheld : z.cur.heldWrites = s.cur.heldWrites := by
    show (endWipe s r).cur.heldWrites = s.cur.heldWrites
    unfold endWipe
    split
    · split <;> rfl
    · rfl
  have hrel : releaseWrites z = y := by
    unfold releaseWrites
    rw [hheld]
  have hex : exec .wipeDone s = answer s (s.cur.heldSpdm.foldl spdmServe { releaseWrites z with cur := { (releaseWrites z).cur with heldSpdm := [] } }) := by
    show execWipeDone s = _
    unfold execWipeDone
    rw [hw]
    exact congrArg (answer s) (if_pos hd)
  rw [hrel] at hex
  refine leaves_of hex ?_
  have hserve : ∀ x : State, (s.cur.heldSpdm.foldl spdmServe x).vit = x.vit := fun x => foldl_keeps spdmServe State.vit spdmServe_vit _ x
  rw [hserve]
  refine Eq.trans (b := y.vit.met) rfl ?_
  refine (foldl_keeps releaseWrite (fun s => s.vit.met) releaseWrite_met _ _).trans ?_
  exact congrArg VitState.met (endWipe_vit s r)

theorem wipeDone_row {s : State} {r : Nat} (hw : s.cur.wipe = some r) (hd : domOn s 23 = true) (hheld : s.cur.heldWrites = [])
    (hspdm : s.cur.heldSpdm = []) (hop : s.cur.lcOp = none) :
    ∃ t, exec .wipeDone s = .next t ∧ t.cur.wipe = none ∧ t.cur.seq = 1 ∧
      t.cur.log = [chainStart s.timeNs s.cur.bootCount r] ∧ t.cur.lc = s.cur.lc ∧ t.mem = s.mem ∧ t.cores = s.cores := by
  have hl := wipeDone_leaves hw hd
  have hend : endWipe s r = newChain { s with cur := { s.cur with wipe := none } } r := by
    unfold endWipe
    rw [hop]
  rw [hheld, hspdm, hend] at hl
  refine ⟨_, hl, ?_⟩
  rw [summaryRise_cur, summaryRise_mem, summaryRise_cores]
  exact ⟨rfl, rfl, rfl, rfl, rfl, rfl⟩

/-! ## Attestation (R429 to R431) -/

theorem spdm_leaves {i : Instr} {s x : State} {q : SpdmReq} (hi : exec i s = answer s (spdmRequest s q)) (hup : doeUp s = true)
    (hw : s.cur.wipe = none) (hx : spdmServe s q = x) : Leaves i s x := by
  refine leaves_of (hi.trans (congrArg (answer s) ?_)) (congrArg VitState.met (hx ▸ spdmServe_vit s q))
  unfold spdmRequest
  rw [hup, hw]
  exact hx

theorem spdmServe_ok {s : State} {q : SpdmReq} (h : spdmOk s q = true) : spdmServe s q = emit s (.spdm q.kind (spdmData s q)) := if_pos h

theorem certChain_eq {s : State} {dev al : List Byte} (hdev : s.cur.devSeed = some dev) (hal : s.cur.aliasSeed = some al) :
    certChain s = Config.certificates ++ Config.certificate dev (Config.publicKey al) := by
  unfold certChain
  rw [hdev, hal]
  rfl

theorem spdm_rows {s : State} (hup : doeUp s = true) (hw : s.cur.wipe = none) :
    (Leaves (.getVersion true) s (emit s (.spdm 0x84 [0x13])) ∧
      Leaves (.getCapabilities true) s (emit s (.spdm 0xE1 [])) ∧
      Leaves (.negotiateAlgorithms true) s (emit s (.spdm 0xE3 [1, 0]))) ∧
    (hasIdentity s = true →
      ∀ dev al, s.cur.devSeed = some dev → s.cur.aliasSeed = some al →
        let chain := Config.certificates ++ Config.certificate dev (Config.publicKey al)
        Leaves (.getDigests true) s (emit s (.spdm 0x81 (digestBytes chain))) ∧
        Leaves (.getCertificate true 0) s (emit s (.spdm 0x82 chain)) ∧
        Leaves (.challenge true 0) s (emit s (.spdm 0x83
          (Config.signature al ([1, 2, 3, 4, 5, 6, 7].flatMap fun i => digestBytes (measured s i)))))) ∧
    (∀ l signed, (∀ i ∈ l, 1 ≤ i ∧ i ≤ 7) → (signed = true → hasIdentity s = true) →
      let d := l.flatMap fun i => digestBytes (measured s i)
      Leaves (.getMeasurements true l signed) s (emit s (.spdm 0xE0 (if signed then d ++ Config.signature (s.cur.aliasSeed.getD []) d else d)))) ∧
    (∀ slot, slot ≠ 0 → Leaves (.challenge true slot) s
      (emit (logCur s 0x0A07 0x83) (.spdmError 0x83))) := by
  refine ⟨⟨?_, ?_, ?_⟩, fun hid dev al hdev hal => ⟨?_, ?_, ?_⟩, fun l signed hl hsig => ?_, fun slot hslot => ?_⟩
  · exact spdm_leaves rfl hup hw (spdmServe_ok rfl)
  · exact spdm_leaves rfl hup hw (spdmServe_ok rfl)
  · exact spdm_leaves rfl hup hw (spdmServe_ok rfl)
  · refine spdm_leaves rfl hup hw ((spdmServe_ok ?_).trans ?_)
    · exact (show (true && (!(true || false) || hasIdentity s) && true) = true by rw [hid]; rfl)
    · exact congrArg (fun c => emit s (.spdm 0x81 (digestBytes c))) (certChain_eq hdev hal)
  · refine spdm_leaves rfl hup hw ((spdmServe_ok ?_).trans ?_)
    · exact (show (true && (!(true || false) || hasIdentity s) && true) = true by rw [hid]; rfl)
    · exact congrArg (fun c => emit s (.spdm 0x82 c)) (certChain_eq hdev hal)
  · refine spdm_leaves rfl hup hw ((spdmServe_ok ?_).trans ?_)
    · exact (show (true && (!(true || false) || hasIdentity s) && true) = true by rw [hid]; rfl)
    · exact congrArg (fun a : Option (List Byte) => emit s (.spdm 0x83 (Config.signature (a.getD [])
        ([1, 2, 3, 4, 5, 6, 7].flatMap fun i => digestBytes (measured s i))))) hal
  · refine spdm_leaves rfl hup hw (spdmServe_ok ?_)
    have hall : (l.all fun i => decide (1 ≤ i ∧ i ≤ 7)) = true := List.all_eq_true.mpr fun i hi => decide_eq_true (hl i hi)
    show (true && (!(false || signed) || hasIdentity s) && l.all fun i => decide (1 ≤ i ∧ i ≤ 7)) = true
    rw [hall]
    cases signed with
    | false => rfl
    | true => rw [hsig rfl]; rfl
  · refine spdm_leaves rfl hup hw (if_neg ?_)
    show ¬ ((true && decide (slot = 0)) && _ && _) = true
    rw [decide_eq_false hslot]
    exact Bool.false_ne_true

theorem tilwenTestAccess_leaves {s : State} (hlc : s.cur.lc = 0) (hd : domOn s 23 = true) (hb : curatorBusy s = false) :
    Leaves .tilwenTestAccess s (lcBegin s 1) := by
  refine leaves_of (congrArg (answer s) (if_pos ?_)) rfl
  rw [decide_eq_true hlc, hd, hb]
  rfl

/-- Settles O58: each command by the operation that its word begins; the tamper by what its wipe leaves through the entry into FAULT; the
end of a wipe by the writes that it serves, none of which makes an access wait. -/
theorem curatorRows : Obligations.CuratorRows := by
  unfold Obligations.CuratorRows
  refine ⟨fun w n s hw hb h1 h2 => ⟨fun hr => ?_, fun hr => ?_⟩, fun s op hop hwr hd => bootFlash_row hop hwr hd, fun w k s => lifecycle_rows,
    fun w i s => service_rows, fun s => tilwenTestAccess_leaves, fun k s => tamper_row, fun s r => wipeDone_row, fun s r => wipeDone_leaves,
    fun s => spdm_rows⟩
  · exact fwCmd_leaves (op := 1) (up := false) rfl rfl hw hb h1 h2 hr
  · exact fwCmd_leaves (op := 2) (up := true) rfl rfl hw hb h1 h2 hr

end Sys2Proof.Machine


/-! # The management ports (O59) -/

namespace Sys2Proof.Machine

/-! ## The latch (R15) -/

theorem latchStep_latches (s : State) (w : Writer) (off size : Nat) (v : W64) : ∃ l, (latchStep s w off size v).1 = { s with latches := l } := by
  have hdrop := dropWr_frame s w
  unfold latchStep
  split
  · split
    · exact ⟨_, rfl⟩
    · split
      · exact hdrop
      · exact hdrop
  · exact hdrop

theorem dropOther_latches (s : State) (w : Writer) (off : Nat) : ∃ l, dropOther s w off = { s with latches := l } := by
  unfold dropOther
  split
  · split
    · exact ⟨s.latches, rfl⟩
    · exact dropWr_frame s w
  · exact ⟨s.latches, rfl⟩

theorem fromFrame_mgmt (s : State) (eth : Bool) (src : BitVec 48) : ∃ m, fromFrame s eth src = { s with mgmt := m } := by
  unfold fromFrame
  split
  · exact ⟨_, rfl⟩
  · exact ⟨s.mgmt, rfl⟩

/-! ## Requests of a port (R438, R441) -/

theorem portReply_vit (s : State) (eth : Bool) (num : W32) (k : Byte) (d : List Byte) : (portReply s eth num k d).vit = s.vit := by
  unfold portReply
  split <;> rfl

section
variable {s : State} {eth : Bool} {num : W32}

theorem onPort_leaves {i : Instr} {x : State} (hup : portUp s eth = true) (hb : portBusy s eth = false) (hi : exec i s = onPort s eth x)
    (hm : x.vit.met = s.vit.met) : exec i s = .next (summaryRise s x) := by
  refine leaves_of (hi.trans (congrArg (answer s) (if_pos ?_))) hm
  rw [hup, hb]
  rfl

theorem portRead_served {off size : Nat} (h : portRefusal s off size = none) : portRead s eth num off size =
    portReply (ifaceRead s (if eth then 2 else 1) off size).2 eth num 0 (ifaceRead s (if eth then 2 else 1) off size).1 := by
  unfold portRead
  rw [h]

theorem portRead_refused {off size : Nat} {k : Byte} (h : portRefusal s off size = some k) : portRead s eth num off size = portReply s eth num k [] := by
  unfold portRead
  rw [h]

theorem read_leaves {i : Instr} {off size : Nat} (hup : portUp s eth = true) (hb : portBusy s eth = false)
    (hi : exec i s = onPort s eth (portRead s eth num off size)) (h : portRefusal s off size = none) :
    let r := ifaceRead s (if eth then 2 else 1) off size
    exec i s = .next (summaryRise s (portReply r.2 eth num 0 r.1)) := by
  rw [portRead_served h] at hi
  exact onPort_leaves hup hb hi (congrArg VitState.met ((portReply_vit _ _ _ _ _).trans (ifaceRead_vit _ _ _ _)))

theorem refusal_leaves {i : Instr} {off size : Nat} {k : Byte} (hup : portUp s eth = true) (hb : portBusy s eth = false)
    (hi : exec i s = onPort s eth (portRead s eth num off size)) (h : portRefusal s off size = some k) :
    exec i s = .next (summaryRise s (portReply s eth num k [])) := by
  rw [portRead_refused h] at hi
  exact onPort_leaves hup hb hi (congrArg VitState.met (portReply_vit _ _ _ _ _))

theorem portRefusal_frame (src : BitVec 48) (off size : Nat) : portRefusal (fromFrame s eth src) off size = portRefusal s off size := by
  obtain ⟨m, h⟩ := fromFrame_mgmt s eth src
  rw [h]
  rfl

theorem writeRefusal_leaves {i : Instr} {off size : Nat} {v : W64} {src : BitVec 48} {k : Byte} (hup : portUp s eth = true)
    (hb : portBusy s eth = false) (hi : exec i s = onPort s eth (portWrite (fromFrame s eth src) eth num off size v))
    (h : portRefusal s off size = some k) :
    exec i s = .next (summaryRise s (portReply (dropOther (fromFrame s eth src) (portWriter eth) off) eth num k [])) := by
  have hw : portWrite (fromFrame s eth src) eth num off size v = portReply (dropOther (fromFrame s eth src) (portWriter eth) off) eth num k [] := by
    unfold portWrite
    rw [portRefusal_frame, h]
  rw [hw] at hi
  refine onPort_leaves hup hb hi ?_
  obtain ⟨m, hm⟩ := fromFrame_mgmt s eth src
  obtain ⟨l, hl⟩ := dropOther_latches (fromFrame s eth src) (portWriter eth) off
  rw [portReply_vit, hl, hm]

/-- A write that a port has accepted is answered, unless it is held. -/
def answered (s : State) (eth : Bool) (num : W32) : State := if portBusy s eth then s else portReply s eth num 0 []

theorem portWrite_served {off size : Nat} {v : W64} (h : portRefusal s off size = none) :
    portWrite s eth num off size v = answered (acceptWrite s (portWriter eth) off size v num true) eth num := by
  unfold portWrite
  rw [h]
  rfl

theorem acceptWrite_latched {w : Writer} {off size : Nat} {v : W64} {l : State × Option PassedWrite} (h : latchStep s w off size v = l) :
    (l.2 = none → acceptWrite s w off size v num true = l.1) ∧
    ∀ y, l.2 = some y → acceptWrite s w off size v num true = passWrite l.1 w y num true := by
  unfold acceptWrite
  rw [h]
  dsimp only
  refine ⟨fun ho => ?_, fun y ho => ?_⟩ <;> rw [ho]

theorem portWrite_rows {i : Instr} {off size : Nat} {v : W64} {src : BitVec 48} (hup : portUp s eth = true) (hb : portBusy s eth = false)
    (hi : exec i s = onPort s eth (portWrite (fromFrame s eth src) eth num off size v)) (h : portRefusal s off size = none) :
    let l := latchStep (fromFrame s eth src) (portWriter eth) off size v
    (l.2 = none → exec i s = .next (summaryRise s (portReply l.1 eth num 0 []))) ∧
    (∀ y, l.2 = some y → s.cur.wipe = none → Unheld s (applyWrite l.1 (portWriter eth) y) → portBusy (applyWrite l.1 (portWriter eth) y) eth = false →
      exec i s = .next (summaryRise s (portReply (applyWrite l.1 (portWriter eth) y) eth num 0 []))) ∧
    (∀ y, l.2 = some y → heldByWipe s y = true →
      exec i s = .next (summaryRise s (holdWrite l.1
        { w := portWriter eth, off := y.off, size := y.size, v := y.v, num := num, port := true, refused := refusedInWipe y }))) := by
  rw [portWrite_served ((portRefusal_frame src off size).trans h)] at hi
  obtain ⟨x, hx⟩ := latchStep_latches (fromFrame s eth src) (portWriter eth) off size v
  obtain ⟨m, hm⟩ := fromFrame_mgmt s eth src
  intro l
  have hl1 : l.1 = { s with mgmt := m, latches := x } := hx.trans (by rw [hm])
  obtain ⟨hnone, hsome⟩ := acceptWrite_latched (num := num) (show latchStep (fromFrame s eth src) (portWriter eth) off size v = l from rfl)
  clear_value l
  obtain ⟨z, o⟩ := l
  dsimp only at hnone hsome hl1 ⊢
  have hvit : z.vit = s.vit := by rw [hl1]
  have hcur : z.cur = s.cur := by rw [hl1]
  refine ⟨fun ho => ?_, fun y ho hwipe hmet hnb => ?_, fun y ho hheld => ?_⟩
  · have hz : portBusy z eth = false := by
      unfold portBusy
      rw [hcur]
      exact hb
    rw [hnone ho, show answered z eth num = portReply z eth num 0 [] from if_neg (by rw [hz]; exact Bool.false_ne_true)] at hi
    exact onPort_leaves hup hb hi (congrArg VitState.met ((portReply_vit _ _ _ _ _).trans hvit))
  · have hpass : passWrite z (portWriter eth) y num true = applyWrite z (portWriter eth) y := by
      have hno : heldByWipe z y = false := by
        unfold heldByWipe
        rw [hcur, hwipe]
        rfl
      have hmn : metNothing z (applyWrite z (portWriter eth) y) = true := decide_eq_true (hmet.trans (congrArg VitState.met hvit.symm))
      unfold passWrite
      dsimp only
      rw [hno, hmn]
      rfl
    rw [hsome y ho, hpass, show answered _ eth num = portReply _ eth num 0 [] from if_neg (by rw [hnb]; exact Bool.false_ne_true)] at hi
    exact onPort_leaves hup hb hi ((congrArg VitState.met (portReply_vit _ _ _ _ _)).trans hmet)
  · have hpass : passWrite z (portWriter eth) y num true = holdWrite z
        { w := portWriter eth, off := y.off, size := y.size, v := y.v, num := num, port := true, refused := refusedInWipe y } := by
      have hyes : heldByWipe z y = true := by
        unfold heldByWipe
        rw [hcur]
        exact hheld
      unfold passWrite
      dsimp only
      rw [hyes]
      rfl
    have hbusy : portBusy (holdWrite z
        { w := portWriter eth, off := y.off, size := y.size, v := y.v, num := num, port := true, refused := refusedInWipe y }) eth = true := by
      unfold portBusy holdWrite
      rw [List.any_append]
      simp
    rw [hsome y ho, hpass, show answered _ eth num = _ from if_pos hbusy] at hi
    exact onPort_leaves hup hb hi (congrArg VitState.met hvit)

theorem readRecord_row {seq : W32} (hup : portUp s eth = true) (hb : portBusy s eth = false) :
    ∃ d, exec (.readChangeLogRecord eth num seq) s = .next (summaryRise s (portReply s eth num 0 d)) ∧ 128 ≤ d.length ∧
      (seq.toNat ≤ fullSeq s seq → (logRecord s (fullSeq s seq)).length = 128 → d = logRecord s (fullSeq s seq)) ∧
      (fullSeq s seq < seq.toNat → d = List.replicate 128 0) := by
  refine ⟨_, onPort_leaves hup hb rfl (congrArg VitState.met (portReply_vit _ _ _ _ _)), ?_, fun hle hlen => ?_, fun hlt => ?_⟩
  · rw [List.length_append, List.length_replicate]
    omega
  · rw [if_pos hle, hlen]
    exact List.append_nil _
  · rw [if_neg (by omega)]
    rfl

theorem holdTimeout_row {h : HeldWrite} (hf : s.cur.heldWrites.find? (fun h => h.port && decide (h.w = portWriter eth)) = some h) :
    exec (.mgmtHoldTimeout eth) s = .next (summaryRise s
      (portReply { s with cur := { s.cur with heldWrites := s.cur.heldWrites.erase h } } eth h.num 3 [])) := by
  refine leaves_of (i := .mgmtHoldTimeout eth) ?_ (congrArg VitState.met (portReply_vit _ _ _ _ _))
  show execMgmtHoldTimeout eth s = _
  unfold execMgmtHoldTimeout
  rw [hf]

end

theorem port_rows {eth : Bool} {num : W32} {s : State} (hup : portUp s eth = true) (hb : portBusy s eth = false) :
     let w : Writer := if eth then .eth else .i3c
     let answers (i : Instr) (x : State) (status : Byte) (d : List Byte) := exec i s = .next (summaryRise s (portReply x eth num status d))
     (∀ off : W32, portRefusal s off.toNat 4 = none →
       let r := ifaceRead s (if eth then 2 else 1) off.toNat 4
       exec (.read4 eth num off) s = .next (summaryRise s (portReply r.2 eth num 0 r.1))) ∧
     (∀ off : W32, portRefusal s off.toNat 8 = none →
       let r := ifaceRead s (if eth then 2 else 1) off.toNat 8
       exec (.read8 eth num off) s = .next (summaryRise s (portReply r.2 eth num 0 r.1))) ∧
     (∀ (i : Instr) (off : W32) (size : Nat) (v : W64), portRefusal s off.toNat size = none →
       ∀ src : BitVec 48,
       (∃ x : W32, i = .write4 eth num off x src ∧ size = 4 ∧ v = x.zeroExtend 64) ∨ (i = .write8 eth num off v src ∧ size = 8) →
       let l := latchStep (fromFrame s eth src) w off.toNat size v
       (l.2 = none → answers i l.1 0 []) ∧
       (∀ y, l.2 = some y → s.cur.wipe = none → Unheld s (applyWrite l.1 w y) → portBusy (applyWrite l.1 w y) eth = false →
         exec i s = .next (summaryRise s (portReply (applyWrite l.1 w y) eth num 0 []))) ∧
       (∀ y, l.2 = some y → heldByWipe s y = true →
         exec i s = .next (summaryRise s (holdWrite l.1
           { w := w, off := y.off, size := y.size, v := y.v, num := num, port := true, refused := refusedInWipe y })))) ∧
     (∀ (off : W32) (k : Byte), portRefusal s off.toNat 4 = some k → answers (.read4 eth num off) s k [] ∧
       ∀ v src, answers (.write4 eth num off v src) (dropOther (fromFrame s eth src) w off.toNat) k []) ∧
     (∀ (off : W32) (k : Byte), portRefusal s off.toNat 8 = some k → answers (.read8 eth num off) s k [] ∧
       ∀ v src, answers (.write8 eth num off v src) (dropOther (fromFrame s eth src) w off.toNat) k []) := by
  intro w answers
  refine ⟨fun off h => read_leaves hup hb rfl h, fun off h => read_leaves hup hb rfl h, fun i off size v h src hi => ?_,
    fun off k h => ⟨refusal_leaves hup hb rfl h, fun v src => writeRefusal_leaves hup hb rfl h⟩,
    fun off k h => ⟨refusal_leaves hup hb rfl h, fun v src => writeRefusal_leaves hup hb rfl h⟩⟩
  obtain ⟨x, rfl, rfl, rfl⟩ | ⟨rfl, rfl⟩ := hi
  · exact portWrite_rows hup hb rfl h
  · exact portWrite_rows hup hb rfl h

/-! ## The common commands of I3C (R439, R467) -/

theorem i3c_leaves {i : Instr} {s x : State} (hd : domOn s 23 = true) (hi : exec i s = answer s (if i3cUp s then x else s))
    (hm : x.vit.met = s.vit.met) : exec i s = .next (summaryRise s x) :=
  leaves_of (hi.trans (congrArg (answer s) (if_pos hd))) hm

theorem i3c_rows {s : State} (hd : domOn s 23 = true) :
     let next (i : Instr) (x : State) := exec i s = .next (summaryRise s x)
     let set (f : I3c → I3c) : State := { s with mgmt := { s.mgmt with i3c := f s.mgmt.i3c } }
     let said (bs : List Byte) : State := { s with out := s.out ++ [.i3cData bs] }
     next .enec (set fun x => { x with events := true }) ∧
     next .disec (set fun x => { x with events := false }) ∧
     next .rstdaa (set fun x => { x with dynAddr := none }) ∧
     (∀ a, s.mgmt.i3c.dynAddr = none →
       next (.setdasa (0x60 + s.power.i3cSa.zeroExtend 7) a) (set fun x => { x with dynAddr := some a }) ∧
       ∃ x, exec (.entdaa a) s = .next (summaryRise s x) ∧ x.mgmt.i3c.dynAddr = some a ∧
         x.out = s.out ++ [.i3cData (provisionalId ++ Config.i3cBytes 1 ++ Config.i3cBytes 2)]) ∧
     next .getpid (said provisionalId) ∧ next .getbcr (said (Config.i3cBytes 1)) ∧
     next .getdcr (said (Config.i3cBytes 2)) ∧ next .getstatus (said (Config.i3cBytes 3)) ∧
     next .getmxds (said (Config.i3cBytes 4)) ∧
     ∀ a, next (.rstact a) (set fun x => { x with resetAction := a }) := by
  intro next set said
  refine ⟨i3c_leaves hd rfl rfl, i3c_leaves hd rfl rfl, i3c_leaves hd rfl rfl, fun a ha => ⟨?_, ?_⟩, i3c_leaves hd rfl rfl, i3c_leaves hd rfl rfl,
    i3c_leaves hd rfl rfl, i3c_leaves hd rfl rfl, i3c_leaves hd rfl rfl, fun a => i3c_leaves hd rfl rfl⟩
  · refine leaves_of (i := .setdasa _ a) (congrArg (answer s) (if_pos ?_)) rfl
    rw [show i3cUp s = true from hd, ha, decide_eq_true (show 0x60 + s.power.i3cSa.zeroExtend 7 = staticAddr s from rfl)]
    rfl
  · refine ⟨_, leaves_of (i := .entdaa a) (congrArg (answer s) (if_pos ?_)) rfl, rfl, rfl⟩
    rw [show i3cUp s = true from hd, ha]
    rfl

/-- Settles O59: each request of a port by whether its offset is refused, its write by the step of its latch; each command of I3C by its
row. -/
theorem managementRows : Obligations.ManagementRows := by
  unfold Obligations.ManagementRows
  exact ⟨⟨fun eth num s => port_rows, fun eth num seq s => readRecord_row, fun eth s h => holdTimeout_row⟩, fun s => i3c_rows⟩

end Sys2Proof.Machine


/-! # Counters, observation pins and the TAP (O60) -/

namespace Sys2Proof.Machine

/-! ## Registers that are zero after reset -/

/-- A register some of whose fields are not zero after reset. -/
def resetsNonzero (r : RegName) : Bool :=
  decide (r.info.rst ≠ 0) || [RegName.clkDom, .zmzRole, .rasWeight, .rasThresh, .vtrOwn, .vtrL2Info].contains r

theorem reset_zero {r : RegName} (h : resetsNonzero r = false) (i n : Nat) : r.reset i n = 0 := by
  obtain ⟨hr, hs⟩ := Bool.or_eq_false_iff.mp h
  have hrst : r.info.rst = 0 := not_not.mp (of_decide_eq_false hr)
  unfold RegName.reset
  split
  · exact absurd hs (by decide)
  · exact absurd hs (by decide)
  · exact absurd hs (by decide)
  · exact absurd hs (by decide)
  · exact absurd hs (by decide)
  · exact absurd hs (by decide)
  · rw [hrst]
    rfl

theorem hit_reg {r : RegName} {off : Nat} {h : RegHit} (hh : r.hit off = some h) : h.reg = r := by
  unfold RegName.hit at hh
  extract_lets f d i e n b at hh
  split_ifs at hh <;> cases hh <;> rfl

/-- How far a register reaches from its offset. -/
def RegName.reach (r : RegName) : Nat :=
  if r.info.iCount = 1 then if r.info.nCount = 1 then 5 else r.info.nCount * r.info.nStride else r.info.iCount * r.info.iStride

theorem hit_far {r : RegName} {off : Nat} (hi : r.info.iCount = 1 ∨ 0 < r.info.iStride) (hn : r.info.nCount = 1 ∨ 0 < r.info.nStride)
    (h : off < r.info.addr ∨ r.info.addr + r.reach ≤ off) : r.hit off = none := by
  unfold RegName.hit
  extract_lets f d i e n b
  by_cases hlt : off < f.addr
  · exact if_pos hlt
  have hge : r.info.addr + r.reach ≤ off := h.resolve_left hlt
  rw [if_neg hlt]
  have hd : r.reach ≤ d := Nat.le_sub_of_add_le (by rw [Nat.add_comm]; exact hge)
  unfold RegName.reach at hd
  by_cases hin : i < f.iCount ∧ n < f.nCount
  · rw [if_pos hin]
    have hi' : i < r.info.iCount := hin.1
    have hn' : n < r.info.nCount := hin.2
    by_cases h1 : r.info.iCount = 1
    · rw [if_pos h1] at hd
      have he : e = d := if_pos h1
      by_cases h2 : r.info.nCount = 1
      · rw [if_pos h2] at hd
        have hb : b = d := (if_pos h2).trans he
        rw [if_neg (by omega), if_neg (by omega)]
      · rw [if_neg h2] at hd
        have hne : n = d / r.info.nStride := (if_neg h2).trans (by rw [he])
        have := (Nat.div_lt_iff_lt_mul (hn.resolve_left h2)).mp (hne ▸ hn')
        omega
    · rw [if_neg h1] at hd
      have hie : i = d / r.info.iStride := if_neg h1
      have := (Nat.div_lt_iff_lt_mul (hi.resolve_left h1)).mp (hie ▸ hi')
      omega
  · exact if_neg hin

/-- A register of each core that has one place in it. -/
theorem hit_core {r : RegName} {p b : Nat} (hi : r.info.iCount = 72) (hs : r.info.iStride = 0x10000) (hn : r.info.nCount = 1)
    (ha : r.info.addr + 4 < 0x1000000 + b) (hlow : 0x1000000 ≤ r.info.addr) (hb : b < 0x10000) : r.hit (0x1000000 + p * 0x10000 + b) = none := by
  unfold RegName.hit
  extract_lets f d i e n c
  rw [if_neg (show ¬ _ < r.info.addr by omega)]
  have he : e = d % 0x10000 := (if_neg (show ¬ r.info.iCount = 1 by omega)).trans (by rw [hs])
  have hc : c = e := if_pos hn
  have hd : d = p * 0x10000 + (0x1000000 + b - r.info.addr) := by
    show 0x1000000 + p * 0x10000 + b - r.info.addr = _
    omega
  split
  · rw [if_neg (by omega), if_neg (by omega)]
  · rfl

theorem regDefault_zero {off : Nat} (h : ∀ r ∈ allRegs, resetsNonzero r = true → r.hit off = none) : regDefault off = 0 := by
  unfold regDefault
  split
  · next x hx =>
    obtain ⟨r, hr, hhit⟩ := List.exists_of_findSome?_eq_some hx
    split
    · rfl
    · rw [hit_reg hhit]
      cases hn : resetsNonzero r with
      | false => exact reset_zero hn _ _
      | true => exact absurd hhit (by rw [h r hr hn]; simp)
  · rfl

/-- Where the registers lie that are not zero after reset: once in each core, below its stall counters, or apart from all the counters. -/
theorem nonzero_apart : ∀ r ∈ allRegs, resetsNonzero r = true →
    (r.info.iCount = 72 ∧ r.info.iStride = 0x10000 ∧ r.info.nCount = 1 ∧ r.info.addr + 4 < 0x100C000 ∧ 0x1000000 ≤ r.info.addr) ∨
    ((r.info.iCount = 1 ∨ 0 < r.info.iStride) ∧ (r.info.nCount = 1 ∨ 0 < r.info.nStride) ∧
      (r.info.addr + r.reach ≤ 0x1000000 ∨ 0x1480000 ≤ r.info.addr ∧ r.info.addr + r.reach ≤ 0x2010000 ∨
        0x2019000 ≤ r.info.addr ∧ r.info.addr + r.reach ≤ 0x3E01000)) := by decide +kernel

theorem regDefault_conf {a : Nat} (h1 : 0x2010000 ≤ a) (h2 : a < 0x2019000) : regDefault a = 0 := by
  refine regDefault_zero fun r hr hn => ?_
  obtain ⟨hi, hs, hc, ha, hlow⟩ | ⟨hi, hc, h⟩ := nonzero_apart r hr hn
  · refine hit_far (.inr (by omega)) (.inl hc) (.inr ?_)
    unfold RegName.reach
    rw [if_neg (by omega), hi, hs]
    omega
  · exact hit_far hi hc (by omega)

theorem regDefault_dbg {a : Nat} (h1 : 0x3E01000 ≤ a) : regDefault a = 0 := by
  refine regDefault_zero fun r hr hn => ?_
  obtain ⟨hi, hs, hc, ha, hlow⟩ | ⟨hi, hc, h⟩ := nonzero_apart r hr hn
  · refine hit_far (.inr (by omega)) (.inl hc) (.inr ?_)
    unfold RegName.reach
    rw [if_neg (by omega), hi, hs]
    omega
  · exact hit_far hi hc (by omega)

theorem regDefault_stall {p b : Nat} (hp : p < 72) (h1 : 0xC000 ≤ b) (h2 : b < 0x10000) : regDefault (0x1000000 + p * 0x10000 + b) = 0 := by
  refine regDefault_zero fun r hr hn => ?_
  obtain ⟨hi, hs, hc, ha, hlow⟩ | ⟨hi, hc, h⟩ := nonzero_apart r hr hn
  · exact hit_core hi hs hc (by omega) hlow h2
  · exact hit_far hi hc (by omega)

/-! ## Snapshots and clears (R454) -/

/-- From state s to state t counters are copied and brought up to date: stored registers change, but none at an address of K, and what
tells how far the counters are. -/
structure Counted (K : Nat → Prop) (s t : State) : Prop where
  eq : t = { s with regs := t.regs, free := t.free, dbg := { s.dbg with conf := t.dbg.conf, memLag := t.dbg.memLag, confClk := t.dbg.confClk } }
  wf : smapWf regDefault s.regs = true → smapWf regDefault t.regs = true
  get : smapWf regDefault s.regs = true → ∀ a, K a → smapGet regDefault t.regs a = smapGet regDefault s.regs a

section
variable {K : Nat → Prop}

theorem Counted.refl (s : State) : Counted K s s := ⟨rfl, id, fun _ _ _ => rfl⟩

theorem Counted.trans {s t u : State} (h : Counted K s t) (k : Counted K t u) : Counted K s u := by
  refine ⟨?_, k.wf ∘ h.wf, fun hw a ha => (k.get (h.wf hw) a ha).trans (h.get hw a ha)⟩
  have hk := k.eq
  generalize u.regs = a at hk ⊢
  generalize u.free = b at hk ⊢
  generalize u.dbg.conf = c at hk ⊢
  generalize u.dbg.memLag = d at hk ⊢
  generalize u.dbg.confClk = e at hk ⊢
  rw [hk, h.eq]

theorem Counted.foldl {β : Type} {f : State → β → State} {l : List β} (h : ∀ s, ∀ b ∈ l, Counted K s (f s b)) (s : State) : Counted K s (l.foldl f s) := by
  induction l generalizing s with
  | nil => exact .refl s
  | cons b t ih =>
    rw [List.foldl_cons]
    exact (h s b List.mem_cons_self).trans (ih (fun s x hx => h s x (List.mem_cons_of_mem b hx)) _)

theorem rset_counted {r : RegName} {i n : Nat} (h : ¬ K (r.at i n)) (s : State) (v : W64) : Counted K s (s.rset r i n v) :=
  ⟨rfl, rset_wf _ _ _ _, fun hw a ha => smapGet_put_other _ (fun e : a = r.at i n => h (e ▸ ha)) hw⟩

theorem snapTo_counted {a b : RegName} {cores n : Nat} (h : ∀ i < cores, ∀ k < n, ¬ K (b.at i k)) (s : State) : Counted K s (snapTo s a b cores n) := by
  unfold snapTo
  refine Counted.foldl (fun s i hi => Counted.foldl (fun s k hk => ?_) s) s
  exact rset_counted (h i (List.mem_range.mp hi) k (List.mem_range.mp hk)) s _

theorem memSync_counted {l : List Nat} (h : ∀ k ∈ l, ¬ K (RegName.dbgMem.at 0 (4 * k))) (s : State) : Counted K s (memSync s l) := by
  unfold memSync
  refine Counted.foldl (fun s k hk => ?_) s
  unfold memSync1
  extract_lets lag s1
  split
  · exact .refl s
  · exact (rset_counted (h k hk) s _).trans ⟨rfl, id, fun _ _ _ => rfl⟩

theorem confSync_counted {l : List Nat} (h : ∀ n ∈ l, ¬ K (RegName.vtrConf.at 0 n)) (h0 : ¬ K (RegName.dbgOvf0.at 0 0)) (h1 : ¬ K (RegName.dbgOvf1.at 0 0))
    (s : State) : Counted K s (confSync s l) := by
  unfold confSync
  refine Counted.foldl (fun s n hn => ?_) s
  unfold confSync1
  split
  · exact .refl s
  · have hovf : ∀ t g, Counted K t (ovfSet t g) := fun t g => by
      unfold ovfSet
      split
      · exact rset_counted h0 t _
      · exact rset_counted h1 t _
    extract_lets x s1 d s2
    have hs : Counted K s s2 := (rset_counted (h n hn) s _).trans ⟨rfl, id, fun _ _ _ => rfl⟩
    clear_value s2
    split
    · exact hs.trans (hovf _ _)
    · exact hs

end

/-- The addresses that the counters of a domain leave alone, in a snapshot or a clear. -/
def Quiet (d a : Nat) : Prop :=
  match d with
  | 0 => a < 0x1000000 ∨ 0x3E01000 ≤ a
  | 2 => a < 0x3E01000 ∨ 0x3E02000 ≤ a ∧ a < 0x3E05000
  | _ => a < 0x3E02000

theorem snapCounters_counted {d : Nat} (hd : d ∈ [0, 2, 6]) (s : State) : Counted (Quiet d) s (snapCounters s d) := by
  simp only [List.mem_cons, List.not_mem_nil, or_false] at hd
  obtain rfl | rfl | rfl := hd
  · refine snapTo_counted (fun i hi k hk => ?_) s
    show ¬ (0x100C200 + i * 0x10000 + k * 8 < 0x1000000 ∨ 0x3E01000 ≤ 0x100C200 + i * 0x10000 + k * 8)
    omega
  · refine (memSync_counted (fun k hk => ?_) s).trans (snapTo_counted (fun i hi k hk => ?_) _)
    · have := List.mem_range.mp hk
      show ¬ (0x3E01000 + 0 * 0 + 4 * k * 8 < 0x3E01000 ∨ 0x3E02000 ≤ 0x3E01000 + 0 * 0 + 4 * k * 8 ∧ 0x3E01000 + 0 * 0 + 4 * k * 8 < 0x3E05000)
      omega
    · show ¬ (0x3E05000 + i * 0 + k * 8 < 0x3E01000 ∨ 0x3E02000 ≤ 0x3E05000 + i * 0 + k * 8 ∧ 0x3E05000 + i * 0 + k * 8 < 0x3E05000)
      omega
  · refine (snapTo_counted (fun i hi k hk => ?_) s).trans (snapTo_counted (fun i hi k hk => ?_) _)
    · show ¬ (0x3E06000 + i * 0 + k * 8 < 0x3E02000)
      omega
    · show ¬ (0x3E07000 + i * 0 + k * 8 < 0x3E02000)
      omega

theorem clearedOffset_quiet {d a : Nat} (hd : d ∈ [0, 2, 6]) (ha : Quiet d a) : clearedOffset d a = false := by
  simp only [List.mem_cons, List.not_mem_nil, or_false] at hd
  obtain rfl | rfl | rfl := hd
  · have ha : a < 0x1000000 ∨ 0x3E01000 ≤ a := ha
    show ((stallOffset a && decide (a % 0x10000 < 0xC200)) || confOffset a) = false
    unfold stallOffset confOffset
    rw [decide_eq_false (by omega), decide_eq_false (p := 0x2010000 ≤ a ∧ a < 0x2019000) (by omega)]
    rfl
  · have ha : a < 0x3E01000 ∨ 0x3E02000 ≤ a ∧ a < 0x3E05000 := ha
    exact decide_eq_false (by omega)
  · have ha : a < 0x3E02000 := ha
    exact decide_eq_false (by omega)

theorem mem_confWraps {s : State} {n : Nat} (h : n ∈ confWraps s) : n < 9216 := by
  unfold confWraps at h
  split at h
  · exact absurd h List.not_mem_nil
  · exact List.mem_range.mp (List.mem_of_mem_filter h)

theorem confSync_quiet (s : State) : Counted (Quiet 0) s (confSync s (confWraps s)) := by
  refine confSync_counted (fun n hn => ?_) ?_ ?_ s
  · have := mem_confWraps hn
    show ¬ (0x2010000 + 0 * 0 + n * 4 < 0x1000000 ∨ 0x3E01000 ≤ 0x2010000 + 0 * 0 + n * 4)
    omega
  · show ¬ (0x3E00010 < 0x1000000 ∨ 0x3E01000 ≤ 0x3E00010)
    decide
  · show ¬ (0x3E00018 < 0x1000000 ∨ 0x3E01000 ≤ 0x3E00018)
    decide

/-- The state whose counters a clear zeroes. -/
def clearBase (s : State) (d : Nat) : State := if d = 0 then confSync s (confWraps s) else s

/-- Counters that a clear zeroes. -/
def zeroed (u : State) (d : Nat) : State := { u with
  regs := u.regs.filter fun e => !clearedOffset d e.1
  dbg := if d = 0 then { u.dbg with confClk := 0, conf := [] } else if d = 2 then { u.dbg with memLag := [] } else u.dbg }

theorem clearCounters_eq (s : State) (d : Nat) : clearCounters s d = zeroed (clearBase s d) d := rfl

theorem zeroed_dbg (u : State) (d : Nat) : (zeroed u d).dbg =
    { u.dbg with conf := (zeroed u d).dbg.conf, memLag := (zeroed u d).dbg.memLag, confClk := (zeroed u d).dbg.confClk } := by
  unfold zeroed
  dsimp only
  split
  · rfl
  · split <;> rfl

theorem zeroed_get {u : State} (hw : smapWf regDefault u.regs = true) (d a : Nat) : smapGet regDefault (zeroed u d).regs a =
    if clearedOffset d a then regDefault a else smapGet regDefault u.regs a := smapGet_filter (clearedOffset d) a hw

theorem clearBase_counted {d : Nat} (s : State) : Counted (Quiet d) s (clearBase s d) := by
  unfold clearBase
  split
  · next h =>
    rw [h]
    exact confSync_quiet s
  · exact .refl s

theorem clearCounters_get {s : State} (hw : smapWf regDefault s.regs = true) (d a : Nat) : smapGet regDefault (clearCounters s d).regs a =
    if clearedOffset d a then regDefault a else smapGet regDefault (clearBase s d).regs a := by
  rw [clearCounters_eq]
  exact zeroed_get ((clearBase_counted (d := d) s).wf hw) d a

theorem clearCounters_counted {d : Nat} (hd : d ∈ [0, 2, 6]) (s : State) : Counted (Quiet d) s (clearCounters s d) := by
  rw [clearCounters_eq]
  refine (clearBase_counted (d := d) s).trans ⟨?_, smapWf_filter _, fun hw a ha => ?_⟩
  · have h : ∀ u x, zeroed u d = { u with regs := (zeroed u d).regs, dbg := x } ↔ (zeroed u d).dbg = x := fun u x =>
      ⟨fun h => congrArg State.dbg h, fun h => by rw [← h]; rfl⟩
    exact (h _ _).mpr (zeroed_dbg _ d)
  · rw [zeroed_get hw, clearedOffset_quiet hd ha]
    rfl

/-- What a domain does at its instant, before it is marked. -/
def acted (s : State) (d : Nat) : State :=
  let s1 := if s.dbg.snap then snapCounters s d else s
  if s.dbg.clear then clearCounters s1 d else s1

theorem acted_counted {d : Nat} (hd : d ∈ [0, 2, 6]) (s : State) : Counted (Quiet d) s (acted s d) := by
  have h1 : Counted (Quiet d) s (if s.dbg.snap then snapCounters s d else s) := by
    split
    · exact snapCounters_counted hd s
    · exact .refl s
  unfold acted
  dsimp only
  split
  · exact h1.trans (clearCounters_counted hd _)
  · exact h1

theorem pmcAct_acts {s : State} {d : Nat} (hd : domOn s d = true) (hn : s.dbg.acted.contains d = false) :
    pmcAct s d = { acted s d with dbg := { (acted s d).dbg with acted := d :: (acted s d).dbg.acted } } := by
  refine if_pos ?_
  rw [hd, hn]
  rfl

theorem pmcAct_waits {s : State} {d : Nat} (hd : domOn s d = false) : pmcAct s d = s := by
  refine if_neg ?_
  rw [hd]
  exact Bool.false_ne_true

/-- Domain d has acted. -/
structure Acts (d : Nat) (s t : State) : Prop where
  eq : t = { s with
    regs := t.regs
    free := t.free
    dbg := { s.dbg with acted := d :: s.dbg.acted, conf := t.dbg.conf, memLag := t.dbg.memLag, confClk := t.dbg.confClk } }
  wf : smapWf regDefault s.regs = true → smapWf regDefault t.regs = true
  get : smapWf regDefault s.regs = true → ∀ a, Quiet d a → smapGet regDefault t.regs a = smapGet regDefault s.regs a

theorem Counted.acts {d : Nat} {s u : State} (h : Counted (Quiet d) s u) : Acts d s { u with dbg := { u.dbg with acted := d :: u.dbg.acted } } := by
  refine ⟨?_, h.wf, h.get⟩
  have he := h.eq
  generalize u.regs = a at he ⊢
  generalize u.free = b at he ⊢
  generalize u.dbg.conf = c at he ⊢
  generalize u.dbg.memLag = d at he ⊢
  generalize u.dbg.confClk = e at he ⊢
  rw [he]

theorem pmcAct_acted {d : Nat} (hd : d ∈ [0, 2, 6]) {s : State} (hon : domOn s d = true) (hn : s.dbg.acted.contains d = false) :
    Acts d s (pmcAct s d) := by
  rw [pmcAct_acts hon hn]
  exact (acted_counted hd s).acts

theorem quiet_low {d a : Nat} (ha : a < 0x1000000) (hd : d ∈ [0, 2, 6]) : Quiet d a := by
  simp only [List.mem_cons, List.not_mem_nil, or_false] at hd
  obtain rfl | rfl | rfl := hd
  · exact .inl ha
  · exact .inl (by omega)
  · exact (show a < 0x3E02000 by omega)

theorem domOn_reads {s t : State} (hp : t.power = s.power) (hf : t.fab = s.fab) (hst : t.rget .pwrState 0 0 = s.rget .pwrState 0 0) {n : Nat}
    (hn : t.rget .clkDom 0 n = s.rget .clkDom 0 n) : domOn t n = domOn s n := by
  unfold domOn domDead pwrState domEn
  rw [hp, hf, hst, hn]

theorem Acts.domOn {d : Nat} {s t : State} (h : Acts d s t) (hd : d ∈ [0, 2, 6]) (hw : smapWf regDefault s.regs = true) {n : Nat} (hn : n < 27) :
    domOn t n = domOn s n := by
  refine domOn_reads (by rw [h.eq]) (by rw [h.eq]) (h.get hw _ (quiet_low (by decide) hd)) (h.get hw _ (quiet_low ?_ hd))
  show 0x200100 + 0 * 0 + n * 8 < 0x1000000
  omega

theorem snapTo_one (s : State) (a b : RegName) (n : Nat) : snapTo s a b 1 n = (List.range n).foldl (fun s k => s.rset b 0 k (s.rget a 0 k)) s := rfl

/-- What a copy of counters leaves in a copy. -/
theorem copies_get {a b : RegName} {j : Nat} {l : List Nat} (hb : ∀ k ∈ l, b.at 0 j = b.at 0 k → j = k) (hab : ∀ k ∈ l, a.at 0 j ≠ b.at 0 k)
    {s : State} (hw : smapWf regDefault s.regs = true) : (l.foldl (fun s k => s.rset b 0 k (s.rget a 0 k)) s).rget b 0 j =
    if j ∈ l then s.rget a 0 j else s.rget b 0 j := by
  induction l generalizing s with
  | nil => rfl
  | cons k t ih =>
    rw [List.foldl_cons, ih (fun x hx => hb x (List.mem_cons_of_mem k hx)) (fun x hx => hab x (List.mem_cons_of_mem k hx)) (rset_wf _ _ _ _ hw),
      rget_rset_other _ hw (hab k List.mem_cons_self)]
    by_cases hk : j = k
    · rw [← hk, rget_rset_same _ _ _ _ hw, ite_self, if_pos List.mem_cons_self]
    · rw [rget_rset_other _ hw fun e => hk (hb k List.mem_cons_self e)]
      simp only [List.mem_cons, hk, false_or]

theorem dbgCol_at (n : Nat) : RegName.dbgCol.at 0 n = 0x3E03000 + n * 8 := rfl
theorem dbgColSnap_at (n : Nat) : RegName.dbgColSnap.at 0 n = 0x3E07000 + n * 8 := by
  show 0x3E07000 + 0 * 0 + n * 8 = _
  omega

/-- The state of domain d after the snapshot, before the clear. -/
def snapped (s : State) (d : Nat) : State := if s.dbg.snap then snapCounters s d else s

theorem acted_eq (s : State) (d : Nat) : acted s d = if s.dbg.clear then clearCounters (snapped s d) d else snapped s d := rfl

theorem snapped_wf {s : State} (hw : smapWf regDefault s.regs = true) {d : Nat} (hd : d ∈ [0, 2, 6]) : smapWf regDefault (snapped s d).regs = true := by
  unfold snapped
  split
  · exact (snapCounters_counted hd s).wf hw
  · exact hw

theorem snapCounters_six (s : State) : snapCounters s 6 = snapTo (snapTo s .dbgZmz .dbgZmzSnap 1 128) .dbgCol .dbgColSnap 1 8 := rfl

theorem snapCounters_col {s : State} (hw : smapWf regDefault s.regs = true) (n : Fin 8) :
    (snapCounters s 6).rget .dbgColSnap 0 n.val = s.rget .dbgCol 0 n.val ∧ (snapCounters s 6).rget .dbgCol 0 n.val = s.rget .dbgCol 0 n.val := by
  have hz : Counted (· < 0x3E05000) s (snapTo s .dbgZmz .dbgZmzSnap 1 128) := by
    refine snapTo_counted (fun i hi k hk => ?_) s
    show ¬ (0x3E06000 + i * 0 + k * 8 < 0x3E05000)
    omega
  have hlt : RegName.dbgCol.at 0 n.val < 0x3E05000 := by
    rw [dbgCol_at]
    omega
  have hzw := hz.wf hw
  have hzget : (snapTo s .dbgZmz .dbgZmzSnap 1 128).rget .dbgCol 0 n.val = s.rget .dbgCol 0 n.val := hz.get hw _ hlt
  rw [snapCounters_six]
  generalize snapTo s .dbgZmz .dbgZmzSnap 1 128 = y at hzw hzget ⊢
  refine ⟨?_, ?_⟩
  · rw [snapTo_one, copies_get (fun k hk h => ?_) (fun k hk => ?_) hzw, if_pos (List.mem_range.mpr n.isLt), hzget]
    · rw [dbgColSnap_at, dbgColSnap_at] at h
      omega
    · have := List.mem_range.mp hk
      rw [dbgColSnap_at, dbgCol_at]
      omega
  · have hc : Counted (· < 0x3E05000) y (snapTo y .dbgCol .dbgColSnap 1 8) := by
      refine snapTo_counted (fun i hi k hk => ?_) _
      show ¬ (0x3E07000 + i * 0 + k * 8 < 0x3E05000)
      omega
    exact (hc.get hzw _ hlt).trans hzget

/-- The snapshot and the clear of the counters of the collective engine. -/
theorem acted_col {s : State} (hw : smapWf regDefault s.regs = true) (n : Fin 8) :
    (s.dbg.snap = true → (acted s 6).rget .dbgColSnap 0 n.val = s.rget .dbgCol 0 n.val) ∧
    (acted s 6).rget .dbgCol 0 n.val = if s.dbg.clear then 0 else s.rget .dbgCol 0 n.val := by
  have hkept : clearedOffset 6 (RegName.dbgColSnap.at 0 n.val) = false := by
    rw [dbgColSnap_at]
    exact decide_eq_false (by omega)
  have hgone : clearedOffset 6 (RegName.dbgCol.at 0 n.val) = true := by
    rw [dbgCol_at]
    exact decide_eq_true (by omega)
  have hcol : (snapped s 6).rget .dbgCol 0 n.val = s.rget .dbgCol 0 n.val := by
    unfold snapped
    split
    · exact (snapCounters_col hw n).2
    · rfl
  have hsnap : s.dbg.snap = true → (snapped s 6).rget .dbgColSnap 0 n.val = s.rget .dbgCol 0 n.val := fun h =>
    (congrArg (fun x : State => x.rget .dbgColSnap 0 n.val) (if_pos h)).trans (snapCounters_col hw n).1
  have hsw := snapped_wf hw (d := 6) (by decide)
  rw [acted_eq]
  by_cases hc : s.dbg.clear = true
  · rw [if_pos hc, if_pos hc]
    refine ⟨fun h => ?_, ?_⟩
    · refine (clearCounters_get hsw 6 _).trans ?_
      rw [hkept]
      exact hsnap h
    · refine (clearCounters_get hsw 6 _).trans ?_
      rw [hgone, dbgCol_at]
      exact regDefault_dbg (by omega)
  · rw [if_neg hc, if_neg hc]
    exact ⟨hsnap, hcol⟩

/-- The clear of the counters of the cores and the galleries. -/
theorem acted_zero {s : State} (hw : smapWf regDefault s.regs = true) (hc : s.dbg.clear = true) :
    (∀ n : Fin 9216, (acted s 0).rget .vtrConf 0 n.val = 0) ∧ ∀ (p : Fin 72) (n : Fin 56), (acted s 0).rget .corStall p.val n.val = 0 := by
  have hsw := snapped_wf hw (d := 0) (by decide)
  rw [acted_eq, if_pos hc]
  refine ⟨fun n => (clearCounters_get hsw 0 _).trans ?_, fun p n => (clearCounters_get hsw 0 _).trans ?_⟩
  · have ha : RegName.vtrConf.at 0 n.val = 0x2010000 + n.val * 4 := rfl
    have hgone : clearedOffset 0 (RegName.vtrConf.at 0 n.val) = true := by
      rw [ha]
      exact Bool.or_eq_true_iff.mpr (.inr (decide_eq_true (by omega)))
    rw [hgone, ha]
    exact regDefault_conf (by omega) (by omega)
  · have ha : RegName.corStall.at p.val n.val = 0x1000000 + p.val * 0x10000 + (0xC000 + n.val * 8) := by
      show 0x100C000 + p.val * 0x10000 + n.val * 8 = _
      omega
    have hgone : clearedOffset 0 (RegName.corStall.at p.val n.val) = true := by
      rw [ha]
      refine Bool.or_eq_true_iff.mpr (.inl ?_)
      unfold stallOffset
      rw [decide_eq_true (by omega), decide_eq_true (by omega), decide_eq_true (by omega)]
      rfl
    rw [hgone, ha]
    exact regDefault_stall p.isLt (by omega) (by omega)

/-- Every domain has acted. -/
def ended (x : State) : State :=
  let s1 := x.rset .dbgSnapTime 0 0 x.dbg.at_
  { s1 with dbg := { s1.dbg with snap := false, clear := false, acted := [] } }

theorem pmcInstant_exec {s : State} (hd : s.dbg.snap = true ∨ s.dbg.clear = true) (ht : s.dbg.at_.toNat ≤ s.timeNs.toNat) :
    exec .pmcInstant s = answer s (pmcEnd (pmcAct (pmcAct (pmcAct s 0) 2) 6)) := by
  refine congrArg (answer s) (if_pos ?_)
  unfold pmcDue
  rw [decide_eq_true ht, Bool.and_true, Bool.or_eq_true]
  exact hd

theorem pmcInstant_all {s : State} (hc : Canonical s) (hdue : s.dbg.snap = true ∨ s.dbg.clear = true) (ht : s.dbg.at_.toNat ≤ s.timeNs.toNat)
    (hacted : s.dbg.acted = []) (h0 : domOn s 0 = true) (h2 : domOn s 2 = true) (h6 : domOn s 6 = true) :
    ∃ t, exec .pmcInstant s = .next t ∧ t.dbg.snap = false ∧ t.dbg.clear = false ∧ t.mem = s.mem ∧
      t.cores = s.cores ∧ t.rget .dbgSnapTime 0 0 = s.dbg.at_ ∧
      (s.dbg.clear = true → (∀ n : Fin 9216, t.rget .vtrConf 0 n.val = 0) ∧ ∀ (p : Fin 72) (n : Fin 56), t.rget .corStall p.val n.val = 0) ∧
      ∀ n : Fin 8, (s.dbg.snap = true → t.rget .dbgColSnap 0 n.val = s.rget .dbgCol 0 n.val) ∧
        t.rget .dbgCol 0 n.val = if s.dbg.clear then 0 else s.rget .dbgCol 0 n.val := by
  have hex := pmcInstant_exec hdue ht
  have hw : smapWf regDefault s.regs = true := hc.2
  have a0 := pmcAct_acted (d := 0) (by decide) h0 (by rw [hacted]; rfl)
  have z0 : s.dbg.clear = true → (∀ n : Fin 9216, (pmcAct s 0).rget .vtrConf 0 n.val = 0) ∧
      ∀ (p : Fin 72) (n : Fin 56), (pmcAct s 0).rget .corStall p.val n.val = 0 := fun h => by
    rw [pmcAct_acts h0 (by rw [hacted]; rfl)]
    exact acted_zero hw h
  have w0 := a0.wf hw
  have o0 := fun n (hn : n < 27) => a0.domOn (by decide) hw hn
  generalize pmcAct s 0 = u at a0 z0 w0 o0 hex
  have l0 : u.dbg.acted = [0] := by rw [a0.eq, hacted]
  have a2 := pmcAct_acted (d := 2) (by decide) ((o0 2 (by decide)).trans h2) (by rw [l0]; rfl)
  have w2 := a2.wf w0
  have o2 := fun n (hn : n < 27) => a2.domOn (by decide) w0 hn
  generalize pmcAct u 2 = v at a2 w2 o2 hex
  have l2 : v.dbg.acted = [2, 0] := by rw [a2.eq, l0]
  have h6' : domOn v 6 = true := (o2 6 (by decide)).trans ((o0 6 (by decide)).trans h6)
  have a6 := pmcAct_acted (d := 6) (by decide) h6' (by rw [l2]; rfl)
  have c6 : ∀ n : Fin 8, (v.dbg.snap = true → (pmcAct v 6).rget .dbgColSnap 0 n.val = v.rget .dbgCol 0 n.val) ∧
      (pmcAct v 6).rget .dbgCol 0 n.val = if v.dbg.clear then 0 else v.rget .dbgCol 0 n.val := fun n => by
    rw [pmcAct_acts h6' (by rw [l2]; rfl)]
    exact acted_col w2 n
  have w6 := a6.wf w2
  generalize pmcAct v 6 = x at a6 c6 w6 hex
  have l6 : x.dbg.acted = [6, 2, 0] := by rw [a6.eq, l2]
  have hend : pmcEnd x = ended x := if_pos (by rw [l6]; decide)
  rw [hend] at hex
  have hsnap : v.dbg.snap = s.dbg.snap := by rw [a2.eq, a0.eq]
  have hclear : v.dbg.clear = s.dbg.clear := by rw [a2.eq, a0.eq]
  have hread : ∀ (r : RegName) (i n : Nat), r.at i n ≠ RegName.dbgSnapTime.at 0 0 → (ended x).rget r i n = x.rget r i n := fun r i n hne =>
    smapGet_put_other _ hne w6
  have hlow : ∀ (r : RegName) (i n : Nat), r.at i n < 0x3E00000 → (ended x).rget r i n = u.rget r i n := fun r i n hlt =>
    (hread r i n (fun e => by rw [e] at hlt; exact absurd hlt (by decide))).trans
      ((a6.get w2 _ (show r.at i n < 0x3E02000 by omega)).trans (a2.get w0 _ (.inl (by omega))))
  have hcol : ∀ n : Fin 8, v.rget .dbgCol 0 n.val = s.rget .dbgCol 0 n.val := fun n =>
    (a2.get w0 _ (.inr (by rw [dbgCol_at]; omega))).trans (a0.get hw _ (.inr (by rw [dbgCol_at]; omega)))
  refine ⟨_, leaves_of hex (show x.vit.met = s.vit.met by rw [a6.eq, a2.eq, a0.eq]), ?_⟩
  rw [summaryRise_dbg, summaryRise_mem, summaryRise_cores, summaryRise_rget]
  refine ⟨rfl, rfl, show x.mem = s.mem by rw [a6.eq, a2.eq, a0.eq], show x.cores = s.cores by rw [a6.eq, a2.eq, a0.eq], ?_, fun hclr => ⟨fun n => ?_, fun p n => ?_⟩,
    fun n => ⟨fun hs => ?_, ?_⟩⟩
  · exact (smapGet_put_same _ _ w6).trans (by rw [a6.eq, a2.eq, a0.eq])
  · rw [summaryRise_rget, hlow .vtrConf 0 n.val (show 0x2010000 + 0 * 0 + n.val * 4 < 0x3E00000 by omega)]
    exact (z0 hclr).1 n
  · rw [summaryRise_rget, hlow .corStall p.val n.val (show 0x100C000 + p.val * 0x10000 + n.val * 8 < 0x3E00000 by omega)]
    exact (z0 hclr).2 p n
  · rw [summaryRise_rget, hread _ _ _ (by rw [dbgColSnap_at]; exact (show 0x3E07000 + n.val * 8 ≠ 0x3E00008 by omega)), (c6 n).1 (hsnap.trans hs), hcol]
  · rw [summaryRise_rget, hread _ _ _ (by rw [dbgCol_at]; exact (show 0x3E03000 + n.val * 8 ≠ 0x3E00008 by omega)), (c6 n).2, hclear, hcol]

theorem pmcInstant_first {s : State} (hc : Canonical s) (hdue : s.dbg.snap = true ∨ s.dbg.clear = true) (ht : s.dbg.at_.toNat ≤ s.timeNs.toNat)
    (hacted : s.dbg.acted = []) (h0 : domOn s 0 = true) (h2 : domOn s 2 = false) (h6 : domOn s 6 = false) :
    ∃ t, exec .pmcInstant s = .next t ∧ t.dbg.snap = s.dbg.snap ∧ t.dbg.clear = s.dbg.clear ∧ t.dbg.acted = [0] ∧
      ∀ n : Fin 8, t.rget .dbgCol 0 n.val = s.rget .dbgCol 0 n.val := by
  have hex := pmcInstant_exec hdue ht
  have a0 := pmcAct_acted (d := 0) (by decide) h0 (by rw [hacted]; rfl)
  have o0 := fun n (hn : n < 27) => a0.domOn (by decide) hc.2 hn
  generalize pmcAct s 0 = u at a0 o0 hex
  have hlist : u.dbg.acted = [0] := by rw [a0.eq, hacted]
  have hend : pmcEnd u = u := if_neg (by rw [hlist]; decide)
  rw [pmcAct_waits ((o0 2 (by decide)).trans h2), pmcAct_waits ((o0 6 (by decide)).trans h6), hend] at hex
  refine ⟨_, leaves_of hex (by rw [a0.eq]), ?_⟩
  rw [summaryRise_dbg]
  refine ⟨by rw [a0.eq], by rw [a0.eq], hlist, fun n => ?_⟩
  rw [summaryRise_rget]
  exact a0.get hc.2 _ (.inr (by rw [dbgCol_at]; omega))

/-! ## Controls of the counters and the observation pins (R453, R456) -/

/-- The record of a write of a register that shows no counter. -/
theorem recorded_still {s : State} {w : Writer} {r : RegName} {k n size : Nat} {v : W64} (h : ∀ z, confShown z r n = []) (hm : memShown r n = []) :
    ∃ l f g e, recorded s w r k n size v = { s with latches := l, free := f, cur := { s.cur with log := g, seq := e } } := by
  obtain ⟨l, hd⟩ := dropWr_frame s w
  have hr : ∃ f, (regRead { s with latches := l } r k n).2 = { s with latches := l, free := f } := by
    unfold regRead
    rw [h, hm]
    dsimp only
    split
    · exact ⟨_, rfl⟩
    · exact ⟨s.free, rfl⟩
  obtain ⟨f, hr⟩ := hr
  unfold recorded
  rw [hd]
  dsimp only
  rw [hr]
  split
  · exact ⟨l, s.free, s.cur.log, s.cur.seq, rfl⟩
  · exact ⟨_, _, _, _, rfl⟩

/-- A snapshot or a clear that is accepted: it acts 1 µs later. -/
def pmcAsked (y : State) (t : W64) (v : W32) (snap clear : Bool) : State :=
  let z := (y.rmod .dbgPmcCtl 0 0 fun x => setBit x 31 (bitB v 31)).rmod .dbgPmcCtl 0 0 fun x => setBit x 27 false
  { z with dbg := { z.dbg with snap := snap, clear := clear, at_ := t + 1000 } }

theorem pmcWrite_asks {y : State} {u v : W32} {snap clear : Bool} (h29 : bitB u 29 = snap) (h30 : bitB u 30 = clear) (h31 : bitB u 31 = bitB v 31)
    (hask : snap = true ∨ clear = true) (hst : pwrState y = 2) (hs : y.dbg.snap = false) (hc : y.dbg.clear = false) :
    pmcWrite y (u.zeroExtend 64) = pmcAsked y y.timeNs v snap clear := by
  have hbit : ∀ i, i < 32 → bitB (u.zeroExtend 64 : W64) i = bitB u i := fun i hi => by
    unfold bitB
    rw [BitVec.getLsbD_setWidth, decide_eq_true (show i < 64 by omega), Bool.true_and]
  unfold pmcWrite
  rw [hbit 29 (by decide), hbit 30 (by decide), hbit 31 (by decide), h29, h30, h31]
  dsimp only
  rw [if_neg (by obtain h | h := hask <;> rw [h] <;> simp), if_neg (by rw [hst, hs, hc]; simp)]
  rfl

theorem pmc_leaves {i : Instr} {u v : W32} {snap clear : Bool} {w : Writer} {s : State} (hi : exec i s = write32 w .dbgPmcCtl 0 0 u s)
    (hw : Writable w (RegName.dbgPmcCtl.at 0 0) s) (h29 : bitB u 29 = snap) (h30 : bitB u 30 = clear) (h31 : bitB u 31 = bitB v 31)
    (hask : snap = true ∨ clear = true) (hst : pwrState s = 2) (hs : s.dbg.snap = false) (hc : s.dbg.clear = false) :
    Leaves i s (pmcAsked (recorded s w .dbgPmcCtl 0 0 4 (u.zeroExtend 64)) s.timeNs v snap clear) := by
  obtain ⟨l, f, g, e, hy⟩ := recorded_still (s := s) (w := w) (r := .dbgPmcCtl) (k := 0) (n := 0) (size := 4) (v := u.zeroExtend 64) (fun _ => rfl) rfl
  have hl := fun x hx => write32_leaves (x := x) hi hw (findReg_single _ (by decide)) rfl (by decide) hx
  generalize recorded s w .dbgPmcCtl 0 0 4 (u.zeroExtend 64) = y at hy hl ⊢
  have hreg := pmcWrite_asks (y := y) h29 h30 h31 hask ((pwrState_congr (by rw [hy])).trans hst) (by rw [hy]; exact hs) (by rw [hy]; exact hc)
  have ht : y.timeNs = s.timeNs := by rw [hy]
  rw [ht] at hreg
  exact hl _ hreg (show y.vit.met = s.vit.met by rw [hy])

theorem pmc_rows {w : Writer} {v : W32} {s : State} (hw : Writable w (RegName.dbgPmcCtl.at 0 0) s) (hst : pwrState s = 2) (hs : s.dbg.snap = false)
    (hc : s.dbg.clear = false) :
    Leaves (.pmcSnap w v) s (pmcAsked (recorded s w .dbgPmcCtl 0 0 4 ((setBit v 29 true).zeroExtend 64)) s.timeNs v true (bitB v 30)) ∧
    Leaves (.pmcClear w v) s (pmcAsked (recorded s w .dbgPmcCtl 0 0 4 ((setBit v 30 true).zeroExtend 64)) s.timeNs v (bitB v 29) true) := by
  refine ⟨pmc_leaves rfl hw (bitB_setBit_same _ _ (by decide)) (bitB_setBit_other _ _ (by decide)) (bitB_setBit_other _ _ (by decide)) (.inl rfl) hst hs hc,
    pmc_leaves rfl hw (bitB_setBit_other _ _ (by decide)) (bitB_setBit_same _ _ (by decide)) (bitB_setBit_other _ _ (by decide)) (.inr rfl) hst hs hc⟩

theorem obsSelect_leaves {w : Writer} {v : W32} {s : State} (hw : Writable w (RegName.dbgObsSel.at 0 0) s) :
    Leaves (.obsSelect w v) s ((recorded s w .dbgObsSel 0 0 4 (v.zeroExtend 64)).rset .dbgObsSel 0 0
      (setBit (BitVec.ofNat 64 (bitsN v 0 19)) 31 (!obsOk s (bitsN v 0 8) (bitsN v 8 8)))) := by
  obtain ⟨l, f, g, e, hy⟩ := recorded_still (s := s) (w := w) (r := .dbgObsSel) (k := 0) (n := 0) (size := 4) (v := v.zeroExtend 64) (fun _ => rfl) rfl
  have hl := fun x hx => write32_leaves (i := .obsSelect w v) (x := x) rfl hw (findReg_single _ (by decide)) rfl (by decide) hx
  generalize recorded s w .dbgObsSel 0 0 4 (v.zeroExtend 64) = y at hy hl ⊢
  refine hl _ ?_ (show y.vit.met = s.vit.met by rw [hy])
  have hok : ∀ g i, obsOk y g i = obsOk s g i := fun g i => by rw [hy]; rfl
  show obsWrite y (v.zeroExtend 64) = _
  unfold obsWrite
  rw [bitsN_zeroExtend, bitsN_zeroExtend, bitsN_zeroExtend, hok]

/-! ## The TAP (R458, R459) -/

theorem linkDownLog_vit (s : State) (i : Fin 16) : (linkDownLog s i).vit = s.vit := by
  unfold linkDownLog logZmz
  rw [(logWrite_only s _ _ _).eq]

theorem enterDown_vit (s : State) (i : Fin 16) : (enterDown s i).vit = s.vit := by
  unfold enterDown
  refine (reroute_vit _ _).trans ?_
  exact linkDownLog_vit _ i

theorem setBoundary_vit (s : State) (b : Bool) : (setBoundary s b).vit = s.vit := by
  unfold setBoundary
  split
  · rfl
  · refine foldl_keeps (fun (s : State) (i : Fin 16) => if b then portDark s i else portLit s i) State.vit (fun s i => ?_) _ _
    unfold portDark portLit
    split
    · split
      · rfl
      · exact enterDown_vit s i
    · split
      · exact startTraining_vit s i _
      · rfl

theorem setIr_vit (s : State) (ir : Byte) (b : Bool) : (setIr s ir b).vit = s.vit := setBoundary_vit _ b

section
variable {s : State}

theorem tapUp_of (hoff : s.power.off = false) (hdead : s.power.dead = false) : tapUp s = true := by
  unfold tapUp
  rw [hoff, hdead]
  rfl

theorem tap_leaves {i : Instr} {x y : State} (hup : tapUp s = true) (hi : exec i s = answer s (if tapUp s then x else s)) (hx : x = y)
    (hm : x.vit = s.vit) : Leaves i s y := by
  rw [if_pos hup] at hi
  rw [← hx]
  exact leaves_of hi (congrArg VitState.met hm)

theorem boundaryOk_iff : boundaryOk s = true ↔ s.power.perst = true ∧ ∀ p : Fin 72, (s.core p).runstate ≠ 2 ∧ (s.core p).runstate ≠ 3 ∧ (s.core p).runstate ≠ 4 := by
  unfold boundaryOk
  rw [Bool.and_eq_true, List.all_eq_true]
  refine and_congr_right fun _ => ⟨fun h p => ?_, fun h c hc => ?_⟩
  · simpa using of_decide_eq_true (h (s.core p) (by unfold State.core; simp))
  · obtain ⟨i, hi, rfl⟩ := List.getElem_of_mem hc
    have := h ⟨i, by simpa using hi⟩
    unfold State.core at this
    simpa using this

theorem boundaryTest_leaves {i : Instr} {ir : Byte} {levels : List Bool} {next : State → State} (hi : exec i s = boundaryTest ir levels next s)
    (hup : tapUp s = true) (hok : boundaryOk s = true) (hm : ∀ y, (next y).vit = y.vit) : Leaves i s (next (emit (setIr s ir true) (.pins levels))) := by
  refine leaves_of (hi.trans ?_) (congrArg VitState.met ((hm _).trans (setIr_vit s ir true)))
  unfold boundaryTest
  rw [hup, hok]
  rfl

theorem externTest_leaves {i : Instr} {ir : Byte} {cells : List Bool} (hi : exec i s = externTest ir cells s) (hup : tapUp s = true)
    (hok : boundaryOk s = true) :
    Leaves i s (emit (scanBoundary (emit (setIr s ir true) (.pins (drivenLevels s.dbg.cells))) ir cells) (.pins (drivenLevels cells))) :=
  boundaryTest_leaves (next := fun s => emit (scanBoundary s ir cells) (.pins (drivenLevels cells))) hi hup hok fun _ => rfl

theorem bypassTest_leaves {i : Instr} {ir : Byte} {levels : List Bool} (hi : exec i s = bypassTest ir levels s) (hup : tapUp s = true)
    (hok : boundaryOk s = true) : Leaves i s (emit (emit (setIr s ir true) (.pins levels)) (.jtag ir [false])) :=
  boundaryTest_leaves (next := fun s => emit s (.jtag ir [false])) hi hup hok fun _ => rfl

theorem boundaryTest_refuses {i : Instr} {ir : Byte} {levels : List Bool} {next : State → State} (hi : exec i s = boundaryTest ir levels next s)
    (hup : tapUp s = true) (hp : s.power.perst = false) : Leaves i s (setIr (s.rmod .dbgJtagStatus 0 0 fun v => setBit v 8 true) 0xFF false) := by
  have hno : boundaryOk s = false := by
    unfold boundaryOk
    rw [hp]
    rfl
  refine leaves_of (hi.trans ?_) (congrArg VitState.met (setIr_vit _ _ _))
  unfold boundaryTest
  rw [hup, hno]
  rfl

theorem externTest_refuses {i : Instr} {ir : Byte} {cells : List Bool} (hi : exec i s = externTest ir cells s) (hup : tapUp s = true)
    (hp : s.power.perst = false) : Leaves i s (setIr (s.rmod .dbgJtagStatus 0 0 fun v => setBit v 8 true) 0xFF false) :=
  boundaryTest_refuses (next := fun s => emit (scanBoundary s ir cells) (.pins (drivenLevels cells))) hi hup hp

theorem bypassTest_refuses {i : Instr} {ir : Byte} {levels : List Bool} (hi : exec i s = bypassTest ir levels s) (hup : tapUp s = true)
    (hp : s.power.perst = false) : Leaves i s (setIr (s.rmod .dbgJtagStatus 0 0 fun v => setBit v 8 true) 0xFF false) :=
  boundaryTest_refuses (next := fun s => emit s (.jtag ir [false])) hi hup hp

theorem dbgAccess_exec (off : BitVec 26) (hup : tapUp s = true) : exec (.jtagDbgAccess off) s = answer s (
    if !debugOpen s || !domOn s 23 then emit (setIr s 0xFF false) (.jtag 0xFF [false])
    else
      let err := dbgError s off.toNat
      let r := if err then (0, s) else read8 s off.toNat
      let w := dbgWord r.1 err off
      let s1 := setIr r.2 0x40 false
      emit { s1 with dbg := { s1.dbg with access := w } } (.jtag 0x40 (bitList w))) := by
  refine congrArg (answer s) (if_neg ?_)
  rw [hup]
  decide

theorem dbgAccess_reads {off : BitVec 26} (hup : tapUp s = true) (ho : debugOpen s = true) (hd : domOn s 23 = true) (he : dbgError s off.toNat = false) :
    let r := read8 s off.toNat
    let d := dbgWord r.1 false off
    let y := setIr r.2 0x40 false
    Leaves (.jtagDbgAccess off) s (emit { y with dbg := { y.dbg with access := d } } (.jtag 0x40 (bitList d))) := by
  intro r d y
  have hex := dbgAccess_exec off hup
  rw [ho, hd, he] at hex
  exact leaves_of hex (congrArg VitState.met ((setIr_vit _ _ _).trans (read8_vit s off.toNat)))

theorem dbgAccess_closed {off : BitVec 26} (hup : tapUp s = true) (ho : debugOpen s = false) :
    Leaves (.jtagDbgAccess off) s (emit (setIr s 0xFF false) (.jtag 0xFF [false])) := by
  have hex := dbgAccess_exec off hup
  rw [ho] at hex
  exact leaves_of hex (congrArg VitState.met (setIr_vit _ _ _))

theorem tap_rows (hoff : s.power.off = false) (hdead : s.power.dead = false) :
    Leaves .tapReset s (setIr s 1 false) ∧
    Leaves .jtagIdcode s (emit (setIr s 1 false) (.jtag 1 (bitList (idcode s)))) ∧
    let scan (y : State) (ir : Byte) (cells : List Bool) : State :=
      emit { y with free := y.free + 1, dbg := { y.dbg with cells := cells } } (.jtag ir (captured y.free))
    let driven (ir : Byte) : State := emit (setIr s ir true) (.pins (drivenLevels s.dbg.cells))
    (∀ cells, Leaves (.jtagSample cells) s (scan (setIr s 2 false) 2 cells)) ∧
    (∀ op, Leaves (.jtagBypass op) s (emit (setIr s op false) (.jtag op [false]))) ∧
    (s.power.perst = true → (∀ p, (s.core p).runstate ≠ 2 ∧ (s.core p).runstate ≠ 3 ∧ (s.core p).runstate ≠ 4) →
      Leaves .jtagClamp s (emit (driven 4) (.jtag 4 [false])) ∧
      Leaves .jtagHighz s (emit (emit (setIr s 5 true) (.pins [])) (.jtag 5 [false])) ∧
      ∀ cells, Leaves (.jtagExtest cells) s (emit (scan (driven 3) 3 cells) (.pins (drivenLevels cells))) ∧
        Leaves (.jtagExtestPulse cells) s (emit (scan (driven 6) 6 cells) (.pins (drivenLevels cells))) ∧
        Leaves (.jtagExtestTrain cells) s (emit (scan (driven 7) 7 cells) (.pins (drivenLevels cells)))) ∧
    (s.power.perst = false → ∀ cells,
      ∀ i ∈ [Instr.jtagExtest cells, .jtagClamp, .jtagHighz, .jtagExtestPulse cells, .jtagExtestTrain cells],
        Leaves i s (setIr (s.rmod .dbgJtagStatus 0 0 fun v => setBit v 8 true) 0xFF false)) ∧
    (∀ off, debugOpen s = true → domOn s 23 = true → dbgError s off.toNat = false →
      let r := read8 s off.toNat
      let d := dbgWord r.1 false off
      let y := setIr r.2 0x40 false
      Leaves (.jtagDbgAccess off) s (emit { y with dbg := { y.dbg with access := d } } (.jtag 0x40 (bitList d)))) ∧
    (∀ off, debugOpen s = false → Leaves (.jtagDbgAccess off) s (emit (setIr s 0xFF false) (.jtag 0xFF [false]))) := by
  have hup := tapUp_of hoff hdead
  refine ⟨tap_leaves hup rfl rfl (setIr_vit _ _ _), tap_leaves hup rfl rfl (setIr_vit _ _ _), fun cells => tap_leaves hup rfl rfl (setIr_vit _ _ _),
    fun op => tap_leaves hup rfl rfl (setIr_vit _ _ _), fun hp hr => ?_, fun hp cells i hi => ?_, fun off => dbgAccess_reads hup, fun off => dbgAccess_closed hup⟩
  · have hok := boundaryOk_iff.mpr ⟨hp, hr⟩
    exact ⟨bypassTest_leaves rfl hup hok, bypassTest_leaves rfl hup hok, fun cells =>
      ⟨externTest_leaves rfl hup hok, externTest_leaves rfl hup hok, externTest_leaves rfl hup hok⟩⟩
  · simp only [List.mem_cons, List.not_mem_nil, or_false] at hi
    obtain rfl | rfl | rfl | rfl | rfl := hi
    · exact externTest_refuses rfl hup hp
    · exact bypassTest_refuses rfl hup hp
    · exact bypassTest_refuses rfl hup hp
    · exact externTest_refuses rfl hup hp
    · exact externTest_refuses rfl hup hp

end

/-- Settles O60: a snapshot and a clear by the addresses that each domain leaves alone; the TAP by whether it answers and a boundary test may
begin. -/
theorem debugRows : Obligations.DebugRows := by
  unfold Obligations.DebugRows
  exact ⟨fun w v s => pmc_rows, fun s hc hdue ht ha h0 _ h2 h6 => pmcInstant_all hc hdue ht ha h0 h2 h6, fun s hc hdue ht ha h0 h2 h6 =>
    pmcInstant_first hc hdue ht ha h0 h2 h6, fun w v s => obsSelect_leaves, fun s => tap_rows⟩

end Sys2Proof.Machine


/-! # FFUN and the row statistics (O29, O30) -/

namespace Sys2Proof.Machine

/-! ## The core at the start of an instruction -/

section
variable {op : CoreOp} {args : Args} {k : Ctl} {g : Engine} {s : State}

theorem atStart_alike (h : StartsNow op args k g s) : LanesAlike (s.core k.core) ((atStart op args k g s).core k.core) := by
  obtain ⟨_, _, _, _, _, _, _, _, _, _, hd⟩ := (atStart_core h).exists_front
  rw [hd]
  exact ⟨rfl, rfl, rfl, rfl⟩

/-- The core at its start holds no error. -/
theorem atStart_free (h : StartsNow op args k g s) : eccFree ((atStart op args k g s).core k.core) = true := by
  obtain ⟨_, _, _, _, _, _, _, _, _, _, hd⟩ := (atStart_core h).exists_front
  rw [hd]
  exact h.good

end

theorem elemAt_alike {c d : Core} (h : LanesAlike c d) (t : ETy) (r : BitVec 5) (lane j : Nat) : elemAt d t r lane j = elemAt c t r lane j := by
  unfold elemAt vGet
  rw [h.v]

/-- An instruction of format V of group 7 runs on the special-function unit. -/
theorem runEntry_sf {op : CoreOp} {o : OpV} {k : Ctl} {s x : State} {p : Fin 72} (hg : opGroup op = 7)
    (hr : runEntry p (issuedEntry op (.v o) k s) x = if opGroup op = 7 then runSf p (issuedEntry op (.v o) k s) o x
      else runVector p (issuedEntry op (.v o) k s) o x) :
    runEntry p (issuedEntry op (.v o) k s) x = runSf p (issuedEntry op (.v o) k s) o x :=
  hr.trans (if_pos hg)

/-! ## FFUN (R152, R158) -/

theorem countClamps_vit (s : State) (p : Fin 72) (n : Nat) : (countClamps s p n).vit = s.vit := by
  unfold countClamps
  split <;> rfl

/-- The walk of FFUN on `d`, with the elements of `c`. -/
def ffunWalk (o : OpV) (c d : Core) : Core × Flags :=
  elemWise o (tyOf o.type) (pureElem fun lane j =>
    ((ffun o.fx.toNat (tyOf o.type) (elemAt c (tyOf o.type) o.va lane j)).bits, (ffun o.fx.toNat (tyOf o.type) (elemAt c (tyOf o.type) o.va lane j)).flags)) d

/-- How many active elements of `c` the seam clamp replaces. -/
def ffunClamps (o : OpV) (c : Core) : Nat :=
  (elemPlaces (vlOf o) (tyOf o.type).perLane).countP fun pl =>
    activeAt c o pl.1 (decide (pl.2 = 1)) && (ffun o.fx.toNat (tyOf o.type) (elemAt c (tyOf o.type) o.va pl.1 pl.2)).clamp

theorem runFfun_eq (p : Fin 72) (o : OpV) (x : State) : runFfun p o x =
    { st := countClamps (x.setCore p (ffunWalk o (x.core p) (x.core p)).1) p (ffunClamps o (x.core p)), sticky := (ffunWalk o (x.core p) (x.core p)).2 } := rfl

theorem ffunWalk_alike {c c' : Core} (h : LanesAlike c c') (o : OpV) (d : Core) : ffunWalk o c' d = ffunWalk o c d := by
  unfold ffunWalk
  simp only [elemAt_alike h]

theorem ffunClamps_alike {c c' : Core} (h : LanesAlike c c') (o : OpV) : ffunClamps o c' = ffunClamps o c := by
  unfold ffunClamps
  simp only [elemAt_alike h, activeAt_congr h.m]

/-- Settles O29: the walk at the start of FFUN is the walk on the core at issue, since the two agree in the lanes and the masks. -/
theorem ffunRow : Obligations.FfunRow := by
  unfold Obligations.FfunRow
  intro k o s h c t y n r
  have ha := atStart_alike h
  have hflags : (ffunWalk o c ((atStart .ffun (.v o) k .sf s).core k.core)).2 = (ffunWalk o c c).2 :=
    (elemWalk_alike o t _ (acc := (c, 0)) (acc' := ((atStart .ffun (.v o) k .sf s).core k.core, 0)) ha rfl fun _ _ _ => rfl).2
  have hrun : runEntry k.core (issuedEntry .ffun (.v o) k s) (atStart .ffun (.v o) k .sf s) =
      { st := countClamps ((atStart .ffun (.v o) k .sf s).modCore k.core fun d => (ffunWalk o c d).1) k.core (ffunClamps o c), sticky := (ffunWalk o c c).2 } := by
    refine (runEntry_sf rfl rfl).trans ((runFfun_eq _ _ _).trans ?_)
    rw [ffunWalk_alike ha, ffunClamps_alike ha, hflags]
    rfl
  exact ranTo_of h rfl hrun (congrArg VitState.met (countClamps_vit _ _ _))

/-! ## The row statistics (R161 to R166) -/

/-- The blocks that FSTAT merges, one after the other. -/
def mergedStats (o : OpV) (c : Core) (groups : List Nat) : Core × Flags × Nat :=
  groups.foldl (fun (a : Core × Flags × Nat) g =>
    let m := mergeBlock (statGet a.1 (bitsN o.fx 0 12 + g)) (bitB o.fx 15) (groupBlock c o (tyOf o.type) (bitB o.fx 15) (bitsN o.fx 12 3) g)
    (statPut a.1 (bitsN o.fx 0 12 + g) m.entry, a.2.1 ||| m.flags, a.2.2 + m.clamps)) (c, 0, 0)

theorem runFstat_merges {p : Fin 72} {o : OpV} {x : State} {groups : List Nat}
    (hg : groups = (List.range (2 ^ bitsN o.fx 12 3)).filter fun g => !(groupElems (x.core p) o (tyOf o.type) (bitsN o.fx 12 3) g).isEmpty)
    (h : (groups.find? fun g => kindClash (statGet (x.core p) (bitsN o.fx 0 12 + g)) (bitB o.fx 15)) = none) :
    runFstat p o x = { st := countClamps (x.modCore p fun _ => (mergedStats o (x.core p) groups).1) p (mergedStats o (x.core p) groups).2.2
                       sticky := (mergedStats o (x.core p) groups).2.1 &&& 0x3F } := by
  unfold runFstat
  dsimp only
  rw [← hg, h]
  rfl

theorem runFstat_clashes {p : Fin 72} {o : OpV} {x : State} {groups : List Nat} {g : Nat}
    (hg : groups = (List.range (2 ^ bitsN o.fx 12 3)).filter fun g => !(groupElems (x.core p) o (tyOf o.type) (bitsN o.fx 12 3) g).isEmpty)
    (h : (groups.find? fun g => kindClash (statGet (x.core p) (bitsN o.fx 0 12 + g)) (bitB o.fx 15)) = some g) :
    runFstat p o x = ranFault x ⟨0x0304, BitVec.ofNat 32 (bitsN o.fx 0 12 + g)⟩ := by
  unfold runFstat
  dsimp only
  rw [← hg, h]
  rfl

theorem clearStats_free {c : Core} (h : eccFree c = true) (first n : Nat) : clearStats c first n =
    { c with rstat := c.rstat.filter fun e => !decide (first ≤ e.1 ∧ e.1 < first + n) } :=
  clean_free (c := { c with rstat := c.rstat.filter fun e => !decide (first ≤ e.1 ∧ e.1 < first + n) }) h _

/-- The core after FSTRD has read entry `n`. -/
def statRow (o : OpV) (n : Nat) (c : Core) : Core :=
  setWholeReg c o.vd [(statGet c n).max, (statGet c n).sum, (statGet c n).mean, (statGet c n).m2, (fp32OfNat (statGet c n).count.toNat).1]

/-- Settles O30: FSTAT by whether some group meets an entry of the other kind; FSTRD and FSTCLR by what their engine writes. -/
theorem statisticRows : Obligations.StatisticRows := by
  unfold Obligations.StatisticRows
  refine ⟨fun k o s h => ?_, fun k o s h => ?_, fun k o s h => ?_⟩
  · intro x c t first sh lse groups r
    have hfirst : bitsN o.fx 0 12 = first := bitsN_low o.fx 12
    have hgroups : groups = (List.range (2 ^ bitsN o.fx 12 3)).filter fun g => !(groupElems (x.core k.core) o (tyOf o.type) (bitsN o.fx 12 3) g).isEmpty := rfl
    refine ⟨fun hkind => ?_, fun g hg => ?_⟩
    · have hnone : (groups.find? fun g => kindClash (statGet (x.core k.core) (bitsN o.fx 0 12 + g)) (bitB o.fx 15)) = none := by
        rw [List.find?_eq_none, hfirst]
        intro g hg
        rw [show kindClash (statGet (x.core k.core) (first + g)) (bitB o.fx 15) = false from hkind g hg]
        exact Bool.false_ne_true
      have hr : mergedStats o (x.core k.core) groups = r := by
        unfold mergedStats
        rw [hfirst]
        rfl
      have hrun := runFstat_merges hgroups hnone
      rw [hr] at hrun
      exact ranTo_of h rfl ((runEntry_sf rfl rfl).trans hrun) (congrArg VitState.met (countClamps_vit _ _ _))
    · have hsome : (groups.find? fun g => kindClash (statGet (x.core k.core) (bitsN o.fx 0 12 + g)) (bitB o.fx 15)) = some g := by
        rw [hfirst]
        exact hg
      have hrun := runFstat_clashes hgroups hsome
      rw [hfirst] at hrun
      exact ranToFault_of h rfl ((runEntry_sf rfl rfl).trans hrun) rfl
  · refine coreRow_inCore _ h rfl (fun x _ => ?_) fun c => setWholeReg_frec _ _ _
    exact (runEntry_sf rfl rfl).trans (congrArg (fun n => ranOk (x.setCore k.core (statRow o n (x.core k.core)))) (bitsN_low o.fx 12))
  · refine coreRow_inCore _ h rfl (fun x hx => ?_) fun c => rfl
    refine (runEntry_sf rfl rfl).trans (congrArg (fun d => ranOk (x.setCore k.core d)) ((clearStats_free hx _ _).trans ?_))
    rw [bitsN_low o.fx 12]
    rfl

end Sys2Proof.Machine


/-! # The matrix engine: its own core, and the pronk of a gap (O31, O35) -/

namespace Sys2Proof.Machine

/-! ## The rows with an effect on their core alone (R74, R95, R96, R100) -/

/-- With no error in the core, a swap moves none. -/
theorem swapCore_free {c : Core} (h : eccFree c = true) : swapCore c =
    { c with mat := { c.mat with stat := { c.mat.shad with preload := false }, shad := { c.mat.stat with preload := false } } } := by
  obtain ⟨he, he1⟩ := Bool.and_eq_true_iff.mp h
  have h0 : c.ecc.map swapPlace = c.ecc := by rw [List.isEmpty_iff.mp he]; rfl
  have h1 : c.ecc1.map swapPlace = c.ecc1 := by rw [List.isEmpty_iff.mp he1]; rfl
  unfold swapCore
  rw [h0, h1]
  rfl

/-- MABCLR on a core. -/
def abCleared (lo n : Nat) (c : Core) : Core :=
  { c with ab := c.ab.filter fun x => !decide (lo * 64 ≤ x.1 ∧ x.1 < (lo + n) * 64), outAb := (List.range (n * 64)).map (lo * 64 + ·) ++ c.outAb }

theorem runMabclr_free (p : Fin 72) (e : Entry) (o : OpM) {x : State} (h : eccFree (x.core p) = true) :
    runMabclr p e o x = ranOk (x.setCore p (abCleared o.abr.toNat e.b.toNat (x.core p))) := by
  unfold runMabclr
  refine congrArg (fun c => ranOk (x.setCore p c)) ((clean_free (c := { x.core p with
    ab := (x.core p).ab.filter fun w => !decide (o.abr.toNat * 64 ≤ w.1 ∧ w.1 < (o.abr.toNat + e.b.toNat) * 64)
    outAb := (List.range ((o.abr.toNat + e.b.toNat) * 64 - o.abr.toNat * 64)).map (o.abr.toNat * 64 + ·) ++ (x.core p).outAb }) h _).trans ?_)
  rw [show (o.abr.toNat + e.b.toNat) * 64 - o.abr.toNat * 64 = e.b.toNat * 64 by omega]
  rfl

/-- The column sums of a set in an AB row. -/
def sumsRow (row : Nat) (sums : List W32) (c : Core) : Core := (List.range 64).foldl (fun d col => abPut d row col (sums.getD col 0)) c

theorem sumsRow_frec (row : Nat) (sums : List W32) (c : Core) : (sumsRow row sums c).frec = c.frec :=
  foldl_keeps (fun d col => abPut d row col (sums.getD col 0)) Core.frec (fun _ _ => rfl) _ _

theorem sumsRow_eccFree (row : Nat) (sums : List W32) (c : Core) : eccFree (sumsRow row sums c) = eccFree c :=
  foldl_keeps (fun d col => abPut d row col (sums.getD col 0)) eccFree (fun _ _ => rfl) _ _

theorem runMcsum_valid (p : Fin 72) (o : OpM) {x : State} (h : eccFree (x.core p) = true) (hv : (x.core p).mat.stat.valid = true) :
    runMcsum p o x = ranOk (x.setCore p (sumsRow o.abr.toNat (x.core p).mat.stat.sums (x.core p))) := by
  unfold runMcsum
  refine (if_pos hv).trans (congrArg (fun c => ranOk (x.setCore p c)) ?_)
  exact abClean_free ((sumsRow_eccFree _ _ _).trans h) _ _

/-- Settles O31: a core that is ready holds no error, so that a swap moves none and a write clears none. -/
theorem matrixCoreRows : Obligations.MatrixCoreRows := by
  unfold Obligations.MatrixCoreRows
  refine ⟨fun k o s h => ?_, fun k o s h => ?_, fun k o s h hv => ?_⟩
  · exact coreRow_inCore _ h rfl (fun x hx => congrArg (fun c => ranOk (x.setCore k.core c)) (swapCore_free hx)) fun _ => rfl
  · exact coreRow_inCore (abCleared o.abr.toNat _) h rfl (fun x hx => runMabclr_free _ _ o hx) fun _ => rfl
  · have hmat : ((atStart .mcsum (.m o) k .me s).core k.core).mat.stat.valid = true := by
      obtain ⟨_, _, _, _, _, _, _, _, _, _, hd⟩ := (atStart_core h).exists_front
      rw [hd]
      exact hv
    exact inCore_of (fun c => (sumsRow o.abr.toNat c.mat.stat.sums c, 0)) h rfl
      (fun x hx => runMcsum_valid _ o (hx ▸ atStart_free h) (hx ▸ hmat)) fun c => sumsRow_frec _ _ c

/-! ## The pronk of a gap (R105, R106) -/

/-- A module that is off, with dummy activity under way on core 0. -/
def offPronkSt : State := State.reset.modCore 0 fun c => { c with mat := { c.mat with pronk := 1 } }

theorem pronkGate_stays {p : Fin 72} {s : State} (h : domOn s 0 = false) : exec (.pronkGate p) s = .next s := by
  show execPronkGate p s = _
  unfold execPronkGate
  rw [h]
  rfl

/-- Refutes O35: the array's clock domain stands still in a module that is off, so that dummy activity which began before stays as it is
there, while the row has the gate close in every state. -/
theorem not_matrixEventRows : ¬ Obligations.MatrixEventRows := by
  unfold Obligations.MatrixEventRows
  rintro ⟨-, -, hgate⟩
  obtain ⟨t, ht, hmat, -⟩ := hgate 0 offPronkSt (Sys2Proof.Tests.canonical_of (by decide +kernel)) (by decide +kernel)
  rw [pronkGate_stays (by decide +kernel)] at ht
  injection ht with ht
  rw [← ht] at hmat
  exact absurd (congrArg MatState.pronk hmat) (by decide +kernel)

end Sys2Proof.Machine


/-! # SPARSIFY (O28) -/

namespace Sys2Proof.Machine

/-! ## What it keeps of a group of four (R79, R195) -/

section
variable (t : ETy) (q : List W32) (skip : Option Nat)

/-- One comparison of the search for the highest rank. -/
def topStep (best : Option Nat) (i : Nat) : Option Nat :=
  if eIsZero t (q.getD i 0) || skip == some i then best
  else match best with
    | none => some i
    | some b => if sparseRank t (q.getD b 0) < sparseRank t (q.getD i 0) then some i else some b

/-- An element that the search considers. -/
def Ranked (i : Nat) : Prop := eIsZero t (q.getD i 0) = false ∧ skip ≠ some i

/-- `best` is an element of highest rank among those of the first `n`, where there is one. -/
def TopOf (n : Nat) : Option Nat → Prop
  | none => ∀ i, i < n → ¬ Ranked t q skip i
  | some b => b < n ∧ Ranked t q skip b ∧ ∀ i, i < n → Ranked t q skip i → sparseRank t (q.getD i 0) ≤ sparseRank t (q.getD b 0)

variable {t q skip}

theorem topStep_passes {best : Option Nat} {i : Nat} (h : ¬ Ranked t q skip i) : topStep t q skip best i = best := by
  refine if_pos ?_
  cases hz : eIsZero t (q.getD i 0) with
  | true => rfl
  | false =>
    have hs : skip = some i := Classical.byContradiction fun hs => h ⟨hz, hs⟩
    simp [hs]

theorem topStep_ranked {best : Option Nat} {i : Nat} (h : Ranked t q skip i) : topStep t q skip best i =
    match best with
    | none => some i
    | some b => if sparseRank t (q.getD b 0) < sparseRank t (q.getD i 0) then some i else some b := by
  obtain ⟨hz, hs⟩ := h
  refine (if_neg ?_).trans rfl
  rw [hz, Bool.false_or, beq_iff_eq]
  exact hs

theorem topOf_step {n : Nat} {best : Option Nat} (h : TopOf t q skip n best) : TopOf t q skip (n + 1) (topStep t q skip best n) := by
  by_cases hn : Ranked t q skip n
  · rw [topStep_ranked hn]
    cases best with
    | none =>
      refine ⟨Nat.lt_succ_self n, hn, fun i hi hr => ?_⟩
      rcases Nat.lt_succ_iff_lt_or_eq.mp hi with hlt | rfl
      · exact absurd hr (h i hlt)
      · exact Nat.le_refl _
    | some b =>
      obtain ⟨hb, hrb, hmax⟩ := h
      dsimp only
      split
      · next hlt =>
        refine ⟨Nat.lt_succ_self n, hn, fun i hi hr => ?_⟩
        rcases Nat.lt_succ_iff_lt_or_eq.mp hi with hlt' | rfl
        · exact (hmax i hlt' hr).trans hlt.le
        · exact Nat.le_refl _
      · next hge =>
        refine ⟨hb.trans (Nat.lt_succ_self n), hrb, fun i hi hr => ?_⟩
        rcases Nat.lt_succ_iff_lt_or_eq.mp hi with hlt' | rfl
        · exact hmax i hlt' hr
        · exact Nat.le_of_not_lt hge
  · rw [topStep_passes hn]
    have hold : ∀ i, i < n + 1 → Ranked t q skip i → i < n := fun i hi hr =>
      (Nat.lt_succ_iff_lt_or_eq.mp hi).resolve_right fun he => hn (he ▸ hr)
    cases best with
    | none => exact fun i hi hr => h i (hold i hi hr) hr
    | some b =>
      obtain ⟨hb, hrb, hmax⟩ := h
      exact ⟨hb.trans (Nat.lt_succ_self n), hrb, fun i hi hr => hmax i (hold i hi hr) hr⟩

theorem topOf_range (n : Nat) : TopOf t q skip n ((List.range n).foldl (topStep t q skip) none) := by
  induction n with
  | zero => exact fun i hi => absurd hi (Nat.not_lt_zero i)
  | succ n ih =>
    rw [List.range_succ, List.foldl_append]
    exact topOf_step ih

theorem topIndex_top : TopOf t q skip 4 (topIndex t q skip) := topOf_range 4

/-- Where a zero element other than `skip` is left, one fills the pair. -/
theorem lowestZero_fills {i : Nat} (hi : i < 4) (hz : eIsZero t (q.getD i 0) = true) (hs : skip ≠ some i) :
    lowestZero t q skip < 4 ∧ skip ≠ some (lowestZero t q skip) := by
  unfold lowestZero
  cases hf : (List.range 4).find? fun i => eIsZero t (q.getD i 0) && !(skip == some i) with
  | none =>
    refine absurd ?_ (List.find?_eq_none.mp hf i (List.mem_range.mpr hi))
    rw [hz, Bool.true_and, Bool.not_eq_true', beq_eq_false_iff_ne]
    exact hs
  | some j =>
    have hj := List.find?_some hf
    rw [Bool.and_eq_true, Bool.not_eq_true', beq_eq_false_iff_ne] at hj
    exact ⟨List.mem_range.mp (List.mem_of_find?_eq_some hf), hj.2⟩

end

/-- The two kept places differ; where an element is left out that is not zero, both are of highest rank. -/
def Keeps (t : ETy) (q : List W32) (x y : Nat) : Prop :=
  x ≠ y ∧ x < 4 ∧ y < 4 ∧ ∀ i, i < 4 → i ≠ x → i ≠ y → eIsZero t (q.getD i 0) = false →
    (eIsZero t (q.getD x 0) = false ∧ sparseRank t (q.getD i 0) ≤ sparseRank t (q.getD x 0)) ∧
    (eIsZero t (q.getD y 0) = false ∧ sparseRank t (q.getD i 0) ≤ sparseRank t (q.getD y 0))

/-- Where every element but perhaps one of the pair is zero, nothing that is left out counts. -/
theorem keeps_of_zero {t : ETy} {q : List W32} {x y : Nat} (hxy : x ≠ y) (hx : x < 4) (hy : y < 4)
    (hzero : ∀ i, i < 4 → i ≠ x → eIsZero t (q.getD i 0) = true) : Keeps t q x y :=
  ⟨hxy, hx, hy, fun i hi hix _ hz => absurd (hzero i hi hix) (hz ▸ Bool.false_ne_true)⟩

theorem isZero_of_not_ranked {t : ETy} {q : List W32} {skip : Option Nat} {i : Nat} (h : ¬ Ranked t q skip i) (hs : skip ≠ some i) :
    eIsZero t (q.getD i 0) = true := by
  cases hz : eIsZero t (q.getD i 0) with
  | true => rfl
  | false => exact absurd ⟨hz, hs⟩ h

/-- Once one element is kept and the others are zero, the lowest other one fills the pair. -/
theorem keeps_lowest {t : ETy} {q : List W32} {x : Nat} (hx : x < 4) (hzero : ∀ i, i < 4 → i ≠ x → eIsZero t (q.getD i 0) = true) :
    Keeps t q x (lowestZero t q (some x)) := by
  obtain ⟨j, hj, hjx⟩ : ∃ j, j < 4 ∧ j ≠ x := ⟨if x = 0 then 1 else 0, by split <;> omega, by split <;> omega⟩
  obtain ⟨hlt, hne⟩ := lowestZero_fills hj (hzero j hj hjx) fun he => hjx (Option.some.inj he).symm
  exact keeps_of_zero (fun he => hne (congrArg some he)) hx hlt hzero

theorem keepPair_keeps (t : ETy) (q : List W32) : ∃ x y, keepPair t q = (min x y, max x y) ∧ Keeps t q x y := by
  have ha : TopOf t q none 4 (topIndex t q none) := topIndex_top
  unfold keepPair
  dsimp only
  refine ⟨_, _, rfl, ?_⟩
  cases hx : topIndex t q none with
  | none =>
    rw [hx] at ha
    have hzero : ∀ i, i < 4 → eIsZero t (q.getD i 0) = true := fun i hi => isZero_of_not_ranked (ha i hi) (Option.some_ne_none i).symm
    exact keeps_lowest (lowestZero_fills (i := 0) (by decide) (hzero 0 (by decide)) (Option.some_ne_none 0).symm).1 fun i hi _ => hzero i hi
  | some a =>
    rw [hx] at ha
    obtain ⟨halt, ⟨hza, -⟩, hmaxa⟩ := ha
    have hb : TopOf t q (some a) 4 (topIndex t q (some a)) := topIndex_top
    dsimp only [Option.getD_some]
    cases hy : topIndex t q (some a) with
    | none =>
      rw [hy] at hb
      exact keeps_lowest halt fun i hi hne => isZero_of_not_ranked (hb i hi) fun he => hne (Option.some.inj he).symm
    | some b =>
      rw [hy] at hb
      obtain ⟨hblt, ⟨hzb, hab⟩, hmaxb⟩ := hb
      refine ⟨fun he => hab (congrArg some he), halt, hblt, fun i hi hia hib hz => ⟨⟨hza, ?_⟩, hzb, ?_⟩⟩
      · exact hmaxa i hi ⟨hz, (Option.some_ne_none i).symm⟩
      · exact hmaxb i hi ⟨hz, fun he => hia (Option.some.inj he).symm⟩

/-! ## The instruction (R79, R195, R200) -/

/-- The active elements, in order. -/
def sparseElems (o : OpV) (c : Core) : List W32 :=
  ((elemPlaces (vlOf o) (tyOf o.type).perLane).filter fun pl => activeAt c o pl.1 (decide (pl.2 = 1))).map fun pl =>
    elemAt c (tyOf o.type) o.va pl.1 pl.2

def sparseKept (t : ETy) (gs : List (List W32)) : List W32 := gs.flatMap fun q => [q.getD (keepPair t q).1 0, q.getD (keepPair t q).2 0]

def sparseDropped (t : ETy) (gs : List (List W32)) : Nat := gs.foldl (fun a q => a + (nonZeros t q - min 2 (nonZeros t q))) 0

/-- The kept elements into VD of `d`, where `c` says which lanes are active. -/
def sparsePut (o : OpV) (c : Core) (kept : List W32) (d : Core) : Core :=
  ((elemPlaces (vlOf o) (tyOf o.type).perLane).zip (List.range (elemPlaces (vlOf o) (tyOf o.type).perLane).length)).foldl (fun acc x =>
    if x.2 < kept.length then putElem acc (tyOf o.type) o.vd x.1.1 x.1.2 (kept.getD x.2 0)
    else if activeAt c o x.1.1 (decide (x.1.2 = 1)) || o.mz then putElem acc (tyOf o.type) o.vd x.1.1 x.1.2 0
    else acc) d

/-- The codes of `n` elements into VC. -/
def sparseWords (o : OpV) (codes : List Nat) (n : Nat) (d : Core) : Core :=
  (List.range ((n + 31) / 32)).foldl (fun c l => vPut c o.vc l (metaWord codes l)) d

/-- What an active lane drops is counted. -/
def countDropped (s : State) (p : Fin 72) (n : Nat) : State := if n = 0 then s else s.rmod .corVeSprune p.val 0 fun v => satAdd v n

theorem countDropped_vit (s : State) (p : Fin 72) (n : Nat) : (countDropped s p n).vit = s.vit := by
  unfold countDropped
  split <;> rfl

theorem runSparsify_packs {p : Fin 72} {o : OpV} {x : State} {xs : List W32} {gs : List (List W32)} (hxs : sparseElems o (x.core p) = xs)
    (hgs : fours xs = gs) (h4 : xs.length % 4 = 0) (hfull : bitB o.fx 0 = true → ∀ q ∈ gs, nonZeros (tyOf o.type) q ≤ 2) :
    runSparsify p o x =
      { st := countDropped (x.setCore p (sparseWords o (gs.map fun q => (keepPair (tyOf o.type) q).1 + 4 * (keepPair (tyOf o.type) q).2) xs.length
          (sparsePut o (x.core p) (sparseKept (tyOf o.type) gs) (x.core p)))) p (sparseDropped (tyOf o.type) gs)
        sticky := if sparseDropped (tyOf o.type) gs = 0 then 0 else fSpDrop } := by
  subst hxs hgs
  have hnone : (if bitB o.fx 0 then (List.range (fours (sparseElems o (x.core p))).length).find? fun g =>
      decide (2 < nonZeros (tyOf o.type) ((fours (sparseElems o (x.core p))).getD g [])) else none) = none := by
    split
    · next hb =>
      rw [List.find?_eq_none]
      intro g hg
      have hlt := List.mem_range.mp hg
      rw [decide_eq_true_eq, Nat.not_lt, List.getD_eq_getElem _ _ hlt]
      exact hfull hb _ (List.getElem_mem hlt)
    · rfl
  unfold runSparsify
  dsimp only
  refine (if_neg (fun h => h h4)).trans ?_
  show (match (if bitB o.fx 0 then (List.range (fours (sparseElems o (x.core p))).length).find? fun g =>
      decide (2 < nonZeros (tyOf o.type) ((fours (sparseElems o (x.core p))).getD g [])) else none) with
    | some g => _
    | none => _) = _
  rw [hnone]
  rfl

theorem sparseElems_alike {c c' : Core} (h : LanesAlike c c') (o : OpV) : sparseElems o c' = sparseElems o c := by
  unfold sparseElems
  simp only [elemAt_alike h, activeAt_congr h.m]

theorem sparsePut_alike {c c' : Core} (h : LanesAlike c c') (o : OpV) (kept : List W32) (d : Core) : sparsePut o c' kept d = sparsePut o c kept d := by
  unfold sparsePut
  simp only [activeAt_congr h.m]

/-- Settles O28: the elements and the active lanes at the start are those at issue. -/
theorem sparsifyRow : Obligations.SparsifyRow := by
  unfold Obligations.SparsifyRow
  refine ⟨fun k o s h => ?_, fun t q _ _ => ?_⟩
  · intro x c t places xs gs kept codes dropped put words h4 hfull
    have ha := atStart_alike h
    have hrun := runSparsify_packs (p := k.core) (o := o) (x := x) (sparseElems_alike ha o) rfl h4 hfull
    rw [sparsePut_alike ha] at hrun
    exact ranTo_of h rfl ((runEntry_vector (by decide) rfl).trans hrun) (congrArg VitState.met (countDropped_vit _ _ _))
  · intro k
    obtain ⟨x, y, hk, hxy, hx, hy, hkeep⟩ := keepPair_keeps t q
    have hk1 : k.1 = min x y := congrArg Prod.fst hk
    have hk2 : k.2 = max x y := congrArg Prod.snd hk
    have hmem : ∀ j, j = k.1 ∨ j = k.2 → j = x ∨ j = y := fun j hj => by omega
    refine ⟨by omega, by omega, fun i hi h1 h2 hz j hj => ?_⟩
    obtain ⟨hkx, hky⟩ := hkeep i hi (by omega) (by omega) hz
    rcases hmem j hj with rfl | rfl
    · exact hkx
    · exact hky

end Sys2Proof.Machine


/-! # CPSIG (O39) -/

namespace Sys2Proof.Machine

/-- An instruction of format D of group 9 runs on the collective port. -/
theorem runEntry_port {op : CoreOp} {o : OpD} {k : Ctl} {s x : State} {p : Fin 72} (hg : opGroup op = 9)
    (hr : runEntry p (issuedEntry op (.d o) k s) x = if opGroup op = 9 then runCollPort p (issuedEntry op (.d o) k s) o x
      else runCopy p (issuedEntry op (.d o) k s) x) :
    runEntry p (issuedEntry op (.d o) k s) x = runCollPort p (issuedEntry op (.d o) k s) o x :=
  hr.trans (if_pos hg)

section
variable {op : CoreOp} {args : Args} {k : Ctl} {g : Engine} {s : State}

theorem atStart_tag (h : StartsNow op args k g s) : ((atStart op args k g s).core k.core).tag = (s.core k.core).tag := by
  obtain ⟨_, _, _, _, _, _, _, _, _, _, hd⟩ := (atStart_core h).exists_front
  rw [hd]

end

theorem bitsN_rest (a : W64) : bitsN a 43 21 = a.toNat / 2 ^ 43 := by
  unfold bitsN
  have := a.isLt
  omega

section
variable {p : Fin 72} {e : Entry} {o : OpD} {x : State}

theorem runCpsig_badForm (h : 2 ≤ o.mode.toNat ∨ o.fx ≠ 0) : runCpsig p e o x = ranFault x ⟨0x0901, 6⟩ := if_pos h

/-- A target of CPSIG that is refused (R374). -/
def SigTargetBad (a : W64) (o : OpD) : Prop := bitsN a 16 16 ≠ 0 ∨ bitsN a 43 21 ≠ 0 ∨ (bitB o.mode 0 = true ∧ 16 ≤ bitsN a 38 5)

theorem runCpsig_badTarget (h : ¬ (2 ≤ o.mode.toNat ∨ o.fx ≠ 0)) (hb : SigTargetBad e.a o) : runCpsig p e o x = ranFault x ⟨0x0901, 7⟩ :=
  (if_neg h).trans (if_pos hb)

/-- The SIGNAL that CPSIG sends. -/
def sigTxn (a : W64) (o : OpD) : Txn :=
  { ttype := 4, dst := a.extractLsb' 0 16, addr := BitVec.ofNat 48 (bitsN a 32 6 + (if bitB o.mode 0 then 64 else 0) + bitsN a 38 5 * 128) }

theorem runCpsig_sends (h : ¬ (2 ≤ o.mode.toNat ∨ o.fx ≠ 0)) (hb : ¬ SigTargetBad e.a o) :
    runCpsig p e o x = ranOk (request x [⟨sigTxn e.a o, .remote p e.seq (x.core p).tag none⟩]) := by
  have hdst : BitVec.ofNat 16 (bitsN e.a 0 16) = e.a.extractLsb' 0 16 := by
    refine BitVec.eq_of_toNat_eq ?_
    simp [bitsN]
  have hbit : b2n (bitB o.mode 0) * 64 = if bitB o.mode 0 then 64 else 0 := by cases bitB o.mode 0 <;> rfl
  refine (if_neg h).trans ((if_neg hb).trans ?_)
  unfold sigTxn
  rw [← hdst, ← hbit]
  rfl

end

/-- Settles O39: the reserved bits of the form come first, those of the target next; otherwise one SIGNAL is queued. -/
theorem cpsigRow : Obligations.CpsigRow := by
  unfold Obligations.CpsigRow
  intro k o s h e x bad6 bad7 offset sig
  have hbad : SigTargetBad e.a o ↔ bad7 := by
    unfold SigTargetBad
    rw [bitsN_rest]
    rfl
  refine ⟨fun h6 => ?_, fun h6 h7 => ?_, fun h6 h7 => ?_⟩
  · exact ranToFault_of h rfl ((runEntry_port rfl rfl).trans (runCpsig_badForm h6)) rfl
  · exact ranToFault_of h rfl ((runEntry_port rfl rfl).trans (runCpsig_badTarget h6 (hbad.mpr h7))) rfl
  · have hrun := runCpsig_sends (p := k.core) (x := x) h6 fun hb => h7 (hbad.mp hb)
    rw [atStart_tag h] at hrun
    exact ranTo_of h rfl ((runEntry_port rfl rfl).trans hrun) (congrArg VitState.met (request_vit _ _))

end Sys2Proof.Machine


/-! # Reads of the core's own places, and VCHLD (O26) -/

namespace Sys2Proof.Machine

/-! ## A read of the core's own places -/

theorem mem_spanLines_lt {a len x : Nat} (h : x ∈ spanLines a len) : ∃ i, i < len ∧ x / 2 ^ 20 = (a + i) / 2 ^ 20 := by
  unfold spanLines at h
  split at h
  · cases h
  · next hlen =>
    obtain ⟨j, hj, rfl⟩ := List.mem_map.mp h
    have hj := List.mem_range.mp hj
    refine ⟨(a / 64 + j) * 64 - a, ?_, ?_⟩ <;> omega

/-- The lines of a span of the core's own places are not in main memory. -/
theorem spanLines_own {s : State} {p : Fin 72} {a len x : Nat} (h : ownSpan s p a len = true) (hx : x ∈ spanLines a len) : ¬ x < memTop s := by
  obtain ⟨i, hi, hb⟩ := mem_spanLines_lt hx
  rw [← lt_memTop_block, hb, lt_memTop_block]
  exact (byteKey_of_own (ownPlace_of_span h hi)).1

theorem readErrLine_gallery {s : State} (h : s.galErr = []) {m : Master} {lo hi line : Nat} (hl : ¬ line < memTop s) :
    readErrLine m lo hi s line = (s, none) := by
  unfold readErrLine
  rw [if_neg hl]
  split
  · rfl
  · unfold wordsRead
    rw [h]
    rfl

theorem readErr_gallery {s : State} (h : s.galErr = []) (m : Master) {a len : Nat} (hl : ∀ x ∈ spanLines a len, ¬ x < memTop s) :
    readErr m s a len = (s, none) := by
  unfold readErr
  generalize spanLines a len = l at hl
  induction l with
  | nil => rfl
  | cons x xs ih =>
    rw [List.foldl_cons]
    dsimp only
    rw [readErrLine_gallery h (hl x List.mem_cons_self)]
    exact ih fun y hy => hl y (List.mem_cons_of_mem x hy)

/-- A read of the core's own places that meets no error changes nothing. -/
theorem devRead_own {s : State} (h : StorageGood s) (m : Master) {p : Fin 72} {a len : Nat} (ho : ownSpan s p a len = true) :
    devRead m s a len = (s, readBytes s a len, none) := by
  unfold devRead
  rw [noteWipe_good h, readErr_gallery h.gal m fun x hx => spanLines_own ho hx]

/-! ## VCHLD (R83, R171 to R174, R179) -/

theorem find_kvInsert {β : Type} (l : List (Nat × β)) (k : Nat) (v : β) : (kvInsert l k v).find? (fun e => e.1 = k) = some (k, v) := by
  induction l with
  | nil => simp [kvInsert]
  | cons x xs ih =>
    obtain ⟨k', v'⟩ := x
    unfold kvInsert
    split
    · simp
    · split
      · simp
      · next hne =>
        rw [List.find?_cons_of_neg (by simpa using fun he : k' = k => hne he.symm)]
        exact ih

theorem slotGet_slotPut (c : Core) (n : Nat) (g : ChainProg) : slotGet (slotPut c n g) n = some g := by
  unfold slotGet slotPut
  dsimp only
  rw [find_kvInsert]
  rfl

theorem slotGet_slotClear (c : Core) (n : Nat) : slotGet (slotClear c n) n = none := by
  unfold slotGet slotClear
  dsimp only
  rw [List.find?_eq_none.mpr fun e he => ?_]
  · rfl
  · simpa using (List.mem_filter.mp he).2

section
variable {p : Fin 72} {e : Entry} {o : OpV} {x : State} {a : Nat}

/-- What VCHLD leaves where it refuses its program. -/
def chainRefused (p : Fin 72) (x : State) (slot : Nat) (f : Flt) : RunOut := ranFault (x.modCore p fun c => slotClear c slot) f

/-- The address of a program's header can be read. -/
def HeaderReads (x : State) (p : Fin 72) (a : Nat) : Prop := a % 64 = 0 ∧ ownGallery x p a 128 = true

theorem ownSpan_of_gallery {len : Nat} (h : ownGallery x p a len = true) : ownSpan x p a len = true := (Bool.and_eq_true_iff.mp h).1

theorem runVchld_unreadable (h : ¬ HeaderReads x p e.b.toNat) : runVchld p e o x = chainRefused p x o.fx.toNat (chainFormatFlt o.fx.toNat 5 0xFF) := by
  unfold runVchld
  refine if_pos ?_
  rw [Bool.or_eq_true, decide_eq_true_eq, Bool.not_eq_true']
  by_cases ha : e.b.toNat % 64 = 0
  · exact .inr (Bool.eq_false_iff.mpr fun hg => h ⟨ha, hg⟩)
  · exact .inl ha

/-- The length of a program, from its header. -/
def chainLen (x : State) (a : Nat) : Nat := 128 + 16 * ((chainParse (readBytes x a 128)).pro + (chainParse (readBytes x a 128)).epi)

/-- VCHLD once its program is read. -/
def runBody (p : Fin 72) (x : State) (slot : Nat) (bs : List Byte) : RunOut :=
  match chainBad p x slot bs (chainParse bs) with
  | some f => chainRefused p x slot f
  | none => ranOk (x.modCore p fun c => slotPut c slot (chainParse bs))

/-- VCHLD once its header is read. -/
def runHeader (p : Fin 72) (x : State) (slot a : Nat) : RunOut :=
  if headerBad1 (readBytes x a 128) (chainParse (readBytes x a 128)) then chainRefused p x slot (chainFormatFlt slot 1 0xFF)
  else if !ownGallery x p a (chainLen x a) then chainRefused p x slot (chainFormatFlt slot 5 0xFF)
  else runBody p x slot (readBytes x a (chainLen x a))

theorem runVchld_reads (hs : StorageGood x) (h : HeaderReads x p e.b.toNat) : runVchld p e o x = runHeader p x o.fx.toNat e.b.toNat := by
  obtain ⟨ha, hg⟩ := h
  unfold runVchld
  dsimp only
  rw [if_neg (by rw [hg]; simp [ha]), devRead_own hs _ (ownSpan_of_gallery hg)]
  dsimp only
  unfold runHeader chainLen chainRefused
  split
  · rfl
  · split
    · rfl
    · next hlen =>
      rw [Bool.not_eq_true', Bool.not_eq_false] at hlen
      rw [devRead_own hs _ (ownSpan_of_gallery hlen)]
      unfold runBody chainRefused
      dsimp only [Option.none_or] <;> cases chainBad p x o.fx.toNat _ _ <;> rfl

end

theorem chainLen_atStart {op : CoreOp} {args : Args} {k : Ctl} {g : Engine} {s : State} (a : Nat) :
    chainLen (atStart op args k g s) a = chainLen s a := by
  unfold chainLen
  rw [readBytes_atStart]

/-- Settles O26: a program in the core's own gallery is read without an error, so that the checks run on the stored bytes. -/
theorem vchldRow : Obligations.VchldRow := by
  unfold Obligations.VchldRow
  intro k o s h hs x slot a g0 len g refused reads
  have hx := storageGood_atStart h hs
  have hrefused : ∀ f, runVchld k.core (issuedEntry .vchld (.v o) k s) o x = chainRefused k.core x slot f → refused f := fun f hr =>
    ranToFault_of h rfl hr rfl
  have hhead : readBytes x a 128 = readBytes s a 128 := readBytes_atStart a 128
  have hlen : chainLen x a = len := chainLen_atStart a
  have hbody : readBytes x a len = readBytes s a len := readBytes_atStart a len
  have hrun : reads → runVchld k.core (issuedEntry .vchld (.v o) k s) o x = runHeader k.core x slot a := fun hr => runVchld_reads hx hr
  unfold runHeader at hrun
  rw [hhead, hlen, hbody] at hrun
  have hloads : reads → headerBad1 (readBytes s a 128) g0 = false → ownGallery x k.core a len = true →
      runVchld k.core (issuedEntry .vchld (.v o) k s) o x = runBody k.core x slot (readBytes s a len) := fun hr hb hg =>
    (hrun hr).trans ((if_neg (ne_true_of_eq_false hb)).trans (if_neg (by rw [hg]; decide)))
  refine ⟨fun hr => ?_, fun hr hb => ?_, fun hr hb hg => ?_, fun hr hb hg => ⟨fun f hf => ?_, fun hf => ?_⟩, ?_⟩
  · exact hrefused _ (runVchld_unreadable hr)
  · exact hrefused _ ((hrun hr).trans (if_pos hb))
  · exact hrefused _ ((hrun hr).trans ((if_neg (ne_true_of_eq_false hb)).trans (if_pos (by rw [hg]; decide))))
  · refine hrefused f ((hloads hr hb hg).trans ?_)
    unfold runBody
    rw [hf]
  · refine ranTo_of h rfl ((hloads hr hb hg).trans ?_) rfl
    unfold runBody
    rw [hf]
    rfl
  · exact ⟨slotGet_slotClear _ _, slotGet_slotPut _ _ _⟩

end Sys2Proof.Machine


/-! # MSEGT and MLOADS (O32, O33) -/

namespace Sys2Proof.Machine

/-- An instruction of the matrix engine. -/
theorem runEntry_matrix {op : CoreOp} {o : OpM} {k : Ctl} {s x : State} {p : Fin 72} {y : RunOut}
    (hr : runEntry p (issuedEntry op (.m o) k s) x = runMatrix p (issuedEntry op (.m o) k s) o x)
    (hm : runMatrix p (issuedEntry op (.m o) k s) o x = y) : runEntry p (issuedEntry op (.m o) k s) x = y := hr.trans hm

section
variable {op : CoreOp} {args : Args} {k : Ctl} {g : Engine} {s : State}

theorem atStart_mat (h : StartsNow op args k g s) : ((atStart op args k g s).core k.core).mat = (s.core k.core).mat := by
  obtain ⟨_, _, _, _, _, _, _, _, _, _, hd⟩ := (atStart_core h).exists_front
  rw [hd]

end

theorem meAddrOk_iff {s : State} {p : Fin 72} {a len align : Nat} : meAddrOk s p a len align = true ↔ a % align = 0 ∧ ownSpan s p a len = true := by
  unfold meAddrOk
  rw [Bool.and_eq_true, decide_eq_true_eq]

/-- Runs of equal length of a span. -/
theorem chunks_readBytes (s : State) (n : Nat) (k : Nat) : ∀ a len, n * k ≤ len →
    chunks n k (readBytes s a len) = (List.range k).map fun i => readBytes s (a + n * i) n := by
  induction k with
  | zero => exact fun _ _ _ => rfl
  | succ k ih =>
    intro a len hle
    rw [Nat.mul_succ] at hle
    obtain ⟨m, rfl⟩ : ∃ m, len = n + m := ⟨len - n, by omega⟩
    unfold chunks
    rw [← readBytes_append, List.take_left' (readBytes_length s a n), List.drop_left' (readBytes_length s a n), ih _ _ (by omega),
      List.range_succ_eq_map, List.map_cons, List.map_map]
    refine congrArg₂ List.cons (by rw [Nat.mul_zero, Nat.add_zero]) (List.map_congr_left fun i _ => ?_)
    show readBytes s (a + n + n * i) n = readBytes s (a + n * (i + 1)) n
    rw [Nat.mul_succ]
    congr 1
    omega

/-! ## MSEGT (R97, R98) -/

/-- The entries of a segment table. -/
def segWords (s : State) (a n : Nat) : List (W64 × W64) := (List.range n).map fun i =>
  (BitVec.ofNat 64 (leNat (readBytes s (a + 16 * i) 8)), BitVec.ofNat 64 (leNat (readBytes s (a + 16 * i + 8) 8)))

theorem segWords_chunks (s : State) (a n : Nat) : ((chunks 16 n (readBytes s a (16 * n))).map fun b =>
    (BitVec.ofNat 64 (fieldAt b 0 8), BitVec.ofNat 64 (fieldAt b 8 8))) = segWords s a n := by
  rw [chunks_readBytes s 16 n a _ (Nat.le_refl _), List.map_map]
  refine List.map_congr_left fun i _ => ?_
  show (BitVec.ofNat 64 (leNat (slice (readBytes s (a + 16 * i) 16) 0 8)), BitVec.ofNat 64 (leNat (slice (readBytes s (a + 16 * i) 16) 8 8))) = _
  rw [readBytes_slice _ _ _ _ _ (by decide), readBytes_slice _ _ _ _ _ (by decide)]
  rfl

section
variable {p : Fin 72} {e : Entry} {x : State}

/-- MSEGT once its entries are read. -/
def segDone (p : Fin 72) (x : State) (ws : List (W64 × W64)) : RunOut :=
  match ws.findIdx? (segBad p x) with
  | some i => ranFault (setMat x p { clearPreload (x.core p).mat with segt := [], cursor := 0 }) (segEntryFlt i)
  | none => ranOk ((setMat x p { clearPreload (x.core p).mat with segt := ws, cursor := 0 }).modCore p fun c => Core.clean c fun q => match q with
    | .segt _ => true
    | _ => false)

theorem runMsegt_reads (hs : StorageGood x) (ha : e.a.toNat % 16 = 0) (ho : ownSpan x p e.a.toNat (16 * e.b.toNat) = true) :
    runMsegt p e x = segDone p x (segWords x e.a.toNat e.b.toNat) := by
  unfold runMsegt
  dsimp only
  rw [if_neg (by rw [meAddrOk_iff.mpr ⟨ha, ho⟩]; decide), devRead_own hs _ ho, segWords_chunks]
  rfl

/-- A write of a core that held no error clears none. -/
theorem setMat_clean_free (h : eccFree (x.core p) = true) (m : MatState) (f : Place → Bool) :
    (setMat x p m).modCore p (fun c => Core.clean c f) = setMat x p m := by
  unfold setMat
  rw [modCore_modCore]
  exact modCore_congr x p (clean_free (c := { x.core p with mat := m }) h f)

end

/-- Settles O33: the table is read without an error, and its entries are checked in their order. -/
theorem msegtRow : Obligations.MsegtRow := by
  unfold Obligations.MsegtRow
  intro k o s h hs e x p m a n ws ha ho
  have hwords : segWords x a n = ws := by
    show segWords x a n = segWords s a n
    unfold segWords
    simp only [show ∀ b l, readBytes x b l = readBytes s b l from readBytes_atStart]
  have hmat : clearPreload (x.core p).mat = m := congrArg clearPreload (atStart_mat h)
  have hrun : runMatrix p e o x = segDone p x ws := (runMsegt_reads (storageGood_atStart h hs) ha ho).trans (by rw [hwords])
  unfold segDone at hrun
  refine ⟨fun hbad => ?_, fun i hbad => ?_⟩
  · rw [show ws.findIdx? (segBad p x) = none from hbad] at hrun
    dsimp only at hrun
    rw [setMat_clean_free (atStart_free h), hmat] at hrun
    exact ranTo_of h rfl (runEntry_matrix rfl hrun) rfl
  · rw [show ws.findIdx? (segBad p x) = some i from hbad, hmat] at hrun
    exact ranToFault_of h rfl (runEntry_matrix rfl hrun) rfl

/-! ## MLOADS (R87, R92 to R96, R196, R197, R477) -/

/-- The columns of a dense set. -/
def denseCols (w : ETy) (bs : List Byte) : List (List W32) := (chunks (setBytes w / 64) 64 bs).map fun c => (elemsOf w c).map (widenW w)

/-- The columns of a set that is expanded by its metadata. -/
def sparseCols (w : ETy) (cols : List (List W32)) (codes : List Nat) : List (List W32) :=
  (cols.zip (chunks (metaBytes w * 2 / 64) 64 codes)).map fun c => expandCol c.1 c.2

/-- A set that a load at `a` brings. -/
def loadedSet (w : ETy) (wfmt : BitVec 4) (sp24 : Bool) (a : Nat) (cols : List (List W32)) : MatSet :=
  { valid := true, sp24 := sp24, wfmt := wfmt, entry := 0, src := BitVec.ofNat 48 a, cols := cols, sums := cols.map (colSum w) }

section
variable {p : Fin 72} {w : ETy} {wfmt : BitVec 4} {a md : Nat} {x : State}

theorem loadSet_outside (sp24 : Bool) (h : ¬ (a % 256 = 0 ∧ ownSpan x p a (setBytes w) = true)) :
    loadSet p w wfmt sp24 a md 0 x = (x, .error (operandAddrFlt a)) := by
  unfold loadSet
  refine if_pos ?_
  rw [Bool.not_eq_true']
  exact Bool.eq_false_iff.mpr fun hm => h (meAddrOk_iff.mp hm)

theorem loadSet_dense (hs : StorageGood x) (ha : a % 256 = 0) (ho : ownSpan x p a (setBytes w) = true) :
    loadSet p w wfmt false a md 0 x = (x, .ok (loadedSet w wfmt false a (denseCols w (readBytes x a (setBytes w))))) := by
  unfold loadSet
  dsimp only
  rw [if_neg (by rw [meAddrOk_iff.mpr ⟨ha, ho⟩]; decide), devRead_own hs _ ho]
  rfl

theorem loadSet_sparse (hs : StorageGood x) (ha : a % 256 = 0) (ho : ownSpan x p a (setBytes w) = true) (hm : md % 64 = 0)
    (hmo : ownSpan x p md (metaBytes w) = true) (hok : ∀ q ∈ codesOf (readBytes x md (metaBytes w)), q % 4 < q / 4) :
    loadSet p w wfmt true a md 0 x = (x, .ok (loadedSet w wfmt true a
      (sparseCols w (denseCols w (readBytes x a (setBytes w))) (codesOf (readBytes x md (metaBytes w)))))) := by
  have hcodes : (codesOf (readBytes x md (metaBytes w))).findIdx? (fun q => !codeOk q) = none := by
    rw [List.findIdx?_eq_none_iff]
    intro q hq
    unfold codeOk
    rw [decide_eq_true (hok q hq)]
    rfl
  unfold loadSet
  dsimp only
  rw [if_neg (by rw [meAddrOk_iff.mpr ⟨ha, ho⟩]; decide), devRead_own hs _ ho]
  dsimp only
  rw [if_neg (by decide), if_neg (by rw [meAddrOk_iff.mpr ⟨hm, hmo⟩]; decide), devRead_own hs _ hmo]
  dsimp only
  rw [hcodes]
  rfl

/-- The columns of a set, from its bytes and its codes. -/
def setCols (w : ETy) (sp24 : Bool) (bs : List Byte) (codes : List Nat) : List (List W32) :=
  if sp24 then sparseCols w (denseCols w bs) codes else denseCols w bs

theorem loadSet_own (sp24 : Bool) (hs : StorageGood x) (ha : a % 256 = 0) (ho : ownSpan x p a (setBytes w) = true)
    (hm : sp24 = true → md % 64 = 0 ∧ ownSpan x p md (metaBytes w) = true ∧ ∀ q ∈ codesOf (readBytes x md (metaBytes w)), q % 4 < q / 4) :
    loadSet p w wfmt sp24 a md 0 x =
      (x, .ok (loadedSet w wfmt sp24 a (setCols w sp24 (readBytes x a (setBytes w)) (codesOf (readBytes x md (metaBytes w)))))) := by
  cases sp24 with
  | false => exact loadSet_dense hs ha ho
  | true =>
    obtain ⟨hmd, hmo, hok⟩ := hm rfl
    exact loadSet_sparse hs ha ho hmd hmo hok

variable {e : Entry} {o : OpM} {y : MatSet} {f : Flt}

theorem putShadow_free (h : eccFree (x.core p) = true) (y : MatSet) : putShadow x p y = setMat x p { (x.core p).mat with shad := y } := by
  unfold putShadow
  exact modCore_congr x p (clean_free (c := { x.core p with mat := { (x.core p).mat with shad := y } }) h _)

theorem runMloads_loads (h : eccFree (x.core p) = true)
    (hl : loadSet p (tyOf o.wfmt) o.wfmt o.sp24 e.a.toNat e.c.toNat 0 x = (x, .ok y)) :
    runMloads p e o x = ranOk (setMat x p { (x.core p).mat with shad := y }) := by
  unfold runMloads
  dsimp only
  rw [hl, ← putShadow_free h]

theorem runMloads_refused (hl : loadSet p (tyOf o.wfmt) o.wfmt o.sp24 e.a.toNat e.c.toNat 0 x = (x, .error f)) :
    runMloads p e o x = ranFault (setMat x p { (x.core p).mat with shad := { (x.core p).mat.shad with valid := false, preload := false } }) f := by
  unfold runMloads
  dsimp only
  rw [hl]
  rfl

end

/-- Settles O32: the set and its metadata are read without an error; an address that is not the core's own leaves the shadow set invalid. -/
theorem mloadsRow : Obligations.MloadsRow := by
  unfold Obligations.MloadsRow
  intro k o s h hs e x p m w a md dense codes cols own
  have hx := storageGood_atStart h hs
  have hset : readBytes x a (setBytes w) = readBytes s a (setBytes w) := readBytes_atStart _ _
  have hmeta : readBytes x md (metaBytes w) = readBytes s md (metaBytes w) := readBytes_atStart _ _
  have hmat : (x.core p).mat = m := atStart_mat h
  refine ⟨fun ⟨ha, ho⟩ hsp => ?_, fun hown => ?_⟩
  · have hload := loadSet_own (wfmt := o.wfmt) o.sp24 hx ha ho (by rw [hmeta]; exact hsp)
    rw [hset, hmeta] at hload
    have hrun := runMloads_loads (atStart_free h) hload
    rw [show ((atStart .mloads (.m o) k .me s).core k.core).mat = m from hmat] at hrun
    exact ranTo_of h rfl (runEntry_matrix rfl hrun) rfl
  · have hrun := runMloads_refused (loadSet_outside (p := p) (x := x) (md := md) (wfmt := o.wfmt) o.sp24 hown)
    rw [hmat] at hrun
    exact ranToFault_of h rfl (runEntry_matrix rfl hrun) rfl

end Sys2Proof.Machine


/-! # A copy between views whose elements differ in size (O37) -/

namespace Sys2Proof.Machine

/-- A source of four-byte elements with no position: every read of it gives the fill value. -/
def wideView : View :=
  { handle := 0, base := 0, entry := 0, kind := 1, wr := true, desc :=
      { inv := 0, typeCode := 0, ndim := 1, swz := 0, oob := 0, offset := 0, fill := 0x0101, padval := 0, padlo := [], padhi := [],
        size := [0], stride := [1] } }

/-- A destination of one element of one byte, at address 0. -/
def byteView : View := { wideView with desc := { wideView.desc with typeCode := 3, size := [1] } }

theorem byteView_esize : byteView.desc.esize = 1 := by decide +kernel

theorem byteView_places : byteView.desc.logical.all (fun x => match byteView.desc.writePlace x with
    | .data y _ => decide (byteView.addr y = 0)
    | _ => true) = true := by decide +kernel

/-- The copy writes the whole fill value, the byte after the destination's element with it. -/
theorem wideCopy_spills : byteAt (copyViews .ring wideView byteView false State.reset).st 1 = 1 := by decide +kernel

/-- Refutes O37: the statement leaves out the check of the types (R256), and a copy writes as many bytes as an element of the source has, so that
one from a view of four-byte elements into a view of one-byte elements writes the three bytes after each of the destination's. -/
theorem not_copyFrame : ¬ Obligations.CopyFrame := by
  unfold Obligations.CopyFrame
  intro h
  have hplaces : ∀ x ∈ byteView.desc.logical, ∀ y o, byteView.desc.writePlace x = .data y o →
      1 < byteView.addr y ∨ byteView.addr y + byteView.desc.esize ≤ 1 := by
    intro x hx y o hw
    have hy := List.all_eq_true.mp byteView_places x hx
    rw [hw] at hy
    rw [byteView_esize, of_decide_eq_true hy]
    exact .inr (Nat.le_refl 1)
  have hframe := h .ring wideView byteView false State.reset 1 (Sys2Proof.Tests.canonical_of (by decide +kernel)) (by decide +kernel) rfl rfl hplaces
  rw [wideCopy_spills] at hframe
  exact absurd hframe (by decide +kernel)

end Sys2Proof.Machine


/-! # Views: what the use of a descriptor changes -/

namespace Sys2Proof.Machine

/-! ## Places depend on the maps and the owners alone -/

theorem placeErr_congr {s t : State} (h : SamePlaces s t) (ho : ∀ n, n < 64 → t.rget .vtrOwn 0 n = s.rget .vtrOwn 0 n) (m : Master) (a : Nat) :
    placeErr m t a = placeErr m s a := by
  have hlog (p : Fin 72) : logicalOf t p = logicalOf s p := by
    unfold logicalOf
    rw [h.map]
  have howner : m.owner t = m.owner s := by cases m <;> simp only [Master.owner, hlog]
  unfold placeErr physOf
  rw [h.memTop, h.map, howner]
  split
  · rfl
  · cases hg : galOf a with
    | none => rfl
    | some x =>
      have hbank : bankOwner t x.1 = bankOwner s x.1 := congrArg (bitsN · 0 8) (ho x.1 (galOf_lt hg))
      dsimp only
      rw [hbank]

theorem placeErrSpan_congr {s t : State} (h : SamePlaces s t) (ho : ∀ n, n < 64 → t.rget .vtrOwn 0 n = s.rget .vtrOwn 0 n) (m : Master) (a len : Nat) :
    placeErrSpan m t a len = placeErrSpan m s a len := by
  unfold placeErrSpan
  exact congrArg (fun f => (spanBlocks a len).findSome? f) (funext fun b => placeErr_congr h ho m b)

theorem OnlyCaches.placeErrSpan {p : Fin 72} {s t : State} (h : OnlyCaches p s t) (m : Master) (a len : Nat) :
    placeErrSpan m t a len = placeErrSpan m s a len :=
  placeErrSpan_congr (.caches h) (fun _ _ => by rw [h.same]; rfl) m a len

/-! ## The use of a descriptor (R248, R257) -/

/-- A state that differs from another in the counters of the descriptors' cache, free values, the lines of the L2 and the lines read that DBG_MEM has
still to count. -/
structure Opened (s t : State) : Prop where
  eq : t = { s with free := t.free, regs := t.regs, vit := { s.vit with l2 := t.vit.l2 }, dbg := { s.dbg with memLag := t.dbg.memLag } }
  reg : ∀ r i n, RegName.at r i n ≠ RegName.layDcacheStat.at 0 0 → t.rget r i n = s.rget r i n
  wf : smapWf regDefault s.regs = true → smapWf regDefault t.regs = true
  lines : (∀ x ∈ s.vit.l2, x.err = none) → ∀ x ∈ t.vit.l2, x.err = none

section
variable {s t u : State}

theorem Opened.refl (s : State) : Opened s s := ⟨rfl, fun _ _ _ _ => rfl, id, id⟩

theorem Opened.trans (h : Opened s t) (k : Opened t u) : Opened s u := by
  refine ⟨?_, fun r i n ha => (k.reg r i n ha).trans (h.reg r i n ha), k.wf ∘ h.wf, k.lines ∘ h.lines⟩
  have hk := k.eq
  generalize u.free = n at *
  generalize u.regs = g at *
  generalize u.vit.l2 = l at *
  generalize u.dbg.memLag = d at *
  rw [hk, h.eq]

theorem OnlyL2.opened (h : OnlyL2 s t) : Opened s t := by
  have he := h.eq
  refine ⟨?_, fun r i n _ => by rw [he]; rfl, by rw [he]; exact id, h.lines⟩
  generalize t.free = n at *
  generalize t.vit.l2 = l at *
  generalize t.dbg.memLag = d at *
  rw [he]

theorem Opened.core (h : Opened s t) (q : Fin 72) : t.core q = s.core q := by rw [h.eq]; rfl
theorem Opened.mem (h : Opened s t) : t.mem = s.mem := by rw [h.eq]
theorem Opened.met (h : Opened s t) : t.vit.met = s.vit.met := by rw [h.eq]

theorem Opened.other (h : Opened s t) {r : RegName} {i n : Nat} (ha : RegName.at r i n < 0x3400020) : t.rget r i n = s.rget r i n :=
  h.reg r i n fun e => by
    rw [show RegName.layDcacheStat.at 0 0 = 0x3400020 from rfl] at e
    omega

theorem Opened.owner (h : Opened s t) {n : Nat} (hn : n < 64) : t.rget .vtrOwn 0 n = s.rget .vtrOwn 0 n := h.other (by
  show 0x2000100 + 0 * 1 + n * 8 < _
  omega)

theorem Opened.places (h : Opened s t) : SamePlaces s t :=
  ⟨by rw [h.eq], by rw [h.eq], fun n hn => h.other (by
    show 0x2000400 + 0 * 1 + n * 8 < _
    omega)⟩

theorem Opened.good (h : Opened s t) (g : StorageGood s) : StorageGood t := by
  have hk : StorageGood { t with vit := s.vit } := by
    refine g.congr (by rw [h.eq]) (by rw [h.eq]) rfl (fun p => congrArg Core.l1Err (h.core p)) (by rw [h.eq]) (by rw [h.eq])
      (fun k hk => h.other (by
        show 0x2400000 + k * 0x4000 + 0 * 1 < _
        omega)) fun n hn => h.owner hn
  exact ⟨hk.mem, hk.gal, h.lines g.lines, hk.l1, hk.ctrl, hk.clock, hk.wipe⟩

theorem Opened.canonical (h : Opened s t) (hc : Canonical s) : Canonical t := ⟨(congrArg memWf h.mem).trans hc.1, h.wf hc.2⟩

theorem Opened.bytes (h : Opened s t) (a n : Nat) : readBytes t a n = readBytes s a n := readBytes_congr h.places h.mem a n

theorem Opened.byteAt (h : Opened s t) (a : Nat) : byteAt t a = Machine.byteAt s a := byteAt_congr h.places h.mem a

theorem Opened.placeErrSpan (h : Opened s t) (m : Master) (a n : Nat) : placeErrSpan m t a n = Machine.placeErrSpan m s a n :=
  placeErrSpan_congr h.places (fun _ hn => h.owner hn) m a n

theorem Opened.coherent (h : Opened s t) {p : Fin 72} (hl : L1Coherent p s) : L1Coherent p t := by
  intro e he
  rw [h.core] at he
  rw [h.bytes]
  exact hl e he

end

/-- A write of what a key does not read as when it is unlisted leaves every other key, in canonical form or not. -/
theorem smapGet_put_listed {β : Type} [DecidableEq β] (d : Nat → β) {k j : Nat} {v : β} (hv : v ≠ d k) (hj : j ≠ k) (l : List (Nat × β)) :
    smapGet d (smapPut d l k v) j = smapGet d l j := by
  induction l with
  | nil =>
    simp only [smapPut, if_neg hv, smapGet, if_neg hj, ite_self]
  | cons e t ih =>
    obtain ⟨k', v'⟩ := e
    rw [smapPut, if_neg hv, if_neg hv]
    split
    · next hlt =>
      rw [smapGet, if_neg hj]
      split
      · next hjk => rw [smapGet, if_pos (Nat.lt_trans hjk hlt)]
      · rfl
    · split
      · next hk =>
        subst hk
        rw [smapGet, if_neg hj, smapGet, if_neg hj]
      · rw [smapGet, smapGet, ih]

/-- A counter that has counted is not zero. -/
theorem countSat_ne_zero (v : W64) (lo : Nat) (hlo : lo = 0 ∨ lo = 32) : setBits v lo 32 (min (bitsN v lo 32 + 1) (2 ^ 32 - 1)) ≠ 0 := by
  intro h
  have hb : bitsN (setBits v lo 32 (min (bitsN v lo 32 + 1) (2 ^ 32 - 1))) lo 32 = 0 := by rw [h]; rcases hlo with rfl | rfl <;> rfl
  rw [bitsN_setBits_same _ _ (by omega)] at hb
  omega

/-- The counters of the descriptors' cache, and the free value that says which of them counts. -/
theorem countRecord_opened (s : State) {lo : Nat} (hlo : lo = 0 ∨ lo = 32) :
    Opened s (({ s with free := s.free + 1 } : State).rcountSat .layDcacheStat 0 0 lo 32 1) := by
  refine ⟨rfl, fun r i n ha => ?_, fun hw => rset_wf (s := { s with free := s.free + 1 }) _ _ _ _ hw, id⟩
  exact smapGet_put_listed _ (countSat_ne_zero _ lo hlo) ha s.regs

theorem readRecord_opened {s : State} (h : StorageGood s) (m : Master) (slot : Nat) :
    Opened s (readRecord m s slot).1 ∧ (readRecord m s slot).2.2 = none := by
  unfold readRecord
  dsimp only
  split
  · exact ⟨countRecord_opened s (.inl rfl), rfl⟩
  · have hcount := countRecord_opened s (.inr rfl)
    obtain ⟨t, ht, ho⟩ := devRead_good (hcount.good h) m (tableBase s + 128 * slot) 128
    rw [ht]
    exact ⟨hcount.trans ho.opened, rfl⟩

theorem viewRead_opened {s : State} (h : StorageGood s) (m : Master) (w : W64) (x : Nat × Nat × InvEntry) :
    Opened s (viewRead m s w x).1 := by
  obtain ⟨ho, he⟩ := readRecord_opened h m x.1
  unfold viewRead
  dsimp only
  rw [he]
  exact ho

/-- The use of a descriptor. -/
theorem openView_opened {s : State} (h : StorageGood s) (m : Master) (w : W64) : Opened s (openView m s w).1 := by
  unfold openView
  split
  · exact .refl s
  · exact viewRead_opened h m w _

/-- The use of two descriptors. -/
theorem openTwo_opened {s : State} (h : StorageGood s) (m : Master) (w1 w2 : W64) : Opened s (openTwo m s w1 w2).1 := by
  unfold openTwo
  split
  · exact .refl s
  · next x1 _ =>
    split
    · exact .refl s
    · next x2 _ =>
      have h1 := viewRead_opened h m w1 x1
      have h2 := h1.trans (viewRead_opened (h1.good h) m w2 x2)
      dsimp only
      split
      · exact h1
      · split
        · exact h2
        · exact h2

end Sys2Proof.Machine


/-! # Copies: reads past the L1, and bytes that are written twice -/

namespace Sys2Proof.Machine

/-! ## A read that allocates in no cache (R233) -/

/-- What one line gives such a read. -/
def throughStep (p : Fin 72) (a len : Nat) (r : State × List Byte × Option Flt) (line : Nat) : State × List Byte × Option Flt :=
  match r.2.2 with
  | some _ => r
  | none =>
    let lo := max a line
    let hi := min (a + len) (line + 64)
    if (r.1.core p).l1.any fun e => e.1 = line then
      let q := l1Line p r.1 line
      (q.1, r.2.1 ++ slice (lineBytes q.2.1) (lo - line) (hi - lo), q.2.2)
    else
      let q := devRead (.core p) r.1 lo (hi - lo)
      (q.1, r.2.1 ++ q.2.1, q.2.2)

theorem readThrough_eq (p : Fin 72) (s : State) (a len : Nat) :
    readThrough p s a len = (spanLines a len).foldl (throughStep p a len) (s, [], none) := rfl

theorem throughStep_hit {p : Fin 72} {a len line : Nat} {s : State} {bs : List Byte} (h : ((s.core p).l1.any fun e => e.1 = line) = true) :
    throughStep p a len (s, bs, none) line = ((l1Line p s line).1,
      bs ++ slice (lineBytes (l1Line p s line).2.1) (max a line - line) (min (a + len) (line + 64) - max a line), (l1Line p s line).2.2) := if_pos h

theorem throughStep_miss {p : Fin 72} {a len line : Nat} {s : State} {bs : List Byte} (h : ¬ ((s.core p).l1.any fun e => e.1 = line) = true) :
    throughStep p a len (s, bs, none) line = ((devRead (.core p) s (max a line) (min (a + len) (line + 64) - max a line)).1,
      bs ++ (devRead (.core p) s (max a line) (min (a + len) (line + 64) - max a line)).2.1,
      (devRead (.core p) s (max a line) (min (a + len) (line + 64) - max a line)).2.2) := if_neg h

section
variable {p : Fin 72} {s0 s : State}

/-- A miss of the L1 meets no error, whatever the L1 holds. -/
theorem l1Miss_reads (h : StorageGood s0) (o : OnlyCaches p s0 s) (line : Nat) :
    ∃ s' x, l1Miss p s line = (s', x, none) ∧ OnlyCaches p s0 s' := by
  obtain ⟨t, ht, hq⟩ := devRead_good (h.caches o) (.core p) line 64
  have o2 : OnlyCaches p s0 (l2Fill t line) := o.trans ((hq.trans (l2Fill_only t line)).caches p)
  have hg := (h.caches o2).l1 p
  unfold l1Miss
  rw [ht]
  refine ⟨_, _, rfl, ?_⟩
  rw [modCore_congr (l2Fill t line) p (g := fun c => { c with l1 := l1Insert c.l1 line (packLine (readBytes s line 64)) })
    (by rw [hg]; simp only [List.filter_nil])]
  exact o2.trans (onlyL1 p _ _)

/-- A line of the L1 meets no error; where the L1 is coherent, it is as main memory has it. -/
theorem l1Line_reads (h : StorageGood s0) (o : OnlyCaches p s0 s) {line : Nat} (hl : line % 64 = 0) :
    ∃ s' x, l1Line p s line = (s', x, none) ∧ OnlyCaches p s0 s' ∧
      (L1Coherent p s → x = packLine (readBytes s0 line 64) ∧ L1Coherent p s') := by
  by_cases hc : L1Coherent p s
  · obtain ⟨s', he, ho, hk⟩ := l1Line_good h o hc hl
    exact ⟨s', _, he, ho, fun _ => ⟨rfl, hk⟩⟩
  · suffices hk : ∃ s' x, l1Line p s line = (s', x, none) ∧ OnlyCaches p s0 s' by
      obtain ⟨s', x, he, ho⟩ := hk
      exact ⟨s', x, he, ho, fun hk => absurd hk hc⟩
    unfold l1Line
    split
    · exact l1Miss_reads h o line
    · rw [(h.caches o).l1 p]
      exact ⟨_, _, rfl, o.trans (onlyL1 p s _)⟩

theorem lineBytes_length (x : BitVec 512) : (lineBytes x).length = 64 := by
  unfold lineBytes
  simp

theorem slice_length {α : Type} {l : List α} {lo len : Nat} (h : lo + len ≤ l.length) : (slice l lo len).length = len := by
  unfold slice
  rw [List.length_take, List.length_drop]
  omega

/-- One line of the read: its part of the span, as memory has it where the L1 is coherent. -/
theorem throughStep_good (h : StorageGood s0) (o : OnlyCaches p s0 s) {a len line : Nat} (hl : line % 64 = 0) (bs : List Byte)
    (hlo : a < line + 64) (hhi : line < a + len) : ∃ s' cs, throughStep p a len (s, bs, none) line = (s', bs ++ cs, none) ∧ OnlyCaches p s0 s' ∧
      cs.length = min (a + len) (line + 64) - max a line ∧
      (L1Coherent p s → cs = readBytes s0 (max a line) (min (a + len) (line + 64) - max a line) ∧ L1Coherent p s') := by
  by_cases hhit : ((s.core p).l1.any fun e => e.1 = line) = true
  · obtain ⟨s', x, he, ho, hk⟩ := l1Line_reads h o hl
    refine ⟨s', _, (throughStep_hit hhit).trans (by rw [he]), ho, slice_length (by rw [lineBytes_length]; omega), fun hc => ?_⟩
    obtain ⟨rfl, hco⟩ := hk hc
    refine ⟨?_, hco⟩
    rw [lineBytes_pack _ (readBytes_length _ _ _), readBytes_slice _ _ _ _ _ (by omega), show line + (max a line - line) = max a line by omega]
  · obtain ⟨t, ht, hq⟩ := devRead_good (h.caches o) (.core p) (max a line) (min (a + len) (line + 64) - max a line)
    refine ⟨t, _, (throughStep_miss hhit).trans (by rw [ht]), o.trans (hq.caches p), readBytes_length _ _ _, fun hc => ⟨?_, hc.l2 hq⟩⟩
    exact o.bytes _ _

/-- The lines of the read from line `b` on. -/
theorem throughSteps_good (h : StorageGood s0) (a len : Nat) (n : Nat) : ∀ b (s : State) (bs : List Byte), OnlyCaches p s0 s → a / 64 ≤ b →
    (0 < n → 64 * (b + n) < a + len + 64) →
    ∃ s' cs, ((List.range n).map fun i => (b + i) * 64).foldl (throughStep p a len) (s, bs, none) = (s', bs ++ cs, none) ∧ OnlyCaches p s0 s' ∧
      cs.length = min (a + len) (64 * (b + n)) - max a (64 * b) ∧
      (L1Coherent p s → cs = readBytes s0 (max a (64 * b)) (min (a + len) (64 * (b + n)) - max a (64 * b)) ∧ L1Coherent p s') := by
  induction n with
  | zero =>
    intro b s bs o hb _
    refine ⟨s, [], by rw [List.append_nil]; rfl, o, ?_, fun hc => ⟨?_, hc⟩⟩
    · rw [List.length_nil]
      omega
    · rw [show min (a + len) (64 * (b + 0)) - max a (64 * b) = 0 by omega]
      rfl
  | succ n ih =>
    intro b s bs o hb hn
    have hn := hn (Nat.succ_pos n)
    obtain ⟨s1, cs1, he1, o1, hl1, hc1⟩ := throughStep_good h o (a := a) (len := len) (line := (b + 0) * 64) (by omega) bs (by omega) (by omega)
    obtain ⟨s2, cs2, he2, o2, hl2, hc2⟩ := ih (b + 1) s1 (bs ++ cs1) o1 (by omega) (fun _ => by omega)
    have hlines : ((List.range (n + 1)).map fun i => (b + i) * 64) = (b + 0) * 64 :: (List.range n).map fun i => (b + 1 + i) * 64 := by
      rw [List.range_succ_eq_map, List.map_cons, List.map_map]
      refine congrArg₂ List.cons rfl (List.map_congr_left fun i _ => ?_)
      show (b + (i + 1)) * 64 = _
      omega
    refine ⟨s2, cs1 ++ cs2, ?_, o2, ?_, fun hc => ?_⟩
    · rw [hlines, List.foldl_cons, he1, he2, List.append_assoc]
    · rw [List.length_append, hl1, hl2]
      omega
    · obtain ⟨rfl, hk1⟩ := hc1 hc
      obtain ⟨rfl, hk2⟩ := hc2 hk1
      refine ⟨?_, hk2⟩
      rw [show max a ((b + 0) * 64) = max a (64 * b) by omega]
      by_cases hz : n = 0
      · subst hz
        rw [show min (a + len) (64 * (b + 1 + 0)) - max a (64 * (b + 1)) = 0 by omega,
          show min (a + len) ((b + 0) * 64 + 64) - max a (64 * b) = min (a + len) (64 * (b + (0 + 1))) - max a (64 * b) by omega]
        exact List.append_nil _
      · rw [show max a (64 * (b + 1)) = max a (64 * b) + (min (a + len) ((b + 0) * 64 + 64) - max a (64 * b)) by omega, readBytes_append]
        congr 1
        omega

/-- A read that allocates in no cache gives as many bytes as it is long, and the bytes of memory where the L1 is coherent. -/
theorem readThrough_good (h : StorageGood s0) (o : OnlyCaches p s0 s) (a len : Nat) : ∃ s' cs, readThrough p s a len = (s', cs, none) ∧
    OnlyCaches p s0 s' ∧ cs.length = len ∧ (L1Coherent p s → cs = readBytes s0 a len ∧ L1Coherent p s') := by
  rw [readThrough_eq]
  unfold spanLines
  split
  · next hz =>
    subst hz
    exact ⟨s, [], rfl, o, rfl, fun hc => ⟨rfl, hc⟩⟩
  · obtain ⟨s', cs, he, ho, hl, hc⟩ := throughSteps_good h a len ((a + len - 1) / 64 - a / 64 + 1) (a / 64) s [] o (Nat.le_refl _) (fun _ => by omega)
    have hspan : min (a + len) (64 * (a / 64 + ((a + len - 1) / 64 - a / 64 + 1))) - max a (64 * (a / 64)) = len := by omega
    rw [hspan] at hl hc
    rw [show max a (64 * (a / 64)) = a by omega] at hc
    exact ⟨s', cs, he, ho, hl, hc⟩

end

end Sys2Proof.Machine


/-! # Copies: the bytes that a finished copy leaves (R256, R262) -/

namespace Sys2Proof.Machine

/-! ## Candidates of a byte -/

/-- A change of the entries of one key leaves those of another. -/
theorem find_map_other {β : Type} (l : List (Nat × β)) {a b : Nat} (v : β) (h : b ≠ a) :
    (l.map fun e => if e.1 = b then (b, v) else e).find? (fun e => e.1 = a) = l.find? fun e => e.1 = a := by
  induction l with
  | nil => rfl
  | cons e t ih =>
    rw [List.map_cons]
    by_cases he : e.1 = b
    · rw [if_pos he, List.find?_cons_of_neg (by simpa using h), List.find?_cons_of_neg (by simpa using fun hea : e.1 = a => h (he.symm.trans hea))]
      exact ih
    · rw [if_neg he]
      by_cases hea : e.1 = a
      · rw [List.find?_cons_of_pos (by simpa using hea), List.find?_cons_of_pos (by simpa using hea)]
      · rw [List.find?_cons_of_neg (by simpa using hea), List.find?_cons_of_neg (by simpa using hea)]
        exact ih

theorem candsAt_add {l : Cands} {a b : Nat} (vs : List Byte) (h : b ≠ a) : candsAt (candsAdd l b vs) a = candsAt l a := by
  unfold candsAt candsAdd
  dsimp only
  refine congrArg (fun o => (Option.map Prod.snd o).getD []) ?_
  split
  · exact find_map_other l _ h
  · rw [List.find?_append, List.find?_cons_of_neg (by simpa using h)]
    simp

/-- An address that no cell names has no candidates. -/
theorem candsAll_none {s : State} {shared : Nat → Bool} {cells : List ((Nat × Byte) × Option Nat)} {a : Nat} (h : ∀ c ∈ cells, c.1.1 ≠ a) (n : Nat) :
    ∀ l, candsAt l a = [] → candsAt (candsAll s shared cells n l) a = [] := by
  have hstep : ∀ l, candsAt (candsStep s shared cells l) a = candsAt l a := by
    unfold candsStep
    induction cells with
    | nil => exact fun l => rfl
    | cons c t ih => exact fun l => (ih (fun d hd => h d (List.mem_cons_of_mem c hd)) _).trans (candsAt_add _ (h c List.mem_cons_self))
  induction n with
  | zero => exact fun l hl => hl
  | succ n ih =>
    intro l hl
    unfold candsAll
    dsimp only
    split
    · exact hl
    · exact ih _ ((hstep l).trans hl)

/-! ## The element that an address keeps -/

/-- One comparison of the search for the winner. -/
def winStep (rank : Nat → Nat) (a : Nat) (b : Option Nat) (c : (Nat × Byte) × Nat) : Option Nat :=
  if c.1.1 = a ∧ b.all (fun k => decide (rank k ≤ rank c.2)) then some c.2 else b

theorem winner_eq (rank : Nat → Nat) (cells : List (Nat × Byte)) (a : Nat) : winner rank cells a = (cells.zipIdx.foldl (winStep rank a) none).getD 0 := rfl

theorem winSteps_found (rank : Nat → Nat) (a : Nat) (l : List ((Nat × Byte) × Nat)) : ∀ b,
    (l.foldl (winStep rank a) b = b ∨ ∃ c ∈ l, l.foldl (winStep rank a) b = some c.2 ∧ c.1.1 = a) ∧
    (b.isSome = true ∨ (∃ c ∈ l, c.1.1 = a) → (l.foldl (winStep rank a) b).isSome = true) := by
  induction l with
  | nil =>
    refine fun b => ⟨.inl rfl, fun h => h.resolve_right ?_⟩
    rintro ⟨c, hc, -⟩
    cases hc
  | cons c t ih =>
    intro b
    obtain ⟨hfrom, hsome⟩ := ih (winStep rank a b c)
    rw [List.foldl_cons]
    have hstep : winStep rank a b c = b ∨ winStep rank a b c = some c.2 ∧ c.1.1 = a := by
      unfold winStep
      split
      · next hc => exact .inr ⟨rfl, hc.1⟩
      · exact .inl rfl
    constructor
    · rcases hfrom with he | ⟨d, hd, he⟩
      · rcases hstep with hb | ⟨hb, ha⟩
        · exact .inl (he.trans hb)
        · exact .inr ⟨c, List.mem_cons_self, he.trans hb, ha⟩
      · exact .inr ⟨d, List.mem_cons_of_mem c hd, he⟩
    · intro h
      apply hsome
      rcases h with hb | ⟨d, hd, ha⟩
      · rcases hstep with he | ⟨he, -⟩
        · exact .inl (by rw [he]; exact hb)
        · exact .inl (by rw [he]; rfl)
      · rcases List.mem_cons.mp hd with rfl | hd
        · left
          cases b with
          | none =>
            unfold winStep
            rw [if_pos ⟨ha, rfl⟩]
            rfl
          | some k =>
            rcases hstep with he | ⟨he, -⟩
            · rw [he]; rfl
            · rw [he]; rfl
        · exact .inr ⟨d, hd, ha⟩

/-- The winner of a named address is a cell that names it. -/
theorem winner_names (rank : Nat → Nat) {cells : List (Nat × Byte)} {a : Nat} (h : ∃ c ∈ cells, c.1 = a) :
    ∃ c, cells[winner rank cells a]? = some c ∧ c.1 = a := by
  obtain ⟨c, hc, ha⟩ := h
  obtain ⟨i, hi⟩ := List.mem_iff_getElem?.mp hc
  obtain ⟨hfrom, hsome⟩ := winSteps_found rank a cells.zipIdx none
  have hs := hsome (.inr ⟨(c, i), List.mem_zipIdx_iff_getElem?.mpr hi, ha⟩)
  rcases hfrom with he | ⟨d, hd, he, hda⟩
  · rw [he] at hs
    cases hs
  · refine ⟨d.1, ?_, hda⟩
    rw [winner_eq, he]
    exact List.mem_zipIdx_iff_getElem?.mp hd

/-! ## Cells that settle -/

/-- Settling draws free values alone. -/
theorem settleCells_state (s : State) (mv : Moving) (n : Nat) : ∃ k, (settleCells s mv n).1 = { s with free := k } := by
  unfold settleCells
  dsimp only
  split
  · exact ⟨s.free, rfl⟩
  · exact ⟨_, rfl⟩

theorem settleCells_length (s : State) (mv : Moving) (n : Nat) : (settleCells s mv n).2.length = mv.cells.length := by
  unfold settleCells
  dsimp only
  split
  · rfl
  · exact List.length_map _

/-- Every address that a copy writes is named by a settled cell. -/
theorem settleCells_names (s : State) (mv : Moving) (n : Nat) : ∀ d ∈ mv.cells, ∃ c ∈ (settleCells s mv n).2, c.1 = d.1 := by
  unfold settleCells
  dsimp only
  split
  · exact fun c hc => ⟨c, hc, rfl⟩
  · exact fun d hd => ⟨_, List.mem_map_of_mem hd, rfl⟩

/-- A copy that writes no byte that it reads. -/
structure WritesApart (mv : Moving) (n : Nat) : Prop where
  shared : ∀ c ∈ mv.cells, readsByte mv.read n c.1 = false
  origin : ∀ a, some a ∈ mv.origin → ∀ c ∈ mv.cells, c.1 ≠ a
  length : mv.origin.length = mv.cells.length

/-- Where a copy writes no byte that it reads, every settled cell is one that an element has written. -/
theorem settleCells_kept (s : State) {mv : Moving} {n : Nat} (h : WritesApart mv n) : ∀ c ∈ (settleCells s mv n).2, c ∈ mv.cells := by
  unfold settleCells
  dsimp only
  split
  · exact fun c hc => hc
  · intro c hc
    obtain ⟨d, hd, rfl⟩ := List.mem_map.mp hc
    obtain ⟨e, he, hea⟩ := winner_names (fun i => (Config.freeValue (s.free + i / n)).toNat) ⟨d, hd, rfl⟩
    generalize winner _ mv.cells d.1 = i at he
    have hmem : e ∈ mv.cells := List.mem_of_getElem? he
    obtain ⟨hi, hget⟩ := List.getElem?_eq_some_iff.mp he
    have hio : i < mv.origin.length := by rw [h.length]; exact hi
    have hall : (mv.cells.zip mv.origin).getD i (d, none) = (e, mv.origin[i]) := by
      rw [List.getD_eq_getElem _ _ (by rw [List.length_zip]; omega), List.getElem_zip, hget]
    rw [hall]
    have hvals : cellVals s (readsByte mv.read n) (candsAll s (readsByte mv.read n) (mv.cells.zip mv.origin) mv.cells.length []) (e, mv.origin[i]) = [e.2] := by
      unfold cellVals
      dsimp only
      rw [h.shared e hmem, if_neg Bool.false_ne_true, List.append_nil]
      refine congrArg (e.2 :: ·) ?_
      cases ho : mv.origin[i] with
      | none => rfl
      | some a =>
        refine candsAll_none (fun c hc => ?_) _ _ rfl
        exact h.origin a (ho ▸ List.getElem_mem hio) c.1 (List.of_mem_zip hc).1
    rw [hvals, List.length_singleton, Nat.mod_one]
    show (d.1, e.2) ∈ mv.cells
    rw [← hea]
    exact hmem

end Sys2Proof.Machine


/-! # Fills: CFILL and CABOUT (O38) -/

namespace Sys2Proof.Machine

/-! ## What a run of writes leaves, byte by byte -/

theorem byteAt_putCells_unnamed (cells : List (Nat × Byte)) : ∀ {s : State}, memWf s.mem = true → ∀ {a : Nat}, (∀ c ∈ cells, c.1 ≠ a) →
    byteAt (putCells s cells) a = byteAt s a := by
  induction cells with
  | nil => exact fun _ _ _ => rfl
  | cons c t ih =>
    intro s hw a h
    exact (ih (putByte_wf _ _ hw) fun d hd => h d (List.mem_cons_of_mem c hd)).trans (byteAt_putByte_else hw _ (h c List.mem_cons_self))

/-- An address that some cells name holds the byte of one of them. -/
theorem byteAt_putCells_named (cells : List (Nat × Byte)) : ∀ {s : State}, memWf s.mem = true → ∀ {a : Nat}, byteKey s a ≠ none →
    (∃ c ∈ cells, c.1 = a) → ∃ c ∈ cells, c.1 = a ∧ byteAt (putCells s cells) a = c.2 := by
  induction cells with
  | nil =>
    rintro s _ a _ ⟨c, hc, -⟩
    cases hc
  | cons c t ih =>
    intro s hw a hk h
    by_cases ht : ∃ d ∈ t, d.1 = a
    · obtain ⟨d, hd, hda, hb⟩ := ih (s := putByte s c.1 c.2) (putByte_wf _ _ hw) (by rw [byteKey_putByte]; exact hk) ht
      exact ⟨d, List.mem_cons_of_mem c hd, hda, hb⟩
    · obtain ⟨d, hd, hda⟩ := h
      rcases List.mem_cons.mp hd with rfl | hd
      · refine ⟨d, List.mem_cons_self, hda, ?_⟩
        obtain ⟨k, hk⟩ := Option.ne_none_iff_exists'.mp hk
        refine (byteAt_putCells_unnamed t (putByte_wf _ _ hw) fun c hc hca => ht ⟨c, hc, hca⟩).trans ?_
        rw [← hda] at hk ⊢
        exact byteAt_putByte_same _ hw hk
      · exact absurd ⟨d, hd, hda⟩ ht

theorem mem_cellsAt_getD {a : Nat} {bs : List Byte} {c : Nat × Byte} : c ∈ cellsAt a bs ↔ ∃ i, i < bs.length ∧ c = (a + i, bs.getD i 0) := by
  unfold cellsAt
  rw [List.mem_mapIdx]
  constructor
  · rintro ⟨i, hi, rfl⟩
    exact ⟨i, hi, by rw [List.getD_eq_getElem _ _ hi]⟩
  · rintro ⟨i, hi, rfl⟩
    exact ⟨i, hi, by rw [List.getD_eq_getElem _ _ hi]⟩

theorem cellsAt_length (a : Nat) (bs : List Byte) : (cellsAt a bs).length = bs.length := by
  unfold cellsAt
  exact List.length_mapIdx

/-- The cells of a list of elements. -/
def runCells (l : List (Nat × List Byte)) : List (Nat × Byte) := l.flatMap fun e => cellsAt e.1 e.2

theorem mem_runCells {l : List (Nat × List Byte)} {c : Nat × Byte} :
    c ∈ runCells l ↔ ∃ e ∈ l, ∃ i, i < e.2.length ∧ c = (e.1 + i, e.2.getD i 0) := by
  unfold runCells
  rw [List.mem_flatMap]
  exact exists_congr fun e => and_congr_right fun _ => mem_cellsAt_getD

theorem runCells_append (l m : List (Nat × List Byte)) : runCells (l ++ m) = runCells l ++ runCells m := List.flatMap_append

theorem runCells_length {l : List (Nat × List Byte)} {n : Nat} (h : ∀ e ∈ l, e.2.length = n) : (runCells l).length = n * l.length := by
  induction l with
  | nil => rfl
  | cons e t ih =>
    show (cellsAt e.1 e.2 ++ runCells t).length = _
    rw [List.length_append, cellsAt_length, h e List.mem_cons_self, ih fun d hd => h d (List.mem_cons_of_mem e hd), List.length_cons, Nat.mul_succ,
      Nat.add_comm]

/-- Two states that hold the same bytes before a write. -/
theorem HoldsElems.congr {s s' t : State} {l : List (Nat × List Byte)} (h : HoldsElems s t l) (hb : ∀ a, byteAt s a = byteAt s' a) :
    HoldsElems s' t l := by
  obtain ⟨hin, hout⟩ := h
  exact ⟨hin, fun a ha => (hout a ha).trans (hb a)⟩

/-- Cells that leave at every address of some elements the byte of one of them. -/
theorem holdsElems_of {s t : State} {l : List (Nat × List Byte)} {cells : List (Nat × Byte)} (hkept : ∀ c ∈ cells, c ∈ runCells l)
    (hnames : ∀ d ∈ runCells l, ∃ c ∈ cells, c.1 = d.1) (hplaced : ∀ d ∈ runCells l, byteKey s d.1 ≠ none)
    (hother : ∀ a, (∀ c ∈ cells, c.1 ≠ a) → byteAt t a = byteAt s a)
    (hnamed : ∀ a, byteKey s a ≠ none → (∃ c ∈ cells, c.1 = a) → ∃ c ∈ cells, c.1 = a ∧ byteAt t a = c.2) : HoldsElems s t l := by
  refine ⟨fun e he i hi => ?_, fun a ha => hother a fun c hc hca => ?_⟩
  · have hd : (e.1 + i, e.2.getD i 0) ∈ runCells l := mem_runCells.mpr ⟨e, he, i, hi, rfl⟩
    obtain ⟨c, hc, hca, hb⟩ := hnamed (e.1 + i) (hplaced _ hd) (hnames _ hd)
    obtain ⟨f, hf, j, hj, rfl⟩ := mem_runCells.mp (hkept c hc)
    exact ⟨f, hf, j, hj, hca, hb⟩
  · obtain ⟨e, he, i, hi, rfl⟩ := mem_runCells.mp (hkept c hc)
    have := ha e he
    dsimp only at hca
    omega

/-! ## The writes of a copy (R233) -/

theorem writeThrough_good {s : State} (h : StorageGood s) (hc : Canonical s) (p : Fin 72) (cells : List (Nat × Byte)) :
    writeThrough p s cells = (storeWritten p s cells, none, cells.length) := by
  unfold writeThrough
  rw [devWriteN_good h hc.2]
  rfl

section
variable {s : State} {p : Fin 72} {cells : List (Nat × Byte)}

/-- What is written before the caches take it. -/
theorem byteAt_storeWritten (a : Nat) :
    byteAt (storeWritten p s cells) a = byteAt (putCells (noteOut (.core p) (countLines s cells) cells) cells) a := by
  unfold storeWritten l1Update
  exact byteAt_modCore _ _ _ _

theorem noteCount_same (hc : Canonical s) : SamePlaces s (noteOut (.core p) (countLines s cells) cells) ∧
    (noteOut (.core p) (countLines s cells) cells).mem = s.mem := by
  have hperf := countLines_perf hc.2 cells
  rw [noteOut_cores]
  obtain ⟨hmap, hmm, hswz⟩ := hperf.places
  exact ⟨⟨hmap, hmm, hswz⟩, by rw [hperf.eq]⟩

theorem storeWritten_unnamed (hc : Canonical s) {a : Nat} (h : ∀ c ∈ cells, c.1 ≠ a) : byteAt (storeWritten p s cells) a = byteAt s a := by
  obtain ⟨hplaces, hmem⟩ := noteCount_same (p := p) (cells := cells) hc
  rw [byteAt_storeWritten, byteAt_putCells_unnamed cells (by rw [hmem]; exact hc.1) h, byteAt_congr hplaces hmem]

theorem storeWritten_named (hc : Canonical s) {a : Nat} (hk : byteKey s a ≠ none) (h : ∃ c ∈ cells, c.1 = a) :
    ∃ c ∈ cells, c.1 = a ∧ byteAt (storeWritten p s cells) a = c.2 := by
  obtain ⟨hplaces, hmem⟩ := noteCount_same (p := p) (cells := cells) hc
  rw [byteAt_storeWritten]
  exact byteAt_putCells_named cells (by rw [hmem]; exact hc.1) (by rw [hplaces.byteKey]; exact hk) h

theorem storeWritten_vit (hc : Canonical s) : (storeWritten p s cells).vit = s.vit :=
  (putCells_vit (noteOut (.core p) (countLines s cells) cells) cells).trans (by rw [noteOut_cores, (countLines_perf hc.2 cells).eq])

end

/-! ## A running copy -/

/-- A copy of core `p` that has met no error has noted the elements `l`; its reads have changed the caches alone. -/
structure Copying (p : Fin 72) (s : State) (mv : Moving) (l : List (Nat × List Byte)) : Prop where
  err : mv.err = none
  caches : OnlyCaches p s mv.st
  cells : mv.cells = runCells l
  origin : mv.origin.length = mv.cells.length

/-- What a copy leaves that has noted the elements `l` of `k` bytes each: their bytes where it writes no byte that it reads. -/
structure Finished (s : State) (mv : Moving) (n k : Nat) (l : List (Nat × List Byte)) (out : CopyOut) : Prop where
  eq : out = { st := out.st, sticky := mv.sticky, bytes := k * l.length }
  met : out.st.vit.met = s.vit.met
  holds : WritesApart mv n → (∀ d ∈ runCells l, byteKey s d.1 ≠ none) → HoldsElems s out.st l

theorem OnlyCaches.canonical {p : Fin 72} {s t : State} (h : OnlyCaches p s t) (hc : Canonical s) : Canonical t := by
  rw [h.same]
  exact hc

theorem finishCopy_copying {p : Fin 72} {s : State} {mv : Moving} {l : List (Nat × List Byte)} (h : StorageGood s) (hc : Canonical s)
    (hm : Copying p s mv l) (n : Nat) {k : Nat} (hk : ∀ e ∈ l, e.2.length = k) : Finished s mv n k l (finishCopy (.core p) mv n) := by
  obtain ⟨f, hf⟩ := settleCells_state mv.st mv n
  have hg : StorageGood (settleCells mv.st mv n).1 := by
    rw [hf]
    exact (h.caches hm.caches).congr rfl rfl rfl (fun _ => rfl) rfl rfl (fun _ _ => rfl) fun _ _ => rfl
  have hcan : Canonical (settleCells mv.st mv n).1 := by
    rw [hf]
    exact hm.caches.canonical hc
  have hplaces : SamePlaces s (settleCells mv.st mv n).1 := by
    obtain ⟨hmap, hmm, hswz⟩ := SamePlaces.caches hm.caches
    rw [hf]
    exact ⟨hmap, hmm, hswz⟩
  have hmem : (settleCells mv.st mv n).1.mem = s.mem := by
    rw [hf, hm.caches.same]
  have hout : finishCopy (.core p) mv n = { st := storeWritten p (settleCells mv.st mv n).1 (settleCells mv.st mv n).2, sticky := mv.sticky, bytes := k * l.length } := by
    unfold finishCopy
    dsimp only
    rw [hm.err]
    dsimp only
    rw [show copyWrite (.core p) (settleCells mv.st mv n).1 (settleCells mv.st mv n).2 = _ from writeThrough_good hg hcan p _]
    rw [settleCells_length, hm.cells, runCells_length hk]
  rw [hout]
  refine ⟨rfl, ?_, fun hd hplaced => ?_⟩
  · show (storeWritten p (settleCells mv.st mv n).1 (settleCells mv.st mv n).2).vit.met = _
    rw [storeWritten_vit hcan, hf, hm.caches.same]
  · refine holdsElems_of (cells := (settleCells mv.st mv n).2) (fun c hcm => hm.cells ▸ settleCells_kept _ hd c hcm) (fun d hdm => ?_) hplaced (fun a ha => ?_) fun a ha hn => ?_
    · exact settleCells_names mv.st mv n d (hm.cells ▸ hdm)
    · exact (storeWritten_unnamed hcan ha).trans (byteAt_congr hplaces hmem a)
    · exact storeWritten_named hcan (by rw [hplaces.byteKey]; exact ha) hn

/-! ## A running fill: a copy that reads nothing -/

/-- A running fill has read nothing. -/
structure Filling (p : Fin 72) (s : State) (mv : Moving) (l : List (Nat × List Byte)) : Prop extends Copying p s mv l where
  unread : mv.read = []
  unsourced : ∀ o ∈ mv.origin, o = none

theorem Filling.start (p : Fin 72) (s : State) : Filling p s { st := s } [] :=
  ⟨⟨rfl, .refl p s, rfl, rfl⟩, rfl, fun _ h => by cases h⟩

theorem Filling.apart {p : Fin 72} {s : State} {mv : Moving} {l : List (Nat × List Byte)} (h : Filling p s mv l) (n : Nat) : WritesApart mv n := by
  refine ⟨fun c _ => ?_, fun a ha => ?_, h.origin⟩
  · rw [h.unread]
    rfl
  · exact absurd (h.unsourced _ ha) (Option.some_ne_none a)

theorem writeElem_placed {m : Master} {v : View} {mv : Moving} {x : List Int} (bs : List Byte) (o : Option Nat)
    (h : placeErrSpan m mv.st (v.addr x) v.desc.esize = none) : writeElem m v mv x bs o =
      { mv with cells := mv.cells ++ cellsAt (v.addr x) bs, origin := mv.origin ++ bs.mapIdx fun i _ => o.map (· + i) } := by
  unfold writeElem
  dsimp only
  rw [h]

theorem writeElem_sticky (m : Master) (v : View) (mv : Moving) (x : List Int) (bs : List Byte) (o : Option Nat) :
    (writeElem m v mv x bs o).sticky = mv.sticky := by
  unfold writeElem
  dsimp only
  split <;> rfl

section
variable {p : Fin 72} {s : State} {mv : Moving} {l : List (Nat × List Byte)}

theorem Copying.write (h : Copying p s mv l) {v : View} {x : List Int} {bs : List Byte} (o : Option Nat)
    (hp : placeErrSpan (.core p) s (v.addr x) v.desc.esize = none) : Copying p s (writeElem (.core p) v mv x bs o) (l ++ [(v.addr x, bs)]) := by
  rw [writeElem_placed bs o (by rw [h.caches.placeErrSpan]; exact hp)]
  refine ⟨h.err, h.caches, ?_, ?_⟩
  · show mv.cells ++ cellsAt (v.addr x) bs = runCells (l ++ [(v.addr x, bs)])
    rw [runCells_append, h.cells]
    refine congrArg (runCells l ++ ·) ?_
    exact (List.append_nil _).symm
  · show (mv.origin ++ _).length = (mv.cells ++ _).length
    rw [List.length_append, List.length_append, List.length_mapIdx, cellsAt_length, h.origin]

theorem Filling.write (h : Filling p s mv l) {v : View} {x : List Int} {bs : List Byte}
    (hp : placeErrSpan (.core p) s (v.addr x) v.desc.esize = none) : Filling p s (writeElem (.core p) v mv x bs none) (l ++ [(v.addr x, bs)]) := by
  have hw := h.toCopying.write (bs := bs) none hp
  rw [writeElem_placed bs none (by rw [h.caches.placeErrSpan]; exact hp)] at hw ⊢
  refine ⟨hw, h.unread, fun o ho => ?_⟩
  rcases List.mem_append.mp ho with ho | ho
  · exact h.unsourced o ho
  · obtain ⟨i, hi, rfl⟩ := List.mem_mapIdx.mp ho
    rfl

end

/-! ## CFILL (R260) -/

/-- One position of a fill. -/
def fillStep (m : Master) (dst : View) (val : W64) (mv : Moving) (x : List Int) : Moving :=
  match mv.err with
  | some _ => mv
  | none => writeElem m dst mv x (leBytes dst.desc.esize val.toNat) none

theorem fillView_eq (m : Master) (dst : View) (val : W64) (s : State) :
    fillView m dst val s = finishCopy m (dst.desc.positions.foldl (fillStep m dst val) { st := s }) dst.desc.esize := rfl

theorem fillStep_running {m : Master} {dst : View} {val : W64} {mv : Moving} {x : List Int} (h : mv.err = none) :
    fillStep m dst val mv x = writeElem m dst mv x (leBytes dst.desc.esize val.toNat) none := by
  unfold fillStep
  rw [h]

theorem fillStep_sticky (m : Master) (dst : View) (val : W64) (mv : Moving) (x : List Int) : (fillStep m dst val mv x).sticky = mv.sticky := by
  unfold fillStep
  split
  · rfl
  · exact writeElem_sticky _ _ _ _ _ _

theorem fillSteps_filling {p : Fin 72} {s : State} {dst : View} {val : W64} (xs : List (List Int)) :
    ∀ {mv : Moving} {l : List (Nat × List Byte)}, Filling p s mv l → (∀ x ∈ xs, placeErrSpan (.core p) s (dst.addr x) dst.desc.esize = none) →
    Filling p s (xs.foldl (fillStep (.core p) dst val) mv) (l ++ xs.map fun x => (dst.addr x, leBytes dst.desc.esize val.toNat)) := by
  induction xs with
  | nil => exact fun h _ => by rw [List.map_nil, List.append_nil]; exact h
  | cons x t ih =>
    intro mv l h hp
    rw [List.foldl_cons, fillStep_running h.err, List.map_cons, List.append_cons]
    exact ih (h.write (hp x List.mem_cons_self)) fun y hy => hp y (List.mem_cons_of_mem x hy)

/-! ## CABOUT (R261) -/

/-- One position of a write of the AB. -/
def outStep (m : Master) (dst : View) (mv : Moving) (it : List Int × List Byte) : Moving :=
  match mv.err with
  | some _ => mv
  | none =>
    match dst.desc.writePlace it.1 with
    | .data y _ => writeElem m dst mv y it.2 none
    | .dropped => { mv with sticky := mv.sticky ||| 1 }
    | _ => mv

theorem writeAll_eq (m : Master) (dst : View) (items : List (List Int × List Byte)) (s : State) :
    writeAll m dst items s = finishCopy m (items.foldl (outStep m dst) { st := s }) dst.desc.esize := rfl

/-- The elements that a write of the AB leaves. -/
def outElems (dst : View) (word : List Int → List Byte) (xs : List (List Int)) : List (Nat × List Byte) :=
  xs.filterMap fun x => match dst.desc.writePlace x with
    | .data y _ => some (dst.addr y, word x)
    | _ => none

theorem outStep_filling {p : Fin 72} {s : State} {dst : View} {mv : Moving} {l : List (Nat × List Byte)} (h : Filling p s mv l)
    {word : List Int → List Byte} {x : List Int} (hp : Reaches (.core p) s dst (dst.desc.writePlace x)) :
    Filling p s (outStep (.core p) dst mv (x, word x)) (l ++ outElems dst word [x]) := by
  unfold outStep outElems
  rw [h.err]
  dsimp only [List.filterMap_cons, List.filterMap_nil]
  cases hw : dst.desc.writePlace x with
  | data y o =>
    rw [hw] at hp
    exact h.write hp
  | dropped =>
    show Filling p s { mv with sticky := mv.sticky ||| 1, err := none } (l ++ [])
    rw [List.append_nil]
    exact ⟨⟨rfl, h.caches, h.cells, h.origin⟩, h.unread, h.unsourced⟩
  | fill => rw [List.append_nil]; exact h
  | pad o => rw [List.append_nil]; exact h

theorem outSteps_filling {p : Fin 72} {s : State} {dst : View} {word : List Int → List Byte} (xs : List (List Int)) :
    ∀ {mv : Moving} {l : List (Nat × List Byte)}, Filling p s mv l → (∀ x ∈ xs, Reaches (.core p) s dst (dst.desc.writePlace x)) →
    Filling p s ((xs.map fun x => (x, word x)).foldl (outStep (.core p) dst) mv) (l ++ outElems dst word xs) := by
  induction xs with
  | nil => exact fun h _ => by rw [show outElems dst word [] = [] from rfl, List.append_nil]; exact h
  | cons x t ih =>
    intro mv l h hp
    have hcons : outElems dst word (x :: t) = outElems dst word [x] ++ outElems dst word t := List.filterMap_append (l := [x])
    rw [List.map_cons, List.foldl_cons, hcons, ← List.append_assoc]
    exact ih (outStep_filling h (hp x List.mem_cons_self)) fun y hy => hp y (List.mem_cons_of_mem x hy)

/-! ## The two instructions -/

/-- An instruction of format D that is in neither group 9 nor a row of its own runs on the copy engine. -/
theorem runEntry_copy {op : CoreOp} {o : OpD} {k : Ctl} {s x : State} {p : Fin 72} (hg : opGroup op ≠ 9)
    (hr : runEntry p (issuedEntry op (.d o) k s) x = if opGroup op = 9 then runCollPort p (issuedEntry op (.d o) k s) o x
      else runCopy p (issuedEntry op (.d o) k s) x) :
    runEntry p (issuedEntry op (.d o) k s) x = runCopy p (issuedEntry op (.d o) k s) x :=
  hr.trans (if_neg hg)

theorem Finished.sticky {s : State} {mv : Moving} {n k : Nat} {l : List (Nat × List Byte)} {out : CopyOut} (h : Finished s mv n k l out) :
    out.sticky = mv.sticky := congrArg CopyOut.sticky h.eq

/-- A finished copy without an error counts its bytes and uses its entries. -/
theorem ceDone_finished {p : Fin 72} {s : State} {mv : Moving} {n k : Nat} {l : List (Nat × List Byte)} {out : CopyOut} (h : Finished s mv n k l out)
    (uses : List Nat) : ceDone p out uses =
      { st := uses.foldl useBegin (out.st.rmod .corCeBytes p.val 0 fun v => v + BitVec.ofNat 64 (k * l.length)), sticky := out.sticky, uses := uses } := by
  have herr : out.err = none := congrArg CopyOut.err h.eq
  have hbytes : out.bytes = k * l.length := congrArg CopyOut.bytes h.eq
  unfold ceDone
  rw [herr, hbytes]

theorem uses_met (l : List Nat) (s : State) : (l.foldl useBegin s).vit.met = s.vit.met :=
  foldl_keeps useBegin (fun s => s.vit.met) (fun _ _ => rfl) l s

/-- The count of the bytes and the uses meet nothing. -/
theorem counted_unheld {s t : State} (h : t.vit.met = s.vit.met) (p : Fin 72) (f : W64 → W64) (l : List Nat) :
    Unheld s (l.foldl useBegin (t.rmod .corCeBytes p.val 0 f)) :=
  (uses_met l _).trans h

section
variable {op : CoreOp} {args : Args} {k : Ctl} {g : Engine} {s x : State}

theorem opened_met (h : Opened (atStart op args k g s) x) : Unheld s x := h.met

theorem opened_byteAt (h : Opened (atStart op args k g s) x) (a : Nat) : byteAt x a = byteAt s a := (h.byteAt a).trans (byteAt_atStart a)

theorem opened_place (h : Opened (atStart op args k g s) x) (m : Master) (a n : Nat) : placeErrSpan m x a n = placeErrSpan m s a n := h.placeErrSpan m a n

end

/-- The bytes of elements that a master reaches belong to something. -/
theorem runCells_placed {m : Master} {s : State} {l : List (Nat × List Byte)} (h : ∀ e ∈ l, placeErrSpan m s e.1 e.2.length = none) :
    ∀ d ∈ runCells l, byteKey s d.1 ≠ none := by
  intro d hd
  obtain ⟨e, he, i, hi, rfl⟩ := mem_runCells.mp hd
  exact byteKey_of_span (h e he) hi

theorem runCfill_opens {p : Fin 72} {e : Entry} {x : State} {v : State × Except Flt View} (h : openView (.core p) x e.a = v) :
    runCfill p e x = match v.2 with
      | .error f => ranFault v.1 f
      | .ok dst => if !dst.destOk then ranFault v.1 (layDestFlt dst.handle) else ceDone p (fillView (.core p) dst e.c v.1) [dst.entry] := by
  subst h
  rfl

theorem fillRow : ∀ (k : Ctl) (o : OpD) (s : State), StartsNow .cfill (.d o) k .ce s → StorageGood s → Canonical s →
    let e := issuedEntry .cfill (.d o) k s
    let v := openView (.core k.core) (atStart .cfill (.d o) k .ce s) e.a
    (∀ f, v.2 = .error f → ∃ t, exec (.cfill k o) s = .next t ∧ RanToFault .cfill (.d o) k .ce s v.1 f t) ∧
    ∀ dst, v.2 = .ok dst →
      (dst.destOk = false →
        ∃ t, exec (.cfill k o) s = .next t ∧ RanToFault .cfill (.d o) k .ce s v.1 ⟨0x0505, dst.handle⟩ t) ∧
      (dst.destOk = true → (∀ x ∈ dst.desc.positions, placeErrSpan (.core k.core) s (dst.addr x) dst.desc.esize = none) →
        let out := fillView (.core k.core) dst e.c v.1
        let l := dst.desc.positions.map fun x => (dst.addr x, leBytes dst.desc.esize e.c.toNat)
        HoldsElems s out.st l ∧
        ∃ t, exec (.cfill k o) s = .next t ∧
          RanTo .cfill (.d o) k .ce s
            (useBegin (out.st.rmod .corCeBytes k.core.val 0 fun n => n + BitVec.ofNat 64 (dst.desc.esize * l.length)) dst.entry)
            0 [dst.entry] none t) := by
  intro k o s h hs hc e v
  have hx := storageGood_atStart h hs
  have hopen : Opened (atStart .cfill (.d o) k .ce s) v.1 := openView_opened hx _ _
  have hrun := runCfill_opens (p := k.core) (e := e) (x := atStart .cfill (.d o) k .ce s) (v := v) rfl
  refine ⟨fun f hf => ?_, fun dst hdst => ⟨fun hbad => ?_, fun hok hp => ?_⟩⟩
  · rw [hf] at hrun
    exact ranToFault_of h rfl ((runEntry_copy (by decide) rfl).trans hrun) (opened_met hopen)
  · rw [hdst] at hrun
    exact ranToFault_of h rfl ((runEntry_copy (by decide) rfl).trans (hrun.trans (if_pos (by rw [hbad]; rfl)))) (opened_met hopen)
  · intro out l
    rw [hdst] at hrun
    have hplace : ∀ x ∈ dst.desc.positions, placeErrSpan (.core k.core) v.1 (dst.addr x) dst.desc.esize = none := fun x hx =>
      (opened_place hopen _ _ _).trans (hp x hx)
    have hfill := fillSteps_filling (val := e.c) dst.desc.positions (.start k.core v.1) hplace
    rw [List.nil_append] at hfill
    have hlen : ∀ e ∈ l, e.2.length = dst.desc.esize := by
      intro e he
      obtain ⟨x, -, rfl⟩ := List.mem_map.mp he
      exact leBytes_length _ _
    have hfin : Finished v.1 (dst.desc.positions.foldl (fillStep (.core k.core) dst e.c) { st := v.1 }) dst.desc.esize dst.desc.esize l out :=
      finishCopy_copying (hopen.good hx) (hopen.canonical hc) hfill.toCopying dst.desc.esize hlen
    have hstarts : runCfill k.core e (atStart .cfill (.d o) k .ce s) = ceDone k.core out [dst.entry] := hrun.trans (if_neg (by rw [hok]; decide))
    clear_value out
    have hcells : ∀ d ∈ runCells l, byteKey v.1 d.1 ≠ none := runCells_placed (m := .core k.core) fun e he => by
      rw [hlen e he]
      obtain ⟨x, hx, rfl⟩ := List.mem_map.mp he
      exact hplace x hx
    refine ⟨HoldsElems.congr (hfin.holds (hfill.apart _) hcells) (opened_byteAt hopen), ?_⟩
    rw [ceDone_finished hfin, hfin.sticky, foldl_keeps (fillStep (.core k.core) dst e.c) Moving.sticky (fillStep_sticky _ _ _) _ _] at hstarts
    exact ranTo_of h rfl ((runEntry_copy (by decide) rfl).trans hstarts) (counted_unheld (hfin.met.trans (opened_met hopen)) _ _ [dst.entry])

/-- The shape that CABOUT takes. -/
def OutShape (d : Desc) (rows : Nat) : Prop := (d.ty = .fp32 ∨ d.ty = .int32) ∧ d.ext 0 = 64 ∧ rowCount d = rows

theorem ty32_iff (t : ETy) : ty32 t = true ↔ t = .fp32 ∨ t = .int32 := by cases t <;> decide

theorem outShape_iff (d : Desc) (rows : Nat) : (!ty32 d.ty || decide (d.ext 0 ≠ 64) || decide (rowCount d ≠ rows)) = false ↔ OutShape d rows := by
  unfold OutShape
  rw [Bool.or_eq_false_iff, Bool.or_eq_false_iff, Bool.not_eq_false', ty32_iff, decide_eq_false_iff_not, decide_eq_false_iff_not, not_not, not_not,
    and_assoc]

theorem outShape_esize {d : Desc} {rows : Nat} (h : OutShape d rows) : d.esize = 4 := by
  unfold Desc.esize
  rcases h.1 with e | e <;> rw [e] <;> rfl

/-- The word of a position of CABOUT. -/
def outWord (c : Core) (first : Nat) (d : Desc) (x : List Int) : List Byte := leBytes 4 (abGet c (first + rowIndex d x) (x.getD 0 0).toNat).toNat

theorem outWord_ab {c c' : Core} (h : c'.ab = c.ab) (first : Nat) (d : Desc) : outWord c' first d = outWord c first d := by
  unfold outWord abGet
  rw [h]

theorem runCabout_opens {p : Fin 72} {e : Entry} {x : State} {v : State × Except Flt View} (h : openView (.core p) x e.a = v) :
    runCabout p e x = match v.2 with
      | .error f => ranFault v.1 f
      | .ok dst =>
        if !dst.destOk then ranFault v.1 (layDestFlt dst.handle)
        else if !ty32 dst.desc.ty || decide (dst.desc.ext 0 ≠ 64) || decide (rowCount dst.desc ≠ e.d.toNat) then ranFault v.1 (layShapeFlt dst.handle)
        else ceDone p (writeAll (.core p) dst (dst.desc.logical.map fun y => (y, outWord (v.1.core p) e.c.toNat dst.desc y)) v.1) [dst.entry] := by
  subst h
  rfl

theorem outElems_length {dst : View} {word : List Int → List Byte} (hw : ∀ x, (word x).length = 4) (xs : List (List Int)) :
    ∀ e ∈ outElems dst word xs, e.2.length = 4 := by
  intro e he
  obtain ⟨x, -, hx⟩ := List.mem_filterMap.mp he
  split at hx
  · cases hx
    exact hw x
  · cases hx

theorem outElems_reached {m : Master} {s : State} {dst : View} {word : List Int → List Byte} (hw : ∀ x, (word x).length = dst.desc.esize) {xs : List (List Int)}
    (h : ∀ x ∈ xs, Reaches m s dst (dst.desc.writePlace x)) : ∀ e ∈ outElems dst word xs, placeErrSpan m s e.1 e.2.length = none := by
  intro e he
  obtain ⟨x, hx, hxe⟩ := List.mem_filterMap.mp he
  have hr := h x hx
  split at hxe
  · next y o hy =>
    rw [hy] at hr
    cases hxe
    rw [hw x]
    exact hr
  · cases hxe

theorem Opened.reaches {s t : State} (h : Opened s t) {m : Master} {v : View} {y : Spot} (hr : Reaches m s v y) : Reaches m t v y := by
  cases y with
  | data x o => exact (h.placeErrSpan m _ _).trans hr
  | fill => exact hr
  | pad o => exact hr
  | dropped => exact hr

/-- Settles O38: the view is opened without an error; a fill reads nothing, so that every byte that it leaves is that of an element that it writes there. -/
theorem fillRows : Obligations.FillRows := by
  unfold Obligations.FillRows
  refine ⟨fillRow, fun k o s h hs hc => ?_⟩
  intro e v
  have hx := storageGood_atStart h hs
  have hopen : Opened (atStart .cabout (.d o) k .ce s) v.1 := openView_opened hx _ _
  have hrun := runCabout_opens (p := k.core) (e := e) (x := atStart .cabout (.d o) k .ce s) (v := v) rfl
  refine ⟨fun f hf => ?_, fun dst hdst => ?_⟩
  · rw [hf] at hrun
    exact ranToFault_of h rfl ((runEntry_copy (by decide) rfl).trans hrun) (opened_met hopen)
  intro shape
  rw [hdst] at hrun
  refine ⟨fun hbad => ?_, fun hok hbad => ?_, fun hok hshape hp => ?_⟩
  · exact ranToFault_of h rfl ((runEntry_copy (by decide) rfl).trans (hrun.trans (if_pos (by rw [hbad]; rfl)))) (opened_met hopen)
  · have hno := Bool.eq_true_of_not_eq_false fun hsh => hbad ((outShape_iff dst.desc e.d.toNat).mp hsh)
    exact ranToFault_of h rfl ((runEntry_copy (by decide) rfl).trans (hrun.trans ((if_neg (by rw [hok]; decide)).trans (if_pos hno)))) (opened_met hopen)
  · intro word out l
    have hesize := outShape_esize (rows := e.d.toNat) hshape
    have hab : (v.1.core k.core).ab = (s.core k.core).ab := by
      obtain ⟨_, _, _, _, _, _, _, _, _, _, hd⟩ := (atStart_core h).exists_front
      rw [hopen.core, hd]
    have hword : outWord (v.1.core k.core) e.c.toNat dst.desc = word := outWord_ab hab _ _
    have hreach : ∀ x ∈ dst.desc.logical, Reaches (.core k.core) v.1 dst (dst.desc.writePlace x) := fun x hx => hopen.reaches (hp x hx)
    have hfill := outSteps_filling (word := word) dst.desc.logical (.start k.core v.1) hreach
    rw [List.nil_append] at hfill
    have hw : ∀ x, (word x).length = 4 := fun x => leBytes_length _ _
    have hfin : Finished v.1 _ dst.desc.esize 4 l out :=
      finishCopy_copying (hopen.good hx) (hopen.canonical hc) hfill.toCopying dst.desc.esize (outElems_length hw dst.desc.logical)
    have hstarts : runCabout k.core e (atStart .cabout (.d o) k .ce s) = ceDone k.core out [dst.entry] := by
      dsimp only at hrun
      rw [hword] at hrun
      exact hrun.trans ((if_neg (by rw [hok]; decide)).trans (if_neg (Bool.not_eq_true _ ▸ (outShape_iff dst.desc e.d.toNat).mpr hshape)))
    clear_value out
    have hcells := runCells_placed (outElems_reached (fun x => (hw x).trans hesize.symm) hreach)
    refine ⟨HoldsElems.congr (hfin.holds (hfill.apart _) hcells) (opened_byteAt hopen), ?_⟩
    rw [ceDone_finished hfin] at hstarts
    exact ranTo_of h rfl ((runEntry_copy (by decide) rfl).trans hstarts) (counted_unheld (hfin.met.trans (opened_met hopen)) _ _ [dst.entry])

end Sys2Proof.Machine


/-! # Copies: CCOPY and CTRANS (O36) -/

namespace Sys2Proof.Machine

/-! ## The elements of a copy -/

/-- The elements that a copy writes at some of the destination's coordinates. -/
def movedOf (s : State) (src dst : View) (place : List Int → List Int) (xs : List (List Int)) : List (Nat × List Byte) :=
  xs.filterMap fun x => match dst.desc.writePlace x with
    | .data y _ => some (dst.addr y, sourceBytes s src (src.desc.readPlace (place x)))
    | _ => none

theorem movedElems_eq (s : State) (src dst : View) (place : List Int → List Int) : movedElems s src dst place = movedOf s src dst place dst.desc.logical := rfl

theorem movedOf_cons (s : State) (src dst : View) (place : List Int → List Int) (x : List Int) (xs : List (List Int)) :
    movedOf s src dst place (x :: xs) = movedOf s src dst place [x] ++ movedOf s src dst place xs := List.filterMap_append (l := [x])

section
variable {s : State} {src dst : View} {place : List Int → List Int} {x y : List Int} {o : Bool}

theorem movedOf_data (h : dst.desc.writePlace x = .data y o) :
    movedOf s src dst place [x] = [(dst.addr y, sourceBytes s src (src.desc.readPlace (place x)))] := by
  unfold movedOf
  rw [List.filterMap_cons, h]
  rfl

theorem movedOf_none (h : ∀ y o, dst.desc.writePlace x ≠ .data y o) : movedOf s src dst place [x] = [] := by
  unfold movedOf
  rw [List.filterMap_cons]
  cases hw : dst.desc.writePlace x with
  | data y o => exact absurd hw (h y o)
  | fill => rfl
  | pad o => rfl
  | dropped => rfl

theorem sourceBytes_length (s : State) (v : View) (pl : Spot) : (sourceBytes s v pl).length = v.desc.esize := by
  cases pl with
  | data z u => exact readBytes_length _ _ _
  | fill => exact leBytes_length _ _
  | pad o => exact leBytes_length _ _
  | dropped => exact leBytes_length _ _

theorem movedOf_length (xs : List (List Int)) : ∀ e ∈ movedOf s src dst place xs, e.2.length = src.desc.esize := by
  intro e he
  obtain ⟨x, -, hx⟩ := List.mem_filterMap.mp he
  split at hx
  · cases hx
    exact sourceBytes_length _ _ _
  · cases hx

theorem movedOf_mem {xs : List (List Int)} {e : Nat × List Byte} (he : e ∈ movedOf s src dst place xs) :
    ∃ x ∈ xs, ∃ y q, dst.desc.writePlace x = .data y q ∧ e.1 = dst.addr y := by
  obtain ⟨x, hx, hxe⟩ := List.mem_filterMap.mp he
  split at hxe
  · next y q hy =>
    cases hxe
    exact ⟨x, hx, y, q, hy, rfl⟩
  · cases hxe

theorem sourceBytes_congr {s t : State} (h : ∀ a n, readBytes t a n = readBytes s a n) (v : View) (pl : Spot) : sourceBytes t v pl = sourceBytes s v pl := by
  cases pl with
  | data z u => exact h _ _
  | fill => rfl
  | pad o => rfl
  | dropped => rfl

theorem movedOf_congr {s t : State} (h : ∀ a n, readBytes t a n = readBytes s a n) (xs : List (List Int)) :
    movedOf t src dst place xs = movedOf s src dst place xs := by
  unfold movedOf
  simp only [sourceBytes_congr h]

end

/-! ## The reads of a copy -/

/-- The reads of a copy are among `R`, and every byte that it writes from memory was read. -/
structure Sourced (n : Nat) (R : Nat → Prop) (mv : Moving) : Prop where
  reads : ∀ a ∈ mv.read, R a
  sourced : ∀ a, some a ∈ mv.origin → ∃ b ∈ mv.read, b ≤ a ∧ a < b + n

theorem Sourced.apart {n : Nat} {R : Nat → Prop} {mv : Moving} (h : Sourced n R mv) (hl : mv.origin.length = mv.cells.length)
    (hc : ∀ c ∈ mv.cells, ∀ b, R b → ¬ (b ≤ c.1 ∧ c.1 < b + n)) : WritesApart mv n := by
  refine ⟨fun c hcm => ?_, fun a ha c hcm hca => ?_, hl⟩
  · unfold readsByte
    rw [List.any_eq_false]
    intro b hb
    rw [decide_eq_true_eq]
    exact hc c hcm b (h.reads b hb)
  · obtain ⟨b, hb, hle, hlt⟩ := h.sourced a ha
    exact hc c hcm b (h.reads b hb) (hca ▸ ⟨hle, hlt⟩)

/-- What reading an element leaves. -/
structure ElemRead (p : Fin 72) (s : State) (src : View) (R : Nat → Prop) (mv : Moving) (l : List (Nat × List Byte)) (pl : Spot)
    (r : Moving × List Byte × Option Nat) : Prop where
  copying : Copying p s r.1 l
  length : r.2.1.length = src.desc.esize
  bytes : L1Coherent p mv.st → r.2.1 = sourceBytes s src pl ∧ L1Coherent p r.1.st
  sourced : Sourced src.desc.esize R r.1
  origin : ∀ a, r.2.2 = some a → a ∈ r.1.read

theorem readElem_data {m : Master} {v : View} {mv : Moving} {z : List Int} {u : Bool} (h : placeErrSpan m mv.st (v.addr z) v.desc.esize = none) :
    readElem m v mv (.data z u) =
      ({ mv with sticky := mv.sticky ||| (if u then 1 else 0), read := mv.read ++ [v.addr z], st := (copyRead m mv.st (v.addr z) v.desc.esize).1,
                 err := (copyRead m mv.st (v.addr z) v.desc.esize).2.2 },
       (copyRead m mv.st (v.addr z) v.desc.esize).2.1, some (v.addr z)) := by
  unfold readElem
  dsimp only
  rw [h]

section
variable {p : Fin 72} {s : State} {src : View} {R : Nat → Prop} {mv : Moving} {l : List (Nat × List Byte)}

/-- An element that no memory gives. -/
theorem elemRead_const (h : Copying p s mv l) (hr : Sourced src.desc.esize R mv) (st : BitVec 16) {pl : Spot} {bs : List Byte}
    (hb : bs = sourceBytes s src pl) : ElemRead p s src R mv l pl ({ mv with sticky := st }, bs, none) :=
  ⟨⟨h.err, h.caches, h.cells, h.origin⟩, hb ▸ sourceBytes_length _ _ _, fun hc => ⟨hb, hc⟩, ⟨hr.reads, hr.sourced⟩, fun _ ha => by cases ha⟩

theorem readElem_good (hs : StorageGood s) (h : Copying p s mv l) (hr : Sourced src.desc.esize R mv) {pl : Spot} (hp : Reaches (.core p) s src pl)
    (hR : ∀ z u, pl = .data z u → R (src.addr z)) : ElemRead p s src R mv l pl (readElem (.core p) src mv pl) := by
  cases pl with
  | fill => exact elemRead_const h hr _ rfl
  | pad o => exact elemRead_const h hr _ rfl
  | dropped => exact elemRead_const h hr mv.sticky rfl
  | data z u =>
    have hplace : placeErrSpan (.core p) mv.st (src.addr z) src.desc.esize = none := (h.caches.placeErrSpan _ _ _).trans hp
    obtain ⟨t, bs, hread, ho, hlen, hcoh⟩ := readThrough_good hs h.caches (src.addr z) src.desc.esize
    rw [readElem_data hplace, show copyRead (.core p) mv.st (src.addr z) src.desc.esize = (t, bs, none) from hread]
    refine ⟨⟨rfl, ho, h.cells, h.origin⟩, hlen, hcoh, ⟨fun a ha => ?_, fun a ha => ?_⟩, fun a ha => ?_⟩
    · rcases List.mem_append.mp ha with ha | ha
      · exact hr.reads a ha
      · rw [List.mem_singleton.mp ha]
        exact hR z u rfl
    · obtain ⟨b, hb, hba⟩ := hr.sourced a ha
      exact ⟨b, List.mem_append_left _ hb, hba⟩
    · cases ha
      exact List.mem_append_right _ List.mem_cons_self

end

/-! ## One position, and all of them (R258) -/

/-- What a copy leaves once it has moved the elements of some coordinates. -/
structure Copied (p : Fin 72) (s : State) (src dst : View) (place : List Int → List Int) (R : Nat → Prop) (mv : Moving) (l : List (Nat × List Byte))
    (xs : List (List Int)) (mv' : Moving) (l' : List (Nat × List Byte)) : Prop where
  copying : Copying p s mv' (l ++ l')
  count : l'.length = (movedOf s src dst place xs).length
  width : ∀ e ∈ l', e.2.length = src.desc.esize
  bytes : L1Coherent p mv.st → l' = movedOf s src dst place xs ∧ L1Coherent p mv'.st
  sourced : Sourced src.desc.esize R mv'

section
variable {p : Fin 72} {s : State} {src dst : View} {place : List Int → List Int} {R : Nat → Prop} {mv : Moving} {l : List (Nat × List Byte)} {x : List Int}

theorem copyStep_data {m : Master} {sx y : List Int} {o : Bool} (he : mv.err = none) (hw : dst.desc.writePlace x = .data y o)
    (hr : (readElem m src mv (src.desc.readPlace sx)).1.err = none) : copyStep m src dst sx x mv =
      writeElem m dst (readElem m src mv (src.desc.readPlace sx)).1 y (readElem m src mv (src.desc.readPlace sx)).2.1
        (readElem m src mv (src.desc.readPlace sx)).2.2 := by
  unfold copyStep
  rw [he, hw]
  dsimp only
  rw [hr]

theorem copyStep_good (hs : StorageGood s) (h : Copying p s mv l) (hr : Sourced src.desc.esize R mv)
    (hp : ∀ y q, dst.desc.writePlace x = .data y q → Reaches (.core p) s dst (.data y q) ∧ Reaches (.core p) s src (src.desc.readPlace (place x)))
    (hR : ∀ y q z u, dst.desc.writePlace x = .data y q → src.desc.readPlace (place x) = .data z u → R (src.addr z)) :
    ∃ l', Copied p s src dst place R mv l [x] (copyStep (.core p) src dst (place x) x mv) l' := by
  by_cases hw : ∃ y q, dst.desc.writePlace x = .data y q
  · obtain ⟨y, q, hw⟩ := hw
    obtain ⟨hdst, hsrc⟩ := hp y q hw
    obtain ⟨hcopy, hlen, hbytes, hsourced, horigin⟩ := readElem_good hs h hr hsrc fun z u hz => hR y q z u hw hz
    rw [copyStep_data h.err hw hcopy.err]
    generalize readElem (.core p) src mv (src.desc.readPlace (place x)) = r at *
    have hplace : placeErrSpan (.core p) r.1.st (dst.addr y) dst.desc.esize = none := (hcopy.caches.placeErrSpan _ _ _).trans hdst
    have hwrite := hcopy.write (bs := r.2.1) r.2.2 (v := dst) (x := y) hdst
    rw [writeElem_placed r.2.1 r.2.2 hplace] at hwrite ⊢
    refine ⟨[(dst.addr y, r.2.1)], hwrite, by rw [movedOf_data hw]; rfl, fun e he => ?_, fun hc => ?_, hsourced.reads, fun a ha => ?_⟩
    · rw [List.mem_singleton.mp he]
      exact hlen
    · obtain ⟨hb, hk⟩ := hbytes hc
      exact ⟨by rw [movedOf_data hw, hb], hk⟩
    · rcases List.mem_append.mp ha with ha | ha
      · exact hsourced.sourced a ha
      · obtain ⟨i, hi, hia⟩ := List.mem_mapIdx.mp ha
        obtain ⟨b, hb, rfl⟩ := Option.map_eq_some_iff.mp hia
        exact ⟨b, horigin b hb, Nat.le_add_right b i, by omega⟩
  · have hnone : ∀ y q, dst.desc.writePlace x ≠ .data y q := fun y q hy => hw ⟨y, q, hy⟩
    have hstep : ∃ st, copyStep (.core p) src dst (place x) x mv = { mv with sticky := st } := by
      unfold copyStep
      rw [h.err]
      dsimp only
      cases hy : dst.desc.writePlace x with
      | data y q => exact absurd hy (hnone y q)
      | dropped => exact ⟨_, rfl⟩
      | fill => exact ⟨mv.sticky, by rw [← h.err]⟩
      | pad o => exact ⟨mv.sticky, by rw [← h.err]⟩
    obtain ⟨st, hst⟩ := hstep
    rw [hst]
    refine ⟨[], ⟨h.err, h.caches, by rw [List.append_nil]; exact h.cells, h.origin⟩, by rw [movedOf_none hnone], fun _ he => absurd he List.not_mem_nil,
      fun hc => ⟨(movedOf_none hnone).symm, hc⟩, hr.reads, hr.sourced⟩

theorem copySteps_good (hs : StorageGood s) (xs : List (List Int)) : ∀ {mv : Moving} {l : List (Nat × List Byte)}, Copying p s mv l →
    Sourced src.desc.esize R mv →
    (∀ x ∈ xs, ∀ y q, dst.desc.writePlace x = .data y q → Reaches (.core p) s dst (.data y q) ∧ Reaches (.core p) s src (src.desc.readPlace (place x))) →
    (∀ x ∈ xs, ∀ y q z u, dst.desc.writePlace x = .data y q → src.desc.readPlace (place x) = .data z u → R (src.addr z)) →
    ∃ l', Copied p s src dst place R mv l xs (xs.foldl (fun mv x => copyStep (.core p) src dst (place x) x mv) mv) l' := by
  induction xs with
  | nil =>
    intro mv l h hr _ _
    exact ⟨[], by rw [List.append_nil]; exact h, rfl, fun _ he => absurd he List.not_mem_nil, fun hc => ⟨rfl, hc⟩, hr⟩
  | cons x t ih =>
    intro mv l h hr hp hR
    obtain ⟨l1, hc1, hn1, hw1, hb1, hs1⟩ := copyStep_good hs h hr (hp x List.mem_cons_self) (hR x List.mem_cons_self)
    obtain ⟨l2, hc2, hn2, hw2, hb2, hs2⟩ := ih hc1 hs1 (fun y hy => hp y (List.mem_cons_of_mem x hy)) fun y hy => hR y (List.mem_cons_of_mem x hy)
    rw [List.foldl_cons]
    refine ⟨l1 ++ l2, by rw [← List.append_assoc]; exact hc2, ?_, fun e he => ?_, fun hc => ?_, hs2⟩
    · rw [movedOf_cons, List.length_append, List.length_append, hn1, hn2]
    · exact (List.mem_append.mp he).elim (hw1 e) (hw2 e)
    · obtain ⟨rfl, hk1⟩ := hb1 hc
      obtain ⟨rfl, hk2⟩ := hb2 hk1
      exact ⟨(movedOf_cons ..).symm, hk2⟩

end

/-! ## The two instructions -/

theorem runPair_opens {p : Fin 72} {trans : Bool} {e : Entry} {x : State} {v : State × Except Flt (View × View)} (h : openTwo (.core p) x e.b e.a = v) :
    runPair p trans e x = match v.2 with
      | .error f => ranFault v.1 f
      | .ok (src, dst) =>
        match pairFlt src dst trans with
        | some f => ranFault v.1 f
        | none => ceDone p (copyViews (.core p) src dst trans v.1) [src.entry, dst.entry] := by
  subst h
  rfl

theorem ceDone_ok {p : Fin 72} {out : CopyOut} {n : Nat} (herr : out.err = none) (hbytes : out.bytes = n) (uses : List Nat) : ceDone p out uses =
    { st := uses.foldl useBegin (out.st.rmod .corCeBytes p.val 0 fun v => v + BitVec.ofNat 64 n), sticky := out.sticky, uses := uses } := by
  unfold ceDone
  rw [herr, hbytes]

/-- Views of one type have elements of one size. -/
theorem pairFlt_esize {src dst : View} {trans : Bool} (h : pairFlt src dst trans = none) : dst.desc.esize = src.desc.esize := by
  have htype : src.desc.typeCode = dst.desc.typeCode := by
    unfold pairFlt at h
    split at h
    · cases h
    · split at h
      · cases h
      · split at h
        · cases h
        · next hc =>
          rw [Bool.or_eq_true, not_or, decide_eq_true_eq, not_not] at hc
          exact hc.1
  unfold Desc.esize Desc.ty
  rw [htype]

/-- The source coordinate of a copy. -/
def sourcePlace (swap : Bool) (x : List Int) : List Int := if swap then x.getD 1 0 :: x.getD 0 0 :: x.drop 2 else x

/-- The reads of the source that a copy makes. -/
def SourceReads (src dst : View) (place : List Int → List Int) (a : Nat) : Prop :=
  ∃ x ∈ dst.desc.logical, ∃ y q z u, dst.desc.writePlace x = .data y q ∧ src.desc.readPlace (place x) = .data z u ∧ a = src.addr z

/-- A whole copy whose elements its core reaches. -/
theorem copyViews_good {p : Fin 72} {s : State} {src dst : View} {swap : Bool} (hs : StorageGood s) (hc : Canonical s)
    (hsize : dst.desc.esize = src.desc.esize) (hp : CopyReaches (.core p) s src dst (sourcePlace swap)) :
    (copyViews (.core p) src dst swap s).err = none ∧ (copyViews (.core p) src dst swap s).st.vit.met = s.vit.met ∧
    (copyViews (.core p) src dst swap s).bytes = src.desc.esize * (movedElems s src dst (sourcePlace swap)).length ∧
    (L1Coherent p s →
      (∀ b, SourceReads src dst (sourcePlace swap) b → ∀ e ∈ movedElems s src dst (sourcePlace swap),
        b + src.desc.esize ≤ e.1 ∨ e.1 + dst.desc.esize ≤ b) →
      HoldsElems s (copyViews (.core p) src dst swap s).st (movedElems s src dst (sourcePlace swap))) := by
  obtain ⟨l, hcopy, hcount, hwidth, hbytes, hsourced⟩ := copySteps_good (p := p) (s := s) (src := src) (dst := dst) (place := sourcePlace swap)
    (R := SourceReads src dst (sourcePlace swap)) (mv := { st := s }) (l := []) hs dst.desc.logical ⟨rfl, .refl p s, rfl, rfl⟩
    ⟨fun _ h => absurd h List.not_mem_nil, fun _ h => absurd h List.not_mem_nil⟩ (fun x hx y q => hp x hx y q)
    fun x hx y q z u hy hz => ⟨x, hx, y, q, z, u, hy, hz, rfl⟩
  rw [List.nil_append] at hcopy
  have hfin := finishCopy_copying hs hc hcopy src.desc.esize hwidth
  rw [show finishCopy (.core p) (dst.desc.logical.foldl (fun mv x => copyStep (.core p) src dst (sourcePlace swap x) x mv) { st := s }) src.desc.esize =
    copyViews (.core p) src dst swap s from rfl] at hfin
  generalize copyViews (.core p) src dst swap s = out at hfin ⊢
  refine ⟨congrArg CopyOut.err hfin.eq, hfin.met, ?_, fun hcoh hapart => ?_⟩
  · rw [movedElems_eq, ← hcount]
    exact congrArg CopyOut.bytes hfin.eq
  · have hl := (hbytes hcoh).1
    rw [hl] at hfin
    refine hfin.holds (hsourced.apart hcopy.origin fun c hcm b hb hin => ?_) (runCells_placed (m := .core p) fun e he => ?_)
    · rw [hcopy.cells, hl] at hcm
      obtain ⟨e, he, i, hi, rfl⟩ := mem_runCells.mp hcm
      have hi : i < src.desc.esize := movedOf_length _ e he ▸ hi
      have := hapart b hb e he
      dsimp only at hin
      omega
    · obtain ⟨x, hx, y, q, hy, he1⟩ := movedOf_mem he
      rw [movedOf_length _ e he, he1, ← hsize]
      exact (hp x hx y q hy).1

/-- The row of a copy. -/
theorem copyRow {i : Ctl → OpD → Instr} {op : CoreOp} {swap : Bool} (k : Ctl) (o : OpD) (s : State) (h : StartsNow op (.d o) k .ce s)
    (he : exec (i k o) s = issue op (.d o) k s)
    (hr : ∀ x, runEntry k.core (issuedEntry op (.d o) k s) x = runPair k.core swap (issuedEntry op (.d o) k s) x)
    (hs : StorageGood s) (hc : Canonical s) :
    let e := issuedEntry op (.d o) k s
    let v := openTwo (.core k.core) (atStart op (.d o) k .ce s) e.b e.a
    (∀ f, v.2 = .error f → ∃ t, exec (i k o) s = .next t ∧ RanToFault op (.d o) k .ce s v.1 f t) ∧
    ∀ src dst, v.2 = .ok (src, dst) →
      (∀ f, pairFlt src dst swap = some f → ∃ t, exec (i k o) s = .next t ∧ RanToFault op (.d o) k .ce s v.1 f t) ∧
      (pairFlt src dst swap = none → CopyReaches (.core k.core) s src dst (sourcePlace swap) →
        let out := copyViews (.core k.core) src dst swap v.1
        let l := movedElems s src dst (sourcePlace swap)
        (∃ t, exec (i k o) s = .next t ∧
          RanTo op (.d o) k .ce s (useBegin (useBegin
            (out.st.rmod .corCeBytes k.core.val 0 fun n => n + BitVec.ofNat 64 (src.desc.esize * l.length)) src.entry) dst.entry)
            out.sticky [src.entry, dst.entry] none t) ∧
        (L1Coherent k.core s →
          (∀ b, SourceReads src dst (sourcePlace swap) b → ∀ e ∈ l, b + src.desc.esize ≤ e.1 ∨ e.1 + dst.desc.esize ≤ b) →
          HoldsElems s out.st l)) := by
  intro e v
  have hx := storageGood_atStart h hs
  have hopen : Opened (atStart op (.d o) k .ce s) v.1 := openTwo_opened hx _ _ _
  have hrun := runPair_opens (p := k.core) (trans := swap) (e := e) (x := atStart op (.d o) k .ce s) (v := v) rfl
  refine ⟨fun f hf => ?_, fun src dst hv => ?_⟩
  · rw [hf] at hrun
    exact ranToFault_of h he ((hr _).trans hrun) (opened_met hopen)
  rw [hv] at hrun
  dsimp only at hrun
  refine ⟨fun f hf => ?_, fun hok hp => ?_⟩
  · rw [hf] at hrun
    exact ranToFault_of h he ((hr _).trans hrun) (opened_met hopen)
  · intro out l
    rw [hok] at hrun
    have hreads : ∀ a n, readBytes v.1 a n = readBytes s a n := fun a n => (hopen.bytes a n).trans (readBytes_atStart a n)
    have hmoved : movedElems v.1 src dst (sourcePlace swap) = l := movedOf_congr hreads _
    have hgood := copyViews_good (swap := swap) (hopen.good hx) (hopen.canonical hc) (pairFlt_esize hok)
      fun x hx y q hy => ⟨hopen.reaches (hp x hx y q hy).1, hopen.reaches (hp x hx y q hy).2⟩
    have hstarts : runPair k.core swap e (atStart op (.d o) k .ce s) = ceDone k.core out [src.entry, dst.entry] := hrun
    rw [hmoved, show copyViews (.core k.core) src dst swap v.1 = out from rfl] at hgood
    clear_value out
    obtain ⟨herr, hmet, hbytes, hholds⟩ := hgood
    refine ⟨?_, fun hcoh hapart => HoldsElems.congr (hholds (hopen.coherent (l1Coherent_atStart h hcoh)) hapart) (opened_byteAt hopen)⟩
    exact ranTo_of h he ((hr _).trans (hstarts.trans (ceDone_ok herr hbytes _))) (counted_unheld (hmet.trans (opened_met hopen)) _ _ [src.entry, dst.entry])

/-- Settles O36: the two instructions differ in the coordinates that they read alone. -/
theorem copyRows : Obligations.CopyRows := by
  unfold Obligations.CopyRows
  intro r hr k o s h hs hc
  rcases List.mem_cons.mp hr with rfl | hr
  · obtain ⟨herr, hok⟩ := copyRow (i := .ccopy) (swap := false) k o s h rfl (fun x => runEntry_copy (by decide) rfl) hs hc
    refine ⟨herr, fun src dst hv => ⟨(hok src dst hv).1, fun hflt hreach => ?_⟩⟩
    obtain ⟨hrun, hholds⟩ := (hok src dst hv).2 hflt hreach
    exact ⟨hrun, fun hcoh hapart => hholds hcoh fun b ⟨x, hx, y, q, z, u, hy, hz, hb⟩ => hb ▸ hapart x hx y q z u hy hz⟩
  · obtain rfl := List.mem_singleton.mp hr
    obtain ⟨herr, hok⟩ := copyRow (i := .ctrans) (swap := true) k o s h rfl (fun x => runEntry_copy (by decide) rfl) hs hc
    refine ⟨herr, fun src dst hv => ⟨(hok src dst hv).1, fun hflt hreach => ?_⟩⟩
    obtain ⟨hrun, hholds⟩ := (hok src dst hv).2 hflt hreach
    exact ⟨hrun, fun hcoh hapart => hholds hcoh fun b ⟨x, hx, y, q, z, u, hy, hz, hb⟩ => hb ▸ hapart x hx y q z u hy hz⟩

end Sys2Proof.Machine


/-! # VLDW (O23) -/

namespace Sys2Proof.Machine

/-! ## A walk does not read the L1 -/

/-- A core with another L1. -/
def withL1 (l : List (Nat × BitVec 512)) (c : Core) : Core := { c with l1 := l }

section
variable (o : OpV) (t : ETy) {f f' : Nat → Nat → W32 × Flags} (l : List (Nat × BitVec 512))

theorem elemStep_withL1 {acc : Core × Flags} {pl : Nat × Nat} (hv : activeAt acc.1 o pl.1 (decide (pl.2 = 1)) = true → f' pl.1 pl.2 = f pl.1 pl.2) :
    elemStep o t (pureElem f') (withL1 l acc.1, acc.2) pl =
      (withL1 l (elemStep o t (pureElem f) acc pl).1, (elemStep o t (pureElem f) acc pl).2) := by
  unfold elemStep pureElem
  rw [activeAt_congr (c := acc.1) (d := withL1 l acc.1) rfl]
  split
  · next ha =>
    dsimp only
    rw [hv ha]
    rfl
  · split <;> rfl

/-- Walks that agree in the values of the active elements agree, whatever the L1 holds. -/
theorem elemWalk_withL1 (pls : List (Nat × Nat)) : ∀ {acc : Core × Flags},
    (∀ pl ∈ pls, activeAt acc.1 o pl.1 (decide (pl.2 = 1)) = true → f' pl.1 pl.2 = f pl.1 pl.2) →
    pls.foldl (elemStep o t (pureElem f')) (withL1 l acc.1, acc.2) =
      (withL1 l (pls.foldl (elemStep o t (pureElem f)) acc).1, (pls.foldl (elemStep o t (pureElem f)) acc).2) := by
  induction pls with
  | nil => exact fun _ => rfl
  | cons pl pls ih =>
    intro acc hv
    rw [List.foldl_cons, List.foldl_cons, elemStep_withL1 o t l (hv pl List.mem_cons_self)]
    refine ih fun q hq ha => hv q (List.mem_cons_of_mem _ hq) ?_
    rw [activeAt_congr (elemStep_same o t f acc pl).m] at ha
    exact ha

theorem pureWalk_withL1 {c : Core} (hv : ∀ pl ∈ elemPlaces (vlOf o) t.perLane, activeAt c o pl.1 (decide (pl.2 = 1)) = true → f' pl.1 pl.2 = f pl.1 pl.2) :
    (elemWise o t (pureElem f') (withL1 l c)).1 = withL1 l (elemWise o t (pureElem f) c).1 :=
  congrArg Prod.fst (elemWalk_withL1 o t l (acc := (c, 0)) _ hv)

end

/-! ## The reads of a window (R142) -/

/-- A load of any length, none with it. -/
theorem loadBytes_any {p : Fin 72} {s0 s : State} (h : StorageGood s0) (o : OnlyCaches p s0 s) (c : L1Coherent p s) (a len : Nat) :
    ∃ s', loadBytes p s a len = (s', readBytes s0 a len, none) ∧ OnlyCaches p s0 s' ∧ L1Coherent p s' := by
  rcases Nat.eq_zero_or_pos len with rfl | hpos
  · unfold loadBytes
    split
    · exact ⟨s, rfl, o, c⟩
    · obtain ⟨t, ht, hq⟩ := devRead_good (h.caches o) (.core p) a 0
      exact ⟨t, ht, o.trans (hq.caches p), c.l2 hq⟩
  · exact loadBytes_good h o c a len hpos

/-- The word that a place of a view holds. -/
def spotWord (s : State) (v : View) : Spot → W32
  | .fill => v.desc.fill
  | .pad _ => v.desc.padval
  | .dropped => 0
  | .data y _ => BitVec.ofNat 32 (leNat (readBytes s (v.addr y) v.desc.esize))

section
variable {p : Fin 72} {s0 s : State} {v : View}

theorem viewElem_data {x y : List Int} {o : Bool} (hx : v.desc.readPlace x = .data y o) (hp : placeErrSpan (.core p) s (v.addr y) v.desc.esize = none) :
    viewElem p v s x = ((loadBytes p s (v.addr y) v.desc.esize).1, BitVec.ofNat 32 (leNat (loadBytes p s (v.addr y) v.desc.esize).2.1),
      (loadBytes p s (v.addr y) v.desc.esize).2.2) := by
  unfold viewElem
  rw [hx]
  dsimp only
  rw [hp]

theorem viewElem_good (h : StorageGood s0) (o : OnlyCaches p s0 s) (c : L1Coherent p s) {x : List Int} (hp : Reaches (.core p) s0 v (v.desc.readPlace x)) :
    ∃ s', viewElem p v s x = (s', spotWord s0 v (v.desc.readPlace x), none) ∧ OnlyCaches p s0 s' ∧ L1Coherent p s' := by
  cases hx : v.desc.readPlace x with
  | data y q =>
    rw [hx] at hp
    obtain ⟨s', he, ho, hc⟩ := loadBytes_any h o c (v.addr y) v.desc.esize
    refine ⟨s', ?_, ho, hc⟩
    rw [viewElem_data hx ((o.placeErrSpan _ _ _).trans hp), he]
    rfl
  | fill => exact ⟨s, by unfold viewElem; rw [hx]; rfl, o, c⟩
  | pad q => exact ⟨s, by unfold viewElem; rw [hx]; rfl, o, c⟩
  | dropped => exact ⟨s, by unfold viewElem; rw [hx]; rfl, o, c⟩

end

/-- One place of the window. -/
def windowStep (p : Fin 72) (v : View) (per : Nat) (x0 : Int) (row : List Int) (a : State × List (Nat × W32) × Option Flt) (pl : Nat × Nat) :
    State × List (Nat × W32) × Option Flt :=
  match a.2.2 with
  | some _ => a
  | none =>
    let i := pl.1 * per + pl.2
    let q := viewElem p v a.1 ((x0 + i) :: row)
    (q.1, a.2.1 ++ [(i, q.2.1)], q.2.2)

/-- The coordinates of element `i` of a window. -/
def windowPlace (x0 : Int) (row : List Int) (i : Nat) : List Int := (x0 + i) :: row

theorem windowSteps_good {p : Fin 72} {s0 : State} {v : View} {per : Nat} {x0 : Int} {row : List Int} (h : StorageGood s0) (pls : List (Nat × Nat)) :
    ∀ {s : State} {ws : List (Nat × W32)}, OnlyCaches p s0 s → L1Coherent p s →
    (∀ pl ∈ pls, Reaches (.core p) s0 v (v.desc.readPlace (windowPlace x0 row (pl.1 * per + pl.2)))) →
    ∃ s', pls.foldl (windowStep p v per x0 row) (s, ws, none) =
      (s', ws ++ (pls.map fun pl => pl.1 * per + pl.2).map (fun i => (i, spotWord s0 v (v.desc.readPlace (windowPlace x0 row i)))), none) ∧
      OnlyCaches p s0 s' ∧ L1Coherent p s' := by
  induction pls with
  | nil => exact fun o c _ => ⟨_, by simp, o, c⟩
  | cons pl pls ih =>
    intro s ws o c hp
    obtain ⟨s1, e1, o1, c1⟩ := viewElem_good h o c (hp pl List.mem_cons_self)
    obtain ⟨s2, e2, o2, c2⟩ := ih (ws := ws ++ [(pl.1 * per + pl.2, spotWord s0 v (v.desc.readPlace (windowPlace x0 row (pl.1 * per + pl.2))))]) o1 c1
      fun q hq => hp q (List.mem_cons_of_mem pl hq)
    refine ⟨s2, ?_, o2, c2⟩
    rw [List.foldl_cons]
    have hstep : windowStep p v per x0 row (s, ws, none) pl =
        (s1, ws ++ [(pl.1 * per + pl.2, spotWord s0 v (v.desc.readPlace (windowPlace x0 row (pl.1 * per + pl.2))))], none) := by
      unfold windowStep
      dsimp only
      rw [show ((x0 + ((pl.1 * per + pl.2 : Nat) : Int)) :: row) = windowPlace x0 row (pl.1 * per + pl.2) from rfl, e1]
    rw [hstep, e2, List.append_assoc]
    rfl

theorem spotWord_congr {s t : State} (h : ∀ a n, readBytes t a n = readBytes s a n) (v : View) (y : Spot) : spotWord t v y = spotWord s v y := by
  cases y with
  | data z o => exact congrArg (fun bs => BitVec.ofNat 32 (leNat bs)) (h _ _)
  | fill => rfl
  | pad o => rfl
  | dropped => rfl

/-! ## The instruction -/

/-- The places that are active in a core. -/
def activePlaces (c : Core) (o : OpV) (t : ETy) : List (Nat × Nat) :=
  (elemPlaces (vlOf o) t.perLane).filter fun pl => activeAt c o pl.1 (decide (pl.2 = 1))

/-- The core of VLDW on the words that it has read. -/
def windowCore (o : OpV) (ws : List (Nat × W32)) (c : Core) : Core :=
  (elemWise o (tyOf o.type) (pureElem fun lane j => (laneWord ws (lane * (tyOf o.type).perLane + j), 0)) c).1

/-- VLDW once its descriptor is read. -/
def windowDone (p : Fin 72) (o : OpV) (v : View) (r : State × List (Nat × W32) × Option Flt) : RunOut :=
  match r.2.2 with
  | some f => ranFault r.1 f
  | none => { st := useBegin (r.1.modCore p (windowCore o r.2.1)) v.entry, uses := [v.entry] }

theorem runVldw_opens {p : Fin 72} {e : Entry} {o : OpV} {x : State} {v : View} (h : (openView (.core p) x e.b).2 = .ok v)
    (ht : v.desc.typeCode = o.type.toNat) : runVldw p e o x =
      windowDone p o v ((activePlaces ((openView (.core p) x e.b).1.core p) o (tyOf o.type)).foldl
        (windowStep p v (tyOf o.type).perLane (e.c.extractLsb' 0 32).toInt (rowCoords v.desc (bitsN e.c 32 32))) ((openView (.core p) x e.b).1, [], none)) := by
  unfold runVldw
  dsimp only
  rw [h]
  exact if_neg (not_not.mpr ht)

theorem bitsN_upper (x : W64) : bitsN x 32 32 = (x.extractLsb' 32 32).toNat := by
  unfold bitsN
  rw [BitVec.extractLsb'_toNat, Nat.shiftRight_eq_div_pow]

/-- The words of some places of a window. -/
def windowWords (s : State) (v : View) (per : Nat) (x0 : Int) (row : List Int) (pls : List (Nat × Nat)) : List (Nat × W32) :=
  (pls.map fun pl => pl.1 * per + pl.2).map fun i => (i, spotWord s v (v.desc.readPlace (windowPlace x0 row i)))

/-- The walk of VLDW on the words that it has read. -/
theorem windowCore_withL1 {o : OpV} {c : Core} (l : List (Nat × BitVec 512)) (s : State) (v : View) (x0 : Int) (row : List Int) :
    windowCore o (windowWords s v (tyOf o.type).perLane x0 row (activePlaces c o (tyOf o.type))) (withL1 l c) =
      withL1 l (elemWise o (tyOf o.type) (pureElem fun lane j =>
        (spotWord s v (v.desc.readPlace (windowPlace x0 row (lane * (tyOf o.type).perLane + j))), 0)) c).1 := by
  refine pureWalk_withL1 o (tyOf o.type) l fun pl hpl ha => ?_
  have hmem : pl.1 * (tyOf o.type).perLane + pl.2 ∈ (activePlaces c o (tyOf o.type)).map fun pl => pl.1 * (tyOf o.type).perLane + pl.2 :=
    List.mem_map.mpr ⟨pl, List.mem_filter.mpr ⟨hpl, ha⟩, rfl⟩
  unfold windowWords
  rw [laneWord_map (fun i => spotWord s v (v.desc.readPlace (windowPlace x0 row i))) hmem]

/-- A change of the core after the caches have served it. -/
theorem OnlyCaches.modCore {p : Fin 72} {s t : State} (h : OnlyCaches p s t) : ∃ l, t.core p = withL1 l (s.core p) ∧
    ∀ f g : Core → Core, f (withL1 l (s.core p)) = withL1 l (g (s.core p)) → t.modCore p f =
      { s.modCore p (fun c => withL1 l (g c)) with
        free := t.free, vit := { s.vit with l2 := t.vit.l2 }, dbg := { s.dbg with memLag := t.dbg.memLag } } := by
  obtain ⟨l, hl⟩ := h.eq
  have hcore : t.core p = withL1 l (s.core p) := by
    rw [hl]
    exact modCore_core_same s p (withL1 l)
  refine ⟨l, hcore, fun f g hfg => ?_⟩
  have hmod : t.modCore p f = t.setCore p (withL1 l (g (s.core p))) := by
    unfold State.modCore
    rw [hcore, hfg]
  rw [hmod]
  generalize t.free = n at *
  generalize t.vit.l2 = v at *
  generalize t.dbg.memLag = d at *
  rw [hl]
  simp only [State.modCore, State.setCore, Vector.set_set]

theorem byteAt_useBegin (s : State) (i a : Nat) : byteAt (useBegin s i) a = byteAt s a := byteAt_congr ⟨rfl, rfl, fun _ _ => rfl⟩ rfl a

/-- Settles O23: the elements are read one after the other through the L1, which is coherent, and the walk does not read the L1. -/
theorem vldwRow : Obligations.VldwRow := by
  unfold Obligations.VldwRow
  intro k o s v h e t r0 x0 row place word hs hcoh hc hopen htype hplaces
  have hx := storageGood_atStart h hs
  have hop : Opened (atStart .vldw (.v o) k .ve s) r0.1 := openView_opened hx _ _
  have hreads : ∀ a n, readBytes r0.1 a n = readBytes s a n := fun a n => (hop.bytes a n).trans (readBytes_atStart a n)
  have hm : (r0.1.core k.core).m = (s.core k.core).m := by
    rw [hop.core]
    exact (atStart_alike h).m
  have hpls : activePlaces (r0.1.core k.core) o t = activePlaces (s.core k.core) o t := by
    unfold activePlaces
    simp only [activeAt_congr hm]
  have hreach : ∀ pl ∈ activePlaces (r0.1.core k.core) o t,
      Reaches (.core k.core) r0.1 v (v.desc.readPlace (windowPlace x0 row (pl.1 * t.perLane + pl.2))) := by
    intro pl hpl
    rw [hpls] at hpl
    obtain ⟨hmem, ha⟩ := List.mem_filter.mp hpl
    have hr := hplaces pl hmem ha
    refine hop.reaches ?_
    show Reaches (.core k.core) (atStart .vldw (.v o) k .ve s) v (v.desc.readPlace (place pl))
    cases hy : v.desc.readPlace (place pl) with
    | data y q =>
      rw [hy] at hr
      exact hr
    | fill => trivial
    | pad q => trivial
    | dropped => trivial
  obtain ⟨s2, hfold, ho, -⟩ := windowSteps_good (hop.good hx) (activePlaces (r0.1.core k.core) o t) (ws := []) (.refl k.core r0.1)
    (hop.coherent (l1Coherent_atStart h hcoh)) hreach
  obtain ⟨l1, -, hmod⟩ := ho.modCore
  have hword : ∀ lane j, spotWord r0.1 v (v.desc.readPlace (windowPlace x0 row (lane * t.perLane + j))) = word (lane, j) := fun lane j =>
    (spotWord_congr hreads v _).trans rfl
  have hwalk := windowCore_withL1 (o := o) (c := r0.1.core k.core) l1 r0.1 v x0 row
  simp only [show ∀ lane j, spotWord r0.1 v (v.desc.readPlace (windowPlace x0 row (lane * (tyOf o.type).perLane + j))) = word (lane, j) from hword] at hwalk
  have hstate := hmod (windowCore o (windowWords r0.1 v t.perLane x0 row (activePlaces (r0.1.core k.core) o t)))
    (fun c => (elemWise o t (pureElem fun lane j => (word (lane, j), 0)) c).1) hwalk
  have hrun := runVldw_opens (p := k.core) (e := e) (o := o) (x := atStart .vldw (.v o) k .ve s) hopen htype
  rw [bitsN_upper, show (activePlaces ((openView (.core k.core) (atStart .vldw (.v o) k .ve s) e.b).1.core k.core) o (tyOf o.type)).foldl
    (windowStep k.core v (tyOf o.type).perLane (e.c.extractLsb' 0 32).toInt (rowCoords v.desc (e.c.extractLsb' 32 32).toNat))
      ((openView (.core k.core) (atStart .vldw (.v o) k .ve s) e.b).1, [], none) = _ from hfold] at hrun
  have hdone : runVldw k.core e o (atStart .vldw (.v o) k .ve s) =
      { st := useBegin (s2.modCore k.core (windowCore o (windowWords r0.1 v t.perLane x0 row (activePlaces (r0.1.core k.core) o t)))) v.entry,
        uses := [v.entry] } := hrun
  rw [hstate] at hdone
  have hmet : Unheld s r0.1 := opened_met hop
  obtain ⟨t', ht', hran⟩ := ranTo_of (i := .vldw k o) h rfl hdone hmet
  refine ⟨t', l1, s2.vit.l2, s2.free, s2.dbg.memLag, ht', hran, fun a => ?_⟩
  rw [show t' = summaryRise s _ from hran, byteAt_summaryRise, byteAt_modCore, byteAt_useBegin, ← opened_byteAt hop]
  exact byteAt_congr ⟨rfl, rfl, fun _ _ => rfl⟩ rfl a

end Sys2Proof.Machine


/-! # VZMAP (O25) -/

namespace Sys2Proof.Machine

/-! ## What reads and stores of a core leave -/

theorem OnlyPerf.then {s t u : State} (h : OnlyPerf s t) (k : OnlyPerf t u) : OnlyPerf s u := by
  refine ⟨?_, k.wf, fun r i n hr => (k.reg r i n hr).trans (h.reg r i n hr)⟩
  have hk := k.eq
  generalize u.regs = g at *
  rw [hk, h.eq]

/-- What a run of reads and stores of core p leaves besides its bytes: its own core's L1 and the list of what its instruction has written, the lines
of the L2, the lines read that DBG_MEM has still to count, the count of free values and counters of chapter 20. -/
structure Touched (p : Fin 72) (s t : State) : Prop where
  eq : t = { s with cores := t.cores, free := t.free, mem := t.mem, regs := t.regs, vit := { s.vit with l2 := t.vit.l2 },
                    dbg := { s.dbg with memLag := t.dbg.memLag } }
  perf : OnlyPerf s { s with regs := t.regs }
  other : ∀ q, q ≠ p → t.core q = s.core q
  own : ∃ l1 out, t.core p = { s.core p with l1 := l1, outMem := out }
  wf : memWf t.mem = true
  lines : (∀ x ∈ s.vit.l2, x.err = none) → ∀ x ∈ t.vit.l2, x.err = none

section
variable {p : Fin 72} {s t u : State}

theorem Touched.refl (hc : Canonical s) : Touched p s s :=
  ⟨rfl, ⟨rfl, hc.2, fun _ _ _ _ => rfl⟩, fun _ _ => rfl, ⟨_, _, rfl⟩, hc.1, id⟩

theorem Touched.trans (h : Touched p s t) (k : Touched p t u) : Touched p s u := by
  refine ⟨?_, ⟨rfl, k.perf.wf, fun r i n hr => (k.perf.reg r i n hr).trans (h.perf.reg r i n hr)⟩, fun q hq => (k.other q hq).trans (h.other q hq), ?_,
    k.wf, k.lines ∘ h.lines⟩
  · have hk := k.eq
    generalize u.cores = a at *
    generalize u.free = b at *
    generalize u.mem = c at *
    generalize u.regs = d at *
    generalize u.vit.l2 = e at *
    generalize u.dbg.memLag = f at *
    rw [hk, h.eq]
  · obtain ⟨l1, out, h1⟩ := h.own
    obtain ⟨l1', out', h2⟩ := k.own
    exact ⟨l1', out', by rw [h2, h1]⟩

theorem OnlyL2.touched (h : OnlyL2 s t) (hc : Canonical s) : Touched p s t := by
  have he := h.eq
  have hcore : ∀ q, t.core q = s.core q := fun q => by rw [he]; rfl
  have hregs : t.regs = s.regs := by rw [he]
  refine ⟨?_, ⟨rfl, by rw [show ({ s with regs := t.regs } : State).regs = t.regs from rfl, hregs]; exact hc.2, fun r i n _ => by rw [hregs]⟩,
    fun q _ => hcore q, ⟨_, _, hcore p⟩, by rw [he]; exact hc.1, h.lines⟩
  generalize t.free = n at *
  generalize t.vit.l2 = l at *
  generalize t.dbg.memLag = d at *
  rw [he]

theorem StoredBy.touched (h : StoredBy p s t) : Touched p s t := by
  refine ⟨?_, h.perf, h.other, h.own, h.wf, h.lines⟩
  have he := h.store
  unfold OnlyStore at he
  have hdbg : t.dbg = s.dbg := by rw [he]
  generalize t.cores = a at *
  generalize t.free = b at *
  generalize t.mem = c at *
  generalize t.regs = d at *
  generalize t.vit.l2 = e at *
  rw [he]

theorem Touched.canonical (h : Touched p s t) : Canonical t := ⟨h.wf, h.perf.wf⟩

theorem Touched.places (h : Touched p s t) : SamePlaces s t := by
  obtain ⟨hmap, hmm, hswz⟩ := h.perf.places
  exact ⟨by rw [h.eq], by rw [h.eq], hswz⟩

theorem Touched.good (h : Touched p s t) (g : StorageGood s) : StorageGood t := by
  have hl1 : ∀ q, (t.core q).l1Err = (s.core q).l1Err := fun q => by
    by_cases hq : q = p
    · subst hq
      obtain ⟨l1, out, h1⟩ := h.own
      rw [h1]
    · rw [h.other q hq]
  obtain ⟨-, -, -, -, hctrl, -, hwipe⟩ := h.perf.good g
  have hk : StorageGood { t with vit := s.vit } := by
    refine g.congr (by rw [h.eq]) (by rw [h.eq]) rfl hl1 (by rw [h.eq]) (by rw [h.eq]) (fun k hk => h.perf.reg _ _ _ fun j e => ?_)
      fun n hn => h.perf.reg _ _ _ fun j e => ?_
    · have e : 0x2400000 + k * 0x4000 + 0 * 1 = 0x3e01000 + 0 * 1 + j * 8 := e
      omega
    · have e : 0x2000100 + 0 * 1 + n * 8 = 0x3e01000 + 0 * 1 + j * 8 := e
      omega
  exact ⟨hk.mem, hk.gal, h.lines g.lines, hk.l1, hk.ctrl, hk.clock, hk.wipe⟩

theorem Touched.met (h : Touched p s t) : t.vit.met = s.vit.met := by rw [h.eq]

end

/-- What an instruction leaves whose engine reads and stores, and changes nothing else. -/
theorem touched_of {i : Instr} {op : CoreOp} {args : Args} {k : Ctl} {g : Engine} {s y : State} (h : StartsNow op args k g s)
    (he : exec i s = issue op args k s) (hy : Touched k.core (atStart op args k g s) y)
    (hr : runEntry k.core (issuedEntry op args k s) (atStart op args k g s) = { st := y }) :
    ∃ t, exec i s = .next t ∧ (∀ a, byteAt t a = byteAt y a) ∧
      t = { s with cores := t.cores, free := t.free, mem := t.mem, regs := t.regs, vit := { s.vit with l2 := t.vit.l2 },
                   dbg := { s.dbg with memLag := t.dbg.memLag } } ∧
      (∀ q, q ≠ k.core → t.core q = s.core q) ∧ ∃ l1, SameButFront { s.core k.core with l1 := l1 } (t.core k.core) := by
  obtain ⟨heq, ⟨-, hother⟩, hfront, -⟩ := atStart_front h
  obtain ⟨t, ht, hran⟩ := ranTo_of h he hr hy.met
  have hprog := inProgress_same g (issuedEntry op args k s) { st := y } (y.core k.core)
  obtain ⟨l1, out, hown⟩ := hy.own
  have hfr : (y.core k.core).frec = (s.core k.core).frec := by rw [hown, show (atStart op args k g s).core k.core = _ from hfront]
  have hperf : OnlyPerf s { s with regs := y.regs } := ⟨rfl, hy.perf.wf, hy.perf.reg⟩
  have hsum : t = y.modCore k.core (inProgress g (issuedEntry op args k s) { st := y }) := by
    refine Eq.trans hran (summaryRise_same_summary ?_)
    refine Eq.trans (errSummary_congr (s := { s with regs := y.regs }) rfl fun q => ?_) hperf.summary
    by_cases hq : q = k.core
    · subst hq
      rw [modCore_core_same, hprog.2.2.1, hfr]
      rfl
    · rw [modCore_core_other _ _ (Ne.symm hq), hy.other q hq, hother q hq]
      rfl
  refine ⟨t, ht, fun a => by rw [hsum, byteAt_modCore], ?_, fun q hq => ?_, ⟨l1, ?_⟩⟩
  · rw [hsum]
    conv => lhs; unfold State.modCore State.setCore; rw [hy.eq, heq]
    rfl
  · rw [hsum, modCore_core_other _ _ (Ne.symm hq), hy.other q hq, hother q hq]
  · rw [hsum, modCore_core_same]
    refine SameButFront.trans ?_ hprog.1
    rw [hown]
    unfold SameButFront at hfront ⊢
    rw [hfront]

/-! ## Bits of a bitmap (R209) -/

/-- Bit `n` of the address space, the lowest bit of a byte first. -/
def spaceBit (s : State) (n : Nat) : Bool := (byteAt s (n / 8)).getLsbD (n % 8)

/-- One bit of a bitmap at `a`. -/
def bitStep (p : Fin 72) (a : Nat) (r : State × Option Flt) (x : Nat × Bool) : State × Option Flt :=
  match r.2 with
  | some _ => r
  | none =>
    let q := readByteD p r.1 (a + x.1 / 8)
    match q.2.2 with
    | some f => (q.1, some f)
    | none => storeCells p q.1 [(a + x.1 / 8, setBit q.2.1 (x.1 % 8) x.2)]

theorem writeBits_eq (p : Fin 72) (s : State) (a bit0 : Nat) (bs : List Bool) : writeBits (readByteD p) (storeCells p) s a bit0 bs =
    (bs.mapIdx fun i b => (bit0 + i, b)).foldl (bitStep p a) (s, none) := rfl

theorem spaceBit_setBit {s t : State} {a n : Nat} {b : Bool}
    (h : ∀ x, byteAt t x = (cellAt [(a + n / 8, setBit (byteAt s (a + n / 8)) (n % 8) b)] x).getD (byteAt s x)) (m : Nat) :
    spaceBit t m = if m = 8 * a + n then b else spaceBit s m := by
  have hcell : ∀ x, cellAt [(a + n / 8, setBit (byteAt s (a + n / 8)) (n % 8) b)] x =
      if a + n / 8 = x then some (setBit (byteAt s (a + n / 8)) (n % 8) b) else none := fun x => by
    unfold cellAt
    by_cases hx : a + n / 8 = x
    · rw [if_pos hx, List.find?_cons_of_pos (by simpa using hx)]
      rfl
    · rw [if_neg hx, List.find?_cons_of_neg (by simpa using hx)]
      rfl
  unfold spaceBit
  rw [h, hcell]
  by_cases hbyte : a + n / 8 = m / 8
  · rw [if_pos hbyte, Option.getD_some]
    by_cases hm : m = 8 * a + n
    · rw [if_pos hm, show m % 8 = n % 8 by omega]
      exact bitB_setBit_same _ _ (Nat.mod_lt _ (by decide))
    · rw [if_neg hm, hbyte]
      exact bitB_setBit_other _ _ (by omega)
  · rw [if_neg hbyte, Option.getD_none, if_neg (by omega)]

theorem bitStep_good {p : Fin 72} {s0 s : State} (hs : StorageGood s0) (h : Touched p s0 s) {a : Nat} {x : Nat × Bool} (hk : byteKey s0 (a + x.1 / 8) ≠ none) :
    ∃ t, bitStep p a (s, none) x = (t, none) ∧ Touched p s0 t ∧ ∀ m, spaceBit t m = if m = 8 * a + x.1 then x.2 else spaceBit s m := by
  obtain ⟨u, hu, ho⟩ := devRead_good (h.good hs) (.core p) (a + x.1 / 8) 1
  have h1 : Touched p s0 u := h.trans (ho.touched h.canonical)
  have hread : readByteD p s (a + x.1 / 8) = (u, byteAt s (a + x.1 / 8), none) := by
    unfold readByteD
    rw [hu]
    rfl
  have hsame : ∀ b, byteAt u b = byteAt s b := byteAt_congr (.l2 ho) (by rw [ho.eq])
  obtain ⟨t, ht, hst, hb⟩ := storeCells_good (h1.good hs) h1.canonical p (cells := [(a + x.1 / 8, setBit (byteAt s (a + x.1 / 8)) (x.1 % 8) x.2)])
    (fun c hc => by rw [List.mem_singleton.mp hc, h1.places.byteKey]; exact hk) (List.pairwise_singleton _ _)
  refine ⟨t, ?_, h1.trans hst.touched, fun m => spaceBit_setBit (fun b => by rw [hb, hsame]) m⟩
  unfold bitStep
  dsimp only
  rw [hread]
  exact ht

/-- Bits at distinct places end as they are written, and no other bit changes. -/
theorem bitSteps_good {p : Fin 72} {s0 : State} (hs : StorageGood s0) {a : Nat} (l : List (Nat × Bool)) : ∀ {s : State}, Touched p s0 s →
    (∀ x ∈ l, byteKey s0 (a + x.1 / 8) ≠ none) → l.Pairwise (fun x y => x.1 ≠ y.1) →
    ∃ t, l.foldl (bitStep p a) (s, none) = (t, none) ∧ Touched p s0 t ∧ (∀ x ∈ l, spaceBit t (8 * a + x.1) = x.2) ∧
      ∀ m, (∀ x ∈ l, m ≠ 8 * a + x.1) → spaceBit t m = spaceBit s m := by
  induction l with
  | nil => exact fun h _ _ => ⟨_, rfl, h, fun _ hx => absurd hx List.not_mem_nil, fun _ _ => rfl⟩
  | cons x l ih =>
    intro s h hk hp
    obtain ⟨hx, hl⟩ := List.pairwise_cons.mp hp
    obtain ⟨t1, he1, h1, hb1⟩ := bitStep_good hs h (hk x List.mem_cons_self)
    obtain ⟨t2, he2, h2, hin, hout⟩ := ih h1 (fun y hy => hk y (List.mem_cons_of_mem x hy)) hl
    refine ⟨t2, by rw [List.foldl_cons, he1, he2], h2, fun y hy => ?_, fun m hm => ?_⟩
    · rcases List.mem_cons.mp hy with rfl | hy
      · rw [hout _ fun z hz he => hx z hz (by omega), hb1, if_pos rfl]
      · exact hin y hy
    · rw [hout m fun y hy => hm y (List.mem_cons_of_mem x hy), hb1, if_neg (hm x List.mem_cons_self)]

/-! ## The instruction (R209, R210) -/

theorem lanesZero_alike {c d : Core} (h : LanesAlike c d) (o : OpV) (t : ETy) (lo w : Nat) : lanesZero d o t lo w = lanesZero c o t lo w := by
  unfold lanesZero
  simp only [elemAt_alike h, activeAt_congr h.m]

/-- The last byte of a bitmap of `n` bits less its first. -/
def mapBytes (bit0 n : Nat) : Nat := (bit0 + n - 1) / 8 - bit0 / 8 + 1

theorem runVzmap_writes {p : Fin 72} {e : Entry} {o : OpV} {x : State} {n : Nat} (hn : n = vlOf o / 2 ^ bitsN o.fx 0 4) (ha : e.b.toNat % 4 = 0)
    (hl : liveSpan x (e.b.toNat + e.c.toNat / 8) (mapBytes e.c.toNat n) = true) (hw : writableSpan x (e.b.toNat + e.c.toNat / 8) (mapBytes e.c.toNat n) = true)
    (hp : placeErrSpan (.core p) x (e.b.toNat + e.c.toNat / 8) (mapBytes e.c.toNat n) = none) : runVzmap p e o x =
      let r := writeBits (readByteD p) (storeCells p) x e.b.toNat e.c.toNat
        ((List.range n).map fun i => lanesZero (x.core p) o (tyOf o.type) (i * 2 ^ bitsN o.fx 0 4) (2 ^ bitsN o.fx 0 4))
      { st := r.1, fault := r.2 } := by
  subst hn
  have hlen : e.b.toNat + (e.c.toNat + vlOf o / 2 ^ bitsN o.fx 0 4 - 1) / 8 - (e.b.toNat + e.c.toNat / 8) + 1 =
      mapBytes e.c.toNat (vlOf o / 2 ^ bitsN o.fx 0 4) := by
    unfold mapBytes
    omega
  unfold runVzmap
  dsimp only
  rw [hlen, hl, hw, hp, ha]
  rfl

/-- The bits of a list at the places that they are written to. -/
theorem mapIdx_range (f : Nat → Bool) (c n : Nat) : ((List.range n).map f).mapIdx (fun i b => (c + i, b)) = (List.range n).map fun i => (c + i, f i) := by
  refine List.ext_getElem (by simp) fun i h1 h2 => ?_
  simp

theorem spaceBit_at (s : State) (a n : Nat) : spaceBit s (8 * a + n) = (byteAt s (a + n / 8)).getLsbD (n % 8) := by
  unfold spaceBit
  rw [show (8 * a + n) / 8 = a + n / 8 by omega, show (8 * a + n) % 8 = n % 8 by omega]

/-- Settles O25: the bits are written one after the other, each by a read and a store of its byte. -/
theorem vzmapRow : Obligations.VzmapRow := by
  unfold Obligations.VzmapRow
  intro k o s h e t c w n a first len zero hs hc ha hl hw hp
  have hx := storageGood_atStart h hs
  have hfx : bitsN o.fx 0 4 = o.fx.toNat % 16 := bitsN_low o.fx 4
  have hrun := runVzmap_writes (p := k.core) (e := e) (o := o) (x := atStart .vzmap (.v o) k .ve s) (n := n) (by rw [hfx]) ha hl hw hp
  have hzero : ∀ i, lanesZero ((atStart .vzmap (.v o) k .ve s).core k.core) o t (i * w) w = zero i := fun i => lanesZero_alike (atStart_alike h) _ _ _ _
  rw [hfx] at hrun
  simp only [show ∀ i, lanesZero ((atStart .vzmap (.v o) k .ve s).core k.core) o (tyOf o.type) (i * 2 ^ (o.fx.toNat % 16)) (2 ^ (o.fx.toNat % 16)) = zero i from hzero]
    at hrun
  rw [writeBits_eq, mapIdx_range] at hrun
  have hkeys : ∀ x ∈ (List.range n).map fun i => (e.c.toNat + i, zero i), byteKey (atStart .vzmap (.v o) k .ve s) (a + x.1 / 8) ≠ none := by
    intro x hx
    obtain ⟨i, hi, rfl⟩ := List.mem_map.mp hx
    have hi := List.mem_range.mp hi
    show byteKey (atStart .vzmap (.v o) k .ve s) (a + (e.c.toNat + i) / 8) ≠ none
    rw [show a + (e.c.toNat + i) / 8 = first + ((e.c.toNat + i) / 8 - e.c.toNat / 8) by omega]
    refine byteKey_of_span (m := .core k.core) (len := len) hp ?_
    show (e.c.toNat + i) / 8 - e.c.toNat / 8 < (e.c.toNat + n - 1) / 8 - e.c.toNat / 8 + 1
    omega
  have hapart : ((List.range n).map fun i => (e.c.toNat + i, zero i)).Pairwise fun x y => x.1 ≠ y.1 := by
    rw [List.pairwise_map]
    exact List.nodup_range.imp fun hne he => hne (Nat.add_left_cancel he)
  obtain ⟨y, hfold, htouched, hin, hout⟩ := bitSteps_good hx _ (.refl (canonical_atStart hc)) hkeys hapart
  rw [hfold] at hrun
  obtain ⟨t', ht', hbytes, heq, hother, hcore⟩ := touched_of (i := .vzmap k o) h rfl htouched hrun
  have hbit : ∀ m, spaceBit t' m = spaceBit y m := fun m => by
    unfold spaceBit
    rw [hbytes]
  refine ⟨t', ht', fun i hi => ?_, fun b j hj hbj => ?_, heq, hother, hcore⟩
  · rw [← spaceBit_at, hbit]
    exact hin (e.c.toNat + i, zero i) (List.mem_map_of_mem (List.mem_range.mpr hi))
  · have hsame := (hbit (8 * b + j)).trans (hout (8 * b + j) fun x hx he => ?_)
    · rw [spaceBit_at, spaceBit_at, show b + j / 8 = b by omega, show j % 8 = j by omega, byteAt_atStart] at hsame
      exact hsame
    · obtain ⟨i, hi, rfl⟩ := List.mem_map.mp hx
      have hi := List.mem_range.mp hi
      dsimp only at he
      omega

end Sys2Proof.Machine


/-! # VSEQ (O24) -/

namespace Sys2Proof.Machine

/-! ## Loads and stores in the core's own places -/

section
variable {s : State} {p : Fin 72}

theorem mem_spanBlocks_at {a len x : Nat} (h : x ∈ spanBlocks a len) : ∃ i, i < len ∧ x = (a + i) / 2 ^ 20 * 2 ^ 20 := by
  unfold spanBlocks at h
  split at h
  · cases h
  · next hlen =>
    obtain ⟨j, hj, rfl⟩ := List.mem_map.mp h
    have hj := List.mem_range.mp hj
    by_cases hz : j = 0
    · subst hz
      exact ⟨0, by omega, by rw [Nat.add_zero, Nat.add_zero]⟩
    · exact ⟨(a / 2 ^ 20 + j) * 2 ^ 20 - a, by omega, by omega⟩

/-- A part of a span of the core's own places is one. -/
theorem ownSpan_part {a n lo len : Nat} (h : ownSpan s p a n = true) (hlen : lo + len ≤ n) : ownSpan s p (a + lo) len = true := by
  unfold ownSpan
  rw [List.all_eq_true]
  intro x hx
  obtain ⟨i, hi, rfl⟩ := mem_spanBlocks_at hx
  rw [ownPlace_block, Nat.add_assoc]
  exact ownPlace_of_span h (by omega)

theorem loadBytes_own (h : StorageGood s) {a len : Nat} (hlen : 0 < len) (ho : ownSpan s p a len = true) :
    loadBytes p s a len = (s, readBytes s a len, none) := by
  have hlt : ¬ a < memTop s := (byteKey_of_own (ownPlace_of_span ho hlen)).1
  unfold loadBytes
  rw [if_neg hlt]
  exact devRead_own h _ ho

theorem loadLanes_own (h : StorageGood s) (a : Nat) (lanes : List Nat) : ∀ ws : List (Nat × W32), (∀ l ∈ lanes, ownSpan s p (a + 4 * l) 4 = true) →
    lanes.foldl (loadLaneStep p a) (s, ws, none) = (s, ws ++ lanes.map (fun l => (l, laneOf s a l)), none) := by
  induction lanes with
  | nil => exact fun ws _ => by simp
  | cons l lanes ih =>
    intro ws ho
    have hstep : loadLaneStep p a (s, ws, none) l = (s, ws ++ [(l, laneOf s a l)], none) := by
      unfold loadLaneStep
      dsimp only
      rw [loadBytes_own h (by decide) (ho l List.mem_cons_self)]
      rfl
    rw [List.foldl_cons, hstep, ih _ fun x hx => ho x (List.mem_cons_of_mem l hx), List.append_assoc]
    rfl

/-- A store outside main memory meets no cache and no counter. -/
theorem storeCells_outside (h : StorageGood s) (hc : Canonical s) {cells : List (Nat × Byte)} (hn : ∀ c ∈ cells, ¬ c.1 < memTop s) :
    storeCells p s cells = (putNoted (.core p) s cells, none) := by
  have hlines : cells.foldl (fun l c => if c.1 < memTop s ∧ !ctrlLost s c.1 then nsetAdd l (c.1 / 64) else l) ([] : List Nat) = [] :=
    foldl_id _ _ _ fun c hcm => if_neg fun hlt => hn c hcm hlt.1
  have hcount : countLines s cells = s := by
    unfold countLines
    rw [hlines]
    rfl
  have hcached : cells.filter (fun c => decide (c.1 < memTop s)) = [] := by
    rw [List.filter_eq_nil_iff]
    intro c hcm
    rw [decide_eq_true_eq]
    exact hn c hcm
  unfold storeCells
  rw [writeThrough_good h hc, hlines]
  unfold storeWritten
  rw [hcount, hcached]
  exact congrArg (fun t => (t, none)) (setCore_core _ _)

theorem putCells_onlyMem (cells : List (Nat × Byte)) : ∀ s : State, putCells s cells = { s with mem := (putCells s cells).mem } := by
  induction cells with
  | nil => exact fun _ => rfl
  | cons c t ih =>
    intro s
    have hput : putByte s c.1 c.2 = { s with mem := (putByte s c.1 c.2).mem } := by
      unfold putByte
      split <;> rfl
    have htail := ih (putByte s c.1 c.2)
    show putCells (putByte s c.1 c.2) t = { s with mem := (putCells (putByte s c.1 c.2) t).mem }
    generalize (putCells (putByte s c.1 c.2) t).mem = m at *
    rw [htail, hput]

/-- What a noted store leaves besides its bytes. -/
theorem putNoted_frame (cells : List (Nat × Byte)) : putNoted (.core p) s cells =
      { s with cores := (putNoted (.core p) s cells).cores, mem := (putNoted (.core p) s cells).mem } ∧
    (∀ q, q ≠ p → (putNoted (.core p) s cells).core q = s.core q) ∧
    ∃ out, (putNoted (.core p) s cells).core p = { s.core p with outMem := out } := by
  have hput := putCells_onlyMem cells (noteOut (.core p) s cells)
  refine ⟨?_, fun q hq => ?_, ?_⟩
  · unfold putNoted
    generalize (putCells (noteOut (.core p) s cells) cells).mem = m at *
    rw [hput, noteOut_cores]
  · unfold putNoted
    rw [putCells_core]
    exact modCore_core_other s _ (Ne.symm hq)
  · unfold putNoted
    rw [putCells_core]
    exact ⟨_, modCore_core_same s p _⟩

end

/-! ## Walks that draw (R64) -/

section
variable (o : OpV) (t : ETy) {f f' : Nat → Nat → Core → ElemOut}

theorem elemStep_m (hm : ∀ lane j c, (f lane j c).core.m = c.m) (acc : Core × Flags) (pl : Nat × Nat) : (elemStep o t f acc pl).1.m = acc.1.m := by
  unfold elemStep
  split
  · exact hm _ _ _
  · split <;> rfl

theorem elemWalk_m (hm : ∀ lane j c, (f lane j c).core.m = c.m) (pls : List (Nat × Nat)) (acc : Core × Flags) :
    (pls.foldl (elemStep o t f) acc).1.m = acc.1.m :=
  foldl_keeps (elemStep o t f) (fun a : Core × Flags => a.1.m) (elemStep_m o t hm) pls acc

/-- Walks whose functions agree on the active elements are one walk. -/
theorem elemWalk_congr (hm : ∀ lane j c, (f lane j c).core.m = c.m) (pls : List (Nat × Nat)) : ∀ acc : Core × Flags,
    (∀ pl ∈ pls, activeAt acc.1 o pl.1 (decide (pl.2 = 1)) = true → f' pl.1 pl.2 = f pl.1 pl.2) →
    pls.foldl (elemStep o t f') acc = pls.foldl (elemStep o t f) acc := by
  induction pls with
  | nil => exact fun _ _ => rfl
  | cons pl pls ih =>
    intro acc hv
    have hstep : elemStep o t f' acc pl = elemStep o t f acc pl := by
      unfold elemStep
      split
      · next ha => rw [hv pl List.mem_cons_self ha]
      · rfl
    rw [List.foldl_cons, List.foldl_cons, hstep]
    refine ih _ fun q hq ha => hv q (List.mem_cons_of_mem pl hq) ?_
    rw [activeAt_congr (elemStep_m o t hm acc pl)] at ha
    exact ha

theorem elemWise_congr (hm : ∀ lane j c, (f lane j c).core.m = c.m) {c : Core}
    (hv : ∀ pl ∈ elemPlaces (vlOf o) t.perLane, activeAt c o pl.1 (decide (pl.2 = 1)) = true → f' pl.1 pl.2 = f pl.1 pl.2) :
    elemWise o t f' c = elemWise o t f c := elemWalk_congr o t hm _ (c, 0) hv

theorem elemWise_l1Err (hk : ∀ lane j c, (f lane j c).core.l1Err = c.l1Err) (c : Core) : (elemWise o t f c).1.l1Err = c.l1Err :=
  foldl_keeps (elemStep o t f) (fun a : Core × Flags => a.1.l1Err) (fun acc pl => by
    unfold elemStep
    split
    · exact hk _ _ _
    · split <;> rfl) _ _

end

theorem drawElem_keeps {α : Type} (g : Core → α) (hg : ∀ (c : Core) x, g { c with gen := x } = g c) (rnd : BitVec 3) (f : Nat → Nat → W32 → W32 × Flags) (lane j : Nat) (c : Core) :
    g (drawElem rnd f lane j c).core = g c := by
  unfold drawElem
  split
  · exact hg _ _
  · rfl

/-! ## One step of the recurrence (R81, R140, R141) -/

/-- The function of one step, from the words of its rows. -/
def seqElem (o : OpV) (c : Core) (wa wb : Nat → W32) : Nat → Nat → Core → ElemOut :=
  drawElem o.rnd fun lane j d =>
    eFma (tyOf o.type) o.rnd.toNat d false (elemOf (tyOf o.type).width j (wa lane)) (elemAt c (tyOf o.type) o.vd lane j) (elemOf (tyOf o.type).width j (wb lane))

/-- The walk of one step. -/
def seqWalk (o : OpV) (c : Core) (wa wb : Nat → W32) : Core × Flags := elemWise { o with mz := false } (tyOf o.type) (seqElem o c wa wb) c

theorem seqWalk_congr {o : OpV} (hty : (tyOf o.type).perLane = 1 ∨ (tyOf o.type).perLane = 2) {c : Core} {wa wa' wb wb' : Nat → W32}
    (ha : ∀ l ∈ activeLanes c o (tyOf o.type), wa' l = wa l) (hb : ∀ l ∈ activeLanes c o (tyOf o.type), wb' l = wb l) :
    seqWalk o c wa' wb' = seqWalk o c wa wb := by
  refine elemWise_congr _ _ (drawElem_keeps Core.m (fun _ _ => rfl) _ _) fun pl hpl hact => ?_
  have hl : pl.1 ∈ activeLanes c o (tyOf o.type) := mem_activeLanes hty hpl hact
  unfold seqElem drawElem
  simp only [ha _ hl, hb _ hl]

theorem seqWalk_m (o : OpV) (c : Core) (wa wb : Nat → W32) : (seqWalk o c wa wb).1.m = c.m :=
  elemWalk_m _ _ (drawElem_keeps Core.m (fun _ _ => rfl) _ _) _ (c, 0)

theorem seqWalk_l1Err (o : OpV) (c : Core) (wa wb : Nat → W32) : (seqWalk o c wa wb).1.l1Err = c.l1Err :=
  elemWise_l1Err _ _ (drawElem_keeps Core.l1Err (fun _ _ => rfl) _ _) c

section
variable {p : Fin 72} {e : Entry} {o : OpV} {y : State} {n i : Nat}

/-- A base of VSEQ that it may use for `n` rows. -/
def SeqOwn (y : State) (p : Fin 72) (o : OpV) (n a : Nat) : Prop :=
  a % 64 = 0 ∧ liveSpan y a (n * seqRow (vlOf o)) = true ∧ ownSpan y p a (n * seqRow (vlOf o)) = true

theorem seqRow_lane {o : OpV} {l : Nat} (hi : i < n) (hl : l < vlOf o) : i * seqRow (vlOf o) + 4 * l + 4 ≤ n * seqRow (vlOf o) := by
  have hrow : 4 * l + 4 ≤ seqRow (vlOf o) := by
    unfold seqRow
    omega
  have hmul : (i + 1) * seqRow (vlOf o) ≤ n * seqRow (vlOf o) := Nat.mul_le_mul_right _ hi
  rw [Nat.add_one_mul] at hmul
  omega

theorem SeqOwn.lane {a l : Nat} (h : SeqOwn y p o n a) (hi : i < n) (hl : l < vlOf o) : ownSpan y p (a + i * seqRow (vlOf o) + 4 * l) 4 = true := by
  rw [Nat.add_assoc]
  exact ownSpan_part h.2.2 (seqRow_lane hi hl)

/-- The walk of step `i` on the bytes of its rows. -/
def seqHere (e : Entry) (o : OpV) (y : State) (i : Nat) (c : Core) : Core × Flags :=
  seqWalk o c (laneOf y (e.a.toNat + i * seqRow (vlOf o))) (laneOf y (e.b.toNat + i * seqRow (vlOf o)))

theorem seqStep_own (hs : StorageGood y) (hty : (tyOf o.type).perLane = 1 ∨ (tyOf o.type).perLane = 2) (ha : SeqOwn y p o n e.a.toNat) (hb : SeqOwn y p o n e.b.toNat) (hi : i < n) (fl : Flags) :
    seqStep p e o (tyOf o.type) (y, fl, none) i = (y.setCore p (seqHere e o y i (y.core p)).1, fl ||| (seqHere e o y i (y.core p)).2, none) := by
  have hload : ∀ a, SeqOwn y p o n a → loadLanes p y (a + i * seqRow (vlOf o)) (activeLanes (y.core p) o (tyOf o.type)) =
      (y, (activeLanes (y.core p) o (tyOf o.type)).map (fun l => (l, laneOf y (a + i * seqRow (vlOf o)) l)), none) := fun a h =>
    (loadLanes_own hs _ _ [] fun l hl => h.lane hi (activeLanes_lt hl)).trans rfl
  have hwalk : seqWalk o (y.core p)
      (laneWord ((activeLanes (y.core p) o (tyOf o.type)).map fun l => (l, laneOf y (e.a.toNat + i * seqRow (vlOf o)) l)))
      (laneWord ((activeLanes (y.core p) o (tyOf o.type)).map fun l => (l, laneOf y (e.b.toNat + i * seqRow (vlOf o)) l))) = seqHere e o y i (y.core p) :=
    seqWalk_congr hty (fun l hl => laneWord_map _ hl) fun l hl => laneWord_map _ hl
  rw [← hwalk]
  unfold seqStep
  dsimp only
  rw [hload _ ha]
  dsimp only
  rw [hload _ hb]
  rfl

/-- The state after the walk of a step. -/
def seqMid (p : Fin 72) (e : Entry) (o : OpV) (y : State) (i : Nat) : State := y.setCore p (seqHere e o y i (y.core p)).1

/-- The cells of the row that a step stores. -/
def seqCells (p : Fin 72) (e : Entry) (o : OpV) (y : State) (i : Nat) : List (Nat × Byte) :=
  laneCells (seqHere e o y i (y.core p)).1 { o with va := o.vd } (tyOf o.type) (e.c.toNat + i * seqRow (vlOf o))

/-- The state after a step. -/
def seqAfter (p : Fin 72) (e : Entry) (o : OpV) (y : State) (i : Nat) : State :=
  if bitB o.fx 17 then seqMid p e o y i else putNoted (.core p) (seqMid p e o y i) (seqCells p e o y i)

theorem seqMid_core : (seqMid p e o y i).core p = (seqHere e o y i (y.core p)).1 := setCore_core_same _ _ _

theorem seqMid_good (hs : StorageGood y) : StorageGood (seqMid p e o y i) := by
  refine hs.congr rfl rfl rfl (fun q => ?_) rfl rfl (fun _ _ => rfl) fun _ _ => rfl
  by_cases hq : q = p
  · subst hq
    rw [seqMid_core]
    exact seqWalk_l1Err _ _ _ _
  · exact congrArg Core.l1Err (setCore_core_other _ _ (Ne.symm hq))

theorem mem_seqCells {x : Nat × Byte} : x ∈ seqCells p e o y i ↔
    ∃ lane j b, lane < vlOf o ∧ j < (tyOf o.type).perLane ∧ activeAt (y.core p) o lane (decide (j = 1)) = true ∧ b < (tyOf o.type).bytes ∧
      x = (e.c.toNat + i * seqRow (vlOf o) + 4 * lane + (tyOf o.type).bytes * j + b,
        (elemAt (seqHere e o y i (y.core p)).1 (tyOf o.type) o.vd lane j).extractLsb' (8 * b) 8) := by
  refine mem_laneCells.trans ?_
  have hact : ∀ lane hi, activeAt (seqHere e o y i (y.core p)).1 { o with va := o.vd } lane hi = activeAt (y.core p) o lane hi :=
    fun lane hi => activeAt_congr (seqWalk_m _ _ _ _) o lane hi
  simp only [hact]
  rfl

theorem seqCells_own (hty : ((tyOf o.type).perLane = 1 ∧ (tyOf o.type).bytes = 4) ∨ ((tyOf o.type).perLane = 2 ∧ (tyOf o.type).bytes = 2))
    (hc : SeqOwn y p o n e.c.toNat) (hi : i < n) : ∀ x ∈ seqCells p e o y i, ¬ x.1 < memTop y ∧ byteKey y x.1 ≠ none := by
  intro x hx
  obtain ⟨lane, j, b, hl, hj, -, hb, rfl⟩ := mem_seqCells.mp hx
  have hpos : (tyOf o.type).bytes * j + b < 4 := by
    rcases hty with ⟨h1, h2⟩ | ⟨h1, h2⟩ <;> rw [h2] at hb ⊢ <;> rw [h1] at hj <;> omega
  refine byteKey_of_own (p := p) ?_
  dsimp only
  rw [Nat.add_assoc _ ((tyOf o.type).bytes * j) b]
  exact ownPlace_of_span (hc.lane hi hl) hpos

theorem seqStore_own (hs : StorageGood y) (hcan : Canonical y)
    (hty : ((tyOf o.type).perLane = 1 ∧ (tyOf o.type).bytes = 4) ∨ ((tyOf o.type).perLane = 2 ∧ (tyOf o.type).bytes = 2))
    (ha : SeqOwn y p o n e.a.toNat) (hb : SeqOwn y p o n e.b.toNat) (hc : bitB o.fx 17 = false → SeqOwn y p o n e.c.toNat) (hi : i < n) (fl : Flags) :
    seqStore p e o (tyOf o.type) (y, fl, none) i = (seqAfter p e o y i, fl ||| (seqHere e o y i (y.core p)).2, none) := by
  unfold seqStore seqAfter
  dsimp only
  rw [seqStep_own hs (hty.imp And.left And.left) ha hb hi fl]
  dsimp only
  split
  · rfl
  · next h17 =>
    have hcells : laneCells ((y.setCore p (seqHere e o y i (y.core p)).1).core p) { o with va := o.vd } (tyOf o.type) (e.c.toNat + i * seqRow (vlOf o)) =
        seqCells p e o y i := by
      rw [setCore_core_same]
      rfl
    rw [hcells, show y.setCore p (seqHere e o y i (y.core p)).1 = seqMid p e o y i from rfl,
      storeCells_outside (seqMid_good hs) hcan fun x hx => (seqCells_own hty (hc (Bool.eq_false_iff.mpr h17)) hi x hx).1]

/-- What a step leaves besides the bytes of its row. -/
theorem seqAfter_frame : seqAfter p e o y i = { y with cores := (seqAfter p e o y i).cores, mem := (seqAfter p e o y i).mem } ∧
    (∀ q, q ≠ p → (seqAfter p e o y i).core q = y.core q) ∧
    ∃ out, (seqAfter p e o y i).core p = { (seqHere e o y i (y.core p)).1 with outMem := out } := by
  unfold seqAfter
  split
  · exact ⟨rfl, fun q hq => setCore_core_other _ _ (Ne.symm hq), _, seqMid_core⟩
  · obtain ⟨heq, hother, out, hown⟩ := putNoted_frame (s := seqMid p e o y i) (p := p) (seqCells p e o y i)
    refine ⟨?_, fun q hq => (hother q hq).trans (setCore_core_other _ _ (Ne.symm hq)), out, by rw [hown, seqMid_core]⟩
    generalize (putNoted (.core p) (seqMid p e o y i) (seqCells p e o y i)).cores = c at *
    generalize (putNoted (.core p) (seqMid p e o y i) (seqCells p e o y i)).mem = m at *
    rw [heq]
    rfl

theorem seqAfter_canonical (hcan : Canonical y) : Canonical (seqAfter p e o y i) := by
  obtain ⟨heq, -, -⟩ := seqAfter_frame (p := p) (e := e) (o := o) (y := y) (i := i)
  refine ⟨?_, ?_⟩
  · show memWf (seqAfter p e o y i).mem = true
    unfold seqAfter
    split
    · exact hcan.1
    · exact putCells_wf _ (by rw [noteOut_cores]; exact hcan.1)
  · show smapWf regDefault (seqAfter p e o y i).regs = true
    rw [heq]
    exact hcan.2

theorem seqAfter_good (hs : StorageGood y) : StorageGood (seqAfter p e o y i) := by
  obtain ⟨heq, hother, out, hown⟩ := seqAfter_frame (p := p) (e := e) (o := o) (y := y) (i := i)
  refine hs.congr (by rw [heq]) (by rw [heq]) (by rw [heq]) (fun q => ?_) (by rw [heq]) (by rw [heq]) (fun _ _ => by rw [heq]; rfl) fun _ _ => by rw [heq]; rfl
  by_cases hq : q = p
  · subst hq
    rw [hown]
    exact seqWalk_l1Err _ _ _ _
  · rw [hother q hq]

/-- The bytes of the row that a step stores, and every other byte. -/
theorem byteAt_seqAfter (hcan : Canonical y)
    (hty : ((tyOf o.type).perLane = 1 ∧ (tyOf o.type).bytes = 4) ∨ ((tyOf o.type).perLane = 2 ∧ (tyOf o.type).bytes = 2))
    (hc : bitB o.fx 17 = false → SeqOwn y p o n e.c.toNat) (hi : i < n) (a : Nat) : byteAt (seqAfter p e o y i) a =
      if bitB o.fx 17 then byteAt y a else (cellAt (seqCells p e o y i) a).getD (byteAt y a) := by
  have hmid : byteAt (seqMid p e o y i) a = byteAt y a := byteAt_modCore y p (fun c => (seqHere e o y i c).1) a
  unfold seqAfter
  split
  · exact hmid
  · next h17 =>
    rw [byteAt_putNoted (s := seqMid p e o y i) (.core p) (seqCells p e o y i) hcan.1 (fun x hx => (seqCells_own hty (hc (Bool.eq_false_iff.mpr h17)) hi x hx).2) (laneCells_pairwise _ _ hty _), hmid]

/-- The bases that a run of VSEQ may use. -/
def SeqBases (y : State) (p : Fin 72) (e : Entry) (o : OpV) (n : Nat) : Prop :=
  SeqOwn y p o n e.a.toNat ∧ SeqOwn y p o n e.b.toNat ∧ (bitB o.fx 17 = false → SeqOwn y p o n e.c.toNat)

theorem SeqBases.after (h : SeqBases y p e o n) : SeqBases (seqAfter p e o y i) p e o n := by
  rw [(seqAfter_frame (p := p) (e := e) (o := o) (y := y) (i := i)).1]
  exact h

/-- Every step of a run ends without an error, and meets nothing to wait for. -/
theorem seqSteps_own (hty : ((tyOf o.type).perLane = 1 ∧ (tyOf o.type).bytes = 4) ∨ ((tyOf o.type).perLane = 2 ∧ (tyOf o.type).bytes = 2)) (steps : List Nat) :
    ∀ {y : State} {fl : Flags}, StorageGood y → Canonical y → SeqBases y p e o n → (∀ i ∈ steps, i < n) →
    (steps.foldl (seqStore p e o (tyOf o.type)) (y, fl, none)).2.2 = none ∧
    (steps.foldl (seqStore p e o (tyOf o.type)) (y, fl, none)).1.vit.met = y.vit.met := by
  induction steps with
  | nil => exact fun _ _ _ _ => ⟨rfl, rfl⟩
  | cons i steps ih =>
    intro y fl hs hcan hbases hn
    obtain ⟨ha, hb, hc⟩ := hbases
    rw [List.foldl_cons, seqStore_own hs hcan hty ha hb hc (hn i List.mem_cons_self) fl]
    obtain ⟨hnone, hmet⟩ := ih (fl := fl ||| (seqHere e o y i (y.core p)).2) (seqAfter_good hs) (seqAfter_canonical hcan) (SeqBases.after ⟨ha, hb, hc⟩)
      fun j hj => hn j (List.mem_cons_of_mem i hj)
    refine ⟨hnone, hmet.trans ?_⟩
    rw [(seqAfter_frame (p := p) (e := e) (o := o) (y := y) (i := i)).1]

/-- The steps of a run, in their order. -/
def seqOrder (o : OpV) : List Nat := if bitB o.fx 16 then (List.range (bitsN o.fx 0 16)).reverse else List.range (bitsN o.fx 0 16)

theorem seqOrder_lt : ∀ i ∈ seqOrder o, i < bitsN o.fx 0 16 := by
  intro i hi
  unfold seqOrder at hi
  split at hi
  · exact List.mem_range.mp (List.mem_reverse.mp hi)
  · exact List.mem_range.mp hi

theorem seqFlt_none (h : SeqBases y p e o (bitsN o.fx 0 16)) : seqFlt p y o (seqBases e o) = none := by
  obtain ⟨ha, hb, hc⟩ := h
  have hok : ∀ a, SeqOwn y p o (bitsN o.fx 0 16) a →
      (decide (a % 64 ≠ 0) || !liveSpan y a (bitsN o.fx 0 16 * seqRow (vlOf o)) || !ownSpan y p a (bitsN o.fx 0 16 * seqRow (vlOf o))) = false := by
    rintro a ⟨h1, h2, h3⟩
    rw [h1, h2, h3]
    rfl
  unfold seqFlt
  dsimp only
  rw [List.findSome?_eq_none_iff]
  intro a hmem
  refine if_neg (ne_true_of_eq_false (hok a ?_))
  unfold seqBases at hmem
  rcases List.mem_append.mp hmem with hmem | hmem
  · rcases List.mem_cons.mp hmem with rfl | hmem
    · exact ha
    · exact List.mem_singleton.mp hmem ▸ hb
  · split at hmem
    · exact absurd hmem List.not_mem_nil
    · next h17 => exact List.mem_singleton.mp hmem ▸ hc (Bool.eq_false_iff.mpr h17)

/-- VSEQ once every step has ended. -/
def seqDone (p : Fin 72) (o : OpV) (x : State) (r : State × Flags × Option Flt) : RunOut :=
  match r.2.2 with
  | some f => ranFault (r.1.modCore p fun c => { c with v := (x.core p).v }) f
  | none =>
    { st := r.1.modCore p fun c => (elemWise o (tyOf o.type) (pureElem fun lane j => (elemAt c (tyOf o.type) o.vd lane j, 0)) c).1, sticky := r.2.1 &&& fArith }

theorem runVseq_steps (h : SeqBases y p e o (bitsN o.fx 0 16)) :
    runVseq p e o y = seqDone p o y ((seqOrder o).foldl (seqStore p e o (tyOf o.type)) (y, 0, none)) := by
  unfold runVseq
  dsimp only
  rw [seqFlt_none h]
  rfl

end

theorem vseq_form {o : OpV} (h : formOk .vseq (.v o) = true) :
    ((tyOf o.type).perLane = 1 ∧ (tyOf o.type).bytes = 4) ∨ ((tyOf o.type).perLane = 2 ∧ (tyOf o.type).bytes = 2) := by
  have hv := (Bool.and_eq_true_iff.mp h).2
  simp only [formOkV, Bool.and_eq_true] at hv
  obtain ⟨⟨⟨⟨⟨⟨hty, -⟩, -⟩, -⟩, -⟩, -⟩, -⟩ := hv
  unfold tyIs at hty
  unfold tyOf
  split at hty
  · next t ht =>
    rw [ht]
    revert hty
    cases t <;> decide
  · cases hty

/-- Settles O24: the rows lie in the core's own galleries, which no cache serves, so that a step reads and stores nothing else. -/
theorem vseqRow : Obligations.VseqRow := by
  unfold Obligations.VseqRow
  intro k o s h hs hc e t x n row own bases r
  have hty := vseq_form h.form
  have hn : bitsN o.fx 0 16 = n := bitsN_low o.fx 16
  refine ⟨fun hb => ?_, fun y i fl hy hcan hb hi => ?_⟩
  · have hbases : SeqBases x k.core e o (bitsN o.fx 0 16) := by
      rw [hn]
      exact hb
    have hrun := runVseq_steps hbases
    obtain ⟨hnone, hmet⟩ := seqSteps_own hty (fl := 0) (seqOrder o) (storageGood_atStart h hs) (canonical_atStart hc) hbases seqOrder_lt
    have hr : (seqOrder o).foldl (seqStore k.core e o (tyOf o.type)) (x, 0, none) = r := by
      unfold seqOrder
      rw [hn]
      rfl
    rw [hr] at hrun hnone hmet
    clear_value r
    unfold seqDone at hrun
    rw [hnone] at hrun
    exact ranTo_of h rfl hrun hmet
  · intro q c place word hwalk stores
    obtain ⟨ha, hb, hcb⟩ := hb
    have hq : q = (seqAfter k.core e o y i, fl ||| hwalk.2, none) := seqStore_own hy hcan hty ha hb hcb hi fl
    obtain ⟨heq, hother, out, hown⟩ := seqAfter_frame (p := k.core) (e := e) (o := o) (y := y) (i := i)
    have hbytes := byteAt_seqAfter (p := k.core) (e := e) hcan hty hcb hi
    clear_value q
    subst hq
    refine ⟨rfl, rfl, heq, hother, ?_, fun lane j b hst hb => ?_, fun a ha => ?_⟩
    · rw [hown]
      rfl
    · obtain ⟨h17, hl, hj, hact⟩ := hst
      have hmem : (place e.c lane + t.bytes * j + b, (elemAt hwalk.1 t o.vd lane j).extractLsb' (8 * b) 8) ∈ seqCells k.core e o y i :=
        mem_seqCells.mpr ⟨lane, j, b, hl, hj, hact, hb, rfl⟩
      rw [hbytes, if_neg (show ¬ bitB o.fx 17 = true from ne_true_of_eq_false h17), cellAt_some (cells := seqCells k.core e o y i) (laneCells_pairwise _ _ hty _) hmem, Option.getD_some]
    · rw [hbytes]
      split
      · rfl
      · next h17 =>
        rw [cellAt_none (a := a) ?_, Option.getD_none]
        intro x hx hxa
        obtain ⟨lane, j, b, hl, hj, hact, hb, rfl⟩ := mem_seqCells.mp hx
        exact ha lane j b ⟨Bool.eq_false_iff.mpr h17, hl, hj, hact⟩ hb hxa.symm

end Sys2Proof.Machine


/-! # Reads of the collective engine -/

namespace Sys2Proof.Machine

/-- A read that meets no error changes the marks of the L2 and the lines still to count. -/
theorem devRead_marks {s : State} (h : StorageGood s) (m : Master) (a len : Nat) : ∃ l d,
    devRead m s a len = ({ s with vit := { s.vit with l2 := l }, dbg := { s.dbg with memLag := d } }, readBytes s a len, none) ∧
    OnlyL2 s { s with vit := { s.vit with l2 := l }, dbg := { s.dbg with memLag := d } } := by
  obtain ⟨l, d, ht⟩ := devRead_lines h m a len
  obtain ⟨t, hq, ho⟩ := devRead_good h m a len
  rw [hq] at ht
  obtain ⟨rfl, -⟩ := Prod.ext_iff.mp ht
  exact ⟨l, d, hq, ho⟩

/-! ## Elements of a view -/

/-- What the engine has read so far of a view, and the cells that it yields. -/
structure Fetched (s : State) (mv : Moving) (cells : List (Nat × Byte)) : Prop where
  err : mv.err = none
  only : OnlyL2 s mv.st
  free : mv.st.free = s.free
  cells : mv.cells = cells

section
variable {s : State} {src : View} {mv : Moving} {cells : List (Nat × Byte)}

theorem readElem_fetched (hs : StorageGood s) (h : Fetched s mv cells) {pl : Spot} (hp : Reaches .coll s src pl) :
    Fetched s (readElem .coll src mv pl).1 cells ∧ (readElem .coll src mv pl).2.1 = sourceBytes s src pl := by
  cases pl with
  | fill => exact ⟨⟨h.err, h.only, h.free, h.cells⟩, rfl⟩
  | pad o => exact ⟨⟨h.err, h.only, h.free, h.cells⟩, rfl⟩
  | dropped => exact ⟨h, rfl⟩
  | data z u =>
    have hopen := h.only.opened
    have hplace : placeErrSpan .coll mv.st (src.addr z) src.desc.esize = none := (hopen.placeErrSpan _ _ _).trans hp
    obtain ⟨l, d, ht, ho⟩ := devRead_marks (hs.l2 h.only) .coll (src.addr z) src.desc.esize
    rw [readElem_data hplace, show copyRead .coll mv.st (src.addr z) src.desc.esize = _ from ht]
    exact ⟨⟨rfl, h.only.trans ho, h.free, h.cells⟩, hopen.bytes _ _⟩

/-- The data elements of a view in dense order. -/
def denseBytes (s : State) (v : View) (v0 n : Nat) : List Byte := (List.range n).flatMap fun i => readBytes s (v.addr (v.desc.denseCoord (v0 + i))) v.desc.esize

/-- The engine reaches the data elements of a view. -/
def DenseReach (s : State) (v : View) (v0 n : Nat) : Prop := ∀ i, i < n → placeErrSpan .coll s (v.addr (v.desc.denseCoord (v0 + i))) v.desc.esize = none

/-- The read of one element in dense order. -/
def denseStep (v : View) (v0 : Nat) (m : Moving × List Byte) (i : Nat) : Moving × List Byte :=
  match m.1.err with
  | some _ => m
  | none => ((readElem .coll v m.1 (.data (v.desc.denseCoord (v0 + i)) false)).1, m.2 ++ (readElem .coll v m.1 (.data (v.desc.denseCoord (v0 + i)) false)).2.1)

theorem denseSteps_fetched (hs : StorageGood s) (v : View) (v0 : Nat) (l : List Nat) : ∀ {mv : Moving} (bs : List Byte), Fetched s mv cells →
    (∀ i ∈ l, placeErrSpan .coll s (v.addr (v.desc.denseCoord (v0 + i))) v.desc.esize = none) →
    ∃ mv', l.foldl (denseStep v v0) (mv, bs) = (mv', bs ++ l.flatMap fun i => readBytes s (v.addr (v.desc.denseCoord (v0 + i))) v.desc.esize) ∧
      Fetched s mv' cells := by
  induction l with
  | nil => exact fun bs h _ => ⟨_, by rw [List.flatMap_nil, List.append_nil]; rfl, h⟩
  | cons i l ih =>
    intro mv bs h hp
    obtain ⟨hf, hb⟩ := readElem_fetched hs h (pl := .data (v.desc.denseCoord (v0 + i)) false) (src := v) (hp i List.mem_cons_self)
    obtain ⟨mv', hl, hm⟩ := ih (bs ++ readBytes s (v.addr (v.desc.denseCoord (v0 + i))) v.desc.esize) hf fun j hj => hp j (List.mem_cons_of_mem i hj)
    refine ⟨mv', ?_, hm⟩
    have hstep : denseStep v v0 (mv, bs) i =
        ((readElem .coll v mv (.data (v.desc.denseCoord (v0 + i)) false)).1, bs ++ readBytes s (v.addr (v.desc.denseCoord (v0 + i))) v.desc.esize) := by
      unfold denseStep
      dsimp only
      rw [h.err, hb]
      rfl
    rw [List.foldl_cons, hstep, hl, List.flatMap_cons, List.append_assoc]

/-- A dense read gives the bytes of its elements, and changes nothing but the marks of the L2. -/
theorem readDense_good (hs : StorageGood s) {v : View} {v0 n : Nat} (hp : DenseReach s v v0 n) :
    ∃ t, readDense s v v0 n = (t, denseBytes s v v0 n, none) ∧ OnlyL2 s t ∧ t.free = s.free := by
  obtain ⟨mv, hl, hm⟩ := denseSteps_fetched (cells := []) hs v v0 (List.range n) [] (mv := { st := s }) ⟨rfl, .refl s, rfl, rfl⟩ fun i hi =>
    hp i (List.mem_range.mp hi)
  have hread : readDense s v v0 n = (mv.st, denseBytes s v v0 n, mv.err) :=
    (show readDense s v v0 n = (((List.range n).foldl (denseStep v v0) ({ st := s }, [])).1.st, ((List.range n).foldl (denseStep v v0) ({ st := s }, [])).2,
      ((List.range n).foldl (denseStep v v0) ({ st := s }, [])).1.err) from rfl).trans (by rw [hl]; rfl)
  exact ⟨mv.st, hread.trans (by rw [hm.err]), hm.only, hm.free⟩

theorem denseBytes_congr {t : State} (h : ∀ a n, readBytes t a n = readBytes s a n) (v : View) (v0 n : Nat) : denseBytes t v v0 n = denseBytes s v v0 n := by
  unfold denseBytes
  simp only [h]

theorem DenseReach.congr {t : State} {v : View} {v0 n : Nat} (h : DenseReach s v v0 n) (hp : ∀ a n, placeErrSpan .coll t a n = placeErrSpan .coll s a n) :
    DenseReach t v v0 n := fun i hi => (hp _ _).trans (h i hi)

theorem esize_bf16 {d : Desc} (h : d.ty = .bf16) : d.esize = 2 := by
  unfold Desc.esize
  rw [h]
  rfl

end

end Sys2Proof.Machine


/-! # CPGATH (O40) -/

namespace Sys2Proof.Machine

/-! ## The shards that a gather reads (R364, R365) -/

/-- A step registers its source, and the entry of the view is in use. -/
def sourceSet (t : State) (n : W32) (g : GatherSrc) : State := useBegin (modStep t n fun y => { y with source := some g }) g.entry

section
variable {s t : State} {n : W32} {g : GatherSrc}

theorem sourceSet_places (t : State) (n : W32) (g : GatherSrc) : SamePlaces t (sourceSet t n g) := ⟨rfl, rfl, fun _ _ => rfl⟩

theorem sourceSet_good (h : StorageGood t) (n : W32) (g : GatherSrc) : StorageGood (sourceSet t n g) :=
  h.congr rfl rfl rfl (fun _ => rfl) rfl rfl (fun _ _ => rfl) fun _ _ => rfl

theorem sourceSet_bytes (t : State) (n : W32) (g : GatherSrc) (a len : Nat) : readBytes (sourceSet t n g) a len = readBytes t a len :=
  readBytes_congr (sourceSet_places t n g) rfl a len

theorem sourceSet_place (t : State) (n : W32) (g : GatherSrc) (m : Master) (a len : Nat) : placeErrSpan m (sourceSet t n g) a len = placeErrSpan m t a len :=
  placeErrSpan_congr (sourceSet_places t n g) (fun _ _ => rfl) m a len

end

section
variable {s : State} {p : Plan} {v : View}

/-- The own shards of a plan: the address and the bytes of each. -/
def shardParts (s : State) (p : Plan) (v : View) (bs : List Nat) : List (Nat × List Byte) :=
  bs.map fun b => (p.param b (1024 * p.first b p.rank), denseBytes s v (b * p.vbkt + 1024 * p.first b p.rank) (p.own b p.rank))

/-- The read of the own shard of one bucket. -/
def shardStep (p : Plan) (v : View) (r : State × List (Nat × List Byte) × Option Flt) (b : Nat) : State × List (Nat × List Byte) × Option Flt :=
  match r.2.2 with
  | some _ => r
  | none =>
    let d := readDense r.1 v (b * p.vbkt + 1024 * p.first b p.rank) (p.own b p.rank)
    (d.1, r.2.1 ++ [(p.param b (1024 * p.first b p.rank), d.2.1)], d.2.2)

theorem readShards_steps (s : State) (p : Plan) (v : View) : readShards s p v = (List.range p.nb).foldl (shardStep p v) (s, [], none) := rfl

theorem shardSteps_good (hs : StorageGood s) (bs : List Nat) : ∀ {t : State} (parts : List (Nat × List Byte)), OnlyL2 s t → t.free = s.free →
    (∀ b ∈ bs, DenseReach s v (b * p.vbkt + 1024 * p.first b p.rank) (p.own b p.rank)) →
    ∃ u, bs.foldl (shardStep p v) (t, parts, none) = (u, parts ++ shardParts s p v bs, none) ∧ OnlyL2 s u ∧ u.free = s.free := by
  induction bs with
  | nil => exact fun parts ho hf _ => ⟨_, by rw [shardParts, List.map_nil, List.append_nil]; rfl, ho, hf⟩
  | cons b bs ih =>
    intro t parts ho hf hp
    have hopen := ho.opened
    obtain ⟨u, hread, hou, hfu⟩ := readDense_good (hs.l2 ho) ((hp b List.mem_cons_self).congr fun a n => hopen.placeErrSpan _ a n)
    rw [denseBytes_congr fun a n => hopen.bytes a n] at hread
    obtain ⟨w, hfold, how, hfw⟩ := ih (parts ++ shardParts s p v [b]) (ho.trans hou) (hfu.trans hf) fun c hc => hp c (List.mem_cons_of_mem b hc)
    refine ⟨w, ?_, how, hfw⟩
    have hstep : shardStep p v (t, parts, none) b = (u, parts ++ shardParts s p v [b], none) := by
      unfold shardStep
      dsimp only
      rw [hread]
      rfl
    rw [List.foldl_cons, hstep, hfold, List.append_assoc]
    rfl

theorem readShards_good (hs : StorageGood s) (hp : ∀ b, b < p.nb → DenseReach s v (b * p.vbkt + 1024 * p.first b p.rank) (p.own b p.rank)) :
    ∃ l d, readShards s p v = ({ s with vit := { s.vit with l2 := l }, dbg := { s.dbg with memLag := d } }, shardParts s p v (List.range p.nb), none) := by
  obtain ⟨u, hfold, ho, hf⟩ := shardSteps_good hs (List.range p.nb) [] (.refl s) rfl fun b hb => hp b (List.mem_range.mp hb)
  have he := ho.eq
  rw [hf] at he
  exact ⟨u.vit.l2, u.dbg.memLag, (readShards_steps s p v).trans (hfold.trans (Prod.ext he (congrArg (·, none) (List.nil_append _))))⟩

end

/-! ## The gather is sent -/

/-- The requests of a gather are sent, without a loan. -/
def gatherSent (w : State) (n : W32) (l : List Req) : State :=
  gatherNext (request (perfCount (perfCount (modStep w n fun y => { y with gathering := true, loan := none }) .dbgCol 4 l.length) .dbgCol 5 0) l) n

theorem gatherFrom_alone {w : State} {pl : Plan} {n : W32} {g : GatherSrc} {u : State} {parts : List (Nat × List Byte)}
    (hloan : bitB (w.rget .colLoanCtl 0 0) 31 = false) : gatherFrom w pl n g (u, parts, none) = gatherSent u n (gatherReqs u pl n parts) := by
  unfold gatherFrom gatherSend
  dsimp only
  rw [hloan]
  simp only [Bool.false_and, Bool.false_eq_true, if_false, List.append_nil]
  rfl

/-- The requests of a gather depend on the module's own identity alone. -/
theorem gatherReqs_congr {s t : State} (h : t.rget .zmzCoord 0 0 = s.rget .zmzCoord 0 0) (pl : Plan) (n : W32) (parts : List (Nat × List Byte)) :
    gatherReqs t pl n parts = gatherReqs s pl n parts := by
  have hid : ownId t = ownId s := by
    unfold ownId ownCoord
    rw [h]
  unfold gatherReqs others
  rw [hid]

theorem gatherSent_vit (w : State) (n : W32) (l : List Req) : (gatherSent w n l).vit = w.vit := by
  unfold gatherSent
  rw [gatherNext_vit, request_vit, perfCount_vit, perfCount_vit, modStep_vit]

/-! ## The instruction (R364) -/

/-- CPGATH on the source that it has found. -/
def gatherOn (t : State) (g : GatherSrc) (n : W32) : RunOut :=
  match gatherCheck t (gatherView g) n with
  | .error f => ranFault t f
  | .ok none => ranOk t
  | .ok (some (pl, c)) =>
    { st := if c.cls = some 0 then startGather (sourceSet t n g) pl n g else sourceSet t n g, uses := [g.entry] }

section
variable {p : Fin 72} {e : Entry} {x : State}

theorem runCpgath_refused {f : Flt} (h : viewCheck x e.b = .error f) : runCpgath p e x = ranFault x f := by
  unfold runCpgath
  rw [h]

theorem runCpgath_record {y : Nat × Nat × InvEntry} (h : viewCheck x e.b = .ok y) (hr : (readRecord .coll x y.1).2.2 = none) :
    runCpgath p e x = gatherOn (readRecord .coll x y.1).1
      ⟨p, e.seq, e.b.extractLsb' 0 32, (readRecord .coll x y.1).2.1, y.2.2.base.toNat, y.2.1⟩ (e.d.extractLsb' 0 32) := by
  unfold runCpgath
  rw [h]
  dsimp only
  rw [hr]
  rfl

end

theorem gatherCheck_type {t : State} {v : View} {n : W32} {r : Option (Plan × StepState)} (h : gatherCheck t v n = .ok r) : v.desc.ty = .bf16 := by
  by_contra hty
  unfold gatherCheck at h
  split at h
  · cases h
  · rw [if_pos (.inl hty)] at h
    cases h

/-- What a CPGATH does (R364, R365). -/
theorem cpgathRow (k : Ctl) (o : OpD) (s : State) (h : StartsNow .cpgath (.d o) k .cp s) (hs : StorageGood s) :
    let e := issuedEntry .cpgath (.d o) k s
    let x := atStart .cpgath (.d o) k .cp s
    let n : W32 := e.d.extractLsb' 0 32
    (∀ f, viewCheck x e.b = .error f → ∃ t, exec (.cpgath k o) s = .next t ∧ RanToFault .cpgath (.d o) k .cp s x f t) ∧
    ∀ y, viewCheck x e.b = .ok y →
      let r := readRecord .coll x y.1
      let g : GatherSrc := ⟨k.core, e.seq, e.b.extractLsb' 0 32, r.2.1, y.2.2.base.toNat, y.2.1⟩
      let v := gatherView g
      (∀ f, gatherCheck r.1 v n = .error f →
        ∃ t, exec (.cpgath k o) s = .next t ∧ RanToFault .cpgath (.d o) k .cp s r.1 f t) ∧
      (gatherCheck r.1 v n = .ok none → ∃ t, exec (.cpgath k o) s = .next t ∧ RanTo .cpgath (.d o) k .cp s r.1 0 [] none t) ∧
      ∀ pl c, gatherCheck r.1 v n = .ok (some (pl, c)) →
        let w := sourceSet r.1 n g
        (c.cls ≠ some 0 → ∃ t, exec (.cpgath k o) s = .next t ∧ RanTo .cpgath (.d o) k .cp s w 0 [y.2.1] none t) ∧
        (c.cls = some 0 → bitB (s.rget .colLoanCtl 0 0) 31 = false →
          (∀ b, b < pl.nb → DenseReach s v (b * pl.vbkt + 1024 * pl.first b pl.rank) (pl.own b pl.rank)) →
          ∃ t l d, exec (.cpgath k o) s = .next t ∧
            RanTo .cpgath (.d o) k .cp s (gatherSent { w with vit := { w.vit with l2 := l }, dbg := { w.dbg with memLag := d } } n
              (gatherReqs s pl n (shardParts s pl v (List.range pl.nb)))) 0 [y.2.1] none t) := by
  intro e x n
  refine ⟨fun f hf => ranToFault_of h rfl ((runEntry_port rfl rfl).trans (runCpgath_refused hf)) rfl, ?_⟩
  intro y hy r g v
  obtain ⟨hopen, hnone⟩ := readRecord_opened (storageGood_atStart h hs) .coll y.1
  have hrun := runCpgath_record (p := k.core) hy hnone
  rw [show readRecord .coll x y.1 = r from rfl] at hrun
  replace hopen : Opened x r.1 := hopen
  clear_value r
  unfold gatherOn at hrun
  refine ⟨fun f hf => ?_, fun hf => ?_, fun pl c hf => ?_⟩
  · rw [show gatherCheck _ _ _ = .error f from hf] at hrun
    exact ranToFault_of h rfl ((runEntry_port rfl rfl).trans hrun) hopen.met
  · rw [show gatherCheck _ _ _ = .ok none from hf] at hrun
    exact ranTo_of h rfl ((runEntry_port rfl rfl).trans hrun) hopen.met
  rw [show gatherCheck _ _ _ = .ok (some (pl, c)) from hf] at hrun
  intro w
  refine ⟨fun hc => ?_, fun hc hloan hp => ?_⟩
  · dsimp only at hrun
    rw [if_neg hc] at hrun
    exact ranTo_of h rfl ((runEntry_port rfl rfl).trans hrun) hopen.met
  · dsimp only at hrun
    rw [if_pos hc] at hrun
    have hloanw : bitB (w.rget .colLoanCtl 0 0) 31 = false := by
      rw [show w.rget .colLoanCtl 0 0 = s.rget .colLoanCtl 0 0 from hopen.reg _ _ _ (by decide)]
      exact hloan
    have hplace : ∀ a len, placeErrSpan .coll w a len = placeErrSpan .coll s a len := fun a len => (sourceSet_place _ n g _ a len).trans (opened_place hopen _ a len)
    have hbytes : ∀ a len, readBytes w a len = readBytes s a len := fun a len =>
      (sourceSet_bytes _ n g a len).trans ((hopen.bytes a len).trans (readBytes_atStart a len))
    obtain ⟨l, d, hread⟩ := readShards_good (s := w) (p := pl) (v := v) (sourceSet_good (hopen.good (storageGood_atStart h hs)) n g) fun b hb =>
      (hp b hb).congr hplace
    have hparts : shardParts w pl v (List.range pl.nb) = shardParts s pl v (List.range pl.nb) := by
      unfold shardParts
      simp only [denseBytes_congr hbytes]
    have hreqs : ∀ parts, gatherReqs { w with vit := { w.vit with l2 := l }, dbg := { w.dbg with memLag := d } } pl n parts = gatherReqs s pl n parts :=
      gatherReqs_congr (hopen.reg .zmzCoord 0 0 (by decide)) pl n
    have hstart : startGather w pl n g = gatherSent { w with vit := { w.vit with l2 := l }, dbg := { w.dbg with memLag := d } } n
        (gatherReqs s pl n (shardParts s pl v (List.range pl.nb))) := by
      unfold startGather
      rw [show readShards w pl (gatherView g) = _ from hread, hparts, gatherFrom_alone hloanw, hreqs]
    rw [show startGather _ _ _ _ = _ from hstart] at hrun
    obtain ⟨t, ht, hran⟩ := ranTo_of (i := .cpgath k o) h rfl ((runEntry_port rfl rfl).trans hrun) ((congrArg VitState.met (gatherSent_vit _ _ _)).trans hopen.met)
    exact ⟨t, l, d, ht, hran⟩

end Sys2Proof.Machine


/-! # CPPUT and CPACC (O40) -/

namespace Sys2Proof.Machine

/-! ## The target of a remote operation (R368, R374) -/

section
variable {s t : State} {o : OpD} {b : Bool} {q : Prop} [Decidable q]

theorem cpBitsOk_iff (o : OpD) : cpBitsOk o = false ↔ (o.fx.toNat / 2 ^ 22 ≠ 0 ∨ (o.mode.toNat ≠ 0 ∧ o.mode.toNat ≠ 2)) := by
  have hfx : bitsN o.fx 22 20 = o.fx.toNat / 2 ^ 22 := Nat.mod_eq_of_lt (by have := o.fx.isLt; omega)
  unfold cpBitsOk
  rw [hfx, Bool.and_eq_false_iff, decide_eq_false_iff_not, decide_eq_false_iff_not, List.mem_cons, List.mem_singleton, not_or]

theorem cpTarget_some {m : BitVec 16} (h : portTarget s o = some m) : cpTarget s o.fx = .ok m := by
  unfold portTarget at h
  unfold cpTarget
  dsimp only at h ⊢
  rw [show bitsN o.fx 16 2 = o.fx.toNat / 2 ^ 16 % 4 from rfl]
  generalize o.fx.toNat / 2 ^ 16 % 4 = sel at h
  rw [show bitsN o.fx 0 16 = o.fx.toNat % 2 ^ 16 from bitsN_low o.fx 16]
  split at h
  · cases h
    rfl
  · next p hp =>
    split at h
    · next hi =>
      cases h
      rw [hp]
      exact if_pos hi
    · cases h
  · next p hp =>
    cases h
    rw [hp]
    rfl
  · next p hp =>
    cases h
    rw [hp]
    rfl
  · cases h

theorem cpTarget_none (hp : ¬ (o.fx.toNat / 2 ^ 16 % 4 ≠ 0 ∧ s.col.plan = none)) (h : portTarget s o = none) : cpTarget s o.fx = .error (colFlt 7) := by
  have hsel : o.fx.toNat / 2 ^ 16 % 4 < 4 := Nat.mod_lt _ (by decide)
  unfold portTarget at h
  unfold cpTarget
  dsimp only at h ⊢
  rw [show bitsN o.fx 16 2 = o.fx.toNat / 2 ^ 16 % 4 from rfl]
  generalize o.fx.toNat / 2 ^ 16 % 4 = sel at h hp hsel
  rw [show bitsN o.fx 0 16 = o.fx.toNat % 2 ^ 16 from bitsN_low o.fx 16]
  split at h
  · cases h
  · next p hs =>
    split at h
    · cases h
    · next hi =>
      rw [hs]
      exact if_neg hi
  · cases h
  · cases h
  · next sel _ _ h0 h1 h2 h3 =>
    cases hplan : s.col.plan with
    | none => exact absurd ⟨fun h => h0 h, hplan⟩ hp
    | some p =>
      have hne0 : sel ≠ 0 := fun h => h0 h
      have hne1 : sel ≠ 1 := fun h => h1 p h hplan
      have hne2 : sel ≠ 2 := fun h => h2 p h hplan
      have hne3 : sel ≠ 3 := fun h => h3 p h hplan
      omega

theorem cpCheck_congr (h : t.col = s.col) : cpCheck t o b = cpCheck s o b := by
  unfold cpCheck cpTarget
  rw [h]

theorem cpCheck_detail (hb : b = decide q) {i : Nat} (h : portDetail s o q = some i) : cpCheck s o b = .error (colFlt i) := by
  subst hb
  unfold portDetail at h
  unfold cpCheck
  rw [show bitsN o.fx 16 2 = o.fx.toNat / 2 ^ 16 % 4 from rfl]
  split at h
  · next hplan =>
    cases h
    exact if_pos hplan
  · next hplan =>
    rw [if_neg hplan]
    split at h
    · next hq =>
      cases h
      exact if_pos (decide_eq_true hq)
    · next hq =>
      rw [if_neg (by simpa using hq)]
      split at h
      · next hbits =>
        cases h
        rw [(cpBitsOk_iff o).mpr hbits]
        rfl
      · next hbits =>
        rw [if_neg (by simpa using fun hf => hbits ((cpBitsOk_iff o).mp hf))]
        split at h
        · next htarget =>
          cases h
          exact cpTarget_none hplan htarget
        · cases h

theorem cpCheck_target (hb : b = decide q) {m : BitVec 16} (h : portDetail s o q = none) (hm : portTarget s o = some m) : cpCheck s o b = .ok m := by
  subst hb
  unfold portDetail at h
  unfold cpCheck
  rw [show bitsN o.fx 16 2 = o.fx.toNat / 2 ^ 16 % 4 from rfl]
  split at h
  · cases h
  · next hplan =>
    rw [if_neg hplan]
    split at h
    · cases h
    · next hq =>
      rw [if_neg (by simpa using hq)]
      split at h
      · cases h
      · next hbits =>
        rw [if_neg (by simpa using fun hf => hbits ((cpBitsOk_iff o).mp hf))]
        exact cpTarget_some hm

theorem portDetail_target (h : portDetail s o q = none) : portTarget s o ≠ none := by
  intro ht
  unfold portDetail at h
  rw [if_pos ht] at h
  split at h
  · cases h
  · split at h
    · cases h
    · split at h <;> cases h

theorem portDetail_type (h : portDetail s o q = none) : ¬ q := by
  intro hq
  unfold portDetail at h
  rw [if_pos hq] at h
  split at h <;> cases h

end

theorem sendRemote_vit (s : State) (p : Fin 72) (counter : Option Nat) (l : List Req) : (sendRemote s p counter l).vit = s.vit := by
  unfold sendRemote
  split
  · rfl
  · exact request_vit _ _

/-! ## CPPUT (R369) -/

section
variable {s : State} {src dst : View}

theorem putSteps_fetched (hs : StorageGood s) (xs : List (List Int)) : ∀ {mv : Moving} {cells : List (Nat × Byte)}, Fetched s mv cells →
    (∀ x ∈ xs, ∀ y q, dst.desc.writePlace x = .data y q → Reaches .coll s src (src.desc.readPlace x)) →
    Fetched s (xs.foldl (fun mv x => putPos src dst x mv) mv) (cells ++ (movedOf s src dst id xs).flatMap fun e => cellsAt e.1 e.2) := by
  induction xs with
  | nil =>
    intro mv cells h _
    rw [show movedOf s src dst id [] = [] from rfl, List.flatMap_nil, List.append_nil]
    exact h
  | cons x xs ih =>
    intro mv cells h hp
    have hstep : Fetched s (putPos src dst x mv) (cells ++ (movedOf s src dst id [x]).flatMap fun e => cellsAt e.1 e.2) := by
      unfold putPos
      rw [h.err]
      dsimp only
      cases hw : dst.desc.writePlace x with
      | data y q =>
        obtain ⟨hf, hb⟩ := readElem_fetched hs h (hp x List.mem_cons_self y q hw)
        dsimp only
        rw [hf.err, movedOf_data hw, hb, hf.cells]
        exact ⟨rfl, hf.only, hf.free, by rw [List.flatMap_cons, List.flatMap_nil, List.append_nil]; rfl⟩
      | fill =>
        rw [movedOf_none (by simp [hw]), List.flatMap_nil, List.append_nil]
        exact h
      | pad q =>
        rw [movedOf_none (by simp [hw]), List.flatMap_nil, List.append_nil]
        exact h
      | dropped =>
        rw [movedOf_none (by simp [hw]), List.flatMap_nil, List.append_nil]
        exact h
    rw [List.foldl_cons, movedOf_cons, List.flatMap_append, ← List.append_assoc]
    exact ih hstep fun y hy => hp y (List.mem_cons_of_mem x hy)

/-- Cells that name no address twice, and none that was read, are as they were written. -/
theorem settleCells_nodup (t : State) (mv : Moving) (n : Nat) (h : (mv.cells.map (·.1)).Nodup) : settleCells t { mv with read := [] } n = (t, mv.cells) := by
  unfold settleCells
  refine if_pos ?_
  rw [List.all_eq_true]
  intro c _
  have hcount := List.nodup_iff_count_le_one.mp h c.1
  rw [List.count_eq_countP, List.countP_map] at hcount
  rw [Bool.and_eq_true]
  exact ⟨rfl, decide_eq_true hcount⟩

end

/-- CPPUT once its elements have been read. -/
def putSent (u : ReqUse) (p : Fin 72) (o : OpD) (src dst : View) (m : BitVec 16) (mv : Moving) : RunOut :=
  match mv.err with
  | some f => ranFault mv.st f
  | none =>
    let c := settleCells mv.st { mv with read := [] } dst.desc.esize
    { st := [src.entry, dst.entry].foldl useBegin (sendRemote c.1 p (cpCounter o) ((putTxns m c.2).map fun t => ⟨t, u⟩)), uses := [src.entry, dst.entry] }

/-- CPPUT on the views that it has opened. -/
def putOn (x : State) (p : Fin 72) (e : Entry) (o : OpD) (t : State) (src dst : View) : RunOut :=
  if !dst.destOk then ranFault t (layDestFlt dst.handle)
  else if src.desc.typeCode ≠ dst.desc.typeCode then ranFault t (layTypeFlt dst.desc.typeCode src.desc.typeCode)
  else match cpCheck x o false with
    | .error f => ranFault t f
    | .ok m => putSent (remoteUse x p e (cpCounter o)) p o src dst m (dst.desc.logical.foldl (fun mv x => putPos src dst x mv) { st := t })

section
variable {p : Fin 72} {e : Entry} {o : OpD} {x : State}

theorem runCpput_refused {f : Flt} (h : (openTwo .coll x e.b e.a).2 = .error f) : runCpput p e o x = ranFault (openTwo .coll x e.b e.a).1 f := by
  unfold runCpput
  dsimp only
  rw [h]

theorem runCpput_opened {src dst : View} (h : (openTwo .coll x e.b e.a).2 = .ok (src, dst)) :
    runCpput p e o x = putOn x p e o (openTwo .coll x e.b e.a).1 src dst := by
  unfold runCpput putOn putSent
  generalize openTwo .coll x e.b e.a = v at h
  obtain ⟨t, r⟩ := v
  cases h
  dsimp only <;> cases cpCheck x o false with
  | error f => rfl
  | ok m =>
    dsimp only
    generalize List.foldl _ _ _ = mv
    cases mv.err <;> rfl

end

/-- What a CPPUT does (R369). -/
theorem cpputRow (k : Ctl) (o : OpD) (s : State) (h : StartsNow .cpput (.d o) k .cp s) (hs : StorageGood s) :
    let e := issuedEntry .cpput (.d o) k s
    let v := openTwo .coll (atStart .cpput (.d o) k .cp s) e.b e.a
    let stops (f : Flt) : Prop := ∃ t, exec (.cpput k o) s = .next t ∧ RanToFault .cpput (.d o) k .cp s v.1 f t
    (∀ f, v.2 = .error f → stops f) ∧
    ∀ src dst, v.2 = .ok (src, dst) →
      (dst.destOk = false → stops ⟨0x0505, dst.handle⟩) ∧
      (dst.destOk = true → src.desc.typeCode ≠ dst.desc.typeCode →
        stops ⟨0x0503, BitVec.ofNat 32 (dst.desc.typeCode + 256 * src.desc.typeCode)⟩) ∧
      (dst.destOk = true → src.desc.typeCode = dst.desc.typeCode →
        (∀ i, portDetail s o False = some i → stops ⟨0x0901, BitVec.ofNat 32 i⟩) ∧
        ∀ m, portDetail s o False = none → portTarget s o = some m →
          (∀ x ∈ dst.desc.logical, ∀ y q, dst.desc.writePlace x = .data y q → Reaches .coll s src (src.desc.readPlace x)) →
          let mv := dst.desc.logical.foldl (fun mv y => putPos src dst y mv) { st := v.1 }
          let c := settleCells mv.st { mv with read := [] } dst.desc.esize
          let use : ReqUse := .remote k.core e.seq (s.core k.core).tag (if o.mode.getLsbD 1 then some (o.fx.toNat / 2 ^ 18 % 16) else none)
          mv.cells = (movedElems s src dst id).flatMap (fun e => cellsAt e.1 e.2) ∧
          ((mv.cells.map (·.1)).Nodup → c = (mv.st, mv.cells)) ∧
          ∃ t, exec (.cpput k o) s = .next t ∧
            RanTo .cpput (.d o) k .cp s (useBegin (useBegin
              (sendRemote c.1 k.core (cpCounter o) ((putTxns m c.2).map fun y => ⟨y, use⟩)) src.entry) dst.entry)
              0 [src.entry, dst.entry] none t) := by
  intro e v stops
  have hgood := storageGood_atStart h hs
  have hopen : Opened (atStart .cpput (.d o) k .cp s) v.1 := openTwo_opened hgood _ _ _
  have hstops : ∀ f, runCpput k.core e o (atStart .cpput (.d o) k .cp s) = ranFault v.1 f → stops f := fun f hf =>
    ranToFault_of h rfl ((runEntry_port rfl rfl).trans hf) hopen.met
  refine ⟨fun f hf => hstops f (runCpput_refused hf), fun src dst hv => ?_⟩
  have hrun := runCpput_opened (p := k.core) (o := o) hv
  rw [show openTwo .coll (atStart .cpput (.d o) k .cp s) e.b e.a = v from rfl] at hrun
  clear_value v
  unfold putOn at hrun
  refine ⟨fun hd => ?_, fun hd ht => ?_, fun hd ht => ?_⟩
  · rw [hd] at hrun
    exact hstops _ hrun
  · rw [hd, if_neg (by decide), if_pos ht] at hrun
    exact hstops _ hrun
  have hcheck : ∀ b, cpCheck (atStart .cpput (.d o) k .cp s) o b = cpCheck s o b := fun _ => cpCheck_congr rfl
  rw [hd, if_neg (by decide), if_neg (not_not_intro ht), hcheck] at hrun
  refine ⟨fun i hi => ?_, fun m hnone hm hp => ?_⟩
  · rw [cpCheck_detail (b := false) (q := False) rfl hi] at hrun
    exact hstops _ hrun
  intro mv c use
  rw [cpCheck_target (b := false) (q := False) rfl hnone hm] at hrun
  have hfetch : Fetched v.1 mv ([] ++ (movedOf v.1 src dst id dst.desc.logical).flatMap fun e => cellsAt e.1 e.2) :=
    putSteps_fetched (mv := { st := v.1 }) (cells := []) (hopen.good hgood) dst.desc.logical ⟨rfl, .refl _, rfl, rfl⟩ fun x hx y q hw => by
      have := hp x hx y q hw
      exact hopen.reaches (s := atStart .cpput (.d o) k .cp s) (by cases hr : src.desc.readPlace x <;> rw [hr] at this <;> exact this)
  have hbytes : ∀ a n, readBytes v.1 a n = readBytes s a n := fun a n => (hopen.bytes a n).trans (readBytes_atStart a n)
  replace hrun : runCpput k.core e o (atStart .cpput (.d o) k .cp s) =
    putSent (remoteUse (atStart .cpput (.d o) k .cp s) k.core e (cpCounter o)) k.core o src dst m mv := hrun
  clear_value mv
  refine ⟨by rw [hfetch.cells, List.nil_append, movedOf_congr hbytes, movedElems_eq], settleCells_nodup mv.st mv dst.desc.esize, ?_⟩
  have huse : remoteUse (atStart .cpput (.d o) k .cp s) k.core e (cpCounter o) = use := by
    unfold remoteUse
    rw [atStart_tag h]
    rfl
  unfold putSent at hrun
  rw [hfetch.err, huse] at hrun
  have hmet : c.1.vit.met = s.vit.met := by
    obtain ⟨j, hj⟩ := settleCells_state mv.st { mv with read := [] } dst.desc.esize
    rw [show c.1 = _ from hj]
    exact hfetch.only.met.trans hopen.met
  replace hrun : runCpput k.core e o (atStart .cpput (.d o) k .cp s) =
    { st := [src.entry, dst.entry].foldl useBegin (sendRemote c.1 k.core (cpCounter o) ((putTxns m c.2).map fun t => ⟨t, use⟩)),
      uses := [src.entry, dst.entry] } := hrun
  clear_value c use
  exact ranTo_of h rfl ((runEntry_port rfl rfl).trans hrun) ((uses_met [src.entry, dst.entry] _).trans ((congrArg VitState.met (sendRemote_vit _ _ _ _)).trans hmet))

/-! ## CPACC (R370) -/

/-- The elements of a destination are the words from an address on. -/
theorem mapIdx_words_iff (a : Nat) (l : List Nat) :
    (l.mapIdx fun i x => decide (x = a + 4 * i)).all id = true ↔ l = (List.range l.length).map fun i => a + 4 * i := by
  rw [List.all_eq_true]
  constructor
  · intro h
    refine List.ext_getElem (by simp) fun i hi _ => ?_
    have hx := h _ (List.getElem_mem (l := l.mapIdx fun i x => decide (x = a + 4 * i)) (n := i) (by simpa using hi))
    simpa using hx
  · intro h x hx
    obtain ⟨i, hi, rfl⟩ := List.mem_mapIdx.mp hx
    have hget : l[i] = a + 4 * i := by
      have := List.getElem_of_eq h hi
      simpa using this
    simpa using hget

/-- The destination of a CPACC is `n` words from a line on. -/
def AccLines (dst : View) (n a : Nat) : Prop :=
  dst.desc.ty = .fp32 ∧ n % 16 = 0 ∧ a % 64 = 0 ∧ dst.desc.positions.map dst.addr = (List.range n).map fun i => a + 4 * i

/-- Where the words of a CPACC start, if they stand as they must (R370). -/
def accPlace (dst : View) (n : Nat) : Option Nat := if n % 16 = 0 then accBase dst n else none

section
variable {dst : View} {n a : Nat}

theorem accPlace_some (h : AccLines dst n a) (hn : 0 < n) : accPlace dst n = some a := by
  obtain ⟨hty, hlines, ha, hwords⟩ := h
  have hhead : (dst.desc.positions.map dst.addr).headD 0 = a := by
    rw [hwords]
    cases n with
    | zero => omega
    | succ m => simp [List.range_succ_eq_map]
  have hlen : (dst.desc.positions.map dst.addr).length = n := by simp [hwords]
  unfold accPlace accBase
  dsimp only
  rw [if_pos hlines, hhead, if_pos]
  refine ⟨hty, hlen, ha, (mapIdx_words_iff a _).mpr ?_⟩
  rw [hlen, hwords]

theorem accPlace_none (h : ∀ a, ¬ AccLines dst n a) : accPlace dst n = none := by
  unfold accPlace accBase
  dsimp only
  split
  · next hlines =>
    refine if_neg fun hok => ?_
    obtain ⟨hty, hlen, ha, hall⟩ := hok
    refine h _ ⟨hty, hlines, ha, ?_⟩
    have hwords := (mapIdx_words_iff _ _).mp hall
    rwa [hlen] at hwords
  · rfl

end

/-- CPACC once its elements have been read. -/
def accSent (u : ReqUse) (p : Fin 72) (o : OpD) (src dst : View) (m : BitVec 16) (a : Nat) (d : State × List Byte × Option Flt) : RunOut :=
  match d.2.2 with
  | some f => ranFault d.1 f
  | none => { st := [src.entry, dst.entry].foldl useBegin (sendRemote d.1 p (cpCounter o) ((accTxns m a d.2.1).map fun t => ⟨t, u⟩)), uses := [src.entry, dst.entry] }

/-- CPACC on the views that it has opened. -/
def accOn (x : State) (p : Fin 72) (e : Entry) (o : OpD) (t : State) (src dst : View) : RunOut :=
  if !dst.destOk then ranFault t (layDestFlt dst.handle)
  else match cpCheck x o (decide (src.desc.ty ≠ .bf16)) with
    | .error f => ranFault t f
    | .ok m =>
      match accPlace dst src.desc.count with
      | none => ranFault t (colFlt 8)
      | some a => accSent (remoteUse x p e (cpCounter o)) p o src dst m a (readDense t src 0 src.desc.count)

section
variable {p : Fin 72} {e : Entry} {o : OpD} {x : State}

theorem runCpacc_refused {f : Flt} (h : (openTwo .coll x e.b e.a).2 = .error f) : runCpacc p e o x = ranFault (openTwo .coll x e.b e.a).1 f := by
  unfold runCpacc
  dsimp only
  rw [h]

theorem runCpacc_opened {src dst : View} (h : (openTwo .coll x e.b e.a).2 = .ok (src, dst)) :
    runCpacc p e o x = accOn x p e o (openTwo .coll x e.b e.a).1 src dst := by
  unfold runCpacc accOn accSent accPlace
  generalize openTwo .coll x e.b e.a = v at h
  obtain ⟨t, r⟩ := v
  cases h
  dsimp only <;> cases cpCheck x o (decide (src.desc.ty ≠ .bf16)) with
  | error f => rfl
  | ok m =>
    dsimp only
    generalize (if src.desc.count % 16 = 0 then accBase dst src.desc.count else none) = w
    cases w with
    | none => rfl
    | some a =>
      dsimp only
      generalize readDense _ _ _ _ = d
      obtain ⟨u, bs, err⟩ := d
      cases err <;> rfl

end

/-- What a CPACC does (R370). -/
theorem cpaccRow (k : Ctl) (o : OpD) (s : State) (h : StartsNow .cpacc (.d o) k .cp s) (hs : StorageGood s) :
    let e := issuedEntry .cpacc (.d o) k s
    let v := openTwo .coll (atStart .cpacc (.d o) k .cp s) e.b e.a
    let stops (f : Flt) : Prop := ∃ t, exec (.cpacc k o) s = .next t ∧ RanToFault .cpacc (.d o) k .cp s v.1 f t
    (∀ f, v.2 = .error f → stops f) ∧
    ∀ src dst, v.2 = .ok (src, dst) →
      let n := src.desc.count
      (dst.destOk = false → stops ⟨0x0505, dst.handle⟩) ∧
      (dst.destOk = true →
        (∀ i, portDetail s o (src.desc.ty ≠ .bf16) = some i → stops ⟨0x0901, BitVec.ofNat 32 i⟩) ∧
        (portDetail s o (src.desc.ty ≠ .bf16) = none → (∀ a, ¬ AccLines dst n a) → stops ⟨0x0901, 8⟩) ∧
        ∀ m a, portDetail s o (src.desc.ty ≠ .bf16) = none → portTarget s o = some m → 0 < n → AccLines dst n a → DenseReach s src 0 n →
          let d := readDense v.1 src 0 n
          let use : ReqUse := .remote k.core e.seq (s.core k.core).tag (if o.mode.getLsbD 1 then some (o.fx.toNat / 2 ^ 18 % 16) else none)
          d.2.1 = denseBytes s src 0 n ∧
          ∃ t, exec (.cpacc k o) s = .next t ∧
            RanTo .cpacc (.d o) k .cp s (useBegin (useBegin
              (sendRemote d.1 k.core (cpCounter o) ((accTxns m a d.2.1).map fun y => ⟨y, use⟩)) src.entry) dst.entry)
              0 [src.entry, dst.entry] none t) := by
  intro e v stops
  have hgood := storageGood_atStart h hs
  have hopen : Opened (atStart .cpacc (.d o) k .cp s) v.1 := openTwo_opened hgood _ _ _
  have hstops : ∀ f, runCpacc k.core e o (atStart .cpacc (.d o) k .cp s) = ranFault v.1 f → stops f := fun f hf =>
    ranToFault_of h rfl ((runEntry_port rfl rfl).trans hf) hopen.met
  refine ⟨fun f hf => hstops f (runCpacc_refused hf), fun src dst hv => ?_⟩
  have hrun := runCpacc_opened (p := k.core) (o := o) hv
  rw [show openTwo .coll (atStart .cpacc (.d o) k .cp s) e.b e.a = v from rfl] at hrun
  clear_value v
  unfold accOn at hrun
  intro n
  refine ⟨fun hd => ?_, fun hd => ?_⟩
  · rw [hd] at hrun
    exact hstops _ hrun
  have hcheck : ∀ b, cpCheck (atStart .cpacc (.d o) k .cp s) o b = cpCheck s o b := fun _ => cpCheck_congr rfl
  rw [hd, if_neg (by decide), hcheck] at hrun
  refine ⟨fun i hi => ?_, fun hnone hno => ?_, fun m a hnone hm hn hl hp => ?_⟩
  · rw [cpCheck_detail rfl hi] at hrun
    exact hstops _ hrun
  · obtain ⟨m, hm⟩ := Option.ne_none_iff_exists'.mp (portDetail_target hnone)
    rw [cpCheck_target rfl hnone hm, accPlace_none hno] at hrun
    exact hstops _ hrun
  rw [cpCheck_target rfl hnone hm, accPlace_some hl hn] at hrun
  intro d use
  obtain ⟨t, hread, ho, -⟩ := readDense_good (hopen.good hgood) (hp.congr fun b m => opened_place hopen _ b m)
  have hd1 : d = (t, denseBytes s src 0 n, none) :=
    hread.trans (by rw [denseBytes_congr fun b m => (hopen.bytes b m).trans (readBytes_atStart b m)])
  replace hrun : runCpacc k.core e o (atStart .cpacc (.d o) k .cp s) =
    accSent (remoteUse (atStart .cpacc (.d o) k .cp s) k.core e (cpCounter o)) k.core o src dst m a d := hrun
  clear_value d
  subst hd1
  have huse : remoteUse (atStart .cpacc (.d o) k .cp s) k.core e (cpCounter o) = use := by
    unfold remoteUse
    rw [atStart_tag h]
    rfl
  rw [huse] at hrun
  clear_value use
  exact ⟨rfl, ranTo_of h rfl ((runEntry_port rfl rfl).trans hrun)
    ((uses_met [src.entry, dst.entry] _).trans ((congrArg VitState.met (sendRemote_vit _ _ _ _)).trans (ho.met.trans hopen.met)))⟩

end Sys2Proof.Machine


/-! # CPBKT (O40) -/

namespace Sys2Proof.Machine

/-! ## States that meet nothing to wait for -/

/-- Storage is good and canonical, and what accesses have waited for is `m`. -/
structure Calm (m : List Nat) (s : State) : Prop where
  good : StorageGood s
  can : Canonical s
  met : s.vit.met = m

section
variable {m : List Nat} {s t : State}

theorem Calm.only (h : Calm m s) (o : OnlyL2 s t) : Calm m t :=
  ⟨h.good.l2 o, o.opened.canonical h.can, o.met.trans h.met⟩

theorem Calm.opened (h : Calm m s) (o : Opened s t) : Calm m t := ⟨o.good h.good, o.canonical h.can, o.met.trans h.met⟩

theorem Calm.sent (h : Calm m s) (o : OnlySent s t) : Calm m t :=
  ⟨o.good h.can.2 h.good, ⟨(congrArg memWf o.beside.mem).trans h.can.1, o.wf h.can.2⟩, (congrArg VitState.met o.beside.vit).trans h.met⟩

theorem Calm.withCol (h : Calm m s) (c : CollState) : Calm m { s with col := c } :=
  ⟨h.good.congr rfl rfl rfl (fun _ => rfl) rfl rfl (fun _ _ => rfl) fun _ _ => rfl, h.can, h.met⟩

theorem Calm.withLay (h : Calm m s) (l : LayState) : Calm m { s with lay := l } :=
  ⟨h.good.congr rfl rfl rfl (fun _ => rfl) rfl rfl (fun _ _ => rfl) fun _ _ => rfl, h.can, h.met⟩

/-- A stored register of the collective engine or above holds nothing that storage depends on. -/
theorem rset_below (hw : smapWf regDefault s.regs = true) {r q : RegName} {i n j k : Nat} (hr : 0x3000000 ≤ r.at i n) (hq : q.at j k < 0x3000000) (v : W64) :
    (s.rset r i n v).rget q j k = s.rget q j k := rget_rset_other v hw (by omega)

theorem memStatus_low {k : Nat} (hk : k < 48) : RegName.memStatus.at k 0 < 0x3000000 := by
  show 0x2400000 + k * 0x4000 + 0 * 1 < _
  omega

theorem vtrOwn_low {n : Nat} (hn : n < 64) : RegName.vtrOwn.at 0 n < 0x3000000 := by
  show 0x2000100 + 0 * 1 + n * 8 < _
  omega

theorem vtrSwz_low {n : Nat} (hn : n < 64) : RegName.vtrSwz.at 0 n < 0x3000000 := by
  show 0x2000400 + 0 * 1 + n * 8 < _
  omega

theorem Calm.rset (h : Calm m s) {r : RegName} {i n : Nat} (hr : 0x3000000 ≤ r.at i n) (v : W64) : Calm m (s.rset r i n v) :=
  ⟨h.good.congr rfl rfl rfl (fun _ => rfl) rfl rfl (fun _ hk => rset_below h.can.2 hr (memStatus_low hk) v) fun _ hn => rset_below h.can.2 hr (vtrOwn_low hn) v,
    ⟨h.can.1, rset_wf _ _ _ _ h.can.2⟩, h.met⟩

theorem colCounter_above (k : Nat) : 0x3000000 ≤ RegName.dbgCol.at 0 k := by
  show _ ≤ 0x3e03000 + 0 * 1 + k * 8
  omega

theorem Calm.perf (h : Calm m s) (k n : Nat) : Calm m (perfCount s .dbgCol k n) := by
  unfold perfCount
  split
  · exact h.rset (colCounter_above k) _
  · exact h

theorem Calm.read (h : Calm m s) (a len : Nat) : Calm m (devRead .coll s a len).1 ∧ (devRead .coll s a len).2.2 = none := by
  obtain ⟨t, ht, ho⟩ := devRead_good h.good .coll a len
  rw [ht]
  exact ⟨h.only ho, rfl⟩

theorem Calm.write (h : Calm m s) (cells : List (Nat × Byte)) : Calm m (devWrite .coll s cells).1 ∧ (devWrite .coll s cells).2 = none := by
  have hperf := countLines_perf h.can.2 cells
  have hmem : memWf (putNoted .coll (countLines s cells) cells).mem = true := putCells_wf cells (by
    rw [show (noteOut .coll (countLines s cells) cells).mem = s.mem from by rw [show noteOut .coll (countLines s cells) cells = countLines s cells from rfl, hperf.eq]]
    exact h.can.1)
  rw [devWrite_good h.good h.can.2]
  obtain ⟨x, hx⟩ := putNoted_coll (countLines s cells) cells
  rw [hx] at hmem ⊢
  refine ⟨⟨(hperf.good h.good).congr rfl rfl rfl (fun _ => rfl) rfl rfl (fun _ _ => rfl) fun _ _ => rfl, ⟨hmem, hperf.wf⟩, ?_⟩, rfl⟩
  show (countLines s cells).vit.met = m
  rw [hperf.eq]
  exact h.met

/-! ## A contribution that is not malformed (R354) -/

theorem Calm.ask (h : Calm m s) (l : List Req) : Calm m (request s l) := (h.withCol _).sent (pumpReqs_sent _ _)

theorem Calm.ownAnswer (h : Calm m s) (t : Txn) (u : ReqUse) (a : AccAnswer) : Calm m (ownAnswer s t u a) := by
  cases a with
  | ack => exact h
  | retry => exact h.withCol _
  | err f =>
    show Calm m (logCol s f.code f.detail)
    unfold logCol logWrite
    split
    · exact h
    · exact (h.rset (r := .colErrLog0) (i := 0) (n := 0) (by decide) _).rset (r := .colErrLog1) (i := 0) (n := 0) (by decide) _

theorem colWin_above : 0x3000000 ≤ RegName.colWinStat.at 0 0 := by decide

/-- The answer of a contribution of the module's own. -/
theorem Calm.ownReply (h : Calm m s) (t : Txn) (u : ReqUse) (a : AccAnswer) : Calm m (accReply s (.own t u) a) := by
  show Calm m (Machine.ownAnswer (if a = .retry then countRetry s else s) t u a)
  split
  · exact (h.rset colWin_above _).ownAnswer t u a
  · exact h.ownAnswer t u a

theorem Calm.enqueue (h : Calm m s) (sh : Option (W32 × Nat)) (j a n : Nat) (vals : List (BitVec 16)) (r : AccReply) (slot : Option Nat) :
    Calm m (enqueueOps s sh j a n vals r slot) := by
  unfold enqueueOps
  dsimp only
  cases accUse s a n r with
  | none => exact h.withCol _
  | some i => exact (h.withCol _).withLay _

theorem Calm.modShard (h : Calm m s) (n : W32) (b : Nat) (f : Shard → Shard) : Calm m (modShard s n b f) := h.withCol _

theorem Calm.takeParked (p : Plan) (n : W32) (b j fuel : Nat) : ∀ {s : State}, Calm m s → Calm m (takeParked p n b j fuel s) := by
  induction fuel with
  | zero => exact fun h => h
  | succ fuel ih =>
    intro s h
    unfold Machine.takeParked
    split
    · exact h
    · split
      · exact h
      · next k _ =>
        dsimp only
        split
        · exact ih ((h.modShard n b _).modShard n b _)
        · obtain ⟨hread, hnone⟩ := (h.modShard n b fun x => modChunk x j fun c => { c with parked := c.parked.erase k }).read (p.winBase + 2048 * k.slot)
            (if k.sparse then 32 * p.topk else 2048)
          rw [hnone]
          exact ih ((hread.modShard n b _).enqueue _ _ _ _ _ _ _)

theorem Calm.park (h : Calm m s) (p : Plan) (n : W32) (b j rank : Nat) (t : Txn) (u : ReqUse) : Calm m (park s p n b j rank t (.own t u)) := by
  unfold Machine.park
  split
  · exact h.ownReply t u _
  · next w _ =>
    have hwrite := (h.write (cellsAt (p.winBase + 2048 * w) (t.data.take (if accSparse t then 32 * p.topk else 2048)))).1
    exact ((((hwrite.withCol _).modShard n b _).rset colWin_above _).perf 2 1).ownReply t u _

/-- The ACC of an unthinned contribution. -/
structure PlainContrib (t : Txn) : Prop where
  bits : bitsN t.addr 4 2 = 0
  dense : accSparse t = false
  lines : t.len = 64

theorem PlainContrib.ok {t : Txn} (h : PlainContrib t) (p : Plan) : contribOk p t = true := by
  unfold contribOk
  rw [h.bits, h.dense, h.lines]
  rfl

theorem Calm.takeContrib (h : Calm m s) {t : Txn} (ht : PlainContrib t) (p : Plan) (x : Shard) (j rank : Nat) (u : ReqUse) :
    Calm m (takeContrib s p x j rank t (.own t u)) := by
  unfold Machine.takeContrib
  dsimp only
  split
  · exact h.ownReply t u _
  · rw [ht.ok p]
    simp only [Bool.not_true, Bool.false_eq_true, if_false]
    split
    · exact h.ownReply t u _
    · split
      · exact Calm.takeParked p _ _ j _ ((h.modShard _ _ _).enqueue _ _ _ _ _ _ _)
      · exact h.park p _ _ j rank t u

theorem Calm.arrive (h : Calm m s) {t : Txn} (ht : PlainContrib t) (u : ReqUse) : Calm m (arriveContrib s t (.own t u)) := by
  unfold arriveContrib
  dsimp only
  split
  · exact h.ownReply t u _
  · split
    · exact h.ownReply t u _
    · split
      · exact h.ownReply t u _
      · split
        · exact h.takeContrib ht _ _ _ _ u
        · split
          · exact h.ownReply t u _
          · exact h.ownReply t u _

theorem Calm.sendContrib (h : Calm m s) {t : Txn} (ht : PlainContrib t) (u : ReqUse) : Calm m (sendContrib u s t) := by
  have hperf := (h.perf 1 1).perf 3 (b2n (accSparse t))
  unfold Machine.sendContrib
  dsimp only
  split
  · exact hperf.arrive ht u
  · exact hperf.ask _

theorem Calm.sendContribs (u : ReqUse) (l : List Txn) : ∀ {s : State}, Calm m s → (∀ t ∈ l, PlainContrib t) → Calm m (l.foldl (Machine.sendContrib u) s) := by
  induction l with
  | nil => exact fun h _ => h
  | cons t l ih => exact fun h ht => ih (h.sendContrib (ht t List.mem_cons_self) u) fun x hx => ht x (List.mem_cons_of_mem t hx)

/-! ## The chunks of an unthinned bucket (R351, R352) -/

theorem chunkTxn_plain (s : State) (p : Plan) (n : W32) (b j : Nat) (c : ChunkOut) : PlainContrib (chunkTxn s p n b j false c) := by
  have haddr : (chunkTxn s p n b j false c).addr.toNat = (p.red b (p.owner b j) j / 64 * 64 + n.toNat % 4 * 4 + 0 + 1) % 2 ^ 48 := BitVec.toNat_ofNat _ _
  refine ⟨?_, ?_, rfl⟩
  · unfold bitsN
    rw [haddr]
    omega
  · unfold accSparse bitB
    rw [BitVec.getLsbD, haddr, Nat.testBit_eq_decide_div_mod_eq, decide_eq_false_iff_not]
    omega

/-- A chunk that was formed: nothing waits, and its ACC is a plain one. -/
structure Formed (m : List Nat) (r : State × Except Flt Txn) : Prop where
  calm : Calm m r.1
  plain : ∃ t, r.2 = .ok t ∧ PlainContrib t

theorem formed_out {w : State × Option Flt} (h : Calm m w.1) (hn : w.2 = none) (p : Plan) (n : W32) (b j : Nat) (s : State) (c : ChunkOut) :
    Formed m (chunkOut p n b j false s c w) := by
  obtain ⟨t, e⟩ := w
  cases hn
  exact ⟨h, _, rfl, chunkTxn_plain _ _ _ _ _ _⟩

theorem formed_from {r : State × List Byte × Option Flt} (h : Calm m r.1) (hn : r.2.2 = none) (s : State) (p : Plan) (n : W32) (b j : Nat) (src : List (BitVec 16)) :
    Formed m (chunkFrom s p n b j false src r) := by
  obtain ⟨t, bs, e⟩ := r
  cases hn
  obtain ⟨hwrite, hnone⟩ := h.write (cellsAt (resAddr p (!s.col.resSel) b (1024 * j))
    ((formChunk src (some (words bs)) none).res.flatMap fun x => leBytes 4 x.toNat))
  exact formed_out hwrite hnone p n b j s _

theorem Calm.doChunk (h : Calm m s) (p : Plan) (n : W32) (b j : Nat) (src : List (BitVec 16)) : Formed m (doChunk s p n b j false src) := by
  unfold Machine.doChunk
  split
  · exact ⟨h, _, rfl, chunkTxn_plain _ _ _ _ _ _⟩
  · obtain ⟨hread, hnone⟩ := h.read (resAddr p s.col.resSel b (1024 * j)) 4096
    exact formed_from hread hnone s p n b j src

/-- One chunk of a bucket after another. -/
def chunkStep (p : Plan) (n : W32) (b : Nat) (thin : Bool) (src : List (BitVec 16)) (r : State × List Txn × Option Flt) (j : Nat) : State × List Txn × Option Flt :=
  match r.2.2 with
  | some _ => r
  | none =>
    let x := Machine.doChunk r.1 p n b j thin (slice src (1024 * j) 1024)
    match x.2 with
    | .error f => (x.1, r.2.1, some f)
    | .ok t => (x.1, r.2.1 ++ [t], none)

theorem Calm.chunkSteps (p : Plan) (n : W32) (b : Nat) (src : List (BitVec 16)) (l : List Nat) : ∀ {r : State × List Txn × Option Flt},
    Calm m r.1 → r.2.2 = none → (∀ t ∈ r.2.1, PlainContrib t) →
    Calm m (l.foldl (chunkStep p n b false src) r).1 ∧ (l.foldl (chunkStep p n b false src) r).2.2 = none ∧
      ∀ t ∈ (l.foldl (chunkStep p n b false src) r).2.1, PlainContrib t := by
  induction l with
  | nil => exact fun h hn ht => ⟨h, hn, ht⟩
  | cons j l ih =>
    intro r h hn ht
    obtain ⟨hd, t, hok, hplain⟩ := h.doChunk (s := r.1) p n b j (slice src (1024 * j) 1024)
    have hstep : chunkStep p n b false src r j = ((Machine.doChunk r.1 p n b j false (slice src (1024 * j) 1024)).1, r.2.1 ++ [t], none) := by
      unfold chunkStep
      rw [hn]
      dsimp only
      rw [hok]
    rw [List.foldl_cons, hstep]
    refine ih hd rfl fun x hx => ?_
    rcases List.mem_append.mp hx with hx | hx
    · exact ht x hx
    · exact List.mem_singleton.mp hx ▸ hplain

theorem Calm.doChunks (h : Calm m s) (p : Plan) (n : W32) (b : Nat) (src : List (BitVec 16)) :
    Calm m (doChunks s p n b false src).1 ∧ (doChunks s p n b false src).2.2 = none ∧ ∀ t ∈ (doChunks s p n b false src).2.1, PlainContrib t :=
  Calm.chunkSteps p n b src (List.range (p.c b)) (r := (s, [], none)) h rfl fun _ ht => absurd ht List.not_mem_nil

/-! ## The acceptance of a bucket (R350) -/

theorem putStep_col (s : State) (x : StepState) : ∃ c, putStep s x = { s with col := c } ∧ c.shards = s.col.shards ∧ c.plan = s.col.plan := by
  unfold putStep
  dsimp only
  split
  · split
    · exact ⟨_, rfl, rfl, rfl⟩
    · exact ⟨_, rfl, rfl, rfl⟩
  · exact ⟨_, rfl, rfl, rfl⟩

theorem perfCount_col (s : State) (r : RegName) (k n : Nat) : (perfCount s r k n).col = s.col := by
  unfold perfCount
  split <;> rfl

/-- A new shard with a chunk is not complete. -/
theorem tryShard_new {pl : Plan} {n : W32} {b : Nat} (hp : s.col.plan = some pl) (hr : 0 < pl.r) (hchunk : pl.first b pl.rank < pl.last b pl.rank)
    (hx : shardOf s n b = some (newShard pl n b)) : tryShard s n b = s := by
  have hall : (newShard pl n b).chunks.all (fun c => decide (c.next = pl.r)) = false := by
    rw [List.all_eq_false]
    refine ⟨{ chunk := pl.first b pl.rank + 0 }, List.mem_map.mpr ⟨0, List.mem_range.mpr (by omega), rfl⟩, ?_⟩
    rw [decide_eq_true_eq]
    exact fun h => absurd h.symm (Nat.ne_of_gt hr)
  unfold tryShard
  rw [hp, hx]
  cases stepOf s n with
  | none => rfl
  | some st =>
    dsimp only
    rw [hall]
    simp

end

end Sys2Proof.Machine


/-! # The rows of the collective port (O40) -/

namespace Sys2Proof.Machine

section
variable {s t : State}

/-- A register below those of the collective engine holds what it held when a counter of the engine counts. -/
theorem perfCount_below (hw : smapWf regDefault s.regs = true) {q : RegName} {j i : Nat} (hq : q.at j i < 0x3000000) (k n : Nat) :
    (perfCount s .dbgCol k n).rget q j i = s.rget q j i := by
  unfold perfCount
  split
  · exact rset_below hw (colCounter_above k) hq _
  · rfl

theorem perfCount_keeps {α : Type} (f : State → α) (hf : ∀ (s : State) r, f { s with regs := r } = f s) (s : State) (r : RegName) (k n : Nat) :
    f (perfCount s r k n) = f s := by
  unfold perfCount
  split
  · exact hf s _
  · rfl

theorem perfCount_places (hw : smapWf regDefault s.regs = true) (k n : Nat) : SamePlaces s (perfCount s .dbgCol k n) :=
  ⟨perfCount_keeps State.map (fun _ _ => rfl) _ _ _ _, perfCount_keeps State.memMap (fun _ _ => rfl) _ _ _ _,
    fun _ hn => perfCount_below hw (vtrSwz_low hn) k n⟩

end

/-! ## The acceptance of a bucket (R350) -/

/-- The slot of the module's own shard has opened. -/
def slotOpen (r : State) (tag : W32) (x : StepState) (pl : Plan) (n : W32) (b : Nat) : State :=
  let y := putStep (perfCount r .dbgCol 0 1) { x with tag := some tag, handed := nsetAdd x.handed b }
  { y with col := { y.col with shards := y.col.shards ++ [newShard pl n b] } }

section
variable {m : List Nat} {r : State} {p : Fin 72} {tag : W32} {x : StepState} {pl : Plan} {n : W32} {b : Nat}

theorem slotOpen_eq (r : State) (tag : W32) (x : StepState) (pl : Plan) (n : W32) (b : Nat) : ∃ c, slotOpen r tag x pl n b = { perfCount r .dbgCol 0 1 with col := c } ∧
    c.shards = r.col.shards ++ [newShard pl n b] ∧ c.plan = r.col.plan := by
  obtain ⟨c, hc, hsh, hplan⟩ := putStep_col (perfCount r .dbgCol 0 1) { x with tag := some tag, handed := nsetAdd x.handed b }
  refine ⟨{ c with shards := c.shards ++ [newShard pl n b] }, ?_, ?_, ?_⟩
  · unfold slotOpen
    rw [hc]
  · rw [hsh, perfCount_col]
  · exact hplan.trans (congrArg CollState.plan (perfCount_col _ _ _ _))

theorem slotOpen_calm (h : Calm m r) : Calm m (slotOpen r tag x pl n b) := by
  obtain ⟨c, hc, -, -⟩ := slotOpen_eq r tag x pl n b
  rw [hc]
  exact (h.perf 0 1).withCol c

theorem slotOpen_places (hw : smapWf regDefault r.regs = true) : SamePlaces r (slotOpen r tag x pl n b) := by
  obtain ⟨c, hc, -, -⟩ := slotOpen_eq r tag x pl n b
  rw [hc]
  exact ⟨(perfCount_places hw 0 1).map, (perfCount_places hw 0 1).memMap, (perfCount_places hw 0 1).swz⟩

theorem slotOpen_bytes (hw : smapWf regDefault r.regs = true) (a len : Nat) : readBytes (slotOpen r tag x pl n b) a len = readBytes r a len := by
  refine readBytes_congr (slotOpen_places hw) ?_ a len
  obtain ⟨c, hc, -, -⟩ := slotOpen_eq r tag x pl n b
  rw [hc]
  exact perfCount_keeps State.mem (fun _ _ => rfl) _ _ _ _

theorem slotOpen_place (hw : smapWf regDefault r.regs = true) (q : Master) (a len : Nat) : placeErrSpan q (slotOpen r tag x pl n b) a len = placeErrSpan q r a len := by
  refine placeErrSpan_congr (slotOpen_places hw) (fun i hi => ?_) q a len
  obtain ⟨c, hc, -, -⟩ := slotOpen_eq r tag x pl n b
  rw [hc]
  exact perfCount_below hw (vtrOwn_low hi) 0 1

/-- The new slot is that of its step and bucket where there was none. -/
theorem slotOpen_shard (h : shardOf r n b = none) : shardOf (slotOpen r tag x pl n b) n b = some (newShard pl n b) := by
  obtain ⟨c, hc, hsh, -⟩ := slotOpen_eq r tag x pl n b
  unfold shardOf at h ⊢
  rw [hc]
  dsimp only
  rw [hsh, List.find?_append, h]
  simp [newShard]

theorem slotOpen_try (hp : r.col.plan = some pl) (hr : 0 < pl.r) (hchunk : pl.first b pl.rank < pl.last b pl.rank) (h : shardOf r n b = none) :
    tryShard (slotOpen r tag x pl n b) n b = slotOpen r tag x pl n b := by
  obtain ⟨c, hc, -, hplan⟩ := slotOpen_eq r tag x pl n b
  refine tryShard_new (pl := pl) ?_ hr hchunk (slotOpen_shard h)
  rw [hc]
  exact hplan.trans hp

theorem bucketCheck_ok {v : View} {o : OpD} (h : bucketCheck r p o v b n = .ok (pl, x)) : r.col.plan = some pl ∧ v.desc.ty = .bf16 := by
  unfold bucketCheck at h
  split at h
  · cases h
  · next pl' hpl =>
    split at h
    · cases h
    · split at h
      · cases h
      · next hty =>
        have hbf : v.desc.ty = .bf16 := not_not.mp fun hne => hty (.inl hne)
        split at h
        · cases h
        · split at h
          · cases h
          · split at h
            · cases h
            · split at h
              · cases h
              · cases h
                exact ⟨hpl, hbf⟩

end

/-! ## The instruction (R350) -/

section
variable {p : Fin 72} {e : Entry} {o : OpD} {x : State} {v : View}

theorem runCpbkt_refused {f : Flt} (h : (openView .coll x e.b).2 = .error f) : runCpbkt p e o x = ranFault (openView .coll x e.b).1 f := by
  unfold runCpbkt cpbktFrom
  rw [h]

theorem runCpbkt_bad {f : Flt} (h : (openView .coll x e.b).2 = .ok v)
    (hb : bucketCheck (openView .coll x e.b).1 p o v e.c.toNat (e.d.extractLsb' 0 32) = .error f) : runCpbkt p e o x = ranFault (openView .coll x e.b).1 f := by
  unfold runCpbkt cpbktFrom
  rw [h]
  dsimp only
  rw [hb]

theorem runCpbkt_accepted {pl : Plan} {c : StepState} (h : (openView .coll x e.b).2 = .ok v)
    (hb : bucketCheck (openView .coll x e.b).1 p o v e.c.toNat (e.d.extractLsb' 0 32) = .ok (pl, c)) : runCpbkt p e o x =
      cpbktChunks p e o v pl (readDense (tryShard (slotOpen (openView .coll x e.b).1 ((openView .coll x e.b).1.core p).tag c pl (e.d.extractLsb' 0 32) e.c.toNat) (e.d.extractLsb' 0 32) e.c.toNat)
        v 0 (pl.v e.c.toNat)) := by
  unfold runCpbkt cpbktFrom
  rw [h]
  dsimp only
  rw [hb]
  rfl

theorem cpbktChunks_sent {pl : Plan} {d : State × List Byte × Option Flt} {c : State × List Txn × Option Flt} (hd : d.2.2 = none)
    (hc : doChunks d.1 pl (e.d.extractLsb' 0 32) e.c.toNat (bitB o.mode 0) (halves d.2.1) = c) (hn : c.2.2 = none) : cpbktChunks p e o v pl d =
      { st := useBegin (c.2.1.foldl (sendContrib (.contrib p e.seq (e.d.extractLsb' 0 32))) c.1) v.entry, uses := [v.entry] } := by
  unfold cpbktChunks
  rw [hd, hc]
  unfold cpbktHand
  dsimp only
  rw [hn]

end

/-- An unthinned bucket that is accepted: its values are those of memory, its chunks are formed, and nothing waits. -/
theorem bucket_good {m : List Nat} {r s : State} {tag : W32} {x : StepState} {pl : Plan} {n : W32} {b : Nat} {v : View} {z : State}
    (hcalm : Calm m r) (hplan : r.col.plan = some pl) (hr : 0 < pl.r) (hchunk : pl.first b pl.rank < pl.last b pl.rank) (hshard : shardOf r n b = none)
    (hz : tryShard (slotOpen r tag x pl n b) n b = z) (hplace : ∀ a len, placeErrSpan .coll r a len = placeErrSpan .coll s a len)
    (hbytes : ∀ a len, readBytes r a len = readBytes s a len) (hp : DenseReach s v 0 (pl.v b)) : ∃ t,
    readDense z v 0 (pl.v b) = (t, denseBytes s v 0 (pl.v b), none) ∧
    (doChunks t pl n b false (halves (denseBytes s v 0 (pl.v b)))).2.2 = none ∧
    ∀ u, Calm m ((doChunks t pl n b false (halves (denseBytes s v 0 (pl.v b)))).2.1.foldl (sendContrib u)
      (doChunks t pl n b false (halves (denseBytes s v 0 (pl.v b)))).1) := by
  rw [slotOpen_try hplan hr hchunk hshard] at hz
  subst hz
  have hw := hcalm.can.2
  have hzc : Calm m (slotOpen r tag x pl n b) := slotOpen_calm hcalm
  obtain ⟨t, hread, ho, -⟩ := readDense_good hzc.good (hp.congr fun a len => (slotOpen_place hw _ a len).trans (hplace a len))
  rw [denseBytes_congr fun a len => (slotOpen_bytes hw a len).trans (hbytes a len)] at hread
  obtain ⟨hcc, hcn, hct⟩ := (hzc.only ho).doChunks pl n b (halves (denseBytes s v 0 (pl.v b)))
  exact ⟨t, hread, hcn, fun u => Calm.sendContribs u _ hcc hct⟩

/-- What a CPBKT does (R350 to R352). -/
theorem cpbktRow (k : Ctl) (o : OpD) (s : State) (h : StartsNow .cpbkt (.d o) k .cp s) (hs : StorageGood s) (hcan : Canonical s) :
    let e := issuedEntry .cpbkt (.d o) k s
    let r := openView .coll (atStart .cpbkt (.d o) k .cp s) e.b
    let n : W32 := e.d.extractLsb' 0 32
    let b := e.c.toNat
    (∀ f, r.2 = .error f → ∃ t, exec (.cpbkt k o) s = .next t ∧ RanToFault .cpbkt (.d o) k .cp s r.1 f t) ∧
    ∀ v, r.2 = .ok v →
      (∀ f, bucketCheck r.1 k.core o v b n = .error f → ∃ t, exec (.cpbkt k o) s = .next t ∧ RanToFault .cpbkt (.d o) k .cp s r.1 f t) ∧
      ∀ pl x, bucketCheck r.1 k.core o v b n = .ok (pl, x) →
        let z := tryShard (slotOpen r.1 (s.core k.core).tag x pl n b) n b
        let d := readDense z v 0 (pl.v b)
        let c := doChunks d.1 pl n b (o.mode.getLsbD 0) (halves d.2.1)
        let q := useBegin (c.2.1.foldl (sendContrib (.contrib k.core e.seq n)) c.1) v.entry
        let starts := ∃ t, exec (.cpbkt k o) s = .next t ∧ RanTo .cpbkt (.d o) k .cp s q 0 [v.entry] none t
        (d.2.2 = none → c.2.2 = none → Unheld s q → starts) ∧
        (o.mode = 0 → 0 < pl.r → pl.first b pl.rank < pl.last b pl.rank → shardOf s n b = none → DenseReach s v 0 (pl.v b) →
          starts ∧ d.2.1 = denseBytes s v 0 (pl.v b)) := by
  intro e r n b
  have hgood := storageGood_atStart h hs
  have hopen : Opened (atStart .cpbkt (.d o) k .cp s) r.1 := openView_opened hgood _ _
  refine ⟨fun f hf => ranToFault_of h rfl ((runEntry_port rfl rfl).trans (runCpbkt_refused hf)) hopen.met, fun v hv => ⟨fun f hf => ?_, ?_⟩⟩
  · exact ranToFault_of h rfl ((runEntry_port rfl rfl).trans (runCpbkt_bad hv hf)) hopen.met
  intro pl x hx z d c q starts
  have hrun := runCpbkt_accepted hv hx
  rw [show (openView .coll (atStart .cpbkt (.d o) k .cp s) e.b).1 = r.1 from rfl, hopen.core, atStart_tag h] at hrun
  have hstarts : d.2.2 = none → c.2.2 = none → Unheld s q → starts := fun hd hc hu =>
    ranTo_of h rfl ((runEntry_port rfl rfl).trans (hrun.trans (cpbktChunks_sent (c := c) hd rfl hc))) hu
  refine ⟨hstarts, fun hmode hr hchunk hshard hp => ?_⟩
  obtain ⟨hplan, -⟩ := bucketCheck_ok hx
  have hcalm : Calm s.vit.met r.1 := ⟨hopen.good hgood, hopen.canonical (canonical_atStart hcan), hopen.met⟩
  obtain ⟨t, hread, hcn, hcc⟩ := bucket_good (s := s) (tag := (s.core k.core).tag) (x := x) hcalm hplan hr hchunk (by
      unfold shardOf
      rw [hopen.eq]
      exact hshard) (rfl : _ = z) (fun a len => opened_place hopen _ a len) (fun a len => (hopen.bytes a len).trans (readBytes_atStart a len)) hp
  have hd : d = (t, denseBytes s v 0 (pl.v b), none) := hread
  have hc : c = doChunks t pl n b false (halves (denseBytes s v 0 (pl.v b))) := by
    show doChunks d.1 pl n b (o.mode.getLsbD 0) (halves d.2.1) = _
    rw [hd, hmode]
    rfl
  rw [← hc] at hcn hcc
  exact ⟨hstarts (by rw [hd]) hcn ((uses_met [v.entry] _).trans (hcc _).met), by rw [hd]⟩

/-- The reach of BF16 values in dense order. -/
theorem denseReach_bf16 {s : State} {v : View} {v0 n : Nat} (hty : v.desc.ty = .bf16)
    (h : ∀ i, i < n → placeErrSpan .coll s (v.addr (v.desc.denseCoord (v0 + i))) 2 = none) : DenseReach s v v0 n := by
  unfold DenseReach
  rw [esize_bf16 hty]
  exact h

theorem denseBytes_bf16 (s : State) {v : View} (hty : v.desc.ty = .bf16) (v0 n : Nat) :
    denseBytes s v v0 n = (List.range n).flatMap fun i => readBytes s (v.addr (v.desc.denseCoord (v0 + i))) 2 := by
  unfold denseBytes
  rw [esize_bf16 hty]

/-- Settles O40: each instruction refuses as its checks say; what it reads is what storage holds, and nothing it meets waits. -/
theorem collectivePortRows : Obligations.CollectivePortRows := by
  unfold Obligations.CollectivePortRows
  refine ⟨fun k o s h hs hcan => ?_, fun k o s h hs => ?_, fun k o s h hs => cpputRow k o s h hs, fun k o s h hs => ?_⟩
  · obtain ⟨hfault, hok⟩ := cpbktRow k o s h hs hcan
    refine ⟨hfault, fun v hv => ?_⟩
    obtain ⟨hbad, hgo⟩ := hok v hv
    refine ⟨hbad, fun pl x hx => ?_⟩
    obtain ⟨hstarts, hplain⟩ := hgo pl x hx
    refine ⟨hstarts, fun hmode hr hchunk hshard hp => ?_⟩
    have hty := (bucketCheck_ok hx).2
    have hbytes := denseBytes_bf16 s hty 0 (pl.v (issuedEntry .cpbkt (.d o) k s).c.toNat)
    simp only [Nat.zero_add] at hbytes
    rw [← hbytes]
    exact hplain hmode hr hchunk hshard (denseReach_bf16 hty (by simpa only [Nat.zero_add] using hp))
  · obtain ⟨hfault, hok⟩ := cpgathRow k o s h hs
    refine ⟨hfault, fun y hy => ?_⟩
    obtain ⟨hbad, hnone, hsome⟩ := hok y hy
    refine ⟨hbad, hnone, fun pl c hc => ?_⟩
    obtain ⟨hwait, hgo⟩ := hsome pl c hc
    refine ⟨hwait, fun hcls hloan _ _ _ hp => ?_⟩
    have hty := gatherCheck_type hc
    have hran := hgo hcls hloan fun b hb => denseReach_bf16 hty (hp b hb)
    unfold gatherSent gatherReqs shardParts at hran
    simp only [denseBytes_bf16 s hty] at hran
    exact hran
  · obtain ⟨hfault, hok⟩ := cpaccRow k o s h hs
    refine ⟨hfault, fun src dst hv => ?_⟩
    obtain ⟨hdest, hgo⟩ := hok src dst hv
    refine ⟨hdest, fun hd => ?_⟩
    obtain ⟨hdetail, hlines, hsend⟩ := hgo hd
    refine ⟨hdetail, hlines, fun m a hnone hm hn hl hp => ?_⟩
    have hty : src.desc.ty = .bf16 := not_not.mp (portDetail_type hnone)
    have hbytes := denseBytes_bf16 s hty 0 src.desc.count
    simp only [Nat.zero_add] at hbytes
    rw [← hbytes]
    exact hsend m a hnone hm hn hl (denseReach_bf16 hty (by simpa only [Nat.zero_add] using hp))

end Sys2Proof.Machine


/-! # VCSR: its walk (O27) -/

namespace Sys2Proof.Machine

/-! ## Reads that leave marks alone -/

/-- A state that differs from another in the marks of the L2 and the lines still to count. -/
structure Marked (s t : State) : Prop where
  only : OnlyL2 s t
  free : t.free = s.free

section
variable {s t : State} {p : Fin 72}

theorem Marked.refl (s : State) : Marked s s := ⟨.refl s, rfl⟩

theorem Marked.eq (h : Marked s t) : t = { s with vit := { s.vit with l2 := t.vit.l2 }, dbg := { s.dbg with memLag := t.dbg.memLag } } := by
  have he := h.only.eq
  rw [h.free] at he
  exact he

theorem Marked.bytes (h : Marked s t) (a n : Nat) : readBytes t a n = readBytes s a n := h.only.opened.bytes a n

theorem csrArray_good (hs : StorageGood s) (h : Marked s t) (a len : Nat) : ∃ u, csrArray p (t, none) a len = ((u, none), readBytes s a len) ∧ Marked s u := by
  obtain ⟨l, d, hread, ho⟩ := devRead_marks (hs.l2 h.only) (.core p) a len
  refine ⟨_, ?_, h.only.trans ho, h.free⟩
  unfold csrArray
  dsimp only
  rw [hread, h.bytes]

/-- The read of one element of a view. -/
def viewErrStep (p : Fin 72) (v : View) (row : Nat) (r : State × Option Flt) (c : Nat) : State × Option Flt :=
  match v.desc.readPlace [(c : Int), (row : Int)] with
  | .data q _ => (csrArray p r (v.addr q) v.desc.esize).1
  | _ => r

theorem viewErr_steps (p : Fin 72) (n : Nat) (v : View) (r : State × Option Flt) (rows : List Nat) :
    viewErr p n v r rows = rows.foldl (fun r row => (List.range n).foldl (viewErrStep p v row) r) r := rfl

theorem viewErrSteps_good (hs : StorageGood s) (v : View) (row : Nat) (cs : List Nat) : ∀ {t : State}, Marked s t →
    ∃ u, cs.foldl (viewErrStep p v row) (t, none) = (u, none) ∧ Marked s u := by
  induction cs with
  | nil => exact fun h => ⟨_, rfl, h⟩
  | cons c cs ih =>
    intro t h
    have hstep : ∃ u, viewErrStep p v row (t, none) c = (u, none) ∧ Marked s u := by
      unfold viewErrStep
      cases v.desc.readPlace [(c : Int), (row : Int)] with
      | data q _ =>
        obtain ⟨u, hu, hm⟩ := csrArray_good (p := p) hs h (v.addr q) v.desc.esize
        exact ⟨u, congrArg Prod.fst hu, hm⟩
      | fill => exact ⟨t, rfl, h⟩
      | pad _ => exact ⟨t, rfl, h⟩
      | dropped => exact ⟨t, rfl, h⟩
    obtain ⟨u, hu, hm⟩ := hstep
    rw [List.foldl_cons, hu]
    exact ih hm

theorem viewErr_good (hs : StorageGood s) (n : Nat) (v : View) (rows : List Nat) : ∀ {t : State}, Marked s t →
    ∃ u, viewErr p n v (t, none) rows = (u, none) ∧ Marked s u := by
  simp only [viewErr_steps]
  induction rows with
  | nil => exact fun h => ⟨_, rfl, h⟩
  | cons row rows ih =>
    intro t h
    obtain ⟨u, hu, hm⟩ := viewErrSteps_good (p := p) hs v row (List.range n) h
    rw [List.foldl_cons, hu]
    exact ih hm

end

/-! ## The walk (R202, R203) -/

/-- A stored element whose column index is not one of B's rows. -/
def csrColBad (s : State) (h : CsrHdr) (k : Nat) : Bool := decide (h.cols ≤ leNat (readBytes s (h.colidx + 4 * k) 4))

section
variable {s : State} {p : Fin 72} {x : CsrIn} {b y : View} {n : Nat} {r : CsrRun}

theorem csrTake_good (hs : StorageGood s) (h : Marked s r.1) (hn : r.2 = none) (k : Nat) :
    Marked s (csrTake p x b n r k).1 ∧ (csrTake p x b n r k).2 = if csrColBad s x.h k then some (n, csrColFlt k) else none := by
  obtain ⟨u, hu, hmu⟩ := csrArray_good (p := p) hs h (x.h.colidx + 4 * k) 4
  unfold csrTake
  rw [hn]
  dsimp only
  rw [hu]
  dsimp only [Option.isNone_none, Bool.true_and]
  rw [show decide (x.h.cols ≤ leNat (readBytes s (x.h.colidx + 4 * k) 4)) = csrColBad s x.h k from rfl]
  split
  · next hbad => exact ⟨hmu, (if_pos hbad).symm⟩
  · next hbad =>
    obtain ⟨v, hv, hmv⟩ := csrArray_good (p := p) hs hmu (x.h.values + x.h.vty.bytes * k) x.h.vty.bytes
    rw [hv]
    obtain ⟨w, hw, hmw⟩ := viewErr_good (p := p) hs x.n b [leNat (readBytes s (x.h.colidx + 4 * k) 4)] hmv
    rw [hw]
    exact ⟨hmw, (if_neg hbad).symm⟩

theorem csrTakes_stopped (h : r.2.isSome = true) (ks : List Nat) : ks.foldl (csrTake p x b n) r = r := by
  refine foldl_id _ _ _ fun k _ => ?_
  obtain ⟨f, hf⟩ := Option.isSome_iff_exists.mp h
  unfold csrTake
  rw [hf]

theorem csrTakes_good (hs : StorageGood s) (ks : List Nat) : ∀ {r : CsrRun}, Marked s r.1 → r.2 = none →
    Marked s (ks.foldl (csrTake p x b n) r).1 ∧ (ks.foldl (csrTake p x b n) r).2 = (ks.find? (csrColBad s x.h)).map fun k => (n, csrColFlt k) := by
  induction ks with
  | nil => exact fun h hn => ⟨h, hn⟩
  | cons k ks ih =>
    intro r h hn
    obtain ⟨hm, htake⟩ := csrTake_good (p := p) (x := x) (b := b) (n := n) hs h hn k
    rw [List.foldl_cons]
    cases hbad : csrColBad s x.h k with
    | true =>
      rw [hbad, if_pos rfl] at htake
      rw [csrTakes_stopped (by rw [htake]; rfl), List.find?_cons_of_pos hbad]
      exact ⟨hm, htake⟩
    | false =>
      rw [hbad, if_neg Bool.false_ne_true] at htake
      rw [List.find?_cons_of_neg (by rw [hbad]; exact Bool.false_ne_true)]
      exact ih hm htake

theorem csrAccRead_stopped (h : r.2.isSome = true) (rows : List Nat) : csrAccRead p x y n rows r = r := by
  obtain ⟨f, hf⟩ := Option.isSome_iff_exists.mp h
  unfold csrAccRead
  rw [hf]

theorem csrAccRead_good (hs : StorageGood s) (h : Marked s r.1) (hn : r.2 = none) (rows : List Nat) :
    Marked s (csrAccRead p x y n rows r).1 ∧ (csrAccRead p x y n rows r).2 = none := by
  unfold csrAccRead
  rw [hn]
  cases x.acc with
  | true =>
    obtain ⟨u, hu, hm⟩ := viewErr_good (p := p) hs x.n y rows h
    dsimp only
    rw [hu]
    exact ⟨hm, rfl⟩
  | false => exact ⟨h, hn⟩

theorem csrStep_stopped (h : r.2.isSome = true) (m : Nat) : csrStep p x b y r m = r := by
  unfold csrStep
  rw [csrTakes_stopped h, csrAccRead_stopped h]

theorem csrStep_good (hs : StorageGood s) (h : Marked s r.1) (hn : r.2 = none) (m : Nat) :
    Marked s (csrStep p x b y r m).1 ∧
    (csrStep p x b y r m).2 = ((csrStepElems x.h.nnz x.pc m).find? (csrColBad s x.h)).map fun k => (m, csrColFlt k) := by
  obtain ⟨hm, htakes⟩ := csrTakes_good (p := p) (x := x) (b := b) (n := m) hs (csrStepElems x.h.nnz x.pc m) h hn
  unfold csrStep
  cases hfind : (csrStepElems x.h.nnz x.pc m).find? (csrColBad s x.h) with
  | some k =>
    rw [hfind] at htakes
    rw [csrAccRead_stopped (by rw [htakes]; rfl)]
    exact ⟨hm, htakes⟩
  | none =>
    rw [hfind] at htakes
    exact csrAccRead_good hs hm htakes _

/-! ### The step of an element -/

theorem csrBound_mono (nnz pc : Nat) {q w : Nat} (h : q ≤ w) : csrBound nnz pc q ≤ csrBound nnz pc w :=
  Nat.div_le_div_right (Nat.mul_le_mul_right _ h)

theorem mem_csrStepElems {nnz pc k : Nat} : k ∈ csrStepElems nnz pc n ↔ ∃ q, q < pc ∧ k = csrBound nnz pc q + n ∧ k < csrBound nnz pc (q + 1) := by
  unfold csrStepElems
  rw [List.mem_filterMap]
  constructor
  · rintro ⟨q, hq, hk⟩
    dsimp only at hk
    split at hk
    · next hlt =>
      cases hk
      exact ⟨q, List.mem_range.mp hq, rfl, hlt⟩
    · cases hk
  · rintro ⟨q, hq, rfl, hlt⟩
    exact ⟨q, List.mem_range.mpr hq, if_pos hlt⟩

theorem lt_of_mem_csrStepElems {nnz pc k : Nat} (h : k ∈ csrStepElems nnz pc n) : k < nnz := by
  obtain ⟨q, hq, -, hlt⟩ := mem_csrStepElems.mp h
  refine Nat.lt_of_lt_of_le hlt ?_
  have hpc : csrBound nnz pc pc = nnz := Nat.mul_div_cancel_left nnz (by omega)
  exact Nat.le_trans (csrBound_mono nnz pc hq) (Nat.le_of_eq hpc)

/-- Each element has one partition, so that its step is the one at which it is taken. -/
theorem csrStepOf_elem {nnz pc k : Nat} (h : k ∈ csrStepElems nnz pc n) : csrStepOf nnz pc k = n := by
  obtain ⟨q, hq, hk, hlt⟩ := mem_csrStepElems.mp h
  have hfind : ((List.range pc).findSome? fun w =>
      if csrBound nnz pc w ≤ k ∧ k < csrBound nnz pc (w + 1) then some (k - csrBound nnz pc w) else none) = some n := by
    cases hf : ((List.range pc).findSome? fun w =>
      if csrBound nnz pc w ≤ k ∧ k < csrBound nnz pc (w + 1) then some (k - csrBound nnz pc w) else none) with
    | none =>
      have := List.findSome?_eq_none_iff.mp hf q (List.mem_range.mpr hq)
      rw [if_pos ⟨by omega, hlt⟩] at this
      cases this
    | some m =>
      obtain ⟨w, -, hw⟩ := List.exists_of_findSome?_eq_some hf
      split at hw
      · next hin =>
        cases hw
        have hqw : w = q := by
          rcases Nat.lt_trichotomy w q with hlt' | heq | hgt
          · have := csrBound_mono nnz pc (show w + 1 ≤ q from hlt')
            omega
          · exact heq
          · have := csrBound_mono nnz pc (show q + 1 ≤ w from hgt)
            omega
        subst hqw
        congr 1
        omega
      · cases hw
  unfold csrStepOf
  rw [hfind]
  rfl

theorem csrSteps_stopped (h : r.2.isSome = true) (ms : List Nat) : ms.foldl (csrStep p x b y) r = r :=
  foldl_id _ _ _ fun m _ => csrStep_stopped h m

/-- The walk stops at the first element, in its order, whose column index is bad. -/
theorem csrSteps_good (hs : StorageGood s) (ms : List Nat) : ∀ {r : CsrRun}, Marked s r.1 → r.2 = none →
    Marked s (ms.foldl (csrStep p x b y) r).1 ∧
    (ms.foldl (csrStep p x b y) r).2 =
      ((ms.flatMap (csrStepElems x.h.nnz x.pc)).find? (csrColBad s x.h)).map fun k => (csrStepOf x.h.nnz x.pc k, csrColFlt k) := by
  induction ms with
  | nil => exact fun h hn => ⟨h, hn⟩
  | cons m ms ih =>
    intro r h hn
    obtain ⟨hm, hstep⟩ := csrStep_good (p := p) (x := x) (b := b) (y := y) hs h hn m
    rw [List.foldl_cons, List.flatMap_cons, List.find?_append]
    cases hfind : (csrStepElems x.h.nnz x.pc m).find? (csrColBad s x.h) with
    | some k =>
      rw [hfind] at hstep
      rw [csrSteps_stopped (by rw [hstep]; rfl)]
      refine ⟨hm, hstep.trans ?_⟩
      rw [Option.some_or, Option.map_some, Option.map_some, csrStepOf_elem (List.mem_of_find?_eq_some hfind)]
    | none =>
      rw [hfind] at hstep
      rw [Option.none_or]
      exact ih hm hstep

/-- The elements in the order of the walk. -/
def csrOrder (nnz pc : Nat) : List Nat := (List.range ((nnz + pc - 1) / pc)).flatMap (csrStepElems nnz pc)

theorem csrReads_good (hs : StorageGood s) {t : State} (h : Marked s t) : Marked s (csrReads p x b y t).1 ∧
    (csrReads p x b y t).2 = ((csrOrder x.h.nnz x.pc).find? (csrColBad s x.h)).map
      fun k => (csrStepOf x.h.nnz x.pc k, csrColFlt k) := by
  obtain ⟨hm, hn⟩ := csrAccRead_good (p := p) (x := x) (y := y) (n := 0) (r := (t, none)) hs h rfl ((List.range x.h.rows).filter (csrRowDone x 0))
  exact csrSteps_good hs _ hm hn

end

/-! ### The words of an array -/

theorem wordsAt_readBytes (s : State) (n : Nat) : ∀ a k, k < n → (wordsAt (readBytes s a (4 * n))).getD k 0 = leNat (readBytes s (a + 4 * k) 4) := by
  induction n with
  | zero => exact fun a k hk => absurd hk (Nat.not_lt_zero k)
  | succ n ih =>
    intro a k hk
    have hsplit : wordsAt (readBytes s a (4 * (n + 1))) = leNat (readBytes s a 4) :: wordsAt (readBytes s (a + 4) (4 * n)) := by
      rw [show 4 * (n + 1) = 4 + 4 * n by omega, ← readBytes_append]
      rfl
    rw [hsplit]
    cases k with
    | zero => rfl
    | succ k =>
      rw [List.getD_cons_succ, ih (a + 4) k (by omega), show a + 4 * (k + 1) = a + 4 + 4 * k by omega]

end Sys2Proof.Machine


/-! # VCSR (O27) -/

namespace Sys2Proof.Machine

/-! ## The value of an element (R203) -/

section
variable (x : CsrIn) (c : Nat)

/-- One product added to a partial sum. -/
def csrMac (lo : Nat) (a : W32) (j : Nat) : W32 × Flags := ffma (x.vals.getD (lo + j) 0) (x.bGet (x.cols.getD (lo + j) 0) c) a

theorem csrPart_value (lo hi : Nat) : (csrPart x c lo hi).1 = (List.range (hi - lo)).foldl (fun a j => (csrMac x c lo a j).1) 0 := by
  have key : ∀ (l : List Nat) (acc : W32 × Flags), (l.foldl (fun a j => ((csrMac x c lo a.1 j).1, a.2 ||| (csrMac x c lo a.1 j).2)) acc).1 =
      l.foldl (fun a j => (csrMac x c lo a j).1) acc.1 := by
    intro l
    induction l with
    | nil => exact fun _ => rfl
    | cons j l ih => exact fun acc => ih _
  exact key (List.range (hi - lo)) (0, 0)

/-- The partial sums that are there, added from left to right. -/
def csrSum : Option W32 → List W32 → Option W32
  | t, [] => t
  | none, p :: l => csrSum (some p) l
  | some y, p :: l => csrSum (some (fadd y p).1) l

theorem csrSum_some (y : W32) (l : List W32) : csrSum (some y) l = some (l.foldl (fun a b => (fadd a b).1) y) := by
  induction l generalizing y with
  | nil => rfl
  | cons p l ih => exact ih _

/-- One partition's share of a row joins the sum. -/
def csrJoin (i : Nat) (t : Option W32 × Flags) (q : Nat) : Option W32 × Flags :=
  let lo := max (x.ptr.getD i 0) (csrBound x.h.nnz x.pc q)
  let hi := min (x.ptr.getD (i + 1) 0) (csrBound x.h.nnz x.pc (q + 1))
  if lo < hi then
    let part := csrPart x c lo hi
    match t.1 with
    | none => (some part.1, t.2 ||| part.2)
    | some y => ((fadd y part.1).1, t.2 ||| part.2 ||| (fadd y part.1).2)
  else t

theorem csrJoin_value (i : Nat) (t : Option W32 × Flags) (q : Nat) : (csrJoin x c i t q).1 = csrSum t.1 (csrTerm x i c q).toList := by
  have hterm : csrTerm x i c q = if max (x.ptr.getD i 0) (csrBound x.h.nnz x.pc q) < min (x.ptr.getD (i + 1) 0) (csrBound x.h.nnz x.pc (q + 1)) then
      some (csrPart x c (max (x.ptr.getD i 0) (csrBound x.h.nnz x.pc q)) (min (x.ptr.getD (i + 1) 0) (csrBound x.h.nnz x.pc (q + 1)))).1 else none := by
    rw [csrPart_value]
    rfl
  rw [hterm]
  unfold csrJoin
  dsimp only
  split
  · cases t.1 with
    | none => rfl
    | some y => rfl
  · cases t.1 with
    | none => rfl
    | some y => rfl

theorem csrSum_append (t : Option W32) (a b : List W32) : csrSum t (a ++ b) = csrSum (csrSum t a) b := by
  induction a generalizing t with
  | nil => rfl
  | cons p a ih =>
    cases t with
    | none => exact ih _
    | some y => exact ih _

theorem csrJoins_value (i : Nat) (qs : List Nat) : ∀ t : Option W32 × Flags, (qs.foldl (csrJoin x c i) t).1 = csrSum t.1 (qs.filterMap (csrTerm x i c)) := by
  induction qs with
  | nil => exact fun t => rfl
  | cons q qs ih =>
    intro t
    have hsplit : (q :: qs).filterMap (csrTerm x i c) = (csrTerm x i c q).toList ++ qs.filterMap (csrTerm x i c) := by
      rw [List.filterMap_cons]
      cases csrTerm x i c q <;> rfl
    rw [List.foldl_cons, ih, csrJoin_value, hsplit, csrSum_append]

theorem csrElem_value (i : Nat) : (csrElem x i c).1 = csrValue x i c := by
  have hsum : (csrElem x i c).1 = if x.acc then (fadd (x.yGet i c) (((List.range x.pc).foldl (csrJoin x c i) (none, 0)).1.getD 0)).1
      else ((List.range x.pc).foldl (csrJoin x c i) (none, 0)).1.getD 0 := by
    unfold csrElem
    dsimp only
    split <;> rfl
  have hvalue : (csrSum none ((List.range x.pc).filterMap (csrTerm x i c))).getD 0 = match (List.range x.pc).filterMap (csrTerm x i c) with
      | [] => 0
      | p :: l => l.foldl (fun a b => (fadd a b).1) p := by
    cases (List.range x.pc).filterMap (csrTerm x i c) with
    | nil => rfl
    | cons p l =>
      show (csrSum (some p) l).getD 0 = _
      rw [csrSum_some]
      rfl
  rw [hsum, csrJoins_value, hvalue]
  rfl

/-- The cells of a row are those of its elements. -/
theorem csrRow_cells (y : View) (i : Nat) : (csrRow x y i).1 =
    (List.range x.n).flatMap fun c => csrPut y i c (convert y.desc.ty .fp32 0 0 false (csrValue x i c)).1.toNat := by
  have key : ∀ (l : List Nat) (acc : List (Nat × Byte) × Flags), (l.foldl (fun a c =>
      (a.1 ++ csrPut y i c (convert y.desc.ty .fp32 0 0 false (csrElem x i c).1).1.toNat,
        a.2 ||| (csrElem x i c).2 ||| (convert y.desc.ty .fp32 0 0 false (csrElem x i c).1).2)) acc).1 =
      acc.1 ++ l.flatMap fun c => csrPut y i c (convert y.desc.ty .fp32 0 0 false (csrValue x i c)).1.toNat := by
    intro l
    induction l with
    | nil => exact fun acc => (List.append_nil _).symm
    | cons c l ih =>
      intro acc
      rw [List.foldl_cons, ih, List.flatMap_cons, csrElem_value, List.append_assoc]
  exact (key (List.range x.n) ([], 0)).trans (List.nil_append _)

end

/-! ## The places of Y -/

theorem mem_coords_map (f : Nat → Int) (d : Nat → Nat) (ks : List Nat) (h : ∀ k ∈ ks, 0 ≤ f k ∧ f k < d k) : ks.map f ∈ coords (ks.map d) := by
  induction ks with
  | nil => exact List.mem_singleton.mpr rfl
  | cons k ks ih =>
    obtain ⟨hlo, hhi⟩ := h k List.mem_cons_self
    refine List.mem_flatMap.mpr ⟨ks.map f, ih fun j hj => h j (List.mem_cons_of_mem k hj), List.mem_map.mpr ⟨(f k).toNat, List.mem_range.mpr (by omega), ?_⟩⟩
    rw [List.map_cons, Int.ofNat_eq_natCast, Int.toNat_of_nonneg hlo]

/-- A descriptor whose padding is of its first two dimensions, as every record's is. -/
def PadsTwo (d : Desc) : Prop := ∀ k, 2 ≤ k → d.padLo k = 0 ∧ d.padHi k = 0

theorem decodeDesc_padsTwo (rec : List Byte) : PadsTwo (decodeDesc rec) := by
  intro k hk
  unfold Desc.padLo Desc.padHi decodeDesc
  dsimp only
  exact ⟨List.getD_eq_default _ _ hk, List.getD_eq_default _ _ hk⟩

theorem writePlace_position {d : Desc} (hpad : PadsTwo d) {x q : List Int} {u : Bool} (h : d.writePlace x = .data q u) : q ∈ d.positions := by
  unfold Desc.writePlace at h
  split at h
  · cases h
  · next hout =>
    split at h
    · cases h
    · next hin =>
      cases h
      refine mem_coords_map (fun k => x.getD k 0 - d.padLo k) d.dim (List.range 8) fun k hk => ?_
      have hk8 : ¬ (decide (x.getD k 0 < 0) || decide ((d.ext k : Int) ≤ x.getD k 0)) = true := fun hb => hout (List.any_eq_true.mpr ⟨k, hk, hb⟩)
      rw [Bool.or_eq_true, decide_eq_true_eq, decide_eq_true_eq, not_or] at hk8
      unfold Desc.ext at hk8
      by_cases h2 : k < 2
      · have hk2 : ¬ (decide (x.getD k 0 < d.padLo k) || decide ((d.padLo k + d.dim k : Int) ≤ x.getD k 0)) = true := fun hb =>
          hin (List.any_eq_true.mpr ⟨k, by interval_cases k <;> simp, hb⟩)
        rw [Bool.or_eq_true, decide_eq_true_eq, decide_eq_true_eq, not_or] at hk2
        omega
      · obtain ⟨hlo, hhi⟩ := hpad k (by omega)
        rw [hlo, hhi] at hk8
        rw [hlo]
        omega

theorem viewRead_padsTwo {m : Master} {s : State} {w : W64} {x : Nat × Nat × InvEntry} {v : View} (h : (viewRead m s w x).2 = .ok v) : PadsTwo v.desc := by
  unfold viewRead at h
  dsimp only at h
  split at h
  · cases h
  · cases h
    exact decodeDesc_padsTwo _

theorem openTwo_padsTwo {m : Master} {s : State} {w1 w2 : W64} {b y : View} (h : (openTwo m s w1 w2).2 = .ok (b, y)) : PadsTwo y.desc := by
  unfold openTwo at h
  split at h
  · cases h
  · split at h
    · cases h
    · dsimp only at h
      split at h
      · cases h
      · split at h
        · cases h
        · next hy =>
          cases h
          exact viewRead_padsTwo hy

/-! ## A store of any cells -/

/-- What a store leaves at addresses that it names once, and at those that it does not name. -/
theorem storeCells_any {s : State} (h : StorageGood s) (hc : Canonical s) (p : Fin 72) (cells : List (Nat × Byte)) : ∃ t, storeCells p s cells = (t, none) ∧
    t.vit.met = s.vit.met ∧ (∀ a, (∀ c ∈ cells, a ≠ c.1) → byteAt t a = byteAt s a) ∧
    ((cells.map (·.1)).Nodup → ∀ c ∈ cells, byteKey s c.1 ≠ none → byteAt t c.1 = c.2) := by
  obtain ⟨l, hl⟩ := storeCells_eq h hc p cells
  have hfill := l2FillLines_only l (storeWritten p s cells)
  have hbytes (a : Nat) : byteAt (l.foldl (fun s l => l2Fill s (64 * l)) (storeWritten p s cells)) a = byteAt (storeWritten p s cells) a :=
    byteAt_congr (.l2 hfill) hfill.mem a
  refine ⟨_, hl, hfill.met.trans (congrArg VitState.met (storeWritten_vit hc)), fun a ha => ?_, fun hnodup c hcm hk => ?_⟩
  · rw [hbytes, storeWritten_unnamed hc fun c hcm => (ha c hcm).symm]
  · obtain ⟨d, hdm, hd, hbyte⟩ := storeWritten_named (p := p) hc hk ⟨c, hcm, rfl⟩
    rw [hbytes, hbyte, List.inj_on_of_nodup_map hnodup hdm hcm hd]

end Sys2Proof.Machine


/-! # VCSR: the instruction (O27) -/

namespace Sys2Proof.Machine

/-! ## The checks of VCSR (R202) -/

/-- VCSR on the views that it has opened. -/
def csrOn (p : Fin 72) (acc : Bool) (h : CsrHdr) (u : State) (b y : View) : RunOut :=
  if !y.destOk then ranFault u (layDestFlt y.handle)
  else if !csrShapeOk h b.desc y.desc then ranFault u (csrHdrFlt 0x40)
  else match csrPlaceFlt p u h b y with
    | some f => ranFault u f
    | none => csrWalk p acc h b y u

section
variable {p : Fin 72} {e : Entry} {o : OpD} {x : State}

theorem runVcsr_unaligned (h : e.b.toNat % 64 ≠ 0) : runVcsr p e o x = ranFault x (csrHdrFlt 0) := if_pos h

theorem runVcsr_outside (h : e.b.toNat % 64 = 0) (ho : ownSpan x p e.b.toNat 64 = false) : runVcsr p e o x = ranFault x (vecAddrFlt e.b.toNat) := by
  unfold runVcsr
  dsimp only
  rw [if_neg (not_not_intro h), ho]
  rfl

theorem runVcsr_header (hs : StorageGood x) (h : e.b.toNat % 64 = 0) (ho : ownSpan x p e.b.toNat 64 = true) {j : Nat}
    (hj : csrHdrBad (readBytes x e.b.toNat 64) (csrHdr (readBytes x e.b.toNat 64)) = some j) : runVcsr p e o x = ranFault x (csrHdrFlt j) := by
  unfold runVcsr
  dsimp only
  rw [if_neg (not_not_intro h), ho, devRead_own hs _ ho]
  dsimp only
  rw [hj]
  rfl

theorem runVcsr_refused (hs : StorageGood x) (h : e.b.toNat % 64 = 0) (ho : ownSpan x p e.b.toNat 64 = true)
    (hj : csrHdrBad (readBytes x e.b.toNat 64) (csrHdr (readBytes x e.b.toNat 64)) = none) {f : Flt} (hv : (openTwo (.core p) x e.c e.a).2 = .error f) :
    runVcsr p e o x = ranFault (openTwo (.core p) x e.c e.a).1 f := by
  unfold runVcsr
  dsimp only
  rw [if_neg (not_not_intro h), ho, devRead_own hs _ ho]
  dsimp only
  rw [hj]
  dsimp only [Option.map_none, Option.none_or]
  rw [hv]
  rfl

theorem runVcsr_opened (hs : StorageGood x) (h : e.b.toNat % 64 = 0) (ho : ownSpan x p e.b.toNat 64 = true)
    (hj : csrHdrBad (readBytes x e.b.toNat 64) (csrHdr (readBytes x e.b.toNat 64)) = none) {b y : View} (hv : (openTwo (.core p) x e.c e.a).2 = .ok (b, y)) :
    runVcsr p e o x = csrOn p (bitB o.mode 0) (csrHdr (readBytes x e.b.toNat 64)) (openTwo (.core p) x e.c e.a).1 b y := by
  unfold runVcsr
  dsimp only
  rw [if_neg (not_not_intro h), ho, devRead_own hs _ ho]
  dsimp only
  rw [hj]
  dsimp only [Option.map_none, Option.none_or]
  generalize openTwo (.core p) x e.c e.a = v at hv
  obtain ⟨u, r⟩ := v
  cases hv
  rfl

end

/-! ## The walk of VCSR -/

section
variable {p : Fin 72} {acc : Bool} {h : CsrHdr} {b y : View} {u : State} {bs : List Byte}

theorem csrWalk_ptr (hread : csrArray p (u, none) h.rowptr (4 * (h.rows + 1)) = ((u, none), bs)) {j : Nat} (hj : csrPtrBad h (wordsAt bs) = some j) :
    csrWalk p acc h b y u = ranFault u (csrPtrFlt j) := by
  unfold csrWalk
  rw [hread]
  dsimp only
  rw [hj]

theorem csrWalk_col (hread : csrArray p (u, none) h.rowptr (4 * (h.rows + 1)) = ((u, none), bs)) (hj : csrPtrBad h (wordsAt bs) = none) {t : State} {n : Nat} {f : Flt}
    (hw : csrReads p (csrInput u acc h b y (wordsAt bs)) b y u = (t, some (n, f))) : csrWalk p acc h b y u =
      ranFault (storeCells p { t with free := t.free + h.rows * b.desc.dim 0 } (csrStopped t (csrInput u acc h b y (wordsAt bs)) y n)).1 f := by
  unfold csrWalk
  rw [hread]
  dsimp only
  rw [hj]
  dsimp only
  rw [hw]
  rfl

theorem csrWalk_done (hread : csrArray p (u, none) h.rowptr (4 * (h.rows + 1)) = ((u, none), bs)) (hj : csrPtrBad h (wordsAt bs) = none) {t : State}
    (hw : csrReads p (csrInput u acc h b y (wordsAt bs)) b y u = (t, none)) : csrWalk p acc h b y u = csrFinish p (csrInput u acc h b y (wordsAt bs)) b y t := by
  unfold csrWalk
  rw [hread]
  dsimp only
  rw [hj]
  dsimp only
  rw [hw]

theorem csrStopped_congr {s t : State} (hf : t.free = s.free) (x : CsrIn) (y : View) (n : Nat) : csrStopped t x y n = csrStopped s x y n := by
  unfold csrStopped csrUndef
  rw [hf]

theorem csrFinish_stored {x : CsrIn} {t w : State}
    (hw : storeCells p { t with free := t.free + 1 } (((List.range x.h.rows).map (csrRow x y)).flatMap (·.1)) = (w, none)) : csrFinish p x b y t =
      { st := useBegin (useBegin w b.entry) y.entry
        sticky := (((List.range x.h.rows).map (csrRow x y)).foldl (fun a r => a ||| r.2) 0) &&& 0x1D
        uses := [b.entry, y.entry]
        csrLast := some (csrLastWord t x.h.nnz x.pc) } := by
  unfold csrFinish
  dsimp only
  rw [hw]

theorem csrLastWord_congr {s t : State} (hf : t.free = s.free) (nnz pc : Nat) : csrLastWord t nnz pc = csrLastWord s nnz pc := by
  unfold csrLastWord
  rw [hf]

/-- The arrays of a matrix whose places pass their check, and Y, lie in the core's own places. -/
theorem csrPlaceFlt_none (hp : csrPlaceFlt p u h b y = none) : ownSpan u p h.rowptr (4 * (h.rows + 1)) = true ∧ viewOwn p u y = true := by
  unfold csrPlaceFlt at hp
  dsimp only at hp
  rw [Option.or_eq_none_iff, Option.or_eq_none_iff, Option.or_eq_none_iff] at hp
  obtain ⟨hrow, -, -, hviews⟩ := hp
  constructor
  · by_contra hn
    rw [if_neg hn] at hrow
    cases hrow
  · split at hviews
    · cases hviews
    · split at hviews
      · cases hviews
      · next hy => exact by simpa using hy

/-- The column indices that the walk checks are those of its input. -/
theorem csrCols_bad (u : State) (acc : Bool) (h : CsrHdr) (b y : View) (ptr : List Nat) {j : Nat} (hj : j < h.nnz) :
    csrColBad u h j = decide (h.cols ≤ (csrInput u acc h b y ptr).cols.getD j 0) := by
  unfold csrColBad csrInput
  dsimp only
  rw [wordsAt_readBytes u h.nnz h.colidx j hj]

theorem csrOrder_bad (u : State) (acc : Bool) (h : CsrHdr) (b y : View) (ptr : List Nat) (pc : Nat) :
    (csrOrder h.nnz pc).find? (csrColBad u h) = (csrOrder h.nnz pc).find? fun j => decide (h.cols ≤ (csrInput u acc h b y ptr).cols.getD j 0) := by
  refine List.find?_congr fun j hj => ?_
  obtain ⟨m, -, hm⟩ := List.mem_flatMap.mp hj
  exact csrCols_bad u acc h b y ptr (lt_of_mem_csrStepElems hm)

end

/-! ## The cells of Y -/

/-- The cells of all rows. -/
def csrCells (x : CsrIn) (y : View) : List (Nat × Byte) := ((List.range x.h.rows).map (csrRow x y)).flatMap (·.1)

section
variable {p : Fin 72} {u : State} {x : CsrIn} {y : View}

theorem mem_csrCells {r c : Nat} (hr : r < x.h.rows) (hc : c < x.n) {q : List Int} {w : Bool} (hw : y.desc.writePlace [(c : Int), (r : Int)] = .data q w) {n : Nat}
    (hn : n < y.desc.esize) :
    (y.addr q + n, (convert y.desc.ty .fp32 0 0 false (csrValue x r c)).1.extractLsb' (8 * n) 8) ∈ csrCells x y := by
  refine List.mem_flatMap.mpr ⟨csrRow x y r, List.mem_map.mpr ⟨r, List.mem_range.mpr hr, rfl⟩, ?_⟩
  rw [csrRow_cells]
  refine List.mem_flatMap.mpr ⟨c, List.mem_range.mpr hc, ?_⟩
  unfold csrPut
  rw [hw]
  dsimp only
  rw [cellsAt_leBytes]
  exact List.mem_map.mpr ⟨n, List.mem_range.mpr hn, rfl⟩

/-- The bytes of an element of Y belong to something. -/
theorem csrPlace_some (hown : viewOwn p u y = true) (hpad : PadsTwo y.desc) {a q : List Int} {w : Bool} (hw : y.desc.writePlace a = .data q w) {n : Nat}
    (hn : n < y.desc.esize) : byteKey u (y.addr q + n) ≠ none := by
  have hq := List.all_eq_true.mp hown q (writePlace_position hpad hw)
  exact (byteKey_of_own (ownPlace_of_span hq hn)).2

end

/-! ## The walk from the views on -/

/-- A state with other marks of the L2 and other lines still to count. -/
def seenAs (u : State) (l : List L2Line) (d : List (Nat × Nat)) : State := { u with vit := { u.vit with l2 := l }, dbg := { u.dbg with memLag := d } }

/-- What the walk of VCSR comes to (R202, R203, R205). -/
theorem csrWalk_good {p : Fin 72} {acc : Bool} {h : CsrHdr} {b y : View} {u : State} (hs : StorageGood u) (hc : Canonical u)
    (hplace : csrPlaceFlt p u h b y = none) (hpad : PadsTwo y.desc) {ptr : List Nat} (hptr : wordsAt (readBytes u h.rowptr (4 * (h.rows + 1))) = ptr) :
    let x := csrInput u acc h b y ptr
    let bad := (csrOrder h.nnz x.pc).find? fun j => decide (h.cols ≤ x.cols.getD j 0)
    (∀ j, csrPtrBad h ptr = some j → csrWalk p acc h b y u = ranFault u (csrPtrFlt j)) ∧
    (csrPtrBad h ptr = none → ∀ j, bad = some j → ∃ l d,
      let w := (storeCells p { seenAs u l d with free := u.free + h.rows * x.n } (csrStopped u x y (csrStepOf h.nnz x.pc j))).1
      w.vit.met = u.vit.met ∧ csrWalk p acc h b y u = ranFault w (csrColFlt j)) ∧
    (csrPtrBad h ptr = none → bad = none → ∃ l d w, storeCells p { seenAs u l d with free := u.free + 1 } (csrCells x y) = (w, none) ∧
      w.vit.met = u.vit.met ∧
      csrWalk p acc h b y u = { st := useBegin (useBegin w b.entry) y.entry, sticky := (((List.range h.rows).map (csrRow x y)).foldl (fun a r => a ||| r.2) 0) &&& 0x1D,
                                uses := [b.entry, y.entry], csrLast := some (csrLastWord u h.nnz x.pc) } ∧
      (((csrCells x y).map (·.1)).Nodup → ∀ r c q v, r < h.rows → c < x.n → y.desc.writePlace [(c : Int), (r : Int)] = .data q v →
        ∀ n, n < y.desc.esize → byteAt w (y.addr q + n) = ((convert y.desc.ty .fp32 0 0 false (csrValue x r c)).1).extractLsb' (8 * n) 8) ∧
      ∀ m, (∀ c ∈ csrCells x y, m ≠ c.1) → byteAt w m = byteAt u m) := by
  intro x bad
  obtain ⟨hrow, hown⟩ := csrPlaceFlt_none hplace
  have hread : csrArray p (u, none) h.rowptr (4 * (h.rows + 1)) = ((u, none), readBytes u h.rowptr (4 * (h.rows + 1))) := by
    unfold csrArray
    dsimp only
    rw [devRead_own hs _ hrow]
  have hgo (t : State) (f : Option (Nat × Flt)) (hrun : csrReads p x b y u = (t, f)) : Marked u t ∧ f = bad.map fun k => (csrStepOf h.nnz x.pc k, csrColFlt k) := by
    obtain ⟨hm, hw⟩ := csrReads_good (p := p) (x := x) (b := b) (y := y) hs (Marked.refl u)
    rw [hrun] at hm hw
    refine ⟨hm, hw.trans ?_⟩
    rw [show csrColBad u x.h = csrColBad u h from rfl, show x.h = h from rfl, csrOrder_bad u acc h b y ptr x.pc]
  have hstate (t : State) (hm : Marked u t) (n : Nat) : StorageGood { t with free := n } ∧ Canonical { t with free := n } :=
    ⟨(hs.l2 hm.only).congr rfl rfl rfl (fun _ => rfl) rfl rfl (fun _ _ => rfl) fun _ _ => rfl, hm.only.opened.canonical hc⟩
  clear_value bad
  refine ⟨fun j hj => csrWalk_ptr hread (by rw [hptr]; exact hj), fun hj j hbad => ?_, fun hj hbad => ?_⟩
  · generalize hrun : csrReads p x b y u = run at hgo
    obtain ⟨t, f⟩ := run
    obtain ⟨hm, hf⟩ := hgo t f rfl
    rw [hbad] at hf
    obtain ⟨hg, hcan⟩ := hstate t hm (t.free + h.rows * b.desc.dim 0)
    obtain ⟨w, hw, hmet, -, -⟩ := storeCells_any hg hcan p (csrStopped t x y (csrStepOf h.nnz x.pc j))
    refine ⟨t.vit.l2, t.dbg.memLag, ?_⟩
    rw [show seenAs u t.vit.l2 t.dbg.memLag = t from hm.eq.symm, ← hm.free, ← csrStopped_congr hm.free, show x.n = b.desc.dim 0 from rfl, hw]
    subst hptr
    exact ⟨hmet.trans hm.only.met, by
      rw [csrWalk_col hread hj (hrun.trans (by rw [hf]; rfl)), show csrInput u acc h b y _ = x from rfl, hw]⟩
  · generalize hrun : csrReads p x b y u = run at hgo
    obtain ⟨t, f⟩ := run
    obtain ⟨hm, hf⟩ := hgo t f rfl
    rw [hbad] at hf
    obtain ⟨hg, hcan⟩ := hstate t hm (t.free + 1)
    obtain ⟨w, hw, hmet, hother, hnamed⟩ := storeCells_any hg hcan p (csrCells x y)
    have hplaces : SamePlaces u { t with free := t.free + 1 } := ⟨hm.only.opened.places.map, hm.only.opened.places.memMap, hm.only.opened.places.swz⟩
    refine ⟨t.vit.l2, t.dbg.memLag, w, ?_, hmet.trans hm.only.met, ?_, fun hnodup r c q v hr hcn hq n hn => ?_, fun m hmn => ?_⟩
    · rw [show seenAs u t.vit.l2 t.dbg.memLag = t from hm.eq.symm, ← hm.free, hw]
    · subst hptr
      rw [csrWalk_done hread hj (hrun.trans (by rw [hf]; rfl)), csrFinish_stored (x := x) (w := w) hw, csrLastWord_congr hm.free]
      rfl
    · exact hnamed hnodup _ (mem_csrCells hr hcn hq hn) (by rw [hplaces.byteKey]; exact csrPlace_some hown hpad hq hn)
    · exact (hother m hmn).trans (byteAt_congr hplaces hm.only.mem m)

/-- Settles O27: the walk reads the core's own places, stops at the first bad column index in its order, and otherwise stores every row. -/
theorem vcsrRow : Obligations.VcsrRow := by
  unfold Obligations.VcsrRow
  intro k o s h hs hc e x a hdr hd v ptr stops begun
  have hx := storageGood_atStart h hs
  have hcx : Canonical x := canonical_atStart hc
  have hbytes : ∀ b n, readBytes x b n = readBytes s b n := fun b n => readBytes_atStart b n
  have hopen : Opened x v.1 := openTwo_opened hx _ _ _
  have hstops : ∀ (u : State) (f : Flt), u.vit.met = s.vit.met → runVcsr k.core e o x = ranFault u f → stops u f := fun u f hu hf => ranToFault_of h rfl hf hu
  refine ⟨fun ha => hstops x _ rfl (runVcsr_unaligned ha), fun ha ho => hstops x _ rfl (runVcsr_outside ha ho), fun hb j hj => ?_, fun hb hj => ?_⟩
  · obtain ⟨ha, ho⟩ := hb
    exact hstops x _ rfl (runVcsr_header hx ha ho (by rw [hbytes]; exact hj))
  obtain ⟨ha, ho⟩ := hb
  refine ⟨fun f hf => hstops _ f hopen.met (runVcsr_refused hx ha ho (by rw [hbytes]; exact hj) hf), fun b y hv => ?_⟩
  have hrun := runVcsr_opened (p := k.core) (o := o) hx ha ho (by rw [hbytes]; exact hj) hv
  rw [hbytes, show csrHdr (readBytes s e.b.toNat 64) = hd from rfl, show openTwo (.core k.core) x e.c e.a = v from rfl] at hrun
  have hpad := openTwo_padsTwo hv
  have hptr : wordsAt (readBytes v.1 hd.rowptr (4 * (hd.rows + 1))) = ptr := by rw [hopen.bytes, hbytes]
  have hbyte : ∀ m, byteAt v.1 m = byteAt s m := fun m => (hopen.byteAt m).trans (byteAt_atStart m)
  clear_value v hd ptr
  unfold csrOn at hrun
  refine ⟨fun hdest => ?_, fun hdest hshape => ?_, fun hdest hshape => ⟨fun f hf => ?_, fun hplace => ?_⟩⟩
  · rw [hdest] at hrun
    exact hstops _ _ hopen.met hrun
  · rw [hdest, if_neg (by decide), hshape] at hrun
    exact hstops _ _ hopen.met hrun
  · rw [hdest, if_neg (by decide), hshape, if_neg (by decide), hf] at hrun
    exact hstops _ _ hopen.met hrun
  rw [hdest, if_neg (by decide), hshape, if_neg (by decide), hplace] at hrun
  intro i order bad cells flags seen
  obtain ⟨hbadptr, hbadcol, hdone⟩ := csrWalk_good (acc := bitB o.mode 0) (hopen.good hx) (hopen.canonical hcx) hplace hpad hptr
  refine ⟨fun j hjp => hstops _ _ hopen.met (hrun.trans (hbadptr j hjp)), fun hok j hjb => ?_, fun hok hjb => ?_⟩
  · obtain ⟨l, d, hmet, hwalk⟩ := hbadcol hok j hjb
    exact ⟨l, d, hstops _ _ (hmet.trans hopen.met) (hrun.trans hwalk)⟩
  · obtain ⟨l, d, w, hw, hmet, hwalk, hnamed, hother⟩ := hdone hok hjb
    obtain ⟨t, ht, hran⟩ := ranTo_of (i := .vcsr k o) h rfl (hrun.trans hwalk) ((uses_met [b.entry, y.entry] w).trans (hmet.trans hopen.met))
    have hbt : ∀ m, byteAt t m = byteAt w m := fun m => by
      rw [show t = summaryRise s _ from hran, byteAt_summaryRise, byteAt_modCore, byteAt_useBegin, byteAt_useBegin]
    refine ⟨l, d, t, ht, ?_, fun hnodup r c q u hr hcn hq n hn => ?_, fun m hm => ?_⟩
    · rw [show storeCells k.core { seen l d with free := v.1.free + 1 } cells = (w, none) from hw]
      exact hran
    · rw [hbt]
      exact hnamed hnodup r c q u hr hcn hq n hn
    · rw [hbt, hother m hm, hbyte]

end Sys2Proof.Machine


/-! # The rows of a plain product (R88, R96, R103, R105) -/

namespace Sys2Proof.Machine

/-! ## AB rows that are written -/

/-- The words of an AB row, the lowest first. -/
def abPutRow (row : Nat) (f : Nat → W32) (m : Nat) (c : Core) : Core := (List.range m).foldl (fun d col => abPut d row col (f col)) c

/-- Consecutive AB rows. -/
def abPutRows (abr : Nat) (f : Nat → Nat → W32) (n : Nat) (c : Core) : Core :=
  (List.range n).foldl (fun d r => abPutRow (abr + r) (f r) 64 d) c

theorem abPutRow_succ (row : Nat) (f : Nat → W32) (m : Nat) (c : Core) :
    abPutRow row f (m + 1) c = abPut (abPutRow row f m c) row m (f m) := by
  unfold abPutRow
  rw [List.range_succ, List.foldl_append, List.foldl_cons, List.foldl_nil]

theorem abPutRows_succ (abr : Nat) (f : Nat → Nat → W32) (n : Nat) (c : Core) :
    abPutRows abr f (n + 1) c = abPutRow (abr + n) (f n) 64 (abPutRows abr f n c) := by
  unfold abPutRows
  rw [List.range_succ, List.foldl_append, List.foldl_cons, List.foldl_nil]

theorem abPutRow_wf (row : Nat) (f : Nat → W32) (m : Nat) {c : Core} (h : smapWf (fun _ => (0 : W32)) c.ab = true) :
    smapWf (fun _ => (0 : W32)) (abPutRow row f m c).ab = true := by
  induction m with
  | zero => exact h
  | succ m ih =>
    rw [abPutRow_succ]
    exact smapPut_wf _ _ ih

theorem abPutRow_free (row : Nat) (f : Nat → W32) (m : Nat) (c : Core) : eccFree (abPutRow row f m c) = eccFree c :=
  foldl_keeps (fun d col => abPut d row col (f col)) eccFree (fun _ _ => rfl) _ _

theorem abPutRows_free (abr : Nat) (f : Nat → Nat → W32) (n : Nat) (c : Core) : eccFree (abPutRows abr f n c) = eccFree c :=
  foldl_keeps _ eccFree (fun _ _ => abPutRow_free _ _ _ _) _ _

theorem abPutRows_wf (abr : Nat) (f : Nat → Nat → W32) (n : Nat) {c : Core} (h : smapWf (fun _ => (0 : W32)) c.ab = true) :
    smapWf (fun _ => (0 : W32)) (abPutRows abr f n c).ab = true := by
  induction n with
  | zero => exact h
  | succ n ih =>
    rw [abPutRows_succ]
    exact abPutRow_wf _ _ _ ih

theorem abGet_abPutRow (row : Nat) (f : Nat → W32) {c : Core} (h : smapWf (fun _ => (0 : W32)) c.ab = true) {r col : Nat}
    (hc : col < 64) : ∀ m, m ≤ 64 → abGet (abPutRow row f m c) r col = if r = row ∧ col < m then f col else abGet c r col := by
  intro m
  induction m with
  | zero =>
    intro _
    exact (if_neg fun e => Nat.not_lt_zero _ e.2).symm
  | succ m ih =>
    intro hm
    rw [abPutRow_succ]
    by_cases hat : r * 64 + col = row * 64 + m
    · obtain ⟨rfl, rfl⟩ : r = row ∧ col = m := by omega
      rw [if_pos ⟨rfl, Nat.lt_succ_self _⟩]
      unfold abGet abPut
      rw [hat]
      exact smapGet_put_same _ _ (abPutRow_wf _ _ _ h)
    · refine (smapGet_put_other _ hat (abPutRow_wf _ _ _ h)).trans ((ih (Nat.le_of_succ_le hm)).trans ?_)
      exact if_congr (by omega) rfl rfl

theorem abGet_abPutRows (abr : Nat) (f : Nat → Nat → W32) {c : Core} (h : smapWf (fun _ => (0 : W32)) c.ab = true) {r col : Nat}
    (hc : col < 64) (n : Nat) :
    abGet (abPutRows abr f n c) r col = if abr ≤ r ∧ r < abr + n then f (r - abr) col else abGet c r col := by
  induction n with
  | zero => exact (if_neg (by omega)).symm
  | succ n ih =>
    rw [abPutRows_succ, abGet_abPutRow _ _ (abPutRows_wf _ _ _ h) hc 64 (Nat.le_refl _), ih]
    by_cases hr : r = abr + n
    · rw [if_pos ⟨hr, hc⟩, if_pos (by omega), hr, Nat.add_sub_cancel_left]
    · rw [if_neg fun e => hr e.1]
      exact if_congr (by omega) rfl rfl

/-- Writes of the AB change it, and what the instruction has written, alone. -/
theorem abPutRows_only (abr : Nat) (f : Nat → Nat → W32) (n : Nat) (c : Core) :
    ∃ l w, abPutRows abr f n c = { c with ab := l, outAb := w } := by
  have hrow : ∀ row g m, ∀ d : Core, ∃ l w, abPutRow row g m d = { d with ab := l, outAb := w } := by
    intro row g m d
    induction m with
    | zero => exact ⟨_, _, rfl⟩
    | succ m ih =>
      obtain ⟨l, w, e⟩ := ih
      rw [abPutRow_succ, e]
      exact ⟨_, _, rfl⟩
  induction n with
  | zero => exact ⟨_, _, rfl⟩
  | succ n ih =>
    obtain ⟨l, w, e⟩ := ih
    obtain ⟨l', w', e'⟩ := hrow (abr + n) (f n) 64 { c with ab := l, outAb := w }
    rw [abPutRows_succ, e, e']
    exact ⟨_, _, rfl⟩

theorem zip_map_range {α : Type} (f : Nat → α) (n : Nat) : ((List.range n).map f).zip (List.range n) = (List.range n).map fun r => (f r, r) := by
  conv => lhs; rhs; rw [← List.map_id (List.range n)]
  exact List.zip_map' ..

/-- A row of a product in the AB of a core that holds no error. -/
theorem abClean_row {c : Core} (h : eccFree c = true) (row : Nat) (f : Nat → W32) :
    abClean ((((List.range 64).map f).zip (List.range 64)).foldl (fun d x => abPut d row x.2 x.1) c) row (List.range 64) = abPutRow row f 64 c := by
  rw [zip_map_range, List.foldl_map]
  exact abClean_free ((abPutRow_free row f 64 c).trans h) _ _

/-- The rows of a product in the AB of a core that holds no error. -/
theorem writeAb_free {c : Core} (h : eccFree c = true) (abr : Nat) (f : Nat → Nat → W32) (tag : BitVec 16) (sums : List W32) (n : Nat) :
    writeAb c abr ((List.range n).map fun r => { data := (List.range 64).map (f r), tag := tag, csum := sums }) = abPutRows abr f n c := by
  unfold writeAb
  rw [List.length_map, List.length_range, zip_map_range, List.foldl_map]
  induction n with
  | zero => rfl
  | succ n ih =>
    rw [List.range_succ (n := n), List.foldl_append, ih, abPutRows_succ, List.foldl_cons, List.foldl_nil]
    exact abClean_row ((abPutRows_free abr f n c).trans h) _ _

end Sys2Proof.Machine


/-! # A product without a chain, a segment table or zero marks (R88, R96, R103) -/

namespace Sys2Proof.Machine

/-! ## What a row makes -/

/-- The elements of streamed row `r`. -/
def rowIn (x : ProdCtx) (st : State) (r : Nat) : List W32 :=
  elemsOf (rowTy x) (readBytes st (x.sa + r * rowBytes x) (rowBytes x))

/-- What row `r` makes in column `col`. -/
def wordOut (x : ProdCtx) (st : State) (r col : Nat) : W32 × Flags :=
  outElem x.fl x.o.acc true x.ta (cellTy x.tw) (rowIn x st r) ((st.core x.p).mat.stat.cols.getD col [])
    ((if x.o.acc then abRow (st.core x.p) (x.o.abr.toNat + r) else []).getD col 0)

/-- The sticky bits of row `r`. -/
def wordFlags (x : ProdCtx) (st : State) (r : Nat) : Flags := ((List.range 64).map (wordOut x st r)).foldl (fun a y => a ||| y.2) 0

/-- A product of which `n` rows have come out of the array. -/
def streamed (x : ProdCtx) (st : State) (n : Nat) : Prod :=
  { wk := { st := st }
    rows := (List.range n).map fun r => { data := (List.range 64).map fun col => (wordOut x st r col).1, tag := 0, csum := (st.core x.p).mat.stat.sums }
    sticky := (List.range n).foldl (fun a r => a ||| wordFlags x st r) 0
    real := decide (0 < n) }

/-- A product whose rows no fault can meet: they lie in the core's own places, which hold no error. -/
structure PlainProd (x : ProdCtx) (st : State) : Prop where
  good : StorageGood st
  free : eccFree (st.core x.p) = true
  chain : x.chain = none
  marks : x.o.zskip = false
  set : setUseFlt x (st.core x.p).mat.stat = none
  own : ∀ r, r < x.n → (x.sa + r * rowBytes x) % 256 = 0 ∧ ownSpan st x.p (x.sa + r * rowBytes x) (rowBytes x) = true

section
variable {x : ProdCtx} {st : State} {r : Nat}

theorem streamed_wk : (streamed x st r).wk = { st := st } := rfl

theorem Work.reads_free {wk : Work} (h : eccFree (wk.st.core x.p) = true) (l : List Place) : wk.reads x.p l = wk := by
  unfold Work.reads
  rw [if_pos h]
  cases wk.err <;> rfl

theorem fetchRow_own (h : PlainProd x st) (hr : r < x.n) : fetchRow x r (streamed x st r) = (streamed x st r, rowIn x st r) := by
  obtain ⟨hal, hown⟩ := h.own r hr
  unfold fetchRow
  rw [streamed_wk]
  dsimp only
  rw [if_neg (by rw [hown, decide_eq_false (not_not_intro hal)]; decide), devRead_own h.good _ hown]
  rfl

theorem emitRow_next (h : eccFree (st.core x.p) = true) : emitRow x 0 true (rowIn x st r) (streamed x st r) = streamed x st (r + 1) := by
  have hlen : (streamed x st r).rows.length = r := by
    show ((List.range r).map _).length = r
    rw [List.length_map, List.length_range]
  have hreads : (if x.o.acc then (streamed x st r).reads x.p (abPlaces (x.o.abr.toNat + r)) else streamed x st r) = streamed x st r := by
    unfold Prod.reads
    rw [Work.reads_free h]
    exact ite_self _
  have hdata : (outRow x.fl x.o.acc true x.ta (cellTy x.tw) (rowIn x st r) (st.core x.p).mat.stat.cols
      (if x.o.acc then abRow (st.core x.p) (x.o.abr.toNat + r) else [])) = ((List.range 64).map fun col => (wordOut x st r col).1, wordFlags x st r) := by
    unfold outRow
    dsimp only
    rw [List.map_map]
    rfl
  unfold emitRow
  dsimp only
  rw [hlen, hreads, streamed_wk]
  dsimp only
  rw [hdata]
  unfold streamed
  dsimp only
  rw [List.range_succ (n := r), List.map_append, List.foldl_append, Bool.or_true, decide_eq_true (Nat.succ_pos r)]
  rfl

theorem rowStep_next (h : PlainProd x st) (hr : r < x.n) (plan : List RowPlan) :
    rowStep x plan (streamed x st r) ({}, r) = streamed x st (r + 1) := by
  have hwant : wantMarks x plan r = false := by
    unfold wantMarks
    rw [h.marks, Bool.false_and, Bool.false_and, Bool.false_and]
  have hzero : zeroMark x r (streamed x st r) = false := by
    unfold zeroMark
    rw [h.marks, Bool.false_and, Bool.false_and]
  have hplain : plainRow x 0 r (streamed x st r) = streamed x st (r + 1) := by
    unfold plainRow
    rw [if_neg (by rw [hzero]; decide), fetchRow_own h hr]
    exact emitRow_next h.free
  unfold rowStep
  dsimp only
  rw [hwant, h.chain]
  exact hplain

theorem zipIdx_replicate {α : Type} (a : α) (n : Nat) : (List.replicate n a).zipIdx = (List.range n).map fun r => (a, r) := by
  refine List.ext_getElem (by simp) fun i h1 h2 => ?_
  simp

theorem streamRows_plain (h : PlainProd x st) : streamRows x (List.replicate x.n {}) { wk := { st := st } } = streamed x st x.n := by
  have hrows : ∀ n, n ≤ x.n → (List.range n).foldl (fun pr r => rowStep x (List.replicate x.n {}) pr ({}, r)) { wk := { st := st } } = streamed x st n := by
    intro n
    induction n with
    | zero => exact fun _ => rfl
    | succ n ih =>
      intro hn
      rw [List.range_succ, List.foldl_append, ih (Nat.le_of_succ_le hn), List.foldl_cons, List.foldl_nil]
      exact rowStep_next h hn _
  unfold streamRows
  rw [zipIdx_replicate, List.foldl_map]
  exact hrows x.n (Nat.le_refl _)

theorem plainProduct_streams (h : PlainProd x st) : plainProduct x { wk := { st := st } } = streamed x st x.n := by
  have hreads : ({ wk := { st := st } } : Prod).reads x.p (setPlaces x false) = { wk := { st := st } } := by
    unfold Prod.reads
    rw [Work.reads_free h.free]
  unfold plainProduct
  dsimp only
  rw [h.set]
  dsimp only
  rw [hreads]
  exact streamRows_plain h

/-! ## The product as a whole -/

theorem chainDone_nothing (p : Fin 72) (st : State) : chainDone p { st := st } = (st, none) := by
  have hcore : st.modCore p (fun c => orSticky (orSticky c .ve (0 &&& 0x1FD)) .sf (0 &&& 0x3F)) = st := by
    refine Eq.trans (modCore_congr st p (g := fun c => c) ?_) (setCore_core st p)
    rw [show (0 : Flags) &&& 0x1FD = 0 from rfl, show (0 : Flags) &&& 0x3F = 0 from rfl, orSticky_zero, orSticky_zero]
  unfold chainDone countClamps
  dsimp only
  rw [if_pos rfl]
  exact congrArg (fun s => (s, none)) hcore

theorem endGap_core (p : Fin 72) (st : State) : (endGap p st).core p =
    { st.core p with mat := { (st.core p).mat with pronk := 0, gapCtl := (endGap p st).rget .corMePronk p.val 0 } } :=
  modCore_core_same _ _ _

/-- The fixed parts of a product without a chain. -/
def plainCtx (p : Fin 72) (e : Entry) (o : OpM) : ProdCtx :=
  { p := p, o := o, sa := e.a.toNat, n := e.b.toNat, sz := e.c.toNat, ta := tyOf o.afmt, tw := tyOf o.wfmt,
    fl := (tyOf o.afmt).isFloat, chain := none, sel := e.sel }

/-- The words of a product without a chain. -/
def plainWord (p : Fin 72) (e : Entry) (o : OpM) (st : State) (r col : Nat) : W32 := (wordOut (plainCtx p e o) st r col).1

/-- A product without a chain. -/
def plainRun (p : Fin 72) (e : Entry) (o : OpM) (st : State) : RunOut :=
  { st := (endGap p st).modCore p (abPutRows o.abr.toNat (plainWord p e o st) e.b.toNat)
    sticky := (List.range e.b.toNat).foldl (fun a r => a ||| wordFlags (plainCtx p e o) st r) 0 }

theorem runMprod_plain {p : Fin 72} {e : Entry} {o : OpM} (hc : o.chain = 0) (hseg : o.seg = false) (hn : 0 < e.b.toNat)
    (h : PlainProd (plainCtx p e o) st) : runMprod p e o st = plainRun p e o st := by
  have hprod := plainProduct_streams h
  have hslot : o.chain.toNat = 0 := by rw [hc]; rfl
  have hab : (endGap p st).modCore p (fun c => writeAb c o.abr.toNat (streamed (plainCtx p e o) st e.b.toNat).rows) = (plainRun p e o st).st := by
    refine modCore_congr _ p (writeAb_free ?_ _ (plainWord p e o st) _ _ _)
    rw [endGap_core]
    exact h.free
  unfold runMprod
  dsimp only
  rw [hslot, if_pos rfl, if_neg (fun e => e.1 rfl)]
  show finishProduct (plainCtx p e o) e (if o.seg = true then _ else plainProduct (plainCtx p e o) _) = _
  rw [hseg, if_neg (by decide), hprod]
  unfold finishProduct
  rw [streamed_wk, chainDone_nothing]
  dsimp only
  rw [h.chain, show (streamed (plainCtx p e o) st (plainCtx p e o).n).real = true from decide_eq_true hn, if_pos rfl]
  exact congrArg (fun s => ({ st := s, sticky := _ } : RunOut)) hab

end

end Sys2Proof.Machine


/-! # MPROD (O34) -/

namespace Sys2Proof.Machine

/-! ## The counter of the dummy clocks -/

section
variable {p : Fin 72} {s z : State}

theorem pronkClk_at (p : Fin 72) : RegName.corMePronkClk.at p.val 0 = 0x1001030 + p.val * 0x10000 := by
  show 0x1001030 + p.val * 0x10000 + 0 * 1 = _
  omega

/-- The count of the dummy clocks is in no error log. -/
theorem errSummary_pronkClk (hr : ∀ r i n, RegName.at r i n ≠ RegName.corMePronkClk.at p.val 0 → z.rget r i n = s.rget r i n)
    (hf : ∀ q, (z.core q).frec = (s.core q).frec) : errSummary z = errSummary s := by
  have hp := p.isLt
  simp only [pronkClk_at] at hr
  have hlog : ∀ r : RegName, (r.at 0 0 < 0x1001030 ∨ 0x1800000 ≤ r.at 0 0) → z.rget r 0 0 = s.rget r 0 0 := fun r ha => hr r 0 0 (by omega)
  have hmem : ∀ k, z.rget .memUeLog0 k 0 = s.rget .memUeLog0 k 0 := fun k => hr _ _ _ (by
    show 0x2400018 + k * 0x4000 + 0 * 1 ≠ _
    omega)
  unfold errSummary
  dsimp only
  simp only [hmem]
  rw [hlog .acnErrLog0 (by decide), hlog .vtrUeLog0 (by decide), hlog .zmzErrLog0 (by decide), hlog .colErrLog0 (by decide),
    hlog .rasErrLog0 (by decide), hlog .curErrLog0 (by decide), hlog .pwrLog0 (by decide), fsum_congr hf]

/-! ## The end of a gap -/

theorem endGap_regs (p : Fin 72) (s : State) : ∃ v, (endGap p s).regs = (s.rset .corMePronkClk p.val 0 v).regs := ⟨_, rfl⟩

/-- The end of a gap changes the counter of the dummy clocks and no other register. -/
theorem endGap_rget (hw : smapWf regDefault s.regs = true) {r : RegName} {i n : Nat} (h : r.at i n ≠ RegName.corMePronkClk.at p.val 0) :
    (endGap p s).rget r i n = s.rget r i n := by
  obtain ⟨v, hv⟩ := endGap_regs p s
  refine Eq.trans ?_ (rget_rset_other v hw h)
  unfold State.rget
  rw [hv]

theorem endGap_pronk (hw : smapWf regDefault s.regs = true) : (endGap p s).rget .corMePronk p.val 0 = s.rget .corMePronk p.val 0 := by
  refine endGap_rget hw ?_
  rw [pronkClk_at]
  show 0x1001008 + p.val * 0x10000 + 0 * 1 ≠ _
  omega

theorem endGap_other {q : Fin 72} (h : q ≠ p) : (endGap p s).core q = s.core q := modCore_core_other _ _ (Ne.symm h)

end

/-! ## What a product makes, at its issue and at its start -/

section
variable {k : Ctl} {o : OpM} {s : State}

/-- Every streamed row is 256 or 512 bytes long. -/
theorem rowBytes_aligned {p : Fin 72} {e : Entry} (h : formOk .mprod (.m o) = true) : rowBytes (plainCtx p e o) % 256 = 0 := by
  have hm : ∃ a w, ETy.ofCode o.afmt = some a ∧ (matClass a w).isSome = true := by
    have hform : formOkM .mprod o = true := (Bool.and_eq_true_iff.mp h).2
    unfold formOkM at hform
    dsimp only at hform
    obtain ⟨-, hcls⟩ := Bool.and_eq_true_iff.mp hform
    split at hcls
    · next a w ha _ => exact ⟨a, w, ha, hcls⟩
    · cases hcls
  obtain ⟨a, w, ha, hcls⟩ := hm
  have hlen : ∀ b : Bool, ((if is16 a then 128 else 256) * (if b then 2 else 1)) * a.bytes % 256 = 0 := by
    revert hcls
    cases a <;> cases w <;> decide
  have hty : tyOf o.afmt = a := by
    unfold tyOf
    rw [ha]
    rfl
  show ((if is16 (tyOf o.afmt) then 128 else 256) * (if o.sp24 then 2 else 1)) * (tyOf o.afmt).bytes % 256 = 0
  rw [hty]
  exact hlen o.sp24

theorem abRow_getD (c : Core) (row : Nat) {col : Nat} (h : col < 64) : (abRow c row).getD col 0 = abGet c row col := by
  unfold abRow
  rw [List.getD_eq_getElem?_getD, List.getElem?_map, List.getElem?_range h]
  rfl

theorem atStart_ab {op : CoreOp} {args : Args} {g : Engine} (h : StartsNow op args k g s) : ((atStart op args k g s).core k.core).ab = (s.core k.core).ab := by
  obtain ⟨_, _, _, _, _, _, _, _, _, _, hd⟩ := (atStart_core h).exists_front
  rw [hd]

/-- A word of the product, from the state at its issue. -/
theorem wordOut_atStart (h : StartsNow .mprod (.m o) k .me s) (e : Entry) (r : Nat) {col : Nat} (hcol : col < 64) :
    wordOut (plainCtx k.core e o) (atStart .mprod (.m o) k .me s) r col =
      outElem (tyOf o.afmt).isFloat o.acc true (tyOf o.afmt) (cellTy (tyOf o.wfmt)) (rowIn (plainCtx k.core e o) s r)
        ((s.core k.core).mat.stat.cols.getD col []) (if o.acc then abGet (s.core k.core) (o.abr.toNat + r) col else 0) := by
  have hrow : rowIn (plainCtx k.core e o) (atStart .mprod (.m o) k .me s) r = rowIn (plainCtx k.core e o) s r := by
    unfold rowIn
    rw [readBytes_atStart]
  have hab : (if o.acc then abRow ((atStart .mprod (.m o) k .me s).core k.core) (o.abr.toNat + r) else []).getD col 0 =
      if o.acc then abGet (s.core k.core) (o.abr.toNat + r) col else 0 := by
    cases o.acc with
    | false => rfl
    | true =>
      refine (abRow_getD _ _ hcol).trans ?_
      unfold abGet
      rw [atStart_ab h]
      rfl
  unfold wordOut
  rw [hrow]
  show outElem _ o.acc _ _ _ _ (((atStart .mprod (.m o) k .me s).core k.core).mat.stat.cols.getD col []) (List.getD (if o.acc = true then _ else _) col 0) = _
  rw [atStart_mat h]
  exact congrArg _ hab

/-- The sticky bits of a run of results. -/
theorem getLsbD_foldl_or {α : Type} (f : α → Flags) (i : Nat) (l : List α) : ∀ a : Flags,
    (l.foldl (fun a x => a ||| f x) a).getLsbD i = (a.getLsbD i || l.any fun x => (f x).getLsbD i) := by
  induction l with
  | nil => exact fun a => (Bool.or_false _).symm
  | cons x l ih =>
    intro a
    rw [List.foldl_cons, ih, BitVec.getLsbD_or, List.any_cons, Bool.or_assoc]

theorem wordFlags_bit (x : ProdCtx) (st : State) (r i : Nat) :
    (wordFlags x st r).getLsbD i = (List.range 64).any fun col => (wordOut x st r col).2.getLsbD i := by
  unfold wordFlags
  rw [List.foldl_map, getLsbD_foldl_or, show (0 : Flags).getLsbD i = false from BitVec.getLsbD_zero, Bool.false_or]

/-- A product whose rows are the core's own meets no fault. -/
theorem plainProd_atStart (h : StartsNow .mprod (.m o) k .me s) (hs : StorageGood s) (e : Entry) (hz : o.zskip = false)
    (hv : (s.core k.core).mat.stat.valid = true) (hw : (s.core k.core).mat.stat.wfmt = o.wfmt) (h24 : (s.core k.core).mat.stat.sp24 = o.sp24)
    (ha : e.a.toNat % 256 = 0)
    (hown : ∀ r, r < e.b.toNat → ownSpan s k.core (e.a.toNat + r * rowBytes (plainCtx k.core e o)) (rowBytes (plainCtx k.core e o)) = true) :
    PlainProd (plainCtx k.core e o) (atStart .mprod (.m o) k .me s) where
  good := storageGood_atStart h hs
  free := atStart_free h
  chain := rfl
  marks := hz
  set := by
    show setUseFlt _ ((atStart .mprod (.m o) k .me s).core k.core).mat.stat = none
    rw [atStart_mat h]
    unfold setUseFlt
    rw [hv, hw, h24]
    simp [plainCtx]
  own := fun r hr => by
    refine ⟨?_, hown r hr⟩
    show (e.a.toNat + r * rowBytes (plainCtx k.core e o)) % 256 = 0
    have := rowBytes_aligned (p := k.core) (e := e) h.form
    rw [Nat.add_mod, ha, Nat.mul_mod, this, Nat.mul_zero]

/-- A product that issues has a row. -/
theorem mprod_rows_pos (h : StartsNow .mprod (.m o) k .me s) : 0 < (issuedEntry .mprod (.m o) k s).b.toNat :=
  Nat.pos_of_ne_zero (of_decide_eq_true h.vals).1

/-- MPROD without a chain, at its start. -/
def mprodRun (k : Ctl) (o : OpM) (s : State) : RunOut :=
  plainRun k.core (issuedEntry .mprod (.m o) k s) o (atStart .mprod (.m o) k .me s)

theorem mprodRun_eq (k : Ctl) (o : OpM) (s : State) : (mprodRun k o s).st =
    { s with cores := (mprodRun k o s).st.cores, free := (mprodRun k o s).st.free, regs := (mprodRun k o s).st.regs } := rfl

theorem mprodRun_rget (hw : smapWf regDefault s.regs = true) {r : RegName} {i n : Nat} (h : r.at i n ≠ RegName.corMePronkClk.at k.core.val 0) :
    (mprodRun k o s).st.rget r i n = s.rget r i n := endGap_rget (s := atStart .mprod (.m o) k .me s) hw h

theorem mprodRun_other (h : StartsNow .mprod (.m o) k .me s) {q : Fin 72} (hq : q ≠ k.core) : (mprodRun k o s).st.core q = s.core q := by
  obtain ⟨-, ⟨-, hother⟩, -⟩ := atStart_front h
  exact ((modCore_core_other _ _ (Ne.symm hq)).trans (endGap_other hq)).trans (hother q hq)

theorem mprodRun_core (hw : smapWf regDefault s.regs = true) : (mprodRun k o s).st.core k.core =
    abPutRows o.abr.toNat (plainWord k.core (issuedEntry .mprod (.m o) k s) o (atStart .mprod (.m o) k .me s)) (issuedEntry .mprod (.m o) k s).b.toNat
      { (atStart .mprod (.m o) k .me s).core k.core with
        mat := { ((atStart .mprod (.m o) k .me s).core k.core).mat with pronk := 0, gapCtl := s.rget .corMePronk k.core.val 0 } } := by
  unfold mprodRun plainRun
  dsimp only
  rw [modCore_core_same, endGap_core, endGap_pronk (s := atStart .mprod (.m o) k .me s) hw]
  rfl

/-- The core of the product changes in the AB and the gap alone. -/
theorem mprodRun_front (h : StartsNow .mprod (.m o) k .me s) (hw : smapWf regDefault s.regs = true) :
    SameButFront { s.core k.core with
      ab := ((mprodRun k o s).st.core k.core).ab
      mat := { (s.core k.core).mat with pronk := 0, gapCtl := s.rget .corMePronk k.core.val 0 } } ((mprodRun k o s).st.core k.core) := by
  obtain ⟨l, w, hl⟩ := abPutRows_only o.abr.toNat (plainWord k.core (issuedEntry .mprod (.m o) k s) o (atStart .mprod (.m o) k .me s))
    (issuedEntry .mprod (.m o) k s).b.toNat { (atStart .mprod (.m o) k .me s).core k.core with
        mat := { ((atStart .mprod (.m o) k .me s).core k.core).mat with pronk := 0, gapCtl := s.rget .corMePronk k.core.val 0 } }
  rw [mprodRun_core hw, hl]
  obtain ⟨_, _, _, _, _, _, _, _, _, _, hd⟩ := (atStart_core h).exists_front
  rw [hd]
  rfl

/-- A word of the AB after the product. -/
theorem abGet_mprodRun (h : StartsNow .mprod (.m o) k .me s) (hw : smapWf regDefault s.regs = true)
    (hab : smapWf (fun _ => (0 : W32)) (s.core k.core).ab = true) {r col : Nat} (hc : col < 64) :
    abGet ((mprodRun k o s).st.core k.core) r col =
      if o.abr.toNat ≤ r ∧ r < o.abr.toNat + (issuedEntry .mprod (.m o) k s).b.toNat then
        plainWord k.core (issuedEntry .mprod (.m o) k s) o (atStart .mprod (.m o) k .me s) (r - o.abr.toNat) col
      else abGet (s.core k.core) r col := by
  have hstart := atStart_ab h
  rw [mprodRun_core hw, abGet_abPutRows _ _ (by rw [← hstart] at hab; exact hab) hc]
  refine if_congr Iff.rfl rfl ?_
  unfold abGet
  rw [← hstart]

theorem mprodRun_bit (k : Ctl) (o : OpM) (s : State) (i : Nat) : (mprodRun k o s).sticky.getLsbD i =
    (List.range (issuedEntry .mprod (.m o) k s).b.toNat).any fun r => (List.range 64).any fun col =>
      (wordOut (plainCtx k.core (issuedEntry .mprod (.m o) k s) o) (atStart .mprod (.m o) k .me s) r col).2.getLsbD i := by
  refine (getLsbD_foldl_or _ i _ _).trans ?_
  rw [show (0 : Flags).getLsbD i = false from BitVec.getLsbD_zero, Bool.false_or]
  exact congrArg _ (funext fun r => wordFlags_bit _ _ _ _)

/-- What MPROD leaves: the product and the started instruction, and no summary bit rises. -/
theorem mprod_leaves (h : StartsNow .mprod (.m o) k .me s) (hc : o.chain = 0) (hseg : o.seg = false)
    (hw : smapWf regDefault s.regs = true) (hp : PlainProd (plainCtx k.core (issuedEntry .mprod (.m o) k s) o) (atStart .mprod (.m o) k .me s)) :
    exec (.mprod k o) s = .next ((mprodRun k o s).st.modCore k.core (inProgress .me (issuedEntry .mprod (.m o) k s) (mprodRun k o s))) := by
  obtain ⟨t, ht, hran⟩ := ranTo_of (i := .mprod k o) (uses := []) (last := none) h rfl
    (runEntry_matrix rfl (runMprod_plain hc hseg (mprod_rows_pos h) hp)) rfl
  rw [ht, show t = summaryRise s _ from hran]
  refine congrArg (fun z => (.next z : Result)) (summaryRise_same_summary (errSummary_pronkClk (p := k.core) (fun r i n hne => ?_) fun q => ?_))
  · exact mprodRun_rget (k := k) (o := o) hw hne
  · by_cases hq : q = k.core
    · subst hq
      obtain ⟨-, -, hfrec, -⟩ := inProgress_same .me (issuedEntry .mprod (.m o) k s) (mprodRun k o s) ((mprodRun k o s).st.core k.core)
      rw [modCore_core_same]
      exact hfrec.trans (mprodRun_front h hw).frec
    · exact congrArg Core.frec ((modCore_core_other _ _ (Ne.symm hq)).trans (mprodRun_other h hq))

end

/-- Settles O34: a plain product meets no fault, so that its rows are those of the set, and they are in the AB when it starts. -/
theorem mprodRow : Obligations.MprodRow := by
  unfold Obligations.MprodRow
  refine ⟨?_, ?_⟩
  · intro k o s h hs e p c ta tw len row out hc hseg hz hab hcan hv hw h24 ha hown
    have hexec := mprod_leaves h hc hseg hcan.2 (plainProd_atStart h hs e hz hv hw h24 ha hown)
    have hword : ∀ r col, col < 64 → wordOut (plainCtx p e o) (atStart .mprod (.m o) k .me s) r col = out r col :=
      fun r col hcol => wordOut_atStart h e r hcol
    obtain ⟨hsame, -, -, -, hlast⟩ := inProgress_same .me e (mprodRun k o s) ((mprodRun k o s).st.core p)
    obtain ⟨x, hx, hxe, hxs, -, -⟩ := hlast rfl
    have hfront := mprodRun_front h hcan.2
    have hget := fun r col (hcol : col < 64) => abGet_mprodRun (r := r) h hcan.2 hab hcol
    have hother := fun q (hq : q ≠ p) => mprodRun_other h hq
    have hregs := fun r i n hne => mprodRun_rget (k := k) (o := o) (r := r) (i := i) (n := n) hcan.2 hne
    have heq := mprodRun_eq k o s
    have hbit := mprodRun_bit k o s
    generalize mprodRun k o s = y at *
    have hcore : (y.st.modCore p (inProgress .me e y)).core p = inProgress .me e y (y.st.core p) := modCore_core_same _ _ _
    have habs : ((y.st.modCore p (inProgress .me e y)).core p).ab = (y.st.core p).ab := by
      rw [hcore, show inProgress .me e y (y.st.core p) = _ from hsame]
    have hgets : ∀ r col, abGet ((y.st.modCore p (inProgress .me e y)).core p) r col = abGet (y.st.core p) r col := fun r col => by
      unfold abGet
      rw [habs]
    refine ⟨_, hexec, fun r col hr hcol => ?_, fun r col hcol hr => ?_, ⟨x, ?_, hxe, fun i => ?_⟩, ?_, fun q hq => ?_, ?_, hregs⟩
    · rw [hgets, hget _ _ hcol, if_pos ⟨Nat.le_add_right _ _, Nat.add_lt_add_left hr _⟩, Nat.add_sub_cancel_left]
      exact congrArg Prod.fst (hword r col hcol)
    · rw [hgets, hget _ _ hcol, if_neg fun hin => hr.elim (Nat.not_lt.mpr hin.1) (Nat.not_le.mpr hin.2)]
    · rw [hcore]
      exact hx
    · rw [hxs, hbit]
      refine congrArg _ (funext fun r => ?_)
      rw [Bool.eq_iff_iff, List.any_eq_true, List.any_eq_true]
      exact exists_congr fun col => and_congr_right fun hcol => by rw [hword r col (List.mem_range.mp hcol)]
    · rw [habs, hcore]
      exact hfront.trans hsame
    · exact (modCore_core_other _ _ (Ne.symm hq)).trans (hother q hq)
    · conv => lhs; unfold State.modCore State.setCore; rw [heq]
      rfl
  · intro k o s h r hf hu
    have hrun : runMprod k.core (issuedEntry .mprod (.m o) k s) o (atStart .mprod (.m o) k .me s) =
        { st := r.st, sticky := r.sticky, uses := r.uses, csrLast := r.csrLast } := congrArg (fun f => ({ r with fault := f } : RunOut)) hf
    exact ranTo_of h rfl (runEntry_matrix rfl hrun) hu

end Sys2Proof.Machine
